-- ==== Sys2Proof/Word.lean ====
section
/-!
DEFINITION. The words of the Iteno 740 and their plainest arithmetic.
-/

namespace Sys2Proof

/-- One byte of memory. -/
abbrev Byte := BitVec 8
/-- One 32-bit lane word. -/
abbrev W32 := BitVec 32
/-- One 64-bit word. -/
abbrev W64 := BitVec 64
/-- One 96-bit instruction slot (R100). -/
abbrev Slot := BitVec 96

/-- A truth value as a bit. -/
def bit (b : Bool) : Nat := if b then 1 else 0

/-- Bits `[lo + n - 1 : lo]` of a number. -/
def fld (v lo n : Nat) : Nat := v / 2 ^ lo % 2 ^ n

/-- Bit `i` of a number as a truth value. -/
def tb (v i : Nat) : Bool := v / 2 ^ i % 2 == 1

end Sys2Proof
end

