-- ==== Sys2Proof/Config.lean ====
section
/-!
DEFINITION. The free values: constants with no body, so that no proof can see what they are (log 3). Each is applied
to the counter `State.free`, which every step advances, and to what tells apart the values of one step.
-/

namespace Sys2Proof

/-- A number that the spec leaves open. -/
opaque Config.freeNat : Nat → Nat → Nat

/-- A choice that the spec leaves open. -/
opaque Config.freeBit : Nat → Nat → Bool

/-- A 64-bit value that the spec leaves open. -/
opaque Config.freeW64 : Nat → Nat → W64

/-- What a debug event extends measurement register 2 with: level and token digest, whose layout is not stated (R431). -/
opaque Config.debugMeasure : Nat → BitVec 384 → BitVec 384

/-- What the PUF gives at every boot: the private ECDSA P-384 key and the LMS seed of the device identity (R425). -/
opaque Config.pufKey : BitVec 384
opaque Config.pufSeed : BitVec 256

/-- The identity digest that a debug token names, of the device's key (R429). -/
opaque Config.identityDigest : BitVec 384 → BitVec 384

/-- Which of the moves that the machine can make comes next, where the agenda names none (log 4). -/
opaque Config.freePick : Nat → Nat

/-- How many of those choices come before the next turn (R146, log 4). -/
opaque Config.freePatience : Nat → Nat

/-- Cycles of the arithmetic clock that a step takes (log 5). -/
opaque Config.freeCycles : Nat → Nat

/-- Nanoseconds that a step takes (log 5). -/
opaque Config.freeTime : Nat → Nat

end Sys2Proof
end

