-- ==== Sys2Proof/Formats.lean ====
section
/-!
DEFINITION. The field records of the six instruction formats (R108 to R116).
-/

namespace Sys2Proof

/-- A 17-bit source operand field (R116). -/
structure Opnd where
  /-- WT: 1 blocks while the register is empty, 0 traps EMPTY_READ. -/
  wt : BitVec 1
  /-- PAT: the pattern code. -/
  pat : BitVec 3
  /-- Q: the pattern parameter. -/
  q : BitVec 6
  /-- REG: V0 to V127 (S0 to S31 on the MCC, a mask in a mask-valued position). -/
  reg : BitVec 7
  deriving DecidableEq, Repr

/-- The standard format STD (R108), without its opcode. -/
structure Std where
  /-- OP, the sub-operation. -/
  op : BitVec 3
  /-- XTY, the extended-type bit. -/
  xty : BitVec 1
  /-- TY, the type code. -/
  ty : BitVec 4
  /-- DST, the destination (R115). -/
  dst : BitVec 8
  /-- SA. -/
  a : Opnd
  /-- SB. -/
  b : Opnd
  /-- SC. -/
  c : Opnd
  /-- FPC (R63). -/
  fpc : BitVec 9
  /-- XT, the extension. -/
  xt : BitVec 12
  deriving DecidableEq, Repr

/-- The I32 format (R109). -/
structure I32 where
  /-- OP. -/
  op : BitVec 3
  /-- XTY. -/
  xty : BitVec 1
  /-- TY. -/
  ty : BitVec 4
  /-- DST. -/
  dst : BitVec 8
  /-- SA. -/
  a : Opnd
  /-- IMM, the 32-bit immediate. -/
  imm : BitVec 32
  /-- FPC. -/
  fpc : BitVec 9
  /-- XT. -/
  xt : BitVec 12
  deriving DecidableEq, Repr

/-- The MEM format (R110). -/
structure Mem where
  /-- OP. -/
  op : BitVec 3
  /-- XTY. -/
  xty : BitVec 1
  /-- TY. -/
  ty : BitVec 4
  /-- DST. -/
  dst : BitVec 8
  /-- SA, the data operand. -/
  a : Opnd
  /-- GB, the base register. -/
  gb : BitVec 4
  /-- SH, the index shift. -/
  sh : BitVec 3
  /-- IX, the index operand. -/
  ix : Opnd
  /-- OFS, the signed byte offset. -/
  ofs : BitVec 19
  /-- FPC. -/
  fpc : BitVec 9
  /-- ISX: the index is sign-extended. -/
  isx : BitVec 1
  /-- HINT. -/
  hint : BitVec 2
  deriving DecidableEq, Repr

/-- The BR format (R112). -/
structure Br where
  /-- OP. -/
  op : BitVec 3
  /-- LOFS, the signed offset in lines. -/
  lofs : BitVec 22
  /-- TSLOT, the target slot. -/
  tslot : BitVec 3
  /-- COND. -/
  cond : BitVec 4
  /-- CNT, the counter of LOOP. -/
  cnt : BitVec 4
  deriving DecidableEq, Repr

/-- The ENG format (R113). -/
structure Eng where
  /-- OP. -/
  op : BitVec 3
  /-- XTY. -/
  xty : BitVec 1
  /-- TY. -/
  ty : BitVec 4
  /-- DST. -/
  dst : BitVec 8
  /-- SA. -/
  a : Opnd
  /-- SB. -/
  b : Opnd
  /-- SC. -/
  c : Opnd
  /-- NB, the named barrier, 63 for none. -/
  nb : BitVec 6
  /-- XT. -/
  xt : BitVec 12
  deriving DecidableEq, Repr

/-- The SCL format (R114). -/
structure Scl where
  /-- FN, the sub-operation. -/
  fn : BitVec 4
  /-- SD, the destination. -/
  sd : BitVec 5
  /-- S1, the first source. -/
  s1 : BitVec 5
  /-- S2, the second source. -/
  s2 : BitVec 5
  /-- IMM. -/
  imm : BitVec 32
  deriving DecidableEq, Repr

end Sys2Proof
end

