-- ==== Sys2Proof/Messages.lean ====
section
/-!
DEFINITION. What the events of the opcode table bring with them: the messages of other packages, the hosts' accesses
and the choices of the world outside the package.
-/

namespace Sys2Proof

/-- The two host ports (R19). -/
inductive Port where
  | a | b
  deriving DecidableEq, Repr

/-- Where the Hearth takes its next entry from: a queue, or a die's part of the device-side queue. -/
inductive EntrySrc where
  | queue (q : Nat)
  | device (die : Nat)
  | cqsub (die : Nat)
  deriving DecidableEq, Repr

/-- A row of a gather or scatter request, folded (R300, R306). -/
structure GatherRow where
  /-- The requester's number for the row. -/
  key : Nat
  /-- Home die. -/
  die : Nat
  /-- Virtual address of the row at the home. -/
  va : Nat
  /-- The positions of its occurrences, with their pool groups. -/
  pos : List (Nat × Nat)
  /-- What a scatter adds to it. -/
  data : List (BitVec 8)
  deriving DecidableEq, Repr

/-- The rows that one operation asks of one package (R300, R306, R307). -/
structure GatherReq where
  src : Nat
  /-- The requester's number for the operation. -/
  id : Nat
  /-- 0 GATH, 1 GATHP.SUM, 2 GATHP.MAX, 3 SCATA, 4 SCATA.ORD, 5 GPREF. -/
  kind : Nat
  efmt : Nat
  len : Nat
  /-- The handle of an ordered scatter as 4096 * partition + number at the requester, its NSRC, the source core and the
  request sequence (R307). -/
  handle : Nat
  nsrc : Nat
  core : Nat
  seq : Nat
  rows : List GatherRow
  /-- A home has sent it on to the holder of a forwarded page: the rows' addresses are physical (R303). -/
  forwarded : Bool := false
  deriving DecidableEq, Repr

/-- What a home package answers: per row a cause, 0 for done, and its bytes; per pool group and die the part (R300,
R305). -/
structure GatherRep where
  /-- The answering package. -/
  pkg : Nat
  /-- The operation's number at the requester. -/
  id : Nat
  rows : List (Nat × Nat × List (BitVec 8))
  parts : List (Nat × Nat × List Nat)
  deriving DecidableEq, Repr

/-- The close of one source workgroup of an ordered scatter round (R307). -/
structure ScatClose where
  /-- The source package, and its number for the CLOSE. -/
  src : Nat
  id : Nat
  /-- As GatherReq's. -/
  handle : Nat
  nsrc : Nat
  /-- Ordered rows that the source has sent to this package. -/
  rows : Nat
  deriving DecidableEq, Repr

/-- A replica buffer of a routing round (R285): expert, replica, and the fields of its table entry. -/
structure Replica where
  expert : Nat
  replica : Nat
  buf : Nat
  tags : Nat
  bar : Nat
  cap : Nat
  deriving DecidableEq, Repr

/-- A routing row with its tag (R286, R288). -/
structure RowMsg where
  /-- The source package, its workgroup and its group. -/
  src : Nat
  wg : Nat
  tid : Nat := 0
  rid : Nat
  nsrc : Nat
  rowb : Nat
  rep : Replica
  tag : Nat
  data : List (BitVec 8)
  deriving DecidableEq, Repr

/-- The close of one source workgroup of a routing round: per replica its row count (R288). -/
structure RoundClose where
  src : Nat
  wg : Nat
  /-- The group that issued it; none where retirement sends it (R442). -/
  tid : Option Nat := none
  rid : Nat
  nsrc : Nat
  rowb : Nat
  counts : List (Replica × Nat)
  deriving DecidableEq, Repr

/-- What the checks of a trim record or firmware image find (R426, R434): it can be read; its ECDSA P-384 and its LMS signature
verify against Roseg's keys; the digest of the owner's public keys that it names, and whether its signatures verify under those; its
header's fields; its bytes. -/
structure BootCheck where
  readable : Bool
  ecdsa : Bool
  lms : Bool
  ownerEcdsa : Bool
  ownerLms : Bool
  ownerKey : BitVec 384 := 0
  ownerBound : Bool
  rollIndex : Nat
  rollValue : Nat
  version : Nat
  bytes : List (BitVec 8)
  deriving DecidableEq, Repr

/-- A host-port access to device memory, or to the port's recovery window at its BAR 2: the bytes of a write, or the length of
a read (R390, R434). -/
structure HostAcc where
  port : Port
  pa : Nat
  write : Option (List (BitVec 8))
  len : Nat
  recovery : Bool := false
  deriving DecidableEq, Repr

/-- An access at its home package (R276). `op` is the OP of R122 and the type, as OP + 8 * TY + 128 * XTY, with SAT in
bit 8, in bit 9 that all lanes of an ATOMW come in one request, and in bit 10 that the access is made once for a group. An
atomic's data are the operand and then the value compared with, of `size` bytes each. -/
structure RemoteReq where
  src : Nat
  /-- The requester's number for it. -/
  id : Nat
  /-- 0 load, 1 store, 2 atomic, 3 an addition to a barrier object, 4 a BINIT of one, 5 an add of elements of TY `op` to
  a word, with SAT in bit 8, 7 a REDNM add (log 11). -/
  kind : Nat
  op : Nat
  pa : Nat
  size : Nat
  data : List (BitVec 8)
  /-- It has been forwarded once (R283). -/
  forwarded : Bool
  /-- An engine, the Hearth or the Porch makes it, so it may cross domains (R21, R275). -/
  far : Bool := false
  /-- The program timestamp of the group that makes it (R393). -/
  pts : Nat := 0
  deriving DecidableEq, Repr
/-- The home's answer for lanes of a remote access: lane and the bytes a load or atomic returns (R276). -/
structure RemoteRep where
  tid : Nat
  ck : Nat
  lanes : List (Nat × List (BitVec 8))
  /-- Lanes that the home could not perform: the class, ADDRESS_HOLE or POISON (R216, R419). -/
  bad : List (Nat × Nat)
  /-- The timestamp of the access (R393). -/
  ts : Nat := 0
  deriving DecidableEq, Repr

/-- A flit as it reaches this package: the inbound lane, its header, and whether its tag authenticates it under the key
bank that it names (R280). What its payload carries comes with events of its own (log 45). -/
structure Flit where
  lane : Nat
  header : BitVec 128
  tag : Bool
  deriving DecidableEq, Repr

/-- The end of an NVMe Read: the partition, its status, 0 for success, and the page (R413). -/
structure PageinRes where
  part : Nat
  status : Nat
  data : List (BitVec 8)
  deriving DecidableEq, Repr

/-- What the boot ROM finds after a reset: the trim record, the flash image, the LPDDR-6 capacity in GiB, and the devices
behind the pool and host windows (R216, R434). -/
structure BootIn where
  trim : BootCheck
  image : BootCheck
  lpGib : Nat
  pool : Bool
  hostA : Bool
  hostB : Bool
  deriving DecidableEq, Repr

/-- A lifecycle request: the new state, 0 MANUFACTURE to 3 SPENT, the owner digests it installs, the digest of the signer's public
keys, and whether its ECDSA P-384 and its LMS signature verify under them (R426 to R428). -/
structure LifeReq where
  goal : Nat
  owners : List (BitVec 384)
  key : BitVec 384 := 0
  ecdsa : Bool
  lms : Bool
  deriving DecidableEq, Repr

/-- A debug token: what it names, its digest, the digest of the signer's public keys, and whether its ECDSA P-384 and its LMS
signature verify under them (R426, R429). -/
structure DebugToken where
  identity : BitVec 384
  level : Nat
  nonce : Nat
  lifecycle : Nat
  digest : BitVec 384
  key : BitVec 384
  ecdsa : Bool
  lms : Bool
  deriving DecidableEq, Repr

/-- A request for a debug session: its level, and the token that it brings (R429, R430). -/
structure DebugReq where
  level : Nat
  token : Option DebugToken := none
  deriving DecidableEq, Repr

/-- Where a soft error strikes (R419, R423). -/
inductive ErrAt where
  /-- HBM, L2 or LPDDR-6: a physical address of the package, with the code of R423. -/
  | mem (loc pa : Nat)
  /-- The scratchpad of a workgroup, at a byte offset. -/
  | scratch (wg o : Nat)
  /-- A parlour. -/
  | parlour (unit_ o : Nat)
  /-- The attic range of a workgroup. -/
  | attic (wg o : Nat)
  /-- The lane slice or the stack of a lane of a group. -/
  | slice (tid lane o : Nat)
  | stack (tid lane o : Nat)
  /-- The Pantry of a die, in all three stacks. -/
  | pantry (die o : Nat)
  /-- The staged image of a die's Pantry. -/
  | staged (die o : Nat)
  /-- A register of a core. -/
  | regs (die core : Nat)
  deriving DecidableEq, Repr

/-- A soft error (R419). -/
structure SoftErr where
  at_ : ErrAt
  corrected : Bool
  deriving DecidableEq, Repr


/-- A message that leaves the package over Fenade. -/
inductive OutMsg where
  /-- A remote access: of a group's lane (R276), or an element access of an engine (R21). -/
  | access (pkg : Nat) (req : RemoteReq)
  /-- The answer of a home to another package's access, an atomic one or not (R276). -/
  | reply (pkg id : Nat) (data : List (BitVec 8)) (ts home : Nat) (atomic : Bool)
  /-- A home's answer to a request that could not be performed, with the class and SUB of the trap (R216, R283, R419). -/
  | failed (pkg id cls sub home : Nat)
  /-- Rows that a gather or scatter asks of another package (R300). -/
  | rows (pkg : Nat) (req : GatherReq)
  /-- The answer to such a request (R300). -/
  | rowsDone (pkg : Nat) (rep : GatherRep)
  /-- The close of an ordered scatter round (R307). -/
  | scatClose (pkg : Nat) (msg : ScatClose)
  /-- A routing row (R288). -/
  | row (pkg : Nat) (msg : RowMsg)
  /-- The close of a routing round (R288). -/
  | close (pkg : Nat) (msg : RoundClose)
  /-- Key control: an SPDM message of a package's to a peer (R282, R432). -/
  | keys (pkg src : Nat)
  deriving DecidableEq, Repr

/-- A message that this package is to pass on to another package of its domain (R275). -/
structure RelayMsg where
  msg : OutMsg
  deriving DecidableEq, Repr

end Sys2Proof
end

