-- ==== Sys2Proof/Syntax.lean ====
section
/-!
DEFINITION. Every instruction and every event of the opcode table: one constructor per row. An encoded instruction
carries the field record of its format. An event of one of the device's own agents carries what the event brings;
no word encodes an event.
-/

namespace Sys2Proof

/-- The rows of the opcode table. -/
inductive Instr where
  /-- NOP (R154). -/
  | nop (f : Std)
  /-- BR (R151). -/
  | br (f : Br)
  /-- BRC (R151). -/
  | brc (f : Br)
  /-- BRM (R151). -/
  | brm (f : Br)
  /-- BRM_EM (R151). -/
  | brmEm (f : Br)
  /-- CALL (R152). -/
  | call (f : Br)
  /-- RET (R152). -/
  | ret (f : Std)
  /-- LOOP (R153). -/
  | loop (f : Br)
  /-- EXIT (R440). -/
  | exit (f : Std)
  /-- YIELD (R154). -/
  | yield (f : Std)
  /-- TRAP (R155). -/
  | trap (f : Std)
  /-- SVC (R155). -/
  | svc (f : Std)
  /-- SRET (R408). -/
  | sret (f : Std)
  /-- RDSR (R157). -/
  | rdsr (f : Std)
  /-- WRSR (R157). -/
  | wrsr (f : Std)
  /-- LAUNCH (R160). -/
  | launch (f : Eng)
  /-- ALLOC_FULL (R163). -/
  | allocFull (f : Std)
  /-- ALLOC_REXT (R164). -/
  | allocRext (f : Std)
  /-- ALLOC_RREL (R164). -/
  | allocRrel (f : Std)
  /-- IADD (R167). -/
  | iadd (f : Std)
  /-- ISUB (R167). -/
  | isub (f : Std)
  /-- IMUL (R167). -/
  | imul (f : Std)
  /-- IMULH (R167). -/
  | imulh (f : Std)
  /-- IMAD (R167). -/
  | imad (f : Std)
  /-- IMADW (R170). -/
  | imadw (f : Std)
  /-- IDIV (R168). -/
  | idiv (f : Std)
  /-- IREM (R168). -/
  | irem (f : Std)
  /-- IMIN (R167). -/
  | imin (f : Std)
  /-- IMAX (R167). -/
  | imax (f : Std)
  /-- IABS (R167). -/
  | iabs (f : Std)
  /-- INEG (R167). -/
  | ineg (f : Std)
  /-- AND (R167). -/
  | and (f : Std)
  /-- OR (R167). -/
  | or (f : Std)
  /-- XOR (R167). -/
  | xor (f : Std)
  /-- ANDN (R167). -/
  | andn (f : Std)
  /-- SHL (R167). -/
  | shl (f : Std)
  /-- SHR (R167). -/
  | shr (f : Std)
  /-- SAR (R167). -/
  | sar (f : Std)
  /-- ROT (R167). -/
  | rot (f : Std)
  /-- POPC (R167). -/
  | popc (f : Std)
  /-- CLZ (R167). -/
  | clz (f : Std)
  /-- BREV (R167). -/
  | brev (f : Std)
  /-- BFX (R169). -/
  | bfx (f : Std)
  /-- BFI (R169). -/
  | bfi (f : Std)
  /-- ICMP (R171). -/
  | icmp (f : Std)
  /-- SEL (R171). -/
  | sel (f : Std)
  /-- MOV (R172). -/
  | mov (f : Std)
  /-- MOVI (R172). -/
  | movi (f : I32)
  /-- LEA (R173). -/
  | lea (f : Mem)
  /-- WIDX (R174). -/
  | widx (f : Std)
  /-- IADDS (R167). -/
  | iadds (f : Std)
  /-- MSET (R182). -/
  | mset (f : Std)
  /-- MLOG (R182). -/
  | mlog (f : Std)
  /-- MIF (R138). -/
  | mif (f : Std)
  /-- MELSE (R138). -/
  | melse (f : Std)
  /-- MEND (R138). -/
  | mend (f : Std)
  /-- MSAVE (R183). -/
  | msave (f : Std)
  /-- MLOAD (R183). -/
  | mload (f : Std)
  /-- MSTAT (R182). -/
  | mstat (f : Std)
  /-- MPOPC (R182). -/
  | mpopc (f : Std)
  /-- MFIRST (R182). -/
  | mfirst (f : Std)
  /-- BALLOT (R185). -/
  | ballot (f : Std)
  /-- BCNT (R185). -/
  | bcnt (f : Std)
  /-- RSEL (R190). -/
  | rsel (f : Std)
  /-- RSEL_TIE (R190). -/
  | rselTie (f : Std)
  /-- VSHFL (R186). -/
  | vshfl (f : Std)
  /-- VRED (R187). -/
  | vred (f : Std)
  /-- VSCAN (R188). -/
  | vscan (f : Std)
  /-- FADD (R192). -/
  | fadd (f : Std)
  /-- FSUB (R192). -/
  | fsub (f : Std)
  /-- FMUL (R192). -/
  | fmul (f : Std)
  /-- FFMA (R192). -/
  | ffma (f : Std)
  /-- FFMS (R192). -/
  | ffms (f : Std)
  /-- FMIN (R193). -/
  | fmin (f : Std)
  /-- FMAX (R193). -/
  | fmax (f : Std)
  /-- FMINM (R193). -/
  | fminm (f : Std)
  /-- FMAXM (R193). -/
  | fmaxm (f : Std)
  /-- FSGN (R192). -/
  | fsgn (f : Std)
  /-- FCMP (R194). -/
  | fcmp (f : Std)
  /-- FCLASS (R195). -/
  | fclass (f : Std)
  /-- FDIV (R192). -/
  | fdiv (f : Std)
  /-- FSQRT (R192). -/
  | fsqrt (f : Std)
  /-- FRCP (R192). -/
  | frcp (f : Std)
  /-- FRSQ (R192). -/
  | frsq (f : Std)
  /-- FEXP2 (R192). -/
  | fexp2 (f : Std)
  /-- FLOG2 (R192). -/
  | flog2 (f : Std)
  /-- FRND (R192). -/
  | frnd (f : Std)
  /-- FSCALE (R192). -/
  | fscale (f : Std)
  /-- FDOT (R199). -/
  | fdot (f : Std)
  /-- FDP2 (R197). -/
  | fdp2 (f : Std)
  /-- FDP4 (R197). -/
  | fdp4 (f : Std)
  /-- HADD2 (R197). -/
  | hadd2 (f : Std)
  /-- HMUL2 (R197). -/
  | hmul2 (f : Std)
  /-- HFMA2 (R197). -/
  | hfma2 (f : Std)
  /-- HMIN2 (R197). -/
  | hmin2 (f : Std)
  /-- HMAX2 (R197). -/
  | hmax2 (f : Std)
  /-- FGETX (R195). -/
  | fgetx (f : Std)
  /-- CVT (R200). -/
  | cvt (f : Std)
  /-- CVTI (R200). -/
  | cvti (f : Std)
  /-- CVTF (R200). -/
  | cvtf (f : Std)
  /-- CVTT (R200). -/
  | cvtt (f : Std)
  /-- PACK (R201). -/
  | pack (f : Std)
  /-- UNPACK (R201). -/
  | unpack (f : Std)
  /-- BFPK (R202). -/
  | bfpk (f : Std)
  /-- BFUN (R202). -/
  | bfun (f : Std)
  /-- MXPK (R203). -/
  | mxpk (f : Std)
  /-- MXUN (R203). -/
  | mxun (f : Std)
  /-- PLANE (R204). -/
  | plane (f : Std)
  /-- UNPLANE (R204). -/
  | unplane (f : Std)
  /-- SETFMT (R205). -/
  | setfmt (f : Std)
  /-- GETFMT (R205). -/
  | getfmt (f : Std)
  /-- FSTAT (R205). -/
  | fstat (f : Std)
  /-- SETFPM (R205). -/
  | setfpm (f : Std)
  /-- LD (R227). -/
  | ld (f : Mem)
  /-- ST (R228). -/
  | st (f : Mem)
  /-- LDU (R229). -/
  | ldu (f : Mem)
  /-- STU (R229). -/
  | stu (f : Mem)
  /-- PREF (R231). -/
  | pref (f : Mem)
  /-- SPAGE_PIN (R232). -/
  | spagePin (f : Eng)
  /-- SPAGE_UNPIN (R232). -/
  | spageUnpin (f : Eng)
  /-- SPAGE_QUERY (R232). -/
  | spageQuery (f : Eng)
  /-- LDNT (R230). -/
  | ldnt (f : Mem)
  /-- STNT (R230). -/
  | stnt (f : Mem)
  /-- CPY (R237). -/
  | cpy (f : Eng)
  /-- CPY2D (R237). -/
  | cpy2d (f : Eng)
  /-- CPYPL (R238). -/
  | cpypl (f : Eng)
  /-- CPEAT (R240). -/
  | cpeat (f : Eng)
  /-- CPACK (R241). -/
  | cpack (f : Eng)
  /-- PSEL (R242). -/
  | psel (f : Eng)
  /-- CPFILL (R237). -/
  | cpfill (f : Eng)
  /-- ERESUME (R244). -/
  | eresume (f : Eng)
  /-- ERESUME_ABORT (R244). -/
  | eresumeAbort (f : Eng)
  /-- BINIT (R374). -/
  | binit (f : Eng)
  /-- BARR (R374). -/
  | barr (f : Eng)
  /-- BEXP (R374). -/
  | bexp (f : Eng)
  /-- WAITPH (R375). -/
  | waitph (f : Eng)
  /-- TESTPH (R375). -/
  | testph (f : Eng)
  /-- GRIDBAR (R377). -/
  | gridbar (f : Std)
  /-- ATOM (R383). -/
  | atom (f : Mem)
  /-- ATOMF (R384). -/
  | atomf (f : Mem)
  /-- RED (R383). -/
  | red (f : Mem)
  /-- REDNM (R386). -/
  | rednm (f : Mem)
  /-- NMFENCE (R387). -/
  | nmfence (f : Std)
  /-- DWACQ (R380). -/
  | dwacq (f : Eng)
  /-- DWREL (R380). -/
  | dwrel (f : Eng)
  /-- ATOMW (R383). -/
  | atomw (f : Mem)
  /-- ATOMQ (R383). -/
  | atomq (f : Mem)
  /-- FENCE (R388). -/
  | fence (f : Std)
  /-- MMA (R261). -/
  | mma (f : Eng)
  /-- MMAS (R261). -/
  | mmas (f : Eng)
  /-- MZERO (R262). -/
  | mzero (f : Eng)
  /-- MLDACC (R262). -/
  | mldacc (f : Eng)
  /-- MSTACC (R262). -/
  | mstacc (f : Eng)
  /-- MSCALE (R263). -/
  | mscale (f : Eng)
  /-- MQRY (R264). -/
  | mqry (f : Eng)
  /-- ACCRD (R268). -/
  | accrd (f : Eng)
  /-- ACCWR (R268). -/
  | accwr (f : Eng)
  /-- ACCACQ (R257). -/
  | accacq (f : Eng)
  /-- ACCREL (R257). -/
  | accrel (f : Eng)
  /-- GATH (R300). -/
  | gath (f : Eng)
  /-- GATHP (R304). -/
  | gathp (f : Eng)
  /-- SCATA (R306). -/
  | scata (f : Eng)
  /-- SCATA_CLOSE (R307). -/
  | scataClose (f : Eng)
  /-- GPREF (R308). -/
  | gpref (f : Eng)
  /-- THDL (R296). -/
  | thdl (f : Eng)
  /-- GSTAT (R309). -/
  | gstat (f : Eng)
  /-- SHCNT (R311). -/
  | shcnt (f : Eng)
  /-- DTREE (R320). -/
  | dtree (f : Eng)
  /-- DESC (R322). -/
  | desc (f : Eng)
  /-- DREGR (R329). -/
  | dregr (f : Eng)
  /-- DGRAD (R330). -/
  | dgrad (f : Eng)
  /-- DPATH_READ (R331). -/
  | dpathRead (f : Eng)
  /-- DPATH_WRITE (R331). -/
  | dpathWrite (f : Eng)
  /-- DSTAT (R332). -/
  | dstat (f : Eng)
  /-- TQL (R341). -/
  | tql (f : Eng)
  /-- TQL2 (R342). -/
  | tql2 (f : Eng)
  /-- TQMUL (R343). -/
  | tqmul (f : Eng)
  /-- TQCMT (R344). -/
  | tqcmt (f : Eng)
  /-- CQSUB (R362). -/
  | cqsub (f : Eng)
  /-- CQSTAT (R363). -/
  | cqstat (f : Eng)
  /-- RJOIN (R288). -/
  | rjoin (f : Eng)
  /-- RSEND (R288). -/
  | rsend (f : Eng)
  /-- RCLOSE (R288). -/
  | rclose (f : Eng)
  /-- RCNT (R288). -/
  | rcnt (f : Eng)
  /-- DMARK (R289). -/
  | dmark (f : Eng)
  /-- WLSET (R289). -/
  | wlset (f : Eng)
  /-- LSTAT (R289). -/
  | lstat (f : Eng)
  /-- SALU (R177). -/
  | salu (f : Scl)
  /-- SALUI (R177). -/
  | salui (f : Scl)
  /-- SCMP (R178). -/
  | scmp (f : Scl)
  /-- SLI (R177). -/
  | sli (f : Scl)
  /-- SLD (R179). -/
  | sld (f : Scl)
  /-- SST (R179). -/
  | sst (f : Scl)
  /-- SRDSR (R177). -/
  | srdsr (f : Scl)
  /-- CLDC (R355). -/
  | cldc (f : Eng)
  /-- CSTC (R355). -/
  | cstc (f : Eng)
  /-- CROW (R354). -/
  | crow (f : Eng)
  /-- CRED (R355). -/
  | cred (f : Eng)
  /-- CEND (R356). -/
  | cend (f : Std)
  /-- Event ALLOC_FULL_GRANT (R163). -/
  | allocFullGrant (wg : Nat)
  /-- Event REXT_GRANT (R164). -/
  | rextGrant (core : Nat)
  /-- Event SCRATCHPAD_PAGE_REFILL (R213). -/
  | scratchpadPageRefill (wg page : Nat)
  /-- Event COPY_COMPLETE (R233). -/
  | copyComplete (core ticket : Nat)
  /-- Event COPY_SUSPEND (R243). -/
  | copySuspend (core ticket : Nat)
  /-- Event WAITPH_WAKE (R375). -/
  | waitphWake (tid : Nat)
  /-- Event WAITPH_TIMEOUT (R375). -/
  | waitphTimeout (tid : Nat)
  /-- Event DWACQ_WAKE (R380). -/
  | dwacqWake (tid : Nat)
  /-- Event REDNM_APPLY (R386). -/
  | rednmApply (add : Nat)
  /-- Event UNIT_OP_START (R256). -/
  | unitOpStart (core : Nat)
  /-- Event UNIT_OP_COMPLETE (R255). -/
  | unitOpComplete (core : Nat)
  /-- Event ACC_TOKEN_GRANT (R257). -/
  | accTokenGrant (wg tile : Nat)
  /-- Event GATHER_ROW_SERVICE (R365). -/
  | gatherRowService (work : Nat)
  /-- Event GATHER_COMPLETE (R299). -/
  | gatherComplete (core ticket : Nat)
  /-- Event SCATTER_ADD_APPLY (R306). -/
  | scatterAddApply (work : Nat)
  /-- Event DESC_COMPLETE (R323). -/
  | descComplete (core ticket : Nat)
  /-- Event DESC_SUSPEND (R327). -/
  | descSuspend (core ticket : Nat)
  /-- Event DGRAD_COMPLETE (R330). -/
  | dgradComplete (core ticket : Nat)
  /-- Event QUERY_COMPLETE (R340). -/
  | queryComplete (tid pid : Nat)
  /-- Event POSTED_STORE_DRAIN (R399). -/
  | postedStoreDrain (tid : Nat)
  /-- Event INSTANCE_START (R360). -/
  | instanceStart (cunit : Nat)
  /-- Event BANK_RESERVATION_EXPIRY (R358). -/
  | bankReservationExpiry (cunit : Nat)
  /-- Event CELLAR_COMMAND_AGED (R358). -/
  | cellarCommandAged (cunit : Nat)
  /-- Event QUEUE_SLOT_GRANT (R76). -/
  | queueSlotGrant (slot : Nat)
  /-- Event AGE_INTERVAL_EXPIRY (R76). -/
  | ageIntervalExpiry (q : Nat)
  /-- Event QUANTUM_EXPIRY (R76). -/
  | quantumExpiry (q : Nat)
  /-- Event LAUNCH_ADMISSION (R78). -/
  | launchAdmission (src : EntrySrc)
  /-- Event WAIT_ENTRY (R73). -/
  | waitEntry (src : EntrySrc)
  /-- Event WAIT_ENTRY_PASS (R73). -/
  | waitEntryPass (q : Nat)
  /-- Event COPY_COMMAND (R75). -/
  | copyCommand (q : Nat)
  /-- Event COPY_COMMAND_COMPLETE (R75). -/
  | copyCommandComplete (cmd : Nat)
  /-- Event CELLAR_TASK_READ (R360). -/
  | cellarTaskRead (src : EntrySrc)
  /-- Event WORK_REQUEST (R91). -/
  | workRequest (die cluster : Nat)
  /-- Event WORKGROUP_DISPATCH (R86). -/
  | workgroupDispatch (die : Nat)
  /-- Event DAMPER_EXCHANGE (R94). -/
  | damperExchange (part : Nat)
  /-- Event SPLIT_CHANGE (R98). -/
  | splitChange (core : Nat)
  /-- Event WORKGROUP_RETIRE (R442). -/
  | workgroupRetire (wg : Nat)
  /-- Event LAUNCH_COMPLETE (R444). -/
  | launchComplete (launch : Nat)
  /-- Event PAGE_WALK_COMPLETE (R220). -/
  | pageWalkComplete (part page : Nat)
  /-- Event LINE_FETCH (R105). -/
  | lineFetch (tid : Nat) (away : BitVec 512)
  /-- Event LOAD_COMPLETE (R139). -/
  | loadComplete (tid pid : Nat)
  /-- Event DEMOTION_START (R222). -/
  | demotionStart (tier freeSpace : Nat)
  /-- Event DEMOTION_PAGE_MOVE (R223). -/
  | demotionPageMove (tier : Nat) (dest : Nat)
  /-- Event HTLBI_COMPLETE (R224). -/
  | htlbiComplete (part : Nat)
  /-- Event REMOTE_FAIL (R278). -/
  | remoteFail (tid ck : Nat) (sub : Nat) (lanes : List Nat)
  /-- Event PREEMPT_SAVE_COMPLETE (R416). -/
  | preemptSaveComplete
  /-- Event ATOMIC_COMPLETE (R382). -/
  | atomicComplete (tid pid : Nat)
  /-- Event REDNM_DROP (R386). -/
  | rednmDrop (add : Nat)
  /-- Event GATHER_REQUEST_RECEIVE (R300). -/
  | gatherRequestReceive (req : GatherReq)
  /-- Event GATHER_REPLY (R300). -/
  | gatherReply (rep : GatherRep)
  /-- Event GATHER_POSITION_TIMEOUT (R302). -/
  | gatherPositionTimeout (core ticket pkg die : Nat)
  /-- Event SCATTER_CLOSE_ARRIVE (R307). -/
  | scatterCloseArrive (msg : ScatClose)
  /-- Event ROUTING_ROW_ARRIVE (R286). -/
  | routingRowArrive (msg : RowMsg)
  /-- Event ROUND_CLOSE_ARRIVE (R286). -/
  | roundCloseArrive (msg : RoundClose)
  /-- Event QUEUE_ENABLE (R68). -/
  | queueEnable (q : Nat)
  /-- Event QUEUE_DISABLE (R68). -/
  | queueDisable (q : Nat)
  /-- Event QWIDX_WRITE (R68). -/
  | qwidxWrite (q : Nat) (v : BitVec 64)
  /-- Event LATCH_ACQUIRE (R82). -/
  | latchAcquire (n : Nat) (port : Port)
  /-- Event LATCH_RELEASE (R82). -/
  | latchRelease (n : Nat) (port : Port)
  /-- Event LATCH_BREAK (R82). -/
  | latchBreak (n : Nat) (port : Port)
  /-- Event LATCH_INVALID_COMMAND (R82). -/
  | latchInvalidCommand (n : Nat) (port : Port) (cmd : BitVec 8)
  /-- Event HPART_WRITE (R85). -/
  | hpartWrite (v : BitVec 64)
  /-- Event HPTR_WRITE (R224). -/
  | hptrWrite (part : Nat) (v : BitVec 64)
  /-- Event HSBK_WRITE (R224). -/
  | hsbkWrite (part : Nat) (v : BitVec 64)
  /-- Event HTLBI_PAGE (R224). -/
  | htlbiPage (part : Nat) (v : BitVec 64)
  /-- Event HTLBI_ALL (R224). -/
  | htlbiAll (part : Nat)
  /-- Event HFWI_WRITE (R279). -/
  | hfwiWrite
  /-- Event HREKEY_GO (R282). -/
  | hrekeyGo (peer : BitVec 17)
  /-- Event HPRE_GO (R416). -/
  | hpreGo (part slot : Nat)
  /-- Event HPRE_RESUME (R417). -/
  | hpreResume (slot part : Nat)
  /-- Event HKILL_GO (R418). -/
  | hkillGo (part : Nat)
  /-- Event HCABT_WRITE (R364). -/
  | hcabtWrite (v : BitVec 64)
  /-- Event HASHR_WRITE (R421). -/
  | hashrWrite (v : BitVec 64)
  /-- Event MSIX_DEFERRED_SEND (R421). -/
  | msixDeferredSend (port : Port) (vec : Nat)
  /-- Event POWER_ON_REQUEST (R437). -/
  | powerOnRequest
  /-- Event POWER_IDLE_REQUEST (R438). -/
  | powerIdleRequest
  /-- Event POWER_HOLD_REQUEST (R438). -/
  | powerHoldRequest
  /-- Event HRCV_GO (R436). -/
  | hrcvGo (port : Port) (v : BitVec 64)
  /-- Event RECOVERY_CHECK_DONE (R436). -/
  | recoveryCheckDone (verdict : BootCheck)
  /-- Event REGISTER_WRITE (R67). -/
  | registerWrite (off : Nat) (v : BitVec 64) (port : Port)
  /-- Event HOST_MEMORY_ACCESS (R390). -/
  | hostMemoryAccess (acc : HostAcc)
  /-- Event ACCESS_COUNT_DECAY (R223). -/
  | accessCountDecay
  /-- Event PTS_ADVANCE (R393). -/
  | ptsAdvance (core : Nat)
  /-- Event REMOTE_REQUEST_SERVE (R276). -/
  | remoteRequestServe (req : RemoteReq)
  /-- Event REMOTE_REPLY (R276). -/
  | remoteReply (rep : RemoteRep)
  /-- Event RELAY_FORWARD (R275). -/
  | relayForward (msg : RelayMsg)
  /-- Event FLIT_RECEIVE (R281). -/
  | flitReceive (flit : Flit)
  /-- Event FLIT_ACK (R281). -/
  | flitAck (lane : Nat) (seq : BitVec 32)
  /-- Event REKEY_SEQ_TRIGGER (R282). -/
  | rekeySeqTrigger (lane : Nat)
  /-- Event KEY_BANK_SWITCH (R282). -/
  | keyBankSwitch (peer : BitVec 17)
  /-- Event LANE_DRAINED (R289). -/
  | laneDrained (lane : Nat)
  /-- Event LANE_RELOCK (R289). -/
  | laneRelock (lane : Nat) (peer : BitVec 17)
  /-- Event RELOCK_TIMEOUT (R274). -/
  | relockTimeout (lane : Nat)
  /-- Event DIE_LOST (R420). -/
  | dieLost (die : Nat)
  /-- Event PAGEIN_REQUEST (R413). -/
  | pageinRequest (part : Nat)
  /-- Event PAGEIN_COMPLETE (R413). -/
  | pageinComplete (res : PageinRes)
  /-- Event THERMTRIP (R439). -/
  | thermtrip
  /-- Event POWER_LOSS (R438). -/
  | powerLoss
  /-- Event DEVICE_RESET (R434). -/
  | deviceReset (boot : BootIn)
  /-- Event LIFECYCLE_REQUEST (R428). -/
  | lifecycleRequest (req : LifeReq)
  /-- Event DEBUG_SESSION_ENTER (R430). -/
  | debugSessionEnter (req : DebugReq)
  /-- Event DEBUG_SESSION_END (R429). -/
  | debugSessionEnd (port : Port) (meas : BitVec 384)
  /-- Event ATTESTATION_REQUEST (R426). -/
  | attestationRequest (port : Port)
  /-- Event SIGNED_UPDATE_REQUEST (R434). -/
  | signedUpdateRequest (port : Port) (verified : Bool × Bool) (image : List (BitVec 8))
  /-- Event SOFT_ERROR (R419). -/
  | softError (err : SoftErr)
  /-- Event HOST_LINK_DOWN (R82). -/
  | hostLinkDown (port : Port) (down : Bool)
  deriving DecidableEq, Repr

end Sys2Proof
end

