-- ==== Sys2Proof/Decode.lean ====
section
/-!
DEFINITION. Decoding a 96-bit slot into an instruction, the static legality of each instruction's fields
(R108 to R127), and the encoder.
-/

namespace Sys2Proof

/-- The three executors that run encoded instructions (R124). -/
inductive Side where
  /-- The wide side: copy, vector and ANY groups. -/
  | wide
  /-- The matrix control core: matrix groups. -/
  | mcc
  /-- A Cellar unit. -/
  | cellar
  deriving DecidableEq, Repr

/-- Why a slot is refused before it executes, in the order of R127. -/
inductive DecodeErr where
  /-- ILLEGAL/OPC (check 4). -/
  | opc
  /-- ILLEGAL/RSV (check 6). -/
  | rsv
  /-- ILLEGAL/PATTERN (check 7). -/
  | pattern
  deriving DecidableEq, Repr

/-- Role classes of R125 and the supervisor instructions of R126. -/
inductive RoleClass where
  | every | arith | copyOnly | vectorOnly | supervisor
  deriving DecidableEq, Repr

/-! ### Field extraction -/

/-- The field of `n` bits at bit `lo`. -/
abbrev fieldOf {k : Nat} (w : BitVec k) (lo n : Nat) : BitVec n := w.extractLsb' lo n

/-- The major opcode, bits [95:88]. -/
def opcOf (w : Slot) : BitVec 8 := fieldOf w 88 8

/-- Reads an operand field (R116). -/
def Opnd.ofBits (x : BitVec 17) : Opnd :=
  { wt := fieldOf x 16 1, pat := fieldOf x 13 3, q := fieldOf x 7 6, reg := fieldOf x 0 7 }

/-- Writes an operand field (R116). -/
def Opnd.toBits (o : Opnd) : BitVec 17 := o.wt ++ o.pat ++ o.q ++ o.reg

/-- Reads a slot as STD (R108). -/
def Std.ofSlot (w : Slot) : Std :=
  { op := fieldOf w 85 3, xty := fieldOf w 84 1, ty := fieldOf w 80 4, dst := fieldOf w 72 8
    a := .ofBits (fieldOf w 55 17), b := .ofBits (fieldOf w 38 17), c := .ofBits (fieldOf w 21 17)
    fpc := fieldOf w 12 9, xt := fieldOf w 0 12 }

/-- Writes STD (R108). -/
def Std.toSlot (f : Std) (opc : BitVec 8) : Slot :=
  opc ++ f.op ++ f.xty ++ f.ty ++ f.dst ++ f.a.toBits ++ f.b.toBits ++ f.c.toBits ++ f.fpc ++ f.xt

/-- Reads a slot as I32 (R109). -/
def I32.ofSlot (w : Slot) : I32 :=
  { op := fieldOf w 85 3, xty := fieldOf w 84 1, ty := fieldOf w 80 4, dst := fieldOf w 72 8
    a := .ofBits (fieldOf w 55 17), imm := fieldOf w 23 32, fpc := fieldOf w 12 9, xt := fieldOf w 0 12 }

/-- Writes I32 (R109). -/
def I32.toSlot (f : I32) (opc : BitVec 8) : Slot :=
  opc ++ f.op ++ f.xty ++ f.ty ++ f.dst ++ f.a.toBits ++ f.imm ++ 0#2 ++ f.fpc ++ f.xt

/-- Reads a slot as MEM (R110). -/
def Mem.ofSlot (w : Slot) : Mem :=
  { op := fieldOf w 85 3, xty := fieldOf w 84 1, ty := fieldOf w 80 4, dst := fieldOf w 72 8
    a := .ofBits (fieldOf w 55 17), gb := fieldOf w 51 4, sh := fieldOf w 48 3
    ix := .ofBits (fieldOf w 31 17), ofs := fieldOf w 12 19, fpc := fieldOf w 3 9
    isx := fieldOf w 2 1, hint := fieldOf w 0 2 }

/-- Writes MEM (R110). -/
def Mem.toSlot (f : Mem) (opc : BitVec 8) : Slot :=
  opc ++ f.op ++ f.xty ++ f.ty ++ f.dst ++ f.a.toBits ++ f.gb ++ f.sh ++ f.ix.toBits ++ f.ofs ++ f.fpc ++ f.isx
    ++ f.hint

/-- Reads a slot as BR (R112). -/
def Br.ofSlot (w : Slot) : Br :=
  { op := fieldOf w 85 3, lofs := fieldOf w 58 22, tslot := fieldOf w 55 3, cond := fieldOf w 51 4
    cnt := fieldOf w 47 4 }

/-- Writes BR (R112). -/
def Br.toSlot (f : Br) (opc : BitVec 8) : Slot :=
  opc ++ f.op ++ 0#5 ++ f.lofs ++ f.tslot ++ f.cond ++ f.cnt ++ 0#47

/-- Reads a slot as ENG (R113). -/
def Eng.ofSlot (w : Slot) : Eng :=
  { op := fieldOf w 85 3, xty := fieldOf w 84 1, ty := fieldOf w 80 4, dst := fieldOf w 72 8
    a := .ofBits (fieldOf w 55 17), b := .ofBits (fieldOf w 38 17), c := .ofBits (fieldOf w 21 17)
    nb := fieldOf w 15 6, xt := fieldOf w 0 12 }

/-- Writes ENG (R113). -/
def Eng.toSlot (f : Eng) (opc : BitVec 8) : Slot :=
  opc ++ f.op ++ f.xty ++ f.ty ++ f.dst ++ f.a.toBits ++ f.b.toBits ++ f.c.toBits ++ f.nb ++ 0#3 ++ f.xt

/-- Reads a slot as SCL (R114). -/
def Scl.ofSlot (w : Slot) : Scl :=
  { fn := fieldOf w 84 4, sd := fieldOf w 75 5, s1 := fieldOf w 70 5, s2 := fieldOf w 65 5, imm := fieldOf w 33 32 }

/-- Writes SCL (R114). -/
def Scl.toSlot (f : Scl) (opc : BitVec 8) : Slot :=
  opc ++ f.fn ++ 0#4 ++ f.sd ++ f.s1 ++ f.s2 ++ f.imm ++ 0#33

/-! ### The fields common to the formats -/

/-- The operand field with every bit zero. -/
def Opnd.zero : Opnd := { wt := 0, pat := 0, q := 0, reg := 0 }

/-- The fields that the legality rules speak of. A format without a field has it as an unused one is encoded:
zero, and 63 for NB (R118). -/
structure Fields where
  op : Nat := 0
  xty : Nat := 0
  ty : Nat := 0
  dst : Nat := 0
  a : Opnd := .zero
  b : Opnd := .zero
  c : Opnd := .zero
  fpc : BitVec 9 := 0
  xt : Nat := 0
  nb : Nat := 63
  hint : Nat := 0
  /-- COND of BR. -/
  cond : Nat := 0
  /-- CNT of BR. -/
  cnt : Nat := 0
  /-- TSLOT of BR. -/
  tslot : Nat := 0
  /-- The fields of SCL. -/
  scl : Option Scl := none

def Std.fields (f : Std) : Fields :=
  { op := f.op.toNat, xty := f.xty.toNat, ty := f.ty.toNat, dst := f.dst.toNat, a := f.a, b := f.b, c := f.c
    fpc := f.fpc, xt := f.xt.toNat }

def I32.fields (f : I32) : Fields :=
  { op := f.op.toNat, xty := f.xty.toNat, ty := f.ty.toNat, dst := f.dst.toNat, a := f.a, fpc := f.fpc
    xt := f.xt.toNat }

def Mem.fields (f : Mem) : Fields :=
  { op := f.op.toNat, xty := f.xty.toNat, ty := f.ty.toNat, dst := f.dst.toNat, a := f.a, b := f.ix
    fpc := f.fpc, hint := f.hint.toNat }

def Br.fields (f : Br) : Fields :=
  { op := f.op.toNat, cond := f.cond.toNat, cnt := f.cnt.toNat, tslot := f.tslot.toNat }

def Eng.fields (f : Eng) : Fields :=
  { op := f.op.toNat, xty := f.xty.toNat, ty := f.ty.toNat, dst := f.dst.toNat, a := f.a, b := f.b, c := f.c
    xt := f.xt.toNat, nb := f.nb.toNat }

def Scl.fields (f : Scl) : Fields := { scl := some f }

/-! ### What an instruction accepts -/

/-- How many registers an operand or destination spans: one, by the type, by twice the type (R170), by the source
type in XT[3:0] (R200), or a block of PLANE (R204). -/
inductive Span where
  | one | ty | dbl | src | blk
  deriving DecidableEq, Repr

/-- The kinds of destination (R115). -/
inductive DKind where
  | none | v | g | vg | mask | gOpt
  deriving DecidableEq, Repr

/-- The kinds of source position (R116, R117): unused, any pattern, uniform, uniform or immediate, the same or
absent, a mask M0 to M7 or EM, a mask M0 to M7 or absent, identity only, the block register of PLANE. -/
inductive OKind where
  | none | any | uni | uniImm | uniOpt | uniImmOpt | mask | maskM | ident | block
  deriving DecidableEq, Repr

/-- A rule of one instruction that the other columns do not say. -/
inductive Extra where
  | none | br | brc | brm | brmEm | loop | salu | salui | scmp | sli | sld | sst | srdsr
  | rdsr | wrsr | movG | mlogNot | mstatMask | redF32 | cvt | cvti | cvtf | cvtt | pack | unpack | cpypl | pairC
  | barObj | barGrid | credSat
  deriving DecidableEq, Repr

/-- What an instruction accepts in each field. -/
structure Shape where
  ops : List Nat := [0]
  /-- The (XTY, TY) pairs. -/
  tys : List (Bool × Nat) := [(false, 0)]
  dst : DKind × Span := (.none, .one)
  a : OKind × Span := (.none, .one)
  b : OKind × Span := (.none, .one)
  c : OKind × Span := (.none, .one)
  /-- FPC carries meaning (R63). -/
  fpc : Bool := false
  /-- The values of XT. -/
  xt : Nat → Bool := fun x => x == 0
  /-- NB is used. -/
  nb : Bool := false
  /-- HINT is below this. -/
  hint : Nat := 1
  extra : Extra := .none

/-- S8 to S64 and Z8 to Z64 (R43). -/
def tAll : List (Bool × Nat) := [(false, 0), (false, 1), (false, 2), (false, 3), (false, 4), (false, 5), (false, 6), (false, 7)]
/-- S8 to S64. -/
def tS : List (Bool × Nat) := [(false, 0), (false, 1), (false, 2), (false, 3)]
/-- S8 to S32 and Z8 to Z32. -/
def tTo32 : List (Bool × Nat) := [(false, 0), (false, 1), (false, 2), (false, 4), (false, 5), (false, 6)]
/-- Z32 and Z64. -/
def tZ3264 : List (Bool × Nat) := [(false, 6), (false, 7)]
/-- B8 to B64 (R120). -/
def tB64 : List (Bool × Nat) := [(true, 0), (true, 1), (true, 2), (true, 3)]
/-- B8 to B128. -/
def tB128 : List (Bool × Nat) := tB64 ++ [(true, 4)]
/-- F32, F16 and BF16 (R42). -/
def tF : List (Bool × Nat) := [(false, 8), (false, 9), (false, 10)]
/-- F16 and BF16. -/
def tH : List (Bool × Nat) := [(false, 9), (false, 10)]
/-- The formats of CVT (R200), F32 first. -/
def tCvt : List (Bool × Nat) := tF ++ [(false, 11), (false, 12)]
/-- TS8 and TS4. -/
def tTs : List (Bool × Nat) := [(false, 14), (false, 15)]
/-- MX4, MX8A and MX8B (R120). -/
def tMx : List (Bool × Nat) := [(true, 6), (true, 7), (true, 8)]
/-- The types of CPYPL (R236). -/
def tPl : List (Bool × Nat) :=
  [(false, 0), (false, 4), (false, 10), (false, 11), (false, 12), (false, 13), (false, 14), (false, 15)]

def xAny : Nat → Bool := fun _ => true
def xLt (n : Nat) : Nat → Bool := fun x => decide (x < n)
def xEq (n : Nat) : Nat → Bool := fun x => x == n
/-- A block count of 1 to 6 (R162). -/
def xCount : Nat → Bool := fun x => decide (1 ≤ x ∧ x ≤ 6)
/-- WIDX: field 0 to 5 and EXT (R174). -/
def xWidx : Nat → Bool := fun x => decide (x < 16 ∧ x % 8 < 6)
/-- RSEL: two different masks (R189). -/
def xRsel : Nat → Bool := fun x => decide (x < 64 ∧ x % 8 ≠ x / 8)
/-- PLANE: width 4, 8 or 16 and a bit below it (R204). -/
def xPlane : Nat → Bool := fun x => decide (x / 32 ≤ 2 ∧ x % 32 < 4 * 2 ^ (x / 32))

/-- The constructors of the opcodes 0x00 to 0x0F (R123). -/
def identify0 (w : Slot) : Nat → Option Instr
  | 0x0 => some (.nop (Std.ofSlot w))
  | 0x1 => some (.br (Br.ofSlot w))
  | 0x2 => some (.brc (Br.ofSlot w))
  | 0x3 => some (if (Br.ofSlot w).op = 1 then .brmEm (Br.ofSlot w) else .brm (Br.ofSlot w))
  | 0x4 => some (.call (Br.ofSlot w))
  | 0x5 => some (.ret (Std.ofSlot w))
  | 0x6 => some (.loop (Br.ofSlot w))
  | 0x7 => some (.exit (Std.ofSlot w))
  | 0x8 => some (.yield (Std.ofSlot w))
  | 0x9 => some (.trap (Std.ofSlot w))
  | 0xA => some (.svc (Std.ofSlot w))
  | 0xB => some (.sret (Std.ofSlot w))
  | 0xC => some (.rdsr (Std.ofSlot w))
  | 0xD => some (.wrsr (Std.ofSlot w))
  | 0xE => some (.launch (Eng.ofSlot w))
  | 0xF => some (if (Std.ofSlot w).op = 1 then .allocRext (Std.ofSlot w) else if (Std.ofSlot w).op = 2 then .allocRrel (Std.ofSlot w) else .allocFull (Std.ofSlot w))
  | _ => none

/-- The constructors of the opcodes 0x10 to 0x1F (R123). -/
def identify1 (w : Slot) : Nat → Option Instr
  | 0x0 => some (.iadd (Std.ofSlot w))
  | 0x1 => some (.isub (Std.ofSlot w))
  | 0x2 => some (.imul (Std.ofSlot w))
  | 0x3 => some (.imulh (Std.ofSlot w))
  | 0x4 => some (.imad (Std.ofSlot w))
  | 0x5 => some (.imadw (Std.ofSlot w))
  | 0x6 => some (.idiv (Std.ofSlot w))
  | 0x7 => some (.irem (Std.ofSlot w))
  | 0x8 => some (.imin (Std.ofSlot w))
  | 0x9 => some (.imax (Std.ofSlot w))
  | 0xA => some (.iabs (Std.ofSlot w))
  | 0xB => some (.ineg (Std.ofSlot w))
  | 0xC => some (.and (Std.ofSlot w))
  | 0xD => some (.or (Std.ofSlot w))
  | 0xE => some (.xor (Std.ofSlot w))
  | 0xF => some (.andn (Std.ofSlot w))
  | _ => none

/-- The constructors of the opcodes 0x20 to 0x2F (R123). -/
def identify2 (w : Slot) : Nat → Option Instr
  | 0x0 => some (.shl (Std.ofSlot w))
  | 0x1 => some (.shr (Std.ofSlot w))
  | 0x2 => some (.sar (Std.ofSlot w))
  | 0x3 => some (.rot (Std.ofSlot w))
  | 0x4 => some (.popc (Std.ofSlot w))
  | 0x5 => some (.clz (Std.ofSlot w))
  | 0x6 => some (.brev (Std.ofSlot w))
  | 0x7 => some (.bfx (Std.ofSlot w))
  | 0x8 => some (.bfi (Std.ofSlot w))
  | 0x9 => some (.icmp (Std.ofSlot w))
  | 0xA => some (.sel (Std.ofSlot w))
  | 0xB => some (.mov (Std.ofSlot w))
  | 0xC => some (.movi (I32.ofSlot w))
  | 0xD => some (.lea (Mem.ofSlot w))
  | 0xE => some (.widx (Std.ofSlot w))
  | 0xF => some (.iadds (Std.ofSlot w))
  | _ => none

/-- The constructors of the opcodes 0x30 to 0x3F (R123). -/
def identify3 (w : Slot) : Nat → Option Instr
  | 0x0 => some (.mset (Std.ofSlot w))
  | 0x1 => some (.mlog (Std.ofSlot w))
  | 0x2 => some (.mif (Std.ofSlot w))
  | 0x3 => some (.melse (Std.ofSlot w))
  | 0x4 => some (.mend (Std.ofSlot w))
  | 0x5 => some (.msave (Std.ofSlot w))
  | 0x6 => some (.mload (Std.ofSlot w))
  | 0x7 => some (.mstat (Std.ofSlot w))
  | 0x8 => some (.mpopc (Std.ofSlot w))
  | 0x9 => some (.mfirst (Std.ofSlot w))
  | 0xA => some (.ballot (Std.ofSlot w))
  | 0xB => some (.bcnt (Std.ofSlot w))
  | 0xC => some (if (Std.ofSlot w).op = 1 then .rselTie (Std.ofSlot w) else .rsel (Std.ofSlot w))
  | 0xD => some (.vshfl (Std.ofSlot w))
  | 0xE => some (.vred (Std.ofSlot w))
  | 0xF => some (.vscan (Std.ofSlot w))
  | _ => none

/-- The constructors of the opcodes 0x40 to 0x4F (R123). -/
def identify4 (w : Slot) : Nat → Option Instr
  | 0x0 => some (.fadd (Std.ofSlot w))
  | 0x1 => some (.fsub (Std.ofSlot w))
  | 0x2 => some (.fmul (Std.ofSlot w))
  | 0x3 => some (.ffma (Std.ofSlot w))
  | 0x4 => some (.ffms (Std.ofSlot w))
  | 0x5 => some (.fmin (Std.ofSlot w))
  | 0x6 => some (.fmax (Std.ofSlot w))
  | 0x7 => some (.fminm (Std.ofSlot w))
  | 0x8 => some (.fmaxm (Std.ofSlot w))
  | 0x9 => some (.fsgn (Std.ofSlot w))
  | 0xA => some (.fcmp (Std.ofSlot w))
  | 0xB => some (.fclass (Std.ofSlot w))
  | 0xC => some (.fdiv (Std.ofSlot w))
  | 0xD => some (.fsqrt (Std.ofSlot w))
  | 0xE => some (.frcp (Std.ofSlot w))
  | 0xF => some (.frsq (Std.ofSlot w))
  | _ => none

/-- The constructors of the opcodes 0x50 to 0x5F (R123). -/
def identify5 (w : Slot) : Nat → Option Instr
  | 0x0 => some (.fexp2 (Std.ofSlot w))
  | 0x1 => some (.flog2 (Std.ofSlot w))
  | 0x2 => some (.frnd (Std.ofSlot w))
  | 0x3 => some (.fscale (Std.ofSlot w))
  | 0x4 => some (.fdot (Std.ofSlot w))
  | 0x5 => some (.fdp2 (Std.ofSlot w))
  | 0x6 => some (.fdp4 (Std.ofSlot w))
  | 0x7 => some (.hadd2 (Std.ofSlot w))
  | 0x8 => some (.hmul2 (Std.ofSlot w))
  | 0x9 => some (.hfma2 (Std.ofSlot w))
  | 0xA => some (.hmin2 (Std.ofSlot w))
  | 0xB => some (.hmax2 (Std.ofSlot w))
  | 0xC => some (.fgetx (Std.ofSlot w))
  | _ => none

/-- The constructors of the opcodes 0x60 to 0x6F (R123). -/
def identify6 (w : Slot) : Nat → Option Instr
  | 0x0 => some (.cvt (Std.ofSlot w))
  | 0x1 => some (.cvti (Std.ofSlot w))
  | 0x2 => some (.cvtf (Std.ofSlot w))
  | 0x3 => some (.cvtt (Std.ofSlot w))
  | 0x4 => some (.pack (Std.ofSlot w))
  | 0x5 => some (.unpack (Std.ofSlot w))
  | 0x6 => some (.bfpk (Std.ofSlot w))
  | 0x7 => some (.bfun (Std.ofSlot w))
  | 0x8 => some (.mxpk (Std.ofSlot w))
  | 0x9 => some (.mxun (Std.ofSlot w))
  | 0xA => some (.plane (Std.ofSlot w))
  | 0xB => some (.unplane (Std.ofSlot w))
  | 0xC => some (.setfmt (Std.ofSlot w))
  | 0xD => some (.getfmt (Std.ofSlot w))
  | 0xE => some (.fstat (Std.ofSlot w))
  | 0xF => some (.setfpm (Std.ofSlot w))
  | _ => none

/-- The constructors of the opcodes 0x70 to 0x7F (R123). -/
def identify7 (w : Slot) : Nat → Option Instr
  | 0x0 => some (.ld (Mem.ofSlot w))
  | 0x1 => some (.st (Mem.ofSlot w))
  | 0x2 => some (.ldu (Mem.ofSlot w))
  | 0x3 => some (.stu (Mem.ofSlot w))
  | 0x4 => some (.pref (Mem.ofSlot w))
  | 0x5 => some (if (Eng.ofSlot w).op = 1 then .spageUnpin (Eng.ofSlot w) else if (Eng.ofSlot w).op = 2 then .spageQuery (Eng.ofSlot w) else .spagePin (Eng.ofSlot w))
  | 0x6 => some (.ldnt (Mem.ofSlot w))
  | 0x7 => some (.stnt (Mem.ofSlot w))
  | 0x8 => some (.cpy (Eng.ofSlot w))
  | 0x9 => some (.cpy2d (Eng.ofSlot w))
  | 0xA => some (.cpypl (Eng.ofSlot w))
  | 0xB => some (.cpeat (Eng.ofSlot w))
  | 0xC => some (.cpack (Eng.ofSlot w))
  | 0xD => some (.psel (Eng.ofSlot w))
  | 0xE => some (.cpfill (Eng.ofSlot w))
  | 0xF => some (if (Eng.ofSlot w).xt.getLsbD 0 then .eresumeAbort (Eng.ofSlot w) else .eresume (Eng.ofSlot w))
  | _ => none

/-- The constructors of the opcodes 0x80 to 0x8F (R123). -/
def identify8 (w : Slot) : Nat → Option Instr
  | 0x0 => some (.binit (Eng.ofSlot w))
  | 0x1 => some (.barr (Eng.ofSlot w))
  | 0x2 => some (.bexp (Eng.ofSlot w))
  | 0x3 => some (.waitph (Eng.ofSlot w))
  | 0x4 => some (.testph (Eng.ofSlot w))
  | 0x5 => some (.gridbar (Std.ofSlot w))
  | 0x6 => some (.atom (Mem.ofSlot w))
  | 0x7 => some (.atomf (Mem.ofSlot w))
  | 0x8 => some (.red (Mem.ofSlot w))
  | 0x9 => some (.rednm (Mem.ofSlot w))
  | 0xA => some (.nmfence (Std.ofSlot w))
  | 0xB => some (.dwacq (Eng.ofSlot w))
  | 0xC => some (.dwrel (Eng.ofSlot w))
  | 0xD => some (.atomw (Mem.ofSlot w))
  | 0xE => some (.atomq (Mem.ofSlot w))
  | 0xF => some (.fence (Std.ofSlot w))
  | _ => none

/-- The constructors of the opcodes 0x90 to 0x9F (R123). -/
def identify9 (w : Slot) : Nat → Option Instr
  | 0x0 => some (.mma (Eng.ofSlot w))
  | 0x1 => some (.mmas (Eng.ofSlot w))
  | 0x2 => some (.mzero (Eng.ofSlot w))
  | 0x3 => some (.mldacc (Eng.ofSlot w))
  | 0x4 => some (.mstacc (Eng.ofSlot w))
  | 0x5 => some (.mscale (Eng.ofSlot w))
  | 0x6 => some (.mqry (Eng.ofSlot w))
  | 0x7 => some (.accrd (Eng.ofSlot w))
  | 0x8 => some (.accwr (Eng.ofSlot w))
  | 0x9 => some (.accacq (Eng.ofSlot w))
  | 0xA => some (.accrel (Eng.ofSlot w))
  | _ => none

/-- The constructors of the opcodes 0xA0 to 0xAF (R123). -/
def identifyA (w : Slot) : Nat → Option Instr
  | 0x0 => some (.gath (Eng.ofSlot w))
  | 0x1 => some (.gathp (Eng.ofSlot w))
  | 0x2 => some (if (Eng.ofSlot w).xt.getLsbD 1 then .scataClose (Eng.ofSlot w) else .scata (Eng.ofSlot w))
  | 0x3 => some (.gpref (Eng.ofSlot w))
  | 0x4 => some (.thdl (Eng.ofSlot w))
  | 0x5 => some (.gstat (Eng.ofSlot w))
  | 0x6 => some (.shcnt (Eng.ofSlot w))
  | 0x8 => some (.dtree (Eng.ofSlot w))
  | 0x9 => some (.desc (Eng.ofSlot w))
  | 0xA => some (.dregr (Eng.ofSlot w))
  | 0xB => some (.dgrad (Eng.ofSlot w))
  | 0xC => some (if (Eng.ofSlot w).op = 1 then .dpathWrite (Eng.ofSlot w) else .dpathRead (Eng.ofSlot w))
  | 0xD => some (.dstat (Eng.ofSlot w))
  | _ => none

/-- The constructors of the opcodes 0xB0 to 0xBF (R123). -/
def identifyB (w : Slot) : Nat → Option Instr
  | 0x0 => some (.tql (Eng.ofSlot w))
  | 0x1 => some (.tql2 (Eng.ofSlot w))
  | 0x2 => some (.tqmul (Eng.ofSlot w))
  | 0x3 => some (.tqcmt (Eng.ofSlot w))
  | 0x4 => some (.cqsub (Eng.ofSlot w))
  | 0x5 => some (.cqstat (Eng.ofSlot w))
  | 0x8 => some (.rjoin (Eng.ofSlot w))
  | 0x9 => some (.rsend (Eng.ofSlot w))
  | 0xA => some (.rclose (Eng.ofSlot w))
  | 0xB => some (.rcnt (Eng.ofSlot w))
  | 0xC => some (.dmark (Eng.ofSlot w))
  | 0xD => some (.wlset (Eng.ofSlot w))
  | 0xE => some (.lstat (Eng.ofSlot w))
  | _ => none

/-- The constructors of the opcodes 0xC0 to 0xCF (R123). -/
def identifyC (w : Slot) : Nat → Option Instr
  | 0x0 => some (.salu (Scl.ofSlot w))
  | 0x1 => some (.salui (Scl.ofSlot w))
  | 0x2 => some (.scmp (Scl.ofSlot w))
  | 0x3 => some (.sli (Scl.ofSlot w))
  | 0x4 => some (.sld (Scl.ofSlot w))
  | 0x5 => some (.sst (Scl.ofSlot w))
  | 0x6 => some (.srdsr (Scl.ofSlot w))
  | _ => none

/-- The constructors of the opcodes 0xD0 to 0xDF (R123). -/
def identifyD (w : Slot) : Nat → Option Instr
  | 0x0 => some (.cldc (Eng.ofSlot w))
  | 0x1 => some (.cstc (Eng.ofSlot w))
  | 0x2 => some (.crow (Eng.ofSlot w))
  | 0x3 => some (.cred (Eng.ofSlot w))
  | 0x4 => some (.cend (Std.ofSlot w))
  | _ => none

/-- The constructor that an opcode names; reserved opcodes have none (R123). -/
def identify (w : Slot) : Option Instr :=
  let lo := (opcOf w).toNat % 16
  match (opcOf w).toNat / 16 with
  | 0x0 => identify0 w lo
  | 0x1 => identify1 w lo
  | 0x2 => identify2 w lo
  | 0x3 => identify3 w lo
  | 0x4 => identify4 w lo
  | 0x5 => identify5 w lo
  | 0x6 => identify6 w lo
  | 0x7 => identify7 w lo
  | 0x8 => identify8 w lo
  | 0x9 => identify9 w lo
  | 0xA => identifyA w lo
  | 0xB => identifyB w lo
  | 0xC => identifyC w lo
  | 0xD => identifyD w lo
  | _ => none

/-- The words of an encoded instruction, written from the encoding tables; an event has none (R108 to R114, R123). -/
def encode : Instr → Option Slot
  | .nop f => some (f.toSlot 0x00)
  | .br f => some (f.toSlot 0x01)
  | .brc f => some (f.toSlot 0x02)
  | .brm f => some (f.toSlot 0x03)
  | .brmEm f => some (f.toSlot 0x03)
  | .call f => some (f.toSlot 0x04)
  | .ret f => some (f.toSlot 0x05)
  | .loop f => some (f.toSlot 0x06)
  | .exit f => some (f.toSlot 0x07)
  | .yield f => some (f.toSlot 0x08)
  | .trap f => some (f.toSlot 0x09)
  | .svc f => some (f.toSlot 0x0A)
  | .sret f => some (f.toSlot 0x0B)
  | .rdsr f => some (f.toSlot 0x0C)
  | .wrsr f => some (f.toSlot 0x0D)
  | .launch f => some (f.toSlot 0x0E)
  | .allocFull f => some (f.toSlot 0x0F)
  | .allocRext f => some (f.toSlot 0x0F)
  | .allocRrel f => some (f.toSlot 0x0F)
  | .iadd f => some (f.toSlot 0x10)
  | .isub f => some (f.toSlot 0x11)
  | .imul f => some (f.toSlot 0x12)
  | .imulh f => some (f.toSlot 0x13)
  | .imad f => some (f.toSlot 0x14)
  | .imadw f => some (f.toSlot 0x15)
  | .idiv f => some (f.toSlot 0x16)
  | .irem f => some (f.toSlot 0x17)
  | .imin f => some (f.toSlot 0x18)
  | .imax f => some (f.toSlot 0x19)
  | .iabs f => some (f.toSlot 0x1A)
  | .ineg f => some (f.toSlot 0x1B)
  | .and f => some (f.toSlot 0x1C)
  | .or f => some (f.toSlot 0x1D)
  | .xor f => some (f.toSlot 0x1E)
  | .andn f => some (f.toSlot 0x1F)
  | .shl f => some (f.toSlot 0x20)
  | .shr f => some (f.toSlot 0x21)
  | .sar f => some (f.toSlot 0x22)
  | .rot f => some (f.toSlot 0x23)
  | .popc f => some (f.toSlot 0x24)
  | .clz f => some (f.toSlot 0x25)
  | .brev f => some (f.toSlot 0x26)
  | .bfx f => some (f.toSlot 0x27)
  | .bfi f => some (f.toSlot 0x28)
  | .icmp f => some (f.toSlot 0x29)
  | .sel f => some (f.toSlot 0x2A)
  | .mov f => some (f.toSlot 0x2B)
  | .movi f => some (f.toSlot 0x2C)
  | .lea f => some (f.toSlot 0x2D)
  | .widx f => some (f.toSlot 0x2E)
  | .iadds f => some (f.toSlot 0x2F)
  | .mset f => some (f.toSlot 0x30)
  | .mlog f => some (f.toSlot 0x31)
  | .mif f => some (f.toSlot 0x32)
  | .melse f => some (f.toSlot 0x33)
  | .mend f => some (f.toSlot 0x34)
  | .msave f => some (f.toSlot 0x35)
  | .mload f => some (f.toSlot 0x36)
  | .mstat f => some (f.toSlot 0x37)
  | .mpopc f => some (f.toSlot 0x38)
  | .mfirst f => some (f.toSlot 0x39)
  | .ballot f => some (f.toSlot 0x3A)
  | .bcnt f => some (f.toSlot 0x3B)
  | .rsel f => some (f.toSlot 0x3C)
  | .rselTie f => some (f.toSlot 0x3C)
  | .vshfl f => some (f.toSlot 0x3D)
  | .vred f => some (f.toSlot 0x3E)
  | .vscan f => some (f.toSlot 0x3F)
  | .fadd f => some (f.toSlot 0x40)
  | .fsub f => some (f.toSlot 0x41)
  | .fmul f => some (f.toSlot 0x42)
  | .ffma f => some (f.toSlot 0x43)
  | .ffms f => some (f.toSlot 0x44)
  | .fmin f => some (f.toSlot 0x45)
  | .fmax f => some (f.toSlot 0x46)
  | .fminm f => some (f.toSlot 0x47)
  | .fmaxm f => some (f.toSlot 0x48)
  | .fsgn f => some (f.toSlot 0x49)
  | .fcmp f => some (f.toSlot 0x4A)
  | .fclass f => some (f.toSlot 0x4B)
  | .fdiv f => some (f.toSlot 0x4C)
  | .fsqrt f => some (f.toSlot 0x4D)
  | .frcp f => some (f.toSlot 0x4E)
  | .frsq f => some (f.toSlot 0x4F)
  | .fexp2 f => some (f.toSlot 0x50)
  | .flog2 f => some (f.toSlot 0x51)
  | .frnd f => some (f.toSlot 0x52)
  | .fscale f => some (f.toSlot 0x53)
  | .fdot f => some (f.toSlot 0x54)
  | .fdp2 f => some (f.toSlot 0x55)
  | .fdp4 f => some (f.toSlot 0x56)
  | .hadd2 f => some (f.toSlot 0x57)
  | .hmul2 f => some (f.toSlot 0x58)
  | .hfma2 f => some (f.toSlot 0x59)
  | .hmin2 f => some (f.toSlot 0x5A)
  | .hmax2 f => some (f.toSlot 0x5B)
  | .fgetx f => some (f.toSlot 0x5C)
  | .cvt f => some (f.toSlot 0x60)
  | .cvti f => some (f.toSlot 0x61)
  | .cvtf f => some (f.toSlot 0x62)
  | .cvtt f => some (f.toSlot 0x63)
  | .pack f => some (f.toSlot 0x64)
  | .unpack f => some (f.toSlot 0x65)
  | .bfpk f => some (f.toSlot 0x66)
  | .bfun f => some (f.toSlot 0x67)
  | .mxpk f => some (f.toSlot 0x68)
  | .mxun f => some (f.toSlot 0x69)
  | .plane f => some (f.toSlot 0x6A)
  | .unplane f => some (f.toSlot 0x6B)
  | .setfmt f => some (f.toSlot 0x6C)
  | .getfmt f => some (f.toSlot 0x6D)
  | .fstat f => some (f.toSlot 0x6E)
  | .setfpm f => some (f.toSlot 0x6F)
  | .ld f => some (f.toSlot 0x70)
  | .st f => some (f.toSlot 0x71)
  | .ldu f => some (f.toSlot 0x72)
  | .stu f => some (f.toSlot 0x73)
  | .pref f => some (f.toSlot 0x74)
  | .spagePin f => some (f.toSlot 0x75)
  | .spageUnpin f => some (f.toSlot 0x75)
  | .spageQuery f => some (f.toSlot 0x75)
  | .ldnt f => some (f.toSlot 0x76)
  | .stnt f => some (f.toSlot 0x77)
  | .cpy f => some (f.toSlot 0x78)
  | .cpy2d f => some (f.toSlot 0x79)
  | .cpypl f => some (f.toSlot 0x7A)
  | .cpeat f => some (f.toSlot 0x7B)
  | .cpack f => some (f.toSlot 0x7C)
  | .psel f => some (f.toSlot 0x7D)
  | .cpfill f => some (f.toSlot 0x7E)
  | .eresume f => some (f.toSlot 0x7F)
  | .eresumeAbort f => some (f.toSlot 0x7F)
  | .binit f => some (f.toSlot 0x80)
  | .barr f => some (f.toSlot 0x81)
  | .bexp f => some (f.toSlot 0x82)
  | .waitph f => some (f.toSlot 0x83)
  | .testph f => some (f.toSlot 0x84)
  | .gridbar f => some (f.toSlot 0x85)
  | .atom f => some (f.toSlot 0x86)
  | .atomf f => some (f.toSlot 0x87)
  | .red f => some (f.toSlot 0x88)
  | .rednm f => some (f.toSlot 0x89)
  | .nmfence f => some (f.toSlot 0x8A)
  | .dwacq f => some (f.toSlot 0x8B)
  | .dwrel f => some (f.toSlot 0x8C)
  | .atomw f => some (f.toSlot 0x8D)
  | .atomq f => some (f.toSlot 0x8E)
  | .fence f => some (f.toSlot 0x8F)
  | .mma f => some (f.toSlot 0x90)
  | .mmas f => some (f.toSlot 0x91)
  | .mzero f => some (f.toSlot 0x92)
  | .mldacc f => some (f.toSlot 0x93)
  | .mstacc f => some (f.toSlot 0x94)
  | .mscale f => some (f.toSlot 0x95)
  | .mqry f => some (f.toSlot 0x96)
  | .accrd f => some (f.toSlot 0x97)
  | .accwr f => some (f.toSlot 0x98)
  | .accacq f => some (f.toSlot 0x99)
  | .accrel f => some (f.toSlot 0x9A)
  | .gath f => some (f.toSlot 0xA0)
  | .gathp f => some (f.toSlot 0xA1)
  | .scata f => some (f.toSlot 0xA2)
  | .scataClose f => some (f.toSlot 0xA2)
  | .gpref f => some (f.toSlot 0xA3)
  | .thdl f => some (f.toSlot 0xA4)
  | .gstat f => some (f.toSlot 0xA5)
  | .shcnt f => some (f.toSlot 0xA6)
  | .dtree f => some (f.toSlot 0xA8)
  | .desc f => some (f.toSlot 0xA9)
  | .dregr f => some (f.toSlot 0xAA)
  | .dgrad f => some (f.toSlot 0xAB)
  | .dpathRead f => some (f.toSlot 0xAC)
  | .dpathWrite f => some (f.toSlot 0xAC)
  | .dstat f => some (f.toSlot 0xAD)
  | .tql f => some (f.toSlot 0xB0)
  | .tql2 f => some (f.toSlot 0xB1)
  | .tqmul f => some (f.toSlot 0xB2)
  | .tqcmt f => some (f.toSlot 0xB3)
  | .cqsub f => some (f.toSlot 0xB4)
  | .cqstat f => some (f.toSlot 0xB5)
  | .rjoin f => some (f.toSlot 0xB8)
  | .rsend f => some (f.toSlot 0xB9)
  | .rclose f => some (f.toSlot 0xBA)
  | .rcnt f => some (f.toSlot 0xBB)
  | .dmark f => some (f.toSlot 0xBC)
  | .wlset f => some (f.toSlot 0xBD)
  | .lstat f => some (f.toSlot 0xBE)
  | .salu f => some (f.toSlot 0xC0)
  | .salui f => some (f.toSlot 0xC1)
  | .scmp f => some (f.toSlot 0xC2)
  | .sli f => some (f.toSlot 0xC3)
  | .sld f => some (f.toSlot 0xC4)
  | .sst f => some (f.toSlot 0xC5)
  | .srdsr f => some (f.toSlot 0xC6)
  | .cldc f => some (f.toSlot 0xD0)
  | .cstc f => some (f.toSlot 0xD1)
  | .crow f => some (f.toSlot 0xD2)
  | .cred f => some (f.toSlot 0xD3)
  | .cend f => some (f.toSlot 0xD4)
  | .allocFullGrant .. => none
  | .rextGrant .. => none
  | .scratchpadPageRefill .. => none
  | .copyComplete .. => none
  | .copySuspend .. => none
  | .waitphWake .. => none
  | .waitphTimeout .. => none
  | .dwacqWake .. => none
  | .rednmApply .. => none
  | .unitOpStart .. => none
  | .unitOpComplete .. => none
  | .accTokenGrant .. => none
  | .gatherRowService .. => none
  | .gatherComplete .. => none
  | .scatterAddApply .. => none
  | .descComplete .. => none
  | .descSuspend .. => none
  | .dgradComplete .. => none
  | .queryComplete .. => none
  | .postedStoreDrain .. => none
  | .instanceStart .. => none
  | .bankReservationExpiry .. => none
  | .cellarCommandAged .. => none
  | .queueSlotGrant .. => none
  | .ageIntervalExpiry .. => none
  | .quantumExpiry .. => none
  | .launchAdmission .. => none
  | .waitEntry .. => none
  | .waitEntryPass .. => none
  | .copyCommand .. => none
  | .copyCommandComplete .. => none
  | .cellarTaskRead .. => none
  | .workRequest .. => none
  | .workgroupDispatch .. => none
  | .damperExchange .. => none
  | .splitChange .. => none
  | .workgroupRetire .. => none
  | .launchComplete .. => none
  | .pageWalkComplete .. => none
  | .lineFetch .. => none
  | .loadComplete .. => none
  | .demotionStart .. => none
  | .demotionPageMove .. => none
  | .htlbiComplete .. => none
  | .remoteFail .. => none
  | .preemptSaveComplete => none
  | .atomicComplete .. => none
  | .rednmDrop .. => none
  | .gatherRequestReceive .. => none
  | .gatherReply .. => none
  | .gatherPositionTimeout .. => none
  | .scatterCloseArrive .. => none
  | .routingRowArrive .. => none
  | .roundCloseArrive .. => none
  | .queueEnable .. => none
  | .queueDisable .. => none
  | .qwidxWrite .. => none
  | .latchAcquire .. => none
  | .latchRelease .. => none
  | .latchBreak .. => none
  | .latchInvalidCommand .. => none
  | .hpartWrite .. => none
  | .hptrWrite .. => none
  | .hsbkWrite .. => none
  | .htlbiPage .. => none
  | .htlbiAll .. => none
  | .hfwiWrite => none
  | .hrekeyGo .. => none
  | .hpreGo .. => none
  | .hpreResume .. => none
  | .hkillGo .. => none
  | .hcabtWrite .. => none
  | .hashrWrite .. => none
  | .msixDeferredSend .. => none
  | .powerOnRequest => none
  | .powerIdleRequest => none
  | .powerHoldRequest => none
  | .hrcvGo .. => none
  | .recoveryCheckDone .. => none
  | .registerWrite .. => none
  | .hostMemoryAccess .. => none
  | .accessCountDecay => none
  | .ptsAdvance .. => none
  | .remoteRequestServe .. => none
  | .remoteReply .. => none
  | .relayForward .. => none
  | .flitReceive .. => none
  | .flitAck .. => none
  | .rekeySeqTrigger .. => none
  | .keyBankSwitch .. => none
  | .laneDrained .. => none
  | .laneRelock .. => none
  | .relockTimeout .. => none
  | .dieLost .. => none
  | .pageinRequest .. => none
  | .pageinComplete .. => none
  | .thermtrip => none
  | .powerLoss => none
  | .deviceReset .. => none
  | .lifecycleRequest .. => none
  | .debugSessionEnter .. => none
  | .debugSessionEnd .. => none
  | .attestationRequest .. => none
  | .signedUpdateRequest .. => none
  | .softError .. => none
  | .hostLinkDown .. => none

/-- The fields of an encoded instruction; none for an event. -/
def fieldsOf : Instr → Option Fields
  | .nop f => some f.fields
  | .br f => some f.fields
  | .brc f => some f.fields
  | .brm f => some f.fields
  | .brmEm f => some f.fields
  | .call f => some f.fields
  | .ret f => some f.fields
  | .loop f => some f.fields
  | .exit f => some f.fields
  | .yield f => some f.fields
  | .trap f => some f.fields
  | .svc f => some f.fields
  | .sret f => some f.fields
  | .rdsr f => some f.fields
  | .wrsr f => some f.fields
  | .launch f => some f.fields
  | .allocFull f => some f.fields
  | .allocRext f => some f.fields
  | .allocRrel f => some f.fields
  | .iadd f => some f.fields
  | .isub f => some f.fields
  | .imul f => some f.fields
  | .imulh f => some f.fields
  | .imad f => some f.fields
  | .imadw f => some f.fields
  | .idiv f => some f.fields
  | .irem f => some f.fields
  | .imin f => some f.fields
  | .imax f => some f.fields
  | .iabs f => some f.fields
  | .ineg f => some f.fields
  | .and f => some f.fields
  | .or f => some f.fields
  | .xor f => some f.fields
  | .andn f => some f.fields
  | .shl f => some f.fields
  | .shr f => some f.fields
  | .sar f => some f.fields
  | .rot f => some f.fields
  | .popc f => some f.fields
  | .clz f => some f.fields
  | .brev f => some f.fields
  | .bfx f => some f.fields
  | .bfi f => some f.fields
  | .icmp f => some f.fields
  | .sel f => some f.fields
  | .mov f => some f.fields
  | .movi f => some f.fields
  | .lea f => some f.fields
  | .widx f => some f.fields
  | .iadds f => some f.fields
  | .mset f => some f.fields
  | .mlog f => some f.fields
  | .mif f => some f.fields
  | .melse f => some f.fields
  | .mend f => some f.fields
  | .msave f => some f.fields
  | .mload f => some f.fields
  | .mstat f => some f.fields
  | .mpopc f => some f.fields
  | .mfirst f => some f.fields
  | .ballot f => some f.fields
  | .bcnt f => some f.fields
  | .rsel f => some f.fields
  | .rselTie f => some f.fields
  | .vshfl f => some f.fields
  | .vred f => some f.fields
  | .vscan f => some f.fields
  | .fadd f => some f.fields
  | .fsub f => some f.fields
  | .fmul f => some f.fields
  | .ffma f => some f.fields
  | .ffms f => some f.fields
  | .fmin f => some f.fields
  | .fmax f => some f.fields
  | .fminm f => some f.fields
  | .fmaxm f => some f.fields
  | .fsgn f => some f.fields
  | .fcmp f => some f.fields
  | .fclass f => some f.fields
  | .fdiv f => some f.fields
  | .fsqrt f => some f.fields
  | .frcp f => some f.fields
  | .frsq f => some f.fields
  | .fexp2 f => some f.fields
  | .flog2 f => some f.fields
  | .frnd f => some f.fields
  | .fscale f => some f.fields
  | .fdot f => some f.fields
  | .fdp2 f => some f.fields
  | .fdp4 f => some f.fields
  | .hadd2 f => some f.fields
  | .hmul2 f => some f.fields
  | .hfma2 f => some f.fields
  | .hmin2 f => some f.fields
  | .hmax2 f => some f.fields
  | .fgetx f => some f.fields
  | .cvt f => some f.fields
  | .cvti f => some f.fields
  | .cvtf f => some f.fields
  | .cvtt f => some f.fields
  | .pack f => some f.fields
  | .unpack f => some f.fields
  | .bfpk f => some f.fields
  | .bfun f => some f.fields
  | .mxpk f => some f.fields
  | .mxun f => some f.fields
  | .plane f => some f.fields
  | .unplane f => some f.fields
  | .setfmt f => some f.fields
  | .getfmt f => some f.fields
  | .fstat f => some f.fields
  | .setfpm f => some f.fields
  | .ld f => some f.fields
  | .st f => some f.fields
  | .ldu f => some f.fields
  | .stu f => some f.fields
  | .pref f => some f.fields
  | .spagePin f => some f.fields
  | .spageUnpin f => some f.fields
  | .spageQuery f => some f.fields
  | .ldnt f => some f.fields
  | .stnt f => some f.fields
  | .cpy f => some f.fields
  | .cpy2d f => some f.fields
  | .cpypl f => some f.fields
  | .cpeat f => some f.fields
  | .cpack f => some f.fields
  | .psel f => some f.fields
  | .cpfill f => some f.fields
  | .eresume f => some f.fields
  | .eresumeAbort f => some f.fields
  | .binit f => some f.fields
  | .barr f => some f.fields
  | .bexp f => some f.fields
  | .waitph f => some f.fields
  | .testph f => some f.fields
  | .gridbar f => some f.fields
  | .atom f => some f.fields
  | .atomf f => some f.fields
  | .red f => some f.fields
  | .rednm f => some f.fields
  | .nmfence f => some f.fields
  | .dwacq f => some f.fields
  | .dwrel f => some f.fields
  | .atomw f => some f.fields
  | .atomq f => some f.fields
  | .fence f => some f.fields
  | .mma f => some f.fields
  | .mmas f => some f.fields
  | .mzero f => some f.fields
  | .mldacc f => some f.fields
  | .mstacc f => some f.fields
  | .mscale f => some f.fields
  | .mqry f => some f.fields
  | .accrd f => some f.fields
  | .accwr f => some f.fields
  | .accacq f => some f.fields
  | .accrel f => some f.fields
  | .gath f => some f.fields
  | .gathp f => some f.fields
  | .scata f => some f.fields
  | .scataClose f => some f.fields
  | .gpref f => some f.fields
  | .thdl f => some f.fields
  | .gstat f => some f.fields
  | .shcnt f => some f.fields
  | .dtree f => some f.fields
  | .desc f => some f.fields
  | .dregr f => some f.fields
  | .dgrad f => some f.fields
  | .dpathRead f => some f.fields
  | .dpathWrite f => some f.fields
  | .dstat f => some f.fields
  | .tql f => some f.fields
  | .tql2 f => some f.fields
  | .tqmul f => some f.fields
  | .tqcmt f => some f.fields
  | .cqsub f => some f.fields
  | .cqstat f => some f.fields
  | .rjoin f => some f.fields
  | .rsend f => some f.fields
  | .rclose f => some f.fields
  | .rcnt f => some f.fields
  | .dmark f => some f.fields
  | .wlset f => some f.fields
  | .lstat f => some f.fields
  | .salu f => some f.fields
  | .salui f => some f.fields
  | .scmp f => some f.fields
  | .sli f => some f.fields
  | .sld f => some f.fields
  | .sst f => some f.fields
  | .srdsr f => some f.fields
  | .cldc f => some f.fields
  | .cstc f => some f.fields
  | .crow f => some f.fields
  | .cred f => some f.fields
  | .cend f => some f.fields
  | .allocFullGrant .. => none
  | .rextGrant .. => none
  | .scratchpadPageRefill .. => none
  | .copyComplete .. => none
  | .copySuspend .. => none
  | .waitphWake .. => none
  | .waitphTimeout .. => none
  | .dwacqWake .. => none
  | .rednmApply .. => none
  | .unitOpStart .. => none
  | .unitOpComplete .. => none
  | .accTokenGrant .. => none
  | .gatherRowService .. => none
  | .gatherComplete .. => none
  | .scatterAddApply .. => none
  | .descComplete .. => none
  | .descSuspend .. => none
  | .dgradComplete .. => none
  | .queryComplete .. => none
  | .postedStoreDrain .. => none
  | .instanceStart .. => none
  | .bankReservationExpiry .. => none
  | .cellarCommandAged .. => none
  | .queueSlotGrant .. => none
  | .ageIntervalExpiry .. => none
  | .quantumExpiry .. => none
  | .launchAdmission .. => none
  | .waitEntry .. => none
  | .waitEntryPass .. => none
  | .copyCommand .. => none
  | .copyCommandComplete .. => none
  | .cellarTaskRead .. => none
  | .workRequest .. => none
  | .workgroupDispatch .. => none
  | .damperExchange .. => none
  | .splitChange .. => none
  | .workgroupRetire .. => none
  | .launchComplete .. => none
  | .pageWalkComplete .. => none
  | .lineFetch .. => none
  | .loadComplete .. => none
  | .demotionStart .. => none
  | .demotionPageMove .. => none
  | .htlbiComplete .. => none
  | .remoteFail .. => none
  | .preemptSaveComplete => none
  | .atomicComplete .. => none
  | .rednmDrop .. => none
  | .gatherRequestReceive .. => none
  | .gatherReply .. => none
  | .gatherPositionTimeout .. => none
  | .scatterCloseArrive .. => none
  | .routingRowArrive .. => none
  | .roundCloseArrive .. => none
  | .queueEnable .. => none
  | .queueDisable .. => none
  | .qwidxWrite .. => none
  | .latchAcquire .. => none
  | .latchRelease .. => none
  | .latchBreak .. => none
  | .latchInvalidCommand .. => none
  | .hpartWrite .. => none
  | .hptrWrite .. => none
  | .hsbkWrite .. => none
  | .htlbiPage .. => none
  | .htlbiAll .. => none
  | .hfwiWrite => none
  | .hrekeyGo .. => none
  | .hpreGo .. => none
  | .hpreResume .. => none
  | .hkillGo .. => none
  | .hcabtWrite .. => none
  | .hashrWrite .. => none
  | .msixDeferredSend .. => none
  | .powerOnRequest => none
  | .powerIdleRequest => none
  | .powerHoldRequest => none
  | .hrcvGo .. => none
  | .recoveryCheckDone .. => none
  | .registerWrite .. => none
  | .hostMemoryAccess .. => none
  | .accessCountDecay => none
  | .ptsAdvance .. => none
  | .remoteRequestServe .. => none
  | .remoteReply .. => none
  | .relayForward .. => none
  | .flitReceive .. => none
  | .flitAck .. => none
  | .rekeySeqTrigger .. => none
  | .keyBankSwitch .. => none
  | .laneDrained .. => none
  | .laneRelock .. => none
  | .relockTimeout .. => none
  | .dieLost .. => none
  | .pageinRequest .. => none
  | .pageinComplete .. => none
  | .thermtrip => none
  | .powerLoss => none
  | .deviceReset .. => none
  | .lifecycleRequest .. => none
  | .debugSessionEnter .. => none
  | .debugSessionEnd .. => none
  | .attestationRequest .. => none
  | .signedUpdateRequest .. => none
  | .softError .. => none
  | .hostLinkDown .. => none

/-- The role class of each instruction (R125) and which are supervisor instructions (R126). -/
def classOf : Instr → RoleClass
  | .nop _ => .every
  | .br _ => .every
  | .brc _ => .every
  | .brm _ => .every
  | .brmEm _ => .every
  | .call _ => .every
  | .ret _ => .every
  | .loop _ => .every
  | .exit _ => .every
  | .yield _ => .every
  | .trap _ => .every
  | .svc _ => .every
  | .sret _ => .supervisor
  | .rdsr _ => .every
  | .wrsr _ => .every
  | .launch _ => .every
  | .allocFull _ => .every
  | .allocRext _ => .every
  | .allocRrel _ => .every
  | .iadd _ => .every
  | .isub _ => .every
  | .imul _ => .every
  | .imulh _ => .every
  | .imad _ => .every
  | .imadw _ => .every
  | .idiv _ => .every
  | .irem _ => .every
  | .imin _ => .every
  | .imax _ => .every
  | .iabs _ => .every
  | .ineg _ => .every
  | .and _ => .every
  | .or _ => .every
  | .xor _ => .every
  | .andn _ => .every
  | .shl _ => .every
  | .shr _ => .every
  | .sar _ => .every
  | .rot _ => .every
  | .popc _ => .every
  | .clz _ => .every
  | .brev _ => .every
  | .bfx _ => .every
  | .bfi _ => .every
  | .icmp _ => .every
  | .sel _ => .every
  | .mov _ => .every
  | .movi _ => .every
  | .lea _ => .every
  | .widx _ => .every
  | .iadds _ => .every
  | .mset _ => .every
  | .mlog _ => .every
  | .mif _ => .every
  | .melse _ => .every
  | .mend _ => .every
  | .msave _ => .every
  | .mload _ => .every
  | .mstat _ => .every
  | .mpopc _ => .every
  | .mfirst _ => .every
  | .ballot _ => .every
  | .bcnt _ => .every
  | .rsel _ => .every
  | .rselTie _ => .every
  | .vshfl _ => .every
  | .vred _ => .every
  | .vscan _ => .every
  | .fadd _ => .arith
  | .fsub _ => .arith
  | .fmul _ => .arith
  | .ffma _ => .arith
  | .ffms _ => .arith
  | .fmin _ => .arith
  | .fmax _ => .arith
  | .fminm _ => .arith
  | .fmaxm _ => .arith
  | .fsgn _ => .arith
  | .fcmp _ => .arith
  | .fclass _ => .arith
  | .fdiv _ => .arith
  | .fsqrt _ => .arith
  | .frcp _ => .arith
  | .frsq _ => .arith
  | .fexp2 _ => .arith
  | .flog2 _ => .arith
  | .frnd _ => .arith
  | .fscale _ => .arith
  | .fdot _ => .arith
  | .fdp2 _ => .arith
  | .fdp4 _ => .arith
  | .hadd2 _ => .arith
  | .hmul2 _ => .arith
  | .hfma2 _ => .arith
  | .hmin2 _ => .arith
  | .hmax2 _ => .arith
  | .fgetx _ => .arith
  | .cvt _ => .arith
  | .cvti _ => .arith
  | .cvtf _ => .arith
  | .cvtt _ => .arith
  | .pack _ => .arith
  | .unpack _ => .arith
  | .bfpk _ => .arith
  | .bfun _ => .arith
  | .mxpk _ => .arith
  | .mxun _ => .arith
  | .plane _ => .arith
  | .unplane _ => .arith
  | .setfmt _ => .every
  | .getfmt _ => .every
  | .fstat _ => .every
  | .setfpm _ => .every
  | .ld _ => .every
  | .st _ => .every
  | .ldu _ => .every
  | .stu _ => .every
  | .pref _ => .every
  | .spagePin _ => .every
  | .spageUnpin _ => .every
  | .spageQuery _ => .every
  | .ldnt _ => .every
  | .stnt _ => .every
  | .cpy _ => .copyOnly
  | .cpy2d _ => .copyOnly
  | .cpypl _ => .copyOnly
  | .cpeat _ => .copyOnly
  | .cpack _ => .copyOnly
  | .psel _ => .copyOnly
  | .cpfill _ => .copyOnly
  | .eresume _ => .supervisor
  | .eresumeAbort _ => .supervisor
  | .binit _ => .every
  | .barr _ => .every
  | .bexp _ => .every
  | .waitph _ => .every
  | .testph _ => .every
  | .gridbar _ => .every
  | .atom _ => .every
  | .atomf _ => .every
  | .red _ => .every
  | .rednm _ => .every
  | .nmfence _ => .every
  | .dwacq _ => .every
  | .dwrel _ => .every
  | .atomw _ => .every
  | .atomq _ => .every
  | .fence _ => .every
  | .mma _ => .every
  | .mmas _ => .every
  | .mzero _ => .every
  | .mldacc _ => .every
  | .mstacc _ => .every
  | .mscale _ => .every
  | .mqry _ => .every
  | .accrd _ => .vectorOnly
  | .accwr _ => .vectorOnly
  | .accacq _ => .vectorOnly
  | .accrel _ => .vectorOnly
  | .gath _ => .copyOnly
  | .gathp _ => .copyOnly
  | .scata _ => .copyOnly
  | .scataClose _ => .copyOnly
  | .gpref _ => .copyOnly
  | .thdl _ => .copyOnly
  | .gstat _ => .copyOnly
  | .shcnt _ => .copyOnly
  | .dtree _ => .vectorOnly
  | .desc _ => .vectorOnly
  | .dregr _ => .vectorOnly
  | .dgrad _ => .vectorOnly
  | .dpathRead _ => .vectorOnly
  | .dpathWrite _ => .vectorOnly
  | .dstat _ => .vectorOnly
  | .tql _ => .vectorOnly
  | .tql2 _ => .vectorOnly
  | .tqmul _ => .vectorOnly
  | .tqcmt _ => .vectorOnly
  | .cqsub _ => .copyOnly
  | .cqstat _ => .copyOnly
  | .rjoin _ => .copyOnly
  | .rsend _ => .copyOnly
  | .rclose _ => .copyOnly
  | .rcnt _ => .copyOnly
  | .dmark _ => .supervisor
  | .wlset _ => .supervisor
  | .lstat _ => .copyOnly
  | .salu _ => .every
  | .salui _ => .every
  | .scmp _ => .every
  | .sli _ => .every
  | .sld _ => .every
  | .sst _ => .every
  | .srdsr _ => .every
  | .cldc _ => .every
  | .cstc _ => .every
  | .crow _ => .every
  | .cred _ => .every
  | .cend _ => .every
  | .allocFullGrant .. => .every
  | .rextGrant .. => .every
  | .scratchpadPageRefill .. => .every
  | .copyComplete .. => .every
  | .copySuspend .. => .every
  | .waitphWake .. => .every
  | .waitphTimeout .. => .every
  | .dwacqWake .. => .every
  | .rednmApply .. => .every
  | .unitOpStart .. => .every
  | .unitOpComplete .. => .every
  | .accTokenGrant .. => .every
  | .gatherRowService .. => .every
  | .gatherComplete .. => .every
  | .scatterAddApply .. => .every
  | .descComplete .. => .every
  | .descSuspend .. => .every
  | .dgradComplete .. => .every
  | .queryComplete .. => .every
  | .postedStoreDrain .. => .every
  | .instanceStart .. => .every
  | .bankReservationExpiry .. => .every
  | .cellarCommandAged .. => .every
  | .queueSlotGrant .. => .every
  | .ageIntervalExpiry .. => .every
  | .quantumExpiry .. => .every
  | .launchAdmission .. => .every
  | .waitEntry .. => .every
  | .waitEntryPass .. => .every
  | .copyCommand .. => .every
  | .copyCommandComplete .. => .every
  | .cellarTaskRead .. => .every
  | .workRequest .. => .every
  | .workgroupDispatch .. => .every
  | .damperExchange .. => .every
  | .splitChange .. => .every
  | .workgroupRetire .. => .every
  | .launchComplete .. => .every
  | .pageWalkComplete .. => .every
  | .lineFetch .. => .every
  | .loadComplete .. => .every
  | .demotionStart .. => .every
  | .demotionPageMove .. => .every
  | .htlbiComplete .. => .every
  | .remoteFail .. => .every
  | .preemptSaveComplete => .every
  | .atomicComplete .. => .every
  | .rednmDrop .. => .every
  | .gatherRequestReceive .. => .every
  | .gatherReply .. => .every
  | .gatherPositionTimeout .. => .every
  | .scatterCloseArrive .. => .every
  | .routingRowArrive .. => .every
  | .roundCloseArrive .. => .every
  | .queueEnable .. => .every
  | .queueDisable .. => .every
  | .qwidxWrite .. => .every
  | .latchAcquire .. => .every
  | .latchRelease .. => .every
  | .latchBreak .. => .every
  | .latchInvalidCommand .. => .every
  | .hpartWrite .. => .every
  | .hptrWrite .. => .every
  | .hsbkWrite .. => .every
  | .htlbiPage .. => .every
  | .htlbiAll .. => .every
  | .hfwiWrite => .every
  | .hrekeyGo .. => .every
  | .hpreGo .. => .every
  | .hpreResume .. => .every
  | .hkillGo .. => .every
  | .hcabtWrite .. => .every
  | .hashrWrite .. => .every
  | .msixDeferredSend .. => .every
  | .powerOnRequest => .every
  | .powerIdleRequest => .every
  | .powerHoldRequest => .every
  | .hrcvGo .. => .every
  | .recoveryCheckDone .. => .every
  | .registerWrite .. => .every
  | .hostMemoryAccess .. => .every
  | .accessCountDecay => .every
  | .ptsAdvance .. => .every
  | .remoteRequestServe .. => .every
  | .remoteReply .. => .every
  | .relayForward .. => .every
  | .flitReceive .. => .every
  | .flitAck .. => .every
  | .rekeySeqTrigger .. => .every
  | .keyBankSwitch .. => .every
  | .laneDrained .. => .every
  | .laneRelock .. => .every
  | .relockTimeout .. => .every
  | .dieLost .. => .every
  | .pageinRequest .. => .every
  | .pageinComplete .. => .every
  | .thermtrip => .every
  | .powerLoss => .every
  | .deviceReset .. => .every
  | .lifecycleRequest .. => .every
  | .debugSessionEnter .. => .every
  | .debugSessionEnd .. => .every
  | .attestationRequest .. => .every
  | .signedUpdateRequest .. => .every
  | .softError .. => .every
  | .hostLinkDown .. => .every

/-- What each instruction accepts in its fields: its OP, TY, DST, source positions, FPC, XT, NB and HINT
(chapters 08 to 18 by opcode; R118, R121, R122). Events have no fields (logs 21, 57). -/
def shapeOf : Instr → Shape
  | .nop _ => {}
  | .br _ => { extra := .br }
  | .brc _ => { extra := .brc }
  | .brm _ => { extra := .brm }
  | .brmEm _ => { ops := [1], extra := .brmEm }
  | .call _ => { extra := .br }
  | .ret _ => {}
  | .loop _ => { extra := .loop }
  | .exit _ => {}
  | .yield _ => {}
  | .trap _ => { xt := xAny }
  | .svc _ => { xt := xAny }
  | .sret _ => { xt := xLt 2 }
  | .rdsr _ => { tys := tZ3264, dst := (.vg, .ty), xt := xLt 256, extra := .rdsr }
  | .wrsr _ => { tys := tZ3264, a := (.any, .ty), xt := xLt 256, extra := .wrsr }
  | .launch _ => { dst := (.g, .one), a := (.uni, .one) }
  | .allocFull _ => {}
  | .allocRext _ => { ops := [1], xt := xCount }
  | .allocRrel _ => { ops := [2], xt := xCount }
  | .iadd _ => { tys := tAll, dst := (.vg, .ty), a := (.any, .ty), b := (.any, .ty), xt := xLt 2 }
  | .isub _ => { tys := tAll, dst := (.vg, .ty), a := (.any, .ty), b := (.any, .ty), xt := xLt 2 }
  | .imul _ => { tys := tAll, dst := (.vg, .ty), a := (.any, .ty), b := (.any, .ty), xt := xLt 2 }
  | .imulh _ => { tys := tAll, dst := (.vg, .ty), a := (.any, .ty), b := (.any, .ty), xt := xLt 2 }
  | .imad _ => { tys := tAll, dst := (.vg, .ty), a := (.any, .ty), b := (.any, .ty), c := (.any, .ty), xt := xLt 2 }
  | .imadw _ => { tys := tTo32, dst := (.vg, .dbl), a := (.any, .ty), b := (.any, .ty), c := (.any, .dbl), xt := xLt 2 }
  | .idiv _ => { tys := tAll, dst := (.vg, .ty), a := (.any, .ty), b := (.any, .ty), xt := xLt 2 }
  | .irem _ => { tys := tAll, dst := (.vg, .ty), a := (.any, .ty), b := (.any, .ty), xt := xLt 2 }
  | .imin _ => { tys := tAll, dst := (.vg, .ty), a := (.any, .ty), b := (.any, .ty), xt := xLt 2 }
  | .imax _ => { tys := tAll, dst := (.vg, .ty), a := (.any, .ty), b := (.any, .ty), xt := xLt 2 }
  | .iabs _ => { tys := tS, dst := (.vg, .ty), a := (.any, .ty), xt := xLt 2 }
  | .ineg _ => { tys := tAll, dst := (.vg, .ty), a := (.any, .ty), xt := xLt 2 }
  | .and _ => { tys := tAll, dst := (.vg, .ty), a := (.any, .ty), b := (.any, .ty), xt := xLt 2 }
  | .or _ => { tys := tAll, dst := (.vg, .ty), a := (.any, .ty), b := (.any, .ty), xt := xLt 2 }
  | .xor _ => { tys := tAll, dst := (.vg, .ty), a := (.any, .ty), b := (.any, .ty), xt := xLt 2 }
  | .andn _ => { tys := tAll, dst := (.vg, .ty), a := (.any, .ty), b := (.any, .ty), xt := xLt 2 }
  | .shl _ => { tys := tAll, dst := (.vg, .ty), a := (.any, .ty), b := (.any, .ty), xt := xLt 2 }
  | .shr _ => { tys := tAll, dst := (.vg, .ty), a := (.any, .ty), b := (.any, .ty), xt := xLt 2 }
  | .sar _ => { tys := tAll, dst := (.vg, .ty), a := (.any, .ty), b := (.any, .ty), xt := xLt 2 }
  | .rot _ => { tys := tAll, dst := (.vg, .ty), a := (.any, .ty), b := (.any, .ty), xt := xLt 2 }
  | .popc _ => { tys := tAll, dst := (.vg, .ty), a := (.any, .ty), xt := xLt 2 }
  | .clz _ => { tys := tAll, dst := (.vg, .ty), a := (.any, .ty), xt := xLt 2 }
  | .brev _ => { tys := tAll, dst := (.vg, .ty), a := (.any, .ty), xt := xLt 2 }
  | .bfx _ => { tys := tAll, dst := (.vg, .ty), a := (.any, .ty), b := (.any, .ty), xt := xLt 2 }
  | .bfi _ => { tys := tAll, dst := (.vg, .ty), a := (.any, .ty), b := (.any, .ty), c := (.any, .ty), xt := xLt 2 }
  | .icmp _ => { ops := [0, 1, 2, 3, 4, 5], tys := tAll, dst := (.mask, .one), a := (.any, .ty), b := (.any, .ty) }
  | .sel _ => { tys := tAll ++ tB64, dst := (.vg, .ty), a := (.any, .ty), b := (.any, .ty), c := (.mask, .one) }
  | .mov _ => { tys := tAll ++ tB128, dst := (.vg, .ty), a := (.any, .ty), extra := .movG }
  | .movi _ => { tys := tAll, dst := (.vg, .ty) }
  | .lea _ => { tys := [(false, 7)], dst := (.vg, .ty), b := (.any, .one) }
  | .widx _ => { tys := tZ3264, dst := (.vg, .ty), xt := xWidx }
  | .iadds _ => { tys := tAll, dst := (.vg, .ty), a := (.any, .ty), b := (.any, .ty), xt := xLt 2 }
  | .mset _ => { dst := (.mask, .one), a := (.uniImm, .one) }
  | .mlog _ => { ops := [0, 1, 2, 3, 4], dst := (.mask, .one), a := (.mask, .one), b := (.mask, .one), extra := .mlogNot }
  | .mif _ => { a := (.mask, .one) }
  | .melse _ => {}
  | .mend _ => {}
  | .msave _ => { a := (.uni, .one) }
  | .mload _ => { a := (.uni, .one) }
  | .mstat _ => { dst := (.g, .one), a := (.mask, .one), xt := xLt 3, extra := .mstatMask }
  | .mpopc _ => { dst := (.g, .one), a := (.mask, .one) }
  | .mfirst _ => { dst := (.g, .one), a := (.mask, .one) }
  | .ballot _ => { tys := tAll, dst := (.mask, .one), a := (.any, .ty) }
  | .bcnt _ => { dst := (.v, .one), a := (.mask, .one), xt := xLt 2 }
  | .rsel _ => { tys := tZ3264, dst := (.g, .one), a := (.any, .ty), b := (.uniImm, .one), c := (.uni, .one), xt := xRsel }
  | .rselTie _ => { ops := [1], dst := (.g, .one), c := (.uni, .one), xt := xRsel }
  | .vshfl _ => { tys := [(true, 2), (true, 3)], dst := (.v, .ty), a := (.any, .ty), b := (.any, .one) }
  | .vred _ => { ops := [0, 1, 2, 3, 4, 5], tys := tAll ++ [(false, 8)], dst := (.vg, .ty), a := (.any, .ty), fpc := true, extra := .redF32 }
  | .vscan _ => { ops := [0, 1, 2, 3, 4, 5], tys := tAll ++ [(false, 8)], dst := (.v, .ty), a := (.any, .ty), fpc := true, xt := xLt 2, extra := .redF32 }
  | .fadd _ => { tys := tF, dst := (.v, .one), a := (.any, .one), b := (.any, .one), fpc := true }
  | .fsub _ => { tys := tF, dst := (.v, .one), a := (.any, .one), b := (.any, .one), fpc := true }
  | .fmul _ => { tys := tF, dst := (.v, .one), a := (.any, .one), b := (.any, .one), fpc := true }
  | .ffma _ => { tys := tF, dst := (.v, .one), a := (.any, .one), b := (.any, .one), c := (.any, .one), fpc := true }
  | .ffms _ => { tys := tF, dst := (.v, .one), a := (.any, .one), b := (.any, .one), c := (.any, .one), fpc := true }
  | .fmin _ => { tys := tF, dst := (.v, .one), a := (.any, .one), b := (.any, .one), fpc := true }
  | .fmax _ => { tys := tF, dst := (.v, .one), a := (.any, .one), b := (.any, .one), fpc := true }
  | .fminm _ => { tys := tF, dst := (.v, .one), a := (.any, .one), b := (.any, .one), fpc := true }
  | .fmaxm _ => { tys := tF, dst := (.v, .one), a := (.any, .one), b := (.any, .one), fpc := true }
  | .fsgn _ => { tys := tF, dst := (.v, .one), a := (.any, .one), b := (.any, .one), fpc := true, xt := xLt 3 }
  | .fcmp _ => { ops := [0, 1, 2, 3, 4, 5, 6, 7], tys := tF, dst := (.mask, .one), a := (.any, .one), b := (.any, .one), fpc := true }
  | .fclass _ => { tys := tF, dst := (.v, .one), a := (.any, .one), fpc := true }
  | .fdiv _ => { tys := tF, dst := (.v, .one), a := (.any, .one), b := (.any, .one), fpc := true }
  | .fsqrt _ => { tys := tF, dst := (.v, .one), a := (.any, .one), fpc := true }
  | .frcp _ => { tys := tF, dst := (.v, .one), a := (.any, .one), fpc := true }
  | .frsq _ => { tys := tF, dst := (.v, .one), a := (.any, .one), fpc := true }
  | .fexp2 _ => { tys := tF, dst := (.v, .one), a := (.any, .one), fpc := true }
  | .flog2 _ => { tys := tF, dst := (.v, .one), a := (.any, .one), fpc := true }
  | .frnd _ => { tys := tF, dst := (.v, .one), a := (.any, .one), fpc := true }
  | .fscale _ => { tys := tF, dst := (.v, .one), a := (.any, .one), b := (.any, .one), fpc := true }
  | .fdot _ => { tys := [(false, 9), (false, 10), (false, 11), (false, 12)], dst := (.v, .one), a := (.any, .one), b := (.any, .one), c := (.uni, .one), fpc := true }
  | .fdp2 _ => { tys := tH, dst := (.v, .one), a := (.any, .one), b := (.any, .one), c := (.any, .one), fpc := true }
  | .fdp4 _ => { tys := [(false, 11), (false, 12)], dst := (.v, .one), a := (.any, .one), b := (.any, .one), c := (.any, .one), fpc := true }
  | .hadd2 _ => { tys := tH, dst := (.v, .one), a := (.any, .one), b := (.any, .one), fpc := true }
  | .hmul2 _ => { tys := tH, dst := (.v, .one), a := (.any, .one), b := (.any, .one), fpc := true }
  | .hfma2 _ => { tys := tH, dst := (.v, .one), a := (.any, .one), b := (.any, .one), c := (.any, .one), fpc := true }
  | .hmin2 _ => { tys := tH, dst := (.v, .one), a := (.any, .one), b := (.any, .one), fpc := true }
  | .hmax2 _ => { tys := tH, dst := (.v, .one), a := (.any, .one), b := (.any, .one), fpc := true }
  | .fgetx _ => { tys := tF, dst := (.v, .one), a := (.any, .one), fpc := true }
  | .cvt _ => { tys := tCvt, dst := (.v, .one), a := (.any, .one), fpc := true, xt := xLt 16, extra := .cvt }
  | .cvti _ => { tys := tAll, dst := (.v, .ty), a := (.any, .one), fpc := true, xt := xLt 16, extra := .cvti }
  | .cvtf _ => { tys := tF, dst := (.v, .one), a := (.any, .src), fpc := true, xt := xLt 16, extra := .cvtf }
  | .cvtt _ => { tys := tCvt.tail, dst := (.v, .one), a := (.any, .one), fpc := true, xt := xLt 16, extra := .cvtt }
  | .pack _ => { tys := [(true, 0), (true, 1)], dst := (.v, .one), a := (.any, .one), b := (.any, .one), xt := xLt 4, extra := .pack }
  | .unpack _ => { tys := [(false, 0), (false, 4), (false, 1), (false, 5)], dst := (.v, .one), a := (.any, .one), xt := xLt 4, extra := .unpack }
  | .bfpk _ => { tys := tTs, dst := (.v, .one), a := (.any, .one) }
  | .bfun _ => { tys := tTs, dst := (.v, .one), a := (.any, .one) }
  | .mxpk _ => { tys := tMx, dst := (.v, .one), a := (.any, .one) }
  | .mxun _ => { tys := tMx, dst := (.v, .one), a := (.any, .one), fpc := true }
  | .plane _ => { dst := (.v, .one), a := (.block, .blk), xt := xPlane }
  | .unplane _ => { dst := (.v, .blk), a := (.any, .one), xt := xPlane }
  | .setfmt _ => { a := (.uniImm, .one) }
  | .getfmt _ => { dst := (.g, .one) }
  | .fstat _ => { dst := (.g, .one), xt := xLt 2 }
  | .setfpm _ => { a := (.uniImm, .one) }
  | .ld _ => { tys := tAll ++ tB128, dst := (.v, .ty), b := (.any, .one), hint := 3 }
  | .st _ => { tys := tAll ++ tB128, a := (.any, .ty), b := (.any, .one), hint := 3 }
  | .ldu _ => { tys := tAll, dst := (.g, .one), b := (.uniImm, .one), hint := 3 }
  | .stu _ => { tys := tAll, a := (.uniImm, .one), b := (.uniImm, .one), hint := 3 }
  | .pref _ => { b := (.any, .one), hint := 3 }
  | .spagePin _ => { a := (.uni, .one), b := (.uni, .one) }
  | .spageUnpin _ => { ops := [1], a := (.uni, .one), b := (.uni, .one) }
  | .spageQuery _ => { ops := [2], dst := (.g, .one), a := (.uni, .one), b := (.uni, .one) }
  | .ldnt _ => { tys := tAll ++ tB128, dst := (.v, .ty), b := (.any, .one) }
  | .stnt _ => { tys := tAll ++ tB128, a := (.any, .ty), b := (.any, .one) }
  | .cpy _ => { dst := (.g, .one), a := (.uni, .one), b := (.uni, .one), c := (.uni, .one), nb := true }
  | .cpy2d _ => { dst := (.g, .one), a := (.uni, .one), b := (.uni, .one), c := (.uni, .one), nb := true, extra := .pairC }
  | .cpypl _ => { tys := tPl, dst := (.g, .one), a := (.uni, .one), b := (.uni, .one), c := (.uni, .one), xt := xLt 2, nb := true, extra := .cpypl }
  | .cpeat _ => { dst := (.g, .one), a := (.uni, .one), b := (.uni, .one), nb := true }
  | .cpack _ => { tys := tTs, dst := (.g, .one), a := (.uni, .one), b := (.uni, .one), c := (.uni, .one), nb := true, extra := .pairC }
  | .psel _ => { dst := (.g, .one), a := (.uni, .one), b := (.uni, .one), c := (.uni, .one), nb := true, extra := .pairC }
  | .cpfill _ => { dst := (.g, .one), a := (.uni, .one), b := (.uni, .one), c := (.uni, .one), xt := xLt 4, nb := true }
  | .eresume _ => { a := (.uni, .one) }
  | .eresumeAbort _ => { a := (.uni, .one), xt := xEq 1 }
  | .binit _ => { a := (.uniImm, .one), b := (.uniImm, .one), c := (.uniOpt, .one), nb := true, extra := .barObj }
  | .barr _ => { a := (.uniImm, .one), b := (.uniImm, .one), c := (.uniOpt, .one), nb := true, extra := .barObj }
  | .bexp _ => { a := (.uniImm, .one), b := (.uniImm, .one), c := (.uniOpt, .one), xt := xLt 2, nb := true, extra := .barObj }
  | .waitph _ => { dst := (.gOpt, .one), a := (.uniImm, .one), b := (.uniImmOpt, .one), c := (.uniOpt, .one), xt := xLt 2, nb := true, extra := .barGrid }
  | .testph _ => { dst := (.g, .one), a := (.uniImm, .one), c := (.uniOpt, .one), xt := xLt 2, nb := true, extra := .barGrid }
  | .gridbar _ => { dst := (.g, .one) }
  | .atom _ => { ops := [0, 1, 2, 3, 4, 5, 6, 7], tys := [(false, 2), (false, 6), (false, 3), (false, 7)], dst := (.v, .ty), a := (.any, .ty), b := (.any, .one) }
  | .atomf _ => { ops := [0, 1, 2], tys := [(false, 8)], dst := (.v, .one), a := (.any, .one), b := (.any, .one), fpc := true }
  | .red _ => { ops := [0, 1, 2, 3, 4, 5], tys := [(false, 2), (false, 6), (false, 3), (false, 7)] ++ [(false, 8)], a := (.any, .ty), b := (.any, .one), fpc := true, extra := .redF32 }
  | .rednm _ => { tys := [(false, 8)], a := (.any, .one), b := (.any, .one), fpc := true }
  | .nmfence _ => {}
  | .dwacq _ => { dst := (.g, .one), xt := xLt 32 }
  | .dwrel _ => { a := (.uni, .one) }
  | .atomw _ => { ops := [0, 1, 2, 3, 4, 5, 6, 7], tys := [(false, 2), (false, 6), (false, 3), (false, 7)], dst := (.v, .ty), a := (.any, .ty), b := (.uniImm, .one) }
  | .atomq _ => { ops := [0, 1, 2, 3, 4, 5, 6, 7], tys := [(true, 4)], dst := (.v, .ty), a := (.ident, .ty), b := (.any, .one) }
  | .fence _ => { ops := [0, 1, 2, 3, 4] }
  | .mma _ => { a := (.uni, .one), b := (.uni, .one), c := (.uni, .one), xt := xLt 64, nb := true }
  | .mmas _ => { a := (.uni, .one), b := (.uni, .one), c := (.uni, .one), xt := xLt 64, nb := true }
  | .mzero _ => { xt := xLt 64, nb := true }
  | .mldacc _ => { a := (.uni, .one), b := (.uni, .one), c := (.uni, .one), xt := xLt 64, nb := true }
  | .mstacc _ => { a := (.uni, .one), b := (.uni, .one), c := (.uni, .one), xt := xLt 64, nb := true }
  | .mscale _ => { a := (.uni, .one), b := (.uni, .one), xt := xLt 64, nb := true }
  | .mqry _ => { dst := (.g, .one), xt := xLt 8, nb := false }
  | .accrd _ => { tys := [(false, 8), (false, 10), (false, 9), (true, 5)], dst := (.v, .one), a := (.uni, .one), xt := xLt 64 }
  | .accwr _ => { tys := [(false, 8), (false, 10), (false, 9), (true, 5)], a := (.uni, .one), b := (.ident, .one), xt := xLt 64 }
  | .accacq _ => { xt := xLt 4 }
  | .accrel _ => { xt := xLt 4 }
  | .gath _ => { dst := (.g, .one), a := (.uni, .one), b := (.uni, .one), c := (.uni, .one), nb := true }
  | .gathp _ => { ops := [0, 1], dst := (.g, .one), a := (.uni, .one), b := (.uni, .one), c := (.uni, .one), nb := true, extra := .pairC }
  | .scata _ => { dst := (.g, .one), a := (.uni, .one), b := (.uni, .one), c := (.uni, .one), xt := xLt 2, nb := true }
  | .scataClose _ => { dst := (.g, .one), c := (.uni, .one), xt := xEq 3 }
  | .gpref _ => { dst := (.g, .one), a := (.uni, .one), b := (.uni, .one), c := (.uni, .one), nb := true }
  | .thdl _ => { dst := (.g, .one), a := (.uni, .one), b := (.uni, .one), nb := false }
  | .gstat _ => { dst := (.g, .one), a := (.uni, .one), b := (.uni, .one), nb := false }
  | .shcnt _ => { dst := (.none, .one), a := (.uni, .one), b := (.uni, .one), nb := false }
  | .dtree _ => { dst := (.g, .one), a := (.uni, .one), xt := xLt 4 }
  | .desc _ => { dst := (.v, .one), a := (.uni, .one), b := (.uni, .one), c := (.uni, .one), xt := xLt 4, nb := true }
  | .dregr _ => { dst := (.g, .one), a := (.uni, .one), b := (.uniImm, .one), xt := xLt 4 }
  | .dgrad _ => { dst := (.g, .one), a := (.uni, .one), b := (.uni, .one), c := (.uni, .one), xt := xLt 4, nb := true }
  | .dpathRead _ => { dst := (.v, .one), xt := xLt 4 }
  | .dpathWrite _ => { ops := [1], a := (.any, .one), xt := xLt 4 }
  | .dstat _ => { dst := (.g, .one), xt := xLt 8 }
  | .tql _ => { dst := (.v, .one), a := (.any, .one), c := (.maskM, .one), xt := xLt 256 }
  | .tql2 _ => { tys := [(false, 8)], dst := (.v, .one), a := (.any, .one), c := (.maskM, .one), xt := xAny }
  | .tqmul _ => { dst := (.v, .one), a := (.any, .one), b := (.any, .one), c := (.maskM, .one), xt := xLt 768 }
  | .tqcmt _ => {}
  | .cqsub _ => { dst := (.g, .one), a := (.uni, .one), nb := true }
  | .cqstat _ => { dst := (.g, .one), a := (.uni, .one), nb := false }
  | .rjoin _ => { dst := (.g, .one), a := (.uni, .one), xt := xLt 8, nb := false }
  | .rsend _ => { dst := (.none, .one), a := (.uni, .one), b := (.uni, .one), c := (.uni, .one), xt := xLt 8, nb := false }
  | .rclose _ => { dst := (.none, .one), xt := xLt 8, nb := false }
  | .rcnt _ => { dst := (.none, .one), a := (.uni, .one), xt := xLt 8, nb := false }
  | .dmark _ => { dst := (.none, .one), a := (.uni, .one), nb := false }
  | .wlset _ => { dst := (.g, .one), a := (.uni, .one), b := (.uni, .one), nb := false }
  | .lstat _ => { dst := (.g, .one), a := (.uni, .one), nb := false }
  | .salu _ => { extra := .salu }
  | .salui _ => { extra := .salui }
  | .scmp _ => { extra := .scmp }
  | .sli _ => { extra := .sli }
  | .sld _ => { extra := .sld }
  | .sst _ => { extra := .sst }
  | .srdsr _ => { extra := .srdsr }
  | .cldc _ => { dst := (.v, .one), a := (.any, .one) }
  | .cstc _ => { a := (.any, .one), b := (.any, .one) }
  | .crow _ => { a := (.uni, .one), xt := xLt 2 }
  | .cred _ => { tys := [(false, 2), (false, 6), (false, 8)], a := (.any, .one), b := (.any, .one), xt := xLt 2, extra := .credSat }
  | .cend _ => { xt := xAny }
  | .allocFullGrant .. => {}
  | .rextGrant .. => {}
  | .scratchpadPageRefill .. => {}
  | .copyComplete .. => {}
  | .copySuspend .. => {}
  | .waitphWake .. => {}
  | .waitphTimeout .. => {}
  | .dwacqWake .. => {}
  | .rednmApply .. => {}
  | .unitOpStart .. => {}
  | .unitOpComplete .. => {}
  | .accTokenGrant .. => {}
  | .gatherRowService .. => {}
  | .gatherComplete .. => {}
  | .scatterAddApply .. => {}
  | .descComplete .. => {}
  | .descSuspend .. => {}
  | .dgradComplete .. => {}
  | .queryComplete .. => {}
  | .postedStoreDrain .. => {}
  | .instanceStart .. => {}
  | .bankReservationExpiry .. => {}
  | .cellarCommandAged .. => {}
  | .queueSlotGrant .. => {}
  | .ageIntervalExpiry .. => {}
  | .quantumExpiry .. => {}
  | .launchAdmission .. => {}
  | .waitEntry .. => {}
  | .waitEntryPass .. => {}
  | .copyCommand .. => {}
  | .copyCommandComplete .. => {}
  | .cellarTaskRead .. => {}
  | .workRequest .. => {}
  | .workgroupDispatch .. => {}
  | .damperExchange .. => {}
  | .splitChange .. => {}
  | .workgroupRetire .. => {}
  | .launchComplete .. => {}
  | .pageWalkComplete .. => {}
  | .lineFetch .. => {}
  | .loadComplete .. => {}
  | .demotionStart .. => {}
  | .demotionPageMove .. => {}
  | .htlbiComplete .. => {}
  | .remoteFail .. => {}
  | .preemptSaveComplete => {}
  | .atomicComplete .. => {}
  | .rednmDrop .. => {}
  | .gatherRequestReceive .. => {}
  | .gatherReply .. => {}
  | .gatherPositionTimeout .. => {}
  | .scatterCloseArrive .. => {}
  | .routingRowArrive .. => {}
  | .roundCloseArrive .. => {}
  | .queueEnable .. => {}
  | .queueDisable .. => {}
  | .qwidxWrite .. => {}
  | .latchAcquire .. => {}
  | .latchRelease .. => {}
  | .latchBreak .. => {}
  | .latchInvalidCommand .. => {}
  | .hpartWrite .. => {}
  | .hptrWrite .. => {}
  | .hsbkWrite .. => {}
  | .htlbiPage .. => {}
  | .htlbiAll .. => {}
  | .hfwiWrite => {}
  | .hrekeyGo .. => {}
  | .hpreGo .. => {}
  | .hpreResume .. => {}
  | .hkillGo .. => {}
  | .hcabtWrite .. => {}
  | .hashrWrite .. => {}
  | .msixDeferredSend .. => {}
  | .powerOnRequest => {}
  | .powerIdleRequest => {}
  | .powerHoldRequest => {}
  | .hrcvGo .. => {}
  | .recoveryCheckDone .. => {}
  | .registerWrite .. => {}
  | .hostMemoryAccess .. => {}
  | .accessCountDecay => {}
  | .ptsAdvance .. => {}
  | .remoteRequestServe .. => {}
  | .remoteReply .. => {}
  | .relayForward .. => {}
  | .flitReceive .. => {}
  | .flitAck .. => {}
  | .rekeySeqTrigger .. => {}
  | .keyBankSwitch .. => {}
  | .laneDrained .. => {}
  | .laneRelock .. => {}
  | .relockTimeout .. => {}
  | .dieLost .. => {}
  | .pageinRequest .. => {}
  | .pageinComplete .. => {}
  | .thermtrip => {}
  | .powerLoss => {}
  | .deviceReset .. => {}
  | .lifecycleRequest .. => {}
  | .debugSessionEnter .. => {}
  | .debugSessionEnd .. => {}
  | .attestationRequest .. => {}
  | .signedUpdateRequest .. => {}
  | .softError .. => {}
  | .hostLinkDown .. => {}

/-! ### Static legality -/

/-- The width in bits of a type code (R42, R43, R120). -/
def typeBits (xty : Bool) (ty : Nat) : Nat :=
  if xty then (if ty ≤ 4 then 8 * 2 ^ ty else if ty = 5 then 36 else if ty = 6 then 4 else 8)
  else if ty < 8 then 8 * 2 ^ (ty % 4)
  else match ty with
    | 8 => 32 | 9 => 16 | 10 => 16 | 11 => 8 | 12 => 8 | 13 => 4 | 14 => 8 | _ => 4

/-- How many registers a value of so many bits takes (R44). -/
def regsOf (bits : Nat) : Nat := if bits ≤ 32 then 1 else bits / 32

/-- The registers that a span takes with these fields. -/
def Span.regs (f : Fields) : Span → Nat
  | .one => 1
  | .ty => regsOf (typeBits (f.xty == 1) f.ty)
  | .dbl => regsOf (2 * typeBits (f.xty == 1) f.ty)
  | .src => regsOf (typeBits false (f.xt % 16))
  | .blk => 4 * 2 ^ (f.xt / 32 % 4)

/-- The highest V register of an executor (R116, R119). -/
def Side.vMax : Side → Nat
  | .cellar => 15
  | _ => 127

/-- The highest G register of an executor (R115, R119). -/
def Side.gMax : Side → Nat
  | .cellar => 7
  | _ => 15

/-- The highest M register of an executor (R119). -/
def Side.mMax : Side → Nat
  | .cellar => 3
  | _ => 7

/-- A V register number with its span is legal: aligned to the span and within the file (R44, R119). -/
def vOk (s : Side) (r n : Nat) : Bool := r % n == 0 && decide (r + n ≤ s.vMax + 1)

/-- A mask number is legal: an M register of the executor, or 8 for EM (R115, R119). -/
def maskOk (s : Side) (r : Nat) : Bool := decide (r ≤ s.mMax) || r == 8

/-- The destination is legal (R115, R118, R119). -/
def dstOk (s : Side) (f : Fields) (k : DKind) (n : Nat) : Bool :=
  let g := decide (128 ≤ f.dst ∧ f.dst ≤ 128 + s.gMax)
  let v := decide (f.dst < 128) && vOk s f.dst n
  if s = .mcc then
    match k with
    | .none => f.dst == 0
    | _ => decide (f.dst < 32)
  else match k with
    | .none => f.dst == 0
    | .v => v
    | .g => g
    | .vg => v || g
    | .mask => decide (f.dst < 128) && maskOk s f.dst
    | .gOpt => f.dst == 0 || g

/-- The uniform pattern's fields other than Q are legal (R117, R119). -/
def uniOk (s : Side) (o : Opnd) : Bool :=
  o.pat == 5 && o.reg == 0 && (decide (o.q.toNat ≤ s.gMax) || decide (15 < o.q.toNat))

/-- The immediate pattern's fields are legal (R117). -/
def immOk (o : Opnd) : Bool := o.pat == 6 && o.wt == 0 && o.reg == 0

/-- A register pattern names legal registers (R44, R116, R119). -/
def regPatOk (s : Side) (o : Opnd) (n : Nat) : Bool :=
  o.pat != 5 && o.pat != 6 && vOk s o.reg.toNat n

/-- A source position has no reserved or illegal value (check 6 of R127); Q with PAT 000 in a position that takes a mask or lane i
alone counts as one (R116, R117, log 89). -/
def srcRsvOk (s : Side) (o : Opnd) (k : OKind) (n : Nat) : Bool :=
  if s = .mcc then
    match k with
    | .none => o == .zero
    | _ => o.wt == 0 && o.pat == 0 && o.q == 0 && decide (o.reg.toNat < 32)
  else match k with
    | .none => o == .zero
    | .any => regPatOk s o n || uniOk s o || immOk o
    | .uni => uniOk s o
    | .uniImm => uniOk s o || immOk o
    | .uniOpt => o == .zero || uniOk s o
    | .uniImmOpt => o == .zero || uniOk s o || immOk o
    | .mask => o.pat == 0 && o.wt == 0 && o.q == 0 && maskOk s o.reg.toNat
    | .maskM => o.pat == 0 && o.wt == 0 && o.q == 0 && decide (o.reg.toNat ≤ 7)
    | .ident => o.pat == 0 && o.q == 0 && vOk s o.reg.toNat n
    | .block => decide (o.pat.toNat ≤ 4 ∨ o.pat = 7) && vOk s o.reg.toNat n

/-- log2 of a group width. -/
def log2W (w : Nat) : Nat := if w = 64 then 6 else if w = 32 then 5 else if w = 16 then 4 else if w = 8 then 3 else 0

/-- A pattern code and its parameter are legal for a group of width `w` (R116, check 7 of R127). -/
def patOk (w : Nat) (o : Opnd) (b128 : Bool) : Bool :=
  match o.pat.toNat with
  | 0 => o.q == 0
  | 1 => true
  | 2 => decide (o.q.toNat < w)
  | 3 => decide (o.q.toNat < log2W w)
  | 4 => decide (o.q.toNat ≤ log2W w)
  | 5 => decide (o.q.toNat ≤ 15) && !b128
  | 6 => true
  | _ => false

/-- A source position passes check 7. -/
def srcPatOk (s : Side) (w : Nat) (o : Opnd) (k : OKind) (n : Nat) : Bool :=
  if s = .mcc then true
  else match k with
    | .none => true
    | _ => patOk w o (n == 4 && k != .block)

/-- FPC is legal where it carries meaning (R63). -/
def fpcOk (x : BitVec 9) : Bool :=
  fieldOf x 0 2 == 0 && fieldOf x 6 2 != 3 && (fieldOf x 8 1 == 1 || fieldOf x 2 6 == 0)

/-- NB is legal where it is used (R113). -/
def nbOk (n : Nat) : Bool := decide (n ≤ 47) || n == 63

/-- The special registers that exist (R158); a Cellar unit has three (R350). -/
def srKnown (s : Side) (n : Nat) : Bool :=
  match s with
  | .cellar => n == 0x01 || n == 0x10 || n == 0x11
  | _ => decide (n ≤ 0x0C) || n == 0x10 || n == 0x11 || decide (0x20 ≤ n ∧ n ≤ 0x27)

/-- The special registers that WRSR may name (R158, R159). -/
def srWritable (n : Nat) : Bool := n == 0x0C || n == 0x20 || n == 0x22

/-- Two fields are even: the pair position SC (R233). -/
def pairOk (o : Opnd) : Bool := o.q.toNat % 2 == 0

/-- A barrier is a named one, or with NB 63 the object whose address SC names (R372). -/
def barOk (s : Side) (f : Fields) : Bool :=
  if f.nb = 63 then s == .mcc || f.c != .zero else f.c == .zero

/-- The rules of single instructions at check 6. -/
def extraOk (s : Side) (f : Fields) : Extra → Bool
  | .none => true
  | .br => f.cond == 0 && f.cnt == 0 && decide (f.tslot ≤ 4)
  | .brc => decide (f.cond ≤ 9) && f.cnt == 0 && decide (f.tslot ≤ 4)
  | .brm => f.cnt == 0 && decide (f.tslot ≤ 4) && s != .mcc && decide (f.cond % 8 ≤ s.mMax)
  | .brmEm => f.cnt == 0 && decide (f.tslot ≤ 4) && s != .mcc && f.cond % 8 == 0
  | .loop => f.cond == 0 && decide (f.tslot ≤ 4) && (s != .cellar || decide (f.cnt ≤ 7))
  | .salu => f.scl.all fun x => decide (x.fn.toNat ≤ 0xC) && x.imm == 0
  | .salui => f.scl.all fun x => decide (x.fn.toNat ≤ 0xC) && x.s2 == 0
  | .scmp => f.scl.all fun x => decide (x.fn.toNat ≤ 9) && x.imm == 0
  | .sli => f.scl.all fun x => decide (x.fn.toNat ≤ 1) && x.s1 == 0 && x.s2 == 0
  | .sld => f.scl.all fun x => decide (x.fn.toNat ≤ 6) && x.s2 == 0
  | .sst => f.scl.all fun x => decide (x.fn.toNat ≤ 3) && x.sd == 0
  | .srdsr => f.scl.all fun x =>
      x.fn == 0 && x.s1 == 0 && x.s2 == 0 && decide (x.imm.toNat < 256) && srKnown .mcc x.imm.toNat
  | .rdsr => srKnown s f.xt && (s == .mcc || decide (f.dst < 128) || f.ty == 7)
  | .wrsr => srWritable f.xt
  | .movG => !(f.xty == 1 && f.ty == 4 && decide (128 ≤ f.dst))
  | .mlogNot => if f.op = 4 then f.b == .zero else srcRsvOk s f.b .mask 1
  | .mstatMask => if f.xt = 1 then srcRsvOk s f.a .mask 1 else f.a == .zero
  | .redF32 => if f.ty = 8 then decide (f.op ≤ 2) && fpcOk f.fpc else f.fpc == 0
  | .cvt => decide (8 ≤ f.xt ∧ f.xt ≤ 12)
  | .cvti => decide (8 ≤ f.xt ∧ f.xt ≤ 10)
  | .cvtf => decide (f.xt ≤ 7)
  | .cvtt => decide (8 ≤ f.xt ∧ f.xt ≤ 9)
  | .pack => decide (f.xt < 4 / 2 ^ f.ty)
  | .unpack => decide (f.xt < 4 / 2 ^ (f.ty % 4))
  | .cpypl => pairOk f.c && (f.xt == 0 || f.ty == 0 || f.ty == 4)
  | .pairC => pairOk f.c
  | .barObj => barOk s f
  | .barGrid => if f.xt % 2 = 1 then f.nb == 63 && f.c == .zero else barOk s f
  | .credSat => f.xt == 0 || f.ty == 8

/-- The mask and mask-or-zero positions that an extra rule checks itself. -/
def Extra.ownsA : Extra → Bool
  | .mstatMask => true
  | _ => false

def Extra.ownsB : Extra → Bool
  | .mlogNot => true
  | _ => false

/-- Check 6 of R127 on the fields. -/
def rsvOk (s : Side) (h : Shape) (f : Fields) : Bool :=
  h.ops.contains f.op && h.tys.contains (f.xty == 1, f.ty)
  && dstOk s f h.dst.1 (h.dst.2.regs f)
  && (h.extra.ownsA || srcRsvOk s f.a h.a.1 (h.a.2.regs f))
  && (h.extra.ownsB || srcRsvOk s f.b h.b.1 (h.b.2.regs f))
  && srcRsvOk s f.c h.c.1 (h.c.2.regs f)
  && (h.extra == .redF32 || (if h.fpc then fpcOk f.fpc else f.fpc == 0))
  && h.xt f.xt && (if h.nb then nbOk f.nb else f.nb == 63) && decide (f.hint < h.hint)
  && extraOk s f h.extra

/-- Check 7 of R127 on the fields. -/
def patternOk (s : Side) (w : Nat) (h : Shape) (f : Fields) : Bool :=
  srcPatOk s w f.a h.a.1 (h.a.2.regs f) && srcPatOk s w f.b h.b.1 (h.b.2.regs f)
  && srcPatOk s w f.c h.c.1 (h.c.2.regs f)

/-- The opcodes that an executor accepts among the assigned ones (R124, R350). -/
def accepts : Side → Nat → Bool
  | .wide, o => !(decide (0xC0 ≤ o ∧ o ≤ 0xC6) || decide (0x90 ≤ o ∧ o ≤ 0x96) || decide (0xD0 ≤ o ∧ o ≤ 0xD4))
  | .mcc, o =>
    (decide (o ≤ 0x0F) && o != 0x0E) || [0x8F, 0x81, 0x82, 0x83, 0x84, 0x8B, 0x8C, 0x6C, 0x6D].contains o
      || decide (0xC0 ≤ o ∧ o ≤ 0xC6) || decide (0x90 ≤ o ∧ o ≤ 0x96)
  | .cellar, o =>
    [0x00, 0x01, 0x02, 0x03, 0x06, 0x0C, 0x2F].contains o || decide (0x10 ≤ o ∧ o ≤ 0x2C)
      || decide (0x30 ≤ o ∧ o ≤ 0x34) || decide (0x37 ≤ o ∧ o ≤ 0x3B) || decide (0x3D ≤ o ∧ o ≤ 0x3F)
      || decide (0x40 ≤ o ∧ o ≤ 0x46) || [0x49, 0x4A, 0x57, 0x58, 0x59, 0x60, 0x61, 0x62, 0x64, 0x65].contains o
      || decide (0x6C ≤ o ∧ o ≤ 0x6F) || decide (0xD0 ≤ o ∧ o ≤ 0xD4)

/-- Check 4 of R127 but for the supervisor rule: the opcode is assigned and the executor accepts it. -/
def identifyOn (s : Side) (w : Slot) : Option Instr :=
  if accepts s (opcOf w).toNat then identify w else none

/-- The bits of a slot outside its format's fields are zero: the slot is what its fields encode (R109, R112 to
R114). -/
def reservedZero (i : Instr) (w : Slot) : Bool := encode i == some w

/-- The executor refuses ALLOC.REXT and ALLOC.RREL on the MCC as ILLEGAL/RSV (R164). -/
def sideRsvOk (s : Side) : Instr → Bool
  | .allocRext _ => s != .mcc
  | .allocRrel _ => s != .mcc
  | _ => true

/-- Check 6 on an instruction. -/
def instrRsvOk (s : Side) (i : Instr) : Bool :=
  sideRsvOk s i && (fieldsOf i).all fun f => rsvOk s (shapeOf i) f

/-- Check 7 on an instruction in a group of width `w`. -/
def instrPatternOk (s : Side) (w : Nat) (i : Instr) : Bool :=
  (fieldsOf i).all fun f => patternOk s w (shapeOf i) f

/-- Decodes a slot on an executor for a group of width `w`, total on any bits, refusing by the name of the check
that fails (R127, checks 4, 6 and 7). -/
def decode (s : Side) (w : Nat) (x : Slot) : Except DecodeErr Instr :=
  match identifyOn s x with
  | none => .error .opc
  | some i =>
    if !(reservedZero i x && instrRsvOk s i) then .error .rsv
    else if !instrPatternOk s w i then .error .pattern
    else .ok i

/-- Supervisor slots of check 4: the instructions of R126, and RDSR, SRDSR or WRSR of a supervisor register (R159). -/
def supervisorOnly (i : Instr) : Bool :=
  classOf i == .supervisor ||
    match i with
    | .rdsr f => decide (0x21 ≤ f.xt.toNat % 256 ∧ f.xt.toNat % 256 ≤ 0x27)
    | .srdsr f => decide (0x21 ≤ f.imm.toNat % 256 ∧ f.imm.toNat % 256 ≤ 0x27)
    | .wrsr f => f.xt.toNat % 256 == 0x20 || f.xt.toNat % 256 == 0x22
    | _ => false

/-- The instruction this decoder reads from the `nbits` low bits of `w`, the bits above them zero: on the wide side in
a group of 64 lanes, else on the MCC, else on a Cellar unit. -/
def decodeTableWord (nbits w : Nat) : Option Instr :=
  let x : Slot := BitVec.ofNat 96 (w % 2 ^ nbits)
  match decode .wide 64 x with
  | .ok i => some i
  | .error _ =>
    match decode .mcc 1 x with
    | .ok i => some i
    | .error _ =>
      match decode .cellar 32 x with
      | .ok i => some i
      | .error _ => none

end Sys2Proof
end

