-- ==== Sys2Proof/Machine/Store.lean ====
section
/-!
DEFINITION. The sparse store in canonical form that every memory and register file of the model uses, and the
byte-order helpers over it.
-/

namespace Sys2Proof.Machine

/-- A map from keys to words, as a list in one canonical form: keys strictly rising, and no entry equal to zero,
which is what an unlisted key reads as (log 1). -/
abbrev Store (w : Nat) := List (Nat × BitVec w)

/-- The word at a key. -/
def Store.get {w : Nat} : Store w → Nat → BitVec w
  | [], _ => 0#w
  | (a, v) :: m, k => if a = k then v else Store.get m k

/-- Puts an entry in front, unless it holds what an unlisted key reads as. -/
def Store.cons {w : Nat} (k : Nat) (v : BitVec w) (m : Store w) : Store w :=
  if v = 0#w then m else (k, v) :: m

/-- The store without the entries of a key. -/
def Store.drop {w : Nat} (m : Store w) (k : Nat) : Store w := m.filter fun e => e.1 != k

/-- Writes one key and keeps the canonical form. -/
def Store.set {w : Nat} : Store w → Nat → BitVec w → Store w
  | [], k, v => Store.cons k v []
  | (a, x) :: m, k, v =>
    if k < a then Store.cons k v ((a, x) :: Store.drop m k)
    else if k = a then Store.cons k v (Store.drop m k)
    else (a, x) :: Store.set m k v

/-- The keys of the list rise strictly from a bound and no entry is zero. -/
def Store.wfFrom {w : Nat} : Nat → Store w → Bool
  | _, [] => true
  | lo, (a, v) :: m => decide (lo ≤ a) && !(v == 0#w) && Store.wfFrom (a + 1) m

/-- The canonical form. -/
def Store.wf {w : Nat} (m : Store w) : Bool := Store.wfFrom 0 m

/-- The memory of the package and every byte space of the model. -/
abbrev Memory := Store 8

/-- The canonical form of a memory. -/
abbrev Memory.wf (m : Memory) : Bool := Store.wf m

/-- Removes the keys of `[lo, hi)`: they read as zero from then on. -/
def Store.clear {w : Nat} (m : Store w) (lo hi : Nat) : Store w :=
  m.filter fun e => e.1 < lo || hi ≤ e.1

/-- The entries of `[lo, hi)`, moved down to start at 0. -/
def Store.slice {w : Nat} (m : Store w) (lo hi : Nat) : Store w :=
  (m.filter fun e => lo ≤ e.1 && e.1 < hi).map fun e => (e.1 - lo, e.2)

/-- Writes a list of (key, word) pairs, first to last. -/
def Store.sets {w : Nat} (m : Store w) (es : List (Nat × BitVec w)) : Store w :=
  es.foldl (fun m e => m.set e.1 e.2) m

/-- The `n` bytes of a number, least significant first (R3). -/
def toBytes (v : Nat) : Nat → List Byte
  | 0 => []
  | n + 1 => BitVec.ofNat 8 v :: toBytes (v / 256) n

/-- The number that a list of bytes holds, least significant first (R3). -/
def ofBytes : List Byte → Nat
  | [] => 0
  | b :: bs => b.toNat + 256 * ofBytes bs

/-- The `n` bytes from key `a`. -/
def Store.bytes (m : Memory) (a : Nat) : Nat → List Byte
  | 0 => []
  | n + 1 => m.get a :: Store.bytes m (a + 1) n

/-- Writes bytes from key `a` upward. -/
def Store.putBytes (m : Memory) (a : Nat) : List Byte → Memory
  | [] => m
  | b :: bs => Store.putBytes (m.set a b) (a + 1) bs

/-- The little-endian number in `n` bytes from `a` (R3). -/
def Store.getNat (m : Memory) (a n : Nat) : Nat := ofBytes (m.bytes a n)

/-- Writes the low `n` bytes of a number at `a`, little-endian (R3). -/
def Store.putNat (m : Memory) (a n v : Nat) : Memory := m.putBytes a (toBytes v n)

/-- Inserts into a sorted list, before what is not less. -/
def insertBy {α : Type} (le : α → α → Bool) (x : α) : List α → List α
  | [] => [x]
  | y :: ys => if le x y then x :: y :: ys else y :: insertBy le x ys

/-- A stable sort. -/
def sortBy {α : Type} (le : α → α → Bool) (xs : List α) : List α := xs.foldr (insertBy le) []

/-- A table of records by number. -/
abbrev Tab (α : Type) := List (Nat × α)

/-- The record of a number. -/
def Tab.get? {α : Type} : Tab α → Nat → Option α
  | [], _ => none
  | (i, x) :: m, k => if i = k then some x else Tab.get? m k

/-- Replaces the record of a number, or adds it at the end. -/
def Tab.put {α : Type} : Tab α → Nat → α → Tab α
  | [], k, v => [(k, v)]
  | (i, x) :: m, k, v => if i = k then (k, v) :: m else (i, x) :: Tab.put m k v

/-- Removes the record of a number. -/
def Tab.del {α : Type} : Tab α → Nat → Tab α
  | [], _ => []
  | (i, x) :: m, k => if i = k then Tab.del m k else (i, x) :: Tab.del m k

/-- Changes the record of a number, if there is one. -/
def Tab.upd {α : Type} (m : Tab α) (k : Nat) (f : α → α) : Tab α :=
  match m.get? k with
  | none => m
  | some x => m.put k (f x)

/-- The records. -/
def Tab.vals {α : Type} (m : Tab α) : List α := m.map Prod.snd

/-- The record of a number, or the one given. -/
def Tab.getD {α : Type} (m : Tab α) (k : Nat) (d : α) : α := (m.get? k).getD d

end Sys2Proof.Machine
end

