-- ==== Sys2Proof/Machine/State.lean ====
section
/-!
DEFINITION. The state of the package: everything the spec gives the machine, as plain data, and the machine right
after reset. Fields marked MODEL are the model's own (log 3, log 4).
-/

namespace Sys2Proof.Machine

/-- Why the machine stops. -/
inductive Fault where
  /-- Raised by an event whose condition does not hold in the state: it could not happen there. Safe. -/
  | notEnabled
  /-- Raised by an encoded instruction when no thread stands at the issue point. Safe. -/
  | noThread
  deriving DecidableEq, Repr

/-- Why an instruction has no meaning in the model. -/
inductive Refusal where
  /-- Raised by an arm of `exec` that is not modelled yet. Safe. -/
  | notModelled (mnemonic : String)
  deriving DecidableEq, Repr

/-! ### Launches -/

/-- A ring descriptor (R39). -/
structure Ring where
  nbase : Nat
  slots : Nat
  size : Nat
  order : List Nat
  deriving DecidableEq, Repr

/-- The fields of a launch header (R37). -/
structure Header where
  version : Nat := 1
  widthCode : Nat := 0
  res : Nat := 2
  par : Nat := 0
  ordered : Bool := false
  gridsync : Bool := false
  preempt : Bool := false
  roleany : Bool := false
  copyn : Nat := 0
  matn : Nat := 0
  vecn : Nat := 0
  split : Nat := 1
  rext : Nat := 0
  nbn : Nat := 0
  entryC : Nat := 0
  entryM : Nat := 0
  entryV : Nat := 0
  args : Nat := 0
  /-- W0 to W5. -/
  w : List Nat := []
  argsz : Nat := 0
  /-- X2 to X5. -/
  x : List Nat := []
  fscr : Nat := 0
  fparl : Nat := 0
  flane : Nat := 0
  facc : Nat := 0
  fatt : Nat := 0
  kstk : Nat := 0
  done : Nat := 0
  fmt0 : W64 := 0
  tag : W64 := 0
  rings : List Ring := []
  deriving DecidableEq, Repr

/-- The fields of a barrier, named or in memory (R367). -/
structure Bar where
  phase : Nat := 0
  err : Bool := false
  lerr : Bool := false
  expa : Nat := 0
  arre : Nat := 0
  arr : Nat := 0
  expb : Nat := 0
  bytee : Nat := 0
  bytes : Nat := 0
  sum : Nat := 0
  lsum : Nat := 0
  deriving DecidableEq, Repr

/-- An addition (R368): arrivals, bytes, carried value, error bit, expected bytes and expected arrivals. -/
structure Addition where
  a : Nat := 0
  b : Nat := 0
  v : Nat := 0
  e : Bool := false
  x : Nat := 0
  y : Nat := 0
  deriving DecidableEq, Repr

/-- An admitted launch (R78, R86, R87, R445). -/
structure Launch where
  part : Nat
  prio : Nat
  /-- The queue it came from, for the rule of R74; none for a device-side launch. -/
  queue : Option Nat
  /-- The only die it runs on, for a device-side launch (R90). -/
  onlyDie : Option Nat
  /-- The order of admission (R74). -/
  order : Nat
  hdr : Header
  /-- The argument block, read once at admission (R78). -/
  args : List Byte
  /-- Memory as it stood at admission, which the fetch of code sees, and the 16-byte units that the launch has stored to
  since, with what it stored (R105). -/
  code : Memory
  wrote : List (Nat × Nat) := []
  /-- The dispatch counter (R86). -/
  next : Nat
  /-- The ordinals held by each die's dispatcher: next and end (R87). -/
  chunks : List (Nat × Nat × Nat)
  /-- The grid barrier (R377). -/
  grid : Option Bar
  tadm : W64
  instr : Nat
  mcyc : Nat
  ebytes : Nat
  nwg : Nat
  nkill : Nat
  npre : Nat
  /-- HKILL has ended it (R418). -/
  killed : Bool := false
  deriving DecidableEq, Repr

/-! ### Threads -/

/-- The role of a group (R29, R158). -/
inductive Role where
  | any | copy | matrix | vector
  deriving DecidableEq, Repr

/-- How a thread stands at the line of its next slot (R102, R104). -/
inductive Enter where
  /-- By a branch, call, return, loop, launch entry or handler vector: TGT is checked. -/
  | branch
  /-- By falling through from the previous line. -/
  | fall
  /-- By SRET or after a pre-emption. -/
  | resume
  /-- Inside a line whose checks have been made. -/
  | inside
  deriving DecidableEq, Repr

/-- A fetched line (R100). -/
structure Line where
  base : Nat
  data : BitVec 512
  deriving DecidableEq, Repr

/-- A Pantry query in flight (R339, R340). -/
structure Query where
  /-- 0 TQL, 1 TQL2, 2 TQMUL. -/
  op : Nat
  xt : Nat
  /-- The operands of lanes 0 to 63, of which those in EM count. -/
  a : List Nat
  b : List Nat
  /-- The report mask. -/
  report : Nat
  deriving DecidableEq, Repr

/-- A place that an access reaches (R207, R216). -/
inductive Place where
  | lane (i o : Nat)
  | scratch (o : Nat)
  | parlour (o : Nat)
  | attic (o : Nat)
  | stack (i o : Nat)
  | frame (i o : Nat)
  | pantry (o : Nat)
  /-- Physical memory of this package. -/
  | phys (pa : Nat)
  /-- Physical memory of another package; `hop`: this package's forwarding table named it (R279, R283). -/
  | remote (pa : Nat) (hop : Bool)
  /-- Physical memory of this package whose home die is lost: an access there never completes (R142, R420). -/
  | dead (pa : Nat)
  deriving DecidableEq, Repr

/-- What a page walk finds (R218). -/
inductive WalkRes where
  /-- A page: its physical base, whether it is of 2 MiB, its rights, MIG, and the physical address of its entry. -/
  | page (base : Nat) (big r w x mig : Bool) (entry : Nat)
  /-- A fault: SUB, LOC and the physical address of the entry that ended the walk. -/
  | fault (sub loc entry : Nat)
  /-- An entry's line is poisoned (R419). -/
  | poison
  /-- A read of an entry has failed as a remote access: SUB and home (R277, R283). -/
  | remote (sub home : Nat)
  /-- An entry's home is a lost die: the walk never ends (R142, R420). -/
  | never
  /-- The next entry lies in another package, which is asked first. -/
  | away (pa : Nat) (hop : Bool)
  deriving DecidableEq, Repr

/-- Which barrier an instruction names (R372). -/
inductive BarRef where
  | named (nb : Nat)
  /-- The object at an address, and its place. -/
  | object (va : Nat) (p : Place)
  | grid
  deriving DecidableEq, Repr

/-- Whether a thread issues, and at what it is blocked (R145). -/
inductive Status where
  | running
  /-- WAITPH: barrier, phase, the cycle count at which its timeout runs out, the register for the status. -/
  | waitph (bar : BarRef) (phase : Nat) (limit : Option Nat) (dst : Option Nat)
  /-- DWACQ: ring, slot, phase bit, stage, destination. -/
  | dwacq (ring slot bit stage dst : Nat)
  | allocFull
  /-- ALLOC.REXT of n blocks. -/
  | rext (n : Nat)
  /-- ACCACQ of a tile. -/
  | accacq (tile : Nat)
  | exited
  /-- Halted by R409. -/
  | halted
  deriving DecidableEq, Repr

/-- The register state of a thread (R133, R147, R349). -/
structure Regs where
  /-- V registers, key 64 * register + lane. -/
  v : Store 32 := []
  /-- The empty V registers and the producer that fills each (R139). -/
  ve : Tab Nat := []
  g : Store 64 := []
  /-- The empty G registers and the producer that fills each. -/
  ge : Tab Nat := []
  m : Store 64 := []
  em : BitVec 64 := 0
  /-- T V C N Z in bits 4 to 0 (R137). -/
  cc : BitVec 5 := 0
  fmt : W64 := 0
  fpm : W32 := 0
  /-- PTH0 to PTH3, key 64 * register + lane. -/
  pth : Store 32 := []
  /-- The mask stack's entry storage, EM. -/
  stkEm : Store 64 := []
  /-- The mask stack's entry storage, FMT. -/
  stkFmt : Store 64 := []
  depth : Nat := 0
  /-- S registers of a matrix group. -/
  s : Store 64 := []
  stkp : Nat := 0
  extb : Nat := 0
  deriving DecidableEq, Repr

/-- Where a long-latency producer's result goes (R139, R141). -/
structure Producer where
  /-- The result is for a G register. -/
  toG : Bool
  reg : Nat
  /-- How many registers it spans. -/
  n : Nat
  /-- The lanes it writes. -/
  lanes : BitVec 64
  /-- The values, key 64 * offset + lane, of 32 bits; a G result has its halves at 0 and 64. -/
  vals : Store 32
  /-- Lanes still to be answered by another package. -/
  waiting : BitVec 64
  /-- The values stand. -/
  ready : Bool
  /-- A Scullery return slot is held, of this cluster (R385). -/
  slot : Option Nat
  /-- The dies whose homes it still has to hear from: it never completes once one is lost (R142, R420). -/
  homes : List Nat := []
  deriving DecidableEq, Repr

/-- What a group's remote access does at its home (R276, R374, R381). -/
inductive RemKind where
  | load | store | atomic | bar | binit
  deriving DecidableEq, Repr

/-- One lane's part of an access. -/
structure LaneAcc where
  lane : Nat
  va : Nat
  place : Place
  /-- The bytes to store, the operands of an atomic, or an addition. -/
  data : List Byte
  deriving DecidableEq, Repr

/-- The counters that a snapshot has cleared: those of a round slot's round, or of a handle's shards (R288, R311). -/
inductive Snapshot where
  | round (wg slot rid : Nat) (counts : Store 32)
  | shards (handle : Nat) (counts : List Nat)
  deriving DecidableEq, Repr

/-- An access in the store buffer, with its checkpoint (R276, R278). -/
structure Access where
  /-- The counters that RCNT or SHCNT has cleared, until their stores are made. -/
  snap : Option Snapshot := none
  /-- Its number. -/
  ck : Nat
  kind : RemKind
  /-- Operation and type, as RemoteReq's. -/
  op : Nat
  size : Nat
  /-- The lanes not yet performed, in order: the first is out while it lies in another package (R228, log 7). -/
  lanes : List LaneAcc
  /-- The lanes that failed: lane, virtual and physical address, class and SUB. -/
  failed : List (Nat × Nat × Nat × Nat × Nat) := []
  /-- The producer that it fills. -/
  pid : Option Nat
  /-- The checkpoint: the pc and the registers. -/
  pc : W64
  regs : Regs
  deriving DecidableEq, Repr

/-- An entry of a group's store buffer: an access with lanes in another package, an access behind one, or a store behind
one that stays in this package (R276, R278). -/
inductive Pend where
  | access (a : Access)
  | store (writes : List (Place × List Byte))
  deriving DecidableEq, Repr

/-- What another package has answered to the instruction at the issue point: the class of a fault found there, 0 for none,
and the bytes (R226, R276). -/
structure Answer where
  pa : Nat
  cls : Nat
  data : List Byte
  deriving DecidableEq, Repr

/-- What a trap reports (R403, R404). -/
structure TrapInfo where
  cls : Nat
  sub : Nat := 0
  addr : Nat := 0
  info : Nat := 0
  /-- The lanes that EM holds on entry; none leaves EM (R405). -/
  lanes : Option (BitVec 64) := none
  /-- TPTE (R410). -/
  pte : W64 := 0
  deriving DecidableEq, Repr

/-- A tree slot (R315). Whether it is busy or suspended, and its ticket, stand in the core's scoreboard. -/
structure TreeSlot where
  bound : Bool := false
  /-- The tree record as read at binding (R316). -/
  record : Nat := 0
  stop : BitVec 64 := 0
  /-- The last DESC ended by ERESUME.ABORT. -/
  err : Bool := false
  deriving DecidableEq, Repr

/-- One of the machine's instruction streams: a wide-side group, a matrix group or a Cellar instance. -/
structure Thread where
  side : Side
  role : Role
  /-- The workgroup; a Cellar instance has its task here. -/
  wg : Nat
  gidx : Nat
  width : Nat
  pc : W64
  line : Option Line := none
  enter : Enter := .branch
  status : Status := .running
  regs : Regs := {}
  prods : Tab Producer := []
  /-- Pantry queries by the number of their producer. -/
  queries : Tab Query := []
  /-- The stacks, key 4096 * lane + offset (R208). -/
  stack : Memory := []
  /-- The lane slices, key 512 * lane + offset (R208). -/
  slice : Memory := []
  /-- The save frame: bytes 0 to 31 of lane i at 128 * i, bytes 32 to 127 at 8192 on (R406). -/
  frame : Memory := []
  /-- The empty V0 to V7 and G0 to G3 at the trap, with their producers (R406). -/
  savedVe : Tab Nat := []
  savedGe : Tab Nat := []
  /-- The group runs the supervisor handler (R126). -/
  handler : Bool := false
  /-- The mask-stack depth at entry (R408). -/
  entryDepth : Nat := 0
  tcause : W64 := 0
  tpc : W64 := 0
  taddr : W64 := 0
  tinfo : W64 := 0
  tpte : W64 := 0
  trees : Tab TreeSlot := []
  /-- The store buffer, oldest first (R276, R278). -/
  pend : List Pend := []
  /-- The time at which the head of the store buffer last left for its home (R277). -/
  sent : Nat := 0
  /-- What the instruction at the issue point has asked other packages and not heard, by the number of the request, and
  what it has heard (R226, R276). -/
  asks : List Nat := []
  answers : List Answer := []
  /-- The words of this package that the instruction at the issue point has read while it waits for later ones (R391). -/
  kept : List (Place × List Byte) := []
  /-- The MCC's posted stores, oldest first (R399). -/
  posted : List (Place × List Byte) := []
  /-- The MCC's posting window: for scratchpad and parlour, the time from which an SLD may read (R399). -/
  since : Nat × Nat := (0, 0)
  /-- The latest time at which a byte was read in the window: whether parlour, byte, time. -/
  seen : List (Bool × Nat × Nat) := []
  /-- The posted store that gave a byte to an SLD: whether parlour, byte, its place in `posted` (R399). -/
  seenPosted : List (Bool × Nat × Nat) := []
  /-- The units of unit operations that the MCC has issued, less those that an MQRY has reported idle since: an operation is
  joined when none is left (R269). -/
  unjoined : List (List Nat) := []
  /-- The program timestamp (R393). -/
  pts : Nat := 0
  /-- A trap that is due before the next issue (R243, R414). -/
  due : List TrapInfo := []
  /-- Page walks that ended in a fault for the instruction at the issue point: page and what the walk found (R220). -/
  walkFaults : List (Nat × WalkRes) := []
  /-- REDNM adds neither applied nor dropped, and whether one was dropped since the last NMFENCE (R387). -/
  nmOut : Nat := 0
  nmDrop : Bool := false
  /-- The slots that DWACQs took and still wait for, by pc: 4 * ring + stage, slot, bit (R380). -/
  dwTaken : Tab (Nat × Nat × Nat) := []
  /-- A store or an atomic went to a home that never answers, so that no fence that covers it ends (R142, R388, R420). -/
  hung : Bool := false
  /-- Poisoned 128-byte lines of the stacks and the lane slices, by the keys of `stack` and `slice` (R419). -/
  stackPoison : List Nat := []
  slicePoison : List Nat := []
  /-- The Cellar unit of an instance. -/
  cunit : Nat := 0
  /-- The open row: physical address and write right (R354). -/
  row : Option (Nat × Bool) := none
  /-- The bank reservation is in force (R358). -/
  resv : Bool := false
  /-- A Cellar command has waited 1024 cellar cycles (R358). -/
  aged : Bool := false
  deriving DecidableEq, Repr

/-! ### Engines -/

/-- The operation of a range-scoreboard entry (R235, R299). -/
inductive OpKind where
  | cpy | cpy2d | cpypl | cpeat | cpack | psel | cpfill
  | gath | gathp | scata | scatClose | gpref
  | desc | dgrad
  deriving DecidableEq, Repr

/-- An element that an engine writes: its virtual address and place, its bytes or the elements of TY `ty` that it adds to
a word, and the chunk it belongs to (R243, R396). -/
structure Elem where
  va : Nat
  place : Place
  data : List Byte
  add : Option Nat := none
  chunk : Nat := 0
  deriving DecidableEq, Repr

/-- An engine operation: a ticket of the core's range scoreboard, or an operation of the stair engine. -/
structure EngOp where
  kind : OpKind
  tid : Nat
  wg : Nat
  nb : Nat
  /-- OP, TY and XT. -/
  op : Nat := 0
  ty : Nat := 0
  xt : Nat := 0
  /-- The operand values at issue: SA, SB, SC and the pair's second word. -/
  args : List Nat := []
  fmt : W64 := 0
  fpm : W32 := 0
  em : BitVec 64 := 0
  /-- The scratchpad ranges held: lowest byte and one past the highest (R235). -/
  ranges : List (Nat × Nat) := []
  /-- The destination chunks that are complete (R243). -/
  did : List Nat := []
  /-- Bytes written so far. -/
  wrote : Nat := 0
  /-- Suspended, with the trap that it reports (R243). -/
  susp : Option TrapInfo := none
  /-- What the operation has read and keeps: a header, ranks, index words. -/
  data : List Nat := []
  /-- The destination producer of DESC. -/
  pid : Option Nat := none
  /-- Positions answered: position, cause 0 for done. -/
  pos : List (Nat × Nat) := []
  /-- Aligned 16-byte units that have been read: virtual address and bytes (R396, R397). -/
  got : List (Nat × List Byte) := []
  /-- Elements that are to be written, in any order (R396, R397). -/
  out : List Elem := []
  /-- Page walks that ended in a fault for it: page and what the walk found. -/
  walkFaults : List (Nat × WalkRes) := []
  /-- An access of it in another package has failed: the cause and the virtual address of the suspension that follows (R243). -/
  fail : Option (Nat × Nat) := none
  deriving DecidableEq, Repr

/-- An operation of the matrix units (R254 to R256). -/
structure UnitOp where
  tid : Nat
  /-- The issuing workgroup, whose named barrier takes the arrival. -/
  wg : Nat
  op : Nat
  xt : Nat
  nb : Nat
  args : List Nat
  fmt : W64
  /-- The selected units: core key and target workgroup. -/
  targets : List (Nat × Nat)
  /-- The units that have started it. -/
  started : List Nat := []
  /-- The range-scoreboard entries that it waits for: core key and ticket (R256). -/
  waits : List (Nat × Nat) := []
  /-- The units that have finished it (R255). -/
  ended : List Nat := []
  /-- Words that a unit has read: core key, address, value, none in a poisoned line (R256, R269). -/
  got : List (Nat × Nat × Option W32) := []
  /-- Words of MSTACC that a unit has written: core key and address (R269, R397). -/
  did : List (Nat × Nat) := []
  deriving DecidableEq, Repr

/-- The status of a completed gather or scatter (R309). -/
structure TicketStat where
  bytes : Nat
  cause : Nat
  /-- The failed positions. -/
  fails : List Nat
  deriving DecidableEq, Repr

/-- A shard entry (R294). -/
structure Shard where
  base : Nat
  cnt : Nat
  first : Nat
  die : Nat
  pkg : Nat
  deriving DecidableEq, Repr

/-- What a handle is bound to, with its shard counters (R292, R293, R311). -/
structure Handle where
  nrows : Nat
  nsrc : Nat
  rowb : Nat
  efmt : Nat
  interleaved : Bool
  shards : List Shard
  counters : List Nat
  deriving DecidableEq, Repr

/-- A distinct row of a gather or scatter (R300). -/
structure GRow where
  pkg : Nat
  die : Nat
  va : Nat
  /-- The positions of its occurrences. -/
  pos : List Nat
  /-- It has been written, added or has failed. -/
  settled : Bool
  /-- The bytes fetched for pooling. -/
  bytes : List Byte
  deriving DecidableEq, Repr

/-- What the checks of a gather or scatter have found (R298). -/
structure GIssue where
  kind : Nat
  /-- The handle's number, and what it is bound to. -/
  h : Nat
  hd : Handle
  n : Nat
  m : Nat
  /-- The tile. -/
  tile : Nat
  /-- The index list and the pool-group vector. -/
  idx : List Nat
  groups : List Nat
  deriving DecidableEq, Repr

/-- A gather or scatter in progress at its issuer (R299). -/
structure GOp where
  core : Nat
  ticket : Nat
  wg : Nat
  /-- As GatherReq's. -/
  kind : Nat
  efmt : Nat
  len : Nat
  n : Nat
  m : Nat
  dst : Nat
  /-- The pool group of each position. -/
  groups : List Nat
  rows : Tab GRow
  /-- Failed positions and their causes (R302). -/
  fails : List (Nat × Nat)
  /-- The parts of other packages: pool group, die, part (R305). -/
  parts : Tab (List (Nat × Nat × List Nat))
  /-- When its rows were asked for (R302). -/
  sent : Nat := 0
  /-- A scatter whose source rows are still read: what it will ask for (R306, R396). -/
  req : Option GIssue := none
  /-- The request sequence of an ordered scatter (R307). -/
  seq : Nat := 0
  /-- The 16-byte units of the source tile that have been read, and those that lie in a poisoned line (R397, R419). -/
  src : Tab (List Byte) := []
  srcBad : List Nat := []
  /-- The 16-byte units of the destination that have been written (R397). -/
  landed : List Nat := []
  deriving DecidableEq, Repr

/-- Whom a home serves a row for. -/
inductive GFor where
  /-- An operation of this package, and its row. -/
  | own (gop row : Nat)
  /-- A request of another package, and its row. -/
  | other (req row : Nat)
  deriving DecidableEq, Repr

/-- A row at its home: to be fetched, or to be added to (R300, R306). A row is fetched in 16-byte units and added to in
words. -/
structure GWork where
  for_ : GFor
  /-- It is an add. -/
  add : Bool
  /-- A prefetch, served after the others (R308). -/
  low : Bool
  /-- An ordered add, which follows the earlier ones of its row (R307). -/
  ord : Bool
  die : Nat
  va : Nat
  efmt : Nat
  /-- The 16-byte units to fetch or the words to add, in any order. -/
  todo : List Nat
  /-- Fetched units; of an add, the units of another package that have been probed (R303, log 11). -/
  got : Tab (List Byte)
  data : List Byte
  /-- The places of an add's words, once its whole row has been checked (R302, R306). -/
  places : List Place := []
  /-- Units and words that a forwarded page's holder has been asked for: units doubled, words doubled and one more. -/
  asked : List Nat := []
  /-- When it reached its home (R302). -/
  sent : Nat := 0
  /-- Another home has sent it on, with the physical address (R303). -/
  phys : Bool := false
  /-- Page walks that ended in a fault for it: page and what the walk found. -/
  walkFaults : List (Nat × WalkRes) := []
  deriving DecidableEq, Repr

/-- A request of another package at its home (R300). -/
structure GServe where
  req : GatherReq
  /-- The rows answered: number, cause, bytes. -/
  rows : List (Nat × Nat × List Byte)
  deriving DecidableEq, Repr

/-- The round of ordered adds of a handle at its home (R307). -/
structure OrdRound where
  closes : Nat
  announced : Nat
  received : Nat
  /-- Held adds with their source package, source core and request sequence. -/
  held : List (Nat × Nat × Nat × GWork)
  deriving DecidableEq, Repr

/-- A core (R11). -/
structure Core where
  /-- SPLIT (R98). -/
  split : Nat := 1
  /-- Marked by the dispatcher, with the split to take (R98). -/
  marked : Option Nat := none
  /-- The core had room while the backing pool had no region: it admits nothing until one frees (R214). -/
  starved : Bool := false
  /-- The range scoreboard, by ticket (R235). -/
  ops : Tab EngOp := []
  /-- Extended-block requests in issue order (R164). -/
  rextQ : List Nat := []
  /-- The matrix unit's queue of operations by number, oldest first (R255). -/
  unitQ : List Nat := []
  /-- Groups blocked at ACCACQ in order (R257). -/
  accQ : List Nat := []
  /-- SCATA.ORD operations issued (R307). -/
  ordCount : Nat := 0
  deriving DecidableEq, Repr

/-! ### Workgroups -/

/-- The ownership token of a tile (R257). -/
inductive Token where
  | unit
  /-- A group has asked for it while operations on the tile are queued or running. -/
  | pending (g : Nat)
  | group (g : Nat)
  deriving DecidableEq, Repr

/-- An accumulator tile (R257). -/
structure Tile where
  /-- Cells, key 64 * row + column (R54). -/
  cells : Store 36 := []
  token : Token := .unit
  deriving DecidableEq, Repr

/-- A round slot (R285, R286, R288). -/
structure RoundSlot where
  bound : Bool := false
  etab : Nat := 0
  rowb : Nat := 0
  nexp : Nat := 0
  nsrc : Nat := 0
  rid : Nat := 0
  /-- The counters of RCNT, by expert. -/
  counts : Store 32 := []
  /-- The replica accumulators a_e. -/
  acc : Store 16 := []
  /-- Rows sent per replica since the binding, key 2 * expert + replica: what RCLOSE announces. -/
  sent : Store 32 := []
  /-- A binding has been made: RCNT then writes NEXP + 1 counters. -/
  once : Bool := false
  deriving DecidableEq, Repr

/-- A resident workgroup (R26, R30, R31). -/
structure Wg where
  launch : Nat
  ord : Nat
  die : Nat
  core : Nat
  /-- The parlour unit (R28). -/
  unit_ : Nat
  /-- The full allotment is held, or asked for (R163). -/
  full : Bool := false
  asked : Bool := false
  scr : Memory := []
  /-- What stores have replaced in the scratchpad: offset and old bytes, oldest first (R399). -/
  hist : List (Nat × List Byte) := []
  /-- Scratchpad lines that differ from the backing region (R213). -/
  dirty : List Nat := []
  /-- Poisoned lines of the scratchpad and the attic (R419). -/
  scrPoison : List Nat := []
  atticPoison : List Nat := []
  /-- Pinned scratchpad pages, and unpinned ones that a stalled group waits for (R213). -/
  pinned : List Nat := []
  wanted : List Nat := []
  /-- The backing region, physical (R214). -/
  backing : Nat := 0
  attic : Memory := []
  bars : Tab Bar := []
  /-- Ring cursors, key 4 * ring + stage: slot and phase bit (R379). -/
  cursors : Tab (Nat × Nat) := []
  tiles : Tab Tile := []
  /-- The sticky flags of the tiles: OF, NV, PZ (R265). -/
  accOf : Bool := false
  accNv : Bool := false
  accPz : Bool := false
  rounds : Tab RoundSlot := []
  tickets : Tab TicketStat := []
  /-- Ordered rows sent and not yet closed: key 2^17 * handle + package (R307). -/
  ordSent : Tab Nat := []
  /-- Engine work that retirement waits for and that no other record shows: RSEND deliveries, CQSUB tasks with a
  named barrier, REDNM adds (R441). -/
  outstanding : Nat := 0
  killed : Bool := false
  deriving DecidableEq, Repr

/-- A parlour unit (R28, R209). -/
structure Parlour where
  launch : Nat
  cluster : Nat
  die : Nat
  mem : Memory := []
  hist : List (Nat × List Byte) := []
  poison : List Nat := []
  /-- The workgroups of the unit whose full allotment has been granted, by ordinal (R207, R209). -/
  granted : List Nat := []
  /-- Cores that keep the parlour slice of a workgroup that has retired (R442). -/
  kept : List Nat := []
  deriving DecidableEq, Repr

/-- A core die. -/
structure Die where
  lost : Bool := false
  /-- Work requests not yet served, with the cycle of each: in order of arrival, and by cluster in one cycle (R91). -/
  requests : List (Nat × Nat) := []
  /-- Pantry staged and committed images, by table (R335). -/
  staged : Memory := []
  image : Memory := []
  /-- 128-byte lines of the committed image that are uncorrectable in all three stacks (R340). -/
  pantryPoison : List Nat := []
  /-- Poisoned 128-byte lines of the staged image (R335, R419). -/
  stagedPoison : List Nat := []
  /-- The CQSUB queue: task numbers in order (R362). -/
  cq : List Nat := []
  nextTag : Nat := 0
  /-- The last 256 accepted tags and their tasks, newest first (R363). -/
  tags : List (Nat × Nat) := []
  /-- The device-side launch queue's part: header words and priority (R77). -/
  part : List (List Byte × Nat) := []
  /-- The launch last read from the part (R74). -/
  reading : Option Nat := none
  deriving DecidableEq, Repr

/-! ### Queues -/

/-- A queue's state (R68). -/
inductive QState where
  | off | waiting | mapped | faulted
  deriving DecidableEq, Repr

/-- A queue (R68, R69). -/
structure Queue where
  enabled : Bool := false
  state : QState := .off
  log2n : Nat := 0
  age : Nat := 0
  prio : Nat := 0
  typ : Nat := 0
  part : Nat := 0
  ridxa : Nat := 0
  base : Nat := 0
  widx : Nat := 0
  ridx : Nat := 0
  eff : Nat := 0
  /-- The quantum has run out since the queue was mapped (R76). -/
  spent : Bool := false
  /-- The launch last read (R74). -/
  launch : Option Nat := none
  /-- The queue stands at a wait entry: its barrier and phase (R73). -/
  atWait : Option (Nat × Nat) := none
  deriving DecidableEq, Repr

/-- A copy command in progress (R75). -/
structure CopyCmd where
  queue : Nat
  part : Nat
  src : Nat
  dst : Nat
  len : Nat
  done : Nat
  /-- The destination chunks that are complete, and the bytes written. -/
  did : List Nat := []
  wrote : Nat := 0
  /-- As EngOp's. -/
  got : List (Nat × List Byte) := []
  out : List Elem := []
  /-- An access of it in another package has failed at this virtual address (R75, R277). -/
  fail : Option Nat := none
  deriving DecidableEq, Repr

/-- A Cellar task (R359, R361). -/
structure Task where
  part : Nat
  entry : Nat
  args : List Nat
  stat : Nat
  done : Nat
  rsv : Bool
  /-- The instance numbers of the selected units. -/
  units : List Nat
  total : Nat
  left : Nat
  nflt : Nat
  /-- Instances that have started. -/
  started : Nat
  /-- The workgroup and named barrier of CQSUB, 63 for none (R362). -/
  notify : Option (Nat × Nat)
  deriving DecidableEq, Repr

/-! ### Memory system -/

/-- A page held by a TLB: the one of its die, or the L1 TLB of a core (R219). -/
structure TlbEntry where
  part : Nat
  die : Nat
  /-- The core whose L1 TLB holds it. -/
  core : Option Nat := none
  /-- Page number in units of 64 KiB. -/
  page : Nat
  big : Bool
  pa : Nat
  r : Bool
  w : Bool
  x : Bool
  mig : Bool
  /-- The physical address of its page-table entry (R410). -/
  at_ : Nat
  deriving DecidableEq, Repr

/-- A walk in flight on a die (R220). -/
structure Walk where
  part : Nat
  die : Nat
  page : Nat
  waiters : List Nat
  /-- The entries read so far, one ordinary load each (R219, R390). -/
  got : List Nat := []
  /-- A read has failed: what the walk then finds. -/
  failed : Option WalkRes := none
  /-- The engine operations that wait for it, by core and ticket, and the rows at their home that do. -/
  ops : List (Nat × Nat) := []
  works : List Nat := []
  deriving DecidableEq, Repr

/-- A demotion in progress (R223). -/
structure Demotion where
  running : Bool := false
  /-- Page, size flag, its entries with the W they had. -/
  move : Option (Nat × Bool × List (Nat × Bool)) := none
  deriving DecidableEq, Repr

/-- A REDNM add in flight: thread, physical address, value, FPC (R386). -/
structure NmAdd where
  tid : Nat
  wg : Nat
  pa : Nat
  val : W32
  sat : Bool
  /-- The forwarding table of this package named its home (R283). -/
  hop : Bool := false
  /-- It is on its way to a home in another package. -/
  out : Bool := false
  deriving DecidableEq, Repr

/-- The signal of an ended or refused launch at DONE: the launch record, the addition's v and e, and whether the launch came from
a host queue (R444, R445). -/
structure Signal where
  part : Nat
  done : Nat
  tag : Nat
  host : Bool
  word : Nat
  nwg : Nat
  err : Bool
  deriving DecidableEq, Repr

/-- Who waits for another package's answer to an access that is no group's own (R21, R276). -/
inductive Owner where
  /-- A thread, for the instruction at its issue point. -/
  | thread (tid : Nat)
  /-- An engine operation: core key and ticket. -/
  | engine (core ticket : Nat)
  /-- A copy command. -/
  | command (id : Nat)
  /-- A REDNM add. -/
  | nm (add : Nat)
  /-- A row at its home that is forwarded, and its unit or word. -/
  | row (work k : Nat)
  /-- A tracker of a routing round (R286). -/
  | porch (rid expert replica : Nat)
  /-- A host's access, on port B where it says so (R279, R390). -/
  | host (b : Bool)
  /-- A page walk: partition, die and page (R219, R276). -/
  | walk (part die page : Nat)
  /-- A launch's signal, at its record or at its addition (R444). -/
  | signal (x : Signal) (added : Bool)
  /-- Nobody: an addition or a status word of the Hearth. -/
  | nobody
  deriving DecidableEq, Repr

/-- An access in another package that is not answered yet, with the time at which it left (R277). -/
structure Away where
  owner : Owner
  req : RemoteReq
  va : Nat := 0
  chunk : Nat := 0
  sent : Nat := 0
  deriving DecidableEq, Repr

/-- What the Hearth or a base die is to do at an address: a store, an addition to a barrier object, or CQSUB's arrival. -/
inductive DueWhat where
  | put (bs : List Byte)
  | add (n : Addition)
  | notify (wg nb : Nat)
  | signal (x : Signal)
  deriving DecidableEq, Repr

/-- A store of such an agent that waits while its page moves, or for an earlier one of its chain (R218, R223, R361). -/
structure Due where
  part : Nat
  va : Nat
  chain : Nat
  what : DueWhat
  deriving DecidableEq, Repr

/-! ### Fabric -/

/-- The flits of one message in a lane's replay buffer (R281): their bank, the number after the last, how many they are,
and the message. -/
structure Run where
  kg : Bool
  last : Nat
  n : Nat
  msg : OutMsg
  /-- The header and the nonce of each flit (R280). -/
  flits : List (BitVec 128 × BitVec 96) := []
  deriving DecidableEq, Repr

/-- A lane (R272, R273, R280, R281, R289, R290). -/
structure Lane where
  /-- 0 DOWN, 1 UP, 2 DRAINING, 3 DRAINED, 4 DARK, 5 FAILED, 6 MISMATCH. -/
  state : Nat := 0
  en : Bool := false
  ch : Nat := 0
  peer : Nat := 0
  /-- The sequence number of the last flit sent in the current bank, plus 1, and that bank. -/
  seq : Nat := 0
  kg : Bool := false
  /-- Refusals of the flit at the head of the replay buffer, and whether the last was a tag refusal. -/
  refused : Nat := 0
  tagFail : Bool := false
  /-- The replay buffer, oldest first (R281). -/
  replay : List Run := []
  /-- The sequence number after the drain marker. -/
  marker : Option Nat := none
  /-- The headers of the drain markers and of the key-control flits of a KEY_EXCHANGE that have been sent on it (R280, R432). -/
  control : List (BitVec 128) := []
  /-- The send allowance (R290) and the peer that granted it. -/
  allow : Nat := 0
  allowPeer : Option Nat := none
  /-- The inbound lane of the same number: the package that its handshake named, the bank of the last flit taken and the
  next number expected in it (R272, R281, R282). -/
  rpeer : Option Nat := none
  rkg : Bool := false
  rseq : Nat := 0
  deriving DecidableEq, Repr

/-- A key bank: the AES-256 key and the 48-bit salt (R280, R282). -/
structure KeyBank where
  key : BitVec 256
  salt : BitVec 48
  deriving DecidableEq, Repr

/-- The keys of a link (R282). -/
structure Link where
  /-- The banks that hold a key; the receiver accepts a bank that does. -/
  bank0 : Option KeyBank := none
  bank1 : Option KeyBank := none
  /-- The bank used to send. -/
  cur : Bool := false
  /-- An update runs: the new bank. -/
  busy : Bool := false
  /-- The new bank of an update whose old bank the receiver still accepts. -/
  fresh : Option Bool := none
  /-- A KEY_EXCHANGE runs in key-control flits that use no bank (R432). -/
  exchange : Bool := false
  deriving DecidableEq, Repr

/-- A 16-byte unit of a row, or its tag, that a tracker has taken and not yet written; `wg` is the workgroup of this package that
sent the row (R286, R397, R441). -/
structure RowUnit where
  pa : Nat
  data : List Byte
  wg : Option Nat
  deriving DecidableEq, Repr

/-- A routing tracker of a (RID, replica) homed on this package (R286). -/
structure Tracker where
  rid : Nat
  /-- Expert and replica. -/
  expert : Nat
  replica : Nat
  nsrc : Nat
  closes : Nat
  announced : Nat
  received : Nat
  stored : Nat
  buf : Nat
  tags : Nat
  bar : Nat
  cap : Nat
  rowb : Nat
  /-- The 16-byte units and tags of its rows that are to be written, in any order: physical address and bytes (R397). -/
  out : List RowUnit := []
  /-- Its status word is on its way to a home in another package. -/
  closing : Bool := false
  deriving DecidableEq, Repr

/-! ### Saved contexts, page-in requests, security -/

/-- What a pre-emption saves of one die (R346, R416). -/
structure CtxDie where
  staged : Memory
  image : Memory
  pantryPoison : List Nat
  stagedPoison : List Nat
  part : List (List Byte × Nat)
  reading : Option Nat
  deriving DecidableEq, Repr

/-- A saved context (R416). -/
structure Ctx where
  /-- Its dies, by rank. -/
  dies : List Nat
  launches : Tab Launch
  wgs : Tab Wg
  units : Tab Parlour
  threads : Tab Thread
  /-- The suspended engine operations: core key and ticket. -/
  ops : List (Nat × Nat × EngOp)
  /-- Its ordered rounds at this package, by handle (R307, R313). -/
  rounds : Tab OrdRound
  dieData : List CtxDie
  deriving DecidableEq, Repr

/-- An NVMe Read command (R413): the controller's registers and the I/O queue of HNVM, the queue area of HNVMQ, the
namespace of HNVMN, the first logical block and how many, and the PRP address. -/
structure NvmRead where
  controller : Nat
  queue : Nat
  area : Nat
  nsid : Nat
  block : Nat
  blocks : Nat
  prp : Nat
  deriving DecidableEq, Repr

/-- A page-in request that the Porch serves (R412, R413), with the command that it has issued for it, where it is valid. -/
structure PageIn where
  idx : Nat
  block : Nat
  dest : Nat
  bar : Nat
  big : Bool
  cmd : Option NvmRead := none
  deriving DecidableEq, Repr

/-- The device identity: the private ECDSA P-384 key and the LMS seed (R425). -/
structure Identity where
  p384 : BitVec 384
  lmsSeed : BitVec 256
  deriving DecidableEq, Repr

/-- A response of the SPDM responder (R426, R431). -/
inductive Spdm where
  /-- The measurement registers with an ECDSA P-384 and an LMS signature. -/
  | measurements (regs : Store 384) (ecdsa lms : Nat)
  | error
  /-- A nonce for a debug token, and what a debug session reads: registers of a halted group, counters of a launch, a trace buffer
  (R429). -/
  | nonce (n : Nat)
  | regs (r : Option Regs)
  | counters (c : List Nat)
  | trace (n : Nat)
  deriving DecidableEq, Repr

/-- Module flash (R425, R434): the trim record, the firmware image and the identity certificate. -/
structure Flash where
  trim : List Byte := []
  image : List Byte := []
  cert : List Byte := []
  deriving DecidableEq, Repr

/-- A security request or a write of HPWR that waits until a SEALED D2 entry is done (R433). -/
inductive SecReq where
  | on | idle | hold
  /-- A write of HPWR with REQ 3. -/
  | noEffect
  | lifecycle (req : LifeReq)
  | attest (port : Port)
  | update (ecdsa lms : Bool) (image : List Byte)
  | endSession (meas : BitVec 384)
  | debug (req : DebugReq)
  deriving DecidableEq, Repr

/-- What a host asks of the debug port (R429, log 40): a nonce, D1's reads, and what D2 may do beside. -/
inductive DebugOp where
  | nonce (port : Port)
  | regs (port : Port) (tid : Nat)
  | counters (port : Port) (launch : Nat)
  | trace (port : Port)
  | halt (tid : Nat)
  | write (tid : Nat) (r : Regs)
  | store (pa : Nat) (bs : List Byte)
  | breakpoints (at_ : List Nat)
  deriving DecidableEq, Repr

/-- The MRAM (R427). -/
structure Mram where
  /-- 0 MANUFACTURE, 1 OWNED, 2 SEALED, 3 SPENT. -/
  lifecycle : Nat := 0
  owners : List (BitVec 384) := []
  /-- Anti-rollback counters 0 to 63. -/
  counters : Store 32 := []
  /-- A recorded request, which takes effect at the next reset. -/
  next : Option (Nat × List (BitVec 384)) := none
  deriving DecidableEq, Repr

/-! ### The whole -/

/-- Power states (R437). -/
inductive Power where
  | on | idle | hold | off
  deriving DecidableEq, Repr

/-- What the agenda and the free pick name. -/
inductive Move where
  /-- A thread issues its next slot. -/
  | issue (tid : Nat)
  /-- An event happens. -/
  | event (i : Instr)
  /-- A copy operation completes one destination chunk, in any order (R396, log 10). -/
  | chunk (core ticket k : Nat)
  /-- A routing message that waits at the Porch is taken (R286). -/
  | porch (k : Nat)
  /-- A routing message of this package arrives at its own Porch (R286). -/
  | arrive (k : Nat)
  /-- The Porch writes unit `j` of tracker `k`'s rows (R286, R397). -/
  | rowUnit (k j : Nat)
  /-- A thread's store buffer goes on after a wait for a page or a range (R213, R215, R223). -/
  | buffer (tid : Nat)
  /-- An engine operation reads one of the 16-byte units that it may need, at a time of its own (R396, R397). -/
  | unit (core ticket va : Nat)
  /-- An engine operation writes one of the elements that it has ready (R396, R397). -/
  | elem (core ticket k : Nat)
  /-- The same for a copy command (R75). -/
  | cmdUnit (id va : Nat)
  | cmdElem (id k : Nat)
  /-- A matrix unit reads a word, or writes an element of MSTACC, at a time of its own (R269). -/
  | unitWord (core va : Nat)
  | unitElem (core k : Nat)
  /-- A page walk reads its next entry (R219, R390). -/
  | walkRead (part page : Nat)
  /-- A core's L1 TLB takes an entry that its die's TLB holds (R219). -/
  | l1Fill (core page : Nat)
  /-- A store of the Hearth that waited for a page is made (R218). -/
  | due (k : Nat)
  /-- The boot ROM goes on (R434, R435). -/
  | boot
  /-- A copy command completes one destination chunk, in any order (R75, R396). -/
  | command (id k : Nat)
  /-- A SEALED D2 entry goes on (R432). -/
  | entry
  /-- The debug port is used (R429, log 40). -/
  | debug (op : DebugOp)
  /-- An entry package has dropped a routing message of this package (R275). -/
  | dropped (m : OutMsg)
  deriving DecidableEq, Repr

/-- The state of one package. -/
structure State where
  /-- MODEL: what happens next, in order; inputs from outside the package stand here (log 4). -/
  agenda : List Move := []
  /-- MODEL: moves that have a turn to come, and how many free choices come before the next turn (R146, log 4). -/
  inLine : List Move := []
  patience : Nat := 0
  /-- MODEL: the thread that issues. -/
  cur : Nat := 0
  /-- MODEL: the counter of free values (log 3). -/
  free : Nat := 0
  /-- MODEL: the next number for a record. -/
  nextId : Nat := 0
  /-- CLOCK and TIME (R158). -/
  clock : W64 := 0
  time : W64 := 0
  /-- The package's own number (R20); what it is at reset is a choice (log 2). -/
  pkg : Nat := 0
  /-- Physical memory of the package, addresses [42:0] (R216). -/
  mem : Memory := []
  /-- Poisoned 128-byte lines, by line number (R419). -/
  poison : List Nat := []
  /-- LPDDR-6 capacity in GiB (R216, R435). -/
  lpGib : Nat := 0
  /-- A device answers in the pool window and the two host windows (R216). -/
  poolOn : Bool := false
  hostOn : Bool × Bool := (false, false)
  /-- wts and rts of each 128-byte line (R393). -/
  lts : Tab (Nat × Nat) := []
  tlb : List TlbEntry := []
  walks : List Walk := []
  /-- Invalidations queued per partition: page, or none for ALL (R224). -/
  tlbi : List (Nat × Option Nat) := []
  /-- Access counts by 2 MiB region (R223). -/
  counts : Store 8 := []
  demote : Tab Demotion := []
  /-- Stores of the Hearth, the Porch and the Cellar units that wait, in order (R218). -/
  hearthDue : List Due := []
  /-- Backing regions in use: physical base and bytes (R214). -/
  backing : List (Nat × Nat) := []
  /-- The Hearth register block, by offset, where a register keeps its value (R67). -/
  hreg : Tab W64 := []
  /-- Latch REFUSED, per port: port A is 32 * 0 + n, port B 32 + n. -/
  latchRefused : List Nat := []
  /-- REFUSED of HRCV, per port (R436). -/
  rcvRefused : Bool × Bool := (false, false)
  /-- LEASE per partition (R394). -/
  lease : Tab W64 := []
  queues : Tab Queue := []
  /-- The queue in each mapped slot (R76). -/
  slots : Tab Nat := []
  /-- The last queue granted: key 16 * set + level (R76). -/
  lastGrant : Tab Nat := []
  launches : Tab Launch := []
  copycmds : Tab CopyCmd := []
  /-- MSI-X messages sent: port B, vector; and those deferred (R421). -/
  msixSent : List (Bool × Nat) := []
  msixDue : List (Bool × Nat) := []
  /-- Messages are held back on a port: one was sent within the last µs. -/
  msixHold : List (Bool × Nat) := []
  /-- Ash pan records since reset, and drops since the last OVERRUN (R421, R422). -/
  ashSeq : Nat := 0
  ashLost : Nat := 0
  threads : Tab Thread := []
  wgs : Tab Wg := []
  units : Tab Parlour := []
  /-- Key 144 * die + core. -/
  cores : Tab Core := []
  dies : Tab Die := []
  tasks : Tab Task := []
  /-- Instance queues by unit: tasks in order (R360). -/
  cunits : Tab (List Nat) := []
  /-- Unit operations accepted and not complete, by number (R255). -/
  unitOps : Tab UnitOp := []
  nmAdds : Tab NmAdd := []
  /-- Accesses in other packages that are not answered, by number (R21, R276). -/
  aways : Tab Away := []
  /-- Handles, key 4096 * partition + number (R292). -/
  handles : Tab Handle := []
  gops : Tab GOp := []
  gworks : Tab GWork := []
  gserves : Tab GServe := []
  /-- Ordered rounds at this package by handle (R307). -/
  ordRounds : Tab OrdRound := []
  lanes : Tab Lane := []
  links : Tab Link := []
  /-- The forwarding table as last read: page, new page (R279). -/
  fwd : List (Nat × Nat) := []
  trackers : List Tracker := []
  /-- Routing messages of this package's own groups to its own Porch that have not arrived yet (R286, R397). -/
  porchOwn : List (RowMsg ⊕ RoundClose) := []
  /-- Routing messages at this package's Porch that have not been taken: rows and closes, in order of arrival (R286). -/
  porchIn : List (RowMsg ⊕ RoundClose) := []
  unknownFlits : Nat := 0
  /-- Messages that wait at the Porch for a lane, oldest first (R290). -/
  outbox : List OutMsg := []
  /-- The lane that took the last flit, by destination package, or by 2^17 + destination domain (R273, R275). -/
  turns : Tab Nat := []
  /-- The partition that is being saved, and its context slot (R415). -/
  preempt : Option (Nat × Nat) := none
  /-- Contexts by slot (R415). -/
  ctxs : Tab Ctx := []
  /-- The page-in request that is read, by partition (R413). -/
  pageins : Tab PageIn := []
  power : Power := .on
  /-- The THERMTRIP pin is held (R439). -/
  thermtrip : Bool := false
  mram : Mram := {}
  /-- Module flash. -/
  flash : Flash := {}
  /-- The boot ROM is at work: what it will find (R434). -/
  booting : Option BootIn := none
  /-- The recovery windows of ports A and B (R434, R436). -/
  windows : Memory × Memory := ([], [])
  /-- The trim record that the boot ROM verified (R434). -/
  trim : Option (List Byte) := none
  /-- The device identity, where one has been derived (R425, R434). -/
  identity : Option Identity := none
  /-- Measurement registers 0 to 7 (R431). -/
  measures : Store 384 := []
  /-- The debug level (R429). -/
  debug : Nat := 0
  /-- A SEALED D2 entry waits for lanes to drain: the token's digest (R432). -/
  debugEntry : Option (BitVec 384) := none
  /-- The lanes that it has drained, and whether it has zeroised the key banks. -/
  debugLanes : List Nat := []
  debugZeroised : Bool := false
  /-- Requests that wait for it, oldest first (R433). -/
  secQueue : List SecReq := []
  /-- The nonces that the device has issued for debug tokens, and the breakpoints of the session (R429). -/
  nonces : List Nat := []
  breaks : List Nat := []
  /-- SPDM responses, oldest first, by port: B is true (R426). -/
  spdm : List (Bool × Spdm) := []
  /-- Data that host-port reads returned, oldest first, by port; none for Completer Abort (R390, R438). -/
  hostData : List (Bool × Option (List Byte)) := []
  /-- A port's link is down (R82). -/
  linkDown : Bool × Bool := (false, false)
  deriving DecidableEq, Repr

/-- The machine right after reset (R67, R84, R93, R224, R284, R394, R424). -/
def State.reset : State := {}

end Sys2Proof.Machine
end

