-- ==== Sys2Proof/Machine/Ops.lean ====
section
/-!
DEFINITION. The named operations over the state: registers, the ash pan, barriers, translation, memory, taking an
exception and returning from one, and the frame in which every meaning of an encoded instruction runs.
-/

namespace Sys2Proof.Machine

/-! ### Looking records up -/

/-- A launch that does not exist: every size is 0. -/
def Launch.absent : Launch :=
  { part := 0, prio := 0, queue := none, onlyDie := none, order := 0, hdr := {}, args := [], code := [], next := 0
    chunks := [], grid := none, tadm := 0, instr := 0, mcyc := 0, ebytes := 0, nwg := 0, nkill := 0
    npre := 0 }

/-- A workgroup that does not exist. -/
def Wg.absent : Wg := { launch := 0, ord := 0, die := 0, core := 0, unit_ := 0 }

/-- A parlour unit that does not exist. -/
def Parlour.absent : Parlour := { launch := 0, cluster := 0, die := 0 }

/-- A task that does not exist. -/
def Task.absent : Task :=
  { part := 0, entry := 0, args := [], stat := 0, done := 0, rsv := false, units := [], total := 0, left := 0, nflt := 0
    started := 0, notify := none }

/-- The workgroup of a thread. -/
def State.wgOf (s : State) (t : Thread) : Wg := s.wgs.getD t.wg .absent

/-- The launch of a workgroup. -/
def State.launchOfWg (s : State) (g : Wg) : Launch := s.launches.getD g.launch .absent

/-- The launch of a thread. -/
def State.launchOf (s : State) (t : Thread) : Launch := s.launches.getD (s.wgOf t).launch .absent

/-- The header of a thread's launch. -/
def State.hdrOf (s : State) (t : Thread) : Header := (s.launchOf t).hdr

/-- The task of a Cellar instance. -/
def State.taskOf (s : State) (t : Thread) : Task := s.tasks.getD t.wg .absent

/-- The partition of a thread. -/
def State.partOf (s : State) (t : Thread) : Nat :=
  if t.side = .cellar then (s.taskOf t).part else (s.launchOf t).part

/-- The die that a thread runs on; a Cellar unit belongs to its stack's die (R8). -/
def State.dieOf (s : State) (t : Thread) : Nat := if t.side = .cellar then t.cunit / 48 else (s.wgOf t).die

/-- The key of a core. -/
def coreKey (die core : Nat) : Nat := 144 * die + core

/-- The core of a thread. -/
def State.coreOf (s : State) (t : Thread) : Nat := coreKey (s.wgOf t).die (s.wgOf t).core

/-- Puts a thread's record back. -/
def State.putThread (s : State) (id : Nat) (t : Thread) : State := { s with threads := s.threads.put id t }

/-- Changes a workgroup. -/
def State.updWg (s : State) (id : Nat) (f : Wg → Wg) : State := { s with wgs := s.wgs.upd id f }

/-- Changes a core. -/
def State.updCore (s : State) (key : Nat) (f : Core → Core) : State :=
  { s with cores := s.cores.put key (f (s.cores.getD key {})) }

/-- Changes a die. -/
def State.updDie (s : State) (d : Nat) (f : Die → Die) : State :=
  { s with dies := s.dies.put d (f (s.dies.getD d {})) }

/-- A saturating sum below 2^n. -/
def satAdd (n a b : Nat) : Nat := min (a + b) (2 ^ n - 1)

/-! ### Hearth registers -/

/-- The reset values of the Hearth registers that are not zero (R67, R93, R284). -/
def hregReset (off : Nat) : W64 :=
  if off = 0x108 then 100
  else if 0x180 ≤ off ∧ off < 0x1A0 then 0x40004
  else if off = 0x300 then 100
  else 0

/-- The value a Hearth register holds. -/
def State.hr (s : State) (off : Nat) : W64 := s.hreg.getD off (hregReset off)

/-- Sets a Hearth register. -/
def State.setHr (s : State) (off : Nat) (v : W64) : State := { s with hreg := s.hreg.put off v }

/-! ### Barriers -/

/-- One addition to a barrier (R368). -/
def Bar.add (b : Bar) (n : Addition) : Bar :=
  let arre := satAdd 32 b.arre n.y
  let bytee := satAdd 48 b.bytee n.x
  let arr := satAdd 32 b.arr n.a
  let bytes := satAdd 48 b.bytes n.b
  let sum := (b.sum + n.v) % 2 ^ 64
  let err := b.err || n.e
  if arre ≤ arr ∧ bytee ≤ bytes then
    { b with lerr := err, lsum := sum, phase := (b.phase + 1) % 2 ^ 32, arr := 0, bytes := 0, sum := 0, err := false
             arre := b.expa, bytee := b.expb }
  else { b with arre := arre, bytee := bytee, arr := arr, bytes := bytes, sum := sum, err := err }

/-- Phase p has completed (R368). -/
def Bar.completed (b : Bar) (p : Nat) : Bool :=
  let d := (b.phase + 2 ^ 32 - p % 2 ^ 32) % 2 ^ 32
  decide (1 ≤ d ∧ d ≤ 2 ^ 31)

/-- A named barrier at admission (R367). -/
def Bar.fresh : Bar := { expa := 1, arre := 1 }

/-- BINIT's step (R374). -/
def Bar.init (b : Bar) (expa expb : Nat) : Bar :=
  { b with expa := expa, expb := expb, arre := expa, bytee := expb, arr := 0, bytes := 0, sum := 0, err := false }

/-- The record of a barrier object (R367). -/
def Bar.word (b : Bar) : Nat :=
  b.phase + bit b.err * 2 ^ 32 + bit b.lerr * 2 ^ 33 + b.expa * 2 ^ 64 + b.arre * 2 ^ 96 + b.arr * 2 ^ 128
    + b.expb * 2 ^ 192 + b.bytee * 2 ^ 256 + b.bytes * 2 ^ 320 + b.sum * 2 ^ 384 + b.lsum * 2 ^ 448

/-- The barrier that a record holds (R367). -/
def Bar.ofWord (w : Nat) : Bar :=
  { phase := fld w 0 32, err := tb w 32, lerr := tb w 33, expa := fld w 64 32, arre := fld w 96 32
    arr := fld w 128 32, expb := fld w 192 48, bytee := fld w 256 48, bytes := fld w 320 48, sum := fld w 384 64
    lsum := fld w 448 64 }

/-- An addition to a workgroup's named barrier. -/
def State.nbAdd (s : State) (wg nb : Nat) (n : Addition) : State :=
  s.updWg wg fun g => { g with bars := g.bars.put nb ((g.bars.getD nb .fresh).add n) }

/-! ### Physical memory -/

/-- An address within the package names storage (R216). -/
def State.physOk (s : State) (a : Nat) : Bool :=
  if a < 0x9000000000 then true
  else if a < 0x10000000000 then false
  else if a < 0x20000000000 then decide (a < 0x10000000000 + s.lpGib * 2 ^ 30)
  else if a < 0x60000000000 then s.poolOn
  else if a < 0x70000000000 then s.hostOn.1
  else s.hostOn.2

/-- The HBM stack of an address, if it lies in HBM (R216). -/
def stackOf (a : Nat) : Option Nat := if a < 0x9000000000 then some (a / 0xC00000000) else none

/-- The die whose L2 is the home of an HBM address (R8, R216). -/
def homeDie (a : Nat) : Option Nat := (stackOf a).map (· / 3)

/-- A die is lost (R420). -/
def State.lost (s : State) (d : Nat) : Bool := (s.dies.getD d {}).lost

/-- The home of an address is a lost die, so an access there never completes (R142, R420). -/
def State.homeLost (s : State) (a : Nat) : Bool := ((homeDie a).map s.lost).getD false

/-- The line of an address is poisoned (R419). -/
def State.poisoned (s : State) (a : Nat) : Bool := s.poison.contains (a / 128)

/-- Where the forwarding table sends an address of this package (R279). -/
def State.fwdOf (s : State) (a : Nat) : Option Nat :=
  (s.fwd.find? fun e => e.1 == a / 65536).map fun e => e.2 * 65536 + a % 65536

/-- The package of a 60-bit physical address (R216). -/
def pkgOf (pa : Nat) : Nat := pa / 2 ^ 43

/-- The address within its package. -/
def inPkg (pa : Nat) : Nat := pa % 2 ^ 43

/-- Where an address lies after the forwarding table of this package, if it is this package's (R279). -/
def State.forwarded (s : State) (pa : Nat) : Nat := if pkgOf pa = s.pkg then (s.fwdOf (inPkg pa)).getD pa else pa

/-- A physical address lies in this package, after the forwarding table (R279). -/
def State.isHere (s : State) (pa : Nat) : Bool := pkgOf (s.forwarded pa) == s.pkg

/-- The lines of 128 bytes that `n` bytes touch. -/
def linesOf (o n : Nat) : List Nat := (List.range ((o + n + 127) / 128 - o / 128)).map (o / 128 + ·)

/-- The timestamps of a line after a store by an agent with a program timestamp (R393). -/
def stampLine (pts : Nat) (m : Tab (Nat × Nat)) (line : Nat) : Tab (Nat × Nat) :=
  let ts := max pts ((m.getD line (0, 0)).2 + 1)
  m.put line (ts, ts)

/-- A store of an agent that has no program timestamp: the Hearth, the Porch, a host (R393). -/
def State.putPhys (s : State) (pa : Nat) (bs : List Byte) : State :=
  { s with mem := s.mem.putBytes pa bs, lts := (linesOf pa bs.length).foldl (stampLine 0) s.lts }

/-- The same for a number of `n` bytes. -/
def State.putPhysNat (s : State) (pa n v : Nat) : State := s.putPhys pa (toBytes v n)

/-! ### Lanes -/

/-- The lanes whose entry names a package of the own domain, or any package of another domain (R273, R275). -/
def State.lanesTo (s : State) (pkg : Nat) : Tab Lane :=
  s.lanes.filter fun l =>
    l.2.en && (if pkg / 4096 = s.pkg / 4096 then l.2.peer == pkg else l.2.peer / 4096 == pkg / 4096)

/-- Whether a message for a package can leave. -/
inductive Reach where
  | up
  /-- Only lanes that are not UP reach it: the message waits (R290). -/
  | wait
  /-- No lane reaches it (R273, R277). -/
  | lost
  /-- Every lane to it has failed through tag refusals (R281). -/
  | key
  deriving DecidableEq, Repr

/-- How a package is reached (R273, R277, R281, R290). -/
def State.reach (s : State) (pkg : Nat) : Reach :=
  let ls := (s.lanesTo pkg).vals
  if ls.any fun l => l.state == 1 then .up
  else if ls.any fun l => [2, 3, 4].contains l.state then .wait
  else if !ls.isEmpty ∧ ls.all fun l => l.state == 5 && l.tagFail then .key
  else .lost

/-- The package that a message is for. -/
def msgDest : OutMsg → Nat
  | .access p _ => p
  | .reply p .. => p
  | .failed p .. => p
  | .rows p _ => p
  | .rowsDone p _ => p
  | .scatClose p _ => p
  | .row p _ => p
  | .close p _ => p
  | .keys p _ => p

/-- The package that a message comes from, whoever passes it on (R275, R280). -/
def msgSrc : OutMsg → Nat
  | .access _ r => r.src
  | .reply _ _ _ _ home _ => home
  | .failed _ _ _ _ home => home
  | .rows _ r => r.src
  | .rowsDone _ r => r.pkg
  | .scatClose _ c => c.src
  | .row _ r => r.src
  | .close _ c => c.src
  | .keys _ src => src

/-- TYPE of a message's flits (R280). -/
def msgTyp : OutMsg → Nat
  | .access _ r => if r.kind = 0 then 1 else if r.kind = 1 then (if r.far then 7 else 3) else 5
  | .reply _ _ d _ _ atomic => if atomic then 6 else if d.isEmpty then 4 else 2
  | .failed .. => 4
  | .rows .. => 0x0B
  | .rowsDone .. => 0x0C
  | .scatClose .. => 9
  | .row .. => 8
  | .close .. => 9
  | .keys .. => 0x0D

/-- A header (R280). -/
def flitHeader (dpkg spkg seq plen : Nat) (kg : Bool) (typ : Nat) : BitVec 128 :=
  BitVec.ofNat 128 (typ % 2 ^ 8 + bit kg * 2 ^ 8 + plen % 2 ^ 8 * 2 ^ 32 + seq % 2 ^ 32 * 2 ^ 40 + spkg % 2 ^ 17 * 2 ^ 94
    + dpkg % 2 ^ 17 * 2 ^ 111)

/-- The nonce of a flit: the bank's salt, the lane, four zero bits and SEQ (R280). -/
def flitNonce (salt : BitVec 48) (lane seq : Nat) : BitVec 96 := salt ++ BitVec.ofNat 12 lane ++ 0#4 ++ BitVec.ofNat 32 seq

/-- The bank of a link that a KG names. -/
def Link.bank (k : Link) (kg : Bool) : Option KeyBank := if kg then k.bank1 else k.bank0

/-- The salt that a lane's flits to a peer use; a link with no key has none, and 0 stands in its place. -/
def State.saltOf (s : State) (peer : Nat) (kg : Bool) : BitVec 48 := (((s.links.getD peer {}).bank kg).map (·.salt)).getD 0

/-- The flits of a message on a lane, `n` of them from a number on. How much of each payload is in use is not stated, and is free
(R280, log 45). -/
def State.flitsOf (s : State) (lane seq n : Nat) (m : OutMsg) : List (BitVec 128 × BitVec 96) :=
  let l := s.lanes.getD lane {}
  (List.range n).map fun k =>
    (flitHeader (msgDest m) (msgSrc m) (seq + k) (Config.freeNat s.free (0xF117 + k) % 225) l.kg (msgTyp m),
      flitNonce (s.saltOf l.peer l.kg) lane (seq + k))

/-- The key under which the turn of a package's lanes is kept: the package, or its domain (R273, R275). -/
def State.turnKey (s : State) (pkg : Nat) : Nat := if pkg / 4096 = s.pkg / 4096 then pkg else 2 ^ 17 + pkg / 4096

/-- The UP lanes among some, from the one whose turn it is (R273). -/
def State.inTurn (s : State) (key : Nat) (ls : Tab Lane) : List Nat :=
  let up := sortBy (fun a b => decide (a ≤ b)) ((ls.filter fun l => l.2.state == 1).map (·.1))
  let last := s.turns.getD key 4096
  (up.filter fun l => decide (last < l)) ++ up.filter fun l => decide (l ≤ last)

/-- A lane takes flits of a message: they get its next sequence numbers and stand in its replay buffer (R273, R281). -/
def State.giveLane (s : State) (lane n : Nat) (m : OutMsg) : State :=
  let l := s.lanes.getD lane {}
  let run : Run := { kg := l.kg, last := l.seq + n, n := n, msg := m, flits := s.flitsOf lane l.seq n m }
  if n = 0 then s
  else { s with lanes := s.lanes.put lane { l with seq := l.seq + n, replay := l.replay ++ [run] } }

/-- Spreads the flits of a message over lanes in turn (R273). -/
def State.spread (s : State) (key : Nat) (us : List Nat) (n : Nat) (m : OutMsg) : State :=
  let c := us.length
  let s := us.zipIdx.foldl (fun s u => s.giveLane u.1 ((n + c - 1 - u.2) / c) m) s
  { s with turns := s.turns.put key (us.getD ((n - 1) % c) 0) }

/-- The flits that a message takes: how a message is laid out in payloads is not stated (log 45). -/
def State.flitCount (s : State) : Nat := 1 + Config.freeNat s.free 0x5E0 % 2 ^ 16

/-- Hands a message to the fabric: as flits on lanes, or it waits at the Porch, or it is lost (R273, R277, R290). -/
def State.sendMsg (s : State) (m : OutMsg) : State :=
  let p := msgDest m
  match s.inTurn (s.turnKey p) (s.lanesTo p) with
  | [] => if s.reach p = .wait then { s with outbox := s.outbox ++ [m] } else s
  | us => s.spread (s.turnKey p) us s.flitCount m

/-- Hands several messages to the fabric. -/
def State.sendMsgs (s : State) (ms : List OutMsg) : State := ms.foldl State.sendMsg s

/-- HFTMO in nanoseconds, 0 taken as 100 µs (R284). -/
def State.fabricLimit (s : State) : Nat :=
  let v := fld (s.hr 0x300).toNat 0 32
  1000 * (if v = 0 then 100 else v)

/-- A message that left at a time has had no answer within HFTMO (R277). -/
def State.overdue (s : State) (sent : Nat) : Bool := decide (sent + s.fabricLimit ≤ s.time.toNat)

/-- An agent has accesses in other packages that are not answered. -/
def State.waitsAway (s : State) (o : Owner) : Bool := s.aways.any fun a => a.2.owner == o

/-- Sends an access that is no group's own, and keeps it until it is answered (R21, R276). `hop`: this package's Porch has
forwarded it (R279, R283). -/
def State.sendAway (s : State) (a : Away) : State :=
  let id := 4096 * s.nextId
  let a := { a with req := { a.req with src := s.pkg, id := id }, sent := s.time.toNat }
  ({ s with nextId := s.nextId + 1, aways := s.aways.put id a } : State).sendMsg (.access (pkgOf a.req.pa) a.req)

/-! ### MSI-X and the ash pan -/

/-- Sends an MSI-X message on one port, or defers it within 1 µs of the last (R421, R444). -/
def State.msixOn (s : State) (b : Bool) (vec : Nat) : State :=
  if s.msixHold.contains (b, vec) then
    if s.msixDue.contains (b, vec) then s else { s with msixDue := s.msixDue ++ [(b, vec)] }
  else { s with msixSent := s.msixSent ++ [(b, vec)], msixHold := s.msixHold ++ [(b, vec)] }

/-- Sends an MSI-X message on both host ports. -/
def State.msix (s : State) (vec : Nat) : State := (s.msixOn false vec).msixOn true vec

/-- The fields of an ash pan record that vary (R422); SEV is 0 where no rule gives a code's severity (log 88). -/
structure AshRec where
  code : Nat
  cls : Nat := 0
  sub : Nat := 0
  sev : Nat := 0
  core : Nat := 0xFF
  die : Nat := 0
  part : Nat := 0
  stack : Nat := 0xF
  cunit : Nat := 0xFF
  info : Nat := 0
  addr : Nat := 0
  tag : Nat := 0

/-- The 64 bytes of a record (R422). -/
def AshRec.word (r : AshRec) (seq : Nat) (time : Nat) : Nat :=
  r.code % 256 + r.sub % 256 * 2 ^ 8 + r.cls % 256 * 2 ^ 16 + r.sev % 256 * 2 ^ 24
    + seq % 2 ^ 64 * 2 ^ 64 + r.core % 256 * 2 ^ 128 + r.die % 4 * 2 ^ 136 + r.part % 4 * 2 ^ 138
    + r.stack % 16 * 2 ^ 140 + r.cunit % 256 * 2 ^ 144 + time * 2 ^ 192 + r.info % 2 ^ 64 * 2 ^ 256
    + r.addr % 2 ^ 64 * 2 ^ 320 + r.tag % 2 ^ 64 * 2 ^ 384

/-- LOG2N of the ash pan; 0 to 3 turn it off (R421, R424). -/
def State.ashLog (s : State) : Nat := fld (s.hr 0x4C0).toNat 0 4

/-- The ring has no free record (R421). -/
def State.ashFull (s : State) : Bool :=
  ((s.hr 0x4C8).toNat + 2 ^ 32 - (s.hr 0x4D0).toNat) % 2 ^ 32 == 2 ^ s.ashLog

/-- The Porch performs an access at an address of this package, after the forwarding table: it lies in no hole, has no second valid
entry, its home is not lost, and it is no HBM in HOLD (R216, R279, R283, R420, R438). -/
def State.porchOk (s : State) (p : Nat) : Bool :=
  s.physOk (inPkg p) && (s.fwdOf (inPkg p)).isNone && !s.homeLost (inPkg p) &&
    !(s.power == .hold && (stackOf (inPkg p)).isSome)

/-- The Porch stores bytes at a physical address, in this package or another (R421). -/
def State.porchStore (s : State) (pa : Nat) (bs : List Byte) : State :=
  let p := s.forwarded pa
  if pkgOf p ≠ s.pkg then
    s.sendAway { owner := .nobody
                 req := { src := s.pkg, id := 0, kind := 1, op := 0, pa := p, size := bs.length, data := bs
                          forwarded := p != pa, far := true } }
  else if s.porchOk p then s.putPhys (inPkg p) bs
  else s

/-- Bytes at a physical address that the Hearth or the Porch reads, after the forwarding table (R279). What another package
holds, and what a read that fails gives, is free (log 11). -/
def State.physBytes (s : State) (pa n : Nat) : List Byte :=
  let p := s.forwarded pa
  if pkgOf p = s.pkg ∧ s.porchOk p then s.mem.bytes (inPkg p) n else toBytes (Config.freeNat s.free p) n

/-- Writes a record into the ring and advances HASHW (R421). -/
def State.ashWrite (s : State) (r : AshRec) : State :=
  let w := (s.hr 0x4C8).toNat
  let at_ := fld (s.hr 0x4C0).toNat 12 48 * 4096 + 64 * (w % 2 ^ s.ashLog)
  let s := s.porchStore at_ (toBytes (r.word s.ashSeq s.time.toNat) 64)
  let s := { s with ashSeq := s.ashSeq + 1 }
  (s.setHr 0x4C8 (BitVec.ofNat 64 ((w + 1) % 2 ^ 32))).msix 0

/-- Posts an ash pan record, or counts its drop (R421). -/
def State.post (s : State) (r : AshRec) : State :=
  let drop := s.setHr 0x4D8 (BitVec.ofNat 64 (((s.hr 0x4D8).toNat + 1) % 2 ^ 32))
  if s.ashLog ≤ 3 then drop
  else if s.ashFull then { drop with ashLost := s.ashLost + 1 }
  else s.ashWrite r

/-- Where a thread runs, for its records (R422). -/
def State.ashOf (s : State) (t : Thread) (r : AshRec) : AshRec :=
  if t.side = .cellar then
    { r with core := 0xFF, die := t.cunit / 48, part := s.partOf t, stack := t.cunit / 16, cunit := t.cunit }
  else
    { r with core := (s.wgOf t).core, die := s.dieOf t, part := s.partOf t, tag := (s.hdrOf t).tag.toNat }

/-! ### Page tables -/

/-- What reading a page-table entry gives. -/
inductive Pte where
  | val (e : Nat)
  | hole
  /-- Its line is poisoned. -/
  | poison
  /-- Its home is a lost die, so that the read never completes. -/
  | never
  /-- The read fails as a remote access: SUB and home (R277, R283, R438). -/
  | failed (sub home : Nat)
  /-- It lies in another package: its address there, and whether the forwarding table of this package named it. -/
  | away (pa : Nat) (hop : Bool)
  deriving DecidableEq, Repr

/-- Reads a page-table entry: a load, which reaches no other domain (R21, R218, R219, R279, R283, R419, R420). -/
def State.readPte (s : State) (pa : Nat) : Pte :=
  let p := s.forwarded pa
  let a := inPkg p
  if pkgOf p / 4096 ≠ s.pkg / 4096 then .failed 0 (pkgOf p)
  else if pkgOf p ≠ s.pkg then .away p (p != pa)
  else if (s.fwdOf a).isSome then .failed 1 s.pkg
  else if !s.physOk a then .hole
  else if s.homeLost a then .never
  else if s.power = .hold ∧ (stackOf a).isSome then .failed 0 s.pkg
  else if s.poisoned a then .poison
  else .val (s.mem.getNat a 8)

/-- The fault of an entry with P = 0 (R218). -/
def notPresent (e pa : Nat) : WalkRes :=
  if fld e 8 2 = 1 then .fault 1 1 pa else if fld e 8 2 = 2 then .fault 0 2 pa else .fault 0 0 pa

/-- The leaf that an entry gives (R218). -/
def leafOf (e : Nat) (big : Bool) (at_ : Nat) : WalkRes :=
  .page (if big then fld e 21 39 * 2 ^ 21 else fld e 16 44 * 2 ^ 16) big (tb e 2) (tb e 3) (tb e 4) (tb e 7) at_

/-- The physical address of the entry that level `k` of a walk reads, from the entries read before it (R218). -/
def State.pteAt (s : State) (part va : Nat) (got : List Nat) : Nat :=
  match got with
  | [] => fld (s.hr (0x1A0 + 8 * part)).toNat 12 48 * 2 ^ 12 + 8 * fld va 47 9
  | [e0] => fld e0 16 44 * 2 ^ 16 + 8 * fld va 34 13
  | [_, e1] => fld e1 16 44 * 2 ^ 16 + 8 * fld va 21 13
  | _ :: _ :: e2 :: _ => fld e2 8 52 * 2 ^ 8 + 8 * fld va 16 5

/-- What the entry at an address of level `got.length` of a walk ends it with; none when the walk goes on (R218). -/
def pteEnds (got : List Nat) (e a : Nat) : Option WalkRes :=
  if !tb e 0 then some (notPresent e a)
  else if got.length = 2 ∧ tb e 1 then some (leafOf e true a)
  else if got.length = 3 then some (leafOf e false a)
  else none

/-- A walk in which the entries `known` have been read already and up to `n` more levels follow. `guess`: what another package
holds is taken as a free value at once (log 11); otherwise the walk stops there (R218, R219). -/
def State.walkOn (s : State) (guess : Bool) (part va : Nat) (got known : List Nat) : Nat → WalkRes
  | 0 => .fault 0 0 0
  | n + 1 =>
    let a := s.pteAt part va got
    let go (e : Nat) : WalkRes := (pteEnds got e a).getD (s.walkOn guess part va (got ++ [e]) known.tail n)
    match known with
    | e :: _ => go e
    | [] =>
      match s.readPte a with
      | .val e => go e
      | .hole => .fault 0 0 a
      | .poison => .poison
      | .never => .never
      | .failed sub home => .remote sub home
      | .away pa hop => if guess then go (Config.freeW64 s.free pa).toNat else .away pa hop

/-- The four-level walk from a partition's root, made at once (R218, log 8, log 11). -/
def State.walk (s : State) (part va : Nat) : WalkRes := s.walkOn true part va [] [] 4

/-- The physical address of a virtual one within its page. -/
def pageAddr (base : Nat) (big : Bool) (va : Nat) : Nat := if big then base + va % 2 ^ 21 else base + va % 2 ^ 16

/-- The TLB entry that a walk gives. -/
def WalkRes.entry (part die page : Nat) : WalkRes → Option TlbEntry
  | .page base big r w x mig at_ => some { part, die, page, big, pa := base, r, w, x, mig, at_ }
  | _ => none

/-- A TLB entry is for a page. -/
def TlbEntry.holds (e : TlbEntry) (part page : Nat) : Bool :=
  e.part == part && (if e.big then e.page / 32 == page / 32 else e.page == page)

/-- What the L1 TLB of a core, or else the TLB of its die, holds for a page (R219). -/
def State.tlbFind (s : State) (part die : Nat) (core : Option Nat) (page : Nat) : Option TlbEntry :=
  (s.tlb.find? fun e => e.core.isSome && e.core == core && e.holds part page).or
    (s.tlb.find? fun e => e.core.isNone && e.die == die && e.holds part page)

/-- A translation through the TLBs: none when a walk is needed. An entry that differs from what the tables hold now
may be used or not, and is used where the tables cannot be read at once (R221, log 8). -/
def State.translate (s : State) (part die : Nat) (core : Option Nat) (va : Nat) : Option WalkRes :=
  match s.tlbFind part die core (va / 65536) with
  | none => none
  | some e =>
    let old := WalkRes.page e.pa e.big e.r e.w e.x e.mig e.at_
    match s.walkOn false part va [] [] 4 with
    | .never => some old
    | .away .. => some old
    | now => if old = now then some old else if Config.freeBit s.free (va / 65536) then some old else some now

/-! ### Accesses -/

/-- What an access does, for its checks (R226, R404). -/
inductive Acc where
  | load | store | atomic | fetch
  deriving DecidableEq, Repr

/-- The access code of TINFO (R404). -/
def Acc.code : Acc → Nat
  | .load => 0
  | .store => 1
  | .atomic => 1
  | .fetch => 2

/-- What the checks of R226 give for one lane. -/
inductive Res where
  | ok (p : Place)
  /-- A fault with its rank in the order of R226. -/
  | bad (rank cls sub info : Nat) (pte : Nat)
  /-- The page needs a walk. -/
  | need (page : Nat)
  /-- The home in another package is asked first: its address, whether it was forwarded, and the bytes (R226, R382). -/
  | ask (pa : Nat) (hop : Bool) (n : Nat)
  /-- A store waits for MIG. -/
  | wait
  deriving DecidableEq, Repr

/-- The workgroup count of a parlour unit (R28). -/
def Header.unitSize (h : Header) : Nat :=
  if h.par = 0 then 1
  else ((List.range (h.par - h.res)).map fun k => h.x.getD (h.res - 2 + k) 0 + 1).foldl (· * ·) 1

/-- The groups of a workgroup (R26). -/
def Header.groups (h : Header) : Nat := h.copyn + h.matn + h.vecn

/-- The valid scratchpad bytes of a workgroup (R207). -/
def scrLimit (h : Header) (g : Wg) : Nat := 4096 * h.groups + (if g.full then 4096 * h.fscr else 0)

/-- Bases of the apertures (R207). -/
def baseLane : Nat := 0xFFFFFFF000000000
def baseScr : Nat := 0xFFFFFFE000000000
def baseParlour : Nat := 0xFFFFFFD000000000
def baseAttic : Nat := 0xFFFFFFC000000000
def baseStack : Nat := 0xFFFFFFB000000000
def basePantry : Nat := 0xFFFFFFA000000000

/-- The apertures (R207). -/
inductive Aperture where
  | lane | scratch | parlour | attic | stack | pantry | global | nowhere
  deriving DecidableEq, Repr

/-- The aperture of an address and the offset in it (R207). -/
def aperture (a : Nat) : Aperture × Nat :=
  if a < 2 ^ 56 then (.global, a)
  else if baseLane ≤ a ∧ a < baseLane + 2 ^ 36 then (.lane, a - baseLane)
  else if baseScr ≤ a ∧ a < baseScr + 2 ^ 36 then (.scratch, a - baseScr)
  else if baseParlour ≤ a ∧ a < baseParlour + 2 ^ 36 then (.parlour, a - baseParlour)
  else if baseAttic ≤ a ∧ a < baseAttic + 2 ^ 36 then (.attic, a - baseAttic)
  else if baseStack ≤ a ∧ a < baseStack + 2 ^ 36 then (.stack, a - baseStack)
  else if basePantry ≤ a ∧ a < basePantry + 2 ^ 36 then (.pantry, a - basePantry)
  else (.nowhere, a)

/-- Bytes `[o, o + n)` of the parlour lie in reachable slices whose workgroups hold their full allotment (R207,
R209). -/
def State.parlourOk (s : State) (t : Thread) (o n : Nat) : Bool :=
  let h := s.hdrOf t
  let g := s.wgOf t
  let u := s.units.getD g.unit_ .absent
  let slice := h.fparl * 4096
  h.par != 0 && decide (o + n ≤ h.unitSize * slice ∧ o + n ≤ 2 ^ 22) && slice != 0 &&
    u.granted.contains (g.ord / h.unitSize * h.unitSize + o / slice) &&
    u.granted.contains (g.ord / h.unitSize * h.unitSize + (o + n - 1) / slice)

/-- Bytes of a die's Pantry: PANTd times 64 MiB (R334). -/
def State.pantryBytes (s : State) (die : Nat) : Nat := fld (s.hr 0x140).toNat (8 + 3 * die) 3 * 2 ^ 26

/-- The offset of the table directory in the Pantry aperture (R334). -/
def pantryDir : Nat := 0xFFFFFF000

/-- The valid offsets of the Pantry aperture: the table data and the directory (R334). -/
def State.pantryOk (s : State) (die o n : Nat) : Bool :=
  decide (o + n ≤ s.pantryBytes die ∨ (pantryDir ≤ o ∧ o + n ≤ pantryDir + 4096))

/-- The place of `n` bytes outside the global window; none is a hole (R207, R208, R406). -/
def State.localPlace (s : State) (t : Thread) (acc : Acc) (lane : Nat) (ap : Aperture) (o n : Nat) : Option Place :=
  let h := s.hdrOf t
  let g := s.wgOf t
  match ap with
  | .lane =>
    if t.side = .wide ∧ g.full ∧ o + n ≤ h.flane * 16 then some (.lane lane o) else none
  | .scratch => if o + n ≤ scrLimit h g then some (.scratch o) else none
  | .parlour => if s.parlourOk t o n then some (.parlour o) else none
  | .attic => if g.full ∧ o + n ≤ h.fatt * 65536 then some (.attic o) else none
  | .stack =>
    if o + n ≤ h.kstk * 16 then some (.stack lane o)
    else if t.handler ∧ 0x800000000 ≤ o ∧ o + n ≤ 0x800000080 then some (.frame lane (o - 0x800000000))
    else none
  | .pantry => if acc ≠ .atomic ∧ s.pantryOk (s.dieOf t) o n then some (.pantry o) else none
  | _ => none

/-- A fault of class ADDRESS_HOLE. -/
def holeRes (acc : Acc) : Res := .bad 2 6 0 (acc.code * 4) 0

/-- The rights that an access needs (R218). -/
def rightsOk (acc : Acc) (r w x : Bool) : Bool :=
  match acc with
  | .load => r
  | .store => w
  | .atomic => w
  | .fetch => x

/-- TPTE for an entry of the table region (R410). -/
def State.tpteOf (s : State) (part entry : Nat) : Nat :=
  let base := fld (s.hr (0x420 + 8 * part)).toNat 30 30 * 2 ^ 30
  if base ≤ entry ∧ entry < base + 2 ^ 30 then
    (fld (s.hr (0x440 + 8 * part)).toNat 30 26 * 2 ^ 30 + (entry - base)) % 2 ^ 64
  else 0

/-- A physical address lies in a partition's table region (R410). -/
def State.inTables (s : State) (part pa : Nat) : Bool :=
  let base := fld (s.hr (0x420 + 8 * part)).toNat 30 30 * 2 ^ 30
  decide (base ≤ pa ∧ pa < base + 2 ^ 30)

/-- What an access to a physical address finds (R216, R226, R279, R283, R410, R420, R438). An engine reaches other domains
too (`far`, R21). A group's access to a package of its domain that cannot be reached fails only once it is sent (`late`,
R226, R277). -/
def State.physRes (s : State) (part : Nat) (handler : Bool) (acc : Acc) (pa : Nat) (far : Bool := false)
    (late : Bool := false) : Res :=
  let hop := (pkgOf pa == s.pkg) && (s.fwdOf (inPkg pa)).isSome
  let pa := s.forwarded pa
  if pkgOf pa = s.pkg ∧ !s.physOk (inPkg pa) then holeRes acc
  else if (acc = .store ∨ acc = .atomic) ∧ s.inTables part pa ∧ !handler then .bad 3 5 3 4 0
  else if pkgOf pa = s.pkg then
    if (s.fwdOf (inPkg pa)).isSome then .bad 4 9 1 (pkgOf pa) 0
    else if s.homeLost (inPkg pa) then .ok (.dead (inPkg pa))
    else if s.power = .hold ∧ (stackOf (inPkg pa)).isSome then .bad 4 9 0 (pkgOf pa) 0
    else if acc ≠ .store ∧ s.poisoned (inPkg pa) then .bad 5 8 0 (acc.code * 4) 0
    else .ok (.phys (inPkg pa))
  else if !far ∧ pkgOf pa / 4096 ≠ s.pkg / 4096 then .bad 4 9 0 (pkgOf pa) 0
  else
    match s.reach (pkgOf pa) with
    | .lost => if late then .ok (.remote pa hop) else .bad 4 9 0 (pkgOf pa) 0
    | .key => if late then .ok (.remote pa hop) else .bad 4 9 2 (pkgOf pa) 0
    | _ => .ok (.remote pa hop)

/-- A local place's line is poisoned (R419). -/
def State.localPoison (s : State) (t : Thread) : Place → Bool
  | .scratch o => (s.wgOf t).scrPoison.contains (o / 128)
  | .parlour o => (s.units.getD (s.wgOf t).unit_ .absent).poison.contains (o / 128)
  | .attic o => (s.wgOf t).atticPoison.contains (o / 128)
  | .lane i o => t.slicePoison.contains ((512 * i + o) / 128)
  | .stack i o => t.stackPoison.contains ((4096 * i + o) / 128)
  | .pantry o => (s.dies.getD (s.dieOf t) {}).stagedPoison.contains (o / 128)
  | _ => false

/-- The entry that ended a walk, for a PAGE fault (R410). -/
def Res.withPte (r : Res) (pte : Nat) : Res :=
  match r with
  | .bad 3 cls sub info _ => .bad 3 cls sub info pte
  | r => r

/-- What an access to the global window finds, given its translation (R218, R226, R410). -/
def State.globalRes (s : State) (t : Thread) (acc : Acc) (va : Nat) (far : Bool) : WalkRes → Res
  | .fault sub loc entry => .bad 3 5 sub (loc + acc.code * 4) (s.tpteOf (s.partOf t) entry)
  | .poison => .bad 5 8 0 (acc.code * 4) 0
  | .remote sub home => .bad 4 9 sub home 0
  | .never => .wait
  | .away .. => .need (va / 65536)
  | .page base big r w x mig entry =>
    let there := s.physRes (s.partOf t) t.handler acc (pageAddr base big va) far (!far)
    let pte := s.tpteOf (s.partOf t) entry
    if there = holeRes acc then there
    else if (acc = .store ∨ acc = .atomic) ∧ !w ∧ mig then .wait
    else if !rightsOk acc r w x then .bad 3 5 3 (acc.code * 4) pte
    else there.withPte pte

/-- What an access outside the global window finds (R207, R226). -/
def State.localRes (s : State) (t : Thread) (acc : Acc) (lane : Nat) (ap : Aperture) (o n : Nat) : Res :=
  match s.localPlace t acc lane ap o n with
  | none => holeRes acc
  | some p => if (acc = .load ∨ acc = .atomic) ∧ s.localPoison t p then .bad 5 8 0 (acc.code * 4) 0 else .ok p

/-- The core whose L1 TLB a thread uses; a Cellar unit has none (R219). -/
def State.tlbCore (s : State) (t : Thread) : Option Nat := if t.side = .cellar then none else some (s.coreOf t)

/-- The translation that a thread uses: a walk that ended in a fault for it, or what the TLBs hold (R220). -/
def State.threadWalk (s : State) (t : Thread) (va : Nat) : Option WalkRes :=
  match t.walkFaults.find? fun f => f.1 == va / 65536 with
  | some f => some f.2
  | none => s.translate (s.partOf t) (s.dieOf t) (s.tlbCore t) va

/-- The checks of R226 for one lane's access of `n` bytes. -/
def State.resolve (s : State) (t : Thread) (acc : Acc) (lane va n : Nat) : Res :=
  if va % n ≠ 0 then .bad 1 7 0 (acc.code * 4) 0
  else
    match aperture va with
    | (.global, _) =>
      match s.threadWalk t va with
      | none => .need (va / 65536)
      | some w => s.globalRes t acc va false w
    | (ap, o) => s.localRes t acc lane ap o n

/-- What an instruction asks another package before it goes on: an address, whether the forwarding table of this package
gave it, the bytes, and whether it only probes for faults (R226, R276, R283). -/
structure Ask where
  va : Nat
  pa : Nat
  hop : Bool
  n : Nat
  probe : Bool
  /-- The words of this package that the instruction has read before (R391). -/
  kept : List (Place × List Byte) := []
  deriving DecidableEq, Repr

/-- Why an instruction does not complete at this issue. -/
inductive Ev where
  /-- A trap is taken. -/
  | trap (x : TrapInfo)
  /-- The group waits: nothing changes, and the instruction is tried again. -/
  | stall
  /-- The group waits for unpinned scratchpad pages, which are refilled (R213). -/
  | refill (pages : List Nat)
  /-- The group waits for a page walk (R220). -/
  | walk (page : Nat)
  /-- The group asks another package and waits for its answer (R276). -/
  | ask (q : Ask)
  deriving DecidableEq, Repr

/-- ILLEGAL with a subcode of R403. -/
def illegal (sub : Nat) : Ev := .trap { cls := 1, sub }

/-- ILLEGAL/RSV at execution. -/
def rsv : Ev := illegal 1

/-- SYNC with a code of R370. -/
def syncTrap (code : Nat) : Ev := .trap { cls := 0x0B, info := code }

/-- ADDRESS_HOLE at an address. -/
def holeTrap (acc : Acc) (va : Nat) : Ev := .trap { cls := 6, addr := va, info := acc.code * 4 }

/-- ALIGN at an address. -/
def alignTrap (acc : Acc) (va : Nat) : Ev := .trap { cls := 7, addr := va, info := acc.code * 4 }

/-- The lanes of a list as a mask. -/
def laneMask (ls : List Nat) : BitVec 64 := ls.foldl (fun m i => m ||| (1#64 <<< i)) 0

/-- The lanes whose check failed with a rank. -/
def badAt (rs : List (Nat × Nat × Res)) (k : Nat) : List (Nat × Nat × Res) :=
  rs.filter fun r => match r.2.2 with
    | .bad rank .. => rank == k
    | _ => false

/-- The pages that lanes wait for. -/
def neededPages (rs : List (Nat × Nat × Res)) : List Nat :=
  rs.filterMap fun r => match r.2.2 with
    | .need p => some p
    | _ => none

/-- The first question that a lane has for another package. -/
def asked (rs : List (Nat × Nat × Res)) : Option Ask :=
  rs.findSome? fun r => match r.2.2 with
    | .ask pa hop n => some { va := r.2.1, pa, hop, n, probe := true }
    | _ => none

/-- The places of lanes that passed. -/
def okPlaces (rs : List (Nat × Nat × Res)) : List (Nat × Nat × Place) :=
  rs.filterMap fun r => match r.2.2 with
    | .ok p => some (r.1, r.2.1, p)
    | _ => none

/-- The trap that failing lanes of one rank raise (R226, R404). -/
def trapOf (group : Bool) (bs : List (Nat × Nat × Res)) : Ev :=
  match bs with
  | (_, va, .bad _ cls sub info pte) :: _ =>
    .trap { cls, sub, addr := va, info, pte := BitVec.ofNat 64 pte
            lanes := if group then none else some (laneMask (bs.map (·.1))) }
  | _ => .stall

/-- The first rank, from some rank on, that a lane's check failed with. -/
def firstRank (rs : List (Nat × Nat × Res)) (ks : List Nat) : Option Nat := ks.find? fun k => !(badAt rs k).isEmpty

/-- Judges the lanes' checks: it traps with the first class in the order of R226 that any lane raises, once every page and
every other package that it depends on has answered. `group` says that the access is made once for the group, so that EM
stays as it stood (log 30). -/
def judge (group : Bool) (rs : List (Nat × Nat × Res)) : Except Ev (List (Nat × Nat × Place)) :=
  if !(badAt rs 1).isEmpty then .error (trapOf group (badAt rs 1))
  else
    match neededPages rs with
    | p :: _ => .error (.walk p)
    | [] =>
      match asked rs with
      | some q => .error (.ask q)
      | none =>
        match firstRank rs [2, 3, 4, 5] with
        | some k => .error (trapOf group (badAt rs k))
        | none => if (okPlaces rs).length = rs.length then .ok (okPlaces rs) else .error .stall

/-- What another package has answered about an address (R276). -/
def Thread.heard (t : Thread) (pa n : Nat) : Option Answer :=
  t.answers.find? fun a => a.pa == pa && (a.cls != 0 || a.data.length == n || a.data.isEmpty)

/-- A lane in another package, among several, is asked for holes and poison first, so that the instruction takes effect in no
lane where one has a fault, and traps with the first class (R226, R382, log 11). -/
def Res.probed (r : Res) (t : Thread) (acc : Acc) (n : Nat) : Res :=
  match r with
  | .ok (.remote pa hop) =>
    match t.heard pa n with
    | none => .ask pa hop n
    | some a => if a.cls = 6 then holeRes acc else if a.cls = 8 ∧ acc ≠ .store then .bad 5 8 0 (acc.code * 4) 0 else r
  | r => r

/-- A lane finds a fault of this package that comes after ADDRESS_HOLE in the order of R226. -/
def Res.late : Res → Bool
  | .bad rank .. => decide (3 ≤ rank)
  | _ => false

/-- Checks every lane, with `check` for one. Lanes of a load in another package are asked first only where another lane has a
fault that theirs would come before; a load that stands finds theirs at its home. -/
def checkAll (t : Thread) (acc : Acc) (n : Nat) (group : Bool) (ls : List (Nat × Nat)) (check : Nat → Nat → Res) :
    Except Ev (List (Nat × Nat × Place)) :=
  let rs := ls.map fun l => (l.1, l.2, check l.1 l.2)
  let several := decide (2 ≤ ls.length) && (acc != .load || rs.any fun r => r.2.2.late)
  judge group (if several then rs.map fun r => (r.1, r.2.1, r.2.2.probed t acc n) else rs)

/-- Checks every lane's access (R226). -/
def State.resolveAll (s : State) (t : Thread) (acc : Acc) (n : Nat) (group : Bool) (ls : List (Nat × Nat)) :
    Except Ev (List (Nat × Nat × Place)) :=
  checkAll t acc n group ls fun lane va => s.resolve t acc lane va n

/-! ### Reading and writing places -/

/-- The key of a byte of the save frame (R406). -/
def frameKey (lane o : Nat) : Nat := if o < 32 then 128 * lane + o else 8192 + o

/-- Reads frame bytes. -/
def frameBytes (m : Memory) (lane o : Nat) : Nat → List Byte
  | 0 => []
  | n + 1 => m.get (frameKey lane o) :: frameBytes m lane (o + 1) n

/-- Writes frame bytes. -/
def framePut (m : Memory) (lane o : Nat) : List Byte → Memory
  | [] => m
  | b :: bs => framePut (m.set (frameKey lane o) b) lane (o + 1) bs

/-- The `n` bytes at a place of this package; a place elsewhere is asked, and none of its bytes come from here. -/
def State.readPlace (s : State) (t : Thread) (p : Place) (n : Nat) : List Byte :=
  match p with
  | .lane i o => t.slice.bytes (512 * i + o) n
  | .scratch o => (s.wgOf t).scr.bytes o n
  | .parlour o => (s.units.getD (s.wgOf t).unit_ .absent).mem.bytes o n
  | .attic o => (s.wgOf t).attic.bytes o n
  | .stack i o => t.stack.bytes (4096 * i + o) n
  | .frame i o => frameBytes t.frame i o n
  | .pantry o => ((s.dies.getD (s.dieOf t) {}).staged).bytes o n
  | .phys pa => s.mem.bytes pa n
  | .remote .. => List.replicate n 0
  | .dead _ => List.replicate n 0

/-- The entry that a store adds to a posting-window history: what it replaces (R399). -/
def histOf (m : Memory) (o : Nat) (bs : List Byte) : List (Nat × List Byte) := [(o, m.bytes o bs.length)]

/-- Writes scratchpad bytes, whose lines then differ from the backing region (R213). `keep`: the launch has matrix groups,
whose posting window needs what was replaced (R399). -/
def Wg.putScr (g : Wg) (keep : Bool) (o : Nat) (bs : List Byte) : Wg :=
  { g with
    scr := g.scr.putBytes o bs
    hist := if keep then g.hist ++ histOf g.scr o bs else g.hist
    dirty := g.dirty ++ (linesOf o bs.length).filter fun l => !g.dirty.contains l }

/-- What a launch has stored in units of 16 bytes, which its own fetches may see (R105). -/
def State.noteCode (s : State) (t : Thread) (pa n : Nat) : State :=
  if t.side = .cellar then s
  else
    { s with launches := s.launches.upd (s.wgOf t).launch fun l =>
        { l with wrote := l.wrote ++ (List.range ((pa + n + 15) / 16 - pa / 16)).map fun k =>
            (pa / 16 + k, s.mem.getNat (16 * (pa / 16 + k)) 16) } }

/-- Writes bytes at a place. -/
def State.writePlace (s : State) (t : Thread) (p : Place) (bs : List Byte) : State × Thread :=
  match p with
  | .lane i o => (s, { t with slice := t.slice.putBytes (512 * i + o) bs })
  | .scratch o => (s.updWg t.wg fun g => g.putScr ((s.hdrOf t).matn != 0) o bs, t)
  | .parlour o =>
    let keep := (s.hdrOf t).matn != 0
    ({ s with units := s.units.upd (s.wgOf t).unit_ fun u =>
        { u with mem := u.mem.putBytes o bs, hist := if keep then u.hist ++ histOf u.mem o bs else u.hist } }, t)
  | .attic o => (s.updWg t.wg fun g => { g with attic := g.attic.putBytes o bs }, t)
  | .stack i o => (s, { t with stack := t.stack.putBytes (4096 * i + o) bs })
  | .frame i o => (s, { t with frame := framePut t.frame i o bs })
  | .pantry o => (s.updDie (s.dieOf t) fun d => { d with staged := d.staged.putBytes o bs }, t)
  | .phys pa => (({ s with mem := s.mem.putBytes pa bs } : State).noteCode t pa bs.length, t)
  | .remote .. => (s, t)
  | .dead _ => (s, { t with hung := true })

/-- The sampled access count of a 2 MiB region; which accesses are sampled is free (R223). -/
def State.sample (s : State) (pa : Nat) : State :=
  { s with
    counts :=
      if Config.freeBit s.free (pa + 1) then
        s.counts.set (pa / 2 ^ 21) (BitVec.ofNat 8 (satAdd 8 (s.counts.get (pa / 2 ^ 21)).toNat 1))
      else s.counts }

/-- LEN and ADV of a partition's LEASE (R394). -/
def State.leaseOf (s : State) (part : Nat) : W64 := s.lease.getD part 0x100000010
def State.leaseLen (s : State) (part : Nat) : Nat := max 1 (fld (s.leaseOf part).toNat 0 20)

/-- The timestamps of a load (R393). -/
def State.stampLoad (s : State) (t : Thread) (p : Place) : State × Thread :=
  match p with
  | .phys pa =>
    let l := s.lts.getD (pa / 128) (0, 0)
    let ts := max t.pts l.1
    let s := s.sample pa
    (if l.2 < ts then
      { s with lts := s.lts.put (pa / 128) (l.1, max l.2 (ts + s.leaseLen (s.partOf t))) } else s,
      { t with pts := ts })
  | _ => (s, t)

/-- The timestamps of a store or atomic (R393). -/
def State.stampStore (s : State) (t : Thread) (p : Place) : State × Thread :=
  match p with
  | .phys pa =>
    let l := s.lts.getD (pa / 128) (0, 0)
    let ts := max t.pts (l.2 + 1)
    let s := s.sample pa
    ({ s with lts := s.lts.put (pa / 128) (ts, ts) }, { t with pts := ts })
  | _ => (s, t)

/-- The scratchpad bytes of a place overlap a range that the core's scoreboard holds (R215, R235). -/
def State.ranged (s : State) (t : Thread) (o n : Nat) : Bool :=
  ((s.cores.getD (s.coreOf t) {}).ops.vals.filter fun e => e.wg == t.wg).any fun e =>
    e.ranges.any fun r => decide (r.1 < o + n ∧ o < r.2)

/-- A place lies in an unpinned scratchpad page (R213). -/
def State.unpinnedAt (s : State) (t : Thread) : Place → Bool
  | .scratch o => !((s.wgOf t).pinned.contains (o / 16384))
  | _ => false

/-- A scratchpad access waits: for a range, or for an unpinned page (R213, R215). -/
def State.scrWaits (s : State) (t : Thread) (p : Place) (n : Nat) : Bool :=
  match p with
  | .scratch o => s.ranged t o n || !((s.wgOf t).pinned.contains (o / 16384))
      || !((s.wgOf t).pinned.contains ((o + n - 1) / 16384))
  | _ => false

/-- Bytes of a page (R218). -/
def pageSize (big : Bool) : Nat := if big then 2 ^ 21 else 2 ^ 16

/-- An address of this package lies in a page that a demotion engine moves: stores there wait (R223). -/
def State.moving (s : State) (a : Nat) : Bool :=
  s.demote.any fun d => match d.2.move with
    | some (pa, big, _) => decide (inPkg pa ≤ a ∧ a < inPkg pa + pageSize big)
    | none => false

/-- An access of the store buffer to a checked place waits (R213, R215, R223). -/
def State.bufferWaits (s : State) (t : Thread) (n : Nat) (p : Place) : Bool :=
  s.scrWaits t p n || match p with
    | .phys a => s.moving a
    | _ => false

/-- The unpinned pages of a place's `n` bytes (R213). -/
def State.missing (s : State) (t : Thread) (n : Nat) : Place → List Nat
  | .scratch o => ([o / 16384, (o + n - 1) / 16384].eraseDups).filter fun p => !(s.wgOf t).pinned.contains p
  | _ => []

/-- How a group waits whose accesses wait: for the refill of unpinned pages, if there are any (R213, R215). -/
def State.held (s : State) (t : Thread) (n : Nat) (ps : List Place) : Ev :=
  match ps.flatMap (s.missing t n) with
  | [] => .stall
  | ms => .refill ms

/-- The accesses of a list wait. -/
def State.anyWaits (s : State) (t : Thread) (n : Nat) (ps : List (Nat × Nat × Place)) : Bool :=
  ps.any fun p => s.scrWaits t p.2.2 n

/-- An unanswered remote access, or a store held behind one, is in the store buffer (R276, R278). -/
def Thread.busy (t : Thread) : Bool := !t.pend.isEmpty

/-- Stalls while a remote access is unanswered: engine commands, atomics, LAUNCH, EXIT and what orders accesses
(R278, R388). -/
def Thread.quiet (t : Thread) : Except Ev Unit := if t.busy then .error .stall else .ok ⟨⟩

/-- Loads the bytes at checked places, in lane order. -/
def State.loadPlaces (s : State) (t : Thread) (n : Nat) :
    List (Nat × Nat × Place) → List (Nat × List Byte) × State × Thread
  | [] => ([], s, t)
  | (lane, _, p) :: ps =>
    let bs := s.readPlace t p n
    let r := s.stampLoad t p
    let rest := State.loadPlaces r.1 r.2 n ps
    ((lane, bs) :: rest.1, rest.2)

/-- Stores bytes at checked places, in lane order. -/
def State.storePlaces (s : State) (t : Thread) : List (Place × List Byte) → State × Thread
  | [] => (s, t)
  | (p, bs) :: ps =>
    let w := s.writePlace t p bs
    let r := w.1.stampStore w.2 p
    State.storePlaces r.1 r.2 ps

/-- A place in another package. -/
def Place.isRemote : Place → Bool
  | .remote .. => true
  | _ => false

/-- A place whose home never answers. -/
def Place.isDead : Place → Bool
  | .dead _ => true
  | _ => false

/-- The physical address of a remote place. -/
def Place.remotePa : Place → Nat
  | .remote pa _ => pa
  | _ => 0

/-- The forwarding table of this package gave a place. -/
def Place.hopped : Place → Bool
  | .remote _ hop => hop
  | _ => false

/-- What the instruction at the issue point still has to ask before it can load from checked places. -/
def Thread.unheard (t : Thread) (n : Nat) (ps : List (Nat × Nat × Place)) : Option Ask :=
  ps.findSome? fun p => match p.2.2 with
    | .remote pa hop => if (t.heard pa n).isSome then none else some { va := p.2.1, pa, hop, n, probe := false }
    | _ => none

/-- The fault of a class that another package has found for a load (R216, R419). -/
def Thread.heardBad (t : Thread) (n cls : Nat) (ps : List (Nat × Nat × Place)) : Option Ev :=
  (ps.find? fun p => p.2.2.isRemote && ((t.heard p.2.2.remotePa n).map (·.cls)) == some cls).map fun p =>
    .trap { cls := cls, addr := p.2.1 }

/-- A word of this package that the instruction at the issue point has read, with the bytes as they were then. -/
def Thread.keptAt (t : Thread) (p : Place) : Option (List Byte) := (t.kept.find? fun k => k.1 == p).map (·.2)

/-- The words of this package among some, read now unless they have been read before: no later word is read before them (R391). -/
def State.keepWords (s : State) (t : Thread) (n : Nat) (ps : List (Nat × Nat × Place)) : List (Place × List Byte) :=
  t.kept ++ (ps.filter fun p => !p.2.2.isRemote && (t.keptAt p.2.2).isNone).map fun p => (p.2.2, s.readPlace t p.2.2 n)

/-- Loads from checked places, one after another, for an instruction that waits for all of them: what lies in another
package has been asked, after the words before it have been read (R276, R391); a home that never answers leaves the group waiting
(R142). -/
def State.loadHeard (s : State) (t : Thread) (n : Nat) (ps : List (Nat × Nat × Place)) :
    Except Ev (List (List Byte) × State × Thread) :=
  if ps.any fun p => p.2.2.isDead then .error .stall
  else
    match t.unheard n ps, t.heardBad n 6 ps, t.heardBad n 8 ps with
    | some q, _, _ => .error (.ask { q with kept := s.keepWords t n (ps.takeWhile fun p => p.2.2.remotePa != q.pa) })
    | none, some e, _ => .error e
    | none, none, some e => .error e
    | none, none, none =>
      let r := s.loadPlaces t n ps
      .ok ((ps.zip r.1).map fun x => match x.1.2.2 with
        | .remote pa _ => ((t.heard pa n).map (·.data)).getD []
        | p => (t.keptAt p).getD x.2.2, r.2.1, { r.2.2 with kept := s.keepWords t n ps })

/-- Ordinary loads of the `k` consecutive 8-byte words at an address, made once for the group in address order
(R160, R183, R288, R362). The words come back as one little-endian number. -/
def State.loadWords (s : State) (t : Thread) (va k : Nat) : Except Ev (Nat × State × Thread) := do
  t.quiet
  let ps ← s.resolveAll t .load 8 true ((List.range k).map fun j => (0, (va + 8 * j) % 2 ^ 64))
  if s.anyWaits t 8 ps then .error (s.held t 8 (ps.map (·.2.2)))
  else
    let r ← s.loadHeard t 8 ps
    .ok (ofBytes r.1.flatten, r.2)

/-- The partition that a die belongs to (R85). -/
def State.partOfDie (s : State) (die : Nat) : Nat := fld (s.hr 0x140).toNat (2 * die) 2

/-! ### Registers -/

/-- The lanes of a group (R25). -/
def Thread.all (t : Thread) : List Nat := List.range t.width

/-- The lanes set in EM (R136); a matrix group has its one lane. -/
def Thread.active (t : Thread) : List Nat :=
  if t.side = .mcc then [0] else t.all.filter fun i => t.regs.em.getLsbD i

/-- Only bits 0 to W - 1 of a mask are kept (R135). -/
def Thread.trim (t : Thread) (m : BitVec 64) : BitVec 64 := m &&& BitVec.ofNat 64 (2 ^ t.width - 1)

/-- Writes a register of lanes. -/
def setLanes {w : Nat} (m : Store w) (base : Nat) (f : Nat → BitVec w) : List Nat → Store w
  | [] => m
  | i :: is => setLanes (m.set (base + i) (f i)) base f is

/-- Removes registers `[r, r + n)` from a list of empty ones (R141). -/
def takeOver (m : Tab Nat) (r n : Nat) : Tab Nat := m.filter fun e => !decide (r ≤ e.1 ∧ e.1 < r + n)

/-- A value of `n` registers per lane, low word first. -/
def word32 (v j : Nat) : W32 := BitVec.ofNat 32 (v / 2 ^ (32 * j))

/-- Writes `n` V registers in the given lanes. -/
def Regs.putV (r : Regs) (d : Nat) (ls : List Nat) (f : Nat → Nat) : Nat → Regs
  | 0 => r
  | n + 1 =>
    let r := Regs.putV r d ls f n
    { r with v := setLanes r.v (64 * (d + n)) (fun i => word32 (f i) n) ls }

/-- A lane-wise write to V registers: it takes the register over unless EM is zero (R136, R141). -/
def Regs.writeV (r : Regs) (d n : Nat) (ls : List Nat) (f : Nat → Nat) : Regs :=
  if ls.isEmpty then r else { r.putV d ls f n with ve := takeOver r.ve d n }

/-- A write to a G register, which takes it over (R141). -/
def Regs.writeG (r : Regs) (d : Nat) (v : W64) : Regs := { r with g := r.g.set d v, ge := takeOver r.ge d 1 }

/-- A write to an S register. -/
def Regs.writeS (r : Regs) (d : Nat) (v : W64) : Regs := { r with s := r.s.set d v }

/-- A mask by its number, 8 for EM (R115). -/
def Thread.mask (t : Thread) (k : Nat) : BitVec 64 := if k = 8 then t.regs.em else t.regs.m.get k

/-- Writes a mask by its number (R115, R135). -/
def Thread.setMask (t : Thread) (k : Nat) (v : BitVec 64) : Thread :=
  if k = 8 then { t with regs := { t.regs with em := t.trim v } }
  else { t with regs := { t.regs with m := t.regs.m.set k (t.trim v) } }

/-- The five flags (R137). -/
structure Flags where
  z : Bool := false
  n : Bool := false
  c : Bool := false
  v : Bool := false
  t : Bool := false
  deriving DecidableEq, Repr

/-- The flags as CC's bits. -/
def Flags.bits (f : Flags) : BitVec 5 :=
  BitVec.ofNat 5 (bit f.z + 2 * bit f.n + 4 * bit f.c + 8 * bit f.v + 16 * bit f.t)

/-- Writes CC, all five flags (R137). -/
def Thread.setCC (t : Thread) (f : Flags) : Thread := { t with regs := { t.regs with cc := f.bits } }

/-- A V register exists for the group: its extended block is held (R134). -/
def Thread.vHeld (t : Thread) (r n : Nat) : Bool := t.side != .wide || decide (r + n ≤ 32 + 16 * t.regs.extb)

/-- Writes a G register, or on the MCC an S register (R119). -/
def Thread.putG (t : Thread) (dst : Nat) (v : W64) : Thread :=
  if t.side = .mcc then { t with regs := t.regs.writeS dst v }
  else { t with regs := t.regs.writeG (dst % 128) v }

/-! ### Program counter -/

/-- The PC of a thread as a number. -/
def Thread.at_ (t : Thread) : Nat := t.pc.toNat

/-- The line address of a PC (R100). -/
def lineOf (pc : Nat) : Nat := pc / 64 * 64

/-- The slot of a PC (R100). -/
def slotOf (pc : Nat) : Nat := pc % 64 / 12

/-- The PC after a slot (R103). -/
def nextPc (pc : Nat) : Nat := if slotOf pc < 4 then pc + 12 else (lineOf pc + 64) % 2 ^ 64

/-- What a try of the instruction at the issue point has found of walks and of other packages is forgotten. -/
def Thread.forget (t : Thread) : Thread := { t with walkFaults := [], asks := [], answers := [], kept := [] }

/-- Goes on to the next slot (R103). -/
def Thread.advance (t : Thread) : Thread :=
  let t := t.forget
  if slotOf t.at_ < 4 then { t with pc := BitVec.ofNat 64 (nextPc t.at_), enter := .inside }
  else { t with pc := BitVec.ofNat 64 (nextPc t.at_), enter := .fall, line := none }

/-- Goes to a target, whose line is entered (R104). -/
def Thread.jump (t : Thread) (target : Nat) : Thread :=
  { t.forget with pc := BitVec.ofNat 64 target, enter := .branch, line := none }

/-- Counts an instruction in the launch record, at its issue (R445, log 12). -/
def State.counted (s : State) (t : Thread) : State :=
  if t.side = .cellar then s
  else { s with launches := s.launches.upd (s.wgOf t).launch fun l => { l with instr := satAdd 64 l.instr 1 } }

/-- The instruction is complete: it is counted and the thread goes on. -/
def done (s : State) (t : Thread) : Except Ev (State × Thread) := .ok (s.counted t, t.advance)

/-- The instruction has been issued and blocks: it is counted (R445). -/
def blocks (s : State) (t : Thread) : Except Ev (State × Thread) := .ok (s.counted t, t)

/-- The instruction is complete and the thread jumps. -/
def doneAt (s : State) (t : Thread) (target : Nat) : Except Ev (State × Thread) := .ok (s.counted t, t.jump target)

/-! ### Barrier objects in memory, for agents that use the page tables directly -/

/-- The bytes that carry an addition to another package (R368, log 11). -/
def Addition.bytes (n : Addition) : List Byte :=
  toBytes n.a 8 ++ toBytes n.b 8 ++ toBytes n.v 8 ++ toBytes n.x 8 ++ toBytes n.y 8 ++ toBytes (bit n.e) 1

/-- An addition to a barrier object of another package that no group makes (R361, R369, log 11). -/
def State.sendBar (s : State) (pa : Nat) (hop : Bool) (n : Addition) : State :=
  s.sendAway { owner := .nobody
               req := { src := s.pkg, id := 0, kind := 3, op := 0, pa := pa, size := 64, data := n.bytes
                        forwarded := hop, far := true } }

/-- The place of a global virtual address with the right to store or to load, for the Hearth, the Porch and the engines of
the Cellar; none where the access would fault or never be answered. -/
def State.hearthPlace (s : State) (part : Nat) (acc : Acc) (va : Nat) : Option Place :=
  if 2 ^ 56 ≤ va then none
  else
    match s.walk part va with
    | .page base big r w x _ _ =>
      if !rightsOk acc r w x then none
      else
        match s.physRes part true acc (pageAddr base big va) true with
        | .ok (.phys a) => some (.phys a)
        | .ok (.remote pa hop) => some (.remote pa hop)
        | _ => none
    | _ => none

/-- A read of such an agent at an address never completes: an entry of its page, or the address, has its home on a lost die
(R142, R420). -/
def State.hearthDead (s : State) (part va : Nat) : Bool :=
  match s.walk part va with
  | .never => true
  | .page base big .. =>
    match s.physRes part true .load (pageAddr base big va) true with
    | .ok p => p.isDead
    | _ => false
  | _ => false

/-- A store of such an agent finds W = 0 and MIG = 1, and stalls until MIG clears (R218, R223). -/
def State.hearthWaits (s : State) (part va : Nat) : Bool :=
  decide (va < 2 ^ 56) &&
    match s.walk part va with
    | .page _ _ _ w _ mig _ => !w && mig
    | _ => false

/-- An earlier store of the Hearth waits, of the same chain or to the same address. -/
def blockedBy (ds : List Due) (chain part va : Nat) : Bool :=
  ds.any fun d => (chain != 0 && d.chain == chain) || (d.part == part && d.va == va)

/-- Stores bytes that lie in one page for such an agent, at once; none when they cannot be stored. -/
def State.hearthStore (s : State) (part va : Nat) (bs : List Byte) : Option State :=
  match s.hearthPlace part .store va with
  | some (.phys a) => some (s.putPhys a bs)
  | some (.remote pa hop) =>
    some (s.sendAway { owner := .nobody
                       req := { src := s.pkg, id := 0, kind := 1, op := 0, pa := pa, size := bs.length, data := bs
                                forwarded := hop, far := true } })
  | _ => none

/-- An aligned number of at most 8 bytes that such an agent reads; none when it cannot be read. What another package
holds is free (log 11). -/
def State.hearthNat (s : State) (part va n : Nat) : Option Nat :=
  match s.hearthPlace part .load va with
  | some (.phys a) => some (s.mem.getNat a n)
  | some (.remote pa _) => some (Config.freeNat s.free pa % 2 ^ (8 * n))
  | _ => none

/-- An addition to a barrier object of a partition, at once; none when the object cannot be reached. -/
def State.objArrive (s : State) (part va : Nat) (n : Addition) : Option State :=
  match s.hearthPlace part .store va with
  | some (.phys a) =>
    if s.poisoned a then none
    else some (s.putPhysNat a 64 ((Bar.ofWord (s.mem.getNat a 64)).add n).word)
  | some (.remote pa hop) => some (s.sendBar pa hop n)
  | _ => none

/-- The chain of a launch's or a refused launch's stores: the launch record, then the arrival at DONE (R445). -/
def doneChain (va : Nat) : Nat := 2 * va + 2

/-- MSI-X vector 1, for a launch from a host queue (R444). -/
def State.signalMsix (s : State) (x : Signal) : State := if x.host then s.msix 1 else s

/-- What the Hearth finds at DONE (R444). -/
inductive DoneAt where
  | ok
  /-- It does not translate, is not writable, or lies in a poisoned line. -/
  | fault
  /-- Its home is a lost die, so nothing completes there (R420). -/
  | stuck
  deriving DecidableEq, Repr

/-- What the Hearth finds for a store to an address. A page that moves takes the store once it has moved (R218). -/
def State.doneAt (s : State) (part va : Nat) : DoneAt :=
  if 2 ^ 56 ≤ va then .fault
  else
    match s.walk part va with
    | .fault .. => .fault
    | .poison => .fault
    | .remote .. => .fault
    | .never => .stuck
    | .away .. => .stuck
    | .page base big _ w _ mig _ =>
      if !w && !mig then .fault
      else
        match s.physRes part true .store (pageAddr base big va) true with
        | .ok (.phys a) => if s.poisoned a then .fault else .ok
        | .ok (.dead _) => .stuck
        | .ok _ => .ok
        | _ => .fault

/-- DONE cannot be signalled: DONE_FAULT, with the launch's TAG, and the message of a host queue's launch (R444). -/
def State.signalFault (s : State) (x : Signal) : State :=
  (s.post { code := 0x18, part := x.part, addr := x.done, tag := x.tag }).signalMsix x

/-- The addition at DONE, and the message after it; in another package the message follows the answer (R444). -/
def State.signalAdd (s : State) (x : Signal) : State :=
  let n : Addition := { a := 1, v := x.nwg, e := x.err }
  match s.doneAt x.part x.done, s.hearthPlace x.part .store x.done with
  | .fault, _ => s.signalFault x
  | .stuck, _ => s
  | .ok, some (.phys a) => (s.putPhysNat a 64 ((Bar.ofWord (s.mem.getNat a 64)).add n).word).signalMsix x
  | .ok, some (.remote pa hop) =>
    s.sendAway { owner := .signal x true
                 req := { src := s.pkg, id := 0, kind := 3, op := 0, pa := pa, size := 64, data := n.bytes
                          forwarded := hop, far := true } }
  | .ok, _ => s

/-- The record at DONE + 64, then the addition, where no page of DONE's moves; nothing of it is made where either half cannot be
(R444). -/
def State.signalNow (s : State) (x : Signal) : State :=
  match s.doneAt x.part x.done, s.doneAt x.part (x.done + 64) with
  | .ok, .ok =>
    match s.hearthPlace x.part .store (x.done + 64) with
    | some (.phys a) => (s.putPhys a (toBytes x.word 64)).signalAdd x
    | some (.remote pa hop) =>
      s.sendAway { owner := .signal x false
                   req := { src := s.pkg, id := 0, kind := 1, op := 0, pa := pa, size := 64, data := toBytes x.word 64
                            forwarded := hop, far := true } }
    | _ => s
  | .fault, _ => s.signalFault x
  | _, .fault => s.signalFault x
  | _, _ => s

/-- What another package has answered to a signal: the addition follows the record, and the message the addition (R444). -/
def State.signalHeard (s : State) (x : Signal) (added : Bool) (cls : Nat) : State :=
  if cls ≠ 0 then s.signalFault x else if added then s.signalMsix x else s.signalAdd x

/-- A store of the Hearth waits, or follows one that does (R218, R223). -/
def State.hearthHeld (s : State) (chain part va : Nat) : Bool :=
  blockedBy s.hearthDue chain part va || s.hearthWaits part va

/-- Stores bytes that lie in one page; the store waits for MIG, and for an earlier store of its chain (R218); none when they
cannot be stored. -/
def State.hearthPut (s : State) (part va : Nat) (bs : List Byte) (chain : Nat := 0) : Option State :=
  if s.hearthHeld chain part va then
    some { s with hearthDue := s.hearthDue ++ [{ part := part, va := va, chain := chain, what := .put bs }] }
  else s.hearthStore part va bs

/-- The same for an addition to a barrier object. -/
def State.objAdd (s : State) (part va : Nat) (n : Addition) (chain : Nat := 0) : Option State :=
  if s.hearthHeld chain part va then
    some { s with hearthDue := s.hearthDue ++ [{ part := part, va := va, chain := chain, what := .add n }] }
  else s.objArrive part va n

/-- The signal at DONE of a launch that has ended or is refused: it waits while a page of DONE's moves, and for an earlier one; a
misaligned DONE takes none (R218, R444, log 86). -/
def State.signalDone (s : State) (x : Signal) : State :=
  if x.done = 0 then s
  else if x.done % 64 ≠ 0 then s.signalFault x
  else if s.hearthHeld (doneChain x.done) x.part x.done || s.hearthWaits x.part (x.done + 64) then
    { s with hearthDue := s.hearthDue ++
        [{ part := x.part, va := x.done, chain := doneChain x.done, what := .signal x }] }
  else s.signalNow x

/-- CQSUB's arrival at its named barrier, which also frees the workgroup's retirement (R362, R441). -/
def State.cqArrive (s : State) (wg nb : Nat) : State :=
  (s.nbAdd wg nb { a := 1 }).updWg wg fun g => { g with outstanding := g.outstanding - 1 }

/-- A store of the Hearth that waited is made. -/
def State.dueDo (s : State) (d : Due) : State :=
  match d.what with
  | .put bs => (s.hearthStore d.part d.va bs).getD s
  | .add n => (s.objArrive d.part d.va n).getD s
  | .notify wg nb => s.cqArrive wg nb
  | .signal x => s.signalNow x

/-- A store of the Hearth no longer waits (R218, R223). -/
def dueStep (k : Nat) (s : State) : Host.Outcome State Fault Refusal :=
  match s.hearthDue[k]? with
  | none => .fault .notEnabled
  | some d =>
    let ready := match d.what with
      | .notify .. => true
      | .signal x => !s.hearthWaits x.part x.done && !s.hearthWaits x.part (x.done + 64)
      | _ => !s.hearthWaits d.part d.va
    if ready && !blockedBy (s.hearthDue.take k) d.chain d.part d.va then
      .next (({ s with hearthDue := s.hearthDue.eraseIdx k } : State).dueDo d)
    else .fault .notEnabled

/-! ### Cellar instances -/

/-- Classes and subcodes of an instance's status word (R351). -/
def cellarCause (x : TrapInfo) : Nat × Nat :=
  match x.cls with
  | 1 => (1, if x.sub = 5 then 4 else x.sub)
  | 3 => (2, 0)
  | 5 => (3, if x.sub = 0 ∧ x.info % 4 = 2 then 2 else x.sub)
  | 6 => (4, 0)
  | 7 => (5, 0)
  | 8 => (6, 0)
  | 0x0C => (8, 0)
  | _ => (1, 1)

/-- The chain of a task's stores: its status words, then its arrivals (R361). -/
def taskChain (id : Nat) : Nat := 2 * id + 1

/-- A task is complete when its last instance has ended: the arrival at DONE and at CQSUB's barrier (R361, R369). -/
def State.taskDone (s : State) (id : Nat) : State :=
  let k := s.tasks.getD id .absent
  if k.left ≠ 0 then s
  else
    let s := if k.done = 0 then s
      else (s.objAdd k.part k.done { a := 1, v := k.total, e := k.nflt != 0 } (taskChain id)).getD s
    match k.notify with
    | none => s
    | some (wg, nb) =>
      if nb = 63 then s
      else if s.hearthDue.any fun d => d.chain == taskChain id then
        { s with hearthDue := s.hearthDue ++ [{ part := k.part, va := 2 ^ 64, chain := taskChain id, what := .notify wg nb }] }
      else s.cqArrive wg nb

/-- Ends a Cellar instance with its status word (R351, R356, R360, R361). -/
def State.endInstance (s : State) (tid : Nat) (t : Thread) (cls sub code : Nat) : State :=
  let k := s.taskOf t
  let pofs := (t.at_ + 2 ^ 64 - k.entry) % 2 ^ 32
  let word := code % 4096 + pofs * 2 ^ 12 + fld t.regs.fpm.toNat 8 5 * 2 ^ 47 + sub % 16 * 2 ^ 52 + cls % 256 * 2 ^ 56
  let s := if k.stat = 0 then s
    else (s.hearthPut k.part (k.stat + 8 * t.cunit) (toBytes word 8) (taskChain t.wg)).getD s
  let s := if cls = 0 ∨ cls = 7 then s else s.post (s.ashOf t { code := 0x0F, info := word })
  let s := { s with threads := s.threads.del tid
                    tasks := s.tasks.upd t.wg fun k =>
                      { k with left := k.left - 1, nflt := k.nflt + bit (cls != 0) } }
  s.taskDone t.wg

/-! ### Taking an exception -/

/-- Halts a group whose handler cannot go on (R409). -/
def State.halt (s : State) (tid : Nat) (t : Thread) (x : TrapInfo) : State :=
  let s := s.post (s.ashOf t { code := 0x15, cls := x.cls, sub := x.sub, info := x.cls + x.sub * 256, addr := x.addr })
  s.putThread tid { t.forget with status := .halted }

/-- FMT with its reserved bits as zeros, as it is read and as the device writes it to memory (R5, R57). -/
def fmtRead (v : W64) : W64 := v &&& 0x000000FF3E3FF3FF

/-- The frame of a wide-side group (R406). -/
def Thread.frameWide (t : Thread) : Memory :=
  let r := t.regs
  let lanes := t.all.foldl (fun m i =>
    (List.range 8).foldl (fun m k => Store.putNat m (128 * i + 4 * k) 4 (r.v.get (64 * k + i)).toNat) m) ([] : Memory)
  let gs := (List.range 4).foldl (fun m k => Store.putNat m (8192 + 32 + 8 * k) 8 (r.g.get k).toNat) lanes
  let top := r.depth - 1
  let tem := if r.depth = 0 then 0 else (r.stkEm.get top).toNat
  let tfmt := if r.depth = 0 then 0 else (fmtRead (r.stkFmt.get top)).toNat
  ((((gs.putNat (8192 + 64) 8 r.em.toNat).putNat (8192 + 72) 8 tem).putNat (8192 + 80) 8 tfmt).putNat
    (8192 + 88) 8 (fmtRead r.fmt).toNat).putNat (8192 + 96) 4 r.cc.toNat

/-- The frame of a matrix group (R406). -/
def Thread.frameMcc (t : Thread) : Memory :=
  let r := t.regs
  let m := (List.range 8).foldl (fun m k =>
    framePut m 0 (8 * k) (toBytes (r.s.get k).toNat 8)) ([] : Memory)
  (m.putNat (8192 + 88) 8 (fmtRead r.fmt).toNat).putNat (8192 + 96) 4 r.cc.toNat

/-- The address of a class's entry in a partition's vector table (R405, R424). -/
def State.vectorAt (s : State) (part cls : Nat) : Nat := fld (s.hr (0x400 + 8 * part)).toNat 6 50 * 64 + 8 * cls

/-- The handler's line for a class, from the partition's vector table; none when the entry is zero, misaligned or
cannot be read (R405). -/
def State.vector (s : State) (part cls : Nat) : Option Nat :=
  match s.hearthNat part (s.vectorAt part cls) 8 with
  | none => none
  | some e =>
    if e = 0 ∨ e % 64 ≠ 0 then none else some e

/-- Saves the frame and what the handler finds about the trap (R403 to R406). -/
def Thread.enterHandler (t : Thread) (x : TrapInfo) (target : Nat) : Thread :=
  let r := t.regs
  { t.forget with
    frame := if t.side = .mcc then t.frameMcc else t.frameWide
    savedVe := r.ve.filter fun e => decide (e.1 < 8)
    savedGe := r.ge.filter fun e => decide (e.1 < 4)
    handler := true
    entryDepth := r.depth
    tcause := BitVec.ofNat 64 (x.cls + x.sub * 256)
    tpc := t.pc
    taddr := BitVec.ofNat 64 x.addr
    tinfo := BitVec.ofNat 64 x.info
    tpte := x.pte
    regs := { r with em := x.lanes.getD r.em }
    status := .running
    pc := BitVec.ofNat 64 target
    enter := .branch
    line := none }

/-- FETCH_PARITY posts its own record (R102, R423). -/
def State.parityRecord (s : State) (t : Thread) (x : TrapInfo) : State :=
  if x.cls = 0x0C then s.post (s.ashOf t { code := 0x0D, cls := x.cls, addr := x.addr, info := x.info }) else s

/-- Taking an exception (R351, R405, R409): the one operation that every trap goes through. Where the vector table's entry has
its home on a lost die the entry never ends: the trap stays due and the group issues nothing (R420). -/
def State.takeTrap (s : State) (tid : Nat) (t : Thread) (x : TrapInfo) : State :=
  let s := s.parityRecord t x
  if t.side = .cellar then
    let c := cellarCause x
    s.endInstance tid t c.1 c.2 0
  else if t.handler then s.halt tid t x
  else if s.hearthDead (s.partOf t) (s.vectorAt (s.partOf t) x.cls) then s.putThread tid { t with due := x :: t.due }
  else
    match s.vector (s.partOf t) x.cls with
    | none => s.halt tid t x
    | some target => s.putThread tid (t.enterHandler x target)

/-- The partition of a thread is being pre-empted, and its launch allows it: it stands still (R36, R416). -/
def State.stopped (s : State) (t : Thread) : Bool :=
  match s.preempt with
  | none => false
  | some p => t.side != .cellar && p.1 == s.partOf t && (s.hdrOf t).preempt

/-- A trap of a group that is being pre-empted stays pending: it is taken before the group issues again (R414). -/
def State.trapOrPend (s : State) (tid : Nat) (t : Thread) (x : TrapInfo) : State :=
  if s.stopped t && !t.handler then s.putThread tid { t with due := x :: t.due } else s.takeTrap tid t x

/-! ### Returning from an exception -/

/-- Restores the registers of a wide-side group from its frame (R406, R408). -/
def Thread.restoreWide (t : Thread) : Regs :=
  let r := t.regs
  let f := t.frame
  let v := t.all.foldl (fun v i => (List.range 8).foldl (fun v k =>
    v.set (64 * k + i) (BitVec.ofNat 32 (f.getNat (128 * i + 4 * k) 4))) v) r.v
  let g := (List.range 4).foldl (fun g k => g.set k (BitVec.ofNat 64 (f.getNat (8192 + 32 + 8 * k) 8))) r.g
  let top := t.entryDepth - 1
  { r with
    v := v
    ve := (r.ve.filter fun e => decide (8 ≤ e.1)) ++ t.savedVe
    g := g
    ge := (r.ge.filter fun e => decide (4 ≤ e.1)) ++ t.savedGe
    em := t.trim (BitVec.ofNat 64 (f.getNat (8192 + 64) 8))
    fmt := BitVec.ofNat 64 (f.getNat (8192 + 88) 8)
    cc := BitVec.ofNat 5 (f.getNat (8192 + 96) 4)
    depth := t.entryDepth
    stkEm := if t.entryDepth = 0 then r.stkEm
      else r.stkEm.set top (t.trim (BitVec.ofNat 64 (f.getNat (8192 + 72) 8)))
    stkFmt := if t.entryDepth = 0 then r.stkFmt else r.stkFmt.set top (BitVec.ofNat 64 (f.getNat (8192 + 80) 8)) }

/-- Restores the registers of a matrix group from its frame (R406, R408). -/
def Thread.restoreMcc (t : Thread) : Regs :=
  let r := t.regs
  let f := t.frame
  { r with
    s := (List.range 8).foldl (fun g k => g.set k (BitVec.ofNat 64 (ofBytes (frameBytes f 0 (8 * k) 8)))) r.s
    fmt := BitVec.ofNat 64 (f.getNat (8192 + 88) 8)
    cc := BitVec.ofNat 5 (f.getNat (8192 + 96) 4) }

/-- Returning from an exception to a PC (R156, R408). -/
def Thread.leaveHandler (t : Thread) (target : Nat) : Thread :=
  { t.forget with
    regs := if t.side = .mcc then t.restoreMcc else t.restoreWide
    handler := false
    dwTaken := t.dwTaken.filter fun e => e.1 == target
    pc := BitVec.ofNat 64 target
    enter := .resume
    line := none }

/-! ### The frame of a meaning -/

/-- Somebody waits for a page of a die: `join` puts it on the walk in flight, or on a new one, where one of the 64 walkers is free
(R219, R220). -/
def State.walkFor (s : State) (part die page : Nat) (join : Walk → Walk) : State :=
  let same (w : Walk) : Bool := w.part == part && w.die == die && w.page == page
  if s.walks.any same then { s with walks := s.walks.map fun w => if same w then join w else w }
  else if 64 ≤ (s.walks.filter fun w => w.die == die).length then s
  else { s with walks := s.walks ++ [join { part, die, page, waiters := [] }] }

/-- A thread waits for a page (R219, R220). -/
def State.startWalk (s : State) (tid : Nat) (t : Thread) (page : Nat) : State :=
  s.walkFor (s.partOf t) (s.dieOf t) page fun w =>
    if w.waiters.contains tid then w else { w with waiters := w.waiters ++ [tid] }

/-- A thread asks another package, one question at a time, by a load of the bytes there (R276, log 11). -/
def State.sendAsk (s : State) (tid : Nat) (t : Thread) (q : Ask) : State :=
  if !t.asks.isEmpty then s
  else
    (s.sendAway { owner := .thread tid, va := q.va, chunk := bit q.probe
                  req := { src := s.pkg, id := 0, kind := 0, op := 0, pa := q.pa, size := q.n, data := []
                           forwarded := q.hop, pts := t.pts } }).putThread tid
      { t with asks := [4096 * s.nextId], kept := q.kept }

/-- What becomes of the state when a meaning has answered. -/
def State.settle (s : State) (tid : Nat) (t : Thread) :
    Except Ev (State × Thread) → Host.Outcome State Fault Refusal
  | .ok r => .next (r.1.putThread tid r.2)
  | .error (.trap x) => .next (if t.busy then s else s.takeTrap tid t x)
  | .error .stall => .next s
  | .error (.refill ps) =>
    .next (s.updWg t.wg fun g => { g with wanted := g.wanted ++ ps.filter fun p => !g.wanted.contains p })
  | .error (.walk p) => .next (s.startWalk tid t p)
  | .error (.ask q) => .next (s.sendAsk tid t q)

/-- An instruction that traps has been issued, and counts (R445, log 12). -/
def State.countTrap (s : State) (t : Thread) : Except Ev (State × Thread) → State
  | .error (.trap _) => if t.busy then s else s.counted t
  | _ => s

/-- Runs a meaning for the thread at the issue point. A trap found while a remote access is unanswered waits for the
answer (R278). -/
def run (s : State) (k : Thread → Except Ev (State × Thread)) : Host.Outcome State Fault Refusal :=
  match s.threads.get? s.cur with
  | none => .fault .noThread
  | some t => (s.countTrap t (k t)).settle s.cur t (k t)

/-- An event that could not happen in this state. -/
def notEnabled : Host.Outcome State Fault Refusal := .fault .notEnabled

/-- An event with a condition. -/
def when (c : Bool) (s : State) : Host.Outcome State Fault Refusal := if c then .next s else notEnabled

end Sys2Proof.Machine
end

