-- ==== Sys2Proof/Machine/Operands.lean ====
section
/-!
DEFINITION. Every operand form: source patterns, empty reads, destinations, the MEM address and the work identifier.
-/

namespace Sys2Proof.Machine

/-- The lane that lane `i` reads under a pattern (R116, R143). -/
def srcLane (w i pat q : Nat) : Nat :=
  match pat with
  | 1 => (i + q) % w
  | 2 => q
  | 3 => i ^^^ 2 ^ q
  | 4 => i ^^^ (2 ^ q - 1)
  | _ => i

/-- The 6-bit constant of the immediate pattern in `bits` bits (R116). -/
def immVal (q bits : Nat) : Nat := if q < 32 then q % 2 ^ bits else (2 ^ bits - (64 - q)) % 2 ^ bits

/-- The value of `n` registers of one lane, low word first (R44). -/
def vSpan (v : Store 32) (r lane : Nat) : Nat → Nat
  | 0 => 0
  | n + 1 => vSpan v r lane n + (v.get (64 * (r + n) + lane)).toNat * 2 ^ (32 * n)

/-- What lane `i` reads from an operand field, its low `bits` bits (R116, R119, R143, R166). -/
def Thread.opnd (t : Thread) (o : Opnd) (n bits i : Nat) : Nat :=
  if t.side = .mcc then (t.regs.s.get o.reg.toNat).toNat % 2 ^ bits
  else
    match o.pat.toNat with
    | 5 => (t.regs.g.get o.q.toNat).toNat % 2 ^ bits
    | 6 => immVal o.q.toNat bits
    | p => vSpan t.regs.v o.reg.toNat (srcLane t.width i p o.q.toNat) n % 2 ^ bits

/-- The first empty register of a list among `[r, r + n)` (R139). -/
def firstEmpty (m : Tab Nat) (r n : Nat) : Option Nat :=
  ((List.range n).find? fun j => (m.get? (r + j)).isSome).map (r + ·)

/-- EMPTY_READ of a register (R140, R404). -/
def emptyRead (reg : Nat) (g : Bool) : Ev := .trap { cls := 2, info := reg + 128 * bit g }

/-- An empty register blocks or traps by WT (R140). -/
def emptyEv (wt : Bool) (reg : Option Nat) (g : Bool) : Except Ev Unit :=
  match reg with
  | none => .ok ⟨⟩
  | some r => if wt then .error .stall else .error (emptyRead r g)

/-- The read of an operand field may go on: its registers exist and are full (R134, R140). -/
def Thread.canRead (t : Thread) (o : Opnd) (n : Nat) : Except Ev Unit :=
  if t.side = .mcc then .ok ⟨⟩
  else if o.pat = 6 then .ok ⟨⟩
  else if o.pat = 5 then emptyEv (o.wt == 1) (firstEmpty t.regs.ge o.q.toNat 1) true
  else if !t.vHeld o.reg.toNat n then .error rsv
  else emptyEv (o.wt == 1) (firstEmpty t.regs.ve o.reg.toNat n) false

/-- A G register that is read with WT = 1 (R110, R140, R153). -/
def Thread.canReadG (t : Thread) (r : Nat) : Except Ev Unit :=
  if t.side = .mcc then .ok ⟨⟩ else emptyEv true (firstEmpty t.regs.ge r 1) true

/-- V registers that are read with WT = 1 (R198, R383). -/
def Thread.canReadV (t : Thread) (r n : Nat) : Except Ev Unit :=
  if t.side = .mcc then .ok ⟨⟩
  else if !t.vHeld r n then .error rsv
  else emptyEv true (firstEmpty t.regs.ve r n) false

/-- A destination's registers exist (R134). -/
def Thread.canWrite (t : Thread) (dst n : Nat) : Except Ev Unit :=
  if t.side != .mcc && decide (dst < 128) && !t.vHeld dst n then .error rsv else .ok ⟨⟩

/-- Extends a value of `bits` bits to `dest` bits by sign or zero (R166). -/
def extend (signed : Bool) (bits dest v : Nat) : Nat :=
  if signed ∧ 2 ^ (bits - 1) ≤ v then v + (2 ^ dest - 2 ^ bits) else v

/-- Writes a lane-wise result to a V, G or S destination (R136, R141, R166): every lane in EM of a V register, the
lowest lane in EM of a G register, lane 0 on the MCC. -/
def Thread.put (t : Thread) (dst n : Nat) (signed : Bool) (bits : Nat) (f : Nat → Nat) : Thread :=
  if t.side = .mcc then
    { t with regs := t.regs.writeS dst (BitVec.ofNat 64 (extend signed bits 64 (f 0))) }
  else if dst < 128 then
    { t with regs := t.regs.writeV dst n t.active fun i => extend signed bits (32 * n) (f i) }
  else
    match t.active with
    | [] => t
    | i :: _ => { t with regs := t.regs.writeG (dst - 128) (BitVec.ofNat 64 (extend signed bits 64 (f i))) }

/-- A group operand in an ENG field: G through the uniform pattern, S on the MCC, or the immediate (R113, R372). -/
def Thread.uni (t : Thread) (o : Opnd) : Nat := t.opnd o 1 64 0

/-- The second register of a pair position (R233). -/
def Thread.pairHi (t : Thread) (o : Opnd) : Nat := (t.regs.g.get (o.q.toNat + 1)).toNat

/-- Both registers of a pair position are full. -/
def Thread.canReadPair (t : Thread) (o : Opnd) : Except Ev Unit :=
  emptyEv (o.wt == 1) (firstEmpty t.regs.ge o.q.toNat 2) true

/-- A signed field. -/
def sfield (v bits : Nat) : Int := if v < 2 ^ (bits - 1) then v else (v : Int) - 2 ^ bits

/-- A signed 19-bit offset modulo 2^64. -/
def ofs64 (ofs : BitVec 19) : Nat := extend true 19 64 ofs.toNat

/-- The MEM address of a lane (R111). -/
def Thread.memAddr (t : Thread) (f : Mem) (i : Nat) : Nat :=
  let x := t.opnd f.ix 1 32 i
  let idx := if f.isx = 1 then extend true 32 64 x else x
  ((t.regs.g.get f.gb.toNat).toNat + idx * 2 ^ f.sh.toNat + ofs64 f.ofs) % 2 ^ 64

/-- The operands of a MEM address may be read: the base with WT = 1 and the index (R140). -/
def Thread.canAddr (t : Thread) (f : Mem) : Except Ev Unit := do
  t.canReadG f.gb.toNat
  t.canRead f.ix 1

/-! ### Work identifiers (R24 to R27) -/

/-- Width of field k. -/
def Header.width (h : Header) (k : Nat) : Nat := h.w.getD k 0

/-- The extent of field k less 1. -/
def Header.ext (h : Header) (k : Nat) : Nat := h.x.getD (k - 2) 0

/-- Digit k of an ordinal in mixed radix from RES (R27). -/
def Header.digit (h : Header) (n k : Nat) : Nat :=
  let below := ((List.range (k - h.res)).map fun j => h.ext (h.res + j) + 1).foldl (· * ·) 1
  n / below % (h.ext k + 1)

/-- The bits below field k of the group index (R26). -/
def Header.groupShift (h : Header) (k : Nat) : Nat :=
  ((List.range (k - 1)).map fun j => h.width (1 + j)).foldl (· + ·) 0

/-- Field Fk of a lane's WID (R24 to R27). -/
def Header.field (h : Header) (g n lane k : Nat) : Nat :=
  if k = 0 then lane
  else if k < h.res then fld g (h.groupShift k) (h.width k)
  else h.digit n k

/-- The WID of a lane (R24). -/
def Header.wid (h : Header) (g n lane : Nat) : Nat :=
  ((List.range 6).foldl (fun (a : Nat × Nat) k =>
    (a.1 + h.field g n lane k % 2 ^ h.width k * 2 ^ a.2, a.2 + h.width k)) (0, 0)).1

/-- What field Fk counts to (R174). -/
def Header.extent (h : Header) (k : Nat) : Nat := if k < h.res then 2 ^ h.width k else h.ext k + 1

end Sys2Proof.Machine
end

