-- ==== Sys2Proof/Machine/Flags.lean ====
section
/-!
DEFINITION. Every flag computation: the CC of integer results (R175), of mask results (R171) and the sticky flags of
FPM (R61).
-/

namespace Sys2Proof.Machine

/-- An integer result with its C and V (R175). -/
structure IntRes where
  val : Nat
  c : Bool := false
  v : Bool := false
  deriving DecidableEq, Repr

/-- CC of an integer result of `bits` bits (R175). -/
def intFlags (bits : Nat) (r : IntRes) : Flags :=
  { z := r.val == 0, n := tb r.val (bits - 1), c := r.c, v := r.v }

/-- CC as ICMP writes it: Z for a zero result, T for a result equal to EM at issue (R171). -/
def maskFlags (result em : BitVec 64) : Flags := { z := result == 0, t := result == em }

/-- The signed value of `bits` bits. -/
def sInt (bits v : Nat) : Int := if v < 2 ^ (bits - 1) then v else (v : Int) - 2 ^ bits

/-- The value of a type: signed for S types, unsigned for Z types. -/
def tInt (signed : Bool) (bits v : Nat) : Int := if signed then sInt bits v else v

/-- The low bits of an integer. -/
def wrapI (bits : Nat) (x : Int) : Nat := (x % 2 ^ bits).toNat

/-- An integer lies in the signed range. -/
def fitsS (bits : Nat) (x : Int) : Bool := decide (-(2 ^ (bits - 1)) ≤ x ∧ x < 2 ^ (bits - 1))

/-- An integer lies in the range of a type. -/
def fitsT (signed : Bool) (bits : Nat) (x : Int) : Bool :=
  if signed then fitsS bits x else decide (0 ≤ x ∧ x < 2 ^ bits)

/-- The sticky flags of FPM: NV DZ OF UF NX (R61). -/
structure FpFlags where
  nv : Bool := false
  dz : Bool := false
  of_ : Bool := false
  uf : Bool := false
  nx : Bool := false
  deriving DecidableEq, Repr

/-- Two sets of flags together. -/
def FpFlags.or (a b : FpFlags) : FpFlags :=
  { nv := a.nv || b.nv, dz := a.dz || b.dz, of_ := a.of_ || b.of_, uf := a.uf || b.uf, nx := a.nx || b.nx }

/-- The flags in FPM's bits [12:8] (R61). -/
def FpFlags.bits (f : FpFlags) : W32 :=
  BitVec.ofNat 32 (bit f.nx * 2 ^ 8 + bit f.uf * 2 ^ 9 + bit f.of_ * 2 ^ 10 + bit f.dz * 2 ^ 11 + bit f.nv * 2 ^ 12)

/-- Sets sticky flags of FPM (R61). -/
def Thread.raise (t : Thread) (f : FpFlags) : Thread := { t with regs := { t.regs with fpm := t.regs.fpm ||| f.bits } }

/-- The flags that any of the lanes raises (R61). -/
def flagsOf (ls : List Nat) (f : Nat → FpFlags) : FpFlags := ls.foldl (fun a i => a.or (f i)) {}

end Sys2Proof.Machine
end

