-- ==== Sys2Proof/Machine/Float.lean ====
section
/-!
DEFINITION. The number formats (R42 to R48, R54), exact arithmetic on them with one rounding, and block accumulation
(R55).
-/

namespace Sys2Proof.Machine

/-- An element format with an exponent field (R42, R54). -/
structure FFmt where
  ebits : Nat
  mbits : Nat
  bias : Nat
  /-- The code of the largest finite magnitude (R45). -/
  maxCode : Nat
  /-- The code of +infinity, for formats that have one. -/
  inf : Option Nat
  /-- The canonical NaN, for formats that have one. -/
  nan : Option Nat
  deriving DecidableEq, Repr

def F32 : FFmt := { ebits := 8, mbits := 23, bias := 127, maxCode := 0x7F7FFFFF, inf := some 0x7F800000, nan := some 0x7FC00000 }
def F16 : FFmt := { ebits := 5, mbits := 10, bias := 15, maxCode := 0x7BFF, inf := some 0x7C00, nan := some 0x7E00 }
def BF16 : FFmt := { ebits := 8, mbits := 7, bias := 127, maxCode := 0x7F7F, inf := some 0x7F80, nan := some 0x7FC0 }
def E4M3 : FFmt := { ebits := 4, mbits := 3, bias := 7, maxCode := 0x7E, inf := none, nan := some 0x7F }
def E5M2 : FFmt := { ebits := 5, mbits := 2, bias := 15, maxCode := 0x7B, inf := some 0x7C, nan := some 0x7E }
def E2M1 : FFmt := { ebits := 2, mbits := 1, bias := 1, maxCode := 0x7, inf := none, nan := none }
def FA36 : FFmt :=
  { ebits := 8, mbits := 27, bias := 127, maxCode := 0x7F7FFFFFF, inf := some 0x7F8000000, nan := some 0x7FC000000 }

/-- The bits of a format. -/
def FFmt.bits (f : FFmt) : Nat := 1 + f.ebits + f.mbits

/-- The sign bit of a format as a number. -/
def FFmt.signBit (f : FFmt) : Nat := 2 ^ (f.ebits + f.mbits)

/-- The format of a type code (R42). -/
def fmtOf (ty : Nat) : FFmt :=
  match ty with
  | 8 => F32
  | 9 => F16
  | 10 => BF16
  | 11 => E4M3
  | 12 => E5M2
  | _ => E2M1

/-- A decoded value: a finite one is (-1)^neg · m · 2^e. A NaN keeps its fraction and the fraction's width. -/
inductive Fp where
  | fin (neg : Bool) (m : Nat) (e : Int)
  | inf (neg : Bool)
  | nan (neg : Bool) (frac mbits : Nat)
  deriving DecidableEq, Repr

/-- Decodes a value (R42, R45). The NaN of a format without infinities has no payload (log 13). -/
def FFmt.dec (f : FFmt) (v : Nat) : Fp :=
  let neg := tb v (f.ebits + f.mbits)
  let mag := v % f.signBit
  let e := mag / 2 ^ f.mbits
  let fr := mag % 2 ^ f.mbits
  if f.maxCode < mag then (if f.inf = some mag then .inf neg else .nan neg (if f.inf = none then 2 ^ (f.mbits - 1) else fr) f.mbits)
  else if e = 0 then .fin neg fr (1 - f.bias - f.mbits)
  else .fin neg (fr + 2 ^ f.mbits) ((e : Int) - f.bias - f.mbits)

/-- A value is subnormal in its format. -/
def FFmt.subnormal (f : FFmt) (v : Nat) : Bool :=
  v % f.signBit / 2 ^ f.mbits == 0 && v % 2 ^ f.mbits != 0

/-- The modes of an operation (R61 to R64). -/
structure FpMode where
  rnd : Nat := 0
  sat : Bool := false
  can : Bool := false
  sub : Nat := 0
  deriving DecidableEq, Repr

/-- The modes in bits [7:2] of FPM or FPC (R61, R63). -/
def FpMode.ofBits (v : Nat) : FpMode := { rnd := fld v 2 2, sat := tb v 4, can := tb v 5, sub := fld v 6 2 }

/-- The modes of an instruction: FPC's when OVR is 1, else FPM's; on a Cellar unit every NaN is canonical (R64,
R350). -/
def Thread.fpMode (t : Thread) (fpc : BitVec 9) : FpMode :=
  let m := if fpc.getLsbD 8 then FpMode.ofBits fpc.toNat else FpMode.ofBits t.regs.fpm.toNat
  if t.side = .cellar then { m with can := true } else m

/-- A subnormal operand under flush inputs is a zero of its sign (R48). -/
def FFmt.flushIn (f : FFmt) (md : FpMode) (v : Nat) : Nat :=
  if md.sub ≠ 0 ∧ f.subnormal v then v / f.signBit * f.signBit else v

/-- Decodes an operand under the subnormal mode. -/
def FFmt.decIn (f : FFmt) (md : FpMode) (v : Nat) : Fp := f.dec (f.flushIn md v)

/-- A signalling NaN (R45). -/
def Fp.signalling : Fp → Bool
  | .nan _ fr mb => decide (fr < 2 ^ (mb - 1))
  | _ => false

def Fp.isNan : Fp → Bool
  | .nan .. => true
  | _ => false

def Fp.isInf : Fp → Bool
  | .inf _ => true
  | _ => false

def Fp.isZero : Fp → Bool
  | .fin _ m _ => m == 0
  | _ => false

def Fp.sign : Fp → Bool
  | .fin n _ _ => n
  | .inf n => n
  | .nan n _ _ => n

/-- The value with its sign changed; a NaN stays. -/
def Fp.negate : Fp → Fp
  | .fin n m e => .fin (!n) m e
  | .inf n => .inf (!n)
  | .nan n a b => .nan n a b

/-! ### Rounding -/

/-- Rounds m / 2^k to an integer in a mode, away from zero or not by the sign (R62); whether it was exact. -/
def roundShift (rnd : Nat) (neg : Bool) (m k : Nat) : Nat × Bool :=
  let q := m / 2 ^ k
  let r := m % 2 ^ k
  let up := match rnd with
    | 0 => decide (2 ^ k < 2 * r) || (2 * r == 2 ^ k && q % 2 == 1)
    | 1 => false
    | 2 => r != 0 && !neg
    | _ => r != 0 && neg
  (if k = 0 then m else if up then q + 1 else q, k = 0 || r == 0)

/-- m · 2^e as a multiple of 2^q, rounded: the multiple and whether it is exact. -/
def quantize (rnd : Nat) (neg : Bool) (m : Nat) (e q : Int) : Nat × Bool :=
  if q ≤ e then (m * 2 ^ (e - q).toNat, true) else roundShift rnd neg m (q - e).toNat

/-- A sign in its place. -/
def FFmt.signed (f : FFmt) (neg : Bool) (code : Nat) : Nat := code + bit neg * f.signBit

/-- The result of an overflow (R47). -/
def FFmt.overflow (f : FFmt) (sat neg : Bool) : Nat :=
  if sat then f.signed neg f.maxCode
  else match f.inf with
    | some c => f.signed neg c
    | none => f.nan.getD (f.signed neg f.maxCode)

/-- Rounds a non-zero (-1)^neg · m · 2^e once to a format (R47, R48, R191): the code and the flags. -/
def FFmt.round (f : FFmt) (md : FpMode) (neg : Bool) (m : Nat) (e : Int) : Nat × FpFlags :=
  let top : Int := Nat.log2 m + e
  let emin : Int := 1 - f.bias
  let q := max (top - f.mbits) (emin - f.mbits)
  let r := quantize md.rnd neg m e q
  let free := quantize md.rnd neg m e (top - f.mbits)
  let tiny := decide (top < emin) && !(top == emin - 1 && free.1 == 2 ^ (f.mbits + 1))
  let code := (q - (emin - f.mbits)).toNat * 2 ^ f.mbits + r.1
  if f.maxCode < code then (f.overflow md.sat neg, { of_ := true, nx := true })
  else if tiny ∧ md.sub = 2 then (f.signed neg 0, { uf := true, nx := true })
  else (f.signed neg code, { uf := tiny && !r.2, nx := !r.2 })

/-- An infinity in a format (R47). -/
def FFmt.infinity (f : FFmt) (md : FpMode) (neg : Bool) : Nat × FpFlags :=
  match f.inf with
  | some c => (f.signed neg c, {})
  | none => if md.sat then (f.signed neg f.maxCode, { of_ := true }) else (f.nan.getD 0, { nv := true })

/-- The canonical NaN of a format. -/
def FFmt.canonical (f : FFmt) : Nat := f.nan.getD 0

/-- A NaN operand as a result (R46): quiet, its payload kept as far as it fits, left-aligned (log 13). -/
def FFmt.passNan (f : FFmt) (md : FpMode) : Fp → Nat
  | .nan neg fr mb =>
    if md.can ∨ f.mbits < 4 then f.canonical
    else
      let al := if mb ≤ f.mbits then fr * 2 ^ (f.mbits - mb) else fr / 2 ^ (mb - f.mbits)
      let pay := al % 2 ^ (f.mbits - 1)
      if mb > f.mbits ∧ pay = 0 then f.canonical
      else f.signed neg ((2 ^ f.ebits - 1) * 2 ^ f.mbits + 2 ^ (f.mbits - 1) + pay)
  | _ => f.canonical

/-- The first NaN of a list. -/
def firstNan (xs : List Fp) : Option Fp := xs.find? Fp.isNan

/-- A signed dyadic sum of finite terms at the least exponent. -/
def sumAt (low : Int) (ts : List (Bool × Nat × Int)) : Int :=
  ts.foldl (fun (a : Int) (t : Bool × Nat × Int) =>
    let x : Int := t.2.1 * 2 ^ (t.2.2 - low).toNat
    if t.1 then a - x else a + x) 0

/-- The sum of finite terms, rounded once, with the sign rule of exact zeros (R48). -/
def FFmt.roundSum (f : FFmt) (md : FpMode) (ts : List (Bool × Nat × Int)) : Nat × FpFlags :=
  let nz := ts.filter fun t => t.2.1 != 0
  match nz with
  | [] =>
    let allNeg := ts.all fun t => t.1
    let allPos := ts.all fun t => !t.1
    (f.signed (if allNeg then true else if allPos then false else md.rnd == 3) 0, {})
  | t0 :: rest =>
    let low := rest.foldl (fun (l : Int) t => min l t.2.2) t0.2.2
    let x := sumAt low nz
    if x = 0 then (f.signed (md.rnd == 3) 0, {}) else f.round md (decide (x < 0)) x.natAbs low

/-- A product of finite values or infinities; none for 0 × inf (R46). -/
def Fp.mul : Fp → Fp → Option Fp
  | .fin n m e, .fin n' m' e' => some (.fin (n != n') (m * m') (e + e'))
  | .inf n, .fin n' m' _ => if m' = 0 then none else some (.inf (n != n'))
  | .fin n m _, .inf n' => if m = 0 then none else some (.inf (n != n'))
  | .inf n, .inf n' => some (.inf (n != n'))
  | a, _ => some a

/-- Finite terms of a list. -/
def finTerms (xs : List Fp) : List (Bool × Nat × Int) :=
  xs.filterMap fun x => match x with
    | .fin n m e => some (n, m, e)
    | _ => none

/-- A sum of products and addends formed exactly and rounded once, with the special cases of R46, R47 and R191. `ops`
are the operands in the order in which a NaN is looked for. -/
def FFmt.dot (f : FFmt) (md : FpMode) (ops : List Fp) (prods : List (Fp × Fp)) (adds : List Fp) : Nat × FpFlags :=
  let sig := ops.any Fp.signalling
  let real := prods.filter fun p => !p.1.isNan && !p.2.isNan
  let badProd := real.any fun p => (p.1.mul p.2).isNone
  let terms := real.filterMap (fun p => p.1.mul p.2) ++ adds.filter fun x => !x.isNan
  let infs := terms.filter Fp.isInf
  let badSum := (infs.any Fp.sign) && (infs.any fun x => !x.sign)
  match firstNan ops with
  | some x => (f.passNan md x, { nv := sig || badProd })
  | none =>
    if badProd || badSum then (f.canonical, { nv := true })
    else
      match infs with
      | x :: _ => f.infinity md x.sign
      | [] => f.roundSum md (finTerms terms)

/-- a + b. -/
def FFmt.add (f : FFmt) (md : FpMode) (a b : Nat) : Nat × FpFlags :=
  let x := f.decIn md a
  let y := f.decIn md b
  f.dot md [x, y] [] [x, y]

/-- a − b. -/
def FFmt.sub (f : FFmt) (md : FpMode) (a b : Nat) : Nat × FpFlags :=
  let x := f.decIn md a
  let y := f.decIn md b
  f.dot md [x, y] [] [x, y.negate]

/-- a × b. -/
def FFmt.mul (f : FFmt) (md : FpMode) (a b : Nat) : Nat × FpFlags :=
  let x := f.decIn md a
  let y := f.decIn md b
  f.dot md [x, y] [(x, y)] []

/-- a × b + c, one rounding. -/
def FFmt.fma (f : FFmt) (md : FpMode) (a b c : Nat) : Nat × FpFlags :=
  let x := f.decIn md a
  let y := f.decIn md b
  let z := f.decIn md c
  f.dot md [x, y, z] [(x, y)] [z]

/-- a × b − c, one rounding. -/
def FFmt.fms (f : FFmt) (md : FpMode) (a b c : Nat) : Nat × FpFlags :=
  let x := f.decIn md a
  let y := f.decIn md b
  let z := f.decIn md c
  f.dot md [x, y, z] [(x, y)] [z.negate]

/-! ### Order -/

/-- Compares two values that are no NaN: the order with −0 equal to +0, by exact cross scaling. -/
def Fp.lt : Fp → Fp → Bool
  | .inf n, .inf n' => n && !n'
  | .inf n, .fin .. => n
  | .fin .., .inf n' => !n'
  | .fin n m e, .fin n' m' e' =>
    let low := min e e'
    decide (sumAt low [(n, m, e)] < sumAt low [(n', m', e')])
  | _, _ => false

/-- The order of FMIN and FMAX, with −0 below +0 (R193). -/
def Fp.ltz (a b : Fp) : Bool := a.lt b || (a.isZero && b.isZero && a.sign && !b.sign)

/-- FMIN or FMAX on codes, and FMINM or FMAXM (R193). -/
def FFmt.minmax (f : FFmt) (md : FpMode) (max_ nanWins : Bool) (a b : Nat) : Nat × FpFlags :=
  let a := f.flushIn md a
  let b := f.flushIn md b
  let x := f.dec a
  let y := f.dec b
  let fl : FpFlags := { nv := x.signalling || y.signalling }
  if x.isNan ∧ (nanWins ∨ y.isNan) then (f.passNan md x, fl)
  else if y.isNan ∧ nanWins then (f.passNan md y, fl)
  else if x.isNan then (b, fl)
  else if y.isNan then (a, fl)
  else if max_ then (if x.ltz y then b else a, fl)
  else (if y.ltz x then b else a, fl)

/-! ### Conversion between formats -/

/-- A value converted to a format with one rounding (R46, R47, R200). -/
def FFmt.conv (f : FFmt) (md : FpMode) (x : Fp) : Nat × FpFlags :=
  match x with
  | .nan .. => (f.passNan md x, { nv := x.signalling })
  | .inf n => f.infinity md n
  | .fin n m e => if m = 0 then (f.signed n 0, {}) else f.round md n m e

/-! ### Integer square root -/

/-- The bits of an integer square root from bit `k - 1` down. -/
def isqrtGo (n r : Nat) : Nat → Nat
  | 0 => r
  | k + 1 => if (r + 2 ^ k) * (r + 2 ^ k) ≤ n then isqrtGo n (r + 2 ^ k) k else isqrtGo n r k

/-- floor(sqrt n). -/
def isqrt (n : Nat) : Nat := isqrtGo n 0 (Nat.log2 n / 2 + 1)

/-! ### Division and roots, correctly rounded (R192) -/

/-- Rounds a positive value between m · 2^e and (m + 1) · 2^e, not m when `more`. -/
def FFmt.roundSticky (f : FFmt) (md : FpMode) (neg : Bool) (m : Nat) (e : Int) (more : Bool) : Nat × FpFlags :=
  f.round md neg (2 * m + bit more) (e - 1)

/-- The quotient of finite non-zero values. -/
def FFmt.quot (f : FFmt) (md : FpMode) (neg : Bool) (m : Nat) (e : Int) (m' : Nat) (e' : Int) : Nat × FpFlags :=
  let k := 64 + Nat.log2 m'
  let q := m * 2 ^ k / m'
  f.roundSticky md neg q (e - e' - k) (m * 2 ^ k % m' != 0)

/-- a ÷ b (R192). -/
def FFmt.div (f : FFmt) (md : FpMode) (x y : Fp) : Nat × FpFlags :=
  match firstNan [x, y] with
  | some z => (f.passNan md z, { nv := x.signalling || y.signalling })
  | none =>
    match x, y with
    | .inf _, .inf _ => (f.canonical, { nv := true })
    | .inf n, y => f.infinity md (n != y.sign)
    | x, .inf n => (f.signed (x.sign != n) 0, {})
    | .fin n m e, .fin n' m' e' =>
      if m' = 0 then
        if m = 0 then (f.canonical, { nv := true })
        else ((f.infinity md (n != n')).1, { dz := true })
      else if m = 0 then (f.signed (n != n') 0, {})
      else f.quot md (n != n') m e m' e'
    | _, _ => (f.canonical, {})

/-- A mantissa and exponent with the exponent even. -/
def evenExp (m : Nat) (e : Int) : Nat × Int := if e % 2 = 0 then (m, e) else (2 * m, e - 1)

/-- √a (R192). -/
def FFmt.sqrt (f : FFmt) (md : FpMode) (x : Fp) : Nat × FpFlags :=
  match x with
  | .nan .. => (f.passNan md x, { nv := x.signalling })
  | .inf n => if n then (f.canonical, { nv := true }) else f.infinity md false
  | .fin n m e =>
    if m = 0 then (f.signed n 0, {})
    else if n then (f.canonical, { nv := true })
    else
      let p := evenExp m e
      let big := p.1 * 2 ^ 128
      let r := isqrt big
      f.roundSticky md false r (p.2 / 2 - 64) (r * r != big)

/-- 1 ÷ √a (R192). -/
def FFmt.rsqrt (f : FFmt) (md : FpMode) (x : Fp) : Nat × FpFlags :=
  match x with
  | .nan .. => (f.passNan md x, { nv := x.signalling })
  | .inf n => if n then (f.canonical, { nv := true }) else (0, {})
  | .fin n m e =>
    if m = 0 then ((f.infinity md n).1, { dz := true })
    else if n then (f.canonical, { nv := true })
    else
      let p := evenExp m e
      let k := 96 + Nat.log2 p.1
      let r := isqrt (2 ^ (2 * k) / p.1)
      f.roundSticky md false r (-(p.2 / 2) - k) (r * r * p.1 != 2 ^ (2 * k))

/-! ### 2^x and log2 x, correctly rounded (R192)

Both are irrational except at the arguments that are treated apart, so the value lies strictly inside an interval of
rationals; the interval is narrowed until both ends round alike. -/

/-- Rounds a value strictly between lo · 2^e and hi · 2^e when both ends agree. -/
def FFmt.roundBetween (f : FFmt) (md : FpMode) (neg : Bool) (lo hi : Nat) (e : Int) : Option (Nat × FpFlags) :=
  let a := f.roundSticky md neg lo e true
  let b := f.roundSticky md neg (hi - 1) e true
  if a = b then some a else none

/-- Multiplies intervals of fixed-point numbers with p fraction bits, outward. -/
def mulBounds (p : Nat) (x y : Nat × Nat) : Nat × Nat := (x.1 * y.1 / 2 ^ p, x.2 * y.2 / 2 ^ p + 1)

/-- The square root of an interval with p fraction bits, outward. -/
def sqrtBounds (p : Nat) (x : Nat × Nat) : Nat × Nat := (isqrt (x.1 * 2 ^ p), isqrt (x.2 * 2 ^ p) + 1)

/-- The product of 2^(2^-i) over the set bits of a fraction of `k` bits, most significant first; `c` bounds
2^(2^-i). -/
def exp2Go (p frac : Nat) (c acc : Nat × Nat) : Nat → Nat × Nat
  | 0 => acc
  | k + 1 =>
    let c' := sqrtBounds p c
    exp2Go p frac c' (if tb frac k then mulBounds p acc c' else acc) k

/-- Bounds of 2^(frac / 2^k), with p fraction bits. -/
def exp2Bounds (p frac k : Nat) : Nat × Nat := exp2Go p frac (2 * 2 ^ p, 2 * 2 ^ p) (2 ^ p, 2 ^ p) k

/-- Tries growing precisions. -/
def firstSome {α : Type} (f : Nat → Option α) : List Nat → Option α
  | [] => none
  | p :: ps => match f p with
    | some x => some x
    | none => firstSome f ps

/-- The precisions tried, in fraction bits (log 41). -/
def precisions : List Nat := [96, 256, 512, 1024]

/-- 2^a (R192). -/
def FFmt.exp2 (f : FFmt) (md : FpMode) (x : Fp) : Nat × FpFlags :=
  match x with
  | .nan .. => (f.passNan md x, { nv := x.signalling })
  | .inf n => if n then (0, {}) else f.infinity md false
  | .fin n m e =>
    if m = 0 then f.round md false 1 0
    else if 0 ≤ Nat.log2 m + e - 10 then
      if n then f.round md false 3 (-2000) else f.round md false 1 2000
    else if 0 ≤ e then
      let k : Int := m * 2 ^ e.toNat
      f.round md false 1 (if n then -k else k)
    else
      let k := (-e).toNat
      let whole := m / 2 ^ k
      let fr := m % 2 ^ k
      if fr = 0 then f.round md false 1 (if n then -whole else whole)
      else
        let int : Int := if n then -(whole : Int) - 1 else whole
        let frac := if n then 2 ^ k - fr else fr
        let go := fun p =>
          let b := exp2Bounds p frac k
          f.roundBetween md false b.1 b.2 (int - p)
        (firstSome go precisions).getD (f.roundSticky md false 1 int true)

/-- Fraction bits of log2 of an interval in [1, 2) with p fraction bits: squares it and takes the bit, until a bit is
not decided. The answer is the bits found and how many. -/
def log2Go (p : Nat) (x : Nat × Nat) (acc cnt : Nat) : Nat → Nat × Nat
  | 0 => (acc, cnt)
  | k + 1 =>
    let y := mulBounds p x x
    if 2 * 2 ^ p ≤ y.1 then log2Go p (y.1 / 2, y.2 / 2 + 1) (2 * acc + 1) (cnt + 1) k
    else if y.2 < 2 * 2 ^ p then log2Go p y (2 * acc) (cnt + 1) k
    else (acc, cnt)

/-- log2 a (R192). -/
def FFmt.log2 (f : FFmt) (md : FpMode) (x : Fp) : Nat × FpFlags :=
  match x with
  | .nan .. => (f.passNan md x, { nv := x.signalling })
  | .inf n => if n then (f.canonical, { nv := true }) else f.infinity md false
  | .fin n m e =>
    if m = 0 then ((f.infinity md true).1, { dz := true })
    else if n then (f.canonical, { nv := true })
    else
      let l := Nat.log2 m
      let whole : Int := l + e
      if m = 2 ^ l then
        if whole = 0 then (0, {}) else f.round md (decide (whole < 0)) whole.natAbs 0
      else
        let go := fun p =>
          let a := m * 2 ^ p / 2 ^ l
          let b := log2Go p (a, a + 1) 0 0 p
          let lo : Int := whole * 2 ^ b.2 + b.1
          let hi : Int := lo + 1
          if 0 ≤ lo then f.roundBetween md false lo.toNat hi.toNat (-b.2)
          else if hi ≤ 0 then f.roundBetween md true (-hi).toNat (-lo).toNat (-b.2)
          else none
        (firstSome go precisions).getD (f.roundSticky md (decide (whole < 0)) whole.natAbs 0 true)

/-! ### Block accumulation (R55) -/

/-- The weight of a finite product: floor(log2 |p|). -/
def fpWeight : Fp → Option Int
  | .fin _ m e => if m = 0 then none else some (Nat.log2 m + e)
  | _ => none

/-- |p| cut to a multiple of 2^u, as that multiple. -/
def cutTo (u : Int) : Fp → Int
  | .fin n m e =>
    let k : Nat := if u ≤ e then m * 2 ^ (e - u).toNat else m / 2 ^ (u - e).toNat
    if n then -(k : Int) else k
  | _ => 0

/-- The block value of exact products; none is a NaN product. NV says that infinities of both signs met without a NaN
(R55, R261). -/
def blockSum (md : FpMode) (ps : List (Option Fp)) : Nat × FpFlags :=
  let bad := ps.any fun p => match p with
    | none => true
    | some x => x.isNan
  let xs := ps.filterMap id
  let infs := xs.filter Fp.isInf
  let both := infs.any Fp.sign && infs.any fun x => !x.sign
  if bad || both then (FA36.canonical, { nv := !bad })
  else
    match infs with
    | x :: _ => FA36.infinity md x.sign
    | [] =>
      match xs.filterMap fpWeight with
      | [] => (FA36.signed (!xs.isEmpty && xs.all Fp.sign) 0, {})
      | w0 :: ws =>
        let w := ws.foldl max w0
        let t := xs.foldl (fun (a : Int) x => a + cutTo (w - 40) x) 0
        if t = 0 then (0, {}) else FA36.round { sat := md.sat, sub := md.sub } (decide (t < 0)) t.natAbs (w - 40)

/-- FA36 as it is read: any NaN is the canonical one (R54). -/
def fa36Read (v : Nat) : Nat := if (FA36.dec v).isNan then FA36.canonical else v

/-- One block into an accumulator: the block value, then one addition, both to nearest even, with the flags that they
raise (R55, R261, log 17). -/
def blockAccF (md : FpMode) (acc : Nat × FpFlags) (ps : List (Option Fp)) : Nat × FpFlags :=
  let m : FpMode := { sat := md.sat, sub := md.sub, can := true }
  let b := blockSum md ps
  let r := FA36.dot m [FA36.dec acc.1, FA36.dec b.1] [] [FA36.dec acc.1, FA36.dec b.1]
  (r.1, (acc.2.or b.2).or r.2)

/-- Cuts a list into blocks of 32 (R55). -/
def blocks32 {α : Type} (xs : List α) : Nat → List (List α)
  | 0 => []
  | n + 1 => if xs.isEmpty then [] else xs.take 32 :: blocks32 (xs.drop 32) n

/-- Block accumulation of a list of products, with its flags (R55, R261). -/
def accumulateF (md : FpMode) (acc : Nat) (ps : List (Option Fp)) : Nat × FpFlags :=
  (blocks32 ps (ps.length / 32 + 1)).foldl (blockAccF md) (acc, {})

/-- Block accumulation of a list of products (R55). -/
def accumulate (md : FpMode) (acc : Nat) (ps : List (Option Fp)) : Nat := (accumulateF md acc ps).1

/-- An exact product for R55: none when it is a NaN. -/
def fpProd (x y : Fp) : Option Fp := if x.isNan ∨ y.isNan then none else x.mul y

/-- a + b to F32 (R384). -/
def f32Add (sat : Bool) (a b : Nat) : Nat := (F32.add { can := true, sat := sat } a b).1

/-- The F32 forms of atomics: add, minimum, maximum; a NaN operand gives the canonical NaN (R384). -/
def f32Atomic (op : Nat) (sat : Bool) (old a : Nat) : Nat :=
  if op = 0 then f32Add sat old a else (F32.minmax { can := true } (op == 2) true old a).1

end Sys2Proof.Machine
end

