-- ==== Sys2Proof/Machine/Integer.lean ====
section
/-!
DEFINITION. The integer and address instructions 0x10 to 0x2F (R166 to R175).
-/

namespace Sys2Proof.Machine

/-- The width of an instruction's type. -/
def tyBits (xty : BitVec 1) (ty : BitVec 4) : Nat := typeBits (xty == 1) ty.toNat

/-- An S type (R43). -/
def tySigned (xty : BitVec 1) (ty : BitVec 4) : Bool := xty == 0 && decide (ty.toNat < 4)

/-- An operand of a lane-wise instruction: its field, the registers it spans and the bits it keeps. -/
structure Src where
  o : Opnd
  n : Nat
  bits : Nat

/-- An operand of the instruction's type. -/
def Src.ofTy (o : Opnd) (bits : Nat) : Src := { o, n := regsOf bits, bits }

/-- The position-and-length operand of BFX and BFI: 32 bits whatever the type (R169). -/
def Src.pos (o : Opnd) (bits : Nat) : Src := { o, n := regsOf bits, bits := 32 }

/-- Every operand may be read. -/
def Thread.canReadAll (t : Thread) : List Src → Except Ev Unit
  | [] => .ok ⟨⟩
  | x :: xs => do
    t.canRead x.o x.n
    t.canReadAll xs

/-- The operand values of a lane. -/
def Thread.vals (t : Thread) (xs : List Src) (i : Nat) : List Nat := xs.map fun x => t.opnd x.o x.n x.bits i

/-- A lane-wise integer instruction (R166, R175): every lane in EM computes, the destination takes `rbits` bits, and
with the CC bit the flags come from the lane of R136. -/
def intOp (f : Std) (s : State) (srcs : List Src) (rbits : Nat) (op : List Nat → IntRes) :
    Host.Outcome State Fault Refusal :=
  run s fun t => do
    t.canWrite f.dst.toNat (regsOf rbits)
    t.canReadAll srcs
    let res := fun i => op (t.vals srcs i)
    let t' := t.put f.dst.toNat (regsOf rbits) (tySigned f.xty f.ty) rbits fun i => (res i).val
    let t' := if f.xt.getLsbD 0 then
        match t.active with
        | [] => t'
        | i :: _ => t'.setCC (intFlags rbits (res i))
      else t'
    done s t'

/-- One, two or three operands of the type. -/
def int1 (f : Std) (s : State) (op : Bool → Nat → Nat → IntRes) : Host.Outcome State Fault Refusal :=
  let w := tyBits f.xty f.ty
  intOp f s [.ofTy f.a w] w fun xs => op (tySigned f.xty f.ty) w (xs.getD 0 0)

def int2 (f : Std) (s : State) (op : Bool → Nat → Nat → Nat → IntRes) : Host.Outcome State Fault Refusal :=
  let w := tyBits f.xty f.ty
  intOp f s [.ofTy f.a w, .ofTy f.b w] w fun xs => op (tySigned f.xty f.ty) w (xs.getD 0 0) (xs.getD 1 0)

def int3 (f : Std) (s : State) (op : Bool → Nat → Nat → Nat → Nat → IntRes) : Host.Outcome State Fault Refusal :=
  let w := tyBits f.xty f.ty
  intOp f s [.ofTy f.a w, .ofTy f.b w, .ofTy f.c w] w fun xs =>
    op (tySigned f.xty f.ty) w (xs.getD 0 0) (xs.getD 1 0) (xs.getD 2 0)

/-! ### Results (R167 to R170, R175) -/

def aluAdd (_ : Bool) (w a b : Nat) : IntRes :=
  { val := (a + b) % 2 ^ w, c := decide (2 ^ w ≤ a + b), v := !fitsS w (sInt w a + sInt w b) }

def aluSub (_ : Bool) (w a b : Nat) : IntRes :=
  { val := (a + 2 ^ w - b) % 2 ^ w, c := decide (b ≤ a), v := !fitsS w (sInt w a - sInt w b) }

def aluMul (sg : Bool) (w a b : Nat) : IntRes :=
  { val := a * b % 2 ^ w, v := !fitsT sg w (tInt sg w a * tInt sg w b) }

def aluMulh (sg : Bool) (w a b : Nat) : IntRes := { val := wrapI w (tInt sg w a * tInt sg w b / 2 ^ w) }

def aluMad (sg : Bool) (w a b c : Nat) : IntRes :=
  { val := (a * b + c) % 2 ^ w, v := !fitsT sg w (tInt sg w a * tInt sg w b + tInt sg w c) }

/-- IMADW: c and the result are 2w bits wide (R170). -/
def aluMadw (sg : Bool) (w a b c : Nat) : IntRes :=
  let x := tInt sg w a * tInt sg w b + tInt sg (2 * w) c
  { val := wrapI (2 * w) x, v := !fitsT sg (2 * w) x }

/-- The rows of R168 in which V is set. -/
def divCorner (sg : Bool) (w a b : Nat) : Bool := b == 0 || (sg && a == 2 ^ (w - 1) && b == 2 ^ w - 1)

def aluDiv (sg : Bool) (w a b : Nat) : IntRes :=
  { val := if b = 0 then 2 ^ w - 1 else wrapI w ((tInt sg w a).tdiv (tInt sg w b)), v := divCorner sg w a b }

def aluRem (sg : Bool) (w a b : Nat) : IntRes :=
  { val := if b = 0 then a else wrapI w ((tInt sg w a).tmod (tInt sg w b)), v := divCorner sg w a b }

def aluMin (sg : Bool) (w a b : Nat) : IntRes := { val := if tInt sg w a ≤ tInt sg w b then a else b }
def aluMax (sg : Bool) (w a b : Nat) : IntRes := { val := if tInt sg w a ≤ tInt sg w b then b else a }

def aluAbs (_ : Bool) (w a : Nat) : IntRes :=
  { val := if a < 2 ^ (w - 1) then a else (2 ^ w - a) % 2 ^ w, v := a == 2 ^ (w - 1) }

def aluNeg (sg : Bool) (w a : Nat) : IntRes := aluSub sg w 0 a

def aluAnd (_ : Bool) (_ a b : Nat) : IntRes := { val := a &&& b }
def aluOr (_ : Bool) (_ a b : Nat) : IntRes := { val := a ||| b }
def aluXor (_ : Bool) (_ a b : Nat) : IntRes := { val := a ^^^ b }
def aluAndn (_ : Bool) (w a b : Nat) : IntRes := { val := a &&& (b ^^^ (2 ^ w - 1)) }

def aluShl (_ : Bool) (w a b : Nat) : IntRes := { val := if w ≤ b then 0 else a * 2 ^ b % 2 ^ w }
def aluShr (_ : Bool) (w a b : Nat) : IntRes := { val := if w ≤ b then 0 else a / 2 ^ b }
def aluSar (_ : Bool) (w a b : Nat) : IntRes := { val := wrapI w (sInt w a / 2 ^ (min b w)) }
def aluRot (_ : Bool) (w a b : Nat) : IntRes :=
  { val := a * 2 ^ (b % w) % 2 ^ w + a / 2 ^ (w - b % w) }

/-- The ones among the low `n` bits. -/
def popcount (v : Nat) : Nat → Nat
  | 0 => 0
  | n + 1 => popcount v n + v / 2 ^ n % 2

/-- Leading zeros of a value of `n` bits. -/
def clz (v : Nat) : Nat → Nat
  | 0 => 0
  | n + 1 => if v / 2 ^ n % 2 = 1 then 0 else 1 + clz v n

/-- The low `n` bits in reverse order. -/
def bitrev (v : Nat) : Nat → Nat
  | 0 => 0
  | n + 1 => bitrev (v / 2) n + v % 2 * 2 ^ n

def aluPopc (_ : Bool) (w a : Nat) : IntRes := { val := popcount a w }
def aluClz (_ : Bool) (w a : Nat) : IntRes := { val := clz a w }
def aluBrev (_ : Bool) (w a : Nat) : IntRes := { val := bitrev a w }

/-- The length of a field cut to the width (R169). -/
def fieldLen (w p : Nat) : Nat := min (fld p 8 8) (w - fld p 0 8)

/-- BFX (R169). -/
def aluBfx (sg : Bool) (w a p : Nat) : IntRes :=
  let n := fieldLen w p
  if w ≤ fld p 0 8 ∨ n = 0 then { val := 0 } else { val := extend sg n w (fld a (fld p 0 8) n) }

/-- BFI (R169). -/
def aluBfi (_ : Bool) (w a b p : Nat) : IntRes :=
  let n := fieldLen w p
  let pos := fld p 0 8
  if w ≤ pos ∨ n = 0 then { val := a }
  else { val := a % 2 ^ pos + b % 2 ^ n * 2 ^ pos + a / 2 ^ (pos + n) * 2 ^ (pos + n) }

/-- IADDS clamps to the range of the type. -/
def aluAdds (sg : Bool) (w a b : Nat) : IntRes :=
  let x := tInt sg w a + tInt sg w b
  let lo : Int := if sg then -(2 ^ (w - 1)) else 0
  let hi : Int := if sg then 2 ^ (w - 1) - 1 else 2 ^ w - 1
  { val := wrapI w (max lo (min hi x)), v := !fitsT sg w x }

/-! ### The instructions -/

/-- IADD (R167). -/
def execIadd (f : Std) (s : State) := int2 f s aluAdd
/-- ISUB (R167). -/
def execIsub (f : Std) (s : State) := int2 f s aluSub
/-- IMUL (R167). -/
def execImul (f : Std) (s : State) := int2 f s aluMul
/-- IMULH (R167, R170). -/
def execImulh (f : Std) (s : State) := int2 f s aluMulh
/-- IMAD (R167). -/
def execImad (f : Std) (s : State) := int3 f s aluMad
/-- IMADW (R170). -/
def execImadw (f : Std) (s : State) : Host.Outcome State Fault Refusal :=
  let w := tyBits f.xty f.ty
  intOp f s [.ofTy f.a w, .ofTy f.b w, .ofTy f.c (2 * w)] (2 * w) fun xs =>
    aluMadw (tySigned f.xty f.ty) w (xs.getD 0 0) (xs.getD 1 0) (xs.getD 2 0)
/-- IDIV (R168). -/
def execIdiv (f : Std) (s : State) := int2 f s aluDiv
/-- IREM (R168). -/
def execIrem (f : Std) (s : State) := int2 f s aluRem
/-- IMIN (R167). -/
def execImin (f : Std) (s : State) := int2 f s aluMin
/-- IMAX (R167). -/
def execImax (f : Std) (s : State) := int2 f s aluMax
/-- IABS (R167). -/
def execIabs (f : Std) (s : State) := int1 f s aluAbs
/-- INEG (R167). -/
def execIneg (f : Std) (s : State) := int1 f s aluNeg
/-- AND (R167). -/
def execAnd (f : Std) (s : State) := int2 f s aluAnd
/-- OR (R167). -/
def execOr (f : Std) (s : State) := int2 f s aluOr
/-- XOR (R167). -/
def execXor (f : Std) (s : State) := int2 f s aluXor
/-- ANDN (R167). -/
def execAndn (f : Std) (s : State) := int2 f s aluAndn
/-- SHL (R167). -/
def execShl (f : Std) (s : State) := int2 f s aluShl
/-- SHR (R167). -/
def execShr (f : Std) (s : State) := int2 f s aluShr
/-- SAR (R167). -/
def execSar (f : Std) (s : State) := int2 f s aluSar
/-- ROT (R167). -/
def execRot (f : Std) (s : State) := int2 f s aluRot
/-- POPC (R167). -/
def execPopc (f : Std) (s : State) := int1 f s aluPopc
/-- CLZ (R167). -/
def execClz (f : Std) (s : State) := int1 f s aluClz
/-- BREV (R167). -/
def execBrev (f : Std) (s : State) := int1 f s aluBrev
/-- BFX (R169). -/
def execBfx (f : Std) (s : State) : Host.Outcome State Fault Refusal :=
  let w := tyBits f.xty f.ty
  intOp f s [.ofTy f.a w, .pos f.b w] w fun xs => aluBfx (tySigned f.xty f.ty) w (xs.getD 0 0) (xs.getD 1 0)
/-- BFI (R169). -/
def execBfi (f : Std) (s : State) : Host.Outcome State Fault Refusal :=
  let w := tyBits f.xty f.ty
  intOp f s [.ofTy f.a w, .ofTy f.b w, .pos f.c w] w fun xs =>
    aluBfi (tySigned f.xty f.ty) w (xs.getD 0 0) (xs.getD 1 0) (xs.getD 2 0)
/-- IADDS (R167). -/
def execIadds (f : Std) (s : State) := int2 f s aluAdds

/-- A mask whose bit i is set for the lanes of EM where a condition holds (R171). -/
def Thread.laneMaskOf (t : Thread) (p : Nat → Bool) : BitVec 64 := laneMask (t.active.filter p)

/-- A comparison by the OP of ICMP (R122). -/
def intCmp (op : Nat) (x y : Int) : Bool :=
  match op with
  | 0 => x == y
  | 1 => x != y
  | 2 => decide (x < y)
  | 3 => decide (x ≤ y)
  | 4 => decide (y < x)
  | _ => decide (y ≤ x)

/-- ICMP (R171). -/
def execIcmp (f : Std) (s : State) : Host.Outcome State Fault Refusal :=
  run s fun t => do
    let w := tyBits f.xty f.ty
    let srcs := [Src.ofTy f.a w, Src.ofTy f.b w]
    t.canReadAll srcs
    let sg := tySigned f.xty f.ty
    let m := t.laneMaskOf fun i =>
      intCmp f.op.toNat (tInt sg w ((t.vals srcs i).getD 0 0)) (tInt sg w ((t.vals srcs i).getD 1 0))
    done s ((t.setMask f.dst.toNat m).setCC (maskFlags m t.regs.em))

/-- SEL (R171); a B8 or B16 result is zero-extended (log 90). -/
def execSel (f : Std) (s : State) : Host.Outcome State Fault Refusal :=
  let w := tyBits f.xty f.ty
  run s fun t => do
    t.canWrite f.dst.toNat (regsOf w)
    let srcs := [Src.ofTy f.a w, Src.ofTy f.b w]
    t.canReadAll srcs
    let m := t.mask f.c.reg.toNat
    done s (t.put f.dst.toNat (regsOf w) (tySigned f.xty f.ty) w fun i =>
      if m.getLsbD i then (t.vals srcs i).getD 0 0 else (t.vals srcs i).getD 1 0)

/-- MOV (R172); a B8 or B16 result is zero-extended (log 90). -/
def execMov (f : Std) (s : State) : Host.Outcome State Fault Refusal :=
  let w := tyBits f.xty f.ty
  run s fun t => do
    t.canWrite f.dst.toNat (regsOf w)
    t.canRead f.a (regsOf w)
    done s (t.put f.dst.toNat (regsOf w) (tySigned f.xty f.ty) w fun i => t.opnd f.a (regsOf w) w i)

/-- MOVI (R172). -/
def execMovi (f : I32) (s : State) : Host.Outcome State Fault Refusal :=
  let w := tyBits f.xty f.ty
  let sg := tySigned f.xty f.ty
  run s fun t => do
    t.canWrite f.dst.toNat (regsOf w)
    done s (t.put f.dst.toNat (regsOf w) sg w fun _ => extend sg 32 64 f.imm.toNat % 2 ^ w)

/-- LEA (R173). -/
def execLea (f : Mem) (s : State) : Host.Outcome State Fault Refusal :=
  run s fun t => do
    t.canWrite f.dst.toNat 2
    t.canAddr f
    done s (t.put f.dst.toNat 2 false 64 fun i => t.memAddr f i)

/-- WIDX (R174). -/
def execWidx (f : Std) (s : State) : Host.Outcome State Fault Refusal :=
  let w := tyBits f.xty f.ty
  run s fun t => do
    t.canWrite f.dst.toNat (regsOf w)
    let h := s.hdrOf t
    let k := f.xt.toNat % 8
    done s (t.put f.dst.toNat (regsOf w) false w fun i =>
      (if f.xt.getLsbD 3 then h.extent k else h.field t.gidx (s.wgOf t).ord i k) % 2 ^ w)

end Sys2Proof.Machine
end

