-- ==== Sys2Proof/Machine/Access.lean ====
section
/-!
DEFINITION. The loads and stores of a thread: their checks, waits, the store buffer behind remote accesses (R226, R276,
R278), and the long-latency producers they leave (R139 to R142).
-/

namespace Sys2Proof.Machine

/-- The space of a place is the lane slice or the scratchpad, whose loads are interlocked (R139, R227). -/
def Place.interlocked : Place → Bool
  | .lane .. => true
  | .scratch _ => true
  | _ => false

/-! ### Atomics (R383, R384) -/

/-- One step of an integer atomic (R383). -/
def atomInt (op : Nat) (signed : Bool) (bits old a cmp : Nat) : Nat :=
  match op with
  | 0 => (old + a) % 2 ^ bits
  | 1 => if tInt signed bits a < tInt signed bits old then a else old
  | 2 => if tInt signed bits old < tInt signed bits a then a else old
  | 3 => old &&& a
  | 4 => old ||| a
  | 5 => old ^^^ a
  | 6 => a
  | _ => if old = cmp then a else old

/-- The operation of an atomic, with its type. -/
structure AtomOp where
  op : Nat
  signed : Bool
  bits : Nat
  f32 : Bool
  sat : Bool

/-- One step of an atomic (R383, R384). -/
def AtomOp.apply (o : AtomOp) (old a cmp : Nat) : Nat :=
  if o.f32 then f32Atomic o.op o.sat old a else atomInt o.op o.signed o.bits old a cmp

/-- The atomic that an operation word names. -/
def AtomOp.ofWord (op : Nat) : AtomOp :=
  let ty := op / 8 % 16
  let x := tb op 7
  { op := op % 8, signed := !x && decide (ty < 4), bits := typeBits x ty, f32 := !x && ty == 8, sat := tb op 8 }

/-- An integer element type: S32 or Z32. -/
def isIntTy (ty : Nat) : Bool := ty == 2 || ty == 6

/-- Bytes of an element. -/
def elemBytes (ty : Nat) : Nat := if ty = 9 ∨ ty = 10 then 2 else 4

/-- The sum of words of elements of TY `ty`, one element at a time (R306, R384). -/
def wordAdd (ty : Nat) (sat : Bool) (old v : Nat) : Nat :=
  let md : FpMode := { can := true, sat := sat }
  let one (a b : Nat) : Nat := if isIntTy ty then (a + b) % 2 ^ 32 else ((fmtOf ty).add md a b).1
  if elemBytes ty = 4 then one old v % 2 ^ 32
  else one (old % 2 ^ 16) (v % 2 ^ 16) % 2 ^ 16 + 2 ^ 16 * (one (old / 2 ^ 16) (v / 2 ^ 16) % 2 ^ 16)

/-! ### Types of accesses -/

/-- The type of an access as the store buffer needs it: OP + 8 * TY + 128 * XTY. -/
def tyWord (op ty xty : Nat) : Nat := op + 8 * ty + 128 * xty

/-- A type word is of an S type. -/
def tyWordSigned (w : Nat) : Bool := decide (w % 256 < 128) && decide (w / 8 % 16 < 4)

/-- A load's value in a register: extended by the type (R227). -/
def loadVal (signed : Bool) (bits dest : Nat) (bs : List Byte) : Nat := extend signed bits dest (ofBytes bs)

/-! ### Producers (R139 to R142) -/

/-- The lane words of a value of `n` registers, for a producer (R139). -/
def putVals (m : Store 32) (lane v : Nat) : Nat → Store 32
  | 0 => m
  | n + 1 => (putVals m lane v n).set (64 * n + lane) (word32 v n)

/-- The values of lanes, for a producer. -/
def valsOf (n : Nat) (vs : List (Nat × Nat)) : Store 32 := vs.foldl (fun m v => putVals m v.1 v.2 n) []

/-- Marks registers empty for a producer (R139). -/
def markEmpty (m : Tab Nat) (r pid : Nat) : Nat → Tab Nat
  | 0 => m
  | n + 1 => (markEmpty m r pid n).put (r + n) pid

/-- Starts a long-latency producer: its destination shows empty (R139). -/
def State.produce (s : State) (t : Thread) (p : Producer) : State × Thread :=
  let pid := s.nextId
  ({ s with nextId := pid + 1 },
    { t with
      prods := t.prods.put pid p
      regs := if p.toG then { t.regs with ge := markEmpty t.regs.ge p.reg pid p.n }
        else { t.regs with ve := markEmpty t.regs.ve p.reg pid p.n } })

/-- Writes a producer's result into a register state: the registers it still owns become full with it (R139, R141). -/
def Regs.fill (r : Regs) (pid : Nat) (p : Producer) : Regs :=
  if p.toG then
    if r.ge.get? p.reg = some pid then
      { r with g := r.g.set p.reg (p.vals.get 64 ++ p.vals.get 0), ge := r.ge.del p.reg }
    else r
  else
    (List.range p.n).foldl (fun r j =>
      if r.ve.get? (p.reg + j) = some pid then
        { r with
          v := setLanes r.v (64 * (p.reg + j)) (fun i => p.vals.get (64 * j + i))
            ((List.range 64).filter fun i => p.lanes.getLsbD i)
          ve := r.ve.del (p.reg + j) }
      else r) r

/-- Writes a producer's result into the save frame, where the frame holds the register empty (R406, log 31). -/
def Thread.fillFrame (t : Thread) (pid : Nat) (p : Producer) : Thread :=
  if p.toG then
    if t.savedGe.get? p.reg = some pid then
      { t with frame := t.frame.putNat (8192 + 32 + 8 * p.reg) 8 ((p.vals.get 64) ++ (p.vals.get 0)).toNat
               savedGe := t.savedGe.del p.reg }
    else t
  else
    (List.range p.n).foldl (fun t j =>
      if t.savedVe.get? (p.reg + j) = some pid then
        { t with
          frame := ((List.range 64).filter fun i => p.lanes.getLsbD i).foldl (fun m i =>
            Store.putNat m (128 * i + 4 * (p.reg + j)) 4 (p.vals.get (64 * j + i)).toNat) t.frame
          savedVe := t.savedVe.del (p.reg + j) }
      else t) t

/-- A store-buffer entry with its checkpoint's registers changed. -/
def Pend.mapRegs (f : Regs → Regs) : Pend → Pend
  | .access a => .access { a with regs := f a.regs }
  | .store w => .store w

/-- A producer completes: its result goes to the registers, the checkpoints and the save frame that await it. -/
def Thread.complete (t : Thread) (pid : Nat) (p : Producer) : Thread :=
  let t := if t.handler then t.fillFrame pid p else t
  { t with
    regs := t.regs.fill pid p
    pend := t.pend.map (Pend.mapRegs fun r => r.fill pid p)
    prods := t.prods.del pid }

/-- Completes a producer that stands ready. -/
def completeProducer (tid pid : Nat) (s : State) : Host.Outcome State Fault Refusal :=
  match s.threads.get? tid with
  | none => notEnabled
  | some t =>
    match t.prods.get? pid with
    | none => notEnabled
    | some p =>
      when (p.ready && p.waiting == 0 && !s.lost (s.dieOf t) && !p.homes.any s.lost) (s.putThread tid (t.complete pid p))

/-- The dies whose homes an access reaches (R142, R420). -/
def homesOf (ps : List (Nat × Nat × Place)) : List Nat :=
  (ps.filterMap fun p => match p.2.2 with
    | .phys a => homeDie a
    | _ => none).eraseDups

/-! ### The store buffer (R276, R278) -/

/-- The code of an access's kind. -/
def RemKind.code : RemKind → Nat
  | .load => 0
  | .store => 1
  | .atomic => 2
  | .bar => 3
  | .binit => 4

/-- The access still has lanes in other packages. -/
def Access.away (a : Access) : Bool := a.lanes.any fun l => l.place.isRemote

/-- Unanswered remote accesses of a thread (R278). -/
def Thread.checkpoints (t : Thread) : Nat :=
  (t.pend.filter fun p => match p with
    | .access a => a.away
    | .store _ => false).length

/-- All lanes of an access are one step at the home: ATOMW (R383). -/
def Access.whole (a : Access) : Bool := tb a.op 9

/-- The lanes that are out while the access stands at the head of the store buffer: its first, so that lanes take their
places in order (R228, R391, log 7), or all of an ATOMW. -/
def Access.out (a : Access) : List LaneAcc := if a.whole then a.lanes else a.lanes.take 1

/-- The number of a lane's request. -/
def reqId (ck lane : Nat) : Nat := 4096 * ck + lane

/-- The message of the lanes that are out; none while its first lane waits in this package (R276). -/
def Access.msgs (a : Access) (src pts : Nat) : List OutMsg :=
  (a.out.head?.toList.filter fun l => l.place.isRemote).map fun l =>
    .access (pkgOf l.place.remotePa)
      { src := src, id := reqId a.ck l.lane, kind := a.kind.code, op := a.op, pa := l.place.remotePa, size := a.size
        data := a.out.flatMap (·.data), pts := pts
        forwarded := match l.place with
          | .remote _ hop => hop
          | _ => false }

/-- A lane's value goes to the producer that it fills (R139, R227). -/
def Producer.give (p : Producer) (a : Access) (lane : Nat) (bs : List Byte) : Producer :=
  let dest := if p.toG then 64 else 32 * p.n
  let v := match a.kind with
    | .atomic => ofBytes bs
    | _ => loadVal (tyWordSigned a.op) (8 * a.size) dest (bs.take a.size)
  { p with vals := putVals p.vals lane v (dest / 32), waiting := p.waiting &&& ~~~(laneMask [lane]) }

/-- The same in the thread. -/
def Thread.giveLane (t : Thread) (a : Access) (lane : Nat) (bs : List Byte) : Thread :=
  match a.pid with
  | some k => { t with prods := t.prods.upd k (·.give a lane bs) }
  | none => t

/-- A lane of an access whose place is in this package is performed; at a home that never answers it is not (R142). -/
def State.performLane (s : State) (t : Thread) (a : Access) (l : LaneAcc) : State × Thread :=
  if l.place.isDead then (s, { t with hung := t.hung || a.kind != .load })
  else
    match a.kind with
    | .load =>
      let bs := s.readPlace t l.place a.size
      let r := s.stampLoad t l.place
      (r.1, r.2.giveLane a l.lane bs)
    | .store => s.storePlaces t [(l.place, l.data)]
    | .atomic =>
      let old := ofBytes (s.readPlace t l.place a.size)
      let new := (AtomOp.ofWord a.op).apply old (ofBytes (l.data.take a.size)) (ofBytes (l.data.drop a.size))
      let r := s.storePlaces t [(l.place, toBytes new a.size)]
      (r.1, r.2.giveLane a l.lane (toBytes old a.size))
    | _ => (s, t)

/-- Performs lanes in order up to the first in another package, or that waits; what is left (R213, R215, R228, R391). -/
def State.performLanes (s : State) (t : Thread) (a : Access) : List LaneAcc → State × Thread × List LaneAcc
  | [] => (s, t, [])
  | l :: ls =>
    if l.place.isRemote || s.bufferWaits t a.size l.place then (s, t, l :: ls)
    else
      let r := s.performLane t a l
      State.performLanes r.1 r.2 a ls

/-- The store buffer goes on from its head: accesses and stores are performed in program order up to one that waits, or to
the next lane in another package, which is sent (R276, R278, R391). An access with failed lanes stays for its trap. -/
def State.drainPend (s : State) (t : Thread) : List Pend → State × Thread
  | [] => (s, { t with pend := [] })
  | .store ws :: ps =>
    if ws.any fun w => s.bufferWaits t w.2.length w.1 then (s, { t with pend := .store ws :: ps })
    else
      let r := s.storePlaces t ws
      State.drainPend r.1 r.2 ps
  | .access a :: ps =>
    let r := s.performLanes t a a.lanes
    let a' := { a with lanes := r.2.2 }
    if r.2.2.isEmpty then
      if a.failed.isEmpty then State.drainPend r.1 r.2.1 ps else (r.1, { r.2.1 with pend := .access a' :: ps })
    else
      (r.1.sendMsgs (a'.msgs s.pkg t.pts), { r.2.1 with pend := .access a' :: ps, sent := s.time.toNat })

/-- The head of a store buffer waits in this package, not for an answer. -/
def Thread.stuckHere (t : Thread) : Bool :=
  match t.pend with
  | [] => false
  | .store _ :: _ => true
  | .access a :: _ => match a.lanes with
    | l :: _ => !l.place.isRemote
    | [] => false

/-- The store buffer of a thread goes on after such a wait (R213, R215, R223). -/
def bufferStep (tid : Nat) (s : State) : Host.Outcome State Fault Refusal :=
  match s.threads.get? tid with
  | none => notEnabled
  | some t =>
    if !t.stuckHere ∨ s.lost (s.dieOf t) then notEnabled
    else
      let r := s.drainPend t t.pend
      if r.2 = t then notEnabled else .next (r.1.putThread tid r.2)

/-- An access joins the store buffer with a checkpoint, and is made at once as far as nothing stands before it. `at_` is
the thread before the instruction (R278). -/
def State.enqueue (s : State) (t at_ : Thread) (kind : RemKind) (op size : Nat) (ls : List LaneAcc)
    (pid : Option Nat) : State × Thread :=
  let a : Access := { ck := s.nextId, kind, op, size, lanes := ls, pid, pc := at_.pc, regs := at_.regs }
  let s := { s with nextId := s.nextId + 1 }
  if t.pend.isEmpty then s.drainPend t [.access a] else (s, { t with pend := t.pend ++ [.access a] })

/-- Some lane of an access lies in another package. -/
def anyAway (ps : List (Nat × Nat × Place)) : Bool := ps.any fun p => p.2.2.isRemote

/-- A fifth remote access stalls (R278). -/
def Thread.roomFor (t : Thread) (away : Bool) : Except Ev Unit :=
  if away ∧ 4 ≤ t.checkpoints then .error .stall else .ok ⟨⟩

/-- Stores to checked places, in lane order: at once, or from the store buffer where one lies in another package or an
access stands before them (R228, R276, R278). -/
def State.storeAll (s : State) (t : Thread) (op n : Nat) (ls : List (Nat × Nat × Place × List Byte)) :
    Except Ev (State × Thread) := do
  let ps := ls.map fun l => (l.1, l.2.1, l.2.2.1)
  t.roomFor (anyAway ps)
  if s.anyWaits t n ps then .error (s.held t n (ps.map (·.2.2)))
  else
    let ws := ls.map fun l => l.2.2
    .ok <|
      if anyAway ps then
        s.enqueue t t .store op n (ls.map fun l => { lane := l.1, va := l.2.1, place := l.2.2.1, data := l.2.2.2 }) none
      else if t.busy then (s, { t with pend := t.pend ++ [.store ws] })
      else s.storePlaces t ws

/-- Ordinary stores of `k` consecutive values of `n` bytes, made once for the group in address order (R288, R309, R311). -/
def State.storeWords (s : State) (t : Thread) (va n k : Nat) (f : Nat → Nat) : Except Ev (State × Thread) := do
  t.quiet
  let ps ← s.resolveAll t .store n true ((List.range k).map fun j => (0, (va + n * j) % 2 ^ 64))
  s.storeAll t 1024 n (ps.zipIdx.map fun p => (p.2, p.1.2.1, p.1.2.2, toBytes (f p.2) n))

/-- The stores of a snapshot that have still to be made hold the counters that it cleared (R278). -/
def Thread.snapped (t : Thread) (x : Snapshot) : Thread :=
  { t with pend := t.pend.map fun p => match p with
    | .access a => .access { a with snap := some x }
    | p => p }

/-- A snapshot whose stores failed has not been taken: its counts come back, where the round or the binding is still the same
(R278, R288, R311, log 25). -/
def State.unsnap (s : State) : Option Snapshot → State
  | none => s
  | some (.round wg k rid counts) =>
    s.updWg wg fun g =>
      let sl := g.rounds.getD k {}
      if sl.rid ≠ rid then g
      else
        let sums := counts.foldl (fun (m : Store 32) e =>
          m.set e.1 (BitVec.ofNat 32 (satAdd 32 (m.get e.1).toNat e.2.toNat))) sl.counts
        { g with rounds := g.rounds.put k { sl with counts := sums } }
  | some (.shards key counts) =>
    { s with handles := s.handles.upd key fun h =>
        if h.counters.length ≠ counts.length then h
        else { h with counters := List.zipWith (satAdd 32) h.counters counts } }

/-- Loads from checked places into the registers of a producer (R139, R226, R228): at once where every lane lies in this
package and nothing stands before them, else from the store buffer (R276, R278). A lane whose home never answers leaves the
registers empty (R142). -/
def State.loadInto (s : State) (t : Thread) (toG : Bool) (reg n op size : Nat) (ps : List (Nat × Nat × Place)) :
    Except Ev (State × Thread) := do
  t.roomFor (anyAway ps)
  let p : Producer := { toG, reg, n, lanes := laneMask (ps.map (·.1)), vals := [], waiting := 0, ready := true
                        slot := none, homes := homesOf ps }
  .ok <|
    if anyAway ps || t.busy then
      let q := s.produce t { p with waiting := p.lanes }
      q.1.enqueue q.2 t .load op size (ps.map fun x => { lane := x.1, va := x.2.1, place := x.2.2, data := [] })
        (some s.nextId)
    else
      let r := s.loadPlaces t size (ps.filter fun x => !x.2.2.isDead)
      let dest := if toG then 64 else 32 * n
      let vals := r.1.map fun v => (v.1, loadVal (tyWordSigned op) (8 * size) dest v.2)
      r.2.1.produce r.2.2 { p with vals := valsOf (dest / 32) vals
                                   waiting := laneMask ((ps.filter fun x => x.2.2.isDead).map (·.1)) }

end Sys2Proof.Machine
end

