-- ==== Sys2Proof/Machine/Engine.lean ====
section
/-!
DEFINITION. What the engines share: their element accesses (R234, R396, R397), tickets and the range scoreboard (R235),
completion (R233, R369), suspension and its trap (R243), and abort (R244).
-/

namespace Sys2Proof.Machine

/-- Why an element access of an engine does not go on. -/
inductive Flt where
  /-- A fault: the cause of R243, the virtual address, TPTE. -/
  | fault (cause va pte : Nat)
  /-- It waits: for MIG, for a scratchpad page, or for a home that never answers. -/
  | wait
  /-- A unit in another package has to be read first: virtual and physical address, and whether it was forwarded. -/
  | away (va pa : Nat) (hop : Bool)
  /-- A page has to be walked first: partition, die and page (R219). -/
  | walk (part die page : Nat)
  deriving DecidableEq, Repr

/-- The cause of R243 for a fault of an access. -/
def causeOf (cls sub info : Nat) : Nat :=
  match cls with
  | 5 => if sub = 0 ∧ info % 4 = 2 then 2 else sub
  | 6 => 7
  | 8 => 4
  | 9 => 5
  | _ => 7

/-- The place of one byte of an engine's access (R234, R243). One in an unpinned page waits for the refill (R213). Every engine's
element accesses may reach another domain: R21 and R275 name copies and gathers, R319 to R330 say nothing of domains (log 82). -/
def State.engPlace (s : State) (t : Thread) (acc : Acc) (va : Nat) : Except Flt Place :=
  let r := match aperture va with
    | (.global, _) =>
      match s.threadWalk t va with
      | some w => s.globalRes t acc va true w
      | none => .need (va / 65536)
    | (ap, o) => s.localRes t acc 0 ap o 1
  match r with
  | .ok p => if s.unpinnedAt t p then .error .wait else .ok p
  | .bad _ cls sub info pte => .error (.fault (causeOf cls sub info) va pte)
  | .need page => .error (.walk (s.partOf t) (s.dieOf t) page)
  | _ => .error .wait

/-- The issuing thread of an operation as the reader of its elements, with the units it has read and the walks that have failed
for it (R220, R396). -/
def Thread.reader (t : Thread) (op : EngOp) : Thread :=
  { t with pts := 0, answers := op.got.map fun e => { pa := e.1, cls := 0, data := e.2 }, walkFaults := op.walkFaults }

/-- A byte of a unit that the operation has read. -/
def Thread.gotByte (t : Thread) (va : Nat) : Option Byte :=
  (t.answers.find? fun a => a.pa == va / 16).bind fun a => a.data[va % 16]?

/-- One byte that an engine reads: now, or as it stood when its unit was read (R396). -/
def State.engByte (s : State) (t : Thread) (va : Nat) : Except Flt Byte :=
  match t.gotByte va with
  | some b => .ok b
  | none =>
    match s.engPlace t .load va with
    | .ok (.remote pa hop) => .error (.away (va / 16 * 16) (pa / 16 * 16) hop)
    | .ok (.dead _) => .error .wait
    | .ok p => .ok ((s.readPlace t p 1).headD 0)
    | .error e => .error e

/-- Bytes that an engine reads. -/
def State.engBytes (s : State) (t : Thread) (va : Nat) : Nat → Except Flt (List Byte)
  | 0 => .ok []
  | n + 1 => do
    let b ← s.engByte t va
    let bs ← s.engBytes t ((va + 1) % 2 ^ 64) n
    .ok (b :: bs)

/-- A little-endian number that an engine reads. -/
def State.engNat (s : State) (t : Thread) (va n : Nat) : Except Flt Nat := do
  let bs ← s.engBytes t va n
  .ok (ofBytes bs)

/-- The parts of a run of bytes in aligned 16-byte units: address and length (R397). -/
def unitRuns (va n : Nat) : List (Nat × Nat) :=
  (List.range ((va + n + 15) / 16 - va / 16)).map fun k =>
    let lo := max va (16 * (va / 16 + k))
    (lo, min (va + n) (16 * (va / 16 + k) + 16) - lo)

/-- The elements of parts of a run: all are checked before any is written (R243). -/
def State.engElems (s : State) (t : Thread) (bs : List Byte) (va : Nat) : List (Nat × Nat) → Except Flt (List Elem)
  | [] => .ok []
  | (a, n) :: rs => do
    let p ← s.engPlace t .store a
    if p.isDead then .error .wait
    else
      let es ← s.engElems t bs va rs
      .ok ({ va := a, place := p, data := (bs.drop (a - va)).take n } :: es)

/-- Elements that follow each other in another package go there in one access, which is made or fails whole (R243). -/
def joinAway : List Elem → List Elem
  | [] => []
  | e :: es =>
    match e.place, joinAway es with
    | .remote pa hop, f :: fs =>
      if f.place = .remote (pa + e.data.length) hop ∧ f.add = e.add then { e with data := e.data ++ f.data } :: fs
      else e :: f :: fs
    | _, fs => e :: fs

/-- The elements that bytes to be written make (R243, R397). -/
def State.engPut (s : State) (t : Thread) (va : Nat) (bs : List Byte) : Except Flt (List Elem) := do
  let es ← s.engElems t bs va (unitRuns va bs.length)
  .ok (joinAway es)

/-- Writes an element, or adds it to a word, at its checked place: one in another package leaves as an access that is
answered (R276, R306, R330, R397). -/
def State.putElem (s : State) (t : Thread) (o : Owner) (e : Elem) : State :=
  match e.place with
  | .remote pa hop =>
    s.sendAway { owner := o, va := e.va, chunk := e.chunk
                 req := { src := s.pkg, id := 0, kind := if e.add.isSome then 5 else 1, op := e.add.getD 0, pa := pa
                          size := e.data.length, data := e.data, forwarded := hop, far := true } }
  | p =>
    let bs := match e.add with
      | some ty => toBytes (wordAdd ty false (ofBytes (s.readPlace t p 4)) (ofBytes e.data)) 4
      | none => e.data
    ((s.writePlace t p bs).1.stampStore { t with pts := 0 } p).1

/-- Writes elements. -/
def State.putElems (s : State) (t : Thread) (o : Owner) (es : List Elem) : State := es.foldl (fun s e => s.putElem t o e) s

/-- An element lies in another package. -/
def Elem.away (e : Elem) : Bool := e.place.isRemote

/-- An element's place is in a page that moves, or in an unpinned scratchpad page, and waits (R213, R223). -/
def State.elemWaits (s : State) (t : Thread) (e : Elem) : Bool :=
  s.unpinnedAt t e.place || match e.place with
    | .phys a => s.moving a
    | _ => false

/-- The elements that an operation has ready can all be written at once: none is in another package, in a page that moves,
or still unanswered there. -/
def State.canFlush (s : State) (t : Thread) (o : Owner) (es : List Elem) : Bool :=
  es.all (fun e => !e.away && !s.elemWaits t e) && !s.waitsAway o

/-- A unit of another package is asked for, once (R276, R396). -/
def State.askUnit (s : State) (o : Owner) (va pa : Nat) (hop : Bool) : Option State :=
  if s.aways.any fun a => a.2.owner == o && a.2.va == va && a.2.req.kind == 0 then none
  else
    some (s.sendAway { owner := o, va := va
                       req := { src := s.pkg, id := 0, kind := 0, op := 0, pa := pa, size := 16, data := []
                                forwarded := hop, far := true } })

/-! ### Steps of operations (R396, R397) -/

/-- A running operation of a core with its issuing thread; none while it is suspended or its die is lost (R243, R420). -/
def State.opAt (s : State) (key ticket : Nat) (kind : OpKind → Bool) : Option (EngOp × Thread) :=
  match (s.cores.getD key {}).ops.get? ticket with
  | none => none
  | some op =>
    if kind op.kind && op.susp.isNone && !s.lost (key / 144) then (s.threads.get? op.tid).map fun t => (op, t)
    else none

/-- A kind whose elements are read and written one by one. -/
def OpKind.byUnit (k : OpKind) : Bool :=
  [OpKind.cpy, .cpy2d, .cpypl, .cpeat, .cpack, .psel, .cpfill, .desc, .dgrad].contains k

/-- Puts an operation back. -/
def State.putOp (s : State) (key ticket : Nat) (op : EngOp) : State :=
  s.updCore key fun c => { c with ops := c.ops.put ticket op }

/-- An engine operation waits for a page (R219). -/
def State.walkOp (s : State) (o : Owner) (part die page : Nat) : State :=
  match o with
  | .engine core ticket => s.walkFor part die page fun w =>
      if w.ops.contains (core, ticket) then w else { w with ops := w.ops ++ [(core, ticket)] }
  | _ => s

/-- What a try that did not go on leaves: a unit of another package is asked for, or a page is walked, where that is what it waits
for. -/
def State.tried (s : State) (o : Owner) (f : Flt) : Host.Outcome State Fault Refusal :=
  match f with
  | .away va pa hop => match s.askUnit o va pa hop with
    | some s' => .next s'
    | none => notEnabled
  | .walk part die page =>
    let s' := s.walkOp o part die page
    when (decide (s'.walks ≠ s.walks)) s'
  | _ => notEnabled

/-- A failed access of an operation in another package stops it (R243). -/
def EngOp.stopped (op : EngOp) : Option Flt := op.fail.map fun f => .fault f.1 f.2 0

/-- An operation that no failed access stops goes on. -/
def EngOp.goesOn (op : EngOp) : Except Flt Unit :=
  match op.stopped with
  | some f => .error f
  | none => .ok ⟨⟩

/-- The units of some runs of bytes, as they are read now, beside those read already: a unit is read once (R391, R397). -/
def State.keepUnits (s : State) (t : Thread) (got : List (Nat × List Byte)) (runs : List (Nat × Nat)) : List (Nat × List Byte) :=
  (runs.flatMap fun r => (unitRuns r.1 r.2).map fun u => u.1 / 16).foldl (fun got a =>
    if got.any fun g => g.1 == a then got
    else
      match s.engBytes t (16 * a) 16 with
      | .ok bs => got ++ [(a, bs)]
      | .error _ => got) got

/-- An operation reads one of its units before its other accesses (R396); a unit of another package it asks for only where a
part of it needs it. -/
def unitStep (core ticket va : Nat) (s : State) : Host.Outcome State Fault Refusal :=
  match s.opAt core ticket OpKind.byUnit with
  | none => notEnabled
  | some p =>
    let a := va / 16 * 16
    if 2 ^ 64 ≤ va ∨ p.1.got.any (fun g => g.1 == a / 16) then notEnabled
    else
      match s.engBytes (p.2.reader p.1) a 16 with
      | .ok bs => .next (s.putOp core ticket { p.1 with got := p.1.got ++ [(a / 16, bs)] })
      | .error _ => notEnabled

/-- An add of a row may be made: those of the row that lie in another package are made first, one after another, so that none is
made where the first of them fails (R327, R330). -/
def State.mayMake (s : State) (o : Owner) (op : EngOp) (k : Nat) (e : Elem) : Bool :=
  let first := op.out.findIdx fun x => x.chunk == e.chunk && x.away
  e.add.isNone || !s.waitsAway o && (if e.away then first == k else first == op.out.length)

/-- An operation writes one of the elements that it has ready (R396). -/
def elemStep (core ticket k : Nat) (s : State) : Host.Outcome State Fault Refusal :=
  match s.opAt core ticket OpKind.byUnit with
  | none => notEnabled
  | some p =>
    match p.1.out[k]? with
    | none => notEnabled
    | some e =>
      when (!s.elemWaits p.2 e && s.mayMake (.engine core ticket) p.1 k e)
        ((s.putElem p.2 (.engine core ticket) e).putOp core ticket { p.1 with out := p.1.out.eraseIdx k })

/-! ### Issue -/

/-- A named barrier is below NBN, or none is named (R370). -/
def State.nbCheck (s : State) (t : Thread) (nb : Nat) : Except Ev Unit :=
  if nb = 63 ∨ nb < (s.hdrOf t).nbn then .ok ⟨⟩ else .error (syncTrap 1)

/-- Every slice of the parlour that `[o, o + n)` touches is granted (R207, R209). -/
def State.parlourRange (s : State) (t : Thread) (o n : Nat) : Bool :=
  let h := s.hdrOf t
  let g := s.wgOf t
  let u := s.units.getD g.unit_ .absent
  let slice := h.fparl * 4096
  h.par != 0 && slice != 0 && decide (o + n ≤ h.unitSize * slice ∧ o + n ≤ 2 ^ 22) &&
    (List.range h.unitSize).all fun j =>
      !decide (o < (j + 1) * slice ∧ j * slice < o + n) || u.granted.contains (g.ord / h.unitSize * h.unitSize + j)

/-- A range of an engine command lies within one aperture's valid offsets (R234). -/
def State.rangeOk (s : State) (t : Thread) (va n : Nat) : Bool :=
  match aperture va with
  | (.global, a) => decide (a + n ≤ 2 ^ 56)
  | (.scratch, o) => decide (o + n ≤ scrLimit (s.hdrOf t) (s.wgOf t))
  | (.parlour, o) => s.parlourRange t o n
  | (.attic, o) => (s.wgOf t).full && decide (o + n ≤ (s.hdrOf t).fatt * 65536)
  | _ => false

/-- Checks a range at issue (R234). -/
def State.rangeCheck (s : State) (t : Thread) (acc : Acc) (va n : Nat) : Except Ev Unit :=
  if s.rangeOk t va n then .ok ⟨⟩ else .error (holeTrap acc va)

/-- Checks a range that the instruction names as lying in the scratchpad (R234). -/
def State.scrCheck (s : State) (t : Thread) (acc : Acc) (va n : Nat) : Except Ev Unit :=
  if (aperture va).1 = .scratch ∧ s.rangeOk t va n then .ok ⟨⟩ else .error (holeTrap acc va)

/-- An address of an engine command is aligned. -/
def alignCheck (acc : Acc) (va n : Nat) : Except Ev Unit :=
  if va % n = 0 then .ok ⟨⟩ else .error (alignTrap acc va)

/-- A value is in its limits, or the instruction traps ILLEGAL/RSV. -/
def rsvUnless (c : Bool) : Except Ev Unit := if c then .ok ⟨⟩ else .error rsv

/-- The scratchpad bytes among ranges of addresses (R235). -/
def scrRanges (rs : List (Nat × Nat)) : List (Nat × Nat) :=
  rs.filterMap fun r =>
    match aperture r.1 with
    | (.scratch, o) => some (o, o + r.2)
    | _ => none

/-- The free tickets of a core. -/
def Core.freeTickets (c : Core) : List Nat := (List.range 16).filter fun k => (c.ops.get? k).isNone

/-- The ticket that an operation gets: which of the free ones is not stated (log 10). -/
def State.ticketFor (s : State) (key : Nat) : Option Nat :=
  let fs := (s.cores.getD key {}).freeTickets
  fs[Config.freeNat s.free 0x7C % fs.length]?

/-- Takes a scoreboard entry for an operation; all 16 taken stalls. A status held under its ticket goes (R235, R309). -/
def State.takeEntry (s : State) (t : Thread) (op : EngOp) : Except Ev (Nat × State) :=
  match s.ticketFor (s.coreOf t) with
  | none => .error .stall
  | some k =>
    let key := s.coreOf t
    let s := { s with wgs := s.wgs.map fun (e : Nat × Wg) => if coreKey e.2.die e.2.core == key
      then (e.1, { e.2 with tickets := e.2.tickets.del k }) else e }
    .ok (k, s.updCore (s.coreOf t) fun c => { c with ops := c.ops.put k op })

/-- Takes a ticket for an operation and writes it to DST (R233). -/
def State.takeTicket (s : State) (t : Thread) (dst : Nat) (op : EngOp) : Except Ev (State × Thread) := do
  let r ← s.takeEntry t op
  .ok (r.2, t.putG dst (BitVec.ofNat 64 r.1))

/-! ### Completion -/

/-- Operations that count bytes, and that make an arrival (R369). -/
def OpKind.byArrival : OpKind → Bool
  | .desc => true
  | .dgrad => true
  | _ => false

/-- Adds to the launch's EBYTES (R445). -/
def State.addBytes (s : State) (wg n : Nat) : State :=
  { s with launches := s.launches.upd (s.wgs.getD wg .absent).launch fun l => { l with ebytes := satAdd 64 l.ebytes n } }

/-- The bytes that an operation has written: those of its chunks, without the elements that are not written yet. -/
def EngOp.written (op : EngOp) : Nat := op.wrote - (op.out.map fun e => e.data.length).sum

/-- The addition of a finished operation at its named barrier (R233, R369). -/
def State.opAddition (s : State) (op : EngOp) (err : Bool) : State :=
  if op.nb = 63 then s
  else if op.kind.byArrival then s.nbAdd op.wg op.nb { a := 1, e := err }
  else s.nbAdd op.wg op.nb { b := op.written, e := err }

/-- The unit operations that wait for a scoreboard entry no longer do (R256). -/
def State.unitUnwait (s : State) (key ticket : Nat) : State :=
  { s with unitOps := s.unitOps.map fun o => (o.1, { o.2 with waits := o.2.waits.filter (· != (key, ticket)) }) }

/-- The accesses of an agent in other packages are no longer waited for. -/
def State.dropAways (s : State) (o : Owner) : State := { s with aways := s.aways.filter fun a => a.2.owner != o }

/-- An operation ends: its entry is freed, its bytes are counted, its addition is made (R233, R244, R369, R445). -/
def State.finishOp (s : State) (key ticket : Nat) (op : EngOp) (err : Bool) : State :=
  let s := ((s.updCore key fun c => { c with ops := c.ops.del ticket }).unitUnwait key ticket).dropAways (.engine key ticket)
  (if op.kind.byArrival then s else s.addBytes op.wg op.written).opAddition op err

/-- What a run through an operation's chunks, levels or rows gives: the operation, and what stopped it. When nothing did,
and all it has ready can be written, it ends (R233, R396). -/
def State.endRun (s : State) (key ticket : Nat) (t : Thread) (r : EngOp × Option Flt) (fin : State → State) :
    Host.Outcome State Fault Refusal :=
  let o : Owner := .engine key ticket
  match r.2 with
  | none =>
    when (s.canFlush t o r.1.out) ((fin (s.putElems t o r.1.out)).finishOp key ticket { r.1 with out := [] } false)
  | some _ => notEnabled

/-! ### Suspension -/

/-- The groups of a workgroup that have not exited, by thread number, lowest group first. -/
def State.remaining (s : State) (wg : Nat) : List (Nat × Thread) :=
  let ts := s.threads.filter fun e => e.2.wg == wg && e.2.side != .cellar && e.2.status != .exited
  sortBy (fun a b => decide (a.2.gidx ≤ b.2.gidx)) ts

/-- The group that takes the ENGINE trap: the issuer, else the lowest-numbered one that remains (R243). -/
def State.engineTaker (s : State) (wg tid : Nat) : Option (Nat × Thread) :=
  let rs := s.remaining wg
  match rs.find? fun e => e.1 == tid with
  | some e => some e
  | none => rs.head?

/-- An operation that nobody is left to serve is aborted with a record (R243, R441). -/
def State.abandonOp (s : State) (key ticket : Nat) (op : EngOp) (x : TrapInfo) : State :=
  let g := s.wgs.getD op.wg .absent
  let s := s.post { code := 0x0E, core := g.core, die := g.die, part := (s.launches.getD g.launch .absent).part
                    info := x.info, addr := x.addr, tag := (s.launches.getD g.launch .absent).hdr.tag.toNat }
  s.finishOp key ticket op true

/-- A suspended operation: kept with its ticket and ranges, and its trap falls due (R243). -/
def State.suspendOp (s : State) (key ticket : Nat) (op : EngOp) (x : TrapInfo) : State :=
  match s.engineTaker op.wg op.tid with
  | none => s.abandonOp key ticket op x
  | some e =>
    let s := s.updCore key fun c => { c with ops := c.ops.put ticket { op with susp := some x, fail := none, walkFaults := [] } }
    s.putThread e.1 { e.2 with due := e.2.due ++ [x] }

/-- The ENGINE trap of a cause (R243, R404, R410). -/
def engineTrap (ticket cause va pte : Nat) : TrapInfo :=
  { cls := 0x0A, addr := va, info := ticket + cause * 256, pte := BitVec.ofNat 64 (if cause ≤ 3 then pte else 0) }

/-- The adds of rows that another package has refused stay with an operation; all else it has ready is written. -/
def EngOp.left (op : EngOp) : List Elem :=
  op.out.filter fun e => op.fail.isSome && e.add.isSome && op.out.any fun x => x.chunk == e.chunk && x.away

/-- The same when a fault stops the run: the chunks, levels and rows that are done are written whole, and the operation is suspended
(R243, R327). -/
def State.suspendRun (s : State) (key ticket : Nat) (t : Thread) (r : EngOp × Option Flt) :
    Host.Outcome State Fault Refusal :=
  let o : Owner := .engine key ticket
  let es := r.1.out.filter fun e => !r.1.left.contains e
  match r.2 with
  | some (.fault cause va pte) =>
    when (s.canFlush t o es)
      ((s.putElems t o es).suspendOp key ticket { r.1 with out := r.1.left } (engineTrap ticket cause va pte))
  | _ => notEnabled

/-- The element that an access in another package was to write. -/
def Away.elem (a : Away) : Elem :=
  { va := a.va, place := .remote a.req.pa a.req.forwarded, data := a.req.data
    add := if a.req.kind = 5 then some a.req.op else none, chunk := a.chunk }

/-- An access of an operation in another package has failed: a unit is to be read again, a row's add to be made again, a copy's
chunk to be done again, and the operation stops with the cause (R243, R277, R327). -/
def EngOp.failed (op : EngOp) (a : Away) (cause : Nat) : EngOp :=
  let op1 :=
    if a.req.kind = 0 then op
    else if a.req.kind = 5 then { op with out := a.elem :: op.out }
    else { op with did := op.did.erase a.chunk, wrote := op.wrote - a.req.data.length }
  { op1 with fail := op.fail.or (some (cause, a.va)) }

/-- The same in the state. -/
def State.elemFailed (s : State) (key ticket : Nat) (a : Away) (cause : Nat) : State :=
  match (s.cores.getD key {}).ops.get? ticket with
  | none => s
  | some op => s.putOp key ticket (op.failed a cause)

/-- What a group that ends leaves behind: its due ENGINE traps go to the lowest group that remains; where none does,
the workgroup's suspended operations are aborted (R243, R441). -/
def State.groupEnded (s : State) (wg : Nat) (due : List TrapInfo) : State :=
  let xs := due.filter fun x => x.cls == 0x0A
  match s.remaining wg with
  | e :: _ => if xs.isEmpty then s else s.putThread e.1 { e.2 with due := e.2.due ++ xs }
  | [] =>
    s.cores.foldl (fun s c => c.2.ops.foldl (fun s o =>
      match o.2.susp with
      | some x => if o.2.wg = wg then s.abandonOp c.1 o.1 o.2 x else s
      | none => s) s) s

end Sys2Proof.Machine
end

