-- ==== Sys2Proof/Machine/FloatOps.lean ====
section
/-!
DEFINITION. The floating-point instructions 0x40 to 0x5C, FDOT, and the group-wide VRED and VSCAN (R187, R188, R191 to
R199).
-/

namespace Sys2Proof.Machine

/-- A lane-wise floating-point instruction over 32-bit lane values (R191): every lane in EM computes, and the flags of
every lane in EM are set (R61). -/
def fpOp (f : Std) (s : State) (srcs : List Opnd) (op : FpMode → List Nat → Nat × FpFlags) :
    Host.Outcome State Fault Refusal :=
  run s fun t => do
    t.canWrite f.dst.toNat 1
    let xs := srcs.map fun o => ({ o, n := 1, bits := 32 } : Src)
    t.canReadAll xs
    let md := t.fpMode f.fpc
    let res := fun i => op md (t.vals xs i)
    done s ((t.put f.dst.toNat 1 false 32 fun i => (res i).1).raise (flagsOf t.active fun i => (res i).2))

/-- One to three operands of the type TY, read from the low bits of each lane (R196). -/
def fp1 (f : Std) (s : State) (op : FFmt → FpMode → Nat → Nat × FpFlags) : Host.Outcome State Fault Refusal :=
  let F := fmtOf f.ty.toNat
  fpOp f s [f.a] fun md xs => op F md (xs.getD 0 0 % 2 ^ F.bits)

def fp2 (f : Std) (s : State) (op : FFmt → FpMode → Nat → Nat → Nat × FpFlags) : Host.Outcome State Fault Refusal :=
  let F := fmtOf f.ty.toNat
  fpOp f s [f.a, f.b] fun md xs => op F md (xs.getD 0 0 % 2 ^ F.bits) (xs.getD 1 0 % 2 ^ F.bits)

def fp3 (f : Std) (s : State) (op : FFmt → FpMode → Nat → Nat → Nat → Nat × FpFlags) :
    Host.Outcome State Fault Refusal :=
  let F := fmtOf f.ty.toNat
  fpOp f s [f.a, f.b, f.c] fun md xs =>
    op F md (xs.getD 0 0 % 2 ^ F.bits) (xs.getD 1 0 % 2 ^ F.bits) (xs.getD 2 0 % 2 ^ F.bits)

/-- FADD (R192). -/
def execFadd (f : Std) (s : State) := fp2 f s FFmt.add
/-- FSUB (R192). -/
def execFsub (f : Std) (s : State) := fp2 f s FFmt.sub
/-- FMUL (R192). -/
def execFmul (f : Std) (s : State) := fp2 f s FFmt.mul
/-- FFMA (R192). -/
def execFfma (f : Std) (s : State) := fp3 f s FFmt.fma
/-- FFMS (R192). -/
def execFfms (f : Std) (s : State) := fp3 f s FFmt.fms
/-- FMIN (R193). -/
def execFmin (f : Std) (s : State) := fp2 f s fun F md a b => F.minmax md false false a b
/-- FMAX (R193). -/
def execFmax (f : Std) (s : State) := fp2 f s fun F md a b => F.minmax md true false a b
/-- FMINM (R193). -/
def execFminm (f : Std) (s : State) := fp2 f s fun F md a b => F.minmax md false true a b
/-- FMAXM (R193). -/
def execFmaxm (f : Std) (s : State) := fp2 f s fun F md a b => F.minmax md true true a b

/-- FSGN: bits only (R192). -/
def fsgn (x : Nat) (F : FFmt) (a b : Nat) : Nat :=
  let sa := a / F.signBit % 2
  let sb := b / F.signBit % 2
  let sg := match x with
    | 0 => sb
    | 1 => 1 - sb
    | _ => (sa + sb) % 2
  a % F.signBit + sg * F.signBit

/-- FSGN (R192). -/
def execFsgn (f : Std) (s : State) := fp2 f s fun F _ a b => (fsgn f.xt.toNat F a b, {})

/-- The relation of FCMP and its NV (R194). -/
def fcmp (op : Nat) (x y : Fp) : Bool × Bool :=
  let nan := x.isNan || y.isNan
  let sig := x.signalling || y.signalling
  let lt := x.lt y
  let gt := y.lt x
  match op with
  | 0 => (!nan && !lt && !gt, sig)
  | 1 => (nan || lt || gt, sig)
  | 2 => (!nan && lt, nan)
  | 3 => (!nan && !gt, nan)
  | 4 => (!nan && gt, nan)
  | 5 => (!nan && !lt, nan)
  | 6 => (nan, sig)
  | _ => (!nan, sig)

/-- FCMP (R194). -/
def execFcmp (f : Std) (s : State) : Host.Outcome State Fault Refusal :=
  run s fun t => do
    let F := fmtOf f.ty.toNat
    t.canRead f.a 1
    t.canRead f.b 1
    let md := t.fpMode f.fpc
    let res := fun i => fcmp f.op.toNat (F.decIn md (t.opnd f.a 1 F.bits i)) (F.decIn md (t.opnd f.b 1 F.bits i))
    let m := t.laneMaskOf fun i => (res i).1
    done s (((t.setMask f.dst.toNat m).setCC (maskFlags m t.regs.em)).raise
      (flagsOf t.active fun i => { nv := (res i).2 }))

/-- FCLASS (R195). -/
def fclass (F : FFmt) (v : Nat) : Nat :=
  let n := tb v (F.ebits + F.mbits)
  match F.dec v with
  | .inf _ => if n then 1 else 128
  | .nan _ fr mb => if fr < 2 ^ (mb - 1) then 256 else 512
  | .fin _ m _ =>
    if m = 0 then (if n then 8 else 16)
    else if F.subnormal v then (if n then 4 else 32)
    else if n then 2 else 64

/-- FCLASS (R195). -/
def execFclass (f : Std) (s : State) := fp1 f s fun F _ a => (fclass F a, {})
/-- FDIV (R192). -/
def execFdiv (f : Std) (s : State) := fp2 f s fun F md a b => F.div md (F.decIn md a) (F.decIn md b)
/-- FSQRT (R192). -/
def execFsqrt (f : Std) (s : State) := fp1 f s fun F md a => F.sqrt md (F.decIn md a)
/-- FRCP (R192). -/
def execFrcp (f : Std) (s : State) := fp1 f s fun F md a => F.div md (.fin false 1 0) (F.decIn md a)
/-- FRSQ (R192). -/
def execFrsq (f : Std) (s : State) := fp1 f s fun F md a => F.rsqrt md (F.decIn md a)
/-- FEXP2 (R192). -/
def execFexp2 (f : Std) (s : State) := fp1 f s fun F md a => F.exp2 md (F.decIn md a)
/-- FLOG2 (R192). -/
def execFlog2 (f : Std) (s : State) := fp1 f s fun F md a => F.log2 md (F.decIn md a)

/-- FRND: to an integral value, never NX (R192). -/
def FFmt.rint (F : FFmt) (md : FpMode) (x : Fp) : Nat × FpFlags :=
  match x with
  | .nan .. => (F.passNan md x, { nv := x.signalling })
  | .inf n => F.infinity md n
  | .fin n m e =>
    if m = 0 ∨ 0 ≤ e then (F.conv md x).map id fun fl => { fl with nx := false, uf := false }
    else
      let k := (quantize md.rnd n m e 0).1
      (F.conv md (.fin n k 0)).map id fun fl => { fl with nx := false }

/-- FRND (R192). -/
def execFrnd (f : Std) (s : State) := fp1 f s fun F md a => F.rint md (F.decIn md a)

/-- FSCALE: a × 2^b; an exponent beyond any format's range is cut to one that is (R192). -/
def FFmt.scale (F : FFmt) (md : FpMode) (x : Fp) (b : Int) : Nat × FpFlags :=
  match x with
  | .fin n m e => F.conv md (.fin n m (e + max (-2000) (min 2000 b)))
  | _ => F.conv md x

/-- FSCALE (R192). -/
def execFscale (f : Std) (s : State) : Host.Outcome State Fault Refusal :=
  let F := fmtOf f.ty.toNat
  fpOp f s [f.a, f.b] fun md xs => F.scale md (F.decIn md (xs.getD 0 0 % 2 ^ F.bits)) (sInt 32 (xs.getD 1 0))

/-- FGETX (R195). -/
def fgetx (x : Fp) : Nat × FpFlags :=
  match x with
  | .fin _ m e => if m = 0 then (0x80000000, { dz := true }) else (wrapI 32 (Nat.log2 m + e), {})
  | _ => (0x7FFFFFFF, { nv := true })

/-- FGETX (R195). -/
def execFgetx (f : Std) (s : State) := fp1 f s fun F md a => fgetx (F.decIn md a)

/-! ### Packed halves and short dots (R197) -/

/-- Each half of the lane apart; the flags of both are ORed (R197). -/
def halves (f : Std) (s : State) (srcs : List Opnd) (op : FFmt → FpMode → List Nat → Nat × FpFlags) :
    Host.Outcome State Fault Refusal :=
  let F := fmtOf f.ty.toNat
  fpOp f s srcs fun md xs =>
    let lo := op F md (xs.map (· % 65536))
    let hi := op F md (xs.map (· / 65536))
    (lo.1 + hi.1 * 65536, lo.2.or hi.2)

/-- HADD2 (R197). -/
def execHadd2 (f : Std) (s : State) := halves f s [f.a, f.b] fun F md xs => F.add md (xs.getD 0 0) (xs.getD 1 0)
/-- HMUL2 (R197). -/
def execHmul2 (f : Std) (s : State) := halves f s [f.a, f.b] fun F md xs => F.mul md (xs.getD 0 0) (xs.getD 1 0)
/-- HFMA2 (R197). -/
def execHfma2 (f : Std) (s : State) := halves f s [f.a, f.b, f.c] fun F md xs =>
  F.fma md (xs.getD 0 0) (xs.getD 1 0) (xs.getD 2 0)
/-- HMIN2 (R193, R197). -/
def execHmin2 (f : Std) (s : State) := halves f s [f.a, f.b] fun F md xs =>
  F.minmax md false false (xs.getD 0 0) (xs.getD 1 0)
/-- HMAX2 (R193, R197). -/
def execHmax2 (f : Std) (s : State) := halves f s [f.a, f.b] fun F md xs =>
  F.minmax md true false (xs.getD 0 0) (xs.getD 1 0)

/-- The elements of a lane value, least significant first (R44). -/
def elems (w k v : Nat) : List Nat := (List.range k).map fun j => fld v (w * j) w

/-- FDP2 and FDP4: the exact sum of products and c, rounded once to F32 (R197). -/
def shortDot (F : FFmt) (k : Nat) (md : FpMode) (xs : List Nat) : Nat × FpFlags :=
  let a := (elems (32 / k) k (xs.getD 0 0)).map (F.decIn md)
  let b := (elems (32 / k) k (xs.getD 1 0)).map (F.decIn md)
  let c := F32.decIn md (xs.getD 2 0)
  F32.dot md (a ++ b ++ [c]) (a.zip b) [c]

/-- FDP2 (R197). -/
def execFdp2 (f : Std) (s : State) : Host.Outcome State Fault Refusal :=
  fpOp f s [f.a, f.b, f.c] fun md xs => shortDot (fmtOf f.ty.toNat) 2 md xs
/-- FDP4 (R197). -/
def execFdp4 (f : Std) (s : State) : Host.Outcome State Fault Refusal :=
  fpOp f s [f.a, f.b, f.c] fun md xs => shortDot (fmtOf f.ty.toNat) 4 md xs

/-! ### FDOT (R198, R199) -/

/-- FDOT's result for one lane: accumulator and the two vectors (R199). -/
def fdot (F : FFmt) (md : FpMode) (acc : Nat) (x y : List Nat) : Nat × FpFlags :=
  match x, y with
  | [], _ => (acc, {})
  | [a], b :: _ =>
    let p := F.decIn md a
    let q := F.decIn md b
    let z := F32.decIn md acc
    F32.dot md [p, q, z] [(p, q)] [z]
  | _, _ =>
    let xs := x.map (F.decIn md)
    let ys := y.map (F.decIn md)
    let a0 := (FA36.conv { can := true } (F32.dec acc)).1
    let r := accumulate md a0 ((xs.zip ys).map fun p => fpProd p.1 p.2)
    let ops := F32.dec acc :: (xs ++ ys)
    match FA36.dec r with
    | .nan .. => (F32.canonical, { nv := !ops.any Fp.isNan || ops.any Fp.signalling })
    | v => F32.conv md v

/-- The first address of a lane's vectors that lies beyond the scratchpad (R198). -/
def fdotHole (lim size n : Nat) (offs : List Nat) : Option Nat :=
  offs.findSome? fun o => if n ≠ 0 ∧ lim < o + n * size then some (baseScr + o + (lim - o) / size * size) else none

/-- The address of the first element of a lane's vectors that lies in a poisoned line (R198, R404, log 80). -/
def fdotPoison (ps : List Nat) (size n : Nat) (offs : List Nat) : Option Nat :=
  let vec (o : Nat) : List Nat := ps.filterMap fun l =>
    if n ≠ 0 ∧ l * 128 < o + n * size ∧ o < l * 128 + 128 then some (baseScr + max o (l * 128 - (l * 128 - o) % size))
    else none
  offs.findSome? fun o => match vec o with
    | [] => none
    | a :: r => some (r.foldl min a)

/-- FDOT (R198, R199). -/
def execFdot (f : Std) (s : State) : Host.Outcome State Fault Refusal :=
  run s fun t => do
    t.quiet
    t.canReadV f.dst.toNat 1
    t.canRead f.a 1
    t.canRead f.b 1
    t.canRead f.c 1
    let F := fmtOf f.ty.toNat
    let size := F.bits / 8
    let n := t.uni f.c
    if 65535 < n then .error rsv
    else
      let g := s.wgOf t
      let lim := scrLimit (s.hdrOf t) g
      let offs := fun i => [t.opnd f.a 1 32 i, t.opnd f.b 1 32 i]
      let mis := t.active.filter fun i => (offs i).any fun o => o % size != 0
      let out := t.active.filter fun i => (fdotHole lim size n (offs i)).isSome
      let poi := t.active.filter fun i => (fdotPoison g.scrPoison size n (offs i)).isSome
      let waits := t.active.any fun i => (offs i).any fun o => n != 0 && s.ranged t o (n * size)
      let gone := t.active.flatMap fun i => (offs i).flatMap fun o =>
        if n = 0 then []
        else ((List.range ((o + n * size - 1) / 16384 + 1 - o / 16384)).map (o / 16384 + ·)).filter fun p =>
          !g.pinned.contains p
      match mis, out, poi with
      | i :: _, _, _ =>
        .error (.trap { cls := 7, lanes := some (laneMask mis)
                        addr := baseScr + ((offs i).find? fun o => o % size != 0).getD 0 })
      | [], i :: _, _ =>
        .error (.trap { cls := 6, lanes := some (laneMask out), addr := (fdotHole lim size n (offs i)).getD 0 })
      | [], [], i :: _ =>
        .error (.trap { cls := 8, lanes := some (laneMask poi)
                        addr := (fdotPoison g.scrPoison size n (offs i)).getD 0 })
      | [], [], [] =>
        if waits then .error .stall
        else if !gone.isEmpty then .error (.refill gone)
        else
          let md := t.fpMode f.fpc
          let vec := fun o => (List.range n).map fun j => g.scr.getNat (o + size * j) size
          let res := fun i => fdot F md (t.regs.v.get (64 * f.dst.toNat + i)).toNat (vec ((offs i).getD 0 0))
            (vec ((offs i).getD 1 0))
          done s ((t.put f.dst.toNat 1 false 32 fun i => (res i).1).raise (flagsOf t.active fun i => (res i).2))

/-! ### VRED and VSCAN (R187, R188) -/

/-- An integer combination of VRED (R122, R187). -/
def redInt (sg : Bool) (w op a b : Nat) : Nat :=
  match op with
  | 0 => (a + b) % 2 ^ w
  | 1 => if tInt sg w a ≤ tInt sg w b then a else b
  | 2 => if tInt sg w a ≤ tInt sg w b then b else a
  | 3 => a &&& b
  | 4 => a ||| b
  | _ => a ^^^ b

/-- An F32 combination (R187). -/
def redF32 (md : FpMode) (op a b : Nat) : Nat × FpFlags :=
  match op with
  | 0 => F32.add md a b
  | 1 => F32.minmax md false false a b
  | _ => F32.minmax md true false a b

/-- One level of the fixed tree (R187). -/
def treeLevel (md : FpMode) : List (Option (Nat × FpFlags)) → List (Option (Nat × FpFlags))
  | some a :: some b :: r =>
    let c := F32.add md a.1 b.1
    some (c.1, (a.2.or b.2).or c.2) :: treeLevel md r
  | some a :: none :: r => some a :: treeLevel md r
  | none :: b :: r => b :: treeLevel md r
  | [x] => [x]
  | [] => []

/-- The ADD of F32 by the tree of 64 positions and 6 levels (R187). -/
def treeSum (md : FpMode) (xs : List (Option (Nat × FpFlags))) : Nat × FpFlags :=
  let r := treeLevel md (treeLevel md (treeLevel md (treeLevel md (treeLevel md (treeLevel md xs)))))
  ((r.head?.getD none).getD (0, {}))

/-- Combines values in lane order. -/
def foldRed (xs : List Nat) (op : Nat → Nat → Nat × FpFlags) : Nat × FpFlags :=
  match xs with
  | [] => (0, {})
  | x :: r => r.foldl (fun a y => let c := op a.1 y; (c.1, a.2.or c.2)) (x, {})

/-- Combines F32 values in lane order. One value alone is an operand and the result: a signalling NaN gets its quiet bit, a
subnormal is flushed as the modes say (R46, R48, R187). -/
def foldF32 (md : FpMode) (xs : List Nat) (op : Nat → Nat → Nat × FpFlags) : Nat × FpFlags :=
  match xs with
  | [x] => (if (F32.dec x).isNan then F32.passNan md (F32.dec x) else F32.flushIn md x, {})
  | _ => foldRed xs op

/-- An F32 combination of VRED or VSCAN as it is delivered: where no addition was made, canonicalisation and the flag of a
signalling NaN still apply (R46, R350, log 77). -/
def redEnd (md : FpMode) (vs : List Nat) (r : Nat × FpFlags) : Nat × FpFlags :=
  (if md.can ∧ (F32.dec r.1).isNan then F32.canonical else r.1,
    { r.2 with nv := r.2.nv || vs.any fun v => (F32.dec v).signalling })

/-- What VRED combines the lanes in EM to. -/
def Thread.vred (t : Thread) (f : Std) : Nat × FpFlags :=
  let w := tyBits f.xty f.ty
  let v := fun i => t.opnd f.a (regsOf w) w i
  if f.ty = 8 ∧ f.xty = 0 then
    let md := t.fpMode f.fpc
    redEnd md (t.active.map v) <|
      if f.op = 0 then
        treeSum md ((List.range 64).map fun i => if t.active.contains i then some (v i, {}) else none)
      else foldF32 md (t.active.map v) (redF32 md f.op.toNat)
  else foldRed (t.active.map v) fun a b => (redInt (tySigned f.xty f.ty) w f.op.toNat a b, {})

/-- VRED (R187). -/
def execVred (f : Std) (s : State) : Host.Outcome State Fault Refusal :=
  run s fun t => do
    let w := tyBits f.xty f.ty
    t.canWrite f.dst.toNat (regsOf w)
    t.canRead f.a (regsOf w)
    let r := t.vred f
    done s ((t.put f.dst.toNat (regsOf w) (tySigned f.xty f.ty) w fun _ => r.1).raise r.2)

/-- The identity of VSCAN.EXC (R188). -/
def scanIdentity (f : Std) : Nat :=
  let w := tyBits f.xty f.ty
  let sg := tySigned f.xty f.ty
  let flt := f.ty == 8 && f.xty == 0
  match f.op.toNat with
  | 0 => if flt then 0x80000000 else 0
  | 1 => if flt then 0x7F800000 else if sg then 2 ^ (w - 1) - 1 else 2 ^ w - 1
  | 2 => if flt then 0xFF800000 else if sg then 2 ^ (w - 1) else 0
  | 3 => 2 ^ w - 1
  | _ => 0

/-- What a lane of VSCAN receives (R188). -/
def Thread.vscan (t : Thread) (f : Std) (i : Nat) : Nat × FpFlags :=
  let w := tyBits f.xty f.ty
  let ls := t.active.filter fun j => if f.xt.getLsbD 0 then decide (j < i) else decide (j ≤ i)
  let vs := ls.map fun j => t.opnd f.a (regsOf w) w j
  if vs.isEmpty then (scanIdentity f, {})
  else if f.ty = 8 ∧ f.xty = 0 then
    redEnd (t.fpMode f.fpc) vs (foldF32 (t.fpMode f.fpc) vs (redF32 (t.fpMode f.fpc) f.op.toNat))
  else foldRed vs fun a b => (redInt (tySigned f.xty f.ty) w f.op.toNat a b, {})

/-- VSCAN (R188). -/
def execVscan (f : Std) (s : State) : Host.Outcome State Fault Refusal :=
  run s fun t => do
    let w := tyBits f.xty f.ty
    t.canWrite f.dst.toNat (regsOf w)
    t.canRead f.a (regsOf w)
    done s ((t.put f.dst.toNat (regsOf w) (tySigned f.xty f.ty) w fun i => (t.vscan f i).1).raise
      (flagsOf t.active fun i => (t.vscan f i).2))

end Sys2Proof.Machine
end

