-- ==== Sys2Proof/Machine/Control.lean ====
section
/-!
DEFINITION. The control instructions 0x00 to 0x0F: branches, calls, exceptions, special registers, LAUNCH and ALLOC
(R150 to R165), and the grants that ALLOC waits for.
-/

namespace Sys2Proof.Machine

/-! ### Branches (R150 to R153) -/

/-- The target of a branch (R112). -/
def brTarget (pc : Nat) (f : Br) : Nat :=
  (lineOf pc + extend true 22 58 f.lofs.toNat * 64 + 12 * f.tslot.toNat) % 2 ^ 64

/-- Branches, or goes on. -/
def branchIf (s : State) (t : Thread) (c : Bool) (f : Br) : Except Ev (State × Thread) :=
  if c then doneAt s t (brTarget t.at_ f) else done s t

/-- BR (R151). -/
def execBr (f : Br) (s : State) : Host.Outcome State Fault Refusal := run s fun t => branchIf s t true f

/-- The CC test of a condition code (R112). -/
def ccTest (cc : BitVec 5) (cond : Nat) : Bool :=
  let flag := match cond / 2 with
    | 0 => cc.getLsbD 0
    | 1 => cc.getLsbD 1
    | 2 => cc.getLsbD 2
    | 3 => cc.getLsbD 3
    | _ => cc.getLsbD 4
  if cond % 2 = 0 then flag else !flag

/-- BRC (R151). -/
def execBrc (f : Br) (s : State) : Host.Outcome State Fault Refusal :=
  run s fun t => branchIf s t (ccTest t.regs.cc f.cond.toNat) f

/-- The test of a mask: sense 0 branches on zero, 1 on non-zero (R112). -/
def maskTest (m : BitVec 64) (cond : BitVec 4) : Bool := if cond.getLsbD 3 then m != 0 else m == 0

/-- BRM on M0 to M7 (R151). -/
def execBrm (f : Br) (s : State) : Host.Outcome State Fault Refusal :=
  run s fun t => branchIf s t (maskTest (t.trim (t.mask (f.cond.toNat % 8))) f.cond) f

/-- BRM.EM (R151). -/
def execBrmEm (f : Br) (s : State) : Host.Outcome State Fault Refusal :=
  run s fun t => branchIf s t (maskTest (t.trim t.regs.em) f.cond) f

/-- The stack stores of CALL in every lane (R152). -/
def callStores (t : Thread) (ret : Nat) : Memory :=
  t.all.foldl (fun m i => (Store.putNat m (4096 * i + t.regs.stkp - 16) 8 ret).putNat
    (4096 * i + t.regs.stkp - 8) 8 0) t.stack

/-- CALL (R152). -/
def execCall (f : Br) (s : State) : Host.Outcome State Fault Refusal :=
  run s fun t =>
    if t.regs.stkp < 16 then .error (holeTrap .store ((baseStack + t.regs.stkp + 2 ^ 64 - 16) % 2 ^ 64))
    else do
      t.quiet
      let t' := { t with stack := callStores t (nextPc t.at_), regs := { t.regs with stkp := t.regs.stkp - 16 } }
      doneAt s t' (brTarget t.at_ f)

/-- An offset within a line starts a slot (R152, R159). -/
def startsSlot (a : Nat) : Bool := [0, 12, 24, 36, 48].contains (a % 64)

/-- RET (R152). -/
def execRet (_ : Std) (s : State) : Host.Outcome State Fault Refusal :=
  run s fun t => do
    t.quiet
    let k := (s.hdrOf t).kstk * 16
    let va := (baseStack + t.regs.stkp) % 2 ^ 64
    if k < t.regs.stkp + 16 then .error (holeTrap .load va)
    else if s.localPoison t (.stack 0 t.regs.stkp) then .error (.trap { cls := 8, addr := va })
    else
      let a := t.stack.getNat t.regs.stkp 8
      if !startsSlot a then .error (illegal 3)
      else doneAt s { t with regs := { t.regs with stkp := t.regs.stkp + 16 } } a

/-- The counter of LOOP: a G register, on the MCC S0 to S15 (R153). -/
def Thread.counter (t : Thread) (k : Nat) : W64 := if t.side = .mcc then t.regs.s.get k else t.regs.g.get k

/-- LOOP (R153). -/
def execLoop (f : Br) (s : State) : Host.Outcome State Fault Refusal :=
  run s fun t => do
    t.canReadG f.cnt.toNat
    let v := t.counter f.cnt.toNat - 1
    let t' := if t.side = .mcc then { t with regs := t.regs.writeS f.cnt.toNat v }
      else { t with regs := t.regs.writeG f.cnt.toNat v }
    if v = 0 then done s t' else doneAt s t' (brTarget t.at_ f)

/-! ### Group control (R154 to R156) -/

/-- NOP (R154). -/
def execNop (_ : Std) (s : State) : Host.Outcome State Fault Refusal := run s fun t => done s t

/-- YIELD: it only offers an issue slot (R154). -/
def execYield (_ : Std) (s : State) : Host.Outcome State Fault Refusal := run s fun t => done s t

/-- The grid barrier when a wide-side group of the launch exits: a phase in which groups have arrived may complete; one with no
arrival does not, as after the last exit of R449 (R378). -/
def Bar.leave (b : Bar) : Bar :=
  let b := { b with expa := b.expa - 1, arre := b.arre - 1 }
  if b.arr = 0 then b else b.add {}

/-- An exit of a wide-side group changes the launch's grid barrier (R378). -/
def State.gridLeave (s : State) (t : Thread) : State :=
  if t.side = .wide then
    { s with launches := s.launches.upd (s.wgOf t).launch fun l => { l with grid := l.grid.map Bar.leave } }
  else s

/-- A group that has ended: its extended blocks go back and results still due are discarded; its queries run on (R154, R440,
R441). -/
def Thread.ended (t : Thread) : Thread :=
  { t with status := .exited, prods := t.prods.filter fun p => (t.queries.get? p.1).isSome, line := none
           handler := false, due := []
           regs := { t.regs with extb := 0, ve := [], ge := [] } }

/-- EXIT (R154, R243, R378, R440). -/
def execExit (_ : Std) (s : State) : Host.Outcome State Fault Refusal :=
  run s fun t => do
    t.quiet
    .ok ((((s.counted t).gridLeave t).putThread s.cur t.ended).groupEnded t.wg t.due, t.ended)

/-- TRAP (R155). -/
def execTrap (f : Std) (s : State) : Host.Outcome State Fault Refusal :=
  run s fun _ => .error (.trap { cls := 0x0D, info := f.xt.toNat })

/-- SVC (R155). -/
def execSvc (f : Std) (s : State) : Host.Outcome State Fault Refusal :=
  run s fun _ => .error (.trap { cls := 0x0E, info := f.xt.toNat })

/-- SRET and SRET.SKIP (R156, R408). -/
def execSret (f : Std) (s : State) : Host.Outcome State Fault Refusal :=
  run s fun t =>
    if !t.handler then .error (illegal 0)
    else do
      t.quiet
      .ok (s.counted t, t.leaveHandler (if f.xt.getLsbD 0 then nextPc t.tpc.toNat else t.tpc.toNat))

/-! ### Special registers (R157 to R159) -/

/-- ROLE's code (R158). -/
def Role.code : Role → Nat
  | .any => 0
  | .copy => 1
  | .matrix => 2
  | .vector => 3

/-- The value of a special register in a lane (R158). -/
def State.special (s : State) (t : Thread) (n lane : Nat) : Nat :=
  let g := s.wgOf t
  let p := s.partOf t
  match n with
  | 0x00 => (s.hdrOf t).wid t.gidx g.ord (if t.side = .mcc then 0 else lane)
  | 0x01 => if t.side = .mcc then 0 else lane
  | 0x02 => t.gidx
  | 0x03 => g.ord
  | 0x04 => t.role.code
  | 0x05 => if t.side = .mcc then 1 else t.width
  | 0x06 => g.core
  | 0x07 => g.core / 4
  | 0x08 => g.die
  | 0x09 => s.pkg
  | 0x0A => p
  | 0x0B => t.regs.extb
  | 0x0C => t.regs.stkp
  | 0x10 => s.clock.toNat
  | 0x11 => s.time.toNat
  | 0x20 => (s.leaseOf p).toNat
  | 0x21 => t.tcause.toNat
  | 0x22 => t.tpc.toNat
  | 0x23 => t.taddr.toNat
  | 0x24 => t.tinfo.toNat
  | 0x25 => (s.hr (0x460 + 8 * p)).toNat
  | 0x26 => t.tpte.toNat
  | 0x27 => (s.hr (0x480 + 8 * p)).toNat
  | _ => 0

/-- A special register that only the handler reads (R159). -/
def supervisorSr (n : Nat) : Bool := decide (0x21 ≤ n ∧ n ≤ 0x27)

/-- A special register has a value for each lane: WID and LANE (R158). -/
def perLane (n : Nat) : Bool := decide (n < 2)

/-- RDSR (R157 to R159). A G register takes a group's special register whatever EM holds, and a per-lane one from the lowest lane in
EM, so that it is left where EM is zero (R136, R158, log 19). -/
def execRdsr (f : Std) (s : State) : Host.Outcome State Fault Refusal :=
  run s fun t => do
    let n := f.xt.toNat % 256
    if supervisorSr n && !t.handler then .error (illegal 0)
    else if !srKnown t.side n then .error rsv
    else
      let w := tyBits' f.ty
      t.canWrite f.dst.toNat (regsOf w)
      if perLane n ∨ f.dst.toNat < 128 ∨ t.side = .mcc then
        done s (t.put f.dst.toNat (regsOf w) false w fun i => s.special t n i % 2 ^ w)
      else done s (t.putG f.dst.toNat (BitVec.ofNat 64 (s.special t n 0)))
where
  /-- Z32 or Z64. -/
  tyBits' (ty : BitVec 4) : Nat := if ty = 6 then 32 else 64

/-- Writes a special register (R152, R158, R159, R394). -/
def State.writeSpecial (s : State) (t : Thread) (n v : Nat) : Except Ev (State × Thread) :=
  match n with
  | 0x0C =>
    if v % 16 ≠ 0 ∨ (s.hdrOf t).kstk * 16 < v then .error rsv
    else .ok (s, { t with regs := { t.regs with stkp := v } })
  | 0x20 =>
    if fld v 40 24 ≠ 0 ∨ fld v 20 12 ≠ 0 then .error rsv
    else .ok ({ s with lease := s.lease.put (s.partOf t) (BitVec.ofNat 64 v) }, t)
  | 0x22 => if startsSlot v then .ok (s, { t with tpc := BitVec.ofNat 64 v }) else .error rsv
  | _ => .error rsv

/-- WRSR (R157 to R159). -/
def execWrsr (f : Std) (s : State) : Host.Outcome State Fault Refusal :=
  run s fun t => do
    let n := f.xt.toNat % 256
    let w := if f.ty = 6 then 32 else 64
    if (n = 0x20 ∨ n = 0x22) ∧ !t.handler then .error (illegal 0)
    else if !srWritable n then .error rsv
    else
      t.quiet
      t.canRead f.a (regsOf w)
      match t.active with
      | [] => done s t
      | i :: _ =>
        let r ← s.writeSpecial t n (t.opnd f.a (regsOf w) w i)
        done r.1 r.2

/-! ### LAUNCH (R160, R161) -/

/-- The dies of a partition, in increasing number (R84). -/
def State.diesOf (s : State) (part : Nat) : List Nat :=
  (List.range 4).filter fun d => fld (s.hr 0x140).toNat (2 * d) 2 == part

/-- The entries of a partition's device-side launch queue (R77). -/
def State.deviceDepth (s : State) (part : Nat) : Nat :=
  ((s.diesOf part).map fun d => (s.dies.getD d {}).part.length).foldl (· + ·) 0

/-- LAUNCH (R160). -/
def execLaunch (f : Eng) (s : State) : Host.Outcome State Fault Refusal :=
  run s fun t => do
    t.quiet
    t.canRead f.a 1
    let a := t.uni f.a
    if a % 128 ≠ 0 then .error (alignTrap .load a)
    else if (aperture a).1 = .lane ∨ (aperture a).1 = .pantry then .error (holeTrap .load a)
    else
      let r ← s.loadWords t a 16
      let s' := r.2.1
      let t' := r.2.2
      let full := decide (4096 ≤ s'.deviceDepth (s'.partOf t'))
      let s'' := if full then s'
        else s'.updDie (s'.wgOf t').die fun d =>
          { d with part := d.part ++ [(toBytes r.1 128, (s'.launchOf t').prio)] }
      let st := bit full
      done s'' ((t'.putG f.dst.toNat (BitVec.ofNat 64 st)).setCC { z := st == 0, t := st == 1 })

/-! ### ALLOC (R162 to R165) -/

/-- The full allotment is empty (R163). -/
def Header.noFull (h : Header) : Bool :=
  h.fscr == 0 && h.fparl == 0 && h.flane == 0 && h.fatt == 0 && h.facc == 0

/-- The byte offset of a ring in the workgroup's scratchpad (R34). -/
def Header.ringAt (h : Header) (k : Nat) : Nat :=
  (h.rings.take k).foldl (fun o r => (o + 255) / 256 * 256 + (r.slots + 1) * (r.size * 64)) (4096 * h.groups) |>
    fun o => (o + 255) / 256 * 256

/-- The state of a workgroup when its full allotment is granted (R163, R367, R379). The pages that it grants whole are pinned
and read as zero without a refill; their lines are changed ones of R213. -/
def Wg.grant (g : Wg) (h : Header) : Wg :=
  let lo := 4096 * h.groups
  let hi := lo + 4096 * h.fscr
  let pages := g.pinned ++ (List.range ((hi + 16383) / 16384)).filter fun p =>
    decide (lo ≤ 16384 * p) && !g.pinned.contains p
  let backing := h.rings.flatMap fun r => (List.range (r.slots + 1)).map (r.nbase + ·)
  { g with
    full := true
    scr := g.scr.clear lo hi
    pinned := pages
    dirty := g.dirty ++ (linesOf lo (hi - lo)).filter fun l => pages.contains (l / 128) && !g.dirty.contains l
    attic := []
    tiles := (List.range h.facc).map fun k => (k, {})
    accOf := false
    accNv := false
    accPz := false
    bars := backing.foldl (fun m b => m.put b .fresh) g.bars
    cursors := [] }

/-- The lane slices of a workgroup's groups read as zero (R163), its blocked groups go on. -/
def Thread.granted (t : Thread) : Thread :=
  let t := { t with slice := [] }
  if t.status = .allocFull then ({ t with status := .running }).advance else t

/-- A page that a full allotment only begins in, and that is unpinned, has the granted part zeroed at its backing (R163,
R213). -/
def State.grantPart (s : State) (g : Wg) (h : Header) : State :=
  let lo := 4096 * h.groups
  let n := min (4096 * h.fscr) ((16384 - lo % 16384) % 16384)
  if n = 0 ∨ g.pinned.contains (lo / 16384) then s else s.porchStore (g.backing + lo) (List.replicate n 0)

/-- Grants the full allotment of a workgroup (R163). -/
def State.grantFull (s : State) (id : Nat) : State :=
  let g := s.wgs.getD id .absent
  let h := (s.launches.getD g.launch .absent).hdr
  let s1 := (s.grantPart g h).updWg id fun g => g.grant h
  let s2 := { s1 with
    units := s1.units.upd g.unit_ fun u => { u with granted := u.granted ++ [g.ord]
                                                    mem := if h.fparl = 0 then u.mem
                                                      else u.mem.clear (g.ord % h.unitSize * (h.fparl * 4096))
                                                        ((g.ord % h.unitSize + 1) * (h.fparl * 4096)) } }
  { s2 with threads := s2.threads.map fun e =>
      if e.2.wg = id ∧ e.2.side ≠ .cellar then (e.1, e.2.granted) else e }

/-- ALLOC.FULL (R163). -/
def execAllocFull (_ : Std) (s : State) : Host.Outcome State Fault Refusal :=
  run s fun t => do
    t.quiet
    if (s.wgOf t).full then done s t
    else if (s.hdrOf t).noFull then
      let s' := s.grantFull t.wg
      done s' { t with slice := [] }
    else blocks (s.updWg t.wg fun g => { g with asked := true }) { t with status := .allocFull }

/-- Event ALLOC_FULL_GRANT: the reserved resources have been released by their earlier holders (R163). -/
def execAllocFullGrant (wg : Nat) (s : State) : Host.Outcome State Fault Refusal :=
  match s.wgs.get? wg with
  | none => notEnabled
  | some g => when (g.asked && !g.full) (s.grantFull wg)

/-- The workgroups resident on a core. -/
def State.wgsOn (s : State) (key : Nat) : List Wg := s.wgs.vals.filter fun g => coreKey g.die g.core == key

/-- Bytes of register storage a group's base takes (R79). -/
def Header.baseRegs (h : Header) : Nat := (h.copyn + h.vecn) * (128 * (8 * 2 ^ h.widthCode) + 256)

/-- Bytes of one extended block (R79). -/
def Header.blockBytes (h : Header) : Nat := 64 * (8 * 2 ^ h.widthCode)

/-- Bytes of extended blocks that the groups of a core hold. -/
def State.extHeld (s : State) (key : Nat) : Nat :=
  ((s.threads.vals.filter fun t => t.side == .wide && s.coreOf t == key).map fun t =>
    t.regs.extb * (s.hdrOf t).blockBytes).foldl (· + ·) 0

/-- Bytes of a core's extended pool: the register storage not taken as base storage (R164). -/
def State.extPool (s : State) (key : Nat) : Nat :=
  524288 - ((s.wgsOn key).map fun g => (s.launchOfWg g).hdr.baseRegs).foldl (· + ·) 0

/-- The pool has `n` free blocks for a group (R164). -/
def State.extFits (s : State) (t : Thread) (n : Nat) : Bool :=
  decide (s.extHeld (s.coreOf t) + n * (s.hdrOf t).blockBytes ≤ s.extPool (s.coreOf t))

/-- Takes `n` more blocks, which read zero and full (R134, R164). -/
def Regs.takeBlocks (r : Regs) (n : Nat) : Regs :=
  let lo := 32 + 16 * r.extb
  { r with v := r.v.clear (64 * lo) (64 * (lo + 16 * n)), ve := takeOver r.ve lo (16 * n), extb := r.extb + n }

/-- Returns the top `n` blocks, whose contents are lost (R134, R164). -/
def Regs.dropBlocks (r : Regs) (n : Nat) : Regs :=
  let lo := 32 + 16 * (r.extb - n)
  { r with v := r.v.clear (64 * lo) (64 * (lo + 16 * n)), ve := takeOver r.ve lo (16 * n), extb := r.extb - n }

/-- ALLOC.REXT (R164): at once when no request waits before it and the pool has the blocks. -/
def execAllocRext (f : Std) (s : State) : Host.Outcome State Fault Refusal :=
  run s fun t => do
    t.quiet
    let n := f.xt.toNat % 8
    if t.side = .mcc ∨ (s.hdrOf t).rext < t.regs.extb + n then .error rsv
    else if (s.cores.getD (s.coreOf t) {}).rextQ.isEmpty && s.extFits t n then
      done s { t with regs := t.regs.takeBlocks n }
    else
      blocks (s.updCore (s.coreOf t) fun c => { c with rextQ := c.rextQ ++ [s.cur] }) { t with status := .rext n }

/-- ALLOC.RREL (R164). -/
def execAllocRrel (f : Std) (s : State) : Host.Outcome State Fault Refusal :=
  run s fun t => do
    t.quiet
    let n := f.xt.toNat % 8
    if t.side = .mcc ∨ t.regs.extb < n then .error rsv
    else done s { t with regs := t.regs.dropBlocks n }

/-- Event REXT_GRANT: the oldest request of a core is granted when the pool has its blocks (R164). -/
def execRextGrant (core : Nat) (s : State) : Host.Outcome State Fault Refusal :=
  match (s.cores.getD core {}).rextQ with
  | [] => notEnabled
  | tid :: rest =>
    match s.threads.get? tid with
    | none => .next (s.updCore core fun c => { c with rextQ := rest })
    | some t =>
      match t.status with
      | .rext n =>
        if s.extFits t n then
          let s' := s.updCore core fun c => { c with rextQ := rest }
          .next (s'.putThread tid ({ t with status := .running, regs := t.regs.takeBlocks n }).advance)
        else notEnabled
      | _ => .next (s.updCore core fun c => { c with rextQ := rest })

end Sys2Proof.Machine
end

