-- ==== Sys2Proof/Machine/Mask.lean ====
section
/-!
DEFINITION. The mask and group-wide instructions 0x30 to 0x3D and the mode instructions SETFMT to SETFPM (R138, R182 to
R190, R205). VRED and VSCAN stand with floating point.
-/

namespace Sys2Proof.Machine

/-- MSET (R182). -/
def execMset (f : Std) (s : State) : Host.Outcome State Fault Refusal :=
  run s fun t => do
    t.canRead f.a 1
    done s (t.setMask f.dst.toNat (BitVec.ofNat 64 (t.uni f.a)))

/-- The OP of MLOG (R122, R182). -/
def maskOp (op : Nat) (a b : BitVec 64) : BitVec 64 :=
  match op with
  | 0 => a &&& b
  | 1 => a ||| b
  | 2 => a ^^^ b
  | 3 => a &&& ~~~b
  | _ => ~~~a

/-- MLOG (R182). -/
def execMlog (f : Std) (s : State) : Host.Outcome State Fault Refusal :=
  run s fun t =>
    let r := t.trim (maskOp f.op.toNat (t.mask f.a.reg.toNat) (t.mask f.b.reg.toNat))
    done s ((t.setMask f.dst.toNat r).setCC (maskFlags r t.regs.em))

/-- The entries of the mask stack (R138). -/
def Thread.stackLimit (t : Thread) : Nat := if t.side = .cellar then 4 else 8

/-- A MASK trap (R138, R404). -/
def maskTrap (t : Thread) : Ev := .trap { cls := 3, info := t.regs.depth }

/-- MIF (R138). -/
def execMif (f : Std) (s : State) : Host.Outcome State Fault Refusal :=
  run s fun t =>
    let r := t.regs
    if r.depth = t.stackLimit then .error (maskTrap t)
    else
      done s { t with regs := { r with
        stkEm := r.stkEm.set r.depth r.em
        stkFmt := r.stkFmt.set r.depth r.fmt
        depth := r.depth + 1
        em := r.em &&& t.mask f.a.reg.toNat } }

/-- MELSE (R138). -/
def execMelse (_ : Std) (s : State) : Host.Outcome State Fault Refusal :=
  run s fun t =>
    let r := t.regs
    if r.depth = 0 then .error (maskTrap t)
    else
      done s { t with regs := { r with
        em := r.stkEm.get (r.depth - 1) &&& ~~~r.em
        fmt := r.stkFmt.get (r.depth - 1) } }

/-- MEND (R138). -/
def execMend (_ : Std) (s : State) : Host.Outcome State Fault Refusal :=
  run s fun t =>
    let r := t.regs
    if r.depth = 0 then .error (maskTrap t)
    else
      done s { t with regs := { r with
        em := r.stkEm.get (r.depth - 1)
        fmt := r.stkFmt.get (r.depth - 1)
        depth := r.depth - 1 } }

/-- The mask-state record, with reserved bits of FMT as zeros (R5, R57, R184). -/
def maskRecord (r : Regs) : Nat :=
  r.em.toNat + (fmtRead r.fmt).toNat * 2 ^ 64 + r.depth * 2 ^ 128 +
    ((List.range r.depth).map fun k =>
      (r.stkEm.get k).toNat * 2 ^ (256 + 128 * k) + (fmtRead (r.stkFmt.get k)).toNat * 2 ^ (320 + 128 * k)).foldl (· + ·) 0

/-- MSAVE (R183). -/
def execMsave (f : Std) (s : State) : Host.Outcome State Fault Refusal :=
  run s fun t => do
    t.canRead f.a 1
    let a := t.uni f.a
    if a % 32 ≠ 0 then .error (alignTrap .store a)
    else if (aperture a).1 = .lane ∨ (aperture a).1 = .pantry then .error (holeTrap .store a)
    else
      let ps ← s.resolveAll t .store 8 true ((List.range 20).map fun j => (0, (a + 8 * j) % 2 ^ 64))
      let w := maskRecord t.regs
      let r ← s.storeAll t 1024 8 (ps.zipIdx.map fun p => (p.1.1, p.1.2.1, p.1.2.2, toBytes (fld w (64 * p.2) 64) 8))
      done r.1 r.2

/-- MLOAD (R183). -/
def execMload (f : Std) (s : State) : Host.Outcome State Fault Refusal :=
  run s fun t => do
    t.canRead f.a 1
    let a := t.uni f.a
    if a % 32 ≠ 0 then .error (alignTrap .load a)
    else if (aperture a).1 = .lane ∨ (aperture a).1 = .pantry then .error (holeTrap .load a)
    else
      let r ← s.loadWords t a 20
      let w := r.1
      let t' := r.2.2
      let d := fld w 128 4
      if 8 < d then .error (maskTrap t)
      else
        let rg := t'.regs
        done r.2.1 { t' with regs := { rg with
          em := t.trim (BitVec.ofNat 64 (fld w 0 64))
          fmt := BitVec.ofNat 64 (fld w 64 64)
          depth := d
          stkEm := (List.range d).foldl (fun m k =>
            m.set k (t.trim (BitVec.ofNat 64 (fld w (256 + 128 * k) 64)))) rg.stkEm
          stkFmt := (List.range d).foldl (fun m k => m.set k (BitVec.ofNat 64 (fld w (320 + 128 * k) 64))) rg.stkFmt } }

/-- MSTAT (R182). -/
def execMstat (f : Std) (s : State) : Host.Outcome State Fault Refusal :=
  run s fun t =>
    let v : BitVec 64 := match f.xt.toNat with
      | 0 => BitVec.ofNat 64 t.regs.depth
      | 1 => t.mask f.a.reg.toNat
      | _ => if t.regs.depth = 0 then 0 else t.regs.stkEm.get (t.regs.depth - 1)
    done s (t.putG f.dst.toNat v)

/-- MPOPC (R182). -/
def execMpopc (f : Std) (s : State) : Host.Outcome State Fault Refusal :=
  run s fun t =>
    let m := t.mask f.a.reg.toNat
    done s ((t.putG f.dst.toNat (BitVec.ofNat 64 (popcount m.toNat 64))).setCC { z := m == 0 })

/-- The index of the lowest one among `n` bits, or `n`. -/
def lowest (v n : Nat) : Nat := ((List.range n).find? fun i => tb v i).getD n

/-- MFIRST (R182). -/
def execMfirst (f : Std) (s : State) : Host.Outcome State Fault Refusal :=
  run s fun t =>
    let m := t.mask f.a.reg.toNat
    done s ((t.putG f.dst.toNat (BitVec.ofNat 64 (lowest m.toNat 64))).setCC { z := m == 0 })

/-- BALLOT (R185). -/
def execBallot (f : Std) (s : State) : Host.Outcome State Fault Refusal :=
  run s fun t => do
    let w := tyBits f.xty f.ty
    t.canRead f.a (regsOf w)
    let m := t.laneMaskOf fun i => t.opnd f.a (regsOf w) w i != 0
    done s ((t.setMask f.dst.toNat m).setCC (maskFlags m t.regs.em))

/-- BCNT (R185). -/
def execBcnt (f : Std) (s : State) : Host.Outcome State Fault Refusal :=
  run s fun t => do
    t.canWrite f.dst.toNat 1
    let m := (t.mask f.a.reg.toNat).toNat
    done s (t.put f.dst.toNat 1 false 32 fun i => popcount m (if f.xt.getLsbD 0 then i + 1 else i))

/-- What RSEL leaves: candidates, selected, k (R190). -/
structure Sel where
  c : BitVec 64
  sel : BitVec 64
  k : Nat

/-- The number of ones in a mask. -/
def ones (m : BitVec 64) : Nat := popcount m.toNat 64

/-- The step form of RSEL, given the candidates whose key bit is 1 (R190). -/
def selStep (c sel : BitVec 64) (k : Nat) (one : BitVec 64) : Sel :=
  if ones one ≤ k then { c := c &&& ~~~one, sel := sel ||| one, k := k - ones one }
  else { c := one, sel := sel, k := k }

/-- The `k` lowest ones of a mask. -/
def lowestOnes (c : BitVec 64) (k : Nat) : BitVec 64 := laneMask (((List.range 64).filter fun i => c.getLsbD i).take k)

/-- The TIE form of RSEL (R190). -/
def selTie (c sel : BitVec 64) (k : Nat) : Sel :=
  let take := lowestOnes c k
  { c := 0, sel := sel ||| take, k := k - ones take }

/-- What RSEL writes (R190). -/
def Thread.writeSel (t : Thread) (f : Std) (r : Sel) : Thread :=
  let c := if r.k = 0 then 0 else r.c
  (((t.setMask (f.xt.toNat % 8) c).setMask (f.xt.toNat / 8 % 8) r.sel).putG f.dst.toNat (BitVec.ofNat 64 r.k)).setCC
    { z := r.k == 0, t := ones c == r.k }

/-- RSEL (R189, R190). -/
def execRsel (f : Std) (s : State) : Host.Outcome State Fault Refusal :=
  run s fun t => do
    let w := tyBits f.xty f.ty
    t.canRead f.a (regsOf w)
    t.canRead f.b 1
    t.canRead f.c 1
    let c := t.mask (f.xt.toNat % 8) &&& t.regs.em
    let b := t.uni f.b % 64
    let one := c &&& laneMask (t.all.filter fun i => decide (b < w) && tb (t.opnd f.a (regsOf w) w i) b)
    done s (t.writeSel f (selStep c (t.mask (f.xt.toNat / 8 % 8)) (t.uni f.c) one))

/-- RSEL.TIE (R189, R190). -/
def execRselTie (f : Std) (s : State) : Host.Outcome State Fault Refusal :=
  run s fun t => do
    t.canRead f.c 1
    done s (t.writeSel f (selTie (t.mask (f.xt.toNat % 8) &&& t.regs.em) (t.mask (f.xt.toNat / 8 % 8)) (t.uni f.c)))

/-- VSHFL (R186). -/
def execVshfl (f : Std) (s : State) : Host.Outcome State Fault Refusal :=
  run s fun t => do
    let w := tyBits f.xty f.ty
    t.canWrite f.dst.toNat (regsOf w)
    t.canRead f.a (regsOf w)
    t.canRead f.b 1
    done s (t.put f.dst.toNat (regsOf w) false w fun i =>
      t.opnd f.a (regsOf w) w (t.opnd f.b 1 32 i % t.width))

/-! ### Modes (R205) -/

/-- SETFMT (R59, R205). -/
def execSetfmt (f : Std) (s : State) : Host.Outcome State Fault Refusal :=
  run s fun t => do
    t.canRead f.a 1
    done s { t with regs := { t.regs with fmt := BitVec.ofNat 64 (t.uni f.a) } }

/-- GETFMT (R57, R205). -/
def execGetfmt (f : Std) (s : State) : Host.Outcome State Fault Refusal :=
  run s fun t => done s (t.putG f.dst.toNat (fmtRead t.regs.fmt))

/-- FSTAT (R61, R205). -/
def execFstat (f : Std) (s : State) : Host.Outcome State Fault Refusal :=
  run s fun t =>
    let t' := t.putG f.dst.toNat (t.regs.fpm.setWidth 64)
    done s (if f.xt.getLsbD 0 then t'
      else { t' with regs := { t'.regs with fpm := t'.regs.fpm &&& 0xFFFFE0FF } })

/-- SETFPM (R61, R205). -/
def execSetfpm (f : Std) (s : State) : Host.Outcome State Fault Refusal :=
  run s fun t => do
    t.canRead f.a 1
    let v := t.uni f.a
    if fld v 6 2 = 3 then .error rsv
    else done s { t with regs := { t.regs with
      fpm := (t.regs.fpm &&& 0xFFFFFF03) ||| BitVec.ofNat 32 (fld v 2 6 * 4) } }

end Sys2Proof.Machine
end

