-- ==== Sys2Proof/Machine/Memory.lean ====
section
/-!
DEFINITION. The memory class 0x70 to 0x77 (R225 to R232), scratchpad pages (R213, R214), page walks (R220) and the fetch
of lines (R100, R105).
-/

namespace Sys2Proof.Machine

/-! ### Loads -/

/-- The lane-wise loads LD and LDNT (R225 to R228). From the lane slice and the scratchpad they are interlocked, and stall
behind a remote access (R139, R278). -/
def loadLanes (f : Mem) (s : State) : Host.Outcome State Fault Refusal :=
  run s fun t => do
    let w := tyBits f.xty f.ty
    let n := regsOf w
    t.canWrite f.dst.toNat n
    t.canAddr f
    if t.active.isEmpty then done s t
    else
      let ps ← s.resolveAll t .load (w / 8) false (t.active.map fun i => (i, t.memAddr f i))
      if s.anyWaits t (w / 8) ps then .error (s.held t (w / 8) (ps.map (·.2.2)))
      else if ps.all fun p => p.2.2.interlocked then do
        t.quiet
        let r := s.loadPlaces t (w / 8) ps
        let vals := r.1.map fun v => (v.1, loadVal (tySigned f.xty f.ty) w (32 * n) v.2)
        done r.2.1 (r.2.2.put f.dst.toNat n false (32 * n) fun i => ((vals.find? fun v => v.1 == i).map (·.2)).getD 0)
      else do
        let q ← s.loadInto t false f.dst.toNat n (tyWord 0 f.ty.toNat f.xty.toNat) (w / 8) ps
        done q.1 q.2

/-- LD (R225 to R227). -/
def execLd (f : Mem) (s : State) : Host.Outcome State Fault Refusal := loadLanes f s

/-- LDNT: its hint changes only where a line is cached (R230). -/
def execLdnt (f : Mem) (s : State) : Host.Outcome State Fault Refusal := loadLanes f s

/-- LDU: one access for the group; its destination shows empty in every space (R229). -/
def execLdu (f : Mem) (s : State) : Host.Outcome State Fault Refusal :=
  run s fun t => do
    let n := tyBits f.xty f.ty / 8
    t.canAddr f
    let ps ← s.resolveAll t .load n true [(0, t.memAddr f 0)]
    if s.anyWaits t n ps then .error (s.held t n (ps.map (·.2.2)))
    else do
      let q ← s.loadInto t true (f.dst.toNat % 128) 1 (1024 + tyWord 0 f.ty.toNat f.xty.toNat) n ps
      done q.1 q.2

/-- Event LOAD_COMPLETE: a load's values stand in its destination (R139). -/
def execLoadComplete (tid pid : Nat) (s : State) : Host.Outcome State Fault Refusal := completeProducer tid pid s

/-! ### Stores -/

/-- The lane-wise stores ST and STNT (R226, R228). -/
def storeLanes (f : Mem) (s : State) : Host.Outcome State Fault Refusal :=
  run s fun t => do
    let w := tyBits f.xty f.ty
    t.canRead f.a (regsOf w)
    t.canAddr f
    if t.active.isEmpty then done s t
    else
      let ps ← s.resolveAll t .store (w / 8) false (t.active.map fun i => (i, t.memAddr f i))
      let r ← s.storeAll t 0 (w / 8)
        (ps.map fun p => (p.1, p.2.1, p.2.2, toBytes (t.opnd f.a (regsOf w) w p.1) (w / 8)))
      done r.1 r.2

/-- ST (R225, R226, R228). -/
def execSt (f : Mem) (s : State) : Host.Outcome State Fault Refusal := storeLanes f s

/-- STNT (R230). -/
def execStnt (f : Mem) (s : State) : Host.Outcome State Fault Refusal := storeLanes f s

/-- STU (R229). -/
def execStu (f : Mem) (s : State) : Host.Outcome State Fault Refusal :=
  run s fun t => do
    let w := tyBits f.xty f.ty
    t.canRead f.a 1
    t.canAddr f
    let ps ← s.resolveAll t .store (w / 8) true [(0, t.memAddr f 0)]
    let r ← s.storeAll t 1024 (w / 8) (ps.map fun p => (p.1, p.2.1, p.2.2, toBytes (t.opnd f.a 1 w 0) (w / 8)))
    done r.1 r.2

/-- A register that an operand names and that WT = 1 blocks on while it is empty; with WT = 0 PREF does not trap
(R231). -/
def Thread.prefWaits (t : Thread) (f : Mem) : Bool :=
  let e := match f.ix.pat.toNat with
    | 5 => firstEmpty t.regs.ge f.ix.q.toNat 1
    | 6 => none
    | _ => firstEmpty t.regs.ve f.ix.reg.toNat 1
  (firstEmpty t.regs.ge f.gb.toNat 1).isSome || (f.ix.wt == 1 && e.isSome)

/-- PREF: it changes only what caches hold (R231, log 42). -/
def execPref (f : Mem) (s : State) : Host.Outcome State Fault Refusal :=
  run s fun t =>
    if f.ix.pat.toNat ≠ 5 ∧ f.ix.pat.toNat ≠ 6 ∧ !t.vHeld f.ix.reg.toNat 1 then .error rsv
    else if t.prefWaits f then .error .stall
    else done s t

/-! ### Scratchpad pages (R213, R214, R232) -/

/-- Lines of a poison list in `[lo, hi)`, moved by `d` lines. -/
def movePoison (ps : List Nat) (lo hi dest : Nat) : List Nat :=
  (ps.filter fun l => decide (lo ≤ l ∧ l < hi)).map fun l => dest + (l - lo)

/-- The lines of a scratchpad page. -/
def inPage (page l : Nat) : Bool := decide (128 * page ≤ l ∧ l < 128 * page + 128)

/-- Unpins a page: its changed lines and its poison go to the backing region (R213). -/
def State.unpin (s : State) (wg page : Nat) : State :=
  match s.wgs.get? wg with
  | none => s
  | some g =>
    let at_ := g.backing + 16384 * page
    let here := s.forwarded at_
    let s1 := { s with
      poison := if pkgOf here = s.pkg then
          s.poison ++ movePoison g.scrPoison (128 * page) (128 * page + 128) (inPkg here / 128)
        else s.poison
      wgs := s.wgs.put wg { g with
        pinned := g.pinned.filter (· != page)
        dirty := g.dirty.filter fun l => !inPage page l
        scrPoison := g.scrPoison.filter fun l => !inPage page l } }
    (g.dirty.filter (inPage page)).foldl (fun s l =>
      s.porchStore (at_ + 128 * (l - 128 * page)) (g.scr.bytes (128 * l) 128)) s1

/-- The bytes of a backing page as scratchpad bytes; what another package holds is free (log 11). -/
def State.backed (s : State) (at_ page : Nat) : Memory :=
  let here := s.forwarded at_
  if pkgOf here = s.pkg then
    ((s.mem.slice (inPkg here) (inPkg here + 16384)).map fun e => (16384 * page + e.1, e.2))
  else Store.putBytes [] (16384 * page) (s.physBytes at_ 16384)

/-- Pins a page and refills it from the backing region (R213). -/
def State.refill (s : State) (wg page : Nat) : State :=
  match s.wgs.get? wg with
  | none => s
  | some g =>
    let at_ := g.backing + 16384 * page
    let here := s.forwarded at_
    { s with
      wgs := s.wgs.put wg { g with
        scr := (g.scr.clear (16384 * page) (16384 * page + 16384)).sets (s.backed at_ page)
        pinned := g.pinned ++ [page]
        wanted := g.wanted.filter (· != page)
        scrPoison := if pkgOf here = s.pkg then
            g.scrPoison ++ movePoison s.poison (inPkg here / 128) (inPkg here / 128 + 128) (128 * page)
          else g.scrPoison } }

/-- The checks of SPAGE (R232). -/
def State.spageCheck (s : State) (t : Thread) (op o c : Nat) : Except Ev Unit :=
  if o % 16384 ≠ 0 then .error (alignTrap .load o)
  else if c = 0 ∨ (op = 2 ∧ 64 < c) ∨ 80 < c then .error rsv
  else if scrLimit (s.hdrOf t) (s.wgOf t) ≤ o + (c - 1) * 16384 then .error (holeTrap .load o)
  else .ok ⟨⟩

/-- The operands of SPAGE: the first page and the count, checked (R232). -/
def State.spage (s : State) (t : Thread) (f : Eng) (op : Nat) : Except Ev (Nat × Nat) := do
  t.canRead f.a 1
  t.canRead f.b 1
  s.spageCheck t op (t.uni f.a) (t.uni f.b)
  .ok (t.uni f.a / 16384, t.uni f.b)

/-- SPAGE.PIN: the group stalls until the pages are pinned (R232). -/
def execSpagePin (f : Eng) (s : State) : Host.Outcome State Fault Refusal :=
  run s fun t => do
    let p ← s.spage t f 0
    match ((List.range p.2).map (p.1 + ·)).filter fun j => !(s.wgOf t).pinned.contains j with
    | [] => done s t
    | ps => .error (.refill ps)

/-- A place lies in a scratchpad page. -/
def Place.inScrPage (page : Nat) : Place → Bool
  | .scratch o => o / 16384 == page
  | _ => false

/-- The store buffer of a group of a workgroup holds an access to a scratchpad page. -/
def State.bufferedIn (s : State) (wg page : Nat) : Bool :=
  s.threads.any fun e => e.2.wg == wg && e.2.side != .cellar && e.2.pend.any fun p =>
    match p with
    | .access a => a.lanes.any fun l => l.place.inScrPage page
    | .store ws => ws.any fun w => w.1.inScrPage page

/-- SPAGE.UNPIN: a page that a scoreboard entry overlaps, or that an issued access still has to reach, waits (R232). -/
def execSpageUnpin (f : Eng) (s : State) : Host.Outcome State Fault Refusal :=
  run s fun t => do
    let p ← s.spage t f 1
    t.quiet
    if (List.range p.2).any fun j => s.ranged t (16384 * (p.1 + j)) 16384 || s.bufferedIn t.wg (p.1 + j) then
      .error .stall
    else
      done ((List.range p.2).foldl (fun s j =>
        if (s.wgOf t).pinned.contains (p.1 + j) then s.unpin t.wg (p.1 + j) else s) s) t

/-- SPAGE.QUERY (R232). -/
def execSpageQuery (f : Eng) (s : State) : Host.Outcome State Fault Refusal :=
  run s fun t => do
    let p ← s.spage t f 2
    let m := laneMask ((List.range p.2).filter fun j => (s.wgOf t).pinned.contains (p.1 + j))
    done s (t.putG f.dst.toNat m)

/-! ### Page walks (R220) -/

/-- What each waiter of a walk finds: a fault is kept for its next try (R220). -/
def Thread.walked (t : Thread) (page : Nat) : WalkRes → Thread
  | .page .. => t
  | f => { t with walkFaults := t.walkFaults ++ [(page, f)] }

/-- The same for an engine operation. -/
def EngOp.walked (op : EngOp) (page : Nat) : WalkRes → EngOp
  | .page .. => op
  | f => { op with walkFaults := op.walkFaults ++ [(page, f)] }

/-- The same for a row at its home. -/
def GWork.walked (w : GWork) (page : Nat) : WalkRes → GWork
  | .page .. => w
  | f => { w with walkFaults := w.walkFaults ++ [(page, f)] }

/-- The entries that an L1 TLB and the TLB of a die hold at most (R219). -/
def tlbSize (core : Option Nat) : Nat := if core.isSome then 128 else 16384

/-- An entry takes its place in a TLB: it replaces one of the same page, or, where the TLB is full, one of the device's choice
(R219, log 8). -/
def State.tlbAdd (s : State) (e : Option TlbEntry) : State :=
  match e with
  | none => s
  | some e =>
    let same (x : TlbEntry) : Bool :=
      x.die == e.die && x.core == e.core && x.part == e.part &&
        (if e.big then x.page / 32 == e.page / 32 else x.page == e.page)
    let kept := s.tlb.filter fun x => !same x
    let mine := kept.filter fun x => x.die == e.die && x.core == e.core
    let out := if mine.length < tlbSize e.core then none else mine[Config.freeNat s.free 0x71B % mine.length]?
    { s with tlb := (match out with
        | none => kept
        | some x => kept.erase x) ++ [e] }

/-- A core's L1 TLB takes what the TLB of its die holds for a page (R219). -/
def l1Fill (core page : Nat) (s : State) : Host.Outcome State Fault Refusal :=
  match s.tlb.find? fun e => e.core.isNone && e.die == core / 144 && e.holds (s.partOfDie (core / 144)) page with
  | none => notEnabled
  | some e => when (decide (core < 576)) (s.tlbAdd (some { e with core := some core }))

/-- What a walk finds from the entries that it has read, and those of this package that it reads now. -/
def State.walkRes (s : State) (w : Walk) : WalkRes :=
  w.failed.getD (s.walkOn false w.part (w.page * 65536) [] w.got 4)

/-- A walk ends with what it finds: the TLBs of the die and of the cores that wait take a page, and every waiter goes on
(R219, R220). -/
def State.walkDone (s : State) (w : Walk) (r : WalkRes) : State :=
  let e := r.entry w.part w.die w.page
  let cores := (w.waiters.filterMap (fun k => (s.threads.get? k).bind s.tlbCore) ++ w.ops.map (·.1)).eraseDups
  let s1 := cores.foldl (fun s c => s.tlbAdd (e.map fun e => { e with core := some c }))
    (({ s with walks := s.walks.erase w } : State).tlbAdd e)
  { s1 with
    threads := s1.threads.map fun x => if w.waiters.contains x.1 then (x.1, x.2.walked w.page r) else x
    cores := s1.cores.map fun (c : Nat × Core) => (c.1, { c.2 with
      ops := c.2.ops.map fun o => if w.ops.contains (c.1, o.1) then (o.1, o.2.walked w.page r) else o })
    gworks := s1.gworks.map fun x => if w.works.contains x.1 then (x.1, x.2.walked w.page r) else x }

/-- Event PAGE_WALK_COMPLETE: the oldest walk of a partition for a page ends, and every waiter goes on (R220). -/
def execPageWalkComplete (part page : Nat) (s : State) : Host.Outcome State Fault Refusal :=
  match s.walks.find? fun w => w.part == part && w.page == page with
  | none => notEnabled
  | some w =>
    match s.walkRes w with
    | .never => notEnabled
    | .away .. => notEnabled
    | r => .next (s.walkDone w r)

/-- The virtual address whose levels a walk goes through. -/
def Walk.va (w : Walk) : Nat := w.page * 65536

/-- Who waits for a walk's read in another package. -/
def Walk.owner (w : Walk) : Owner := .walk w.part w.die w.page

/-- Changes a walk. -/
def State.updWalk (s : State) (w : Walk) (f : Walk → Walk) : State :=
  { s with walks := s.walks.map fun x => if x = w then f x else x }

/-- The walk has not read the entry that ends it. -/
def State.walkOpen (s : State) (w : Walk) : Bool :=
  w.failed.isNone && decide (w.got.length < 4) &&
    match w.got.getLast? with
    | none => true
    | some e => (pteEnds w.got.dropLast e (s.pteAt w.part w.va w.got.dropLast)).isNone

/-- A walk reads its next entry, an ordinary load of its own; another package is asked for one that lies there (R219, R276,
R390). -/
def walkStep (part page : Nat) (s : State) : Host.Outcome State Fault Refusal :=
  match s.walks.find? fun w => w.part == part && w.page == page with
  | none => notEnabled
  | some w =>
    if !s.walkOpen w ∨ s.waitsAway w.owner then notEnabled
    else
      match s.readPte (s.pteAt w.part w.va w.got) with
      | .val e => .next (s.updWalk w fun w => { w with got := w.got ++ [e] })
      | .away pa hop =>
        .next (s.sendAway { owner := w.owner
                            req := { src := s.pkg, id := 0, kind := 0, op := 0, pa := pa, size := 8, data := []
                                     forwarded := hop } })
      | _ => notEnabled

/-- What another package has answered a walk: an entry, a hole, which counts as one that is not present, poison, or a failure
(R218, R277, R419). -/
def State.walkHeard (s : State) (part die page cls sub home : Nat) (data : List Byte) : State :=
  match s.walks.find? fun w => w.part == part && w.die == die && w.page == page with
  | none => s
  | some w => s.updWalk w fun w =>
    if cls = 0 then { w with got := w.got ++ [ofBytes data] }
    else if cls = 6 then { w with got := w.got ++ [0] }
    else { w with failed := some (if cls = 8 then .poison else .remote sub home) }

/-! ### Fetching a line (R100, R104, R105) -/

/-- What a unit of a line may be fetched as: what it held at admission, and, where the launch has written the line since,
what it has stored there and what stands there now (R105, log 9). -/
def State.fetchValues (s : State) (t : Thread) (a : Nat) : List Nat :=
  let l := s.launchOf t
  let own := l.wrote.filter fun w => w.1 / 4 == a / 64
  l.code.getNat a 16 ::
    if own.isEmpty then [] else (own.filter fun w => w.1 == a / 16).map (·.2 % 2 ^ 128) ++ [s.mem.getNat a 16]

/-- The 16 bytes of a unit of a line as they are fetched: one of those values, which is not defined (R105, log 9). -/
def State.fetchUnit (s : State) (t : Thread) (a : Nat) : Nat :=
  if t.side = .cellar then s.mem.getNat a 16
  else
    match s.fetchValues t a with
    | [v] => v
    | vs => vs.getD (Config.freeNat s.free a % vs.length) 0

/-- The 64 bytes of a line (R100, R105). -/
def State.fetchLine (s : State) (t : Thread) (a : Nat) : BitVec 512 :=
  BitVec.ofNat 512 ((List.range 4).foldl (fun v k => v + s.fetchUnit t (a + 16 * k) * 2 ^ (128 * k)) 0)

/-- What fetching a line meets, with its trap addressed at the entered PC (R105). -/
def State.fetchCheck (s : State) (t : Thread) : Except Ev Place :=
  let va := lineOf t.at_
  if (aperture va).1 ≠ .global then .error (holeTrap .fetch t.at_)
  else
    match s.resolve t .fetch 0 va 64 with
    | .ok p => .ok p
    | .bad _ cls sub info pte => .error (.trap { cls, sub, addr := t.at_, info, pte := BitVec.ofNat 64 pte })
    | .need p => .error (.walk p)
    | _ => .error .stall

/-- Event LINE_FETCH: a thread's next line arrives (R100, R105). `away` is the line's content where it lies in another
package (log 11). On a lost die nothing is fetched (R364, R420). -/
def execLineFetch (tid : Nat) (away : BitVec 512) (s : State) : Host.Outcome State Fault Refusal :=
  match s.threads.get? tid with
  | none => notEnabled
  | some t =>
    let fin (data : BitVec 512) : Except Ev (State × Thread) :=
      .ok (s, { t with line := some { base := lineOf t.at_, data := data } })
    if t.line.isSome ∨ t.status ≠ .running ∨ s.lost (s.dieOf t) then notEnabled
    else
      s.settle tid t do
        match ← s.fetchCheck t with
        | .phys a => fin (s.fetchLine t a)
        | .remote pa _ =>
          match s.reach (pkgOf pa) with
          | .lost => .error (.trap { cls := 9, sub := 0, addr := t.at_, info := pkgOf pa })
          | .key => .error (.trap { cls := 9, sub := 2, addr := t.at_, info := pkgOf pa })
          | .wait => .error .stall
          | .up => fin away
        | _ => .error .stall

end Sys2Proof.Machine
end

