-- ==== Sys2Proof/Machine/Atomic.lean ====
section
/-!
DEFINITION. The atomics ATOM, ATOMF, RED, ATOMW and ATOMQ, and REDNM with the events of its adds (R381 to R386).
-/

namespace Sys2Proof.Machine

/-- The operation that an instruction's fields name. -/
def AtomOp.of (f : Mem) : AtomOp :=
  { op := f.op.toNat, signed := tySigned f.xty f.ty, bits := tyBits f.xty f.ty, f32 := f.xty == 0 && f.ty == 8
    sat := f.fpc.getLsbD 4 }

/-- The operation word of a remote atomic (R276). -/
def atomWord (f : Mem) (whole : Bool) : Nat :=
  tyWord f.op.toNat f.ty.toNat f.xty.toNat + 256 * bit (f.fpc.getLsbD 4) + 512 * bit whole

/-- The checks of an atomic's lane: lane slices, stacks and the Pantry are holes (R382). -/
def State.resolveAtom (s : State) (t : Thread) (acc : Acc) (only : Bool) (n lane va : Nat) : Res :=
  let ap := (aperture va).1
  if va % n = 0 ∧ ([Aperture.lane, .stack, .pantry].contains ap ∨ (only ∧ ap ≠ .global)) then holeRes acc
  else s.resolve t acc lane va n

/-- The key of a cluster (R11). -/
def clusterKey (die core : Nat) : Nat := 36 * die + core / 4

/-- Return slots of a Scullery group in use (R385). -/
def State.slotsUsed (s : State) (key : Nat) : Nat :=
  (s.threads.vals.flatMap fun t => t.prods.vals.filter fun p => p.slot == some key).length

/-- The Scullery group that an atomic with a return runs on: none where no lane names the cluster (R385). -/
def State.returnSlot (s : State) (t : Thread) (ps : List (Nat × Nat × Place)) : Option Nat :=
  if ps.any fun p => match p.2.2 with
    | .scratch _ => true
    | .parlour _ => true
    | _ => false
  then some (clusterKey (s.wgOf t).die (s.wgOf t).core) else none

/-- Read-modify-writes at checked places of this package, in lane order: what each lane read (R382, R383). -/
def State.atomPlaces (s : State) (t : Thread) (o : AtomOp) (a cmp : Nat → Nat) :
    List (Nat × Nat × Place) → List (Nat × Nat) × State × Thread
  | [] => ([], s, t)
  | (i, _, p) :: ps =>
    let old := ofBytes (s.readPlace t p (o.bits / 8))
    let w := s.writePlace t p (toBytes (o.apply old (a i) (cmp i)) (o.bits / 8))
    let r := w.1.stampStore w.2 p
    let rest := State.atomPlaces r.1 r.2 o a cmp ps
    ((i, old) :: rest.1, rest.2)

/-- The parts of an atomic in the store buffer: the operand and the value compared with (R276). -/
def atomParts (n : Nat) (a cmp : Nat → Nat) (ps : List (Nat × Nat × Place)) : List LaneAcc :=
  ps.map fun p => { lane := p.1, va := p.2.1, place := p.2.2, data := toBytes (a p.1) n ++ toBytes (cmp p.1) n }

/-- The lanes whose homes answer, and those whose homes never do (R142). -/
def aliveOf (ps : List (Nat × Nat × Place)) : List (Nat × Nat × Place) := ps.filter fun p => !p.2.2.isDead
def deadOf (ps : List (Nat × Nat × Place)) : List (Nat × Nat × Place) := ps.filter fun p => p.2.2.isDead

/-- An atomic to a home that never answers keeps the fences after it from ending (R142, R388). -/
def Thread.hangs (t : Thread) (ps : List (Nat × Nat × Place)) : Thread :=
  { t with hung := t.hung || !(deadOf ps).isEmpty }

/-- The places of an atomic, once its checks pass and nothing holds it back. -/
def State.atomChecked (s : State) (t : Thread) (n : Nat) (group : Bool) (ls : List (Nat × Nat)) :
    Except Ev (List (Nat × Nat × Place)) := do
  let ps ← checkAll t .atomic n group ls (s.resolveAtom t .atomic false n)
  if s.anyWaits t n ps then .error (s.held t n (ps.map (·.2.2))) else .ok ps

/-- The long-latency producer of an atomic with a return: the values it has, and the lanes it waits for (R139, R382,
R385). -/
def State.atomProducer (s : State) (t : Thread) (f : Mem) (ps : List (Nat × Nat × Place)) (vals : List (Nat × Nat))
    (waiting : List Nat) : State × Thread :=
  let n := regsOf (tyBits f.xty f.ty)
  s.produce t { toG := false, reg := f.dst.toNat, n := n, lanes := laneMask (ps.map (·.1)), vals := valsOf n vals
                waiting := laneMask waiting, ready := true, slot := s.returnSlot t ps, homes := homesOf ps }

/-- A group whose atomic finds no free return slot stalls (R385). -/
def State.slotCheck (s : State) (t : Thread) (ps : List (Nat × Nat × Place)) : Except Ev Unit :=
  match s.returnSlot t ps with
  | none => .ok ⟨⟩
  | some key => if 128 ≤ s.slotsUsed key then .error .stall else .ok ⟨⟩

/-- The operand of a lane and the value it compares with (R383). -/
def Thread.atomData (t : Thread) (f : Mem) (i : Nat) : Nat := t.opnd f.a (regsOf (tyBits f.xty f.ty)) (tyBits f.xty f.ty) i
def Thread.atomCmp (t : Thread) (f : Mem) (i : Nat) : Nat := vSpan t.regs.v f.dst.toNat i (regsOf (tyBits f.xty f.ty))

/-- The registers of an atomic may be read: CAS reads its destination as if WT were 1 (R383, log 29). -/
def Thread.atomReady (t : Thread) (f : Mem) : Except Ev Unit := do
  let n := regsOf (tyBits f.xty f.ty)
  t.quiet
  t.canWrite f.dst.toNat n
  t.canRead f.a n
  t.canAddr f
  if f.op = 7 then t.canReadV f.dst.toNat n else .ok ⟨⟩

/-- The lane-wise atomics with a return: at once where every lane lies in this package, else from the store buffer (R276,
R382, R383). -/
def atomLanes (f : Mem) (s : State) : Host.Outcome State Fault Refusal :=
  run s fun t => do
    t.atomReady f
    if t.active.isEmpty then done s t
    else
      let o := AtomOp.of f
      let n := o.bits / 8
      let ps ← s.atomChecked t n false (t.active.map fun i => (i, t.memAddr f i))
      s.slotCheck t ps
      if anyAway ps then
        let p := s.atomProducer t f ps [] (ps.map (·.1))
        let q := p.1.enqueue p.2 t .atomic (atomWord f false) n (atomParts n (t.atomData f) (t.atomCmp f) ps) (some s.nextId)
        done q.1 q.2
      else
        let r := s.atomPlaces t o (t.atomData f) (t.atomCmp f) (aliveOf ps)
        let q := r.2.1.atomProducer (r.2.2.hangs ps) f ps r.1 ((deadOf ps).map (·.1))
        done q.1 q.2

/-- ATOM (R381 to R383). -/
def execAtom (f : Mem) (s : State) : Host.Outcome State Fault Refusal := atomLanes f s

/-- ATOMF (R381, R384). -/
def execAtomf (f : Mem) (s : State) : Host.Outcome State Fault Refusal := atomLanes f s

/-- ATOMQ (R381, R383). -/
def execAtomq (f : Mem) (s : State) : Host.Outcome State Fault Refusal := atomLanes f s

/-- RED (R381 to R384). -/
def execRed (f : Mem) (s : State) : Host.Outcome State Fault Refusal :=
  run s fun t => do
    let o := AtomOp.of f
    let n := o.bits / 8
    t.quiet
    t.canRead f.a (regsOf o.bits)
    t.canAddr f
    if t.active.isEmpty then done s t
    else
      let ps ← s.atomChecked t n false (t.active.map fun i => (i, t.memAddr f i))
      if anyAway ps then
        let q := s.enqueue t t .atomic (atomWord f false) n (atomParts n (t.atomData f) (fun _ => 0) ps) none
        done q.1 q.2
      else
        let r := s.atomPlaces t o (t.atomData f) (fun _ => 0) (aliveOf ps)
        done r.2.1 (r.2.2.hangs ps)

/-- The lanes of ATOMW one after another on one value: what each read, and the last value (R383). -/
def atomFold (o : AtomOp) (a cmp : Nat → Nat) (old : Nat) : List Nat → List (Nat × Nat) × Nat
  | [] => ([], old)
  | i :: is =>
    let rest := atomFold o a cmp (o.apply old (a i) (cmp i)) is
    ((i, old) :: rest.1, rest.2)

/-- ATOMW: one indivisible step for the group (R383). -/
def execAtomw (f : Mem) (s : State) : Host.Outcome State Fault Refusal :=
  run s fun t => do
    t.atomReady f
    let o := AtomOp.of f
    let n := o.bits / 8
    if t.active.isEmpty then done s t
    else
      let ps ← s.atomChecked t n true [(0, t.memAddr f 0)]
      s.slotCheck t ps
      match ps with
      | [] => .error .stall
      | (_, va, p) :: _ =>
        let lanes := t.active.map fun i => (i, va, p)
        if p.isRemote then
          let q := s.atomProducer t f lanes [] t.active
          let q := q.1.enqueue q.2 t .atomic (atomWord f true) n (atomParts n (t.atomData f) (t.atomCmp f) lanes)
            (some s.nextId)
          done q.1 q.2
        else if p.isDead then
          let q := s.atomProducer (t.hangs lanes) f lanes [] t.active
          done q.1 q.2
        else
          let r := atomFold o (t.atomData f) (t.atomCmp f) (ofBytes (s.readPlace t p n)) t.active
          let w := s.writePlace t p (toBytes r.2 n)
          let w' := w.1.stampStore w.2 p
          let q := w'.1.atomProducer w'.2 f lanes r.1 []
          done q.1 q.2

/-- Event ATOMIC_COMPLETE: an atomic's results stand in its destination (R382). -/
def execAtomicComplete (tid pid : Nat) (s : State) : Host.Outcome State Fault Refusal := completeProducer tid pid s

/-! ### REDNM (R386) -/

/-- A full physical address of a place in the global window. -/
def State.fullPa (s : State) : Place → Nat
  | .phys a => s.pkg * 2 ^ 43 + a
  | .dead a => s.pkg * 2 ^ 43 + a
  | .remote pa _ => pa
  | _ => 0

/-- REDNM: an engine thread of adds, forked at issue (R386). What a home in another package finds of holes comes with its
answer (log 11). -/
def execRednm (f : Mem) (s : State) : Host.Outcome State Fault Refusal :=
  run s fun t => do
    t.quiet
    t.canRead f.a 1
    t.canAddr f
    let ls := t.active.map fun i => (i, t.memAddr f i)
    let ps ← judge false (ls.map fun l => (l.1, l.2, s.resolveAtom t .store true 4 l.1 l.2))
    let adds := ps.zipIdx.map fun p =>
      (s.nextId + p.2, ({ tid := s.cur, wg := t.wg, pa := s.fullPa p.1.2.2, hop := p.1.2.2.hopped
                          val := BitVec.ofNat 32 (t.opnd f.a 1 32 p.1.1), sat := f.fpc.getLsbD 4 } : NmAdd))
    let s1 := { s with nextId := s.nextId + adds.length, nmAdds := s.nmAdds ++ adds }
    done (s1.updWg t.wg fun g => { g with outstanding := g.outstanding + adds.length })
      { t with nmOut := t.nmOut + adds.length }

/-- An add is over: applied or dropped (R387). -/
def State.nmOver (s : State) (id : Nat) (a : NmAdd) (dropped : Bool) : State :=
  let s := { s with
    nmAdds := s.nmAdds.del id
    threads := s.threads.upd a.tid fun t => { t with nmOut := t.nmOut - 1, nmDrop := t.nmDrop || dropped } }
  (s.dropAways (.nm id)).updWg a.wg fun g => { g with outstanding := g.outstanding - 1 }

/-- A dropped add with its record (R386, R423). -/
def State.nmDropped (s : State) (id : Nat) (a : NmAdd) : State :=
  let g := s.wgs.getD a.wg .absent
  (s.post { code := 0x12, core := g.core, die := g.die, part := (s.launches.getD g.launch .absent).part
            addr := a.pa, tag := (s.launches.getD g.launch .absent).hdr.tag.toNat }).nmOver id a true

/-- An earlier add of the same group to the same word is still in flight (R386). -/
def State.nmBehind (s : State) (id : Nat) (a : NmAdd) : Bool :=
  s.nmAdds.any fun e => decide (e.1 < id) && e.2.tid == a.tid && e.2.pa == a.pa

/-- An add leaves for its home in another package, which answers when it is applied (R386). -/
def State.nmSend (s : State) (id : Nat) (a : NmAdd) : State :=
  let pa := s.forwarded a.pa
  { s.sendAway { owner := .nm id
                 req := { src := s.pkg, id := 0, kind := 7, op := 256 * bit a.sat, pa := pa, size := 4
                          data := toBytes a.val.toNat 4, forwarded := a.hop || pa != a.pa } } with
    nmAdds := s.nmAdds.upd id fun a => { a with out := true } }

/-- Event REDNM_APPLY: an add is made at its home, or leaves for a home in another package; one to a poisoned line is
dropped at its home (R386). -/
def execRednmApply (add : Nat) (s : State) : Host.Outcome State Fault Refusal :=
  match s.nmAdds.get? add with
  | none => notEnabled
  | some a =>
    let pa := s.forwarded a.pa
    let at_ := inPkg pa
    if s.nmBehind add a || a.out then notEnabled
    else if pkgOf pa ≠ s.pkg then
      when (s.reach (pkgOf pa) == .up || s.reach (pkgOf pa) == .wait) (s.nmSend add a)
    else if s.homeLost at_ || s.moving at_ then notEnabled
    else if s.poisoned at_ then .next (s.nmDropped add a)
    else .next ((s.putPhysNat at_ 4 (f32Add a.sat (s.mem.getNat at_ 4) a.val.toNat)).nmOver add a false)

/-- An add's home package gives no reply within HFTMO (R386). -/
def State.nmLate (s : State) (id : Nat) : Bool :=
  s.aways.any fun a => a.2.owner == .nm id && s.overdue a.2.sent

/-- Event REDNM_DROP: an add to a poisoned line, or one whose home package cannot be reached or does not reply within
HFTMO, is dropped (R386). -/
def execRednmDrop (add : Nat) (s : State) : Host.Outcome State Fault Refusal :=
  match s.nmAdds.get? add with
  | none => notEnabled
  | some a =>
    let pa := s.forwarded a.pa
    if s.nmBehind add a then notEnabled
    else if pkgOf pa = s.pkg then when (s.poisoned (inPkg pa)) (s.nmDropped add a)
    else
      let gone := s.reach (pkgOf pa) == .lost || s.reach (pkgOf pa) == .key
      when (gone || a.out && s.nmLate add) (s.nmDropped add a)

end Sys2Proof.Machine
end

