-- ==== Sys2Proof/Machine/Cellar.lean ====
section
/-!
DEFINITION. The Cellar units: rows and columns (R353 to R357), the bank reservation (R358), tasks and their instances (R359
to R361), CQSUB and CQSTAT (R362, R363), and HCABT (R364).
-/

namespace Sys2Proof.Machine

/-! ### Rows and columns -/

/-- The unit holds a physical address of this package (R348). -/
def holds (cunit pa : Nat) : Bool := stackOf pa == some (cunit / 16) && fld (pa % 0xC00000000) 11 4 == cunit % 16

/-- The physical address of the row that CROW names (R354, log 67). -/
def State.rowPa (s : State) (t : Thread) (va : Nat) (write : Bool) : Except Ev Nat := do
  let page (sub info pte : Nat) : Ev := .trap { cls := 5, sub, addr := va, info, pte := BitVec.ofNat 64 pte }
  if va % 2048 ≠ 0 then .error (alignTrap .load va)
  else if (aperture va).1 ≠ .global then .error (holeTrap .load va)
  else
    match s.threadWalk t va with
    | none => .error (.walk (va / 65536))
    | some (.fault sub loc entry) => .error (page sub loc (s.tpteOf (s.partOf t) entry))
    | some .poison => .error (.trap { cls := 8, addr := va })
    | some (.remote ..) => .error (holeTrap .load va)
    | some .never => .error .stall
    | some (.away ..) => .error (.walk (va / 65536))
    | some (.page base big r w _ mig entry) =>
      let pa := s.forwarded (pageAddr base big va)
      if mig then .error .stall
      else if !r ∨ (write ∧ !w) then .error (page 3 0 (s.tpteOf (s.partOf t) entry))
      else if pkgOf pa = s.pkg ∧ holds t.cunit (inPkg pa) then .ok (inPkg pa)
      else .error (holeTrap .load va)

/-- CROW and CROW.W (R354, R358, log 44). -/
def execCrow (f : Eng) (s : State) : Host.Outcome State Fault Refusal :=
  run s fun t => do
    let w := f.xt.getLsbD 0
    let pa ← s.rowPa t (t.uni f.a) w
    done s { t with row := some (pa, w), resv := (s.taskOf t).rsv, aged := false }

/-- PAGE/permission on a unit (R351, R355). -/
def rowPermission : Ev := .trap { cls := 5, sub := 3 }

/-- The physical address of the column that an instruction names on the open row (R353, R355). -/
def State.column (s : State) (t : Thread) (f : Eng) (write : Bool) : Except Ev Nat := do
  let c := t.uni f.a
  match t.row with
  | none => .error rsv
  | some (row, w) =>
    if (f.a.pat ≠ 5 ∧ f.a.pat ≠ 6) ∨ 15 < c then .error rsv
    else if write ∧ (!w ∨ s.inTables (s.partOf t) (s.pkg * 2 ^ 43 + row)) then .error rowPermission
    else if write ∧ s.moving row then .error .stall
    else .ok (row + 128 * c)

/-- POISON on a unit (R355). -/
def State.columnPoison (s : State) (t : Thread) (a : Nat) : Except Ev Unit :=
  if !t.active.isEmpty && s.poisoned a then .error (.trap { cls := 8 }) else .ok ⟨⟩

/-- CLDC (R355). -/
def execCldc (f : Eng) (s : State) : Host.Outcome State Fault Refusal :=
  run s fun t => do
    let a ← s.column t f false
    s.columnPoison t a
    done s { t.put f.dst.toNat 1 false 32 (fun i => s.mem.getNat (a + 4 * i) 4) with aged := false }

/-- Writes a word of each lane of EM in a column. -/
def State.putColumn (s : State) (t : Thread) (a : Nat) (f : Nat → Nat) : State :=
  t.active.foldl (fun s i => s.putPhysNat (a + 4 * i) 4 (f i)) s

/-- CSTC (R355). -/
def execCstc (f : Eng) (s : State) : Host.Outcome State Fault Refusal :=
  run s fun t => do
    let a ← s.column t f true
    done (s.putColumn t a fun i => t.opnd f.b 1 32 i) { t with aged := false }

/-- CRED (R355, R357). -/
def execCred (f : Eng) (s : State) : Host.Outcome State Fault Refusal :=
  run s fun t => do
    let a ← s.column t f true
    s.columnPoison t a
    let red (w v : Nat) : Nat := if f.ty = 8 then f32Add (f.xt.getLsbD 0) w v else (w + v) % 2 ^ 32
    done (s.putColumn t a fun i => red (s.mem.getNat (a + 4 * i) 4) (t.opnd f.b 1 32 i)) { t with aged := false }

/-- CEND (R356). -/
def execCend (f : Std) (s : State) : Host.Outcome State Fault Refusal :=
  match s.threads.get? s.cur with
  | none => .fault .noThread
  | some t => .next (s.endInstance s.cur t 0 0 f.xt.toNat)

/-! ### The second command bus (R358) -/

/-- The instance that runs on a unit. -/
def State.instanceOn (s : State) (cunit : Nat) : Option (Nat × Thread) :=
  s.threads.find? fun e => e.2.side == .cellar && e.2.cunit == cunit

/-- Event BANK_RESERVATION_EXPIRY: 2048 cellar cycles after CROW (R358). -/
def execBankReservationExpiry (cunit : Nat) (s : State) : Host.Outcome State Fault Refusal :=
  match s.instanceOn cunit with
  | none => notEnabled
  | some e => when e.2.resv (s.putThread e.1 { e.2 with resv := false })

/-- Event CELLAR_COMMAND_AGED: a command on the open row has waited 1024 cellar cycles and wins the arbiter (R358). -/
def execCellarCommandAged (cunit : Nat) (s : State) : Host.Outcome State Fault Refusal :=
  match s.instanceOn cunit with
  | none => notEnabled
  | some e => when (e.2.row.isSome && !e.2.aged) (s.putThread e.1 { e.2 with aged := true })

/-! ### Tasks (R359, R360) -/

/-- The instance numbers that a record selects (R348, R359). -/
def recordUnits (r : Nat) : List Nat :=
  (List.range 192).filter fun i => tb r (484 + i / 16) && tb r (496 + i % 16)

/-- A valid task record for a partition (R359). -/
def State.recordValid (s : State) (part r : Nat) : Bool :=
  fld r 448 4 == 1 && fld r 496 16 != 0 && fld r 484 12 != 0 && fld r 0 64 % 64 == 0 && fld r 384 64 % 8 == 0 &&
    fld r 320 64 % 64 == 0 &&
    (List.range 12).all fun k => !tb r (484 + k) || (s.diesOf part).contains (k / 3)

/-- The task of a record (R359). -/
def taskOfRecord (part r : Nat) (notify : Option (Nat × Nat)) : Task :=
  let us := recordUnits r
  { part, entry := fld r 0 64, args := (List.range 4).map fun k => fld r (64 + 64 * k) 64, stat := fld r 384 64
    done := fld r 320 64, rsv := tb r 456, units := us, total := us.length, left := us.length, nflt := 0, started := 0
    notify }

/-- Every unit of a task has room in its instance queue (R360). -/
def State.taskRoom (s : State) (k : Task) : Bool := k.units.all fun u => decide ((s.cunits.getD u []).length < 8)

/-- Hands a task to all its units' queues in one step (R360). -/
def State.handTask (s : State) (id : Nat) (k : Task) : State :=
  { s with cunits := k.units.foldl (fun m u => m.put u (m.getD u [] ++ [id])) s.cunits }

/-- The thread of an instance at its first instruction (R349). -/
def Thread.ofInstance (id cunit : Nat) (k : Task) : Thread :=
  { side := .cellar, role := .any, wg := id, gidx := 0, width := 32, pc := BitVec.ofNat 64 k.entry, cunit
    regs := { g := (k.args ++ [cunit]).zipIdx.foldl (fun m x => m.set x.2 (BitVec.ofNat 64 x.1)) []
              em := 0xFFFFFFFF } }

/-- Event INSTANCE_START: a unit starts the next instance of its queue (R360), and none in HOLD (R438). -/
def execInstanceStart (cunit : Nat) (s : State) : Host.Outcome State Fault Refusal :=
  match s.cunits.getD cunit [] with
  | [] => notEnabled
  | id :: rest =>
    if (s.instanceOn cunit).isSome ∨ s.lost (cunit / 48) ∨ s.power = .hold then notEnabled
    else
      let k := s.tasks.getD id .absent
      .next { s with
        nextId := s.nextId + 1
        cunits := s.cunits.put cunit rest
        tasks := s.tasks.put id { k with started := k.started + 1 }
        threads := s.threads.put s.nextId (Thread.ofInstance id cunit k) }

/-! ### CQSUB and CQSTAT (R362, R363) -/

/-- What CQSUB and the like leave: a status word and CC. -/
def Thread.statusOf (t : Thread) (dst word : Nat) (tf z : Bool) : Thread :=
  (t.putG dst (BitVec.ofNat 64 word)).setCC { t := tf, z := z }

/-- A selected stack lies outside a die (R362). -/
def outsideDie (die r : Nat) : Bool := (List.range 12).any fun k => tb r (484 + k) && k / 3 != die

/-- CQSUB (R362, log 64). -/
def execCqsub (f : Eng) (s : State) : Host.Outcome State Fault Refusal :=
  run s fun t => do
    t.quiet
    t.canRead f.a 1
    let nb := f.nb.toNat
    if nb = 63 ∨ nb < (s.hdrOf t).nbn then .ok ⟨⟩ else .error (syncTrap 1)
    let a := t.uni f.a
    if a % 64 ≠ 0 then .error (alignTrap .load a)
    else
      let r ← s.loadWords t a 8
      let s1 := r.2.1
      let die := s1.dieOf t
      let d := s1.dies.getD die {}
      if !s1.recordValid (s1.partOf t) r.1 || outsideDie die r.1 then
        done s1 (r.2.2.statusOf f.dst.toNat 2 true false)
      else if 64 ≤ d.cq.length then done s1 (r.2.2.statusOf f.dst.toNat 1 true false)
      else
        let id := s1.nextId
        let k := taskOfRecord (s1.partOf t) r.1 (some (t.wg, nb))
        let s2 := ({ s1 with nextId := id + 1, tasks := s1.tasks.put id k } : State).updDie die fun d =>
          { d with cq := d.cq ++ [id], nextTag := (d.nextTag + 1) % 2 ^ 16
                   tags := ((d.nextTag, id) :: d.tags).take 256 }
        let s3 := if nb = 63 then s2 else s2.updWg t.wg fun g => { g with outstanding := g.outstanding + 1 }
        done s3 (r.2.2.statusOf f.dst.toNat (d.nextTag * 2 ^ 16) false true)

/-- STATE of a task: 0 queued, 1 running, 2 complete. A task is not complete while a status word, or an addition behind one,
still waits for its page (R361, R363). -/
def State.taskState (s : State) (id : Nat) (k : Task) : Nat :=
  if k.left = 0 then (if s.hearthDue.any fun d => d.chain == taskChain id then 1 else 2)
  else if k.started = 0 ∧ k.left = k.total then 0 else 1

/-- CQSTAT (R363). -/
def execCqstat (f : Eng) (s : State) : Host.Outcome State Fault Refusal :=
  run s fun t => do
    t.quiet
    t.canRead f.a 1
    let a := t.uni f.a
    if 2 ^ 16 ≤ a then .error rsv
    else
      match (s.dies.getD (s.dieOf t) {}).tags.find? fun e => e.1 == a with
      | none => done s (t.statusOf f.dst.toNat 3 false true)
      | some e =>
        let k := s.tasks.getD e.2 .absent
        let st := s.taskState e.2 k
        done s (t.statusOf f.dst.toNat (st + k.nflt % 256 * 2 ^ 8 + k.left % 2 ^ 16 * 2 ^ 16) (st == 2)
          (k.nflt % 256 == 0))

/-! ### HCABT (R364) -/

/-- Ends a queued instance of a unit (R364). -/
def State.abortQueued (s : State) (cunit id sub : Nat) : State :=
  s.endInstance s.nextId (Thread.ofInstance id cunit (s.tasks.getD id .absent)) 7 sub 0

/-- Ends everything on one unit (R364). -/
def State.abortUnit (s : State) (cunit : Nat) : State :=
  let sub := bit (s.lost (cunit / 48))
  let s := match s.instanceOn cunit with
    | none => s
    | some e => s.endInstance e.1 e.2 7 sub 0
  let q := s.cunits.getD cunit []
  q.foldl (fun s id => s.abortQueued cunit id sub) { s with cunits := s.cunits.del cunit }

/-- Event HCABT_WRITE: bit d ends every instance on die d's stacks (R364). -/
def execHcabtWrite (v : BitVec 64) (s : State) : Host.Outcome State Fault Refusal :=
  .next (((List.range 192).filter fun u => v.getLsbD (u / 48)).foldl State.abortUnit s)

end Sys2Proof.Machine
end

