-- ==== Sys2Proof/Machine/Convert.lean ====
section
/-!
DEFINITION. The conversion instructions 0x60 to 0x6B and the block formats (R49 to R53, R200 to R204).
-/

namespace Sys2Proof.Machine

/-! ### CVT, CVTT, CVTI, CVTF (R200) -/

/-- CVT (R200). -/
def execCvt (f : Std) (s : State) : Host.Outcome State Fault Refusal :=
  let S := fmtOf (f.xt.toNat % 16)
  fpOp f s [f.a] fun md xs => (fmtOf f.ty.toNat).conv md (S.decIn md (xs.getD 0 0 % 2 ^ S.bits))

/-- CVTT: toward zero always (R62, R200). -/
def execCvtt (f : Std) (s : State) : Host.Outcome State Fault Refusal :=
  let S := fmtOf (f.xt.toNat % 16)
  fpOp f s [f.a] fun md xs => (fmtOf f.ty.toNat).conv { md with rnd := 1 } (S.decIn md (xs.getD 0 0 % 2 ^ S.bits))

/-- A floating-point value as an integer of `w` bits (R200). -/
def toInteger (md : FpMode) (sg : Bool) (w : Nat) (x : Fp) : Nat × FpFlags :=
  let lo : Int := if sg then -(2 ^ (w - 1)) else 0
  let hi : Int := if sg then 2 ^ (w - 1) - 1 else 2 ^ w - 1
  match x with
  | .nan .. => (0, { nv := true })
  | .inf n => (wrapI w (if n then lo else hi), { nv := true })
  | .fin n m e =>
    let q := quantize md.rnd n m e 0
    let v : Int := if n then -(q.1 : Int) else q.1
    if v < lo then (wrapI w lo, { nv := true })
    else if hi < v then (wrapI w hi, { nv := true })
    else (wrapI w v, { nx := !q.2 })

/-- CVTI (R200); a narrow signed result is sign-extended as R166 does (log 20). -/
def execCvti (f : Std) (s : State) : Host.Outcome State Fault Refusal :=
  run s fun t => do
    let w := tyBits f.xty f.ty
    let S := fmtOf (f.xt.toNat % 16)
    t.canWrite f.dst.toNat (regsOf w)
    t.canRead f.a 1
    let md := t.fpMode f.fpc
    let res := fun i => toInteger md (tySigned f.xty f.ty) w (S.decIn md (t.opnd f.a 1 S.bits i))
    done s ((t.put f.dst.toNat (regsOf w) (tySigned f.xty f.ty) w fun i => (res i).1).raise
      (flagsOf t.active fun i => (res i).2))

/-- CVTF (R200). -/
def execCvtf (f : Std) (s : State) : Host.Outcome State Fault Refusal :=
  run s fun t => do
    let k := f.xt.toNat % 16
    let w := typeBits false k
    t.canWrite f.dst.toNat 1
    t.canRead f.a (regsOf w)
    let md := t.fpMode f.fpc
    let res := fun i =>
      let v := tInt (decide (k < 4)) w (t.opnd f.a (regsOf w) w i)
      (fmtOf f.ty.toNat).conv md (.fin (decide (v < 0)) v.natAbs 0)
    done s ((t.put f.dst.toNat 1 false 32 fun i => (res i).1).raise (flagsOf t.active fun i => (res i).2))

/-! ### PACK and UNPACK (R201) -/

/-- PACK (R201). -/
def execPack (f : Std) (s : State) : Host.Outcome State Fault Refusal :=
  let w := 8 * 2 ^ f.ty.toNat
  let at_ := w * f.xt.toNat
  fpOp f s [f.a, f.b] fun _ xs =>
    let b := xs.getD 1 0
    (b % 2 ^ at_ + xs.getD 0 0 % 2 ^ w * 2 ^ at_ + b / 2 ^ (at_ + w) * 2 ^ (at_ + w), {})

/-- UNPACK (R201). -/
def execUnpack (f : Std) (s : State) : Host.Outcome State Fault Refusal :=
  let w := tyBits f.xty f.ty
  fpOp f s [f.a] fun _ xs => (extend (tySigned f.xty f.ty) w 32 (fld (xs.getD 0 0) (w * f.xt.toNat) w), {})

/-! ### Block formats (R49 to R53) -/

/-- SUB and SAT of FMT (R57): flush inputs, flush results, saturate. -/
structure BlkMode where
  flushIn : Bool
  flushOut : Bool
  sat : Bool
  deriving DecidableEq, Repr

def BlkMode.ofFmt (v : Nat) : BlkMode :=
  { flushIn := decide (1 ≤ fld v 28 2), flushOut := decide (2 ≤ fld v 28 2), sat := tb v 27 }

/-- A packed block: elements, the scale entry, flags. -/
structure Packed where
  elems : List Nat
  scale : Nat
  flags : FpFlags
  deriving DecidableEq, Repr

/-- The element format and emax of an MX form by its type code 6, 7 or 8 (R49, R52). -/
def mxFmt (ty : Nat) : FFmt × Int := if ty = 6 then (E2M1, 2) else if ty = 7 then (E4M3, 8) else (E5M2, 15)

/-- Two finite values are equal. -/
def finEq (a b : Bool × Nat × Int) : Bool :=
  let low := min a.2.2 b.2.2
  a.2.1 * 2 ^ (a.2.2 - low).toNat == b.2.1 * 2 ^ (b.2.2 - low).toNat && (a.1 == b.1 || a.2.1 == 0)

/-- The greater of two finite magnitudes. -/
def magMax (a b : Nat × Int) : Nat × Int :=
  let low := min a.2 b.2
  if a.1 * 2 ^ (a.2 - low).toNat < b.1 * 2 ^ (b.2 - low).toNat then b else a

/-- The largest finite magnitude of a list. -/
def amaxOf (xs : List Fp) : Nat × Int :=
  (finTerms xs).foldl (fun a t => if a.1 = 0 then t.2 else if t.2.1 = 0 then a else magMax a t.2) (0, 0)

/-- One MX element: its code and flags (R52, steps 2, 4, 5 and 6). `was` is the input before flushing (logs 14, 15). -/
def mxElem (F : FFmt) (md : BlkMode) (x : Int) (was v : Fp) : Nat × FpFlags :=
  match v with
  | .inf n =>
    match F.inf with
    | some c => (F.signed n c, {})
    | none => (F.signed n F.maxCode, { of_ := true, nx := true })
  | .fin n m e =>
    let flushed := !was.isZero && m == 0
    if m = 0 then (F.signed n 0, { uf := flushed, nx := flushed })
    else
      let r := F.round { sat := true } n m (e - x)
      let sub := F.subnormal r.1
      let out := if sub ∧ md.flushOut then F.signed n 0 else r.1
      let differs := match F.dec out with
        | .fin n' m' e' => !finEq (n', m', e' + x) (n, m, e)
        | _ => true
      (out, { of_ := r.2.of_, uf := sub && differs, nx := differs })
  | .nan .. => (0, {})

/-- Packing values into an MX block (R52). -/
def mxPack (F : FFmt) (emax : Int) (md : BlkMode) (src : FFmt) (codes : List Nat) : Packed :=
  let raw := codes.map src.dec
  let xs := codes.map fun c => src.decIn { sub := bit md.flushIn } c
  if xs.any Fp.isNan ∨ (xs.any Fp.isInf ∧ F.inf = none ∧ !md.sat) then
    { elems := codes.map fun _ => 0, scale := 0xFF, flags := { nv := true } }
  else
    let a := amaxOf xs
    let x : Int := if a.1 = 0 then 0 else max 0 (min 254 (Nat.log2 a.1 + a.2 - emax + 127))
    let es := (raw.zip xs).map fun p => mxElem F md (x - 127) p.1 p.2
    { elems := es.map Prod.fst, scale := x.toNat, flags := es.foldl (fun fl e => fl.or e.2) {} }

/-- Bits of magnitude and shift of a twin-scale form (R51, R53). -/
structure TsForm where
  /-- M. -/
  m : Nat
  /-- h. -/
  h : Int
  /-- Bits of the magnitude. -/
  mb : Nat
  deriving DecidableEq, Repr

def tsForm (ty : Nat) : TsForm := if ty = 14 then { m := 63, h := 132, mb := 6 } else { m := 3, h := 128, mb := 2 }

/-- |x| as a candidate magnitude under an exponent, before the cap (R53). -/
def tsRaw (f : TsForm) (e0 : Int) (m : Nat) (e : Int) : Nat := (quantize 0 false m e (e0 - f.h)).1

/-- The distance of a candidate from |x|, scaled to a common exponent. -/
def tsDist (f : TsForm) (e0 : Int) (k m : Nat) (e low : Int) : Nat :=
  ((k : Int) * 2 ^ (e0 - f.h - low).toNat - (m : Int) * 2 ^ (e - low).toNat).natAbs

/-- One twin-scale element (R53, steps 2, 5 and 6). -/
def tsElem (f : TsForm) (e0 e1 : Int) (v : Fp) : Nat × FpFlags :=
  match v with
  | .inf n => (f.m + bit n * 2 ^ f.mb, { of_ := true, nx := true })
  | .fin n m e =>
    let r0 := tsRaw f e0 m e
    let r1 := tsRaw f e1 m e
    let c0 := min r0 f.m
    let c1 := min r1 f.m
    let low := min e (min (e0 - f.h) (e1 - f.h))
    let d0 := tsDist f e0 c0 m e low
    let d1 := tsDist f e1 c1 m e low
    if d0 < d1 then (c0 + bit n * 2 ^ f.mb, { of_ := decide (f.m < r0), nx := d0 != 0 })
    else (c1 + bit n * 2 ^ f.mb + 2 ^ (f.mb + 1), { of_ := decide (f.m < r1), nx := d1 != 0 })
  | .nan .. => (0, {})

/-- Packing values into a twin-scale block with exponent distance D (R53). NX compares with the input as flushed (log 16). -/
def tsPack (f : TsForm) (dist : Nat) (md : BlkMode) (src : FFmt) (codes : List Nat) : Packed :=
  let xs := codes.map fun c => src.decIn { sub := bit md.flushIn } c
  if xs.any Fp.isNan ∨ (xs.any Fp.isInf ∧ !md.sat) then
    { elems := codes.map fun _ => 0, scale := 0xFFFF, flags := { nv := true } }
  else
    let a := amaxOf xs
    let e0 : Nat :=
      if !xs.isEmpty ∧ xs.all Fp.isInf then 254
      else if a.1 = 0 then 0
      else ((List.range 255).find? fun e => decide (tsRaw f (e : Nat) a.1 a.2 ≤ f.m)).getD 254
    let e1 := e0 - dist
    let es := xs.map fun v => tsElem f e0 e1 v
    { elems := es.map Prod.fst, scale := e0 + e1 * 256, flags := es.foldl (fun fl e => fl.or e.2) {} }

/-- The exponent distance D of a twin-scale form in FMT (R57). -/
def tsDistance (fmt ty : Nat) : Nat :=
  if ty = 14 then (if fld fmt 32 4 = 0 then 3 else fld fmt 32 4) else (if fld fmt 36 4 = 0 then 2 else fld fmt 36 4)

/-- The value of a twin-scale element under its scale entry; none for a NaN block (R51). -/
def tsValue (f : TsForm) (el scale : Nat) : Option Fp :=
  let e0 := scale % 256
  let e1 := scale / 256 % 256
  if e0 = 255 ∨ e1 = 255 then none
  else
    let e := if tb el (f.mb + 1) then e1 else e0
    some (.fin (tb el f.mb) (el % 2 ^ f.mb) ((e : Int) - f.h))

/-- The value of an MX element under its scale; none for a NaN block (R49). -/
def mxValue (F : FFmt) (el scale : Nat) : Option Fp :=
  if scale % 256 = 255 then none
  else match F.dec el with
    | .fin n m e => some (.fin n m (e + (scale % 256 : Nat) - 127))
    | x => some x

/-- The values that the lanes of a block supply: +0 outside EM (R202). -/
def Thread.blockIn (t : Thread) (o : Opnd) (blk : Nat) : List Nat :=
  (List.range 32).map fun j =>
    if t.regs.em.getLsbD (32 * blk + j) then t.opnd o 1 32 (32 * blk + j) else 0

/-- A block pack over the runs of 32 lanes (R202, R203). -/
def packLanes (f : Std) (s : State) (pack : Nat → List Nat → Packed) (place : Nat → Nat → Nat) :
    Host.Outcome State Fault Refusal :=
  run s fun t => do
    t.canWrite f.dst.toNat 1
    t.canRead f.a 1
    if t.width < 32 then .error rsv
    else
      let fmt := t.regs.fmt.toNat
      let bs := (List.range (t.width / 32)).map fun b => pack fmt (t.blockIn f.a b)
      let get := fun i => match bs[i / 32]? with
        | some p => place (p.elems.getD (i % 32) 0) p.scale
        | none => 0
      let fl := (bs.zipIdx.filter fun p => t.active.any fun i => i / 32 == p.2).foldl
        (fun fl p => FpFlags.or fl p.1.flags) {}
      done s ((t.put f.dst.toNat 1 false 32 get).raise fl)

/-- BFPK (R53, R202). -/
def execBfpk (f : Std) (s : State) : Host.Outcome State Fault Refusal :=
  packLanes f s (fun fmt xs => tsPack (tsForm f.ty.toNat) (tsDistance fmt f.ty.toNat) (.ofFmt fmt) F32 xs)
    fun el sc => el + sc * 65536

/-- MXPK (R52, R203). -/
def execMxpk (f : Std) (s : State) : Host.Outcome State Fault Refusal :=
  packLanes f s (fun fmt xs => mxPack (mxFmt f.ty.toNat).1 (mxFmt f.ty.toNat).2 (.ofFmt fmt) F32 xs)
    fun el sc => el + sc * 65536

/-- BFUN (R51, R202). -/
def execBfun (f : Std) (s : State) : Host.Outcome State Fault Refusal :=
  let F := tsForm f.ty.toNat
  fpOp f s [f.a] fun _ xs =>
    let v := xs.getD 0 0
    match tsValue F (v % 2 ^ (F.mb + 2)) (v / 65536) with
    | none => (F32.canonical, {})
    | some x => ((F32.conv {} x).1, {})

/-- MXUN (R49, R203): SUB acts on the product and on no element (logs 22, 84). -/
def execMxun (f : Std) (s : State) : Host.Outcome State Fault Refusal :=
  let F := (mxFmt f.ty.toNat).1
  fpOp f s [f.a] fun md xs =>
    let v := xs.getD 0 0
    match mxValue F (v % 2 ^ F.bits) (v / 65536) with
    | none => (F32.canonical, {})
    | some x => F32.conv md x

/-! ### Bit planes (R204) -/

/-- The element width of PLANE. -/
def planeWidth (f : Std) : Nat := 4 * 2 ^ (f.xt.toNat / 32 % 4)

/-- PLANE (R204). -/
def execPlane (f : Std) (s : State) : Host.Outcome State Fault Refusal :=
  run s fun t => do
    let w := planeWidth f
    let b := f.xt.toNat % 32
    t.canWrite f.dst.toNat 1
    t.canRead f.a w
    done s (t.put f.dst.toNat 1 false 32 fun i =>
      let row := vSpan t.regs.v f.a.reg.toNat (srcLane t.width i f.a.pat.toNat f.a.q.toNat) w
      ((List.range 32).map fun j => bit (tb row (w * j + b)) * 2 ^ j).foldl (· + ·) 0)

/-- A row with bit `b` of element `j` set to bit `j` of a plane word. -/
def unplane (w b row word : Nat) : Nat :=
  (List.range 32).foldl (fun r j =>
    let p := w * j + b
    r - bit (tb r p) * 2 ^ p + bit (tb word j) * 2 ^ p) row

/-- UNPLANE (R204); SA's WT tests the destination block too (log 91). -/
def execUnplane (f : Std) (s : State) : Host.Outcome State Fault Refusal :=
  run s fun t => do
    let w := planeWidth f
    let b := f.xt.toNat % 32
    t.canWrite f.dst.toNat w
    t.canRead f.a 1
    emptyEv (f.a.wt == 1) (firstEmpty t.regs.ve f.dst.toNat w) false
    done s (t.put f.dst.toNat w false (32 * w) fun i =>
      unplane w b (vSpan t.regs.v f.dst.toNat i w) (t.opnd f.a 1 32 i))

end Sys2Proof.Machine
end

