-- ==== Sys2Proof/Machine/Planes.lean ====
section
/-!
DEFINITION. The operand layouts of the matrix engine: plane tiles and broadside tiles (R248 to R253), and the decoding of
their elements.
-/

namespace Sys2Proof.Machine

/-- Whether a format carries scales (R58, R248). -/
inductive ScaleUse where
  | never
  /-- E8M0 when the scale mode is 1. -/
  | mxOpt
  | mx
  | ts
  deriving DecidableEq, Repr

/-- A format of AFM and BFM (R58, R248, R249). -/
structure PForm where
  /-- Element bits. -/
  w : Nat
  /-- Significand planes. -/
  p : Nat
  /-- The element bit of each plane in order; none is the hidden bit. -/
  bits : List (Option Nat)
  /-- The exponent field: lowest bit and width. -/
  elo : Nat
  en : Nat
  use_ : ScaleUse
  isInt : Bool
  signed : Bool
  deriving DecidableEq, Repr

/-- Consecutive element bits, from `hi` down. -/
def down (hi n : Nat) : List (Option Nat) := (List.range n).map fun i => some (hi - i)

/-- The formats by their code; none for an unassigned code (R58). -/
def pForm (code : Nat) : Option PForm :=
  match code with
  | 0 => some { w := 16, p := 8, bits := none :: down 6 7 ++ [some 15] ++ down 14 8, elo := 7, en := 8
                use_ := .never, isInt := false, signed := false }
  | 1 => some { w := 8, p := 4, bits := none :: down 2 3 ++ [some 7] ++ down 6 4, elo := 3, en := 4
                use_ := .mxOpt, isInt := false, signed := false }
  | 2 => some { w := 8, p := 3, bits := none :: down 1 2 ++ [some 7] ++ down 6 5, elo := 2, en := 5
                use_ := .mxOpt, isInt := false, signed := false }
  | 3 => some { w := 4, p := 2, bits := none :: down 0 1 ++ [some 3] ++ down 2 2, elo := 1, en := 2
                use_ := .mx, isInt := false, signed := false }
  | 4 => some { w := 8, p := 6, bits := down 5 6 ++ [some 6, some 7], elo := 0, en := 0
                use_ := .ts, isInt := false, signed := false }
  | 5 => some { w := 4, p := 2, bits := down 1 2 ++ [some 2, some 3], elo := 0, en := 0
                use_ := .ts, isInt := false, signed := false }
  | 6 => some { w := 8, p := 8, bits := down 7 8, elo := 0, en := 0, use_ := .never, isInt := true, signed := true }
  | 7 => some { w := 8, p := 8, bits := down 7 8, elo := 0, en := 0, use_ := .never, isInt := true, signed := false }
  | 8 => some { w := 4, p := 4, bits := down 3 4, elo := 0, en := 0, use_ := .never, isInt := true, signed := true }
  | 9 => some { w := 4, p := 4, bits := down 3 4, elo := 0, en := 0, use_ := .never, isInt := true, signed := false }
  | _ => none

/-- Bytes of a block record of a plane tile (R248). -/
def PForm.record (f : PForm) (scaled : Bool) : Nat := 256 * f.bits.length + 256 * bit scaled

/-- Bit of an element in plane `q` (R249). -/
def PForm.planeBit (f : PForm) (e q : Nat) : Bool :=
  match f.bits.getD q none with
  | some b => tb e b
  | none => fld e f.elo f.en != 0

/-- The value of an element code of a floating-point format by AFM code (R42). -/
def pFmt (code : Nat) : FFmt :=
  match code with
  | 0 => BF16
  | 1 => E4M3
  | 2 => E5M2
  | _ => E2M1

/-- A value times 2^(X - 127), NaN for X = 0xFF (R49). A NaN or an infinity keeps its value. -/
def mxScale (x : Nat) (v : Fp) : Fp :=
  if x = 255 then .nan false 0 1
  else match v with
    | .fin n m e => .fin n m (e + (x : Int) - 127)
    | v => v

/-- A twin-scale element under its entry, NaN for a NaN block (R51). -/
def tsFp (ty el scale : Nat) : Fp := (tsValue (tsForm ty) el scale).getD (.nan false 0 1)

/-- The code of a canonical-NaN value. -/
def nanFp : Fp := .nan false 0 1

/-- An element code decoded at full precision, with its scale entry where the format has one (R42, R49, R51). `flush`
flushes subnormal operands (R55). -/
def decodeElem (code : Nat) (f : PForm) (scaled flush : Bool) (el scale : Nat) : Fp :=
  if f.isInt then
    let v := tInt f.signed f.w el
    .fin (decide (v < 0)) v.natAbs 0
  else if f.use_ = .ts then tsFp (if code = 4 then 14 else 15) el scale
  else
    let v := (pFmt code).decIn { sub := bit flush } el
    if scaled then mxScale (scale % 256) v else v

/-- A number whose bits, most significant first, are `b lo` to `b (lo + n - 1)`. -/
def bitsFrom (b : Nat → Bool) (lo : Nat) : Nat → Nat
  | 0 => 0
  | n + 1 => 2 * bitsFrom b lo n + bit (b (lo + n))

/-- An element read from its planes, of which `keep` significand planes are read (R251, R253). -/
def PForm.fromPlanes (code : Nat) (f : PForm) (scaled flush : Bool) (keep : Nat) (b : Nat → Bool) (scale : Nat) : Fp :=
  let sig := bitsFrom (fun q => decide (q < keep) && b q) 0 f.p
  let s := b f.p
  if f.isInt then
    let v : Int := (sig : Int) - (if f.signed ∧ b 0 then 2 ^ f.p else 0)
    .fin (decide (v < 0)) v.natAbs 0
  else if f.use_ = .ts then
    let ex := if b (f.p + 1) then scale / 256 % 256 else scale % 256
    if scale % 256 = 255 ∨ scale / 256 % 256 = 255 then nanFp
    else .fin s sig ((ex : Int) - (tsForm (if code = 4 then 14 else 15)).h)
  else
    let e := bitsFrom b (f.p + 1) f.en
    let frac := bitsFrom b 1 (f.p - 1)
    let top := 2 ^ f.en - 1
    let v : Fp :=
      if e = top ∧ (code = 0 ∨ code = 2) then (if frac = 0 then .inf s else nanFp)
      else if e = top ∧ code = 1 ∧ frac = 7 then nanFp
      else if e = 0 ∧ flush then .fin s 0 0
      else .fin s sig ((max e 1 : Nat) - (pFmt code).bias - (f.p - 1 : Nat))
    if scaled then mxScale (scale % 256) v else v

/-- Element `j` of a packed stream of `w` bits each (R44). -/
def packedAt (w j : Nat) (bs : List Byte) : Nat := fld (ofBytes bs) (w * j) w

end Sys2Proof.Machine
end

