-- ==== Sys2Proof/Machine/Copy.lean ====
section
/-!
DEFINITION. The copy engine: CPY to CPFILL (R233 to R242), their chunks, and the events COPY_COMPLETE and COPY_SUSPEND
(R243).
-/

namespace Sys2Proof.Machine

/-! ### Chunks -/

/-- Destination chunks of a run of bytes: they end at multiples of 128 (R243, log 10). -/
def spanChunks (d len : Nat) : Nat := (d % 128 + len + 127) / 128

/-- The first byte of chunk `k` of a run and one past its last, from the run's start. -/
def spanChunk (d len k : Nat) : Nat × Nat := (128 * k - d % 128, min len (128 * (k + 1) - d % 128))

/-- The elements of a chunk and the bytes it writes. -/
abbrev Chunk := Except Flt (List Elem × Nat)

/-- Writes bytes `[lo, hi)` of a run, given as a function of the range. -/
def State.runChunk (s : State) (t : Thread) (d : Nat) (r : Nat × Nat) (get : Nat → Nat → Except Flt (List Byte)) :
    Chunk := do
  if r.2 ≤ r.1 then .ok ([], 0)
  else
    let bs ← get r.1 (r.2 - r.1)
    let es ← s.engPut t ((d + r.1) % 2 ^ 64) bs
    .ok (es, bs.length)

/-! ### CPY, CPY2D and CPFILL (R237) -/

/-- Chunk `k` of CPY. -/
def State.cpyChunk (s : State) (t : Thread) (op : EngOp) (k : Nat) : Chunk :=
  let d := op.args.getD 0 0
  s.runChunk t d (spanChunk d (op.args.getD 2 0) k) fun lo n => s.engBytes t ((op.args.getD 1 0 + lo) % 2 ^ 64) n

/-- Chunks that a row of CPY2D may touch. -/
def rowChunks (r : Nat) : Nat := (r + 127) / 128 + 1

/-- Chunk `k` of CPY2D: rows in order, each with its own chunks. -/
def State.cpy2dChunk (s : State) (t : Thread) (op : EngOp) (k : Nat) : Chunk :=
  let shape := op.args.getD 2 0
  let strides := op.args.getD 3 0
  let r := shape % 2 ^ 32
  let i := k / rowChunks r
  let d := op.args.getD 0 0 + i * (strides % 2 ^ 32)
  let src := op.args.getD 1 0 + i * (strides / 2 ^ 32)
  s.runChunk t d (spanChunk d r (k % rowChunks r)) fun lo n => s.engBytes t ((src + lo) % 2 ^ 64) n

/-- Bytes `[lo, lo + n)` of a repeated pattern. -/
def patternBytes (pat width lo n : Nat) : List Byte :=
  (List.range n).map fun i => BitVec.ofNat 8 (pat / 2 ^ (8 * ((lo + i) % width)))

/-- Chunk `k` of CPFILL. -/
def State.cpfillChunk (s : State) (t : Thread) (op : EngOp) (k : Nat) : Chunk :=
  let d := op.args.getD 0 0
  s.runChunk t d (spanChunk d (op.args.getD 2 0) k) fun lo n =>
    .ok (patternBytes (op.args.getD 1 0) (2 ^ (op.xt % 4)) lo n)

/-! ### CPYPL (R238) -/

/-- The AFM code of a type of CPYPL (R238). -/
def plCode (ty xt : Nat) : Nat :=
  match ty with
  | 0 => if xt % 2 = 1 then 8 else 6
  | 4 => if xt % 2 = 1 then 9 else 7
  | 10 => 0
  | 11 => 1
  | 12 => 2
  | 13 => 3
  | 14 => 4
  | _ => 5

/-- A format of CPYPL. -/
def plForm (ty xt : Nat) : PForm :=
  (pForm (plCode ty xt)).getD
    { w := 8, p := 8, bits := down 7 8, elo := 0, en := 0, use_ := .never, isInt := true, signed := false }

/-- Bytes of a scale entry (R50). -/
def PForm.scaleBytes (f : PForm) : Nat := if f.use_ = .ts then 2 else 1

/-- The bytes of a plane's words of rows `[lo, lo + n)` in block `b` (R248, R249). -/
def State.planeWords (s : State) (t : Thread) (f : PForm) (src stride b q lo : Nat) : Nat → Except Flt (List Byte)
  | 0 => .ok []
  | n + 1 => do
    let row ← s.engBytes t ((src + lo * stride + b * (4 * f.w)) % 2 ^ 64) (4 * f.w)
    let word := bitsFrom (fun j => f.planeBit (packedAt f.w (31 - j) row) q) 0 32
    let rest ← s.planeWords t f src stride b q (lo + 1) n
    .ok (toBytes word 4 ++ rest)

/-- The scale bytes of rows `[lo, lo + n)` in block `b` (R50, R250). -/
def State.scaleWords (s : State) (t : Thread) (f : PForm) (sc blocks b lo : Nat) : Nat → Except Flt (List Byte)
  | 0 => .ok []
  | n + 1 => do
    let e ← s.engBytes t ((sc + (lo * blocks + b) * f.scaleBytes) % 2 ^ 64) f.scaleBytes
    let rest ← s.scaleWords t f sc blocks b (lo + 1) n
    .ok (e ++ rest)

/-- Half a plane: 128 bytes of a plane tile from byte `o` (R248). -/
def State.tileBytes (s : State) (t : Thread) (op : EngOp) (o : Nat) : Except Flt (List Byte) :=
  let f := plForm op.ty op.xt
  let kw := op.args.getD 2 0
  let blocks := kw % 2 ^ 16 / 32
  let sc := op.args.getD 3 0
  let rec_ := f.record (sc != 0)
  let b := o / rec_
  let q := o % rec_ / 256
  let half := o % 256 / 128
  if q < f.bits.length then s.planeWords t f (op.args.getD 1 0) (kw / 2 ^ 32) b q (32 * half) 32
  else if f.use_ = .ts then
    if half = 0 then s.scaleWords t f sc blocks b 0 64 else .ok (List.replicate 128 0)
  else if half = 0 then do
    let e ← s.scaleWords t f sc blocks b 0 64
    .ok (e ++ List.replicate 64 0)
  else .ok (List.replicate 128 0)

/-- Bytes of a plane tile (R248). -/
def tileSize (f : PForm) (k : Nat) (scaled : Bool) : Nat := k / 32 * f.record scaled

/-- Chunk `k` of CPYPL. -/
def State.cpyplChunk (s : State) (t : Thread) (op : EngOp) (k : Nat) : Chunk :=
  s.runChunk t (op.args.getD 0 0) (128 * k, 128 * k + 128) fun lo _ => s.tileBytes t op lo

/-! ### PEAT pages (R239 to R241) -/

/-- A PEAT header's format and token count, where it is valid (R239). -/
def peatHeader (h : Nat) : Option (Nat × Nat) :=
  let fmt := fld h 0 4
  let nt := fld h 8 8
  if fld h 4 4 = 1 ∧ 14 ≤ fmt ∧ 1 ≤ nt ∧ nt ≤ 64 ∧ fld h 64 16 = (if fmt = 14 then 9024 else 4928) ∧ fld h 80 16 = 64 ∧
      fld h 96 16 = 320 ∧ fld h 112 16 = 832 then some (fmt, nt)
  else none

/-- Bytes of a page (R239). -/
def peatLen (fmt : Nat) : Nat := if fmt = 14 then 9024 else 4928

/-- Reads and checks a page's header (R240). -/
def State.peatRead (s : State) (t : Thread) (page : Nat) : Except Flt (Nat × Nat) := do
  let h ← s.engNat t page 64
  match peatHeader h with
  | none => .error (.fault 6 page 0)
  | some p => if s.rangeOk t page (peatLen p.1) then .ok p else .error (.fault 7 page 0)

/-- The BF16 code of an element of a page (R51, R240). -/
def peatValue (fmt el scale : Nat) : Nat :=
  match tsValue (tsForm fmt) el scale with
  | none => BF16.canonical
  | some x => (BF16.conv {} x).1

/-- Channels `[32c, 32c + 32)` of a token as BF16 bytes (R240). -/
def State.peatBlock (s : State) (t : Thread) (page fmt tok c : Nat) : Except Flt (List Byte) := do
  let w := if fmt = 14 then 8 else 4
  let scale ← s.engNat t (page + 320 + 2 * (4 * tok + c)) 2
  let els ← s.engBytes t (page + 832 + (4 * tok + c) * (4 * w)) (4 * w)
  .ok ((List.range 32).flatMap fun j => toBytes (peatValue fmt (packedAt w j els) scale) 2)

/-- Half a row of 128 BF16 values, by the page's header (R240). -/
def State.peatHalf (s : State) (t : Thread) (page k : Nat) (h : Nat × Nat) : Except Flt (List Byte) := do
  if h.2 ≤ k / 2 then .ok (List.replicate 128 0)
  else
    let a ← s.peatBlock t page h.1 (k / 2) (2 * (k % 2))
    let b ← s.peatBlock t page h.1 (k / 2) (2 * (k % 2) + 1)
    .ok (a ++ b)

/-- The header of CPEAT's page: read and judged once, before anything is written (R240). -/
def State.cpeatHead (s : State) (t : Thread) (op : EngOp) : Except Flt (Nat × Nat) :=
  match op.data with
  | [fmt, nt] => .ok (fmt, nt)
  | _ => s.peatRead t (op.args.getD 1 0)

/-- Chunk `k` of CPEAT. -/
def State.cpeatChunk (s : State) (t : Thread) (op : EngOp) (k : Nat) (h : Nat × Nat) : Chunk :=
  s.runChunk t (op.args.getD 0 0) (128 * k, 128 * k + 128) fun _ _ => s.peatHalf t (op.args.getD 1 0) k h

/-- The modes of FMT for R55: SAT and SUB (R57). -/
def fmtMode (fmt : Nat) : FpMode := { rnd := fld fmt 25 2, sat := tb fmt 27, sub := min 2 (fld fmt 28 2) }

/-- A summary channel: the mean of BF16 codes (R241). -/
def peatMean (fmt : Nat) (codes : List Nat) : Nat :=
  let md := fmtMode fmt
  let xs := codes.map fun c => BF16.decIn md c
  if xs.any Fp.isNan then BF16.canonical
  else
    let sum := accumulate md 0 (xs.map some)
    (BF16.conv {} (F32.dec (F32.div {} (FA36.dec sum) (.fin false codes.length 0)).1)).1

/-- A block of a token's channels, packed (R53, R241). -/
def peatPack (ty fmt : Nat) (codes : List Nat) : Packed :=
  tsPack (tsForm ty) (tsDistance fmt ty) (.ofFmt fmt) BF16 codes

/-- The header that CPACK writes (R239, R241). -/
def peatHead (ty kw pos : Nat) : Nat :=
  ty + 16 + kw % 256 * 2 ^ 8 + kw / 256 % 256 * 2 ^ 16 + peatLen ty * 2 ^ 64 + 64 * 2 ^ 80 + 320 * 2 ^ 96 +
    832 * 2 ^ 112 + pos % 2 ^ 64 * 2 ^ 128

/-- The whole page that CPACK builds of 64 rows of BF16 codes (R239, R241). -/
def peatPage (ty fmt kw pos : Nat) (rows : List (List Nat)) : List Byte :=
  let nt := kw % 256
  let live := rows.take nt
  let w := if ty = 14 then 8 else 4
  let blocks := live.flatMap fun r => (List.range 4).map fun c => peatPack ty fmt ((r.drop (32 * c)).take 32)
  let mean := (List.range 128).map fun c => peatMean fmt (live.map fun r => r.getD c 0)
  let scales := blocks.flatMap fun p => toBytes p.scale 2
  let els := blocks.flatMap fun p =>
    toBytes ((p.elems.zipIdx).foldl (fun a e => a + e.1 * 2 ^ (w * e.2)) 0) (4 * w)
  toBytes (peatHead ty kw pos) 64 ++ mean.flatMap (fun v => toBytes v 2) ++ scales ++
    List.replicate (512 - scales.length) 0 ++ els ++ List.replicate (1024 * w - els.length) 0

/-- Reads rows of 128 BF16 codes. -/
def State.bf16Rows (s : State) (t : Thread) (a : Nat) : Nat → Except Flt (List (List Nat))
  | 0 => .ok []
  | n + 1 => do
    let bs ← s.engBytes t a 256
    let rest ← s.bf16Rows t (a + 256) n
    .ok ((List.range 128).map (fun c => packedAt 16 c bs) :: rest)

/-- Chunk `k` of CPACK. -/
def State.cpackChunk (s : State) (t : Thread) (op : EngOp) (k : Nat) : Chunk :=
  let d := op.args.getD 0 0
  s.runChunk t d (spanChunk d (peatLen op.ty) k) fun lo n => do
    let rows ← s.bf16Rows t (op.args.getD 1 0) 64
    .ok (((peatPage op.ty op.fmt.toNat (op.args.getD 2 0) (op.args.getD 3 0) rows).drop lo).take n)

/-! ### PSEL (R242) -/

/-- Score `a` ranks before score `b`: larger first, NaN below every number, equal scores by page (R242). -/
def rankBefore (a b : Nat × Nat) : Bool :=
  let x := FA36.dec a.2
  let y := FA36.dec b.2
  if x.isNan then y.isNan && decide (a.1 < b.1)
  else if y.isNan then true
  else if y.lt x then true
  else if x.lt y then false
  else decide (a.1 < b.1)

/-- A page's score: the dot product of its summary with the query (R242). -/
def pageScore (query summary : List Nat) : Nat :=
  accumulate {} 0 ((query.zip summary).map fun p => fpProd (BF16.dec p.2) (BF16.dec p.1))

/-- 128 BF16 codes. -/
def State.bf16Row (s : State) (t : Thread) (a : Nat) : Except Flt (List Nat) := do
  let bs ← s.engBytes t a 256
  .ok ((List.range 128).map fun c => packedAt 16 c bs)

/-- The address and score of each page from page `j` (R242). -/
def State.scorePages (s : State) (t : Thread) (arr : Nat) (query : List Nat) (j : Nat) :
    Nat → Except Flt (List (Nat × Nat × Nat))
  | 0 => .ok []
  | n + 1 => do
    let page ← s.engNat t (arr + 8 * j) 8
    if page % 64 ≠ 0 then .error (.fault 6 page 0)
    else
      let h ← s.engNat t page 64
      if (peatHeader h).isNone then .error (.fault 6 page 0)
      else
        let sm ← s.bf16Row t (page + 64)
        let rest ← s.scorePages t arr query (j + 1) n
        .ok ((j, pageScore query sm, page) :: rest)

/-- The pages that PSEL selects, best first: index, score, address (R242). -/
def State.pselRank (s : State) (t : Thread) (op : EngOp) : Except Flt (List (Nat × Nat × Nat)) := do
  let kw := op.args.getD 2 0
  let query ← s.bf16Row t (op.args.getD 3 0)
  let ps ← s.scorePages t (op.args.getD 1 0) query 0 (kw % 2 ^ 32)
  .ok ((sortBy (fun x y => rankBefore (x.1, x.2.1) (y.1, y.2.1)) ps).take (fld kw 32 8))

/-- The 512 result bytes of PSEL (R242). -/
def pselBytes (best : List (Nat × Nat × Nat)) : List Byte :=
  ((List.range 64).flatMap fun r => toBytes ((best[r]?.map (·.1)).getD 0xFFFFFFFF) 4) ++
    (List.range 64).flatMap fun r => toBytes ((best[r]?.map fun p => (F32.conv {} (FA36.dec p.2.1)).1).getD 0) 4

/-- The pages of a PSEL, as far as its array can be read: a page that lies in the scratchpad is refilled for it (R213,
R242). -/
def State.pselPages (s : State) (t : Thread) (op : EngOp) : List Nat :=
  (List.range (op.args.getD 2 0 % 2 ^ 32)).filterMap fun j =>
    (s.engNat (t.reader op) (op.args.getD 1 0 + 8 * j) 8).toOption

/-! ### All kinds -/

/-- The chunks of a copy operation. PSEL writes its results as chunk 0; its chained rows follow (R242). -/
def EngOp.chunks (op : EngOp) : Nat :=
  let a := op.args
  match op.kind with
  | .cpy => spanChunks (a.getD 0 0) (a.getD 2 0)
  | .cpy2d => a.getD 2 0 / 2 ^ 32 * rowChunks (a.getD 2 0 % 2 ^ 32)
  | .cpypl => tileSize (plForm op.ty op.xt) (a.getD 2 0 % 2 ^ 16) (a.getD 3 0 != 0) / 128
  | .cpeat => 128
  | .cpack => spanChunks (a.getD 0 0) (peatLen op.ty)
  | .psel => 1 + (if tb (a.getD 2 0) 40 then 128 * min (fld (a.getD 2 0) 32 8) (a.getD 2 0 % 2 ^ 32) else 0)
  | .cpfill => spanChunks (a.getD 0 0) (a.getD 2 0)
  | _ => 0

/-- A kind of the copy engine. -/
def OpKind.isCopy (k : OpKind) : Bool :=
  [OpKind.cpy, .cpy2d, .cpypl, .cpeat, .cpack, .psel, .cpfill].contains k

/-- Chunk `k` of PSEL: the results, or half a row of a chained page (R242). -/
def State.pselChunk (s : State) (t : Thread) (op : EngOp) (k : Nat) : Except Flt (List Elem × Nat × List Nat) := do
  let d := op.args.getD 0 0
  if k = 0 then
    let best ← s.pselRank t op
    let es ← s.engPut t d (pselBytes best)
    .ok (es, 512, best.map (·.2.2))
  else
    let page := op.data.getD ((k - 1) / 128) 0
    let h ← s.peatRead t page
    let c ← s.runChunk t (d + 512) (128 * (k - 1), 128 * (k - 1) + 128) fun _ _ => s.peatHalf t page ((k - 1) % 128) h
    .ok (c.1, c.2, op.data)

/-- Chunk `k` of a copy operation: its elements, bytes, and what the operation keeps. -/
def State.copyChunk (s : State) (t : Thread) (op : EngOp) (k : Nat) : Except Flt (List Elem × Nat × List Nat) :=
  let plain (c : Chunk) : Except Flt (List Elem × Nat × List Nat) := c.map fun r => (r.1, r.2, op.data)
  match op.kind with
  | .cpy => plain (s.cpyChunk t op k)
  | .cpy2d => plain (s.cpy2dChunk t op k)
  | .cpypl => plain (s.cpyplChunk t op k)
  | .cpeat => do
    let h ← s.cpeatHead t op
    let c ← s.cpeatChunk t op k h
    .ok (c.1, c.2, [h.1, h.2])
  | .cpack => plain (s.cpackChunk t op k)
  | .psel => s.pselChunk t op k
  | .cpfill => plain (s.cpfillChunk t op k)
  | _ => .ok ([], 0, op.data)

/-- The bytes of a PEAT page whose units more than one chunk of its rows read: its header, and the scales of token `tok`. -/
def peatShared (page tok : Nat) : List (Nat × Nat) := [(page, 64), (page + 320 + 8 * tok, 8)]

/-- The source bytes of chunk `k` whose units other chunks may read too. -/
def EngOp.sources (op : EngOp) (k : Nat) : List (Nat × Nat) :=
  let a := op.args
  let span (src d len k : Nat) : List (Nat × Nat) := [((src + (spanChunk d len k).1) % 2 ^ 64, (spanChunk d len k).2 - (spanChunk d len k).1)]
  match op.kind with
  | .cpy => span (a.getD 1 0) (a.getD 0 0) (a.getD 2 0) k
  | .cpy2d =>
    let r := a.getD 2 0 % 2 ^ 32
    let i := k / rowChunks r
    span (a.getD 1 0 + i * (a.getD 3 0 / 2 ^ 32)) (a.getD 0 0 + i * (a.getD 3 0 % 2 ^ 32)) r (k % rowChunks r)
  | .cpypl =>
    let f := plForm op.ty op.xt
    let sc := a.getD 3 0
    let rec_ := f.record (sc != 0)
    let b := 128 * k / rec_
    if 128 * k % rec_ / 256 < f.bits.length then
      (List.range 32).map fun i =>
        ((a.getD 1 0 + (32 * (128 * k % 256 / 128) + i) * (a.getD 2 0 / 2 ^ 32) + b * (4 * f.w)) % 2 ^ 64, 4 * f.w)
    else (List.range 64).map fun i => ((sc + (i * (a.getD 2 0 % 2 ^ 16 / 32) + b) * f.scaleBytes) % 2 ^ 64, f.scaleBytes)
  | .cpeat => peatShared (a.getD 1 0) (k / 2)
  | .cpack => [(a.getD 1 0, 16384)]
  | .psel =>
    if k = 0 then op.data.map fun page => (page, 64)
    else peatShared (op.data.getD ((k - 1) / 128) 0) ((k - 1) % 128 / 2)
  | _ => []

/-- Reads what one chunk needs and makes its elements ready. A unit that another chunk needs too is read once (R397). -/
def State.doChunk (s : State) (t : Thread) (op : EngOp) (k : Nat) : Except Flt EngOp := do
  op.goesOn
  let r ← s.copyChunk (t.reader op) op k
  let op1 := { op with did := op.did ++ [k], wrote := op.wrote + r.2.1, data := r.2.2
                       out := op.out ++ r.1.map fun (e : Elem) => { e with chunk := k } }
  .ok { op1 with got := s.keepUnits (t.reader op) op.got (op1.sources k) }

/-- Runs an operation through chunks `k` to `k + n - 1`, leaving out those done, until one does not go on. -/
def State.runChunks (s : State) (t : Thread) (op : EngOp) (k : Nat) : Nat → EngOp × Option Flt
  | 0 => (op, none)
  | n + 1 =>
    if op.did.contains k then s.runChunks t op (k + 1) n
    else
      match s.doChunk t op k with
      | .ok op' => s.runChunks t op' (k + 1) n
      | .error f => (op, some f)

/-- Event COPY_COMPLETE: what is left of the operation is done, and it ends (R233, R235, R369, R396). -/
def execCopyComplete (core ticket : Nat) (s : State) : Host.Outcome State Fault Refusal :=
  match s.opAt core ticket OpKind.isCopy with
  | none => notEnabled
  | some p => s.endRun core ticket p.2 (s.runChunks p.2 p.1 0 p.1.chunks) id

/-- Event COPY_SUSPEND: the operation goes on to a chunk that faults, and is suspended (R243). -/
def execCopySuspend (core ticket : Nat) (s : State) : Host.Outcome State Fault Refusal :=
  match s.opAt core ticket OpKind.isCopy with
  | none => notEnabled
  | some p => s.suspendRun core ticket p.2 (s.runChunks p.2 p.1 0 p.1.chunks)

/-- One chunk of a copy operation, in any order (R396, log 10). PSEL's results come before its chained rows. -/
def copyStep (core ticket k : Nat) (s : State) : Host.Outcome State Fault Refusal :=
  match s.opAt core ticket OpKind.isCopy with
  | none => notEnabled
  | some p =>
    if p.1.chunks ≤ k ∨ p.1.did.contains k ∨ (p.1.kind = .psel ∧ k ≠ 0 ∧ !p.1.did.contains 0) then notEnabled
    else
      match s.doChunk p.2 p.1 k with
      | .ok op => .next (s.putOp core ticket op)
      | .error f => s.tried (.engine core ticket) f

/-! ### The instructions -/

/-- The range from the first to the last byte of several. -/
def hull (rs : List (Nat × Nat)) : List (Nat × Nat) :=
  match rs with
  | [] => []
  | r :: rs => [rs.foldl (fun a b => (min a.1 b.1, max a.2 b.2)) r]

/-- The scratchpad ranges that an operation holds: its destination, given first, and one range for its sources, from
their first to their last byte (R235, log 23). -/
def heldRanges (spans : List (Nat × Nat)) : List (Nat × Nat) :=
  scrRanges (spans.take 1) ++ hull (scrRanges (spans.drop 1))

/-- A copy instruction issues: its operands are full, NB is checked, `check` passes, and an operation takes a ticket
(R233 to R235). `spans` are the ranges of addresses it may hold, the destination first. -/
def copyIssue (f : Eng) (s : State) (kind : OpKind) (pair : Bool) (n : Nat)
    (check : Thread → List Nat → Except Ev (List (Nat × Nat))) : Host.Outcome State Fault Refusal :=
  run s fun t => do
    t.quiet
    t.canRead f.a 1
    t.canRead f.b 1
    if n = 2 then .ok ⟨⟩ else if pair then t.canReadPair f.c else t.canRead f.c 1
    s.nbCheck t f.nb.toNat
    let args := [t.uni f.a, t.uni f.b] ++ (if n = 2 then [] else [t.uni f.c]) ++ if pair then [t.pairHi f.c] else []
    let spans ← check t args
    let r ← s.takeTicket t f.dst.toNat
      { kind := kind, tid := s.cur, wg := t.wg, nb := f.nb.toNat, ty := f.ty.toNat, xt := f.xt.toNat, args := args
        fmt := t.regs.fmt, em := t.regs.em, ranges := heldRanges spans }
    done r.1 r.2

/-- CPY (R237). -/
def execCpy (f : Eng) (s : State) : Host.Outcome State Fault Refusal :=
  copyIssue f s .cpy false 3 fun t a => do
    let d := a.getD 0 0
    let src := a.getD 1 0
    let len := a.getD 2 0
    rsvUnless (decide (1 ≤ len ∧ len ≤ 2 ^ 40))
    s.rangeCheck t .store d len
    s.rangeCheck t .load src len
    .ok [(d, len), (src, len)]

/-- CPY2D (R237). -/
def execCpy2d (f : Eng) (s : State) : Host.Outcome State Fault Refusal :=
  copyIssue f s .cpy2d true 3 fun t a => do
    let r := a.getD 2 0 % 2 ^ 32
    let n := a.getD 2 0 / 2 ^ 32
    rsvUnless (decide (r ≠ 0 ∧ n ≠ 0 ∧ r * n ≤ 2 ^ 40))
    let dl := (n - 1) * (a.getD 3 0 % 2 ^ 32) + r
    let sl := (n - 1) * (a.getD 3 0 / 2 ^ 32) + r
    s.rangeCheck t .store (a.getD 0 0) dl
    s.rangeCheck t .load (a.getD 1 0) sl
    .ok [(a.getD 0 0, dl), (a.getD 1 0, sl)]

/-- A scale array is named where the format has one (R238, log 10). -/
def PForm.scaleOk (f : PForm) (sc : Nat) : Bool :=
  match f.use_ with
  | .never => sc == 0
  | .mxOpt => true
  | _ => sc != 0

/-- CPYPL (R238, log 58). -/
def execCpypl (f : Eng) (s : State) : Host.Outcome State Fault Refusal :=
  copyIssue f s .cpypl true 3 fun t a => do
    let F := plForm f.ty.toNat f.xt.toNat
    let k := a.getD 2 0 % 2 ^ 16
    let sc := a.getD 3 0
    let d := a.getD 0 0
    rsvUnless (decide (k % 32 = 0 ∧ 32 ≤ k ∧ k ≤ 4096) && F.scaleOk sc)
    alignCheck .store d 256
    s.scrCheck t .store d (tileSize F k (sc != 0))
    let sl := 63 * (a.getD 2 0 / 2 ^ 32) + k * F.w / 8
    s.rangeCheck t .load (a.getD 1 0) sl
    if sc = 0 then .ok ⟨⟩ else s.rangeCheck t .load sc (64 * (k / 32) * F.scaleBytes)
    .ok ([(d, tileSize F k (sc != 0)), (a.getD 1 0, sl)] ++
      if sc = 0 then [] else [(sc, 64 * (k / 32) * F.scaleBytes)])

/-- The bytes of a page that the scoreboard holds where the page lies in the scratchpad (R240). -/
def State.peatHeld (s : State) (t : Thread) (page : Nat) : Nat :=
  match aperture page with
  | (.scratch, o) => min 9024 (scrLimit (s.hdrOf t) (s.wgOf t) - o)
  | _ => 9024

/-- CPEAT (R240). -/
def execCpeat (f : Eng) (s : State) : Host.Outcome State Fault Refusal :=
  copyIssue f s .cpeat false 2 fun t a => do
    let d := a.getD 0 0
    let page := a.getD 1 0
    alignCheck .store d 256
    alignCheck .load page 64
    s.scrCheck t .store d 16384
    s.rangeCheck t .load page 64
    .ok [(d, 16384), (page, s.peatHeld t page)]

/-- CPACK (R241). -/
def execCpack (f : Eng) (s : State) : Host.Outcome State Fault Refusal :=
  copyIssue f s .cpack true 3 fun t a => do
    let kw := a.getD 2 0
    rsvUnless (decide (kw / 2 ^ 16 = 0 ∧ 1 ≤ kw % 256 ∧ kw % 256 ≤ 64))
    alignCheck .store (a.getD 0 0) 64
    alignCheck .load (a.getD 1 0) 256
    s.rangeCheck t .store (a.getD 0 0) (peatLen f.ty.toNat)
    s.scrCheck t .load (a.getD 1 0) 16384
    .ok [(a.getD 0 0, peatLen f.ty.toNat), (a.getD 1 0, 16384)]

/-- PSEL (R242, log 23). -/
def execPsel (f : Eng) (s : State) : Host.Outcome State Fault Refusal :=
  copyIssue f s .psel true 3 fun t a => do
    let kw := a.getD 2 0
    let n := kw % 2 ^ 32
    let k := fld kw 32 8
    rsvUnless (decide (kw / 2 ^ 41 = 0 ∧ 1 ≤ n ∧ n ≤ 65536 ∧ 1 ≤ k ∧ k ≤ 64))
    let held := 512 + (if tb kw 40 then 16384 * k else 0)
    alignCheck .load (a.getD 1 0) 8
    alignCheck .load (a.getD 3 0) 256
    s.scrCheck t .store (a.getD 0 0) held
    s.rangeCheck t .load (a.getD 1 0) (8 * n)
    s.scrCheck t .load (a.getD 3 0) 256
    .ok [(a.getD 0 0, held), (a.getD 1 0, 8 * n), (a.getD 3 0, 256)]

/-- CPFILL (R237). -/
def execCpfill (f : Eng) (s : State) : Host.Outcome State Fault Refusal :=
  copyIssue f s .cpfill false 3 fun t a => do
    let len := a.getD 2 0
    let w := 2 ^ (f.xt.toNat % 4)
    rsvUnless (decide (1 ≤ len ∧ len ≤ 2 ^ 40 ∧ len % w = 0))
    alignCheck .store (a.getD 0 0) w
    s.rangeCheck t .store (a.getD 0 0) len
    .ok [(a.getD 0 0, len)]

end Sys2Proof.Machine
end

