-- ==== Sys2Proof/Machine/Descent.lean ====
section
/-!
DEFINITION. The stair engine: DTREE, DESC, DREGR, DGRAD, DPATH, DSTAT and their events (R315 to R332), and ERESUME
(R244, R327).
-/

namespace Sys2Proof.Machine

/-! ### Tree records (R316 to R318) -/

/-- Fields of a tree record. -/
def trNodes (r : Nat) : Nat := fld r 0 64
def trBias (r : Nat) : Nat := fld r 64 64
def trGrad (r : Nat) : Nat := fld r 128 64
def trGbias (r : Nat) : Nat := fld r 192 64
def trLeafb (r : Nat) : Nat := fld r 256 32
def trNstr (r : Nat) : Nat := fld r 288 32
def trGstr (r : Nat) : Nat := fld r 320 32
/-- Node width d. -/
def trWidth (r : Nat) : Nat := 32 * (fld r 352 8 + 1)
def trDepth (r : Nat) : Nat := fld r 360 5
def trNfmt (r : Nat) : Nat := fld r 365 3

/-- Bytes of a node row (R317). -/
def rowBytes (r : Nat) : Nat :=
  let d := trWidth r
  if trNfmt r = 0 then 2 * d else if trNfmt r = 1 then d else d + d / 16

/-- An address lies in the global window or the attic aperture (R318). -/
def treeSpace (a : Nat) : Bool := (aperture a).1 == .global || (aperture a).1 == .attic

/-- A valid record (R318). -/
def trValid (r : Nat) : Bool :=
  fld r 368 4 == 1 && decide (trNfmt r ≤ 2 ∧ 1 ≤ trDepth r ∧ trDepth r ≤ 24) &&
    trNodes r != 0 && trNodes r % 64 == 0 && trNstr r % 16 == 0 && decide (rowBytes r ≤ trNstr r) &&
    trBias r % 4 == 0 && trGbias r % 4 == 0 &&
    (trGrad r == 0 || (trGrad r % 4 == 0 && trGstr r % 4 == 0 && decide (4 * trWidth r ≤ trGstr r))) &&
    treeSpace (trNodes r) && (trBias r == 0 || treeSpace (trBias r)) && (trGrad r == 0 || treeSpace (trGrad r)) &&
    (trGbias r == 0 || treeSpace (trGbias r))

/-! ### Slots -/

/-- A tree slot of a thread. -/
def Thread.slot (t : Thread) (n : Nat) : TreeSlot := t.trees.getD n {}

/-- Changes a tree slot. -/
def Thread.setSlot (t : Thread) (n : Nat) (x : TreeSlot) : Thread := { t with trees := t.trees.put n x }

/-- The DESC in flight or suspended on a slot: its ticket and operation. -/
def State.descOn (s : State) (t : Thread) (tid n : Nat) : Option (Nat × EngOp) :=
  (s.cores.getD (s.coreOf t) {}).ops.find? fun o => o.2.kind == .desc && o.2.tid == tid && o.2.xt % 4 == n

/-- Stalls while a DESC is in flight or suspended on the slot (R326). -/
def State.slotFree (s : State) (t : Thread) (n : Nat) : Except Ev Unit :=
  if (s.descOn t s.cur n).isSome then .error .stall else .ok ⟨⟩

/-- PTHn of a lane. -/
def Regs.path (r : Regs) (n i : Nat) : Nat := (r.pth.get (64 * n + i)).toNat

/-! ### DTREE (R320) -/

/-- DTREE (R320). No DESC has run since it, so the stop mask is zero (R332). -/
def execDtree (f : Eng) (s : State) : Host.Outcome State Fault Refusal :=
  run s fun t => do
    let n := f.xt.toNat % 4
    t.canRead f.a 1
    t.quiet
    s.slotFree t n
    let a := t.uni f.a
    let fin := fun (s : State) (t : Thread) (st : Nat) =>
      done s ((t.putG f.dst.toNat (BitVec.ofNat 64 st)).setCC { t := st != 0, z := st == 0 })
    if a = 0 then fin s (t.setSlot n { t.slot n with bound := false, stop := 0 }) 0
    else if a % 64 ≠ 0 then .error (alignTrap .load a)
    else
      let r ← s.loadWords t a 8
      if trValid r.1 then fin r.2.1 (r.2.2.setSlot n { bound := true, record := r.1 }) 0 else fin r.2.1 r.2.2 1

/-! ### DESC (R321 to R327) -/

/-- The bytes from the first to the last token row of the lanes in EM. -/
def tokenSpan (ls : List Nat) (base stride bytes : Nat) : Option (Nat × Nat) :=
  match ls with
  | [] => none
  | i :: _ => some (base + i * stride, (ls.getLastD i - i) * stride + bytes)

/-- The token rows of the lanes in EM and the trace or gradient area, if there is one, lie in the scratchpad (R321, R330). -/
def State.tokenCheck (s : State) (t : Thread) (r base stride : Nat) (area : Option Nat) (acc : Acc) : Except Ev Unit :=
  match t.active.find? fun i => !((aperture (base + i * stride)).1 == .scratch &&
      s.rangeOk t (base + i * stride) (2 * trWidth r)) with
  | some i => .error (holeTrap .load (base + i * stride))
  | none => match area with
    | none => .ok ⟨⟩
    | some a => s.scrCheck t acc a (256 * trDepth r)

/-- NODES and BIAS lie in the attic's valid offsets where they name the attic (R321). -/
def State.atticCheck (s : State) (t : Thread) (r : Nat) : Except Ev Unit :=
  let n := 2 ^ trDepth r - 1
  let bad := fun a len => (aperture a).1 == .attic && !s.rangeOk t a len
  if bad (trNodes r) ((n - 1) * trNstr r + rowBytes r) then .error (holeTrap .load (trNodes r))
  else if trBias r ≠ 0 ∧ bad (trBias r) (4 * n) then .error (holeTrap .load (trBias r))
  else .ok ⟨⟩

/-- The binding and the stride word are right (R321, R330). -/
def strideCheck (sl : TreeSlot) (word : Nat) : Except Ev Unit :=
  rsvUnless (sl.bound && decide (word / 2 ^ 32 = 0 ∧ word % 16 = 0 ∧ 2 * trWidth sl.record ≤ word))

/-- The ranges of a stair operation (R321, R330). -/
def stairRanges (ls : List Nat) (base stride : Nat) (area : Option Nat) (depth d : Nat) : List (Nat × Nat) :=
  scrRanges ((tokenSpan ls base stride (2 * d)).toList ++ area.toList.map fun a => (a, 256 * depth))

/-- The trace area of a DESC; base 0 is none (R321, R322). -/
def traceArea (base : Nat) : Option Nat := if base = 0 then none else some base

/-- DESC (R321, R322). -/
def execDesc (f : Eng) (s : State) : Host.Outcome State Fault Refusal :=
  run s fun t => do
    let n := f.xt.toNat % 4
    t.quiet
    t.canRead f.a 1
    t.canRead f.b 1
    t.canRead f.c 1
    s.slotFree t n
    s.nbCheck t f.nb.toNat
    let sl := t.slot n
    let base := t.uni f.a
    let trace := t.uni f.b
    let stride := t.uni f.c
    strideCheck sl stride
    t.canWrite f.dst.toNat 1
    alignCheck .load base 16
    alignCheck .store trace 4
    s.tokenCheck t sl.record base stride (traceArea trace) .store
    s.atticCheck t sl.record
    if t.active.isEmpty then done (if f.nb = 63 then s else s.nbAdd t.wg f.nb.toNat { a := 1 }) t
    else
      let pid := s.nextId
      let r ← s.takeEntry t
        { kind := .desc, tid := s.cur, wg := t.wg, nb := f.nb.toNat, xt := f.xt.toNat
          args := [base, trace, stride, sl.record], fmt := t.regs.fmt, em := t.regs.em, pid := some pid
          ranges := stairRanges t.active base stride (traceArea trace) (trDepth sl.record) (trWidth sl.record)
          data := 0 :: 0 :: List.replicate 64 0 }
      let p := r.2.produce t { toG := false, reg := f.dst.toNat, n := 1, lanes := t.regs.em, vals := [], waiting := 0
                               ready := false, slot := none }
      done p.1 p.2

/-- The lanes of an operation's EM at issue. -/
def EngOp.lanes (op : EngOp) : List Nat := (List.range 64).filter fun i => op.em.getLsbD i

/-- The weights of a node row: decoded, a NaN block's as NaN (R317, R322). -/
def State.nodeRow (s : State) (t : Thread) (r k : Nat) (md : FpMode) : Except Flt (List Fp) := do
  let d := trWidth r
  let bs ← s.engBytes t ((trNodes r + k * trNstr r) % 2 ^ 64) (rowBytes r)
  .ok ((List.range d).map fun c =>
    match trNfmt r with
    | 0 => BF16.decIn md (ofBytes ((bs.drop (2 * c)).take 2))
    | 1 => E4M3.decIn md (ofBytes ((bs.drop c).take 1))
    | _ => tsFp 14 (ofBytes ((bs.drop c).take 1)) (ofBytes ((bs.drop (d + 2 * (c / 32))).take 2)))

/-- A bias, converted exactly to FA36 (R322). -/
def State.nodeBias (s : State) (t : Thread) (r k : Nat) : Except Flt Nat := do
  if trBias r = 0 then .ok 0
  else
    let b ← s.engNat t ((trBias r + 4 * k) % 2 ^ 64) 4
    .ok (FA36.conv { can := true } (F32.dec b)).1

/-- A token's row of BF16 values. -/
def State.tokenRow (s : State) (t : Thread) (a d : Nat) (md : FpMode) : Except Flt (List Fp) := do
  let bs ← s.engBytes t a (2 * d)
  .ok ((List.range d).map fun c => BF16.decIn md (ofBytes ((bs.drop (2 * c)).take 2)))

/-- One token at one level: its accumulator (R322). -/
def State.descAcc (s : State) (t : Thread) (op : EngOp) (l path i : Nat) : Except Flt Nat := do
  let r := op.args.getD 3 0
  let md := fmtMode op.fmt.toNat
  let k := 2 ^ l - 1 + path
  let w ← s.nodeRow t r k md
  let b ← s.nodeBias t r k
  let x ← s.tokenRow t (op.args.getD 0 0 + i * op.args.getD 2 0) (trWidth r) md
  .ok (accumulate md b ((x.zip w).map fun p => fpProd p.1 p.2))

/-- The accumulators of the lanes that are still descending. -/
def State.descAccs (s : State) (t : Thread) (op : EngOp) (l : Nat) : List Nat → Except Flt (List (Nat × Nat))
  | [] => .ok []
  | i :: is => do
    let rest ← s.descAccs t op l is
    if tb (op.data.getD 1 0) i then .ok rest
    else
      let a ← s.descAcc t op l (op.data.getD (2 + i) 0) i
      .ok ((i, a) :: rest)

/-- The elements of a trace entry, where there is a trace (R322). -/
def State.putTrace (s : State) (t : Thread) (op : EngOp) (l i v : Nat) : Except Flt (List Elem) :=
  if op.args.getD 1 0 = 0 then .ok [] else s.engPut t (op.args.getD 1 0 + 256 * l + 4 * i) (toBytes v 4)

/-- What a level does to one lane: path and stop (R322). -/
def EngOp.descend (op : EngOp) (i acc : Nat) : EngOp :=
  if (FA36.dec acc).isNan then { op with data := op.data.set 1 (op.data.getD 1 0 + 2 ^ i) }
  else { op with data := op.data.set (2 + i) (2 * op.data.getD (2 + i) 0 + bit (!tb acc 35)) }

/-- The trace entries of a stopped token for `n` levels from one on (R322). -/
def State.nanTrace (s : State) (t : Thread) (op : EngOp) (l i : Nat) : Nat → Except Flt (List Elem)
  | 0 => .ok []
  | n + 1 => do
    let es ← s.putTrace t op l i 0x7FC00000
    let rest ← s.nanTrace t op (l + 1) i n
    .ok (es ++ rest)

/-- The trace entries that a level writes for one lane (R322). -/
def State.descTrace (s : State) (t : Thread) (op : EngOp) (l i acc : Nat) : Except Flt (List Elem) :=
  if (FA36.dec acc).isNan then s.nanTrace t op l i (trDepth (op.args.getD 3 0) - l)
  else s.putTrace t op l i (F32.conv { sat := tb op.fmt.toNat 27 } (FA36.dec acc)).1

/-- The trace entries of a level. -/
def State.descTraces (s : State) (t : Thread) (op : EngOp) (l : Nat) : List (Nat × Nat) → Except Flt (List Elem)
  | [] => .ok []
  | a :: as => do
    let es ← s.descTrace t op l a.1 a.2
    let rest ← s.descTraces t op l as
    .ok (es ++ rest)

/-- One level of a descent, whose trace entries are then ready to be written (R322). -/
def State.descLevel (s : State) (t : Thread) (op : EngOp) : Except Flt EngOp := do
  op.goesOn
  let l := op.data.getD 0 0
  let u := t.reader op
  let as ← s.descAccs u op l op.lanes
  let es ← s.descTraces u op l as
  let op' := as.foldl (fun o a => o.descend a.1 a.2) op
  .ok { op' with data := op'.data.set 0 (l + 1), out := op'.out ++ es }

/-- Up to `n` levels, until one does not go on (R327). -/
def State.descRun (s : State) (t : Thread) (op : EngOp) : Nat → EngOp × Option Flt
  | 0 => (op, none)
  | n + 1 =>
    match s.descLevel t op with
    | .ok op' => s.descRun t op' n
    | .error f => (op, some f)

/-- The producer of DESC completes with a value per lane (R323). -/
def Thread.descFill (t : Thread) (op : EngOp) (val : Nat → Nat) : Thread :=
  match op.pid with
  | none => t
  | some pid =>
    match t.prods.get? pid with
    | none => t
    | some p => t.complete pid { p with vals := valsOf 1 (op.lanes.map fun i => (i, val i)) }

/-- Writes PTHn of the lanes (R323). -/
def Regs.setPaths (r : Regs) (n : Nat) (ls : List Nat) (f : Nat → Nat) : Regs :=
  { r with pth := setLanes r.pth (64 * n) (fun i => BitVec.ofNat 32 (f i)) ls }

/-- What a completed DESC writes (R323). -/
def Thread.descDone (t : Thread) (op : EngOp) : Thread :=
  let n := op.xt % 4
  let stop := op.data.getD 1 0
  let path := fun i => op.data.getD (2 + i) 0
  let leaf := fun i => if tb stop i then 0xFFFFFFFF else (trLeafb (op.args.getD 3 0) + path i) % 2 ^ 32
  let t := t.descFill op leaf
  let upd := fun r => Regs.setPaths r n op.lanes path
  { t.setSlot n { t.slot n with stop := BitVec.ofNat 64 stop, err := false } with
    regs := upd t.regs, pend := t.pend.map (Pend.mapRegs upd) }

/-- What an aborted DESC writes (R327). -/
def Thread.descAbort (t : Thread) (op : EngOp) : Thread :=
  let n := op.xt % 4
  (t.descFill op fun _ => 0xFFFFFFFF).setSlot n { t.slot n with stop := op.em, err := true }

/-- The levels that a DESC has left. -/
def EngOp.levelsLeft (op : EngOp) : Nat := trDepth (op.args.getD 3 0) - op.data.getD 0 0

/-- Event DESC_COMPLETE: what is left is done, and the operation ends (R323). -/
def execDescComplete (core ticket : Nat) (s : State) : Host.Outcome State Fault Refusal :=
  match s.opAt core ticket (· == .desc) with
  | none => notEnabled
  | some p =>
    let r := s.descRun p.2 p.1 p.1.levelsLeft
    s.endRun core ticket p.2 r fun s => { s with threads := s.threads.upd p.1.tid fun t => t.descDone r.1 }

/-! ### DGRAD (R330) -/

/-- DGRAD (R330). -/
def execDgrad (f : Eng) (s : State) : Host.Outcome State Fault Refusal :=
  run s fun t => do
    let n := f.xt.toNat % 4
    t.quiet
    t.canRead f.a 1
    t.canRead f.b 1
    t.canRead f.c 1
    s.slotFree t n
    s.nbCheck t f.nb.toNat
    let sl := t.slot n
    let base := t.uni f.a
    let grad := t.uni f.b
    let stride := t.uni f.c
    strideCheck sl stride
    rsvUnless (trGrad sl.record != 0)
    alignCheck .load base 16
    alignCheck .load grad 4
    s.tokenCheck t sl.record base stride (some grad) .load
    let em := t.regs.em &&& ~~~sl.stop
    let r ← s.takeTicket t f.dst.toNat
      { kind := .dgrad, tid := s.cur, wg := t.wg, nb := f.nb.toNat, xt := f.xt.toNat
        args := [base, grad, stride, sl.record], em := em
        ranges := stairRanges t.active base stride (some grad) (trDepth sl.record) (trWidth sl.record)
        data := (List.range 64).map fun i => t.regs.path n i % 2 ^ trDepth sl.record }
    done r.1 r.2

/-- The node that lane `i` meets at level `l` (R330). -/
def EngOp.nodeAt (op : EngOp) (l i : Nat) : Nat := 2 ^ l - 1 + op.data.getD i 0 / 2 ^ (trDepth (op.args.getD 3 0) - l)

/-- The (level, node) rows that a DGRAD adds to, in order (R330). -/
def EngOp.gradRows (op : EngOp) : List (Nat × Nat) :=
  (List.range (trDepth (op.args.getD 3 0))).flatMap fun l =>
    (sortBy (fun a b => decide (a ≤ b)) (op.lanes.map fun i => op.nodeAt l i)).eraseDups.map fun k => (l, k)

/-- a + x · y to F32, one rounding, to nearest even (R330, R384). -/
def f32Fma (a : Nat) (x y : Fp) : Nat := (F32.dot { can := true } [x, y, F32.dec a] [(x, y)] [F32.dec a]).1

/-- The gradient of a lane at a level. -/
def State.gradAt (s : State) (t : Thread) (op : EngOp) (l i : Nat) : Except Flt Nat :=
  s.engNat t (op.args.getD 1 0 + 256 * l + 4 * i) 4

/-- The lanes of a row with their gradients and token rows. -/
def State.gradLanes (s : State) (t : Thread) (op : EngOp) (l : Nat) : List Nat → Except Flt (List (Nat × List Fp))
  | [] => .ok []
  | i :: is => do
    let g ← s.gradAt t op l i
    let x ← s.tokenRow t (op.args.getD 0 0 + i * op.args.getD 2 0) (trWidth (op.args.getD 3 0)) {}
    let rest ← s.gradLanes t op l is
    .ok ((g, x) :: rest)

/-- The adds of sums to consecutive words: all places are checked before any is made (R330). -/
def State.addElems (s : State) (t : Thread) (va : Nat) : List Nat → Except Flt (List Elem)
  | [] => .ok []
  | v :: vs => do
    let p ← s.engPlace t .atomic va
    if p.isDead then .error .wait
    else
      let es ← s.addElems t ((va + 4) % 2 ^ 64) vs
      .ok ({ va := va, place := p, data := toBytes v 4, add := some 8 } :: es)

/-- One row of a DGRAD: its sums, whose adds are then ready to be made (R330). -/
def State.gradRow (s : State) (t : Thread) (op : EngOp) (row : Nat × Nat) : Except Flt EngOp := do
  op.goesOn
  let r := op.args.getD 3 0
  let u := t.reader op
  let ls ← s.gradLanes u op row.1 (op.lanes.filter fun i => op.nodeAt row.1 i == row.2)
  let sums := (List.range (trWidth r)).map fun c =>
    ls.foldl (fun a x => f32Fma a (F32.dec x.1) (x.2.getD c (.fin false 0 0))) 0
  let es ← s.addElems u ((trGrad r + row.2 * trGstr r) % 2 ^ 64) sums
  let bs ← if trGbias r = 0 then .ok []
    else s.addElems u ((trGbias r + 4 * row.2) % 2 ^ 64) [ls.foldl (fun a x => f32Add false a x.1) 0]
  .ok { op with did := op.did ++ [row.2], out := op.out ++ (joinAway es ++ bs).map fun (e : Elem) => { e with chunk := row.2 } }

/-- The rows of a list that are left, in order, until one does not go on. -/
def State.gradRun (s : State) (t : Thread) (op : EngOp) : List (Nat × Nat) → EngOp × Option Flt
  | [] => (op, op.stopped)
  | r :: rs =>
    if op.did.contains r.2 then s.gradRun t op rs
    else
      match s.gradRow t op r with
      | .ok op' => s.gradRun t op' rs
      | .error f => (op, some f)

/-- Event DGRAD_COMPLETE: what is left is done, and the operation ends (R330). -/
def execDgradComplete (core ticket : Nat) (s : State) : Host.Outcome State Fault Refusal :=
  match s.opAt core ticket (· == .dgrad) with
  | none => notEnabled
  | some p => s.endRun core ticket p.2 (s.gradRun p.2 p.1 p.1.gradRows) id

/-- Event DESC_SUSPEND: a DESC is suspended at the start of a level that faults, a DGRAD before a row that does (R327). -/
def execDescSuspend (core ticket : Nat) (s : State) : Host.Outcome State Fault Refusal :=
  match s.opAt core ticket fun k => k == .desc || k == .dgrad with
  | none => notEnabled
  | some p =>
    s.suspendRun core ticket p.2 <|
      if p.1.kind = .desc then s.descRun p.2 p.1 p.1.levelsLeft else s.gradRun p.2 p.1 p.1.gradRows

/-- A DESC goes on by one level, a DGRAD by its row `k` (R396). -/
def stairStep (core ticket k : Nat) (s : State) : Host.Outcome State Fault Refusal :=
  match s.opAt core ticket fun k => k == .desc || k == .dgrad with
  | none => notEnabled
  | some p =>
    let r := if p.1.kind = .desc then s.descRun p.2 p.1 (min 1 p.1.levelsLeft)
      else s.gradRun p.2 p.1 ((p.1.gradRows.drop k).take 1)
    match r.2 with
    | none => when (decide (r.1 ≠ p.1)) (s.putOp core ticket r.1)
    | some f => s.tried (.engine core ticket) f

/-! ### DREGR, DPATH and DSTAT (R329, R331, R332) -/

/-- The tokens of DREGR ranked by prefix, then by lane (R329). -/
def rankTokens (ls : List Nat) (pre : Nat → Nat) : List Nat :=
  sortBy (fun a b => decide (pre a < pre b ∨ (pre a = pre b ∧ a ≤ b))) ls

/-- The group entries of DREGR: prefix, first rank, count (R329). -/
def regroups (pre : Nat → Nat) (ranked : List Nat) : List Nat :=
  ((ranked.map pre).eraseDups).map fun p =>
    p % 2 ^ 32 + ranked.findIdx (fun i => pre i == p) * 2 ^ 32 +
      (ranked.filter fun i => pre i == p).length * 2 ^ 48

/-- The stores of DREGR in program order: offset, size, value (R329). -/
def dregrStores (ranked gs : List Nat) : List (Nat × Nat × Nat) :=
  (List.range 64).map (fun r => (4 * r, 4, ranked.getD r 0xFFFFFFFF)) ++
    (List.range 64).map fun g => (256 + 8 * g, 8, gs.getD g 0)

/-- DREGR (R329). -/
def execDregr (f : Eng) (s : State) : Host.Outcome State Fault Refusal :=
  run s fun t => do
    let n := f.xt.toNat % 4
    t.quiet
    t.canRead f.a 1
    t.canRead f.b 1
    s.slotFree t n
    let sl := t.slot n
    let d := trDepth sl.record
    let p := t.uni f.b % 64
    let a := t.uni f.a
    rsvUnless (sl.bound && decide (1 ≤ p ∧ p ≤ d))
    alignCheck .store a 8
    s.scrCheck t .store a 768
    let o := (aperture a).2
    if s.scrWaits t (.scratch o) 768 then .error (s.held t 768 [.scratch o])
    else
      let pre := fun i => t.regs.path n i % 2 ^ d / 2 ^ (d - p)
      let ranked := rankTokens (t.active.filter fun i => !sl.stop.getLsbD i) pre
      let gs := regroups pre ranked
      let r := s.storePlaces t ((dregrStores ranked gs).map fun x => (.scratch (o + x.1), toBytes x.2.2 x.2.1))
      done r.1 ((r.2.putG f.dst.toNat (BitVec.ofNat 64 gs.length)).setCC { z := gs.isEmpty })

/-- DPATH.READ (R331). -/
def execDpathRead (f : Eng) (s : State) : Host.Outcome State Fault Refusal :=
  run s fun t => do
    let n := f.xt.toNat % 4
    s.slotFree t n
    t.canWrite f.dst.toNat 1
    done s (t.put f.dst.toNat 1 false 32 fun i => t.regs.path n i)

/-- DPATH.WRITE (R331). -/
def execDpathWrite (f : Eng) (s : State) : Host.Outcome State Fault Refusal :=
  run s fun t => do
    let n := f.xt.toNat % 4
    t.quiet
    s.slotFree t n
    t.canRead f.a 1
    let sl := t.slot n
    let regs := t.regs.setPaths n t.active fun i => t.opnd f.a 1 32 i
    done s { t.setSlot n { sl with stop := sl.stop &&& ~~~t.regs.em } with regs := regs }

/-- The slot summary (R332). -/
def slotSummary (sl : TreeSlot) (on : Option (Nat × EngOp)) : Nat :=
  (if sl.bound then trDepth sl.record + trNfmt sl.record * 2 ^ 5 else 0) + bit sl.bound * 2 ^ 8 +
    bit on.isSome * 2 ^ 9 + bit (on.any fun o => o.2.susp.isSome) * 2 ^ 10 + bit sl.err * 2 ^ 11 +
    ((on.map (·.1)).getD 0) * 2 ^ 16

/-- DSTAT (R332). -/
def execDstat (f : Eng) (s : State) : Host.Outcome State Fault Refusal :=
  run s fun t =>
    let n := f.xt.toNat % 4
    let sl := t.slot n
    let on := s.descOn t s.cur n
    let v := if f.xt.getLsbD 2 then sl.stop else BitVec.ofNat 64 (slotSummary sl on)
    done s ((t.putG f.dst.toNat v).setCC { t := on.isSome, z := sl.stop == 0 })

/-! ### ERESUME (R244, R327) -/

/-- The suspended operation of the workgroup that a ticket names (R244). -/
def State.suspended (s : State) (t : Thread) (ticket : Nat) : Option EngOp :=
  match (s.cores.getD (s.coreOf t) {}).ops.get? ticket with
  | none => none
  | some op => if op.wg = t.wg ∧ op.susp.isSome then some op else none

/-- The operand of ERESUME (R244). -/
def eticket (f : Eng) (t : Thread) : Except Ev Nat := do
  t.canRead f.a 1
  if 16 ≤ t.uni f.a then .error rsv else .ok (t.uni f.a)

/-- ERESUME: the operation goes on (R244). -/
def execEresume (f : Eng) (s : State) : Host.Outcome State Fault Refusal :=
  run s fun t => do
    t.quiet
    let k ← eticket f t
    match s.suspended t k with
    | none => done s (t.setCC { t := true })
    | some op =>
      done (s.updCore (s.coreOf t) fun c => { c with ops := c.ops.put k { op with susp := none } }) (t.setCC {})

/-- ERESUME.ABORT: the operation ends with error status (R244, R327). -/
def execEresumeAbort (f : Eng) (s : State) : Host.Outcome State Fault Refusal :=
  run s fun t => do
    t.quiet
    let k ← eticket f t
    match s.suspended t k with
    | none => done s (t.setCC { t := true })
    | some op =>
      let s' := s.finishOp (s.coreOf t) k op true
      if op.kind ≠ .desc then done s' (t.setCC {})
      else if op.tid = s.cur then done s' ((t.descAbort op).setCC {})
      else done { s' with threads := s'.threads.upd op.tid fun u => u.descAbort op } (t.setCC {})

end Sys2Proof.Machine
end

