-- ==== Sys2Proof/Machine/Gather.lean ====
section
/-!
DEFINITION. Gather and scatter: handles (R292 to R296), the instructions of R297 to R299 and their status and counters
(R309 to R311), the service of rows at their home (R300 to R303, R306, R308, R365), pooling (R304, R305), ordered
rounds (R307), and the messages between packages.
-/

namespace Sys2Proof.Machine

/-! ### Table records (R293 to R296) -/

/-- The key of a handle of a partition. -/
def handleKey (part h : Nat) : Nat := 4096 * part + h

/-- The handle that a partition has bound. -/
def State.handle (s : State) (part h : Nat) : Option Handle :=
  if h < 4096 then s.handles.get? (handleKey part h) else none

/-- Bytes of a row. -/
def Handle.len (h : Handle) : Nat := 16 * h.rowb

/-- A shard entry (R294). -/
def shardOf (w : Nat) : Shard :=
  { base := fld w 192 64, cnt := fld w 160 32, first := fld w 128 32, die := fld w 17 2, pkg := fld w 0 17 }

/-- The handle that a record's header and shard entries bind (R293, R296). -/
def handleOf (hdr : Nat) (shards : List Shard) : Handle :=
  { nrows := fld hdr 96 32, nsrc := fld hdr 64 16, rowb := fld hdr 20 10, efmt := fld hdr 12 4
    interleaved := tb hdr 8, shards := shards, counters := shards.map fun _ => 0 }

/-- A record passes the checks of R296. -/
def recordOk (hdr : Nat) (h : Handle) : Bool :=
  fld hdr 0 4 == 1 && h.nrows != 0 && h.rowb != 0 && decide (h.rowb ≤ 512) &&
    h.shards.all fun x => x.base % 16 == 0 && x.cnt != 0 && (h.interleaved || decide (x.first + x.cnt ≤ 2 ^ 32))

/-- Shard entries as they lie in words read from memory. -/
def shardsOf (w n : Nat) : List Shard := (List.range n).map fun k => shardOf (fld w (256 * k) 256)

/-- THDL (R296). -/
def execThdl (f : Eng) (s : State) : Host.Outcome State Fault Refusal :=
  run s fun t => do
    t.canRead f.a 1
    t.canRead f.b 1
    t.quiet
    let h := t.uni f.b
    let a := t.uni f.a
    let fin := fun (s : State) (t : Thread) (st : Nat) =>
      done s ((t.putG f.dst.toNat (BitVec.ofNat 64 st)).setCC { t := st != 0, z := st == 0 })
    if 4096 ≤ h then .error rsv
    else if a = 0 then fin { s with handles := s.handles.del (handleKey (s.partOf t) h) } t 0
    else if a % 64 ≠ 0 then .error (alignTrap .load a)
    else
      let r ← s.loadWords t a 8
      let n := fld r.1 32 8 + 1
      let r2 ← r.2.1.loadWords r.2.2 ((a + 64) % 2 ^ 64) (4 * n)
      let b := handleOf r.1 (shardsOf r2.1 n)
      if recordOk r.1 b then fin { r2.2.1 with handles := r2.2.1.handles.put (handleKey (s.partOf t) h) b } r2.2.2 0
      else fin r2.2.1 r2.2.2 1

/-! ### Locating rows (R295) -/

/-- The shard of a row with its number in the map, and the row's virtual address at its home; none when the index is out
of range. -/
def Handle.locate (h : Handle) (r : Nat) : Option (Nat × Shard × Nat) :=
  if h.nrows ≤ r then none
  else if h.interleaved then
    let n := h.shards.length
    match h.shards[r % n]? with
    | some x => if r / n < x.cnt then some (r % n, x, (x.base + r / n * h.len) % 2 ^ 64) else none
    | none => none
  else
    match h.shards.zipIdx.find? fun x => decide (x.1.first ≤ r ∧ r < x.1.first + x.1.cnt) with
    | some x => some (x.2, x.1, (x.1.base + (r - x.1.first) * h.len) % 2 ^ 64)
    | none => none

/-! ### Elements (R304, R306) -/

/-- The modes of pooling and of scatter sums: to nearest even, subnormals kept, no saturation, NaN canonical. -/
def poolMode : FpMode := { can := true }

/-- EFMT is S32, Z32, F32, F16 or BF16 (R298). -/
def poolable (ty : Nat) : Bool := isIntTy ty || decide (8 ≤ ty ∧ ty ≤ 10)

/-- The elements of a row: integers, or floats taken to F32. -/
def rowElems (ty : Nat) (bs : List Byte) : List Nat :=
  let v := ofBytes bs
  let w := 8 * elemBytes ty
  (List.range (bs.length / elemBytes ty)).map fun k =>
    let e := fld v (w * k) w
    if isIntTy ty then e else (F32.conv poolMode ((fmtOf ty).dec e)).1

/-- The row of a list of sums, each rounded once to EFMT. -/
def elemsRow (ty : Nat) (es : List Nat) : List Byte :=
  es.flatMap fun e => toBytes (if isIntTy ty then e else ((fmtOf ty).conv poolMode (F32.dec e)).1) (elemBytes ty)

/-- One addition. -/
def elemAdd (ty a b : Nat) : Nat := if isIntTy ty then (a + b) % 2 ^ 32 else f32Add false a b

/-- One maximum. -/
def elemMax (ty a b : Nat) : Nat :=
  if isIntTy ty then (if tInt (ty == 2) 32 a < tInt (ty == 2) 32 b then b else a)
  else (F32.minmax poolMode true true a b).1

/-- Combines rows of elements, the first present one as the start. -/
def combine (f : Nat → Nat → Nat) : List (List Nat) → Option (List Nat)
  | [] => none
  | r :: rs => some (rs.foldl (fun a b => (a.zip b).map fun p => f p.1 p.2) r)

/-- How GATHP combines: SUM or MAX. -/
def poolOp (max_ : Bool) (ty : Nat) : Nat → Nat → Nat := if max_ then elemMax ty else elemAdd ty

/-- A row that takes part in a pool group: position, group, die, bytes. -/
structure Contrib where
  pos : Nat
  group : Nat
  die : Nat
  bytes : List Byte

/-- The part of one die in one pool group, in order of position (R305). -/
def diePart (max_ : Bool) (ty : Nat) (cs : List Contrib) : Option (List Nat) :=
  combine (poolOp max_ ty) ((sortBy (fun a b => decide (a.pos ≤ b.pos)) cs).map fun c => rowElems ty c.bytes)

/-- The parts of the dies of one package: pool group, die, part (R305). -/
def dieParts (max_ : Bool) (ty : Nat) (cs : List Contrib) : List (Nat × Nat × List Nat) :=
  (cs.map (·.group)).eraseDups.flatMap fun g =>
    (List.range 4).filterMap fun d =>
      (diePart max_ ty (cs.filter fun c => c.group == g && c.die == d)).map fun p => (g, d, p)

/-- The part of one package in one pool group: its dies' parts in increasing die (R305). -/
def packagePart (max_ : Bool) (ty g : Nat) (ps : List (Nat × Nat × List Nat)) : Option (List Nat) :=
  combine (poolOp max_ ty)
    ((sortBy (fun a b => decide (a.2.1 ≤ b.2.1)) (ps.filter fun p => p.1 == g)).map fun p => p.2.2)

/-! ### Landing rows -/

/-- Writes one byte of a tile. In an unpinned scratchpad page it lands in the backing region (R213, R313). -/
def State.landByte (s : State) (t : Thread) (va : Nat) (b : Byte) : State :=
  match aperture va with
  | (.scratch, o) =>
    let g := s.wgOf t
    if g.pinned.contains (o / 16384) then (s.writePlace t (.scratch o) [b]).1
    else s.porchStore (g.backing + o) [b]
  | (.attic, o) => (s.writePlace t (.attic o) [b]).1
  | _ => s

/-- Writes bytes of a tile. -/
def State.land (s : State) (t : Thread) (va : Nat) : List Byte → State
  | [] => s
  | b :: bs => (s.landByte t va b).land t (va + 1) bs

/-- Bytes of a source tile, where they lie: in the scratchpad or in the backing region (R213). -/
def State.sourceRow (s : State) (t : Thread) (va n : Nat) : List Byte :=
  (List.range n).map fun k =>
    let o := (aperture va).2 + k
    if (s.wgOf t).pinned.contains (o / 16384) then (s.wgOf t).scr.get o
    else (s.physBytes ((s.wgOf t).backing + o) 1).headD 0

/-- A poisoned line lies under bytes of a source tile (R419). -/
def State.sourcePoison (s : State) (t : Thread) (va n : Nat) : Bool :=
  (List.range n).any fun k =>
    let o := (aperture va).2 + k
    if (s.wgOf t).pinned.contains (o / 16384) then (s.wgOf t).scrPoison.contains (o / 128)
    else
      let p := s.forwarded ((s.wgOf t).backing + o)
      pkgOf p == s.pkg && s.poisoned (inPkg p)

/-! ### Ordered rounds (R307) -/

/-- The order in which held adds take effect. -/
def heldBefore (a b : Nat × Nat × Nat × GWork) : Bool :=
  decide (a.1 < b.1 ∨ (a.1 = b.1 ∧ (a.2.1 < b.2.1 ∨ (a.2.1 = b.2.1 ∧ a.2.2.1 ≤ b.2.2.1))))

/-- Adds works to the home's list. -/
def State.addWorks (s : State) (ws : List GWork) : State :=
  { s with gworks := s.gworks ++ (ws.zipIdx.map fun w => (s.nextId + w.2, { w.1 with sent := s.time.toNat }))
           nextId := s.nextId + ws.length }

/-- A round with NSRC closes and its announced rows is released, in order, and a new one starts. -/
def State.ordRelease (s : State) (key nsrc : Nat) : State :=
  match s.ordRounds.get? key with
  | none => s
  | some r =>
    if nsrc ≤ r.closes ∧ r.received = r.announced then
      ({ s with ordRounds := s.ordRounds.del key } : State).addWorks
        ((sortBy heldBefore r.held).map fun h => { h.2.2.2 with ord := true })
    else s

/-- The round of a handle (log 59). -/
def State.ordRound (s : State) (key : Nat) : OrdRound :=
  s.ordRounds.getD key { closes := 0, announced := 0, received := 0, held := [] }

/-- A close reaches a home. -/
def State.ordClose (s : State) (key nsrc rows : Nat) : State :=
  let r := s.ordRound key
  let r' := { r with closes := r.closes + 1, announced := r.announced + rows }
  ({ s with ordRounds := s.ordRounds.put key r' } : State).ordRelease key nsrc

/-! ### Settling rows -/

/-- A row of an operation is settled: its bytes, or zeros where it failed, are ready to be written (R300, R302). -/
def GOp.settle (o : GOp) (row cause : Nat) (bytes : List Byte) : GOp :=
  match o.rows.get? row with
  | none => o
  | some r =>
    if r.settled then o
    else
      { o with
        rows := o.rows.put row { r with settled := true, bytes := if cause = 0 then bytes else [] }
        fails := if cause = 0 then o.fails else o.fails ++ r.pos.map fun j => (j, cause) }

/-- The same in the state. -/
def State.settleRow (s : State) (gid row cause : Nat) (bytes : List Byte) : State :=
  match s.gops.get? gid with
  | none => s
  | some o => { s with gops := s.gops.put gid (o.settle row cause bytes) }

/-- The reply to another package, once every row of its request is answered (R300, R305). -/
def serveReply (pkg : Nat) (v : GServe) : GatherRep :=
  let pooled := v.req.kind = 1 ∨ v.req.kind = 2
  let cs := v.req.rows.flatMap fun r =>
    match v.rows.find? fun x => x.1 == r.key && x.2.1 == 0 with
    | some x => r.pos.map fun p => ({ pos := p.1, group := p.2, die := r.die, bytes := x.2.2 } : Contrib)
    | none => []
  { pkg := pkg, id := v.req.id
    rows := v.rows.map fun x => (x.1, x.2.1, if pooled then [] else x.2.2)
    parts := if pooled then dieParts (v.req.kind == 2) v.req.efmt cs else [] }

/-- A row of a work is over, with its cause (R300, R302). -/
def State.workOver (s : State) (w : GFor) (cause : Nat) (bytes : List Byte) : State :=
  match w with
  | .own gid row => s.settleRow gid row cause bytes
  | .other req row =>
    match s.gserves.get? req with
    | none => s
    | some v =>
      let v' := { v with rows := v.rows ++ [(row, cause, bytes)] }
      if v.req.rows.length ≤ v'.rows.length then
        ({ s with gserves := s.gserves.del req } : State).sendMsg (.rowsDone v.req.src (serveReply s.pkg v'))
      else { s with gserves := s.gserves.put req v' }

/-- An ordered add reaches its home: held, or failed where 65536 rows are held already (R307). -/
def State.ordHold (s : State) (key nsrc src core seq : Nat) (w : GWork) : State :=
  let r := s.ordRound key
  let full := 65536 ≤ r.held.length
  let r' := { r with received := r.received + 1, held := if full then r.held else r.held ++ [(src, core, seq, w)] }
  let s1 := { s with ordRounds := s.ordRounds.put key r' }
  (if full then s1.workOver w.for_ 5 [] else s1).ordRelease key nsrc

/-! ### Issue (R297 to R299) -/

/-- The positions whose index and pool group are in range. -/
def GIssue.good (g : GIssue) : List (Nat × Nat) :=
  (g.idx.zipIdx.map fun x => (x.2, x.1)).filter fun x =>
    (g.hd.locate x.2).isSome && decide (g.kind ≠ 1 ∧ g.kind ≠ 2 ∨ g.groups.getD x.1 0 < g.m)

/-- The distinct indices, in order of first occurrence, with their positions (R300). -/
def GIssue.folded (g : GIssue) : List (Nat × List Nat) :=
  (g.good.map (·.2)).eraseDups.map fun r => (r, (g.good.filter fun x => x.2 == r).map (·.1))

/-- The folded add of a distinct row: its source rows, by position, in list order (R306). -/
def GIssue.foldedAdd (g : GIssue) (row : Nat → List Byte) (pos : List Nat) : List Byte :=
  elemsRow g.hd.efmt ((combine (elemAdd g.hd.efmt) (pos.map fun j => rowElems g.hd.efmt (row j))).getD [])

/-- A kind that adds. -/
def addsRows (kind : Nat) : Bool := kind == 3 || kind == 4

/-- The rows that an operation asks for, as they go to their homes: package, shard number and row. `row` gives the source row of
a position. -/
def GIssue.askedRows (g : GIssue) (row : Nat → List Byte) : List (Nat × Nat × GatherRow) :=
  g.folded.zipIdx.filterMap fun r =>
    (g.hd.locate r.1.1).map fun l =>
      (l.2.1.pkg, l.1,
        { key := r.2, die := l.2.1.die, va := l.2.2, pos := r.1.2.map fun j => (j, g.groups.getD j 0)
          data := if addsRows g.kind then g.foldedAdd row r.1.2 else [] })

/-- The 16-byte units or the words of a row that are to be done. -/
def workUnits (kind len : Nat) : List Nat := List.range (if addsRows kind then len / 4 else len / 16)

/-- The work of a row at its home; `phys` where another home has sent it on. -/
def workOf (kind efmt len : Nat) (w : GFor) (r : GatherRow) (phys : Bool := false) : GWork :=
  { for_ := w, add := addsRows kind, low := kind == 5, ord := false, die := r.die, va := r.va, efmt := efmt
    todo := workUnits kind len, got := [], data := r.data, phys := phys }

/-- Counts the folded rows per shard, saturating (R311). -/
def Handle.count (h : Handle) (shards : List Nat) : Handle :=
  { h with counters := h.counters.zipIdx.map fun c => satAdd 32 c.1 (shards.filter (· == c.2)).length }

/-- Sends the rows of an operation to their homes; those of this package begin there (R300, R307). -/
def State.askRows (s : State) (gid : Nat) (g : GIssue) (key core seq : Nat) (rows : List (Nat × Nat × GatherRow)) :
    State :=
  let own := (rows.filter fun r => r.1 == s.pkg).map fun r =>
    workOf g.kind g.hd.efmt g.hd.len (.own gid r.2.2.key) r.2.2
  let pkgs := (sortBy (fun a b => decide (a ≤ b)) ((rows.filter fun r => r.1 != s.pkg).map (·.1))).eraseDups
  let req (p : Nat) : OutMsg := .rows p
    { src := s.pkg, id := gid, kind := g.kind, efmt := g.hd.efmt, len := g.hd.len, handle := key, nsrc := g.hd.nsrc
      core := core, seq := seq, rows := (rows.filter fun r => r.1 == p).map (·.2.2) }
  let s := s.sendMsgs (pkgs.map req)
  if g.kind = 4 then own.foldl (fun s w => s.ordHold key g.hd.nsrc s.pkg core seq w) s else s.addWorks own

/-- The ordered rows that a workgroup has sent, by package (R307). -/
def Wg.noteOrd (w : Wg) (h : Nat) (pkgs : List Nat) : Wg :=
  { w with ordSent := pkgs.foldl (fun m p => m.put (2 ^ 17 * h + p) (m.getD (2 ^ 17 * h + p) 0 + 1)) w.ordSent }

/-- The positions that fail because their index or pool group is out of range (R302). -/
def GIssue.outOfRange (g : GIssue) : List (Nat × Nat) :=
  let good := g.good.map (·.1)
  ((List.range g.n).filter fun j => !good.contains j).map fun j => (j, 1)

/-- The kind of the scoreboard entry. -/
def opKindOf (kind : Nat) : OpKind :=
  match kind with
  | 0 => .gath
  | 1 => .gathp
  | 2 => .gathp
  | 5 => .gpref
  | _ => .scata

/-- An operation asks for its rows; `o` has been issued (R300, R307, R311). -/
def State.gatherAsk (s : State) (gid key : Nat) (g : GIssue) (o : GOp) (rows : List (Nat × Nat × GatherRow)) : State :=
  let grow (x : Nat × Nat × GatherRow) : Nat × GRow :=
    (x.2.2.key, { pkg := x.1, die := x.2.2.die, va := x.2.2.va, pos := x.2.2.pos.map (·.1), settled := false, bytes := [] })
  let s1 := { s with
    gops := s.gops.put gid { o with rows := rows.map grow, sent := s.time.toNat, req := none }
    handles := s.handles.upd key fun h => h.count (rows.map fun (x : Nat × Nat × GatherRow) => x.2.1) }
  let s2 := if g.kind = 4 then s1.updWg o.wg fun (w : Wg) => w.noteOrd g.h (rows.map fun (x : Nat × Nat × GatherRow) => x.1) else s1
  s2.askRows gid g key o.core o.seq rows

/-- Starts an operation (R299, R300). A scatter reads its source rows before it asks for its rows (R306, R396). -/
def State.gatherStart (s : State) (t : Thread) (f : Eng) (g : GIssue) (span : Nat) : Except Ev (State × Thread) := do
  let gid := s.nextId
  let bytes := if g.kind = 1 ∨ g.kind = 2 then g.m * g.hd.len else g.n * g.hd.len
  let core := s.coreOf t
  let r ← ({ s with nextId := gid + 1 } : State).takeEntry t
    { kind := opKindOf g.kind, tid := s.cur, wg := t.wg, nb := f.nb.toNat, wrote := bytes, data := [gid]
      ranges := if g.kind = 5 then [] else scrRanges [(g.tile, span)] }
  let op : GOp :=
    { core := core, ticket := r.1, wg := t.wg, kind := g.kind, efmt := g.hd.efmt, len := g.hd.len, n := g.n, m := g.m
      dst := g.tile, groups := g.groups, rows := [], fails := g.outOfRange, parts := [], sent := s.time.toNat
      req := if addsRows g.kind then some g else none, seq := (s.cores.getD core {}).ordCount }
  let s1 := { r.2 with gops := r.2.gops.put gid op }
  let s2 := if g.kind = 4 then s1.updCore core fun c => { c with ordCount := c.ordCount + 1 } else s1
  let s3 := if addsRows g.kind then s2
    else s2.gatherAsk gid (handleKey (s.partOf t) g.h) g op (g.askedRows fun _ => [])
  done s3 (t.putG f.dst.toNat (BitVec.ofNat 64 r.1))

/-- Reads values of `w` bytes from the scratchpad as ordinary loads (R298). -/
def State.readList (s : State) (t : Thread) (va w n : Nat) : Except Ev (List Nat × State × Thread) := do
  let ps ← s.resolveAll t .load w true ((List.range n).map fun j => (0, (va + w * j) % 2 ^ 64))
  if s.anyWaits t w ps then .error (s.held t w (ps.map (·.2.2)))
  else
    let r := s.loadPlaces t w ps
    .ok (r.1.map fun x => ofBytes x.2, r.2)

/-- Check 1 of R298: the request word's fields, with the handle's binding. -/
def State.requestWord (s : State) (t : Thread) (rw_ : Nat) (pooled close : Bool) : Except Ev (Nat × Handle × Nat × Nat) :=
  let n := fld rw_ 16 11
  let m := fld rw_ 32 11
  let fits := fld rw_ 12 4 == 0 && fld rw_ 27 5 == 0 && (if pooled then rw_ / 2 ^ 43 == 0 else rw_ / 2 ^ 32 == 0)
  let nOk := if close then n == 0 else decide (1 ≤ n ∧ n ≤ 1024)
  if fits && nOk && (!pooled || decide (1 ≤ m ∧ m ≤ 1024)) then
    match s.handle (s.partOf t) (rw_ % 4096) with
    | some h => .ok (rw_ % 4096, h, n, m)
    | none => .error rsv
  else .error rsv

/-- Check 2 of R298. -/
def formatCheck (h : Handle) (ord : Bool) : Except Ev Unit := rsvUnless (poolable h.efmt && (!ord || h.nsrc != 0))

/-- Checks a range that lies in the attic. -/
def State.atticRange (s : State) (t : Thread) (va n : Nat) : Except Ev Unit :=
  if (aperture va).1 = .attic ∧ s.rangeOk t va n then .ok ⟨⟩ else .error (holeTrap .store va)

/-- The instructions GATH, GATHP, SCATA and GPREF, by kind (R297 to R299). -/
def gatherIssue (f : Eng) (s : State) (kind : Nat) : Host.Outcome State Fault Refusal :=
  run s fun t => do
    let pooled := kind == 1 || kind == 2
    t.quiet
    t.canRead f.a 1
    t.canRead f.b 1
    if pooled then t.canReadPair f.c else t.canRead f.c 1
    s.nbCheck t f.nb.toNat
    let tile := t.uni f.a
    let list := t.uni f.b
    let vec := t.pairHi f.c
    let w ← s.requestWord t (t.uni f.c) pooled false
    let hd := w.2.1
    let n := w.2.2.1
    if pooled ∨ addsRows kind then formatCheck hd (kind == 4) else .ok ⟨⟩
    alignCheck (if addsRows kind then .load else .store) tile 16
    alignCheck .load list 4
    if pooled then alignCheck .load vec 2 else .ok ⟨⟩
    s.scrCheck t .load list (4 * n)
    if pooled then s.scrCheck t .load vec (2 * n) else .ok ⟨⟩
    let span := if pooled then w.2.2.2 * hd.len else n * hd.len
    if kind = 5 then s.atticRange t tile span
    else s.scrCheck t (if addsRows kind then .load else .store) tile span
    let r ← s.readList t list 4 n
    let p ← if pooled then r.2.1.readList r.2.2 vec 2 n else .ok ([], r.2)
    p.2.1.gatherStart p.2.2 f
      { kind := kind, h := w.1, hd := hd, n := n, m := w.2.2.2, tile := tile, idx := r.1, groups := p.1 } span

/-- GATH (R300). -/
def execGath (f : Eng) (s : State) : Host.Outcome State Fault Refusal := gatherIssue f s 0

/-- GATHP (R304, R305). -/
def execGathp (f : Eng) (s : State) : Host.Outcome State Fault Refusal :=
  gatherIssue f s (if f.op = 0 then 1 else 2)

/-- SCATA and SCATA.ORD (R306, R307). -/
def execScata (f : Eng) (s : State) : Host.Outcome State Fault Refusal :=
  gatherIssue f s (if f.xt.getLsbD 0 then 4 else 3)

/-- GPREF (R308). -/
def execGpref (f : Eng) (s : State) : Host.Outcome State Fault Refusal := gatherIssue f s 5

/-- SCATA.CLOSE: its closes wait in its entry until the Porch sends them (R307). -/
def execScataClose (f : Eng) (s : State) : Host.Outcome State Fault Refusal :=
  run s fun t => do
    t.quiet
    t.canRead f.c 1
    s.nbCheck t f.nb.toNat
    let w ← s.requestWord t (t.uni f.c) false true
    formatCheck w.2.1 true
    let gid := s.nextId
    let r ← ({ s with nextId := gid + 1 } : State).takeTicket t f.dst.toNat
      { kind := .scatClose, tid := s.cur, wg := t.wg, nb := f.nb.toNat
        data := [gid, handleKey (s.partOf t) w.1, w.2.1.nsrc]
        pos := ((w.2.1.shards.map (·.pkg)).eraseDups).map fun p => (p, 0) }
    done r.1 r.2

/-! ### Sending a close (R307) -/

/-- Messages that have not reached their package. -/
def State.inFlight (s : State) : List OutMsg := s.outbox ++ s.lanes.flatMap fun l => l.2.replay.map (·.msg)

/-- An ordered request of a workgroup on a handle, issued before `gid`, has not been sent, or has not reached its homes. -/
def State.ordInFlight (s : State) (wg key gid : Nat) : Bool :=
  (s.gops.any fun o => decide (o.1 < gid) && o.2.wg == wg && o.2.req.any fun g => g.kind == 4 && g.h == key % 4096) ||
    s.inFlight.any fun m =>
      match m with
      | .rows _ q => q.kind == 4 && q.handle == key && decide (q.id < gid) && ((s.gops.get? q.id).map (·.wg)) == some wg
      | _ => false

/-- A close of a workgroup on a handle, issued before `gid`, has not been sent: ordered rows after it belong to the next round
(R307). -/
def State.closeWaits (s : State) (wg key gid : Nat) : Bool :=
  s.cores.any fun c => c.2.ops.any fun o =>
    o.2.kind == .scatClose && o.2.wg == wg && o.2.did.isEmpty && o.2.data.getD 1 0 == key && decide (o.2.data.getD 0 0 < gid)

/-- A close of an operation has not been delivered. -/
def State.closeInFlight (s : State) (gid : Nat) : Bool :=
  s.inFlight.any fun m =>
    match m with
    | .scatClose _ c => c.src == s.pkg && c.id == gid
    | _ => false

/-- The ordered rows that a workgroup has sent to a package on a handle, in this round. -/
def Wg.ordRows (w : Wg) (h pkg : Nat) : Nat := w.ordSent.getD (2 ^ 17 * h + pkg) 0

/-- The Porch sends the closes of a SCATA.CLOSE, once every earlier ordered request has reached its homes (R307). -/
def closeStep (core ticket : Nat) (op : EngOp) (s : State) : Host.Outcome State Fault Refusal :=
  let gid := op.data.getD 0 0
  let key := op.data.getD 1 0
  let nsrc := op.data.getD 2 0
  if op.did.isEmpty ∧ !s.ordInFlight op.wg key gid ∧ !s.closeWaits op.wg key gid then
    let w := s.wgs.getD op.wg .absent
    let s1 := (s.updCore core fun c => { c with ops := c.ops.put ticket { op with did := [0] } }).updWg op.wg fun g =>
      { g with ordSent := g.ordSent.filter fun e => e.1 / 2 ^ 17 != key % 4096 }
    .next (op.pos.foldl (fun s p =>
      let rows := w.ordRows (key % 4096) p.1
      if p.1 = s.pkg then s.ordClose key nsrc rows
      else s.sendMsg (.scatClose p.1 { src := s.pkg, id := gid, handle := key, nsrc := nsrc, rows := rows })) s1)
  else notEnabled

/-! ### Reading the source of a scatter, and writing the destination of a gather (R300, R304, R306, R397) -/

/-- A unit of the source tile is read (R306, R397). -/
def State.readSource (s : State) (t : Thread) (g : GIssue) (o : GOp) (u : Nat) : GOp :=
  if (o.src.get? u).isSome then o
  else
    { o with src := o.src.put u (s.sourceRow t (g.tile + 16 * u) 16)
             srcBad := if s.sourcePoison t (g.tile + 16 * u) 16 then o.srcBad ++ [u] else o.srcBad }

/-- The units of a source row. -/
def GIssue.rowUnits (g : GIssue) (j : Nat) : List Nat := (List.range (g.hd.len / 16)).map (j * (g.hd.len / 16) + ·)

/-- A source row as it has been read. -/
def GOp.sourceRow (o : GOp) (g : GIssue) (j : Nat) : List Byte := (g.rowUnits j).flatMap fun u => o.src.getD u []

/-- A scatter reads what is left of its source, and asks for its rows; folded rows with a poisoned source row fail (R302, R306). -/
def State.scatterSend (s : State) (t : Thread) (gid : Nat) (g : GIssue) (o : GOp) : State :=
  let o1 := (List.range (g.n * g.hd.len / 16)).foldl (fun o u => s.readSource t g o u) o
  let bad := (g.folded.filter fun r => r.2.any fun j => (g.rowUnits j).any o1.srcBad.contains).flatMap (·.2)
  let o2 := { o1 with fails := o1.fails ++ bad.map fun j => (j, 4) }
  s.gatherAsk gid (handleKey (s.partOf t) g.h) g o2
    ((g.askedRows fun j => o2.sourceRow g j).filter fun r => r.2.2.pos.all fun p => !bad.contains p.1)

/-! ### Serving rows at their home (R300 to R303, R306, R365) -/

/-- What a Cellar unit finds at an address of a row. -/
inductive HomeRes where
  | ok (p : Place)
  /-- It fails with a cause of R310. -/
  | fails (cause : Nat)
  | wait
  /-- A page has to be walked first (R219). -/
  | walk (page : Nat)
  deriving DecidableEq, Repr

/-- What the checks of a physical address give a row. -/
def homeOf : Res → HomeRes
  | .ok p => .ok p
  | .bad _ 9 1 _ _ => .fails 6
  | .bad _ 9 _ _ _ => .fails 3
  | .bad _ 8 _ _ _ => .fails 4
  | .bad .. => .fails 2
  | _ => .wait

/-- An access of a row at its home. -/
def GWork.acc (w : GWork) : Acc := if w.add then .atomic else .load

/-- The translation of a row's page at its home: a walk that has failed for it, or what the TLB of the die holds. -/
def State.homeWalk (s : State) (w : GWork) (va : Nat) : Option WalkRes :=
  match w.walkFaults.find? fun f => f.1 == va / 65536 with
  | some f => some f.2
  | none => s.translate (s.partOfDie w.die) w.die none va

/-- What a Cellar unit finds at an address of a row (R300, R302, R303). One that another home has sent on carries the physical
address, and goes no further. -/
def State.homeRes (s : State) (w : GWork) (va : Nat) : HomeRes :=
  let part := s.partOfDie w.die
  if w.phys then
    if (s.fwdOf (inPkg va)).isSome then .fails 6 else homeOf (s.physRes part false w.acc va true)
  else if 2 ^ 56 ≤ va then .fails 2
  else
    match s.homeWalk w va with
    | none => .walk (va / 65536)
    | some (.fault ..) => .fails 2
    | some .poison => .fails 4
    | some (.remote sub _) => .fails (if sub = 1 then 6 else 3)
    | some .never => .ok (.dead 0)
    | some (.away ..) => .wait
    | some (.page base big r wr x mig _) =>
      if w.add && !wr && mig then .wait
      else if !rightsOk w.acc r wr x then .fails 2
      else homeOf (s.physRes part false w.acc (pageAddr base big va) true)

/-- A row waits for a page. -/
def State.walkRow (s : State) (id : Nat) (w : GWork) (page : Nat) : Host.Outcome State Fault Refusal :=
  let s' := s.walkFor (s.partOfDie w.die) w.die page fun x => if x.works.contains id then x else { x with works := x.works ++ [id] }
  when (decide (s'.walks ≠ s.walks)) s'

/-- The cause for a failure that the holder of a forwarded page reports (R302, R303, R310). -/
def holderCause (cls sub : Nat) : Nat :=
  match cls with
  | 8 => 4
  | 9 => if sub = 1 then 6 else 3
  | _ => 2

/-- One of several numbers, of the device's choice. -/
def State.pickOne (s : State) (salt : Nat) (ks : List Nat) : Option Nat := ks[Config.freeNat s.free salt % ks.length]?

/-- A work goes before another: prefetches follow the rest, ordered adds of a row follow one another (R307, R308). -/
def State.workWaits (s : State) (id : Nat) (w : GWork) : Bool :=
  (w.low && s.gworks.any fun e => !e.2.low) ||
    (w.ord && s.gworks.any fun e => e.2.ord && decide (e.1 < id) && e.2.die == w.die && e.2.va == w.va)

/-- A work ends. -/
def State.endWork (s : State) (id : Nat) (w : GWork) (cause : Nat) : State :=
  ({ s with gworks := s.gworks.del id, aways := s.aways.filter fun a => match a.2.owner with
      | .row k _ => k != id
      | _ => true } : State).workOver w.for_ cause ((List.range w.got.length).flatMap fun k => w.got.getD k [])

/-- A unit of a row has been fetched. -/
def State.fetched (s : State) (id : Nat) (w : GWork) (k : Nat) (bs : List Byte) : State :=
  let w' := { w with todo := w.todo.filter (· != k), got := w.got.put k bs }
  if w'.todo.isEmpty then s.endWork id w' 0 else { s with gworks := s.gworks.put id w' }

/-- A word of a row has been added to. -/
def State.added (s : State) (id : Nat) (w : GWork) (k : Nat) : State :=
  let w' := { w with todo := w.todo.filter (· != k) }
  if w'.todo.isEmpty then s.endWork id w' 0 else { s with gworks := s.gworks.put id w' }

/-- The holder of a forwarded page is asked for a unit, or for an add to a word (R303). `key` is the number under which the
work remembers it. -/
def State.askHolder (s : State) (id : Nat) (w : GWork) (key va : Nat) (p : Place) (add : Option (Nat × List Byte)) : State :=
  ({ s with gworks := s.gworks.put id { w with asked := w.asked ++ [key] } } : State).sendAway
    { owner := .row id key, va := va
      req := { src := s.pkg, id := 0, kind := if add.isSome then 5 else 0, op := (add.map (·.1)).getD 0, pa := p.remotePa
               size := if add.isSome then 4 else 16, data := (add.map (·.2)).getD [], forwarded := p.hopped, far := true } }

/-- What a Cellar unit finds at every unit or word of a row that is left. -/
def State.homeAll (s : State) (w : GWork) : List HomeRes :=
  w.todo.map fun k => s.homeRes w ((w.va + (if w.add then 4 else 16) * k) % 2 ^ 64)

/-- A work's home is a lost die, or its row lies in the memory of one, and HFTMO has passed (R302). -/
def State.rowDead (s : State) (w : GWork) : Bool :=
  s.lost w.die || (s.homeAll w).any fun r => match r with
    | .ok p => p.isDead
    | _ => false

/-- The request that a work serves, but for its rows: of an operation of this package, or of another one. -/
def State.workReq (s : State) (w : GWork) : Option (GatherReq × Nat) :=
  match w.for_ with
  | .own gid row => (s.gops.get? gid).map fun o =>
      ({ src := s.pkg, id := gid, kind := o.kind, efmt := o.efmt, len := o.len, handle := 0, nsrc := 0, core := 0, seq := 0
         rows := [] }, row)
  | .other req row => (s.gserves.get? req).map fun v => (v.req, row)

/-- The address that a row of a GATH or GPREF has at the holder of a forwarded page, where all of it lies there and none of it has
been fetched (R303). -/
def State.sentOn (s : State) (w : GWork) : Option (Nat × GatherReq × Nat) :=
  match s.workReq w, s.homeAll w with
  | some q, .ok (.remote pa hop) :: rs =>
    if (q.1.kind = 0 ∨ q.1.kind = 5) ∧ w.got.isEmpty ∧ w.asked.isEmpty ∧
        (HomeRes.ok (.remote pa hop) :: rs) = (List.range w.todo.length).map (fun k => .ok (.remote (pa + 16 * k) hop)) then
      some (pa, q)
    else none
  | _, _ => none

/-- A request of another package has one row less to answer: its answer comes from elsewhere (R303). -/
def State.dropServe (s : State) (w : GFor) (holder : Nat) : State :=
  match w with
  | .own gid row =>
    { s with gops := s.gops.upd gid fun o => { o with rows := o.rows.upd row fun r => { r with pkg := holder } } }
  | .other req row =>
    match s.gserves.get? req with
    | none => s
    | some v =>
      let v' : GServe := { v with req := { v.req with rows := v.req.rows.filter fun r => r.key != row } }
      if v'.rows.length < v'.req.rows.length then { s with gserves := s.gserves.put req v' }
      else if v'.rows.isEmpty then { s with gserves := s.gserves.del req }
      else ({ s with gserves := s.gserves.del req } : State).sendMsg (.rowsDone v.req.src (serveReply s.pkg v'))

/-- A row of a GATH or GPREF is sent on to the holder of a forwarded page, which answers the sending Porch (R303). -/
def State.sendOn (s : State) (work : Nat) (w : GWork) (x : Nat × GatherReq × Nat) : State :=
  let row : GatherRow := { key := x.2.2, die := w.die, va := x.1, pos := [], data := [] }
  (({ s with gworks := s.gworks.del work } : State).dropServe w.for_ (pkgOf x.1)).sendMsg
    (.rows (pkgOf x.1) { x.2.1 with rows := [row], forwarded := true })

/-- Event GATHER_ROW_SERVICE: a Cellar unit fetches one 16-byte unit of a row, in any order, or sends the row on; a row on a lost die
fails once HFTMO has passed (R301, R302, R303, R365). -/
def execGatherRowService (work : Nat) (s : State) : Host.Outcome State Fault Refusal :=
  match s.gworks.get? work with
  | none => notEnabled
  | some w =>
    if s.rowDead w then when (s.overdue w.sent) (s.endWork work w 3)
    else
      match s.pickOne (work + 4) (w.todo.filter fun k => !w.asked.contains (2 * k)), s.sentOn w with
      | none, _ => notEnabled
      | some k, on =>
        let va := (w.va + 16 * k) % 2 ^ 64
        if w.add ∨ s.workWaits work w then notEnabled
        else
          match s.homeRes w va with
          | .fails c => .next (s.endWork work w c)
          | .ok (.phys a) => .next (s.fetched work w k (s.mem.bytes a 16))
          | .ok (.remote pa hop) =>
            .next (match on with
              | some x => s.sendOn work w x
              | none => s.askHolder work w (2 * k) va (.remote pa hop) none)
          | .walk page => s.walkRow work w page
          | _ => notEnabled

/-- What the check of all words of an add's row gives: the places, or what the row meets; a failure anywhere fails the row before any
word is added (R302, R306). -/
def rowCheck (rs : List HomeRes) : Except HomeRes (List Place) :=
  let at_ : HomeRes → Option Place
    | .ok p => some p
    | _ => none
  let is (r : HomeRes) : Nat := match r with
    | .fails _ => 2
    | .walk _ => 1
    | _ => 0
  match rs.find? (is · == 2), rs.find? (is · == 1) with
  | some r, _ => .error r
  | none, some r => .error r
  | none, none => if rs.all fun r => (at_ r).isSome then .ok (rs.filterMap at_) else .error .wait

/-- The units of a checked row in another package that have not been probed (R303, log 11). -/
def GWork.unprobed (w : GWork) : List Nat :=
  ((w.places.zipIdx.filter fun p => p.1.isRemote).map fun p => p.2 / 4).eraseDups.filter fun u => (w.got.get? u).isNone

/-- An add's row that has been checked goes on by one word, in any order (R303, R306). -/
def State.addWord (s : State) (work : Nat) (w : GWork) : Host.Outcome State Fault Refusal :=
  match w.unprobed with
  | u :: us =>
    match (u :: us).find? fun k => !w.asked.contains (2 * k) with
    | none => notEnabled
    | some k => .next (s.askHolder work w (2 * k) ((w.va + 16 * k) % 2 ^ 64) (w.places.getD (4 * k) (.phys 0)) none)
  | [] =>
    match s.pickOne (work + 4) (w.todo.filter fun k => !w.asked.contains (2 * k + 1)) with
    | none => notEnabled
    | some k =>
      let data := (w.data.drop (4 * k)).take 4
      match w.places.getD k (.dead 0) with
      | .phys a =>
        when (!s.moving a)
          ((s.putPhysNat a 4 (wordAdd w.efmt false (s.mem.getNat a 4) (ofBytes data))).added work w k)
      | .remote pa hop =>
        .next (s.askHolder work w (2 * k + 1) ((w.va + 4 * k) % 2 ^ 64) (.remote pa hop) (some (w.efmt, data)))
      | _ => notEnabled

/-- Event SCATTER_ADD_APPLY: a Cellar unit checks a row, and then adds to its words one by one, in any order (R306); a row
on a lost die fails once HFTMO has passed (R302). -/
def execScatterAddApply (work : Nat) (s : State) : Host.Outcome State Fault Refusal :=
  match s.gworks.get? work with
  | none => notEnabled
  | some w =>
    if !w.add ∨ s.workWaits work w then notEnabled
    else if !w.places.isEmpty then (if s.lost w.die then notEnabled else s.addWord work w)
    else if s.rowDead w then when (s.overdue w.sent) (s.endWork work w 3)
    else
      match rowCheck (s.homeAll w) with
      | .error (.fails c) => .next (s.endWork work w c)
      | .error (.walk page) => s.walkRow work w page
      | .error _ => notEnabled
      | .ok ps => s.addWord work { w with places := ps }

/-- The holder of a forwarded page answers a work: a unit, or that a word has been added to (R303). -/
def State.holderReply (s : State) (work key : Nat) (bs : List Byte) : State :=
  match s.gworks.get? work with
  | none => s
  | some w =>
    if key % 2 = 1 then s.added work w (key / 2)
    else if w.add then { s with gworks := s.gworks.put work { w with got := w.got.put (key / 2) bs } }
    else s.fetched work w (key / 2) bs

/-- The holder reports a failure (R302, R303). -/
def State.holderFail (s : State) (work cls sub : Nat) : State :=
  match s.gworks.get? work with
  | none => s
  | some w => s.endWork work w (holderCause cls sub)

/-! ### Completion (R299, R304, R305) -/

/-- The contributions of an operation's own package. -/
def GOp.contribs (o : GOp) (pkg : Nat) : List Contrib :=
  (o.rows.vals.filter fun r => r.pkg == pkg && !r.bytes.isEmpty).flatMap fun r =>
    r.pos.map fun j => { pos := j, group := o.groups.getD j 0, die := r.die, bytes := r.bytes }

/-- The pooled rows, in group order (R305). -/
def GOp.pooled (o : GOp) (pkg : Nat) : List (List Byte) :=
  let max_ := o.kind == 2
  let mine := dieParts max_ o.efmt (o.contribs pkg)
  let all := sortBy (fun a b => decide (a.1 ≤ b.1)) ((pkg, mine) :: o.parts)
  (List.range o.m).map fun g =>
    match combine (poolOp max_ o.efmt) (all.filterMap fun p => packagePart max_ o.efmt g p.2) with
    | some r => elemsRow o.efmt r
    | none => List.replicate o.len 0

/-- The status held under a ticket (R302, R309). -/
def GOp.status (o : GOp) (bytes : Nat) : TicketStat :=
  let fs := sortBy (fun a b => decide (a.1 ≤ b.1)) o.fails
  { bytes := bytes, cause := (fs.head?.map (·.2)).getD 0, fails := fs.map (·.1) }

/-- The row that goes to place `k` of the destination, when it is ready: of a position, or of a pool group once every position is
settled; zeros for a position that has failed (R300, R302, R304). -/
def GOp.rowAt (o : GOp) (pkg k : Nat) : Option (List Byte) :=
  if o.kind = 1 ∨ o.kind = 2 then
    if o.rows.vals.all (·.settled) then (o.pooled pkg)[k]? else none
  else if o.fails.any fun f => f.1 == k then some (List.replicate o.len 0)
  else (o.rows.vals.find? fun r => r.settled && r.pos.contains k).map (·.bytes)

/-- The 16-byte units of the destination (R397). -/
def GOp.units (o : GOp) : Nat :=
  if o.kind = 1 ∨ o.kind = 2 then o.m * o.len / 16 else if addsRows o.kind then 0 else o.n * o.len / 16

/-- A unit of the destination is written, where its row is ready and it has not been written (R300, R304, R397). -/
def State.landUnit (s : State) (t : Thread) (gid u : Nat) (o : GOp) : Option State :=
  if o.units ≤ u ∨ o.landed.contains u then none
  else
    (o.rowAt s.pkg (16 * u / o.len)).map fun bs =>
      ({ s with gops := s.gops.put gid { o with landed := o.landed ++ [u] } } : State).land t ((o.dst + 16 * u) % 2 ^ 64)
        ((bs.drop (16 * u % o.len)).take 16)

/-- What is left of the destination is written. -/
def State.landRest (s : State) (t : Thread) (gid : Nat) : State :=
  (List.range ((s.gops.get? gid).map (·.units)|>.getD 0)).foldl (fun s u =>
    match s.gops.get? gid with
    | none => s
    | some o => (s.landUnit t gid u o).getD s) s

/-- Kinds of the scoreboard that hold a gather or scatter. -/
def OpKind.isGather : OpKind → Bool
  | .gath => true
  | .gathp => true
  | .scata => true
  | .scatClose => true
  | .gpref => true
  | _ => false

/-- A gather or scatter goes on: it writes unit `k` of its destination, or reads a unit of its source; with `k` = 0 a scatter asks for
its rows. An ordered one waits for an earlier close of its workgroup (R300, R304, R306, R307, R397). -/
def gatherStep (core ticket k : Nat) (op : EngOp) (s : State) : Host.Outcome State Fault Refusal :=
  let gid := op.data.getD 0 0
  match s.gops.get? gid, s.threads.get? op.tid with
  | some o, some t =>
    if (o.core, o.ticket) ≠ (core, ticket) ∨ s.lost (core / 144) then notEnabled
    else
      match o.req with
      | none => match s.landUnit t gid k o with
        | some s' => .next s'
        | none => notEnabled
      | some g =>
        if k ≠ 0 then
          when (decide (16 * (k - 1) < g.n * g.hd.len) && (o.src.get? (k - 1)).isNone)
            { s with gops := s.gops.put gid (s.readSource t g o (k - 1)) }
        else
          when (g.kind != 4 || !s.closeWaits o.wg (handleKey (s.partOf t) g.h) gid) (s.scatterSend t gid g o)
  | _, _ => notEnabled

/-- One part of an engine operation: a destination chunk of a copy, a level or a row of the stair engine, or the sending of
a SCATA.CLOSE (R307, R396, log 10). -/
def engineStep (core ticket k : Nat) (s : State) : Host.Outcome State Fault Refusal :=
  match (s.cores.getD core {}).ops.get? ticket with
  | none => notEnabled
  | some op =>
    if op.kind = .scatClose then closeStep core ticket op s
    else if op.kind.isGather then gatherStep core ticket k op s
    else if op.kind = .desc ∨ op.kind = .dgrad then stairStep core ticket k s
    else copyStep core ticket k s

/-- An operation of this kind completes: what is left of its destination is written, its status is held, and its bytes are counted
(R299). -/
def State.gatherDone (s : State) (core ticket : Nat) (op : EngOp) (o : GOp) : State :=
  let gid := op.data.getD 0 0
  let s1 := match s.threads.get? op.tid with
    | some t => s.landRest t gid
    | none => s
  let s2 := { s1 with gops := s1.gops.del gid }
  (s2.updWg op.wg fun g => { g with tickets := g.tickets.put ticket (o.status op.wrote) }).finishOp core ticket op
    !o.fails.isEmpty

/-- Event GATHER_COMPLETE: every position has been written, added or failed; or a CLOSE's closes are delivered (R299,
R307). -/
def execGatherComplete (core ticket : Nat) (s : State) : Host.Outcome State Fault Refusal :=
  match (s.cores.getD core {}).ops.get? ticket with
  | none => notEnabled
  | some op =>
    let gid := op.data.getD 0 0
    if s.lost (core / 144) then notEnabled
    else if op.kind = .scatClose then
      if op.did.isEmpty ∨ s.closeInFlight gid then notEnabled
      else .next ((s.updWg op.wg fun g =>
        { g with tickets := g.tickets.put ticket { bytes := 0, cause := 0, fails := [] } }).finishOp core ticket op false)
    else
      match s.gops.get? gid with
      | none => notEnabled
      | some o =>
        if (o.core, o.ticket) = (core, ticket) ∧ o.req.isNone ∧ o.rows.vals.all (·.settled) then .next (s.gatherDone core ticket op o)
        else notEnabled

/-! ### Messages of other packages -/

/-- Event GATHER_REQUEST_RECEIVE: the rows of another package's request begin at their homes (R300, R306, R307). -/
def execGatherRequestReceive (req : GatherReq) (s : State) : Host.Outcome State Fault Refusal :=
  if req.rows.isEmpty ∨ (req.src = s.pkg ∧ !req.forwarded) then notEnabled
  else
    let id := s.nextId
    let s1 := { s with nextId := id + 1, gserves := s.gserves.put id { req := req, rows := [] } }
    let ws := req.rows.map fun r => workOf req.kind req.efmt req.len (.other id r.key) r req.forwarded
    .next (if req.kind = 4 then ws.foldl (fun s w => s.ordHold req.handle req.nsrc req.src req.core req.seq w) s1
      else s1.addWorks ws)

/-- A die of a package has rows of an operation that have failed already: its late part is not taken (R302, R304). -/
def GOp.late (o : GOp) (pkg die : Nat) : Bool := o.rows.any fun r => r.2.pkg == pkg && r.2.die == die && r.2.settled

/-- Event GATHER_REPLY: rows of a home package arrive. A reply to rows that have failed already changes nothing (R300,
R302, R304). -/
def execGatherReply (rep : GatherRep) (s : State) : Host.Outcome State Fault Refusal :=
  match s.gops.get? rep.id with
  | none => .next s
  | some o =>
    let parts := rep.parts.filter fun p => !o.late rep.pkg p.2.1
    let s1 := if parts.isEmpty then s
      else { s with gops := s.gops.put rep.id { o with parts := o.parts.put rep.pkg parts } }
    .next (rep.rows.foldl (fun s r => s.settleRow rep.id r.1 r.2.1 r.2.2) s1)

/-- Event GATHER_POSITION_TIMEOUT: the rows of a home package's die fail: no lane reaches the package, or nothing comes
within HFTMO; a die of this package fails so only when it is lost (R302). -/
def execGatherPositionTimeout (core ticket pkg die : Nat) (s : State) : Host.Outcome State Fault Refusal :=
  match ((s.cores.getD core {}).ops.get? ticket).bind fun op => (s.gops.get? (op.data.getD 0 0)).map fun o =>
      (op.data.getD 0 0, o) with
  | none => notEnabled
  | some (gid, o) =>
    let rows := o.rows.filter fun r => r.2.pkg == pkg && r.2.die == die && !r.2.settled
    let gone := if pkg = s.pkg then s.lost die && s.overdue o.sent
      else s.overdue o.sent || s.reach pkg == .lost || s.reach pkg == .key
    if (o.core, o.ticket) ≠ (core, ticket) ∨ rows.isEmpty ∨ !gone then notEnabled
    else
      let s1 := { s with gworks := s.gworks.filter fun w =>
        !(rows.any fun r => decide (w.2.for_ = .own gid r.1)) }
      .next (rows.foldl (fun s r => s.settleRow gid r.1 3 []) s1)

/-- Event SCATTER_CLOSE_ARRIVE (R307). -/
def execScatterCloseArrive (msg : ScatClose) (s : State) : Host.Outcome State Fault Refusal :=
  if msg.src = s.pkg then notEnabled else .next (s.ordClose msg.handle msg.nsrc msg.rows)

/-! ### GSTAT and SHCNT (R309, R311) -/

/-- The summary of R309: NONE, BUSY, or the held status. -/
def gstatWord (busy : Bool) (st : Option TicketStat) : Nat :=
  if busy then 2 ^ 16
  else
    match st with
    | none => 2 ^ 17
    | some x => x.bytes * 2 ^ 32 + x.cause % 16 * 2 ^ 18 + x.fails.length

/-- The fault map as a number. -/
def faultMap (x : TicketStat) : Nat := x.fails.foldl (fun v j => v ||| 2 ^ j) 0

/-- GSTAT (R309, log 26). -/
def execGstat (f : Eng) (s : State) : Host.Outcome State Fault Refusal :=
  run s fun t => do
    t.canRead f.a 1
    t.canRead f.b 1
    t.quiet
    let k := t.uni f.a
    let a := t.uni f.b
    rsvUnless (decide (k < 16))
    if a % 8 ≠ 0 then .error (alignTrap .store a)
    else
      let busy := match (s.cores.getD (s.coreOf t) {}).ops.get? k with
        | some op => op.wg == t.wg && op.kind.isGather
        | none => false
      let st := (s.wgOf t).tickets.get? k
      let fin := fun (s : State) (t : Thread) =>
        done s ((t.putG f.dst.toNat (BitVec.ofNat 64 (gstatWord busy st))).setCC
          { t := busy || st.isNone, z := busy || ((st.map fun x => x.fails.isEmpty).getD true) })
      match st with
      | some x =>
        if busy ∨ a = 0 then fin s t
        else
          let r ← s.storeWords t a 8 16 fun j => fld (faultMap x) (64 * j) 64
          fin r.1 r.2
      | none => fin s t

/-- SHCNT (R311). -/
def execShcnt (f : Eng) (s : State) : Host.Outcome State Fault Refusal :=
  run s fun t => do
    t.canRead f.a 1
    t.canRead f.b 1
    t.quiet
    let h := t.uni f.a
    match s.handle (s.partOf t) h with
    | none => .error rsv
    | some b =>
      let r ← s.storeWords t (t.uni f.b) 4 b.shards.length fun j => b.counters.getD j 0
      let key := handleKey (s.partOf t) h
      done { r.1 with handles := r.1.handles.put key { b with counters := b.shards.map fun _ => 0 } }
        (r.2.snapped (.shards key b.counters))

end Sys2Proof.Machine
end

