-- ==== Sys2Proof/Machine/Posting.lean ====
section
/-!
DEFINITION. The MCC's posting window (R399): posted stores to the scratchpad and the parlour, their drains, and what an
SLD may read there.
-/

namespace Sys2Proof.Machine

/-- What stores have replaced in a thread's scratchpad or parlour, oldest first. -/
def State.histFor (s : State) (t : Thread) (parlour : Bool) : List (Nat × List Byte) :=
  if parlour then (s.units.getD (s.wgOf t).unit_ .absent).hist else (s.wgOf t).hist

/-- The byte that a place starts with, as whether parlour and offset, where the window covers it. -/
def Place.windowed : Place → Option (Bool × Nat)
  | .scratch o => some (false, o)
  | .parlour o => some (true, o)
  | _ => none

/-- The latest time at which a byte has been read, which no later read goes before (R399). -/
def Thread.see (t : Thread) (parlour : Bool) (o k : Nat) : Thread :=
  { t with seen := (parlour, o, k) :: t.seen.filter fun e => !(e.1 == parlour && e.2.1 == o) }

/-- The oldest posted store has drained: bytes that an SLD has taken from it are as new as it (R399). -/
def Thread.drained (t : Thread) (now : Bool → Nat) : Thread :=
  let mine := t.seenPosted.filter fun e => e.2.2 == 0
  let t := { t with seenPosted := (t.seenPosted.filter fun e => e.2.2 != 0).map fun e => (e.1, e.2.1, e.2.2 - 1) }
  mine.foldl (fun t e => t.see e.1 e.2.1 (now e.1)) t

/-- Drains the oldest posted store (R399). -/
def State.drainOne (s : State) (t : Thread) : State × Thread :=
  match t.posted with
  | [] => (s, t)
  | (p, bs) :: rest =>
    let r := s.writePlace { t with posted := rest } p bs
    (r.1, r.2.drained fun parlour => (r.1.histFor r.2 parlour).length)

/-- One of the first `n` posted stores lies in an unpinned page, which is refilled first (R213). -/
def State.drainWaits (s : State) (t : Thread) (n : Nat) : Bool := (t.posted.take n).any fun e => s.unpinnedAt t e.1

/-- Drains `n` posted stores. -/
def State.drain (s : State) (t : Thread) : Nat → State × Thread
  | 0 => (s, t)
  | n + 1 =>
    let r := s.drainOne t
    State.drain r.1 r.2 n

/-- Closes the window: what an SLD reads from now on is no older than now (R399). -/
def State.closeWindow (s : State) (t : Thread) : Thread :=
  { t with since := ((s.histFor t false).length, (s.histFor t true).length), seen := [], seenPosted := [] }

/-- The thread observes that something has completed: what an SLD of the MCC reads from then on is no older (R269, R371, R396).
Posted stores stay in the window. -/
def State.observed (s : State) (t : Thread) : Thread :=
  if t.side = .mcc then { t with since := ((s.histFor t false).length, (s.histFor t true).length) } else t

/-- A matrix group's FENCE: its posted stores drain and the window closes (R148, R399). -/
def State.fenceMcc (s : State) (t : Thread) : State × Thread :=
  let r := s.drain t t.posted.length
  (r.1, r.1.closeWindow r.2)

/-- The value that a byte had at time `k` of a history: what the first later store replaced, or the present value. -/
def valueAt (hist : List (Nat × List Byte)) (now : Byte) (o k : Nat) : Byte :=
  match (hist.drop k).find? fun e => decide (e.1 ≤ o ∧ o < e.1 + e.2.length) with
  | some e => e.2.getD (o - e.1) now
  | none => now

/-- The latest posted store that covers a byte, and its value there (R399). -/
def Thread.postedByte (t : Thread) (parlour : Bool) (o : Nat) : Option (Nat × Byte) :=
  t.posted.zipIdx.foldl (fun v e =>
    match e.1.1.windowed with
    | some (p, a) => if p = parlour ∧ a ≤ o ∧ o < a + e.1.2.length then some (e.2, e.1.2.getD (o - a) 0) else v
    | none => v) none

/-- The earliest time that an SLD of a byte may read (R399). -/
def Thread.sinceByte (t : Thread) (parlour : Bool) (o : Nat) : Nat :=
  let base := if parlour then t.since.2 else t.since.1
  match t.seen.find? fun e => e.1 == parlour && e.2.1 == o with
  | some e => max base e.2.2
  | none => base

/-- The place in the order that an SLD of `n` bytes takes, which the device chooses: none before what its bytes have been
read at (R391, R399). -/
def State.windowTime (s : State) (t : Thread) (parlour : Bool) (o n : Nat) : Nat :=
  let lo := ((List.range n).map fun j => t.sinceByte parlour (o + j)).foldl max 0
  lo + Config.freeNat s.free 0x5D % ((s.histFor t parlour).length + 1 - lo)

/-- One byte that an SLD reads in the window at time `k` (R399). -/
def State.windowByte (s : State) (t : Thread) (parlour : Bool) (o k : Nat) : Byte × Thread :=
  match t.postedByte parlour o with
  | some (j, b) =>
    (b, { t with seenPosted := (parlour, o, j) :: t.seenPosted.filter fun e => !(e.1 == parlour && e.2.1 == o) })
  | none =>
    let now := (s.readPlace t (if parlour then .parlour o else .scratch o) 1).headD 0
    (valueAt (s.histFor t parlour) now o k, t.see parlour o k)

/-- The bytes that an SLD reads in the window, all at one time. -/
def State.windowBytes (s : State) (t : Thread) (parlour : Bool) (o k : Nat) : Nat → List Byte × Thread
  | 0 => ([], t)
  | n + 1 =>
    let b := s.windowByte t parlour o k
    let rest := s.windowBytes b.2 parlour (o + 1) k n
    (b.1 :: rest.1, rest.2)

/-- Event POSTED_STORE_DRAIN: the oldest posted store of a matrix group takes its place (R399). -/
def execPostedStoreDrain (tid : Nat) (s : State) : Host.Outcome State Fault Refusal :=
  match s.threads.get? tid with
  | none => notEnabled
  | some t =>
    if t.posted.isEmpty ∨ s.drainWaits t 1 ∨ s.lost (s.dieOf t) then notEnabled
    else
      let r := s.drainOne t
      .next (r.1.putThread tid r.2)

end Sys2Proof.Machine
end

