-- ==== Sys2Proof/Machine/Sync.lean ====
section
/-!
DEFINITION. Barriers, the grid barrier, dumbwaiter rings and fences (R367 to R380, R387, R388), and the events that end
their waits.
-/

namespace Sys2Proof.Machine

/-! ### Barriers by reference (R372, R373) -/

/-- The state as the checks of a barrier object see it: poison is not among them (R373, log 27). -/
def State.unpoisoned (s : State) (t : Thread) : State :=
  { s with poison := []
           wgs := s.wgs.upd t.wg fun g => { g with scrPoison := [] }
           units := s.units.upd (s.wgOf t).unit_ fun u => { u with poison := [] } }

/-- The place of a barrier object: checks 3 to 5 of R373. -/
def State.objectPlace (s : State) (t : Thread) (acc : Acc) (va : Nat) : Except Ev Place := do
  if va % 64 ≠ 0 then .error (alignTrap acc va)
  else if [Aperture.lane, .stack, .pantry].contains (aperture va).1 then .error (holeTrap acc va)
  else
    let ps ← (s.unpoisoned t).resolveAll t acc 64 true [(0, va)]
    if s.anyWaits t 64 ps then .error (s.held t 64 (ps.map (·.2.2)))
    else
      match ps with
      | (_, _, p) :: _ => .ok p
      | [] => .error .stall

/-- The barrier that an instruction names (R372, R373). -/
def State.barRef (s : State) (t : Thread) (f : Eng) (acc : Acc) : Except Ev BarRef := do
  if f.nb ≠ 63 then
    if f.nb.toNat < (s.hdrOf t).nbn then .ok (.named f.nb.toNat) else .error (syncTrap 1)
  else if acc = .load ∧ f.xt.getLsbD 0 then
    if (s.launchOf t).grid.isSome then .ok .grid else .error (syncTrap 2)
  else
    let p ← s.objectPlace t acc (t.uni f.c)
    .ok (.object (t.uni f.c) p)

/-- The fields of a barrier as they stand. -/
def State.barAt (s : State) (t : Thread) : BarRef → Bar
  | .named nb => (s.wgOf t).bars.getD nb .fresh
  | .object _ p => Bar.ofWord (ofBytes (s.readPlace t p 64))
  | .grid => (s.launchOf t).grid.getD {}

/-- Changes a barrier in one step; `kind` and `data` say the change to another package, which answers (R276). -/
def State.barUpd (s : State) (t : Thread) (r : BarRef) (f : Bar → Bar) (kind : RemKind) (data : List Byte) :
    State × Thread :=
  match r with
  | .named nb => (s.updWg t.wg fun g => { g with bars := g.bars.put nb (f (g.bars.getD nb .fresh)) }, t)
  | .grid =>
    ({ s with launches := s.launches.upd (s.wgOf t).launch fun l => { l with grid := l.grid.map f } }, t)
  | .object va (.remote pa hop) =>
    s.enqueue t t kind 1024 64 [{ lane := 0, va := va, place := .remote pa hop, data := data }] none
  | .object va p => s.storePlaces t [(p, toBytes (f (s.barAt t (.object va p))).word 64)]

/-- Makes an addition. -/
def State.barAdd (s : State) (t : Thread) (r : BarRef) (n : Addition) : State × Thread :=
  s.barUpd t r (·.add n) .bar n.bytes

/-- The value of an operand position that may be empty: zero when it is. -/
def Thread.uniOr0 (t : Thread) (o : Opnd) : Nat := if o = .zero then 0 else t.uni o

/-- The operands of a barrier instruction are full (R372). -/
def Thread.barReady (t : Thread) (f : Eng) (grid : Bool) : Except Ev Unit := do
  t.quiet
  t.canRead f.a 1
  if f.b = .zero then .ok ⟨⟩ else t.canRead f.b 1
  if f.nb = 63 ∧ !grid then t.canRead f.c 1 else .ok ⟨⟩

/-! ### BINIT, BARR and BEXP (R374) -/

/-- BINIT (R373, R374). -/
def execBinit (f : Eng) (s : State) : Host.Outcome State Fault Refusal :=
  run s fun t => do
    t.barReady f false
    let ea := t.uni f.a
    let eb := t.uni f.b
    rsvUnless (decide (ea < 2 ^ 32 ∧ eb < 2 ^ 48))
    rsvUnless (decide (ea ≠ 0 ∨ eb ≠ 0))
    let r ← s.barRef t f .store
    let q := s.barUpd t r (·.init ea eb) .binit (toBytes ea 8 ++ toBytes eb 8)
    done q.1 q.2

/-- BARR (R373, R374). -/
def execBarr (f : Eng) (s : State) : Host.Outcome State Fault Refusal :=
  run s fun t => do
    t.barReady f false
    rsvUnless (decide (t.uni f.a < 2 ^ 32))
    let r ← s.barRef t f .store
    let q := s.barAdd t r { a := t.uni f.a, v := t.uni f.b }
    done q.1 q.2

/-- BEXP and BEXP.ARR (R373, R374). -/
def execBexp (f : Eng) (s : State) : Host.Outcome State Fault Refusal :=
  run s fun t => do
    t.barReady f false
    rsvUnless (decide (t.uni f.a < 2 ^ 48 ∧ t.uni f.b < 2 ^ 32))
    let r ← s.barRef t f .store
    let q := s.barAdd t r { x := t.uni f.a, y := t.uni f.b, a := bit (f.xt.getLsbD 0) }
    done q.1 q.2

/-! ### WAITPH and TESTPH (R375) -/

/-- What WAITPH and TESTPH leave: the status register and CC with the given T and Z (R375). -/
def Thread.barResult (t : Thread) (b : Bar) (dst : Option Nat) (tf z : Bool) : Thread :=
  ((dst.map fun d => t.putG d (BitVec.ofNat 64 b.word)).getD t).setCC { t := tf, z := z }

/-- A barrier as WAITPH and TESTPH read it: an object by a load, which asks a home in another package (R276, R371, log 75). -/
def State.barLoad (s : State) (t : Thread) (r : BarRef) : Except Ev (Bar × State × Thread) :=
  match r with
  | .object va p => do
    let q ← s.loadHeard t 64 [(0, va, p)]
    .ok (Bar.ofWord (ofBytes q.1.flatten), q.2)
  | r => .ok (s.barAt t r, s, t)

/-- The object's home never answers (R420). -/
def BarRef.isDead : BarRef → Bool
  | .object _ p => p.isDead
  | _ => false

/-- A group blocks at WAITPH, with the cycle count at which its timeout runs out (R375, log 66). -/
def State.block (s : State) (t : Thread) (r : BarRef) (p timeout : Nat) (dst : Option Nat) : Except Ev (State × Thread) :=
  blocks s { t.forget with status := .waitph r p (if timeout = 0 then none else some (s.clock.toNat + timeout)) dst }

/-- WAITPH (R375). -/
def execWaitph (f : Eng) (s : State) : Host.Outcome State Fault Refusal :=
  run s fun t => do
    t.barReady f (f.xt.getLsbD 0)
    let p := t.uni f.a
    rsvUnless (decide (p < 2 ^ 32))
    let r ← s.barRef t f .load
    let dst := if f.dst = 0 then none else some f.dst.toNat
    if r.isDead then s.block t r p (t.uniOr0 f.b) dst
    else
      let q ← s.barLoad t r
      if q.1.completed p then done q.2.1 ((q.2.1.observed q.2.2).barResult q.1 dst false !q.1.lerr)
      else q.2.1.block q.2.2 r p (t.uniOr0 f.b) dst

/-- TESTPH (R375). -/
def execTestph (f : Eng) (s : State) : Host.Outcome State Fault Refusal :=
  run s fun t => do
    t.barReady f (f.xt.getLsbD 0)
    let p := t.uni f.a
    rsvUnless (decide (p < 2 ^ 32))
    let r ← s.barRef t f .load
    let q ← s.barLoad t r
    let u := if q.1.completed p then q.2.1.observed q.2.2 else q.2.2
    done q.2.1 (u.barResult q.1 (some f.dst.toNat) (q.1.completed p) !q.1.lerr)

/-- A blocked thread goes on after its instruction. -/
def State.wake (s : State) (tid : Nat) (t : Thread) : State :=
  s.putThread tid ({ t with status := .running }).advance

/-- The place of a barrier object. -/
def BarRef.places : BarRef → List Place
  | .object _ p => [p]
  | _ => []

/-- A blocked WAITPH reads its barrier again: it goes on where the phase has completed, and asks once more where a home in
another package has answered that it has not (R276, R371, R375). -/
def State.waitphLook (s : State) (tid : Nat) (t : Thread) (r : BarRef) (p : Nat) (dst : Option Nat) :
    Host.Outcome State Fault Refusal :=
  if r.places.any (s.unpinnedAt t) then s.settle tid t (.error (s.held t 64 r.places))
  else
    match s.barLoad t r with
    | .ok q =>
      if q.1.completed p then .next (q.2.1.wake tid ((q.2.1.observed q.2.2).barResult q.1 dst false !q.1.lerr))
      else when (!t.answers.isEmpty) (s.putThread tid t.forget)
    | .error (.ask q) => when t.asks.isEmpty (s.sendAsk tid t q)
    | .error (.trap x) => .next (s.takeTrap tid t x)
    | .error _ => notEnabled

/-- Event WAITPH_WAKE: the phase that a WAITPH waits for has completed (R371, R375). -/
def execWaitphWake (tid : Nat) (s : State) : Host.Outcome State Fault Refusal :=
  match s.threads.get? tid with
  | none => notEnabled
  | some t =>
    match t.status with
    | .waitph r p _ dst => if s.lost (s.dieOf t) || s.stopped t then notEnabled else s.waitphLook tid t r p dst
    | _ => notEnabled

/-- The barrier that a timeout reports, where the phase has not completed: one whose home never answers is free (log 3). -/
def State.barLate (s : State) (t : Thread) (r : BarRef) (p : Nat) (dst : Option Nat) : Option Bar :=
  if r.isDead then some (Bar.ofWord (Config.freeW64 s.free 0x8A17).toNat)
  else
    match s.barLoad t r with
    | .ok q => if q.1.completed p then none else some q.1
    | .error _ => if dst.isNone then some {} else none

/-- Event WAITPH_TIMEOUT: the timeout runs out first (R375). -/
def execWaitphTimeout (tid : Nat) (s : State) : Host.Outcome State Fault Refusal :=
  match s.threads.get? tid with
  | none => notEnabled
  | some t =>
    match t.status with
    | .waitph r p (some limit) dst =>
      if s.clock.toNat < limit || s.lost (s.dieOf t) || s.stopped t then notEnabled
      else
        match s.barLate t r p dst with
        | some b => .next (s.wake tid (t.barResult b dst true false))
        | none => notEnabled
    | _ => notEnabled

/-! ### GRIDBAR (R377) -/

/-- GRIDBAR (R377). -/
def execGridbar (f : Std) (s : State) : Host.Outcome State Fault Refusal :=
  run s fun t => do
    t.quiet
    match (s.launchOf t).grid with
    | none => .error (syncTrap 2)
    | some b =>
      let q := s.barAdd (t.putG f.dst.toNat (BitVec.ofNat 64 b.phase)) .grid { a := 1 }
      done q.1 q.2

/-! ### Dumbwaiter rings (R379, R380) -/

/-- A role may take a stage of a role code (R35, R380). -/
def stageRole (role : Role) (code : Nat) : Bool :=
  code == role.code || (role == .any && (code == 1 || code == 3))

/-- Slot `j` of a ring stands for stage `s` with phase bit `b` (R379). -/
def State.slotStands (s : State) (t : Thread) (ring : Ring) (j stage b : Nat) : Bool :=
  let phase := ((s.wgOf t).bars.getD (ring.nbase + j) .fresh).phase
  let n := ring.order.length
  phase % n == stage && phase / n % 2 == b

/-- The scratchpad offset of a ring's slot (R34). -/
def Header.slotAt (h : Header) (k j : Nat) : Nat :=
  h.ringAt k + j * ((h.rings[k]?.map fun r => r.size * 64).getD 0)

/-- The slot and phase bit that a DWACQ waits for: those it took at its first issue, or the cursor's (R380). -/
def State.dwSlot (s : State) (t : Thread) (key : Nat) : Nat × Nat :=
  match t.dwTaken.get? t.at_ with
  | some e => if e.1 = key then e.2 else (s.wgOf t).cursors.getD key (0, 0)
  | none => (s.wgOf t).cursors.getD key (0, 0)

/-- The DWACQ at this pc took its slot at an earlier issue. -/
def Thread.dwHeld (t : Thread) (key : Nat) : Bool :=
  match t.dwTaken.get? t.at_ with
  | some e => e.1 == key
  | none => false

/-- The cursor after one slot (R380). -/
def nextSlot (slots : Nat) (c : Nat × Nat) : Nat × Nat := if c.1 < slots then (c.1 + 1, c.2) else (0, 1 - c.2)

/-- What DWACQ leaves (R380). -/
def Thread.dwResult (t : Thread) (h : Header) (dst k j : Nat) : Thread :=
  { t.putG dst (BitVec.ofNat 64 (baseScr + h.slotAt k j)) with dwTaken := t.dwTaken.del t.at_ }

/-- DWACQ (R380). -/
def execDwacq (f : Eng) (s : State) : Host.Outcome State Fault Refusal :=
  run s fun t => do
    t.quiet
    let k := fld f.xt.toNat 0 3
    let stage := fld f.xt.toNat 3 2
    let h := s.hdrOf t
    match h.rings[k]? with
    | none => .error (syncTrap 3)
    | some ring =>
      match ring.order[stage]? with
      | none => .error (syncTrap 3)
      | some code =>
        if !(s.wgOf t).full then .error (syncTrap 3)
        else if !stageRole t.role code then .error (illegal 4)
        else
          let key := 4 * k + stage
          let c := s.dwSlot t key
          let s1 := if t.dwHeld key then s
            else s.updWg t.wg fun g => { g with cursors := g.cursors.put key (nextSlot ring.slots c) }
          if s.slotStands t ring c.1 stage c.2 then done s1 ((s.observed t).dwResult h f.dst.toNat k c.1)
          else
            blocks s1 { t with
              status := .dwacq k c.1 c.2 stage f.dst.toNat
              dwTaken := t.dwTaken.put t.at_ (key, c.1, c.2) }

/-- Event DWACQ_WAKE: the slot stands for the stage (R371, R380). -/
def execDwacqWake (tid : Nat) (s : State) : Host.Outcome State Fault Refusal :=
  match s.threads.get? tid with
  | none => notEnabled
  | some t =>
    match t.status with
    | .dwacq k j b stage dst =>
      match (s.hdrOf t).rings[k]? with
      | none => notEnabled
      | some ring =>
        if s.slotStands t ring j stage b && !s.lost (s.dieOf t) then
          .next (s.wake tid ((s.observed t).dwResult (s.hdrOf t) dst k j))
        else notEnabled
    | _ => notEnabled

/-- The ring and slot whose first byte is at a scratchpad offset (R380). -/
def Header.slotOfByte (h : Header) (o : Nat) : Option (Ring × Nat) :=
  (h.rings.zipIdx.findSome? fun r =>
    ((List.range (r.1.slots + 1)).find? fun j => h.slotAt r.2 j == o).map fun j => (r.1, j))

/-- DWREL (R380, R370). -/
def execDwrel (f : Eng) (s : State) : Host.Outcome State Fault Refusal :=
  run s fun t => do
    t.quiet
    t.canRead f.a 1
    let a := t.uni f.a
    let h := s.hdrOf t
    if !(s.wgOf t).full then .error (syncTrap 3)
    else
      match if (aperture a).1 = .scratch then h.slotOfByte (a - baseScr) else none with
      | none => .error (syncTrap 4)
      | some (ring, j) =>
        let b := (s.wgOf t).bars.getD (ring.nbase + j) .fresh
        if stageRole t.role (ring.order.getD (b.phase % ring.order.length) 0) then
          done (s.nbAdd t.wg (ring.nbase + j) { a := 1 }) t
        else .error (syncTrap 4)

/-! ### Fences (R387, R388) -/

/-- NMFENCE (R387). -/
def execNmfence (_ : Std) (s : State) : Host.Outcome State Fault Refusal :=
  run s fun t => do
    t.quiet
    if t.nmOut ≠ 0 then .error .stall
    else done s ({ t with nmDrop := false }.setCC { t := t.nmDrop })

/-- The narrowest scope that takes in a place (R388). -/
def Place.scope (die : Nat) : Place → Nat
  | .lane .. => 0
  | .scratch _ => 0
  | .stack .. => 0
  | .frame .. => 0
  | .parlour _ => 1
  | .attic _ => 2
  | .pantry _ => 2
  | .phys pa => if homeDie pa = some die then 2 else 3
  | .dead pa => if homeDie pa = some die then 2 else 3
  | .remote .. => 4

/-- An entry of the store buffer holds a store or an atomic whose home lies within a scope. -/
def Pend.within (die scope : Nat) : Pend → Bool
  | .access a => a.kind != .load && a.lanes.any fun l => decide (l.place.scope die ≤ scope)
  | .store ws => ws.any fun w => decide (w.1.scope die ≤ scope)

/-- FENCE (R388, R399). A store or an atomic to a home that never answers holds it for ever (R142, log 93). -/
def execFence (f : Std) (s : State) : Host.Outcome State Fault Refusal :=
  run s fun t =>
    if t.pend.any (Pend.within (s.dieOf t) f.op.toNat) ∨ (t.hung ∧ 3 ≤ f.op.toNat) ∨ s.drainWaits t t.posted.length then
      .error .stall
    else if t.side = .mcc then
      let r := s.fenceMcc t
      done r.1 r.2
    else done s t

end Sys2Proof.Machine
end

