-- ==== Sys2Proof/Machine/Fabric.lean ====
section
/-!
DEFINITION. Fenade: routing rounds (R285 to R288), lanes (R272 to R275, R289, R290), flits and keys (R280 to R282), and the
forwarding table (R279).
-/

namespace Sys2Proof.Machine

/-! ### Round records (R285) -/

/-- The fields of a replica in an expert entry (R285). -/
def entryReplica (e w r : Nat) : Replica :=
  { expert := e, replica := r, buf := fld w (256 * r) 60, tags := fld w (256 * r + 64) 60
    bar := fld w (256 * r + 128) 60, cap := fld w (256 * r + 192) 32 }

/-- The replicas in use of an expert entry: replica 1 only where WGT is not zero (R285, R288). -/
def entryReplicas (e w : Nat) : List Replica :=
  if fld w 224 8 = 0 then [entryReplica e w 0] else [entryReplica e w 0, entryReplica e w 1]

/-- WGT of an expert entry. -/
def entryWgt (w : Nat) : Nat := fld w 224 8

/-- The round slot that an instruction names. -/
def State.roundSlot (s : State) (t : Thread) (k : Nat) : RoundSlot := (s.wgOf t).rounds.getD k {}

/-- Changes a round slot. -/
def State.setRound (s : State) (wg k : Nat) (x : RoundSlot) : State :=
  s.updWg wg fun g => { g with rounds := g.rounds.put k x }

/-- A record keeps R285's limits. -/
def roundOk (w : Nat) : Bool :=
  decide (1 ≤ fld w 64 10 ∧ fld w 64 10 ≤ 512) && fld w 32 16 != 0 && fld w 128 64 % 64 == 0 &&
    decide (fld w 128 64 < 2 ^ 56)

/-- RJOIN (R288). -/
def execRjoin (f : Eng) (s : State) : Host.Outcome State Fault Refusal :=
  run s fun t => do
    t.canRead f.a 1
    t.quiet
    let k := f.xt.toNat % 8
    let a := t.uni f.a
    let fin := fun (s : State) (t : Thread) (st : Nat) =>
      done s ((t.putG f.dst.toNat (BitVec.ofNat 64 st)).setCC { t := st != 0 })
    if a % 64 ≠ 0 then .error (alignTrap .load a)
    else
      let r ← s.loadWords t a 8
      if (s.roundSlot t k).bound then fin r.2.1 r.2.2 1
      else if !roundOk r.1 then fin r.2.1 r.2.2 2
      else
        fin (r.2.1.setRound t.wg k
          { bound := true, etab := fld r.1 128 64, rowb := fld r.1 64 10, nexp := fld r.1 48 12, nsrc := fld r.1 32 16
            rid := fld r.1 0 32, once := true }) r.2.2 0

/-! ### Trackers (R286) -/

/-- The arrival at a barrier object named by its physical address (R286, R369). -/
def State.porchArrive (s : State) (pa : Nat) (n : Addition) : State :=
  let p := s.forwarded pa
  if pkgOf p ≠ s.pkg then s.sendBar p (p != pa) n
  else if s.porchOk p then
    s.putPhysNat (inPkg p) 64 ((Bar.ofWord (s.mem.getNat (inPkg p) 64)).add n).word
  else s

/-- A tracker is that of a replica of a round. -/
def Tracker.isFor (k : Tracker) (rid : Nat) (r : Replica) : Bool :=
  k.rid == rid && k.expert == r.expert && k.replica == r.replica

/-- The tracker of a replica; none when 1024 others are open (R286). -/
def State.trackerFor (s : State) (rid nsrc rowb : Nat) (r : Replica) : Option Tracker :=
  match s.trackers.find? fun k => k.isFor rid r with
  | some k => some k
  | none =>
    if 1024 ≤ s.trackers.length then none
    else some { rid := rid, expert := r.expert, replica := r.replica, nsrc := nsrc, closes := 0, announced := 0
                received := 0, stored := 0, buf := r.buf, tags := r.tags, bar := r.bar, cap := r.cap, rowb := rowb }

/-- Who waits for what a tracker has written in another package. -/
def Tracker.owner (k : Tracker) : Owner := .porch k.rid k.expert k.replica

/-- The Porch writes bytes of one page for a tracker, here or where the page has been forwarded to (R279, R286). -/
def State.porchPut (s : State) (k : Tracker) (pa : Nat) (bs : List Byte) : State :=
  let p := s.forwarded pa
  if pkgOf p ≠ s.pkg then
    s.sendAway { owner := k.owner
                 req := { src := s.pkg, id := 0, kind := 1, op := 0, pa := p, size := bs.length, data := bs
                          forwarded := p != pa, far := true } }
  else s.porchStore pa bs

/-- The rows that the closes announce have all been received (R286). -/
def Tracker.counted (k : Tracker) : Bool := decide (k.nsrc ≤ k.closes) && k.received == k.announced

/-- Where the status word goes, and what it holds (R286). -/
def Tracker.statusPa (k : Tracker) : Nat := k.tags + 4 * k.cap
def Tracker.statusWord (k : Tracker) : List Byte := toBytes (k.stored + (k.received - k.stored) * 2 ^ 32) 8

/-- The status word in pieces of one page each: it is 4-byte aligned, and may reach into a second page (R279). -/
def Tracker.statusParts (k : Tracker) : List (Nat × List Byte) :=
  if k.statusPa % 65536 ≤ 65528 then [(k.statusPa, k.statusWord)]
  else [(k.statusPa, k.statusWord.take 4), (k.statusPa + 4, k.statusWord.drop 4)]

/-- The Porch writes the status word (R286). -/
def State.putStatus (s : State) (k : Tracker) : State := k.statusParts.foldl (fun s u => s.porchPut k u.1 u.2) s

/-- Puts a tracker back, or completes it, once its rows are written: status word, then the arrival at BAR (R286). -/
def State.putTracker (s : State) (k : Tracker) : State :=
  let rest := s.trackers.filter fun x => !(x.rid == k.rid && x.expert == k.expert && x.replica == k.replica)
  let gone : State := { s with trackers := rest }
  let kept : State := { s with trackers := rest ++ [k] }
  if !k.counted || s.waitsAway k.owner || k.out.any (fun u => !s.isHere u.pa) then kept
  else
    let done_ (s : State) : State := s.porchArrive k.bar { a := 1, v := k.stored }
    if k.closing then done_ gone
    else
      let s1 := k.out.foldl (fun s u => s.porchPut k u.pa u.data) gone
      if k.statusParts.all fun u => s.isHere u.1 then done_ (s1.putStatus k)
      else { s1.putStatus k with trackers := rest ++ [{ k with out := [], closing := true }] }

/-- The units of a row and its tag (R286, R397). `wg`: the workgroup of this package that sent it. -/
def Tracker.units (k : Tracker) (m : RowMsg) (wg : Option Nat) : List RowUnit :=
  (List.range k.rowb).map (fun i =>
    { pa := k.buf + 16 * (k.rowb * k.stored + i), data := (m.data.drop (16 * i)).take 16, wg := wg }) ++
    [{ pa := k.tags + 4 * k.stored, data := toBytes m.tag 4, wg := wg }]

/-- A row at its tracker (R286). -/
def State.rowIn (s : State) (k : Tracker) (m : RowMsg) : State :=
  if k.stored < k.cap then
    s.putTracker { k with received := k.received + 1, stored := k.stored + 1, out := k.out ++ k.units m (if m.src = s.pkg then some m.wg else none) }
  else s.putTracker { k with received := k.received + 1 }

/-- The Porch writes one of the units that a tracker has ready (R397). -/
def rowUnitStep (k j : Nat) (s : State) : Host.Outcome State Fault Refusal :=
  match s.trackers[k]? with
  | none => notEnabled
  | some x =>
    match x.out[j]? with
    | none => notEnabled
    | some u => .next ((s.porchPut x u.pa u.data).putTracker { x with out := x.out.eraseIdx j })

/-- A tracker is looked at again when another package has answered (R286). -/
def State.trackerHeard (s : State) (rid expert replica : Nat) : State :=
  match s.trackers.find? fun k => k.rid == rid && k.expert == expert && k.replica == replica with
  | some k => s.putTracker k
  | none => s

/-- The die that holds a replica's buffer is lost (R420). -/
def State.replicaLost (s : State) (r : Replica) : Bool := s.homeLost (inPkg r.buf)

/-- A row is taken at once; none when it waits for a tracker or for ever (R286, R420). -/
def State.takeRow (s : State) (m : RowMsg) : Option State :=
  if s.replicaLost m.rep then none else (s.trackerFor m.rid m.nsrc m.rowb m.rep).map fun k => s.rowIn k m

/-- The counts of a close that are taken, and those that wait for a tracker. -/
def State.takeCounts (s : State) (m : RoundClose) : List (Replica × Nat) → State × List (Replica × Nat)
  | [] => (s, [])
  | c :: cs =>
    match if s.replicaLost c.1 then none else s.trackerFor m.rid m.nsrc m.rowb c.1 with
    | none =>
      let r := s.takeCounts m cs
      (r.1, c :: r.2)
    | some k => (s.putTracker { k with closes := k.closes + 1, announced := k.announced + c.2 }).takeCounts m cs

/-- Rows of a replica wait already: a later one is taken after them, so that rows keep their order of arrival (R286). -/
def rowsBefore (ms : List (RowMsg ⊕ RoundClose)) (m : RowMsg) : Bool :=
  ms.any fun x => match x with
    | .inl r => r.rid == m.rid && r.rep.expert == m.rep.expert && r.rep.replica == m.rep.replica
    | .inr _ => false

/-- What is left of a close waits at the Porch. -/
def State.keepClose (s : State) (m : RoundClose) (left : List (Replica × Nat)) : State :=
  if left.isEmpty then s else { s with porchIn := s.porchIn ++ [.inr { m with counts := left }] }

/-- A routing message arrives: it is taken, or waits at the Porch (R286). -/
def State.routed (s : State) (m : RowMsg ⊕ RoundClose) : State :=
  match m with
  | .inl r =>
    let wait : State := { s with porchIn := s.porchIn ++ [.inl r] }
    if rowsBefore s.porchIn r then wait else (s.takeRow r).getD wait
  | .inr c =>
    let r := s.takeCounts c c.counts
    r.1.keepClose c r.2

/-- A row of another package reaches this one (R286). -/
def execRoutingRowArrive (msg : RowMsg) (s : State) : Host.Outcome State Fault Refusal :=
  when (msg.src != s.pkg && pkgOf msg.rep.buf == s.pkg) (s.routed (.inl msg))

/-- A close of another package reaches this one (R286). -/
def execRoundCloseArrive (msg : RoundClose) (s : State) : Host.Outcome State Fault Refusal :=
  when (msg.src != s.pkg && msg.counts.all fun c => pkgOf c.1.buf == s.pkg) (s.routed (.inr msg))

/-- A routing message of this package arrives at its own Porch (R286). -/
def arriveStep (k : Nat) (s : State) : Host.Outcome State Fault Refusal :=
  match s.porchOwn[k]? with
  | none => notEnabled
  | some m => .next (({ s with porchOwn := s.porchOwn.eraseIdx k } : State).routed m)

/-- The Porch takes a routing message that waits (R286). -/
def porchStep (k : Nat) (s : State) : Host.Outcome State Fault Refusal :=
  let s1 := { s with porchIn := s.porchIn.eraseIdx k }
  match s.porchIn[k]? with
  | none => notEnabled
  | some (.inl m) =>
    if rowsBefore (s.porchIn.take k) m then notEnabled
    else
      match s1.takeRow m with
      | some s2 => .next s2
      | none => notEnabled
  | some (.inr m) =>
    let r := s1.takeCounts m m.counts
    if r.2.length = m.counts.length then notEnabled else .next (r.1.keepClose m r.2)

/-! ### RSEND, RCLOSE and RCNT (R286, R288) -/

/-- A replica package that cannot be reached (R288). -/
def State.replicaReach (s : State) (r : Replica) : Except Ev Unit :=
  let p := pkgOf r.buf
  let x (sub : Nat) : Ev := .trap { cls := 9, sub, addr := r.buf, info := p + r.replica * 2 ^ 24 }
  if p = s.pkg then .ok ⟨⟩
  else
    match s.reach p with
    | .lost => .error (x 0)
    | .key => .error (x 2)
    | _ => .ok ⟨⟩

/-- Sends a row to its replica's package. -/
def State.sendRow (s : State) (m : RowMsg) : State :=
  let p := pkgOf m.rep.buf
  if p = s.pkg then { s with porchOwn := s.porchOwn ++ [.inl m] } else s.sendMsg (.row p m)

/-- RSEND (R286, R288). -/
def execRsend (f : Eng) (s : State) : Host.Outcome State Fault Refusal :=
  run s fun t => do
    t.canRead f.a 1
    t.canRead f.b 1
    t.canRead f.c 1
    t.quiet
    let k := f.xt.toNat % 8
    let sl := s.roundSlot t k
    let e := t.uni f.a % 4096
    rsvUnless (sl.bound && decide (e ≤ sl.nexp))
    let r ← s.loadWords t ((sl.etab + 64 * e) % 2 ^ 64) 8
    if t.uni f.b % 16 ≠ 0 then .error (alignTrap .load (t.uni f.b))
    else
      let d ← r.2.1.loadWords r.2.2 (t.uni f.b) (2 * sl.rowb)
      let acc := (sl.acc.get e).toNat + entryWgt r.1
      let two := decide (256 ≤ acc)
      let rep := entryReplica e r.1 (bit two)
      s.replicaReach rep
      let sentKey := 2 * e + rep.replica
      let sl' := { sl with
        acc := sl.acc.set e (BitVec.ofNat 16 (if two then acc - 256 else acc))
        counts := sl.counts.set e (BitVec.ofNat 32 (satAdd 32 (sl.counts.get e).toNat 1))
        sent := sl.sent.set sentKey (sl.sent.get sentKey + 1) }
      done ((d.2.1.setRound t.wg k sl').sendRow
        { src := s.pkg, wg := t.wg, tid := s.cur, rid := sl.rid, nsrc := sl.nsrc, rowb := sl.rowb, rep := rep
          tag := t.uni f.c % 2 ^ 32, data := toBytes d.1 (16 * sl.rowb) }) d.2.2

/-- Sends the closes of a round for the replicas of the entries that were read, one close to each package (R288). -/
def State.sendCloses (s : State) (wg : Nat) (tid : Option Nat) (sl : RoundSlot) (reps : List Replica) : State :=
  let pkgs := (sortBy (fun a b => decide (a ≤ b)) (reps.map fun r => pkgOf r.buf)).eraseDups
  pkgs.foldl (fun s p =>
    let m : RoundClose :=
      { src := s.pkg, wg := wg, tid := tid, rid := sl.rid, nsrc := sl.nsrc, rowb := sl.rowb
        counts := (reps.filter fun r => pkgOf r.buf == p).map fun r =>
          (r, (sl.sent.get (2 * r.expert + r.replica)).toNat) }
    if p = s.pkg then { s with porchOwn := s.porchOwn ++ [.inr m] } else s.sendMsg (.close p m)) s

/-- The replicas in use of an expert table of `n` entries, read as one number (R288). -/
def tableReplicas (w n : Nat) : List Replica := (List.range n).flatMap fun e => entryReplicas e (fld w (512 * e) 512)

/-- RCLOSE (R288). A close to a package that no lane reaches is lost (log 25). -/
def execRclose (f : Eng) (s : State) : Host.Outcome State Fault Refusal :=
  run s fun t => do
    t.quiet
    let k := f.xt.toNat % 8
    let sl := s.roundSlot t k
    rsvUnless sl.bound
    let r ← s.loadWords t sl.etab (8 * (sl.nexp + 1))
    done ((r.2.1.setRound t.wg k { sl with bound := false }).sendCloses t.wg (some s.cur) sl (tableReplicas r.1 (sl.nexp + 1))) r.2.2

/-- RCNT (R288). A slot that was never bound has no counters to write (log 25). -/
def execRcnt (f : Eng) (s : State) : Host.Outcome State Fault Refusal :=
  run s fun t => do
    t.canRead f.a 1
    t.quiet
    let k := f.xt.toNat % 8
    let sl := s.roundSlot t k
    let a := t.uni f.a
    if a % 4 ≠ 0 then .error (alignTrap .store a)
    else
      let r ← s.storeWords t a 4 (if sl.once then sl.nexp + 1 else 0) fun e => (sl.counts.get e).toNat
      done (r.1.setRound t.wg k { sl with counts := [] }) (r.2.snapped (.round t.wg k sl.rid sl.counts))

/-! ### Lanes (R273, R274, R289, R290) -/

/-- A lane. -/
def State.lane (s : State) (n : Nat) : Lane := s.lanes.getD n {}

/-- Changes a lane. -/
def State.updLane (s : State) (n : Nat) (f : Lane → Lane) : State := { s with lanes := s.lanes.put n (f (s.lane n)) }

/-- A trap that a group takes before its next instruction (R243, R290). -/
def State.dueTrap (s : State) (tid : Nat) (x : TrapInfo) : State :=
  { s with threads := s.threads.upd tid fun t => { t with due := t.due ++ [x] } }

/-- What becomes of a message that waited, when no lane will reach its package: a row or a close fails at the group that
issued it, where this package sent it; an access, and the positions of a gather, fail by themselves, and a close that retirement
has sent has no group left (R277, R290, R302, R442, log 76). -/
def State.undeliverable (s : State) (m : OutMsg) : State :=
  let sub (p : Nat) : Nat := if s.reach p = .key then 2 else 0
  if msgSrc m ≠ s.pkg then s
  else
    match m with
    | .row p r => s.dueTrap r.tid { cls := 9, sub := sub p, addr := r.rep.buf, info := p + r.rep.replica * 2 ^ 24 }
    | .close p c =>
      match c.tid with
      | some tid => s.dueTrap tid { cls := 9, sub := sub p, info := p }
      | none => s
    | _ => s

/-- The entry package has dropped a row or a close of this package, which its Porch reports unreachable (R275, R277). -/
def droppedStep (m : OutMsg) (s : State) : Host.Outcome State Fault Refusal :=
  when (msgSrc m == s.pkg && msgDest m / 4096 != s.pkg / 4096) (s.undeliverable m)

/-- The messages that wait at the Porch are looked at again: those whose lane is up leave, and those that no lane will
reach fail (R290). -/
def State.flushOut (s : State) : State :=
  s.outbox.foldl (fun s m => match s.reach (msgDest m) with
    | .up => s.sendMsg m
    | .wait => s.sendMsg m
    | _ => s.undeliverable m) { s with outbox := [] }

/-- The lanes that a group mask selects (R287). -/
def maskLanes (m : Nat) : List Nat := (List.range 64).flatMap fun g =>
  if tb m g then (List.range 64).map fun k => 64 * g + k else []

/-- An UP lane begins to drain: a marker follows its last flit (R280, R289). -/
def Lane.drain (l : Lane) (pkg : Nat) : Lane :=
  if l.state = 1 then
    { l with state := 2, seq := l.seq + 1, marker := some (l.seq + 1)
             control := l.control ++ [flitHeader l.peer pkg l.seq 0 l.kg 0x0A] }
  else l

/-- DMARK (R289). -/
def execDmark (f : Eng) (s : State) : Host.Outcome State Fault Refusal :=
  run s fun t => do
    t.canRead f.a 1
    t.quiet
    done ((maskLanes (t.uni f.a)).foldl (fun s n => s.updLane n (·.drain s.pkg)) s) t

/-- A plan entry is applied to a lane (R273, R289). -/
def Lane.plan (l : Lane) (e : Nat) : Lane :=
  { l with state := if tb e 31 then 4 else 0, en := tb e 31, ch := fld e 24 6, peer := fld e 0 17, refused := 0
           tagFail := false, marker := none }

/-- The plan words of the selected groups of 64 lanes, as ordinary loads: group and its 256 bytes (R289). -/
def State.planWords (s : State) (t : Thread) (a : Nat) :
    List Nat → Except Ev (List (Nat × Nat) × State × Thread)
  | [] => .ok ([], s, t)
  | g :: gs => do
    let r ← s.loadWords t ((a + 256 * g) % 2 ^ 64) 32
    let rest ← r.2.1.planWords r.2.2 a gs
    .ok ((g, r.1) :: rest.1, rest.2)

/-- WLSET (R289, R290). -/
def execWlset (f : Eng) (s : State) : Host.Outcome State Fault Refusal :=
  run s fun t => do
    t.canRead f.a 1
    t.canRead f.b 1
    t.quiet
    let a := t.uni f.a
    let m := t.uni f.b
    let fin := fun (s : State) (t : Thread) (st : Nat) =>
      done s ((t.putG f.dst.toNat (BitVec.ofNat 64 st)).setCC { t := st != 0 })
    if a % 64 ≠ 0 then .error (alignTrap .load a)
    else if (maskLanes m).any fun n => [1, 2, 4].contains (s.lane n).state then fin s t 1
    else
      let r ← s.planWords t a ((List.range 64).filter fun g => tb m g)
      let s1 := r.1.foldl (fun s g => (List.range 64).foldl (fun s k =>
        s.updLane (64 * g.1 + k) fun l => l.plan (fld g.2 (32 * k) 32)) s) r.2.1
      let s2 := s1.flushOut
      fin s2 { r.2.2 with due := ((s2.threads.get? s.cur).map (·.due)).getD r.2.2.due } 0

/-- LSTAT (R289). -/
def execLstat (f : Eng) (s : State) : Host.Outcome State Fault Refusal :=
  run s fun t => do
    t.canRead f.a 1
    t.quiet
    let n := t.uni f.a
    rsvUnless (decide (n < 512))
    let ls := (List.range 8).map fun k => s.lane (8 * n + k)
    let v := ls.zipIdx.foldl (fun v l => v + (l.1.state % 16 + 16 * bit l.1.kg) * 2 ^ (8 * l.2)) 0
    let ok := ls.all fun l => l.state == 1 || (l.state == 0 && !l.en)
    done s ((t.putG f.dst.toNat (BitVec.ofNat 64 v)).setCC { t := ok })

/-- Event LANE_DRAINED: the peer has acknowledged up to the marker (R289). -/
def execLaneDrained (lane : Nat) (s : State) : Host.Outcome State Fault Refusal :=
  when ((s.lane lane).state == 2) (s.updLane lane fun l => { l with state := 3, replay := [], marker := none })

/-- The record LANE_MISMATCH (R274, R423). -/
def State.laneMismatch (s : State) (lane : Nat) (peer : Option Nat) : State :=
  (s.updLane lane fun l => { l with state := 6 }).post
    { code := 0x13, info := lane + (match peer with
        | some p => p % 2 ^ 17 * 2 ^ 12
        | none => 2 ^ 32) }

/-- The keys of the link with a package. -/
def State.link (s : State) (p : Nat) : Link := s.links.getD p {}

/-- Changes a link. -/
def State.updLink (s : State) (p : Nat) (f : Link → Link) : State := { s with links := s.links.put p (f (s.link p)) }

/-- A key and a salt, which the SPDM exchange gives (R282, R432). -/
def State.freshBank (s : State) (p : Nat) (kg : Bool) : KeyBank :=
  let w (k : Nat) : BitVec 64 := Config.freeW64 s.free (0xAE5000000 + 16 * p + 8 * bit kg + k)
  { key := w 0 ++ w 1 ++ w 2 ++ w 3, salt := (w 4).truncate 48 }

/-- A link has keys: the handshake of its first lane gives them (log 45). A KEY_EXCHANGE that runs goes on (R432, log 79). -/
def State.keyed (s : State) (p : Nat) : State :=
  let k := s.link p
  if k.bank0.isSome || k.bank1.isSome || k.exchange then s
  else s.updLink p fun _ => { bank0 := some (s.freshBank p false) }

/-- A lane relocks to its peer: it goes on in the link's bank; its numbers go on where it carried that link in that bank
before, and start at 0 otherwise (R273, R280, R282, log 45). A new peer grants an allowance of its own (R290). -/
def State.relockLane (s : State) (lane : Nat) (st : Nat) : State :=
  let p := (s.lane lane).peer
  let s := s.keyed p
  let bank := (s.link p).cur
  s.updLane lane fun l =>
    let same := decide (l.allowPeer = some p)
    { l with state := st, allowPeer := some p
             allow := if same then l.allow else Config.freeNat s.free (0xA110 + lane)
             seq := if same ∧ l.kg = bank then l.seq else 0, kg := bank }

/-- The handshake of an inbound lane names the package whose laser it receives (R272). It carries no flit: while an update runs, the
lane still counts as one of the old bank (R282). -/
def State.inbound (s : State) (lane p : Nat) : State :=
  let s := s.keyed p
  let k := s.link p
  s.updLane lane fun l =>
    if l.rpeer = some p then l else { l with rpeer := some p, rkg := (k.fresh.map fun b => !b).getD k.cur, rseq := 0 }

/-- Event LANE_RELOCK: the handshake of a lane names a package (R274, R289, R290); a number from 4096 on is that of an inbound
lane (R272). A SPENT part brings up no link (R434). While a SEALED D2 entry runs, nothing is sent on it yet (R432). -/
def execLaneRelock (lane : Nat) (peer : BitVec 17) (s : State) : Host.Outcome State Fault Refusal :=
  let l := s.lane lane
  if s.mram.lifecycle = 3 ∨ 8192 ≤ lane then notEnabled
  else if 4096 ≤ lane then .next (s.inbound (lane - 4096) peer.toNat)
  else if l.state ≠ 4 then notEnabled
  else if l.peer = peer.toNat then
    .next (if s.debugEntry.isSome then { s.relockLane lane 3 with debugLanes := s.debugLanes ++ [lane] }
      else (s.relockLane lane 1).flushOut)
  else .next (s.laneMismatch lane (some peer.toNat)).flushOut

/-- Event RELOCK_TIMEOUT: no handshake within 1 ms of the retune (R274, R289). -/
def execRelockTimeout (lane : Nat) (s : State) : Host.Outcome State Fault Refusal :=
  when ((s.lane lane).state == 4) (s.laneMismatch lane none).flushOut

/-! ### Flits and keys (R280 to R282) -/

/-- The fields of a flit's header (R280). -/
def flitField (f : Flit) (lo n : Nat) : Nat := fld f.header.toNat lo n
def flitDpkg (f : Flit) : Nat := flitField f 111 17
def flitSpkg (f : Flit) : Nat := flitField f 94 17
def flitSeq (f : Flit) : Nat := flitField f 40 32
def flitPlen (f : Flit) : Nat := flitField f 32 8
def flitKg (f : Flit) : Bool := tb f.header.toNat 8
def flitTyp (f : Flit) : Nat := flitField f 0 8

/-- Sends flits over lanes to one package: over those that are UP, or as any message to their destination (R281). -/
def State.resend (s : State) (peer : Nat) (r : Run) : State :=
  match s.inTurn peer (s.lanes.filter fun l => l.2.en && l.2.peer == peer) with
  | [] => s.sendMsg r.msg
  | us => s.spread peer us r.n r.msg

/-- LANE_FAILED: the lane's flits go over the other lanes to the same peer (R281). -/
def State.laneFailed (s : State) (lane : Nat) (tag : Bool) : State :=
  let l := s.lane lane
  l.replay.foldl (fun s r => s.resend l.peer r)
    ((s.updLane lane fun l => { l with state := 5, tagFail := tag, replay := [], refused := 0 }).post
      { code := 0x14, info := lane })

/-- What an acknowledgement up to SEQ `q` leaves of the flits of a message (R281). -/
def Run.acked (r : Run) (q : Nat) : Option Run :=
  if q < r.last - r.n then some r
  else if r.last ≤ q + 1 then none
  else some { r with n := r.last - (q + 1), flits := r.flits.drop (r.n - (r.last - (q + 1))) }

/-- What it leaves of a replay buffer: it counts in the bank that is used to send, or, where it releases nothing there, in the
one before. -/
def Lane.afterAck (l : Lane) (q : Nat) : List Run :=
  let mine (r : Run) : Bool := r.kg == l.kg
  if l.replay.any fun r => mine r && decide (r.last - r.n ≤ q) then
    l.replay.filterMap fun r => if mine r then r.acked q else none
  else l.replay.filterMap fun r => if mine r then some r else r.acked q

/-- Event FLIT_ACK: a cumulative acknowledgement. One that releases nothing says that the next flit was refused; whether
its tag was the reason is free (R281, log 45). -/
def execFlitAck (lane : Nat) (seq : BitVec 32) (s : State) : Host.Outcome State Fault Refusal :=
  let l := s.lane lane
  let left := l.afterAck seq.toNat
  if (l.state ≠ 1 ∧ l.state ≠ 2) ∨ l.replay.isEmpty then notEnabled
  else if left ≠ l.replay then .next (s.updLane lane fun l => { l with replay := left, refused := 0 })
  else if 7 ≤ l.refused then .next (s.laneFailed lane (Config.freeBit s.free (0xF1 + lane))).flushOut
  else .next (s.updLane lane fun l => { l with refused := l.refused + 1 })

/-- A key bank is accepted on a link. -/
def Link.accepts (k : Link) (kg : Bool) : Bool := if kg then k.bank1.isSome else k.bank0.isSome

/-- Puts a key into a bank, or clears it. -/
def Link.setBank (k : Link) (kg : Bool) (b : Option KeyBank) : Link :=
  if kg then { k with bank1 := b } else { k with bank0 := b }

/-- An update of a link's keys runs, up to the clearing of the old bank (R282). -/
def Link.updating (k : Link) : Bool := k.busy || k.fresh.isSome

/-- Both ends load new keys into the idle bank, and the receiver accepts both (R282). An update that runs goes on, and another does
not begin (log 45). -/
def State.rekey (s : State) (p : Nat) : State :=
  s.updLink p fun k =>
    if k.updating then k
    else { k.setBank (!k.cur) (some (s.freshBank p (!k.cur))) with busy := true, fresh := some (!k.cur) }

/-- The Porch firmware starts an update with a peer, which a key-control message asks for (R280, R282). -/
def State.startUpdate (s : State) (p : Nat) : State :=
  if (s.link p).updating then s else (s.rekey p).sendMsg (.keys p s.pkg)

/-- Once every lane from a package has carried the new bank, and this end sends with it, the old one is cleared
(R282). -/
def State.clearBank (s : State) (p : Nat) : State :=
  let k := s.link p
  match k.fresh with
  | none => s
  | some new =>
    if k.cur == new && s.lanes.vals.all fun l => l.rpeer != some p || l.rkg == new then
      s.updLink p fun k => { k.setBank (!new) none with fresh := none }
    else s

/-- A KEY_EXCHANGE ends: the link has a key again, and its numbers start anew (R432, log 45). -/
def State.exchanged (s : State) (p : Nat) : State :=
  { s.updLink p fun _ => { bank0 := some (s.freshBank p false) } with
    lanes := s.lanes.map fun (l : Nat × Lane) =>
      if l.2.rpeer = some p then (l.1, { l.2 with rkg := false, rseq := 0 }) else l }

/-- A flit is taken (R280, R282). A key-control flit ends a KEY_EXCHANGE, or begins an update of the keys (R282, R432). -/
def State.flitTaken (s : State) (flit : Flit) (p : Nat) : State :=
  let s := s.updLane flit.lane fun l => { l with rkg := (flitKg flit), rseq := (flitSeq flit) + 1 }
  let s := s.clearBank p
  let s := if (flitTyp flit) ≠ 0x0D then s else if (s.link p).exchange then s.exchanged p else s.rekey p
  if 1 ≤ (flitTyp flit) ∧ (flitTyp flit) ≤ 0x0D then s else { s with unknownFlits := s.unknownFlits + 1 }

/-- Event FLIT_RECEIVE: a flit on an inbound lane is authenticated under the link with the package that the lane comes from,
and sequenced; it is taken, or refused and sent again (R280, R281). A key-control flit is taken without a bank where there
is none (R432). -/
def execFlitReceive (flit : Flit) (s : State) : Host.Outcome State Fault Refusal :=
  let l := s.lane flit.lane
  match l.rpeer with
  | none => notEnabled
  | some p =>
    let k := s.link p
    let good := flit.tag && (k.accepts (flitKg flit) || ((flitTyp flit) == 0x0D && k.bank0.isNone && k.bank1.isNone))
    let next := if l.rkg = (flitKg flit) then l.rseq else 0
    if 4096 ≤ flit.lane then notEnabled
    else if good && (flitSeq flit) == next then .next (s.flitTaken flit p)
    else .next s

/-- Event HREKEY_GO: a write of HREKEY with GO (R282, R284). -/
def execHrekeyGo (peer : BitVec 17) (s : State) : Host.Outcome State Fault Refusal :=
  .next ((s.setHr 0x308 (BitVec.ofNat 64 peer.toNat)).startUpdate peer.toNat)

/-- Event REKEY_SEQ_TRIGGER: a lane's SEQ passes 2^31 in the current bank (R282). -/
def execRekeySeqTrigger (lane : Nat) (s : State) : Host.Outcome State Fault Refusal :=
  let l := s.lane lane
  when (decide (2 ^ 31 < l.seq) && !(s.link l.peer).updating) (s.startUpdate l.peer)

/-- Event KEY_BANK_SWITCH: both ends have confirmed, and every lane to the peer sends with the new bank (R282). -/
def execKeyBankSwitch (peer : BitVec 17) (s : State) : Host.Outcome State Fault Refusal :=
  let k := s.link peer.toNat
  if !k.busy then notEnabled
  else
    .next (({ s.updLink peer.toNat (fun k => { k with cur := !k.cur, busy := false }) with
      lanes := s.lanes.map fun l =>
        if l.2.peer == peer.toNat then (l.1, { l.2 with kg := !k.cur, seq := 0 }) else l } : State).clearBank peer.toNat)

/-- Event HFWI_WRITE: the Porch rereads the forwarding table (R279, R284). -/
def execHfwiWrite (s : State) : Host.Outcome State Fault Refusal :=
  let w := (s.hr 0x310).toNat
  let base := fld w 16 44 * 2 ^ 16
  let n := min 4096 (fld w 0 13)
  let word (k : Nat) : Nat :=
    if pkgOf base = s.pkg then s.mem.getNat (inPkg base + k) 8 else (Config.freeW64 s.free (base + k)).toNat
  let entry (i : Nat) : Option (Nat × Nat) :=
    let w0 := word (16 * i)
    let page := fld w0 16 44
    if tb w0 63 ∧ page / 2 ^ 27 = s.pkg then some (page % 2 ^ 27, fld (word (16 * i + 8)) 16 44) else none
  .next { s with fwd := (List.range n).filterMap entry }

end Sys2Proof.Machine
end

