-- ==== Sys2Proof/Machine/Matrix.lean ====
section
/-!
DEFINITION. The matrix engine: accumulator tokens (R257, R258, R266), the unit operations MMA to MSCALE with MQRY and their
queues (R254 to R265), and ACCRD and ACCWR (R267, R268).
-/

namespace Sys2Proof.Machine

/-! ### Tokens (R257, R258) -/

/-- ACC_TOKEN (R258, R266). -/
def accTrap (tile core : Nat) (absent : Bool) : Ev :=
  .trap { cls := 4, info := tile + core % 4 * 4 + 16 * bit absent }

/-- A workgroup has the tile (R258). -/
def State.hasTile (s : State) (wg tile : Nat) : Bool :=
  let g := s.wgs.getD wg .absent
  g.full && decide (tile < (s.launchOfWg g).hdr.facc)

/-- The token of a tile. -/
def Wg.token (g : Wg) (tile : Nat) : Token := (g.tiles.getD tile {}).token

/-- Sets the token of a tile. -/
def State.setToken (s : State) (wg tile : Nat) (k : Token) : State :=
  s.updWg wg fun g => { g with tiles := g.tiles.put tile { g.tiles.getD tile {} with token := k } }

/-- Operations on a tile are queued or running (R257). -/
def State.tileBusy (s : State) (wg tile : Nat) : Bool :=
  s.unitOps.vals.any fun o => o.xt % 4 == tile && o.targets.any fun x => x.2 == wg

/-- A blocked ACCACQ goes on with its token (R257). -/
def State.tokenTo (s : State) (wg tile tid : Nat) (t : Thread) : State :=
  let s := (s.setToken wg tile (.group t.gidx)).updCore (s.coreOf t) fun c => { c with accQ := c.accQ.filter (· != tid) }
  s.putThread tid ({ t with status := .running }).advance

/-- The first group blocked at ACCACQ for a tile, in the order of issue on the core (R257). -/
def State.tokenWaiter (s : State) (wg tile : Nat) : Option (Nat × Thread) :=
  let g := s.wgs.getD wg .absent
  (s.cores.getD (coreKey g.die g.core) {}).accQ.findSome? fun tid =>
    match s.threads.get? tid with
    | some t => if t.wg = wg ∧ t.status = .accacq tile then some (tid, t) else none
    | none => none

/-- A token returns to the unit, and the first waiter asks for it (R257). -/
def State.tokenFree (s : State) (wg tile : Nat) : State :=
  let s := s.setToken wg tile .unit
  match s.tokenWaiter wg tile with
  | none => s
  | some e => if s.tileBusy wg tile then s.setToken wg tile (.pending e.2.gidx) else s.tokenTo wg tile e.1 e.2

/-- A group leaves its wait for a token: a pending token is the unit's again (R266). -/
def State.tokenLeave (s : State) (tid : Nat) (t : Thread) (tile : Nat) : State :=
  let s := s.updCore (s.coreOf t) fun c => { c with accQ := c.accQ.filter (· != tid) }
  if (s.wgOf t).token tile = .pending t.gidx then s.tokenFree t.wg tile else s

/-- The tile that ACCACQ and the like name exists (R266). -/
def State.tileCheck (s : State) (t : Thread) (tile : Nat) : Except Ev Unit :=
  if s.hasTile t.wg tile then .ok ⟨⟩ else .error (accTrap tile (s.wgOf t).core true)

/-- ACCACQ (R257, R266). -/
def execAccacq (f : Eng) (s : State) : Host.Outcome State Fault Refusal :=
  run s fun t => do
    t.quiet
    let tile := f.xt.toNat % 4
    s.tileCheck t tile
    let wait (s : State) : Except Ev (State × Thread) :=
      blocks (s.updCore (s.coreOf t) fun c => { c with accQ := c.accQ ++ [s.cur] }) { t with status := .accacq tile }
    match (s.wgOf t).token tile with
    | .group g => if g = t.gidx then done s t else wait s
    | .pending _ => wait s
    | .unit =>
      if s.tileBusy t.wg tile then wait (s.setToken t.wg tile (.pending t.gidx))
      else done (s.setToken t.wg tile (.group t.gidx)) t

/-- ACCREL (R257, R266). -/
def execAccrel (f : Eng) (s : State) : Host.Outcome State Fault Refusal :=
  run s fun t => do
    t.quiet
    let tile := f.xt.toNat % 4
    s.tileCheck t tile
    if (s.wgOf t).token tile = .group t.gidx then done (s.tokenFree t.wg tile) t
    else .error (accTrap tile (s.wgOf t).core false)

/-- Event ACC_TOKEN_GRANT: the last operation on a tile has completed, and the group that asked gets the token (R257). -/
def execAccTokenGrant (wg tile : Nat) (s : State) : Host.Outcome State Fault Refusal :=
  match (s.wgs.getD wg .absent).token tile with
  | .pending _ =>
    match s.tokenWaiter wg tile with
    | some e => if s.tileBusy wg tile then notEnabled else .next (s.tokenTo wg tile e.1 e.2)
    | none => notEnabled
  | _ => notEnabled

/-! ### Targets and checks (R254, R260) -/

/-- The unit mask of an operation. -/
def unitMask (xt : Nat) : List Nat := (List.range 4).filter fun c => tb xt (2 + c)

/-- The target workgroup of core `c` of the issuer's cluster (R254). -/
def State.unitTarget (s : State) (t : Thread) (c : Nat) : Option Nat :=
  let g := s.wgOf t
  let core := g.core / 4 * 4 + c
  if (s.hdrOf t).par = 0 then (if core = g.core then some t.wg else none)
  else
    let ws := s.wgs.filter fun e => e.2.unit_ == g.unit_ && e.2.die == g.die && e.2.core == core
    (sortBy (fun a b => decide (a.2.ord ≤ b.2.ord)) ws).head?.map (·.1)

/-- The targets of an operation: core index, core key, workgroup; none where check 1 of R260 fails. -/
def State.unitTargets (s : State) (t : Thread) (xt : Nat) : Option (List (Nat × Nat × Nat)) :=
  let g := s.wgOf t
  let cs := unitMask xt
  let ts := cs.filterMap fun c => (s.unitTarget t c).map fun w => (c, coreKey g.die (g.core / 4 * 4 + c), w)
  if cs.isEmpty ∨ ts.length ≠ cs.length then none else some ts

/-- A thread that stands for a unit at work on a target. -/
def Thread.ofUnit (wg : Nat) : Thread := { side := .mcc, role := .matrix, wg, gidx := 0, width := 1, pc := 0 }

/-- The scale mode that a format allows (R58, R59). -/
def scaleModeOk (use_ : ScaleUse) (m : Nat) : Bool :=
  match use_ with
  | .never => m == 0
  | .mxOpt => m == 0 || m == 1
  | .mx => m == 1
  | .ts => m == 2

/-- FMT passes R59. -/
def mmaFmtOk (fmt : Nat) : Bool :=
  match pForm (fld fmt 0 5), pForm (fld fmt 5 5) with
  | some a, some b => scaleModeOk a.use_ (fld fmt 16 2) && scaleModeOk b.use_ (fld fmt 18 2) && a.isInt == b.isInt
  | _, _ => false

/-- The format of a code, or a plain one for a code that `mmaFmtOk` has refused. -/
def pFormD (code : Nat) : PForm :=
  (pForm code).getD
    { w := 8, p := 8, bits := down 7 8, elo := 0, en := 0, use_ := .never, isInt := true, signed := false }

/-- Bytes of a block record of A (R248). -/
def aRecord (fmt : Nat) : Nat := (pFormD (fld fmt 0 5)).record (fld fmt 16 2 != 0)

/-- Bytes of a row and of a block record of B (R252). -/
def bRow (fmt : Nat) : Nat := 8 * (pFormD (fld fmt 5 5)).w
def bRecord (fmt : Nat) : Nat := 32 * bRow fmt + 256 * bit (fld fmt 18 2 != 0)

/-- The format of ACCW and its element size (R57, R262). -/
def accwSize (fmt : Nat) : Nat := match fld fmt 20 2 with
  | 0 => 8
  | 1 => 4
  | _ => 2

/-- The kinds of unit operation, by the low bits of their opcode. -/
def isMma (op : Nat) : Bool := op == 0 || op == 1

/-- The ranges that an operation reads and writes for core `c`: access, address, length, alignment (R259 to R263). -/
def unitRanges (op fmt : Nat) (a : List Nat) (c : Nat) : List (Acc × Nat × Nat × Nat) :=
  let x := a.getD 0 0
  let y := a.getD 1 0
  let z := a.getD 2 0
  let sz := accwSize fmt
  match op with
  | 0 => [(.load, x, z / 32 * aRecord fmt, 256), (.load, y, z / 32 * bRecord fmt, 256)]
  | 1 => [(.load, x, z / 32 * aRecord fmt, 256), (.load, y, z / 32 * bRecord fmt, 256)]
  | 3 => [(.load, (x + c * z) % 2 ^ 64, 63 * y + 64 * sz, sz)]
  | 4 => [(.store, (x + c * z) % 2 ^ 64, 63 * y + 64 * sz, sz)]
  | 5 => [(.load, (x + c * y) % 2 ^ 64, 256, 4)]
  | _ => []

/-- Checks 2 and 3 of R260. -/
def unitOperandsOk (op fmt : Nat) (a : List Nat) : Bool :=
  let y := a.getD 1 0
  let z := a.getD 2 0
  let sz := accwSize fmt
  if isMma op then mmaFmtOk fmt && decide (z % 2 ^ 13 % 32 = 0 ∧ 32 ≤ z % 2 ^ 13 ∧ z % 2 ^ 13 ≤ 4096 ∧ z < 2 ^ 13)
  else if op = 3 ∨ op = 4 then decide (y % sz = 0 ∧ 64 * sz ≤ y % 2 ^ 32 ∧ y < 2 ^ 32)
  else true

/-- A range lies in the scratchpad or the parlour of a target (R254, R260). -/
def State.unitRangeOk (s : State) (wg va n : Nat) : Bool :=
  ((aperture va).1 == .scratch || (aperture va).1 == .parlour) && s.rangeOk (.ofUnit wg) va n

/-- The scratchpad bytes of a range. -/
def scrSpan (va n : Nat) : Option (Nat × Nat) :=
  match aperture va with
  | (.scratch, o) => some (o, o + n)
  | _ => none

/-- The scoreboard entries that an operation waits for (R256). -/
def State.unitWaits (s : State) (rs : List (Nat × Nat × List (Nat × Nat))) : List (Nat × Nat) :=
  rs.flatMap fun r =>
    ((s.cores.getD r.1 {}).ops.filter fun o => o.2.wg == r.2.1 && o.2.ranges.any fun x =>
      r.2.2.any fun y => decide (x.1 < y.2 ∧ y.1 < x.2)).map fun o => (r.1, o.1)

/-- The first failing check of an address: alignment over all cores, then ranges over all targets (R260). -/
def firstBad {α : Type} (xs : List α) (ok : α → Bool) (e : α → Ev) : Except Ev Unit :=
  match xs.find? fun x => !ok x with
  | some x => .error (e x)
  | none => .ok ⟨⟩

/-- An operation on these units is to be joined (R269). -/
def Thread.forks (t : Thread) (units : List Nat) : Thread :=
  if t.unjoined.contains units then t else { t with unjoined := t.unjoined ++ [units] }

/-- MQRY has reported a unit idle: operations of which every unit has been reported so are joined (R269, R396). -/
def State.unitIdle (s : State) (t : Thread) (c : Nat) : Thread :=
  let left := (t.unjoined.map fun us => us.filter (· != c)).eraseDups
  let u := { t with unjoined := left.filter (!·.isEmpty) }
  if left.any List.isEmpty then s.observed u else u

/-- Issues a unit operation: the checks of R260 in order, then every selected queue accepts it or the group stalls
(R255, R258). `n` operands are read. -/
def unitIssue (f : Eng) (s : State) (op n : Nat) : Host.Outcome State Fault Refusal :=
  run s fun t => do
    t.quiet
    s.nbCheck t f.nb.toNat
    let xt := f.xt.toNat
    let fmt := t.regs.fmt.toNat
    let a := ([f.a, f.b, f.c].take n).map t.uni
    match s.unitTargets t xt with
    | none => .error rsv
    | some ts =>
      rsvUnless (unitOperandsOk op fmt a)
      let rs := ts.flatMap fun x => (unitRanges op fmt a x.1).map fun r => (x, r)
      firstBad rs (fun r => r.2.2.1 % r.2.2.2.2 == 0) fun r => alignTrap r.2.1 r.2.2.1
      firstBad rs (fun r => s.unitRangeOk r.1.2.2 r.2.2.1 r.2.2.2.1) fun r => holeTrap r.2.1 r.2.2.1
      firstBad ts (fun x => s.hasTile x.2.2 (xt % 4)) fun x => accTrap (xt % 4) x.1 true
      firstBad ts (fun x => (s.wgs.getD x.2.2 .absent).token (xt % 4) == .unit) fun x => accTrap (xt % 4) x.1 false
      if ts.any fun x => decide (16 ≤ (s.cores.getD x.2.1 {}).unitQ.length) then .error .stall
      else
        let id := s.nextId
        let o : UnitOp :=
          { tid := s.cur, wg := t.wg, op := op, xt := xt, nb := f.nb.toNat, args := a, fmt := t.regs.fmt
            targets := ts.map (·.2)
            waits := s.unitWaits (ts.map fun x =>
              (x.2.1, x.2.2, (unitRanges op fmt a x.1).filterMap fun r => scrSpan r.2.1 r.2.2.1)) }
        let s1 := { s with nextId := id + 1, unitOps := s.unitOps.put id o }
        done (ts.foldl (fun s x => s.updCore x.2.1 fun c => { c with unitQ := c.unitQ ++ [id] }) s1)
          (t.forks (ts.map (·.1)))

/-- MMA (R259 to R261). -/
def execMma (f : Eng) (s : State) : Host.Outcome State Fault Refusal := unitIssue f s 0 3
/-- MMAS (R259 to R261). -/
def execMmas (f : Eng) (s : State) : Host.Outcome State Fault Refusal := unitIssue f s 1 3
/-- MZERO (R262). -/
def execMzero (f : Eng) (s : State) : Host.Outcome State Fault Refusal := unitIssue f s 2 0
/-- MLDACC (R262). -/
def execMldacc (f : Eng) (s : State) : Host.Outcome State Fault Refusal := unitIssue f s 3 3
/-- MSTACC (R262). -/
def execMstacc (f : Eng) (s : State) : Host.Outcome State Fault Refusal := unitIssue f s 4 3
/-- MSCALE (R263). -/
def execMscale (f : Eng) (s : State) : Host.Outcome State Fault Refusal := unitIssue f s 5 2

/-! ### What a unit computes -/

/-- The place of a checked scratchpad or parlour address. -/
def unitPlace (va : Nat) : Place :=
  match aperture va with
  | (.parlour, o) => .parlour o
  | (_, o) => .scratch o

/-- A unit at work on a target, with the words of the operation that it has read (R269). -/
def UnitOp.view (o : UnitOp) (core wg : Nat) : Thread :=
  { Thread.ofUnit wg with answers := (o.got.filter fun g => g.1 == core).map fun g =>
      { pa := g.2.1 / 4, cls := bit g.2.2.isNone, data := toBytes (g.2.2.getD 0).toNat 4 } }

/-- What the unit has read of the word that holds an address. -/
def Thread.wordRead (u : Thread) (va : Nat) : Option Answer := u.answers.find? fun g => g.pa == va / 4

/-- One byte that a unit reads: now, or as it stood when its word was read (R269). -/
def State.unitByte (s : State) (u : Thread) (va : Nat) : Byte :=
  match u.wordRead va with
  | some g => g.data.getD (va % 4) 0
  | none => (s.readPlace u (unitPlace va) 1).getD 0 0

/-- The little-endian number at a checked address of a target. -/
def State.unitNat (s : State) (u : Thread) (va n : Nat) : Nat :=
  ofBytes ((List.range n).map fun k => s.unitByte u (va + k))

/-- One byte lies in a poisoned line, or did when its word was read (R256). -/
def State.unitBad (s : State) (u : Thread) (va : Nat) : Bool :=
  match u.wordRead va with
  | some g => g.cls != 0
  | none => s.localPoison u (unitPlace va)

/-- Some of the bytes lie in a poisoned line (R256, log 61). -/
def State.unitPoison (s : State) (u : Thread) (va n : Nat) : Bool := s.unitBad u va || s.unitBad u (va + n - 1)

/-- Values a unit has read, and whether a poisoned line was among them. -/
abbrev UnitRead := List Fp × Bool

/-- The declared planes (R253). -/
def declaredPlanes (fmt : Nat) (f : PForm) : Nat := if fld fmt 12 4 = 0 then f.p else min (fld fmt 12 4) f.p

/-- The planes of a record that the unit reads: the special values of BF16, E4M3 and E5M2 look at every fraction plane; E2M1
has none (R251, R253). -/
def planeRead (f : PForm) (keep q : Nat) : Bool :=
  decide (q < keep ∨ f.p ≤ q) || !(f.isInt || f.use_ == .ts || f.use_ == .mx)

/-- Row `m` of block `b` of A (R248 to R251, R253, R256). -/
def State.aBlock (s : State) (u : Thread) (fmt va m b : Nat) : UnitRead :=
  let code := fld fmt 0 5
  let f := pFormD code
  let scaled := fld fmt 16 2 != 0
  let keep := declaredPlanes fmt f
  let base := va + b * aRecord fmt
  let planes := f.bits.length
  let at_ (q : Nat) : Nat := base + 256 * q + 4 * m
  let words := (List.range planes).map fun q => s.unitNat u (at_ q) 4
  let sc := if f.use_ = .ts then s.unitNat u (base + 256 * planes + 2 * m) 2
    else if scaled then s.unitNat u (base + 256 * planes + m) 1 else 0
  let scAt := if f.use_ = .ts then base + 256 * planes + 2 * m else base + 256 * planes + m
  let bad := ((List.range planes).any fun q => planeRead f keep q && s.unitPoison u (at_ q) 4) ||
    (scaled && s.unitPoison u scAt 1)
  ((List.range 32).map fun j =>
    if bad then nanFp
    else f.fromPlanes code scaled (fld fmt 28 2 != 0) keep (fun q => tb (words.getD q 0) j) sc, bad)

/-- Column `n` of block `b` of B (R252, R256). -/
def State.bBlock (s : State) (u : Thread) (fmt va n b : Nat) : UnitRead :=
  let code := fld fmt 5 5
  let f := pFormD code
  let scaled := fld fmt 18 2 != 0
  let base := va + b * bRecord fmt
  let scAt := if f.use_ = .ts then base + 32 * bRow fmt + 2 * n else base + 32 * bRow fmt + n
  let sc := if f.use_ = .ts then s.unitNat u scAt 2 else if scaled then s.unitNat u scAt 1 else 0
  let scBad := scaled && s.unitPoison u scAt 1
  let cells := (List.range 32).map fun i =>
    let a := base + i * bRow fmt + f.w * n / 8
    let bad := scBad || s.unitPoison u a 1
    let raw := s.unitNat u a (max 1 (f.w / 8)) / 2 ^ (f.w * n % 8) % 2 ^ f.w
    (if bad then nanFp else decodeElem code f scaled (fld fmt 28 2 != 0) raw sc, bad)
  (cells.map (·.1), cells.any (·.2))

/-- All blocks of a row or a column. -/
def allBlocks (k : Nat) (block : Nat → UnitRead) : UnitRead :=
  let bs := (List.range (k / 32)).map block
  (bs.flatMap (·.1), bs.any (·.2))

/-- A product is invalid though neither operand is a NaN (R261, log 62). -/
def badProduct (x y : Fp) : Bool := !x.isNan && !y.isNan && (x.mul y).isNone

/-- One cell of an MMA: its accumulator and its flags (R55, R261). -/
def mmaCell (md : FpMode) (acc : Nat) (row col : List Fp) : Nat × FpFlags :=
  let ps := row.zip col
  let r := accumulateF md acc (ps.map fun p => fpProd p.1 p.2)
  (r.1, { r.2 with nv := r.2.nv || ps.any fun p => badProduct p.1 p.2 })

/-- What an operation leaves on one target: cells by 64 * row + column, its flags, whether it read a poisoned line. -/
structure UnitRes where
  cells : List (Nat × FpFlags)
  pz : Bool := false

/-- The cells of a tile in order, each from its row and column. -/
def cellsOf (f : Nat → Nat → Nat × FpFlags) : List (Nat × FpFlags) :=
  (List.range 64).flatMap fun r => (List.range 64).map fun n => f r n

/-- The tile that MMA and MMAS leave (R261). -/
def State.mmaRes (s : State) (u : Thread) (o : UnitOp) (tile : Tile) : UnitRes :=
  let fmt := o.fmt.toNat
  let k := o.args.getD 2 0
  let rows := (List.range 64).map fun m => allBlocks k (s.aBlock u fmt (o.args.getD 0 0) m)
  let cols := (List.range 64).map fun n => allBlocks k (s.bBlock u fmt (o.args.getD 1 0) n)
  let md := fmtMode fmt
  { cells := cellsOf fun m n =>
      mmaCell md (if o.op = 1 then 0 else (tile.cells.get (64 * m + n)).toNat) (rows.getD m ([], false)).1
        (cols.getD n ([], false)).1
    pz := rows.any (·.2) || cols.any (·.2) }

/-- A code of the ACCW format as FA36 (R262). -/
def accwIn (fmt code : Nat) : Nat :=
  match fld fmt 20 2 with
  | 0 => fa36Read (code % 2 ^ 36)
  | 1 => (FA36.conv { can := true } (F32.dec code)).1
  | 2 => (FA36.conv { can := true } (BF16.dec code)).1
  | _ => (FA36.conv { can := true } (F16.dec code)).1

/-- An FA36 value in a format, rounded once by FMT's RND, SAT and SUB (R64, R262, R268, log 81). -/
def accOut (fmt fm code : Nat) : Nat × FpFlags :=
  let md := { fmtMode fmt with can := true }
  let v := FA36.decIn md code
  match fm with
  | 0 => FA36.conv md v
  | 1 => F32.conv md v
  | 2 => BF16.conv md v
  | _ => F16.conv md v

/-- The tile that MLDACC leaves (R262). -/
def State.mldRes (s : State) (u : Thread) (o : UnitOp) (c : Nat) : UnitRes :=
  let sz := accwSize o.fmt.toNat
  let at_ (r n : Nat) : Nat := (o.args.getD 0 0 + c * o.args.getD 2 0) % 2 ^ 64 + r * o.args.getD 1 0 + n * sz
  { cells := cellsOf fun r n =>
      (if s.unitPoison u (at_ r n) sz then FA36.canonical else accwIn o.fmt.toNat (s.unitNat u (at_ r n) sz), {})
    pz := (List.range 4096).any fun k => s.unitPoison u (at_ (k / 64) (k % 64)) sz }

/-- The tile that MSCALE leaves (R263). It takes SAT of FMT, and not SUB (log 54). -/
def State.mscaleRes (s : State) (u : Thread) (o : UnitOp) (c : Nat) (tile : Tile) : UnitRes :=
  let at_ (r : Nat) : Nat := (o.args.getD 0 0 + c * o.args.getD 1 0) % 2 ^ 64 + 4 * r
  let factor (r : Nat) : Fp := if s.unitPoison u (at_ r) 4 then nanFp else F32.dec (s.unitNat u (at_ r) 4)
  let md : FpMode := { sat := (fmtMode o.fmt.toNat).sat, can := true }
  { cells := cellsOf fun r n =>
      let x := FA36.dec (tile.cells.get (64 * r + n)).toNat
      let y := factor r
      let v := FA36.dot md [x, y] [(x, y)] []
      (v.1, { v.2 with nv := badProduct x y })
    pz := (List.range 64).any fun r => s.unitPoison u (at_ r) 4 }

/-- A store with these words at 0, 1, 2 and so on. -/
def Store.ofList {w : Nat} (xs : List (BitVec w)) : Store w :=
  (xs.zipIdx.map fun x => (x.2, x.1)).filter fun e => e.2 != 0#w

/-- The sticky flags and the record of a poisoned line (R256, R261, R263, R265). -/
def State.unitFlags (s : State) (wg : Nat) (fl : FpFlags) (pz : Bool) : State :=
  let s := s.updWg wg fun g => { g with accOf := g.accOf || fl.of_, accNv := g.accNv || fl.nv, accPz := g.accPz || pz }
  if pz then
    let g := s.wgs.getD wg .absent
    s.post { code := 0x10, sev := 2, core := g.core, die := g.die, part := (s.launchOfWg g).part
             tag := (s.launchOfWg g).hdr.tag.toNat }
  else s

/-- Where MSTACC writes a core's tile (R262). -/
def UnitOp.mstBase (o : UnitOp) (c : Nat) : Nat := (o.args.getD 0 0 + c * o.args.getD 2 0) % 2 ^ 64

/-- The element of a tile's image that a byte belongs to, and which of its bytes it is (R262). -/
def UnitOp.mstAt (o : UnitOp) (c x : Nat) : Option (Nat × Nat) :=
  let sz := accwSize o.fmt.toNat
  let r := (x - o.mstBase c) / o.args.getD 1 0
  let b := (x - o.mstBase c) % o.args.getD 1 0
  if o.mstBase c ≤ x ∧ r < 64 ∧ b < 64 * sz then some (64 * r + b / sz, b % sz) else none

/-- The first address of the 32-bit word `k` of a tile's image: 129 to a row, the last of which may be another row's or
none's. -/
def UnitOp.mstWordAt (o : UnitOp) (c k : Nat) : Nat := (o.mstBase c + k / 129 * o.args.getD 1 0) / 4 * 4 + 4 * (k % 129)

/-- The 32-bit word at an address as MSTACC writes it, with OF where one of its elements overflowed: whole elements of 2 or 4
bytes, or half of one of 8 (R262, R397). -/
def State.mstWord (s : State) (u : Thread) (o : UnitOp) (c : Nat) (tile : Tile) (a : Nat) : State :=
  let xs := (List.range 4).filterMap fun i => (o.mstAt c (a + i)).map fun e => (a + i, e)
  let out (k : Nat) : Nat × FpFlags := accOut o.fmt.toNat (fld o.fmt.toNat 20 2) (tile.cells.get k).toNat
  let s := match xs.head? with
    | none => s
    | some x => (s.writePlace u (unitPlace x.1) (xs.map fun y => BitVec.ofNat 8 ((out y.2.1).1 / 2 ^ (8 * y.2.2)))).1
  if xs.any fun x => (out x.2.1).2.of_ then s.unitFlags u.wg { of_ := true } false else s

/-- The words that MSTACC has still to write on a core (R262, R269). -/
def State.mstacc (s : State) (u : Thread) (o : UnitOp) (core : Nat) (tile : Tile) : State :=
  (((List.range 8256).map (o.mstWordAt (core % 4))).filter fun a => !o.did.contains (core, a)).foldl
    (fun s a => s.mstWord u o (core % 4) tile a) s

/-- Puts what an operation leaves into a target's tile. -/
def State.putTile (s : State) (wg t : Nat) (r : UnitRes) : State :=
  let cells := Store.ofList (r.cells.map fun c => BitVec.ofNat 36 c.1)
  let s := s.updWg wg fun g => { g with tiles := g.tiles.put t { g.tiles.getD t {} with cells := cells } }
  s.unitFlags wg (r.cells.foldl (fun a c => a.or c.2) {}) r.pz

/-- The effect of an operation on one target (R261 to R263). -/
def State.unitDo (s : State) (o : UnitOp) (core wg : Nat) : State :=
  let u := o.view core wg
  let c := core % 4
  let t := o.xt % 4
  let tile := (s.wgs.getD wg .absent).tiles.getD t {}
  match o.op with
  | 0 => s.putTile wg t (s.mmaRes u o tile)
  | 1 => s.putTile wg t (s.mmaRes u o tile)
  | 2 => s.putTile wg t { cells := [] }
  | 3 => s.putTile wg t (s.mldRes u o c)
  | 4 => s.mstacc u o core tile
  | _ => s.putTile wg t (s.mscaleRes u o c tile)

/-- Array cycles of an operation on one unit (R247, R445). -/
def UnitOp.cycles (o : UnitOp) : Nat :=
  if isMma o.op then o.args.getD 2 0 / 32 * declaredPlanes o.fmt.toNat (pFormD (fld o.fmt.toNat 0 5)) else 0

/-! ### Queues (R255, R256) -/

/-- The operation that a core's unit runs or starts next, with its target there: the first of its queue that it has not
finished (R255). -/
def State.unitHead (s : State) (core : Nat) : Option (Nat × UnitOp × Nat) :=
  (s.cores.getD core {}).unitQ.findSome? fun id =>
    match s.unitOps.get? id with
    | none => none
    | some o =>
      if o.ended.contains core then none
      else (o.targets.find? fun x => x.1 == core).map fun x => (id, o, x.2)

/-- Event UNIT_OP_START: the head of a unit's queue starts when the entries that it waits for have retired (R256). -/
def execUnitOpStart (core : Nat) (s : State) : Host.Outcome State Fault Refusal :=
  match s.unitHead core with
  | none => notEnabled
  | some (id, o, _) =>
    when (o.waits.isEmpty && !o.started.contains core && !s.lost (core / 144))
      { s with unitOps := s.unitOps.put id { o with started := o.started ++ [core] } }

/-- The pages that an operation touches in a target's scratchpad are pinned (R256). -/
def State.unitPinned (s : State) (o : UnitOp) (c wg : Nat) : Bool :=
  (unitRanges o.op o.fmt.toNat o.args c).all fun r =>
    match scrSpan r.2.1 r.2.2.1 with
    | none => true
    | some x => (List.range ((x.2 + 16383) / 16384 - x.1 / 16384)).all fun k =>
        (s.wgs.getD wg .absent).pinned.contains (x.1 / 16384 + k)

/-- One unit has finished an operation: when it was the last, the operation is complete, leaves the queues and makes its
arrival (R255). -/
def State.unitLeave (s : State) (core id : Nat) (o : UnitOp) : State :=
  let ended := o.ended ++ [core]
  if o.targets.all fun x => ended.contains x.1 then
    let s := o.targets.foldl (fun s x => s.updCore x.1 fun c => { c with unitQ := c.unitQ.filter (· != id) }) s
    let s := { s with unitOps := s.unitOps.del id }
    if o.nb = 63 then s else s.nbAdd o.wg o.nb { a := 1 }
  else { s with unitOps := s.unitOps.put id { o with ended := ended } }

/-- The operation that a core's unit is running, where its pages are pinned and its die is not lost, with its target. -/
def State.unitJob (s : State) (core : Nat) : Option (Nat × UnitOp × Nat) :=
  (s.unitHead core).filter fun h =>
    h.2.1.started.contains core && s.unitPinned h.2.1 (core % 4) h.2.2 && !s.lost (core / 144)

/-- A running operation reads one of its words before it completes (R269). -/
def unitWord (core va : Nat) (s : State) : Host.Outcome State Fault Refusal :=
  match s.unitJob core with
  | none => notEnabled
  | some (id, o, wg) =>
    let a := va / 4 * 4
    let inside := (unitRanges o.op o.fmt.toNat o.args (core % 4)).any fun r =>
      r.1 == .load && decide (r.2.1 ≤ va ∧ va < r.2.1 + r.2.2.1)
    if !inside ∨ o.got.any (fun g => g.1 == core && g.2.1 == a) then notEnabled
    else
      let u := Thread.ofUnit wg
      let w := if s.unitPoison u a 4 then none else some (BitVec.ofNat 32 (s.unitNat u a 4))
      .next { s with unitOps := s.unitOps.put id { o with got := o.got ++ [(core, a, w)] } }

/-- A running MSTACC writes one of its words before it completes (R269, R397). -/
def unitElem (core k : Nat) (s : State) : Host.Outcome State Fault Refusal :=
  match s.unitJob core with
  | none => notEnabled
  | some (id, o, wg) =>
    let a := o.mstWordAt (core % 4) k
    if o.op ≠ 4 ∨ 8256 ≤ k ∨ o.did.contains (core, a) then notEnabled
    else
      let tile := (s.wgs.getD wg .absent).tiles.getD (o.xt % 4) {}
      .next { s.mstWord (.ofUnit wg) o (core % 4) tile a with
        unitOps := s.unitOps.put id { o with did := o.did ++ [(core, a)] } }

/-- Event UNIT_OP_COMPLETE: a unit ends the operation that it runs (R255, R369, R445, log 10). -/
def execUnitOpComplete (core : Nat) (s : State) : Host.Outcome State Fault Refusal :=
  match s.unitJob core with
  | none => notEnabled
  | some (id, o, wg) =>
    let s := s.unitDo o core wg
    let s := { s with launches := s.launches.upd (s.wgs.getD o.wg .absent).launch fun l =>
      { l with mcyc := satAdd 64 l.mcyc o.cycles } }
    .next (s.unitLeave core id o)

/-! ### MQRY (R264, R265) -/

/-- The result of MQRY for a target (R265). -/
def State.unitState (s : State) (core wg : Nat) : Nat :=
  let g := s.wgs.getD wg .absent
  let facc := (s.launchOfWg g).hdr.facc
  let tok := ((List.range 4).filter fun t => decide (t < facc) && g.token t == .unit).foldl (fun a t => a + 2 ^ t) 0
  (s.cores.getD core {}).unitQ.length % 32 + tok * 2 ^ 8 + bit g.accOf * 2 ^ 16 + bit g.accNv * 2 ^ 17
    + bit g.accPz * 2 ^ 18

/-- MQRY and MQRY.CLR (R264). -/
def execMqry (f : Eng) (s : State) : Host.Outcome State Fault Refusal :=
  run s fun t =>
    let c := f.xt.toNat % 4
    let g := s.wgOf t
    match s.unitTarget t c with
    | none => done s (t.putG f.dst.toNat (BitVec.ofNat 64 (2 ^ 19)))
    | some wg =>
      let key := coreKey g.die (g.core / 4 * 4 + c)
      let v := s.unitState key wg
      let t := if (s.cores.getD key {}).unitQ.isEmpty then s.unitIdle t c else t
      let s' := if f.xt.getLsbD 2 then s.updWg wg fun g => { g with accOf := false, accNv := false, accPz := false }
        else s
      done s' (t.putG f.dst.toNat (BitVec.ofNat 64 v))

/-! ### ACCRD and ACCWR (R267, R268) -/

/-- The first row, first column and row count of ACCRD and ACCWR, checked; `d` is the first register and `k` the registers
of a row (R267). -/
def Thread.accSpan (t : Thread) (f : Eng) (d k : Nat) : Except Ev (Nat × Nat × Nat) := do
  let pos := t.uni f.a
  let r0 := fld pos 0 6
  let c0 := fld pos 8 6
  let n := fld f.xt.toNat 2 4 + 1
  rsvUnless (decide (r0 + n ≤ 64 ∧ c0 + t.width ≤ 64 ∧ d % k = 0 ∧ d + n * k ≤ 128) && t.vHeld d (n * k))
  .ok (r0, c0, n)

/-- The group holds the tile's token (R258). -/
def State.holdsToken (s : State) (t : Thread) (tile : Nat) : Except Ev Unit :=
  if !s.hasTile t.wg tile then .error (accTrap tile (s.wgOf t).core true)
  else if (s.wgOf t).token tile = .group t.gidx then .ok ⟨⟩
  else .error (accTrap tile (s.wgOf t).core false)

/-- The format of a TY of ACCRD and ACCWR, coded as ACCW's (R267). -/
def accTy (f : Eng) : Nat := if f.xty = 1 then 0 else if f.ty = 8 then 1 else if f.ty = 10 then 2 else 3

/-- ACCRD (R267, R268). -/
def execAccrd (f : Eng) (s : State) : Host.Outcome State Fault Refusal :=
  run s fun t => do
    let tile := fld f.xt.toNat 0 2
    let k := if accTy f = 0 then 2 else 1
    t.canRead f.a 1
    let p ← t.accSpan f f.dst.toNat k
    s.holdsToken t tile
    if t.active.isEmpty then done s t
    else
      let cells := ((s.wgOf t).tiles.getD tile {}).cells
      let value (j i : Nat) : Nat :=
        let code := (cells.get (64 * (p.1 + j) + p.2.1 + i)).toNat
        if accTy f = 0 then code else (accOut t.regs.fmt.toNat (accTy f) code).1
      let vals := (List.range p.2.2).foldl (fun m j => t.active.foldl (fun m i =>
        (List.range k).foldl (fun m h => Store.set m (64 * (j * k + h) + i) (word32 (value j i) h)) m) m) []
      let q := s.produce t { toG := false, reg := f.dst.toNat, n := p.2.2 * k, lanes := t.regs.em, vals := vals
                             waiting := 0, ready := true, slot := none }
      done q.1 q.2

/-- ACCWR (R267, R268). -/
def execAccwr (f : Eng) (s : State) : Host.Outcome State Fault Refusal :=
  run s fun t => do
    let tile := fld f.xt.toNat 0 2
    let fm := accTy f
    let k := if fm = 0 then 2 else 1
    t.quiet
    t.canRead f.a 1
    let d := f.b.reg.toNat
    let p ← t.accSpan f d k
    emptyEv (f.b.wt == 1) (firstEmpty t.regs.ve d (p.2.2 * k)) false
    s.holdsToken t tile
    let code (j i : Nat) : Nat :=
      let v := vSpan t.regs.v (d + j * k) i k
      accwIn (fm * 2 ^ 20) (if fm = 0 ∨ fm = 1 then v else v % 2 ^ 16)
    let cells := (List.range p.2.2).foldl (fun m j => t.active.foldl (fun m i =>
      Store.set m (64 * (p.1 + j) + p.2.1 + i) (BitVec.ofNat 36 (code j i))) m) ((s.wgOf t).tiles.getD tile {}).cells
    done (s.updWg t.wg fun g => { g with tiles := g.tiles.put tile { g.tiles.getD tile {} with cells := cells } }) t

/-! ### What waits for a scratchpad page (R213, R232, R256) -/

/-- A page of a PSEL's array lies in a scratchpad page (R242). -/
def State.pselWants (s : State) (op : EngOp) (page : Nat) : Bool :=
  op.kind == .psel && (s.threads.get? op.tid).any fun t => (s.pselPages t op).any fun a =>
    match aperture a with
    | (.scratch, o) => decide (o < 16384 * page + 16384 ∧ 16384 * page < o + 9024)
    | _ => false

/-- An engine operation of the workgroup holds a range in the page, or reads a page of PSEL there. -/
def State.engineWants (s : State) (wg : Nat) (g : Wg) (page : Nat) : Bool :=
  (s.cores.getD (coreKey g.die g.core) {}).ops.any fun o => o.2.wg == wg &&
    (s.pselWants o.2 page || o.2.ranges.any fun r => decide (r.1 < 16384 * page + 16384 ∧ 16384 * page < r.2))

/-- An operation of the matrix units touches the page. -/
def State.unitWants (s : State) (wg page : Nat) : Bool :=
  s.unitOps.any fun o => o.2.targets.any fun x => x.2 == wg &&
    (unitRanges o.2.op o.2.fmt.toNat o.2.args (x.1 % 4)).any fun r =>
      match scrSpan r.2.1 r.2.2.1 with
      | none => false
      | some y => decide (y.1 < 16384 * page + 16384 ∧ 16384 * page < y.2)

/-- A posted store of the workgroup lies in the page. -/
def State.postWants (s : State) (wg page : Nat) : Bool :=
  s.threads.any fun e => e.2.side != .cellar && e.2.wg == wg && e.2.posted.any fun p =>
    match p.1 with
    | .scratch o => o / 16384 == page
    | _ => false

/-- Event SCRATCHPAD_PAGE_REFILL: a page that an access or SPAGE.PIN waits for is refilled (R213, R232, R256). -/
def execScratchpadPageRefill (wg page : Nat) (s : State) : Host.Outcome State Fault Refusal :=
  match s.wgs.get? wg with
  | none => notEnabled
  | some g =>
    when (!g.pinned.contains page && decide (16384 * page < scrLimit (s.launchOfWg g).hdr g) &&
        !(s.isHere (g.backing + 16384 * page) && s.homeLost (inPkg (s.forwarded (g.backing + 16384 * page)))) &&
        (g.wanted.contains page || s.engineWants wg g page || s.unitWants wg page || s.postWants wg page))
      (s.refill wg page)

end Sys2Proof.Machine
end

