-- ==== Sys2Proof/Machine/Fetch.lean ====
section
/-!
DEFINITION. The checks that a slot passes before it executes (R101 to R104, R123 to R127), and the thread that
`State.withFetchWord` places an instruction in.
-/

namespace Sys2Proof.Machine

/-- The line word (R100). -/
def Line.word (l : Line) : Nat := (l.data.extractLsb' 480 32).toNat

/-- The 96 bits of a slot (R100). -/
def Line.slot (l : Line) (k : Nat) : Slot := l.data.extractLsb' (96 * k) 96

/-- The ones of `n` bits are even in number (R102). -/
def evenOnes (v n : Nat) : Bool := popcount v n % 2 == 0

/-- PW is right (R101, R102). -/
def pwOk (w : Nat) : Bool := evenOnes (fld w 0 9 + fld w 14 18 * 2 ^ 9) 27

/-- PS of a slot is right (R101, R102). -/
def Line.psOk (l : Line) (k : Nat) : Bool := evenOnes ((l.slot k).toNat + bit (tb l.word (9 + k)) * 2 ^ 96) 97

/-- FETCH_PARITY (R404). -/
def parityTrap (line slot : Nat) (word : Bool) : Ev :=
  .trap { cls := 0x0C, addr := line, info := slot + 8 * bit word }

/-- Checks 1 to 3 of R127 (log 43). -/
def Thread.lineChecks (t : Thread) (l : Line) : Except Ev Unit :=
  let k := slotOf t.at_
  if t.enter ≠ .inside ∧ !pwOk l.word then .error (parityTrap (lineOf t.at_) k true)
  else if t.enter ≠ .inside ∧ fld l.word 15 17 ≠ 0 then .error (illegal 2)
  else if t.enter = .branch ∧ !tb l.word k then .error (illegal 3)
  else if !l.psOk k then .error (parityTrap (lineOf t.at_) k false)
  else .ok ⟨⟩

/-- The role may issue the instruction (R125, R126). -/
def roleOk (t : Thread) (i : Instr) : Bool :=
  t.side != .wide || t.handler ||
    match t.role, classOf i with
    | .any, _ => true
    | _, .every => true
    | .vector, .arith => true
    | .vector, .vectorOnly => true
    | .copy, .copyOnly => true
    | _, _ => false

/-- Checks 4 to 7 of R127: the instruction that a slot holds. A Cellar unit refuses the special registers of the supervisor
as every other number that it does not accept, with ILLEGAL/RSV (R350, log 56). -/
def Thread.decodeSlot (t : Thread) (w : Slot) : Except Ev Instr :=
  match identifyOn t.side w with
  | none => .error (illegal 0)
  | some i =>
    if t.side != .cellar && supervisorOnly i && !t.handler then .error (illegal 0)
    else if !roleOk t i then .error (illegal 4)
    else
      match decode t.side t.width w with
      | .ok j => .ok j
      | .error .opc => .error (illegal 0)
      | .error .rsv => .error (illegal 1)
      | .error .pattern => .error (illegal 5)

/-- The instruction that a thread issues next from a line it holds: checks 1 to 7 of R127. -/
def Thread.fetched (t : Thread) (l : Line) : Except Ev Instr := do
  t.lineChecks l
  t.decodeSlot (l.slot (slotOf t.at_))

/-- A thread leaves the block it stands at, to take a trap there (R243). -/
def State.unblock (s : State) (tid : Nat) (t : Thread) : State :=
  match t.status with
  | .rext _ => s.updCore (s.coreOf t) fun c => { c with rextQ := c.rextQ.filter (· != tid) }
  | .accacq tile => s.tokenLeave tid t tile
  | _ => s

/-- A trap that is due is taken before the next issue; in the handler it waits for SRET (R243, R414, log 24). -/
def Thread.dueNow (t : Thread) : Option TrapInfo :=
  if t.handler ∨ t.busy ∨ t.status = .exited ∨ t.status = .halted then none else t.due.head?

/-- A trap is due, but the group's store buffer still holds accesses that may roll it back: it issues nothing until they are
answered (R243, R278). -/
def Thread.dueHeld (t : Thread) : Bool := !t.handler && t.busy && !t.due.isEmpty

/-- A due trap is taken. -/
def State.takeDue (s : State) (tid : Nat) (t : Thread) (x : TrapInfo) : State :=
  (s.unblock tid t).takeTrap tid { t with due := t.due.drop 1, status := .running } x

/-- What stands between a thread and its next instruction. -/
inductive Ready where
  /-- A due trap. -/
  | due (x : TrapInfo)
  /-- It is blocked, has no line yet, or its die is lost (R145, R420). -/
  | waits
  /-- The checks of its slot trap. -/
  | stops (e : Ev)
  /-- It stands at a breakpoint of a D2 session (R429, log 40). -/
  | breaks
  /-- It issues this instruction. -/
  | runs (i : Instr)
  deriving Repr

/-- A mask-valued operand position that an instruction names. -/
def maskKind : OKind → Bool
  | .mask => true
  | .maskM => true
  | _ => false

/-- The masks that an instruction reads or writes (R112, R115, R117, R189). -/
def masksOf (i : Instr) : List Nat :=
  match fieldsOf i with
  | none => []
  | some f =>
    let h := shapeOf i
    (if h.dst.1 = .mask then [f.dst] else []) ++ (if maskKind h.a.1 then [f.a.reg.toNat] else []) ++
      (if maskKind h.b.1 then [f.b.reg.toNat] else []) ++ (if maskKind h.c.1 then [f.c.reg.toNat] else []) ++
      match i with
      | .brm g => [g.cond.toNat % 8]
      | .rsel g => [g.xt.toNat % 8, g.xt.toNat / 8 % 8]
      | .rselTie g => [g.xt.toNat % 8, g.xt.toNat / 8 % 8]
      | _ => []

/-- An instruction names the report mask of a query in flight, and so stalls (R340). -/
def Thread.reportWaits (t : Thread) (i : Instr) : Bool :=
  t.queries.vals.any fun q => (masksOf i).contains q.report

/-- What a thread does when it is given an issue slot. -/
def State.ready (s : State) (t : Thread) : Ready :=
  if s.lost (s.dieOf t) ∨ s.stopped t then .waits
  else
    match t.dueNow with
    | some x => .due x
    | none =>
      if t.status ≠ .running ∨ t.dueHeld then .waits
      else if s.debug = 2 ∧ t.side ≠ .cellar ∧ s.breaks.contains t.at_ then .breaks
      else
        match t.line with
        | none => .waits
        | some l =>
          match t.fetched l with
          | .ok i => if t.reportWaits i then .waits else .runs i
          | .error e => .stops e

/-- A thread takes issue slots: it is not blocked, and has a line to issue from or a trap to take (R146). -/
def State.takesSlot (s : State) (t : Thread) : Bool :=
  match s.ready t with
  | .waits => false
  | _ => true

/-! ### Placing an instruction -/

/-- The line that holds a word in slot 0, with TGT 0 set and its parity right (R101). -/
def Line.ofWord (x : Slot) : Line :=
  let tgt := 1
  let ps := bit (popcount x.toNat 96 % 2 == 1) * 2 ^ 9
  let pw := bit (!pwOk tgt) * 2 ^ 14
  { base := 0, data := BitVec.ofNat 512 (x.toNat + (tgt + ps + pw) * 2 ^ 480) }

/-- Where an instruction's word runs: the wide side, else the MCC, else a Cellar unit, as `decodeTableWord` reads it. -/
def sideFor (x : Slot) : Side :=
  match decode .wide 64 x with
  | .ok _ => .wide
  | .error _ =>
    match decode .mcc 1 x with
    | .ok _ => .mcc
    | .error _ =>
      match decode .cellar 32 x with
      | .ok _ => .cellar
      | .error _ => .wide

/-- The word is one that only the handler issues. -/
def needsHandler (x : Slot) : Bool :=
  match identify x with
  | some i => supervisorOnly i
  | none => false

/-- The launch of a placed instruction: one workgroup of one group of 64 lanes, or of one matrix group. -/
def Launch.placed (mcc : Bool) : Launch :=
  { Launch.absent with
    hdr := { widthCode := 3, w := [6], matn := bit mcc, vecn := bit (!mcc) }, nwg := 1 }

/-- The thread of a placed instruction. -/
def Thread.placed (side : Side) (wg : Nat) (x : Slot) : Thread :=
  { side, role := .any, wg, gidx := 0, width := if side = .wide then 64 else if side = .mcc then 1 else 32
    pc := 0, line := some (Line.ofWord x), handler := needsHandler x
    regs := { em := BitVec.ofNat 64 (if side = .wide then 2 ^ 64 - 1 else if side = .mcc then 1 else 2 ^ 32 - 1) } }

/-- Places a word as the next instruction to issue: a thread whose line holds it, with the workgroup or the task that
the thread belongs to (log 6). -/
def State.placeWord (s : State) (x : Slot) : State :=
  let n := s.nextId
  let side := sideFor x
  { s with
    agenda := .issue n :: s.agenda
    nextId := n + 1
    threads := s.threads.put n (Thread.placed side n x)
    wgs := if side = .cellar then s.wgs else s.wgs.put n { Wg.absent with launch := n, unit_ := n }
    launches := if side = .cellar then s.launches else s.launches.put n (Launch.placed (side == .mcc))
    tasks := if side = .cellar then s.tasks.put n { Task.absent with total := 1, left := 1, started := 1 }
      else s.tasks }

end Sys2Proof.Machine
end

