-- ==== Sys2Proof/Machine/Hearth.lean ====
section
/-!
DEFINITION. The Hearth's registers and latches (R66, R67, R81, R82, R84, R85, R93, R224, R284, R424, R437), its reads of
memory, the ash pan's read index and MSI-X messages (R421).
-/

namespace Sys2Proof.Machine

/-! ### What the Hearth reads -/

/-- What the Hearth or the Porch finds when it reads memory. -/
inductive HRead where
  | bytes (bs : List Byte)
  /-- The address does not translate, is not readable, or lies in a poisoned line. -/
  | bad
  /-- The read never completes: its home is a lost die (R420). -/
  | stuck
  deriving DecidableEq, Repr

/-- Joins two reads. -/
def HRead.append : HRead → HRead → HRead
  | .bytes a, .bytes b => .bytes (a ++ b)
  | .bad, _ => .bad
  | .stuck, _ => .stuck
  | .bytes _, x => x

/-- Reads `n` bytes of a partition's global window that lie in one page, for the Hearth. What another package holds is free
(log 11). -/
def State.hearthRead (s : State) (part va n : Nat) : HRead :=
  if 2 ^ 56 < va + n then .bad
  else
    match s.walk part va with
    | .fault .. => .bad
    | .poison => .bad
    | .remote .. => .bad
    | .never => .stuck
    | .away .. => .stuck
    | .page base big r _ _ _ _ =>
      if !r then .bad
      else
        match s.physRes part true .load (pageAddr base big va) true with
        | .ok (.phys a) => .bytes (s.mem.bytes a n)
        | .ok (.remote pa _) => .bytes (toBytes (Config.freeNat s.free pa) n)
        | .ok _ => .stuck
        | _ => .bad

/-- Reads `k` pieces of `n` bytes, each in one page. -/
def State.hearthReads (s : State) (part va n : Nat) : Nat → HRead
  | 0 => .bytes []
  | k + 1 => (s.hearthRead part va n).append (s.hearthReads part (va + n) n k)

/-- A 128-byte record read from a partition's window ends in the next page only where it is misaligned; the Hearth reads
it in 8-byte words. -/
def State.hearthWords (s : State) (part va k : Nat) : HRead := s.hearthReads part va 8 k

/-! ### Registers (R66, R67) -/

/-- The bits of a register that a write keeps (R67, R93, R224, R284, R424, R436, R437); none for an offset that names no
register, or one whose writes have their own event or no effect. -/
def regMask (off : Nat) : Option Nat :=
  let per (b : Nat) : Bool := decide (b ≤ off ∧ off < b + 32) && off % 8 == 0
  if off = 0x100 then some (2 ^ 64 - 1)
  else if off = 0x108 then some (2 ^ 16 - 1)
  else if per 0x180 then some (2 ^ 24 - 1)
  else if off = 0x200 ∨ off = 0x210 ∨ off = 0x220 then some (2 ^ 64 - 1)
  else if off = 0x208 ∨ off = 0x218 ∨ off = 0x228 then some 1
  else if off = 0x300 then some (2 ^ 32 - 1)
  else if off = 0x308 then some (2 ^ 17 - 1)
  else if off = 0x310 then some ((2 ^ 60 - 2 ^ 16) + (2 ^ 13 - 1))
  else if per 0x400 then some (2 ^ 56 - 2 ^ 6)
  else if per 0x420 then some (2 ^ 60 - 2 ^ 30)
  else if per 0x440 then some (2 ^ 56 - 2 ^ 30)
  else if per 0x460 then some (2 ^ 64 - 1)
  else if per 0x480 then some ((2 ^ 56 - 2 ^ 12) + 15)
  else if off = 0x4A8 then some ((2 ^ 60 - 2 ^ 30) + 255)
  else if off = 0x4B8 then some (2 ^ 64 - 1)
  else if off = 0x4C0 then some ((2 ^ 60 - 2 ^ 12) + 15)
  else if off = 0x4E0 then some (2 ^ 60 - 1)
  else if off = 0x4E8 then some ((2 ^ 60 - 2 ^ 12) + 15)
  else if off = 0x4F0 then some (2 ^ 32 - 1)
  else none

/-- A write of HPWR has no effect (R437). -/
def State.powerRefused (s : State) : State := s.setHr 0x500 (s.hr 0x500 ||| BitVec.ofNat 64 (2 ^ 63))

/-- Event REGISTER_WRITE: a register without a behaviour of its own takes the value; an offset that names none, or a read-only
register, is left as it is (R66, R67). REQ 3 of HPWR is refused in its turn (R433, R437). -/
def execRegisterWrite (off : Nat) (v : BitVec 64) (_port : Port) (s : State) : Host.Outcome State Fault Refusal :=
  if off = 0x500 ∧ v.toNat % 4 = 3 then
    .next (if s.debugEntry.isSome then { s with secQueue := s.secQueue ++ [.noEffect] } else s.powerRefused)
  else match regMask off with
  | some m => .next (s.setHr off (v &&& BitVec.ofNat 64 m))
  | none => .next s

/-- The conditions of R85 that HPTR and HSBK share with HPART: queues disabled, nothing resident, no task running; a task of
which no instance has started is queued and does not run (R363, R364). -/
def State.quietPart (s : State) : Bool :=
  s.queues.all (fun q => !q.2.enabled) && s.wgs.isEmpty && s.tasks.all fun k => s.taskState k.1 k.2 != 1

/-- Dies that share a partition number are one, a pair of neighbours, or all four (R85). -/
def dieSetsOk (v : Nat) : Bool :=
  (List.range 4).all fun p =>
    let ds := (List.range 4).filter fun d => fld v (2 * d) 2 == p
    ds.length ≤ 1 || ds == [0, 1] || ds == [2, 3] || ds == [0, 1, 2, 3]

/-- Event HPART_WRITE (R84, R85, R336, R394): device-side queues empty, Pantry images, handles and leases are discarded
when it takes effect. -/
def execHpartWrite (v : BitVec 64) (s : State) : Host.Outcome State Fault Refusal :=
  let n := v.toNat % 2 ^ 20
  if dieSetsOk n && ((List.range 4).all fun d => decide (fld n (8 + 3 * d) 3 ≤ 4)) && s.quietPart then
    .next { s.setHr 0x140 (BitVec.ofNat 64 n) with
      handles := []
      ordRounds := []
      lease := []
      dies := s.dies.map fun d =>
        (d.1, { d.2 with part := [], reading := none, staged := [], image := [], pantryPoison := [], stagedPoison := [] }) }
  else .next (s.setHr 0x140 (s.hr 0x140 ||| BitVec.ofNat 64 (2 ^ 63)))

/-- Event HPTR_WRITE: only under the conditions of R85 (R224). -/
def execHptrWrite (part : Nat) (v : BitVec 64) (s : State) : Host.Outcome State Fault Refusal :=
  if 4 ≤ part then notEnabled
  else if s.quietPart then .next (s.setHr (0x1A0 + 8 * part) (v &&& BitVec.ofNat 64 (2 ^ 60 - 2 ^ 12)))
  else .next s

/-- Event HSBK_WRITE: only under the conditions of R85 (R214, R224). -/
def execHsbkWrite (part : Nat) (v : BitVec 64) (s : State) : Host.Outcome State Fault Refusal :=
  if 4 ≤ part then notEnabled
  else if s.quietPart then .next (s.setHr (0x1C0 + 8 * part) (v &&& BitVec.ofNat 64 ((2 ^ 60 - 2 ^ 30) + 255)))
  else .next s

/-! ### Latches (R81, R82) -/

/-- The code of a port. -/
def Port.num : Port → Nat
  | .a => 1
  | .b => 2

/-- The mark of REFUSED of a latch for a port. -/
def refusedKey (n : Nat) (port : Port) : Nat := 32 * (Port.num port - 1) + n

/-! ### What a register reads as (R67, R68, R81, R224, R284, R424, R436) -/

/-- The code of a queue's state in QRIDX (R68). -/
def QState.code : QState → Nat
  | .off => 0
  | .waiting => 1
  | .mapped => 2
  | .faulted => 3

/-- An offset in a run of `n` registers of 8 bytes from `b`: its number in the run. -/
def regAt (b n off : Nat) : Option Nat :=
  if b ≤ off ∧ off < b + 8 * n ∧ off % 8 = 0 then some ((off - b) / 8) else none

/-- The registers that only keep what is written, or what the device has put there. -/
def keptReg (off : Nat) : Bool :=
  (regMask off).isSome || [0x140, 0x4C8, 0x4D0, 0x4D8, 0x500, 0x508].contains off || (regAt 0x1A0 4 off).isSome ||
    (regAt 0x1C0 4 off).isSome

/-- The enable bits of 64 queues. -/
def State.enables (s : State) (k : Nat) : Nat :=
  ((List.range 64).filter fun j => (s.queues.getD (64 * k + j) {}).enabled).foldl (fun a j => a + 2 ^ j) 0

/-- What a port reads at an offset of the Hearth register block; an offset that names no register, and one that is only
written, reads as zero (R67, R81, R424, log 78). -/
def State.readReg (s : State) (port : Port) (off : Nat) : W64 :=
  let busy (b : Bool) : W64 := BitVec.ofNat 64 (bit b * 2 ^ 63)
  match regAt 0x110 4 off, regAt 0x1000 256 off, regAt 0x1800 256 off, regAt 0x2000 32 off, regAt 0x1E0 4 off with
  | some k, _, _, _, _ => BitVec.ofNat 64 (s.enables k)
  | _, some q, _, _, _ => BitVec.ofNat 64 (s.queues.getD q {}).widx
  | _, _, some q, _, _ =>
    let x := s.queues.getD q {}
    BitVec.ofNat 64 (x.ridx + x.state.code * 2 ^ 32)
  | _, _, _, some n, _ => s.hr off ||| BitVec.ofNat 64 (bit (s.latchRefused.contains (refusedKey n port)) * 2 ^ 18)
  | _, _, _, _, some p => busy (s.tlbi.any fun e => e.1 == p)
  | none, none, none, none, none =>
    if off = 0x208 ∨ off = 0x218 ∨ off = 0x228 then
      s.hr off ||| busy (s.demote.getD ((off - 0x208) / 16 + 1) {}).move.isSome
    else if off = 0x308 then busy (s.links.any fun k => k.2.updating)
    else if off = 0x4A0 then s.hr off ||| busy s.preempt.isSome
    else if off = 0x510 then
      s.hr off ||| BitVec.ofNat 64 (bit (match port with
        | .a => s.rcvRefused.1
        | .b => s.rcvRefused.2) * 2 ^ 62)
    else if keptReg off then s.hr off
    else 0

/-- HOLDER of a latch. -/
def State.holder (s : State) (n : Nat) : Nat := fld (s.hr (0x2000 + 8 * n)).toNat 16 2

/-- A command took effect: the latch's fields, and REFUSED of the port clears. -/
def State.latchSet (s : State) (n : Nat) (port : Port) (brk seq holder : Nat) : State :=
  { s.setHr (0x2000 + 8 * n) (BitVec.ofNat 64 (brk % 2 ^ 16 * 2 ^ 48 + seq % 2 ^ 16 * 2 ^ 32 + holder * 2 ^ 16)) with
    latchRefused := s.latchRefused.filter (· != refusedKey n port) }

/-- A command had no effect. -/
def State.latchRefuse (s : State) (n : Nat) (port : Port) : State :=
  { s with latchRefused := refusedKey n port :: s.latchRefused.filter (· != refusedKey n port) }

/-- BRK and SEQ of a latch. -/
def State.latchBrk (s : State) (n : Nat) : Nat := fld (s.hr (0x2000 + 8 * n)).toNat 48 16
def State.latchSeq (s : State) (n : Nat) : Nat := fld (s.hr (0x2000 + 8 * n)).toNat 32 16

/-- Event LATCH_ACQUIRE (R82). -/
def execLatchAcquire (n : Nat) (port : Port) (s : State) : Host.Outcome State Fault Refusal :=
  if 32 ≤ n then notEnabled
  else if s.holder n = 0 then .next (s.latchSet n port (s.latchBrk n) (s.latchSeq n + 1) (Port.num port))
  else .next (s.latchRefuse n port)

/-- Event LATCH_RELEASE (R82). -/
def execLatchRelease (n : Nat) (port : Port) (s : State) : Host.Outcome State Fault Refusal :=
  if 32 ≤ n then notEnabled
  else if s.holder n = Port.num port then .next (s.latchSet n port (s.latchBrk n) (s.latchSeq n) 0)
  else .next (s.latchRefuse n port)

/-- Event LATCH_BREAK (R82). -/
def execLatchBreak (n : Nat) (port : Port) (s : State) : Host.Outcome State Fault Refusal :=
  if 32 ≤ n then notEnabled
  else if s.holder n = 0 then .next (s.latchRefuse n port)
  else
    .next ((s.latchSet n port (s.latchBrk n + 1) (s.latchSeq n) 0).post
      { code := 0x08, info := n + s.holder n * 2 ^ 8 + Port.num port * 2 ^ 16 })

/-- Event LATCH_INVALID_COMMAND (R82). -/
def execLatchInvalidCommand (n : Nat) (port : Port) (cmd : BitVec 8) (s : State) : Host.Outcome State Fault Refusal :=
  if 32 ≤ n ∨ cmd = 1 ∨ cmd = 2 ∨ cmd = 3 then notEnabled else .next (s.latchRefuse n port)

/-- Event HOST_LINK_DOWN: a port's link goes down or returns; its latches stay held (R82). -/
def execHostLinkDown (port : Port) (down : Bool) (s : State) : Host.Outcome State Fault Refusal :=
  .next { s with linkDown := match port with
    | .a => (down, s.linkDown.2)
    | .b => (s.linkDown.1, down) }

/-! ### The ash pan's read index and MSI-X (R421) -/

/-- Event HASHR_WRITE: once space is free after drops, an OVERRUN record comes first (R421). -/
def execHashrWrite (v : BitVec 64) (s : State) : Host.Outcome State Fault Refusal :=
  let s1 := s.setHr 0x4D0 (BitVec.ofNat 64 (v.toNat % 2 ^ 32))
  if 3 < s.ashLog ∧ s.ashLost ≠ 0 ∧ !s1.ashFull then
    .next (({ s1 with ashLost := 0 } : State).ashWrite { code := 0x17, info := s.ashLost })
  else .next s1

/-- Event MSIX_DEFERRED_SEND: a 1 µs window of a port and vector ends; a deferred message is sent then, which opens the
next window (R421). -/
def execMsixDeferredSend (port : Port) (vec : Nat) (s : State) : Host.Outcome State Fault Refusal :=
  let k := (port == .b, vec)
  if !s.msixHold.contains k then notEnabled
  else if s.msixDue.contains k then
    .next { s with msixDue := s.msixDue.filter (· != k), msixSent := s.msixSent ++ [k] }
  else .next { s with msixHold := s.msixHold.filter (· != k) }

/-- Event ACCESS_COUNT_DECAY: every 4 ms the counts are halved (R223). -/
def execAccessCountDecay (s : State) : Host.Outcome State Fault Refusal :=
  .next { s with counts := s.counts.foldl (fun (m : Store 8) e => m.set e.1 (s.counts.get e.1 >>> 1)) [] }

/-- Event PTS_ADVANCE: every ADV × 64 cycles, the pts of every resident group of a core goes up (R393). -/
def execPtsAdvance (core : Nat) (s : State) : Host.Outcome State Fault Refusal :=
  .next { s with threads := s.threads.map fun e =>
    if e.2.side ≠ .cellar ∧ s.coreOf e.2 = core then (e.1, { e.2 with pts := e.2.pts + 1 }) else e }

/-! ### Host accesses (R390, R438) -/

/-- What a host's read returns: the bytes, or none for Completer Abort (R390, R438). -/
def State.hostAnswer (s : State) (b : Bool) (d : Option (List Byte)) : State := { s with hostData := s.hostData ++ [(b, d)] }

/-- A host's access at an address, after the forwarding table: a hole, a page that is forwarded a second time and HBM in HOLD drop a
write and abort a read, and so does poison (R283, R434, R438). -/
def State.hostAt (s : State) (acc : HostAcc) (b : Bool) (p : Nat) : State :=
  let a := inPkg p
  match acc.write with
  | some bs => if s.porchOk p then s.putPhys a bs else s
  | none =>
    let ok := s.porchOk p && !s.poisoned a
    s.hostAnswer b (if ok then some (s.mem.bytes a acc.len) else none)

/-- A host's access to its port's recovery window, which takes writes in recovery only (R434, R436). -/
def State.windowAt (s : State) (acc : HostAcc) : State :=
  let b := acc.port == .b
  let w := if b then s.windows.2 else s.windows.1
  match acc.write with
  | some bs =>
    if fld (s.hr 0x508).toNat 4 4 = 4 ∧ acc.pa + bs.length ≤ 2 ^ 28 then
      { s with windows := if b then (s.windows.1, w.putBytes acc.pa bs) else (w.putBytes acc.pa bs, s.windows.2) }
    else s
  | none => s.hostAnswer b (some (w.bytes acc.pa acc.len))

/-- An access of a host waits for one before it that has gone to another package: a write for a write, a read for both (R390). -/
def State.hostHeld (s : State) (b write : Bool) : Bool :=
  s.aways.any fun a => a.2.owner == .host b && (!write || a.2.req.kind == 1)

/-- Event HOST_MEMORY_ACCESS: the Porch performs a host's access to device memory, or sends it on where the page has been
forwarded; in HOLD a read of HBM is aborted (R279, R283, R390, R438, log 92). -/
def execHostMemoryAccess (acc : HostAcc) (s : State) : Host.Outcome State Fault Refusal :=
  let b := acc.port == .b
  let at_ := s.pkg * 2 ^ 43 + acc.pa
  let p := s.forwarded at_
  if s.linkDown.1 && !b || s.linkDown.2 && b || s.power == .off then notEnabled
  else if acc.recovery then .next (s.windowAt acc)
  else if s.hostHeld b acc.write.isSome then notEnabled
  else if pkgOf p ≠ s.pkg then
    .next (s.sendAway
      { owner := .host b
        req := { src := s.pkg, id := 0, kind := bit acc.write.isSome, op := 0, pa := p
                 size := (acc.write.map List.length).getD acc.len, data := acc.write.getD [], forwarded := true
                 far := true } })
  else if s.homeLost (inPkg p) || acc.write.isSome && s.moving (inPkg p) then notEnabled
  else .next (s.hostAt acc b p)

end Sys2Proof.Machine
end

