-- ==== Sys2Proof/Machine/Launching.lean ====
section
/-!
DEFINITION. Launch headers (R37, R39, R40), what fits (R79), admission (R78, R83), and how a launch ends: its record and
its DONE addition (R444, R445).
-/

namespace Sys2Proof.Machine

/-! ### Headers (R37, R39) -/

/-- The stages of a ring descriptor, up to the first 0b00 (R35, R39). -/
def stagesOf (d : Nat) : List Nat := ((List.range 4).map fun k => fld d (4 + 2 * k) 2).takeWhile (· != 0)

/-- The ring that a descriptor holds (R39). -/
def ringOf (d : Nat) : Ring :=
  { nbase := fld d 26 6, slots := fld d 22 4, size := fld d 12 10, order := stagesOf d }

/-- Descriptor `k` of a header (R37). -/
def ringWord (w k : Nat) : Nat := fld w (768 + 32 * k) 32

/-- The header that a 128-byte record holds (R37). -/
def headerOf (w : Nat) : Header where
  version := fld w 0 8
  widthCode := fld w 8 2
  res := fld w 10 3
  par := fld w 13 3
  ordered := tb w 16
  gridsync := tb w 17
  preempt := tb w 18
  roleany := tb w 19
  copyn := fld w 24 4
  matn := fld w 28 4
  vecn := fld w 32 7
  split := fld w 40 3
  rext := fld w 47 3
  nbn := fld w 50 6
  entryC := fld w 64 64
  entryM := fld w 128 64
  entryV := fld w 192 64
  args := fld w 256 64
  w := (List.range 6).map fun i => fld w (320 + 6 * i) 6
  argsz := fld w 356 10
  x := (List.range 4).map fun i => fld w (384 + 32 * i) 32
  fscr := fld w 512 9
  fparl := fld w 521 11
  flane := fld w 532 6
  facc := fld w 538 3
  fatt := fld w 541 11
  kstk := fld w 552 8
  done := fld w 576 64
  fmt0 := BitVec.ofNat 64 (fld w 640 64)
  tag := BitVec.ofNat 64 (fld w 704 64)
  rings := (List.range (fld w 43 4)).map fun k => ringOf (ringWord w k)

/-- The lanes of a group (R25). -/
def Header.lanes (h : Header) : Nat := 8 * 2 ^ h.widthCode

/-- Workgroups of a launch (R27). -/
def Header.total (h : Header) : Nat :=
  ((List.range (6 - h.res)).map fun k => h.ext (h.res + k) + 1).foldl (· * ·) 1

/-- Scratchpad bytes of a workgroup: kindling, FSCR and FPARL (R79, R92). -/
def Header.sram (h : Header) : Nat := 4096 * (h.groups + h.fscr + h.fparl)

/-! ### Well-formed headers (R40) -/

/-- An entry point or object address: aligned and in the global window. -/
def windowOk (a n : Nat) : Bool := a % n == 0 && decide (a < 2 ^ 56)

/-- A descriptor lists its stages with none after the first 0b00, at least two of them, and has slots and a size
(R39, R40). -/
def ringWordOk (d : Nat) : Bool :=
  decide (1 ≤ fld d 22 4 ∧ 1 ≤ fld d 12 10 ∧ 2 ≤ (stagesOf d).length) &&
    fld d (4 + 2 * (stagesOf d).length) (8 - 2 * (stagesOf d).length) == 0

/-- The barriers of the rings lie below NBN and do not overlap (R34). -/
def ringBarsOk (nbn : Nat) : List Ring → Bool
  | [] => true
  | r :: rs =>
    decide (r.nbase + r.slots < nbn) &&
      rs.all (fun q => decide (r.nbase + r.slots < q.nbase ∨ q.nbase + q.slots < r.nbase)) && ringBarsOk nbn rs

/-- The first byte past the rings (R34). -/
def Header.ringsEnd (h : Header) : Nat :=
  h.rings.foldl (fun o r => (o + 255) / 256 * 256 + (r.slots + 1) * (r.size * 64)) (4096 * h.groups)

/-- The shape of a header: version, levels, widths, counts and extents (R24 to R29, R40). -/
def Header.shapeOk (h : Header) : Bool :=
  h.version == 1 && decide (2 ≤ h.res ∧ h.res ≤ 5) && (h.par == 0 || decide (h.res ≤ h.par ∧ h.par ≤ 5)) &&
    h.width 0 == 3 + h.widthCode && h.w.all (fun n => decide (n ≤ 58)) && decide (h.w.foldl (· + ·) 0 ≤ 64) &&
    decide (1 ≤ h.groups ∧ h.groups ≤ 2 ^ h.groupShift h.res) && decide (h.copyn + h.vecn ≤ 64 ∧ h.matn ≤ 8) &&
    ((List.range (6 - h.res)).all fun k => decide (h.ext (h.res + k) + 1 ≤ 2 ^ h.width (h.res + k))) &&
    decide (h.unitSize ≤ 16) && (!h.roleany || h.copyn == 0 && h.matn == 0)

/-- The addresses of a header (R40). -/
def Header.addrsOk (h : Header) : Bool :=
  (h.copyn == 0 || windowOk h.entryC 64) && (h.matn == 0 || windowOk h.entryM 64) &&
    (h.vecn == 0 || windowOk h.entryV 64) && windowOk h.args 8 && windowOk h.done 64

/-- The allotments of a header: R31 to R34 and the ranges of R37 (log 33). -/
def Header.allotOk (h : Header) : Bool :=
  decide (1 ≤ h.split ∧ h.split ≤ 5 ∧ h.fscr ≤ 320 ∧ h.fparl ≤ 1024 ∧ h.flane ≤ 32 ∧ h.fatt ≤ 1024 ∧ h.facc ≤ 4 ∧
      h.rext ≤ 6 ∧ h.argsz ≤ 512 ∧ h.nbn ≤ 48 ∧ h.rings.length ≤ 8 ∧ h.sram ≤ h.split * 2 ^ 18) &&
    ringBarsOk h.nbn h.rings && decide (h.ringsEnd ≤ 4096 * (h.groups + h.fscr))

/-- A record holds a well-formed header (R40). -/
def wellFormedHeader (w : Nat) : Bool :=
  let h := headerOf w
  h.shapeOk && h.addrsOk && h.allotOk && (List.range h.rings.length).all fun k => ringWordOk (ringWord w k)

/-! ### What fits (R79) -/

/-- The least of a list of terms. -/
def leastOf : List Nat → Nat
  | [] => 0
  | [a] => a
  | a :: as => min a (leastOf as)

/-- n_core: the workgroups that fit a core with nothing resident (R79). -/
def Header.perCore (h : Header) : Nat :=
  let n := h.copyn + h.vecn
  leastOf ((if n = 0 then [] else
      [64 / n, (524288 - h.rext * (64 * h.lanes)) / (n * (128 * h.lanes + 256))]) ++
    (if h.nbn = 0 then [] else [48 / h.nbn]) ++ [h.split * 2 ^ 18 / h.sram] ++
    (if h.facc = 0 then [] else [4 / h.facc]))

/-- u: the parlour units that an empty cluster holds (R79). -/
def Header.perCluster (h : Header) : Nat :=
  (if h.matn = 0 then 4 * h.perCore else min (4 * h.perCore) (8 / h.matn)) / h.unitSize

/-- The capacity of a partition of `d` dies (R79). -/
def Header.capacity (h : Header) (d : Nat) : Nat :=
  let byCore := 36 * h.perCluster * h.unitSize
  d * if h.fatt = 0 then byCore else min byCore (h.unitSize * (1024 / h.fatt / h.unitSize))

/-! ### How a launch ends (R444, R445) -/

/-- The 64 bytes of a launch record (R445). -/
def recordWord (l : Launch) (tend code : Nat) : Nat :=
  1 + code * 2 ^ 8 + l.npre * 2 ^ 96 + l.nkill * 2 ^ 128 + l.nwg * 2 ^ 160 + l.ebytes * 2 ^ 192 + l.mcyc * 2 ^ 256
    + l.instr * 2 ^ 320 + tend * 2 ^ 384 + l.tadm.toNat * 2 ^ 448

/-- A refused launch: its record with code and TAG, INFO and ADDR 0, and DONE's signal (R78, R443 to R445, log 85). -/
def State.refuse (s : State) (part die code : Nat) (host : Bool) (h : Header) : State :=
  let l : Launch := { Launch.absent with tadm := s.time }
  (s.post { code := code, die := die, part := part, tag := h.tag.toNat }).signalDone
    { part, done := h.done, tag := h.tag.toNat, host, word := recordWord l s.time.toNat code, nwg := 0, err := true }

/-! ### Admission (R78) -/

/-- What the checks of R78 give. -/
inductive Admit where
  | refused (code : Nat)
  | admitted (args : List Byte)
  /-- The argument block's home is a lost die: the read never completes. -/
  | stuck
  deriving DecidableEq, Repr

/-- The checks of R78, in order, over `d` dies. -/
def State.admission (s : State) (part d w : Nat) : Admit :=
  let h := headerOf w
  if !wellFormedHeader w then .refused 1
  else
    match s.hearthWords part h.args h.argsz with
    | .bad => .refused 2
    | .stuck => .stuck
    | .bytes bs =>
      if h.perCluster = 0 then .refused 3
      else if h.gridsync && decide (h.capacity d < h.total) then .refused 4
      else .admitted bs

/-- The admitted launch (R78, R86, R377, R445). -/
def State.launchFor (s : State) (part prio : Nat) (queue onlyDie : Option Nat) (h : Header) (args : List Byte) :
    Launch :=
  let g := (h.copyn + h.vecn) * h.total
  { part, prio, queue, onlyDie, order := s.nextId, hdr := h, args, code := s.mem, next := 0, chunks := []
    grid := if h.gridsync then some { expa := g, arre := g } else none
    tadm := s.time, instr := 0, mcyc := 0, ebytes := 0, nwg := 0, nkill := 0, npre := 0 }

/-- Every ordinal of a launch has been dispatched (R74). -/
def Launch.handedOut (l : Launch) : Bool := decide (l.hdr.total ≤ l.next) && l.chunks.all fun c => c.2.1 == c.2.2

/-- A launch by its number, running or in a saved context. -/
def State.findLaunch (s : State) (id : Nat) : Option Launch :=
  match s.launches.get? id with
  | some l => some l
  | none => s.ctxs.findSome? fun c => c.2.launches.get? id

/-- The launch last read has been refused or has dispatched its last workgroup (R74). -/
def State.readyAfter (s : State) : Option Nat → Bool
  | none => true
  | some id =>
    match s.findLaunch id with
    | none => true
    | some l => l.handedOut

/-- A partition that is being saved dispatches nothing and reads no queue (R415). -/
def State.saving (s : State) (part : Nat) : Bool :=
  match s.preempt with
  | some p => p.1 == part
  | none => false

end Sys2Proof.Machine
end

