-- ==== Sys2Proof/Machine/Room.lean ====
section
/-!
DEFINITION. What a core, a cluster and a die have room for (R92, R214), which launch is offered next (R74, R80), and the
marking of clusters (R98, R99).
-/

namespace Sys2Proof.Machine

/-! ### Room (R92) -/

/-- What workgroups take of a core (R92). -/
structure Use where
  groups : Nat := 0
  nbn : Nat := 0
  sram : Nat := 0
  tiles : Nat := 0
  base : Nat := 0
  /-- The largest REXT × 64W. -/
  rext : Nat := 0
  deriving DecidableEq, Repr

/-- What a workgroup of a launch takes. -/
def Header.use (h : Header) : Use :=
  { groups := h.copyn + h.vecn, nbn := h.nbn, sram := h.sram, tiles := h.facc, base := h.baseRegs
    rext := h.rext * (64 * h.lanes) }

/-- Two uses together. -/
def Use.add (a b : Use) : Use :=
  { groups := a.groups + b.groups, nbn := a.nbn + b.nbn, sram := a.sram + b.sram, tiles := a.tiles + b.tiles
    base := a.base + b.base, rext := max a.rext b.rext }

/-- A use lies within a core's resources at a split (R92). -/
def Use.fits (u : Use) (split : Nat) : Bool :=
  decide (u.groups ≤ 64 ∧ u.nbn ≤ 48 ∧ u.sram ≤ split * 2 ^ 18 ∧ u.tiles ≤ 4 ∧ u.base + u.rext ≤ 524288)

/-- Parlour slices that a core keeps for units whose workgroups have not all retired (R442). -/
def State.keptSlices (s : State) (key : Nat) : Nat :=
  (s.units.vals.map fun u => ((u.kept.filter fun c => coreKey u.die c == key).length) *
    (4096 * (s.launches.getD u.launch .absent).hdr.fparl)).foldl (· + ·) 0

/-- What is taken of a core (R92). -/
def State.useOf (s : State) (key : Nat) : Use :=
  (s.wgsOn key).foldl (fun u g => u.add (s.launchOfWg g).hdr.use) { sram := s.keptSlices key }

/-- A core may take a workgroup of a split: it is not marked, and it is empty or has that split (R98, R99). -/
def State.coreOpen (s : State) (key split : Nat) : Bool :=
  let c := s.cores.getD key {}
  c.marked.isNone && ((s.wgsOn key).isEmpty || c.split == split)

/-- The workgroups resident on a die. -/
def State.wgsOfDie (s : State) (die : Nat) : List Wg := s.wgs.vals.filter fun g => g.die == die

/-- Matrix groups on a cluster's MCC (R92). -/
def State.mccUse (s : State) (die cluster : Nat) : Nat :=
  (((s.wgsOfDie die).filter fun g => g.core / 4 == cluster).map fun g => (s.launchOfWg g).hdr.matn).foldl (· + ·) 0

/-- Units of FATT taken of a die's attic (R92). -/
def State.atticUse (s : State) (die : Nat) : Nat :=
  ((s.wgsOfDie die).map fun g => (s.launchOfWg g).hdr.fatt).foldl (· + ·) 0

/-- A cluster as a placement proceeds: the uses of its four cores with whether each is open, its matrix groups, and its
die's attic. -/
structure Plan where
  cores : List (Bool × Use)
  matn : Nat
  attic : Nat
  deriving DecidableEq, Repr

/-- A core has been starved of backing regions (R214). -/
def State.starved (s : State) (key : Nat) : Bool := (s.cores.getD key {}).starved

/-- A cluster as it stands for a launch; `fed`: without the cores that are starved of backing regions (R214). -/
def State.plan (s : State) (die cluster : Nat) (h : Header) (fed : Bool) : Plan :=
  { cores := (List.range 4).map fun k =>
      let key := coreKey die (4 * cluster + k)
      (s.coreOpen key h.split && !(fed && s.starved key), s.useOf key)
    matn := s.mccUse die cluster
    attic := s.atticUse die }

/-- Puts one workgroup on the lowest-numbered core that has room (R91). -/
def Plan.one (p : Plan) (h : Header) : Option (Nat × Plan) :=
  match p.cores.zipIdx.find? fun c => c.1.1 && (c.1.2.add h.use).fits h.split with
  | none => none
  | some (c, k) =>
    if 8 < p.matn + h.matn ∨ 1024 < p.attic + h.fatt then none
    else some (k, { cores := p.cores.set k (c.1, c.2.add h.use), matn := p.matn + h.matn, attic := p.attic + h.fatt })

/-- Puts `n` workgroups, in ordinal order (R91). -/
def Plan.many (p : Plan) (h : Header) : Nat → Option (List Nat × Plan)
  | 0 => some ([], p)
  | n + 1 =>
    match p.one h with
    | none => none
    | some (k, q) => (q.many h n).map fun r => (k :: r.1, r.2)

/-- How many units, up to `n`, a cluster takes, and what then remains. -/
def Plan.units (p : Plan) (h : Header) : Nat → Nat × Plan
  | 0 => (0, p)
  | n + 1 =>
    match p.many h h.unitSize with
    | none => (0, p)
    | some r =>
      let q := r.2.units h n
      (q.1 + 1, q.2)

/-! ### Backing regions (R214) -/

/-- Bytes of a workgroup's backing region (R214). -/
def Header.backingBytes (h : Header) : Nat := (4096 * (h.groups + h.fscr) + 16383) / 16384 * 16384

/-- A partition's backing pool: base and bytes (R214, R224). -/
def State.pool (s : State) (part : Nat) : Nat × Nat :=
  let r := (s.hr (0x1C0 + 8 * part)).toNat
  (fld r 30 30 * 2 ^ 30, fld r 0 8 * 2 ^ 30)

/-- A region of the pool is free. -/
def regionFree (used : List (Nat × Nat)) (pool : Nat × Nat) (a n : Nat) : Bool :=
  decide (pool.1 ≤ a ∧ a + n ≤ pool.1 + pool.2) && used.all fun r => decide (a + n ≤ r.1 ∨ r.1 + r.2 ≤ a)

/-- The first free region of a size: at the pool's base or behind another region. -/
def firstRegion (used : List (Nat × Nat)) (pool : Nat × Nat) (n : Nat) : Option Nat :=
  (pool.1 :: used.map fun r => r.1 + r.2).find? fun a => regionFree used pool a n

/-- `k` free regions of a size. -/
def regionsFor (used : List (Nat × Nat)) (pool : Nat × Nat) (n : Nat) : Nat → Option (List Nat)
  | 0 => some []
  | k + 1 =>
    match firstRegion used pool n with
    | none => none
    | some a => (regionsFor ((a, n) :: used) pool n k).map (a :: ·)

/-- A region for a workgroup. Where it lies in the pool is not stated: any free place, but for a GRIDSYNC launch or a unit
of several workgroups the first, so that the regions counted before are there (log 46). -/
def State.regionFor (s : State) (part : Nat) (h : Header) : Option Nat :=
  let pool := s.pool part
  let n := h.backingBytes
  let a := pool.1 + 16384 * (Config.freeNat s.free 0xBAC % (pool.2 / 16384 + 1))
  if !h.gridsync && h.unitSize == 1 && regionFree s.backing pool a n then some a else firstRegion s.backing pool n

/-- The pool has regions for `k` workgroups. -/
def State.poolFits (s : State) (part k : Nat) (h : Header) : Bool :=
  (regionsFor s.backing (s.pool part) h.backingBytes k).isSome

/-! ### Room for units (R91) -/

/-- A cluster has room for a parlour unit (R91, R92). -/
def State.unitRoom (s : State) (die cluster : Nat) (h : Header) : Bool :=
  ((s.plan die cluster h false).many h h.unitSize).isSome

/-- The cores of a cluster that a parlour unit goes to, by workgroup; none where there is no room, or no backing regions (R91,
R92, R214). -/
def State.unitPlan (s : State) (part die cluster : Nat) (h : Header) : Option (List Nat) :=
  if s.poolFits part h.unitSize h then ((s.plan die cluster h true).many h h.unitSize).map (·.1) else none

/-- Units that a die takes now, its attic shared among its clusters: a cluster holds at most 256 workgroups (R11, R79). -/
def State.dieUnits (s : State) (die : Nat) (h : Header) : Nat :=
  if s.lost die then 0
  else
    ((List.range 36).foldl (fun (a : Nat × Nat) c =>
      let r := ({ s.plan die c h false with attic := a.2 }).units h 256
      (a.1 + r.1, r.2.attic)) (0, s.atticUse die)).1

/-- Every workgroup of a GRIDSYNC launch can be resident at once (R80, R90). -/
def State.gridFits (s : State) (l : Launch) : Bool :=
  let dies := match l.onlyDie with
    | some d => [d]
    | none => s.diesOf l.part
  decide (l.hdr.total ≤ (dies.map fun d => s.dieUnits d l.hdr * l.hdr.unitSize).foldl (· + ·) 0) &&
    s.poolFits l.part l.hdr.total l.hdr

/-! ### The offer order (R74, R80) -/

/-- A launch may run on a die (R90). -/
def Launch.onDie (l : Launch) (d : Nat) : Bool :=
  match l.onlyDie with
  | some x => x == d
  | none => true

/-- The ordinals that a die's dispatcher holds (R87). -/
def Launch.chunk (l : Launch) (d : Nat) : Nat × Nat := Tab.getD l.chunks d (0, 0)

/-- A launch has ordinals for a die (R87, R88). -/
def Launch.offers (l : Launch) (d : Nat) : Bool :=
  decide (l.next < l.hdr.total) || decide ((l.chunk d).1 < (l.chunk d).2)

/-- The offer order: base priority, highest first, then order of admission (R74). -/
def offerBefore (a b : Nat × Launch) : Bool :=
  decide (b.2.prio < a.2.prio) || a.2.prio == b.2.prio && decide (a.2.order ≤ b.2.order)

/-- The launch at the head of a die's offer order, placed or waiting: a GRIDSYNC launch that has workgroups to place comes
before all others, the one admitted first before another (R74, R80, log 87). -/
def State.front (s : State) (die : Nat) : Option (Nat × Launch) :=
  let ls := s.launches.filter fun e => e.2.part == s.partOfDie die && e.2.onDie die && !e.2.handedOut
  let grids := sortBy (fun a b => decide (a.2.order ≤ b.2.order)) (ls.filter fun e => e.2.hdr.gridsync)
  match grids with
  | g :: _ => some g
  | [] => (sortBy offerBefore (ls.filter fun e => e.2.offers die)).head?

/-- The launch that is offered to a die: a GRIDSYNC launch only once all of it can be resident (R74, R80). -/
def State.head (s : State) (die : Nat) : Option (Nat × Launch) :=
  match s.front die with
  | none => none
  | some g =>
    if !g.2.hdr.gridsync then some g
    else if g.2.offers die ∧ (g.2.next ≠ 0 ∨ s.gridFits g.2) then some g else none

/-! ### Backing regions that run out (R214) -/

/-- The cores of a die that have room for a workgroup of the offered launch while the pool has no region for it admit nothing
further until a region frees (R214). -/
def State.starveDie (s : State) (die : Nat) : State :=
  match s.head die with
  | none => s
  | some (_, l) =>
    if s.poolFits l.part 1 l.hdr then s
    else
      (List.range 144).foldl (fun s k =>
        let key := coreKey die k
        if s.coreOpen key l.hdr.split && ((s.useOf key).add l.hdr.use).fits l.hdr.split then
          s.updCore key fun c => { c with starved := true }
        else s) s

/-- A region has been freed: the cores of the partition's dies admit again (R214). -/
def State.feed (s : State) (part : Nat) : State :=
  { s with cores := s.cores.map fun c => if s.partOfDie (c.1 / 144) = part then (c.1, { c.2 with starved := false }) else c }

/-! ### Marking (R98) -/

/-- Workgroups resident on a cluster. -/
def State.clusterWgs (s : State) (die cluster : Nat) : List Wg :=
  (s.wgsOfDie die).filter fun g => g.core / 4 == cluster

/-- Marks the clusters of a die, where the head launch needs another split and no cluster has room (R92, R98). -/
def State.markDie (s : State) (die : Nat) : State :=
  match s.front die with
  | none => s
  | some (_, l) =>
    let other := (List.range 144).any fun k => (s.cores.getD (coreKey die k) {}).split != l.hdr.split
    if !other ∨ (List.range 36).any (fun c => s.unitRoom die c l.hdr) then s
    else
      (List.range 36).foldl (fun s c =>
        let ws := s.clusterWgs die c
        if !ws.isEmpty && ws.all (fun g => (s.launchOfWg g).handedOut) then
          (List.range 4).foldl (fun s k =>
            s.updCore (coreKey die (4 * c + k)) fun x => { x with marked := some l.hdr.split }) s
        else s) s

/-- What follows on every die when launches, workgroups or regions have changed (R98, R214). -/
def State.mark (s : State) : State := (List.range 4).foldl (fun s d => (s.starveDie d).markDie d) s

end Sys2Proof.Machine
end

