-- ==== Sys2Proof/Machine/Queues.lean ====
section
/-!
DEFINITION. The Hearth's queues: their states (R68, R69), slots, ageing and quanta (R76), and the reading of their entries
(R70 to R75, R77, R78, R360).
-/

namespace Sys2Proof.Machine

/-! ### Slots (R76) -/

/-- A queue of the state. -/
def State.queue (s : State) (q : Nat) : Queue := s.queues.getD q {}

/-- Changes a queue. -/
def State.updQueue (s : State) (q : Nat) (f : Queue → Queue) : State :=
  { s with queues := s.queues.put q (f (s.queue q)) }

/-- The set of slots that serves a queue: 1 for Cellar queues. -/
def Queue.set (q : Queue) : Nat := if q.typ = 2 then 1 else 0

/-- The top level of effective priority of a set. -/
def topLevel (set : Nat) : Nat := if set = 1 then 3 else 15

/-- A queue waits for a slot. -/
def Queue.waits (q : Queue) : Bool := q.enabled && q.state == .waiting

/-- A mapped queue leaves its slot for a state; its effective priority starts again at its base. -/
def State.unmap (s : State) (q : Nat) (st : QState) : State :=
  { s.updQueue q fun x => { x with state := st, eff := x.prio, atWait := none } with
    slots := s.slots.filter fun e => e.2 != q }

/-- A queue whose quantum has run out yields its slot where a waiting queue of its set reaches its base (R76). -/
def State.yieldTest (s : State) (q : Nat) : State :=
  let x := s.queue q
  if x.state = .mapped ∧ x.spent ∧ s.queues.any (fun e => e.2.waits && e.2.set == x.set && decide (x.prio ≤ e.2.eff))
  then s.unmap q .waiting else s

/-- A queue stands at a wait entry whose phase has not completed; one that cannot be read is consumed instead (R73, R76). -/
def State.atUnpassed (s : State) (q : Nat) : Bool :=
  match (s.queue q).atWait with
  | none => false
  | some (bar, phase) =>
    match s.hearthRead (s.queue q).part bar 64 with
    | .bytes bs => !(Bar.ofWord (ofBytes bs)).completed phase
    | .bad => false
    | .stuck => true

/-- The test of a queue that stands at an unpassed wait entry; a passed one is consumed first (R76). -/
def State.waitYield (s : State) (q : Nat) : State := if s.atUnpassed q then s.yieldTest q else s

/-- Queues that stand at unpassed wait entries repeat the test when another queue starts waiting or rises (R73, R76). -/
def State.waitYields (s : State) : State := s.queues.foldl (fun s e => s.waitYield e.1) s

/-- The first queue number after the last one granted, wrapping (R76). -/
def firstAfter (last : Nat) (qs : List Nat) : Option Nat :=
  (sortBy (fun a b => decide ((a + 255 - last) % 256 ≤ (b + 255 - last) % 256)) qs).head?

/-- The queue that a free slot of a set is granted to (R76). Before any grant the search starts at queue 0 (log 2). -/
def State.grantee (s : State) (set : Nat) : Option (Nat × Nat) :=
  let ws := s.queues.filter fun e => e.2.waits && e.2.set == set && !s.saving e.2.part
  let top := ws.foldl (fun m e => max m e.2.eff) 0
  (firstAfter (s.lastGrant.getD (16 * set + top) 255) ((ws.filter fun e => e.2.eff == top).map (·.1))).map
    fun q => (q, top)

/-- Event QUEUE_SLOT_GRANT (R68, R76). -/
def execQueueSlotGrant (slot : Nat) (s : State) : Host.Outcome State Fault Refusal :=
  if 64 ≤ slot ∨ (s.slots.get? slot).isSome then notEnabled
  else
    let set := if slot < 56 then 0 else 1
    match s.grantee set with
    | none => notEnabled
    | some (q, top) =>
      .next { s.updQueue q fun x => { x with state := .mapped, eff := x.prio, spent := false, atWait := none } with
        slots := s.slots.put slot q
        lastGrant := s.lastGrant.put (16 * set + top) q }

/-- Event AGE_INTERVAL_EXPIRY: a waiting queue rises one level (R76). -/
def execAgeIntervalExpiry (q : Nat) (s : State) : Host.Outcome State Fault Refusal :=
  if !(s.queue q).waits then notEnabled
  else .next (s.updQueue q fun x => { x with eff := min (x.eff + 1) (topLevel x.set) }).waitYields

/-- Event QUANTUM_EXPIRY: a queue that stands at an unpassed wait entry yields at once, others after their next entry (R73,
R76, log 37). -/
def execQuantumExpiry (q : Nat) (s : State) : Host.Outcome State Fault Refusal :=
  let x := s.queue q
  if x.state ≠ .mapped ∨ x.spent then notEnabled
  else
    .next ((s.updQueue q fun x => { x with spent := true }).waitYield q)

/-! ### Enabling and submitting (R68, R69, R71) -/

/-- Bytes of an entry (R70). -/
def entryBytes (typ : Nat) : Nat := if typ = 0 then 128 else 64

/-- The queue that a descriptor describes (R69). -/
def queueOf (d : Nat) : Queue where
  enabled := true
  log2n := fld d 192 5
  age := fld d 136 16
  prio := fld d 132 4
  typ := fld d 130 2
  part := fld d 128 2
  ridxa := fld d 64 64
  base := fld d 0 64
  eff := fld d 132 4

/-- A valid descriptor whose PART names a partition (R68, R69). -/
def State.queueOk (s : State) (x : Queue) : Bool :=
  x.typ != 3 && decide (4 ≤ x.log2n ∧ x.log2n ≤ 16) && !(x.typ == 2 && decide (3 < x.prio)) &&
    x.base % (2 ^ x.log2n * entryBytes x.typ) == 0 && decide (x.base + 2 ^ x.log2n * entryBytes x.typ ≤ 2 ^ 56) &&
    windowOk x.ridxa 8 && !(s.diesOf x.part).isEmpty

/-- The descriptor lies in storage that can be read (log 51). -/
def State.tableReadable (s : State) (pa : Nat) : Bool :=
  pkgOf pa != s.pkg || s.physOk (inPkg pa) && !s.poisoned (inPkg pa) &&
    !(s.power == .hold && (stackOf (inPkg pa)).isSome)

/-- Event QUEUE_ENABLE (R68, R69; what HQTAB's other bits and an unreadable descriptor do is a choice, log 51). -/
def execQueueEnable (q : Nat) (s : State) : Host.Outcome State Fault Refusal :=
  let pa := (s.hr 0x100).toNat / 64 * 64 % 2 ^ 60 + 64 * q
  if 256 ≤ q ∨ (s.queue q).enabled then notEnabled
  else if pkgOf pa = s.pkg ∧ s.homeLost (inPkg pa) then .next s
  else
    let x := queueOf (ofBytes (s.physBytes pa 64))
    if s.tableReadable pa && s.queueOk x then .next (s.updQueue q fun old => { x with launch := old.launch })
    else .next (s.post { code := 6, part := x.part })

/-- Event QUEUE_DISABLE (R68): entries already read go on. -/
def execQueueDisable (q : Nat) (s : State) : Host.Outcome State Fault Refusal :=
  if !(s.queue q).enabled then notEnabled
  else .next ((s.unmap q .off).updQueue q fun x => { x with enabled := false })

/-- The indices of a queue differ. -/
def Queue.hasWork (x : Queue) : Bool := x.widx != x.ridx

/-- The write index lies beyond the queue's size (R68). -/
def Queue.overrun (x : Queue) : Bool := decide (2 ^ x.log2n < (x.widx + 2 ^ 32 - x.ridx) % 2 ^ 32)

/-- A waiting or mapped queue that is overrun faults (R68); its record has no INFO (R83, log 53). -/
def State.overrunTest (s : State) (q : Nat) : State :=
  let x := s.queue q
  if (x.state = .waiting ∨ x.state = .mapped) ∧ x.overrun then
    (s.unmap q .faulted).post { code := 5, part := x.part }
  else s

/-- Event QWIDX_WRITE (R68, R71, log 72). -/
def execQwidxWrite (q : Nat) (v : BitVec 64) (s : State) : Host.Outcome State Fault Refusal :=
  if 256 ≤ q then notEnabled
  else
    let old := s.queue q
    let s1 := s.updQueue q fun x => { x with widx := v.toNat % 2 ^ 32 }
    let x := s1.queue q
    if !x.enabled then .next s1
    else if (x.state = .off ∨ x.state = .mapped ∧ !old.hasWork) ∧ x.hasWork then
      .next ((s1.unmap q .waiting).overrunTest q).waitYields
    else .next (s1.overrunTest q)

/-! ### Reading entries (R72) -/

/-- The address of the next entry (R70). -/
def Queue.entryAt (x : Queue) : Nat := x.base + x.ridx % 2 ^ x.log2n * entryBytes x.typ

/-- A mapped queue of a type has an entry to read. -/
def State.canRead (s : State) (q typ : Nat) : Bool :=
  let x := s.queue q
  x.enabled && x.state == .mapped && x.typ == typ && x.hasWork && x.atWait.isNone && !s.saving x.part

/-- The entry that stands next in a queue. -/
def State.entry (s : State) (q : Nat) : HRead :=
  let x := s.queue q
  s.hearthRead x.part x.entryAt (entryBytes x.typ)

/-- The read index passes an entry: QRIDX and RIDXA take it, and the queue faults, goes off or yields where it must (R68, R72,
R76). A RIDXA address that cannot be stored to takes nothing (log 50). -/
def State.consume (s : State) (q : Nat) : State :=
  let s1 := s.updQueue q fun x => { x with ridx := (x.ridx + 1) % 2 ^ 32, atWait := none }
  let x := s1.queue q
  let s2 := if x.ridxa = 0 then s1 else (s1.hearthPut x.part x.ridxa (toBytes x.ridx 8)).getD s1
  if x.overrun then s2.overrunTest q else if x.state ≠ .mapped then s2 else if x.hasWork then s2.yieldTest q else s2.unmap q .off

/-- An entry that cannot be read: its record, and it is consumed (R72). -/
def State.entryBad (s : State) (q code : Nat) : State :=
  let x := s.queue q
  (s.post { code := code, part := x.part, info := x.ridx }).consume q

/-! ### Launches (R74, R77, R78) -/

/-- A launch from a kernel queue: admitted or refused, and its entry consumed. -/
def State.admitQueue (s : State) (q w : Nat) : Host.Outcome State Fault Refusal :=
  let x := s.queue q
  let h := headerOf w
  match s.admission x.part (s.diesOf x.part).length w with
  | .stuck => notEnabled
  | .refused code => .next ((s.updQueue q fun x => { x with launch := none }).refuse x.part 0 code true h |>.consume q)
  | .admitted args =>
    let s1 := { s with
      nextId := s.nextId + 1
      launches := s.launches.put s.nextId (s.launchFor x.part x.prio (some q) none h args) }
    .next (((s1.updQueue q fun x => { x with launch := some s.nextId }).consume q).mark)

/-- A launch from a die's part of the device-side launch queue (R77, R90). -/
def State.admitDevice (s : State) (die : Nat) (e : List Byte × Nat) (rest : List (List Byte × Nat)) :
    Host.Outcome State Fault Refusal :=
  let part := s.partOfDie die
  let w := ofBytes e.1
  let h := headerOf w
  match s.admission part 1 w with
  | .stuck => notEnabled
  | .refused code =>
    .next ((s.updDie die fun d => { d with part := rest, reading := none }).refuse part die code false h)
  | .admitted args =>
    let s1 := { s with
      nextId := s.nextId + 1
      launches := s.launches.put s.nextId (s.launchFor part e.2 none (some die) h args) }
    .next (s1.updDie die fun d => { d with part := rest, reading := some s.nextId }).mark

/-- Event LAUNCH_ADMISSION: the entry is read whole in the step that passes its index (R38, R72, R74, R77, R78, log 83). -/
def execLaunchAdmission (src : EntrySrc) (s : State) : Host.Outcome State Fault Refusal :=
  match src with
  | .queue q =>
    if !s.canRead q 0 ∨ !s.readyAfter (s.queue q).launch then notEnabled
    else
      match s.entry q with
      | .stuck => notEnabled
      | .bad => .next (s.entryBad q 2)
      | .bytes bs => if ofBytes bs % 256 = 2 then notEnabled else s.admitQueue q (ofBytes bs)
  | .device die =>
    match (s.dies.getD die {}).part with
    | [] => notEnabled
    | e :: rest =>
      if s.lost die ∨ s.saving (s.partOfDie die) ∨ !s.readyAfter (s.dies.getD die {}).reading then notEnabled
      else s.admitDevice die e rest
  | .cqsub _ => notEnabled

/-! ### Wait entries (R73) -/

/-- A failed wait entry is consumed with a record, INFO 0 (R73, log 85). -/
def State.waitFails (s : State) (q bar : Nat) : State :=
  (s.post { code := 2, part := (s.queue q).part, addr := bar }).consume q

/-- Event WAIT_ENTRY (R73). -/
def execWaitEntry (src : EntrySrc) (s : State) : Host.Outcome State Fault Refusal :=
  match src with
  | .queue q =>
    if !s.canRead q 0 ∨ !s.readyAfter (s.queue q).launch then notEnabled
    else
      match s.entry q with
      | .bytes bs =>
        let w := ofBytes bs
        let bar := fld w 64 64
        if w % 256 ≠ 2 then notEnabled
        else if bar % 64 ≠ 0 then .next (s.waitFails q bar)
        else
          match s.hearthRead (s.queue q).part bar 64 with
          | .bad => .next (s.waitFails q bar)
          | _ => .next ((s.updQueue q fun x => { x with atWait := some (bar, fld w 128 32) }).waitYield q)
      | _ => notEnabled
  | _ => notEnabled

/-- Event WAIT_ENTRY_PASS: the phase is found complete, or the barrier can no longer be read (R73). -/
def execWaitEntryPass (q : Nat) (s : State) : Host.Outcome State Fault Refusal :=
  let x := s.queue q
  match x.atWait with
  | none => notEnabled
  | some (bar, phase) =>
    if x.state ≠ .mapped ∨ s.saving x.part then notEnabled
    else
      match s.hearthRead x.part bar 64 with
      | .stuck => notEnabled
      | .bad => .next (s.waitFails q bar)
      | .bytes bs => if (Bar.ofWord (ofBytes bs)).completed phase then .next (s.consume q) else notEnabled

/-! ### Copy commands (R75) -/

/-- The byte place of a copy command's access, by the partition's tables. -/
def State.cmdPlace (s : State) (part : Nat) (acc : Acc) (va : Nat) : Except Flt Place :=
  if 2 ^ 56 ≤ va then .error (.fault 7 va 0)
  else
    match s.walk part va with
    | .fault sub .. => .error (.fault sub va 0)
    | .poison => .error (.fault 4 va 0)
    | .remote .. => .error (.fault 5 va 0)
    | .never => .error .wait
    | .away .. => .error .wait
    | .page base big r w x mig _ =>
      if acc = .store ∧ !w ∧ mig then .error .wait
      else if !rightsOk acc r w x then .error (.fault 3 va 0)
      else
        match s.physRes part false acc (pageAddr base big va) true with
        | .ok p => .ok p
        | .bad _ cls sub info _ => .error (.fault (causeOf cls sub info) va 0)
        | _ => .error .wait

/-- A byte that a copy command reads: now, or as it stood when its unit was read (R396). -/
def State.cmdByte (s : State) (c : CopyCmd) (va : Nat) : Except Flt Byte :=
  match (c.got.find? fun g => g.1 == va / 16).bind fun g => g.2[va % 16]? with
  | some b => .ok b
  | none =>
    match s.cmdPlace c.part .load va with
    | .ok (.phys a) => .ok (s.mem.get a)
    | .ok (.remote pa hop) => .error (.away (va / 16 * 16) (pa / 16 * 16) hop)
    | .ok _ => .error .wait
    | .error e => .error e

/-- Bytes that a copy command reads. -/
def State.cmdBytes (s : State) (c : CopyCmd) (va : Nat) : Nat → Except Flt (List Byte)
  | 0 => .ok []
  | n + 1 => do
    let b ← s.cmdByte c va
    let bs ← s.cmdBytes c (va + 1) n
    .ok (b :: bs)

/-- The thread of the Porch's copy engine, which has no registers and a timestamp of 0. -/
def porchEngine : Thread := { side := .cellar, role := .any, wg := 0, gidx := 0, width := 0, pc := 0 }

/-- The elements of parts of a run that a copy command writes: all are checked before any is written. -/
def State.cmdElems (s : State) (part : Nat) (bs : List Byte) (va : Nat) : List (Nat × Nat) → Except Flt (List Elem)
  | [] => .ok []
  | (a, n) :: rs => do
    let p ← s.cmdPlace part .store a
    if p.isDead then .error .wait
    else
      let es ← s.cmdElems part bs va rs
      .ok ({ va := a, place := p, data := (bs.drop (a - va)).take n } :: es)

/-- The units of a run as a copy command reads them now, beside those that it has read: a unit is read once (R391, R397). -/
def State.cmdKeep (s : State) (c : CopyCmd) (va n : Nat) : List (Nat × List Byte) :=
  ((unitRuns va n).map fun u => u.1 / 16).foldl (fun got a =>
    if got.any fun g => g.1 == a then got
    else
      match s.cmdBytes c (16 * a) 16 with
      | .ok bs => got ++ [(a, bs)]
      | .error _ => got) c.got

/-- Reads what one destination chunk of a copy command needs, and makes its elements ready. After a failed access in another
package no chunk is begun. -/
def State.cmdChunk (s : State) (c : CopyCmd) (k : Nat) : Except Flt CopyCmd := do
  match c.fail with
  | some va => .error (.fault 5 va 0)
  | none =>
    let r := spanChunk c.dst c.len k
    let n := r.2 - r.1
    let bs ← s.cmdBytes c (c.src + r.1) n
    let es ← s.cmdElems c.part bs (c.dst + r.1) (unitRuns (c.dst + r.1) n)
    .ok { c with did := c.did ++ [k], wrote := c.wrote + n, got := s.cmdKeep c (c.src + r.1) n
                 out := c.out ++ (joinAway es).map fun (e : Elem) => { e with chunk := k } }

/-- Goes through the chunks that are left, in order, until one does not go on. -/
def State.cmdChunks (s : State) (c : CopyCmd) (k : Nat) : Nat → CopyCmd × Option Flt
  | 0 => (c, none)
  | n + 1 =>
    if c.did.contains k then s.cmdChunks c (k + 1) n
    else
      match s.cmdChunk c k with
      | .ok c' => s.cmdChunks c' (k + 1) n
      | .error e => (c, some e)

/-- DONE's addition of a copy command, when DONE is non-zero and can take it (R75, R369); a misaligned one takes none
(log 52). -/
def State.copyDone (s : State) (part done wrote : Nat) (err : Bool) : State :=
  if done = 0 ∨ done % 64 ≠ 0 then s else (s.objAdd part done { b := wrote, e := err }).getD s

/-- Event COPY_COMMAND (R72, R75). FENCE holds the command, and those behind it, until the earlier ones are complete
(logs 36, 68). -/
def execCopyCommand (q : Nat) (s : State) : Host.Outcome State Fault Refusal :=
  let x := s.queue q
  if !s.canRead q 1 then notEnabled
  else
    match s.entry q with
    | .stuck => notEnabled
    | .bad => .next (s.entryBad q 7)
    | .bytes bs =>
      let w := ofBytes bs
      let len := fld w 128 64
      if tb w 256 && s.copycmds.any fun c => c.2.queue == q then notEnabled
      else if len = 0 ∨ 2 ^ 40 < len then
        .next (((s.post { code := 7, part := x.part }).copyDone x.part (fld w 192 64) 0 true).consume q)
      else
        let c : CopyCmd := { queue := q, part := x.part, src := fld w 0 64, dst := fld w 64 64, len, done := fld w 192 64 }
        .next (({ s with nextId := s.nextId + 1, copycmds := s.copycmds.put s.nextId c } : State).consume q)

/-- Puts a copy command back. -/
def State.putCmd (s : State) (id : Nat) (c : CopyCmd) : State := { s with copycmds := s.copycmds.put id c }

/-- A copy command does one chunk. -/
def commandStep (id k : Nat) (s : State) : Host.Outcome State Fault Refusal :=
  match s.copycmds.get? id with
  | none => notEnabled
  | some c =>
    if c.did.contains k ∨ spanChunks c.dst c.len ≤ k then notEnabled
    else
      match s.cmdChunk c k with
      | .ok c' => .next (s.putCmd id c')
      | .error f => s.tried (.command id) f

/-- A copy command reads one of its units before its other accesses (R396). -/
def cmdUnitStep (id va : Nat) (s : State) : Host.Outcome State Fault Refusal :=
  match s.copycmds.get? id with
  | none => notEnabled
  | some c =>
    let a := va / 16 * 16
    if 2 ^ 56 ≤ va ∨ c.got.any (fun g => g.1 == a / 16) then notEnabled
    else
      match s.cmdBytes c a 16 with
      | .ok bs => .next (s.putCmd id { c with got := c.got ++ [(a / 16, bs)] })
      | .error _ => notEnabled

/-- A copy command writes one of the elements that it has ready (R396). -/
def cmdElemStep (id k : Nat) (s : State) : Host.Outcome State Fault Refusal :=
  match s.copycmds.get? id with
  | none => notEnabled
  | some c =>
    match c.out[k]? with
    | none => notEnabled
    | some e =>
      when (!s.elemWaits porchEngine e)
        ((s.putElem porchEngine (.command id) e).putCmd id { c with out := c.out.eraseIdx k })

/-- A copy command ends: with the record COPY_FAULT at a virtual address where it faulted, and with DONE's addition of the
bytes written (R75, log 52). -/
def State.endCmd (s : State) (id : Nat) (c : CopyCmd) (fault : Option Nat) : State :=
  let s := (({ s with copycmds := s.copycmds.del id } : State).dropAways (.command id))
  let s := match fault with
    | some va => s.post { code := 7, part := c.part, addr := va }
    | none => s
  s.copyDone c.part c.done (c.wrote - (c.out.map fun e => e.data.length).sum) fault.isSome

/-- Event COPY_COMMAND_COMPLETE: the rest of the command, up to its end or its fault, and DONE's addition (R75). -/
def execCopyCommandComplete (cmd : Nat) (s : State) : Host.Outcome State Fault Refusal :=
  match s.copycmds.get? cmd with
  | none => notEnabled
  | some c =>
    let r := s.cmdChunks c 0 (spanChunks c.dst c.len)
    let fin (fault : Option Nat) : State :=
      (s.putElems porchEngine (.command cmd) r.1.out).endCmd cmd { r.1 with out := [] } fault
    match r.2 with
    | none => when (s.canFlush porchEngine (.command cmd) r.1.out) (fin none)
    | some (.fault _ va _) => when (s.canFlush porchEngine (.command cmd) r.1.out) (fin (some va))
    | some _ => notEnabled

/-! ### Cellar tasks (R359, R360, R362) -/

/-- Event CELLAR_TASK_READ: a task of a Cellar queue, or the next of a die's CQSUB queue, is handed to its units. -/
def execCellarTaskRead (src : EntrySrc) (s : State) : Host.Outcome State Fault Refusal :=
  match src with
  | .queue q =>
    if !s.canRead q 2 then notEnabled
    else
      match s.entry q with
      | .stuck => notEnabled
      | .bad => .next (s.entryBad q 9)
      | .bytes bs =>
        let x := s.queue q
        let r := ofBytes bs
        if !s.recordValid x.part r then .next ((s.post { code := 9, part := x.part }).consume q)
        else
          let k := taskOfRecord x.part r none
          if !s.taskRoom k then notEnabled
          else
            let s1 := { s with nextId := s.nextId + 1, tasks := s.tasks.put s.nextId k }
            .next ((s1.handTask s.nextId k).consume q)
  | .cqsub die =>
    match (s.dies.getD die {}).cq with
    | [] => notEnabled
    | id :: rest =>
      let k := s.tasks.getD id .absent
      if !s.taskRoom k ∨ s.lost die then notEnabled
      else .next ((s.updDie die fun d => { d with cq := rest }).handTask id k)
  | .device _ => notEnabled

end Sys2Proof.Machine
end

