-- ==== Sys2Proof/Machine/Remote.lean ====
section
/-!
DEFINITION. Accesses between packages: at their home (R276, R279, R283, R393), at their issuer (R276 to R278), and relays
(R275).
-/

namespace Sys2Proof.Machine

/-! ### At the home (R276, R279, R283) -/

/-- The lanes of an atomic one after another on one value: what each read, and the last value (R383). -/
def atomRun (o : AtomOp) (n old : Nat) (data : List Byte) : Nat → List Byte × Nat
  | 0 => ([], old)
  | k + 1 =>
    let v := o.apply old (ofBytes (data.take n)) (ofBytes ((data.drop n).take n))
    let r := atomRun o n v (data.drop (2 * n)) k
    (toBytes old n ++ r.1, r.2)

/-- The timestamp of another package's access to a line, and the line's timestamps after it (R393). The lease is that of the
home's die (log 11). -/
def State.homeStamp (s : State) (req : RemoteReq) (a : Nat) : Nat × State :=
  let l := s.lts.getD (a / 128) (0, 0)
  let s := s.sample a
  if req.kind = 0 then
    let ts := max req.pts l.1
    (ts, if l.2 < ts then
        { s with lts := s.lts.put (a / 128) (l.1, max l.2 (ts + s.leaseLen (s.partOfDie ((homeDie a).getD 0)))) }
      else s)
  else
    let ts := max req.pts (l.2 + 1)
    (ts, { s with lts := s.lts.put (a / 128) (ts, ts) })

/-- The addition that a request carries (log 11). -/
def Addition.ofBytes (data : List Byte) : Addition :=
  let d := Sys2Proof.Machine.ofBytes data
  { a := fld d 0 64, b := fld d 64 64, v := fld d 128 64, x := fld d 192 64, y := fld d 256 64, e := tb d 320 }

/-- What a request puts at an address of this package: the bytes, if any, and the bytes that it returns (R276, R368, R374, R381,
R384, R386). -/
def State.remoteDo (s : State) (req : RemoteReq) (a : Nat) : List Byte × List Byte :=
  let d := ofBytes req.data
  match req.kind with
  | 0 => ([], s.mem.bytes a req.size)
  | 1 => (req.data, [])
  | 2 =>
    let r := atomRun (AtomOp.ofWord req.op) req.size (s.mem.getNat a req.size) req.data
      (req.data.length / (2 * req.size))
    (toBytes r.2 req.size, r.1)
  | 3 => (toBytes ((Bar.ofWord (s.mem.getNat a 64)).add (Addition.ofBytes req.data)).word 64, [])
  | 4 => (toBytes ((Bar.ofWord (s.mem.getNat a 64)).init (fld d 0 64) (fld d 64 64)).word 64, [])
  | 7 => (toBytes (f32Add (tb req.op 8) (s.mem.getNat a 4) d) 4, [])
  | _ =>
    ((List.range (req.data.length / 4)).flatMap fun i =>
      toBytes (wordAdd (req.op % 256) (tb req.op 8) (s.mem.getNat (a + 4 * i) 4) (fld d (32 * i) 32)) 4, [])

/-- A request that a poisoned line stops (R226, R382, R386, R419). -/
def poisonStops (req : RemoteReq) : Bool := [0, 2, 5, 7].contains req.kind

/-- The home's record of a dropped REDNM add (R386, R423). -/
def State.dropRecord (s : State) (req : RemoteReq) (a : Nat) : State :=
  if req.kind = 7 then s.post { code := 0x12, die := (homeDie a).getD 0, stack := (stackOf a).getD 0xF, addr := req.pa } else s

/-- The request is performed at an address of this package, or cannot be (R216, R223, R276, R419, R420, R438). -/
def State.serveAt (s : State) (req : RemoteReq) (a : Nat) : Host.Outcome State Fault Refusal :=
  if !s.physOk a then .next (s.sendMsg (.failed req.src req.id 6 0 s.pkg))
  else if s.homeLost a || s.power == .hold && (stackOf a).isSome || req.kind != 0 && s.moving a then notEnabled
  else if poisonStops req && s.poisoned a then .next ((s.dropRecord req a).sendMsg (.failed req.src req.id 8 0 s.pkg))
  else
    let r := s.remoteDo req a
    let t := s.homeStamp req a
    let s1 := { t.2 with mem := t.2.mem.putBytes a r.1 }
    .next (s1.sendMsg (.reply req.src req.id r.2 t.1 s.pkg (req.kind == 2)))

/-- Event REMOTE_REQUEST_SERVE: a request of another package, or one of this package that has come back to it, is performed, or
sent on once (R276, R279, R283). -/
def execRemoteRequestServe (req : RemoteReq) (s : State) : Host.Outcome State Fault Refusal :=
  let a := inPkg req.pa
  let loop := s.sendMsg (.failed req.src req.id 9 1 s.pkg)
  if pkgOf req.pa ≠ s.pkg ∨ (req.src = s.pkg ∧ !req.forwarded) then notEnabled
  else
    match s.fwdOf a with
    | none => s.serveAt req a
    | some dest =>
      if req.forwarded then .next loop
      else if pkgOf dest ≠ s.pkg then .next (s.sendMsg (.access (pkgOf dest) { req with pa := dest, forwarded := true }))
      else if (s.fwdOf (inPkg dest)).isSome then .next loop
      else s.serveAt req (inPkg dest)

/-! ### What becomes of an access that is no group's own (R21, R276, R277) -/

/-- What another package has answered to the instruction at a thread's issue point: it is kept for its next try, or, where the
access itself failed, the thread traps (R276, R277). -/
def State.askDone (s : State) (tid id : Nat) (a : Away) (cls sub : Nat) (data : List Byte) (ts : Nat) : State :=
  match s.threads.get? tid with
  | none => s
  | some t =>
    let t1 := { t with asks := t.asks.erase id, pts := max t.pts ts }
    let ans (c : Nat) : State := s.putThread tid { t1 with answers := t1.answers ++ [{ pa := a.req.pa, cls := c, data := data }] }
    if !t.asks.contains id then s
    else if cls ≠ 9 then ans cls
    else if a.chunk = 1 then ans 0
    else s.trapOrPend tid { t1 with status := .running } { cls := 9, sub := sub, addr := a.va, info := pkgOf a.req.pa }

/-- What another package has answered to an engine operation (R243, R277, R396). -/
def State.engineHeard (s : State) (core ticket : Nat) (a : Away) (cls sub : Nat) (data : List Byte) : State :=
  match (s.cores.getD core {}).ops.get? ticket with
  | none => s
  | some op =>
    if cls ≠ 0 then s.elemFailed core ticket a (causeOf cls sub 0)
    else if a.req.kind = 0 then s.putOp core ticket { op with got := op.got ++ [(a.va / 16, data)] }
    else s

/-- A failed access of a copy command: the command stops, and the chunk counts as not written (R75, R277). -/
def CopyCmd.failed (c : CopyCmd) (a : Away) : CopyCmd :=
  let c1 := if a.req.kind = 0 then c else { c with did := c.did.erase a.chunk, wrote := c.wrote - a.req.data.length }
  { c1 with fail := c.fail.or (some a.va) }

/-- What another package has answered to a copy command (R75). -/
def State.cmdHeard (s : State) (id : Nat) (a : Away) (cls : Nat) (data : List Byte) : State :=
  match s.copycmds.get? id with
  | none => s
  | some c =>
    if cls ≠ 0 then s.putCmd id (c.failed a)
    else if a.req.kind = 0 then s.putCmd id { c with got := c.got ++ [(a.va / 16, data)] }
    else s

/-- The same for a REDNM add (R386). -/
def State.nmHeard (s : State) (id cls : Nat) : State :=
  match s.nmAdds.get? id with
  | none => s
  | some a => if cls = 0 then s.nmOver id a false else if cls = 8 then s.nmOver id a true else s.nmDropped id a

/-- An access that is no group's own has been answered, or has failed: class 0 is an answer. -/
def State.awayDone (s : State) (id : Nat) (a : Away) (cls sub : Nat) (data : List Byte) (ts : Nat) : State :=
  let s := { s with aways := s.aways.del id }
  match a.owner with
  | .thread tid => s.askDone tid id a cls sub data ts
  | .engine core ticket => s.engineHeard core ticket a cls sub data
  | .command k => s.cmdHeard k a cls data
  | .nm k => s.nmHeard k cls
  | .row work k => if cls = 0 then s.holderReply work k data else s.holderFail work cls sub
  | .porch rid expert replica => s.trackerHeard rid expert replica
  | .walk part die page => s.walkHeard part die page cls sub (pkgOf a.req.pa) data
  | .host b => if a.req.kind = 0 then s.hostAnswer b (if cls = 0 then some data else none) else s
  | .signal x added => s.signalHeard x added cls
  | .nobody => s

/-! ### A group's remote accesses (R276 to R278) -/

/-- The messages of an access that still wait at the Porch are given up. -/
def State.dropAccess (s : State) (ck : Nat) : State :=
  { s with outbox := s.outbox.filter fun m => match m with
      | .access _ r => !(r.src == s.pkg && r.id / 4096 == ck)
      | _ => true }

/-- The class that an access with failed lanes traps with, in the order of R226: ADDRESS_HOLE, REMOTE, POISON. -/
def failClass (fs : List (Nat × Nat × Nat × Nat × Nat)) : Nat :=
  ([6, 9, 8].find? fun c => fs.any fun f => f.2.2.2.1 == c).getD 9

/-- The checkpoint's registers with what the acknowledged lanes of an atomic have returned, which keep their effects (R278). -/
def Thread.ackRegs (t : Thread) (a : Access) : Regs :=
  match a.kind, a.pid.bind t.prods.get? with
  | .atomic, some p =>
    let ls := ((List.range 64).filter fun i => p.lanes.getLsbD i).filter fun i => !(a.failed.any fun f => f.1 == i)
    (List.range p.n).foldl (fun (r : Regs) j =>
      { r with v := setLanes r.v (64 * (p.reg + j)) (fun i => p.vals.get (64 * j + i)) ls
               ve := if ls.isEmpty then r.ve else takeOver r.ve (p.reg + j) 1 }) a.regs
  | _, _ => a.regs

/-- The failed access at the head of a store buffer: the group returns to its checkpoint, what came after is discarded,
and it traps (R278, R404, R405). Counters that it had cleared come back. An access made once for the group leaves EM (log
30). -/
def State.rollBack (s : State) (tid : Nat) (t : Thread) (a : Access) : State :=
  let cls := failClass a.failed
  let fs := a.failed.filter fun f => f.2.2.2.1 == cls
  let keep (k : Nat) : Bool := decide (k < a.ck) && a.pid != some k
  match fs with
  | [] => s
  | (_, va, pa, _, sub) :: _ =>
    let t' := { t.forget with
      pc := a.pc, regs := t.ackRegs a, pend := [], prods := t.prods.filter fun p => keep p.1
      queries := t.queries.filter fun q => keep q.1, status := .running, line := none, enter := .resume }
    ((s.dropAccess a.ck).unsnap a.snap).trapOrPend tid t'
      { cls := cls, sub := sub, addr := va, info := if cls = 9 then pkgOf pa else 4 * bit (a.kind != .load)
        lanes := if tb a.op 10 || a.whole then none else some (laneMask (fs.map (·.1))) }

/-- The store buffer goes on, its head's lanes that were out being answered or failed; when the head has none left and some
have failed, the group returns to its checkpoint (R276, R278). -/
def State.goOn (s : State) (tid : Nat) (t : Thread) (a : Access) (ps : List Pend) : State :=
  let r := s.drainPend t (.access a :: ps)
  match r.2.pend with
  | .access b :: _ => if b.lanes.isEmpty && !b.failed.isEmpty then r.1.rollBack tid r.2 b else r.1.putThread tid r.2
  | _ => r.1.putThread tid r.2

/-- The head of a store buffer, where it is an access with lanes out in another package. -/
def Thread.outHead (t : Thread) : Option (Access × List Pend) :=
  match t.pend with
  | .access a :: ps => if a.out.any fun l => l.place.isRemote then some (a, ps) else none
  | _ => none

/-- The lanes that are out are answered with values, or fail with a class. -/
def State.laneDone (s : State) (tid : Nat) (t : Thread) (a : Access) (ps : List Pend) (vals : List (Nat × List Byte))
    (bad : List (Nat × Nat)) (sub ts : Nat) : State :=
  let t1 := vals.foldl (fun (t : Thread) v => t.giveLane a v.1 v.2) { t with pts := max t.pts ts }
  let fails := (a.out.filter fun l => bad.any fun b => b.1 == l.lane).map fun l =>
    (l.lane, l.va, l.place.remotePa, ((bad.find? fun b => b.1 == l.lane).map (·.2)).getD 9, sub)
  s.goOn tid t1 { a with lanes := a.lanes.drop a.out.length, failed := a.failed ++ fails } ps

/-- Event REMOTE_REPLY: a home answers an access: the lanes of a group's, with values or the class of a fault found there (R216,
R226, R276), or one that is no group's own (R21). Once HFTMO has passed the access fails, and no answer is taken (R277). -/
def execRemoteReply (rep : RemoteRep) (s : State) : Host.Outcome State Fault Refusal :=
  match s.aways.get? (4096 * rep.ck) with
  | some a =>
    when (!s.overdue a.sent) (s.awayDone (4096 * rep.ck) a ((rep.bad.head?.map (·.2)).getD 0) 0 ((rep.lanes.head?.map (·.2)).getD []) rep.ts)
  | none =>
    match (s.threads.get? rep.tid).bind fun t => t.outHead.map fun h => (t, h) with
    | none => notEnabled
    | some (t, a, ps) =>
      if s.overdue t.sent ∨ a.ck ≠ rep.ck ∨ !(a.out.all fun l => (rep.lanes.any fun v => v.1 == l.lane) != (rep.bad.any fun b => b.1 == l.lane))
      then notEnabled
      else
        .next (s.laneDone rep.tid t a ps (rep.lanes.filter fun v => a.out.any fun l => l.lane == v.1) rep.bad 0 rep.ts)

/-- An access fails with a SUB: 0 where no lane reaches the home, or HFTMO has passed; 1 where the home says so; 2 where every lane
has failed through tag refusals (R277, R281, R283). -/
def State.failsWith (s : State) (pa sent sub : Nat) : Bool :=
  match sub with
  | 0 => s.reach (pkgOf pa) == .lost || s.overdue sent
  | 1 => true
  | 2 => s.reach (pkgOf pa) == .key
  | _ => false

/-- Event REMOTE_FAIL: the lanes that are out of a group's access, or an access that is no group's own, fail (R277, R278). -/
def execRemoteFail (tid ck sub : Nat) (lanes : List Nat) (s : State) : Host.Outcome State Fault Refusal :=
  match s.aways.get? (4096 * ck) with
  | some a => when (s.failsWith a.req.pa a.sent sub) (s.awayDone (4096 * ck) a 9 sub [] 0)
  | none =>
    match (s.threads.get? tid).bind fun t => t.outHead.map fun h => (t, h) with
    | none => notEnabled
    | some (t, a, ps) =>
      let pa := (a.out.head?.map fun l => l.place.remotePa).getD 0
      when (a.ck == ck && a.out.map (·.lane) == lanes && s.failsWith pa t.sent sub)
        (s.laneDone tid t a ps [] (lanes.map fun i => (i, 9)) sub 0)

/-- The failures that this package's Porch finds by itself: of an address asked at a time, with its numbers (R277). -/
def State.failsOf (s : State) (tid ck pa sent : Nat) (lanes : List Nat) : List Move :=
  ([0, 2].filter fun sub => s.failsWith pa sent sub).map fun sub => .event (.remoteFail tid ck sub lanes)

/-- Those of a thread's store buffer. -/
def State.failMoves (s : State) (tid : Nat) (t : Thread) : List Move :=
  match t.outHead with
  | none => []
  | some (a, _) => s.failsOf tid a.ck ((a.out.head?.map fun l => l.place.remotePa).getD 0) t.sent (a.out.map (·.lane))

/-- Those of accesses that are no group's own. -/
def State.awayMoves (s : State) : List Move := s.aways.flatMap fun a => s.failsOf 0 (a.1 / 4096) a.2.req.pa a.2.sent [0]

/-! ### Relays (R275) -/

/-- A message that a relay may carry: of copies, gathers and routing, but no group's access (R275). -/
def relayed (m : OutMsg) : Bool :=
  match m with
  | .access _ r => r.far
  | _ => true

/-- Event RELAY_FORWARD: the entry package passes a message on, or drops it (R275). -/
def execRelayForward (msg : RelayMsg) (s : State) : Host.Outcome State Fault Refusal :=
  let p := msgDest msg.msg
  if p = s.pkg ∨ p / 4096 ≠ s.pkg / 4096 ∨ !relayed msg.msg then notEnabled
  else
    match s.reach p with
    | .up => .next (s.sendMsg msg.msg)
    | .wait => .next (s.sendMsg msg.msg)
    | _ => .next s

end Sys2Proof.Machine
end

