-- ==== Sys2Proof/Machine/Placement.lean ====
section
/-!
DEFINITION. Placing work: work requests and dispatch (R86 to R91), kindling (R30), the Damper (R93 to R95) and a change of
split (R98).
-/

namespace Sys2Proof.Machine

/-! ### Kindling (R26, R29, R30) -/

/-- The role of a group by its index (R26, R29). -/
def Header.roleOf (h : Header) (g : Nat) : Role :=
  if h.roleany then .any else if g < h.copyn then .copy else if g < h.copyn + h.matn then .matrix else .vector

/-- The entry point of a role (R29). -/
def Header.entryOf (h : Header) : Role → Nat
  | .copy => h.entryC
  | .matrix => h.entryM
  | _ => h.entryV

/-- A group before its first instruction (R30, R152). -/
def Thread.start (h : Header) (wg g : Nat) : Thread :=
  let r := h.roleOf g
  let args : W64 := BitVec.ofNat 64 h.args
  let pc : W64 := BitVec.ofNat 64 (h.entryOf r)
  if r = .matrix then
    let regs : Regs := { s := Store.set [] 0 args, fmt := h.fmt0, em := 1, stkp := h.kstk * 16 }
    { side := .mcc, role := r, wg, gidx := g, width := 1, pc, regs }
  else
    let regs : Regs :=
      { g := Store.set [] 0 args, fmt := h.fmt0, em := BitVec.ofNat 64 (2 ^ h.lanes - 1), stkp := h.kstk * 16 }
    { side := .wide, role := r, wg, gidx := g, width := h.lanes, pc, regs }

/-- The scratchpad at admission: each group's kindling begins with the argument block (R30, log 2). -/
def kindling (h : Header) (args : List Byte) : Memory :=
  (List.range h.groups).foldl (fun (m : Memory) g => m.putBytes (4096 * g) args) []

/-- The lines that the kindlings change: their argument blocks (R30, R213). -/
def kindled (h : Header) : List Nat := (List.range h.groups).flatMap fun g => linesOf (4096 * g) (8 * h.argsz)

/-- A core admits a workgroup, which starts (R30, R86, R214). -/
def State.startWg (s : State) (launch : Nat) (l : Launch) (die core unit_ ord : Nat) : State :=
  let h := l.hdr
  let id := s.nextId
  let region := (s.regionFor l.part h).getD 0
  let g : Wg := { launch, ord, die, core, unit_, scr := kindling h l.args, backing := region
                  dirty := kindled h
                  pinned := List.range ((4096 * h.groups + 16383) / 16384) }
  let s1 := { s with
    nextId := id + 1 + h.groups
    wgs := s.wgs.put id g
    backing := s.backing ++ [(region, h.backingBytes)]
    threads := (List.range h.groups).foldl (fun (m : Tab Thread) k => m.put (id + 1 + k) (Thread.start h id k)) s.threads }
  s1.updCore (coreKey die core) fun c => { c with split := h.split }

/-- Starts the workgroups of a unit on their cores, in ordinal order (R91). -/
def State.startWgs (s : State) (launch : Nat) (l : Launch) (die cluster unit_ ord : Nat) : List Nat → State
  | [] => s
  | k :: ks =>
    (s.startWg launch l die (4 * cluster + k) unit_ ord).startWgs launch l die cluster unit_ (ord + 1) ks

/-- Starts a parlour unit (R28, R86). -/
def State.startUnit (s : State) (launch : Nat) (l : Launch) (die cluster ord : Nat) (cores : List Nat) : State :=
  let u : Parlour := { launch, cluster, die }
  ({ s with nextId := s.nextId + 1, units := s.units.put s.nextId u } : State).startWgs launch l die cluster s.nextId ord
    cores

/-! ### Ordinals (R86 to R88) -/

/-- The ordinals that a die's dispatcher takes as a chunk: up to 64, made of whole units, and fewer only at the end of the
grid (R87, log 34). -/
def chunkSize (l : Launch) : Nat := min (64 / l.hdr.unitSize * l.hdr.unitSize) (l.hdr.total - l.next)

/-- The first ordinal of the next unit for a die, and the launch with it handed out; none when the die gets none. -/
def takeOrdinals (l : Launch) (die : Nat) : Option (Nat × Launch) :=
  let u := l.hdr.unitSize
  let c := l.chunk die
  if l.hdr.ordered then
    if l.next < l.hdr.total then some (l.next, { l with next := l.next + u }) else none
  else if c.1 < c.2 then some (c.1, { l with chunks := Tab.put l.chunks die (c.1 + u, c.2) })
  else
    let n := chunkSize l
    if n = 0 then none
    else some (l.next, { l with next := l.next + n, chunks := Tab.put l.chunks die (l.next + u, l.next + n) })

/-! ### Requests and dispatch (R91) -/

/-- A die has a request of a cluster (R91). -/
def Die.asked (d : Die) (cluster : Nat) : Bool := d.requests.any fun r => r.2 == cluster

/-- A request joins the others: behind those of earlier cycles, and in its own cycle by cluster number (R91). -/
def joinRequests (rs : List (Nat × Nat)) (now cluster : Nat) : List (Nat × Nat) :=
  let before := rs.filter fun r => r.1 != now || decide (r.2 < cluster)
  before ++ (now, cluster) :: rs.filter fun r => !(r.1 != now || decide (r.2 < cluster))

/-- Event WORK_REQUEST: a cluster with room for a unit of the head launch asks for it (R91); in HOLD the core dies are off (R438). -/
def execWorkRequest (die cluster : Nat) (s : State) : Host.Outcome State Fault Refusal :=
  if 4 ≤ die ∨ 36 ≤ cluster ∨ s.lost die ∨ s.power = .hold ∨ s.saving (s.partOfDie die) ∨ (s.dies.getD die {}).asked cluster then
    notEnabled
  else
    match s.head die with
    | none => notEnabled
    | some (_, l) =>
      when (s.unitRoom die cluster l.hdr)
        (s.updDie die fun d => { d with requests := joinRequests d.requests s.clock.toNat cluster })

/-- A request of a cluster that has room waits for a backing region (R214). -/
def State.requestHeld (s : State) (die : Nat) (l : Launch) (c : Nat) : Bool :=
  s.unitRoom die c l.hdr && (s.unitPlan l.part die c l.hdr).isNone

/-- The request that a die's dispatcher serves next: the oldest of an earlier cycle that does not wait for a backing region
(R91, R214). -/
def State.nextRequest (s : State) (die : Nat) : Option (Nat × Nat) :=
  let rs := (s.dies.getD die {}).requests.filter fun r => r.1 != s.clock.toNat
  match s.head die with
  | none => rs.head?
  | some (_, l) => rs.find? fun r => !s.requestHeld die l r.2

/-- Event WORKGROUP_DISPATCH: the next request is served with a unit of the head launch; one whose cluster no longer has room
goes (R86, R91). -/
def execWorkgroupDispatch (die : Nat) (s : State) : Host.Outcome State Fault Refusal :=
  match s.nextRequest die with
  | none => notEnabled
  | some r =>
    if s.lost die ∨ s.power = .hold ∨ s.saving (s.partOfDie die) then notEnabled
    else
      let s1 := s.updDie die fun d => { d with requests := d.requests.filter (· != r) }
      match s1.head die with
      | none => .next s1
      | some (id, l) =>
        match s1.unitPlan l.part die r.2 l.hdr, takeOrdinals l die with
        | some cores, some (ord, l2) =>
          .next (({ s1 with launches := s1.launches.put id l2 } : State).startUnit id l2 die r.2 ord cores).mark
        | _, _ => .next s1.mark

/-! ### The Damper (R93 to R95) -/

/-- THR and INTV of a partition (R93). -/
def State.damper (s : State) (part : Nat) : Nat × Nat :=
  let r := (s.hr (0x180 + 8 * part)).toNat
  (if fld r 16 8 = 0 then 4 else fld r 16 8, fld r 0 16)

/-- Where a die of the ring sends entries and how many, by the sampled depths (R94). -/
def damperMove (thr : Nat) (dies : List (Nat × Nat)) (i : Nat) : Option (Nat × Nat) :=
  let n := dies.length
  match dies[i]?, dies[(i + n - 1) % n]?, dies[(i + 1) % n]? with
  | some (_, d), some a, some b =>
    let dest := if a.2 < b.2 ∨ a.2 = b.2 ∧ a.1 ≤ b.1 then a else b
    if dest.2 + thr < d then some (dest.1, min 16 ((d - dest.2) / 2)) else none
  | _, _, _ => none

/-- Moves the tail of one part behind another (R95). -/
def appendMoves (s : State) : List (Nat × List (List Byte × Nat)) → State
  | [] => s
  | (dest, es) :: rest => appendMoves (s.updDie dest fun d => { d with part := d.part ++ es }) rest

/-- Event DAMPER_EXCHANGE (R94, R95). In which order two senders append to one part is free; a lost die is not in the ring,
which the spec does not state (logs 35, 60). -/
def execDamperExchange (part : Nat) (s : State) : Host.Outcome State Fault Refusal :=
  let ds := (s.diesOf part).filter fun d => !s.lost d
  let thr := (s.damper part).1
  if 4 ≤ part ∨ (s.damper part).2 = 0 ∨ ds.length < 2 ∨ s.saving part then notEnabled
  else
    let depths := ds.map fun d => (d, (s.dies.getD d {}).part.length)
    let moves := ds.zipIdx.filterMap fun d => (damperMove thr depths d.2).map fun m => (d.1, m.1, m.2)
    let tails := moves.map fun m =>
      let p := (s.dies.getD m.1 {}).part
      (m.2.1, p.drop (p.length - m.2.2))
    let s1 := moves.foldl (fun s m => s.updDie m.1 fun d => { d with part := d.part.take (d.part.length - m.2.2) }) s
    .next (appendMoves s1 (if Config.freeBit s.free 0xDA then tails else tails.reverse))

/-! ### The SRAM split (R98) -/

/-- Event SPLIT_CHANGE: a marked core with nothing resident takes its new split (R98). -/
def execSplitChange (core : Nat) (s : State) : Host.Outcome State Fault Refusal :=
  match (s.cores.getD core {}).marked with
  | none => notEnabled
  | some n =>
    when (s.wgsOn core).isEmpty (s.updCore core fun c => { c with split := n, marked := none })

end Sys2Proof.Machine
end

