-- ==== Sys2Proof/Machine/Retire.lean ====
section
/-!
DEFINITION. Retiring work: workgroups (R441, R442), launches (R443 to R445) and HKILL (R418).
-/

namespace Sys2Proof.Machine

/-! ### Workgroups (R441, R442) -/

/-- A thread belongs to a workgroup. -/
def Thread.ofWg (t : Thread) (wg : Nat) : Bool := t.side != .cellar && t.wg == wg

/-- A routing message is of a workgroup of this package. -/
def State.rowOf (s : State) (wg : Nat) (m : RowMsg ⊕ RoundClose) : Bool :=
  match m with
  | .inl r => r.src == s.pkg && r.wg == wg
  | .inr c => c.src == s.pkg && c.wg == wg

/-- A routing message of a workgroup has not reached its Porch's trackers, or its package, or a row in this package is not yet
written whole (R397, R441). -/
def State.rowsWait (s : State) (wg : Nat) : Bool :=
  s.porchIn.any (s.rowOf wg) || s.porchOwn.any (s.rowOf wg) ||
  (s.trackers.any fun k => k.out.any fun u => u.wg == some wg) ||
  s.inFlight.any fun m => match m with
    | .row _ r => r.src == s.pkg && r.wg == wg
    | .close _ c => c.src == s.pkg && c.wg == wg
    | _ => false

/-- The engine operations of a workgroup have ended (R441). -/
def State.enginesDone (s : State) (wg : Nat) (g : Wg) : Bool :=
  g.outstanding == 0 && !s.rowsWait wg && s.cores.all (fun c => c.2.ops.all fun o => o.2.wg != wg) &&
    s.unitOps.all (fun o => o.2.wg != wg) && s.gops.all fun o => o.2.wg != wg

/-- A workgroup may retire (R441). -/
def State.mayRetire (s : State) (wg : Nat) (g : Wg) : Bool :=
  (s.threads.all fun t => !t.2.ofWg wg || t.2.status == .exited && t.2.posted.isEmpty && t.2.pend.isEmpty && t.2.queries.isEmpty) &&
    s.enginesDone wg g

/-- The replicas of the entries that can be read, and the address of a fault that stops the reading. A read that never
completes stops it without one (R420, R442, log 69). -/
def State.tableRead (s : State) (part etab e : Nat) : Nat → List Replica × Option Nat
  | 0 => ([], none)
  | n + 1 =>
    match s.hearthRead part (etab + 64 * e) 64 with
    | .bytes bs =>
      let r := s.tableRead part etab (e + 1) n
      (entryReplicas e (ofBytes bs) ++ r.1, r.2)
    | .bad => ([], some (etab + 64 * e))
    | .stuck => ([], none)

/-- Closes a round that is still bound (R442). -/
def State.closeRound (s : State) (wg : Nat) (g : Wg) (l : Launch) (sl : RoundSlot) : State :=
  if !sl.bound then s
  else
    let r := s.tableRead l.part sl.etab 0 (sl.nexp + 1)
    let s1 := s.sendCloses wg none sl r.1
    match r.2 with
    | none => s1
    | some a => s1.post { code := 0x19, core := g.core, die := g.die, part := l.part, info := sl.rid, addr := a
                          tag := l.hdr.tag.toNat }

/-- Releases a workgroup's resources in one step (R214, R442). -/
def State.release (s : State) (wg : Nat) (g : Wg) : State :=
  let rest := s.wgs.del wg
  let last := rest.all fun e => e.2.unit_ != g.unit_
  { s with
    wgs := rest
    threads := s.threads.filter fun t => !t.2.ofWg wg
    backing := s.backing.filter fun r => r.1 != g.backing
    units := if last then s.units.del g.unit_
      else s.units.upd g.unit_ fun u => { u with kept := u.kept ++ [g.core] }
    launches := s.launches.upd g.launch fun l =>
      if g.killed then { l with nkill := satAdd 32 l.nkill 1 } else { l with nwg := satAdd 32 l.nwg 1 } }

/-- Event WORKGROUP_RETIRE (R441, R442). -/
def execWorkgroupRetire (wg : Nat) (s : State) : Host.Outcome State Fault Refusal :=
  match s.wgs.get? wg with
  | none => notEnabled
  | some g =>
    let l := s.launchOfWg g
    if !s.mayRetire wg g then notEnabled
    else .next (((g.rounds.vals.foldl (fun s sl => s.closeRound wg g l sl) s).release wg g).feed l.part).mark

/-! ### Launches (R443 to R445) -/

/-- CODE of a launch record (R445). -/
def Launch.code_ (l : Launch) : Nat := if l.nkill ≠ 0 ∨ l.killed then 0x80 else 0

/-- What a launch that completes signals at DONE (R444, R445). -/
def Launch.signal (l : Launch) (tend : Nat) : Signal :=
  { part := l.part, done := l.hdr.done, tag := l.hdr.tag.toNat, host := l.queue.isSome
    word := recordWord l tend l.code_, nwg := l.nwg, err := l.code_ != 0 }

/-- Event LAUNCH_COMPLETE (R443 to R445). -/
def execLaunchComplete (launch : Nat) (s : State) : Host.Outcome State Fault Refusal :=
  match s.launches.get? launch with
  | none => notEnabled
  | some l =>
    if !l.handedOut || s.wgs.any fun g => g.2.launch == launch then notEnabled
    else
      .next ((({ s with launches := s.launches.del launch } : State).signalDone (l.signal s.time.toNat)).mark)

/-! ### HKILL (R418) -/

/-- Ends a group by HKILL: what it has not yet stored is dropped. -/
def Thread.kill (t : Thread) : Thread :=
  { t.ended with posted := [], pend := [], queries := [], prods := [], asks := [], answers := [], kept := [], nmOut := 0 }

/-- Aborts the engine operations of a workgroup with error status (R418). -/
def State.abortOps (s : State) (wg : Nat) : State :=
  let s1 := s.cores.foldl (fun s c => (c.2.ops.filter fun o => o.2.wg == wg).foldl (fun s o =>
    s.finishOp c.1 o.1 o.2 true) s) s
  let gone := (s1.unitOps.filter fun o => o.2.wg == wg).map (·.1)
  let mine := (s1.gops.filter fun o => o.2.wg == wg).map (·.1)
  { s1 with
    cores := s1.cores.map fun (c : Nat × Core) => (c.1, { c.2 with unitQ := c.2.unitQ.filter fun k => !gone.contains k })
    unitOps := s1.unitOps.filter fun o => o.2.wg != wg
    gops := s1.gops.filter fun o => o.2.wg != wg
    gworks := s1.gworks.filter fun w => match w.2.for_ with
      | .own k _ => !mine.contains k
      | .other .. => true
    nmAdds := s1.nmAdds.filter fun a => a.2.wg != wg
    aways := s1.aways.filter fun a => match a.2.owner with
      | .nm k => (s1.nmAdds.get? k).any fun x => x.wg != wg
      | .row k _ => (s1.gworks.get? k).any fun w => match w.for_ with
        | .own g _ => !mine.contains g
        | .other .. => true
      | .thread k => (s1.threads.get? k).any fun t => !t.ofWg wg
      | _ => true
    outbox := s1.outbox.filter fun m => match m with
      | .row _ r => !s1.rowOf wg (.inl r)
      | .close _ c => !s1.rowOf wg (.inr c)
      | _ => true
    porchOwn := s1.porchOwn.filter fun m => !s1.rowOf wg m
    porchIn := s1.porchIn.filter fun m => !s1.rowOf wg m }

/-- Ends every group of a workgroup (R418). It counts as killed where a group was left to end (R445). REDNM adds are dropped; the
Cellar tasks of CQSUB that it waits for go on (R441). -/
def State.killWg (s : State) (wg : Nat) : State :=
  let mine := s.threads.filter fun t => t.2.ofWg wg
  let ids := mine.map (·.1)
  let ends := mine.any fun t => t.2.status != .exited
  let adds := (s.nmAdds.filter fun a => a.2.wg == wg).length
  let s1 := s.abortOps wg
  { s1.updWg wg fun g => { g with killed := g.killed || ends, outstanding := g.outstanding - adds } with
    threads := s1.threads.map fun (t : Nat × Thread) => if t.2.ofWg wg then (t.1, t.2.kill) else t
    cores := s1.cores.map fun (c : Nat × Core) =>
      (c.1, { c.2 with rextQ := c.2.rextQ.filter fun k => !ids.contains k
                       accQ := c.2.accQ.filter fun k => !ids.contains k }) }

/-- Ends a launch: its workgroups end and it dispatches no more (R418, log 47). -/
def State.killLaunch (s : State) (id : Nat) : State :=
  let s1 := ((s.wgs.filter fun g => g.2.launch == id).map (·.1)).foldl State.killWg s
  { s1 with launches := s1.launches.upd id fun l => { l with next := l.hdr.total, chunks := [], killed := true } }

/-- Event HKILL_GO (R418). -/
def execHkillGo (part : Nat) (s : State) : Host.Outcome State Fault Refusal :=
  if 4 ≤ part then notEnabled
  else
    let tag := s.hr 0x4B8
    let ids := (s.launches.filter fun l => l.2.part == part && l.2.hdr.tag == tag).map (·.1)
    .next (ids.foldl State.killLaunch s)

end Sys2Proof.Machine
end

