-- ==== Sys2Proof/Machine/Paging.lean ====
section
/-!
DEFINITION. TLB invalidation (R221, R224), the demotion chain (R222, R223), and page-in requests (R412, R413).
-/

namespace Sys2Proof.Machine

/-! ### HTLBI (R221, R224) -/

/-- A TLB entry is of a page, or the write names every page. -/
def TlbEntry.named (e : TlbEntry) : Option Nat → Bool
  | none => true
  | some page => if e.big then e.page / 32 == page / 32 else e.page == page

/-- Event HTLBI_PAGE: the write takes effect after earlier ones (R224). -/
def execHtlbiPage (part : Nat) (v : BitVec 64) (s : State) : Host.Outcome State Fault Refusal :=
  if 4 ≤ part ∨ v.getLsbD 0 then notEnabled
  else .next { s with tlbi := s.tlbi ++ [(part, some (fld v.toNat 16 40))] }

/-- Event HTLBI_ALL (R224). -/
def execHtlbiAll (part : Nat) (s : State) : Host.Outcome State Fault Refusal :=
  if 4 ≤ part then notEnabled else .next { s with tlbi := s.tlbi ++ [(part, none)] }

/-- Event HTLBI_COMPLETE: the oldest write of a partition is done in every TLB of the partition, and walks in
flight read their entries anew (R221, R224). -/
def execHtlbiComplete (part : Nat) (s : State) : Host.Outcome State Fault Refusal :=
  match s.tlbi.find? fun e => e.1 == part with
  | none => notEnabled
  | some w =>
    .next { s with
      tlbi := s.tlbi.erase w
      tlb := s.tlb.filter fun e => !(e.part == part && e.named w.2)
      walks := s.walks.map fun k => if k.part = part then { k with got := [] } else k }

/-! ### The demotion chain (R222, R223) -/

/-- The tier of a physical address of this package: 1 HBM, 2 LPDDR-6 or the pool, 3 host memory (R216, R222). -/
def tierOf (a : Nat) : Nat := if a < 0x10000000000 then 1 else if a < 0x60000000000 then 2 else 3

/-- LOW, HIGH and EN of a tier (R224). -/
def State.lowMark (s : State) (tier : Nat) : Nat := fld (s.hr (0x200 + 16 * (tier - 1))).toNat 0 32
def State.highMark (s : State) (tier : Nat) : Nat := fld (s.hr (0x200 + 16 * (tier - 1))).toNat 32 32
def State.demoteOn (s : State) (tier : Nat) : Bool := tb (s.hr (0x208 + 16 * (tier - 1))).toNat 0

/-- A leaf entry: where it stands, the page it maps, and whether that is of 2 MiB. -/
structure Leaf where
  entry : Nat
  pa : Nat
  big : Bool
  deriving DecidableEq, Repr

/-- The present entries of a table, by the address and value of each. -/
def State.present (s : State) (base n : Nat) : List (Nat × Nat) :=
  (List.range n).filterMap fun i =>
    let a := base + 8 * i
    match s.readPte a with
    | .val e => if tb e 0 then some (a, e) else none
    | .away pa _ =>
      let e := (Config.freeW64 s.free pa).toNat
      if tb e 0 then some (a, e) else none
    | _ => none

/-- The leaf entries of a partition's tables (R218). -/
def State.leaves (s : State) (part : Nat) : List Leaf :=
  (s.present (fld (s.hr (0x1A0 + 8 * part)).toNat 12 48 * 2 ^ 12) 512).flatMap fun e0 =>
    (s.present (fld e0.2 16 44 * 2 ^ 16) 8192).flatMap fun e1 =>
      (s.present (fld e1.2 16 44 * 2 ^ 16) 8192).flatMap fun e2 =>
        if tb e2.2 1 then [{ entry := e2.1, pa := fld e2.2 21 39 * 2 ^ 21, big := true }]
        else (s.present (fld e2.2 8 52 * 2 ^ 8) 32).map fun e3 =>
          { entry := e3.1, pa := fld e3.2 16 44 * 2 ^ 16, big := false }

/-- The leaf entries of every partition, each once. -/
def State.allLeaves (s : State) : List Leaf := ((List.range 4).flatMap s.leaves).eraseDups

/-- The order in which an engine prefers victims: lowest count, then lowest address (R223). -/
def State.victimBefore (s : State) (a b : Leaf) : Bool :=
  let ca := (s.counts.get (inPkg a.pa / 2 ^ 21)).toNat
  let cb := (s.counts.get (inPkg b.pa / 2 ^ 21)).toNat
  decide (ca < cb) || ca == cb && decide (a.pa ≤ b.pa)

/-- The victim of a tier (R223). -/
def State.victim (s : State) (tier : Nat) : Option Leaf :=
  (sortBy s.victimBefore (s.allLeaves.filter fun l => pkgOf l.pa == s.pkg && tierOf (inPkg l.pa) == tier)).head?

/-- An entry maps a part of a page. -/
def Leaf.maps (l : Leaf) (pa : Nat) (big : Bool) : Bool :=
  decide (l.pa < pa + pageSize big ∧ pa < l.pa + pageSize l.big)

/-- TLB entries of a page are invalidated. -/
def State.dropPage (s : State) (pa : Nat) (big : Bool) : State :=
  { s with tlb := s.tlb.filter fun e =>
      !decide (e.pa < pa + pageSize big ∧ pa < e.pa + pageSize e.big) }

/-- The value of an entry, free where it lies in another package (log 11); 0 where it cannot be read. -/
def State.pteValue (s : State) (entry : Nat) : Nat :=
  match s.readPte entry with
  | .val e => e
  | .away pa _ => (Config.freeW64 s.free pa).toNat
  | _ => 0

/-- Changes an entry of a table, here or in another package. -/
def State.setPte (s : State) (entry : Nat) (f : Nat → Nat) : State :=
  s.porchStore entry (toBytes (f (s.pteValue entry)) 8)

/-- A leaf entry with its flags: P, RD, LEAF and X as they stand, reserved bits zero (R218). -/
def pteWith (e : Nat) (w mig : Bool) (high : Nat) : Nat :=
  fld e 0 3 + bit w * 2 ^ 3 + bit (tb e 4) * 2 ^ 4 + bit mig * 2 ^ 7 + high * 2 ^ 8

/-- Step 1: sets MIG and clears W (R218, R223). -/
def pteMoving (e : Nat) : Nat := pteWith e false true (fld e 8 52)

/-- Step 3: the new address, W where it was set, and no MIG; for a page that goes to the storage tier P := 0, LOC := 2
and the block (R223). -/
def pteMoved (tier : Nat) (delta : Int) (dest : Nat) (w : Bool) (e : Nat) : Nat :=
  if tier = 3 then pteWith (e / 2 * 2) w false (2 + fld e 10 6 * 2 ^ 2 + dest % 2 ^ 44 * 2 ^ 8)
  else pteWith e w false (fld e 8 8 + ((fld e 16 44 : Int) + delta / 65536).toNat % 2 ^ 44 * 2 ^ 8)

/-- Event DEMOTION_START: the free space of a tier is known; below LOW the engine starts, at HIGH it stops; with
HIGH ≤ LOW it is idle (R222, R224, log 73). -/
def execDemotionStart (tier freeSpace : Nat) (s : State) : Host.Outcome State Fault Refusal :=
  if tier = 0 ∨ 3 < tier then notEnabled
  else
    let d := s.demote.getD tier {}
    if d.running then
      when (decide (s.highMark tier ≤ freeSpace ∨ s.highMark tier ≤ s.lowMark tier) && d.move.isNone)
        { s with demote := s.demote.put tier { d with running := false } }
    else
      when (s.demoteOn tier && decide (s.lowMark tier < s.highMark tier ∧ freeSpace < s.lowMark tier))
        { s with demote := s.demote.put tier { d with running := true } }

/-- Module memory's own free space, in 2 MiB units: which pages are free the device is not said to learn from anywhere, so it
is free below the capacity (R222, log 39). -/
def State.moduleFree (s : State) : Nat := Config.freeNat s.free 0xF2EE % (512 * s.lpGib + 1)

/-- The pages that a tier's engine may move to: free ones, which no entry maps; tier 2 fills module memory first, and takes the
pool once module memory's own free space is below tier 2's LOW (R222). -/
def State.destOk (s : State) (tier dest : Nat) (big : Bool) : Bool :=
  let a := inPkg dest
  let pool := decide (0x20000000000 ≤ a)
  pkgOf dest == s.pkg && dest % pageSize big == 0 && tierOf a == tier + 1 && s.physOk a &&
    !(s.allLeaves.any fun l => l.maps dest big) &&
    (tier != 1 || pool == (s.lpGib == 0 || s.poolOn && decide (s.moduleFree < s.lowMark 2)))

/-! ### Places that were looked up before a page moves (R223) -/

/-- A place in physical memory, changed. -/
def Place.mapPhys (f : Nat → Nat) : Place → Place
  | .phys a => .phys (f a)
  | p => p

/-- The same in a store buffer, in an element, in a barrier reference and in a status. -/
def Pend.mapPhys (f : Nat → Nat) : Pend → Pend
  | .access a => .access { a with lanes := a.lanes.map fun (l : LaneAcc) => { l with place := l.place.mapPhys f } }
  | .store ws => .store (ws.map fun (w : Place × List Byte) => (w.1.mapPhys f, w.2))
def Elem.mapPhys (f : Nat → Nat) (e : Elem) : Elem := { e with place := e.place.mapPhys f }
def BarRef.mapPhys (f : Nat → Nat) : BarRef → BarRef
  | .object va p => .object va (p.mapPhys f)
  | b => b
def Status.mapPhys (f : Nat → Nat) : Status → Status
  | .waitph b p l d => .waitph (b.mapPhys f) p l d
  | x => x

/-- The same in a group or an instance, with its open row (R354). -/
def Thread.mapPhys (f : Nat → Nat) (t : Thread) : Thread :=
  { t with
    pend := t.pend.map (Pend.mapPhys f)
    status := t.status.mapPhys f
    row := t.row.map fun (r : Nat × Bool) => (f r.1, r.2) }

/-- The same wherever a place is kept for a later access. -/
def State.mapPhys (s : State) (f : Nat → Nat) : State :=
  { s with
    threads := s.threads.map fun (t : Nat × Thread) => (t.1, t.2.mapPhys f)
    cores := s.cores.map fun (c : Nat × Core) => (c.1, { c.2 with
      ops := c.2.ops.map fun (o : Nat × EngOp) => (o.1, { o.2 with out := o.2.out.map (Elem.mapPhys f) }) })
    ctxs := s.ctxs.map fun (c : Nat × Ctx) => (c.1, { c.2 with
      ops := c.2.ops.map fun (o : Nat × Nat × EngOp) => (o.1, o.2.1, { o.2.2 with out := o.2.2.out.map (Elem.mapPhys f) }) })
    copycmds := s.copycmds.map fun (c : Nat × CopyCmd) => (c.1, { c.2 with out := c.2.out.map (Elem.mapPhys f) })
    gworks := s.gworks.map fun (w : Nat × GWork) => (w.1, { w.2 with places := w.2.places.map (Place.mapPhys f) })
    nmAdds := s.nmAdds.map fun (a : Nat × NmAdd) =>
      (a.1, { a.2 with pa := if pkgOf a.2.pa = s.pkg then s.pkg * 2 ^ 43 + f (inPkg a.2.pa) else a.2.pa }) }

/-- Where an address of a page of `n` bytes lies after its move. -/
def movedTo (from_ dest n a : Nat) : Nat := if from_ ≤ a ∧ a < from_ + n then dest + (a - from_) else a

/-- Nothing in the package has looked up a place in a page for a later access. -/
def State.untouched (s : State) (a n : Nat) : Bool :=
  decide ((s.mapPhys (movedTo a (2 ^ 43) n)).threads = s.threads ∧ (s.mapPhys (movedTo a (2 ^ 43) n)).cores = s.cores ∧
    (s.mapPhys (movedTo a (2 ^ 43) n)).ctxs = s.ctxs ∧ (s.mapPhys (movedTo a (2 ^ 43) n)).copycmds = s.copycmds ∧ (s.mapPhys (movedTo a (2 ^ 43) n)).gworks = s.gworks ∧
    (s.mapPhys (movedTo a (2 ^ 43) n)).nmAdds = s.nmAdds)

/-- Bytes of a page, copied over another one. -/
def copyOver (m : Memory) (from_ dest n : Nat) : Memory :=
  (m.clear dest (dest + n)).sets ((m.slice from_ (from_ + n)).map fun e => (dest + e.1, e.2))

/-- Changes every launch that runs or is saved. -/
def State.mapLaunches (s : State) (f : Launch → Launch) : State :=
  { s with
    launches := s.launches.map fun (l : Nat × Launch) => (l.1, f l.2)
    ctxs := s.ctxs.map fun (c : Nat × Ctx) =>
      (c.1, { c.2 with launches := c.2.launches.map fun (l : Nat × Launch) => (l.1, f l.2) }) }

/-- What a launch may fetch from a page, at the page's new place (R105, R223). -/
def Launch.moveCode (from_ dest n : Nat) (l : Launch) : Launch :=
  let kept := l.wrote.filter fun w => !decide (dest / 16 ≤ w.1 ∧ w.1 < (dest + n) / 16)
  { l with
    code := copyOver l.code from_ dest n
    wrote := kept.map fun w => (movedTo (from_ / 16) (dest / 16) (n / 16) w.1, w.2) }

/-- What a launch may fetch from storage that a page-in fills: the page's bytes (R105, R413). -/
def Launch.fillCode (a : Nat) (bs : List Byte) (l : Launch) : Launch :=
  { l with
    code := l.code.putBytes a bs
    wrote := l.wrote.filter fun w => !decide (a / 16 ≤ w.1 ∧ w.1 < (a + bs.length) / 16) }

/-- A page's bytes and poison at their new place, where running launches fetch them too. -/
def State.movePage (s : State) (from_ dest n : Nat) : State :=
  let s := s.mapLaunches (Launch.moveCode from_ dest n)
  { s with
    mem := copyOver s.mem from_ dest n
    poison := (s.poison.filter fun l => !decide (dest / 128 ≤ l ∧ l < (dest + n) / 128)) ++
      movePoison s.poison (from_ / 128) ((from_ + n) / 128) (dest / 128) }

/-- The first half of a page move (R223). -/
def State.startMove (s : State) (tier : Nat) (d : Demotion) (v : Leaf) : State :=
  let es := s.allLeaves.filter fun l => l.maps v.pa v.big
  let had := es.map fun l => (l.entry, tb (s.pteValue l.entry) 3)
  let s1 := (es.foldl (fun s l => s.setPte l.entry pteMoving) s).dropPage v.pa v.big
  { s1 with demote := s1.demote.put tier { d with move := some (v.pa, v.big, had) } }

/-- The second half: the copy, the new entries and the second invalidation; stores that wait complete at the new copy (R223).
What goes to the storage tier leaves the device (log 39). -/
def State.endMove (s : State) (tier dest pa : Nat) (big : Bool) (had : List (Nat × Bool)) : State :=
  let s1 := if tier = 3 then s
    else (s.movePage (inPkg pa) (inPkg dest) (pageSize big)).mapPhys (movedTo (inPkg pa) (inPkg dest) (pageSize big))
  let s2 := (had.foldl (fun s e => s.setPte e.1 (pteMoved tier ((dest : Int) - pa) dest e.2)) s1).dropPage pa big
  { s2 with demote := s2.demote.put tier { s2.demote.getD tier {} with move := none } }

/-- Event DEMOTION_PAGE_MOVE: an engine's first or second half of a move; `dest` is the page or block it goes to. A page goes to
the storage tier once no access that was let through to it is left (R222 to R224, log 39). -/
def execDemotionPageMove (tier dest : Nat) (s : State) : Host.Outcome State Fault Refusal :=
  let d := s.demote.getD tier {}
  match d.move with
  | none =>
    if !d.running ∨ !s.demoteOn tier ∨ s.highMark tier ≤ s.lowMark tier then notEnabled
    else
      match s.victim tier with
      | none => notEnabled
      | some v => when (tier != 3 || s.untouched (inPkg v.pa) (pageSize v.big)) (s.startMove tier d v)
  | some (pa, big, had) =>
    when (tier == 3 || s.destOk tier dest big) (s.endMove tier dest pa big had)

/-! ### Page-in requests (R412, R413) -/

/-- The page-in ring of a partition: its address and LOG2N (R424). -/
def State.pageRing (s : State) (part : Nat) : Nat × Nat :=
  let r := (s.hr (0x480 + 8 * part)).toNat
  (fld r 12 44 * 2 ^ 12, fld r 0 4)

/-- A request that can be served: its destination is a page of storage (R412). -/
def State.pageinOk (s : State) (r : PageIn) : Bool :=
  r.dest % pageSize r.big == 0 && decide (r.dest < 2 ^ 60) && (pkgOf r.dest != s.pkg || s.physOk (inPkg r.dest))

/-- LBADS of HNVMQ (R424). -/
def State.lbads (s : State) : Nat := fld (s.hr 0x4E8).toNat 0 4

/-- The host driver has named a queue pair and a block size (R413, R424). -/
def State.nvmeSet (s : State) : Bool := fld (s.hr 0x4E0).toNat 0 12 != 0 && (s.lbads == 9 || s.lbads == 12)

/-- The Read command for a request (R413). How it lies in the queue area is NVMe's, not the spec's (log 39). -/
def State.nvmRead (s : State) (r : PageIn) : NvmRead :=
  { controller := fld (s.hr 0x4E0).toNat 12 48 * 2 ^ 12, queue := fld (s.hr 0x4E0).toNat 0 12
    area := fld (s.hr 0x4E8).toNat 12 48 * 2 ^ 12, nsid := (s.hr 0x4F0).toNat, block := r.block
    blocks := pageSize r.big / 2 ^ s.lbads, prp := r.dest }

/-- Event PAGEIN_REQUEST: the Porch reads the next entry once its SEQ is right, and issues its Read command (R412, R413). -/
def execPageinRequest (part : Nat) (s : State) : Host.Outcome State Fault Refusal :=
  let ring := s.pageRing part
  if 4 ≤ part ∨ (s.pageins.get? part).isSome ∨ ring.2 < 4 ∨ 12 < ring.2 ∨ !s.nvmeSet then notEnabled
  else
    match s.hearthNat part (ring.1 + 8) 8 with
    | none => notEnabled
    | some i =>
      match s.hearthRead part (ring.1 + 64 + 64 * (i % 2 ^ ring.2)) 64 with
      | .bytes bs =>
        let w := ofBytes bs
        let r : PageIn := { idx := i, block := fld w 0 64, dest := fld w 128 64, bar := fld w 192 64, big := tb w 256 }
        let r := { r with cmd := if s.pageinOk r then some (s.nvmRead r) else none }
        when (fld w 448 32 == (i + 1) % 2 ^ 32) { s with pageins := s.pageins.put part r }
      | _ => notEnabled

/-- The page that a Read command brings is written, 64 KiB after 64 KiB (R279, R413), and is what a launch fetches there
(R105). -/
def State.pageWrite (s : State) (dest : Nat) (data : List Byte) : State :=
  (List.range ((data.length + 65535) / 65536)).foldl (fun s k =>
    let bs := (data.drop (65536 * k)).take 65536
    let here := s.forwarded (dest + 65536 * k)
    let s1 := s.porchStore (dest + 65536 * k) bs
    if pkgOf here = s.pkg ∧ s.porchOk here then s1.mapLaunches (Launch.fillCode (inPkg here) bs) else s1) s

/-- The chain of a page-in's stores: the addition at BAR, then the read index (R413). -/
def pageinChain (part : Nat) : Nat := 2 ^ 70 + part

/-- Event PAGEIN_COMPLETE: the page is written, the addition is made at BAR, and the read index advances (R413). -/
def execPageinComplete (res : PageinRes) (s : State) : Host.Outcome State Fault Refusal :=
  match s.pageins.get? res.part with
  | none => notEnabled
  | some r =>
    let ok := r.cmd.isSome
    let data := if ok then res.data else []
    let bad := !ok || res.status != 0
    if pageSize r.big < res.data.length ∨ (!bad && decide (res.data.length < pageSize r.big)) then notEnabled
    else
      let c := pageinChain res.part
      let s1 := s.pageWrite r.dest data
      let s2 := if r.bar % 64 ≠ 0 then s1
        else (s1.objAdd res.part r.bar { a := 1, b := data.length, e := bad } c).getD s1
      let s3 := (s2.hearthPut res.part ((s.pageRing res.part).1 + 8) (toBytes (r.idx + 1) 8) c).getD s2
      let s4 := { s3 with pageins := s3.pageins.del res.part }
      .next (if bad then s4.post { code := 0x16, part := res.part, info := res.status } else s4)

end Sys2Proof.Machine
end

