-- ==== Sys2Proof/Machine/Preempt.lean ====
section
/-!
DEFINITION. Pre-emption: saving a partition and resuming it (R36, R414 to R417).
-/

namespace Sys2Proof.Machine

/-! ### HPRE (R415, R424) -/

/-- HPRE's REFUSED reads as given; BUSY reads 1 while a partition is being saved. -/
def State.hpreRefused (s : State) (b : Bool) : State := s.setHr 0x4A0 (BitVec.ofNat 64 (bit b * 2 ^ 61))

/-- A partition with no launch and nothing in its Pantries and device-side queues: it has no state to save. -/
def State.partEmpty (s : State) (part : Nat) : Bool :=
  (s.launches.all fun l => l.2.part != part) && (s.diesOf part).all fun d =>
    let x := s.dies.getD d {}
    x.part.isEmpty && x.staged.isEmpty && x.image.isEmpty

/-- The context area has room for a partition's state: none at 0 GiB; how much the state takes is not stated, so where
there is any the answer is free (R415, log 70). -/
def State.ctxRoom (s : State) (part : Nat) : Bool :=
  fld (s.hr 0x4A8).toNat 0 8 != 0 && (s.partEmpty part || !Config.freeBit s.free 0xC7)

/-- Event HPRE_GO (R415). -/
def execHpreGo (part slot : Nat) (s : State) : Host.Outcome State Fault Refusal :=
  if 4 ≤ part ∨ 256 ≤ slot then notEnabled
  else if (s.ctxs.get? slot).isSome ∨ !s.ctxRoom part ∨ (s.diesOf part).any s.lost ∨ s.preempt.isSome then
    .next (s.hpreRefused true)
  else .next { s.hpreRefused false with preempt := some (part, slot) }

/-! ### What a save waits for (R416) -/

/-- A workgroup of a partition. -/
def State.inPart (s : State) (part : Nat) (g : Wg) : Bool := (s.launchOfWg g).part == part

/-- The numbers of a partition's workgroups. -/
def State.partWgs (s : State) (part : Nat) : List Nat := (s.wgs.filter fun g => s.inPart part g.2).map (·.1)

/-- The producers of a group that remain are those of suspended descents (R328, R416). -/
def State.prodsSaved (s : State) (t : Thread) : Bool :=
  t.prods.all fun p => (s.cores.getD (s.coreOf t) {}).ops.any fun o => o.2.pid == some p.1

/-- A group has drained: its store buffer, posted stores, queries and results (R414, R416). -/
def State.drained (s : State) (t : Thread) : Bool :=
  t.pend.isEmpty && t.posted.isEmpty && t.queries.isEmpty && t.nmOut == 0 && s.prodsSaved t

/-- Operations that a save suspends; all others run to completion (R245, R328, R416). -/
def OpKind.suspends (k : OpKind) : Bool := k.isCopy || k == .desc || k == .dgrad

/-- An operation stands between its chunks, levels or rows: it has nothing ready that it has not written, but for adds that another
package has refused (R245, R328). -/
def EngOp.between (op : EngOp) : Bool := op.susp.isSome || op.out.isEmpty && op.fail.isNone

/-- An access in another package is one of an engine operation of some workgroups: it is answered before they are saved. -/
def State.opOf (s : State) (ids : List Nat) (o : Owner) : Bool :=
  match o with
  | .engine core ticket => (((s.cores.getD core {}).ops.get? ticket).map fun op => ids.contains op.wg).getD false
  | _ => false

/-- A partition can be saved: the steps 2 to 4 of R416 are done (R364, R416). -/
def State.maySave (s : State) (part : Nat) : Bool :=
  let ids := s.partWgs part
  (s.wgs.all fun g => !ids.contains g.1 || (s.launchOfWg g.2).hdr.preempt) &&
    (s.threads.all fun t => t.2.side == .cellar || !ids.contains t.2.wg || !t.2.hung && s.drained t.2) &&
    (s.cores.all fun c => c.2.ops.all fun o => !ids.contains o.2.wg || o.2.kind.suspends && o.2.between) &&
    (s.unitOps.all fun o => !ids.contains o.2.wg) && (s.gops.all fun o => !ids.contains o.2.wg) &&
    (s.nmAdds.all fun a => !ids.contains a.2.wg) && (s.aways.all fun a => !s.opOf ids a.2.owner) &&
    s.tasks.all fun k => k.2.left == 0 || match k.2.notify with
      | some (wg, _) => !ids.contains wg
      | none => true

/-! ### What is saved (R142, R165, R266, R380, R416) -/

/-- A group as it is saved: at its instruction, which it issues again when it resumes. -/
def Thread.saved (t : Thread) : Thread :=
  { t.forget with
    line := none
    enter := .resume
    since := (0, 0)
    seen := []
    seenPosted := []
    status := match t.status with
      | .exited => .exited
      | .halted => .halted
      | _ => .running }

/-- A pending token is saved as unit (R266). -/
def Token.saved : Token → Token
  | .pending _ => .unit
  | k => k

/-- A workgroup as it is saved. -/
def Wg.saved (g : Wg) : Wg :=
  { g with
    asked := false
    wanted := []
    hist := []
    tiles := g.tiles.map fun (k : Nat × Tile) => (k.1, { k.2 with token := k.2.token.saved }) }

/-- Every pinned scratchpad page goes to its backing region (R213, R416). -/
def State.unpinAll (s : State) (wg : Nat) : State :=
  match s.wgs.get? wg with
  | none => s
  | some g => g.pinned.foldl (fun s p => s.unpin wg p) s

/-- The context of a partition (R346, R416). -/
def State.contextOf (s : State) (part : Nat) : Ctx :=
  let dies := s.diesOf part
  let ids := s.partWgs part
  let ls : Tab Launch := s.launches.filter fun l => l.2.part == part
  let us : Tab Parlour := s.units.filter fun u => ls.any fun l => l.1 == u.2.launch
  { dies
    launches := ls.map fun (l : Nat × Launch) => (l.1, { l.2 with npre := satAdd 32 l.2.npre 1 })
    wgs := (s.wgs.filter fun g => ids.contains g.1).map fun (g : Nat × Wg) => (g.1, g.2.saved)
    units := us.map fun (u : Nat × Parlour) => (u.1, { u.2 with hist := [] })
    threads := (s.threads.filter fun t => t.2.side != .cellar && ids.contains t.2.wg).map fun (t : Nat × Thread) =>
      (t.1, t.2.saved)
    ops := s.cores.flatMap fun c => (c.2.ops.filter fun o => ids.contains o.2.wg).map fun o => (c.1, o.1, { o.2 with walkFaults := [] })
    rounds := (s.ordRounds.filter fun r => r.1 / 4096 == part).map fun (r : Nat × OrdRound) => (r.1 % 4096, r.2)
    dieData := dies.map fun d =>
      let x := s.dies.getD d {}
      { staged := x.staged, image := x.image, pantryPoison := x.pantryPoison, stagedPoison := x.stagedPoison
        part := x.part, reading := x.reading } }

/-- What is left of the state when a partition has been saved. -/
def State.without (s : State) (part : Nat) : State :=
  let dies := s.diesOf part
  let ids := s.partWgs part
  let ts := (s.threads.filter fun t => t.2.side != .cellar && ids.contains t.2.wg).map (·.1)
  let ls := (s.launches.filter fun l => l.2.part == part).map (·.1)
  { s with
    launches := s.launches.filter fun l => !ls.contains l.1
    wgs := s.wgs.filter fun g => !ids.contains g.1
    units := s.units.filter fun u => !ls.contains u.2.launch
    threads := s.threads.filter fun t => !ts.contains t.1
    aways := s.aways.filter fun a => match a.2.owner with
      | .thread k => !ts.contains k
      | _ => true
    ordRounds := s.ordRounds.filter fun r => r.1 / 4096 != part
    walks := s.walks.map fun (w : Walk) => { w with
      waiters := w.waiters.filter fun k => !ts.contains k
      ops := w.ops.filter fun o => !(((s.cores.getD o.1 {}).ops.get? o.2).any fun op => ids.contains op.wg) }
    cores := s.cores.map fun (c : Nat × Core) =>
      (c.1, { c.2 with
        ops := c.2.ops.filter fun o => !ids.contains o.2.wg
        rextQ := c.2.rextQ.filter fun k => !ts.contains k
        accQ := c.2.accQ.filter fun k => !ts.contains k })
    dies := s.dies.map fun (d : Nat × Die) =>
      if dies.contains d.1 then (d.1, { d.2 with part := [], reading := none, requests := [] }) else d }

/-- Event PREEMPT_SAVE_COMPLETE: steps 5 to 7 of R416, once 1 to 4 are done; BUSY clears. -/
def execPreemptSaveComplete (s : State) : Host.Outcome State Fault Refusal :=
  match s.preempt with
  | none => notEnabled
  | some (part, slot) =>
    if !s.maySave part ∨ (s.diesOf part).any s.lost then notEnabled
    else
      let s1 := (s.partWgs part).foldl State.unpinAll s
      .next ({ s1.without part with preempt := none, ctxs := s1.ctxs.put slot (s1.contextOf part) } : State).mark

/-! ### RESUME (R346, R417) -/

/-- The die that takes the place of an old die, by rank (R417). -/
def newDie (old new : List Nat) (d : Nat) : Nat := new.getD (old.idxOf d) d

/-- A launch on its new dies. -/
def Launch.moved (l : Launch) (part : Nat) (f : Nat → Nat) : Launch :=
  { l with part := part, onlyDie := l.onlyDie.map f, chunks := l.chunks.map fun c => (f c.1, c.2) }

/-- A saved core's number on its new die. -/
def movedCore (f : Nat → Nat) (key : Nat) : Nat := coreKey (f (key / 144)) (key % 144)

/-- Puts a die's saved data in place: its Pantry images and its part of the device-side queue (R346, R417). -/
def State.restoreDie (s : State) (d : Nat) (x : CtxDie) : State :=
  s.updDie d fun y =>
    { y with staged := x.staged, image := x.image, pantryPoison := x.pantryPoison
             stagedPoison := x.stagedPoison, part := x.part ++ y.part
             reading := x.reading }

/-- A saved round goes on under the handle of the new partition, with what has reached it there meanwhile (R307, R313). -/
def State.restoreRound (s : State) (part : Nat) (r : Nat × OrdRound) : State :=
  let k := handleKey part r.1
  let x := s.ordRound k
  let y : OrdRound :=
    { closes := r.2.closes + x.closes, announced := r.2.announced + x.announced, received := r.2.received + x.received
      held := r.2.held ++ x.held }
  { s with ordRounds := s.ordRounds.put k y }

/-- The state when a context has resumed in a partition (R417). -/
def State.restore (s : State) (slot part : Nat) (c : Ctx) : State :=
  let f := newDie c.dies (s.diesOf part)
  let wgs : Tab Wg := c.wgs.map fun (g : Nat × Wg) => (g.1, { g.2 with die := f g.2.die })
  let split (g : Wg) : Nat := (c.launches.getD g.launch .absent).hdr.split
  let s1 := { s with
    ctxs := s.ctxs.del slot
    launches := s.launches ++ c.launches.map fun (l : Nat × Launch) => (l.1, l.2.moved part f)
    wgs := s.wgs ++ wgs
    units := s.units ++ c.units.map fun (u : Nat × Parlour) => (u.1, { u.2 with die := f u.2.die })
    threads := s.threads ++ c.threads }
  let s2 := wgs.foldl (fun s g => s.updCore (coreKey g.2.die g.2.core) fun x =>
    { x with split := split g.2, marked := none, starved := false }) s1
  let s3 := c.ops.foldl (fun s o => s.updCore (movedCore f o.1) fun x => { x with ops := x.ops.put o.2.1 o.2.2 }) s2
  (c.dies.zip c.dieData).foldl (fun s d => s.restoreDie (f d.1) d.2) (c.rounds.foldl (fun s r => s.restoreRound part r) s3)

/-- Event HPRE_RESUME. A target that holds a workgroup or has another number of dies is refused (R417, log 48). -/
def execHpreResume (slot part : Nat) (s : State) : Host.Outcome State Fault Refusal :=
  if 4 ≤ part ∨ 256 ≤ slot then notEnabled
  else
    match s.ctxs.get? slot with
    | none => .next (s.hpreRefused true)
    | some c =>
      if s.preempt.isSome ∨ !(s.partWgs part).isEmpty ∨ c.dies.length ≠ (s.diesOf part).length then
        .next (s.hpreRefused true)
      else .next ((s.hpreRefused false).restore slot part c).mark

end Sys2Proof.Machine
end

