-- ==== Sys2Proof/Machine/Sha.lean ====
section
/-!
DEFINITION. SHA-384, with which measurement registers are extended (R431), by its public definition (log 38).
-/

namespace Sys2Proof.Machine

/-- The first 80 primes. -/
def shaPrimes : List Nat :=
  [2, 3, 5, 7, 11, 13, 17, 19, 23, 29, 31, 37, 41, 43, 47, 53, 59, 61, 67, 71, 73, 79, 83, 89, 97, 101, 103, 107, 109,
    113, 127, 131, 137, 139, 149, 151, 157, 163, 167, 173] ++
  [179, 181, 191, 193, 197, 199, 211, 223, 227, 229, 233, 239, 241, 251, 257, 263, 269, 271, 277, 281, 283, 293, 307,
    311, 313, 317, 331, 337, 347, 349, 353, 359, 367, 373, 379, 383, 389, 397, 401, 409]

/-- The largest number below 2^n whose k-th power is at most v. -/
def rootOf (k v : Nat) : Nat → Nat → Nat
  | 0, r => r
  | n + 1, r => rootOf k v n (if (r + 2 ^ n) ^ k ≤ v then r + 2 ^ n else r)

/-- The 64 bits after the point of a prime's k-th root. -/
def rootBits (k p : Nat) : W64 := BitVec.ofNat 64 (rootOf k (p * 2 ^ (64 * k)) 70 0)

/-- The round constants. -/
def shaK : List W64 := shaPrimes.map (rootBits 3)

/-- The initial value of SHA-384. -/
def shaInit : List W64 := ((shaPrimes.drop 8).take 8).map (rootBits 2)

/-- The message schedule, latest word first. -/
def shaSchedule (w : List W64) : Nat → List W64
  | 0 => w
  | n + 1 =>
    let w2 := w.getD 1 0
    let w15 := w.getD 14 0
    let s1 := w2.rotateRight 19 ^^^ w2.rotateRight 61 ^^^ (w2 >>> 6)
    let s0 := w15.rotateRight 1 ^^^ w15.rotateRight 8 ^^^ (w15 >>> 7)
    shaSchedule ((s1 + w.getD 6 0 + s0 + w.getD 15 0) :: w) n

/-- One round. -/
def shaRound (h : List W64) (kw : W64) : List W64 :=
  match h with
  | [a, b, c, d, e, f, g, x] =>
    let t1 := x + (e.rotateRight 14 ^^^ e.rotateRight 18 ^^^ e.rotateRight 41) + ((e &&& f) ^^^ (~~~e &&& g)) + kw
    let t2 := (a.rotateRight 28 ^^^ a.rotateRight 34 ^^^ a.rotateRight 39) + ((a &&& b) ^^^ (a &&& c) ^^^ (b &&& c))
    [t1 + t2, a, b, c, d + t1, e, f, g]
  | _ => h

/-- A big-endian number of some bytes. -/
def beNat (bs : List Byte) : Nat := bs.foldl (fun v b => v * 256 + b.toNat) 0

/-- The bytes of a number, most significant first. -/
def beBytes (v : Nat) : Nat → List Byte
  | 0 => []
  | n + 1 => beBytes (v / 256) n ++ [BitVec.ofNat 8 v]

/-- One 128-byte block. -/
def shaBlock (h : List W64) (b : List Byte) : List W64 :=
  let w0 := ((List.range 16).map fun i => BitVec.ofNat 64 (beNat ((b.drop (8 * i)).take 8))).reverse
  let ws := (shaSchedule w0 64).reverse
  let out := ((ws.zip shaK).map fun x => x.1 + x.2).foldl shaRound h
  (h.zip out).map fun x => x.1 + x.2

/-- Blocks of a padded message. -/
def shaBlocks (h : List W64) (bs : List Byte) : Nat → List W64
  | 0 => h
  | n + 1 => shaBlocks (shaBlock h (bs.take 128)) (bs.drop 128) n

/-- SHA-384 of a message; the digest's first byte is the most significant. -/
def sha384 (msg : List Byte) : BitVec 384 :=
  let n := msg.length
  let zeros := (128 - (n + 17) % 128) % 128
  let padded := msg ++ 0x80#8 :: List.replicate zeros 0 ++ beBytes (8 * n) 16
  let h := shaBlocks shaInit padded (padded.length / 128)
  BitVec.ofNat 384 ((h.take 6).foldl (fun v w => v * 2 ^ 64 + w.toNat) 0)

/-- Extends a measurement register: SHA-384(old ‖ new) (R431). -/
def shaExtend (old new : BitVec 384) : BitVec 384 := sha384 (beBytes old.toNat 48 ++ beBytes new.toNat 48)

end Sys2Proof.Machine
end

