-- ==== Sys2Proof/Machine/Security.lean ====
section
/-!
DEFINITION. Power (R437 to R439), boot and recovery (R434 to R436), lifecycle, debug sessions and attestation (R425 to
R433), and errors (R419, R420). What signatures and tokens verify to comes with the events (log 38).
-/

namespace Sys2Proof.Machine

/-! ### Measurements and debug sessions (R429 to R433) -/

/-- Extends a measurement register (R431). -/
def State.measure (s : State) (k : Nat) (x : BitVec 384) : State :=
  { s with measures := s.measures.set k (shaExtend (s.measures.get k) x) }

/-- A debug session ends (R431). -/
def State.endSession (s : State) (x : BitVec 384) : State := { s.measure 2 x with debug := 0, breaks := [] }

/-- A debug session begins (R431). -/
def State.beginSession (s : State) (level : Nat) (digest : BitVec 384) : State :=
  { s.measure 2 (Config.debugMeasure level digest) with debug := level, debugEntry := none, debugLanes := [], breaks := [] }

/-- A digest is one of the owners' that the MRAM holds (R427). -/
def State.ownerHeld (s : State) (key : BitVec 384) : Bool := s.mram.owners.contains key

/-- A token opens a level: it names this device, the level, a nonce that the device has issued and the present lifecycle state, and
both its signatures verify under an owner's keys (R426, R429). -/
def State.tokenOk (s : State) (level : Nat) (k : DebugToken) : Bool :=
  s.identity.any (fun i => Config.identityDigest i.p384 == k.identity) && k.level == level && s.nonces.contains k.nonce &&
    k.lifecycle == s.mram.lifecycle && k.ecdsa && k.lms && s.ownerHeld k.key

/-- A request may open a session: a level, no session, in ON or IDLE, and in OWNED and SEALED an owner's token (R429, R430,
R433). -/
def State.debugAllowed (s : State) (req : DebugReq) : Bool :=
  let l := s.mram.lifecycle
  decide (1 ≤ req.level ∧ req.level ≤ 2) && s.debug == 0 && (s.power == .on || s.power == .idle) &&
    (l == 0 || l == 3 || req.token.any (s.tokenOk req.level))

/-- The digest that a session's entry extends register 2 with: of its token, 0 for none (R431). -/
def sessionDigest (req : DebugReq) : BitVec 384 := (req.token.map (·.digest)).getD 0

/-- Lanes that are UP. -/
def State.upLanes (s : State) : List Nat := (s.lanes.filter fun l => l.2.state == 1).map (·.1)

/-- A SEALED D2 entry begins: every lane drains as by DMARK (R432). -/
def State.drainAll (s : State) (digest : BitVec 384) : State :=
  { s with
    lanes := s.lanes.map fun (l : Nat × Lane) => (l.1, l.2.drain s.pkg)
    debugEntry := some digest
    debugLanes := s.upLanes
    debugZeroised := false }

/-- No lane sends or drains any more. -/
def State.drainedAll (s : State) : Bool := s.lanes.vals.all fun l => l.state != 1 && l.state != 2

/-- A lane that the entry has drained goes to a package. -/
def State.drainedTo (s : State) (p : Nat) : Bool :=
  s.lanes.any fun l => s.debugLanes.contains l.1 && l.2.peer == p

/-- A lane that the entry has drained carries the KEY_EXCHANGE with its peer: the lowest of those that go there. -/
def State.exchangeLane (s : State) (lane : Nat) (l : Lane) : Bool :=
  s.debugLanes.contains lane && s.lanes.all fun x => !(s.debugLanes.contains x.1 && x.2.peer == l.peer && decide (x.1 < lane))

/-- Every lane has drained: both banks of every link are zeroised, and a KEY_EXCHANGE begins with each peer, in a key-control flit that
uses no bank (R280, R432). -/
def State.zeroise (s : State) : State :=
  { s with
    debugZeroised := true
    links := s.links.map fun (k : Nat × Link) => (k.1, ({ exchange := s.drainedTo k.1 } : Link))
    lanes := s.lanes.map fun (l : Nat × Lane) => (l.1, { l.2 with
      seq := 0, kg := false, rkg := false, rseq := 0, refused := 0
      control := if s.exchangeLane l.1 l.2 then
          l.2.control ++ [flitHeader l.2.peer s.pkg 0 (Config.freeNat s.free 0xF1170D % 225) false 0x0D]
        else l.2.control }) }

/-- The exchanges are done: each lane returns to UP (R432). -/
def State.lanesUp (s : State) : State :=
  ({ s with
    lanes := s.lanes.map fun (l : Nat × Lane) =>
      if s.debugLanes.contains l.1 && l.2.state == 3 then (l.1, { l.2 with state := 1 }) else l } : State).flushOut

/-! ### Power (R437, R438) -/

/-- HPWR after a write: its STATE, or REFUSED (R437). -/
def State.setPower (s : State) (p : Power) : State :=
  { s.setHr 0x500 (match p with
      | .idle => 4
      | .hold => 8
      | _ => 0) with power := p }

/-- HOLD may be entered: every queue is off, no workgroup is resident, no Cellar instance runs (R438). -/
def State.mayHold (s : State) : Bool :=
  s.queues.all (fun q => q.2.state == .off) && s.wgs.isEmpty && s.threads.all fun t => t.2.side != .cellar

/-- Entry to HOLD: it ends a debug session (R429, R431, R438). -/
def State.enterHold (s : State) : State :=
  let s1 := if s.debug = 0 then s else s.endSession (Config.debugMeasure 0 0)
  { s1.setPower .hold with tlb := [], walks := [] }

/-! ### Requests, one at a time (R425 to R433) -/

/-- A lifecycle request is accepted: it goes forward, both its signatures verify where its state asks for them, from OWNED on under an
owner's keys, and OWNED gets an owner (R426, R428, log 74). -/
def State.lifecycleOk (s : State) (req : LifeReq) : Bool :=
  let l := s.mram.lifecycle
  decide (l < req.goal ∧ req.goal ≤ 3) &&
    (req.ecdsa && req.lms && (l == 0 || s.ownerHeld req.key) || l == 0 && req.goal == 3) &&
    (req.goal != 1 || !req.owners.isEmpty) && decide (s.mram.owners.length + req.owners.length ≤ 4)

/-- A response on a port. -/
def State.respond (s : State) (port : Port) (r : Spdm) : State := { s with spdm := s.spdm ++ [(port == .b, r)] }

/-- The measurements, with both signatures, whose values are free (R426, R431, log 38). -/
def State.attested (s : State) : Spdm :=
  .measurements s.measures (Config.freeNat s.free 0xEC) (Config.freeNat s.free 0x15)

/-- A debug session is entered, or begins to be: in SEALED, D2 first drains every lane; a request that is not allowed is refused
(R429 to R433). -/
def State.enterDebug (s : State) (req : DebugReq) : State :=
  if !s.debugAllowed req then s
  else if s.mram.lifecycle = 2 ∧ req.level = 2 then s.drainAll (sessionDigest req)
  else s.beginSession req.level (sessionDigest req)

/-- A security request or a write of HPWR takes effect, or has none (R426 to R431, R433, R434, R437, R438). -/
def State.doReq (s : State) (r : SecReq) : State :=
  match r with
  | .on => s.setPower .on
  | .noEffect => s.powerRefused
  | .idle => if s.power = .hold then s.powerRefused else s.setPower .idle
  | .hold => if s.power = .hold then s.setPower .hold else if s.mayHold then s.enterHold else s.powerRefused
  | .lifecycle req => if s.lifecycleOk req then { s with mram := { s.mram with next := some (req.goal, req.owners) } } else s
  | .attest port => s.respond port (if s.identity.isSome then s.attested else .error)
  | .update ecdsa lms image =>
    if ecdsa ∧ lms ∧ fld (s.hr 0x508).toNat 4 4 ≠ 4 then { s with flash := { s.flash with image := image } } else s
  | .endSession meas => if s.debug = 0 then s else s.endSession meas
  | .debug req => s.enterDebug req

/-- A request is taken: it waits while a SEALED D2 entry runs (R433). -/
def State.takeReq (s : State) (r : SecReq) : Host.Outcome State Fault Refusal :=
  if s.power = .off then notEnabled
  else .next (if s.debugEntry.isSome then { s with secQueue := s.secQueue ++ [r] } else s.doReq r)

/-- The requests that have waited take their turns, until one begins an entry that the rest wait for (R433). -/
def State.takeTurns (s : State) : List SecReq → State
  | [] => s
  | r :: rs => if s.debugEntry.isSome then { s with secQueue := r :: rs } else (s.doReq r).takeTurns rs

/-- The entry is done: its session begins, and the requests that waited take their turns (R432, R433). -/
def State.entryDone (s : State) (digest : BitVec 384) : State :=
  ({ s.lanesUp.beginSession 2 digest with secQueue := [], debugZeroised := false } : State).takeTurns s.secQueue

/-- A SEALED D2 entry goes on: it zeroises the key banks once every lane has drained, and is done once the exchanges are (R432). -/
def entryStep (s : State) : Host.Outcome State Fault Refusal :=
  match s.debugEntry with
  | none => notEnabled
  | some d =>
    if !s.drainedAll then notEnabled
    else if !s.debugZeroised then .next s.zeroise
    else if s.links.vals.any (·.exchange) then notEnabled
    else .next (s.entryDone d)

/-- Event DEBUG_SESSION_ENTER: a request for a session takes its turn (R429 to R433). -/
def execDebugSessionEnter (req : DebugReq) (s : State) : Host.Outcome State Fault Refusal := s.takeReq (.debug req)

/-- Event DEBUG_SESSION_END (R429, R431). -/
def execDebugSessionEnd (_port : Port) (meas : BitVec 384) (s : State) : Host.Outcome State Fault Refusal :=
  if s.debug = 0 ∧ s.debugEntry.isNone then notEnabled else s.takeReq (.endSession meas)

/-- Event POWER_ON_REQUEST (R431, R437). -/
def execPowerOnRequest (s : State) : Host.Outcome State Fault Refusal := s.takeReq .on

/-- Event POWER_IDLE_REQUEST: from HOLD it has no effect, since no such transition is named (R431, R437, log 32). -/
def execPowerIdleRequest (s : State) : Host.Outcome State Fault Refusal := s.takeReq .idle

/-- Event POWER_HOLD_REQUEST (R429, R431, R433, R438). -/
def execPowerHoldRequest (s : State) : Host.Outcome State Fault Refusal := s.takeReq .hold

/-- Event LIFECYCLE_REQUEST: it is written to MRAM and takes effect at the next reset (R427, R428). -/
def execLifecycleRequest (req : LifeReq) (s : State) : Host.Outcome State Fault Refusal := s.takeReq (.lifecycle req)

/-- Event ATTESTATION_REQUEST: the measurements with both signatures, or an error where the part has no identity (R426,
R431, R434). -/
def execAttestationRequest (port : Port) (s : State) : Host.Outcome State Fault Refusal := s.takeReq (.attest port)

/-- Event SIGNED_UPDATE_REQUEST: firmware writes the image into flash only when both signatures, the ECDSA P-384 one and the
LMS one, verify (R426, R434). -/
def execSignedUpdateRequest (_port : Port) (verified : Bool × Bool) (image : List (BitVec 8)) (s : State) :
    Host.Outcome State Fault Refusal := s.takeReq (.update verified.1 verified.2 image)

/-! ### What a debug session may do (R429). The table has no event for it; the agenda names the uses of the debug port (log 40). -/

/-- D1 and D2 read the registers of a halted group. -/
def State.debugRegs (s : State) (tid : Nat) : Option Regs :=
  if s.debug = 0 then none
  else
    match s.threads.get? tid with
    | some t => if t.status = .halted then some t.regs else none
    | none => none

/-- The counters of a launch: INSTR, MCYC, EBYTES, NWG, NKILL and NPRE (R445). Which counters are meant is not stated (log 40). -/
def Launch.counters (l : Launch) : List Nat := [l.instr, l.mcyc, l.ebytes, l.nwg, l.nkill, l.npre]

/-- D1 and D2 read the counters of a launch. -/
def State.debugCounters (s : State) (id : Nat) : List Nat :=
  if s.debug = 0 then [] else ((s.launches.get? id).map (·.counters)).getD []

/-- A group is halted, as D2 may do; a breakpoint does it too. -/
def State.debugHalt (s : State) (tid : Nat) : State :=
  if s.debug = 2 then { s with threads := s.threads.upd tid fun t => { t.forget with status := .halted } } else s

/-- D2 writes the registers of a halted group. -/
def State.debugWrite (s : State) (tid : Nat) (r : Regs) : State :=
  if (s.debugRegs tid).isSome ∧ s.debug = 2 then { s with threads := s.threads.upd tid fun t => { t with regs := r } } else s
/-- D2 stores to memory. -/
def State.debugStore (s : State) (pa : Nat) (bs : List Byte) : State :=
  if s.debug = 2 ∧ s.physOk pa ∧ s.physOk (pa + bs.length - 1) then s.putPhys pa bs else s

/-- A use of the debug port: the device issues a nonce at any time; the rest asks for a session of its level (R429, log 40). What a
trace buffer holds is free. -/
def debugStep (op : DebugOp) (s : State) : Host.Outcome State Fault Refusal :=
  let n := Config.freeNat s.free 0x40CE
  match op with
  | .nonce port => .next ({ s with nonces := s.nonces ++ [n] }.respond port (.nonce n))
  | .regs port tid => when (s.debug != 0) (s.respond port (.regs (s.debugRegs tid)))
  | .counters port id => when (s.debug != 0) (s.respond port (.counters (s.debugCounters id)))
  | .trace port => when (s.debug != 0) (s.respond port (.trace n))
  | .halt tid => when (s.debug == 2) (s.debugHalt tid)
  | .write tid r => when (s.debug == 2) (s.debugWrite tid r)
  | .store pa bs => when (s.debug == 2) (s.debugStore pa bs)
  | .breakpoints at_ => when (s.debug == 2) { s with breaks := at_ }

/-! ### Power loss and the thermal trip (R427, R438, R439) -/

/-- Event POWER_LOSS: only the MRAM and flash remain, and the package's number, whose source
is not stated (R20, R427, R434, R438, log 2). -/
def execPowerLoss (s : State) : Host.Outcome State Fault Refusal :=
  .next { State.reset with
    agenda := s.agenda, free := s.free, nextId := s.nextId, pkg := s.pkg, mram := s.mram, flash := s.flash, power := .off }

/-- Event THERMTRIP: the pin is asserted and held until power is removed (R439). -/
def execThermtrip (s : State) : Host.Outcome State Fault Refusal :=
  if s.power = .off then notEnabled else .next { s with thermtrip := true }

/-! ### Boot and recovery (R434 to R436) -/

/-- STAGE of HBOOT (R435). -/
def State.stage (s : State) : Nat := fld (s.hr 0x508).toNat 4 4

/-- Sets HBOOT: VER, SRC, STAGE and CODE; LPGIB stays (R435). -/
def State.setBoot (s : State) (ver src stage code : Nat) : State :=
  s.setHr 0x508 (BitVec.ofNat 64 (ver % 2 ^ 32 * 2 ^ 32 + fld (s.hr 0x508).toNat 16 11 * 2 ^ 16 + src * 2 ^ 8 + stage * 2 ^ 4
    + code))

/-- An object's signatures: both of Roseg's, and in OWNED and SEALED both of an owner whose digest the MRAM holds too (R426,
R427, R434). -/
def signaturesOk (c : BootCheck) (m : Mram) : Bool :=
  c.ecdsa && c.lms && (m.lifecycle == 0 || m.lifecycle == 3 || c.ownerEcdsa && c.ownerLms && m.owners.contains c.ownerKey)

/-- The checks of an image, and its CODE: 0 where it passes (R434, R435, log 71). -/
def State.imageCode (s : State) (c : BootCheck) : Nat :=
  let l := s.mram.lifecycle
  if !c.readable then 1
  else if !signaturesOk c s.mram then 2
  else if (l = 0 ∨ l = 3) ∧ c.ownerBound then 4
  else if c.rollValue < (s.mram.counters.get (c.rollIndex % 64)).toNat then 3
  else 0

/-- The image starts: both objects are measured, and STAGE reads 3 (R431, R434). -/
def State.startImage (s : State) (c : BootCheck) (src : Nat) : State :=
  let s1 := s.measure 0 (sha384 c.bytes)
  let s2 := match s.trim with
    | some t => s1.measure 1 (sha384 t)
    | none => s1
  s2.setBoot c.version src 3 0

/-- A lifecycle request that was recorded takes effect; entry to SPENT erases owner digests and counters (R427, R431). -/
def Mram.atReset (m : Mram) : Mram :=
  match m.next with
  | none => m
  | some (dest, owners) =>
    if dest = 3 then { lifecycle := 3 }
    else { m with lifecycle := dest, owners := m.owners ++ owners, next := none }

/-- The device identity that the PUF gives; a SPENT part has none (R425, R431, R434). -/
def identityOf (lifecycle : Nat) : Option Identity :=
  if lifecycle = 3 then none else some { p384 := Config.pufKey, lmsSeed := Config.pufSeed }

/-- The state as reset leaves it, before the boot ROM reads the flash (R427, R431, R434). Memory reads as after power-on
(log 1); the package keeps its number, whose source is not stated (R20, log 2). -/
def State.afterReset (s : State) (boot : BootIn) : State :=
  let m := s.mram.atReset
  ({ State.reset with
    agenda := s.agenda
    free := s.free
    nextId := s.nextId
    pkg := s.pkg
    flash := s.flash
    thermtrip := s.thermtrip
    mram := m
    identity := identityOf m.lifecycle
    booting := some boot
    lpGib := boot.lpGib
    poolOn := boot.pool
    hostOn := (boot.hostA, boot.hostB) } : State).setHr 0x508 (BitVec.ofNat 64 (boot.lpGib % 2 ^ 11 * 2 ^ 16))

/-- What the boot ROM finds agrees with what module flash holds (R434). -/
def State.flashHolds (s : State) (boot : BootIn) : Bool :=
  (!boot.trim.readable || boot.trim.bytes == s.flash.trim) && (!boot.image.readable || boot.image.bytes == s.flash.image)

/-- Event DEVICE_RESET: reset, with the boot ROM about to work (R434, R435). -/
def execDeviceReset (boot : BootIn) (s : State) : Host.Outcome State Fault Refusal :=
  when (decide (boot.lpGib ≤ 1024) && s.flashHolds boot) (s.afterReset boot)

/-- The trim record and the image have been read and are checked: the image starts, or recovery begins (R434, R435). -/
def State.bootEnd (s : State) (b : BootIn) : State :=
  let s := { s with booting := none }
  if !b.image.readable then s.setBoot 0 0 4 1
  else if !signaturesOk b.trim s.mram then s.setBoot 0 0 4 2
  else
    let s2 := { s with trim := some b.trim.bytes }
    let code := s2.imageCode b.image
    if code = 0 then s2.startImage b.image 0 else s2.setBoot 0 0 4 code

/-- The boot ROM goes on: to the trim record, to the image, and to the checks of both (R434, R435). -/
def bootStep (s : State) : Host.Outcome State Fault Refusal :=
  match s.booting with
  | none => notEnabled
  | some b =>
    if s.stage = 0 then .next (s.setBoot 0 0 1 0)
    else if s.stage = 1 then
      .next (if b.trim.readable then s.setBoot 0 0 2 0 else ({ s with booting := none } : State).setBoot 0 0 4 1)
    else .next (s.bootEnd b)

/-- HRCV after a write or a check: BUSY, FAIL and LEN (R436). -/
def State.setRcv (s : State) (busy fail : Bool) (len : Nat) : State :=
  s.setHr 0x510 (BitVec.ofNat 64 (bit busy * 2 ^ 61 + bit fail * 2 ^ 60 + len))

/-- REFUSED of HRCV for a port (R436). -/
def State.setRcvRefused (s : State) (port : Port) (b : Bool) : State :=
  { s with rcvRefused := match port with
    | .a => (b, s.rcvRefused.2)
    | .b => (s.rcvRefused.1, b) }

/-- BUSY and FAIL of HRCV. -/
def State.rcvBusy (s : State) : Bool := tb (s.hr 0x510).toNat 61
def State.rcvFail (s : State) : Bool := tb (s.hr 0x510).toNat 60

/-- Event HRCV_GO: a write of HRCV (R434, R436). -/
def execHrcvGo (port : Port) (v : BitVec 64) (s : State) : Host.Outcome State Fault Refusal :=
  let len := fld v.toNat 0 29
  if s.stage ≠ 4 ∨ s.rcvBusy ∨ len = 0 ∨ 2 ^ 28 < len then .next (s.setRcvRefused port true)
  else
    let s1 := (s.setRcvRefused port false).setRcv (v.getLsbD 63) s.rcvFail len
    .next (if v.getLsbD 63 then
        s1.setBoot 0 (Port.num port) 4 (fld (s.hr 0x508).toNat 0 4)
      else s1)

/-- The bytes of a pushed image: the first LEN of the writing port's recovery window (R436). -/
def State.pushed (s : State) (src len : Nat) : List Byte :=
  Store.bytes (if src = 2 then s.windows.2 else s.windows.1) 0 len

/-- Event RECOVERY_CHECK_DONE: the pushed image passes and starts, or FAIL is set (R434, R436). -/
def execRecoveryCheckDone (verdict : BootCheck) (s : State) : Host.Outcome State Fault Refusal :=
  let len := fld (s.hr 0x510).toNat 0 29
  let src := fld (s.hr 0x508).toNat 8 2
  if !s.rcvBusy ∨ verdict.bytes ≠ s.pushed src len ∨ !verdict.readable then notEnabled
  else
    let code := s.imageCode verdict
    .next (if code = 0 then (s.setRcv false false len).startImage verdict src
      else (s.setRcv false true len).setBoot 0 src 4 code)

/-! ### Errors (R419, R420) -/

/-- The record of an error in a lane slice or a stack. -/
def State.laneErr (s : State) (tid : Nat) (r : AshRec) : AshRec :=
  let g := s.wgs.getD ((s.threads.get? tid).map (·.wg) |>.getD 0) .absent
  { r with info := 2, die := g.die, core := g.core, part := (s.launchOfWg g).part }

/-- Where an error is reported (R422, R423): INFO, die, stack, address. -/
def State.errRec (s : State) (at_ : ErrAt) (r : AshRec) : AshRec :=
  match at_ with
  | .mem loc pa => { r with info := loc, die := (homeDie pa).getD 0, stack := (stackOf pa).getD 0xF, addr := pa }
  | .scratch wg _ =>
    let g := s.wgs.getD wg .absent
    { r with info := 2, die := g.die, core := g.core, part := (s.launchOfWg g).part }
  | .parlour u _ =>
    let x := s.units.getD u .absent
    { r with info := 2, die := x.die, part := (s.launches.getD x.launch .absent).part }
  | .attic wg _ =>
    let g := s.wgs.getD wg .absent
    { r with info := 2, die := g.die, part := (s.launchOfWg g).part }
  | .slice tid _ _ => s.laneErr tid r
  | .stack tid _ _ => s.laneErr tid r
  | .pantry die _ => { r with die := die, part := s.partOfDie die }
  | .staged die _ => { r with die := die, part := s.partOfDie die }
  | .regs die core => { r with info := 3, die := die, core := core, part := s.partOfDie die }

/-- Data that cannot be corrected is poisoned at its home (R419, R340). What an error in a register does beyond its
record is not stated (log 49). -/
def State.strike (s : State) : ErrAt → State
  | .mem _ pa => { s with poison := (pa / 128) :: s.poison.filter (· != pa / 128) }
  | .scratch wg o => s.updWg wg fun g => { g with scrPoison := (o / 128) :: g.scrPoison.filter (· != o / 128) }
  | .parlour u o =>
    { s with units := s.units.upd u fun x => { x with poison := (o / 128) :: x.poison.filter (· != o / 128) } }
  | .attic wg o => s.updWg wg fun g => { g with atticPoison := (o / 128) :: g.atticPoison.filter (· != o / 128) }
  | .slice tid i o =>
    let k := (512 * i + o) / 128
    { s with threads := s.threads.upd tid fun t => { t with slicePoison := k :: t.slicePoison.filter (· != k) } }
  | .stack tid i o =>
    let k := (4096 * i + o) / 128
    { s with threads := s.threads.upd tid fun t => { t with stackPoison := k :: t.stackPoison.filter (· != k) } }
  | .staged die o => s.updDie die fun d => { d with stagedPoison := (o / 128) :: d.stagedPoison.filter (· != o / 128) }
  | .pantry die o => s.updDie die fun d => { d with pantryPoison := (o / 128) :: d.pantryPoison.filter (· != o / 128) }
  | .regs .. => s

/-- An error strikes storage that exists. -/
def State.errOk (s : State) : ErrAt → Bool
  | .mem loc pa => s.physOk pa && (loc == 0 || loc == 1 || loc == 4)
  | .scratch wg o => match s.wgs.get? wg with
    | some g => decide (o < scrLimit (s.launchOfWg g).hdr g)
    | none => false
  | .parlour u _ => (s.units.get? u).isSome
  | .attic wg o => (s.wgs.get? wg).any fun g => g.full && decide (o < (s.launchOfWg g).hdr.fatt * 65536)
  | .slice tid i o => (s.threads.get? tid).any fun t => decide (t.side = .wide ∧ i < t.width ∧ o < (s.hdrOf t).flane * 16)
  | .stack tid i o => (s.threads.get? tid).any fun t => decide (t.side ≠ .cellar ∧ i < t.width ∧ o < (s.hdrOf t).kstk * 16)
  | .pantry die o => s.pantryOk die o 1
  | .staged die o => s.pantryOk die o 1
  | .regs die core => decide (die < 4 ∧ core < 144)

/-- Event SOFT_ERROR (R419, R423). -/
def execSoftError (err : SoftErr) (s : State) : Host.Outcome State Fault Refusal :=
  if !s.errOk err.at_ then notEnabled
  else if err.corrected then .next (s.post (s.errRec err.at_ { code := 0x0A, sev := 1 }))
  else .next ((s.strike err.at_).post (s.errRec err.at_ { code := 0x0B, sev := 2 }))

/-- Event DIE_LOST: the die stays lost until reset (R420). -/
def execDieLost (die : Nat) (s : State) : Host.Outcome State Fault Refusal :=
  if 4 ≤ die ∨ s.lost die then notEnabled
  else .next ((s.updDie die fun d => { d with lost := true }).post { code := 0x0C, die := die, part := s.partOfDie die, sev := 3 })

end Sys2Proof.Machine
end

