-- ==== Sys2Proof/Machine/Moves.lean ====
section
/-!
DEFINITION. What the package itself may do next, for the free pick of a step whose agenda is empty (log 4).
-/

namespace Sys2Proof.Machine

/-- What a thread may do next: fetch a line or issue, leave a block, have a producer or a posted store complete. -/
def threadMoves (s : State) : List Move :=
  s.threads.flatMap fun e =>
    (if e.2.line.isNone && e.2.dueNow.isNone then [.event (.lineFetch e.1 (BitVec.ofNat 512 (Config.freeNat s.free e.1)))]
      else if s.takesSlot e.2 then [.issue e.1] else []) ++
    [.buffer e.1, .event (.waitphWake e.1), .event (.waitphTimeout e.1), .event (.dwacqWake e.1), .event (.postedStoreDrain e.1)] ++
    (e.2.prods.flatMap fun p => [.event (.loadComplete e.1 p.1), .event (.queryComplete e.1 p.1)]) ++
    s.failMoves e.1 e.2

/-- What may happen to a workgroup. -/
def wgMoves (s : State) : List Move :=
  s.wgs.flatMap fun g =>
    [.event (.allocFullGrant g.1), .event (.workgroupRetire g.1)] ++
    ((List.range 4).map fun k => .event (.accTokenGrant g.1 k)) ++
    (List.range (scrLimit (s.launchOfWg g.2).hdr g.2 / 16384 + 1)).map fun p => .event (.scratchpadPageRefill g.1 p)

/-- The parts of an operation that may be done one by one: chunks, a level, rows or the sending of a close. -/
def EngOp.parts (op : EngOp) : Nat := max 1 (max op.chunks op.gradRows.length)

/-- What may happen to an engine operation of a core. The unit that it reads early is free. -/
def opMoves (s : State) (core ticket : Nat) (op : EngOp) : List Move :=
  [.unit core ticket (Config.freeNat s.free ticket), .event (.copyComplete core ticket), .event (.copySuspend core ticket), .event (.gatherComplete core ticket),
    .event (.descComplete core ticket), .event (.descSuspend core ticket), .event (.dgradComplete core ticket)] ++
  ((List.range op.parts).map fun k => .chunk core ticket k) ++
  (if op.kind.isGather then [.chunk core ticket (Config.freeNat s.free (ticket + 16))] else []) ++
  (List.range op.out.length).map fun k => .elem core ticket k

/-- What may happen on a core. -/
def coreMoves (s : State) : List Move :=
  s.cores.flatMap fun c =>
    [.unitWord c.1 (Config.freeNat s.free c.1), .unitElem c.1 (Config.freeNat s.free c.1 % 8256), .event (.rextGrant c.1), .event (.unitOpStart c.1), .event (.unitOpComplete c.1), .event (.splitChange c.1)] ++
    c.2.ops.flatMap fun o => opMoves s c.1 o.1 o.2

/-- What may happen at the homes of rows and in the Cellar. -/
def homeMoves (s : State) : List Move :=
  (s.nmAdds.map fun a => .event (.rednmApply a.1)) ++
  (s.gworks.flatMap fun w => [.event (.gatherRowService w.1), .event (.scatterAddApply w.1)]) ++
  (s.cunits.map fun u => .event (.instanceStart u.1)) ++
  (s.threads.flatMap fun e =>
    if e.2.side = .cellar then [.event (.bankReservationExpiry e.2.cunit), .event (.cellarCommandAged e.2.cunit)] else [])

/-- What the Hearth may do with its queues. -/
def queueMoves (s : State) : List Move :=
  ((List.range 64).map fun k => .event (.queueSlotGrant k)) ++
  (s.queues.flatMap fun q =>
    [.event (.ageIntervalExpiry q.1), .event (.quantumExpiry q.1), .event (.launchAdmission (.queue q.1)),
      .event (.waitEntry (.queue q.1)), .event (.waitEntryPass q.1), .event (.copyCommand q.1),
      .event (.cellarTaskRead (.queue q.1))]) ++
  s.copycmds.flatMap fun c =>
    [.event (.copyCommandComplete c.1), .cmdUnit c.1 (Config.freeNat s.free c.1)] ++
    ((List.range (spanChunks c.2.dst c.2.len)).map fun k => .command c.1 k) ++
    (List.range c.2.out.length).map fun k => .cmdElem c.1 k

/-- What the Hearth and the dispatchers may do with launches. -/
def launchMoves (s : State) : List Move :=
  (s.launches.map fun l => .event (.launchComplete l.1)) ++
  ((List.range 4).flatMap fun d =>
    [.event (.launchAdmission (.device d)), .event (.cellarTaskRead (.cqsub d)), .event (.workgroupDispatch d),
      .event (.damperExchange d)] ++ (List.range 36).map fun c => .event (.workRequest d c)) ++
  [.event .preemptSaveComplete, .entry]

/-- What the walkers, the Porch and the demotion engines may do. -/
def memoryMoves (s : State) : List Move :=
  (s.walks.flatMap fun w => [.walkRead w.part w.page, .event (.pageWalkComplete w.part w.page)]) ++
  (s.tlb.filterMap fun e => if e.core.isNone then some (.l1Fill (144 * e.die + Config.freeNat s.free e.page % 144) e.page) else none) ++
  ((List.range s.hearthDue.length).map fun k => .due k) ++
  ((List.range 4).map fun p => .event (.htlbiComplete p)) ++
  ((List.range 4).flatMap fun t =>
    [.event (.demotionStart t (Config.freeNat s.free t)), .event (.demotionPageMove t (Config.freeNat s.free t))]) ++
  ((List.range s.porchIn.length).map fun k => .porch k) ++
  ((List.range s.porchOwn.length).map fun k => .arrive k) ++
  ((List.range s.trackers.length).flatMap fun k =>
    (List.range ((s.trackers[k]?.map fun x => x.out.length).getD 0)).map fun j => .rowUnit k j) ++
  s.awayMoves

/-- Everything the package itself may do next, enabled or not; nothing while it has no power (R438). -/
def State.candidates (s : State) : List Move :=
  if s.power = .off then []
  else if s.booting.isSome then [.boot]
  else
    threadMoves s ++ wgMoves s ++ coreMoves s ++ homeMoves s ++ queueMoves s ++ launchMoves s ++ memoryMoves s

/-- A move that the agenda may name: an event, not an encoded instruction, which only a thread issues; with power off, a
reset is all that can happen (R438). -/
def State.mayDo (s : State) : Move → Bool
  | .event i => (encode i).isNone && (s.power != .off || isReset i)
  | _ => s.power != .off
where
  /-- The event DEVICE_RESET. -/
  isReset : Instr → Bool
    | .deviceReset _ => true
    | _ => false

end Sys2Proof.Machine
end

