-- ==== Sys2Proof/Machine/Pantry.lean ====
section
/-!
DEFINITION. The Pantry: the table directory (R337, R338), the queries TQL, TQL2 and TQMUL (R339 to R343), and TQCMT (R344).
-/

namespace Sys2Proof.Machine

/-! ### Tables -/

/-- A directory entry (R337). -/
structure TableDef where
  base : Nat
  log2n : Nat
  esz : Nat
  kind : Nat

/-- The table of a number in the committed image, where it is valid (R337, R338). -/
def State.tableDef (s : State) (die t : Nat) : Option TableDef :=
  let w := (s.dies.getD die {}).image.getNat (pantryDir + 16 * t) 8
  let d : TableDef := { base := fld w 32 32, log2n := fld w 8 5, esz := fld w 4 2, kind := fld w 1 3 }
  if tb w 0 && decide (8 ≤ d.log2n ∧ d.log2n ≤ 16 ∧ d.esz ≤ 2 ∧ d.kind ≤ 4) &&
      (if d.kind = 2 ∨ d.kind = 3 then d.esz == 1 else if d.kind = 4 then d.esz == 2 else true) &&
      d.base % 256 == 0 && decide (d.base + 2 ^ d.log2n * 2 ^ d.esz ≤ s.pantryBytes die) then some d else none

/-- Bits of an entry. -/
def TableDef.bits (d : TableDef) : Nat := 8 * 2 ^ d.esz

/-- An entry of a table; none when it is uncorrectable in all three stacks (R337, R340). -/
def State.tableEntry (s : State) (die : Nat) (d : TableDef) (e : Nat) : Option Nat :=
  let a := d.base + e * 2 ^ d.esz
  let x := s.dies.getD die {}
  if x.pantryPoison.contains (a / 128) then none else some (x.image.getNat a (2 ^ d.esz))

/-- The value of an entry by its kind (R342). -/
def TableDef.value (d : TableDef) (v : Nat) : Fp :=
  match d.kind with
  | 0 => .fin false v 0
  | 1 => .fin (decide (sInt d.bits v < 0)) (sInt d.bits v).natAbs 0
  | 2 => F16.dec v
  | 3 => BF16.dec v
  | _ => F32.dec v

/-- A finite value as a term times k / 2^b, negated or not. -/
def scaledTerm (x : Fp) (k b : Nat) (neg : Bool) : List (Bool × Nat × Int) :=
  match x with
  | .fin n m e => [(n != neg, m * k, e - b)]
  | _ => []

/-- Interpolation between two entries at the fraction k / 2^b (R342). -/
def interpolate (x y : Fp) (k b : Nat) : Nat :=
  if x.isNan ∨ (k ≠ 0 ∧ y.isNan) then F32.canonical
  else if k = 0 then (F32.conv {} x).1
  else if x.isInf ∧ y.isInf ∧ x.sign ≠ y.sign then F32.canonical
  else if x.isInf then (F32.infinity {} x.sign).1
  else if y.isInf then (F32.infinity {} y.sign).1
  else (F32.roundSum {} (scaledTerm x 1 0 false ++ scaledTerm y k b false ++ scaledTerm x k b true)).1

/-! ### What a query finds -/

/-- A lane's result, or the entries that fail it: none where its index is out of range or the table is not valid. -/
abbrev Lookup := Except (List Nat) Nat

/-- Reads an entry for a lane. -/
def State.entryFor (s : State) (die : Nat) (d : TableDef) (e : Nat) : Lookup :=
  match s.tableEntry die d e with
  | some v => .ok v
  | none => .error [e]

/-- Two lookups of one lane, both made: it fails with every entry that fails (R340). -/
def both (f : Nat → Nat → Nat) : Lookup → Lookup → Lookup
  | .ok a, .ok b => .ok (f a b)
  | .ok _, .error e => .error e
  | .error e, .ok _ => .error e
  | .error a, .error b => .error (a ++ b)

/-- A lane of TQL (R341). -/
def State.lookTql (s : State) (die : Nat) (d : TableDef) (x : Nat) : Lookup := do
  if 2 ^ d.log2n ≤ x then .error []
  else
    let v ← s.entryFor die d x
    .ok (extend (d.kind == 1) d.bits 32 v)

/-- A lane of TQL2 with `fb` fraction bits; the last entry stands for every fraction (R342). -/
def State.lookTql2 (s : State) (die : Nat) (d : TableDef) (fb x : Nat) : Lookup :=
  let i := x / 2 ^ fb
  let k := if i + 1 < 2 ^ d.log2n then x % 2 ^ fb else 0
  if 2 ^ d.log2n ≤ i then .error []
  else
    both (fun v0 v1 => interpolate (d.value v0) (d.value v1) k fb) (s.entryFor die d i)
      (if k = 0 then .ok 0 else s.entryFor die d (i + 1))

/-- A lane of TQMUL with code width `c`: the entries of its pairs, packed (R343). -/
def State.lookPairs (s : State) (die : Nat) (d : TableDef) (c a b : Nat) : Nat → Lookup
  | 0 => .ok 0
  | j + 1 =>
    both (fun rest v => rest + v * 2 ^ (d.bits * j)) (s.lookPairs die d c a b j)
      (s.entryFor die d (fld a (c * j) c * 2 ^ c + fld b (c * j) c))

/-- A lane of a query (R340 to R343). -/
def State.lookLane (s : State) (die : Nat) (q : Query) (i : Nat) : Lookup :=
  match s.tableDef die (q.xt % 256) with
  | none => .error []
  | some d =>
    let a := q.a.getD i 0
    match q.op with
    | 0 => s.lookTql die d a
    | 1 => s.lookTql2 die d (fld q.xt 8 4) a
    | _ => s.lookPairs die d (2 + fld q.xt 8 2) a (q.b.getD i 0) (4 / 2 ^ d.esz)

/-- The entries that a lane's lookup found uncorrectable. -/
def failsOf : Lookup → List Nat
  | .ok _ => []
  | .error es => es

/-- The records of uncorrectable entries, one for each (R340, R423, log 63). -/
def State.pantryRecords (s : State) (t : Thread) (table : Nat) (es : List Nat) : State :=
  es.foldl (fun s e => s.post (s.ashOf t { code := 0x11, sev := 2, info := table + e * 256 })) s

/-! ### The instructions -/

/-- Issues a query (R339, R340). With EM zero it sends nothing and clears the report mask. -/
def queryIssue (f : Eng) (s : State) (op : Nat) (two : Bool) : Host.Outcome State Fault Refusal :=
  run s fun t => do
    t.quiet
    t.canWrite f.dst.toNat 1
    t.canRead f.a 1
    if two then t.canRead f.b 1 else .ok ⟨⟩
    let report := f.c.reg.toNat
    if t.active.isEmpty then done s (t.setMask report 0)
    else
      let q : Query := { op := op, xt := f.xt.toNat, a := (List.range 64).map (t.opnd f.a 1 32)
                         b := if two then (List.range 64).map (t.opnd f.b 1 32) else [], report := report }
      let pid := s.nextId
      let p := s.produce t { toG := false, reg := f.dst.toNat, n := 1, lanes := t.regs.em, vals := [], waiting := 0
                             ready := false, slot := none }
      done p.1 { p.2 with queries := p.2.queries.put pid q }

/-- TQL (R339 to R341). -/
def execTql (f : Eng) (s : State) : Host.Outcome State Fault Refusal := queryIssue f s 0 false
/-- TQL2 (R339, R340, R342). -/
def execTql2 (f : Eng) (s : State) : Host.Outcome State Fault Refusal := queryIssue f s 1 false
/-- TQMUL (R339, R340, R343). -/
def execTqmul (f : Eng) (s : State) : Host.Outcome State Fault Refusal := queryIssue f s 2 true

/-- Sets a report mask where the group's registers stand, and in its checkpoints. -/
def Thread.report (t : Thread) (k : Nat) (m : BitVec 64) : Thread :=
  let f (r : Regs) : Regs := { r with m := r.m.set k m }
  { t with regs := f t.regs, pend := t.pend.map (Pend.mapRegs f) }

/-- Event QUERY_COMPLETE: a query reads the committed image in one step, and writes its lanes and its report mask (R340). -/
def execQueryComplete (tid pid : Nat) (s : State) : Host.Outcome State Fault Refusal :=
  match s.threads.get? tid with
  | none => notEnabled
  | some t =>
    match t.queries.get? pid, t.prods.get? pid with
    | some q, some p =>
      let die := s.dieOf t
      if s.lost die then notEnabled
      else
        let ls := (List.range 64).filter fun i => p.lanes.getLsbD i
        let rs := ls.map fun i => (i, s.lookLane die q i)
        let bad := laneMask ((rs.filter fun r => match r.2 with
          | .ok _ => false
          | .error _ => true).map (·.1))
        let vals := rs.map fun r => (r.1, match r.2 with
          | .ok v => v
          | .error _ => 0)
        let s' := s.pantryRecords t (q.xt % 256) (rs.flatMap fun r => failsOf r.2).eraseDups
        let t' := { t with queries := t.queries.del pid }.report q.report bad
        .next (s'.putThread tid (t'.complete pid { p with vals := valsOf 1 vals }))
    | _, _ => notEnabled

/-- TQCMT: the staged image becomes the committed one, with the poison of its lines (R344, R419). -/
def execTqcmt (_ : Eng) (s : State) : Host.Outcome State Fault Refusal :=
  run s fun t => do
    t.quiet
    done (s.updDie (s.dieOf t) fun d => { d with image := d.staged, pantryPoison := d.stagedPoison }) t

end Sys2Proof.Machine
end

