-- ==== Sys2Proof/Machine/Scalar.lean ====
section
/-!
DEFINITION. The MCC scalar class 0xC0 to 0xC6 (R177 to R179).
-/

namespace Sys2Proof.Machine

/-- An S register. -/
def Thread.sreg (t : Thread) (r : BitVec 5) : W64 := t.regs.s.get r.toNat

/-- Writes an S register. -/
def Thread.putS (t : Thread) (r : BitVec 5) (v : W64) : Thread := { t with regs := t.regs.writeS r.toNat v }

/-- The operation of SALU and SALUI by FN (R122, R177). -/
def saluOp (fn : Nat) (a b : W64) : W64 :=
  match fn with
  | 0 => a + b
  | 1 => a - b
  | 2 => a * b
  | 3 => a &&& b
  | 4 => a ||| b
  | 5 => a ^^^ b
  | 6 => if b.toNat < 64 then a <<< b.toNat else 0
  | 7 => if b.toNat < 64 then a >>> b.toNat else 0
  | 8 => a.sshiftRight (min b.toNat 63)
  | 9 => if b.toInt < a.toInt then b else a
  | 0xA => if a.toInt < b.toInt then b else a
  | 0xB => if b.toNat < a.toNat then b else a
  | _ => if a.toNat < b.toNat then b else a

/-- IMM, sign-extended (R177). -/
def sclImm (f : Scl) : W64 := f.imm.signExtend 64

/-- SALU (R177). -/
def execSalu (f : Scl) (s : State) : Host.Outcome State Fault Refusal :=
  run s fun t => done s (t.putS f.sd (saluOp f.fn.toNat (t.sreg f.s1) (t.sreg f.s2)))

/-- SALUI (R177). -/
def execSalui (f : Scl) (s : State) : Host.Outcome State Fault Refusal :=
  run s fun t => done s (t.putS f.sd (saluOp f.fn.toNat (t.sreg f.s1) (sclImm f)))

/-- The comparison of SCMP by FN (R122, R178). -/
def scmpOp (fn : Nat) (a b : W64) : Bool :=
  match fn with
  | 0 => a == b
  | 1 => a != b
  | 2 => decide (a.toInt < b.toInt)
  | 3 => decide (a.toInt ≤ b.toInt)
  | 4 => decide (b.toInt < a.toInt)
  | 5 => decide (b.toInt ≤ a.toInt)
  | 6 => decide (a.toNat < b.toNat)
  | 7 => decide (a.toNat ≤ b.toNat)
  | 8 => decide (b.toNat < a.toNat)
  | _ => decide (b.toNat ≤ a.toNat)

/-- SCMP (R178). -/
def execScmp (f : Scl) (s : State) : Host.Outcome State Fault Refusal :=
  run s fun t =>
    let a := t.sreg f.s1
    let b := t.sreg f.s2
    let r := scmpOp f.fn.toNat a b
    done s ((t.putS f.sd (BitVec.ofNat 64 (bit r))).setCC
      { t := r, z := a == b, n := decide (a.toInt < b.toInt), c := decide (b.toNat ≤ a.toNat) })

/-- SLI (R122, R177). -/
def execSli (f : Scl) (s : State) : Host.Outcome State Fault Refusal :=
  run s fun t =>
    let v := if f.fn = 0 then sclImm f else f.imm ++ (t.sreg f.sd).extractLsb' 0 32
    done s (t.putS f.sd v)

/-- Bytes of an SLD or SST (R122). -/
def sclBytes (fn : Nat) : Nat := 2 ^ (fn % 4)

/-- The address of an SLD or SST (R179). -/
def Thread.sclAddr (t : Thread) (f : Scl) : Nat := (t.sreg f.s1 + sclImm f).toNat

/-- The checked place of an SLD or SST (R179). -/
def State.sclPlace (s : State) (t : Thread) (acc : Acc) (va n : Nat) : Except Ev Place := do
  let r := if va % n = 0 ∧ ([Aperture.lane, .pantry].contains (aperture va).1) then holeRes acc
    else s.resolve t acc 0 va n
  let ps ← judge true [(0, va, r)]
  if t.busy then .error .stall
  else if s.anyWaits t n ps then .error (s.held t n (ps.map (·.2.2)))
  else
    match ps with
    | (_, _, p) :: _ => .ok p
    | [] => .error .stall

/-- SLD (R179, R399). -/
def execSld (f : Scl) (s : State) : Host.Outcome State Fault Refusal :=
  run s fun t => do
    let n := sclBytes f.fn.toNat
    let p ← s.sclPlace t .load (t.sclAddr f) n
    let fin (s : State) (t : Thread) (bs : List Byte) : Except Ev (State × Thread) :=
      done s (t.putS f.sd (BitVec.ofNat 64 (loadVal (decide (3 < f.fn.toNat)) (8 * n) 64 bs)))
    match p.windowed with
    | some (parlour, o) =>
      let r := s.windowBytes t parlour o (s.windowTime t parlour o n) n
      fin s r.2 r.1
    | none =>
      let r ← s.loadHeard t n [(0, t.sclAddr f, p)]
      fin r.2.1 r.2.2 r.1.flatten

/-- SST: to the scratchpad and the parlour it is posted (R179, R399). -/
def execSst (f : Scl) (s : State) : Host.Outcome State Fault Refusal :=
  run s fun t => do
    let n := sclBytes f.fn.toNat
    let p ← s.sclPlace t .store (t.sclAddr f) n
    let bs := toBytes (t.sreg f.s2).toNat n
    if p.windowed.isSome then done s { t with posted := t.posted ++ [(p, bs)] }
    else
      let r ← s.storeAll t 1024 n [(0, t.sclAddr f, p, bs)]
      done r.1 r.2

/-- SRDSR (R158, R159, R177). -/
def execSrdsr (f : Scl) (s : State) : Host.Outcome State Fault Refusal :=
  run s fun t =>
    let n := f.imm.toNat % 256
    if supervisorSr n && !t.handler then .error (illegal 0)
    else if !srKnown .mcc n then .error rsv
    else done s (t.putS f.sd (BitVec.ofNat 64 (s.special t n 0)))

end Sys2Proof.Machine
end

