-- ==== Sys2Proof/Machine/Dispatch.lean ====
section
/-!
DEFINITION. One arm per constructor of Instr, each a direct call of that instruction's or event's meaning.
-/

namespace Sys2Proof.Machine

def exec (i : Instr) (s : State) : Host.Outcome State Fault Refusal :=
  match i with
  | .nop f => Sys2Proof.Machine.execNop f s
  | .br f => Sys2Proof.Machine.execBr f s
  | .brc f => Sys2Proof.Machine.execBrc f s
  | .brm f => Sys2Proof.Machine.execBrm f s
  | .brmEm f => Sys2Proof.Machine.execBrmEm f s
  | .call f => Sys2Proof.Machine.execCall f s
  | .ret f => Sys2Proof.Machine.execRet f s
  | .loop f => Sys2Proof.Machine.execLoop f s
  | .exit f => Sys2Proof.Machine.execExit f s
  | .yield f => Sys2Proof.Machine.execYield f s
  | .trap f => Sys2Proof.Machine.execTrap f s
  | .svc f => Sys2Proof.Machine.execSvc f s
  | .sret f => Sys2Proof.Machine.execSret f s
  | .rdsr f => Sys2Proof.Machine.execRdsr f s
  | .wrsr f => Sys2Proof.Machine.execWrsr f s
  | .launch f => Sys2Proof.Machine.execLaunch f s
  | .allocFull f => Sys2Proof.Machine.execAllocFull f s
  | .allocRext f => Sys2Proof.Machine.execAllocRext f s
  | .allocRrel f => Sys2Proof.Machine.execAllocRrel f s
  | .iadd f => Sys2Proof.Machine.execIadd f s
  | .isub f => Sys2Proof.Machine.execIsub f s
  | .imul f => Sys2Proof.Machine.execImul f s
  | .imulh f => Sys2Proof.Machine.execImulh f s
  | .imad f => Sys2Proof.Machine.execImad f s
  | .imadw f => Sys2Proof.Machine.execImadw f s
  | .idiv f => Sys2Proof.Machine.execIdiv f s
  | .irem f => Sys2Proof.Machine.execIrem f s
  | .imin f => Sys2Proof.Machine.execImin f s
  | .imax f => Sys2Proof.Machine.execImax f s
  | .iabs f => Sys2Proof.Machine.execIabs f s
  | .ineg f => Sys2Proof.Machine.execIneg f s
  | .and f => Sys2Proof.Machine.execAnd f s
  | .or f => Sys2Proof.Machine.execOr f s
  | .xor f => Sys2Proof.Machine.execXor f s
  | .andn f => Sys2Proof.Machine.execAndn f s
  | .shl f => Sys2Proof.Machine.execShl f s
  | .shr f => Sys2Proof.Machine.execShr f s
  | .sar f => Sys2Proof.Machine.execSar f s
  | .rot f => Sys2Proof.Machine.execRot f s
  | .popc f => Sys2Proof.Machine.execPopc f s
  | .clz f => Sys2Proof.Machine.execClz f s
  | .brev f => Sys2Proof.Machine.execBrev f s
  | .bfx f => Sys2Proof.Machine.execBfx f s
  | .bfi f => Sys2Proof.Machine.execBfi f s
  | .icmp f => Sys2Proof.Machine.execIcmp f s
  | .sel f => Sys2Proof.Machine.execSel f s
  | .mov f => Sys2Proof.Machine.execMov f s
  | .movi f => Sys2Proof.Machine.execMovi f s
  | .lea f => Sys2Proof.Machine.execLea f s
  | .widx f => Sys2Proof.Machine.execWidx f s
  | .iadds f => Sys2Proof.Machine.execIadds f s
  | .mset f => Sys2Proof.Machine.execMset f s
  | .mlog f => Sys2Proof.Machine.execMlog f s
  | .mif f => Sys2Proof.Machine.execMif f s
  | .melse f => Sys2Proof.Machine.execMelse f s
  | .mend f => Sys2Proof.Machine.execMend f s
  | .msave f => Sys2Proof.Machine.execMsave f s
  | .mload f => Sys2Proof.Machine.execMload f s
  | .mstat f => Sys2Proof.Machine.execMstat f s
  | .mpopc f => Sys2Proof.Machine.execMpopc f s
  | .mfirst f => Sys2Proof.Machine.execMfirst f s
  | .ballot f => Sys2Proof.Machine.execBallot f s
  | .bcnt f => Sys2Proof.Machine.execBcnt f s
  | .rsel f => Sys2Proof.Machine.execRsel f s
  | .rselTie f => Sys2Proof.Machine.execRselTie f s
  | .vshfl f => Sys2Proof.Machine.execVshfl f s
  | .vred f => Sys2Proof.Machine.execVred f s
  | .vscan f => Sys2Proof.Machine.execVscan f s
  | .fadd f => Sys2Proof.Machine.execFadd f s
  | .fsub f => Sys2Proof.Machine.execFsub f s
  | .fmul f => Sys2Proof.Machine.execFmul f s
  | .ffma f => Sys2Proof.Machine.execFfma f s
  | .ffms f => Sys2Proof.Machine.execFfms f s
  | .fmin f => Sys2Proof.Machine.execFmin f s
  | .fmax f => Sys2Proof.Machine.execFmax f s
  | .fminm f => Sys2Proof.Machine.execFminm f s
  | .fmaxm f => Sys2Proof.Machine.execFmaxm f s
  | .fsgn f => Sys2Proof.Machine.execFsgn f s
  | .fcmp f => Sys2Proof.Machine.execFcmp f s
  | .fclass f => Sys2Proof.Machine.execFclass f s
  | .fdiv f => Sys2Proof.Machine.execFdiv f s
  | .fsqrt f => Sys2Proof.Machine.execFsqrt f s
  | .frcp f => Sys2Proof.Machine.execFrcp f s
  | .frsq f => Sys2Proof.Machine.execFrsq f s
  | .fexp2 f => Sys2Proof.Machine.execFexp2 f s
  | .flog2 f => Sys2Proof.Machine.execFlog2 f s
  | .frnd f => Sys2Proof.Machine.execFrnd f s
  | .fscale f => Sys2Proof.Machine.execFscale f s
  | .fdot f => Sys2Proof.Machine.execFdot f s
  | .fdp2 f => Sys2Proof.Machine.execFdp2 f s
  | .fdp4 f => Sys2Proof.Machine.execFdp4 f s
  | .hadd2 f => Sys2Proof.Machine.execHadd2 f s
  | .hmul2 f => Sys2Proof.Machine.execHmul2 f s
  | .hfma2 f => Sys2Proof.Machine.execHfma2 f s
  | .hmin2 f => Sys2Proof.Machine.execHmin2 f s
  | .hmax2 f => Sys2Proof.Machine.execHmax2 f s
  | .fgetx f => Sys2Proof.Machine.execFgetx f s
  | .cvt f => Sys2Proof.Machine.execCvt f s
  | .cvti f => Sys2Proof.Machine.execCvti f s
  | .cvtf f => Sys2Proof.Machine.execCvtf f s
  | .cvtt f => Sys2Proof.Machine.execCvtt f s
  | .pack f => Sys2Proof.Machine.execPack f s
  | .unpack f => Sys2Proof.Machine.execUnpack f s
  | .bfpk f => Sys2Proof.Machine.execBfpk f s
  | .bfun f => Sys2Proof.Machine.execBfun f s
  | .mxpk f => Sys2Proof.Machine.execMxpk f s
  | .mxun f => Sys2Proof.Machine.execMxun f s
  | .plane f => Sys2Proof.Machine.execPlane f s
  | .unplane f => Sys2Proof.Machine.execUnplane f s
  | .setfmt f => Sys2Proof.Machine.execSetfmt f s
  | .getfmt f => Sys2Proof.Machine.execGetfmt f s
  | .fstat f => Sys2Proof.Machine.execFstat f s
  | .setfpm f => Sys2Proof.Machine.execSetfpm f s
  | .ld f => Sys2Proof.Machine.execLd f s
  | .st f => Sys2Proof.Machine.execSt f s
  | .ldu f => Sys2Proof.Machine.execLdu f s
  | .stu f => Sys2Proof.Machine.execStu f s
  | .pref f => Sys2Proof.Machine.execPref f s
  | .spagePin f => Sys2Proof.Machine.execSpagePin f s
  | .spageUnpin f => Sys2Proof.Machine.execSpageUnpin f s
  | .spageQuery f => Sys2Proof.Machine.execSpageQuery f s
  | .ldnt f => Sys2Proof.Machine.execLdnt f s
  | .stnt f => Sys2Proof.Machine.execStnt f s
  | .cpy f => Sys2Proof.Machine.execCpy f s
  | .cpy2d f => Sys2Proof.Machine.execCpy2d f s
  | .cpypl f => Sys2Proof.Machine.execCpypl f s
  | .cpeat f => Sys2Proof.Machine.execCpeat f s
  | .cpack f => Sys2Proof.Machine.execCpack f s
  | .psel f => Sys2Proof.Machine.execPsel f s
  | .cpfill f => Sys2Proof.Machine.execCpfill f s
  | .eresume f => Sys2Proof.Machine.execEresume f s
  | .eresumeAbort f => Sys2Proof.Machine.execEresumeAbort f s
  | .binit f => Sys2Proof.Machine.execBinit f s
  | .barr f => Sys2Proof.Machine.execBarr f s
  | .bexp f => Sys2Proof.Machine.execBexp f s
  | .waitph f => Sys2Proof.Machine.execWaitph f s
  | .testph f => Sys2Proof.Machine.execTestph f s
  | .gridbar f => Sys2Proof.Machine.execGridbar f s
  | .atom f => Sys2Proof.Machine.execAtom f s
  | .atomf f => Sys2Proof.Machine.execAtomf f s
  | .red f => Sys2Proof.Machine.execRed f s
  | .rednm f => Sys2Proof.Machine.execRednm f s
  | .nmfence f => Sys2Proof.Machine.execNmfence f s
  | .dwacq f => Sys2Proof.Machine.execDwacq f s
  | .dwrel f => Sys2Proof.Machine.execDwrel f s
  | .atomw f => Sys2Proof.Machine.execAtomw f s
  | .atomq f => Sys2Proof.Machine.execAtomq f s
  | .fence f => Sys2Proof.Machine.execFence f s
  | .mma f => Sys2Proof.Machine.execMma f s
  | .mmas f => Sys2Proof.Machine.execMmas f s
  | .mzero f => Sys2Proof.Machine.execMzero f s
  | .mldacc f => Sys2Proof.Machine.execMldacc f s
  | .mstacc f => Sys2Proof.Machine.execMstacc f s
  | .mscale f => Sys2Proof.Machine.execMscale f s
  | .mqry f => Sys2Proof.Machine.execMqry f s
  | .accrd f => Sys2Proof.Machine.execAccrd f s
  | .accwr f => Sys2Proof.Machine.execAccwr f s
  | .accacq f => Sys2Proof.Machine.execAccacq f s
  | .accrel f => Sys2Proof.Machine.execAccrel f s
  | .gath f => Sys2Proof.Machine.execGath f s
  | .gathp f => Sys2Proof.Machine.execGathp f s
  | .scata f => Sys2Proof.Machine.execScata f s
  | .scataClose f => Sys2Proof.Machine.execScataClose f s
  | .gpref f => Sys2Proof.Machine.execGpref f s
  | .thdl f => Sys2Proof.Machine.execThdl f s
  | .gstat f => Sys2Proof.Machine.execGstat f s
  | .shcnt f => Sys2Proof.Machine.execShcnt f s
  | .dtree f => Sys2Proof.Machine.execDtree f s
  | .desc f => Sys2Proof.Machine.execDesc f s
  | .dregr f => Sys2Proof.Machine.execDregr f s
  | .dgrad f => Sys2Proof.Machine.execDgrad f s
  | .dpathRead f => Sys2Proof.Machine.execDpathRead f s
  | .dpathWrite f => Sys2Proof.Machine.execDpathWrite f s
  | .dstat f => Sys2Proof.Machine.execDstat f s
  | .tql f => Sys2Proof.Machine.execTql f s
  | .tql2 f => Sys2Proof.Machine.execTql2 f s
  | .tqmul f => Sys2Proof.Machine.execTqmul f s
  | .tqcmt f => Sys2Proof.Machine.execTqcmt f s
  | .cqsub f => Sys2Proof.Machine.execCqsub f s
  | .cqstat f => Sys2Proof.Machine.execCqstat f s
  | .rjoin f => Sys2Proof.Machine.execRjoin f s
  | .rsend f => Sys2Proof.Machine.execRsend f s
  | .rclose f => Sys2Proof.Machine.execRclose f s
  | .rcnt f => Sys2Proof.Machine.execRcnt f s
  | .dmark f => Sys2Proof.Machine.execDmark f s
  | .wlset f => Sys2Proof.Machine.execWlset f s
  | .lstat f => Sys2Proof.Machine.execLstat f s
  | .salu f => Sys2Proof.Machine.execSalu f s
  | .salui f => Sys2Proof.Machine.execSalui f s
  | .scmp f => Sys2Proof.Machine.execScmp f s
  | .sli f => Sys2Proof.Machine.execSli f s
  | .sld f => Sys2Proof.Machine.execSld f s
  | .sst f => Sys2Proof.Machine.execSst f s
  | .srdsr f => Sys2Proof.Machine.execSrdsr f s
  | .cldc f => Sys2Proof.Machine.execCldc f s
  | .cstc f => Sys2Proof.Machine.execCstc f s
  | .crow f => Sys2Proof.Machine.execCrow f s
  | .cred f => Sys2Proof.Machine.execCred f s
  | .cend f => Sys2Proof.Machine.execCend f s
  | .allocFullGrant wg => Sys2Proof.Machine.execAllocFullGrant wg s
  | .rextGrant core => Sys2Proof.Machine.execRextGrant core s
  | .scratchpadPageRefill wg page => Sys2Proof.Machine.execScratchpadPageRefill wg page s
  | .copyComplete core ticket => Sys2Proof.Machine.execCopyComplete core ticket s
  | .copySuspend core ticket => Sys2Proof.Machine.execCopySuspend core ticket s
  | .waitphWake tid => Sys2Proof.Machine.execWaitphWake tid s
  | .waitphTimeout tid => Sys2Proof.Machine.execWaitphTimeout tid s
  | .dwacqWake tid => Sys2Proof.Machine.execDwacqWake tid s
  | .rednmApply add => Sys2Proof.Machine.execRednmApply add s
  | .unitOpStart core => Sys2Proof.Machine.execUnitOpStart core s
  | .unitOpComplete core => Sys2Proof.Machine.execUnitOpComplete core s
  | .accTokenGrant wg tile => Sys2Proof.Machine.execAccTokenGrant wg tile s
  | .gatherRowService work => Sys2Proof.Machine.execGatherRowService work s
  | .gatherComplete core ticket => Sys2Proof.Machine.execGatherComplete core ticket s
  | .scatterAddApply work => Sys2Proof.Machine.execScatterAddApply work s
  | .descComplete core ticket => Sys2Proof.Machine.execDescComplete core ticket s
  | .descSuspend core ticket => Sys2Proof.Machine.execDescSuspend core ticket s
  | .dgradComplete core ticket => Sys2Proof.Machine.execDgradComplete core ticket s
  | .queryComplete tid pid => Sys2Proof.Machine.execQueryComplete tid pid s
  | .postedStoreDrain tid => Sys2Proof.Machine.execPostedStoreDrain tid s
  | .instanceStart cunit => Sys2Proof.Machine.execInstanceStart cunit s
  | .bankReservationExpiry cunit => Sys2Proof.Machine.execBankReservationExpiry cunit s
  | .cellarCommandAged cunit => Sys2Proof.Machine.execCellarCommandAged cunit s
  | .queueSlotGrant slot => Sys2Proof.Machine.execQueueSlotGrant slot s
  | .ageIntervalExpiry q => Sys2Proof.Machine.execAgeIntervalExpiry q s
  | .quantumExpiry q => Sys2Proof.Machine.execQuantumExpiry q s
  | .launchAdmission src => Sys2Proof.Machine.execLaunchAdmission src s
  | .waitEntry src => Sys2Proof.Machine.execWaitEntry src s
  | .waitEntryPass q => Sys2Proof.Machine.execWaitEntryPass q s
  | .copyCommand q => Sys2Proof.Machine.execCopyCommand q s
  | .copyCommandComplete cmd => Sys2Proof.Machine.execCopyCommandComplete cmd s
  | .cellarTaskRead src => Sys2Proof.Machine.execCellarTaskRead src s
  | .workRequest die cluster => Sys2Proof.Machine.execWorkRequest die cluster s
  | .workgroupDispatch die => Sys2Proof.Machine.execWorkgroupDispatch die s
  | .damperExchange part => Sys2Proof.Machine.execDamperExchange part s
  | .splitChange core => Sys2Proof.Machine.execSplitChange core s
  | .workgroupRetire wg => Sys2Proof.Machine.execWorkgroupRetire wg s
  | .launchComplete launch => Sys2Proof.Machine.execLaunchComplete launch s
  | .pageWalkComplete part page => Sys2Proof.Machine.execPageWalkComplete part page s
  | .lineFetch tid away => Sys2Proof.Machine.execLineFetch tid away s
  | .loadComplete tid pid => Sys2Proof.Machine.execLoadComplete tid pid s
  | .demotionStart tier freeSpace => Sys2Proof.Machine.execDemotionStart tier freeSpace s
  | .demotionPageMove tier dest => Sys2Proof.Machine.execDemotionPageMove tier dest s
  | .htlbiComplete part => Sys2Proof.Machine.execHtlbiComplete part s
  | .remoteFail tid ck sub lanes => Sys2Proof.Machine.execRemoteFail tid ck sub lanes s
  | .preemptSaveComplete => Sys2Proof.Machine.execPreemptSaveComplete s
  | .atomicComplete tid pid => Sys2Proof.Machine.execAtomicComplete tid pid s
  | .rednmDrop add => Sys2Proof.Machine.execRednmDrop add s
  | .gatherRequestReceive req => Sys2Proof.Machine.execGatherRequestReceive req s
  | .gatherReply rep => Sys2Proof.Machine.execGatherReply rep s
  | .gatherPositionTimeout core ticket pkg die => Sys2Proof.Machine.execGatherPositionTimeout core ticket pkg die s
  | .scatterCloseArrive msg => Sys2Proof.Machine.execScatterCloseArrive msg s
  | .routingRowArrive msg => Sys2Proof.Machine.execRoutingRowArrive msg s
  | .roundCloseArrive msg => Sys2Proof.Machine.execRoundCloseArrive msg s
  | .queueEnable q => Sys2Proof.Machine.execQueueEnable q s
  | .queueDisable q => Sys2Proof.Machine.execQueueDisable q s
  | .qwidxWrite q v => Sys2Proof.Machine.execQwidxWrite q v s
  | .latchAcquire n port => Sys2Proof.Machine.execLatchAcquire n port s
  | .latchRelease n port => Sys2Proof.Machine.execLatchRelease n port s
  | .latchBreak n port => Sys2Proof.Machine.execLatchBreak n port s
  | .latchInvalidCommand n port cmd => Sys2Proof.Machine.execLatchInvalidCommand n port cmd s
  | .hpartWrite v => Sys2Proof.Machine.execHpartWrite v s
  | .hptrWrite part v => Sys2Proof.Machine.execHptrWrite part v s
  | .hsbkWrite part v => Sys2Proof.Machine.execHsbkWrite part v s
  | .htlbiPage part v => Sys2Proof.Machine.execHtlbiPage part v s
  | .htlbiAll part => Sys2Proof.Machine.execHtlbiAll part s
  | .hfwiWrite => Sys2Proof.Machine.execHfwiWrite s
  | .hrekeyGo peer => Sys2Proof.Machine.execHrekeyGo peer s
  | .hpreGo part slot => Sys2Proof.Machine.execHpreGo part slot s
  | .hpreResume slot part => Sys2Proof.Machine.execHpreResume slot part s
  | .hkillGo part => Sys2Proof.Machine.execHkillGo part s
  | .hcabtWrite v => Sys2Proof.Machine.execHcabtWrite v s
  | .hashrWrite v => Sys2Proof.Machine.execHashrWrite v s
  | .msixDeferredSend port vec => Sys2Proof.Machine.execMsixDeferredSend port vec s
  | .powerOnRequest => Sys2Proof.Machine.execPowerOnRequest s
  | .powerIdleRequest => Sys2Proof.Machine.execPowerIdleRequest s
  | .powerHoldRequest => Sys2Proof.Machine.execPowerHoldRequest s
  | .hrcvGo port v => Sys2Proof.Machine.execHrcvGo port v s
  | .recoveryCheckDone verdict => Sys2Proof.Machine.execRecoveryCheckDone verdict s
  | .registerWrite off v port => Sys2Proof.Machine.execRegisterWrite off v port s
  | .hostMemoryAccess acc => Sys2Proof.Machine.execHostMemoryAccess acc s
  | .accessCountDecay => Sys2Proof.Machine.execAccessCountDecay s
  | .ptsAdvance core => Sys2Proof.Machine.execPtsAdvance core s
  | .remoteRequestServe req => Sys2Proof.Machine.execRemoteRequestServe req s
  | .remoteReply rep => Sys2Proof.Machine.execRemoteReply rep s
  | .relayForward msg => Sys2Proof.Machine.execRelayForward msg s
  | .flitReceive flit => Sys2Proof.Machine.execFlitReceive flit s
  | .flitAck lane seq => Sys2Proof.Machine.execFlitAck lane seq s
  | .rekeySeqTrigger lane => Sys2Proof.Machine.execRekeySeqTrigger lane s
  | .keyBankSwitch peer => Sys2Proof.Machine.execKeyBankSwitch peer s
  | .laneDrained lane => Sys2Proof.Machine.execLaneDrained lane s
  | .laneRelock lane peer => Sys2Proof.Machine.execLaneRelock lane peer s
  | .relockTimeout lane => Sys2Proof.Machine.execRelockTimeout lane s
  | .dieLost die => Sys2Proof.Machine.execDieLost die s
  | .pageinRequest part => Sys2Proof.Machine.execPageinRequest part s
  | .pageinComplete res => Sys2Proof.Machine.execPageinComplete res s
  | .thermtrip => Sys2Proof.Machine.execThermtrip s
  | .powerLoss => Sys2Proof.Machine.execPowerLoss s
  | .deviceReset boot => Sys2Proof.Machine.execDeviceReset boot s
  | .lifecycleRequest req => Sys2Proof.Machine.execLifecycleRequest req s
  | .debugSessionEnter req => Sys2Proof.Machine.execDebugSessionEnter req s
  | .debugSessionEnd port meas => Sys2Proof.Machine.execDebugSessionEnd port meas s
  | .attestationRequest port => Sys2Proof.Machine.execAttestationRequest port s
  | .signedUpdateRequest port verified image => Sys2Proof.Machine.execSignedUpdateRequest port verified image s
  | .softError err => Sys2Proof.Machine.execSoftError err s
  | .hostLinkDown port down => Sys2Proof.Machine.execHostLinkDown port down s

end Sys2Proof.Machine
end

