-- ==== Sys2Proof/Machine/Step.lean ====
section
/-!
DEFINITION. One step of the package: time passes, and the next move of the agenda, or one of those the package itself
can make, happens.
-/

namespace Sys2Proof.Machine

/-- Time passes and the free values of the step are used up (log 3, log 5). -/
def State.tick (s : State) : State :=
  { s with
    free := s.free + 1
    clock := s.clock + BitVec.ofNat 64 (Config.freeCycles s.free)
    time := s.time + BitVec.ofNat 64 (Config.freeTime s.free) }

/-- A thread is given an issue slot. -/
def issue (tid : Nat) (s : State) : Host.Outcome State Fault Refusal :=
  match s.threads.get? tid with
  | none => .fault .noThread
  | some t =>
    match s.ready t with
    | .due x => .next (s.takeDue tid t x)
    | .waits => .next s
    | .stops e => s.settle tid t (.error e)
    | .breaks => .next (s.debugHalt tid)
    | .runs i => exec i { s with cur := tid }

/-- One move. -/
def perform (m : Move) (s : State) : Host.Outcome State Fault Refusal :=
  if !s.mayDo m then notEnabled
  else
  match m with
  | .issue tid => issue tid s
  | .event i => exec i s
  | .chunk core ticket k => engineStep core ticket k s
  | .porch k => porchStep k s
  | .arrive k => arriveStep k s
  | .rowUnit k j => rowUnitStep k j s
  | .buffer tid => bufferStep tid s
  | .unit core ticket va => unitStep core ticket va s
  | .elem core ticket k => elemStep core ticket k s
  | .cmdUnit id va => cmdUnitStep id va s
  | .cmdElem id k => cmdElemStep id k s
  | .unitWord core va => unitWord core va s
  | .unitElem core k => unitElem core k s
  | .walkRead part page => walkStep part page s
  | .l1Fill core page => l1Fill core page s
  | .due k => dueStep k s
  | .boot => bootStep s
  | .command id k => commandStep id k s
  | .entry => entryStep s
  | .debug op => debugStep op s
  | .dropped m => droppedStep m s

/-- The move can be made. -/
def enabled (s : State) (m : Move) : Bool :=
  match perform m s with
  | .next _ => true
  | _ => false

/-- The moves that the package itself can make. -/
def State.movable (s : State) : List Move := s.candidates.filter (enabled s)

/-- The moves that have a turn to come, from the first on that can be made. -/
def State.turnsLeft (s : State) : List Move := s.inLine.dropWhile fun m => !enabled s m

/-- The move that is made where the agenda names none: a free choice among those that can be made, and the first in turn once
patience has run out, so that what can be made from some time on is made in the end (R146, R395, log 4). -/
def State.pick (s : State) : Option Move :=
  match s.patience, s.turnsLeft with
  | 0, m :: _ => some m
  | _, _ => s.movable[Config.freePick s.free % s.movable.length]?

/-- A choice is made: patience shrinks. Where it has run out a turn is over, after the last turn all that can be made gets one, and how
long the next one takes is free (log 4). -/
def State.picked (s : State) : State :=
  match s.patience with
  | n + 1 => { s with patience := n }
  | 0 =>
    { s with
      inLine := match s.turnsLeft with
        | [] => s.movable
        | _ :: rest => rest
      patience := Config.freePatience s.free }

/-- The package does what it picks itself. -/
def State.freeStep (s : State) : Host.Outcome State Fault Refusal :=
  match s.pick with
  | some m => perform m s.picked
  | none => .next s.picked

/-- One step. -/
def step (s : State) : Host.Outcome State Fault Refusal :=
  match s.agenda with
  | m :: rest => perform m { s.tick with agenda := rest }
  | [] => s.tick.freeStep

/-- Places an instruction so that the next step issues it (log 6). -/
def State.withFetchWord (s : State) (nbits w : Nat) : State := s.placeWord (BitVec.ofNat 96 (w % 2 ^ nbits))

end Sys2Proof.Machine
end

