-- ==== Sys2Proof/Safety.lean ====
section
/-!
DEFINITION. What counts as a safe run, and the words in which the statements speak of an instruction that completes.
-/

namespace Sys2Proof.Machine

/-- What every step keeps: physical memory stands in its canonical form. -/
def State.Inv (s : State) : Prop := s.mem.wf = true

/-- A step goes on: it is neither a fault nor a refusal. -/
def State.GoesOn (s : State) : Prop := ∃ s', step s = .next s'

/-- The thread at the issue point. -/
def State.At (s : State) (t : Thread) : Prop := s.threads.get? s.cur = some t

/-- The state after thread `t` has issued an instruction that leaves it as `t'`: the instruction is counted, and nothing
else of the state changes. -/
def State.after (s : State) (t t' : Thread) : State := (s.counted t).putThread s.cur t'

/-- The state after thread `t` has issued an instruction that traps: it is counted, and the exception is taken. -/
def State.trapped (s : State) (t : Thread) (x : TrapInfo) : State := (s.counted t).takeTrap s.cur t x

/-- The state after the thread at the issue point has issued an instruction that leaves the state as `s1` and the thread
as `t1`: the instruction is counted and the thread goes on to the next slot. -/
def State.finish (s s1 : State) (t1 : Thread) : State := (s1.counted t1).putThread s.cur t1.advance

/-- What an instruction that touches only its thread may leave: the state as it was, because the thread waits, a trap
taken, or another thread record with the instruction counted. -/
def State.OnlyThread (s s' : State) (ok : Thread → Thread → Prop) : Prop :=
  ∃ t, s.At t ∧ (s' = s ∨ (∃ x, s' = s.trapped t x) ∨ ∃ t', s' = s.after t t' ∧ ok t t')

/-- Thread `u` is `t` but for the destination `d` of `n` registers, CC and FPM: a V destination in the lanes of EM, one G
register, or on the MCC one S register. -/
def Thread.SameBut (t u : Thread) (d n : Nat) : Prop :=
  { u with regs := t.regs } = t ∧
  { u.regs with
    v := t.regs.v, ve := t.regs.ve, g := t.regs.g, ge := t.regs.ge, s := t.regs.s, cc := t.regs.cc, fpm := t.regs.fpm } =
    t.regs ∧
  (t.side ≠ .mcc → u.regs.s = t.regs.s) ∧
  (t.side = .mcc ∨ 128 ≤ d → u.regs.v = t.regs.v ∧ u.regs.ve = t.regs.ve) ∧
  (t.side = .mcc ∨ d < 128 → u.regs.g = t.regs.g ∧ u.regs.ge = t.regs.ge) ∧
  (∀ k i, i < 64 → (i ∉ t.active ∨ k < d ∨ d + n ≤ k) → u.regs.v.get (64 * k + i) = t.regs.v.get (64 * k + i)) ∧
  (∀ k, (k < d ∨ d + n ≤ k) → u.regs.ve.get? k = t.regs.ve.get? k) ∧
  (∀ k, 128 + k ≠ d → u.regs.g.get k = t.regs.g.get k ∧ u.regs.ge.get? k = t.regs.ge.get? k) ∧
  ∀ k, k ≠ d → u.regs.s.get k = t.regs.s.get k

/-- A thread after a lane-wise integer result: the destination holds each lane's value, and with the CC bit CC holds Z and
N of the `bits`-bit value, C and V of the lowest lane in EM, and T clear (R136, R166, R175). -/
def Thread.gotInt (t : Thread) (f : Std) (sg : Bool) (bits : Nat) (val : Nat → Nat) (c v : Nat → Bool) : Thread :=
  let u := t.put f.dst.toNat (regsOf bits) sg bits val
  match f.xt.getLsbD 0, t.active with
  | true, i :: _ => { u with regs := { u.regs with
      cc := BitVec.ofNat 5 (bit (val i == 0) + 2 * bit (tb (val i) (bits - 1)) + 4 * bit (c i) + 8 * bit (v i)) } }
  | _, _ => u

/-- The number that a `w`-bit value stands for, signed or not. -/
def valueOf (sg : Bool) (w x : Nat) : Int := if sg then (BitVec.ofNat w x).toInt else x

/-- A number lies outside the range of a `w`-bit type. -/
def outOf (sg : Bool) (w : Nat) (x : Int) : Bool :=
  if sg then decide (x < -(2 ^ (w - 1)) ∨ 2 ^ (w - 1) ≤ x) else decide (x < 0 ∨ 2 ^ w ≤ x)

end Sys2Proof.Machine
end

