-- ==== Sys2Proof/WellFormed.lean ====
section
/-!
DEFINITION. Which instructions have an encoding that an executor runs: the checks that R108 to R127 make on the
fields, said of an instruction and not of its bits.
-/

namespace Sys2Proof

/-- The instruction has an encoding whose opcode the executor accepts (check 4, R124). An event has none. -/
def Instr.opcodeOk (s : Side) (i : Instr) : Bool := (encode i).any fun x => accepts s (opcOf x).toNat

/-- No field holds a reserved or illegal value (check 6, R108 to R119). -/
def Instr.fieldsOk (s : Side) (i : Instr) : Bool := instrRsvOk s i

/-- Every pattern and its parameter are legal in a group of width `w` (check 7, R116). -/
def Instr.patternsOk (s : Side) (w : Nat) (i : Instr) : Bool := instrPatternOk s w i

/-- The instruction is well formed for a group of width `w` on an executor. -/
def Instr.wellFormed (s : Side) (w : Nat) (i : Instr) : Bool := i.opcodeOk s && i.fieldsOk s && i.patternsOk s w

end Sys2Proof
end

