-- ==== Sys2Proof/Certificates/Slice0/Obligations.lean ====
section
/-!
DEFINITION. The statements for the provers. Each docstring cites the rules of the spec that its statement formalises or
rests on. Everything here that names a log entry is the model's own choice.
-/

open Sys2Proof Sys2Proof.Machine

/-! ### Encoding -/

/-- Every well-formed instruction has a word, and the executor's decoder reads that word as it, with every operand at
every value that the encoding admits (R108 to R127). -/
def Obligations.DecodeOfEncode : Prop :=
  ∀ (e : Side) (w : Nat) (i : Instr), i.wellFormed e w = true → ∃ x, encode i = some x ∧ decode e w x = .ok i

/-- What the decoder reads is well formed, and its word is the one that was read: no bit of it is dropped. -/
def Obligations.DecodedIsWellFormed : Prop :=
  ∀ (e : Side) (w : Nat) (x : Slot) (i : Instr), decode e w x = .ok i → i.wellFormed e w = true ∧ encode i = some x

/-- Words written out from the encoding tables: NOP; the IADD.S32 V4, V2<rot 3>, G1 and the LD.Z32 V5, [G2 + V7<<2 + 64]
of the worked line; MOVI.S32 G2, −1; BRC on Z one line back to slot 2; BARR NB4, #1, #0; and on the MCC SALU.SUB S3, S1,
S2 (R108 to R116, R122, R123). -/
def Obligations.WordsDecode : Prop :=
  decode .wide 64 0 =
    .ok (.nop { op := 0, xty := 0, ty := 0, dst := 0, a := .zero, b := .zero, c := .zero, fpc := 0, xt := 0 }) ∧
  decode .wide 64 0x10020490C168200000000000 =
    .ok (.iadd { op := 0, xty := 0, ty := 2, dst := 4, a := { wt := 1, pat := 1, q := 3, reg := 2 },
                 b := { wt := 1, pat := 5, q := 1, reg := 0 }, c := .zero, fpc := 0, xt := 0 }) ∧
  decode .wide 64 0x700605000012800380040000 =
    .ok (.ld { op := 0, xty := 0, ty := 6, dst := 5, a := .zero, gb := 2, sh := 2,
               ix := { wt := 1, pat := 0, q := 0, reg := 7 }, ofs := 64, fpc := 0, isx := 0, hint := 0 }) ∧
  decode .wide 64 (0x2C#8 ++ 0#3 ++ 0#1 ++ 2#4 ++ 130#8 ++ 0#17 ++ 0xFFFFFFFF#32 ++ 0#2 ++ 0#9 ++ 0#12) =
    .ok (.movi { op := 0, xty := 0, ty := 2, dst := 130, a := .zero, imm := 0xFFFFFFFF, fpc := 0, xt := 0 }) ∧
  decode .wide 64 (0x02#8 ++ 0#3 ++ 0#1 ++ 0#4 ++ 0x3FFFFF#22 ++ 2#3 ++ 0#4 ++ 0#4 ++ 0#47) =
    .ok (.brc { op := 0, lofs := 0x3FFFFF, tslot := 2, cond := 0, cnt := 0 }) ∧
  decode .wide 64 (0x81#8 ++ 0#3 ++ 0#1 ++ 0#4 ++ 0#8 ++ (0#1 ++ 6#3 ++ 1#6 ++ 0#7) ++ (0#1 ++ 6#3 ++ 0#6 ++ 0#7) ++
      0#17 ++ 4#6 ++ 0#3 ++ 0#12) =
    .ok (.barr { op := 0, xty := 0, ty := 0, dst := 0, a := { wt := 0, pat := 6, q := 1, reg := 0 },
                 b := { wt := 0, pat := 6, q := 0, reg := 0 }, c := .zero, nb := 4, xt := 0 }) ∧
  decode .mcc 1 (0xC0#8 ++ 1#4 ++ 0#4 ++ 3#5 ++ 1#5 ++ 2#5 ++ 0#32 ++ 0#33) =
    .ok (.salu { fn := 1, sd := 3, s1 := 1, s2 := 2, imm := 0 })

/-! ### The step -/

/-- When a thread is given its issue slot and the slot that it stands at passes the checks of R127, the step is the
meaning of the instruction decoded there, in the state in which time has passed and that thread issues; a breakpoint of
a D2 session does not stand there (log 40), and the clocks move on by amounts that the spec leaves open (log 5). The
thread is named by the agenda, or by the package's own pick when the agenda is empty. That pick is fair in a form that
is the model's (R146, log 4): while patience lasts it is a choice that uses one of it up, and then the first move in
turn that can be made is made, and its turn is over. -/
def Obligations.StepRunsTheDecodedInstruction : Prop :=
  (∀ (s now s1 : State) (tid : Nat) (rest : List Move) (t : Thread) (l : Line) (i : Instr),
    now = { s with
      free := s.free + 1
      clock := s.clock + BitVec.ofNat 64 (Config.freeCycles s.free)
      time := s.time + BitVec.ofNat 64 (Config.freeTime s.free) } →
    (s.agenda = .issue tid :: rest ∧ s1 = { now with agenda := rest } ∨
      s.agenda = [] ∧ now.pick = some (.issue tid) ∧ s1 = now.picked) →
    s.power ≠ .off → s.threads.get? tid = some t →
    s.lost (s.dieOf t) = false → s.stopped t = false → t.dueNow = none → t.dueHeld = false → t.status = .running →
    (s.debug = 2 → t.side = .cellar ∨ t.at_ ∉ s.breaks) → t.line = some l → t.lineChecks l = .ok ⟨⟩ →
    decode t.side t.width (l.slot (slotOf t.at_)) = .ok i →
    (supervisorOnly i = true → t.handler = true) → roleOk t i = true → t.reportWaits i = false →
    step s = exec i { s1 with cur := tid }) ∧
  (∀ (s : State) (n : Nat) (m : Move), s.agenda = [] → s.patience = n + 1 → s.tick.pick = some m →
    step s = perform m { s.tick with patience := n }) ∧
  (∀ (s : State) (m : Move) (ms : List Move), s.agenda = [] → s.patience = 0 → s.tick.turnsLeft = m :: ms →
    step s = perform m { s.tick with inLine := ms, patience := Config.freePatience (s.free + 1) })

/-- Every step keeps physical memory in its canonical form, from every state that has it. -/
def Obligations.StepKeepsMemoryCanonical : Prop :=
  ∀ s s' : State, s.Inv → step s = .next s' → s'.Inv

/-- Memory has its canonical form at reset. -/
def Obligations.ResetMemoryCanonical : Prop :=
  State.reset.Inv

/-! ### Control -/

/-- BR goes to its target; BRC and BRM go there when their test holds, and otherwise to the next slot. Nothing else of
the thread changes, and of the state only the launch's instruction count (R112, R151). LOOP on a full counter sets it to
counter − 1 modulo 2^64 and branches when that is not zero: a G register on the wide side and in the Cellar, an S
register on the MCC (R153). -/
def Obligations.BranchesAndLoops : Prop :=
  (∀ (s : State) (t : Thread) (f : Br) (target : Nat), s.At t →
     (target : Int) = ((lineOf t.pc.toNat : Int) + 64 * f.lofs.toInt + 12 * (f.tslot.toNat : Int)) % 2 ^ 64 →
     exec (.br f) s = .next (s.after t (t.jump target)) ∧
     (f.cond.toNat ≤ 9 → exec (.brc f) s = .next (s.after t
       (if t.regs.cc.getLsbD (f.cond.toNat / 2) = decide (f.cond.toNat % 2 = 0) then t.jump target else t.advance))) ∧
     exec (.brm f) s = .next (s.after t
       (if (∃ k, k < t.width ∧ k < 64 ∧ (t.regs.m.get (f.cond.toNat % 8)).getLsbD k = true) ↔ f.cond.getLsbD 3 = true
         then t.jump target else t.advance)) ∧
     exec (.brmEm f) s = .next (s.after t
       (if (∃ k, k < t.width ∧ k < 64 ∧ t.regs.em.getLsbD k = true) ↔ f.cond.getLsbD 3 = true
         then t.jump target else t.advance))) ∧
  (∀ (s : State) (t : Thread) (f : Br) (target : Nat), s.At t →
     (target : Int) = ((lineOf t.pc.toNat : Int) + 64 * f.lofs.toInt + 12 * (f.tslot.toNat : Int)) % 2 ^ 64 →
     (t.side = .mcc → exec (.loop f) s = .next (s.after t
       (let v := t.regs.s.get f.cnt.toNat - 1
        let u : Thread := { t with regs := { t.regs with s := t.regs.s.set f.cnt.toNat v } }
        if v = 0 then u.advance else u.jump target))) ∧
     (t.side ≠ .mcc → t.regs.ge.get? f.cnt.toNat = none → exec (.loop f) s = .next (s.after t
       (let v := t.regs.g.get f.cnt.toNat - 1
        let u : Thread := { t with regs := t.regs.writeG f.cnt.toNat v }
        if v = 0 then u.advance else u.jump target))) ∧
     (t.side ≠ .mcc → (t.regs.ge.get? f.cnt.toNat).isSome = true → exec (.loop f) s = .next s))

/-- Flow after slot s continues at slot s + 1, and after slot 4 at slot 0 of the next line. The line word is never
executed. Slots a program does not use hold NOP, whose 96 bits are all zero: on every executor NOP, like YIELD, only
goes on, and the slot after a slot is one of the five of a line (R103). -/
def Obligations.FlowGoesOn : Prop :=
  (∀ (s : State) (t : Thread) (f : Std), s.At t →
    exec (.nop f) s = .next (s.after t t.advance) ∧ exec (.yield f) s = .next (s.after t t.advance) ∧
    t.advance.regs = t.regs ∧
    (slotOf t.pc.toNat < 4 → t.advance.pc = t.pc + 12) ∧
    (slotOf t.pc.toNat = 4 → t.advance.pc = BitVec.ofNat 64 (lineOf t.pc.toNat + 64)) ∧
    (t.pc.toNat % 64 ∈ [0, 12, 24, 36, 48] → t.advance.pc.toNat % 64 ∈ [0, 12, 24, 36, 48])) ∧
  ∀ (e : Side) (w : Nat), decode e w 0 =
    .ok (.nop { op := 0, xty := 0, ty := 0, dst := 0, a := .zero, b := .zero, c := .zero, fpc := 0, xt := 0 })

/-- CALL with room writes the return address into every lane's stack below STKP, whatever EM holds, and jumps; without
room it traps ADDRESS_HOLE with the address that it would have written and changes nothing. RET goes back to the address
in lane 0, or traps POISON where that line of the stack is poisoned (R152, R419). -/
def Obligations.CallAndReturn : Prop :=
  ∀ (s : State) (t : Thread) (f : Br) (g : Std) (target : Nat), s.At t → t.busy = false →
    (target : Int) = ((lineOf t.pc.toNat : Int) + 64 * f.lofs.toInt + 12 * (f.tslot.toNat : Int)) % 2 ^ 64 →
    (16 ≤ t.regs.stkp → t.regs.stkp ≤ 4096 → ∃ m : Memory,
      exec (.call f) s = .next (s.after t
        (({ t with stack := m, regs := { t.regs with stkp := t.regs.stkp - 16 } } : Thread).jump target)) ∧
      (∀ k, k < t.width → m.getNat (4096 * k + t.regs.stkp - 16) 8 =
          (if slotOf t.pc.toNat < 4 then t.pc.toNat + 12 else (lineOf t.pc.toNat + 64) % 2 ^ 64) ∧
        m.getNat (4096 * k + t.regs.stkp - 8) 8 = 0) ∧
      ∀ a, (∀ k, k < t.width → a < 4096 * k + t.regs.stkp - 16 ∨ 4096 * k + t.regs.stkp ≤ a) →
        m.get a = t.stack.get a) ∧
    (t.regs.stkp < 16 → exec (.call f) s = .next (s.trapped t
      { cls := 6, addr := (0xFFFFFFB000000000 + t.regs.stkp + 2 ^ 64 - 16) % 2 ^ 64, info := 4 })) ∧
    (t.regs.stkp + 16 ≤ (s.hdrOf t).kstk * 16 → t.regs.stkp / 128 ∉ t.stackPoison →
      (t.stack.getNat t.regs.stkp 8) % 64 ∈ [0, 12, 24, 36, 48] →
      exec (.ret g) s = .next (s.after t
        (({ t with regs := { t.regs with stkp := t.regs.stkp + 16 } } : Thread).jump
          (t.stack.getNat t.regs.stkp 8)))) ∧
    (t.regs.stkp + 16 ≤ (s.hdrOf t).kstk * 16 → t.regs.stkp / 128 ∉ t.stackPoison →
      (t.stack.getNat t.regs.stkp 8) % 64 ∉ [0, 12, 24, 36, 48] →
      exec (.ret g) s = .next (s.trapped t { cls := 1, sub := 3 })) ∧
    (t.regs.stkp + 16 ≤ (s.hdrOf t).kstk * 16 → t.regs.stkp / 128 ∈ t.stackPoison →
      exec (.ret g) s = .next (s.trapped t
        { cls := 8, addr := (0xFFFFFFB000000000 + t.regs.stkp) % 2 ^ 64 })) ∧
    ((s.hdrOf t).kstk * 16 < t.regs.stkp + 16 → exec (.ret g) s = .next (s.trapped t
      { cls := 6, addr := (0xFFFFFFB000000000 + t.regs.stkp) % 2 ^ 64, info := 0 }))

/-- EXIT of a group with no remote access outstanding ends it: it issues nothing further, its extended blocks go back,
and while another group of its workgroup remains, no engine operation and no memory changes (R154, R243, R440). -/
def Obligations.ExitEndsTheGroup : Prop :=
  ∀ (s : State) (t : Thread) (f : Std), s.At t → t.busy = false →
    ∃ s' t', exec (.exit f) s = .next s' ∧ s'.threads.get? s.cur = some t' ∧ t'.status = .exited ∧ t'.regs.extb = 0 ∧
      t'.regs.em = t.regs.em ∧ t'.regs.v = t.regs.v ∧ t'.regs.g = t.regs.g ∧ t'.pc = t.pc ∧
      ((∃ e ∈ s.threads, e.1 ≠ s.cur ∧ e.2.wg = t.wg ∧ e.2.side ≠ .cellar ∧ e.2.status ≠ .exited) →
        s'.cores = s.cores ∧ s'.mem = s.mem ∧ s'.wgs = s.wgs)

/-- When a wide-side group of a GRIDSYNC launch exits, EXPA of the grid barrier drops by one for every later phase. The
drop applies to ARRE of the current phase as well, and it completes that phase if the remaining groups have all arrived;
a phase in which no group has arrived is not completed by the last exit (R449). -/
def Obligations.ExitLeavesTheGridBarrier : Prop :=
  ∀ (s : State) (t : Thread) (f : Std) (g : Wg) (l : Launch) (b : Bar), s.At t → t.busy = false → t.side = .wide →
    s.wgs.get? t.wg = some g → s.launches.get? g.launch = some l → l.grid = some b → b.bytes = b.bytee →
    b.expa < 2 ^ 32 → b.arre < 2 ^ 32 → b.arr < 2 ^ 32 → b.bytee < 2 ^ 48 →
    ∃ s' l' b', exec (.exit f) s = .next s' ∧ s'.launches.get? g.launch = some l' ∧ l'.grid = some b' ∧
      b'.expa = b.expa - 1 ∧
      (b.arr ≠ 0 → b.arre - 1 ≤ b.arr → b'.phase = (b.phase + 1) % 2 ^ 32 ∧ b'.arre = b.expa - 1 ∧ b'.arr = 0) ∧
      (b.arr = 0 ∨ b.arr < b.arre - 1 → b'.phase = b.phase ∧ b'.arre = b.arre - 1 ∧ b'.arr = b.arr)

/-- TRAP and SVC enter the supervisor handler of their class with the code in TINFO, the PC of the instruction in TPC
and EM as it stood, even when it is zero; like every instruction that has issued they count in INSTR (R155, R405, R445;
that an instruction which traps counts is log 12). Taking an exception on a core: the handler's line is entered with the
TGT check, TPC holds the trapping PC, TCAUSE, TADDR, TINFO and TPTE what the trap reports, EM the faulting lanes where
the class names them and otherwise EM as it stood, and every other register stays. The frame of a wide-side group holds
V0 to V7 of every lane, G0 to G3, EM, the mask stack's top entry, FMT and CC; that of a matrix group S0 to S7, FMT and
CC. A FETCH_PARITY trap posts its record first (R102, R404 to R406, R423). FMT's reserved bits are saved as zeros (R5,
R57). -/
def Obligations.TrapsEnterTheHandler : Prop :=
  (∀ (s : State) (t : Thread) (f : Std) (c : Nat) (i : Instr) (target : Nat), s.At t → t.busy = false →
     t.side ≠ .cellar → t.handler = false → (c, i) ∈ [(0x0D, Instr.trap f), (0x0E, Instr.svc f)] →
     s.vector (s.partOf t) c = some target →
     ∃ t', exec i s = .next (s.after t t') ∧ t'.handler = true ∧ t'.tcause = BitVec.ofNat 64 c ∧
       t'.tinfo = BitVec.ofNat 64 f.xt.toNat ∧ t'.tpc = t.pc ∧ t'.pc = BitVec.ofNat 64 target ∧ t'.enter = .branch ∧
       t'.regs = t.regs) ∧
  (∀ (s s1 : State) (tid : Nat) (t : Thread) (x : TrapInfo) (target : Nat) (fmtOf : W64 → Nat), t.handler = false →
     (∀ v, fmtOf v = (v &&& 0x000000FF3E3FF3FF).toNat) →
     s1 = (if x.cls = 0x0C then
         s.post (s.ashOf t { code := 0x0D, cls := 0x0C, addr := x.addr, info := x.info })
       else s) →
     s1.vector (s1.partOf t) x.cls = some target →
     (t.side ≠ .cellar → ∃ t', s.takeTrap tid t x = s1.putThread tid t' ∧ t'.handler = true ∧
       t'.pc = BitVec.ofNat 64 target ∧ t'.enter = .branch ∧ t'.line = none ∧ t'.tpc = t.pc ∧
       t'.tcause = BitVec.ofNat 64 (x.cls + x.sub * 256) ∧ t'.taddr = BitVec.ofNat 64 x.addr ∧
       t'.tinfo = BitVec.ofNat 64 x.info ∧ t'.tpte = x.pte ∧ t'.regs = { t.regs with em := x.lanes.getD t.regs.em } ∧
       t'.entryDepth = t.regs.depth ∧
       (t.side = .wide →
         (∀ i k, i < t.width → i < 64 → k < 8 →
           ofBytes (frameBytes t'.frame i (4 * k) 4) = (t.regs.v.get (64 * k + i)).toNat) ∧
         (∀ k, k < 4 → ofBytes (frameBytes t'.frame 0 (32 + 8 * k) 8) = (t.regs.g.get k).toNat) ∧
         ofBytes (frameBytes t'.frame 0 64 8) = t.regs.em.toNat ∧
         ofBytes (frameBytes t'.frame 0 72 8) =
           (if t.regs.depth = 0 then 0 else (t.regs.stkEm.get (t.regs.depth - 1)).toNat) ∧
         ofBytes (frameBytes t'.frame 0 80 8) =
           (if t.regs.depth = 0 then 0 else fmtOf (t.regs.stkFmt.get (t.regs.depth - 1)))) ∧
       (t.side = .mcc → ∀ k, k < 8 → ofBytes (frameBytes t'.frame 0 (8 * k) 8) = (t.regs.s.get k).toNat) ∧
       ofBytes (frameBytes t'.frame 0 88 8) = fmtOf t.regs.fmt ∧
       ofBytes (frameBytes t'.frame 0 96 4) = t.regs.cc.toNat))

/-- A trap taken while the group runs the handler, or whose vector entry is zero, misaligned or unreadable and no home
of it is lost, halts the group: it issues nothing further, its registers and the other threads stay, and what the step
adds is the HANDLER_TRAP record (R405, R409). -/
def Obligations.TrapInTheHandlerHalts : Prop :=
  ∀ (s : State) (tid : Nat) (t : Thread) (x : TrapInfo), t.side ≠ .cellar → x.cls ≠ 0x0C →
    (t.handler = true ∨ s.vector (s.partOf t) x.cls = none ∧
      s.hearthDead (s.partOf t) (s.vectorAt (s.partOf t) x.cls) = false) →
    ∃ t', (s.takeTrap tid t x).threads.get? tid = some t' ∧ t'.status = .halted ∧ t'.regs = t.regs ∧ t'.pc = t.pc ∧
      (s.takeTrap tid t x).wgs = s.wgs ∧ (s.takeTrap tid t x).cores = s.cores ∧
      (∀ k, k ≠ tid → (s.takeTrap tid t x).threads.get? k = s.threads.get? k) ∧
      (s.ashLog ≤ 3 → (s.takeTrap tid t x).mem = s.mem) ∧
      ∀ a, (∀ k, k < 2 ^ s.ashLog →
          a < inPkg (s.forwarded (fld (s.hr 0x4C0).toNat 12 48 * 4096 + 64 * k)) ∨
            inPkg (s.forwarded (fld (s.hr 0x4C0).toNat 12 48 * 4096 + 64 * k)) + 64 ≤ a) →
        (s.takeTrap tid t x).mem.get a = s.mem.get a

/-- SRET outside the handler traps ILLEGAL/OPC. In the handler it leaves the handler, goes to TPC, or with SKIP to the
slot after it, without the TGT check, and restores V0 to V7 and G0 to G3 with their full/empty bits, EM, FMT and CC from
the frame, the mask-stack depth of the entry and, when that is not zero, the top entry; a matrix group takes S0 to S7,
FMT and CC from its frame; every other register stays (R156, R406, R408). -/
def Obligations.SretRestoresTheGroup : Prop :=
  ∀ (s : State) (t : Thread) (f : Std), s.At t → t.busy = false →
    (t.handler = false → exec (.sret f) s = .next (s.trapped t { cls := 1 })) ∧
    (t.handler = true → t.side = .mcc → ∃ t', exec (.sret f) s = .next (s.after t t') ∧ t'.handler = false ∧
      t'.pc = (if f.xt.getLsbD 0 then BitVec.ofNat 64 (nextPc t.tpc.toNat) else t.tpc) ∧ t'.enter = .resume ∧
      (∀ k, t'.regs.s.get k =
        if k < 8 then BitVec.ofNat 64 (ofBytes (frameBytes t.frame 0 (8 * k) 8)) else t.regs.s.get k) ∧
      { t'.regs with s := t.regs.s, fmt := t.regs.fmt, cc := t.regs.cc } = t.regs ∧
      t'.regs.fmt = BitVec.ofNat 64 (ofBytes (frameBytes t.frame 0 88 8)) ∧
      t'.regs.cc = BitVec.ofNat 5 (ofBytes (frameBytes t.frame 0 96 4))) ∧
    (t.handler = true → t.side = .wide → t.width ≤ 64 → ∃ t', exec (.sret f) s = .next (s.after t t') ∧ t'.handler = false ∧
      t'.pc = (if f.xt.getLsbD 0 then BitVec.ofNat 64 (nextPc t.tpc.toNat) else t.tpc) ∧ t'.enter = .resume ∧
      (∀ i k, i < t.width → k < 8 →
        t'.regs.v.get (64 * k + i) = BitVec.ofNat 32 (ofBytes (frameBytes t.frame i (4 * k) 4))) ∧
      (∀ i k, i < t.width → 8 ≤ k → t'.regs.v.get (64 * k + i) = t.regs.v.get (64 * k + i)) ∧
      (∀ k, t'.regs.g.get k =
        if k < 4 then BitVec.ofNat 64 (ofBytes (frameBytes t.frame 0 (32 + 8 * k) 8)) else t.regs.g.get k) ∧
      (∀ i, t'.regs.em.getLsbD i =
        (decide (i < t.width) && (BitVec.ofNat 64 (ofBytes (frameBytes t.frame 0 64 8))).getLsbD i)) ∧
      t'.regs.fmt = BitVec.ofNat 64 (ofBytes (frameBytes t.frame 0 88 8)) ∧
      t'.regs.cc = BitVec.ofNat 5 (ofBytes (frameBytes t.frame 0 96 4)) ∧ t'.regs.depth = t.entryDepth ∧
      (t.entryDepth ≠ 0 → t'.regs.stkFmt.get (t.entryDepth - 1) =
          BitVec.ofNat 64 (ofBytes (frameBytes t.frame 0 80 8)) ∧
        ∀ i, (t'.regs.stkEm.get (t.entryDepth - 1)).getLsbD i =
          (decide (i < t.width) && (BitVec.ofNat 64 (ofBytes (frameBytes t.frame 0 72 8))).getLsbD i)) ∧
      (∀ k, k + 1 ≠ t.entryDepth → t'.regs.stkEm.get k = t.regs.stkEm.get k ∧
        t'.regs.stkFmt.get k = t.regs.stkFmt.get k) ∧
      (∀ k, k < 8 → t'.regs.ve.get? k = t.savedVe.get? k) ∧
      (∀ k, 8 ≤ k → t.savedVe.get? k = none → t'.regs.ve.get? k = t.regs.ve.get? k) ∧
      (∀ k, k < 4 → t'.regs.ge.get? k = t.savedGe.get? k) ∧
      (∀ k, 4 ≤ k → t.savedGe.get? k = none → t'.regs.ge.get? k = t.regs.ge.get? k) ∧
      { t'.regs with
        v := t.regs.v, ve := t.regs.ve, g := t.regs.g, ge := t.regs.ge, em := t.regs.em, fmt := t.regs.fmt,
        cc := t.regs.cc, depth := t.regs.depth, stkEm := t.regs.stkEm, stkFmt := t.regs.stkFmt } = t.regs ∧
      t'.stack = t.stack ∧ t'.slice = t.slice)

/-- RDSR of a readable special register writes its value at issue, its low 32 bits for Z32, to the destination; a G
register takes a group's special register whatever EM holds (R136, R157, R158; log 19). The work identifier holds its
six fields one above another from bit 0: F0 the lane index, the fields below RES from the group index, the others the
mixed-radix digits of the workgroup ordinal (R24 to R27). WRSR takes its value from SA under any pattern, in the lowest
lane in EM where SA is a V register, and on the MCC from an S register; Z32 takes its low 32 bits. STKP takes a multiple
of 16 up to KSTK × 16, and in the handler LEASE and TPC take their values; other values trap ILLEGAL/RSV, and LEASE and
TPC outside the handler trap ILLEGAL/OPC. With EM zero nothing is written (R136, R157, R159). -/
def Obligations.SpecialRegisters : Prop :=
  (∀ (s : State) (t : Thread) (f : Std) (n : Nat) (v : Nat → Nat) (w : Nat), s.At t →
     (t.side = .cellar → n ∈ [0x01, 0x10, 0x11]) → f.xt.toNat = n → w = (if f.ty = 6 then 32 else 64) →
       t.canWrite f.dst.toNat (regsOf w) = .ok ⟨⟩ →
     (0x21 ≤ n → n ≤ 0x27 → t.handler = true) →
     (n, v) ∈ [(0x00, fun i => (s.hdrOf t).wid t.gidx (s.wgOf t).ord (if t.side = .mcc then 0 else i)),
       (0x01, fun i => if t.side = .mcc then 0 else i), (0x02, fun _ => t.gidx), (0x03, fun _ => (s.wgOf t).ord),
       (0x04, fun _ => match t.role with
         | .any => 0
         | .copy => 1
         | .matrix => 2
         | .vector => 3), (0x05, fun _ => if t.side = .mcc then 1 else t.width),
       (0x06, fun _ => (s.wgOf t).core), (0x07, fun _ => (s.wgOf t).core / 4), (0x08, fun _ => (s.wgOf t).die),
       (0x09, fun _ => s.pkg), (0x0A, fun _ => (s.launchOf t).part), (0x0B, fun _ => t.regs.extb),
       (0x0C, fun _ => t.regs.stkp), (0x10, fun _ => s.clock.toNat), (0x11, fun _ => s.time.toNat),
       (0x20, fun _ => (s.lease.getD (s.launchOf t).part 0x100000010).toNat), (0x21, fun _ => t.tcause.toNat),
       (0x22, fun _ => t.tpc.toNat), (0x23, fun _ => t.taddr.toNat), (0x24, fun _ => t.tinfo.toNat),
       (0x25, fun _ => (s.hr (0x460 + 8 * (s.launchOf t).part)).toNat), (0x26, fun _ => t.tpte.toNat),
       (0x27, fun _ => (s.hr (0x480 + 8 * (s.launchOf t).part)).toNat)] →
     (n < 2 ∨ f.dst.toNat < 128 ∨ t.side = .mcc → exec (.rdsr f) s =
       .next (s.after t (t.put f.dst.toNat (regsOf w) false w fun i => v i % 2 ^ w).advance)) ∧
     (2 ≤ n → 128 ≤ f.dst.toNat → t.side ≠ .mcc → exec (.rdsr f) s =
       .next (s.after t ({ t with
         regs := t.regs.writeG (f.dst.toNat % 128) (BitVec.ofNat 64 (v 0)) } : Thread).advance))) ∧
  (∀ (h : Header) (g n lane k : Nat), k < 6 →
     fld (h.wid g n lane) ((List.range k).foldl (fun a j => a + h.width j) 0) (h.width k) =
       (if k = 0 then lane
         else if k < h.res then
           g / 2 ^ ((List.range (k - 1)).foldl (fun a j => a + h.width (1 + j)) 0) % 2 ^ h.width k
         else
           n / (List.range (k - h.res)).foldl (fun a j => a * (h.x.getD (h.res + j - 2) 0 + 1)) 1 %
             (h.x.getD (k - 2) 0 + 1)) % 2 ^ h.width k) ∧
  (∀ (s : State) (t : Thread) (f : Std) (i v w : Nat), s.At t → t.busy = false → w = (if f.ty = 6 then 32 else 64) →
     ((f.xt = 0x20 ∨ f.xt = 0x22) → t.handler = false → exec (.wrsr f) s = .next (s.trapped t { cls := 1 })) ∧
     (t.canRead f.a (regsOf w) = .ok ⟨⟩ →
       (t.active = [] → (f.xt = 0x0C ∨ t.handler = true ∧ (f.xt = 0x20 ∨ f.xt = 0x22)) →
         exec (.wrsr f) s = .next (s.after t t.advance)) ∧
       (t.active.head? = some i →
         v = (if t.side = .mcc then (t.regs.s.get f.a.reg.toNat).toNat % 2 ^ w
           else match f.a.pat.toNat with
             | 5 => (t.regs.g.get f.a.q.toNat).toNat % 2 ^ w
             | 6 => immVal f.a.q.toNat w
             | p => vSpan t.regs.v f.a.reg.toNat (srcLane t.width i p f.a.q.toNat) (regsOf w) % 2 ^ w) →
         (f.xt = 0x0C → v % 16 = 0 → v ≤ (s.hdrOf t).kstk * 16 → exec (.wrsr f) s =
           .next (s.after t ({ t with regs := { t.regs with stkp := v } } : Thread).advance)) ∧
         (f.xt = 0x0C → (v % 16 ≠ 0 ∨ (s.hdrOf t).kstk * 16 < v) →
           exec (.wrsr f) s = .next (s.trapped t { cls := 1, sub := 1 })) ∧
         (f.xt = 0x22 → t.handler = true → v % 64 ∈ [0, 12, 24, 36, 48] →
           exec (.wrsr f) s = .next (s.after t ({ t with tpc := BitVec.ofNat 64 v } : Thread).advance)) ∧
         (f.xt = 0x22 → t.handler = true → v % 64 ∉ [0, 12, 24, 36, 48] →
           exec (.wrsr f) s = .next (s.trapped t { cls := 1, sub := 1 })) ∧
         (f.xt = 0x20 → t.handler = true → v / 2 ^ 40 = 0 → v / 2 ^ 20 % 2 ^ 12 = 0 → exec (.wrsr f) s =
           .next (State.after { s with lease := s.lease.put (s.launchOf t).part (BitVec.ofNat 64 v) } t t.advance)) ∧
         (f.xt = 0x20 → t.handler = true → (v / 2 ^ 40 ≠ 0 ∨ v / 2 ^ 20 % 2 ^ 12 ≠ 0) →
           exec (.wrsr f) s = .next (s.trapped t { cls := 1, sub := 1 })))))

/-- LAUNCH of a header record that can be read here appends its 128 bytes to its die's part of the device-side launch
queue with the priority of its launch, or leaves the queue when the partition's holds 4096 entries, and says so in DST
and CC; it changes no other register and no memory (R77, R160). ALLOC.FULL of a workgroup that holds its allotment
completes at once and has no effect, and so does one whose allotment is empty; the first one of another workgroup asks
for its allotment and blocks, and the grant clears the scratchpad and the attic, gives every tile to the matrix unit and
lets the blocked groups go on (R163). ALLOC.REXT within the header's REXT takes its blocks at once when the pool has
them and no request waits, and otherwise waits in the core's queue, whose oldest request is granted when the pool has
its blocks; ALLOC.RREL returns the top blocks. Blocks taken read zero and full. A matrix group has none and traps
ILLEGAL/RSV (R134, R164). -/
def Obligations.LaunchesAndAllotments : Prop :=
  (∀ (s : State) (t : Thread) (f : Eng) (p : Nat → Place), s.At t → t.busy = false → t.canRead f.a 1 = .ok ⟨⟩ →
     t.kept = [] → t.uni f.a % 128 = 0 → (aperture (t.uni f.a)).1 ≠ .lane → (aperture (t.uni f.a)).1 ≠ .pantry →
     (∀ j, j < 16 → s.resolve t .load 0 ((t.uni f.a + 8 * j) % 2 ^ 64) 8 = .ok (p j) ∧ (p j).isRemote = false ∧
       (p j).isDead = false ∧ s.scrWaits t (p j) 8 = false) →
     ∃ s' t' st, exec (.launch f) s = .next s' ∧ s'.threads.get? s.cur = some t' ∧
       t'.regs = ((t.putG f.dst.toNat (BitVec.ofNat 64 st)).setCC { z := st == 0, t := st == 1 }).regs ∧
       t'.pc = t.advance.pc ∧ s'.mem = s.mem ∧
       (s.deviceDepth (s.partOf t) < 4096 → st = 0 ∧ ∃ bs, bs.length = 128 ∧
         (∀ j, j < 16 → (bs.drop (8 * j)).take 8 = s.readPlace t (p j) 8) ∧
         (s'.dies.getD (s.wgOf t).die {}).part = (s.dies.getD (s.wgOf t).die {}).part ++ [(bs, (s.launchOf t).prio)]) ∧
       (4096 ≤ s.deviceDepth (s.partOf t) → st = 1 ∧ s'.dies = s.dies)) ∧
  (∀ (s : State) (t : Thread) (f : Std), s.At t → t.busy = false →
    ((s.wgOf t).full = true → exec (.allocFull f) s = .next (s.after t t.advance)) ∧
    ((s.wgOf t).full = false → (s.hdrOf t).noFull = true → (s.wgs.get? t.wg).isSome = true → t.side ≠ .cellar →
      ∃ s' t', exec (.allocFull f) s = .next s' ∧ (s'.wgOf t).full = true ∧ s'.threads.get? s.cur = some t' ∧
        t'.regs = t.regs ∧ t'.pc = t.advance.pc ∧ t'.status = t.status ∧ s'.mem = s.mem) ∧
    ((s.wgOf t).full = false → (s.hdrOf t).noFull = false → exec (.allocFull f) s =
      .next (State.after (s.updWg t.wg fun g => { g with asked := true }) t { t with status := .allocFull }))) ∧
  (∀ (s : State) (wg : Nat) (g : Wg), s.wgs.get? wg = some g → g.asked = true → g.full = false →
    ∃ s' g', exec (.allocFullGrant wg) s = .next s' ∧ s'.wgs.get? wg = some g' ∧ g'.full = true ∧ g'.attic = [] ∧
      (∀ k x, g'.tiles.get? k = some x → x.cells = [] ∧ x.token = .unit) ∧
      (∀ tid t, s.threads.get? tid = some t → t.wg = wg → t.side ≠ .cellar → t.status = .allocFull →
        ∃ t', s'.threads.get? tid = some t' ∧ t'.status = .running ∧ t'.slice = [] ∧ t'.regs = t.regs) ∧
      (∀ o, 4096 * (s.launchOfWg g).hdr.groups ≤ o →
        o < 4096 * (s.launchOfWg g).hdr.groups + 4096 * (s.launchOfWg g).hdr.fscr → g'.scr.get o = 0) ∧
      ((s.launchOfWg g).hdr.groups % 4 = 0 ∨ (s.launchOfWg g).hdr.groups / 4 ∈ g.pinned → s'.mem = s.mem)) ∧
  (∀ (s : State) (t : Thread) (f : Std) (n : Nat), s.At t → t.busy = false → t.side = .wide → f.xt.toNat % 8 = n →
    (t.regs.extb + n ≤ (s.hdrOf t).rext → (s.cores.getD (s.coreOf t) {}).rextQ = [] → s.extFits t n = true →
      exec (.allocRext f) s = .next (s.after t ({ t with regs := t.regs.takeBlocks n } : Thread).advance)) ∧
    (t.regs.extb + n ≤ (s.hdrOf t).rext → ((s.cores.getD (s.coreOf t) {}).rextQ ≠ [] ∨ s.extFits t n = false) →
      exec (.allocRext f) s = .next (State.after (s.updCore (s.coreOf t) fun c => { c with rextQ := c.rextQ ++ [s.cur] })
        t { t with status := .rext n })) ∧
    ((s.hdrOf t).rext < t.regs.extb + n →
      exec (.allocRext f) s = .next (s.trapped t { cls := 1, sub := 1 })) ∧
    (n ≤ t.regs.extb →
      exec (.allocRrel f) s = .next (s.after t ({ t with regs := t.regs.dropBlocks n } : Thread).advance)) ∧
    (t.regs.extb < n → exec (.allocRrel f) s = .next (s.trapped t { cls := 1, sub := 1 }))) ∧
  (∀ (s : State) (t : Thread) (f : Std) (i : Instr), s.At t → t.busy = false → t.side = .mcc →
    i ∈ [.allocRext f, .allocRrel f] → exec i s = .next (s.trapped t { cls := 1, sub := 1 })) ∧
  (∀ (s : State) (core tid n : Nat) (rest : List Nat) (t : Thread), (s.cores.getD core {}).rextQ = tid :: rest →
    s.threads.get? tid = some t → t.status = .rext n → s.extFits t n = true →
    exec (.rextGrant core) s = .next ((s.updCore core fun c => { c with rextQ := rest }).putThread tid
      (({ t with status := .running, regs := t.regs.takeBlocks n } : Thread).advance))) ∧
  (∀ (r : Regs) (n k i : Nat), i < 64 → (r.takeBlocks n).extb = r.extb + n ∧
    (32 + 16 * r.extb ≤ k → k < 32 + 16 * (r.extb + n) →
      (r.takeBlocks n).v.get (64 * k + i) = 0 ∧ (r.takeBlocks n).ve.get? k = none) ∧
    (k < 32 + 16 * r.extb → (r.takeBlocks n).v.get (64 * k + i) = r.v.get (64 * k + i) ∧
      (r.takeBlocks n).ve.get? k = r.ve.get? k))

/-! ### Integer instructions -/

/-- A lane-wise result goes to the destination and nowhere else: a V register, or the registers that a wide value spans,
in the lanes of EM, which it takes over; a G register with the value of the lowest lane in EM, untouched when EM is
zero; on the MCC an S register. Every other register, lane, mask and flag stays (R136, R141, R166). -/
def Obligations.ResultsGoToTheDestination : Prop :=
  ∀ (t : Thread) (d n bits : Nat) (sg : Bool) (v : Nat → Nat), t.width ≤ 64 →
    (t.side ≠ .mcc → d < 128 →
      (∀ i j, i ∈ t.active → j < n → (t.put d n sg bits v).regs.v.get (64 * (d + j) + i) =
        BitVec.ofNat 32 (extend sg bits (32 * n) (v i) / 2 ^ (32 * j))) ∧
      (∀ i k, i < 64 → (i ∉ t.active ∨ k < d ∨ d + n ≤ k) →
        (t.put d n sg bits v).regs.v.get (64 * k + i) = t.regs.v.get (64 * k + i)) ∧
      (∀ k, (t.put d n sg bits v).regs.ve.get? k =
        if t.active ≠ [] ∧ d ≤ k ∧ k < d + n then none else t.regs.ve.get? k) ∧
      (t.put d n sg bits v).regs.g = t.regs.g ∧ (t.put d n sg bits v).regs.ge = t.regs.ge ∧
      (t.put d n sg bits v).regs.s = t.regs.s) ∧
    (t.side ≠ .mcc → 128 ≤ d → t.active = [] → t.put d n sg bits v = t) ∧
    (∀ i rest, t.side ≠ .mcc → 128 ≤ d → t.active = i :: rest → (t.put d n sg bits v).regs =
      { t.regs with
        g := t.regs.g.set (d - 128) (BitVec.ofNat 64 (extend sg bits 64 (v i)))
        ge := t.regs.ge.filter fun e => e.1 ≠ d - 128 }) ∧
    (t.side = .mcc → (t.put d n sg bits v).regs =
      { t.regs with s := t.regs.s.set d (BitVec.ofNat 64 (extend sg bits 64 (v 0))) }) ∧
    { t.put d n sg bits v with regs := t.regs } = t ∧
    (t.put d n sg bits v).regs.m = t.regs.m ∧ (t.put d n sg bits v).regs.em = t.regs.em ∧
    (t.put d n sg bits v).regs.cc = t.regs.cc ∧ (t.put d n sg bits v).regs.fmt = t.regs.fmt ∧
    (t.put d n sg bits v).regs.fpm = t.regs.fpm ∧ (t.put d n sg bits v).regs.pth = t.regs.pth ∧
    (t.put d n sg bits v).regs.stkEm = t.regs.stkEm ∧ (t.put d n sg bits v).regs.stkFmt = t.regs.stkFmt ∧
    (t.put d n sg bits v).regs.depth = t.regs.depth ∧ (t.put d n sg bits v).regs.stkp = t.regs.stkp ∧
    (t.put d n sg bits v).regs.extb = t.regs.extb

/-- IADD, ISUB, IMUL, IMULH, IADDS, IMIN and IMAX with full operands write the result of R167 to every lane in EM, with
the flags of R175, and go on: nothing else changes (R167, R175). IDIV and IREM never trap: division by zero gives all
ones and the dividend, the most negative value by −1 gives itself and 0, and otherwise the quotient truncates toward
zero; V marks the first two (R168). AND, OR, XOR, ANDN, SHL, SHR, SAR and ROT with full operands write the result of
R167, with C and V clear (R167, R175). -/
def Obligations.IntegerTwoOperands : Prop :=
  (∀ (s : State) (t : Thread) (f : Std) (w : Nat) (sg : Bool) (i : Instr) (r : Nat → Nat → Int × Bool × Bool),
     s.At t → w = tyBits f.xty f.ty → 0 < w → sg = tySigned f.xty f.ty → t.canWrite f.dst.toNat (regsOf w) = .ok ⟨⟩ →
     t.canRead f.a (regsOf w) = .ok ⟨⟩ → t.canRead f.b (regsOf w) = .ok ⟨⟩ →
     (i, r) ∈ ([
       (Instr.iadd f, fun a b => ((a : Int) + b, decide (2 ^ w ≤ a + b), outOf true w (valueOf true w a + valueOf true w b))),
       (.isub f, fun a b => ((a : Int) - b, decide (b ≤ a), outOf true w (valueOf true w a - valueOf true w b))),
       (.imul f, fun a b => ((a : Int) * b, false, outOf sg w (valueOf sg w a * valueOf sg w b))),
       (.imulh f, fun a b => (valueOf sg w a * valueOf sg w b / 2 ^ w, false, false)),
       (.iadds f, fun a b =>
         let x := valueOf sg w a + valueOf sg w b
         (if sg then (if x < -(2 ^ (w - 1)) then -(2 ^ (w - 1)) else if 2 ^ (w - 1) ≤ x then 2 ^ (w - 1) - 1 else x)
           else if 2 ^ w ≤ x then 2 ^ w - 1 else x, false, outOf sg w x)),
       (.imin f, fun a b => ((if valueOf sg w a ≤ valueOf sg w b then a else b : Nat), false, false)),
       (.imax f, fun a b => ((if valueOf sg w a ≤ valueOf sg w b then b else a : Nat), false, false))] :
       List (Instr × (Nat → Nat → Int × Bool × Bool))) →
     exec i s = .next (s.after t (t.gotInt f sg w
       (fun k => ((r (t.opnd f.a (regsOf w) w k) (t.opnd f.b (regsOf w) w k)).1 % 2 ^ w).toNat)
       (fun k => (r (t.opnd f.a (regsOf w) w k) (t.opnd f.b (regsOf w) w k)).2.1)
       (fun k => (r (t.opnd f.a (regsOf w) w k) (t.opnd f.b (regsOf w) w k)).2.2)).advance)) ∧
  (∀ (s : State) (t : Thread) (f : Std) (w : Nat) (sg : Bool) (i : Instr) (r : Nat → Nat → Int),
     s.At t → w = tyBits f.xty f.ty → 0 < w → sg = tySigned f.xty f.ty →
     t.canWrite f.dst.toNat (regsOf w) = .ok ⟨⟩ → t.canRead f.a (regsOf w) = .ok ⟨⟩ → t.canRead f.b (regsOf w) = .ok ⟨⟩ →
     (i, r) ∈ ([
       (Instr.idiv f, fun a b =>
         if b = 0 then 2 ^ w - 1
         else if sg = true ∧ a = 2 ^ (w - 1) ∧ b = 2 ^ w - 1 then 2 ^ (w - 1)
         else (valueOf sg w a).tdiv (valueOf sg w b)),
       (.irem f, fun a b =>
         if b = 0 then a
         else if sg = true ∧ a = 2 ^ (w - 1) ∧ b = 2 ^ w - 1 then 0
         else valueOf sg w a - valueOf sg w b * (valueOf sg w a).tdiv (valueOf sg w b))] :
       List (Instr × (Nat → Nat → Int))) →
     exec i s = .next (s.after t (t.gotInt f sg w
       (fun k => (r (t.opnd f.a (regsOf w) w k) (t.opnd f.b (regsOf w) w k) % 2 ^ w).toNat) (fun _ => false)
       (fun k => t.opnd f.b (regsOf w) w k == 0 ||
         (sg && t.opnd f.a (regsOf w) w k == 2 ^ (w - 1) && t.opnd f.b (regsOf w) w k == 2 ^ w - 1))).advance)) ∧
  (∀ (s : State) (t : Thread) (f : Std) (w : Nat) (sg : Bool) (i : Instr) (r : BitVec w → BitVec w → BitVec w),
     s.At t → w = tyBits f.xty f.ty → 0 < w → sg = tySigned f.xty f.ty → t.canWrite f.dst.toNat (regsOf w) = .ok ⟨⟩ →
     t.canRead f.a (regsOf w) = .ok ⟨⟩ → t.canRead f.b (regsOf w) = .ok ⟨⟩ →
     (i, r) ∈ [
       (Instr.and f, fun a b => a &&& b), (.or f, fun a b => a ||| b), (.xor f, fun a b => a ^^^ b),
       (.andn f, fun a b => a &&& ~~~b), (.shl f, fun a b => a <<< b.toNat), (.shr f, fun a b => a >>> b.toNat),
       (.sar f, fun a b => a.sshiftRight b.toNat), (.rot f, fun a b => a.rotateLeft (b.toNat % w))] →
     exec i s = .next (s.after t (t.gotInt f sg w
       (fun k => (r (BitVec.ofNat w (t.opnd f.a (regsOf w) w k)) (BitVec.ofNat w (t.opnd f.b (regsOf w) w k))).toNat)
       (fun _ => false) (fun _ => false)).advance))

/-- IABS, INEG, POPC, CLZ and BREV with a full operand write the result of R167, with the flags of R175: the absolute
value, whose corner stays itself and sets V; the negation; the number of ones; the position of the highest one; and the
bits in reverse. IMAD, IMADW, BFX and BFI: multiply and add at the width and at twice the width, field extraction and
insertion with position and length cut to the width (R167, R169, R170, R175). -/
def Obligations.IntegerOtherForms : Prop :=
  (∀ (s : State) (t : Thread) (f : Std) (w : Nat) (sg : Bool), s.At t → w = tyBits f.xty f.ty → 0 < w →
     sg = tySigned f.xty f.ty → t.canWrite f.dst.toNat (regsOf w) = .ok ⟨⟩ → t.canRead f.a (regsOf w) = .ok ⟨⟩ →
     ∃ abs neg pop clz rev : Nat → Nat,
       exec (.iabs f) s = .next (s.after t (t.gotInt f sg w (fun k => abs (t.opnd f.a (regsOf w) w k)) (fun _ => false)
         (fun k => t.opnd f.a (regsOf w) w k == 2 ^ (w - 1))).advance) ∧
       exec (.ineg f) s = .next (s.after t (t.gotInt f sg w (fun k => neg (t.opnd f.a (regsOf w) w k))
         (fun k => t.opnd f.a (regsOf w) w k == 0) (fun k => t.opnd f.a (regsOf w) w k == 2 ^ (w - 1))).advance) ∧
       exec (.popc f) s = .next (s.after t (t.gotInt f sg w (fun k => pop (t.opnd f.a (regsOf w) w k)) (fun _ => false)
         (fun _ => false)).advance) ∧
       exec (.clz f) s = .next (s.after t (t.gotInt f sg w (fun k => clz (t.opnd f.a (regsOf w) w k)) (fun _ => false)
         (fun _ => false)).advance) ∧
       exec (.brev f) s = .next (s.after t (t.gotInt f sg w (fun k => rev (t.opnd f.a (regsOf w) w k)) (fun _ => false)
         (fun _ => false)).advance) ∧
       ∀ a, a < 2 ^ w →
         ((abs a : Int) = if a < 2 ^ (w - 1) then (a : Int) else 2 ^ w - a) ∧
         neg a = (2 ^ w - a) % 2 ^ w ∧
         pop a = ((List.range w).filter fun k => a.testBit k).length ∧
         (a = 0 → clz a = w) ∧ (a ≠ 0 → clz a < w ∧ 2 ^ (w - 1 - clz a) ≤ a ∧ a < 2 ^ (w - clz a)) ∧
         rev a < 2 ^ w ∧ ∀ k, k < w → (rev a).testBit k = a.testBit (w - 1 - k)) ∧
  (∀ (s : State) (t : Thread) (f : Std) (w : Nat) (sg : Bool), s.At t → w = tyBits f.xty f.ty → 0 < w →
     sg = tySigned f.xty f.ty → t.canRead f.a (regsOf w) = .ok ⟨⟩ → t.canRead f.b (regsOf w) = .ok ⟨⟩ →
     (t.canWrite f.dst.toNat (regsOf w) = .ok ⟨⟩ → t.canRead f.c (regsOf w) = .ok ⟨⟩ →
       exec (.imad f) s = .next (s.after t (t.gotInt f sg w
         (fun k => (t.opnd f.a (regsOf w) w k * t.opnd f.b (regsOf w) w k + t.opnd f.c (regsOf w) w k) % 2 ^ w)
         (fun _ => false)
         (fun k => outOf sg w (valueOf sg w (t.opnd f.a (regsOf w) w k) * valueOf sg w (t.opnd f.b (regsOf w) w k) +
           valueOf sg w (t.opnd f.c (regsOf w) w k)))).advance)) ∧
     (t.canWrite f.dst.toNat (regsOf (2 * w)) = .ok ⟨⟩ → t.canRead f.c (regsOf (2 * w)) = .ok ⟨⟩ →
       exec (.imadw f) s = .next (s.after t (t.gotInt f sg (2 * w)
         (fun k => ((valueOf sg w (t.opnd f.a (regsOf w) w k) * valueOf sg w (t.opnd f.b (regsOf w) w k) +
           valueOf sg (2 * w) (t.opnd f.c (regsOf (2 * w)) (2 * w) k)) % 2 ^ (2 * w)).toNat)
         (fun _ => false)
         (fun k => outOf sg (2 * w) (valueOf sg w (t.opnd f.a (regsOf w) w k) * valueOf sg w (t.opnd f.b (regsOf w) w k) +
           valueOf sg (2 * w) (t.opnd f.c (regsOf (2 * w)) (2 * w) k)))).advance)) ∧
     (t.canWrite f.dst.toNat (regsOf w) = .ok ⟨⟩ → ∃ x : Nat → Nat → Nat,
       exec (.bfx f) s = .next (s.after t (t.gotInt f sg w
         (fun k => x (t.opnd f.a (regsOf w) w k) (t.opnd f.b (regsOf w) 32 k)) (fun _ => false) (fun _ => false)).advance) ∧
       ∀ a p n, n = min (p / 256 % 256) (w - p % 256) →
         ((w ≤ p % 256 ∨ n = 0) → x a p = 0) ∧
         (p % 256 < w → 0 < n → x a p < 2 ^ w ∧ ∀ k, k < w →
           (x a p).testBit k = if k < n then a.testBit (p % 256 + k) else (sg && a.testBit (p % 256 + n - 1)))) ∧
     (t.canWrite f.dst.toNat (regsOf w) = .ok ⟨⟩ → t.canRead f.c (regsOf w) = .ok ⟨⟩ → ∃ x : Nat → Nat → Nat → Nat,
       exec (.bfi f) s = .next (s.after t (t.gotInt f sg w
         (fun k => x (t.opnd f.a (regsOf w) w k) (t.opnd f.b (regsOf w) w k) (t.opnd f.c (regsOf w) 32 k))
         (fun _ => false) (fun _ => false)).advance) ∧
       ∀ a b p n, n = min (p / 256 % 256) (w - p % 256) →
         ((w ≤ p % 256 ∨ n = 0) → x a b p = a) ∧
         (p % 256 < w → 0 < n → ∀ k, (x a b p).testBit k =
           if p % 256 ≤ k ∧ k < p % 256 + n then b.testBit (k - p % 256) else a.testBit k)))

/-- ICMP writes a mask whose bit i says that lane i is in EM and the comparison of OP holds, and CC: Z for a zero
result, T for one equal to EM (R171). SEL takes lane i from a or from b by bit i of its mask; MOV writes its operand;
MOVI its immediate, sign-extended for S types, cut to the width. They write no flag (R171, R172). WIDX writes field k of
each lane's WID, or with XT[3] what the field counts to, cut to the width, and no flag (R174). -/
def Obligations.ComparesMovesAndFields : Prop :=
  (∀ (s : State) (t : Thread) (f : Std) (w : Nat) (sg : Bool), s.At t → w = tyBits f.xty f.ty →
     sg = tySigned f.xty f.ty → t.canRead f.a (regsOf w) = .ok ⟨⟩ → t.canRead f.b (regsOf w) = .ok ⟨⟩ →
     f.op.toNat < 6 → t.side ≠ .mcc → t.width ≤ 64 → ∃ m : BitVec 64,
       (∀ k, m.getLsbD k = (decide (k < t.width) && t.regs.em.getLsbD k &&
         (let a := valueOf sg w (t.opnd f.a (regsOf w) w k)
          let b := valueOf sg w (t.opnd f.b (regsOf w) w k)
          [decide (a = b), decide (a ≠ b), decide (a < b), decide (a ≤ b), decide (b < a), decide (b ≤ a)].getD f.op.toNat
            false))) ∧
       exec (.icmp f) s = .next (s.after t ((t.setMask f.dst.toNat m).setCC
         { z := decide (m = 0), t := decide (m = t.regs.em) }).advance)) ∧
  (∀ (s : State) (t : Thread) (f : Std) (g : I32), s.At t →
     (∀ w, w = tyBits f.xty f.ty → t.canWrite f.dst.toNat (regsOf w) = .ok ⟨⟩ → t.canRead f.a (regsOf w) = .ok ⟨⟩ →
       exec (.mov f) s = .next (s.after t
         (t.put f.dst.toNat (regsOf w) (tySigned f.xty f.ty) w fun k => t.opnd f.a (regsOf w) w k).advance) ∧
       (t.canRead f.b (regsOf w) = .ok ⟨⟩ → exec (.sel f) s = .next (s.after t
         (t.put f.dst.toNat (regsOf w) (tySigned f.xty f.ty) w fun k =>
           if (t.mask f.c.reg.toNat).getLsbD k then t.opnd f.a (regsOf w) w k
           else t.opnd f.b (regsOf w) w k).advance))) ∧
     (∀ w, w = tyBits g.xty g.ty → w ≤ 64 → t.canWrite g.dst.toNat (regsOf w) = .ok ⟨⟩ →
       exec (.movi g) s = .next (s.after t
         (t.put g.dst.toNat (regsOf w) (tySigned g.xty g.ty) w fun _ =>
           ((if tySigned g.xty g.ty then g.imm.toInt else g.imm.toNat) % 2 ^ w).toNat).advance))) ∧
  (∀ (s : State) (t : Thread) (f : Std) (w k : Nat) (h : Header), s.At t → t.side = .wide → f.xty = 0 →
     w = (if f.ty = 6 then 32 else 64) → (f.ty = 6 ∨ f.ty = 7) → t.canWrite f.dst.toNat (regsOf w) = .ok ⟨⟩ →
     h = s.hdrOf t → (f.xt.toNat = k ∨ f.xt.toNat = k + 8) → k < 6 →
     exec (.widx f) s = .next (s.after t (t.put f.dst.toNat (regsOf w) false w fun i =>
       (if f.xt.toNat = k + 8 then (if k < h.res then 2 ^ h.width k else h.x.getD (k - 2) 0 + 1)
         else h.field t.gidx (s.wgOf t).ord i k) % 2 ^ w).advance))

/-- LEA takes the MEM format of R110, with SA, FPC and HINT zero and TY Z64. It writes each lane's address of R111 to a
G register, or to an even V pair. It makes no access, translates nothing and raises no fault. -/
def Obligations.LeaWritesTheAddress : Prop :=
  ∀ (s : State) (t : Thread) (f : Mem), s.At t → t.side ≠ .mcc →
    (t.canWrite f.dst.toNat 2 = .ok ⟨⟩ → t.canReadG f.gb.toNat = .ok ⟨⟩ → t.canRead f.ix 1 = .ok ⟨⟩ →
     exec (.lea f) s = .next (s.after t (t.put f.dst.toNat 2 false 64 fun k =>
      (((t.regs.g.get f.gb.toNat).toNat +
        (if f.isx = 1 then (BitVec.ofNat 32 (t.opnd f.ix 1 32 k)).toInt else t.opnd f.ix 1 32 k) * 2 ^ f.sh.toNat +
        f.ofs.toInt) % 2 ^ 64 : Int).toNat).advance)) ∧
    (∀ e, (Instr.lea f).fieldsOk e = true → f.a = .zero ∧ f.fpc = 0 ∧ f.hint = 0 ∧ f.op = 0 ∧ f.xty = 0 ∧ f.ty = 7 ∧
      (e = .wide → (f.dst.toNat < 128 ∧ f.dst.toNat % 2 = 0) ∨ (128 ≤ f.dst.toNat ∧ f.dst.toNat < 144)))

/-! ### Masks and group-wide instructions -/

/-- A mask write keeps bits 0 to W − 1 and leaves the others zero, in M0 to M7 and, as number 8, in EM; no other mask
changes (R115, R135). -/
def Obligations.MaskWrites : Prop :=
  ∀ (t : Thread) (k : Nat) (v : BitVec 64), k ≤ 8 →
    (∀ i, ((t.setMask k v).mask k).getLsbD i = (decide (i < t.width) && v.getLsbD i)) ∧
    (∀ j, j ≠ k → j ≤ 8 → (t.setMask k v).mask j = t.mask j) ∧
    { t.setMask k v with regs := t.regs } = t ∧
    { (t.setMask k v).regs with em := t.regs.em, m := t.regs.m } = t.regs

/-- Each wide-side group has a mask stack of 8 entries, and each Cellar unit has a stack of 4. An entry holds an EM
value and an FMT value. MIF pushes EM and FMT and narrows EM, MELSE takes the lanes of the top entry that are not in EM
with its FMT, MEND pops; at a full or empty stack they trap MASK and leave the stack, EM and FMT unchanged (R138). -/
def Obligations.MaskStack : Prop :=
  ∀ (s : State) (t : Thread) (f : Std) (limit : Nat), s.At t → limit = (if t.side = .cellar then 4 else 8) →
    (t.regs.depth ≠ limit → exec (.mif f) s = .next (s.after t
      (({ t with regs := { t.regs with
          stkEm := t.regs.stkEm.set t.regs.depth t.regs.em
          stkFmt := t.regs.stkFmt.set t.regs.depth t.regs.fmt
          depth := t.regs.depth + 1
          em := t.regs.em &&& t.mask f.a.reg.toNat } } : Thread).advance))) ∧
    (t.regs.depth ≠ 0 → exec (.melse f) s = .next (s.after t
      (({ t with regs := { t.regs with
          em := t.regs.stkEm.get (t.regs.depth - 1) &&& ~~~t.regs.em
          fmt := t.regs.stkFmt.get (t.regs.depth - 1) } } : Thread).advance))) ∧
    (t.regs.depth ≠ 0 → exec (.mend f) s = .next (s.after t
      (({ t with regs := { t.regs with
          em := t.regs.stkEm.get (t.regs.depth - 1)
          fmt := t.regs.stkFmt.get (t.regs.depth - 1)
          depth := t.regs.depth - 1 } } : Thread).advance))) ∧
    (t.busy = false → t.regs.depth = limit →
      exec (.mif f) s = .next (s.trapped t { cls := 3, info := t.regs.depth })) ∧
    (t.busy = false → t.regs.depth = 0 →
      exec (.melse f) s = .next (s.trapped t { cls := 3, info := 0 }) ∧
      exec (.mend f) s = .next (s.trapped t { cls := 3, info := 0 }))

/-- MSET writes its value to the mask; MLOG the result of AND, OR, XOR, ANDN or NOT with CC as ICMP writes it; MSTAT the
depth, a mask or the top entry's EM; MPOPC the number of ones and MFIRST the index of the lowest one, 64 for none, with
Z for an empty mask (R182). SETFMT writes FMT whole and GETFMT reads it without its reserved bits; FSTAT reads FPM and,
without KEEP, clears the five flags; SETFPM writes the mode bits and leaves the flags, and traps ILLEGAL/RSV for SUB 3
(R57, R61, R205). -/
def Obligations.MasksAndModes : Prop :=
  (∀ (s : State) (t : Thread) (f : Std) (a b : BitVec 64), s.At t → a = t.mask f.a.reg.toNat →
     b = t.mask f.b.reg.toNat →
     (t.canRead f.a 1 = .ok ⟨⟩ → exec (.mset f) s = .next (s.after t
       (t.setMask f.dst.toNat (BitVec.ofNat 64 (t.opnd f.a 1 64 0))).advance)) ∧
     (∀ r : BitVec 64, (f.op.toNat, r) ∈ [(0, a &&& b), (1, a ||| b), (2, a ^^^ b), (3, a &&& ~~~b), (4, ~~~a)] →
       exec (.mlog f) s = .next (s.after t ((t.setMask f.dst.toNat r).setCC
         { z := decide (t.trim r = 0), t := decide (t.trim r = t.regs.em) }).advance)) ∧
     (∀ v : W64, (f.xt.toNat, v) ∈ [(0, BitVec.ofNat 64 t.regs.depth), (1, a),
         (2, if t.regs.depth = 0 then 0 else t.regs.stkEm.get (t.regs.depth - 1))] →
       exec (.mstat f) s = .next (s.after t (t.putG f.dst.toNat v).advance)) ∧
     exec (.mpopc f) s = .next (s.after t ((t.putG f.dst.toNat
       (BitVec.ofNat 64 ((List.range 64).filter fun i => a.getLsbD i).length)).setCC { z := decide (a = 0) }).advance) ∧
     exec (.mfirst f) s = .next (s.after t ((t.putG f.dst.toNat
       (BitVec.ofNat 64 (((List.range 64).find? fun i => a.getLsbD i).getD 64))).setCC { z := decide (a = 0) }).advance)) ∧
  (∀ (s : State) (t : Thread) (f : Std) (v : Nat), s.At t → v = t.opnd f.a 1 64 0 →
     (t.canRead f.a 1 = .ok ⟨⟩ → exec (.setfmt f) s = .next (s.after t
       (({ t with regs := { t.regs with fmt := BitVec.ofNat 64 v } } : Thread).advance))) ∧
     exec (.getfmt f) s = .next (s.after t (t.putG f.dst.toNat (t.regs.fmt &&& 0x000000FF3E3FF3FF)).advance) ∧
     (f.xt.getLsbD 0 = true → exec (.fstat f) s = .next (s.after t
       (t.putG f.dst.toNat (t.regs.fpm.setWidth 64)).advance)) ∧
     (f.xt.getLsbD 0 = false → ∃ u : Thread, exec (.fstat f) s = .next (s.after t u.advance) ∧
       u.regs.fpm = t.regs.fpm &&& ~~~(0x1F00 : W32) ∧
       { u with regs := { u.regs with fpm := t.regs.fpm } } = t.putG f.dst.toNat (t.regs.fpm.setWidth 64)) ∧
     (t.canRead f.a 1 = .ok ⟨⟩ → v / 64 % 4 ≠ 3 → ∃ w : W32, exec (.setfpm f) s = .next (s.after t
       (({ t with regs := { t.regs with fpm := w } } : Thread).advance)) ∧
       ∀ i, w.getLsbD i = if 2 ≤ i ∧ i < 8 then v.testBit i else t.regs.fpm.getLsbD i) ∧
     (t.canRead f.a 1 = .ok ⟨⟩ → t.busy = false → v / 64 % 4 = 3 →
       exec (.setfpm f) s = .next (s.trapped t { cls := 1, sub := 1 })))

/-- MSAVE at an address that its checks allow makes the twenty 8-byte stores of the mask-state record: EM, FMT as GETFMT
reads it, the depth, zero, and the entries, their FMT without its reserved bits too, those above the depth zero; nothing
else changes (R5, R183, R184); that the stores in this package are made at its issue is log 7. MLOAD of a record that
can be read here takes EM, FMT, the depth and the entries up to it from the twenty words, EM values cut to the group's
lanes, and changes no other register and no memory; a depth above 8 traps MASK (R183, R184); that the loads in this
package are made at its issue is log 7. -/
def Obligations.MaskRecords : Prop :=
  (∀ (s : State) (t : Thread) (f : Std) (a : Nat) (ps : List (Nat × Nat × Place)) (r : State × Thread), s.At t →
     t.busy = false → t.canRead f.a 1 = .ok ⟨⟩ → a = t.opnd f.a 1 64 0 → a % 32 = 0 → t.regs.depth ≤ 8 →
     (aperture a).1 ≠ .lane → (aperture a).1 ≠ .pantry →
     s.resolveAll t .store 8 true ((List.range 20).map fun j => (0, (a + 8 * j) % 2 ^ 64)) = .ok ps →
     (∀ p ∈ ps, p.2.2.isRemote = false ∧ s.scrWaits t p.2.2 8 = false) →
     r = s.storePlaces t (ps.zipIdx.map fun p => (p.1.2.2, toBytes
       (if p.2 = 0 then t.regs.em.toNat
         else if p.2 = 1 then (t.regs.fmt &&& 0x000000FF3E3FF3FF).toNat
         else if p.2 = 2 then t.regs.depth
         else if p.2 = 3 ∨ t.regs.depth ≤ (p.2 - 4) / 2 then 0
         else if p.2 % 2 = 0 then (t.regs.stkEm.get ((p.2 - 4) / 2)).toNat
         else (t.regs.stkFmt.get ((p.2 - 4) / 2) &&& 0x000000FF3E3FF3FF).toNat) 8)) →
     exec (.msave f) s = .next ((r.1.counted r.2).putThread s.cur r.2.advance)) ∧
  (∀ (s : State) (t : Thread) (f : Std) (a w : Nat) (p : Nat → Place), s.At t → t.busy = false →
     t.kept = [] → t.canRead f.a 1 = .ok ⟨⟩ → a = t.opnd f.a 1 64 0 → a % 32 = 0 → (aperture a).1 ≠ .lane →
       (aperture a).1 ≠ .pantry →
     (∀ j, j < 20 → s.resolve t .load 0 ((a + 8 * j) % 2 ^ 64) 8 = .ok (p j) ∧ (p j).isRemote = false ∧
       (p j).isDead = false ∧ s.scrWaits t (p j) 8 = false) →
     w = ofBytes ((List.range 20).flatMap fun j => s.readPlace t (p j) 8) →
     (8 < fld w 128 4 → exec (.mload f) s = .next (s.trapped t { cls := 3, info := t.regs.depth })) ∧
     (fld w 128 4 ≤ 8 → ∃ s' t', exec (.mload f) s = .next s' ∧ s'.threads.get? s.cur = some t' ∧
       t'.pc = t.advance.pc ∧ s'.mem = s.mem ∧
       t'.regs.em = t.trim (BitVec.ofNat 64 (fld w 0 64)) ∧ t'.regs.fmt = BitVec.ofNat 64 (fld w 64 64) ∧
       t'.regs.depth = fld w 128 4 ∧
       (∀ k, k < fld w 128 4 → t'.regs.stkEm.get k = t.trim (BitVec.ofNat 64 (fld w (256 + 128 * k) 64)) ∧
         t'.regs.stkFmt.get k = BitVec.ofNat 64 (fld w (320 + 128 * k) 64)) ∧
       { t'.regs with em := t.regs.em, fmt := t.regs.fmt, depth := t.regs.depth, stkEm := t.regs.stkEm,
                      stkFmt := t.regs.stkFmt } = t.regs))

/-- BALLOT gathers which lanes of EM hold a non-zero value, with CC as ICMP writes it; BCNT gives each lane the number
of ones below it in a mask, with INC at or below it; VSHFL gives lane i the operand of the lane that its index names,
modulo W (R185, R186). RSEL takes the candidates in EM whose key bit is one when they are at most k, and otherwise
narrows the candidates to them; its TIE form takes the lowest ones. What is left of k goes to DST and CC, and with k
zero no candidate is left (R190). -/
def Obligations.GroupWideInstructions : Prop :=
  (∀ (s : State) (t : Thread) (f : Std) (w : Nat), s.At t → t.side ≠ .mcc → t.width ≤ 64 → w = tyBits f.xty f.ty →
     (t.canRead f.a (regsOf w) = .ok ⟨⟩ → ∃ m : BitVec 64,
       (∀ k, m.getLsbD k = (decide (k < t.width) && t.regs.em.getLsbD k && decide (t.opnd f.a (regsOf w) w k ≠ 0))) ∧
       exec (.ballot f) s = .next (s.after t ((t.setMask f.dst.toNat m).setCC
         { z := decide (m = 0), t := decide (m = t.regs.em) }).advance)) ∧
     (t.canWrite f.dst.toNat 1 = .ok ⟨⟩ → exec (.bcnt f) s = .next (s.after t
       (t.put f.dst.toNat 1 false 32 fun k =>
         ((List.range (if f.xt.getLsbD 0 then k + 1 else k)).filter fun j =>
           (t.mask f.a.reg.toNat).getLsbD j).length).advance)) ∧
     (t.canWrite f.dst.toNat (regsOf w) = .ok ⟨⟩ → t.canRead f.a (regsOf w) = .ok ⟨⟩ → t.canRead f.b 1 = .ok ⟨⟩ →
       exec (.vshfl f) s = .next (s.after t
         (t.put f.dst.toNat (regsOf w) false w fun k =>
           t.opnd f.a (regsOf w) w (t.opnd f.b 1 32 k % t.width)).advance))) ∧
  (∀ (s : State) (t : Thread) (f : Std) (w k x y : Nat) (c : BitVec 64), s.At t → t.side = .wide → t.width ≤ 64 →
     w = tyBits f.xty f.ty → t.canRead f.c 1 = .ok ⟨⟩ → k = t.opnd f.c 1 64 0 → x = f.xt.toNat % 8 →
     y = f.xt.toNat / 8 % 8 → c = t.mask x &&& t.regs.em →
     ∀ count : BitVec 64 → Nat, (∀ m, count m = ((List.range 64).filter fun i => m.getLsbD i).length) →
     (∀ one : BitVec 64, t.canRead f.a (regsOf w) = .ok ⟨⟩ → t.canRead f.b 1 = .ok ⟨⟩ →
       (∀ i, one.getLsbD i = (decide (i < t.width) && c.getLsbD i && decide (t.opnd f.b 1 64 0 % 64 < w) &&
         (t.opnd f.a (regsOf w) w i).testBit (t.opnd f.b 1 64 0 % 64))) →
       exec (.rsel f) s = .next (s.after t
         (if count one ≤ k then
           (((t.setMask x (if k - count one = 0 then 0 else c &&& ~~~one)).setMask y (t.mask y ||| one)).putG f.dst.toNat
             (BitVec.ofNat 64 (k - count one))).setCC
               { z := decide (k = count one)
                 t := decide (count (if k - count one = 0 then 0 else c &&& ~~~one) = k - count one) }
         else
           (((t.setMask x (if k = 0 then 0 else one)).setMask y (t.mask y)).putG f.dst.toNat (BitVec.ofNat 64 k)).setCC
             { z := decide (k = 0), t := decide (count (if k = 0 then 0 else one) = k) }).advance)) ∧
     ∃ take : BitVec 64, count take = min k (count c) ∧ take &&& c = take ∧
       (∀ i j, take.getLsbD i = true → c.getLsbD j = true → take.getLsbD j = false → i < j) ∧
       exec (.rselTie f) s = .next (s.after t
         ((((t.setMask x 0).setMask y (t.mask y ||| take)).putG f.dst.toNat (BitVec.ofNat 64 (k - count take))).setCC
           { z := decide (k = count take), t := decide (k = count take) }).advance))

/-! ### Floating point -/

/-- The lane-wise floating-point instructions of one to three operands with full operands compute in every lane in EM
with the modes of FPC, or of FPM when OVR is 0, write the 32-bit lane of the destination, set in FPM the flags that any
lane in EM raises, and go on: nothing else changes, and no result traps (R61, R136, R191 to R196). FCMP writes the mask
of the lanes in EM where its relation holds, with CC as ICMP writes it and NV for what the relation signals: EQ, NE, UN
and OR on a signalling NaN, the ordered relations on any NaN (R194). The packed forms work on each half of the lane
apart, and the flags of both are set; FDP2 and FDP4 form the sum of products and the addend exactly and round it once to
F32 (R197). -/
def Obligations.FloatOperations : Prop :=
  (∀ (s : State) (t : Thread) (f : Std) (F : FFmt) (md : FpMode), s.At t → F = fmtOf f.ty.toNat → md = t.fpMode f.fpc →
     t.canWrite f.dst.toNat 1 = .ok ⟨⟩ → t.canRead f.a 1 = .ok ⟨⟩ →
     (∀ i (r : Nat → Nat × FpFlags), (i, r) ∈ ([
         (Instr.fsqrt f, fun a => F.sqrt md (F.decIn md a)),
         (.frcp f, fun a => F.div md (.fin false 1 0) (F.decIn md a)),
         (.frsq f, fun a => F.rsqrt md (F.decIn md a)), (.fexp2 f, fun a => F.exp2 md (F.decIn md a)),
         (.flog2 f, fun a => F.log2 md (F.decIn md a)), (.frnd f, fun a => F.rint md (F.decIn md a)),
         (.fclass f, fun a => (fclass F a, {})), (.fgetx f, fun a => fgetx (F.decIn md a))] :
         List (Instr × (Nat → Nat × FpFlags))) →
       exec i s = .next (s.after t ((t.put f.dst.toNat 1 false 32 fun k => (r (t.opnd f.a 1 32 k % 2 ^ F.bits)).1).raise
         (flagsOf t.active fun k => (r (t.opnd f.a 1 32 k % 2 ^ F.bits)).2)).advance)) ∧
     (t.canRead f.b 1 = .ok ⟨⟩ → ∀ i (r : Nat → Nat → Nat × FpFlags), (i, r) ∈ ([
         (Instr.fadd f, F.add md), (.fsub f, F.sub md), (.fmul f, F.mul md),
         (.fmin f, F.minmax md false false), (.fmax f, F.minmax md true false),
         (.fminm f, F.minmax md false true), (.fmaxm f, F.minmax md true true),
         (.fdiv f, fun a b => F.div md (F.decIn md a) (F.decIn md b)),
         (.fsgn f, fun a b => (fsgn f.xt.toNat F a b, {}))] : List (Instr × (Nat → Nat → Nat × FpFlags))) →
       exec i s = .next (s.after t ((t.put f.dst.toNat 1 false 32 fun k =>
           (r (t.opnd f.a 1 32 k % 2 ^ F.bits) (t.opnd f.b 1 32 k % 2 ^ F.bits)).1).raise
         (flagsOf t.active fun k =>
           (r (t.opnd f.a 1 32 k % 2 ^ F.bits) (t.opnd f.b 1 32 k % 2 ^ F.bits)).2)).advance)) ∧
     (t.canRead f.b 1 = .ok ⟨⟩ → exec (.fscale f) s = .next (s.after t
       ((t.put f.dst.toNat 1 false 32 fun k => (F.scale md (F.decIn md (t.opnd f.a 1 32 k % 2 ^ F.bits))
           (BitVec.ofNat 32 (t.opnd f.b 1 32 k)).toInt).1).raise
         (flagsOf t.active fun k => (F.scale md (F.decIn md (t.opnd f.a 1 32 k % 2 ^ F.bits))
           (BitVec.ofNat 32 (t.opnd f.b 1 32 k)).toInt).2)).advance)) ∧
     (t.canRead f.b 1 = .ok ⟨⟩ → t.canRead f.c 1 = .ok ⟨⟩ → ∀ i (r : Nat → Nat → Nat → Nat × FpFlags), (i, r) ∈ ([
         (Instr.ffma f, F.fma md), (.ffms f, F.fms md)] : List (Instr × (Nat → Nat → Nat → Nat × FpFlags))) →
       exec i s = .next (s.after t ((t.put f.dst.toNat 1 false 32 fun k =>
           (r (t.opnd f.a 1 32 k % 2 ^ F.bits) (t.opnd f.b 1 32 k % 2 ^ F.bits) (t.opnd f.c 1 32 k % 2 ^ F.bits)).1).raise
         (flagsOf t.active fun k =>
           (r (t.opnd f.a 1 32 k % 2 ^ F.bits) (t.opnd f.b 1 32 k % 2 ^ F.bits)
             (t.opnd f.c 1 32 k % 2 ^ F.bits)).2)).advance))) ∧
  (∀ (s : State) (t : Thread) (f : Std) (F : FFmt) (x y : Nat → Fp), s.At t → t.side ≠ .mcc → t.width ≤ 64 →
     F = fmtOf f.ty.toNat → t.canRead f.a 1 = .ok ⟨⟩ → t.canRead f.b 1 = .ok ⟨⟩ →
     (∀ k, x k = F.decIn (t.fpMode f.fpc) (t.opnd f.a 1 F.bits k)) →
     (∀ k, y k = F.decIn (t.fpMode f.fpc) (t.opnd f.b 1 F.bits k)) → ∃ m : BitVec 64,
       (∀ k, m.getLsbD k = (decide (k < t.width) && t.regs.em.getLsbD k &&
         (let nan := (x k).isNan || (y k).isNan
          let lt := (x k).lt (y k)
          let gt := (y k).lt (x k)
          [!nan && !lt && !gt, nan || lt || gt, !nan && lt, !nan && !gt, !nan && gt, !nan && !lt, nan, !nan].getD
            f.op.toNat false))) ∧
       exec (.fcmp f) s = .next (s.after t (((t.setMask f.dst.toNat m).setCC
         { z := decide (m = 0), t := decide (m = t.regs.em) }).raise (flagsOf t.active fun k =>
           { nv := if f.op.toNat ∈ [2, 3, 4, 5] then (x k).isNan || (y k).isNan
               else (x k).signalling || (y k).signalling })).advance)) ∧
  (∀ (s : State) (t : Thread) (f : Std) (F : FFmt) (md : FpMode) (a b c : Nat → Nat), s.At t →
     F = fmtOf f.ty.toNat → md = t.fpMode f.fpc → t.canWrite f.dst.toNat 1 = .ok ⟨⟩ → t.canRead f.a 1 = .ok ⟨⟩ →
     t.canRead f.b 1 = .ok ⟨⟩ → a = t.opnd f.a 1 32 → b = t.opnd f.b 1 32 → c = t.opnd f.c 1 32 →
     (∀ i (r : Nat → Nat → Nat × FpFlags), (i, r) ∈ ([(Instr.hadd2 f, F.add md), (.hmul2 f, F.mul md),
         (.hmin2 f, F.minmax md false false), (.hmax2 f, F.minmax md true false)] :
         List (Instr × (Nat → Nat → Nat × FpFlags))) →
       exec i s = .next (s.after t ((t.put f.dst.toNat 1 false 32 fun k =>
           (r (a k % 65536) (b k % 65536)).1 + (r (a k / 65536) (b k / 65536)).1 * 65536).raise
         (flagsOf t.active fun k => (r (a k % 65536) (b k % 65536)).2.or (r (a k / 65536) (b k / 65536)).2)).advance)) ∧
     (t.canRead f.c 1 = .ok ⟨⟩ →
       exec (.hfma2 f) s = .next (s.after t ((t.put f.dst.toNat 1 false 32 fun k =>
           (F.fma md (a k % 65536) (b k % 65536) (c k % 65536)).1 +
             (F.fma md (a k / 65536) (b k / 65536) (c k / 65536)).1 * 65536).raise
         (flagsOf t.active fun k => (F.fma md (a k % 65536) (b k % 65536) (c k % 65536)).2.or
           (F.fma md (a k / 65536) (b k / 65536) (c k / 65536)).2)).advance) ∧
       ∀ i n, (i, n) ∈ [(Instr.fdp2 f, 2), (.fdp4 f, 4)] →
         ∀ r : Nat → Nat × FpFlags, (∀ k, r k =
           (let xs := (List.range n).map fun j => F.decIn md (a k / 2 ^ (32 / n * j) % 2 ^ (32 / n))
            let ys := (List.range n).map fun j => F.decIn md (b k / 2 ^ (32 / n * j) % 2 ^ (32 / n))
            F32.dot md (xs ++ ys ++ [F32.decIn md (c k)]) (xs.zip ys) [F32.decIn md (c k)])) →
         exec i s = .next (s.after t ((t.put f.dst.toNat 1 false 32 fun k => (r k).1).raise
           (flagsOf t.active fun k => (r k).2)).advance)))

/-- Rounding in the mode to nearest gives a finite result that no other finite code of the format is nearer to than it
is, and toward zero one that does not exceed the exact value and is the greatest such; NX is set exactly when the result
differs from the value (R47, R62, R191). The formats are F32, F16 and BF16, subnormals are kept. -/
def Obligations.RoundingIsCorrect : Prop :=
  ∀ (F : FFmt) (md : FpMode) (neg : Bool) (m : Nat) (e : Int), F ∈ [F32, F16, BF16] → md.sub ≠ 2 → 0 < m →
    ∀ val : Nat → Rat,
      (∀ c, val c = match F.dec c with
        | .fin _ k x => (k : Rat) * (2 : Rat) ^ x
        | _ => 0) →
      ∀ c fl, F.round md neg m e = (c, fl) → fl.of_ = false →
        c % F.signBit ≤ F.maxCode ∧ (c / F.signBit = if neg then 1 else 0) ∧
        (fl.nx = true ↔ val c ≠ (m : Rat) * (2 : Rat) ^ e) ∧
        (md.rnd = 0 → ∀ d, d ≤ F.maxCode → |val c - (m : Rat) * (2 : Rat) ^ e| ≤ |val d - (m : Rat) * (2 : Rat) ^ e|) ∧
        (md.rnd = 1 → val c ≤ (m : Rat) * (2 : Rat) ^ e ∧
          ∀ d, d ≤ F.maxCode → val d ≤ (m : Rat) * (2 : Rat) ^ e → val d ≤ val c)

/-- FDOT over vectors that lie aligned in the valid scratchpad, unheld, pinned and without poison accumulates each
lane's dot product into the lane, which a length of zero leaves as it is; a length above 65535 traps ILLEGAL/RSV (R198,
R199). VRED combines the values of the lanes in EM by OP into the destination, and writes nothing when EM is zero; VSCAN
gives each lane the combination of the lanes in EM at or below it, with EXC strictly below it, and the identity where
there is none. Integer forms set no flags. F32 ADD of VRED goes by the fixed tree of 64 positions: two present nodes are
added, one passes unchanged; F32 MIN and MAX, and F32 ADD of VSCAN, go in lane order. The flags are those of the
operations. In MIN, MAX and VSCAN one lane's value alone becomes quiet where it is a NaN and is flushed as an input is
(R46 to R48, R61, R187, R188); that CAN and NV hold of what the whole instruction delivers and reads is log 77. -/
def Obligations.FloatAcrossLanes : Prop :=
  (∀ (s : State) (t : Thread) (f : Std) (F : FFmt) (size n : Nat) (x y : Nat → Nat), s.At t → t.busy = false →
     F = fmtOf f.ty.toNat → size = F.bits / 8 → t.canReadV f.dst.toNat 1 = .ok ⟨⟩ → t.canRead f.a 1 = .ok ⟨⟩ →
     t.canRead f.b 1 = .ok ⟨⟩ → t.canRead f.c 1 = .ok ⟨⟩ → n = t.opnd f.c 1 64 0 → x = t.opnd f.a 1 32 →
     y = t.opnd f.b 1 32 →
     (65535 < n → exec (.fdot f) s = .next (s.trapped t { cls := 1, sub := 1 })) ∧
     (n ≤ 65535 → 0 < size →
       (∀ k ∈ t.active, ∀ o ∈ [x k, y k], o % size = 0 ∧ (0 < n → o + n * size ≤ scrLimit (s.hdrOf t) (s.wgOf t) ∧
         s.ranged t o (n * size) = false ∧
         (∀ l ∈ (s.wgOf t).scrPoison, l * 128 + 128 ≤ o ∨ o + n * size ≤ l * 128) ∧
         ∀ p, o < (p + 1) * 16384 → p * 16384 < o + n * size → p ∈ (s.wgOf t).pinned)) →
       ∀ r : Nat → Nat × FpFlags, (∀ k, r k = fdot F (t.fpMode f.fpc) (t.regs.v.get (64 * f.dst.toNat + k)).toNat
         ((List.range n).map fun j => (s.wgOf t).scr.getNat (x k + size * j) size)
         ((List.range n).map fun j => (s.wgOf t).scr.getNat (y k + size * j) size)) →
       exec (.fdot f) s = .next (s.after t ((t.put f.dst.toNat 1 false 32 fun k => (r k).1).raise
         (flagsOf t.active fun k => (r k).2)).advance) ∧
       (n = 0 → ∀ k, r k = ((t.regs.v.get (64 * f.dst.toNat + k)).toNat, {})))) ∧
  (∀ (s : State) (t : Thread) (f : Std) (w : Nat) (sg : Bool) (x : Nat → Nat) (md : FpMode) (below : Nat → List Nat), s.At t →
     w = tyBits f.xty f.ty → sg = tySigned f.xty f.ty → md = t.fpMode f.fpc → t.canWrite f.dst.toNat (regsOf w) = .ok ⟨⟩ →
     t.canRead f.a (regsOf w) = .ok ⟨⟩ → x = t.opnd f.a (regsOf w) w → f.xty = 0 → f.op.toNat < 6 →
     (∀ k, below k = t.active.filter fun j => if f.xt.getLsbD 0 then decide (j < k) else decide (j ≤ k)) →
     (f.ty.toNat < 8 → ∀ (op : Nat → Nat → Nat) (comb : List Nat → Nat),
       (∀ a b, op a b = [(a + b) % 2 ^ w, if tInt sg w a ≤ tInt sg w b then a else b,
         if tInt sg w a ≤ tInt sg w b then b else a, a &&& b, a ||| b, a ^^^ b].getD f.op.toNat 0) →
       (∀ ys, comb ys = match ys with
         | [] => [0, if sg then 2 ^ (w - 1) - 1 else 2 ^ w - 1, if sg then 2 ^ (w - 1) else 0, 2 ^ w - 1, 0, 0].getD
             f.op.toNat 0
         | y :: r => r.foldl op y) →
       exec (.vred f) s = .next (s.after t
         (t.put f.dst.toNat (regsOf w) sg w fun _ => comb (t.active.map x)).advance) ∧
       exec (.vscan f) s = .next (s.after t
         (t.put f.dst.toNat (regsOf w) sg w fun k => comb ((below k).map x)).advance)) ∧
     (f.ty = 8 → f.op.toNat < 3 → ∀ (two : Nat → Nat → Nat × FpFlags) (comb : List Nat → Nat × FpFlags)
         (ends : List Nat → Nat × FpFlags → Nat × FpFlags) (node : Nat → Nat → Option (Nat × FpFlags)),
       (∀ a b, two a b = if f.op = 0 then F32.add md a b else F32.minmax md (f.op == 2) false a b) →
       (∀ ys, comb ys = match ys with
         | [] => (0, {})
         | [y] => (if (F32.dec y).isNan then F32.passNan md (F32.dec y) else F32.flushIn md y, {})
         | y :: r => r.foldl (fun a z => ((two a.1 z).1, a.2.or (two a.1 z).2)) (y, {})) →
       (∀ ys r, ends ys r = (if md.can = true ∧ (F32.dec r.1).isNan = true then F32.canonical else r.1,
         { r.2 with nv := r.2.nv || ys.any fun y => (F32.dec y).signalling })) →
       (∀ i, node 0 i = if i < 64 ∧ i ∈ t.active then some (x i, {}) else none) →
       (∀ l j, node (l + 1) j = match node l (2 * j), node l (2 * j + 1) with
         | some a, some b => some ((F32.add md a.1 b.1).1, (a.2.or b.2).or (F32.add md a.1 b.1).2)
         | some a, none => some a
         | none, b => b) →
       (∀ r, r = ends (t.active.map x) (if f.op = 0 then (node 6 0).getD (0, {}) else comb (t.active.map x)) →
         exec (.vred f) s = .next (s.after t ((t.put f.dst.toNat (regsOf w) sg w fun _ => r.1).raise r.2).advance)) ∧
       ∀ r : Nat → Nat × FpFlags, (∀ k, r k = if below k = [] then
             ([0x80000000, 0x7F800000, 0xFF800000].getD f.op.toNat 0, {})
           else ends ((below k).map x) (comb ((below k).map x))) →
         exec (.vscan f) s = .next (s.after t ((t.put f.dst.toNat (regsOf w) sg w fun k => (r k).1).raise
           (flagsOf t.active fun k => (r k).2)).advance)))

/-! ### Conversions -/

/-- CVT and CVTT convert between formats with one rounding, CVTT toward zero whatever the mode; CVTF converts an integer
of the source type; CVTI rounds to an integer, clamps to the range with NV, takes 0 with NV for a NaN, and sets NX when
it was not exact. Each goes on with the flags that any lane in EM raised, and nothing else changes (R62, R200); that
CVTI's result of a narrow signed type is written sign-extended is log 20. PACK puts the low element of SA into its place
in SB's value; UNPACK extends the element that XT names by the type. They raise no flag (R201). -/
def Obligations.Conversions : Prop :=
  (∀ (s : State) (t : Thread) (f : Std) (F S : FFmt) (md : FpMode), s.At t → F = fmtOf f.ty.toNat →
     S = fmtOf (f.xt.toNat % 16) → md = t.fpMode f.fpc →
     (∀ i (m : FpMode), (i, m) ∈ [(Instr.cvt f, md), (.cvtt f, { md with rnd := 1 })] →
       t.canWrite f.dst.toNat 1 = .ok ⟨⟩ → t.canRead f.a 1 = .ok ⟨⟩ →
       exec i s = .next (s.after t ((t.put f.dst.toNat 1 false 32 fun k =>
           (F.conv m (S.decIn md (t.opnd f.a 1 32 k % 2 ^ S.bits))).1).raise
         (flagsOf t.active fun k => (F.conv m (S.decIn md (t.opnd f.a 1 32 k % 2 ^ S.bits))).2)).advance)) ∧
     (∀ w, w = typeBits false (f.xt.toNat % 16) → 0 < w → t.canWrite f.dst.toNat 1 = .ok ⟨⟩ →
       t.canRead f.a (regsOf w) = .ok ⟨⟩ → ∀ v : Nat → Int,
       (∀ k, v k = valueOf (decide (f.xt.toNat % 16 < 4)) w (t.opnd f.a (regsOf w) w k)) →
       exec (.cvtf f) s = .next (s.after t ((t.put f.dst.toNat 1 false 32 fun k =>
           (F.conv md (.fin (decide (v k < 0)) (v k).natAbs 0)).1).raise
         (flagsOf t.active fun k => (F.conv md (.fin (decide (v k < 0)) (v k).natAbs 0)).2)).advance)) ∧
     (∀ w sg, w = tyBits f.xty f.ty → sg = tySigned f.xty f.ty → t.canWrite f.dst.toNat (regsOf w) = .ok ⟨⟩ →
       t.canRead f.a 1 = .ok ⟨⟩ → ∀ r : Nat → Int × FpFlags,
       (∀ k, r k = match S.decIn md (t.opnd f.a 1 S.bits k) with
         | .nan .. => (0, { nv := true })
         | .inf n => (if n then (if sg then -(2 ^ (w - 1)) else 0) else if sg then 2 ^ (w - 1) - 1 else 2 ^ w - 1,
             { nv := true })
         | .fin n m e =>
           let q := quantize md.rnd n m e 0
           let v : Int := if n then -(q.1 : Int) else q.1
           if sg then
             (if v < -(2 ^ (w - 1)) then (-(2 ^ (w - 1)), { nv := true })
               else if 2 ^ (w - 1) - 1 < v then (2 ^ (w - 1) - 1, { nv := true }) else (v, { nx := !q.2 }))
           else
             (if v < 0 then (0, { nv := true }) else if 2 ^ w - 1 < v then (2 ^ w - 1, { nv := true })
               else (v, { nx := !q.2 }))) →
       exec (.cvti f) s = .next (s.after t ((t.put f.dst.toNat (regsOf w) sg w fun k => ((r k).1 % 2 ^ w).toNat).raise
         (flagsOf t.active fun k => (r k).2)).advance))) ∧
  (∀ (s : State) (t : Thread) (f : Std), s.At t → t.canWrite f.dst.toNat 1 = .ok ⟨⟩ → t.canRead f.a 1 = .ok ⟨⟩ →
     (t.canRead f.b 1 = .ok ⟨⟩ → f.ty.toNat < 2 → f.xt.toNat < 4 / 2 ^ f.ty.toNat → ∃ r : Nat → Nat,
       exec (.pack f) s = .next (s.after t ((t.put f.dst.toNat 1 false 32 r).raise {}).advance) ∧
       ∀ k, r k < 2 ^ 32 ∧ ∀ j, j < 32 → (r k).testBit j =
         (let w := 8 * 2 ^ f.ty.toNat
          if w * f.xt.toNat ≤ j ∧ j < w * f.xt.toNat + w then (t.opnd f.a 1 32 k).testBit (j - w * f.xt.toNat)
          else (t.opnd f.b 1 32 k).testBit j)) ∧
     (∀ w, w = tyBits f.xty f.ty → exec (.unpack f) s = .next (s.after t ((t.put f.dst.toNat 1 false 32 fun k =>
       extend (tySigned f.xty f.ty) w 32 (t.opnd f.a 1 32 k / 2 ^ (w * f.xt.toNat) % 2 ^ w)).raise {}).advance)))

/-- BFPK and MXPK pack each run of 32 lanes into a block, a lane outside EM supplying +0, give each lane in EM its
element and the block's scale entry from bit 16 up, set the flags of the blocks that a lane in EM belongs to, and trap
ILLEGAL/RSV in a group of fewer lanes; BFUN and MXUN write the value of the element under its scale, the canonical NaN
for a NaN block (R202, R203); that MXUN sets no flag for a NaN block is log 22, and where its SUB flushes log 84. PLANE
gathers bit b of the 32 elements of each lane's row into a word, and UNPLANE puts a word's bits back into them and keeps
every other bit of the row (R204). -/
def Obligations.BlocksAndPlanes : Prop :=
  (∀ (s : State) (t : Thread) (f : Std), s.At t → t.canWrite f.dst.toNat 1 = .ok ⟨⟩ → t.canRead f.a 1 = .ok ⟨⟩ →
     (∀ i (pk : List Nat → Packed), (i, pk) ∈ ([
         (Instr.bfpk f, fun xs => tsPack (tsForm f.ty.toNat) (tsDistance t.regs.fmt.toNat f.ty.toNat)
           (.ofFmt t.regs.fmt.toNat) F32 xs),
         (.mxpk f, fun xs => mxPack (mxFmt f.ty.toNat).1 (mxFmt f.ty.toNat).2 (.ofFmt t.regs.fmt.toNat) F32 xs)] :
         List (Instr × (List Nat → Packed))) →
       (t.busy = false → t.width < 32 → exec i s = .next (s.trapped t { cls := 1, sub := 1 })) ∧
       ((t.width = 32 ∨ t.width = 64) → ∀ b : Nat → Packed, (∀ q, b q = pk ((List.range 32).map fun j =>
           if t.regs.em.getLsbD (32 * q + j) then t.opnd f.a 1 32 (32 * q + j) else 0)) →
         exec i s = .next (s.after t ((t.put f.dst.toNat 1 false 32 fun k =>
           if k < t.width then (b (k / 32)).elems.getD (k % 32) 0 + (b (k / 32)).scale * 65536 else 0).raise
             (((List.range (t.width / 32)).filter fun q => t.active.any fun k => k / 32 == q).foldl
               (fun fl q => fl.or (b q).flags) {})).advance))) ∧
     exec (.bfun f) s = .next (s.after t ((t.put f.dst.toNat 1 false 32 fun k =>
       match tsValue (tsForm f.ty.toNat) (t.opnd f.a 1 32 k % 2 ^ ((tsForm f.ty.toNat).mb + 2))
           (t.opnd f.a 1 32 k / 65536) with
       | none => 0x7FC00000
       | some x => (F32.conv {} x).1).raise {}).advance) ∧
     ∀ r : Nat → Nat × FpFlags, (∀ k, r k =
       match mxValue (mxFmt f.ty.toNat).1 (t.opnd f.a 1 32 k % 2 ^ (mxFmt f.ty.toNat).1.bits)
           (t.opnd f.a 1 32 k / 65536) with
       | none => (0x7FC00000, {})
       | some x => F32.conv (t.fpMode f.fpc) x) →
     exec (.mxun f) s = .next (s.after t ((t.put f.dst.toNat 1 false 32 fun k => (r k).1).raise
       (flagsOf t.active fun k => (r k).2)).advance)) ∧
  (∀ (s : State) (t : Thread) (f : Std) (w b : Nat), s.At t → t.side = .wide → w = 4 * 2 ^ (f.xt.toNat / 32 % 4) →
     b = f.xt.toNat % 32 → b < w →
     (f.a.pat ≠ 5 → f.a.pat ≠ 6 → t.canWrite f.dst.toNat 1 = .ok ⟨⟩ → t.canRead f.a w = .ok ⟨⟩ → ∃ r : Nat → Nat,
       exec (.plane f) s = .next (s.after t (t.put f.dst.toNat 1 false 32 r).advance) ∧
       ∀ k, r k < 2 ^ 32 ∧ ∀ j, j < 32 → (r k).testBit j =
         (vSpan t.regs.v f.a.reg.toNat (srcLane t.width k f.a.pat.toNat f.a.q.toNat) w).testBit (w * j + b)) ∧
     (t.canWrite f.dst.toNat w = .ok ⟨⟩ → t.canRead f.a 1 = .ok ⟨⟩ → firstEmpty t.regs.ve f.dst.toNat w = none →
       ∃ r : Nat → Nat,
       exec (.unplane f) s = .next (s.after t (t.put f.dst.toNat w false (32 * w) r).advance) ∧
       ∀ k j, j < 32 → ∀ c, c < w → (r k).testBit (w * j + c) =
         if c = b then (t.opnd f.a 1 32 k).testBit j else (vSpan t.regs.v f.dst.toNat k w).testBit (w * j + c)))

/-! ### Memory -/

/-- LD and LDNT whose checks pass, with nothing outstanding before them and every lane's place in this package. From the
scratchpad or the lane slice the destination holds each lane's value at once, extended by the type. Elsewhere the
destination shows empty behind a producer that holds those values, and a lane whose home die is lost is not answered.
With every lane answered and no home lost since, LOAD_COMPLETE fills the registers that the producer still owns and no
other, and in the handler the frame's place of a G register that the trap found empty. No byte of memory changes. With
EM zero nothing happens (R136, R139, R141, R142, R225 to R227, R406); that a result which comes during the handler fills
the frame's place is log 31. -/
def Obligations.LoadsDeliver : Prop :=
  (∀ (s : State) (t : Thread) (f : Mem) (i : Instr) (w n : Nat) (ps : List (Nat × Nat × Place)),
    i ∈ [Instr.ld f, .ldnt f] → s.At t → t.busy = false → w = tyBits f.xty f.ty → n = regsOf w →
    t.canWrite f.dst.toNat n = .ok ⟨⟩ → t.canAddr f = .ok ⟨⟩ →
    (t.active = [] → exec i s = .next (s.after t t.advance)) ∧
    (t.active ≠ [] → t.width ≤ 64 →
      s.resolveAll t .load (w / 8) false (t.active.map fun i => (i, t.memAddr f i)) = .ok ps →
      (∀ p ∈ ps, p.2.2.isRemote = false) → s.anyWaits t (w / 8) ps = false →
      ((∀ p ∈ ps, p.2.2.interlocked = true) → exec i s = .next (s.after t (t.put f.dst.toNat n false (32 * n) fun i =>
        ((ps.find? fun p => p.1 == i).map fun p =>
          loadVal (tySigned f.xty f.ty) w (32 * n) (s.readPlace t p.2.2 (w / 8))).getD 0).advance)) ∧
      ((∃ p ∈ ps, p.2.2.interlocked = false) → ∃ s' t' p, exec i s = .next s' ∧ s'.threads.get? s.cur = some t' ∧
        t'.prods.get? s.nextId = some p ∧ p.toG = false ∧ p.reg = f.dst.toNat ∧ p.n = n ∧ p.ready = true ∧
        (∀ j, j < 64 → p.waiting.getLsbD j = ps.any fun q => q.1 == j && q.2.2.isDead) ∧
        (∀ j, p.lanes.getLsbD j = decide (j ∈ t.active)) ∧
        (∀ q ∈ ps, q.2.2.isDead = false → ∀ j, j < n → p.vals.get (64 * j + q.1) =
          word32 (loadVal (tySigned f.xty f.ty) w (32 * n) (s.readPlace t q.2.2 (w / 8))) j) ∧
        (∀ j, j < n → t'.regs.ve.get? (f.dst.toNat + j) = some s.nextId) ∧ t'.regs.v = t.regs.v ∧
        t'.regs.g = t.regs.g ∧ t'.pc = t.advance.pc ∧ s'.mem = s.mem ∧ s'.wgs = s.wgs ∧ s'.units = s.units))) ∧
  (∀ (s : State) (t : Thread) (tid pid : Nat) (p : Producer), s.threads.get? tid = some t →
    t.prods.get? pid = some p → p.ready = true → p.waiting = 0 → s.lost (s.dieOf t) = false →
    (∀ d ∈ p.homes, s.lost d = false) →
    ∃ t', exec (.loadComplete tid pid) s = .next (s.putThread tid t') ∧ t'.prods.get? pid = none ∧ t'.pc = t.pc ∧
      (p.toG = false → t'.regs.g = t.regs.g ∧ ∀ r i, i < 64 →
        t'.regs.v.get (64 * r + i) =
          (if p.reg ≤ r ∧ r < p.reg + p.n ∧ t.regs.ve.get? r = some pid ∧ p.lanes.getLsbD i = true
            then p.vals.get (64 * (r - p.reg) + i) else t.regs.v.get (64 * r + i)) ∧
        t'.regs.ve.get? r = (if p.reg ≤ r ∧ r < p.reg + p.n ∧ t.regs.ve.get? r = some pid then none
          else t.regs.ve.get? r)) ∧
      (p.toG = true → t'.regs.v = t.regs.v ∧ (∀ r,
        t'.regs.g.get r = (if r = p.reg ∧ t.regs.ge.get? r = some pid then p.vals.get 64 ++ p.vals.get 0
          else t.regs.g.get r)) ∧
        (t.handler = true → t.savedGe.get? p.reg = some pid →
          ofBytes (frameBytes t'.frame 0 (32 + 8 * p.reg) 8) = (p.vals.get 64 ++ p.vals.get 0).toNat ∧
          t'.savedGe.get? p.reg = none)))

/-- ST and STNT whose checks pass, with nothing outstanding before them and every lane's place in this package, store
each lane's value at the place of its address, lanes in order. Every byte of physical memory outside the places that the
lanes' addresses resolve to is unchanged, and so are all registers; a lane whose bytes no other lane touches leaves its
value there. With EM zero nothing happens (R136, R225, R226, R228). An access whose lanes lie in this package is made at
its issue, log 7. -/
def Obligations.StoresWrite : Prop :=
  ∀ (s : State) (t : Thread) (f : Mem) (i : Instr) (w n : Nat) (ps : List (Nat × Nat × Place)),
    i ∈ [Instr.st f, .stnt f] → s.At t → t.busy = false → w = tyBits f.xty f.ty → n = regsOf w →
    t.canRead f.a n = .ok ⟨⟩ → t.canAddr f = .ok ⟨⟩ →
    (t.active = [] → exec i s = .next (s.after t t.advance)) ∧
    (t.active ≠ [] →
      s.resolveAll t .store (w / 8) false (t.active.map fun i => (i, t.memAddr f i)) = .ok ps →
      (∀ p ∈ ps, p.2.2.isRemote = false) → s.anyWaits t (w / 8) ps = false →
      ∃ s1 t1, s.storePlaces t (ps.map fun p => (p.2.2, toBytes (t.opnd f.a n w p.1) (w / 8))) = (s1, t1) ∧
        exec i s = .next (s.finish s1 t1) ∧ t1.regs = t.regs ∧
        (∀ a, (∀ p ∈ ps, ∀ pa, p.2.2 = .phys pa → a < pa ∨ pa + w / 8 ≤ a) →
          (s.finish s1 t1).mem.get a = s.mem.get a) ∧
        ∀ l1 l2 p pa, ps = l1 ++ p :: l2 → p.2.2 = .phys pa →
          (∀ q ∈ l2, ∀ pb, q.2.2 = .phys pb → pb + w / 8 ≤ pa ∨ pa + w / 8 ≤ pb) →
          (s.finish s1 t1).mem.bytes pa (w / 8) = toBytes (t.opnd f.a n w p.1) (w / 8))

/-- LDU and STU make one access for the group, at the address of lane 0, whatever EM holds: LDU's G register shows empty
behind a producer with the loaded value; STU stores the operand as lane 0 reads it. PREF changes nothing of what the
spec gives the machine (R229, R231). An access whose lanes lie in this package is made at its issue, log 7. SPAGE of
valid operands names C pages from O / 16384 on: PIN completes when all are pinned and otherwise asks for the refill of
those that are not; QUERY writes the mask of the pinned ones; UNPIN unpins those that are pinned, once no range and no
issued access needs any of the C pages. A refill pins a page that a stalled PIN waits for with the bytes of its place in
the backing region, where that place lies in this package and its home is not lost; unpinning moves a page's changed
lines there and no other byte of it. Where a page walk ends in a fault, its waiters find the fault, and where it ends in
a page, the die's TLB and the L1 TLBs of the waiters' cores hold the entry. A fetched line stands in its thread: a
Cellar unit's as memory holds it, and on the core side each 16-byte unit as it stood at admission, or, where the launch
has stored to the line since, as it stands now or stood before one of those stores; from another package it is what its
home answers, which values a unit may have being the model's choice, log 9 (R100, R105, R213, R214, R219, R220, R232).
-/
def Obligations.GroupAccessesAndPages : Prop :=
  (∀ (s : State) (t : Thread) (f : Mem) (w : Nat) (va : Nat) (p : Place), s.At t → t.busy = false →
     w = tyBits f.xty f.ty →
     (t.canAddr f = .ok ⟨⟩ → s.resolveAll t .load (w / 8) true [(0, t.memAddr f 0)] = .ok [(0, va, p)] →
       p.isRemote = false → p.isDead = false → s.scrWaits t p (w / 8) = false →
       ∃ s' t' q, exec (.ldu f) s = .next s' ∧ s'.threads.get? s.cur = some t' ∧ t'.prods.get? s.nextId = some q ∧
         q.toG = true ∧ q.reg = f.dst.toNat % 128 ∧ q.ready = true ∧ q.waiting = 0 ∧
         q.vals.get 64 ++ q.vals.get 0 =
           BitVec.ofNat 64 (loadVal (tySigned f.xty f.ty) w 64 (s.readPlace t p (w / 8))) ∧
         t'.regs.ge.get? (f.dst.toNat % 128) = some s.nextId ∧ t'.regs.g = t.regs.g ∧ t'.regs.v = t.regs.v ∧
         t'.pc = t.advance.pc ∧ s'.mem = s.mem ∧ s'.wgs = s.wgs) ∧
     (t.canRead f.a 1 = .ok ⟨⟩ → t.canAddr f = .ok ⟨⟩ →
       s.resolveAll t .store (w / 8) true [(0, t.memAddr f 0)] = .ok [(0, va, p)] →
       p.isRemote = false → s.scrWaits t p (w / 8) = false →
       ∃ s1 t1, s.storePlaces t [(p, toBytes (t.opnd f.a 1 w 0) (w / 8))] = (s1, t1) ∧
         exec (.stu f) s = .next (s.finish s1 t1) ∧ t1.regs = t.regs ∧
         (∀ pa, p = .phys pa → (∀ a, a < pa ∨ pa + w / 8 ≤ a → s1.mem.get a = s.mem.get a) ∧
           s1.mem.bytes pa (w / 8) = toBytes (t.opnd f.a 1 w 0) (w / 8)) ∧
         ((∀ pa, p ≠ .phys pa) → s1.mem = s.mem)) ∧
     ((f.ix.pat.toNat ∈ [5, 6] ∨ t.vHeld f.ix.reg.toNat 1 = true) → t.prefWaits f = false →
       exec (.pref f) s = .next (s.after t t.advance))) ∧
  (∀ (s : State) (t : Thread) (f : Eng) (c : Nat), s.At t → t.busy = false → t.canRead f.a 1 = .ok ⟨⟩ →
    t.canRead f.b 1 = .ok ⟨⟩ → c = t.uni f.b → t.uni f.a % 16384 = 0 → 1 ≤ c → c ≤ 80 →
    t.uni f.a + (c - 1) * 16384 < scrLimit (s.hdrOf t) (s.wgOf t) →
    ((∀ j, j < c → (s.wgOf t).pinned.contains (t.uni f.a / 16384 + j) = true) →
      exec (.spagePin f) s = .next (s.after t t.advance)) ∧
    ((∃ j, j < c ∧ (s.wgOf t).pinned.contains (t.uni f.a / 16384 + j) = false) → ∃ ps : List Nat,
      exec (.spagePin f) s = .next (s.updWg t.wg fun g =>
        { g with wanted := g.wanted ++ ps.filter fun p => !g.wanted.contains p }) ∧
      ∀ p, p ∈ ps ↔ t.uni f.a / 16384 ≤ p ∧ p < t.uni f.a / 16384 + c ∧ (s.wgOf t).pinned.contains p = false) ∧
    (c ≤ 64 → exec (.spageQuery f) s = .next (s.after t (t.putG f.dst.toNat (laneMask ((List.range c).filter fun j =>
      (s.wgOf t).pinned.contains (t.uni f.a / 16384 + j)))).advance)) ∧
    ((∀ j, j < c → s.ranged t (16384 * (t.uni f.a / 16384 + j)) 16384 = false ∧
        s.bufferedIn t.wg (t.uni f.a / 16384 + j) = false) →
      exec (.spageUnpin f) s = .next (s.finish ((List.range c).foldl (fun s j =>
        if (s.wgOf t).pinned.contains (t.uni f.a / 16384 + j) then s.unpin t.wg (t.uni f.a / 16384 + j) else s) s) t))) ∧
  (∀ (s : State) (wg page a : Nat) (g : Wg), s.wgs.get? wg = some g → g.pinned.contains page = false →
    16384 * page < scrLimit (s.launchOfWg g).hdr g → a = s.forwarded (g.backing + 16384 * page) → pkgOf a = s.pkg →
    s.homeLost (inPkg a) = false → g.wanted.contains page = true → s.mem.wf = true →
    ∃ s' g', exec (.scratchpadPageRefill wg page) s = .next s' ∧ s'.wgs.get? wg = some g' ∧
      g'.pinned = g.pinned ++ [page] ∧ g'.wanted.contains page = false ∧ s'.mem = s.mem ∧
      (∀ o, o < 16384 → g'.scr.get (16384 * page + o) = s.mem.get (inPkg a + o)) ∧
      ∀ o, o < 16384 * page ∨ 16384 * page + 16384 ≤ o → g'.scr.get o = g.scr.get o) ∧
  (∀ (s : State) (wg page a : Nat) (g : Wg), s.wgs.get? wg = some g → g.backing % 16384 = 0 →
    a = s.forwarded (g.backing + 16384 * page) → pkgOf a = s.pkg → s.porchOk a = true →
    ∃ g', (s.unpin wg page).wgs.get? wg = some g' ∧ g'.pinned = g.pinned.filter (· != page) ∧ g'.scr = g.scr ∧
      (∀ o, o < 16384 → (s.unpin wg page).mem.get (inPkg a + o) =
        if 128 * page + o / 128 ∈ g.dirty then g.scr.get (16384 * page + o) else s.mem.get (inPkg a + o)) ∧
      ∀ b, b < inPkg a ∨ inPkg a + 16384 ≤ b → (s.unpin wg page).mem.get b = s.mem.get b) ∧
  (∀ (s : State) (part page : Nat) (w : Walk), (s.walks.find? fun w => w.part == part && w.page == page) = some w →
    s.walkRes w ≠ .never → (∀ pa hop, s.walkRes w ≠ .away pa hop) →
    ∃ s', exec (.pageWalkComplete part page) s = .next s' ∧ s'.walks = s.walks.erase w ∧ s'.mem = s.mem ∧
      (∀ tid t, s.threads.get? tid = some t → s'.threads.get? tid = some (if w.waiters.contains tid
        then t.walked page (s.walkRes w) else t)) ∧
      (∀ e, (s.walkRes w).entry part w.die page = some e → e ∈ s'.tlb ∧
        ∀ tid t c, tid ∈ w.waiters → s.threads.get? tid = some t → s.tlbCore t = some c →
          { e with core := some c } ∈ s'.tlb) ∧
      ((s.walkRes w).entry part w.die page = none → s'.tlb = s.tlb)) ∧
  (∀ (s : State) (t : Thread) (tid : Nat) (x : BitVec 512), s.threads.get? tid = some t → t.line = none →
    t.status = .running → s.lost (s.dieOf t) = false →
    (∀ a, s.fetchCheck t = .ok (.phys a) → ∃ y : BitVec 512,
      exec (.lineFetch tid x) s = .next (s.putThread tid { t with line := some { base := lineOf t.at_, data := y } }) ∧
      (t.side = .cellar → y.toNat = s.mem.getNat a 64) ∧
      (t.side ≠ .cellar → ∀ k, k < 4 →
        fld y.toNat (128 * k) 128 = (s.launchOf t).code.getNat (a + 16 * k) 16 ∨
        ((∃ v ∈ (s.launchOf t).wrote, v.1 / 4 = (a + 16 * k) / 64) ∧
          (fld y.toNat (128 * k) 128 = s.mem.getNat (a + 16 * k) 16 ∨
            ∃ v ∈ (s.launchOf t).wrote, v.1 = (a + 16 * k) / 16 ∧ fld y.toNat (128 * k) 128 = v.2 % 2 ^ 128)))) ∧
    (∀ pa hop, s.fetchCheck t = .ok (.remote pa hop) → s.reach (pkgOf pa) = .up →
      exec (.lineFetch tid x) s = .next (s.putThread tid { t with line := some { base := lineOf t.at_, data := x } })))

/-! ### Synchronisation -/

/-- BINIT, BARR, BEXP and BEXP.ARR change a named barrier of the workgroup, or the record of a barrier object in this
package, in one step, and of physical memory no byte but that record's; a named barrier from NBN on traps SYNC with code
1. An addition that leaves an expected count or an expected byte count unmet adds up, and one that meets both completes
the phase, carries the sum and the error bit over and rearms the barrier (R367, R368, R373, R374). WAITPH of a completed
phase and TESTPH write the barrier's status and CC and go on; WAITPH of another phase blocks, and goes on when the phase
completes, or when its timeout, counted in cycles of the clock, runs out first, with T set. The barrier is a named one,
the grid barrier, or an object in this package, read by a load; an object whose home die is lost lets WAITPH end by its
timeout only, with a word of no stated value. A WAITPH is counted when it is issued. What a matrix group has observed
moves its window's start: no later SLD reads anything older. GRIDBAR writes the grid barrier's phase and arrives there,
and traps SYNC with code 2 in a launch that has none. The phases 2^31 behind count as completed (R368, R370, R371, R375,
R377, R420, R445); the timeout as a number that CLOCK is compared with is log 66, the free word log 3. -/
def Obligations.BarriersAndPhases : Prop :=
  (∀ (s : State) (t : Thread) (f : Eng) (i : Instr) (ea eb : Nat) (ch : Bar → Bar), s.At t → t.busy = false →
    t.canRead f.a 1 = .ok ⟨⟩ → (f.b = .zero ∨ t.canRead f.b 1 = .ok ⟨⟩) → ea = t.uni f.a → eb = t.uni f.b →
    ((i = .binit f ∧ ea < 2 ^ 32 ∧ eb < 2 ^ 48 ∧ (ea ≠ 0 ∨ eb ≠ 0) ∧ ch = fun b =>
        { b with expa := ea, expb := eb, arre := ea, bytee := eb, arr := 0, bytes := 0, sum := 0, err := false }) ∨
      (i = .barr f ∧ ea < 2 ^ 32 ∧ ch = fun b => b.add { a := ea, v := eb }) ∨
      (i = .bexp f ∧ ea < 2 ^ 48 ∧ eb < 2 ^ 32 ∧ ch = fun b =>
        b.add { x := ea, y := eb, a := if f.xt.getLsbD 0 then 1 else 0 })) →
    (f.nb.toNat < (s.hdrOf t).nbn → f.nb ≠ 63 → exec i s = .next (s.finish (s.updWg t.wg fun g =>
      { g with bars := g.bars.put f.nb.toNat (ch (g.bars.getD f.nb.toNat .fresh)) }) t)) ∧
    ((s.hdrOf t).nbn ≤ f.nb.toNat → f.nb ≠ 63 →
      exec i s = .next (s.trapped t { cls := 0x0B, info := 1 })) ∧
    (∀ p, f.nb = 63 → t.canRead f.c 1 = .ok ⟨⟩ → s.objectPlace t .store (t.uni f.c) = .ok p → p.isRemote = false →
      ∃ s1 t1, s.storePlaces t [(p, toBytes (ch (Bar.ofWord (ofBytes (s.readPlace t p 64)))).word 64)] = (s1, t1) ∧
        exec i s = .next (s.finish s1 t1) ∧ t1.regs = t.regs ∧
        (∀ pa, p = .phys pa → s1.mem = s.mem.putNat pa 64 (ch (Bar.ofWord (s.mem.getNat pa 64))).word) ∧
        ((∀ pa, p ≠ .phys pa) → s1.mem = s.mem))) ∧
  (∀ (b : Bar) (n : Addition), b.arr + n.a < 2 ^ 32 → b.arre + n.y < 2 ^ 32 → b.bytes + n.b < 2 ^ 48 →
    b.bytee + n.x < 2 ^ 48 →
    (b.arr + n.a < b.arre + n.y ∨ b.bytes + n.b < b.bytee + n.x → b.add n =
      { b with arr := b.arr + n.a, arre := b.arre + n.y, bytes := b.bytes + n.b, bytee := b.bytee + n.x
               sum := (b.sum + n.v) % 2 ^ 64, err := b.err || n.e }) ∧
    (b.arre + n.y ≤ b.arr + n.a → b.bytee + n.x ≤ b.bytes + n.b → b.add n =
      { phase := (b.phase + 1) % 2 ^ 32, err := false, lerr := b.err || n.e, expa := b.expa, arre := b.expa, arr := 0
        expb := b.expb, bytee := b.expb, bytes := 0, sum := 0, lsum := (b.sum + n.v) % 2 ^ 64 })) ∧
  (∀ (s s1 : State) (t t1 : Thread) (f : Eng) (b : Bar) (r : BarRef), s.At t → t.busy = false →
    t.kept = [] → t.canRead f.a 1 = .ok ⟨⟩ → (f.b = .zero ∨ t.canRead f.b 1 = .ok ⟨⟩) → t.uni f.a < 2 ^ 32 →
    ((f.nb ≠ 63 ∧ f.nb.toNat < (s.hdrOf t).nbn ∧ r = .named f.nb.toNat ∧
        b = (s.wgOf t).bars.getD f.nb.toNat .fresh ∧ s1 = s ∧ t1 = t) ∨
      (f.nb = 63 ∧ f.xt.getLsbD 0 = true ∧ r = .grid ∧ (s.launchOf t).grid = some b ∧ s1 = s ∧ t1 = t) ∨
      (f.nb = 63 ∧ f.xt.getLsbD 0 = false ∧ t.canRead f.c 1 = .ok ⟨⟩ ∧ ∃ p, r = .object (t.uni f.c) p ∧
        s.objectPlace t .load (t.uni f.c) = .ok p ∧ p.isRemote = false ∧ p.isDead = false ∧
        b = Bar.ofWord (ofBytes (s.readPlace t p 64)) ∧ s.stampLoad t p = (s1, t1))) →
    (∀ u, u = (if b.completed (t.uni f.a) then s1.observed t1 else t1) →
      exec (.testph f) s = .next (s.finish s1 ((u.putG f.dst.toNat (BitVec.ofNat 64 b.word)).setCC
        { t := b.completed (t.uni f.a), z := !b.lerr }))) ∧
    (b.completed (t.uni f.a) = true → ∀ u, u = s1.observed t1 → exec (.waitph f) s = .next (s.finish s1
      ((if f.dst = 0 then u else u.putG f.dst.toNat (BitVec.ofNat 64 b.word)).setCC { z := !b.lerr }))) ∧
    (b.completed (t.uni f.a) = false → exec (.waitph f) s = .next (s1.after t { t1.forget with
      status := .waitph r (t.uni f.a)
        (if f.b = .zero ∨ t.uni f.b = 0 then none else some (s.clock.toNat + t.uni f.b))
        (if f.dst = 0 then none else some f.dst.toNat) }))) ∧
  (∀ (s : State) (t : Thread) (f : Eng) (pa : Nat), s.At t → t.busy = false → t.canRead f.a 1 = .ok ⟨⟩ →
    (f.b = .zero ∨ t.canRead f.b 1 = .ok ⟨⟩) → t.uni f.a < 2 ^ 32 → f.nb = 63 → f.xt.getLsbD 0 = false →
    t.canRead f.c 1 = .ok ⟨⟩ → s.objectPlace t .load (t.uni f.c) = .ok (.dead pa) →
    exec (.waitph f) s = .next (s.after t { t.forget with
      status := .waitph (.object (t.uni f.c) (.dead pa)) (t.uni f.a)
        (if f.b = .zero ∨ t.uni f.b = 0 then none else some (s.clock.toNat + t.uni f.b))
        (if f.dst = 0 then none else some f.dst.toNat) })) ∧
  (∀ (b : Bar) (p : Nat), b.phase < 2 ^ 32 → p < 2 ^ 32 →
    (b.completed p = true ↔ ∃ k, 1 ≤ k ∧ k ≤ 2 ^ 31 ∧ b.phase = (p + k) % 2 ^ 32)) ∧
  (∀ (s : State) (t : Thread) (tid : Nat) (r : BarRef) (p : Nat) (limit dst : Option Nat), s.threads.get? tid = some t →
    t.status = .waitph r p limit dst → t.kept = [] → s.lost (s.dieOf t) = false → s.stopped t = false →
    (∀ va pl, r = .object va pl → pl.isRemote = false ∧ pl.isDead = false ∧ s.unpinnedAt t pl = false) →
    ((s.barAt t r).completed p = true → ∃ s1 t1 u, u = s1.observed t1 ∧ exec (.waitphWake tid) s = .next (s1.putThread tid
      (({ (((dst.map fun d => u.putG d (BitVec.ofNat 64 (s.barAt t r).word)).getD u).setCC
            { z := !(s.barAt t r).lerr }) with status := .running } : Thread).advance)) ∧
      (∀ va pl, r = .object va pl → s.stampLoad t pl = (s1, t1)) ∧
      ((∀ va pl, r ≠ .object va pl) → s1 = s ∧ t1 = t)) ∧
    (∀ k, limit = some k → k ≤ s.clock.toNat → (s.barAt t r).completed p = false →
      exec (.waitphTimeout tid) s = .next (s.putThread tid
        (({ (((dst.map fun d => t.putG d (BitVec.ofNat 64 (s.barAt t r).word)).getD t).setCC { t := true }) with
            status := .running } : Thread).advance)))) ∧
  (∀ (s : State) (t : Thread) (tid p k va pa : Nat) (dst : Option Nat), s.threads.get? tid = some t →
    t.status = .waitph (.object va (.dead pa)) p (some k) dst → s.lost (s.dieOf t) = false → s.stopped t = false →
    k ≤ s.clock.toNat → ∃ w : W64, exec (.waitphTimeout tid) s = .next (s.putThread tid
      (({ (((dst.map fun d => t.putG d w).getD t).setCC { t := true }) with status := .running } : Thread).advance))) ∧
  (∀ (s : State) (t : Thread) (f : Std), s.At t → t.busy = false →
    (∀ b, (s.launchOf t).grid = some b → exec (.gridbar f) s = .next (s.finish
      { s with launches := s.launches.upd (s.wgOf t).launch fun l => { l with grid := l.grid.map (·.add { a := 1 }) } }
      (t.putG f.dst.toNat (BitVec.ofNat 64 b.phase)))) ∧
    ((s.launchOf t).grid = none → exec (.gridbar f) s = .next (s.trapped t { cls := 0x0B, info := 2 }))) ∧
  (∀ (s : State) (t : Thread), (t.side ≠ .mcc → s.observed t = t) ∧
    (t.side = .mcc → s.observed t = { t with
      since := ((s.wgOf t).hist.length, (s.units.getD (s.wgOf t).unit_ .absent).hist.length) }))

/-- DWACQ of a full workgroup takes the cursor's slot of its stage, or the slot that it took at an earlier issue: it
writes the slot's address when the slot stands for the stage, and otherwise blocks until it does; DWREL arrives at the
slot's barrier. NMFENCE waits for the group's REDNM adds and writes T; FENCE waits for the stores and atomics of the
store buffer that lie within its scope, drains a matrix group's posted stores and closes its window (R34, R379, R380,
R387, R388, R399). -/
def Obligations.RingsAndFences : Prop :=
  (∀ (s : State) (t : Thread) (f : Eng) (k stage code j b : Nat) (ring : Ring), s.At t → t.busy = false →
    k = f.xt.toNat % 8 → stage = f.xt.toNat / 8 % 4 → (s.hdrOf t).rings[k]? = some ring →
    ring.order[stage]? = some code → (s.wgOf t).full = true → stageRole t.role code = true →
    ∀ s1 : State, ((t.dwTaken.get? t.at_ = some (4 * k + stage, j, b) ∧ s1 = s) ∨
      ((∀ e, t.dwTaken.get? t.at_ = some e → e.1 ≠ 4 * k + stage) ∧
        (s.wgOf t).cursors.getD (4 * k + stage) (0, 0) = (j, b) ∧ s1 = s.updWg t.wg fun g => { g with
          cursors := g.cursors.put (4 * k + stage) (if j < ring.slots then (j + 1, b) else (0, 1 - b)) })) →
      (s.slotStands t ring j stage b = true → exec (.dwacq f) s = .next (s.finish s1
        { (s.observed t).putG f.dst.toNat (BitVec.ofNat 64 (0xFFFFFFE000000000 + (s.hdrOf t).slotAt k j)) with
          dwTaken := t.dwTaken.del t.at_ })) ∧
      (s.slotStands t ring j stage b = false → exec (.dwacq f) s = .next (s1.after t { t with
        status := .dwacq k j b stage f.dst.toNat
        dwTaken := t.dwTaken.put t.at_ (4 * k + stage, j, b) }))) ∧
  (∀ (s : State) (t : Thread) (tid k j b stage dst : Nat) (ring : Ring), s.threads.get? tid = some t →
    t.status = .dwacq k j b stage dst → (s.hdrOf t).rings[k]? = some ring → s.slotStands t ring j stage b = true →
    s.lost (s.dieOf t) = false → exec (.dwacqWake tid) s = .next (s.putThread tid
      (({ (s.observed t).putG dst (BitVec.ofNat 64 (0xFFFFFFE000000000 + (s.hdrOf t).slotAt k j)) with
          dwTaken := t.dwTaken.del t.at_
          status := .running } : Thread).advance))) ∧
  (∀ (s : State) (t : Thread) (f : Eng) (o : Nat) (ring : Ring) (j : Nat), s.At t → t.busy = false →
    t.canRead f.a 1 = .ok ⟨⟩ → (s.wgOf t).full = true → t.uni f.a = 0xFFFFFFE000000000 + o → o < 2 ^ 36 →
    (s.hdrOf t).slotOfByte o = some (ring, j) →
    stageRole t.role (ring.order.getD
      (((s.wgOf t).bars.getD (ring.nbase + j) .fresh).phase % ring.order.length) 0) = true →
    exec (.dwrel f) s = .next (s.finish (s.updWg t.wg fun g => { g with
      bars := g.bars.put (ring.nbase + j) ((g.bars.getD (ring.nbase + j) .fresh).add { a := 1 }) }) t)) ∧
  (∀ (s : State) (t : Thread) (f : Std), s.At t →
    (t.busy = false → t.nmOut = 0 → exec (.nmfence f) s = .next (s.after t
      (({ t with nmDrop := false } : Thread).setCC { t := t.nmDrop }).advance)) ∧
    (t.nmOut ≠ 0 → exec (.nmfence f) s = .next s) ∧
    (t.pend.any (Pend.within (s.dieOf t) f.op.toNat) = true → exec (.fence f) s = .next s) ∧
    (t.pend.any (Pend.within (s.dieOf t) f.op.toNat) = false → (t.hung = true → f.op.toNat < 3) →
      s.drainWaits t t.posted.length = false →
      (t.side ≠ .mcc → exec (.fence f) s = .next (s.after t t.advance)) ∧
      (t.side = .mcc → ∃ s1 t1, s.drain t t.posted.length = (s1, t1) ∧ t1.posted = [] ∧ t1.regs = t.regs ∧
        exec (.fence f) s = .next (s.finish s1 { t1 with
          since := ((s1.histFor t1 false).length, (s1.histFor t1 true).length), seen := [], seenPosted := [] }))))

/-! ### Atomics -/

/-- ATOM, ATOMF and ATOMQ of lanes in this package, once their registers may be read, their places pass the checks and a
return slot is free, make each lane's step in lane order. The destination shows empty behind a producer, and a lane of
physical memory whose bytes no other lane touches reads what memory held and leaves its operation's result there; every
byte of physical memory outside the lanes' places is unchanged. RED makes the same steps and returns nothing. With EM
zero nothing happens (R136, R139, R381 to R385). An atomic whose lanes lie in this package is made at its issue, log 7.
ATOMW makes one step for the group at the address of lane 0, here in physical memory: the lanes' steps follow one
another on one value, and each lane's result is the value that it found. REDNM forks one add per lane in EM and goes on;
an add whose home is in this package is made there as an f32 sum, or dropped at a poisoned line; one whose home is in
another package leaves for it, and is dropped when no lane reaches it. ATOMIC_COMPLETE writes a producer's values (R383,
R386, R387). -/
def Obligations.Atomics : Prop :=
  (∀ (s : State) (t : Thread) (f : Mem) (i : Instr) (o : AtomOp) (n : Nat) (ps : List (Nat × Nat × Place)), s.At t →
    i ∈ [Instr.atom f, .atomf f, .atomq f] → o = AtomOp.of f → n = tyBits f.xty f.ty / 8 →
    t.width ≤ 64 → t.atomReady f = .ok ⟨⟩ →
    (t.active = [] → exec i s = .next (s.after t t.advance)) ∧
    (t.active ≠ [] → s.atomChecked t n false (t.active.map fun i => (i, t.memAddr f i)) = .ok ps →
    (∀ p ∈ ps, p.2.2.isRemote = false ∧ p.2.2.isDead = false) → s.slotCheck t ps = .ok ⟨⟩ →
    ∃ s' t' p, exec i s = .next s' ∧ s'.threads.get? s.cur = some t' ∧ t'.prods.get? s.nextId = some p ∧
      p.toG = false ∧ p.reg = f.dst.toNat ∧ p.n = regsOf o.bits ∧ p.ready = true ∧ p.waiting = 0 ∧
      (∀ j, j < regsOf o.bits → t'.regs.ve.get? (f.dst.toNat + j) = some s.nextId) ∧ t'.regs.v = t.regs.v ∧
      t'.regs.g = t.regs.g ∧ t'.pc = t.advance.pc ∧
      (∀ a, (∀ q ∈ ps, ∀ pa, q.2.2 = .phys pa → a < pa ∨ pa + n ≤ a) → s'.mem.get a = s.mem.get a) ∧
      ∀ l1 l2 q pa, ps = l1 ++ q :: l2 → q.2.2 = .phys pa →
        (∀ r ∈ l1 ++ l2, ∀ pb, r.2.2 = .phys pb → pb + n ≤ pa ∨ pa + n ≤ pb) →
        (∀ j, j < regsOf o.bits → p.vals.get (64 * j + q.1) = word32 (s.mem.getNat pa n) j) ∧
        s'.mem.bytes pa n =
          toBytes (o.apply (s.mem.getNat pa n) (t.atomData f q.1) (t.atomCmp f q.1)) n)) ∧
  (∀ (s : State) (t : Thread) (f : Mem) (o : AtomOp) (n : Nat) (ps : List (Nat × Nat × Place)), s.At t →
    o = AtomOp.of f → n = tyBits f.xty f.ty / 8 → t.busy = false →
    t.canRead f.a (regsOf o.bits) = .ok ⟨⟩ → t.canAddr f = .ok ⟨⟩ →
    (t.active = [] → exec (.red f) s = .next (s.after t t.advance)) ∧
    (t.active ≠ [] → s.atomChecked t n false (t.active.map fun i => (i, t.memAddr f i)) = .ok ps →
    (∀ p ∈ ps, p.2.2.isRemote = false) →
    ∃ s1 t1, exec (.red f) s = .next (s.finish s1 t1) ∧ t1.regs = t.regs ∧
      (∀ a, (∀ q ∈ ps, ∀ pa, q.2.2 = .phys pa → a < pa ∨ pa + n ≤ a) → s1.mem.get a = s.mem.get a) ∧
      ∀ l1 l2 q pa, ps = l1 ++ q :: l2 → q.2.2 = .phys pa →
        (∀ r ∈ l1 ++ l2, ∀ pb, r.2.2 = .phys pb → pb + n ≤ pa ∨ pa + n ≤ pb) →
        s1.mem.bytes pa n = toBytes (o.apply (s.mem.getNat pa n) (t.atomData f q.1) 0) n)) ∧
  (∀ (o : AtomOp) (old a cmp : Nat), o.f32 = false → 0 < o.bits → old < 2 ^ o.bits → a < 2 ^ o.bits →
    (o.op, o.apply old a cmp) ∈ [(0, (old + a) % 2 ^ o.bits),
      (1, if valueOf o.signed o.bits a < valueOf o.signed o.bits old then a else old),
      (2, if valueOf o.signed o.bits old < valueOf o.signed o.bits a then a else old),
      (3, old &&& a), (4, old ||| a), (5, old ^^^ a), (6, a), (7, if old = cmp then a else old)] ∨ 7 < o.op) ∧
  (∀ (s : State) (t : Thread) (f : Mem) (o : AtomOp) (n va pa : Nat) (ps : List (Nat × Nat × Place)), s.At t →
    o = AtomOp.of f → n = tyBits f.xty f.ty / 8 → t.active ≠ [] → t.width ≤ 64 → t.atomReady f = .ok ⟨⟩ →
    s.atomChecked t n true [(0, t.memAddr f 0)] = .ok ps → ps = [(0, va, .phys pa)] →
    ∃ s' t' p, exec (.atomw f) s = .next s' ∧ s'.threads.get? s.cur = some t' ∧ t'.prods.get? s.nextId = some p ∧
      p.toG = false ∧ p.reg = f.dst.toNat ∧ p.ready = true ∧ p.waiting = 0 ∧
      (∀ j, j < regsOf o.bits → t'.regs.ve.get? (f.dst.toNat + j) = some s.nextId) ∧
      (∀ l1 l2 i, t.active = l1 ++ i :: l2 → ∀ j, j < regsOf o.bits → p.vals.get (64 * j + i) =
        word32 (l1.foldl (fun v k => o.apply v (t.atomData f k) (t.atomCmp f k)) (s.mem.getNat pa n)) j) ∧
      s'.mem.bytes pa n = toBytes
        (t.active.foldl (fun v k => o.apply v (t.atomData f k) (t.atomCmp f k)) (s.mem.getNat pa n)) n ∧
      ∀ a, a < pa ∨ pa + n ≤ a → s'.mem.get a = s.mem.get a) ∧
  (∀ (s : State) (t : Thread) (f : Mem) (ps : List (Nat × Nat × Place)) (g : Wg), s.At t → t.busy = false →
    s.wgs.get? t.wg = some g → t.canRead f.a 1 = .ok ⟨⟩ → t.canAddr f = .ok ⟨⟩ →
    judge false (t.active.map fun i => (i, t.memAddr f i, s.resolveAtom t .store true 4 i (t.memAddr f i))) = .ok ps →
    ∃ s' t', exec (.rednm f) s = .next s' ∧ s'.threads.get? s.cur = some t' ∧ t'.nmOut = t.nmOut + ps.length ∧
      t'.regs = t.regs ∧ s'.mem = s.mem ∧
      s'.wgs.get? t.wg = some { g with outstanding := g.outstanding + ps.length } ∧
      s'.nmAdds = s.nmAdds ++ ps.zipIdx.map fun p => (s.nextId + p.2,
        { tid := s.cur, wg := t.wg, pa := s.fullPa p.1.2.2, hop := p.1.2.2.hopped, val := BitVec.ofNat 32 (t.opnd f.a 1 32 p.1.1)
          sat := f.fpc.getLsbD 4 })) ∧
  (∀ (s : State) (id : Nat) (a : NmAdd), s.nmAdds.get? id = some a → s.nmBehind id a = false →
    a.out = false → ∀ pa, s.forwarded a.pa = pa →
    (pkgOf pa = s.pkg → s.homeLost (inPkg pa) = false → s.moving (inPkg pa) = false → s.poisoned (inPkg pa) = false →
      ∃ s', exec (.rednmApply id) s = .next s' ∧
      s'.mem = s.mem.putNat (inPkg pa) 4 (f32Add a.sat (s.mem.getNat (inPkg pa) 4) a.val.toNat) ∧
      s'.nmAdds.get? id = none ∧
      ∀ t, s.threads.get? a.tid = some t → s'.threads.get? a.tid = some { t with nmOut := t.nmOut - 1 }) ∧
    (pkgOf pa = s.pkg → s.homeLost (inPkg pa) = false → s.moving (inPkg pa) = false → s.poisoned (inPkg pa) = true →
      ∃ s', exec (.rednmDrop id) s = .next s' ∧
      exec (.rednmApply id) s = .next s' ∧ s'.nmAdds.get? id = none ∧
      ∀ t, s.threads.get? a.tid = some t →
        s'.threads.get? a.tid = some { t with nmOut := t.nmOut - 1, nmDrop := true }) ∧
    (pkgOf pa ≠ s.pkg → s.reach (pkgOf pa) = .up → ∃ s', exec (.rednmApply id) s = .next s' ∧
      s'.nmAdds.get? id = some { a with out := true } ∧ s'.threads = s.threads ∧ s'.mem = s.mem) ∧
    (pkgOf pa ≠ s.pkg → s.reach (pkgOf pa) = .lost → ∃ s', exec (.rednmDrop id) s = .next s' ∧
      s'.nmAdds.get? id = none ∧ ∀ t, s.threads.get? a.tid = some t →
        s'.threads.get? a.tid = some { t with nmOut := t.nmOut - 1, nmDrop := true })) ∧
  (∀ (s : State) (t : Thread) (tid pid : Nat) (p : Producer), s.threads.get? tid = some t →
    t.prods.get? pid = some p → p.ready = true → p.waiting = 0 → s.lost (s.dieOf t) = false →
    (∀ d ∈ p.homes, s.lost d = false) → exec (.atomicComplete tid pid) s = .next (s.putThread tid (t.complete pid p)))

/-! ### The MCC scalar class and the posting window -/

/-- SALU, SALUI, SCMP, SLI and SRDSR write their 64-bit result to SD; SCMP alone writes CC. Shifts of 64 or more give
zero, an arithmetic shift gives copies of the sign. SRDSR outside the handler traps ILLEGAL/OPC for a supervisor
register, and ILLEGAL/RSV for a number without a register (R122, R158, R159, R177, R178). SLD whose place in this
package passes the checks writes the loaded value to SD. In the scratchpad and the parlour each byte is the latest
posted store's that covers it, or else the byte as it stood at one time, the same for all of them, not before the
window's start and what the group has already read there. SST to those spaces is posted and drains in order; elsewhere
in this package it stores at once (R179, R399), at its issue, log 7. -/
def Obligations.ScalarAndPosting : Prop :=
  (∀ (s : State) (t : Thread) (f : Scl) (a b : W64), s.At t →
     (∀ i, (i = Instr.salu f ∧ a = t.regs.s.get f.s1.toNat ∧ b = t.regs.s.get f.s2.toNat) ∨
         (i = Instr.salui f ∧ a = t.regs.s.get f.s1.toNat ∧ b = f.imm.signExtend 64) →
       ∀ r, (f.fn.toNat, r) ∈ ([(0, a + b), (1, a - b), (2, a * b), (3, a &&& b), (4, a ||| b), (5, a ^^^ b),
           (6, BitVec.ofNat 64 (if b.toNat < 64 then a.toNat * 2 ^ b.toNat else 0)),
           (7, BitVec.ofNat 64 (if b.toNat < 64 then a.toNat / 2 ^ b.toNat else 0)),
           (8, BitVec.ofInt 64 (a.toInt / 2 ^ (min b.toNat 63))),
           (9, if a.toInt ≤ b.toInt then a else b), (10, if a.toInt ≤ b.toInt then b else a),
           (11, if a.toNat ≤ b.toNat then a else b), (12, if a.toNat ≤ b.toNat then b else a)] : List (Nat × W64)) →
         exec i s = .next (s.after t
           ({ t with regs := { t.regs with s := t.regs.s.set f.sd.toNat r } } : Thread).advance)) ∧
     (a = t.regs.s.get f.s1.toNat → b = t.regs.s.get f.s2.toNat →
       ∀ r, (f.fn.toNat, r) ∈ ([(0, decide (a = b)), (1, decide (a ≠ b)), (2, decide (a.toInt < b.toInt)),
           (3, decide (a.toInt ≤ b.toInt)), (4, decide (b.toInt < a.toInt)), (5, decide (b.toInt ≤ a.toInt)),
           (6, decide (a.toNat < b.toNat)), (7, decide (a.toNat ≤ b.toNat)), (8, decide (b.toNat < a.toNat)),
           (9, decide (b.toNat ≤ a.toNat))] : List (Nat × Bool)) →
         exec (.scmp f) s = .next (s.after t (({ t with regs := { t.regs with
           s := t.regs.s.set f.sd.toNat (if r then 1 else 0) } } : Thread).setCC
             { t := r, z := decide (a = b), n := decide (a.toInt < b.toInt), c := decide (b.toNat ≤ a.toNat) }).advance)) ∧
     (f.fn = 0 → exec (.sli f) s = .next (s.after t ({ t with regs := { t.regs with
       s := t.regs.s.set f.sd.toNat (f.imm.signExtend 64) } } : Thread).advance)) ∧
     (f.fn ≠ 0 → exec (.sli f) s = .next (s.after t ({ t with regs := { t.regs with
       s := t.regs.s.set f.sd.toNat (f.imm ++ (t.regs.s.get f.sd.toNat).extractLsb' 0 32) } } : Thread).advance)) ∧
     (∀ n v, f.imm.toNat % 256 = n → (n, v) ∈ ([(0x00, (s.hdrOf t).wid t.gidx (s.wgOf t).ord 0), (0x01, 0), (0x02, t.gidx),
         (0x03, (s.wgOf t).ord), (0x04, match t.role with
           | .any => 0
           | .copy => 1
           | .matrix => 2
           | .vector => 3), (0x05, 1), (0x06, (s.wgOf t).core), (0x07, (s.wgOf t).core / 4), (0x08, (s.wgOf t).die),
         (0x09, s.pkg), (0x0A, (s.launchOf t).part), (0x0B, t.regs.extb), (0x0C, t.regs.stkp), (0x10, s.clock.toNat),
         (0x11, s.time.toNat), (0x20, (s.lease.getD (s.launchOf t).part 0x100000010).toNat), (0x21, t.tcause.toNat),
         (0x22, t.tpc.toNat), (0x23, t.taddr.toNat), (0x24, t.tinfo.toNat),
         (0x25, (s.hr (0x460 + 8 * (s.launchOf t).part)).toNat), (0x26, t.tpte.toNat),
         (0x27, (s.hr (0x480 + 8 * (s.launchOf t).part)).toNat)] : List (Nat × Nat)) → t.side = .mcc →
       (0x21 ≤ n → n ≤ 0x27 → t.handler = true) →
       exec (.srdsr f) s = .next (s.after t ({ t with regs := { t.regs with
         s := t.regs.s.set f.sd.toNat (BitVec.ofNat 64 v) } } : Thread).advance)) ∧
     (∀ n, f.imm.toNat % 256 = n → t.busy = false →
       (0x0D ≤ n ∧ n ≤ 0x0F ∨ 0x12 ≤ n ∧ n ≤ 0x1F ∨ 0x28 ≤ n) →
       exec (.srdsr f) s = .next (s.trapped t { cls := 1, sub := 1 })) ∧
     (0x21 ≤ f.imm.toNat % 256 → f.imm.toNat % 256 ≤ 0x27 → t.busy = false → t.handler = false →
       exec (.srdsr f) s = .next (s.trapped t { cls := 1 }))) ∧
  (∀ (s : State) (t : Thread) (f : Scl) (n : Nat) (p : Place), s.At t → t.kept = [] → n = 2 ^ (f.fn.toNat % 4) →
    s.sclPlace t .load (t.regs.s.get f.s1.toNat + f.imm.signExtend 64).toNat n = .ok p →
    (p.windowed = none → p.isRemote = false → p.isDead = false → ∃ s1 t1, exec (.sld f) s = .next (s.finish s1 t1) ∧
      s1.mem = s.mem ∧ s1.wgs = s.wgs ∧ t1.regs = t.regs.writeS f.sd.toNat
        (BitVec.ofNat 64 (loadVal (decide (3 < f.fn.toNat)) (8 * n) 64 (s.readPlace t p n)))) ∧
    (∀ (parlour : Bool) o, p = (if parlour then .parlour o else .scratch o) → ∃ bs t1 k,
      exec (.sld f) s = .next (s.finish s t1) ∧ bs.length = n ∧ t1.posted = t.posted ∧
      t1.regs = t.regs.writeS f.sd.toNat
        (BitVec.ofNat 64 (loadVal (decide (3 < f.fn.toNat)) (8 * n) 64 bs)) ∧
      ∀ j b, bs[j]? = some b → t.sinceByte parlour (o + j) ≤ k ∧
        (∀ x, t.postedByte parlour (o + j) = some x → b = x.2) ∧
        (t.postedByte parlour (o + j) = none → b = valueAt (s.histFor t parlour)
          ((if parlour then (s.units.getD (s.wgOf t).unit_ .absent).mem else (s.wgOf t).scr).get (o + j)) (o + j) k))) ∧
  (∀ (s : State) (t : Thread) (f : Scl) (n : Nat) (p : Place), s.At t → n = 2 ^ (f.fn.toNat % 4) →
    s.sclPlace t .store (t.regs.s.get f.s1.toNat + f.imm.signExtend 64).toNat n = .ok p →
    (p.windowed.isSome = true → exec (.sst f) s = .next (s.after t ({ t with
      posted := t.posted ++ [(p, toBytes (t.regs.s.get f.s2.toNat).toNat n)] } : Thread).advance)) ∧
    (p.windowed = none → p.isRemote = false → ∃ s1 t1,
      s.storePlaces t [(p, toBytes (t.regs.s.get f.s2.toNat).toNat n)] = (s1, t1) ∧
      exec (.sst f) s = .next (s.finish s1 t1) ∧ t1.regs = t.regs ∧
      (∀ pa, p = .phys pa → s1.mem = s.mem.putBytes pa (toBytes (t.regs.s.get f.s2.toNat).toNat n)) ∧
      ((∀ pa, p ≠ .phys pa) → s1.mem = s.mem))) ∧
  (∀ (s : State) (t : Thread) (tid : Nat) (p : Place) (bs : List Byte) (rest : List (Place × List Byte)),
    s.threads.get? tid = some t → t.posted = (p, bs) :: rest → s.unpinnedAt t p = false → s.lost (s.dieOf t) = false →
    ∃ s1 t1 t2, s.writePlace { t with posted := rest } p bs = (s1, t1) ∧
      exec (.postedStoreDrain tid) s = .next (s1.putThread tid t2) ∧ t2.posted = rest ∧ t2.pc = t.pc ∧
      { t2 with seen := t1.seen, seenPosted := t1.seenPosted } = t1)

/-! ### The Pantry -/

/-- TQL, TQL2 and TQMUL issue a query with the group's operands: the destination shows empty behind it; with EM zero
nothing is sent and the report mask is cleared. When the query completes, each of its lanes gets the value that the
committed image gives, or 0 with its bit of the report mask set; a lane outside them has its bit clear. TQL finds the
entry of a valid table, extended by the kind. TQCMT makes the staged image the committed one, with its lost words (R335,
R337 to R344, R419). -/
def Obligations.PantryQueries : Prop :=
  (∀ (s : State) (t : Thread) (f : Eng) (i : Instr) (op : Nat), s.At t → t.busy = false →
    (i, op) ∈ [(Instr.tql f, 0), (.tql2 f, 1), (.tqmul f, 2)] → t.canWrite f.dst.toNat 1 = .ok ⟨⟩ →
    t.canRead f.a 1 = .ok ⟨⟩ → (op = 2 → t.canRead f.b 1 = .ok ⟨⟩) →
    (t.active = [] → exec i s = .next (s.after t (t.setMask f.c.reg.toNat 0).advance)) ∧
    (t.active ≠ [] → ∃ s' t' q p, exec i s = .next s' ∧ s'.threads.get? s.cur = some t' ∧
      t'.queries.get? s.nextId = some q ∧ t'.prods.get? s.nextId = some p ∧ q.op = op ∧ q.xt = f.xt.toNat ∧
      q.report = f.c.reg.toNat ∧ (∀ k, k < 64 → q.a[k]? = some (t.opnd f.a 1 32 k)) ∧
      (op = 2 → ∀ k, k < 64 → q.b[k]? = some (t.opnd f.b 1 32 k)) ∧ p.toG = false ∧ p.reg = f.dst.toNat ∧ p.n = 1 ∧
      p.lanes = t.regs.em ∧ p.ready = false ∧ t'.regs.ve.get? f.dst.toNat = some s.nextId ∧ t'.regs.v = t.regs.v ∧
      s'.mem = s.mem ∧ s'.dies = s.dies)) ∧
  (∀ (s : State) (t : Thread) (tid pid : Nat) (q : Query) (p : Producer), s.threads.get? tid = some t →
    t.queries.get? pid = some q → t.prods.get? pid = some p → p.toG = false → p.n = 1 →
    s.lost (s.dieOf t) = false → t.regs.ve.get? p.reg = some pid → q.report < 8 →
    ∃ s' t', exec (.queryComplete tid pid) s = .next s' ∧ s'.threads.get? tid = some t' ∧
      t'.queries.get? pid = none ∧ t'.prods.get? pid = none ∧ t'.regs.ve.get? p.reg = none ∧ s'.dies = s.dies ∧
      (∀ i, i < 64 → p.lanes.getLsbD i = true →
        (∀ v, s.lookLane (s.dieOf t) q i = .ok v → t'.regs.v.get (64 * p.reg + i) = BitVec.ofNat 32 v ∧
          (t'.regs.m.get q.report).getLsbD i = false) ∧
        (∀ e, s.lookLane (s.dieOf t) q i = .error e → t'.regs.v.get (64 * p.reg + i) = 0 ∧
          (t'.regs.m.get q.report).getLsbD i = true)) ∧
      ∀ i, p.lanes.getLsbD i = false → (t'.regs.m.get q.report).getLsbD i = false) ∧
  (∀ (s : State) (die : Nat) (q : Query) (d : TableDef) (i : Nat), q.op = 0 →
    s.tableDef die (q.xt % 256) = some d →
    (q.a.getD i 0 < 2 ^ d.log2n →
      (s.dies.getD die {}).pantryPoison.contains ((d.base + q.a.getD i 0 * 2 ^ d.esz) / 128) = false →
      s.lookLane die q i = .ok (extend (d.kind == 1) d.bits 32
        ((s.dies.getD die {}).image.getNat (d.base + q.a.getD i 0 * 2 ^ d.esz) (2 ^ d.esz)))) ∧
    (2 ^ d.log2n ≤ q.a.getD i 0 → s.lookLane die q i = .error [])) ∧
  (∀ (s : State) (t : Thread) (f : Eng), s.At t → t.busy = false → ∃ s1, exec (.tqcmt f) s = .next (s.finish s1 t) ∧
    (s1.dies.getD (s.dieOf t) {}).image = (s.dies.getD (s.dieOf t) {}).staged ∧
    (s1.dies.getD (s.dieOf t) {}).staged = (s.dies.getD (s.dieOf t) {}).staged ∧
    (s1.dies.getD (s.dieOf t) {}).pantryPoison = (s.dies.getD (s.dieOf t) {}).stagedPoison ∧
    (∀ d, d ≠ s.dieOf t → s1.dies.getD d {} = s.dies.getD d {}) ∧ s1.mem = s.mem)

/-! ### The copy engine -/

/-- CPY, CPY2D, CPYPL, CPEAT, CPACK, PSEL and CPFILL whose operands are full, in their limits, aligned and in range,
with a free ticket on the core, take one, write it to DST and go on; the operation stands in the scoreboard with its
operands, FMT and EM at issue and its scratchpad ranges, one for its destination and one for its sources, and no byte of
memory changes at issue. With every ticket taken they wait (R233 to R242, log 10, log 23). -/
def Obligations.CopiesTakeATicket : Prop :=
  ∀ (s : State) (t : Thread) (f : Eng) (i : Instr) (kind : OpKind) (a b c h : Nat) (args : List Nat)
    (spans held : List (Nat × Nat)), s.At t → t.busy = false → t.canRead f.a 1 = .ok ⟨⟩ → t.canRead f.b 1 = .ok ⟨⟩ →
    (f.nb = 63 ∨ f.nb.toNat < (s.hdrOf t).nbn) → a = t.uni f.a → b = t.uni f.b → c = t.uni f.c → h = t.pairHi f.c →
    (∀ r ∈ spans, s.rangeOk t r.1 r.2 = true) → (held = spans ∨ kind = .cpeat ∧ held = [(a, 16384), (b, s.peatHeld t b)]) →
    ((i = .cpy f ∧ kind = .cpy ∧ args = [a, b, c] ∧ t.canRead f.c 1 = .ok ⟨⟩ ∧ 1 ≤ c ∧ c ≤ 2 ^ 40 ∧
        spans = [(a, c), (b, c)]) ∨
      (i = .cpfill f ∧ kind = .cpfill ∧ args = [a, b, c] ∧ t.canRead f.c 1 = .ok ⟨⟩ ∧ 1 ≤ c ∧ c ≤ 2 ^ 40 ∧
        c % 2 ^ (f.xt.toNat % 4) = 0 ∧ a % 2 ^ (f.xt.toNat % 4) = 0 ∧ spans = [(a, c)]) ∨
      (i = .cpy2d f ∧ kind = .cpy2d ∧ args = [a, b, c, h] ∧ t.canReadPair f.c = .ok ⟨⟩ ∧ c % 2 ^ 32 ≠ 0 ∧
        c / 2 ^ 32 ≠ 0 ∧ c % 2 ^ 32 * (c / 2 ^ 32) ≤ 2 ^ 40 ∧
        spans = [(a, (c / 2 ^ 32 - 1) * (h % 2 ^ 32) + c % 2 ^ 32), (b, (c / 2 ^ 32 - 1) * (h / 2 ^ 32) + c % 2 ^ 32)]) ∨
      (i = .cpypl f ∧ kind = .cpypl ∧ args = [a, b, c, h] ∧ t.canReadPair f.c = .ok ⟨⟩ ∧ c % 2 ^ 16 % 32 = 0 ∧
        32 ≤ c % 2 ^ 16 ∧ c % 2 ^ 16 ≤ 4096 ∧ (plForm f.ty.toNat f.xt.toNat).scaleOk h = true ∧ a % 256 = 0 ∧
        (aperture a).1 = .scratch ∧ spans = [(a, tileSize (plForm f.ty.toNat f.xt.toNat) (c % 2 ^ 16) (h != 0)),
          (b, 63 * (c / 2 ^ 32) + c % 2 ^ 16 * (plForm f.ty.toNat f.xt.toNat).w / 8)] ++
          (if h = 0 then [] else [(h, 64 * (c % 2 ^ 16 / 32) * (plForm f.ty.toNat f.xt.toNat).scaleBytes)])) ∨
      (i = .cpeat f ∧ kind = .cpeat ∧ args = [a, b] ∧ a % 256 = 0 ∧ b % 64 = 0 ∧ (aperture a).1 = .scratch ∧
        spans = [(a, 16384), (b, 64)] ∧
        held = [(a, 16384), (b, s.peatHeld t b)]) ∨
      (i = .cpack f ∧ kind = .cpack ∧ args = [a, b, c, h] ∧ t.canReadPair f.c = .ok ⟨⟩ ∧ c < 2 ^ 16 ∧ 1 ≤ c % 256 ∧
        c % 256 ≤ 64 ∧ a % 64 = 0 ∧ b % 256 = 0 ∧ (aperture b).1 = .scratch ∧
        spans = [(a, if f.ty.toNat = 14 then 9024 else 4928), (b, 16384)]) ∨
      (i = .psel f ∧ kind = .psel ∧ args = [a, b, c, h] ∧ t.canReadPair f.c = .ok ⟨⟩ ∧ c < 2 ^ 41 ∧ 1 ≤ c % 2 ^ 32 ∧
        c % 2 ^ 32 ≤ 65536 ∧ 1 ≤ c / 2 ^ 32 % 2 ^ 8 ∧ c / 2 ^ 32 % 2 ^ 8 ≤ 64 ∧ b % 8 = 0 ∧ h % 256 = 0 ∧
        (aperture a).1 = .scratch ∧ (aperture h).1 = .scratch ∧
        spans = [(a, 512 + if c / 2 ^ 40 % 2 = 1 then 16384 * (c / 2 ^ 32 % 2 ^ 8) else 0), (b, 8 * (c % 2 ^ 32)),
          (h, 256)])) →
    ((s.cores.getD (s.coreOf t) {}).freeTickets ≠ [] → ∃ k s' op, exec i s = .next s' ∧ k < 16 ∧
      (s.cores.getD (s.coreOf t) {}).ops.get? k = none ∧
      s'.threads.get? s.cur = some (t.putG f.dst.toNat (BitVec.ofNat 64 k)).advance ∧
      (s'.cores.getD (s.coreOf t) {}).ops.get? k = some op ∧
      (∀ j, j ≠ k → (s'.cores.getD (s.coreOf t) {}).ops.get? j = (s.cores.getD (s.coreOf t) {}).ops.get? j) ∧
      op.kind = kind ∧ op.tid = s.cur ∧ op.wg = t.wg ∧ op.nb = f.nb.toNat ∧ op.ty = f.ty.toNat ∧ op.xt = f.xt.toNat ∧
      op.args = args ∧ op.fmt = t.regs.fmt ∧ op.em = t.regs.em ∧ op.ranges = heldRanges held ∧ op.did = [] ∧
      op.susp = none ∧
      s'.mem = s.mem) ∧
    ((s.cores.getD (s.coreOf t) {}).freeTickets = [] → exec i s = .next s)

/-- A copy that runs through its chunks, and whose elements can all be written, writes them, frees its ticket, counts
its bytes and adds them at its barrier; one that meets a fault writes what is ready, is suspended, keeps its ticket, and
its ENGINE trap falls due to the group that issued it or to the lowest one that remains: so a CPFILL whose first byte
cannot be stored. ERESUME of a suspended operation lets it go on, ERESUME.ABORT ends it with the error bit; of any other
ticket both only set T (R233, R243, R244, R369, R396, R404, R445). What the copy engine writes in the scratchpad: when a
CPY or a CPFILL that is whole in its workgroup's scratchpad completes, from the start, with nothing read yet, no page
unpinned and no line poisoned, the destination holds the source's bytes, or the pattern over and over; every other byte
of the scratchpad, and all of memory, is unchanged. The source and the destination of the CPY do not overlap (R207,
R237, R243). -/
def Obligations.CopiesEndAndMoveBytes : Prop :=
  (∀ (s s1 : State) (key k : Nat) (t : Thread) (op op1 : EngOp), s.opAt key k OpKind.isCopy = some (op, t) →
    s.canFlush t (.engine key k) op1.out = true → s1 = s.putElems t (.engine key k) op1.out →
    (s.runChunks t op 0 op.chunks = (op1, none) → ∃ s', exec (.copyComplete key k) s = .next s' ∧
      (s'.cores.getD key {}).ops.get? k = none ∧ s'.mem = s1.mem ∧ s'.threads = s1.threads ∧
      s'.launches = (s1.addBytes op1.wg op1.wrote).launches ∧
      (op1.nb = 63 → s'.wgs = s1.wgs) ∧
      (op1.nb ≠ 63 → s'.wgs = (s1.nbAdd op1.wg op1.nb { b := op1.wrote }).wgs)) ∧
    (∀ cause va pte tid u, s.runChunks t op 0 op.chunks = (op1, some (.fault cause va pte)) →
      s1.engineTaker op1.wg op1.tid = some (tid, u) → ∃ s' x, exec (.copySuspend key k) s = .next s' ∧
        x = ({ cls := 0x0A, addr := va, info := k + cause * 256
               pte := BitVec.ofNat 64 (if cause ≤ 3 then pte else 0) } : TrapInfo) ∧
        (s'.cores.getD key {}).ops.get? k = some { op1 with
          susp := some x, out := [], fail := none, walkFaults := [] } ∧
        s'.threads.get? tid = some { u with due := u.due ++ [x] } ∧ s'.mem = s1.mem)) ∧
  (∀ (s : State) (key k d pat len cause va pte tid : Nat) (t u : Thread) (op : EngOp),
    s.opAt key k OpKind.isCopy = some (op, t) → op.kind = .cpfill → op.args = [d, pat, len] → op.did = [] → op.out = [] →
    op.fail = none → d < 2 ^ 64 → 0 < len → s.waitsAway (.engine key k) = false →
      s.engPlace (t.reader op) .store d = .error (.fault cause va pte) →
    s.engineTaker op.wg op.tid = some (tid, u) → ∃ s' x, exec (.copySuspend key k) s = .next s' ∧
      x = ({ cls := 0x0A, addr := va, info := k + cause * 256
             pte := BitVec.ofNat 64 (if cause ≤ 3 then pte else 0) } : TrapInfo) ∧
      (s'.cores.getD key {}).ops.get? k = some { op with susp := some x, walkFaults := [] } ∧
      s'.threads.get? tid = some { u with due := u.due ++ [x] } ∧ s'.mem = s.mem) ∧
  (∀ (s : State) (t : Thread) (f : Eng) (k : Nat), s.At t → t.busy = false → t.canRead f.a 1 = .ok ⟨⟩ →
    k = t.uni f.a → k < 16 →
    (∀ op, s.suspended t k = some op →
      exec (.eresume f) s = .next (s.finish (s.updCore (s.coreOf t) fun c =>
        { c with ops := c.ops.put k { op with susp := none } }) (t.setCC {})) ∧
      (op.kind ≠ .desc → ∃ s', exec (.eresumeAbort f) s = .next s' ∧
        s'.threads.get? s.cur = some (t.setCC {}).advance ∧ (s'.cores.getD (s.coreOf t) {}).ops.get? k = none ∧
        s'.mem = s.mem ∧ (op.nb ≠ 63 → op.kind.byArrival = false →
          s'.wgs = (s.nbAdd op.wg op.nb { b := op.written, e := true }).wgs))) ∧
    (s.suspended t k = none →
      exec (.eresume f) s = .next (s.after t (t.setCC { t := true }).advance) ∧
      exec (.eresumeAbort f) s = .next (s.after t (t.setCC { t := true }).advance))) ∧
  (∀ (s : State) (t : Thread) (g : Wg) (key k o src len : Nat) (op : EngOp), s.opAt key k OpKind.isCopy = some (op, t) →
     op.did = [] → op.got = [] → op.out = [] → op.fail = none →
     s.waitsAway (.engine key k) = false → op.wg = t.wg → s.wgs.get? t.wg = some g → g.scrPoison = [] →
     o + len ≤ scrLimit (s.hdrOf t) g → o + len ≤ 2 ^ 36 → 0 < len →
     (∀ p, p * 16384 < scrLimit (s.hdrOf t) g → g.pinned.contains p = true) →
     (op.kind = .cpfill → op.args = [0xFFFFFFE000000000 + o, src, len] →
       ∃ s' g', exec (.copyComplete key k) s = .next s' ∧ s'.wgs.get? t.wg = some g' ∧ s'.mem = s.mem ∧
         (∀ j, j < len → (g'.scr.get (o + j)).toNat = src / 2 ^ (8 * (j % 2 ^ (op.xt % 4))) % 256) ∧
         ∀ a, a < o ∨ o + len ≤ a → g'.scr.get a = g.scr.get a) ∧
     (op.kind = .cpy → op.args = [0xFFFFFFE000000000 + o, 0xFFFFFFE000000000 + src, len] →
       src + len ≤ scrLimit (s.hdrOf t) g → src + len ≤ 2 ^ 36 → (src + len ≤ o ∨ o + len ≤ src) →
       ∃ s' g', exec (.copyComplete key k) s = .next s' ∧ s'.wgs.get? t.wg = some g' ∧ s'.mem = s.mem ∧
         (∀ j, j < len → g'.scr.get (o + j) = g.scr.get (src + j)) ∧
         ∀ a, a < o ∨ o + len ≤ a → g'.scr.get a = g.scr.get a))

/-! ### The stair engine -/

/-- DTREE of address 0 unbinds its slot, whose stop mask is then zero; of the address of a record that can be read here
it binds the slot to a valid one, and otherwise leaves the slot and writes 1. DESC whose operands pass the checks takes
a scoreboard entry and shows its destination empty; with EM zero it only arrives. A DESC that runs through its levels,
and whose trace entries can be written, writes them, the paths, the stop mask and the leaf numbers of its lanes, arrives
and frees its entry; one whose levels are done ends so. At each level a lane's path takes one more bit, 1 when the
accumulator's sign is clear, and a lane whose accumulator is a NaN stops (R315, R318, R320 to R323, R332). A DESC or a
DGRAD that meets a fault is suspended with its ENGINE trap, and so is a DESC whose first node row cannot be read; DGRAD
takes a ticket and, when its rows are done and its adds can be made, makes them and ends with an arrival; ERESUME.ABORT
of a DESC fills the destination with all ones and stops its lanes, in the group that issued it. DREGR writes the ranked
lanes and the groups, one word for each prefix with its first rank and its count, to 768 bytes of the scratchpad; DPATH
reads and writes the paths; DSTAT writes the slot's summary or its stop mask (R244, R326, R327, R329 to R332). -/
def Obligations.StairEngine : Prop :=
  (∀ (s : State) (t : Thread) (f : Eng) (n r : Nat) (p : Nat → Place), s.At t → t.busy = false →
    t.canRead f.a 1 = .ok ⟨⟩ → n = f.xt.toNat % 4 → s.descOn t s.cur n = none →
    (t.uni f.a = 0 → exec (.dtree f) s = .next (s.after t
      (((t.setSlot n { t.slot n with bound := false, stop := 0 }).putG f.dst.toNat 0).setCC { z := true }).advance)) ∧
    (t.uni f.a ≠ 0 → t.uni f.a % 64 = 0 → t.kept = [] →
      (∀ j, j < 8 → s.resolve t .load 0 ((t.uni f.a + 8 * j) % 2 ^ 64) 8 = .ok (p j) ∧ (p j).isRemote = false ∧
        (p j).isDead = false ∧ s.scrWaits t (p j) 8 = false) →
      r = ofBytes ((List.range 8).flatMap fun j => s.readPlace t (p j) 8) →
      ∃ s' t', exec (.dtree f) s = .next s' ∧ s'.threads.get? s.cur = some t' ∧ t'.pc = t.advance.pc ∧ s'.mem = s.mem ∧
        (∀ m, m ≠ n → t'.slot m = t.slot m) ∧
        (trValid r = true → t'.slot n = { bound := true, record := r } ∧
          t'.regs = ((t.putG f.dst.toNat 0).setCC { z := true }).regs) ∧
        (trValid r = false → t'.slot n = t.slot n ∧ t'.regs = ((t.putG f.dst.toNat 1).setCC { t := true }).regs))) ∧
  (∀ (s : State) (t : Thread) (f : Eng) (sl : TreeSlot), s.At t → t.busy = false → t.canRead f.a 1 = .ok ⟨⟩ →
    t.canRead f.b 1 = .ok ⟨⟩ → t.canRead f.c 1 = .ok ⟨⟩ → t.canWrite f.dst.toNat 1 = .ok ⟨⟩ →
    sl = t.slot (f.xt.toNat % 4) → s.descOn t s.cur (f.xt.toNat % 4) = none →
    (f.nb = 63 ∨ f.nb.toNat < (s.hdrOf t).nbn) → sl.bound = true → t.uni f.c < 2 ^ 32 → t.uni f.c % 16 = 0 →
    2 * trWidth sl.record ≤ t.uni f.c → t.uni f.a % 16 = 0 → t.uni f.b % 4 = 0 →
    s.tokenCheck t sl.record (t.uni f.a) (t.uni f.c) (if t.uni f.b = 0 then none else some (t.uni f.b)) .store = .ok ⟨⟩ →
    s.atticCheck t sl.record = .ok ⟨⟩ →
    (t.active = [] → exec (.desc f) s = .next (s.finish (if f.nb = 63 then s
      else s.nbAdd t.wg f.nb.toNat { a := 1 }) t)) ∧
    (t.active ≠ [] → (s.cores.getD (s.coreOf t) {}).freeTickets ≠ [] → ∃ k s' t' op, exec (.desc f) s = .next s' ∧
      (s.cores.getD (s.coreOf t) {}).ops.get? k = none ∧ s'.threads.get? s.cur = some t' ∧
      (s'.cores.getD (s.coreOf t) {}).ops.get? k = some op ∧ op.kind = .desc ∧ op.em = t.regs.em ∧
      op.pid = some s.nextId ∧ op.args = [t.uni f.a, t.uni f.b, t.uni f.c, sl.record] ∧
      t'.regs.ve.get? f.dst.toNat = some s.nextId ∧ t'.regs.v = t.regs.v ∧ t'.regs.g = t.regs.g ∧
      t'.regs.pth = t.regs.pth ∧ t'.pc = t.advance.pc ∧ s'.mem = s.mem)) ∧
  (∀ (s s1 : State) (key k pid : Nat) (t : Thread) (op op1 : EngOp) (p : Producer),
    s.opAt key k (· == .desc) = some (op, t) →
    (s.descRun t op op.levelsLeft = (op1, none) ∨ trDepth (op.args.getD 3 0) ≤ op.data.getD 0 0 ∧ op1 = op) →
    s.canFlush t (.engine key k) op1.out = true → s1 = s.putElems t (.engine key k) op1.out →
    op.pid = some pid → t.prods.get? pid = some p → p.toG = false → p.n = 1 → p.lanes = op.em →
    t.regs.ve.get? p.reg = some pid →
    ∃ s' t', exec (.descComplete key k) s = .next s' ∧ s'.threads.get? op.tid = some t' ∧
      (s'.cores.getD key {}).ops.get? k = none ∧ s'.mem = s1.mem ∧
      (op.nb ≠ 63 → s'.wgs = (s1.nbAdd op.wg op.nb { a := 1 }).wgs) ∧ (op.nb = 63 → s'.wgs = s1.wgs) ∧
      (t'.slot (op.xt % 4)).stop = BitVec.ofNat 64 (op1.data.getD 1 0) ∧ (t'.slot (op.xt % 4)).err = false ∧
      ∀ i, i < 64 → op.em.getLsbD i = true →
        t'.regs.pth.get (64 * (op.xt % 4) + i) = BitVec.ofNat 32 (op1.data.getD (2 + i) 0) ∧
        t'.regs.v.get (64 * p.reg + i) = BitVec.ofNat 32 (if tb (op1.data.getD 1 0) i then 0xFFFFFFFF
          else trLeafb (op.args.getD 3 0) + op1.data.getD (2 + i) 0)) ∧
  (∀ (op : EngOp) (i acc : Nat), i < 64 → op.data.length = 66 →
    ((FA36.dec acc).isNan = false → (op.descend i acc).data.getD (2 + i) 0 =
        2 * op.data.getD (2 + i) 0 + (if tb acc 35 then 0 else 1) ∧
      (op.descend i acc).data.getD 1 0 = op.data.getD 1 0) ∧
    ((FA36.dec acc).isNan = true → (op.descend i acc).data.getD (2 + i) 0 = op.data.getD (2 + i) 0 ∧
      (op.descend i acc).data.getD 1 0 = op.data.getD 1 0 + 2 ^ i)) ∧
  (∀ (s s1 : State) (key k cause va pte tid : Nat) (t u : Thread) (op op1 : EngOp),
    s.opAt key k (fun x => x == .desc || x == .dgrad) = some (op, t) →
    ((op.kind = .desc ∧ s.descRun t op op.levelsLeft = (op1, some (.fault cause va pte))) ∨
      (op.kind = .dgrad ∧ s.gradRun t op op.gradRows = (op1, some (.fault cause va pte))) ∨
      (op.kind = .desc ∧ op1 = op ∧ op.data.getD 0 0 = 0 ∧ op.data.getD 1 0 = 0 ∧ (∀ i, op.data.getD (2 + i) 0 = 0) ∧
        op.lanes ≠ [] ∧ op.got = [] ∧ op.fail = none ∧ trDepth (op.args.getD 3 0) ≠ 0 ∧
        s.engPlace (t.reader op) .load (trNodes (op.args.getD 3 0)) = .error (.fault cause va pte))) →
    s.canFlush t (.engine key k) op1.out = true → s1 = s.putElems t (.engine key k) op1.out →
    s1.engineTaker op.wg op.tid = some (tid, u) →
    ∃ s' x, exec (.descSuspend key k) s = .next s' ∧
      x = ({ cls := 0x0A, addr := va, info := k + cause * 256
             pte := BitVec.ofNat 64 (if cause ≤ 3 then pte else 0) } : TrapInfo) ∧
      (s'.cores.getD key {}).ops.get? k = some { op1 with
        susp := some x, out := [], fail := none, walkFaults := [] } ∧
      s'.threads.get? tid = some { u with due := u.due ++ [x] } ∧ s'.mem = s1.mem) ∧
  (∀ (s : State) (t : Thread) (f : Eng) (sl : TreeSlot), s.At t → t.busy = false → t.canRead f.a 1 = .ok ⟨⟩ →
    t.canRead f.b 1 = .ok ⟨⟩ → t.canRead f.c 1 = .ok ⟨⟩ → sl = t.slot (f.xt.toNat % 4) →
    s.descOn t s.cur (f.xt.toNat % 4) = none → (f.nb = 63 ∨ f.nb.toNat < (s.hdrOf t).nbn) → sl.bound = true →
    t.uni f.c < 2 ^ 32 → t.uni f.c % 16 = 0 → 2 * trWidth sl.record ≤ t.uni f.c → trGrad sl.record ≠ 0 →
    t.uni f.a % 16 = 0 → t.uni f.b % 4 = 0 →
    s.tokenCheck t sl.record (t.uni f.a) (t.uni f.c) (some (t.uni f.b)) .load = .ok ⟨⟩ →
    (s.cores.getD (s.coreOf t) {}).freeTickets ≠ [] → ∃ k s' op, exec (.dgrad f) s = .next s' ∧
      (s.cores.getD (s.coreOf t) {}).ops.get? k = none ∧
      s'.threads.get? s.cur = some (t.putG f.dst.toNat (BitVec.ofNat 64 k)).advance ∧
      (s'.cores.getD (s.coreOf t) {}).ops.get? k = some op ∧ op.kind = .dgrad ∧
      op.em = t.regs.em &&& ~~~sl.stop ∧ op.args = [t.uni f.a, t.uni f.b, t.uni f.c, sl.record] ∧ s'.mem = s.mem) ∧
  (∀ (s s1 : State) (key k : Nat) (t : Thread) (op op1 : EngOp), s.opAt key k (· == .dgrad) = some (op, t) →
    (s.gradRun t op op.gradRows = (op1, none) ∨ (∀ r ∈ op.gradRows, r.2 ∈ op.did) ∧ op.fail = none ∧ op1 = op) →
    s.canFlush t (.engine key k) op1.out = true → s1 = s.putElems t (.engine key k) op1.out →
    ∃ s', exec (.dgradComplete key k) s = .next s' ∧
      (s'.cores.getD key {}).ops.get? k = none ∧ s'.mem = s1.mem ∧ s'.threads = s1.threads ∧
      (op.nb ≠ 63 → s'.wgs = (s1.nbAdd op.wg op.nb { a := 1 }).wgs) ∧ (op.nb = 63 → s'.wgs = s1.wgs)) ∧
  (∀ (s : State) (t u : Thread) (f : Eng) (k pid : Nat) (op : EngOp) (p : Producer), s.At t → t.busy = false →
    t.canRead f.a 1 = .ok ⟨⟩ → k = t.uni f.a → k < 16 → s.suspended t k = some op → op.kind = .desc →
    s.threads.get? op.tid = some u → op.pid = some pid → u.prods.get? pid = some p → p.toG = false → p.n = 1 →
    p.lanes = op.em → u.regs.ve.get? p.reg = some pid →
    ∃ s' t' u', exec (.eresumeAbort f) s = .next s' ∧ s'.threads.get? s.cur = some t' ∧ t'.pc = t.advance.pc ∧
      t'.regs.cc = 0 ∧ s'.threads.get? op.tid = some u' ∧ s'.mem = s.mem ∧
      (u'.slot (op.xt % 4)).stop = op.em ∧ (u'.slot (op.xt % 4)).err = true ∧ u'.regs.pth = u.regs.pth ∧
      ∀ i, i < 64 → op.em.getLsbD i = true → u'.regs.v.get (64 * p.reg + i) = 0xFFFFFFFF) ∧
  (∀ (s : State) (t : Thread) (f : Eng) (sl : TreeSlot) (o p : Nat) (pre : Nat → Nat), s.At t → t.busy = false →
    t.canRead f.a 1 = .ok ⟨⟩ → t.canRead f.b 1 = .ok ⟨⟩ → sl = t.slot (f.xt.toNat % 4) →
    s.descOn t s.cur (f.xt.toNat % 4) = none → sl.bound = true → p = t.uni f.b % 64 → 1 ≤ p → p ≤ trDepth sl.record →
    t.uni f.a = 0xFFFFFFE000000000 + o → o % 8 = 0 → o + 768 ≤ scrLimit (s.hdrOf t) (s.wgOf t) → o + 768 ≤ 2 ^ 36 →
    s.scrWaits t (.scratch o) 768 = false → t.width ≤ 64 →
    (∀ i, pre i = t.regs.path (f.xt.toNat % 4) i % 2 ^ trDepth sl.record / 2 ^ (trDepth sl.record - p)) →
    ∃ (ranked ps : List Nat) (s1 : State) (t1 : Thread),
      exec (.dregr f) s = .next (s.finish s1 ((t1.putG f.dst.toNat
        (BitVec.ofNat 64 ps.length)).setCC { z := decide (ps = []) })) ∧ s1.mem = s.mem ∧ t1.regs = t.regs ∧
      (∀ i, i ∈ ranked ↔ i ∈ t.active ∧ sl.stop.getLsbD i = false) ∧ ranked.Nodup ∧
      ranked.Pairwise (fun i j => pre i < pre j ∨ (pre i = pre j ∧ i ≤ j)) ∧
      ps.Pairwise (· < ·) ∧ (∀ q, q ∈ ps ↔ ∃ i ∈ ranked, pre i = q) ∧
      (∀ g, s.wgs.get? t.wg = some g → ∃ g', s1.wgs.get? t.wg = some g' ∧
        (∀ r, r < 64 → g'.scr.getNat (o + 4 * r) 4 = ranked.getD r 0xFFFFFFFF) ∧
        (∀ r, r < 64 → g'.scr.getNat (o + 256 + 8 * r) 8 = match ps[r]? with
          | none => 0
          | some q => q + 2 ^ 32 * (ranked.findIdx fun i => pre i == q) +
              2 ^ 48 * (ranked.filter fun i => pre i == q).length) ∧
        ∀ a, a < o ∨ o + 768 ≤ a → g'.scr.get a = g.scr.get a)) ∧
  (∀ (s : State) (t : Thread) (f : Eng) (n : Nat) (sl : TreeSlot), s.At t → n = f.xt.toNat % 4 → sl = t.slot n →
    (s.descOn t s.cur n = none → t.canWrite f.dst.toNat 1 = .ok ⟨⟩ → exec (.dpathRead f) s = .next (s.after t
      (t.put f.dst.toNat 1 false 32 fun i => (t.regs.pth.get (64 * n + i)).toNat).advance)) ∧
    (s.descOn t s.cur n = none → t.busy = false → t.canRead f.a 1 = .ok ⟨⟩ → t.width ≤ 64 → t.side = .wide →
      ∃ t', exec (.dpathWrite f) s = .next (s.after t t') ∧ t'.regs.v = t.regs.v ∧
        (t'.slot n).stop = sl.stop &&& ~~~t.regs.em ∧ ∀ j i, i < 64 → t'.regs.pth.get (64 * j + i) =
          (if j = n ∧ i ∈ t.active then BitVec.ofNat 32 (t.opnd f.a 1 32 i) else t.regs.pth.get (64 * j + i))) ∧
    exec (.dstat f) s = .next (s.after t ((t.putG f.dst.toNat (if f.xt.getLsbD 2 then sl.stop
      else BitVec.ofNat 64 (slotSummary sl (s.descOn t s.cur n)))).setCC
        { t := (s.descOn t s.cur n).isSome, z := decide (sl.stop = 0) }).advance))

/-! ### The matrix engine -/

/-- MMA, MMAS, MZERO, MLDACC, MSTACC and MSCALE whose checks pass join the queue of every unit that they select, with
their operands and FMT at issue and the issuer remembers to join them, or wait while one of those queues is full. The
head of a queue starts when the scoreboard entries that it waits for have retired (R254 to R256, R258 to R263, R269). A
started operation that completes leaves its result on its unit's target, from the words that the unit has read of its
operands, or from what stands there. MZERO clears the tile; MMA adds to each cell the products of its row of A and its
column of B, and MMAS starts from zero; MLDACC reads the cells and MSTACC stores those that it has not stored yet;
MSCALE multiplies each cell by its row's factor. The operation ends, with its arrival, and leaves every queue when the
last of its units has finished it, and until then stays in them (R248, R252, R255, R256, R261 to R263, R269). That
MSCALE takes SAT of FMT and not SUB is log 54. -/
def Obligations.MatrixUnits : Prop :=
  (∀ (s : State) (t : Thread) (f : Eng) (i : Instr) (op n : Nat) (a : List Nat) (ts : List (Nat × Nat × Nat)), s.At t →
    t.busy = false → (i, op, n) ∈ [(Instr.mma f, 0, 3), (.mmas f, 1, 3), (.mzero f, 2, 0), (.mldacc f, 3, 3),
      (.mstacc f, 4, 3), (.mscale f, 5, 2)] →
    (f.nb = 63 ∨ f.nb.toNat < (s.hdrOf t).nbn) → a = ([f.a, f.b, f.c].take n).map t.uni →
    s.unitTargets t f.xt.toNat = some ts → unitOperandsOk op t.regs.fmt.toNat a = true →
    (∀ x ∈ ts, ∀ r ∈ unitRanges op t.regs.fmt.toNat a x.1, r.2.1 % r.2.2.2 = 0 ∧
      s.unitRangeOk x.2.2 r.2.1 r.2.2.1 = true) →
    (∀ x ∈ ts, s.hasTile x.2.2 (f.xt.toNat % 4) = true ∧
      (s.wgs.getD x.2.2 .absent).token (f.xt.toNat % 4) = .unit) →
    ((∀ x ∈ ts, (s.cores.getD x.2.1 {}).unitQ.length < 16) → ∃ s' o, exec i s = .next s' ∧
      s'.threads.get? s.cur = some (t.forks (ts.map (·.1))).advance ∧ s'.unitOps.get? s.nextId = some o ∧ o.tid = s.cur ∧
        o.wg = t.wg ∧
      o.op = op ∧ o.xt = f.xt.toNat ∧ o.nb = f.nb.toNat ∧ o.args = a ∧ o.fmt = t.regs.fmt ∧
      o.targets = ts.map (·.2) ∧ o.started = [] ∧ s'.mem = s.mem ∧ s'.wgs = s.wgs ∧
      ∀ core, (s'.cores.getD core {}).unitQ = (s.cores.getD core {}).unitQ ++
        (if core ∈ ts.map (·.2.1) then [s.nextId] else [])) ∧
    ((∃ x ∈ ts, 16 ≤ (s.cores.getD x.2.1 {}).unitQ.length) → exec i s = .next s)) ∧
  (∀ (s : State) (core id wg : Nat) (o : UnitOp), s.unitHead core = some (id, o, wg) → o.waits = [] →
    o.started.contains core = false → s.lost (core / 144) = false →
    exec (.unitOpStart core) s = .next
      { s with unitOps := s.unitOps.put id { o with started := o.started ++ [core] } }) ∧
  (∀ (s : State) (core id wg fmt tl : Nat) (o : UnitOp) (g : Wg) (u : Thread), s.unitHead core = some (id, o, wg) →
     o.started.contains core = true → s.unitPinned o (core % 4) wg = true → s.lost (core / 144) = false →
     s.wgs.get? wg = some g → fmt = o.fmt.toNat → tl = o.xt % 4 → u = o.view core wg →
     ∃ s' g', exec (.unitOpComplete core) s = .next s' ∧ s'.wgs.get? wg = some g' ∧
       ((∀ x ∈ o.targets, x.1 = core ∨ x.1 ∈ o.ended) → s'.unitOps.get? id = none ∧
         ∀ x ∈ o.targets, (s'.cores.getD x.1 {}).unitQ = (s.cores.getD x.1 {}).unitQ.filter (· != id)) ∧
       ((∃ x ∈ o.targets, x.1 ≠ core ∧ x.1 ∉ o.ended) →
         s'.unitOps.get? id = some { o with ended := o.ended ++ [core] } ∧ s'.cores = s.cores) ∧
       (o.op = 2 → ∀ k, (g'.tiles.getD tl {}).cells.get k = 0) ∧
       (o.op ≤ 1 → ∀ m n, m < 64 → n < 64 → (g'.tiles.getD tl {}).cells.get (64 * m + n) = BitVec.ofNat 36
         (mmaCell (fmtMode fmt) (if o.op = 1 then 0 else ((g.tiles.getD tl {}).cells.get (64 * m + n)).toNat)
           ((List.range (o.args.getD 2 0 / 32)).flatMap fun b =>
             (s.aBlock u fmt (o.args.getD 0 0) m b).1)
           ((List.range (o.args.getD 2 0 / 32)).flatMap fun b =>
             (s.bBlock u fmt (o.args.getD 1 0) n b).1)).1) ∧
       (o.op = 3 → ∀ r n a, r < 64 → n < 64 →
         a = (o.args.getD 0 0 + core % 4 * o.args.getD 2 0) % 2 ^ 64 + r * o.args.getD 1 0 + n * accwSize fmt →
         (g'.tiles.getD tl {}).cells.get (64 * r + n) = BitVec.ofNat 36
           (if s.unitPoison u a (accwSize fmt) then FA36.canonical
             else accwIn fmt (s.unitNat u a (accwSize fmt)))) ∧
       (o.op = 4 → o.did = [] → ∀ b, (o.args.getD 0 0 + core % 4 * o.args.getD 2 0) % 2 ^ 64 = 0xFFFFFFE000000000 + b →
         b + 63 * o.args.getD 1 0 + 64 * accwSize fmt ≤ 2 ^ 36 → 64 * accwSize fmt ≤ o.args.getD 1 0 →
         b % accwSize fmt = 0 → o.args.getD 1 0 % accwSize fmt = 0 →
         g'.tiles.getD tl {} = g.tiles.getD tl {} ∧ ∀ r n, r < 64 → n < 64 →
           g'.scr.bytes (b + r * o.args.getD 1 0 + n * accwSize fmt) (accwSize fmt) =
             toBytes (accOut fmt (fld fmt 20 2) ((g.tiles.getD tl {}).cells.get (64 * r + n)).toNat).1 (accwSize fmt)) ∧
       (o.op = 5 → ∀ r n a x y, r < 64 → n < 64 → a = (o.args.getD 0 0 + core % 4 * o.args.getD 1 0) % 2 ^ 64 + 4 * r →
         x = FA36.dec ((g.tiles.getD tl {}).cells.get (64 * r + n)).toNat →
         y = (if s.unitPoison u a 4 then nanFp else F32.dec (s.unitNat u a 4)) →
         (g'.tiles.getD tl {}).cells.get (64 * r + n) =
           BitVec.ofNat 36 (FA36.dot { sat := tb fmt 27, can := true } [x, y] [(x, y)] []).1) ∧
       (o.wg = wg → o.nb ≠ 63 → (∀ x ∈ o.targets, x.1 = core ∨ x.1 ∈ o.ended) →
         g'.bars.getD o.nb .fresh = (g.bars.getD o.nb .fresh).add { a := 1 }))

/-- ACCACQ takes a free token of a tile with no operation on it, or blocks, asking for it when it is free; ACCREL gives
the group's token back; the grant lets the first group that asked go on. ACCRD reads a block of cells into V registers
behind a producer, ACCWR writes one; without the token both trap ACC_TOKEN. MQRY writes a unit's state, and clears its
sticky bits when asked; a matrix group that has seen every unit of an operation idle has joined it, so no later SLD
reads anything older (R257, R258, R264 to R269, R396). -/
def Obligations.AccumulatorTokens : Prop :=
  (∀ (s : State) (t : Thread) (f : Eng) (tl : Nat), s.At t → t.busy = false → tl = f.xt.toNat % 4 →
    (s.hasTile t.wg tl = false → exec (.accacq f) s = .next (s.trapped t
        { cls := 4, info := tl + (s.wgOf t).core % 4 * 4 + 16 }) ∧
      exec (.accrel f) s = .next (s.trapped t { cls := 4, info := tl + (s.wgOf t).core % 4 * 4 + 16 })) ∧
    (s.hasTile t.wg tl = true → (s.wgOf t).token tl = .unit → s.tileBusy t.wg tl = false →
      exec (.accacq f) s = .next (s.finish (s.setToken t.wg tl (.group t.gidx)) t)) ∧
    (s.hasTile t.wg tl = true → (s.wgOf t).token tl = .group t.gidx →
      exec (.accacq f) s = .next (s.after t t.advance) ∧
      exec (.accrel f) s = .next (s.finish (s.tokenFree t.wg tl) t)) ∧
    (s.hasTile t.wg tl = true → (s.wgOf t).token tl = .unit → s.tileBusy t.wg tl = true →
      exec (.accacq f) s = .next (((s.setToken t.wg tl (.pending t.gidx)).updCore (s.coreOf t) fun c =>
        { c with accQ := c.accQ ++ [s.cur] }).after t { t with status := .accacq tl })) ∧
    (∀ g, s.hasTile t.wg tl = true → ((s.wgOf t).token tl = .pending g ∨ (s.wgOf t).token tl = .group g ∧ g ≠ t.gidx) →
      exec (.accacq f) s = .next ((s.updCore (s.coreOf t) fun c => { c with accQ := c.accQ ++ [s.cur] }).after t
        { t with status := .accacq tl }) ∧
      exec (.accrel f) s = .next (s.trapped t { cls := 4, info := tl + (s.wgOf t).core % 4 * 4 })) ∧
    (∀ g, s.wgs.get? t.wg = some g → s.tokenWaiter t.wg tl = none →
      ∃ g', (s.tokenFree t.wg tl).wgs.get? t.wg = some g' ∧ g'.token tl = .unit)) ∧
  (∀ (s : State) (wg tl g tid : Nat) (w : Wg) (t : Thread), s.wgs.get? wg = some w → w.token tl = .pending g →
    s.tokenWaiter wg tl = some (tid, t) → s.tileBusy wg tl = false →
    ∃ s' w', exec (.accTokenGrant wg tl) s = .next s' ∧ s'.wgs.get? wg = some w' ∧ w'.token tl = .group t.gidx ∧
      s'.threads.get? tid = some ({ t with status := .running } : Thread).advance ∧ s'.mem = s.mem) ∧
  (∀ (s : State) (t : Thread) (f : Eng) (tl r0 c0 n k : Nat), s.At t → t.side = .wide → t.canRead f.a 1 = .ok ⟨⟩ →
    tl = f.xt.toNat % 4 → r0 = t.uni f.a % 64 → c0 = t.uni f.a / 256 % 64 → n = f.xt.toNat / 4 % 16 + 1 →
    k = (if accTy f = 0 then 2 else 1) → r0 + n ≤ 64 → c0 + t.width ≤ 64 →
    ∀ mine : Prop, (mine ↔ s.hasTile t.wg tl = true ∧ (s.wgOf t).token tl = .group t.gidx) →
    (f.dst.toNat % k = 0 → f.dst.toNat + n * k ≤ 128 → t.vHeld f.dst.toNat (n * k) = true → ¬mine → t.busy = false →
      exec (.accrd f) s = .next (s.trapped t
        { cls := 4, info := tl + (s.wgOf t).core % 4 * 4 + if s.hasTile t.wg tl then 0 else 16 })) ∧
    (f.b.reg.toNat % k = 0 → f.b.reg.toNat + n * k ≤ 128 → t.vHeld f.b.reg.toNat (n * k) = true → ¬mine →
      t.busy = false → firstEmpty t.regs.ve f.b.reg.toNat (n * k) = none →
      exec (.accwr f) s = .next (s.trapped t
        { cls := 4, info := tl + (s.wgOf t).core % 4 * 4 + if s.hasTile t.wg tl then 0 else 16 })) ∧
    (f.dst.toNat % k = 0 → f.dst.toNat + n * k ≤ 128 → t.vHeld f.dst.toNat (n * k) = true → mine → t.active = [] →
      exec (.accrd f) s = .next (s.after t t.advance)) ∧
    (f.dst.toNat % k = 0 → f.dst.toNat + n * k ≤ 128 → t.vHeld f.dst.toNat (n * k) = true → mine → t.active ≠ [] →
      ∃ s' t' p, exec (.accrd f) s = .next s' ∧ s'.threads.get? s.cur = some t' ∧ t'.prods.get? s.nextId = some p ∧
        p.toG = false ∧ p.reg = f.dst.toNat ∧ p.n = n * k ∧ p.lanes = t.regs.em ∧ p.ready = true ∧ p.waiting = 0 ∧
        t'.regs.v = t.regs.v ∧ s'.wgs = s.wgs ∧ ∀ j i h, j < n → i ∈ t.active → h < k →
          p.vals.get (64 * (j * k + h) + i) = word32 (if accTy f = 0
            then (((s.wgOf t).tiles.getD tl {}).cells.get (64 * (r0 + j) + c0 + i)).toNat
            else (accOut t.regs.fmt.toNat (accTy f)
              (((s.wgOf t).tiles.getD tl {}).cells.get (64 * (r0 + j) + c0 + i)).toNat).1) h) ∧
    (f.b.reg.toNat % k = 0 → f.b.reg.toNat + n * k ≤ 128 → t.vHeld f.b.reg.toNat (n * k) = true → mine → t.busy = false →
      firstEmpty t.regs.ve f.b.reg.toNat (n * k) = none → ∀ g, s.wgs.get? t.wg = some g →
      ∃ s1 g', exec (.accwr f) s = .next (s.finish s1 t) ∧ s1.wgs.get? t.wg = some g' ∧ s1.mem = s.mem ∧
        (∀ j i, j < n → i ∈ t.active → (g'.tiles.getD tl {}).cells.get (64 * (r0 + j) + c0 + i) =
          BitVec.ofNat 36 (accwIn (accTy f * 2 ^ 20)
            (if accTy f ≤ 1 then vSpan t.regs.v (f.b.reg.toNat + j * k) i k
              else vSpan t.regs.v (f.b.reg.toNat + j * k) i k % 2 ^ 16))) ∧
        (∀ x, (∀ j i, j < n → i ∈ t.active → x ≠ 64 * (r0 + j) + c0 + i) →
          (g'.tiles.getD tl {}).cells.get x = (g.tiles.getD tl {}).cells.get x) ∧
        ∀ x, x ≠ tl → g'.tiles.get? x = g.tiles.get? x)) ∧
  (∀ (s : State) (t : Thread) (f : Eng), s.At t →
    (s.unitTarget t (f.xt.toNat % 4) = none →
      exec (.mqry f) s = .next (s.after t (t.putG f.dst.toNat (BitVec.ofNat 64 (2 ^ 19))).advance)) ∧
    (∀ wg key, s.unitTarget t (f.xt.toNat % 4) = some wg →
      key = 144 * (s.wgOf t).die + ((s.wgOf t).core / 4 * 4 + f.xt.toNat % 4) → ∃ s1 t1,
      exec (.mqry f) s = .next (s.finish s1 (t1.putG f.dst.toNat (BitVec.ofNat 64 (s.unitState key wg)))) ∧
      ((s.cores.getD key {}).unitQ ≠ [] → t1 = t) ∧
      ((s.cores.getD key {}).unitQ = [] → t1.regs = t.regs ∧ t1.posted = t.posted ∧ t1.status = t.status ∧
        t1.seen = t.seen ∧ ((∀ us ∈ t.unjoined, ∃ c ∈ us, c ≠ f.xt.toNat % 4) → t1.since = t.since) ∧
        ((∃ us ∈ t.unjoined, ∀ c ∈ us, c = f.xt.toNat % 4) → t.side = .mcc →
          t1.since = ((s.wgOf t).hist.length, (s.units.getD (s.wgOf t).unit_ .absent).hist.length))) ∧
      (f.xt.getLsbD 2 = false → s1 = s) ∧
      (f.xt.getLsbD 2 = true → s1 = s.updWg wg fun g => { g with accOf := false, accNv := false, accPz := false })))

/-! ### Gather and scatter -/

/-- THDL binds a handle to a valid record that can be read here, or unbinds it for address 0, and otherwise leaves it
and writes 1. GATH, GATHP, SCATA and GPREF whose request word, ranges and lists pass the checks take a ticket and write
it to DST; the operation's record stands, with every row that it asks for unsettled, and every position whose index or
pool group is out of range failed with cause 1; of a GATH, GATHP or GPREF every other position is that of a row at its
home. SCATA.CLOSE takes a ticket with its closes (R293, R295, R296 to R300, R302, R307). -/
def Obligations.GathersStart : Prop :=
  (∀ (s : State) (t : Thread) (f : Eng), s.At t → t.busy = false → t.canRead f.a 1 = .ok ⟨⟩ → t.canRead f.b 1 = .ok ⟨⟩ →
    t.uni f.b < 4096 →
    (t.uni f.a = 0 → exec (.thdl f) s = .next (s.finish
      { s with handles := s.handles.del (4096 * s.partOf t + t.uni f.b) }
      ((t.putG f.dst.toNat 0).setCC { z := true }))) ∧
    (∀ (p q : Nat → Place) (hdr n : Nat) (b : Handle), t.kept = [] → t.uni f.a ≠ 0 → t.uni f.a % 64 = 0 →
      (∀ j, j < 8 → s.resolve t .load 0 ((t.uni f.a + 8 * j) % 2 ^ 64) 8 = .ok (p j) ∧ (p j).isRemote = false ∧
        (p j).isDead = false ∧ s.scrWaits t (p j) 8 = false) →
      hdr = ofBytes ((List.range 8).flatMap fun j => s.readPlace t (p j) 8) → n = fld hdr 32 8 + 1 →
      (∀ j, j < 4 * n → s.resolve t .load 0 (((t.uni f.a + 64) % 2 ^ 64 + 8 * j) % 2 ^ 64) 8 = .ok (q j) ∧
        (q j).isRemote = false ∧ (q j).isDead = false ∧ s.scrWaits t (q j) 8 = false) →
      b = handleOf hdr (shardsOf (ofBytes ((List.range (4 * n)).flatMap fun j => s.readPlace t (q j) 8)) n) →
      ∃ s' t', exec (.thdl f) s = .next s' ∧ s'.threads.get? s.cur = some t' ∧ t'.pc = t.advance.pc ∧ s'.mem = s.mem ∧
        (recordOk hdr b = true → s'.handles = s.handles.put (4096 * s.partOf t + t.uni f.b) b ∧
          t'.regs = ((t.putG f.dst.toNat 0).setCC { z := true }).regs) ∧
        (recordOk hdr b = false → s'.handles = s.handles ∧
          t'.regs = ((t.putG f.dst.toNat 1).setCC { t := true }).regs))) ∧
  (∀ (s : State) (t : Thread) (f : Eng) (i : Instr) (kind tile list vec lo vo h n m span : Nat) (hd : Handle)
      (idx groups : List Nat) (pooled : Bool), s.At t → t.busy = false →
    (i, kind) ∈ [(Instr.gath f, 0), (.gathp f, if f.op = 0 then 1 else 2), (.scata f, if f.xt.getLsbD 0 then 4 else 3),
      (.gpref f, 5)] →
    pooled = (kind == 1 || kind == 2) → t.canRead f.a 1 = .ok ⟨⟩ → t.canRead f.b 1 = .ok ⟨⟩ →
    (pooled = true → t.canReadPair f.c = .ok ⟨⟩) → (pooled = false → t.canRead f.c 1 = .ok ⟨⟩) →
    (f.nb = 63 ∨ f.nb.toNat < (s.hdrOf t).nbn) → tile = t.uni f.a → list = t.uni f.b → vec = t.pairHi f.c →
    s.requestWord t (t.uni f.c) pooled false = .ok (h, hd, n, m) →
    (kind ≠ 0 → kind ≠ 5 → formatCheck hd (kind == 4) = .ok ⟨⟩) → tile % 16 = 0 → list % 4 = 0 →
    (aperture list).1 = .scratch → s.rangeOk t list (4 * n) = true → span = (if pooled then m else n) * hd.len →
    (aperture tile).1 = (if kind = 5 then .attic else .scratch) → s.rangeOk t tile span = true →
    lo = (aperture list).2 → lo + 4 * n ≤ 2 ^ 36 → (∀ j, j < n → s.localPoison t (.scratch (lo + 4 * j)) = false ∧
      s.scrWaits t (.scratch (lo + 4 * j)) 4 = false) →
    idx = ((List.range n).map fun j => (s.wgOf t).scr.getNat (lo + 4 * j) 4) → vo = (aperture vec).2 →
    (pooled = true → vec % 2 = 0 ∧ (aperture vec).1 = .scratch ∧ s.rangeOk t vec (2 * n) = true ∧ vo + 2 * n ≤ 2 ^ 36 ∧
      ∀ j, j < n → s.localPoison t (.scratch (vo + 2 * j)) = false ∧ s.scrWaits t (.scratch (vo + 2 * j)) 2 = false) →
    groups = (if pooled then (List.range n).map fun j => (s.wgOf t).scr.getNat (vo + 2 * j) 2 else []) →
    (s.cores.getD (s.coreOf t) {}).freeTickets ≠ [] →
    ∃ k s' op, exec i s = .next s' ∧ (s.cores.getD (s.coreOf t) {}).ops.get? k = none ∧
      s'.threads.get? s.cur = some (t.putG f.dst.toNat (BitVec.ofNat 64 k)).advance ∧
      (s'.cores.getD (s.coreOf t) {}).ops.get? k = some op ∧ op.kind = opKindOf kind ∧ op.tid = s.cur ∧
      op.nb = f.nb.toNat ∧ op.data = [s.nextId] ∧ op.wrote = (if pooled then m else n) * hd.len ∧
      ∃ o, s'.gops.get? s.nextId = some o ∧ o.core = s.coreOf t ∧ o.ticket = k ∧ o.kind = kind ∧
        o.n = n ∧ o.dst = tile ∧ o.len = hd.len ∧ (∀ r ∈ o.rows, r.2.settled = false) ∧
        (∀ j r, idx[j]? = some r → (hd.locate r = none ∨ pooled = true ∧ m ≤ groups.getD j 0) → (j, 1) ∈ o.fails) ∧
        (kind = 3 ∨ kind = 4 → o.rows = [] ∧ ∃ g, o.req = some g ∧ g.idx = idx ∧ g.tile = tile ∧ g.hd = hd) ∧
        (kind ≠ 3 → kind ≠ 4 → o.req = none ∧
          ∀ j r x, idx[j]? = some r → hd.locate r = some x → (pooled = true → groups.getD j 0 < m) →
            ∃ e ∈ o.rows, j ∈ e.2.pos ∧ e.2.pkg = x.2.1.pkg ∧ e.2.die = x.2.1.die ∧ e.2.va = x.2.2)) ∧
  (∀ (s : State) (t : Thread) (f : Eng) (h : Nat) (hd : Handle), s.At t → t.busy = false → t.canRead f.c 1 = .ok ⟨⟩ →
    (f.nb = 63 ∨ f.nb.toNat < (s.hdrOf t).nbn) → s.requestWord t (t.uni f.c) false true = .ok (h, hd, 0, 0) →
    formatCheck hd true = .ok ⟨⟩ → (s.cores.getD (s.coreOf t) {}).freeTickets ≠ [] →
    ∃ k s' op, exec (.scataClose f) s = .next s' ∧ (s.cores.getD (s.coreOf t) {}).ops.get? k = none ∧
      s'.threads.get? s.cur = some (t.putG f.dst.toNat (BitVec.ofNat 64 k)).advance ∧
      (s'.cores.getD (s.coreOf t) {}).ops.get? k = some op ∧ op.kind = .scatClose ∧
      op.data = [s.nextId, 4096 * s.partOf t + h, hd.nsrc] ∧ s'.mem = s.mem)

/-- At a row's home a unit of 16 bytes is fetched, or a word is added to, one at a time in any order, an add once all
words of its row have been checked; a row whose last unit is done ends so, and so does one that meets a failure, with
its cause, or whose die is lost when HFTMO has passed, with cause 3; a row that waits for a page has it walked; a whole
row of a GATH or a GPREF in a forwarded page is sent on to its holder, and a unit of another is asked of it. A settled
row keeps its bytes, or fails at every position that asked for it, and a unit of the destination whose row is settled is
written by itself. When every row is settled the operation writes what is left and completes, and a SCATA.CLOSE when its
closes are delivered: its status is held under its ticket, its bytes are counted and its addition is made (R219, R299 to
R303, R306, R307, R309, R397, R445). Requests of other packages open a service with the works of their rows, ordered
adds excepted, which are held for their round; replies settle the rows that they answer, and their pooled parts are kept
but for dies whose rows have failed already; a package that cannot be reached, or a package or a lost die that gives no
answer within HFTMO, fails its rows with cause 3; a close adds to its handle's round and the round is released when all
have come. GSTAT tells an operation in flight, a held status, which it also stores as a map of the failed positions, and
none; SHCNT stores the shard counters and clears them: both at addresses in this package (R300, R302 to R304, R307,
R309, R311). That a ticket which runs another workgroup's operation gives the issuing workgroup's own status is log 26.
-/
def Obligations.GathersEnd : Prop :=
  (∀ (s : State) (id : Nat) (w : GWork), s.gworks.get? id = some w → w.add = false → s.workWaits id w = false →
    (s.rowDead w = true → s.overdue w.sent = true → exec (.gatherRowService id) s = .next (s.endWork id w 3)) ∧
    (s.rowDead w = false → (∃ k ∈ w.todo, 2 * k ∉ w.asked) → ∃ k, k ∈ w.todo ∧ 2 * k ∉ w.asked ∧
      (∀ a w', s.homeRes w ((w.va + 16 * k) % 2 ^ 64) = .ok (.phys a) →
        w' = { w with todo := w.todo.filter (· != k), got := w.got.put k (s.mem.bytes a 16) } →
        exec (.gatherRowService id) s = .next (if w'.todo = [] then s.endWork id w' 0
          else { s with gworks := s.gworks.put id w' })) ∧
      (∀ c, s.homeRes w ((w.va + 16 * k) % 2 ^ 64) = .fails c →
        exec (.gatherRowService id) s = .next (s.endWork id w c)) ∧
      (∀ page, s.homeRes w ((w.va + 16 * k) % 2 ^ 64) = .walk page →
        exec (.gatherRowService id) s = s.walkRow id w page) ∧
      (∀ pa hop, s.homeRes w ((w.va + 16 * k) % 2 ^ 64) = .ok (.remote pa hop) → ∃ s',
        exec (.gatherRowService id) s = .next s' ∧ s'.mem = s.mem ∧
        (s.sentOn w = none → s'.gworks.get? id = some { w with asked := w.asked ++ [2 * k] }) ∧
        (∀ x, s.sentOn w = some x → s'.gworks.get? id = none ∧
          ∀ gid row o r, w.for_ = .own gid row → s.gops.get? gid = some o → o.rows.get? row = some r →
            ∃ o', s'.gops.get? gid = some o' ∧ o'.rows.get? row = some { r with pkg := pkgOf x.1 })))) ∧
  (∀ (s : State) (id n : Nat) (w : GWork), s.gworks.get? id = some w → w.add = true → s.workWaits id w = false →
    w.asked = [] →
    (∀ l1 k l2 c, w.places = [] → s.rowDead w = false → w.todo = l1 ++ k :: l2 →
      (∀ j ∈ l1, ∀ d, s.homeRes w ((w.va + 4 * j) % 2 ^ 64) ≠ .fails d) →
      s.homeRes w ((w.va + 4 * k) % 2 ^ 64) = .fails c →
      exec (.scatterAddApply id) s = .next (s.endWork id w c)) ∧
    (∀ at_ : Nat → Nat, w.todo ≠ [] → ((w.places = [] ∧ s.rowDead w = false ∧ w.todo = List.range n ∧
          ∀ k, k < n → s.homeRes w ((w.va + 4 * k) % 2 ^ 64) = .ok (.phys (at_ k))) ∨
        (w.places = (List.range n).map (fun k => .phys (at_ k)) ∧ n ≠ 0 ∧ s.lost w.die = false ∧ ∀ k ∈ w.todo, k < n)) →
      (∀ k, k < n → s.moving (at_ k) = false) →
      ∃ (k : Nat) (s1 : State) (w' : GWork), k ∈ w.todo ∧ w'.todo = w.todo.filter (· != k) ∧
        w'.places = (List.range n).map (fun k => .phys (at_ k)) ∧
        s1 = s.putPhysNat (at_ k) 4 (wordAdd w.efmt false (s.mem.getNat (at_ k) 4)
          (ofBytes ((w.data.drop (4 * k)).take 4))) ∧
        s1.mem = s.mem.putNat (at_ k) 4 (wordAdd w.efmt false (s.mem.getNat (at_ k) 4)
          (ofBytes ((w.data.drop (4 * k)).take 4))) ∧
        exec (.scatterAddApply id) s = .next (if w'.todo = [] then s1.endWork id w' 0
          else { s1 with gworks := s1.gworks.put id w' }))) ∧
  (∀ (s : State) (gid row cause : Nat) (o : GOp) (r : GRow) (bs : List Byte),
    s.gops.get? gid = some o → o.rows.get? row = some r → r.settled = false →
    ∃ o', s.settleRow gid row cause bs = { s with gops := s.gops.put gid o' } ∧
      o'.rows.get? row = some { r with settled := true, bytes := if cause = 0 then bs else [] } ∧
      o'.fails = o.fails ++ (if cause = 0 then [] else r.pos.map fun j => (j, cause))) ∧
  (∀ (s : State) (core k u gid od : Nat) (op : EngOp) (o : GOp) (t : Thread) (g : Wg) (bs : List Byte),
    (s.cores.getD core {}).ops.get? k = some op → op.data = [gid] → op.kind ≠ .scatClose → op.kind.isGather = true →
    s.gops.get? gid = some o → o.core = core → o.ticket = k → o.req = none → s.lost (core / 144) = false →
    s.threads.get? op.tid = some t → s.wgs.get? t.wg = some g → u < o.units → u ∉ o.landed →
    o.rowAt s.pkg (16 * u / o.len) = some bs → o.dst = 0xFFFFFFE000000000 + od → od + 16 * u + 16 ≤ 2 ^ 36 →
    (∀ b, b < 16 → g.pinned.contains ((od + 16 * u + b) / 16384) = true) →
    ∃ s' g', engineStep core k u s = .next s' ∧ s'.gops.get? gid = some { o with landed := o.landed ++ [u] } ∧
      s'.wgs.get? t.wg = some g' ∧ s'.mem = s.mem ∧
      (∀ b x, b < 16 → bs[16 * u % o.len + b]? = some x → g'.scr.get (od + 16 * u + b) = x) ∧
      ∀ a, a < od + 16 * u ∨ od + 16 * u + 16 ≤ a → g'.scr.get a = g.scr.get a) ∧
  (∀ (s s1 : State) (core k gid : Nat) (op : EngOp) (o : GOp) (t : Thread) (g : Wg),
    (s.cores.getD core {}).ops.get? k = some op →
    op.data = [gid] → op.kind ≠ .scatClose → op.kind.byArrival = false → op.out = [] → s.gops.get? gid = some o →
    o.core = core → o.ticket = k → o.req = none → (∀ r ∈ o.rows, r.2.settled = true) → s.lost (core / 144) = false →
    s.threads.get? op.tid = some t → s1 = s.landRest t gid → s1.wgs.get? op.wg = some g →
    ∃ s' g', exec (.gatherComplete core k) s = .next s' ∧
      (s'.cores.getD core {}).ops.get? k = none ∧ s'.gops.get? gid = none ∧ s'.wgs.get? op.wg = some g' ∧
      g'.tickets.get? k = some (o.status op.wrote) ∧ g'.scr = g.scr ∧ s'.mem = s1.mem ∧
      (op.nb ≠ 63 → g'.bars.getD op.nb .fresh =
        (g.bars.getD op.nb .fresh).add { b := op.wrote, e := !o.fails.isEmpty }) ∧
      s'.launches = (s1.addBytes op.wg op.wrote).launches) ∧
  (∀ (s : State) (gid od : Nat) (o : GOp) (t : Thread) (g : Wg), s.gops.get? gid = some o → o.kind = 0 → 0 < o.len →
    o.len % 16 = 0 → s.wgs.get? t.wg = some g → o.dst = 0xFFFFFFE000000000 + od → od + o.n * o.len ≤ 2 ^ 36 →
    (∀ a, od ≤ a → a < od + o.n * o.len → g.pinned.contains (a / 16384) = true) →
    (∀ j, j < o.n → ∃ bs, o.rowAt s.pkg j = some bs ∧ bs.length = o.len) →
    ∃ g', (s.landRest t gid).wgs.get? t.wg = some g' ∧ (s.landRest t gid).mem = s.mem ∧
      (∀ u bs b x, u < o.n * o.len / 16 → u ∉ o.landed → o.rowAt s.pkg (16 * u / o.len) = some bs → b < 16 →
        bs[16 * u % o.len + b]? = some x → g'.scr.get (od + 16 * u + b) = x) ∧
      ∀ a, (∀ u, u < o.n * o.len / 16 → u ∉ o.landed → a < od + 16 * u ∨ od + 16 * u + 16 ≤ a) →
        g'.scr.get a = g.scr.get a) ∧
  (∀ (s : State) (core k gid : Nat) (op : EngOp) (g : Wg), (s.cores.getD core {}).ops.get? k = some op →
    op.data.getD 0 0 = gid → op.kind = .scatClose → op.did ≠ [] → op.out = [] → s.closeInFlight gid = false →
    s.lost (core / 144) = false → s.wgs.get? op.wg = some g → ∃ s' g', exec (.gatherComplete core k) s = .next s' ∧
      (s'.cores.getD core {}).ops.get? k = none ∧ s'.wgs.get? op.wg = some g' ∧ s'.mem = s.mem ∧
      g'.tickets.get? k = some { bytes := 0, cause := 0, fails := [] } ∧
      (op.nb ≠ 63 → g'.bars.getD op.nb .fresh = (g.bars.getD op.nb .fresh).add { b := op.wrote })) ∧
  (∀ (s : State) (req : GatherReq), req.rows ≠ [] → (req.src ≠ s.pkg ∨ req.forwarded = true) →
    (req.kind = 4 → ∃ s', exec (.gatherRequestReceive req) s = .next s' ∧ s'.mem = s.mem) ∧
    (req.kind ≠ 4 → ∃ s', exec (.gatherRequestReceive req) s = .next s' ∧
      s'.gserves.get? s.nextId = some { req := req, rows := [] } ∧
      s'.gworks = s.gworks ++ (req.rows.zipIdx.map fun r => (s.nextId + 1 + r.2,
        { workOf req.kind req.efmt req.len (.other s.nextId r.1.key) r.1 req.forwarded with
          sent := s.time.toNat })) ∧
      s'.mem = s.mem)) ∧
  (∀ (s : State) (rep : GatherRep), (s.gops.get? rep.id = none → exec (.gatherReply rep) s = .next s) ∧
    (∀ o parts, s.gops.get? rep.id = some o → parts = rep.parts.filter (fun p => !o.late rep.pkg p.2.1) →
      exec (.gatherReply rep) s = .next (rep.rows.foldl (fun s r => s.settleRow rep.id r.1 r.2.1 r.2.2)
        (if parts = [] then s else { s with gops := s.gops.put rep.id { o with parts := o.parts.put rep.pkg parts } })))) ∧
  (∀ (s : State) (core k pkg die gid : Nat) (op : EngOp) (o : GOp), (s.cores.getD core {}).ops.get? k = some op →
    op.data = [gid] → s.gops.get? gid = some o → o.core = core → o.ticket = k →
    (pkg = s.pkg → s.lost die = true ∧ s.overdue o.sent = true) →
    (pkg ≠ s.pkg → s.overdue o.sent = true ∨ s.reach pkg = .lost ∨ s.reach pkg = .key) →
    (∃ r ∈ o.rows, r.2.pkg = pkg ∧ r.2.die = die ∧ r.2.settled = false) →
    ∃ s' o', exec (.gatherPositionTimeout core k pkg die) s = .next s' ∧ s'.gops.get? gid = some o' ∧
      ∀ key r, o.rows.get? key = some r → r.pkg = pkg → r.die = die → ∃ r', o'.rows.get? key = some r' ∧
        r'.settled = true ∧ (r.settled = false → ∀ j ∈ r.pos, (j, 3) ∈ o'.fails)) ∧
  (∀ (s : State) (m : ScatClose) (r : OrdRound), m.src ≠ s.pkg →
    r = s.ordRounds.getD m.handle { closes := 0, announced := 0, received := 0, held := [] } →
    (∀ r', r' = { r with closes := r.closes + 1, announced := r.announced + m.rows } →
      (r.closes + 1 < m.nsrc ∨ r.received ≠ r.announced + m.rows) →
      exec (.scatterCloseArrive m) s = .next { s with ordRounds := s.ordRounds.put m.handle r' }) ∧
    (m.nsrc ≤ r.closes + 1 → r.received = r.announced + m.rows → ∃ s', exec (.scatterCloseArrive m) s = .next s' ∧
      s'.ordRounds.get? m.handle = none ∧ s'.gworks.length = s.gworks.length + r.held.length ∧ s'.mem = s.mem)) ∧
  (∀ (s : State) (t : Thread) (f : Eng) (k : Nat), s.At t → t.busy = false → t.canRead f.a 1 = .ok ⟨⟩ →
    t.canRead f.b 1 = .ok ⟨⟩ → k = t.uni f.a → k < 16 → t.uni f.b % 8 = 0 →
    (∀ op, (s.cores.getD (s.coreOf t) {}).ops.get? k = some op → op.wg = t.wg → op.kind.isGather = true →
      exec (.gstat f) s = .next (s.after t
        ((t.putG f.dst.toNat (BitVec.ofNat 64 (2 ^ 16))).setCC { t := true, z := true }).advance)) ∧
    ((∀ op, (s.cores.getD (s.coreOf t) {}).ops.get? k = some op → op.wg ≠ t.wg ∨ op.kind.isGather = false) →
      ((s.wgOf t).tickets.get? k = none → exec (.gstat f) s = .next (s.after t
        ((t.putG f.dst.toNat (BitVec.ofNat 64 (2 ^ 17))).setCC { t := true, z := true }).advance)) ∧
      (∀ x, (s.wgOf t).tickets.get? k = some x →
        (t.uni f.b = 0 → exec (.gstat f) s = .next (s.after t
          ((t.putG f.dst.toNat (BitVec.ofNat 64 (x.bytes * 2 ^ 32 + x.cause % 16 * 2 ^ 18 + x.fails.length))).setCC
            { z := x.fails.isEmpty }).advance)) ∧
        (∀ p : Nat → Place, t.uni f.b ≠ 0 → (∀ j, j < 16 → s.resolve t .store 0 ((t.uni f.b + 8 * j) % 2 ^ 64) 8 =
            .ok (p j) ∧ (p j).isRemote = false ∧ s.scrWaits t (p j) 8 = false) →
          ∃ s1 t1, s.storePlaces t ((List.range 16).map fun j => (p j, toBytes (fld (faultMap x) (64 * j) 64) 8)) =
            (s1, t1) ∧ t1.regs = t.regs ∧ exec (.gstat f) s = .next (s.finish s1
              ((t1.putG f.dst.toNat (BitVec.ofNat 64 (x.bytes * 2 ^ 32 + x.cause % 16 * 2 ^ 18 + x.fails.length))).setCC
                { z := x.fails.isEmpty })))))) ∧
  (∀ (s : State) (t : Thread) (f : Eng) (b : Handle) (p : Nat → Place), s.At t → t.busy = false →
    t.canRead f.a 1 = .ok ⟨⟩ → t.canRead f.b 1 = .ok ⟨⟩ → s.handle (s.partOf t) (t.uni f.a) = some b →
    (∀ j, j < b.shards.length → s.resolve t .store 0 ((t.uni f.b + 4 * j) % 2 ^ 64) 4 = .ok (p j) ∧
      (p j).isRemote = false ∧ s.scrWaits t (p j) 4 = false) →
    ∃ s1 t1, s.storePlaces t ((List.range b.shards.length).map fun j => (p j, toBytes (b.counters.getD j 0) 4)) =
      (s1, t1) ∧ t1.regs = t.regs ∧
    ∀ b', b' = { b with counters := b.shards.map fun _ => 0 } → exec (.shcnt f) s = .next (s.finish
      { s1 with handles := s1.handles.put (4096 * s.partOf t + t.uni f.a) b' } t1))

/-! ### Fenade -/

/-- With a record and an expert table in readable places of this package: RJOIN binds a round slot to a record that
keeps its limits, with counters and accumulators clear, or writes why not. RSEND reads the entry of its expert and the
row, adds WGT to the entry's accumulator, sends the row to replica 1 when it reaches 256 and to replica 0 otherwise, and
counts it; to a package that no lane reaches it traps. RCLOSE unbinds the slot and sends each package that holds a
replica in use one close with its counts; RCNT stores the counters and clears them (R285, R286, R288). That a slot which
was never bound has no counters to store is log 25. -/
def Obligations.RoutingRounds : Prop :=
  (∀ (s : State) (t : Thread) (f : Eng) (p : Nat → Place) (w k st : Nat) (g : Wg), s.At t → t.busy = false → t.kept = [] →
    t.canRead f.a 1 = .ok ⟨⟩ → k = f.xt.toNat % 8 → t.uni f.a % 64 = 0 → s.wgs.get? t.wg = some g →
    (∀ j, j < 8 → s.resolve t .load 0 ((t.uni f.a + 8 * j) % 2 ^ 64) 8 = .ok (p j) ∧ (p j).isRemote = false ∧
      (p j).isDead = false ∧ s.scrWaits t (p j) 8 = false) →
    w = ofBytes ((List.range 8).flatMap fun j => s.readPlace t (p j) 8) →
    st = (if (g.rounds.getD k {}).bound then 1
      else if (1 ≤ fld w 64 10 ∧ fld w 64 10 ≤ 512) ∧ 1 ≤ fld w 32 16 ∧ fld w 128 64 % 64 = 0 ∧ fld w 128 64 < 2 ^ 56
        then 0 else 2) →
    ∃ s' t' g', exec (.rjoin f) s = .next s' ∧ s'.threads.get? s.cur = some t' ∧ t'.pc = t.advance.pc ∧
      t'.regs = ((t.putG f.dst.toNat (BitVec.ofNat 64 st)).setCC { t := st != 0 }).regs ∧ s'.mem = s.mem ∧
      s'.wgs.get? t.wg = some g' ∧ (∀ j, j ≠ k → g'.rounds.get? j = g.rounds.get? j) ∧
      g'.rounds.get? k = if st = 0 then some
        { bound := true, etab := fld w 128 64, rowb := fld w 64 10, nexp := fld w 48 12, nsrc := fld w 32 16
          rid := fld w 0 32, once := true } else g.rounds.get? k) ∧
  (∀ (s : State) (t : Thread) (f : Eng) (p q : Nat → Place) (w k e acc : Nat) (sl : RoundSlot) (rep : Replica) (g : Wg),
    s.At t → t.busy = false → t.kept = [] → t.canRead f.a 1 = .ok ⟨⟩ → t.canRead f.b 1 = .ok ⟨⟩ →
    t.canRead f.c 1 = .ok ⟨⟩ → k = f.xt.toNat % 8 → s.wgs.get? t.wg = some g → sl = g.rounds.getD k {} →
      e = t.uni f.a % 4096 → sl.bound = true →
    e ≤ sl.nexp → t.uni f.b % 16 = 0 →
    (∀ j, j < 8 → s.resolve t .load 0 (((sl.etab + 64 * e) % 2 ^ 64 + 8 * j) % 2 ^ 64) 8 = .ok (p j) ∧
      (p j).isRemote = false ∧ (p j).isDead = false ∧ s.scrWaits t (p j) 8 = false) →
    (∀ j, j < 2 * sl.rowb → s.resolve t .load 0 ((t.uni f.b + 8 * j) % 2 ^ 64) 8 = .ok (q j) ∧
      (q j).isRemote = false ∧ (q j).isDead = false ∧ s.scrWaits t (q j) 8 = false) →
    w = ofBytes ((List.range 8).flatMap fun j => s.readPlace t (p j) 8) → acc = (sl.acc.get e).toNat + fld w 224 8 →
    rep = { expert := e, replica := if 256 ≤ acc then 1 else 0, buf := fld w (if 256 ≤ acc then 256 else 0) 60
            tags := fld w (if 256 ≤ acc then 320 else 64) 60, bar := fld w (if 256 ≤ acc then 384 else 128) 60
            cap := fld w (if 256 ≤ acc then 448 else 192) 32 } →
    (pkgOf rep.buf ≠ s.pkg → s.reach (pkgOf rep.buf) = .lost → exec (.rsend f) s = .next (s.trapped t
      { cls := 9, addr := rep.buf, info := pkgOf rep.buf + rep.replica * 2 ^ 24 })) ∧
    (pkgOf rep.buf = s.pkg ∨ s.reach (pkgOf rep.buf) = .up ∨ s.reach (pkgOf rep.buf) = .wait →
      ∃ (s1 : State) (t1 : Thread) (g' : Wg) (sl' : RoundSlot) (m : RowMsg),
        exec (.rsend f) s = .next (s.finish (if pkgOf rep.buf = s.pkg then { s1 with porchOwn := s1.porchOwn ++ [.inl m] }
          else s1.sendMsg (.row (pkgOf rep.buf) m)) t1) ∧ t1.regs = t.regs ∧ t1.pc = t.pc ∧ s1.mem = s.mem ∧
        s1.porchOwn = s.porchOwn ∧ s1.outbox = s.outbox ∧ s1.lanes = s.lanes ∧ s1.pkg = s.pkg ∧
        m = { src := s.pkg, wg := t.wg, tid := s.cur, rid := sl.rid, nsrc := sl.nsrc, rowb := sl.rowb, rep := rep
              tag := t.uni f.c % 2 ^ 32, data := (List.range (2 * sl.rowb)).flatMap fun j => s.readPlace t (q j) 8 } ∧
        s1.wgs.get? t.wg = some g' ∧ g'.rounds.get? k = some sl' ∧
        sl'.acc.get e = BitVec.ofNat 16 (if 256 ≤ acc then acc - 256 else acc) ∧
        (sl'.counts.get e).toNat = min ((sl.counts.get e).toNat + 1) (2 ^ 32 - 1) ∧
        (∀ x, x ≠ e → sl'.acc.get x = sl.acc.get x ∧ sl'.counts.get x = sl.counts.get x))) ∧
  (∀ (s : State) (t : Thread) (f : Eng) (p : Nat → Place) (k w : Nat) (sl : RoundSlot) (g : Wg), s.At t → t.busy = false →
    t.kept = [] → k = f.xt.toNat % 8 → s.wgs.get? t.wg = some g → sl = g.rounds.getD k {} → sl.bound = true →
    (∀ j, j < 8 * (sl.nexp + 1) → s.resolve t .load 0 ((sl.etab + 8 * j) % 2 ^ 64) 8 = .ok (p j) ∧
      (p j).isRemote = false ∧ (p j).isDead = false ∧ s.scrWaits t (p j) 8 = false) →
    w = ofBytes ((List.range (8 * (sl.nexp + 1))).flatMap fun j => s.readPlace t (p j) 8) →
    ∃ (s1 : State) (t1 : Thread) (g' : Wg) (reps : List Replica) (ms : List (Nat × RoundClose)),
      exec (.rclose f) s = .next (s.finish (ms.foldl (fun (s : State) m => if m.1 = s.pkg
        then { s with porchOwn := s.porchOwn ++ [.inr m.2] } else s.sendMsg (.close m.1 m.2)) s1) t1) ∧
      t1.regs = t.regs ∧ t1.pc = t.pc ∧ s1.mem = s.mem ∧ s1.wgs.get? t.wg = some g' ∧ s1.lanes = s.lanes ∧
      s1.porchOwn = s.porchOwn ∧ g'.rounds.get? k = some { sl with bound := false } ∧
      (∀ x, x ∈ reps ↔ ∃ e r, e ≤ sl.nexp ∧ (r = 0 ∨ r = 1 ∧ fld w (512 * e + 224) 8 ≠ 0) ∧
        x = { expert := e, replica := r, buf := fld w (512 * e + 256 * r) 60, tags := fld w (512 * e + 256 * r + 64) 60
              bar := fld w (512 * e + 256 * r + 128) 60, cap := fld w (512 * e + 256 * r + 192) 32 }) ∧
      (ms.map (·.1)).Nodup ∧ (∀ x, x ∈ ms.map (·.1) ↔ ∃ r ∈ reps, pkgOf r.buf = x) ∧
      ∀ m ∈ ms, m.2 = { src := s.pkg, wg := t.wg, tid := some s.cur, rid := sl.rid, nsrc := sl.nsrc, rowb := sl.rowb
                        counts := (reps.filter fun r => pkgOf r.buf == m.1).map fun r =>
                          (r, (sl.sent.get (2 * r.expert + r.replica)).toNat) }) ∧
  (∀ (s : State) (t : Thread) (f : Eng) (p : Nat → Place) (k n : Nat) (sl : RoundSlot), s.At t → t.busy = false →
    t.canRead f.a 1 = .ok ⟨⟩ → k = f.xt.toNat % 8 → sl = s.roundSlot t k → t.uni f.a % 4 = 0 →
    n = (if sl.once then sl.nexp + 1 else 0) →
    (∀ j, j < n → s.resolve t .store 0 ((t.uni f.a + 4 * j) % 2 ^ 64) 4 = .ok (p j) ∧
      (p j).isRemote = false ∧ s.scrWaits t (p j) 4 = false) →
    ∃ s1 t1, s.storePlaces t ((List.range n).map fun j => (p j, toBytes (sl.counts.get j).toNat 4)) = (s1, t1) ∧
      t1.regs = t.regs ∧ exec (.rcnt f) s = .next (s.finish (s1.updWg t.wg fun g =>
        { g with rounds := g.rounds.put k { sl with counts := [] } }) t1))

/-- At its home a row waits while an earlier row of its replica does, or while 1024 other trackers are open; taken, it
is counted, and while there is room its 16-byte units and its tag stand ready for the next place. A close adds to its
tracker. The units are written one by one. A tracker stays until NSRC closes and the rows that they announce have come;
then the status word is stored after the rows, each page's part of it by itself, and then the arrival is added at BAR.
Rows of this package come the same way (R279, R286, R397). -/
def Obligations.RowsArrive : Prop :=
  (∀ (s : State) (m : RowMsg), m.src ≠ s.pkg → pkgOf m.rep.buf = s.pkg →
    (∀ k, rowsBefore s.porchIn m = false → s.homeLost (inPkg m.rep.buf) = false →
      s.trackerFor m.rid m.nsrc m.rowb m.rep = some k →
      (k.stored < k.cap → exec (.routingRowArrive m) s = .next (s.putTracker { k with
        received := k.received + 1, stored := k.stored + 1
        out := k.out ++ ((List.range k.rowb).map (fun i =>
          { pa := k.buf + 16 * (k.rowb * k.stored + i), data := (m.data.drop (16 * i)).take 16, wg := none }) ++
            [{ pa := k.tags + 4 * k.stored, data := toBytes m.tag 4, wg := none }]) })) ∧
      (k.cap ≤ k.stored → exec (.routingRowArrive m) s = .next (s.putTracker { k with received := k.received + 1 }))) ∧
    (rowsBefore s.porchIn m = true ∨ s.homeLost (inPkg m.rep.buf) = true ∨
        s.trackerFor m.rid m.nsrc m.rowb m.rep = none →
      exec (.routingRowArrive m) s = .next { s with porchIn := s.porchIn ++ [.inl m] })) ∧
  (∀ (s : State) (rid nsrc rowb : Nat) (r : Replica),
    (∀ k ∈ s.trackers, ¬(k.rid = rid ∧ k.expert = r.expert ∧ k.replica = r.replica)) →
    s.trackerFor rid nsrc rowb r = if s.trackers.length < 1024 then some
      { rid := rid, expert := r.expert, replica := r.replica, nsrc := nsrc, closes := 0, announced := 0, received := 0
        stored := 0, buf := r.buf, tags := r.tags, bar := r.bar, cap := r.cap, rowb := rowb } else none) ∧
  (∀ (s : State) (rid nsrc rowb : Nat) (r : Replica) (a b : List Tracker) (k : Tracker), s.trackers = a ++ k :: b →
    (∀ x ∈ a, ¬(x.rid = rid ∧ x.expert = r.expert ∧ x.replica = r.replica)) →
    k.rid = rid → k.expert = r.expert → k.replica = r.replica → s.trackerFor rid nsrc rowb r = some k) ∧
  (∀ (s : State) (m : RoundClose) (r : Replica) (n : Nat) (k : Tracker), m.src ≠ s.pkg → m.counts = [(r, n)] →
    pkgOf r.buf = s.pkg → s.homeLost (inPkg r.buf) = false → s.trackerFor m.rid m.nsrc m.rowb r = some k →
    exec (.roundCloseArrive m) s = .next
      (s.putTracker { k with closes := k.closes + 1, announced := k.announced + n })) ∧
  (∀ (s : State) (a b : List (RowMsg ⊕ RoundClose)) (m : RowMsg), s.porchOwn = a ++ .inl m :: b →
    arriveStep a.length s = .next (({ s with porchOwn := a ++ b } : State).routed (.inl m))) ∧
  (∀ (s : State) (a b : List Tracker) (c d : List RowUnit) (k : Tracker) (u : RowUnit),
    s.trackers = a ++ k :: b → k.out = c ++ u :: d → pkgOf u.pa = s.pkg → s.porchOk u.pa = true →
    rowUnitStep a.length c.length s = .next ((s.putPhys (inPkg u.pa) u.data).putTracker { k with out := c ++ d })) ∧
  (∀ (s : State) (k : Tracker), ∃ rest,
    (∀ x, x ∈ rest ↔ x ∈ s.trackers ∧ ¬(x.rid = k.rid ∧ x.expert = k.expert ∧ x.replica = k.replica)) ∧
    ((k.closes < k.nsrc ∨ k.received ≠ k.announced) → s.putTracker k = { s with trackers := rest ++ [k] }) ∧
    (∀ (st b : Nat) (s1 : State) (bs : List Byte), k.nsrc ≤ k.closes → k.received = k.announced →
      (∀ x ∈ s.aways.vals, x.owner ≠ .porch k.rid k.expert k.replica) → k.closing = false → k.out = [] →
      k.tags + 4 * k.cap = s.pkg * 2 ^ 43 + st → st + 8 < 2 ^ 43 → s.porchOk (s.pkg * 2 ^ 43 + st) = true →
      k.bar = s.pkg * 2 ^ 43 + b → b < 2 ^ 43 → s.porchOk k.bar = true →
      bs = toBytes (k.stored + (k.received - k.stored) * 2 ^ 32) 8 →
      ((st % 65536 ≤ 65528 ∧ s1 = ({ s with trackers := rest } : State).putPhys st bs) ∨
        (65528 < st % 65536 ∧ s.porchOk (s.pkg * 2 ^ 43 + (st + 4)) = true ∧
          s1 = (({ s with trackers := rest } : State).putPhys st (bs.take 4)).putPhys (st + 4) (bs.drop 4))) →
      s.putTracker k = s1.putPhysNat b 64 ((Bar.ofWord (s1.mem.getNat b 64)).add { a := 1, v := k.stored }).word))

/-- DMARK drains the selected lanes that are up behind a marker; WLSET with a readable plan applies it and lets go what
waited, but writes 1 while a selected lane is up, draining or locking; LSTAT shows eight lanes. A lane is drained once
its peer has the marker, comes up when the handshake names its peer, and mismatches, with a record, when it names
another or none comes in time. An inbound handshake names the package of an inbound lane. A relay passes a message on or
drops it, and a row that it has dropped traps the group that sent it (R272 to R275, R277, R280, R289, R290). A flit on
an inbound lane whose tag verifies in an accepted bank and that has the next sequence number is taken; any other is
refused. An acknowledgement releases the flits it covers, in the bank that is used to send or in the one before; one
that releases nothing counts as a refusal, and the eighth fails the lane. A key update, which a key-control message asks
the peer for, opens the idle bank, and none begins while one runs; after the switch every lane to the peer sends with it
from sequence 0. HFWI makes the Porch read a forwarding table of this package again (R279 to R282, R284, R432). What
counts as a refusal, and that an update which runs goes on alone, is log 45, and that a key-control flit is taken before
any bank is there log 79. -/
def Obligations.LanesAndKeys : Prop :=
  (∀ (s : State) (t : Thread) (f : Eng), s.At t → t.busy = false → t.canRead f.a 1 = .ok ⟨⟩ →
    ∃ s1, exec (.dmark f) s = .next (s.finish s1 t) ∧ s1.mem = s.mem ∧ ∀ n, s1.lane n =
      (if n < 4096 ∧ (t.uni f.a).testBit (n / 64) ∧ (s.lane n).state = 1
        then { s.lane n with
          state := 2, seq := (s.lane n).seq + 1, marker := some ((s.lane n).seq + 1)
          control := (s.lane n).control ++ [flitHeader (s.lane n).peer s.pkg (s.lane n).seq 0 (s.lane n).kg 0x0A] }
        else s.lane n)) ∧
  (∀ (s : State) (t : Thread) (f : Eng), s.At t → t.busy = false → t.canRead f.a 1 = .ok ⟨⟩ → t.canRead f.b 1 = .ok ⟨⟩ →
    t.uni f.a % 64 = 0 →
    ((∃ n, n < 4096 ∧ (t.uni f.b).testBit (n / 64) = true ∧ (s.lane n).state ∈ [1, 2, 4]) →
      exec (.wlset f) s = .next (s.after t ((t.putG f.dst.toNat 1).setCC { t := true }).advance)) ∧
    (∀ (p : Nat → Nat → Place), t.kept = [] →
      (∀ n, n < 4096 → (t.uni f.b).testBit (n / 64) = true → (s.lane n).state ∉ [1, 2, 4]) →
      (∀ g j, g < 64 → (t.uni f.b).testBit g = true → j < 32 →
        s.resolve t .load 0 (((t.uni f.a + 256 * g) % 2 ^ 64 + 8 * j) % 2 ^ 64) 8 = .ok (p g j) ∧
        (p g j).isRemote = false ∧ (p g j).isDead = false ∧ s.scrWaits t (p g j) 8 = false) →
      ∃ s' t', exec (.wlset f) s = .next s' ∧ s'.threads.get? s.cur = some t' ∧ t'.pc = t.advance.pc ∧
        t'.regs = ((t.putG f.dst.toNat 0).setCC {}).regs ∧ s'.mem = s.mem ∧
        (∀ g k e, g < 64 → k < 64 → (t.uni f.b).testBit g = true →
          e = fld (ofBytes ((List.range 32).flatMap fun j => s.readPlace t (p g j) 8)) (32 * k) 32 →
          (s'.lane (64 * g + k)).state = (if tb e 31 then 4 else 0) ∧ (s'.lane (64 * g + k)).en = tb e 31 ∧
          (s'.lane (64 * g + k)).ch = fld e 24 6 ∧ (s'.lane (64 * g + k)).peer = fld e 0 17) ∧
        (∀ n, ¬(n < 4096 ∧ (t.uni f.b).testBit (n / 64) = true) → (s'.lane n).state = (s.lane n).state ∧
          (s'.lane n).en = (s.lane n).en ∧ (s'.lane n).ch = (s.lane n).ch ∧ (s'.lane n).peer = (s.lane n).peer) ∧
        ∀ m, m ∈ s'.outbox ↔ m ∈ s.outbox ∧ s'.reach (msgDest m) = .wait)) ∧
  (∀ (s : State) (t : Thread) (f : Eng) (n : Nat), s.At t → t.busy = false → t.canRead f.a 1 = .ok ⟨⟩ →
    n = t.uni f.a → n < 512 → ∃ v ok, exec (.lstat f) s = .next (s.after t
        ((t.putG f.dst.toNat (BitVec.ofNat 64 v)).setCC { t := ok }).advance) ∧
      (ok = true ↔ ∀ k, k < 8 → (s.lane (8 * n + k)).state = 1 ∨
        ((s.lane (8 * n + k)).state = 0 ∧ (s.lane (8 * n + k)).en = false)) ∧
      ∀ k, k < 8 → fld v (8 * k) 4 = (s.lane (8 * n + k)).state % 16 ∧ tb v (8 * k + 4) = (s.lane (8 * n + k)).kg ∧
        fld v (8 * k + 5) 3 = 0) ∧
  (∀ (s : State) (n : Nat) (l : Lane), s.lane n = l →
    (l.state = 2 → exec (.laneDrained n) s = .next
      { s with lanes := s.lanes.put n { l with state := 3, replay := [], marker := none } }) ∧
    (n < 4096 → l.state = 4 → s.mram.lifecycle ≠ 3 → ∀ peer : BitVec 17,
      (l.peer = peer.toNat → ∃ s', exec (.laneRelock n peer) s = .next s' ∧
        (s'.lane n).state = (if s.debugEntry = none then 1 else 3) ∧ (s'.lane n).allowPeer = some l.peer ∧
        (l.allowPeer = some l.peer → (s'.lane n).allow = l.allow) ∧ s'.mem = s.mem ∧
        (s.debugEntry ≠ none → n ∈ s'.debugLanes)) ∧
      (l.peer ≠ peer.toNat → exec (.laneRelock n peer) s = .next
          (({ s with lanes := s.lanes.put n { l with state := 6 } } : State).post
            { code := 0x13, info := n + peer.toNat * 2 ^ 12 }).flushOut)) ∧
    (l.state = 4 → exec (.relockTimeout n) s = .next
        (({ s with lanes := s.lanes.put n { l with state := 6 } } : State).post
          { code := 0x13, info := n + 2 ^ 32 }).flushOut ∧
      ∀ s', exec (.relockTimeout n) s = .next s' → (s'.lane n).state = 6) ∧
    (n < 4096 → s.mram.lifecycle ≠ 3 → ∀ peer : BitVec 17, ∃ s', exec (.laneRelock (4096 + n) peer) s = .next s' ∧
      (s'.lane n).rpeer = some peer.toNat ∧ (s'.lane n).state = l.state ∧ (s'.lane n).peer = l.peer ∧
      s'.mem = s.mem)) ∧
  (∀ (s : State) (m : RelayMsg), msgDest m.msg ≠ s.pkg → msgDest m.msg / 4096 = s.pkg / 4096 → relayed m.msg = true →
    ((s.reach (msgDest m.msg) = .up ∨ s.reach (msgDest m.msg) = .wait) →
      exec (.relayForward m) s = .next (s.sendMsg m.msg)) ∧
    ((s.reach (msgDest m.msg) = .lost ∨ s.reach (msgDest m.msg) = .key) → exec (.relayForward m) s = .next s)) ∧
  (∀ (s : State) (p : Nat) (r : RowMsg) (t : Thread), r.src = s.pkg → p / 4096 ≠ s.pkg / 4096 → s.reach p ≠ .key →
    s.threads.get? r.tid = some t → droppedStep (.row p r) s = .next (s.putThread r.tid { t with due := t.due ++
      [{ cls := 9, addr := r.rep.buf, info := p + r.rep.replica * 2 ^ 24 }] })) ∧
  (∀ (s : State) (x : Flit) (l : Lane) (p seq typ next : Nat) (kg good : Bool), x.lane < 4096 → l = s.lane x.lane →
    l.rpeer = some p → seq = fld x.header.toNat 40 32 → kg = tb x.header.toNat 8 → typ = fld x.header.toNat 0 8 →
    good = (x.tag && ((if kg then (s.link p).bank1 else (s.link p).bank0).isSome ||
      (typ == 0x0D && (s.link p).bank0.isNone && (s.link p).bank1.isNone))) →
    next = (if l.rkg = kg then l.rseq else 0) →
    (good = true → seq = next → ∃ s', exec (.flitReceive x) s = .next s' ∧ s'.mem = s.mem ∧
      s'.unknownFlits = s.unknownFlits + (if 1 ≤ typ ∧ typ ≤ 0x0D then 0 else 1) ∧
      (¬(typ = 0x0D ∧ (s.link p).exchange = true) → (s'.lane x.lane).rseq = seq + 1 ∧ (s'.lane x.lane).rkg = kg) ∧
      (typ = 0x0D → (s.link p).exchange = true → (s'.lane x.lane).rseq = 0 ∧ (s'.lane x.lane).rkg = false ∧
        (s'.link p).bank0.isSome = true ∧ (s'.link p).exchange = false) ∧
      (typ = 0x0D → (s.link p).exchange = false → (s.link p).busy = false → (s.link p).fresh = none →
        ∃ b, s'.link p = (if (s.link p).cur then { s.link p with bank0 := some b, busy := true, fresh := some false }
          else { s.link p with bank1 := some b, busy := true, fresh := some true }))) ∧
    (¬(good = true ∧ seq = next) → exec (.flitReceive x) s = .next s)) ∧
  (∀ (s : State) (n : Nat) (seq : BitVec 32) (l : Lane) (mine : Bool), l = s.lane n → (l.state = 1 ∨ l.state = 2) →
    (mine = true ↔ ∃ r ∈ l.replay, r.kg = l.kg ∧ r.last - r.n ≤ seq.toNat) → l.replay ≠ [] →
    (∀ keep : Run → Option Run, (∀ r, keep r =
        if r.kg = l.kg ∧ mine = false then some r
        else if r.kg ≠ l.kg ∧ mine = true then none
        else if seq.toNat < r.last - r.n then some r
        else if r.last ≤ seq.toNat + 1 then none
        else some { r with n := r.last - (seq.toNat + 1), flits := r.flits.drop (r.n - (r.last - (seq.toNat + 1))) }) →
      (mine = true ∨ ∃ r ∈ l.replay, r.last - r.n ≤ seq.toNat) → exec (.flitAck n seq) s = .next
        { s with lanes := s.lanes.put n { l with refused := 0, replay := l.replay.filterMap keep } }) ∧
    ((∀ r ∈ l.replay, seq.toNat < r.last - r.n) →
      (l.refused < 7 → exec (.flitAck n seq) s = .next
        { s with lanes := s.lanes.put n { l with refused := l.refused + 1 } }) ∧
      (7 ≤ l.refused → ∃ s' tag, exec (.flitAck n seq) s = .next s' ∧ s' = (s.laneFailed n tag).flushOut ∧
        (s'.lane n).state = 5))) ∧
  (∀ (s : State) (peer : BitVec 17) (k : Link), k = s.link peer.toNat →
    (∀ s1 : State, s1 = { s with hreg := s.hreg.put 0x308 (BitVec.ofNat 64 peer.toNat) } →
      (k.busy = true ∨ k.fresh ≠ none → exec (.hrekeyGo peer) s = .next s1) ∧
      (k.busy = false → k.fresh = none → ∃ b, exec (.hrekeyGo peer) s = .next (({ s1 with
        links := s.links.put peer.toNat (if k.cur then { k with bank0 := some b, busy := true, fresh := some false }
          else { k with bank1 := some b, busy := true, fresh := some true }) } : State).sendMsg
            (.keys peer.toNat s.pkg)))) ∧
    (k.busy = true → ∃ s', exec (.keyBankSwitch peer) s = .next s' ∧
      (s'.link peer.toNat).cur = !k.cur ∧ (s'.link peer.toNat).busy = false ∧ s'.mem = s.mem ∧
      ∀ n l, s.lanes.get? n = some l → s'.lanes.get? n = some
        (if l.peer = peer.toNat then { l with kg := !k.cur, seq := 0 } else l))) ∧
  (∀ (s : State) (n : Nat) (l : Lane) (k : Link), l = s.lane n → k = s.link l.peer → 2 ^ 31 < l.seq →
    k.busy = false → k.fresh = none → ∃ b, exec (.rekeySeqTrigger n) s = .next (({ s with
      links := s.links.put l.peer (if k.cur then { k with bank0 := some b, busy := true, fresh := some false }
        else { k with bank1 := some b, busy := true, fresh := some true }) } : State).sendMsg (.keys l.peer s.pkg))) ∧
  (∀ s : State, ∃ s', exec .hfwiWrite s = .next s' ∧ s'.mem = s.mem ∧ s'.hreg = s.hreg ∧
    ∀ base n, base = fld (s.hr 0x310).toNat 16 44 * 2 ^ 16 → pkgOf base = s.pkg →
      n = min 4096 (fld (s.hr 0x310).toNat 0 13) → ∀ from_ to_, (from_, to_) ∈ s'.fwd ↔ ∃ i, i < n ∧
        tb (s.mem.getNat (inPkg base + 16 * i) 8) 63 = true ∧
        fld (s.mem.getNat (inPkg base + 16 * i) 8) 16 44 = s.pkg * 2 ^ 27 + from_ ∧ from_ < 2 ^ 27 ∧
        to_ = fld (s.mem.getNat (inPkg base + (16 * i + 8)) 8) 16 44)

/-- A load, store, atomic or addition of another package is performed at its home once and answered with its timestamp;
one to a hole, or one that a poisoned line stops, is answered with the failure; one that has been forwarded is not
forwarded again. At its issuer an answer fills the producer's lanes, the lanes of an access leaving one after another,
and once all are in, what stands behind it in the store buffer goes on; a failed access brings the group back to its
checkpoint, with the counters that a failed snapshot had cleared, and traps; once HFTMO has passed no answer is taken.
An answer to the instruction at a thread's issue point is kept for its next try, which is the model's choice, log 11
(R216, R276 to R279, R283, R288, R393, R419). -/
def Obligations.RemoteAccesses : Prop :=
  (∀ (s : State) (req : RemoteReq) (a : Nat) (wts rts : Nat), pkgOf req.pa = s.pkg →
    (req.src ≠ s.pkg ∨ req.forwarded = true) → a = inPkg req.pa → s.lts.getD (a / 128) (0, 0) = (wts, rts) →
    (∀ dest, s.fwdOf a = some dest →
      (req.forwarded = true → exec (.remoteRequestServe req) s = .next (s.sendMsg (.failed req.src req.id 9 1 s.pkg))) ∧
      (pkgOf dest = s.pkg → s.fwdOf (inPkg dest) ≠ none →
        exec (.remoteRequestServe req) s = .next (s.sendMsg (.failed req.src req.id 9 1 s.pkg))) ∧
      (req.forwarded = false → pkgOf dest ≠ s.pkg → exec (.remoteRequestServe req) s = .next
        (s.sendMsg (.access (pkgOf dest) { req with pa := dest, forwarded := true })))) ∧
    (s.fwdOf a = none → s.physOk a = false →
      exec (.remoteRequestServe req) s = .next (s.sendMsg (.failed req.src req.id 6 0 s.pkg))) ∧
    (s.fwdOf a = none → s.physOk a = true → s.homeLost a = false → (s.power = .hold → stackOf a = none) →
      (req.kind = 0 ∨ s.moving a = false) →
      (s.poisoned a = true → (req.kind ∈ [0, 2, 5] → exec (.remoteRequestServe req) s =
          .next (s.sendMsg (.failed req.src req.id 8 0 s.pkg))) ∧
        (req.kind = 7 → exec (.remoteRequestServe req) s = .next ((s.post
          { code := 0x12, die := (homeDie a).getD 0, stack := (stackOf a).getD 0xF, addr := req.pa }).sendMsg
            (.failed req.src req.id 8 0 s.pkg)))) ∧
      (∀ (new back : List Byte) (old d : Nat), (s.poisoned a = false ∨ req.kind ∈ [1, 3, 4]) →
        d = ofBytes req.data → old = s.mem.getNat a req.size →
        (req.kind = 0 ∧ new = [] ∧ back = s.mem.bytes a req.size ∨
          req.kind = 1 ∧ new = req.data ∧ back = [] ∨
          req.kind = 2 ∧ 0 < req.size ∧ req.data.length = 2 * req.size ∧ back = toBytes old req.size ∧
            new = toBytes ((AtomOp.ofWord req.op).apply old (ofBytes (req.data.take req.size))
              (ofBytes (req.data.drop req.size))) req.size ∨
          req.kind = 3 ∧ back = [] ∧ new = toBytes ((Bar.ofWord (s.mem.getNat a 64)).add
            { a := fld d 0 64, b := fld d 64 64, v := fld d 128 64, x := fld d 192 64, y := fld d 256 64
              e := tb d 320 }).word 64 ∨
          req.kind = 4 ∧ back = [] ∧
            new = toBytes ((Bar.ofWord (s.mem.getNat a 64)).init (fld d 0 64) (fld d 64 64)).word 64 ∨
          req.kind = 5 ∧ back = [] ∧ new = ((List.range (req.data.length / 4)).flatMap fun i =>
            toBytes (wordAdd (req.op % 256) (tb req.op 8) (s.mem.getNat (a + 4 * i) 4) (fld d (32 * i) 32)) 4) ∨
          req.kind = 7 ∧ back = [] ∧ new = toBytes (f32Add (tb req.op 8) (s.mem.getNat a 4) d) 4) →
        ∃ (s1 : State) (ts : Nat), exec (.remoteRequestServe req) s = .next (s1.sendMsg
            (.reply req.src req.id back ts s.pkg (req.kind == 2))) ∧
          s1.mem = s.mem.putBytes a new ∧ s1.lanes = s.lanes ∧ s1.outbox = s.outbox ∧
          (req.kind = 0 → ts = max req.pts wts) ∧
          (req.kind ≠ 0 → ts = max req.pts (rts + 1) ∧ s1.lts.getD (a / 128) (0, 0) = (ts, ts))))) ∧
  (∀ (s : State) (t : Thread) (rep : RemoteRep) (a : Access) (ps : List Pend) (pid : Nat) (p : Producer),
    s.threads.get? rep.tid = some t → s.aways.get? (4096 * rep.ck) = none → s.overdue t.sent = false →
      t.pend = .access a :: ps → a.ck = rep.ck →
    a.failed = [] → a.pid = some pid → t.prods.get? pid = some p → p.toG = false → rep.bad = [] →
    (∀ l ∈ a.lanes, l.place.isRemote = true ∧ l.lane < 64) → (a.lanes.map (·.lane)).Nodup →
    (∀ n bs l, a.whole = false → a.lanes = n :: l → rep.lanes = [(n.lane, bs)] → l ≠ [] →
      ∃ (s' : State) (t' : Thread), exec (.remoteReply rep) s = .next s' ∧ s'.threads.get? rep.tid = some t' ∧
        t'.pend = .access { a with lanes := l } :: ps ∧ t'.regs = t.regs) ∧
    (rep.lanes.map (·.1) = a.lanes.map (·.lane) → a.lanes ≠ [] → (a.whole = true ∨ a.lanes.length = 1) →
      (∀ b, .access b ∈ ps → b.failed = []) → ∃ (t1 : Thread) (p' : Producer),
        exec (.remoteReply rep) s = .next ((s.drainPend t1 ps).1.putThread rep.tid (s.drainPend t1 ps).2) ∧
        t1.regs = t.regs ∧ t1.prods.get? pid = some p' ∧
        (∀ i, i < 64 → p'.waiting.getLsbD i = (p.waiting.getLsbD i && !(a.lanes.any fun l => l.lane == i))) ∧
        ∀ i bs, (i, bs) ∈ rep.lanes → ∀ j, j < p.n → p'.vals.get (64 * j + i) = word32 (if a.kind = .atomic
          then ofBytes bs
          else loadVal (tyWordSigned a.op) (8 * a.size) (32 * p.n) (bs.take a.size)) j)) ∧
  (∀ (s : State) (t : Thread) (tid sub : Nat) (a : Access) (l : LaneAcc) (rest : List Pend),
    s.threads.get? tid = some t → s.aways.get? (4096 * a.ck) = none → t.pend = .access a :: rest → a.lanes = [l] →
    a.failed = [] → a.kind ≠ .atomic → l.place.isRemote = true → a.op < 512 →
    (sub = 0 ∧ (s.reach (pkgOf l.place.remotePa) = .lost ∨ s.overdue t.sent = true) ∨ sub = 1 ∨
      sub = 2 ∧ s.reach (pkgOf l.place.remotePa) = .key) →
    ∃ t' : Thread, t'.pc = a.pc ∧ t'.regs = a.regs ∧ t'.pend = [] ∧ exec (.remoteFail tid a.ck sub [l.lane]) s = .next
        (((s.dropAccess a.ck).unsnap a.snap).trapOrPend tid t'
          { cls := 9, sub := sub, addr := l.va, info := pkgOf l.place.remotePa, lanes := some (1#64 <<< l.lane) })) ∧
  (∀ (s : State) (t : Thread) (rep : RemoteRep) (a : Away) (tid i : Nat) (bs : List Byte),
    s.aways.get? (4096 * rep.ck) = some a → s.overdue a.sent = false → a.owner = .thread tid → s.threads.get? tid = some t →
    t.asks = [4096 * rep.ck] → rep.bad = [] → rep.lanes = [(i, bs)] →
    ∃ (s' : State) (t' : Thread), exec (.remoteReply rep) s = .next s' ∧ s'.threads.get? tid = some t' ∧ t'.asks = [] ∧
      t'.answers = t.answers ++ [{ pa := a.req.pa, cls := 0, data := bs }] ∧ t'.regs = t.regs ∧ t'.pc = t.pc ∧
      s'.mem = s.mem ∧ s'.aways.get? (4096 * rep.ck) = none) ∧
  (∀ (s : State) (sent : Nat), s.overdue sent = true ↔ sent + s.fabricLimit ≤ s.time.toNat) ∧
  (∀ (s : State) (wg k rid e : Nat) (counts : Store 32) (g : Wg) (sl : RoundSlot), s.wgs.get? wg = some g →
    g.rounds.get? k = some sl → sl.rid = rid → sl.counts = [] → (counts.map (·.1)).Nodup →
    ∃ g' sl', (s.unsnap (some (.round wg k rid counts))).wgs.get? wg = some g' ∧ g'.rounds.get? k = some sl' ∧
      sl'.rid = rid ∧ sl'.counts.get e = counts.get e)

/-! ### The Cellar units -/

/-- CROW opens the row that its address names on the instance's unit, and traps where it is misaligned, has not the
rights or lies elsewhere; CLDC reads a column's words to V registers; CSTC and CRED write the words of the lanes in EM
and no other byte of memory; a column of another pattern or beyond 15, or no open row, traps ILLEGAL/RSV, a row without
write rights PAGE/permission, and a poisoned line POISON (R351, R353 to R355, R357, R358). -/
def Obligations.RowsAndColumns : Prop :=
  ∀ (s : State) (t : Thread) (f : Eng), s.At t → t.side = .cellar →
    (t.busy = false → t.uni f.a % 2048 ≠ 0 → exec (.crow f) s = .next (s.trapped t
      { cls := 7, addr := t.uni f.a })) ∧
    (∀ base big r w x entry pa, t.uni f.a % 2048 = 0 → t.uni f.a < 2 ^ 56 →
      s.threadWalk t (t.uni f.a) = some (.page base big r w x false entry) →
      pa = s.forwarded (pageAddr base big (t.uni f.a)) →
      (r = true → (f.xt.getLsbD 0 = true → w = true) → pkgOf pa = s.pkg → holds t.cunit (inPkg pa) = true →
        exec (.crow f) s = .next (s.after t
          ({ t with row := some (inPkg pa, f.xt.getLsbD 0), resv := (s.taskOf t).rsv, aged := false } : Thread).advance)) ∧
      (t.busy = false → (r = false ∨ f.xt.getLsbD 0 = true ∧ w = false) → exec (.crow f) s = .next (s.trapped t
        { cls := 5, sub := 3, addr := t.uni f.a, pte := BitVec.ofNat 64 (s.tpteOf (s.partOf t) entry) })) ∧
      (t.busy = false → r = true → (f.xt.getLsbD 0 = true → w = true) →
        (pkgOf pa ≠ s.pkg ∨ holds t.cunit (inPkg pa) = false) →
        exec (.crow f) s = .next (s.trapped t { cls := 6, addr := t.uni f.a }))) ∧
    ((t.row = none ∨ f.a.pat ≠ 5 ∧ f.a.pat ≠ 6 ∨ 15 < t.uni f.a) → t.busy = false →
      ∀ i ∈ [Instr.cldc f, .cstc f, .cred f], exec i s = .next (s.trapped t { cls := 1, sub := 1 })) ∧
    (∀ row w a, t.row = some (row, w) → (f.a.pat = 5 ∨ f.a.pat = 6) → t.uni f.a ≤ 15 → a = row + 128 * t.uni f.a →
      ((t.active = [] ∨ s.poisoned a = false) → exec (.cldc f) s = .next (s.after t
        ({ t.put f.dst.toNat 1 false 32 (fun i => s.mem.getNat (a + 4 * i) 4) with aged := false } : Thread).advance)) ∧
      (t.active ≠ [] → s.poisoned a = true → t.busy = false →
        exec (.cldc f) s = .next (s.trapped t { cls := 8 }) ∧
        (w = true → s.inTables (s.partOf t) (s.pkg * 2 ^ 43 + row) = false → s.moving row = false →
          exec (.cred f) s = .next (s.trapped t { cls := 8 }))) ∧
      ((w = false ∨ s.inTables (s.partOf t) (s.pkg * 2 ^ 43 + row) = true) → t.busy = false →
        ∀ i ∈ [Instr.cstc f, .cred f], exec i s = .next (s.trapped t { cls := 5, sub := 3 })) ∧
      (w = true → s.inTables (s.partOf t) (s.pkg * 2 ^ 43 + row) = false → s.moving row = false →
        ∀ i val, (i = .cstc f ∧ val = fun j => t.opnd f.b 1 32 j) ∨
          (i = .cred f ∧ (t.active = [] ∨ s.poisoned a = false) ∧ val = fun j =>
            if f.ty = 8 then f32Add (f.xt.getLsbD 0) (s.mem.getNat (a + 4 * j) 4) (t.opnd f.b 1 32 j)
            else (s.mem.getNat (a + 4 * j) 4 + t.opnd f.b 1 32 j) % 2 ^ 32) →
        ∃ s1 : State, exec i s = .next (s.finish s1 { t with aged := false }) ∧ s1.threads = s.threads ∧
          s1.tasks = s.tasks ∧ (∀ j ∈ t.active, s1.mem.bytes (a + 4 * j) 4 = toBytes (val j) 4) ∧
          ∀ x, (∀ j ∈ t.active, x < a + 4 * j ∨ a + 4 * j + 4 ≤ x) → s1.mem.get x = s.mem.get x))

/-- CEND ends its instance: the status word goes to the task's status array, the instance is gone, and its task has one
instance fewer left; with none left the task's arrivals are added, after its stores that still wait. A unit starts the
first task of its queue with the arguments in G0 to G3 and its number in G4. A reservation ends, and a command ages,
only as events. HCABT ends every running and queued instance of the dies that it names with CLASS 7, and SUB 1 on a lost
die (R349, R351, R356, R358, R360, R361, R364, R438). That a reservation and ageing end by events is log 44, and that a
status word or an addition which does not translate is dropped log 50. CQSUB of a record in readable places of this
package: where it is valid, on the group's own die and the die's queue has room, its task is queued and its tag written;
a record that is not valid writes 2, a full queue 1. CQSTAT shows the task of a tag that is still known, complete only
when its status words and additions are made, and 3 for any other (R359, R361 to R363). That 2 is given where 1 holds
too is log 64. -/
def Obligations.CellarTasks : Prop :=
  (∀ (s s1 s2 : State) (t : Thread) (f : Std) (k : Task) (word : Nat), s.At t → t.side = .cellar →
    s.tasks.get? t.wg = some k →
    word = f.xt.toNat % 4096 + (t.pc.toNat + 2 ^ 64 - k.entry) % 2 ^ 32 * 2 ^ 12 +
      t.regs.fpm.toNat / 2 ^ 8 % 2 ^ 5 * 2 ^ 47 →
    s1 = (if k.stat = 0 then s
      else (s.hearthPut k.part (k.stat + 8 * t.cunit) (toBytes word 8) (2 * t.wg + 1)).getD s) →
    s2 = { s1 with threads := s1.threads.del s.cur, tasks := s1.tasks.upd t.wg fun k => { k with left := k.left - 1 } } →
    (2 ≤ k.left → exec (.cend f) s = .next s2) ∧
    (k.left ≤ 1 → ∀ s3, s3 = (if k.done = 0 then s2
        else (s2.objAdd k.part k.done { a := 1, v := k.total, e := k.nflt != 0 } (2 * t.wg + 1)).getD s2) →
      (k.notify = none → exec (.cend f) s = .next s3) ∧
      (∀ wg, k.notify = some (wg, 63) → exec (.cend f) s = .next s3) ∧
      (∀ wg nb, k.notify = some (wg, nb) → nb ≠ 63 → (∀ d ∈ s3.hearthDue, d.chain ≠ 2 * t.wg + 1) →
        exec (.cend f) s = .next (s3.cqArrive wg nb)) ∧
      (∀ wg nb, k.notify = some (wg, nb) → nb ≠ 63 → (∃ d ∈ s3.hearthDue, d.chain = 2 * t.wg + 1) →
        exec (.cend f) s = .next { s3 with hearthDue := s3.hearthDue ++
          [{ part := k.part, va := 2 ^ 64, chain := 2 * t.wg + 1, what := .notify wg nb }] }))) ∧
  (∀ (s : State) (u id : Nat) (rest : List Nat) (k : Task), s.cunits.getD u [] = id :: rest → s.instanceOn u = none →
    s.lost (u / 48) = false → s.power ≠ .hold → s.tasks.get? id = some k →
    ∃ s' t', exec (.instanceStart u) s = .next s' ∧ s'.threads.get? s.nextId = some t' ∧ t'.side = .cellar ∧
      t'.wg = id ∧ t'.cunit = u ∧ t'.width = 32 ∧ t'.pc = BitVec.ofNat 64 k.entry ∧ t'.status = .running ∧
      (∀ j a, k.args[j]? = some a → t'.regs.g.get j = BitVec.ofNat 64 a) ∧
      (k.args.length = 4 → t'.regs.g.get 4 = BitVec.ofNat 64 u) ∧
      t'.regs.em = 0xFFFFFFFF ∧ t'.regs.v = [] ∧ t'.row = none ∧ s'.cunits.getD u [] = rest ∧ s'.mem = s.mem ∧
      s'.tasks.get? id = some { k with started := k.started + 1 }) ∧
  (∀ (s : State) (u tid : Nat) (t : Thread), s.instanceOn u = some (tid, t) →
    (t.resv = true → exec (.bankReservationExpiry u) s = .next (s.putThread tid { t with resv := false })) ∧
    (t.row.isSome = true → t.aged = false →
      exec (.cellarCommandAged u) s = .next (s.putThread tid { t with aged := true }))) ∧
  (∀ (s : State) (v : W64), ∃ s', exec (.hcabtWrite v) s = .next s' ∧ ∀ u, u < 192 → v.getLsbD (u / 48) = true →
    s'.cunits.get? u = none ∧ ∀ tid t, s.instanceOn u = some (tid, t) → s'.threads.get? tid = none) ∧
  (∀ (s : State) (v : W64), exec (.hcabtWrite v) s =
    .next (((List.range 192).filter fun u => v.getLsbD (u / 48)).foldl State.abortUnit s)) ∧
  (∀ (s s0 : State) (u sub : Nat), sub = (if s.lost (u / 48) then 1 else 0) → s0 = { s with cunits := s.cunits.del u } →
    (s.instanceOn u = none → s.cunits.getD u [] = [] → s.abortUnit u = s0) ∧
    (∀ id, s.instanceOn u = none → s.cunits.getD u [] = [id] → s.abortUnit u =
      s0.endInstance s.nextId (Thread.ofInstance id u (s.tasks.getD id .absent)) 7 sub 0) ∧
    (∀ tid t, s.instanceOn u = some (tid, t) → s.cunits.getD u [] = [] →
      s.abortUnit u = { s.endInstance tid t 7 sub 0 with cunits := s.cunits.del u })) ∧
  (∀ (s : State) (t : Thread) (f : Eng) (p : Nat → Place) (r die st word : Nat) (d : Die), s.At t → t.busy = false →
    t.kept = [] → t.canRead f.a 1 = .ok ⟨⟩ → (f.nb = 63 ∨ f.nb.toNat < (s.hdrOf t).nbn) → t.uni f.a % 64 = 0 →
    (∀ j, j < 8 → s.resolve t .load 0 ((t.uni f.a + 8 * j) % 2 ^ 64) 8 = .ok (p j) ∧ (p j).isRemote = false ∧
      (p j).isDead = false ∧ s.scrWaits t (p j) 8 = false) →
    r = ofBytes ((List.range 8).flatMap fun j => s.readPlace t (p j) 8) → die = s.dieOf t → d = s.dies.getD die {} →
    st = (if s.recordValid (s.partOf t) r = false ∨ ((List.range 12).any fun k => tb r (484 + k) && k / 3 != die) = true then 2
      else if 64 ≤ d.cq.length then 1 else 0) →
    word = (if st = 0 then d.nextTag * 2 ^ 16 else st) →
    ∃ s' t', exec (.cqsub f) s = .next s' ∧ s'.threads.get? s.cur = some t' ∧ t'.pc = t.advance.pc ∧
      t'.regs = ((t.putG f.dst.toNat (BitVec.ofNat 64 word)).setCC { t := st != 0, z := st == 0 }).regs ∧ s'.mem = s.mem ∧
      (st ≠ 0 → s'.dies = s.dies ∧ s'.tasks = s.tasks ∧ s'.wgs = s.wgs) ∧
      (st = 0 → (s'.dies.getD die {}).cq = d.cq ++ [s.nextId] ∧
        (s'.dies.getD die {}).nextTag = (d.nextTag + 1) % 2 ^ 16 ∧
        (s'.dies.getD die {}).tags = ((d.nextTag, s.nextId) :: d.tags).take 256 ∧
        ∃ k, s'.tasks.get? s.nextId = some k ∧ k.entry = fld r 0 64 ∧ k.args = [fld r 64 64, fld r 128 64, fld r 192 64,
          fld r 256 64] ∧ k.stat = fld r 384 64 ∧ k.done = fld r 320 64 ∧ k.rsv = tb r 456 ∧ k.part = s.partOf t ∧
        k.units = recordUnits r ∧ k.left = k.units.length ∧ k.total = k.units.length ∧ k.started = 0 ∧ k.nflt = 0 ∧
        k.notify = some (t.wg, f.nb.toNat))) ∧
  (∀ (s : State) (part r : Nat), s.recordValid part r = true ↔
    fld r 448 4 = 1 ∧ fld r 496 16 ≠ 0 ∧ fld r 484 12 ≠ 0 ∧ fld r 0 64 % 64 = 0 ∧ fld r 384 64 % 8 = 0 ∧
      fld r 320 64 % 64 = 0 ∧ ∀ k, k < 12 → tb r (484 + k) = true → k / 3 ∈ s.diesOf part) ∧
  (∀ r u, u ∈ recordUnits r ↔ u < 192 ∧ tb r (484 + u / 16) = true ∧ tb r (496 + u % 16) = true) ∧
  (∀ (s : State) (t : Thread) (f : Eng), s.At t → t.busy = false → t.canRead f.a 1 = .ok ⟨⟩ →
    (2 ^ 16 ≤ t.uni f.a → exec (.cqstat f) s = .next (s.trapped t { cls := 1, sub := 1 })) ∧
    (t.uni f.a < 2 ^ 16 → ((s.dies.getD (s.dieOf t) {}).tags.find? fun e => e.1 == t.uni f.a) = none →
      exec (.cqstat f) s = .next (s.after t ((t.putG f.dst.toNat 3).setCC { z := true }).advance)) ∧
    (∀ id k st, t.uni f.a < 2 ^ 16 →
      ((s.dies.getD (s.dieOf t) {}).tags.find? fun e => e.1 == t.uni f.a) = some (t.uni f.a, id) →
      s.tasks.get? id = some k →
      st = (if k.left = 0 then (if ∃ d ∈ s.hearthDue, d.chain = 2 * id + 1 then 1 else 2)
        else if k.started = 0 ∧ k.left = k.total then 0 else 1) →
      exec (.cqstat f) s = .next (s.after t ((t.putG f.dst.toNat (BitVec.ofNat 64
        (st + k.nflt % 256 * 2 ^ 8 + k.left % 2 ^ 16 * 2 ^ 16))).setCC
          { t := decide (st = 2), z := k.nflt % 256 == 0 }).advance)))

/-! ### The Hearth -/

/-- A plain register of the Hearth keeps the bits of a write that the spec gives it, and no other; a write to an offset
that names no register changes nothing. HPART, HPTR and HSBK take a write only while every queue is disabled, nothing is
resident and no task runs, HPART only legal die sets and Pantry sizes, and otherwise shows its refusal. HPWR with REQ 3
is refused in its turn. Reads show a queue's indices and state, its enable bit, a latch with the reading port's REFUSED,
and BUSY (R66, R67, R68, R81, R84, R85, R224, R284, R437); that HTLBI and HREKEY read as BUSY alone is log 78. ACQUIRE
takes a free latch for its port and counts in SEQ, RELEASE by its holder frees it, BREAK frees a held one whoever holds
it, counts in BRK and leaves a record; a command that takes effect clears its port's REFUSED, and one that has none sets
it and changes nothing else. A port's link that goes down or returns leaves the latches (R81, R82). A host's write to
memory of this package stores its bytes and its read returns memory's; at a hole, at a page that is forwarded a second
time, and in HBM while the package is in HOLD, a write is lost and a read aborts, as does a read of a poisoned line; an
access to a forwarded page is sent on, and later ones of its port wait for it, a write for writes and a read for all,
which is log 92; a write to the recovery window is kept in recovery only. The ash pan's read index takes a write, and
after drops an OVERRUN record comes first. A deferred MSI-X message is sent when its window ends. Access counts halve;
the pts of every resident group of a core goes up (R223, R279, R283, R390, R393, R421, R434, R438). -/
def Obligations.HearthAndHost : Prop :=
  (∀ (s : State) (off : Nat) (v : W64) (port : Port), ∃ s', exec (.registerWrite off v port) s = .next s' ∧
    (∀ m : Nat, (off, m) ∈ ([(0x100, 0xFFFFFFFFFFFFFFFF), (0x108, 0xFFFF), (0x180, 0xFFFFFF), (0x188, 0xFFFFFF),
        (0x190, 0xFFFFFF), (0x198, 0xFFFFFF), (0x200, 0xFFFFFFFFFFFFFFFF), (0x208, 1), (0x210, 0xFFFFFFFFFFFFFFFF),
        (0x218, 1), (0x220, 0xFFFFFFFFFFFFFFFF), (0x228, 1), (0x300, 0xFFFFFFFF), (0x310, 0x0FFFFFFFFFFF1FFF),
        (0x400, 0x00FFFFFFFFFFFFC0), (0x418, 0x00FFFFFFFFFFFFC0), (0x420, 0x0FFFFFFFC0000000),
        (0x440, 0x00FFFFFFC0000000), (0x460, 0xFFFFFFFFFFFFFFFF), (0x480, 0x00FFFFFFFFFFF00F),
        (0x4A8, 0x0FFFFFFFC00000FF), (0x4B8, 0xFFFFFFFFFFFFFFFF), (0x4C0, 0x0FFFFFFFFFFFF00F),
        (0x4E0, 0x0FFFFFFFFFFFFFFF), (0x4E8, 0x0FFFFFFFFFFFF00F), (0x4F0, 0xFFFFFFFF)] : List (Nat × Nat)) →
      s'.hr off = v &&& BitVec.ofNat 64 m) ∧
    (regMask off = none → (off ≠ 0x500 ∨ v.toNat % 4 ≠ 3) → s' = s) ∧
    (off = 0x500 → v.toNat % 4 = 3 → s.debugEntry = none → s'.hr off = s.hr off ||| 0x8000000000000000) ∧
    (off = 0x500 → v.toNat % 4 = 3 → s.debugEntry ≠ none → s' = { s with secQueue := s.secQueue ++ [.noEffect] }) ∧
    (∀ x, x ≠ off → s'.hr x = s.hr x) ∧ s'.mem = s.mem ∧ s'.threads = s.threads) ∧
  (∀ s : State, s.quietPart = true ↔ (∀ e ∈ s.queues, e.2.enabled = false) ∧ s.wgs = [] ∧
    ∀ k ∈ s.tasks, (k.2.left = 0 ∧ ∀ d ∈ s.hearthDue, d.chain ≠ 2 * k.1 + 1) ∨
      (k.2.left ≠ 0 ∧ k.2.started = 0 ∧ k.2.left = k.2.total)) ∧
  (∀ v : Nat, dieSetsOk v = true ↔ ∀ p ds, p < 4 → ds = ((List.range 4).filter fun d => fld v (2 * d) 2 == p) →
    ds.length ≤ 1 ∨ ds = [0, 1] ∨ ds = [2, 3] ∨ ds = [0, 1, 2, 3]) ∧
  (∀ (s : State) (part : Nat) (v : W64), part < 4 →
    (s.quietPart = true →
      exec (.hptrWrite part v) s = .next
        { s with hreg := s.hreg.put (0x1A0 + 8 * part) (v &&& 0x0FFFFFFFFFFFF000) } ∧
      exec (.hsbkWrite part v) s = .next
        { s with hreg := s.hreg.put (0x1C0 + 8 * part) (v &&& 0x0FFFFFFFC00000FF) }) ∧
    (s.quietPart = false → exec (.hptrWrite part v) s = .next s ∧ exec (.hsbkWrite part v) s = .next s)) ∧
  (∀ (s : State) (v : W64), ∃ s', exec (.hpartWrite v) s = .next s' ∧ s'.mem = s.mem ∧
    (s.quietPart = true → dieSetsOk (v.toNat % 2 ^ 20) = true →
      (∀ d, d < 4 → fld (v.toNat % 2 ^ 20) (8 + 3 * d) 3 ≤ 4) →
      (s'.hr 0x140).toNat = v.toNat % 2 ^ 20 ∧ s'.handles = [] ∧ s'.lease = [] ∧
        ∀ d x, s.dies.get? d = some x → s'.dies.get? d = some
          { x with part := [], reading := none, staged := [], image := [], pantryPoison := [], stagedPoison := [] }) ∧
    ((s.quietPart = false ∨ dieSetsOk (v.toNat % 2 ^ 20) = false ∨
        ∃ d, d < 4 ∧ 4 < fld (v.toNat % 2 ^ 20) (8 + 3 * d) 3) →
      s' = { s with hreg := s.hreg.put 0x140 (s.hr 0x140 ||| 0x8000000000000000) })) ∧
  (∀ (s : State) (port : Port), (∀ q x, q < 256 → x = s.queues.getD q {} →
      s.readReg port (0x1000 + 8 * q) = BitVec.ofNat 64 x.widx ∧
      ∀ c, (x.state, c) ∈ [(QState.off, 0), (.waiting, 1), (.mapped, 2), (.faulted, 3)] →
        s.readReg port (0x1800 + 8 * q) = BitVec.ofNat 64 (x.ridx + c * 2 ^ 32)) ∧
    (∀ k j, k < 4 → j < 64 →
      (s.readReg port (0x110 + 8 * k)).getLsbD j = (s.queues.getD (64 * k + j) {}).enabled) ∧
    (∀ n, n < 32 → s.readReg port (0x2000 + 8 * n) = s.hr (0x2000 + 8 * n) |||
      if refusedKey n port ∈ s.latchRefused then 0x40000 else 0) ∧
    (∀ p, p < 4 → s.readReg port (0x1E0 + 8 * p) = if ∃ e ∈ s.tlbi, e.1 = p then 0x8000000000000000 else 0) ∧
    (s.readReg port 0x308 = if ∃ k ∈ s.links, k.2.busy = true ∨ k.2.fresh ≠ none then 0x8000000000000000 else 0) ∧
    s.readReg port 0x008 = 0 ∧ s.readReg port 0x3008 = 0) ∧
  (∀ (s : State) (n : Nat) (port : Port), n < 32 →
    (s.holder n = 0 → ∃ s', exec (.latchAcquire n port) s = .next s' ∧ s'.holder n = (if port = .a then 1 else 2) ∧
      s'.latchSeq n = (s.latchSeq n + 1) % 2 ^ 16 ∧ s'.latchBrk n = s.latchBrk n ∧
      refusedKey n port ∉ s'.latchRefused) ∧
    (s.holder n ≠ 0 → exec (.latchAcquire n port) s = .next { s with
      latchRefused := refusedKey n port :: s.latchRefused.filter (· != refusedKey n port) }) ∧
    (s.holder n = (if port = .a then 1 else 2) → ∃ s', exec (.latchRelease n port) s = .next s' ∧ s'.holder n = 0 ∧
      s'.latchSeq n = s.latchSeq n ∧ s'.latchBrk n = s.latchBrk n ∧ refusedKey n port ∉ s'.latchRefused) ∧
    (s.holder n ≠ (if port = .a then 1 else 2) → exec (.latchRelease n port) s = .next { s with
      latchRefused := refusedKey n port :: s.latchRefused.filter (· != refusedKey n port) }) ∧
    (s.holder n ≠ 0 → ∃ (s1 s' : State), exec (.latchBreak n port) s = .next s' ∧ s' = s1.post
        { code := 0x08, info := n + s.holder n * 2 ^ 8 + (if port = .a then 1 else 2) * 2 ^ 16 } ∧ s'.holder n = 0 ∧
      s'.latchSeq n = s.latchSeq n ∧ s'.latchBrk n = (s.latchBrk n + 1) % 2 ^ 16 ∧ refusedKey n port ∉ s'.latchRefused) ∧
    (s.holder n = 0 → exec (.latchBreak n port) s = .next { s with
      latchRefused := refusedKey n port :: s.latchRefused.filter (· != refusedKey n port) }) ∧
    (∀ cmd : BitVec 8, cmd ≠ 1 → cmd ≠ 2 → cmd ≠ 3 → exec (.latchInvalidCommand n port cmd) s = .next { s with
      latchRefused := refusedKey n port :: s.latchRefused.filter (· != refusedKey n port) }) ∧
    (∀ m, m < 32 → ∀ i ∈ [Instr.latchAcquire n port, .latchRelease n port, .latchBreak n port], ∀ s', m ≠ n →
      exec i s = .next s' → s'.hr (0x2000 + 8 * m) = s.hr (0x2000 + 8 * m))) ∧
  (∀ (s : State) (port : Port) (down : Bool), exec (.hostLinkDown port down) s = .next { s with
    linkDown := (if port = .a then down else s.linkDown.1, if port = .b then down else s.linkDown.2) }) ∧
  (∀ (s : State) (x : HostAcc), s.power ≠ .off → x.recovery = false → x.pa < 2 ^ 43 →
    (if x.port = .a then s.linkDown.1 else s.linkDown.2) = false →
    ((∃ e ∈ s.aways, e.2.owner = .host (decide (x.port = .b)) ∧ (x.write = none ∨ e.2.req.kind = 1)) →
      exec (.hostMemoryAccess x) s = .fault .notEnabled) ∧
    ((∀ e ∈ s.aways, e.2.owner = .host (decide (x.port = .b)) → x.write ≠ none ∧ e.2.req.kind ≠ 1) →
      (∀ p, p = s.forwarded (s.pkg * 2 ^ 43 + x.pa) → pkgOf p = s.pkg → s.homeLost (inPkg p) = false →
        (∀ bs, x.write = some bs → s.moving (inPkg p) = false →
          (s.porchOk p = true → ∃ s', exec (.hostMemoryAccess x) s = .next s' ∧
            s'.mem = s.mem.putBytes (inPkg p) bs ∧ s'.threads = s.threads ∧ s'.hreg = s.hreg) ∧
          (s.porchOk p = false → exec (.hostMemoryAccess x) s = .next s)) ∧
        (x.write = none → ∃ y, exec (.hostMemoryAccess x) s =
            .next { s with hostData := s.hostData ++ [(decide (x.port = .b), y)] } ∧
          (s.porchOk p = true → s.poisoned (inPkg p) = false → y = some (s.mem.bytes (inPkg p) x.len)) ∧
          (s.porchOk p = false ∨ s.poisoned (inPkg p) = true → y = none))) ∧
      (∀ p, s.fwdOf x.pa = some p → pkgOf p ≠ s.pkg → ∃ s' a, exec (.hostMemoryAccess x) s = .next s' ∧
        s'.aways.get? (4096 * s.nextId) = some a ∧ a.owner = .host (decide (x.port = .b)) ∧ a.req.pa = p ∧
        a.req.forwarded = true ∧ s'.mem = s.mem ∧ (∀ bs, x.write = some bs → a.req.kind = 1 ∧ a.req.data = bs) ∧
        (x.write = none → a.req.kind = 0 ∧ a.req.size = x.len)))) ∧
  (∀ (s : State) (p : Nat), s.porchOk p = true ↔ s.physOk (inPkg p) = true ∧ s.fwdOf (inPkg p) = none ∧
    s.homeLost (inPkg p) = false ∧ (s.power = .hold → stackOf (inPkg p) = none)) ∧
  (∀ (s : State) (x : HostAcc) (bs : List Byte), s.power ≠ .off → x.recovery = true → x.port = .a → s.linkDown.1 = false →
    x.write = some bs → x.pa + bs.length ≤ 2 ^ 28 →
    (fld (s.hr 0x508).toNat 4 4 = 4 → exec (.hostMemoryAccess x) s =
      .next { s with windows := (s.windows.1.putBytes x.pa bs, s.windows.2) }) ∧
    (fld (s.hr 0x508).toNat 4 4 ≠ 4 → exec (.hostMemoryAccess x) s = .next s)) ∧
  (∀ (s : State) (v : W64) (s1 : State), s1 = { s with hreg := s.hreg.put 0x4D0 (BitVec.ofNat 64 (v.toNat % 2 ^ 32)) } →
    (s.ashLost = 0 ∨ s.ashLog ≤ 3 ∨ s1.ashFull = true → exec (.hashrWrite v) s = .next s1) ∧
    (s.ashLost ≠ 0 → 3 < s.ashLog → s1.ashFull = false → ∃ s', exec (.hashrWrite v) s = .next s' ∧
      s' = ({ s1 with ashLost := 0 } : State).ashWrite { code := 0x17, info := s.ashLost } ∧ s'.ashLost = 0 ∧
      s'.ashSeq = s.ashSeq + 1 ∧ s'.hr 0x4C8 = BitVec.ofNat 64 (((s.hr 0x4C8).toNat + 1) % 2 ^ 32))) ∧
  (∀ (s : State) (port : Port) (vec : Nat), s.msixHold.contains (port == .b, vec) = true →
    (s.msixDue.contains (port == .b, vec) = true → exec (.msixDeferredSend port vec) s = .next { s with
      msixDue := s.msixDue.filter (· != (port == .b, vec)), msixSent := s.msixSent ++ [(port == .b, vec)] }) ∧
    (s.msixDue.contains (port == .b, vec) = false → exec (.msixDeferredSend port vec) s = .next { s with
      msixHold := s.msixHold.filter (· != (port == .b, vec)) })) ∧
  (∀ s : State, ∃ s', exec .accessCountDecay s = .next s' ∧ s'.mem = s.mem ∧ s'.threads = s.threads ∧
    ∀ k, s'.counts.get k = s.counts.get k >>> 1) ∧
  (∀ (s : State) (core : Nat), ∃ s', exec (.ptsAdvance core) s = .next s' ∧ s'.mem = s.mem ∧
    ∀ tid t, s.threads.get? tid = some t → s'.threads.get? tid = some
      (if t.side ≠ .cellar ∧ s.coreOf t = core then { t with pts := t.pts + 1 } else t))

/-! ### Queues -/

/-- A free slot goes to a waiting queue of its set with the highest effective priority, which starts again at its base;
a waiting queue rises one level at a time; a quantum that runs out is remembered, and a queue at a wait entry whose
phase has not completed then yields to a waiting queue. Enabling reads the queue's descriptor from a table in this
package, and leaves it off with a record where it is invalid; disabling frees its slot. A new write index makes an idle
queue wait, faults one that is overrun, and is only kept for a disabled one (R68, R69, R71, R76). The model's choices:
the bits of HQTAB below and above the address and a descriptor that cannot be read (log 51), the zero ADDR and INFO of
QUEUE_BAD and QUEUE_OVERRUN (log 53), and the severity (log 88). A launch entry whose header passes the checks is
admitted with its argument block, one that does not is refused with its code, and either way the queue's read index
passes it; an entry of a die's own queue in the same way. A wait entry holds its queue until its barrier's phase has
completed, and one that fails is consumed. A copy command is taken in, and when its last byte has been written, or a
fault ends it, it makes its addition at DONE; a Cellar task is handed to its units' queues (R68, R70, R72 to R78, R359,
R360, R362). The model's choices: a store at RIDXA or an addition at DONE that cannot be made is dropped (log 50); a
misaligned DONE of a copy command takes no addition (log 52), of a refused launch DONE_FAULT (log 86); the zero INFO and
ADDR of the records (logs 53, 85); the header's words are read in one step (log 83). -/
def Obligations.Queues : Prop :=
  (∀ (s : State) (set : Nat), (∃ e ∈ s.queues, e.2.waits = true ∧ e.2.set = set ∧ s.saving e.2.part = false) →
    (s.grantee set).isSome = true) ∧
  (∀ (s : State) (slot q top : Nat), slot < 64 → s.slots.get? slot = none →
    s.grantee (if slot < 56 then 0 else 1) = some (q, top) →
    exec (.queueSlotGrant slot) s = .next { s with
      queues := s.queues.put q
        { s.queue q with state := .mapped, eff := (s.queue q).prio, spent := false, atWait := none }
      slots := s.slots.put slot q
      lastGrant := s.lastGrant.put (16 * (if slot < 56 then 0 else 1) + top) q } ∧
    (∃ x, (q, x) ∈ s.queues ∧ x.waits = true ∧ x.eff = top) ∧
    ∀ e ∈ s.queues, e.2.waits = true → e.2.set = (if slot < 56 then 0 else 1) → s.saving e.2.part = false →
      e.2.eff ≤ top) ∧
  (∀ (s : State) (q : Nat), (s.queue q).waits = true → ∃ s', exec (.ageIntervalExpiry q) s = .next s' ∧
    (s'.queue q).eff = min ((s.queue q).eff + 1) (if (s.queue q).typ = 2 then 3 else 15) ∧
    (s'.queue q).state = .waiting ∧ s'.mem = s.mem) ∧
  (∀ (s : State) (q : Nat), (s.queue q).state = .mapped → (s.queue q).spent = false →
    ((s.queue q).atWait = none → exec (.quantumExpiry q) s = .next
      { s with queues := s.queues.put q { s.queue q with spent := true } }) ∧
    (∀ s1, s1 = { s with queues := s.queues.put q { s.queue q with spent := true } } → s1.atUnpassed q = false →
      exec (.quantumExpiry q) s = .next s1) ∧
    (∀ s1, s1 = { s with queues := s.queues.put q { s.queue q with spent := true } } → s1.atUnpassed q = true → ∃ s',
      exec (.quantumExpiry q) s = .next s' ∧ s'.mem = s.mem ∧ (s'.queue q).ridx = (s.queue q).ridx ∧
      ((∃ e ∈ s.queues, e.2.waits = true ∧ e.2.set = (s.queue q).set ∧ (s.queue q).prio ≤ e.2.eff) →
        (s'.queue q).state = .waiting ∧ ∀ e ∈ s'.slots, e.2 ≠ q) ∧
      ((∀ e ∈ s.queues, e.2.waits = true → e.2.set = (s.queue q).set → e.2.eff < (s.queue q).prio) →
        (s'.queue q).state = .mapped ∧ s'.slots = s.slots))) ∧
  (∀ (s : State) (q bar phase : Nat) (bs : List Byte), (s.queue q).atWait = some (bar, phase) →
    s.hearthRead (s.queue q).part bar 64 = .bytes bs →
    s.atUnpassed q = !(Bar.ofWord (ofBytes bs)).completed phase) ∧
  (∀ (s : State) (q pa d : Nat) (x : Queue), q < 256 → (s.queue q).enabled = false →
    pa = (s.hr 0x100).toNat / 64 * 64 % 2 ^ 60 + 64 * q → pkgOf pa = s.pkg → s.fwdOf (inPkg pa) = none →
    s.homeLost (inPkg pa) = false → d = s.mem.getNat (inPkg pa) 64 →
    x = { enabled := true, log2n := fld d 192 5, age := fld d 136 16, prio := fld d 132 4, typ := fld d 130 2
          part := fld d 128 2, ridxa := fld d 64 64, base := fld d 0 64, eff := fld d 132 4 } →
    (s.tableReadable pa = true → s.queueOk x = true → exec (.queueEnable q) s = .next
      { s with queues := s.queues.put q { x with launch := (s.queue q).launch } }) ∧
    (s.tableReadable pa = true → s.queueOk x = false →
      exec (.queueEnable q) s = .next (s.post { code := 6, part := x.part })) ∧
    (s.tableReadable pa = false → ∃ p, exec (.queueEnable q) s = .next (s.post { code := 6, part := p }))) ∧
  (∀ (s : State) (x : Queue), s.queueOk x = true ↔ x.typ ≠ 3 ∧ 4 ≤ x.log2n ∧ x.log2n ≤ 16 ∧ (x.typ = 2 → x.prio ≤ 3) ∧
    x.base % (2 ^ x.log2n * if x.typ = 0 then 128 else 64) = 0 ∧
    x.base + 2 ^ x.log2n * (if x.typ = 0 then 128 else 64) ≤ 2 ^ 56 ∧ x.ridxa % 8 = 0 ∧ x.ridxa < 2 ^ 56 ∧
    s.diesOf x.part ≠ []) ∧
  (∀ (s : State) (q : Nat), (s.queue q).enabled = true → ∃ s', exec (.queueDisable q) s = .next s' ∧
    (s'.queue q).enabled = false ∧ (s'.queue q).state = .off ∧ (∀ e ∈ s'.slots, e.2 ≠ q) ∧ s'.mem = s.mem ∧
    s'.launches = s.launches ∧ s'.copycmds = s.copycmds ∧ s'.tasks = s.tasks ∧ ∀ p, p ≠ q → s'.queue p = s.queue p) ∧
  (∀ (s : State) (q : Nat) (v : W64) (x : Queue), q < 256 → x = { s.queue q with widx := v.toNat % 2 ^ 32 } →
    (x.enabled = false → exec (.qwidxWrite q v) s = .next { s with queues := s.queues.put q x }) ∧
    (x.enabled = true → (x.state = .off ∨ x.state = .mapped ∧ (s.queue q).widx = x.ridx) → x.widx ≠ x.ridx →
      (x.widx + 2 ^ 32 - x.ridx) % 2 ^ 32 ≤ 2 ^ x.log2n →
      ∃ s', exec (.qwidxWrite q v) s = .next s' ∧ (s'.queue q).state = .waiting ∧ (s'.queue q).widx = x.widx ∧
        s'.mem = s.mem) ∧
    (x.enabled = true → (x.state = .waiting ∨ x.state = .mapped ∧ (s.queue q).widx ≠ x.ridx) →
      2 ^ x.log2n < (x.widx + 2 ^ 32 - x.ridx) % 2 ^ 32 →
      ∃ s1 : State, exec (.qwidxWrite q v) s = .next (s1.post { code := 5, part := x.part }) ∧
        (s1.queue q).state = .faulted ∧ (s1.queue q).enabled = true ∧ (∀ e ∈ s1.slots, e.2 ≠ q) ∧ s1.mem = s.mem) ∧
    (x.enabled = true → (x.state = .off ∨ x.state = .mapped ∧ (s.queue q).widx = x.ridx) →
      2 ^ x.log2n < (x.widx + 2 ^ 32 - x.ridx) % 2 ^ 32 →
      ∃ s', exec (.qwidxWrite q v) s = .next s' ∧ (s'.queue q).state = .faulted)) ∧
  (∀ (s : State) (part va n a base : Nat) (big w x mig : Bool) (entry : Nat), va + n ≤ 2 ^ 56 →
    s.walk part va = .page base big true w x mig entry → s.physRes part true .load (pageAddr base big va) true = .ok (.phys a) →
    s.hearthRead part va n = .bytes (s.mem.bytes a n)) ∧
  (∀ (s : State) (q w : Nat) (bs args : List Byte) (x : Queue) (h : Header), x = s.queue q → x.enabled = true →
    x.state = .mapped → x.typ = 0 → x.widx ≠ x.ridx → x.atWait = none → s.saving x.part = false →
    s.readyAfter x.launch = true →
    s.hearthRead x.part (x.base + x.ridx % 2 ^ x.log2n * 128) 128 = .bytes bs → w = ofBytes bs → w % 256 ≠ 2 →
    h = headerOf w →
    (wellFormedHeader w = true → s.hearthWords x.part h.args h.argsz = .bytes args → h.perCluster ≠ 0 →
      (h.gridsync = true → h.total ≤ h.capacity (s.diesOf x.part).length) → ∃ s' l,
      exec (.launchAdmission (.queue q)) s = .next s' ∧ s'.launches.get? s.nextId = some l ∧
      l.hdr = h ∧ l.args = args ∧ l.part = x.part ∧ l.prio = x.prio ∧ l.next = 0 ∧ l.nwg = 0 ∧
      l.code = s.mem ∧ l.tadm = s.time ∧ (s'.queue q).ridx = (x.ridx + 1) % 2 ^ 32 ∧
      (s'.queue q).launch = some s.nextId ∧ s'.wgs = s.wgs) ∧
    (∀ code y, y = { x with launch := none } → (wellFormedHeader w = false ∧ code = 1 ∨
        wellFormedHeader w = true ∧ s.hearthWords x.part h.args h.argsz = .bad ∧ code = 2 ∨
        wellFormedHeader w = true ∧ s.hearthWords x.part h.args h.argsz = .bytes args ∧ h.perCluster = 0 ∧ code = 3 ∨
        wellFormedHeader w = true ∧ s.hearthWords x.part h.args h.argsz = .bytes args ∧ h.perCluster ≠ 0 ∧
          h.gridsync = true ∧ h.capacity (s.diesOf x.part).length < h.total ∧ code = 4) → ∃ s',
      exec (.launchAdmission (.queue q)) s = .next s' ∧ (∀ s1, s1 = { s with queues := s.queues.put q y } →
        s' = (s1.refuse x.part 0 code true h).consume q) ∧ s'.launches = s.launches ∧
      (s'.queue q).ridx = (x.ridx + 1) % 2 ^ 32 ∧ (s'.queue q).launch = none)) ∧
  (∀ (s : State) (die : Nat) (e : List Byte × Nat) (rest : List (List Byte × Nat)) (args : List Byte) (h : Header),
    (s.dies.getD die {}).part = e :: rest → s.lost die = false → s.saving (s.partOfDie die) = false →
    s.readyAfter (s.dies.getD die {}).reading = true → h = headerOf (ofBytes e.1) →
    wellFormedHeader (ofBytes e.1) = true → s.hearthWords (s.partOfDie die) h.args h.argsz = .bytes args →
    h.perCluster ≠ 0 → (h.gridsync = true → h.total ≤ h.capacity 1) → ∃ s' l,
      exec (.launchAdmission (.device die)) s = .next s' ∧ s'.launches.get? s.nextId = some l ∧
      l.hdr = h ∧ l.args = args ∧ l.onlyDie = some die ∧ l.prio = e.2 ∧ l.queue = none ∧
      (s'.dies.getD die {}).part = rest) ∧
  (∀ (s : State) (q : Nat) (bs : List Byte) (x : Queue) (bar : Nat), x = s.queue q → x.enabled = true →
    x.state = .mapped → x.typ = 0 → x.widx ≠ x.ridx → x.atWait = none → s.saving x.part = false →
    s.readyAfter x.launch = true →
    s.hearthRead x.part (x.base + x.ridx % 2 ^ x.log2n * 128) 128 = .bytes bs → ofBytes bs % 256 = 2 →
    bar = fld (ofBytes bs) 64 64 →
    (bar % 64 = 0 → s.hearthRead x.part bar 64 ≠ .bad → ∃ s', exec (.waitEntry (.queue q)) s = .next s' ∧
      (s'.queue q).ridx = x.ridx ∧
      ∀ s1, s1 = { s with queues := s.queues.put q { x with atWait := some (bar, fld (ofBytes bs) 128 32) } } →
        (x.spent = false ∨ s1.atUnpassed q = false → s' = s1) ∧ (s1.atUnpassed q = true → s' = s1.yieldTest q)) ∧
    (bar % 64 ≠ 0 ∨ s.hearthRead x.part bar 64 = .bad → ∃ s', exec (.waitEntry (.queue q)) s = .next s' ∧
      s' = (s.post { code := 2, part := x.part, addr := bar }).consume q ∧
      (s'.queue q).ridx = (x.ridx + 1) % 2 ^ 32)) ∧
  (∀ (s : State) (q bar phase : Nat) (bs : List Byte), (s.queue q).atWait = some (bar, phase) →
    (s.queue q).state = .mapped → s.saving (s.queue q).part = false →
    s.hearthRead (s.queue q).part bar 64 = .bytes bs → (Bar.ofWord (ofBytes bs)).completed phase = true →
    ∃ s', exec (.waitEntryPass q) s = .next s' ∧ (s'.queue q).ridx = ((s.queue q).ridx + 1) % 2 ^ 32 ∧
      (s'.queue q).atWait = none ∧
      (2 ^ (s.queue q).log2n < ((s.queue q).widx + 2 ^ 32 - ((s.queue q).ridx + 1) % 2 ^ 32) % 2 ^ 32 →
        (s'.queue q).state = .faulted)) ∧
  (∀ (s : State) (q w : Nat) (bs : List Byte) (x : Queue), x = s.queue q → x.enabled = true →
    x.state = .mapped → x.typ = 1 → x.widx ≠ x.ridx → x.atWait = none → s.saving x.part = false →
    s.hearthRead x.part (x.base + x.ridx % 2 ^ x.log2n * 64) 64 = .bytes bs → w = ofBytes bs →
    (tb w 256 = false ∨ ∀ c ∈ s.copycmds, c.2.queue ≠ q) →
    (1 ≤ fld w 128 64 → fld w 128 64 ≤ 2 ^ 40 → ∃ s', exec (.copyCommand q) s = .next s' ∧
      s'.copycmds.get? s.nextId = some { queue := q, part := x.part, src := fld w 0 64, dst := fld w 64 64
                                         len := fld w 128 64, done := fld w 192 64 } ∧
      (s'.queue q).ridx = (x.ridx + 1) % 2 ^ 32) ∧
    (fld w 128 64 = 0 ∨ 2 ^ 40 < fld w 128 64 → ∃ s', exec (.copyCommand q) s = .next s' ∧
      s' = ((s.post { code := 7, part := x.part }).copyDone x.part (fld w 192 64) 0 true).consume q ∧
      s'.copycmds = s.copycmds ∧ (s'.queue q).ridx = (x.ridx + 1) % 2 ^ 32)) ∧
  (∀ (s : State) (id : Nat) (c : CopyCmd), s.copycmds.get? id = some c → c.out = [] →
    (∀ a ∈ s.aways, a.2.owner ≠ .command id) →
    ((∀ k, k < spanChunks c.dst c.len → k ∈ c.did) → ∀ s1, s1 = { s with copycmds := s.copycmds.del id } →
      (c.done = 0 → exec (.copyCommandComplete id) s = .next s1) ∧
      (c.done ≠ 0 → c.done % 64 = 0 → exec (.copyCommandComplete id) s =
        .next ((s1.objAdd c.part c.done { b := c.wrote }).getD s1))) ∧
    (∀ k sub va pte, k < spanChunks c.dst c.len → (∀ j, j < k → j ∈ c.did) → k ∉ c.did →
      s.cmdChunk c k = .error (.fault sub va pte) → ∀ s1,
      s1 = ({ s with copycmds := s.copycmds.del id } : State).post { code := 7, part := c.part, addr := va } →
      (c.done = 0 → exec (.copyCommandComplete id) s = .next s1) ∧
      (c.done ≠ 0 → c.done % 64 = 0 → exec (.copyCommandComplete id) s =
        .next ((s1.objAdd c.part c.done { b := c.wrote, e := true }).getD s1)))) ∧
  (∀ (s : State) (q : Nat) (bs : List Byte) (x : Queue) (k : Task), x = s.queue q → x.enabled = true →
    x.state = .mapped → x.typ = 2 → x.widx ≠ x.ridx → x.atWait = none → s.saving x.part = false →
    s.hearthRead x.part (x.base + x.ridx % 2 ^ x.log2n * 64) 64 = .bytes bs → k = taskOfRecord x.part (ofBytes bs) none →
    (s.recordValid x.part (ofBytes bs) = true → (∀ u ∈ k.units, (s.cunits.getD u []).length < 8) → ∃ s',
      exec (.cellarTaskRead (.queue q)) s = .next s' ∧ s'.tasks.get? s.nextId = some k ∧
      (s'.queue q).ridx = (x.ridx + 1) % 2 ^ 32 ∧ ∀ u, u ∈ k.units → s.nextId ∈ s'.cunits.getD u []) ∧
    (s.recordValid x.part (ofBytes bs) = false → ∃ s', exec (.cellarTaskRead (.queue q)) s = .next s' ∧
      s' = (s.post { code := 9, part := x.part }).consume q ∧ s'.tasks = s.tasks ∧ s'.cunits = s.cunits ∧
      (s'.queue q).ridx = (x.ridx + 1) % 2 ^ 32)) ∧
  (∀ (s : State) (die id : Nat) (rest : List Nat) (k : Task), (s.dies.getD die {}).cq = id :: rest →
    s.tasks.get? id = some k → (∀ u ∈ k.units, (s.cunits.getD u []).length < 8) → s.lost die = false → ∃ s',
      exec (.cellarTaskRead (.cqsub die)) s = .next s' ∧ (s'.dies.getD die {}).cq = rest ∧ s'.tasks = s.tasks ∧
      ∀ u, u ∈ k.units → id ∈ s'.cunits.getD u [])

/-! ### Launches -/

/-- Unless the package is in HOLD, a cluster with room for a unit of the head launch asks for it once, and stands behind
earlier requests and, in its cycle, lower clusters. The next request is served: the launch hands out ordinals, by whole
units in chunks of up to 64 to a die, or one unit at a time where it is ORDERED; each workgroup starts with the kindling
and its groups, each with ARGS in G0 or S0, all lanes in EM, FMT0 in FMT and the whole stack; the lines of the argument
blocks count as changed (R213). A marked core that is empty takes its new split. The Damper moves the tail of the longer
of two neighbouring queues (R26, R29, R30, R86 to R88, R91, R93 to R95, R98, R152); that an entry being read counts in
the depth and may move, so that its depth is the whole part, is the model's deduction (log 35). A workgroup whose groups
have exited and whose engine operations have ended retires: its bound rounds are closed, it, its groups and its backing
region go, and its launch counts it. A launch with every ordinal handed out and no workgroup left completes: it goes,
and its record is stored at DONE + 64 before its arrival at DONE, which a message follows, or DONE_FAULT is posted where
DONE cannot take them. HKILL ends the launches of its tag: they dispatch no more, their groups have exited, and a
workgroup counts as killed where one of its groups was left to end (R214, R418, R441 to R445). A signal that cannot be
made is no longer dropped, as log 50 drops other stores of the Hearth. The model's choices: the ordinals in chunks go
with HKILL (log 47), and a misaligned DONE takes DONE_FAULT (log 86). -/
def Obligations.WorkIsPlacedAndRetires : Prop :=
  (∀ (s : State) (die cluster id now : Nat) (l : Launch) (rs : List (Nat × Nat)), die < 4 → cluster < 36 →
    s.lost die = false → s.power ≠ .hold → s.saving (s.partOfDie die) = false → rs = (s.dies.getD die {}).requests →
    (∀ r ∈ rs, r.2 ≠ cluster) → s.head die = some (id, l) → s.unitRoom die cluster l.hdr = true → now = s.clock.toNat →
    exec (.workRequest die cluster) s = .next (s.updDie die fun d => { d with
      requests := (rs.filter fun r => r.1 != now || decide (r.2 < cluster)) ++ (now, cluster) ::
        rs.filter fun r => r.1 == now && decide (cluster ≤ r.2) })) ∧
  (∀ (s : State) (die id ord : Nat) (r : Nat × Nat) (ks : List Nat) (l l2 : Launch), s.nextRequest die = some r →
    s.lost die = false → s.power ≠ .hold → s.saving (s.partOfDie die) = false → s.head die = some (id, l) →
    s.unitPlan l.part die r.2 l.hdr = some ks → takeOrdinals l die = some (ord, l2) →
    ∃ s', exec (.workgroupDispatch die) s = .next s' ∧ s'.launches.get? id = some l2 ∧ s'.mem = s.mem ∧
      (s'.dies.getD die {}).requests = (s.dies.getD die {}).requests.filter (· != r) ∧
      ∀ j k n, ks[j]? = some k → n = s.nextId + 1 + j * (1 + l2.hdr.groups) →
        (∃ g, s'.wgs.get? n = some g ∧ g.launch = id ∧ g.ord = ord + j ∧ g.die = die ∧ g.core = 4 * r.2 + k ∧
          g.unit_ = s.nextId ∧ g.full = false ∧ g.scr = kindling l2.hdr l2.args ∧
          ∀ i o, i < l2.hdr.groups → o < 8 * l2.hdr.argsz → (4096 * i + o) / 128 ∈ g.dirty) ∧
        ∀ i, i < l2.hdr.groups → s'.threads.get? (n + 1 + i) = some (Thread.start l2.hdr n i)) ∧
  (∀ (l : Launch) (die u a b : Nat), u = l.hdr.unitSize → l.chunk die = (a, b) →
    (l.hdr.ordered = true → l.next < l.hdr.total → takeOrdinals l die = some (l.next, { l with next := l.next + u })) ∧
    (l.hdr.ordered = false → a < b →
      takeOrdinals l die = some (a, { l with chunks := Tab.put l.chunks die (a + u, b) })) ∧
    (∀ n, l.hdr.ordered = false → b ≤ a → n = min (64 / u * u) (l.hdr.total - l.next) → n ≠ 0 → takeOrdinals l die =
      some (l.next, { l with next := l.next + n, chunks := Tab.put l.chunks die (l.next + u, l.next + n) }))) ∧
  (∀ (h : Header) (wg j : Nat), (Thread.start h wg j).wg = wg ∧ (Thread.start h wg j).gidx = j ∧
    (Thread.start h wg j).regs.fmt = h.fmt0 ∧ (Thread.start h wg j).regs.stkp = h.kstk * 16 ∧
    (Thread.start h wg j).status = .running ∧ (Thread.start h wg j).handler = false ∧
    ((h.roleany = false ∧ h.copyn ≤ j ∧ j < h.copyn + h.matn) → (Thread.start h wg j).side = .mcc ∧
      (Thread.start h wg j).pc = BitVec.ofNat 64 h.entryM ∧
      (Thread.start h wg j).regs.s.get 0 = BitVec.ofNat 64 h.args) ∧
    (¬(h.roleany = false ∧ h.copyn ≤ j ∧ j < h.copyn + h.matn) →
      (Thread.start h wg j).side = .wide ∧ (Thread.start h wg j).width = h.lanes ∧
      (Thread.start h wg j).regs.g.get 0 = BitVec.ofNat 64 h.args ∧
      (h.lanes ≤ 64 → ∀ i, (Thread.start h wg j).regs.em.getLsbD i = decide (i < h.lanes)) ∧
      (Thread.start h wg j).pc = BitVec.ofNat 64 (if h.roleany = false ∧ j < h.copyn then h.entryC else h.entryV))) ∧
  (∀ (s : State) (core n : Nat), (s.cores.getD core {}).marked = some n → s.wgsOn core = [] →
    exec (.splitChange core) s = .next (s.updCore core fun c => { c with split := n, marked := none })) ∧
  (∀ (s : State) (part a b m : Nat), part < 4 → s.diesOf part = [a, b] → a ≠ b → s.lost a = false → s.lost b = false →
    s.saving part = false → (s.damper part).2 ≠ 0 → ∀ x y, (x = a ∧ y = b ∨ x = b ∧ y = a) →
    (s.dies.getD y {}).part.length + (s.damper part).1 < (s.dies.getD x {}).part.length →
    m = min 16 (((s.dies.getD x {}).part.length - (s.dies.getD y {}).part.length) / 2) →
    ∃ s', exec (.damperExchange part) s = .next s' ∧ s'.mem = s.mem ∧
      (s'.dies.getD x {}).part = (s.dies.getD x {}).part.take ((s.dies.getD x {}).part.length - m) ∧
      (s'.dies.getD y {}).part = (s.dies.getD y {}).part ++
        (s.dies.getD x {}).part.drop ((s.dies.getD x {}).part.length - m)) ∧
  (∀ (s : State) (wg : Nat) (g : Wg), s.mayRetire wg g = true ↔
    (∀ t ∈ s.threads, t.2.ofWg wg = true → t.2.status = .exited ∧ t.2.posted = [] ∧ t.2.pend = [] ∧ t.2.queries = []) ∧
    g.outstanding = 0 ∧ s.rowsWait wg = false ∧ (∀ c ∈ s.cores, ∀ o ∈ c.2.ops, o.2.wg ≠ wg) ∧
      (∀ o ∈ s.unitOps, o.2.wg ≠ wg) ∧ ∀ o ∈ s.gops, o.2.wg ≠ wg) ∧
  (∀ (s : State) (wg : Nat) (g : Wg) (l : Launch), s.wgs.get? wg = some g → s.launches.get? g.launch = some l →
    s.mayRetire wg g = true →
    ∃ s' l', exec (.workgroupRetire wg) s = .next s' ∧
      s' = (((g.rounds.vals.foldl (fun s sl => s.closeRound wg g l sl) s).release wg g).feed l.part).mark ∧
      s'.wgs.get? wg = none ∧
      (∀ e ∈ s'.threads, e.2.ofWg wg = false) ∧ (∀ r ∈ s'.backing, r.1 ≠ g.backing) ∧
      s'.launches.get? g.launch = some l' ∧
      (g.killed = false → l'.nwg = min (l.nwg + 1) (2 ^ 32 - 1) ∧ l'.nkill = l.nkill) ∧
      (g.killed = true → l'.nkill = min (l.nkill + 1) (2 ^ 32 - 1) ∧ l'.nwg = l.nwg) ∧
      ((∀ x ∈ g.rounds, x.2.bound = false) → s'.mem = s.mem)) ∧
  (∀ (s : State) (wg : Nat) (g : Wg) (l : Launch) (sl : RoundSlot),
    (sl.bound = false → s.closeRound wg g l sl = s) ∧
    (∀ b : Nat → List Byte, sl.bound = true → (∀ e, e ≤ sl.nexp →
      s.hearthRead l.part (sl.etab + 64 * e) 64 = .bytes (b e)) → s.closeRound wg g l sl =
      s.sendCloses wg none sl ((List.range (sl.nexp + 1)).flatMap fun e => entryReplicas e (ofBytes (b e))))) ∧
  (∀ (s s0 : State) (id code : Nat) (l : Launch) (x : Signal), s.launches.get? id = some l → l.handedOut = true →
    (∀ g ∈ s.wgs, g.2.launch ≠ id) → s0 = { s with launches := s.launches.del id } →
    code = (if l.nkill ≠ 0 ∨ l.killed then 0x80 else 0) →
    x = { part := l.part, done := l.hdr.done, tag := l.hdr.tag.toNat, host := l.queue.isSome
          word := recordWord l s.time.toNat code, nwg := l.nwg, err := code != 0 } →
    exec (.launchComplete id) s = .next (s0.signalDone x).mark ∧ s0.mark.launches.get? id = none) ∧
  (∀ (s f : State) (x : Signal) (msix : State → State), (∀ t, msix t = if x.host then t.msix 1 else t) →
    f = msix (s.post { code := 0x18, part := x.part, addr := x.done, tag := x.tag }) →
    (x.done = 0 → s.signalDone x = s) ∧
    (x.done ≠ 0 → x.done % 64 ≠ 0 → s.signalDone x = f) ∧
    (x.done ≠ 0 → x.done % 64 = 0 → s.hearthDue = [] → s.hearthWaits x.part x.done = false →
      s.hearthWaits x.part (x.done + 64) = false →
      (s.doneAt x.part x.done = .fault ∨ s.doneAt x.part x.done = .ok ∧ s.doneAt x.part (x.done + 64) = .fault →
        s.signalDone x = f) ∧
      ∀ a b (s1 : State), s.doneAt x.part x.done = .ok → s.doneAt x.part (x.done + 64) = .ok →
        s.hearthPlace x.part .store (x.done + 64) = some (.phys b) → s1 = s.putPhys b (toBytes x.word 64) →
        s1.doneAt x.part x.done = .ok → s1.hearthPlace x.part .store x.done = some (.phys a) →
        s.signalDone x = msix (s1.putPhysNat a 64
          ((Bar.ofWord (s1.mem.getNat a 64)).add { a := 1, v := x.nwg, e := x.err }).word))) ∧
  (∀ (s : State) (part : Nat), part < 4 → ∃ s', exec (.hkillGo part) s = .next s' ∧
    ∀ id l, s.launches.get? id = some l → l.part = part → l.hdr.tag = s.hr 0x4B8 →
      (∃ l', s'.launches.get? id = some l' ∧ l'.killed = true ∧ l'.next = l.hdr.total ∧ l'.chunks = []) ∧
      ∀ wg g tid t, s.wgs.get? wg = some g → g.launch = id → s.threads.get? tid = some t → t.ofWg wg = true →
        (∃ t', s'.threads.get? tid = some t' ∧ t'.status = .exited) ∧
        ∃ g', s'.wgs.get? wg = some g' ∧
          (g'.killed = true ↔ g.killed = true ∨ ∃ e ∈ s.threads, e.2.ofWg wg = true ∧ e.2.status ≠ .exited))

/-! ### Paging and pre-emption -/

/-- A write of HTLBI queues a page, or every page, of a partition behind earlier writes; when the oldest is done, no TLB
of the partition holds what it named, every other entry stays, and walks in flight begin anew. A demotion engine starts
below LOW and stops at HIGH; it takes a page of its tier with the lowest count, and the lowest address among equals,
sets MIG and clears W in its entries and drops the page from the TLBs; then the bytes stand at the new place, a free
one, where running launches fetch them too (R105), the entries name it with W as it was and no MIG, or the storage tier,
and the engine is free again (R218, R221 to R224). That a page leaves for the storage tier once no access let through to
it is left, and that the free space of module memory is a free value, are the model's choices (log 39). The Porch takes
a page-in request once its sequence number stands in the ring, and makes its NVMe Read; when the page has come, its
bytes stand at the destination, the barrier gets one arrival with the page's bytes, and the read index advances, with a
record and the error bit where it failed. HPRE with GO begins the saving of a partition, or is refused; the save that
has drained leaves the partition empty and its launches, workgroups and groups in the slot; RESUME puts them into a
partition with as many dies, and is refused otherwise (R412 to R417). The model's choices: the fields of the Read
command (log 39), the refusal for another number of dies (log 48), and that a read index or an addition that cannot be
stored is dropped (log 50). -/
def Obligations.PagingAndPreemption : Prop :=
  (∀ (s : State) (part : Nat) (v : W64), part < 4 →
    (v.getLsbD 0 = false → exec (.htlbiPage part v) s =
      .next { s with tlbi := s.tlbi ++ [(part, some (fld v.toNat 16 40))] }) ∧
    exec (.htlbiAll part) s = .next { s with tlbi := s.tlbi ++ [(part, none)] }) ∧
  (∀ (s : State) (part : Nat) (w : Option Nat) (a b : List (Nat × Option Nat)), s.tlbi = a ++ (part, w) :: b →
    (∀ e ∈ a, e.1 ≠ part) → ∃ s', exec (.htlbiComplete part) s = .next s' ∧ s'.tlbi = a ++ b ∧ s'.mem = s.mem ∧
      (∀ e, e ∈ s'.tlb ↔ e ∈ s.tlb ∧ ¬(e.part = part ∧ e.named w = true)) ∧
      s'.walks = s.walks.map fun k => if k.part = part then { k with got := [] } else k) ∧
  (∀ (s : State) (tier space : Nat) (d : Demotion), 1 ≤ tier → tier ≤ 3 → d = s.demote.getD tier {} →
    (d.running = false → s.demoteOn tier = true → space < s.lowMark tier → s.lowMark tier < s.highMark tier →
      exec (.demotionStart tier space) s = .next
        { s with demote := s.demote.put tier { d with running := true } }) ∧
    (d.running = true → (s.highMark tier ≤ space ∨ s.highMark tier ≤ s.lowMark tier) → d.move = none →
      exec (.demotionStart tier space) s = .next
        { s with demote := s.demote.put tier { d with running := false } })) ∧
  (∀ (s : State) (tier dest : Nat) (d : Demotion) (v : Leaf), d = s.demote.getD tier {} → d.move = none →
    d.running = true → s.demoteOn tier = true → s.lowMark tier < s.highMark tier → s.victim tier = some v →
    (tier ≠ 3 ∨ s.untouched (inPkg v.pa) (pageSize v.big) = true) →
    (v ∈ s.allLeaves ∧ tierOf (inPkg v.pa) = tier ∧ ∀ l ∈ s.allLeaves, pkgOf l.pa = s.pkg → tierOf (inPkg l.pa) = tier →
      (s.counts.get (inPkg v.pa / 2 ^ 21)).toNat < (s.counts.get (inPkg l.pa / 2 ^ 21)).toNat ∨
      s.counts.get (inPkg v.pa / 2 ^ 21) = s.counts.get (inPkg l.pa / 2 ^ 21) ∧ v.pa ≤ l.pa) ∧
    ∃ s' had, exec (.demotionPageMove tier dest) s = .next s' ∧
      s'.demote.get? tier = some { d with move := some (v.pa, v.big, had) } ∧
      (∀ e ∈ s'.tlb, e.pa + pageSize e.big ≤ v.pa ∨ v.pa + pageSize v.big ≤ e.pa) ∧
      (∀ l ∈ s.allLeaves, l.maps v.pa v.big = true → (l.entry, tb (s.pteValue l.entry) 3) ∈ had) ∧
      (∀ (l : Leaf) (b x y : Nat), l ∈ s.allLeaves → l.maps v.pa v.big = true → b = inPkg (s.forwarded l.entry) →
        s.readPte l.entry = .val x →
        (∀ k ∈ s.allLeaves, k.maps v.pa v.big = true → k ≠ l → inPkg (s.forwarded k.entry) + 8 ≤ b ∨
          b + 8 ≤ inPkg (s.forwarded k.entry)) →
        y = s'.mem.getNat b 8 → tb y 3 = false ∧ tb y 7 = true ∧
        ∀ k, k < 60 → k ∉ [3, 5, 6, 7] → tb y k = tb x k) ∧
      ∀ a, (∀ l ∈ s.allLeaves, l.maps v.pa v.big = true → a < inPkg (s.forwarded l.entry) ∨
          inPkg (s.forwarded l.entry) + 8 ≤ a) → s'.mem.get a = s.mem.get a) ∧
  (∀ (s : State) (tier dest pa : Nat) (big : Bool) (had : List (Nat × Bool)),
    (s.demote.getD tier {}).move = some (pa, big, had) → s.mem.wf = true →
    (tier = 3 ∨ s.destOk tier dest big = true ∧ ∀ e ∈ had,
      inPkg (s.forwarded e.1) + 8 ≤ inPkg dest ∨ inPkg dest + pageSize big ≤ inPkg (s.forwarded e.1)) →
    ∃ s', exec (.demotionPageMove tier dest) s = .next s' ∧ (s'.demote.getD tier {}).move = none ∧
      (tier ≠ 3 → ∀ k, k < pageSize big → s'.mem.get (inPkg dest + k) = s.mem.get (inPkg pa + k)) ∧
      (tier ≠ 3 → ∀ id l, s.launches.get? id = some l → l.code.wf = true → ∃ l', s'.launches.get? id = some l' ∧
        ∀ k, k < pageSize big → l'.code.get (inPkg dest + k) = l.code.get (inPkg pa + k)) ∧
      (∀ e ∈ s'.tlb, e.pa + pageSize e.big ≤ pa ∨ pa + pageSize big ≤ e.pa) ∧
      (∀ (b x y : Nat) (e : Nat × Bool), e ∈ had → b = inPkg (s.forwarded e.1) → s.readPte e.1 = .val x →
        (∀ k ∈ had, k ≠ e → inPkg (s.forwarded k.1) + 8 ≤ b ∨
          b + 8 ≤ inPkg (s.forwarded k.1)) → had.Nodup → y = s'.mem.getNat b 8 →
        tb y 3 = e.2 ∧ tb y 7 = false ∧ (∀ k ∈ [1, 2, 4], tb y k = tb x k) ∧
        (tier ≠ 3 → tb y 0 = tb x 0 ∧
          fld y 16 44 = ((fld x 16 44 : Int) + ((dest : Int) - pa) / 65536).toNat % 2 ^ 44) ∧
        (tier = 3 → tb y 0 = false ∧ fld y 8 2 = 2 ∧ fld y 16 44 = dest % 2 ^ 44)) ∧
      ∀ a, (tier = 3 ∨ a < inPkg dest ∨ inPkg dest + pageSize big ≤ a) →
        (∀ e ∈ had, a < inPkg (s.forwarded e.1) ∨ inPkg (s.forwarded e.1) + 8 ≤ a) → s'.mem.get a = s.mem.get a) ∧
  (∀ (s : State) (tier dest : Nat) (big : Bool), s.destOk tier dest big = true ↔ pkgOf dest = s.pkg ∧
    dest % pageSize big = 0 ∧ tierOf (inPkg dest) = tier + 1 ∧ s.physOk (inPkg dest) = true ∧
    (∀ l ∈ s.allLeaves, l.maps dest big = false) ∧ (tier = 1 → (0x20000000000 ≤ inPkg dest ↔
      s.lpGib = 0 ∨ s.poolOn = true ∧ s.moduleFree < s.lowMark 2))) ∧
  (∀ (s : State) (part i w : Nat) (bs : List Byte) (r : PageIn), part < 4 → s.pageins.get? part = none →
    4 ≤ (s.pageRing part).2 → (s.pageRing part).2 ≤ 12 → fld (s.hr 0x4E0).toNat 0 12 ≠ 0 →
    (fld (s.hr 0x4E8).toNat 0 4 = 9 ∨ fld (s.hr 0x4E8).toNat 0 4 = 12) →
    s.hearthNat part ((s.pageRing part).1 + 8) 8 = some i →
    s.hearthRead part ((s.pageRing part).1 + 64 + 64 * (i % 2 ^ (s.pageRing part).2)) 64 = .bytes bs →
    w = ofBytes bs → fld w 448 32 = (i + 1) % 2 ^ 32 →
    r = { idx := i, block := fld w 0 64, dest := fld w 128 64, bar := fld w 192 64, big := tb w 256 } →
    (s.pageinOk r = true → exec (.pageinRequest part) s = .next { s with pageins := s.pageins.put part { r with
      cmd := some { controller := fld (s.hr 0x4E0).toNat 12 48 * 2 ^ 12, queue := fld (s.hr 0x4E0).toNat 0 12
                    area := fld (s.hr 0x4E8).toNat 12 48 * 2 ^ 12, nsid := (s.hr 0x4F0).toNat, block := fld w 0 64
                    blocks := (if tb w 256 then 2 ^ 21 else 2 ^ 16) / 2 ^ fld (s.hr 0x4E8).toNat 0 4
                    prp := fld w 128 64 } } }) ∧
    (s.pageinOk r = false → exec (.pageinRequest part) s = .next { s with pageins := s.pageins.put part r })) ∧
  (∀ (s s1 s2 s3 : State) (res : PageinRes) (r : PageIn) (data : List Byte) (bad : Bool),
    s.pageins.get? res.part = some r →
    (r.cmd.isSome = true ∧ data = res.data ∧ (res.status = 0 ∧ bad = false ∧ data.length = pageSize r.big ∨
        res.status ≠ 0 ∧ bad = true ∧ data.length ≤ pageSize r.big) ∨
      r.cmd = none ∧ data = [] ∧ bad = true ∧ res.data.length ≤ pageSize r.big) →
    s1 = s.pageWrite r.dest data →
    s2 = (if r.bar % 64 = 0 then (s1.objAdd res.part r.bar { a := 1, b := data.length, e := bad } (2 ^ 70 + res.part)).getD s1
      else s1) →
    s3 = (s2.hearthPut res.part ((s.pageRing res.part).1 + 8) (toBytes (r.idx + 1) 8) (2 ^ 70 + res.part)).getD s2 →
    (bad = false → exec (.pageinComplete res) s = .next { s3 with pageins := s3.pageins.del res.part }) ∧
    (bad = true → exec (.pageinComplete res) s = .next (({ s3 with pageins := s3.pageins.del res.part } : State).post
      { code := 0x16, part := res.part, info := res.status }))) ∧
  (∀ (s : State) (dest : Nat) (data : List Byte), s.fwd = [] → pkgOf dest = s.pkg → dest % 65536 = 0 →
    inPkg dest + data.length ≤ 2 ^ 43 → (∀ k, 65536 * k < data.length → s.physOk (inPkg dest + 65536 * k) = true ∧
      s.homeLost (inPkg dest + 65536 * k) = false) → s.power ≠ .hold →
    (s.pageWrite dest data).mem = s.mem.putBytes (inPkg dest) data ∧ ∀ id l, s.launches.get? id = some l →
      l.code.wf = true → ∃ l', (s.pageWrite dest data).launches.get? id = some l' ∧
        ∀ k, k < data.length → l'.code.get (inPkg dest + k) = data.getD k 0) ∧
  (∀ (s : State) (part slot : Nat), part < 4 → slot < 256 →
    (s.ctxs.get? slot = none → s.ctxRoom part = true → (∀ d ∈ s.diesOf part, s.lost d = false) → s.preempt = none →
      ∃ s', exec (.hpreGo part slot) s = .next s' ∧ s'.preempt = some (part, slot) ∧ s'.threads = s.threads ∧
        s'.wgs = s.wgs ∧ s'.mem = s.mem ∧ tb (s'.hr 0x4A0).toNat 61 = false) ∧
    ((s.ctxs.get? slot ≠ none ∨ s.ctxRoom part = false ∨ (∃ d ∈ s.diesOf part, s.lost d = true) ∨ s.preempt ≠ none) →
      exec (.hpreGo part slot) s = .next { s with hreg := s.hreg.put 0x4A0 (BitVec.ofNat 64 (2 ^ 61)) })) ∧
  (∀ (s : State) (part slot : Nat), s.preempt = some (part, slot) → s.maySave part = true →
    (∀ d ∈ s.diesOf part, s.lost d = false) → ∃ s' c, exec .preemptSaveComplete s = .next s' ∧ s'.preempt = none ∧
      s'.ctxs.get? slot = some c ∧ c.dies = s.diesOf part ∧ (∀ l ∈ s'.launches, l.2.part ≠ part) ∧
      (∀ id l, (id, l) ∈ s.launches → l.part = part → ∃ l', (id, l') ∈ c.launches ∧ l'.hdr = l.hdr ∧ l'.next = l.next ∧
        l'.npre = min (l.npre + 1) (2 ^ 32 - 1)) ∧
      (∀ id g, (id, g) ∈ s.wgs → s.inPart part g = true → (∀ h, (id, h) ∉ s'.wgs) ∧ ∃ h, (id, h) ∈ c.wgs ∧
        h.ord = g.ord ∧ h.scr = g.scr ∧ h.bars = g.bars ∧ h.attic = g.attic) ∧
      ∀ id t, (id, t) ∈ s.threads → t.side ≠ .cellar → (∃ g, (t.wg, g) ∈ s.wgs ∧ s.inPart part g = true) →
        (∀ u, (id, u) ∉ s'.threads) ∧ ∃ u, (id, u) ∈ c.threads ∧ u.regs = t.regs ∧ u.pc = t.pc ∧ u.enter = .resume) ∧
  (∀ (s : State) (slot part : Nat) (c : Ctx), part < 4 → slot < 256 → s.ctxs.get? slot = some c → s.preempt = none →
    s.partWgs part = [] →
    (c.dies.length = (s.diesOf part).length → ∃ s', exec (.hpreResume slot part) s = .next s' ∧
      s'.ctxs.get? slot = none ∧ s'.threads = s.threads ++ c.threads ∧ s'.mem = s.mem ∧
      (∀ id l, (id, l) ∈ c.launches → ∃ l', (id, l') ∈ s'.launches ∧ l'.part = part ∧ l'.hdr = l.hdr ∧
        l'.next = l.next) ∧
      ∀ id g, (id, g) ∈ c.wgs → ∃ h, (id, h) ∈ s'.wgs ∧ h.core = g.core ∧ h.ord = g.ord ∧
        h.die = (s.diesOf part).getD (c.dies.idxOf g.die) g.die) ∧
    (c.dies.length ≠ (s.diesOf part).length → exec (.hpreResume slot part) s =
      .next { s with hreg := s.hreg.put 0x4A0 (BitVec.ofNat 64 (2 ^ 61)) }))

/-! ### Power, boot, security, errors -/

/-- HPWR takes ON, IDLE and HOLD: IDLE from HOLD is refused (the model's choice, log 32), HOLD needs every queue off and
nothing resident, and ends a debug session. During a SEALED D2 entry every request waits its turn. Power loss leaves
MRAM and flash. A device reset sets the ROM to work; it reads the trims, then the image, checks both, and starts the
image and measures both, or enters recovery with the code of what failed. HRCV takes a push in recovery, which is
checked in the same way (R427, R431, R433 to R439). The model's choices beside log 32: memory and registers are empty,
and the package number kept, after a power loss or a reset (logs 1, 2); the anti-rollback counters keep their values
over boots (log 71); owner digests are appended, at most four (log 74); and what a signature verifies to is a flag of
the event (log 38). A lifecycle request that is accepted takes effect at the next reset; any other changes nothing. A
debug session opens where it is allowed, in OWNED and SEALED with an owner's token for this device, level, lifecycle
state and an issued nonce; a SEALED D2 entry drains the lanes, zeroises the key banks and exchanges keys first. D1 reads
a halted group's registers, D2 halts and writes. An attestation answers with the measurements, or an error. A signed
update writes the image in flash when both signatures verify and recovery is not on. ECC corrects an error, or poisons
what it struck; a record is posted. A lost die stays lost (R419, R420, R426 to R434). The model's choices: what a
signature verifies to, the signatures of an answer and what an end of session adds are flags, free values or come with
the event (log 38), at most four owners (log 74), and the debug port's uses as moves (log 40). -/
def Obligations.PowerAndSecurity : Prop :=
  (∀ s : State, s.power ≠ .off → s.debugEntry = none →
    exec .powerOnRequest s = .next { s with power := .on, hreg := s.hreg.put 0x500 0 } ∧
    (s.power ≠ .hold → exec .powerIdleRequest s = .next { s with power := .idle, hreg := s.hreg.put 0x500 4 }) ∧
    (s.power = .hold → exec .powerIdleRequest s = .next
        { s with hreg := s.hreg.put 0x500 (s.hr 0x500 ||| 0x8000000000000000) } ∧
      exec .powerHoldRequest s = .next { s with hreg := s.hreg.put 0x500 8 }) ∧
    (s.power ≠ .hold → s.mayHold = true → ∃ s', exec .powerHoldRequest s = .next s' ∧ s'.power = .hold ∧
      s'.hreg = s.hreg.put 0x500 8 ∧ s'.debug = 0 ∧ s'.mem = s.mem ∧ s'.lanes = s.lanes ∧ s'.links = s.links ∧ s'.tlb = [] ∧
      (s.debug = 0 → s'.measures = s.measures) ∧
      (s.debug ≠ 0 → s'.measures.get 2 = shaExtend (s.measures.get 2) (Config.debugMeasure 0 0))) ∧
    (s.power ≠ .hold → s.mayHold = false → exec .powerHoldRequest s = .next
      { s with hreg := s.hreg.put 0x500 (s.hr 0x500 ||| 0x8000000000000000) })) ∧
  (∀ s : State, s.mayHold = true ↔ (∀ q ∈ s.queues, q.2.state = .off) ∧ s.wgs = [] ∧
    ∀ t ∈ s.threads, t.2.side ≠ .cellar) ∧
  (∀ s : State, s.power ≠ .off → s.debugEntry ≠ none →
    exec .powerOnRequest s = .next { s with secQueue := s.secQueue ++ [.on] } ∧
    exec .powerIdleRequest s = .next { s with secQueue := s.secQueue ++ [.idle] } ∧
    exec .powerHoldRequest s = .next { s with secQueue := s.secQueue ++ [.hold] } ∧
    (∀ r, exec (.lifecycleRequest r) s = .next { s with secQueue := s.secQueue ++ [.lifecycle r] }) ∧
    (∀ p, exec (.attestationRequest p) s = .next { s with secQueue := s.secQueue ++ [.attest p] }) ∧
    (∀ p e l i, exec (.signedUpdateRequest p (e, l) i) s = .next { s with secQueue := s.secQueue ++ [.update e l i] }) ∧
    (∀ r, exec (.debugSessionEnter r) s = .next { s with secQueue := s.secQueue ++ [.debug r] }) ∧
    (∀ p x, exec (.debugSessionEnd p x) s = .next { s with secQueue := s.secQueue ++ [.endSession x] })) ∧
  (∀ s : State, s.power ≠ .off → exec .thermtrip s = .next { s with thermtrip := true }) ∧
  (∀ s : State, ∃ s', exec .powerLoss s = .next s' ∧ s'.power = .off ∧ s'.mram = s.mram ∧ s'.flash = s.flash ∧
    s'.mem = [] ∧ s'.threads = [] ∧ s'.queues = [] ∧ s'.hreg = [] ∧ s'.measures = [] ∧ s'.links = [] ∧ s'.debug = 0 ∧
    s'.identity = none ∧ s'.pkg = s.pkg) ∧
  (∀ (s : State) (x : BootIn) (m : Mram), x.lpGib ≤ 1024 → (x.trim.readable = true → x.trim.bytes = s.flash.trim) →
    (x.image.readable = true → x.image.bytes = s.flash.image) → m = s.mram.atReset → ∃ s',
    exec (.deviceReset x) s = .next s' ∧ s'.mram = m ∧ s'.flash = s.flash ∧ s'.threads = [] ∧ s'.mem = [] ∧
    s'.power = .on ∧ s'.lpGib = x.lpGib ∧ s'.hr 0x508 = BitVec.ofNat 64 (x.lpGib * 2 ^ 16) ∧ s'.booting = some x ∧
    s'.measures = [] ∧ s'.debug = 0 ∧ s'.links = [] ∧ (s'.identity = none ↔ m.lifecycle = 3)) ∧
  (∀ (s : State) (x : BootIn), s.booting = some x →
    (s.stage = 0 → ∃ s', bootStep s = .next s' ∧ s'.stage = 1 ∧ s'.booting = some x) ∧
    (s.stage = 1 → x.trim.readable = true → ∃ s', bootStep s = .next s' ∧ s'.stage = 2 ∧ s'.booting = some x) ∧
    (s.stage = 1 → x.trim.readable = false → ∃ s', bootStep s = .next s' ∧ fld (s'.hr 0x508).toNat 0 8 = 0x41 ∧
      s'.booting = none) ∧
    (s.stage = 2 → ∃ s', bootStep s = .next s' ∧ s'.booting = none ∧
      fld (s'.hr 0x508).toNat 16 11 = fld (s.hr 0x508).toNat 16 11 ∧
      (x.image.readable = false → fld (s'.hr 0x508).toNat 0 8 = 0x41) ∧
      (x.image.readable = true → signaturesOk x.trim s.mram = false → fld (s'.hr 0x508).toNat 0 8 = 0x42) ∧
      (x.image.readable = true → signaturesOk x.trim s.mram = true →
        fld (s'.hr 0x508).toNat 0 4 = s.imageCode x.image ∧ fld (s'.hr 0x508).toNat 8 2 = 0 ∧
        (s.imageCode x.image = 0 → s'.stage = 3 ∧ fld (s'.hr 0x508).toNat 32 32 = x.image.version % 2 ^ 32 ∧
          s'.measures.get 0 = shaExtend (s.measures.get 0) (sha384 x.image.bytes) ∧
          s'.measures.get 1 = shaExtend (s.measures.get 1) (sha384 x.trim.bytes)) ∧
        (s.imageCode x.image ≠ 0 → s'.stage = 4 ∧ s'.measures = s.measures)))) ∧
  (∀ (s : State) (c : BootCheck), c.readable = true → s.imageCode c =
    if ¬(c.ecdsa = true ∧ c.lms = true ∧ (s.mram.lifecycle = 0 ∨ s.mram.lifecycle = 3 ∨
      c.ownerEcdsa = true ∧ c.ownerLms = true ∧ c.ownerKey ∈ s.mram.owners)) then 2
    else if (s.mram.lifecycle = 0 ∨ s.mram.lifecycle = 3) ∧ c.ownerBound = true then 4
    else if c.rollValue < (s.mram.counters.get (c.rollIndex % 64)).toNat then 3 else 0) ∧
  (∀ m : Mram, (m.next = none → m.atReset = m) ∧
    (∀ to_ os, m.next = some (to_, os) → m.atReset.next = none ∧ m.atReset.lifecycle = to_ ∧
      (to_ = 3 → m.atReset.owners = [] ∧ m.atReset.counters = []) ∧
      (to_ ≠ 3 → m.atReset.owners = m.owners ++ os ∧ m.atReset.counters = m.counters))) ∧
  (∀ (s : State) (port : Port) (v : W64),
    (s.stage ≠ 4 ∨ s.rcvBusy = true ∨ fld v.toNat 0 29 = 0 ∨ 2 ^ 28 < fld v.toNat 0 29 → exec (.hrcvGo port v) s = .next
      { s with rcvRefused := match port with
        | .a => (true, s.rcvRefused.2)
        | .b => (s.rcvRefused.1, true) }) ∧
    (s.stage = 4 → s.rcvBusy = false → fld v.toNat 0 29 ≠ 0 → fld v.toNat 0 29 ≤ 2 ^ 28 → ∃ s',
      exec (.hrcvGo port v) s = .next s' ∧ (if port = .a then s'.rcvRefused.1 else s'.rcvRefused.2) = false ∧
      s'.rcvBusy = v.getLsbD 63 ∧ s'.rcvFail = s.rcvFail ∧ fld (s'.hr 0x510).toNat 0 29 = fld v.toNat 0 29 ∧
      s'.mem = s.mem ∧ s'.stage = 4 ∧
      (v.getLsbD 63 = true → fld (s'.hr 0x508).toNat 8 2 = if port = .a then 1 else 2))) ∧
  (∀ (s : State) (x : BootCheck), s.rcvBusy = true → x.readable = true →
    x.bytes = s.pushed (fld (s.hr 0x508).toNat 8 2) (fld (s.hr 0x510).toNat 0 29) → ∃ s',
      exec (.recoveryCheckDone x) s = .next s' ∧ s'.rcvBusy = false ∧ s'.mem = s.mem ∧ s'.flash = s.flash ∧
      (s.imageCode x = 0 → s'.stage = 3 ∧ s'.rcvFail = false ∧
        s'.measures.get 0 = shaExtend (s.measures.get 0) (sha384 x.bytes)) ∧
      (s.imageCode x ≠ 0 → s'.stage = 4 ∧ s'.rcvFail = true ∧ s'.measures = s.measures ∧
        fld (s'.hr 0x508).toNat 0 4 = s.imageCode x)) ∧
  (∀ (s : State) (r : LifeReq) (sig : Prop), s.power ≠ .off → s.debugEntry = none →
    (sig ↔ r.ecdsa = true ∧ r.lms = true ∧ (s.mram.lifecycle = 0 ∨ r.key ∈ s.mram.owners)) →
    (s.mram.lifecycle < r.goal → r.goal ≤ 3 → (sig ∨ s.mram.lifecycle = 0 ∧ r.goal = 3) → (r.goal = 1 → r.owners ≠ []) →
      s.mram.owners.length + r.owners.length ≤ 4 → exec (.lifecycleRequest r) s = .next
        { s with mram := { s.mram with next := some (r.goal, r.owners) } }) ∧
    (r.goal ≤ s.mram.lifecycle ∨ 3 < r.goal ∨ ¬sig ∧ ¬(s.mram.lifecycle = 0 ∧ r.goal = 3) ∨
      (r.goal = 1 ∧ r.owners = []) ∨ 4 < s.mram.owners.length + r.owners.length →
        exec (.lifecycleRequest r) s = .next s)) ∧
  (∀ (s : State) (r : DebugReq), s.debugAllowed r = true ↔ 1 ≤ r.level ∧ r.level ≤ 2 ∧ s.debug = 0 ∧
    (s.power = .on ∨ s.power = .idle) ∧ (s.mram.lifecycle = 0 ∨ s.mram.lifecycle = 3 ∨ ∃ k i, r.token = some k ∧
      s.identity = some i ∧ k.identity = Config.identityDigest i.p384 ∧ k.level = r.level ∧ k.nonce ∈ s.nonces ∧
      k.lifecycle = s.mram.lifecycle ∧ k.ecdsa = true ∧ k.lms = true ∧ k.key ∈ s.mram.owners)) ∧
  (∀ (s : State) (r : DebugReq) (d : BitVec 384), s.power ≠ .off → s.debugEntry = none →
    (∀ k, r.token = some k → d = k.digest) → (r.token = none → d = 0) →
    (s.debugAllowed r = false → exec (.debugSessionEnter r) s = .next s) ∧
    (s.debugAllowed r = true → ¬(s.mram.lifecycle = 2 ∧ r.level = 2) → ∃ s', exec (.debugSessionEnter r) s = .next s' ∧
      s'.debug = r.level ∧ s'.measures.get 2 = shaExtend (s.measures.get 2) (Config.debugMeasure r.level d) ∧
      s'.mem = s.mem ∧ s'.lanes = s.lanes) ∧
    (s.debugAllowed r = true → s.mram.lifecycle = 2 → r.level = 2 → ∃ s', exec (.debugSessionEnter r) s = .next s' ∧
      s'.debug = s.debug ∧ s'.debugEntry = some d ∧ s'.mem = s.mem ∧ s'.debugZeroised = false ∧
      ∀ n, (s.lane n).state = 1 → (s'.lane n).state = 2 ∧ n ∈ s'.debugLanes)) ∧
  (∀ (s : State) (d : BitVec 384), s.debugEntry = some d → (∀ l ∈ s.lanes, l.2.state ≠ 1 ∧ l.2.state ≠ 2) →
    (s.debugZeroised = false → ∃ s', entryStep s = .next s' ∧ s'.debugZeroised = true ∧ s'.debugEntry = some d ∧
      s'.mem = s.mem ∧ (∀ k ∈ s'.links, k.2.bank0 = none ∧ k.2.bank1 = none ∧
        (k.2.exchange = true ↔ ∃ l ∈ s.lanes, l.1 ∈ s.debugLanes ∧ l.2.peer = k.1)) ∧
      ∀ n l, s.lanes.get? n = some l → n ∈ s.debugLanes →
        (∀ x ∈ s.lanes, x.1 ∈ s.debugLanes → x.2.peer = l.peer → n ≤ x.1) →
        ∃ l' h, s'.lanes.get? n = some l' ∧ l'.control = l.control ++ [h] ∧ fld h.toNat 0 8 = 0x0D) ∧
    (s.debugZeroised = true → (∀ k ∈ s.links, k.2.exchange = false) →
      (s.secQueue = [] → ∃ s', entryStep s = .next s' ∧ s'.debugEntry = none ∧ s'.secQueue = [] ∧ s'.debug = 2 ∧
        s'.mem = s.mem ∧ s'.measures.get 2 = shaExtend (s.measures.get 2) (Config.debugMeasure 2 d)) ∧
      (s.secQueue = [.hold] → s.power ≠ .hold → s.mayHold = true → ∃ s', entryStep s = .next s' ∧ s'.debugEntry = none ∧
        s'.secQueue = [] ∧ s'.power = .hold ∧ s'.debug = 0))) ∧
  (∀ (s : State) (port : Port) (tid : Nat) (t : Thread) (r : Regs), s.threads.get? tid = some t →
    (s.debug ≠ 0 → t.status = .halted → debugStep (.regs port tid) s = .next
      { s with spdm := s.spdm ++ [(port == .b, .regs (some t.regs))] }) ∧
    (s.debug = 2 → ∃ s' t', debugStep (.halt tid) s = .next s' ∧ s'.threads.get? tid = some t' ∧ t'.status = .halted ∧
      t'.regs = t.regs ∧ s'.mem = s.mem) ∧
    (s.debug = 2 → t.status = .halted → ∃ s', debugStep (.write tid r) s = .next s' ∧
      s'.threads.get? tid = some { t with regs := r } ∧ s'.mem = s.mem)) ∧
  (∀ (s : State) (port : Port) (x : BitVec 384), s.power ≠ .off → s.debug ≠ 0 → s.debugEntry = none → ∃ s',
    exec (.debugSessionEnd port x) s = .next s' ∧ s'.debug = 0 ∧
    s'.measures.get 2 = shaExtend (s.measures.get 2) x ∧ s'.mem = s.mem) ∧
  (∀ (s : State) (port : Port), s.power ≠ .off → s.debugEntry = none →
    (s.identity = none → exec (.attestationRequest port) s = .next { s with spdm := s.spdm ++ [(port == .b, .error)] }) ∧
    (s.identity ≠ none → ∃ e l, exec (.attestationRequest port) s = .next
      { s with spdm := s.spdm ++ [(port == .b, .measurements s.measures e l)] })) ∧
  (∀ (s : State) (port : Port) (e l : Bool) (image : List (BitVec 8)), s.power ≠ .off → s.debugEntry = none →
    (¬(e = true ∧ l = true) ∨ s.stage = 4 → exec (.signedUpdateRequest port (e, l) image) s = .next s) ∧
    (s.stage ≠ 4 → exec (.signedUpdateRequest port (true, true) image) s = .next
      { s with flash := { s.flash with image := image } })) ∧
  (∀ (s : State) (x : SoftErr), s.errOk x.at_ = true → ∃ s', exec (.softError x) s = .next s' ∧
    (x.corrected = true → s'.poison = s.poison ∧ s'.wgs = s.wgs ∧ s'.units = s.units ∧ s'.dies = s.dies ∧
      s'.threads = s.threads) ∧
    (x.corrected = false →
      (∀ loc pa, x.at_ = .mem loc pa → s'.poisoned pa = true ∧ ∀ a, a / 128 ≠ pa / 128 → s'.poisoned a = s.poisoned a) ∧
      (∀ w o, x.at_ = .scratch w o → ∃ g, s'.wgs.get? w = some g ∧ o / 128 ∈ g.scrPoison) ∧
      (∀ u o, x.at_ = .parlour u o → ∃ p, s'.units.get? u = some p ∧ o / 128 ∈ p.poison) ∧
      (∀ w o, x.at_ = .attic w o → ∃ g, s'.wgs.get? w = some g ∧ o / 128 ∈ g.atticPoison) ∧
      (∀ n i o, x.at_ = .slice n i o → ∃ t, s'.threads.get? n = some t ∧ (512 * i + o) / 128 ∈ t.slicePoison) ∧
      (∀ n i o, x.at_ = .stack n i o → ∃ t, s'.threads.get? n = some t ∧ (4096 * i + o) / 128 ∈ t.stackPoison) ∧
      (∀ d o, x.at_ = .pantry d o → ∃ y, s'.dies.get? d = some y ∧ o / 128 ∈ y.pantryPoison) ∧
      (∀ d o, x.at_ = .staged d o → ∃ y, s'.dies.get? d = some y ∧ o / 128 ∈ y.stagedPoison)) ∧
    (3 < s.ashLog → s.ashFull = false → (s'.hr 0x4C8).toNat = ((s.hr 0x4C8).toNat + 1) % 2 ^ 32) ∧
    (s.ashLog ≤ 3 ∨ s.ashFull = true → s'.mem = s.mem ∧ (s'.hr 0x4D8).toNat = ((s.hr 0x4D8).toNat + 1) % 2 ^ 32)) ∧
  (∀ (s : State) (die : Nat), die < 4 → s.lost die = false → ∃ s' s1 : State, exec (.dieLost die) s = .next s' ∧
    s' = s1.post { code := 0x0C, die := die, part := s.partOfDie die, sev := 3 } ∧ s1.mem = s.mem ∧ s'.lost die = true ∧
      s'.threads = s.threads ∧ ∀ d, d ≠ die → s'.lost d = s.lost d)

/-- The registers of the Hearth hold at reset the values that the spec gives: HQUANT 100, THR and INTV of HDAMP 4, HFTMO
100, every other one 0; one partition has all four dies; no queue is enabled, every index is 0, the package is on and no
debug session is open (R67, R84, R93, R224, R284, R424, R429, R435 to R437). -/
def Obligations.ResetValues : Prop :=
  State.reset.hr 0x108 = 100 ∧ (∀ p, p < 4 → State.reset.hr (0x180 + 8 * p) = 4 * 2 ^ 16 + 4 ∧
    State.reset.damper p = (4, 4)) ∧ State.reset.hr 0x300 = 100 ∧
  (∀ off ∈ [0x100, 0x110, 0x118, 0x120, 0x128, 0x140, 0x1A0, 0x1A8, 0x1B0, 0x1B8, 0x1C0, 0x1C8, 0x1D0, 0x1D8, 0x200,
    0x208, 0x210, 0x218, 0x220, 0x228, 0x308, 0x310, 0x400, 0x420, 0x440, 0x460, 0x480, 0x4A0, 0x4A8, 0x4B8, 0x4C0, 0x4C8,
    0x4D0, 0x4D8, 0x4E0, 0x4E8, 0x4F0, 0x500, 0x508, 0x510], State.reset.hr off = 0) ∧
  (∀ n, n < 32 → State.reset.hr (0x2000 + 8 * n) = 0) ∧ State.reset.diesOf 0 = [0, 1, 2, 3] ∧
  (∀ q, (State.reset.queue q).enabled = false ∧ (State.reset.queue q).state = .off ∧ (State.reset.queue q).widx = 0 ∧
    (State.reset.queue q).ridx = 0) ∧ State.reset.power = .on ∧ State.reset.debug = 0 ∧ State.reset.threads = []

/-! ### What instructions leave as it was -/

/-- The register instructions write their destination, in the lanes of EM, CC where the CC bit asks for it, and, the
floating-point ones, the flags of FPM; every other register, all memory and all other state stay, also where the
instruction traps or waits: then the state is as taking the trap leaves it, or as it was. -/
def Obligations.RegisterInstructionsChangeNothingElse : Prop :=
  ∀ (s s' : State) (f : Std) (i : Instr) (n : Nat) (cc fp : Bool),
    ((n = regsOf (tyBits f.xty f.ty) ∧ cc = f.xt.getLsbD 0 ∧ fp = false ∧ i ∈ [Instr.iadd f, .isub f, .imul f, .imulh f,
        .iadds f, .imin f, .imax f, .idiv f, .irem f, .and f, .or f, .xor f, .andn f, .shl f, .shr f, .sar f, .rot f,
        .iabs f, .ineg f, .popc f, .clz f, .brev f, .imad f, .bfx f, .bfi f]) ∨
      (n = regsOf (2 * tyBits f.xty f.ty) ∧ cc = f.xt.getLsbD 0 ∧ fp = false ∧ i = .imadw f) ∨
      (n = regsOf (tyBits f.xty f.ty) ∧ cc = false ∧ fp = false ∧ i ∈ [Instr.sel f, .mov f]) ∨
      (n = 1 ∧ cc = false ∧ fp = true ∧ i ∈ [Instr.fadd f, .fsub f, .fmul f, .ffma f, .ffms f, .fmin f, .fmax f, .fminm f,
        .fmaxm f, .fdiv f, .fsqrt f, .frcp f, .frsq f, .fexp2 f, .flog2 f, .frnd f, .fclass f, .fgetx f, .fscale f,
        .fsgn f, .hadd2 f, .hmul2 f, .hmin2 f, .hmax2 f, .hfma2 f, .fdp2 f, .fdp4 f, .cvt f, .cvtt f, .cvtf f, .pack f,
        .unpack f, .bfpk f, .mxpk f, .bfun f, .mxun f]) ∨
      (n = regsOf (tyBits f.xty f.ty) ∧ cc = false ∧ fp = true ∧ i = .cvti f)) →
    exec i s = .next s' → s.OnlyThread s' fun t t' => ∃ u : Thread, t' = u.advance ∧ t.SameBut u f.dst.toNat n ∧
      (cc = false → u.regs.cc = t.regs.cc) ∧ (fp = false → u.regs.fpm = t.regs.fpm) ∧
      u.regs.fpm &&& ~~~(0x1F00 : W32) = t.regs.fpm &&& ~~~(0x1F00 : W32)

/-- A store of a group leaves every byte of physical memory outside the bytes that it stores to as it was, whatever its
outcome: ST and STNT at each active lane's address, STU at lane 0's. The ash pan, where a halted group's record goes, is
left out. -/
def Obligations.StoresTouchNoOtherByte : Prop :=
  ∀ (s s' : State) (t : Thread) (f : Mem) (i : Instr) (once : Bool) (lanes : List Nat), s.At t → t.side ≠ .cellar →
    ((i ∈ [Instr.st f, .stnt f] ∧ once = false ∧ lanes = t.active) ∨ (i = .stu f ∧ once = true ∧ lanes = [0])) →
    exec i s = .next s' → ∀ a,
    (∀ k p, k < 2 ^ s.ashLog → p = inPkg (s.forwarded (fld (s.hr 0x4C0).toNat 12 48 * 4096 + 64 * k)) →
      a < p ∨ p + 64 ≤ a) →
    (∀ ps, s.resolveAll t .store (tyBits f.xty f.ty / 8) once (lanes.map fun k => (k, t.memAddr f k)) = .ok ps →
      ∀ p ∈ ps, ∀ pa, p.2.2 = .phys pa → a < pa ∨ pa + tyBits f.xty f.ty / 8 ≤ a) →
    s'.mem.get a = s.mem.get a
end

