-- ==== Sys2Proof/Laws/Encoding.lean ====
section
/-!
SUPPORT. What reading a slot's fields gives of a slot that was written: the lemmas that the round trip rests on.
-/

namespace Sys2Proof

/-- A field that lies in the low part of two joined words. -/
theorem bits_append_low {a b lo n : Nat} (x : BitVec a) (y : BitVec b) (h : lo + n ≤ b) :
    (x ++ y).extractLsb' lo n = y.extractLsb' lo n := by
  apply BitVec.eq_of_getLsbD_eq
  intro i hi
  simp only [BitVec.getLsbD_extractLsb', BitVec.getLsbD_append, hi, decide_true, Bool.true_and]
  rw [if_pos (by omega)]

/-- A field that lies in the high part of two joined words. -/
theorem bits_append_high {a b lo n : Nat} (x : BitVec a) (y : BitVec b) (h : b ≤ lo) :
    (x ++ y).extractLsb' lo n = x.extractLsb' (lo - b) n := by
  apply BitVec.eq_of_getLsbD_eq
  intro i hi
  simp only [BitVec.getLsbD_extractLsb', BitVec.getLsbD_append, hi, decide_true, Bool.true_and]
  rw [if_neg (by omega)]
  congr 1
  omega

/-- A field that is the whole word. -/
theorem bits_full {n : Nat} (x : BitVec n) : x.extractLsb' 0 n = x := by
  apply BitVec.eq_of_getLsbD_eq
  intro i hi
  simp [hi]

theorem Opnd.ofBits_toBits (o : Opnd) : Opnd.ofBits o.toBits = o := by
  simp only [Opnd.ofBits, Opnd.toBits, fieldOf]
  simp (disch := omega) only [bits_append_low, bits_append_high, bits_full, Nat.reduceSub, Nat.sub_self]

theorem Std.ofSlot_toSlot (f : Std) (o : BitVec 8) : Std.ofSlot (f.toSlot o) = f := by
  simp only [Std.ofSlot, Std.toSlot, fieldOf]
  simp (disch := omega) only [bits_append_low, bits_append_high, bits_full, Nat.reduceSub, Nat.sub_self,
    Opnd.ofBits_toBits]

theorem Std.opcOf_toSlot (f : Std) (o : BitVec 8) : opcOf (f.toSlot o) = o := by
  simp only [opcOf, Std.toSlot, fieldOf]
  simp (disch := omega) only [bits_append_high, bits_full, Nat.reduceSub, Nat.sub_self]

theorem I32.ofSlot_toSlot (f : I32) (o : BitVec 8) : I32.ofSlot (f.toSlot o) = f := by
  simp only [I32.ofSlot, I32.toSlot, fieldOf]
  simp (disch := omega) only [bits_append_low, bits_append_high, bits_full, Nat.reduceSub, Nat.sub_self,
    Opnd.ofBits_toBits]

theorem I32.opcOf_toSlot (f : I32) (o : BitVec 8) : opcOf (f.toSlot o) = o := by
  simp only [opcOf, I32.toSlot, fieldOf]
  simp (disch := omega) only [bits_append_high, bits_full, Nat.reduceSub, Nat.sub_self]

theorem Mem.ofSlot_toSlot (f : Mem) (o : BitVec 8) : Mem.ofSlot (f.toSlot o) = f := by
  simp only [Mem.ofSlot, Mem.toSlot, fieldOf]
  simp (disch := omega) only [bits_append_low, bits_append_high, bits_full, Nat.reduceSub, Nat.sub_self,
    Opnd.ofBits_toBits]

theorem Mem.opcOf_toSlot (f : Mem) (o : BitVec 8) : opcOf (f.toSlot o) = o := by
  simp only [opcOf, Mem.toSlot, fieldOf]
  simp (disch := omega) only [bits_append_high, bits_full, Nat.reduceSub, Nat.sub_self]

theorem Br.ofSlot_toSlot (f : Br) (o : BitVec 8) : Br.ofSlot (f.toSlot o) = f := by
  simp only [Br.ofSlot, Br.toSlot, fieldOf]
  simp (disch := omega) only [bits_append_low, bits_append_high, bits_full, Nat.reduceSub, Nat.sub_self]

theorem Br.opcOf_toSlot (f : Br) (o : BitVec 8) : opcOf (f.toSlot o) = o := by
  simp only [opcOf, Br.toSlot, fieldOf]
  simp (disch := omega) only [bits_append_high, bits_full, Nat.reduceSub, Nat.sub_self]

theorem Eng.ofSlot_toSlot (f : Eng) (o : BitVec 8) : Eng.ofSlot (f.toSlot o) = f := by
  simp only [Eng.ofSlot, Eng.toSlot, fieldOf]
  simp (disch := omega) only [bits_append_low, bits_append_high, bits_full, Nat.reduceSub, Nat.sub_self,
    Opnd.ofBits_toBits]

theorem Eng.opcOf_toSlot (f : Eng) (o : BitVec 8) : opcOf (f.toSlot o) = o := by
  simp only [opcOf, Eng.toSlot, fieldOf]
  simp (disch := omega) only [bits_append_high, bits_full, Nat.reduceSub, Nat.sub_self]

theorem Scl.ofSlot_toSlot (f : Scl) (o : BitVec 8) : Scl.ofSlot (f.toSlot o) = f := by
  simp only [Scl.ofSlot, Scl.toSlot, fieldOf]
  simp (disch := omega) only [bits_append_low, bits_append_high, bits_full, Nat.reduceSub, Nat.sub_self]

theorem Scl.opcOf_toSlot (f : Scl) (o : BitVec 8) : opcOf (f.toSlot o) = o := by
  simp only [opcOf, Scl.toSlot, fieldOf]
  simp (disch := omega) only [bits_append_high, bits_full, Nat.reduceSub, Nat.sub_self]

/-- A well-formed instruction's OP is one of its shape's. -/
theorem op_of_fieldsOk {s : Side} {i : Instr} {f : Fields} (hf : fieldsOf i = some f) (h : i.fieldsOk s = true) :
    f.op ∈ (shapeOf i).ops := by
  simp only [Instr.fieldsOk, instrRsvOk, hf, Option.all_some, rsvOk, Bool.and_eq_true] at h
  simpa using h.2.1.1.1.1.1.1.1.1.1.1

/-- A well-formed instruction's XT is one that its shape allows. -/
theorem xt_of_fieldsOk {s : Side} {i : Instr} {f : Fields} (hf : fieldsOf i = some f) (h : i.fieldsOk s = true) :
    (shapeOf i).xt f.xt = true := by
  simp only [Instr.fieldsOk, instrRsvOk, hf, Option.all_some, rsvOk, Bool.and_eq_true] at h
  exact h.2.1.1.1.2

/-- A bit of XT as a digit of its number. -/
theorem getLsbD_xt (x : BitVec 12) (k : Nat) : x.getLsbD k = decide (x.toNat / 2 ^ k % 2 = 1) := by
  simp [BitVec.getLsbD, Nat.testBit_eq_decide_div_mod_eq]

end Sys2Proof
end

