-- ==== Sys2Proof/Laws/PerInstr.lean ====
section
/-!
SUPPORT. One lemma per instruction: the words that the encoder writes name the instruction again. An event has no words.
-/

namespace Sys2Proof.Laws.RoundTrip

/-- The opcode and the fields that an encoded instruction shows are its own (R108 to R114, R123). -/
def Statement (i : Instr) : Prop := ∀ s x, encode i = some x → i.fieldsOk s = true → identify x = some i

theorem of_event {i : Instr} (h : encode i = none) : Statement i := by
  intro s x hx
  rw [h] at hx
  cases hx

theorem nop (f : Std) : Statement (.nop f) := by
  intro s x h _
  cases Option.some.inj h
  simp [identify, Std.opcOf_toSlot, identify0, Std.ofSlot_toSlot]

theorem br (f : Br) : Statement (.br f) := by
  intro s x h _
  cases Option.some.inj h
  simp [identify, Br.opcOf_toSlot, identify0, Br.ofSlot_toSlot]

theorem brc (f : Br) : Statement (.brc f) := by
  intro s x h _
  cases Option.some.inj h
  simp [identify, Br.opcOf_toSlot, identify0, Br.ofSlot_toSlot]

theorem brm (f : Br) : Statement (.brm f) := by
  intro s x h k
  cases Option.some.inj h
  have e := op_of_fieldsOk rfl k
  simp [shapeOf, Br.fields] at e
  simp [identify, Br.opcOf_toSlot, identify0, Br.ofSlot_toSlot, BitVec.toNat_eq, e]

theorem brmEm (f : Br) : Statement (.brmEm f) := by
  intro s x h k
  cases Option.some.inj h
  have e := op_of_fieldsOk rfl k
  simp [shapeOf, Br.fields] at e
  simp [identify, Br.opcOf_toSlot, identify0, Br.ofSlot_toSlot, BitVec.toNat_eq, e]

theorem call (f : Br) : Statement (.call f) := by
  intro s x h _
  cases Option.some.inj h
  simp [identify, Br.opcOf_toSlot, identify0, Br.ofSlot_toSlot]

theorem ret (f : Std) : Statement (.ret f) := by
  intro s x h _
  cases Option.some.inj h
  simp [identify, Std.opcOf_toSlot, identify0, Std.ofSlot_toSlot]

theorem loop (f : Br) : Statement (.loop f) := by
  intro s x h _
  cases Option.some.inj h
  simp [identify, Br.opcOf_toSlot, identify0, Br.ofSlot_toSlot]

theorem exit (f : Std) : Statement (.exit f) := by
  intro s x h _
  cases Option.some.inj h
  simp [identify, Std.opcOf_toSlot, identify0, Std.ofSlot_toSlot]

theorem yield (f : Std) : Statement (.yield f) := by
  intro s x h _
  cases Option.some.inj h
  simp [identify, Std.opcOf_toSlot, identify0, Std.ofSlot_toSlot]

theorem trap (f : Std) : Statement (.trap f) := by
  intro s x h _
  cases Option.some.inj h
  simp [identify, Std.opcOf_toSlot, identify0, Std.ofSlot_toSlot]

theorem svc (f : Std) : Statement (.svc f) := by
  intro s x h _
  cases Option.some.inj h
  simp [identify, Std.opcOf_toSlot, identify0, Std.ofSlot_toSlot]

theorem sret (f : Std) : Statement (.sret f) := by
  intro s x h _
  cases Option.some.inj h
  simp [identify, Std.opcOf_toSlot, identify0, Std.ofSlot_toSlot]

theorem rdsr (f : Std) : Statement (.rdsr f) := by
  intro s x h _
  cases Option.some.inj h
  simp [identify, Std.opcOf_toSlot, identify0, Std.ofSlot_toSlot]

theorem wrsr (f : Std) : Statement (.wrsr f) := by
  intro s x h _
  cases Option.some.inj h
  simp [identify, Std.opcOf_toSlot, identify0, Std.ofSlot_toSlot]

theorem launch (f : Eng) : Statement (.launch f) := by
  intro s x h _
  cases Option.some.inj h
  simp [identify, Eng.opcOf_toSlot, identify0, Eng.ofSlot_toSlot]

theorem allocFull (f : Std) : Statement (.allocFull f) := by
  intro s x h k
  cases Option.some.inj h
  have e := op_of_fieldsOk rfl k
  simp [shapeOf, Std.fields] at e
  simp [identify, Std.opcOf_toSlot, identify0, Std.ofSlot_toSlot, BitVec.toNat_eq, e]

theorem allocRext (f : Std) : Statement (.allocRext f) := by
  intro s x h k
  cases Option.some.inj h
  have e := op_of_fieldsOk rfl k
  simp [shapeOf, Std.fields] at e
  simp [identify, Std.opcOf_toSlot, identify0, Std.ofSlot_toSlot, BitVec.toNat_eq, e]

theorem allocRrel (f : Std) : Statement (.allocRrel f) := by
  intro s x h k
  cases Option.some.inj h
  have e := op_of_fieldsOk rfl k
  simp [shapeOf, Std.fields] at e
  simp [identify, Std.opcOf_toSlot, identify0, Std.ofSlot_toSlot, BitVec.toNat_eq, e]

theorem iadd (f : Std) : Statement (.iadd f) := by
  intro s x h _
  cases Option.some.inj h
  simp [identify, Std.opcOf_toSlot, identify1, Std.ofSlot_toSlot]

theorem isub (f : Std) : Statement (.isub f) := by
  intro s x h _
  cases Option.some.inj h
  simp [identify, Std.opcOf_toSlot, identify1, Std.ofSlot_toSlot]

theorem imul (f : Std) : Statement (.imul f) := by
  intro s x h _
  cases Option.some.inj h
  simp [identify, Std.opcOf_toSlot, identify1, Std.ofSlot_toSlot]

theorem imulh (f : Std) : Statement (.imulh f) := by
  intro s x h _
  cases Option.some.inj h
  simp [identify, Std.opcOf_toSlot, identify1, Std.ofSlot_toSlot]

theorem imad (f : Std) : Statement (.imad f) := by
  intro s x h _
  cases Option.some.inj h
  simp [identify, Std.opcOf_toSlot, identify1, Std.ofSlot_toSlot]

theorem imadw (f : Std) : Statement (.imadw f) := by
  intro s x h _
  cases Option.some.inj h
  simp [identify, Std.opcOf_toSlot, identify1, Std.ofSlot_toSlot]

theorem idiv (f : Std) : Statement (.idiv f) := by
  intro s x h _
  cases Option.some.inj h
  simp [identify, Std.opcOf_toSlot, identify1, Std.ofSlot_toSlot]

theorem irem (f : Std) : Statement (.irem f) := by
  intro s x h _
  cases Option.some.inj h
  simp [identify, Std.opcOf_toSlot, identify1, Std.ofSlot_toSlot]

theorem imin (f : Std) : Statement (.imin f) := by
  intro s x h _
  cases Option.some.inj h
  simp [identify, Std.opcOf_toSlot, identify1, Std.ofSlot_toSlot]

theorem imax (f : Std) : Statement (.imax f) := by
  intro s x h _
  cases Option.some.inj h
  simp [identify, Std.opcOf_toSlot, identify1, Std.ofSlot_toSlot]

theorem iabs (f : Std) : Statement (.iabs f) := by
  intro s x h _
  cases Option.some.inj h
  simp [identify, Std.opcOf_toSlot, identify1, Std.ofSlot_toSlot]

theorem ineg (f : Std) : Statement (.ineg f) := by
  intro s x h _
  cases Option.some.inj h
  simp [identify, Std.opcOf_toSlot, identify1, Std.ofSlot_toSlot]

theorem and (f : Std) : Statement (.and f) := by
  intro s x h _
  cases Option.some.inj h
  simp [identify, Std.opcOf_toSlot, identify1, Std.ofSlot_toSlot]

theorem or (f : Std) : Statement (.or f) := by
  intro s x h _
  cases Option.some.inj h
  simp [identify, Std.opcOf_toSlot, identify1, Std.ofSlot_toSlot]

theorem xor (f : Std) : Statement (.xor f) := by
  intro s x h _
  cases Option.some.inj h
  simp [identify, Std.opcOf_toSlot, identify1, Std.ofSlot_toSlot]

theorem andn (f : Std) : Statement (.andn f) := by
  intro s x h _
  cases Option.some.inj h
  simp [identify, Std.opcOf_toSlot, identify1, Std.ofSlot_toSlot]

theorem shl (f : Std) : Statement (.shl f) := by
  intro s x h _
  cases Option.some.inj h
  simp [identify, Std.opcOf_toSlot, identify2, Std.ofSlot_toSlot]

theorem shr (f : Std) : Statement (.shr f) := by
  intro s x h _
  cases Option.some.inj h
  simp [identify, Std.opcOf_toSlot, identify2, Std.ofSlot_toSlot]

theorem sar (f : Std) : Statement (.sar f) := by
  intro s x h _
  cases Option.some.inj h
  simp [identify, Std.opcOf_toSlot, identify2, Std.ofSlot_toSlot]

theorem rot (f : Std) : Statement (.rot f) := by
  intro s x h _
  cases Option.some.inj h
  simp [identify, Std.opcOf_toSlot, identify2, Std.ofSlot_toSlot]

theorem popc (f : Std) : Statement (.popc f) := by
  intro s x h _
  cases Option.some.inj h
  simp [identify, Std.opcOf_toSlot, identify2, Std.ofSlot_toSlot]

theorem clz (f : Std) : Statement (.clz f) := by
  intro s x h _
  cases Option.some.inj h
  simp [identify, Std.opcOf_toSlot, identify2, Std.ofSlot_toSlot]

theorem brev (f : Std) : Statement (.brev f) := by
  intro s x h _
  cases Option.some.inj h
  simp [identify, Std.opcOf_toSlot, identify2, Std.ofSlot_toSlot]

theorem bfx (f : Std) : Statement (.bfx f) := by
  intro s x h _
  cases Option.some.inj h
  simp [identify, Std.opcOf_toSlot, identify2, Std.ofSlot_toSlot]

theorem bfi (f : Std) : Statement (.bfi f) := by
  intro s x h _
  cases Option.some.inj h
  simp [identify, Std.opcOf_toSlot, identify2, Std.ofSlot_toSlot]

theorem icmp (f : Std) : Statement (.icmp f) := by
  intro s x h _
  cases Option.some.inj h
  simp [identify, Std.opcOf_toSlot, identify2, Std.ofSlot_toSlot]

theorem sel (f : Std) : Statement (.sel f) := by
  intro s x h _
  cases Option.some.inj h
  simp [identify, Std.opcOf_toSlot, identify2, Std.ofSlot_toSlot]

theorem mov (f : Std) : Statement (.mov f) := by
  intro s x h _
  cases Option.some.inj h
  simp [identify, Std.opcOf_toSlot, identify2, Std.ofSlot_toSlot]

theorem movi (f : I32) : Statement (.movi f) := by
  intro s x h _
  cases Option.some.inj h
  simp [identify, I32.opcOf_toSlot, identify2, I32.ofSlot_toSlot]

theorem lea (f : Mem) : Statement (.lea f) := by
  intro s x h _
  cases Option.some.inj h
  simp [identify, Mem.opcOf_toSlot, identify2, Mem.ofSlot_toSlot]

theorem widx (f : Std) : Statement (.widx f) := by
  intro s x h _
  cases Option.some.inj h
  simp [identify, Std.opcOf_toSlot, identify2, Std.ofSlot_toSlot]

theorem iadds (f : Std) : Statement (.iadds f) := by
  intro s x h _
  cases Option.some.inj h
  simp [identify, Std.opcOf_toSlot, identify2, Std.ofSlot_toSlot]

theorem mset (f : Std) : Statement (.mset f) := by
  intro s x h _
  cases Option.some.inj h
  simp [identify, Std.opcOf_toSlot, identify3, Std.ofSlot_toSlot]

theorem mlog (f : Std) : Statement (.mlog f) := by
  intro s x h _
  cases Option.some.inj h
  simp [identify, Std.opcOf_toSlot, identify3, Std.ofSlot_toSlot]

theorem mif (f : Std) : Statement (.mif f) := by
  intro s x h _
  cases Option.some.inj h
  simp [identify, Std.opcOf_toSlot, identify3, Std.ofSlot_toSlot]

theorem melse (f : Std) : Statement (.melse f) := by
  intro s x h _
  cases Option.some.inj h
  simp [identify, Std.opcOf_toSlot, identify3, Std.ofSlot_toSlot]

theorem mend (f : Std) : Statement (.mend f) := by
  intro s x h _
  cases Option.some.inj h
  simp [identify, Std.opcOf_toSlot, identify3, Std.ofSlot_toSlot]

theorem msave (f : Std) : Statement (.msave f) := by
  intro s x h _
  cases Option.some.inj h
  simp [identify, Std.opcOf_toSlot, identify3, Std.ofSlot_toSlot]

theorem mload (f : Std) : Statement (.mload f) := by
  intro s x h _
  cases Option.some.inj h
  simp [identify, Std.opcOf_toSlot, identify3, Std.ofSlot_toSlot]

theorem mstat (f : Std) : Statement (.mstat f) := by
  intro s x h _
  cases Option.some.inj h
  simp [identify, Std.opcOf_toSlot, identify3, Std.ofSlot_toSlot]

theorem mpopc (f : Std) : Statement (.mpopc f) := by
  intro s x h _
  cases Option.some.inj h
  simp [identify, Std.opcOf_toSlot, identify3, Std.ofSlot_toSlot]

theorem mfirst (f : Std) : Statement (.mfirst f) := by
  intro s x h _
  cases Option.some.inj h
  simp [identify, Std.opcOf_toSlot, identify3, Std.ofSlot_toSlot]

theorem ballot (f : Std) : Statement (.ballot f) := by
  intro s x h _
  cases Option.some.inj h
  simp [identify, Std.opcOf_toSlot, identify3, Std.ofSlot_toSlot]

theorem bcnt (f : Std) : Statement (.bcnt f) := by
  intro s x h _
  cases Option.some.inj h
  simp [identify, Std.opcOf_toSlot, identify3, Std.ofSlot_toSlot]

theorem rsel (f : Std) : Statement (.rsel f) := by
  intro s x h k
  cases Option.some.inj h
  have e := op_of_fieldsOk rfl k
  simp [shapeOf, Std.fields] at e
  simp [identify, Std.opcOf_toSlot, identify3, Std.ofSlot_toSlot, BitVec.toNat_eq, e]

theorem rselTie (f : Std) : Statement (.rselTie f) := by
  intro s x h k
  cases Option.some.inj h
  have e := op_of_fieldsOk rfl k
  simp [shapeOf, Std.fields] at e
  simp [identify, Std.opcOf_toSlot, identify3, Std.ofSlot_toSlot, BitVec.toNat_eq, e]

theorem vshfl (f : Std) : Statement (.vshfl f) := by
  intro s x h _
  cases Option.some.inj h
  simp [identify, Std.opcOf_toSlot, identify3, Std.ofSlot_toSlot]

theorem vred (f : Std) : Statement (.vred f) := by
  intro s x h _
  cases Option.some.inj h
  simp [identify, Std.opcOf_toSlot, identify3, Std.ofSlot_toSlot]

theorem vscan (f : Std) : Statement (.vscan f) := by
  intro s x h _
  cases Option.some.inj h
  simp [identify, Std.opcOf_toSlot, identify3, Std.ofSlot_toSlot]

theorem fadd (f : Std) : Statement (.fadd f) := by
  intro s x h _
  cases Option.some.inj h
  simp [identify, Std.opcOf_toSlot, identify4, Std.ofSlot_toSlot]

theorem fsub (f : Std) : Statement (.fsub f) := by
  intro s x h _
  cases Option.some.inj h
  simp [identify, Std.opcOf_toSlot, identify4, Std.ofSlot_toSlot]

theorem fmul (f : Std) : Statement (.fmul f) := by
  intro s x h _
  cases Option.some.inj h
  simp [identify, Std.opcOf_toSlot, identify4, Std.ofSlot_toSlot]

theorem ffma (f : Std) : Statement (.ffma f) := by
  intro s x h _
  cases Option.some.inj h
  simp [identify, Std.opcOf_toSlot, identify4, Std.ofSlot_toSlot]

theorem ffms (f : Std) : Statement (.ffms f) := by
  intro s x h _
  cases Option.some.inj h
  simp [identify, Std.opcOf_toSlot, identify4, Std.ofSlot_toSlot]

theorem fmin (f : Std) : Statement (.fmin f) := by
  intro s x h _
  cases Option.some.inj h
  simp [identify, Std.opcOf_toSlot, identify4, Std.ofSlot_toSlot]

theorem fmax (f : Std) : Statement (.fmax f) := by
  intro s x h _
  cases Option.some.inj h
  simp [identify, Std.opcOf_toSlot, identify4, Std.ofSlot_toSlot]

theorem fminm (f : Std) : Statement (.fminm f) := by
  intro s x h _
  cases Option.some.inj h
  simp [identify, Std.opcOf_toSlot, identify4, Std.ofSlot_toSlot]

theorem fmaxm (f : Std) : Statement (.fmaxm f) := by
  intro s x h _
  cases Option.some.inj h
  simp [identify, Std.opcOf_toSlot, identify4, Std.ofSlot_toSlot]

theorem fsgn (f : Std) : Statement (.fsgn f) := by
  intro s x h _
  cases Option.some.inj h
  simp [identify, Std.opcOf_toSlot, identify4, Std.ofSlot_toSlot]

theorem fcmp (f : Std) : Statement (.fcmp f) := by
  intro s x h _
  cases Option.some.inj h
  simp [identify, Std.opcOf_toSlot, identify4, Std.ofSlot_toSlot]

theorem fclass (f : Std) : Statement (.fclass f) := by
  intro s x h _
  cases Option.some.inj h
  simp [identify, Std.opcOf_toSlot, identify4, Std.ofSlot_toSlot]

theorem fdiv (f : Std) : Statement (.fdiv f) := by
  intro s x h _
  cases Option.some.inj h
  simp [identify, Std.opcOf_toSlot, identify4, Std.ofSlot_toSlot]

theorem fsqrt (f : Std) : Statement (.fsqrt f) := by
  intro s x h _
  cases Option.some.inj h
  simp [identify, Std.opcOf_toSlot, identify4, Std.ofSlot_toSlot]

theorem frcp (f : Std) : Statement (.frcp f) := by
  intro s x h _
  cases Option.some.inj h
  simp [identify, Std.opcOf_toSlot, identify4, Std.ofSlot_toSlot]

theorem frsq (f : Std) : Statement (.frsq f) := by
  intro s x h _
  cases Option.some.inj h
  simp [identify, Std.opcOf_toSlot, identify4, Std.ofSlot_toSlot]

theorem fexp2 (f : Std) : Statement (.fexp2 f) := by
  intro s x h _
  cases Option.some.inj h
  simp [identify, Std.opcOf_toSlot, identify5, Std.ofSlot_toSlot]

theorem flog2 (f : Std) : Statement (.flog2 f) := by
  intro s x h _
  cases Option.some.inj h
  simp [identify, Std.opcOf_toSlot, identify5, Std.ofSlot_toSlot]

theorem frnd (f : Std) : Statement (.frnd f) := by
  intro s x h _
  cases Option.some.inj h
  simp [identify, Std.opcOf_toSlot, identify5, Std.ofSlot_toSlot]

theorem fscale (f : Std) : Statement (.fscale f) := by
  intro s x h _
  cases Option.some.inj h
  simp [identify, Std.opcOf_toSlot, identify5, Std.ofSlot_toSlot]

theorem fdot (f : Std) : Statement (.fdot f) := by
  intro s x h _
  cases Option.some.inj h
  simp [identify, Std.opcOf_toSlot, identify5, Std.ofSlot_toSlot]

theorem fdp2 (f : Std) : Statement (.fdp2 f) := by
  intro s x h _
  cases Option.some.inj h
  simp [identify, Std.opcOf_toSlot, identify5, Std.ofSlot_toSlot]

theorem fdp4 (f : Std) : Statement (.fdp4 f) := by
  intro s x h _
  cases Option.some.inj h
  simp [identify, Std.opcOf_toSlot, identify5, Std.ofSlot_toSlot]

theorem hadd2 (f : Std) : Statement (.hadd2 f) := by
  intro s x h _
  cases Option.some.inj h
  simp [identify, Std.opcOf_toSlot, identify5, Std.ofSlot_toSlot]

theorem hmul2 (f : Std) : Statement (.hmul2 f) := by
  intro s x h _
  cases Option.some.inj h
  simp [identify, Std.opcOf_toSlot, identify5, Std.ofSlot_toSlot]

theorem hfma2 (f : Std) : Statement (.hfma2 f) := by
  intro s x h _
  cases Option.some.inj h
  simp [identify, Std.opcOf_toSlot, identify5, Std.ofSlot_toSlot]

theorem hmin2 (f : Std) : Statement (.hmin2 f) := by
  intro s x h _
  cases Option.some.inj h
  simp [identify, Std.opcOf_toSlot, identify5, Std.ofSlot_toSlot]

theorem hmax2 (f : Std) : Statement (.hmax2 f) := by
  intro s x h _
  cases Option.some.inj h
  simp [identify, Std.opcOf_toSlot, identify5, Std.ofSlot_toSlot]

theorem fgetx (f : Std) : Statement (.fgetx f) := by
  intro s x h _
  cases Option.some.inj h
  simp [identify, Std.opcOf_toSlot, identify5, Std.ofSlot_toSlot]

theorem cvt (f : Std) : Statement (.cvt f) := by
  intro s x h _
  cases Option.some.inj h
  simp [identify, Std.opcOf_toSlot, identify6, Std.ofSlot_toSlot]

theorem cvti (f : Std) : Statement (.cvti f) := by
  intro s x h _
  cases Option.some.inj h
  simp [identify, Std.opcOf_toSlot, identify6, Std.ofSlot_toSlot]

theorem cvtf (f : Std) : Statement (.cvtf f) := by
  intro s x h _
  cases Option.some.inj h
  simp [identify, Std.opcOf_toSlot, identify6, Std.ofSlot_toSlot]

theorem cvtt (f : Std) : Statement (.cvtt f) := by
  intro s x h _
  cases Option.some.inj h
  simp [identify, Std.opcOf_toSlot, identify6, Std.ofSlot_toSlot]

theorem pack (f : Std) : Statement (.pack f) := by
  intro s x h _
  cases Option.some.inj h
  simp [identify, Std.opcOf_toSlot, identify6, Std.ofSlot_toSlot]

theorem unpack (f : Std) : Statement (.unpack f) := by
  intro s x h _
  cases Option.some.inj h
  simp [identify, Std.opcOf_toSlot, identify6, Std.ofSlot_toSlot]

theorem bfpk (f : Std) : Statement (.bfpk f) := by
  intro s x h _
  cases Option.some.inj h
  simp [identify, Std.opcOf_toSlot, identify6, Std.ofSlot_toSlot]

theorem bfun (f : Std) : Statement (.bfun f) := by
  intro s x h _
  cases Option.some.inj h
  simp [identify, Std.opcOf_toSlot, identify6, Std.ofSlot_toSlot]

theorem mxpk (f : Std) : Statement (.mxpk f) := by
  intro s x h _
  cases Option.some.inj h
  simp [identify, Std.opcOf_toSlot, identify6, Std.ofSlot_toSlot]

theorem mxun (f : Std) : Statement (.mxun f) := by
  intro s x h _
  cases Option.some.inj h
  simp [identify, Std.opcOf_toSlot, identify6, Std.ofSlot_toSlot]

theorem plane (f : Std) : Statement (.plane f) := by
  intro s x h _
  cases Option.some.inj h
  simp [identify, Std.opcOf_toSlot, identify6, Std.ofSlot_toSlot]

theorem unplane (f : Std) : Statement (.unplane f) := by
  intro s x h _
  cases Option.some.inj h
  simp [identify, Std.opcOf_toSlot, identify6, Std.ofSlot_toSlot]

theorem setfmt (f : Std) : Statement (.setfmt f) := by
  intro s x h _
  cases Option.some.inj h
  simp [identify, Std.opcOf_toSlot, identify6, Std.ofSlot_toSlot]

theorem getfmt (f : Std) : Statement (.getfmt f) := by
  intro s x h _
  cases Option.some.inj h
  simp [identify, Std.opcOf_toSlot, identify6, Std.ofSlot_toSlot]

theorem fstat (f : Std) : Statement (.fstat f) := by
  intro s x h _
  cases Option.some.inj h
  simp [identify, Std.opcOf_toSlot, identify6, Std.ofSlot_toSlot]

theorem setfpm (f : Std) : Statement (.setfpm f) := by
  intro s x h _
  cases Option.some.inj h
  simp [identify, Std.opcOf_toSlot, identify6, Std.ofSlot_toSlot]

theorem ld (f : Mem) : Statement (.ld f) := by
  intro s x h _
  cases Option.some.inj h
  simp [identify, Mem.opcOf_toSlot, identify7, Mem.ofSlot_toSlot]

theorem st (f : Mem) : Statement (.st f) := by
  intro s x h _
  cases Option.some.inj h
  simp [identify, Mem.opcOf_toSlot, identify7, Mem.ofSlot_toSlot]

theorem ldu (f : Mem) : Statement (.ldu f) := by
  intro s x h _
  cases Option.some.inj h
  simp [identify, Mem.opcOf_toSlot, identify7, Mem.ofSlot_toSlot]

theorem stu (f : Mem) : Statement (.stu f) := by
  intro s x h _
  cases Option.some.inj h
  simp [identify, Mem.opcOf_toSlot, identify7, Mem.ofSlot_toSlot]

theorem pref (f : Mem) : Statement (.pref f) := by
  intro s x h _
  cases Option.some.inj h
  simp [identify, Mem.opcOf_toSlot, identify7, Mem.ofSlot_toSlot]

theorem spagePin (f : Eng) : Statement (.spagePin f) := by
  intro s x h k
  cases Option.some.inj h
  have e := op_of_fieldsOk rfl k
  simp [shapeOf, Eng.fields] at e
  simp [identify, Eng.opcOf_toSlot, identify7, Eng.ofSlot_toSlot, BitVec.toNat_eq, e]

theorem spageUnpin (f : Eng) : Statement (.spageUnpin f) := by
  intro s x h k
  cases Option.some.inj h
  have e := op_of_fieldsOk rfl k
  simp [shapeOf, Eng.fields] at e
  simp [identify, Eng.opcOf_toSlot, identify7, Eng.ofSlot_toSlot, BitVec.toNat_eq, e]

theorem spageQuery (f : Eng) : Statement (.spageQuery f) := by
  intro s x h k
  cases Option.some.inj h
  have e := op_of_fieldsOk rfl k
  simp [shapeOf, Eng.fields] at e
  simp [identify, Eng.opcOf_toSlot, identify7, Eng.ofSlot_toSlot, BitVec.toNat_eq, e]

theorem ldnt (f : Mem) : Statement (.ldnt f) := by
  intro s x h _
  cases Option.some.inj h
  simp [identify, Mem.opcOf_toSlot, identify7, Mem.ofSlot_toSlot]

theorem stnt (f : Mem) : Statement (.stnt f) := by
  intro s x h _
  cases Option.some.inj h
  simp [identify, Mem.opcOf_toSlot, identify7, Mem.ofSlot_toSlot]

theorem cpy (f : Eng) : Statement (.cpy f) := by
  intro s x h _
  cases Option.some.inj h
  simp [identify, Eng.opcOf_toSlot, identify7, Eng.ofSlot_toSlot]

theorem cpy2d (f : Eng) : Statement (.cpy2d f) := by
  intro s x h _
  cases Option.some.inj h
  simp [identify, Eng.opcOf_toSlot, identify7, Eng.ofSlot_toSlot]

theorem cpypl (f : Eng) : Statement (.cpypl f) := by
  intro s x h _
  cases Option.some.inj h
  simp [identify, Eng.opcOf_toSlot, identify7, Eng.ofSlot_toSlot]

theorem cpeat (f : Eng) : Statement (.cpeat f) := by
  intro s x h _
  cases Option.some.inj h
  simp [identify, Eng.opcOf_toSlot, identify7, Eng.ofSlot_toSlot]

theorem cpack (f : Eng) : Statement (.cpack f) := by
  intro s x h _
  cases Option.some.inj h
  simp [identify, Eng.opcOf_toSlot, identify7, Eng.ofSlot_toSlot]

theorem psel (f : Eng) : Statement (.psel f) := by
  intro s x h _
  cases Option.some.inj h
  simp [identify, Eng.opcOf_toSlot, identify7, Eng.ofSlot_toSlot]

theorem cpfill (f : Eng) : Statement (.cpfill f) := by
  intro s x h _
  cases Option.some.inj h
  simp [identify, Eng.opcOf_toSlot, identify7, Eng.ofSlot_toSlot]

theorem eresume (f : Eng) : Statement (.eresume f) := by
  intro s x h k
  cases Option.some.inj h
  have e := xt_of_fieldsOk rfl k
  have p := getLsbD_xt f.xt 0
  simp [shapeOf, Eng.fields] at e
  simp [e] at p
  simp [identify, Eng.opcOf_toSlot, identify7, Eng.ofSlot_toSlot, p]

theorem eresumeAbort (f : Eng) : Statement (.eresumeAbort f) := by
  intro s x h k
  cases Option.some.inj h
  have e := xt_of_fieldsOk rfl k
  have p := getLsbD_xt f.xt 0
  simp [shapeOf, xEq, Eng.fields] at e
  simp [e] at p
  simp [identify, Eng.opcOf_toSlot, identify7, Eng.ofSlot_toSlot, p]

theorem binit (f : Eng) : Statement (.binit f) := by
  intro s x h _
  cases Option.some.inj h
  simp [identify, Eng.opcOf_toSlot, identify8, Eng.ofSlot_toSlot]

theorem barr (f : Eng) : Statement (.barr f) := by
  intro s x h _
  cases Option.some.inj h
  simp [identify, Eng.opcOf_toSlot, identify8, Eng.ofSlot_toSlot]

theorem bexp (f : Eng) : Statement (.bexp f) := by
  intro s x h _
  cases Option.some.inj h
  simp [identify, Eng.opcOf_toSlot, identify8, Eng.ofSlot_toSlot]

theorem waitph (f : Eng) : Statement (.waitph f) := by
  intro s x h _
  cases Option.some.inj h
  simp [identify, Eng.opcOf_toSlot, identify8, Eng.ofSlot_toSlot]

theorem testph (f : Eng) : Statement (.testph f) := by
  intro s x h _
  cases Option.some.inj h
  simp [identify, Eng.opcOf_toSlot, identify8, Eng.ofSlot_toSlot]

theorem gridbar (f : Std) : Statement (.gridbar f) := by
  intro s x h _
  cases Option.some.inj h
  simp [identify, Std.opcOf_toSlot, identify8, Std.ofSlot_toSlot]

theorem atom (f : Mem) : Statement (.atom f) := by
  intro s x h _
  cases Option.some.inj h
  simp [identify, Mem.opcOf_toSlot, identify8, Mem.ofSlot_toSlot]

theorem atomf (f : Mem) : Statement (.atomf f) := by
  intro s x h _
  cases Option.some.inj h
  simp [identify, Mem.opcOf_toSlot, identify8, Mem.ofSlot_toSlot]

theorem red (f : Mem) : Statement (.red f) := by
  intro s x h _
  cases Option.some.inj h
  simp [identify, Mem.opcOf_toSlot, identify8, Mem.ofSlot_toSlot]

theorem rednm (f : Mem) : Statement (.rednm f) := by
  intro s x h _
  cases Option.some.inj h
  simp [identify, Mem.opcOf_toSlot, identify8, Mem.ofSlot_toSlot]

theorem nmfence (f : Std) : Statement (.nmfence f) := by
  intro s x h _
  cases Option.some.inj h
  simp [identify, Std.opcOf_toSlot, identify8, Std.ofSlot_toSlot]

theorem dwacq (f : Eng) : Statement (.dwacq f) := by
  intro s x h _
  cases Option.some.inj h
  simp [identify, Eng.opcOf_toSlot, identify8, Eng.ofSlot_toSlot]

theorem dwrel (f : Eng) : Statement (.dwrel f) := by
  intro s x h _
  cases Option.some.inj h
  simp [identify, Eng.opcOf_toSlot, identify8, Eng.ofSlot_toSlot]

theorem atomw (f : Mem) : Statement (.atomw f) := by
  intro s x h _
  cases Option.some.inj h
  simp [identify, Mem.opcOf_toSlot, identify8, Mem.ofSlot_toSlot]

theorem atomq (f : Mem) : Statement (.atomq f) := by
  intro s x h _
  cases Option.some.inj h
  simp [identify, Mem.opcOf_toSlot, identify8, Mem.ofSlot_toSlot]

theorem fence (f : Std) : Statement (.fence f) := by
  intro s x h _
  cases Option.some.inj h
  simp [identify, Std.opcOf_toSlot, identify8, Std.ofSlot_toSlot]

theorem mma (f : Eng) : Statement (.mma f) := by
  intro s x h _
  cases Option.some.inj h
  simp [identify, Eng.opcOf_toSlot, identify9, Eng.ofSlot_toSlot]

theorem mmas (f : Eng) : Statement (.mmas f) := by
  intro s x h _
  cases Option.some.inj h
  simp [identify, Eng.opcOf_toSlot, identify9, Eng.ofSlot_toSlot]

theorem mzero (f : Eng) : Statement (.mzero f) := by
  intro s x h _
  cases Option.some.inj h
  simp [identify, Eng.opcOf_toSlot, identify9, Eng.ofSlot_toSlot]

theorem mldacc (f : Eng) : Statement (.mldacc f) := by
  intro s x h _
  cases Option.some.inj h
  simp [identify, Eng.opcOf_toSlot, identify9, Eng.ofSlot_toSlot]

theorem mstacc (f : Eng) : Statement (.mstacc f) := by
  intro s x h _
  cases Option.some.inj h
  simp [identify, Eng.opcOf_toSlot, identify9, Eng.ofSlot_toSlot]

theorem mscale (f : Eng) : Statement (.mscale f) := by
  intro s x h _
  cases Option.some.inj h
  simp [identify, Eng.opcOf_toSlot, identify9, Eng.ofSlot_toSlot]

theorem mqry (f : Eng) : Statement (.mqry f) := by
  intro s x h _
  cases Option.some.inj h
  simp [identify, Eng.opcOf_toSlot, identify9, Eng.ofSlot_toSlot]

theorem accrd (f : Eng) : Statement (.accrd f) := by
  intro s x h _
  cases Option.some.inj h
  simp [identify, Eng.opcOf_toSlot, identify9, Eng.ofSlot_toSlot]

theorem accwr (f : Eng) : Statement (.accwr f) := by
  intro s x h _
  cases Option.some.inj h
  simp [identify, Eng.opcOf_toSlot, identify9, Eng.ofSlot_toSlot]

theorem accacq (f : Eng) : Statement (.accacq f) := by
  intro s x h _
  cases Option.some.inj h
  simp [identify, Eng.opcOf_toSlot, identify9, Eng.ofSlot_toSlot]

theorem accrel (f : Eng) : Statement (.accrel f) := by
  intro s x h _
  cases Option.some.inj h
  simp [identify, Eng.opcOf_toSlot, identify9, Eng.ofSlot_toSlot]

theorem gath (f : Eng) : Statement (.gath f) := by
  intro s x h _
  cases Option.some.inj h
  simp [identify, Eng.opcOf_toSlot, identifyA, Eng.ofSlot_toSlot]

theorem gathp (f : Eng) : Statement (.gathp f) := by
  intro s x h _
  cases Option.some.inj h
  simp [identify, Eng.opcOf_toSlot, identifyA, Eng.ofSlot_toSlot]

theorem scata (f : Eng) : Statement (.scata f) := by
  intro s x h k
  cases Option.some.inj h
  have e := xt_of_fieldsOk rfl k
  have p := getLsbD_xt f.xt 1
  simp [shapeOf, xLt, Eng.fields] at e
  have q : f.xt.toNat / 2 = 0 := by omega
  simp [q] at p
  simp [identify, Eng.opcOf_toSlot, identifyA, Eng.ofSlot_toSlot, p]

theorem scataClose (f : Eng) : Statement (.scataClose f) := by
  intro s x h k
  cases Option.some.inj h
  have e := xt_of_fieldsOk rfl k
  have p := getLsbD_xt f.xt 1
  simp [shapeOf, xEq, Eng.fields] at e
  simp [e] at p
  simp [identify, Eng.opcOf_toSlot, identifyA, Eng.ofSlot_toSlot, p]

theorem gpref (f : Eng) : Statement (.gpref f) := by
  intro s x h _
  cases Option.some.inj h
  simp [identify, Eng.opcOf_toSlot, identifyA, Eng.ofSlot_toSlot]

theorem thdl (f : Eng) : Statement (.thdl f) := by
  intro s x h _
  cases Option.some.inj h
  simp [identify, Eng.opcOf_toSlot, identifyA, Eng.ofSlot_toSlot]

theorem gstat (f : Eng) : Statement (.gstat f) := by
  intro s x h _
  cases Option.some.inj h
  simp [identify, Eng.opcOf_toSlot, identifyA, Eng.ofSlot_toSlot]

theorem shcnt (f : Eng) : Statement (.shcnt f) := by
  intro s x h _
  cases Option.some.inj h
  simp [identify, Eng.opcOf_toSlot, identifyA, Eng.ofSlot_toSlot]

theorem dtree (f : Eng) : Statement (.dtree f) := by
  intro s x h _
  cases Option.some.inj h
  simp [identify, Eng.opcOf_toSlot, identifyA, Eng.ofSlot_toSlot]

theorem desc (f : Eng) : Statement (.desc f) := by
  intro s x h _
  cases Option.some.inj h
  simp [identify, Eng.opcOf_toSlot, identifyA, Eng.ofSlot_toSlot]

theorem dregr (f : Eng) : Statement (.dregr f) := by
  intro s x h _
  cases Option.some.inj h
  simp [identify, Eng.opcOf_toSlot, identifyA, Eng.ofSlot_toSlot]

theorem dgrad (f : Eng) : Statement (.dgrad f) := by
  intro s x h _
  cases Option.some.inj h
  simp [identify, Eng.opcOf_toSlot, identifyA, Eng.ofSlot_toSlot]

theorem dpathRead (f : Eng) : Statement (.dpathRead f) := by
  intro s x h k
  cases Option.some.inj h
  have e := op_of_fieldsOk rfl k
  simp [shapeOf, Eng.fields] at e
  simp [identify, Eng.opcOf_toSlot, identifyA, Eng.ofSlot_toSlot, BitVec.toNat_eq, e]

theorem dpathWrite (f : Eng) : Statement (.dpathWrite f) := by
  intro s x h k
  cases Option.some.inj h
  have e := op_of_fieldsOk rfl k
  simp [shapeOf, Eng.fields] at e
  simp [identify, Eng.opcOf_toSlot, identifyA, Eng.ofSlot_toSlot, BitVec.toNat_eq, e]

theorem dstat (f : Eng) : Statement (.dstat f) := by
  intro s x h _
  cases Option.some.inj h
  simp [identify, Eng.opcOf_toSlot, identifyA, Eng.ofSlot_toSlot]

theorem tql (f : Eng) : Statement (.tql f) := by
  intro s x h _
  cases Option.some.inj h
  simp [identify, Eng.opcOf_toSlot, identifyB, Eng.ofSlot_toSlot]

theorem tql2 (f : Eng) : Statement (.tql2 f) := by
  intro s x h _
  cases Option.some.inj h
  simp [identify, Eng.opcOf_toSlot, identifyB, Eng.ofSlot_toSlot]

theorem tqmul (f : Eng) : Statement (.tqmul f) := by
  intro s x h _
  cases Option.some.inj h
  simp [identify, Eng.opcOf_toSlot, identifyB, Eng.ofSlot_toSlot]

theorem tqcmt (f : Eng) : Statement (.tqcmt f) := by
  intro s x h _
  cases Option.some.inj h
  simp [identify, Eng.opcOf_toSlot, identifyB, Eng.ofSlot_toSlot]

theorem cqsub (f : Eng) : Statement (.cqsub f) := by
  intro s x h _
  cases Option.some.inj h
  simp [identify, Eng.opcOf_toSlot, identifyB, Eng.ofSlot_toSlot]

theorem cqstat (f : Eng) : Statement (.cqstat f) := by
  intro s x h _
  cases Option.some.inj h
  simp [identify, Eng.opcOf_toSlot, identifyB, Eng.ofSlot_toSlot]

theorem rjoin (f : Eng) : Statement (.rjoin f) := by
  intro s x h _
  cases Option.some.inj h
  simp [identify, Eng.opcOf_toSlot, identifyB, Eng.ofSlot_toSlot]

theorem rsend (f : Eng) : Statement (.rsend f) := by
  intro s x h _
  cases Option.some.inj h
  simp [identify, Eng.opcOf_toSlot, identifyB, Eng.ofSlot_toSlot]

theorem rclose (f : Eng) : Statement (.rclose f) := by
  intro s x h _
  cases Option.some.inj h
  simp [identify, Eng.opcOf_toSlot, identifyB, Eng.ofSlot_toSlot]

theorem rcnt (f : Eng) : Statement (.rcnt f) := by
  intro s x h _
  cases Option.some.inj h
  simp [identify, Eng.opcOf_toSlot, identifyB, Eng.ofSlot_toSlot]

theorem dmark (f : Eng) : Statement (.dmark f) := by
  intro s x h _
  cases Option.some.inj h
  simp [identify, Eng.opcOf_toSlot, identifyB, Eng.ofSlot_toSlot]

theorem wlset (f : Eng) : Statement (.wlset f) := by
  intro s x h _
  cases Option.some.inj h
  simp [identify, Eng.opcOf_toSlot, identifyB, Eng.ofSlot_toSlot]

theorem lstat (f : Eng) : Statement (.lstat f) := by
  intro s x h _
  cases Option.some.inj h
  simp [identify, Eng.opcOf_toSlot, identifyB, Eng.ofSlot_toSlot]

theorem salu (f : Scl) : Statement (.salu f) := by
  intro s x h _
  cases Option.some.inj h
  simp [identify, Scl.opcOf_toSlot, identifyC, Scl.ofSlot_toSlot]

theorem salui (f : Scl) : Statement (.salui f) := by
  intro s x h _
  cases Option.some.inj h
  simp [identify, Scl.opcOf_toSlot, identifyC, Scl.ofSlot_toSlot]

theorem scmp (f : Scl) : Statement (.scmp f) := by
  intro s x h _
  cases Option.some.inj h
  simp [identify, Scl.opcOf_toSlot, identifyC, Scl.ofSlot_toSlot]

theorem sli (f : Scl) : Statement (.sli f) := by
  intro s x h _
  cases Option.some.inj h
  simp [identify, Scl.opcOf_toSlot, identifyC, Scl.ofSlot_toSlot]

theorem sld (f : Scl) : Statement (.sld f) := by
  intro s x h _
  cases Option.some.inj h
  simp [identify, Scl.opcOf_toSlot, identifyC, Scl.ofSlot_toSlot]

theorem sst (f : Scl) : Statement (.sst f) := by
  intro s x h _
  cases Option.some.inj h
  simp [identify, Scl.opcOf_toSlot, identifyC, Scl.ofSlot_toSlot]

theorem srdsr (f : Scl) : Statement (.srdsr f) := by
  intro s x h _
  cases Option.some.inj h
  simp [identify, Scl.opcOf_toSlot, identifyC, Scl.ofSlot_toSlot]

theorem cldc (f : Eng) : Statement (.cldc f) := by
  intro s x h _
  cases Option.some.inj h
  simp [identify, Eng.opcOf_toSlot, identifyD, Eng.ofSlot_toSlot]

theorem cstc (f : Eng) : Statement (.cstc f) := by
  intro s x h _
  cases Option.some.inj h
  simp [identify, Eng.opcOf_toSlot, identifyD, Eng.ofSlot_toSlot]

theorem crow (f : Eng) : Statement (.crow f) := by
  intro s x h _
  cases Option.some.inj h
  simp [identify, Eng.opcOf_toSlot, identifyD, Eng.ofSlot_toSlot]

theorem cred (f : Eng) : Statement (.cred f) := by
  intro s x h _
  cases Option.some.inj h
  simp [identify, Eng.opcOf_toSlot, identifyD, Eng.ofSlot_toSlot]

theorem cend (f : Std) : Statement (.cend f) := by
  intro s x h _
  cases Option.some.inj h
  simp [identify, Std.opcOf_toSlot, identifyD, Std.ofSlot_toSlot]

theorem allocFullGrant (wg : Nat) : Statement (.allocFullGrant wg) := of_event rfl

theorem rextGrant (core : Nat) : Statement (.rextGrant core) := of_event rfl

theorem scratchpadPageRefill (wg page : Nat) : Statement (.scratchpadPageRefill wg page) := of_event rfl

theorem copyComplete (core ticket : Nat) : Statement (.copyComplete core ticket) := of_event rfl

theorem copySuspend (core ticket : Nat) : Statement (.copySuspend core ticket) := of_event rfl

theorem waitphWake (tid : Nat) : Statement (.waitphWake tid) := of_event rfl

theorem waitphTimeout (tid : Nat) : Statement (.waitphTimeout tid) := of_event rfl

theorem dwacqWake (tid : Nat) : Statement (.dwacqWake tid) := of_event rfl

theorem rednmApply (add : Nat) : Statement (.rednmApply add) := of_event rfl

theorem unitOpStart (core : Nat) : Statement (.unitOpStart core) := of_event rfl

theorem unitOpComplete (core : Nat) : Statement (.unitOpComplete core) := of_event rfl

theorem accTokenGrant (wg tile : Nat) : Statement (.accTokenGrant wg tile) := of_event rfl

theorem gatherRowService (work : Nat) : Statement (.gatherRowService work) := of_event rfl

theorem gatherComplete (core ticket : Nat) : Statement (.gatherComplete core ticket) := of_event rfl

theorem scatterAddApply (work : Nat) : Statement (.scatterAddApply work) := of_event rfl

theorem descComplete (core ticket : Nat) : Statement (.descComplete core ticket) := of_event rfl

theorem descSuspend (core ticket : Nat) : Statement (.descSuspend core ticket) := of_event rfl

theorem dgradComplete (core ticket : Nat) : Statement (.dgradComplete core ticket) := of_event rfl

theorem queryComplete (tid pid : Nat) : Statement (.queryComplete tid pid) := of_event rfl

theorem postedStoreDrain (tid : Nat) : Statement (.postedStoreDrain tid) := of_event rfl

theorem instanceStart (cunit : Nat) : Statement (.instanceStart cunit) := of_event rfl

theorem bankReservationExpiry (cunit : Nat) : Statement (.bankReservationExpiry cunit) := of_event rfl

theorem cellarCommandAged (cunit : Nat) : Statement (.cellarCommandAged cunit) := of_event rfl

theorem queueSlotGrant (slot : Nat) : Statement (.queueSlotGrant slot) := of_event rfl

theorem ageIntervalExpiry (q : Nat) : Statement (.ageIntervalExpiry q) := of_event rfl

theorem quantumExpiry (q : Nat) : Statement (.quantumExpiry q) := of_event rfl

theorem launchAdmission (src : EntrySrc) : Statement (.launchAdmission src) := of_event rfl

theorem waitEntry (src : EntrySrc) : Statement (.waitEntry src) := of_event rfl

theorem waitEntryPass (q : Nat) : Statement (.waitEntryPass q) := of_event rfl

theorem copyCommand (q : Nat) : Statement (.copyCommand q) := of_event rfl

theorem copyCommandComplete (cmd : Nat) : Statement (.copyCommandComplete cmd) := of_event rfl

theorem cellarTaskRead (src : EntrySrc) : Statement (.cellarTaskRead src) := of_event rfl

theorem workRequest (die cluster : Nat) : Statement (.workRequest die cluster) := of_event rfl

theorem workgroupDispatch (die : Nat) : Statement (.workgroupDispatch die) := of_event rfl

theorem damperExchange (part : Nat) : Statement (.damperExchange part) := of_event rfl

theorem splitChange (core : Nat) : Statement (.splitChange core) := of_event rfl

theorem workgroupRetire (wg : Nat) : Statement (.workgroupRetire wg) := of_event rfl

theorem launchComplete (launch : Nat) : Statement (.launchComplete launch) := of_event rfl

theorem pageWalkComplete (part page : Nat) : Statement (.pageWalkComplete part page) := of_event rfl

theorem lineFetch (tid : Nat) (away : BitVec 512) : Statement (.lineFetch tid away) := of_event rfl

theorem loadComplete (tid pid : Nat) : Statement (.loadComplete tid pid) := of_event rfl

theorem demotionStart (tier freeSpace : Nat) : Statement (.demotionStart tier freeSpace) := of_event rfl

theorem demotionPageMove (tier : Nat) (dest : Nat) : Statement (.demotionPageMove tier dest) := of_event rfl

theorem htlbiComplete (part : Nat) : Statement (.htlbiComplete part) := of_event rfl

theorem remoteFail (tid ck : Nat) (sub : Nat) (lanes : List Nat) :
    Statement (.remoteFail tid ck sub lanes) := of_event rfl

theorem preemptSaveComplete : Statement (.preemptSaveComplete) := of_event rfl

theorem atomicComplete (tid pid : Nat) : Statement (.atomicComplete tid pid) := of_event rfl

theorem rednmDrop (add : Nat) : Statement (.rednmDrop add) := of_event rfl

theorem gatherRequestReceive (req : GatherReq) : Statement (.gatherRequestReceive req) := of_event rfl

theorem gatherReply (rep : GatherRep) : Statement (.gatherReply rep) := of_event rfl

theorem gatherPositionTimeout (core ticket pkg die : Nat) :
    Statement (.gatherPositionTimeout core ticket pkg die) := of_event rfl

theorem scatterCloseArrive (msg : ScatClose) : Statement (.scatterCloseArrive msg) := of_event rfl

theorem routingRowArrive (msg : RowMsg) : Statement (.routingRowArrive msg) := of_event rfl

theorem roundCloseArrive (msg : RoundClose) : Statement (.roundCloseArrive msg) := of_event rfl

theorem queueEnable (q : Nat) : Statement (.queueEnable q) := of_event rfl

theorem queueDisable (q : Nat) : Statement (.queueDisable q) := of_event rfl

theorem qwidxWrite (q : Nat) (v : BitVec 64) : Statement (.qwidxWrite q v) := of_event rfl

theorem latchAcquire (n : Nat) (port : Port) : Statement (.latchAcquire n port) := of_event rfl

theorem latchRelease (n : Nat) (port : Port) : Statement (.latchRelease n port) := of_event rfl

theorem latchBreak (n : Nat) (port : Port) : Statement (.latchBreak n port) := of_event rfl

theorem latchInvalidCommand (n : Nat) (port : Port) (cmd : BitVec 8) :
    Statement (.latchInvalidCommand n port cmd) := of_event rfl

theorem hpartWrite (v : BitVec 64) : Statement (.hpartWrite v) := of_event rfl

theorem hptrWrite (part : Nat) (v : BitVec 64) : Statement (.hptrWrite part v) := of_event rfl

theorem hsbkWrite (part : Nat) (v : BitVec 64) : Statement (.hsbkWrite part v) := of_event rfl

theorem htlbiPage (part : Nat) (v : BitVec 64) : Statement (.htlbiPage part v) := of_event rfl

theorem htlbiAll (part : Nat) : Statement (.htlbiAll part) := of_event rfl

theorem hfwiWrite : Statement (.hfwiWrite) := of_event rfl

theorem hrekeyGo (peer : BitVec 17) : Statement (.hrekeyGo peer) := of_event rfl

theorem hpreGo (part slot : Nat) : Statement (.hpreGo part slot) := of_event rfl

theorem hpreResume (slot part : Nat) : Statement (.hpreResume slot part) := of_event rfl

theorem hkillGo (part : Nat) : Statement (.hkillGo part) := of_event rfl

theorem hcabtWrite (v : BitVec 64) : Statement (.hcabtWrite v) := of_event rfl

theorem hashrWrite (v : BitVec 64) : Statement (.hashrWrite v) := of_event rfl

theorem msixDeferredSend (port : Port) (vec : Nat) : Statement (.msixDeferredSend port vec) := of_event rfl

theorem powerOnRequest : Statement (.powerOnRequest) := of_event rfl

theorem powerIdleRequest : Statement (.powerIdleRequest) := of_event rfl

theorem powerHoldRequest : Statement (.powerHoldRequest) := of_event rfl

theorem hrcvGo (port : Port) (v : BitVec 64) : Statement (.hrcvGo port v) := of_event rfl

theorem recoveryCheckDone (verdict : BootCheck) : Statement (.recoveryCheckDone verdict) := of_event rfl

theorem registerWrite (off : Nat) (v : BitVec 64) (port : Port) :
    Statement (.registerWrite off v port) := of_event rfl

theorem hostMemoryAccess (acc : HostAcc) : Statement (.hostMemoryAccess acc) := of_event rfl

theorem accessCountDecay : Statement (.accessCountDecay) := of_event rfl

theorem ptsAdvance (core : Nat) : Statement (.ptsAdvance core) := of_event rfl

theorem remoteRequestServe (req : RemoteReq) : Statement (.remoteRequestServe req) := of_event rfl

theorem remoteReply (rep : RemoteRep) : Statement (.remoteReply rep) := of_event rfl

theorem relayForward (msg : RelayMsg) : Statement (.relayForward msg) := of_event rfl

theorem flitReceive (flit : Flit) : Statement (.flitReceive flit) := of_event rfl

theorem flitAck (lane : Nat) (seq : BitVec 32) : Statement (.flitAck lane seq) := of_event rfl

theorem rekeySeqTrigger (lane : Nat) : Statement (.rekeySeqTrigger lane) := of_event rfl

theorem keyBankSwitch (peer : BitVec 17) : Statement (.keyBankSwitch peer) := of_event rfl

theorem laneDrained (lane : Nat) : Statement (.laneDrained lane) := of_event rfl

theorem laneRelock (lane : Nat) (peer : BitVec 17) : Statement (.laneRelock lane peer) := of_event rfl

theorem relockTimeout (lane : Nat) : Statement (.relockTimeout lane) := of_event rfl

theorem dieLost (die : Nat) : Statement (.dieLost die) := of_event rfl

theorem pageinRequest (part : Nat) : Statement (.pageinRequest part) := of_event rfl

theorem pageinComplete (res : PageinRes) : Statement (.pageinComplete res) := of_event rfl

theorem thermtrip : Statement (.thermtrip) := of_event rfl

theorem powerLoss : Statement (.powerLoss) := of_event rfl

theorem deviceReset (boot : BootIn) : Statement (.deviceReset boot) := of_event rfl

theorem lifecycleRequest (req : LifeReq) : Statement (.lifecycleRequest req) := of_event rfl

theorem debugSessionEnter (req : DebugReq) : Statement (.debugSessionEnter req) := of_event rfl

theorem debugSessionEnd (port : Port) (meas : BitVec 384) : Statement (.debugSessionEnd port meas) := of_event rfl

theorem attestationRequest (port : Port) : Statement (.attestationRequest port) := of_event rfl

theorem signedUpdateRequest (port : Port) (verified : Bool × Bool) (image : List (BitVec 8)) :
    Statement (.signedUpdateRequest port verified image) := of_event rfl

theorem softError (err : SoftErr) : Statement (.softError err) := of_event rfl

theorem hostLinkDown (port : Port) (down : Bool) : Statement (.hostLinkDown port down) := of_event rfl

end Sys2Proof.Laws.RoundTrip
end

