-- ==== Sys2Proof/Laws/State.lean ====
section
/-!
SUPPORT. What each update of the state, of a thread and of its registers leaves in every field.
-/

namespace Sys2Proof.Machine

/-! ### The state -/

@[simp] theorem State.putThread_agenda (s : State) (id : Nat) (t : Thread) :
    (s.putThread id t).agenda = s.agenda := rfl
@[simp] theorem State.putThread_inLine (s : State) (id : Nat) (t : Thread) :
    (s.putThread id t).inLine = s.inLine := rfl
@[simp] theorem State.putThread_patience (s : State) (id : Nat) (t : Thread) :
    (s.putThread id t).patience = s.patience := rfl
@[simp] theorem State.putThread_cur (s : State) (id : Nat) (t : Thread) : (s.putThread id t).cur = s.cur := rfl
@[simp] theorem State.putThread_free (s : State) (id : Nat) (t : Thread) : (s.putThread id t).free = s.free := rfl
@[simp] theorem State.putThread_nextId (s : State) (id : Nat) (t : Thread) :
    (s.putThread id t).nextId = s.nextId := rfl
@[simp] theorem State.putThread_clock (s : State) (id : Nat) (t : Thread) : (s.putThread id t).clock = s.clock := rfl
@[simp] theorem State.putThread_time (s : State) (id : Nat) (t : Thread) : (s.putThread id t).time = s.time := rfl
@[simp] theorem State.putThread_pkg (s : State) (id : Nat) (t : Thread) : (s.putThread id t).pkg = s.pkg := rfl
@[simp] theorem State.putThread_mem (s : State) (id : Nat) (t : Thread) : (s.putThread id t).mem = s.mem := rfl
@[simp] theorem State.putThread_poison (s : State) (id : Nat) (t : Thread) :
    (s.putThread id t).poison = s.poison := rfl
@[simp] theorem State.putThread_lpGib (s : State) (id : Nat) (t : Thread) : (s.putThread id t).lpGib = s.lpGib := rfl
@[simp] theorem State.putThread_poolOn (s : State) (id : Nat) (t : Thread) :
    (s.putThread id t).poolOn = s.poolOn := rfl
@[simp] theorem State.putThread_hostOn (s : State) (id : Nat) (t : Thread) :
    (s.putThread id t).hostOn = s.hostOn := rfl
@[simp] theorem State.putThread_lts (s : State) (id : Nat) (t : Thread) : (s.putThread id t).lts = s.lts := rfl
@[simp] theorem State.putThread_tlb (s : State) (id : Nat) (t : Thread) : (s.putThread id t).tlb = s.tlb := rfl
@[simp] theorem State.putThread_walks (s : State) (id : Nat) (t : Thread) : (s.putThread id t).walks = s.walks := rfl
@[simp] theorem State.putThread_tlbi (s : State) (id : Nat) (t : Thread) : (s.putThread id t).tlbi = s.tlbi := rfl
@[simp] theorem State.putThread_counts (s : State) (id : Nat) (t : Thread) :
    (s.putThread id t).counts = s.counts := rfl
@[simp] theorem State.putThread_demote (s : State) (id : Nat) (t : Thread) :
    (s.putThread id t).demote = s.demote := rfl
@[simp] theorem State.putThread_hearthDue (s : State) (id : Nat) (t : Thread) :
    (s.putThread id t).hearthDue = s.hearthDue := rfl
@[simp] theorem State.putThread_backing (s : State) (id : Nat) (t : Thread) :
    (s.putThread id t).backing = s.backing := rfl
@[simp] theorem State.putThread_hreg (s : State) (id : Nat) (t : Thread) : (s.putThread id t).hreg = s.hreg := rfl
@[simp] theorem State.putThread_latchRefused (s : State) (id : Nat) (t : Thread) :
    (s.putThread id t).latchRefused = s.latchRefused := rfl
@[simp] theorem State.putThread_rcvRefused (s : State) (id : Nat) (t : Thread) :
    (s.putThread id t).rcvRefused = s.rcvRefused := rfl
@[simp] theorem State.putThread_lease (s : State) (id : Nat) (t : Thread) : (s.putThread id t).lease = s.lease := rfl
@[simp] theorem State.putThread_queues (s : State) (id : Nat) (t : Thread) :
    (s.putThread id t).queues = s.queues := rfl
@[simp] theorem State.putThread_slots (s : State) (id : Nat) (t : Thread) : (s.putThread id t).slots = s.slots := rfl
@[simp] theorem State.putThread_lastGrant (s : State) (id : Nat) (t : Thread) :
    (s.putThread id t).lastGrant = s.lastGrant := rfl
@[simp] theorem State.putThread_launches (s : State) (id : Nat) (t : Thread) :
    (s.putThread id t).launches = s.launches := rfl
@[simp] theorem State.putThread_copycmds (s : State) (id : Nat) (t : Thread) :
    (s.putThread id t).copycmds = s.copycmds := rfl
@[simp] theorem State.putThread_msixSent (s : State) (id : Nat) (t : Thread) :
    (s.putThread id t).msixSent = s.msixSent := rfl
@[simp] theorem State.putThread_msixDue (s : State) (id : Nat) (t : Thread) :
    (s.putThread id t).msixDue = s.msixDue := rfl
@[simp] theorem State.putThread_msixHold (s : State) (id : Nat) (t : Thread) :
    (s.putThread id t).msixHold = s.msixHold := rfl
@[simp] theorem State.putThread_ashSeq (s : State) (id : Nat) (t : Thread) :
    (s.putThread id t).ashSeq = s.ashSeq := rfl
@[simp] theorem State.putThread_ashLost (s : State) (id : Nat) (t : Thread) :
    (s.putThread id t).ashLost = s.ashLost := rfl
@[simp] theorem State.putThread_threads (s : State) (id : Nat) (t : Thread) :
    (s.putThread id t).threads = s.threads.put id t := rfl
@[simp] theorem State.putThread_wgs (s : State) (id : Nat) (t : Thread) : (s.putThread id t).wgs = s.wgs := rfl
@[simp] theorem State.putThread_units (s : State) (id : Nat) (t : Thread) : (s.putThread id t).units = s.units := rfl
@[simp] theorem State.putThread_cores (s : State) (id : Nat) (t : Thread) : (s.putThread id t).cores = s.cores := rfl
@[simp] theorem State.putThread_dies (s : State) (id : Nat) (t : Thread) : (s.putThread id t).dies = s.dies := rfl
@[simp] theorem State.putThread_tasks (s : State) (id : Nat) (t : Thread) : (s.putThread id t).tasks = s.tasks := rfl
@[simp] theorem State.putThread_cunits (s : State) (id : Nat) (t : Thread) :
    (s.putThread id t).cunits = s.cunits := rfl
@[simp] theorem State.putThread_unitOps (s : State) (id : Nat) (t : Thread) :
    (s.putThread id t).unitOps = s.unitOps := rfl
@[simp] theorem State.putThread_nmAdds (s : State) (id : Nat) (t : Thread) :
    (s.putThread id t).nmAdds = s.nmAdds := rfl
@[simp] theorem State.putThread_aways (s : State) (id : Nat) (t : Thread) : (s.putThread id t).aways = s.aways := rfl
@[simp] theorem State.putThread_handles (s : State) (id : Nat) (t : Thread) :
    (s.putThread id t).handles = s.handles := rfl
@[simp] theorem State.putThread_gops (s : State) (id : Nat) (t : Thread) : (s.putThread id t).gops = s.gops := rfl
@[simp] theorem State.putThread_gworks (s : State) (id : Nat) (t : Thread) :
    (s.putThread id t).gworks = s.gworks := rfl
@[simp] theorem State.putThread_gserves (s : State) (id : Nat) (t : Thread) :
    (s.putThread id t).gserves = s.gserves := rfl
@[simp] theorem State.putThread_ordRounds (s : State) (id : Nat) (t : Thread) :
    (s.putThread id t).ordRounds = s.ordRounds := rfl
@[simp] theorem State.putThread_lanes (s : State) (id : Nat) (t : Thread) : (s.putThread id t).lanes = s.lanes := rfl
@[simp] theorem State.putThread_links (s : State) (id : Nat) (t : Thread) : (s.putThread id t).links = s.links := rfl
@[simp] theorem State.putThread_fwd (s : State) (id : Nat) (t : Thread) : (s.putThread id t).fwd = s.fwd := rfl
@[simp] theorem State.putThread_trackers (s : State) (id : Nat) (t : Thread) :
    (s.putThread id t).trackers = s.trackers := rfl
@[simp] theorem State.putThread_porchOwn (s : State) (id : Nat) (t : Thread) :
    (s.putThread id t).porchOwn = s.porchOwn := rfl
@[simp] theorem State.putThread_porchIn (s : State) (id : Nat) (t : Thread) :
    (s.putThread id t).porchIn = s.porchIn := rfl
@[simp] theorem State.putThread_unknownFlits (s : State) (id : Nat) (t : Thread) :
    (s.putThread id t).unknownFlits = s.unknownFlits := rfl
@[simp] theorem State.putThread_outbox (s : State) (id : Nat) (t : Thread) :
    (s.putThread id t).outbox = s.outbox := rfl
@[simp] theorem State.putThread_turns (s : State) (id : Nat) (t : Thread) : (s.putThread id t).turns = s.turns := rfl
@[simp] theorem State.putThread_preempt (s : State) (id : Nat) (t : Thread) :
    (s.putThread id t).preempt = s.preempt := rfl
@[simp] theorem State.putThread_ctxs (s : State) (id : Nat) (t : Thread) : (s.putThread id t).ctxs = s.ctxs := rfl
@[simp] theorem State.putThread_pageins (s : State) (id : Nat) (t : Thread) :
    (s.putThread id t).pageins = s.pageins := rfl
@[simp] theorem State.putThread_power (s : State) (id : Nat) (t : Thread) : (s.putThread id t).power = s.power := rfl
@[simp] theorem State.putThread_thermtrip (s : State) (id : Nat) (t : Thread) :
    (s.putThread id t).thermtrip = s.thermtrip := rfl
@[simp] theorem State.putThread_mram (s : State) (id : Nat) (t : Thread) : (s.putThread id t).mram = s.mram := rfl
@[simp] theorem State.putThread_flash (s : State) (id : Nat) (t : Thread) : (s.putThread id t).flash = s.flash := rfl
@[simp] theorem State.putThread_booting (s : State) (id : Nat) (t : Thread) :
    (s.putThread id t).booting = s.booting := rfl
@[simp] theorem State.putThread_windows (s : State) (id : Nat) (t : Thread) :
    (s.putThread id t).windows = s.windows := rfl
@[simp] theorem State.putThread_trim (s : State) (id : Nat) (t : Thread) : (s.putThread id t).trim = s.trim := rfl
@[simp] theorem State.putThread_identity (s : State) (id : Nat) (t : Thread) :
    (s.putThread id t).identity = s.identity := rfl
@[simp] theorem State.putThread_measures (s : State) (id : Nat) (t : Thread) :
    (s.putThread id t).measures = s.measures := rfl
@[simp] theorem State.putThread_debug (s : State) (id : Nat) (t : Thread) : (s.putThread id t).debug = s.debug := rfl
@[simp] theorem State.putThread_debugEntry (s : State) (id : Nat) (t : Thread) :
    (s.putThread id t).debugEntry = s.debugEntry := rfl
@[simp] theorem State.putThread_debugLanes (s : State) (id : Nat) (t : Thread) :
    (s.putThread id t).debugLanes = s.debugLanes := rfl
@[simp] theorem State.putThread_debugZeroised (s : State) (id : Nat) (t : Thread) :
    (s.putThread id t).debugZeroised = s.debugZeroised := rfl
@[simp] theorem State.putThread_secQueue (s : State) (id : Nat) (t : Thread) :
    (s.putThread id t).secQueue = s.secQueue := rfl
@[simp] theorem State.putThread_nonces (s : State) (id : Nat) (t : Thread) :
    (s.putThread id t).nonces = s.nonces := rfl
@[simp] theorem State.putThread_breaks (s : State) (id : Nat) (t : Thread) :
    (s.putThread id t).breaks = s.breaks := rfl
@[simp] theorem State.putThread_spdm (s : State) (id : Nat) (t : Thread) : (s.putThread id t).spdm = s.spdm := rfl
@[simp] theorem State.putThread_hostData (s : State) (id : Nat) (t : Thread) :
    (s.putThread id t).hostData = s.hostData := rfl
@[simp] theorem State.putThread_linkDown (s : State) (id : Nat) (t : Thread) :
    (s.putThread id t).linkDown = s.linkDown := rfl

@[simp] theorem State.updWg_agenda (s : State) (id : Nat) (f : Wg → Wg) : (s.updWg id f).agenda = s.agenda := rfl
@[simp] theorem State.updWg_inLine (s : State) (id : Nat) (f : Wg → Wg) : (s.updWg id f).inLine = s.inLine := rfl
@[simp] theorem State.updWg_patience (s : State) (id : Nat) (f : Wg → Wg) :
    (s.updWg id f).patience = s.patience := rfl
@[simp] theorem State.updWg_cur (s : State) (id : Nat) (f : Wg → Wg) : (s.updWg id f).cur = s.cur := rfl
@[simp] theorem State.updWg_free (s : State) (id : Nat) (f : Wg → Wg) : (s.updWg id f).free = s.free := rfl
@[simp] theorem State.updWg_nextId (s : State) (id : Nat) (f : Wg → Wg) : (s.updWg id f).nextId = s.nextId := rfl
@[simp] theorem State.updWg_clock (s : State) (id : Nat) (f : Wg → Wg) : (s.updWg id f).clock = s.clock := rfl
@[simp] theorem State.updWg_time (s : State) (id : Nat) (f : Wg → Wg) : (s.updWg id f).time = s.time := rfl
@[simp] theorem State.updWg_pkg (s : State) (id : Nat) (f : Wg → Wg) : (s.updWg id f).pkg = s.pkg := rfl
@[simp] theorem State.updWg_mem (s : State) (id : Nat) (f : Wg → Wg) : (s.updWg id f).mem = s.mem := rfl
@[simp] theorem State.updWg_poison (s : State) (id : Nat) (f : Wg → Wg) : (s.updWg id f).poison = s.poison := rfl
@[simp] theorem State.updWg_lpGib (s : State) (id : Nat) (f : Wg → Wg) : (s.updWg id f).lpGib = s.lpGib := rfl
@[simp] theorem State.updWg_poolOn (s : State) (id : Nat) (f : Wg → Wg) : (s.updWg id f).poolOn = s.poolOn := rfl
@[simp] theorem State.updWg_hostOn (s : State) (id : Nat) (f : Wg → Wg) : (s.updWg id f).hostOn = s.hostOn := rfl
@[simp] theorem State.updWg_lts (s : State) (id : Nat) (f : Wg → Wg) : (s.updWg id f).lts = s.lts := rfl
@[simp] theorem State.updWg_tlb (s : State) (id : Nat) (f : Wg → Wg) : (s.updWg id f).tlb = s.tlb := rfl
@[simp] theorem State.updWg_walks (s : State) (id : Nat) (f : Wg → Wg) : (s.updWg id f).walks = s.walks := rfl
@[simp] theorem State.updWg_tlbi (s : State) (id : Nat) (f : Wg → Wg) : (s.updWg id f).tlbi = s.tlbi := rfl
@[simp] theorem State.updWg_counts (s : State) (id : Nat) (f : Wg → Wg) : (s.updWg id f).counts = s.counts := rfl
@[simp] theorem State.updWg_demote (s : State) (id : Nat) (f : Wg → Wg) : (s.updWg id f).demote = s.demote := rfl
@[simp] theorem State.updWg_hearthDue (s : State) (id : Nat) (f : Wg → Wg) :
    (s.updWg id f).hearthDue = s.hearthDue := rfl
@[simp] theorem State.updWg_backing (s : State) (id : Nat) (f : Wg → Wg) : (s.updWg id f).backing = s.backing := rfl
@[simp] theorem State.updWg_hreg (s : State) (id : Nat) (f : Wg → Wg) : (s.updWg id f).hreg = s.hreg := rfl
@[simp] theorem State.updWg_latchRefused (s : State) (id : Nat) (f : Wg → Wg) :
    (s.updWg id f).latchRefused = s.latchRefused := rfl
@[simp] theorem State.updWg_rcvRefused (s : State) (id : Nat) (f : Wg → Wg) :
    (s.updWg id f).rcvRefused = s.rcvRefused := rfl
@[simp] theorem State.updWg_lease (s : State) (id : Nat) (f : Wg → Wg) : (s.updWg id f).lease = s.lease := rfl
@[simp] theorem State.updWg_queues (s : State) (id : Nat) (f : Wg → Wg) : (s.updWg id f).queues = s.queues := rfl
@[simp] theorem State.updWg_slots (s : State) (id : Nat) (f : Wg → Wg) : (s.updWg id f).slots = s.slots := rfl
@[simp] theorem State.updWg_lastGrant (s : State) (id : Nat) (f : Wg → Wg) :
    (s.updWg id f).lastGrant = s.lastGrant := rfl
@[simp] theorem State.updWg_launches (s : State) (id : Nat) (f : Wg → Wg) :
    (s.updWg id f).launches = s.launches := rfl
@[simp] theorem State.updWg_copycmds (s : State) (id : Nat) (f : Wg → Wg) :
    (s.updWg id f).copycmds = s.copycmds := rfl
@[simp] theorem State.updWg_msixSent (s : State) (id : Nat) (f : Wg → Wg) :
    (s.updWg id f).msixSent = s.msixSent := rfl
@[simp] theorem State.updWg_msixDue (s : State) (id : Nat) (f : Wg → Wg) : (s.updWg id f).msixDue = s.msixDue := rfl
@[simp] theorem State.updWg_msixHold (s : State) (id : Nat) (f : Wg → Wg) :
    (s.updWg id f).msixHold = s.msixHold := rfl
@[simp] theorem State.updWg_ashSeq (s : State) (id : Nat) (f : Wg → Wg) : (s.updWg id f).ashSeq = s.ashSeq := rfl
@[simp] theorem State.updWg_ashLost (s : State) (id : Nat) (f : Wg → Wg) : (s.updWg id f).ashLost = s.ashLost := rfl
@[simp] theorem State.updWg_threads (s : State) (id : Nat) (f : Wg → Wg) : (s.updWg id f).threads = s.threads := rfl
@[simp] theorem State.updWg_wgs (s : State) (id : Nat) (f : Wg → Wg) : (s.updWg id f).wgs = s.wgs.upd id f := rfl
@[simp] theorem State.updWg_units (s : State) (id : Nat) (f : Wg → Wg) : (s.updWg id f).units = s.units := rfl
@[simp] theorem State.updWg_cores (s : State) (id : Nat) (f : Wg → Wg) : (s.updWg id f).cores = s.cores := rfl
@[simp] theorem State.updWg_dies (s : State) (id : Nat) (f : Wg → Wg) : (s.updWg id f).dies = s.dies := rfl
@[simp] theorem State.updWg_tasks (s : State) (id : Nat) (f : Wg → Wg) : (s.updWg id f).tasks = s.tasks := rfl
@[simp] theorem State.updWg_cunits (s : State) (id : Nat) (f : Wg → Wg) : (s.updWg id f).cunits = s.cunits := rfl
@[simp] theorem State.updWg_unitOps (s : State) (id : Nat) (f : Wg → Wg) : (s.updWg id f).unitOps = s.unitOps := rfl
@[simp] theorem State.updWg_nmAdds (s : State) (id : Nat) (f : Wg → Wg) : (s.updWg id f).nmAdds = s.nmAdds := rfl
@[simp] theorem State.updWg_aways (s : State) (id : Nat) (f : Wg → Wg) : (s.updWg id f).aways = s.aways := rfl
@[simp] theorem State.updWg_handles (s : State) (id : Nat) (f : Wg → Wg) : (s.updWg id f).handles = s.handles := rfl
@[simp] theorem State.updWg_gops (s : State) (id : Nat) (f : Wg → Wg) : (s.updWg id f).gops = s.gops := rfl
@[simp] theorem State.updWg_gworks (s : State) (id : Nat) (f : Wg → Wg) : (s.updWg id f).gworks = s.gworks := rfl
@[simp] theorem State.updWg_gserves (s : State) (id : Nat) (f : Wg → Wg) : (s.updWg id f).gserves = s.gserves := rfl
@[simp] theorem State.updWg_ordRounds (s : State) (id : Nat) (f : Wg → Wg) :
    (s.updWg id f).ordRounds = s.ordRounds := rfl
@[simp] theorem State.updWg_lanes (s : State) (id : Nat) (f : Wg → Wg) : (s.updWg id f).lanes = s.lanes := rfl
@[simp] theorem State.updWg_links (s : State) (id : Nat) (f : Wg → Wg) : (s.updWg id f).links = s.links := rfl
@[simp] theorem State.updWg_fwd (s : State) (id : Nat) (f : Wg → Wg) : (s.updWg id f).fwd = s.fwd := rfl
@[simp] theorem State.updWg_trackers (s : State) (id : Nat) (f : Wg → Wg) :
    (s.updWg id f).trackers = s.trackers := rfl
@[simp] theorem State.updWg_porchOwn (s : State) (id : Nat) (f : Wg → Wg) :
    (s.updWg id f).porchOwn = s.porchOwn := rfl
@[simp] theorem State.updWg_porchIn (s : State) (id : Nat) (f : Wg → Wg) : (s.updWg id f).porchIn = s.porchIn := rfl
@[simp] theorem State.updWg_unknownFlits (s : State) (id : Nat) (f : Wg → Wg) :
    (s.updWg id f).unknownFlits = s.unknownFlits := rfl
@[simp] theorem State.updWg_outbox (s : State) (id : Nat) (f : Wg → Wg) : (s.updWg id f).outbox = s.outbox := rfl
@[simp] theorem State.updWg_turns (s : State) (id : Nat) (f : Wg → Wg) : (s.updWg id f).turns = s.turns := rfl
@[simp] theorem State.updWg_preempt (s : State) (id : Nat) (f : Wg → Wg) : (s.updWg id f).preempt = s.preempt := rfl
@[simp] theorem State.updWg_ctxs (s : State) (id : Nat) (f : Wg → Wg) : (s.updWg id f).ctxs = s.ctxs := rfl
@[simp] theorem State.updWg_pageins (s : State) (id : Nat) (f : Wg → Wg) : (s.updWg id f).pageins = s.pageins := rfl
@[simp] theorem State.updWg_power (s : State) (id : Nat) (f : Wg → Wg) : (s.updWg id f).power = s.power := rfl
@[simp] theorem State.updWg_thermtrip (s : State) (id : Nat) (f : Wg → Wg) :
    (s.updWg id f).thermtrip = s.thermtrip := rfl
@[simp] theorem State.updWg_mram (s : State) (id : Nat) (f : Wg → Wg) : (s.updWg id f).mram = s.mram := rfl
@[simp] theorem State.updWg_flash (s : State) (id : Nat) (f : Wg → Wg) : (s.updWg id f).flash = s.flash := rfl
@[simp] theorem State.updWg_booting (s : State) (id : Nat) (f : Wg → Wg) : (s.updWg id f).booting = s.booting := rfl
@[simp] theorem State.updWg_windows (s : State) (id : Nat) (f : Wg → Wg) : (s.updWg id f).windows = s.windows := rfl
@[simp] theorem State.updWg_trim (s : State) (id : Nat) (f : Wg → Wg) : (s.updWg id f).trim = s.trim := rfl
@[simp] theorem State.updWg_identity (s : State) (id : Nat) (f : Wg → Wg) :
    (s.updWg id f).identity = s.identity := rfl
@[simp] theorem State.updWg_measures (s : State) (id : Nat) (f : Wg → Wg) :
    (s.updWg id f).measures = s.measures := rfl
@[simp] theorem State.updWg_debug (s : State) (id : Nat) (f : Wg → Wg) : (s.updWg id f).debug = s.debug := rfl
@[simp] theorem State.updWg_debugEntry (s : State) (id : Nat) (f : Wg → Wg) :
    (s.updWg id f).debugEntry = s.debugEntry := rfl
@[simp] theorem State.updWg_debugLanes (s : State) (id : Nat) (f : Wg → Wg) :
    (s.updWg id f).debugLanes = s.debugLanes := rfl
@[simp] theorem State.updWg_debugZeroised (s : State) (id : Nat) (f : Wg → Wg) :
    (s.updWg id f).debugZeroised = s.debugZeroised := rfl
@[simp] theorem State.updWg_secQueue (s : State) (id : Nat) (f : Wg → Wg) :
    (s.updWg id f).secQueue = s.secQueue := rfl
@[simp] theorem State.updWg_nonces (s : State) (id : Nat) (f : Wg → Wg) : (s.updWg id f).nonces = s.nonces := rfl
@[simp] theorem State.updWg_breaks (s : State) (id : Nat) (f : Wg → Wg) : (s.updWg id f).breaks = s.breaks := rfl
@[simp] theorem State.updWg_spdm (s : State) (id : Nat) (f : Wg → Wg) : (s.updWg id f).spdm = s.spdm := rfl
@[simp] theorem State.updWg_hostData (s : State) (id : Nat) (f : Wg → Wg) :
    (s.updWg id f).hostData = s.hostData := rfl
@[simp] theorem State.updWg_linkDown (s : State) (id : Nat) (f : Wg → Wg) :
    (s.updWg id f).linkDown = s.linkDown := rfl

@[simp] theorem State.updCore_agenda (s : State) (key : Nat) (f : Core → Core) :
    (s.updCore key f).agenda = s.agenda := rfl
@[simp] theorem State.updCore_inLine (s : State) (key : Nat) (f : Core → Core) :
    (s.updCore key f).inLine = s.inLine := rfl
@[simp] theorem State.updCore_patience (s : State) (key : Nat) (f : Core → Core) :
    (s.updCore key f).patience = s.patience := rfl
@[simp] theorem State.updCore_cur (s : State) (key : Nat) (f : Core → Core) : (s.updCore key f).cur = s.cur := rfl
@[simp] theorem State.updCore_free (s : State) (key : Nat) (f : Core → Core) : (s.updCore key f).free = s.free := rfl
@[simp] theorem State.updCore_nextId (s : State) (key : Nat) (f : Core → Core) :
    (s.updCore key f).nextId = s.nextId := rfl
@[simp] theorem State.updCore_clock (s : State) (key : Nat) (f : Core → Core) :
    (s.updCore key f).clock = s.clock := rfl
@[simp] theorem State.updCore_time (s : State) (key : Nat) (f : Core → Core) : (s.updCore key f).time = s.time := rfl
@[simp] theorem State.updCore_pkg (s : State) (key : Nat) (f : Core → Core) : (s.updCore key f).pkg = s.pkg := rfl
@[simp] theorem State.updCore_mem (s : State) (key : Nat) (f : Core → Core) : (s.updCore key f).mem = s.mem := rfl
@[simp] theorem State.updCore_poison (s : State) (key : Nat) (f : Core → Core) :
    (s.updCore key f).poison = s.poison := rfl
@[simp] theorem State.updCore_lpGib (s : State) (key : Nat) (f : Core → Core) :
    (s.updCore key f).lpGib = s.lpGib := rfl
@[simp] theorem State.updCore_poolOn (s : State) (key : Nat) (f : Core → Core) :
    (s.updCore key f).poolOn = s.poolOn := rfl
@[simp] theorem State.updCore_hostOn (s : State) (key : Nat) (f : Core → Core) :
    (s.updCore key f).hostOn = s.hostOn := rfl
@[simp] theorem State.updCore_lts (s : State) (key : Nat) (f : Core → Core) : (s.updCore key f).lts = s.lts := rfl
@[simp] theorem State.updCore_tlb (s : State) (key : Nat) (f : Core → Core) : (s.updCore key f).tlb = s.tlb := rfl
@[simp] theorem State.updCore_walks (s : State) (key : Nat) (f : Core → Core) :
    (s.updCore key f).walks = s.walks := rfl
@[simp] theorem State.updCore_tlbi (s : State) (key : Nat) (f : Core → Core) : (s.updCore key f).tlbi = s.tlbi := rfl
@[simp] theorem State.updCore_counts (s : State) (key : Nat) (f : Core → Core) :
    (s.updCore key f).counts = s.counts := rfl
@[simp] theorem State.updCore_demote (s : State) (key : Nat) (f : Core → Core) :
    (s.updCore key f).demote = s.demote := rfl
@[simp] theorem State.updCore_hearthDue (s : State) (key : Nat) (f : Core → Core) :
    (s.updCore key f).hearthDue = s.hearthDue := rfl
@[simp] theorem State.updCore_backing (s : State) (key : Nat) (f : Core → Core) :
    (s.updCore key f).backing = s.backing := rfl
@[simp] theorem State.updCore_hreg (s : State) (key : Nat) (f : Core → Core) : (s.updCore key f).hreg = s.hreg := rfl
@[simp] theorem State.updCore_latchRefused (s : State) (key : Nat) (f : Core → Core) :
    (s.updCore key f).latchRefused = s.latchRefused := rfl
@[simp] theorem State.updCore_rcvRefused (s : State) (key : Nat) (f : Core → Core) :
    (s.updCore key f).rcvRefused = s.rcvRefused := rfl
@[simp] theorem State.updCore_lease (s : State) (key : Nat) (f : Core → Core) :
    (s.updCore key f).lease = s.lease := rfl
@[simp] theorem State.updCore_queues (s : State) (key : Nat) (f : Core → Core) :
    (s.updCore key f).queues = s.queues := rfl
@[simp] theorem State.updCore_slots (s : State) (key : Nat) (f : Core → Core) :
    (s.updCore key f).slots = s.slots := rfl
@[simp] theorem State.updCore_lastGrant (s : State) (key : Nat) (f : Core → Core) :
    (s.updCore key f).lastGrant = s.lastGrant := rfl
@[simp] theorem State.updCore_launches (s : State) (key : Nat) (f : Core → Core) :
    (s.updCore key f).launches = s.launches := rfl
@[simp] theorem State.updCore_copycmds (s : State) (key : Nat) (f : Core → Core) :
    (s.updCore key f).copycmds = s.copycmds := rfl
@[simp] theorem State.updCore_msixSent (s : State) (key : Nat) (f : Core → Core) :
    (s.updCore key f).msixSent = s.msixSent := rfl
@[simp] theorem State.updCore_msixDue (s : State) (key : Nat) (f : Core → Core) :
    (s.updCore key f).msixDue = s.msixDue := rfl
@[simp] theorem State.updCore_msixHold (s : State) (key : Nat) (f : Core → Core) :
    (s.updCore key f).msixHold = s.msixHold := rfl
@[simp] theorem State.updCore_ashSeq (s : State) (key : Nat) (f : Core → Core) :
    (s.updCore key f).ashSeq = s.ashSeq := rfl
@[simp] theorem State.updCore_ashLost (s : State) (key : Nat) (f : Core → Core) :
    (s.updCore key f).ashLost = s.ashLost := rfl
@[simp] theorem State.updCore_threads (s : State) (key : Nat) (f : Core → Core) :
    (s.updCore key f).threads = s.threads := rfl
@[simp] theorem State.updCore_wgs (s : State) (key : Nat) (f : Core → Core) : (s.updCore key f).wgs = s.wgs := rfl
@[simp] theorem State.updCore_units (s : State) (key : Nat) (f : Core → Core) :
    (s.updCore key f).units = s.units := rfl
@[simp] theorem State.updCore_cores (s : State) (key : Nat) (f : Core → Core) :
    (s.updCore key f).cores = s.cores.put key (f (s.cores.getD key {})) := rfl
@[simp] theorem State.updCore_dies (s : State) (key : Nat) (f : Core → Core) : (s.updCore key f).dies = s.dies := rfl
@[simp] theorem State.updCore_tasks (s : State) (key : Nat) (f : Core → Core) :
    (s.updCore key f).tasks = s.tasks := rfl
@[simp] theorem State.updCore_cunits (s : State) (key : Nat) (f : Core → Core) :
    (s.updCore key f).cunits = s.cunits := rfl
@[simp] theorem State.updCore_unitOps (s : State) (key : Nat) (f : Core → Core) :
    (s.updCore key f).unitOps = s.unitOps := rfl
@[simp] theorem State.updCore_nmAdds (s : State) (key : Nat) (f : Core → Core) :
    (s.updCore key f).nmAdds = s.nmAdds := rfl
@[simp] theorem State.updCore_aways (s : State) (key : Nat) (f : Core → Core) :
    (s.updCore key f).aways = s.aways := rfl
@[simp] theorem State.updCore_handles (s : State) (key : Nat) (f : Core → Core) :
    (s.updCore key f).handles = s.handles := rfl
@[simp] theorem State.updCore_gops (s : State) (key : Nat) (f : Core → Core) : (s.updCore key f).gops = s.gops := rfl
@[simp] theorem State.updCore_gworks (s : State) (key : Nat) (f : Core → Core) :
    (s.updCore key f).gworks = s.gworks := rfl
@[simp] theorem State.updCore_gserves (s : State) (key : Nat) (f : Core → Core) :
    (s.updCore key f).gserves = s.gserves := rfl
@[simp] theorem State.updCore_ordRounds (s : State) (key : Nat) (f : Core → Core) :
    (s.updCore key f).ordRounds = s.ordRounds := rfl
@[simp] theorem State.updCore_lanes (s : State) (key : Nat) (f : Core → Core) :
    (s.updCore key f).lanes = s.lanes := rfl
@[simp] theorem State.updCore_links (s : State) (key : Nat) (f : Core → Core) :
    (s.updCore key f).links = s.links := rfl
@[simp] theorem State.updCore_fwd (s : State) (key : Nat) (f : Core → Core) : (s.updCore key f).fwd = s.fwd := rfl
@[simp] theorem State.updCore_trackers (s : State) (key : Nat) (f : Core → Core) :
    (s.updCore key f).trackers = s.trackers := rfl
@[simp] theorem State.updCore_porchOwn (s : State) (key : Nat) (f : Core → Core) :
    (s.updCore key f).porchOwn = s.porchOwn := rfl
@[simp] theorem State.updCore_porchIn (s : State) (key : Nat) (f : Core → Core) :
    (s.updCore key f).porchIn = s.porchIn := rfl
@[simp] theorem State.updCore_unknownFlits (s : State) (key : Nat) (f : Core → Core) :
    (s.updCore key f).unknownFlits = s.unknownFlits := rfl
@[simp] theorem State.updCore_outbox (s : State) (key : Nat) (f : Core → Core) :
    (s.updCore key f).outbox = s.outbox := rfl
@[simp] theorem State.updCore_turns (s : State) (key : Nat) (f : Core → Core) :
    (s.updCore key f).turns = s.turns := rfl
@[simp] theorem State.updCore_preempt (s : State) (key : Nat) (f : Core → Core) :
    (s.updCore key f).preempt = s.preempt := rfl
@[simp] theorem State.updCore_ctxs (s : State) (key : Nat) (f : Core → Core) : (s.updCore key f).ctxs = s.ctxs := rfl
@[simp] theorem State.updCore_pageins (s : State) (key : Nat) (f : Core → Core) :
    (s.updCore key f).pageins = s.pageins := rfl
@[simp] theorem State.updCore_power (s : State) (key : Nat) (f : Core → Core) :
    (s.updCore key f).power = s.power := rfl
@[simp] theorem State.updCore_thermtrip (s : State) (key : Nat) (f : Core → Core) :
    (s.updCore key f).thermtrip = s.thermtrip := rfl
@[simp] theorem State.updCore_mram (s : State) (key : Nat) (f : Core → Core) : (s.updCore key f).mram = s.mram := rfl
@[simp] theorem State.updCore_flash (s : State) (key : Nat) (f : Core → Core) :
    (s.updCore key f).flash = s.flash := rfl
@[simp] theorem State.updCore_booting (s : State) (key : Nat) (f : Core → Core) :
    (s.updCore key f).booting = s.booting := rfl
@[simp] theorem State.updCore_windows (s : State) (key : Nat) (f : Core → Core) :
    (s.updCore key f).windows = s.windows := rfl
@[simp] theorem State.updCore_trim (s : State) (key : Nat) (f : Core → Core) : (s.updCore key f).trim = s.trim := rfl
@[simp] theorem State.updCore_identity (s : State) (key : Nat) (f : Core → Core) :
    (s.updCore key f).identity = s.identity := rfl
@[simp] theorem State.updCore_measures (s : State) (key : Nat) (f : Core → Core) :
    (s.updCore key f).measures = s.measures := rfl
@[simp] theorem State.updCore_debug (s : State) (key : Nat) (f : Core → Core) :
    (s.updCore key f).debug = s.debug := rfl
@[simp] theorem State.updCore_debugEntry (s : State) (key : Nat) (f : Core → Core) :
    (s.updCore key f).debugEntry = s.debugEntry := rfl
@[simp] theorem State.updCore_debugLanes (s : State) (key : Nat) (f : Core → Core) :
    (s.updCore key f).debugLanes = s.debugLanes := rfl
@[simp] theorem State.updCore_debugZeroised (s : State) (key : Nat) (f : Core → Core) :
    (s.updCore key f).debugZeroised = s.debugZeroised := rfl
@[simp] theorem State.updCore_secQueue (s : State) (key : Nat) (f : Core → Core) :
    (s.updCore key f).secQueue = s.secQueue := rfl
@[simp] theorem State.updCore_nonces (s : State) (key : Nat) (f : Core → Core) :
    (s.updCore key f).nonces = s.nonces := rfl
@[simp] theorem State.updCore_breaks (s : State) (key : Nat) (f : Core → Core) :
    (s.updCore key f).breaks = s.breaks := rfl
@[simp] theorem State.updCore_spdm (s : State) (key : Nat) (f : Core → Core) : (s.updCore key f).spdm = s.spdm := rfl
@[simp] theorem State.updCore_hostData (s : State) (key : Nat) (f : Core → Core) :
    (s.updCore key f).hostData = s.hostData := rfl
@[simp] theorem State.updCore_linkDown (s : State) (key : Nat) (f : Core → Core) :
    (s.updCore key f).linkDown = s.linkDown := rfl

@[simp] theorem State.updDie_agenda (s : State) (d : Nat) (f : Die → Die) : (s.updDie d f).agenda = s.agenda := rfl
@[simp] theorem State.updDie_inLine (s : State) (d : Nat) (f : Die → Die) : (s.updDie d f).inLine = s.inLine := rfl
@[simp] theorem State.updDie_patience (s : State) (d : Nat) (f : Die → Die) :
    (s.updDie d f).patience = s.patience := rfl
@[simp] theorem State.updDie_cur (s : State) (d : Nat) (f : Die → Die) : (s.updDie d f).cur = s.cur := rfl
@[simp] theorem State.updDie_free (s : State) (d : Nat) (f : Die → Die) : (s.updDie d f).free = s.free := rfl
@[simp] theorem State.updDie_nextId (s : State) (d : Nat) (f : Die → Die) : (s.updDie d f).nextId = s.nextId := rfl
@[simp] theorem State.updDie_clock (s : State) (d : Nat) (f : Die → Die) : (s.updDie d f).clock = s.clock := rfl
@[simp] theorem State.updDie_time (s : State) (d : Nat) (f : Die → Die) : (s.updDie d f).time = s.time := rfl
@[simp] theorem State.updDie_pkg (s : State) (d : Nat) (f : Die → Die) : (s.updDie d f).pkg = s.pkg := rfl
@[simp] theorem State.updDie_mem (s : State) (d : Nat) (f : Die → Die) : (s.updDie d f).mem = s.mem := rfl
@[simp] theorem State.updDie_poison (s : State) (d : Nat) (f : Die → Die) : (s.updDie d f).poison = s.poison := rfl
@[simp] theorem State.updDie_lpGib (s : State) (d : Nat) (f : Die → Die) : (s.updDie d f).lpGib = s.lpGib := rfl
@[simp] theorem State.updDie_poolOn (s : State) (d : Nat) (f : Die → Die) : (s.updDie d f).poolOn = s.poolOn := rfl
@[simp] theorem State.updDie_hostOn (s : State) (d : Nat) (f : Die → Die) : (s.updDie d f).hostOn = s.hostOn := rfl
@[simp] theorem State.updDie_lts (s : State) (d : Nat) (f : Die → Die) : (s.updDie d f).lts = s.lts := rfl
@[simp] theorem State.updDie_tlb (s : State) (d : Nat) (f : Die → Die) : (s.updDie d f).tlb = s.tlb := rfl
@[simp] theorem State.updDie_walks (s : State) (d : Nat) (f : Die → Die) : (s.updDie d f).walks = s.walks := rfl
@[simp] theorem State.updDie_tlbi (s : State) (d : Nat) (f : Die → Die) : (s.updDie d f).tlbi = s.tlbi := rfl
@[simp] theorem State.updDie_counts (s : State) (d : Nat) (f : Die → Die) : (s.updDie d f).counts = s.counts := rfl
@[simp] theorem State.updDie_demote (s : State) (d : Nat) (f : Die → Die) : (s.updDie d f).demote = s.demote := rfl
@[simp] theorem State.updDie_hearthDue (s : State) (d : Nat) (f : Die → Die) :
    (s.updDie d f).hearthDue = s.hearthDue := rfl
@[simp] theorem State.updDie_backing (s : State) (d : Nat) (f : Die → Die) : (s.updDie d f).backing = s.backing := rfl
@[simp] theorem State.updDie_hreg (s : State) (d : Nat) (f : Die → Die) : (s.updDie d f).hreg = s.hreg := rfl
@[simp] theorem State.updDie_latchRefused (s : State) (d : Nat) (f : Die → Die) :
    (s.updDie d f).latchRefused = s.latchRefused := rfl
@[simp] theorem State.updDie_rcvRefused (s : State) (d : Nat) (f : Die → Die) :
    (s.updDie d f).rcvRefused = s.rcvRefused := rfl
@[simp] theorem State.updDie_lease (s : State) (d : Nat) (f : Die → Die) : (s.updDie d f).lease = s.lease := rfl
@[simp] theorem State.updDie_queues (s : State) (d : Nat) (f : Die → Die) : (s.updDie d f).queues = s.queues := rfl
@[simp] theorem State.updDie_slots (s : State) (d : Nat) (f : Die → Die) : (s.updDie d f).slots = s.slots := rfl
@[simp] theorem State.updDie_lastGrant (s : State) (d : Nat) (f : Die → Die) :
    (s.updDie d f).lastGrant = s.lastGrant := rfl
@[simp] theorem State.updDie_launches (s : State) (d : Nat) (f : Die → Die) :
    (s.updDie d f).launches = s.launches := rfl
@[simp] theorem State.updDie_copycmds (s : State) (d : Nat) (f : Die → Die) :
    (s.updDie d f).copycmds = s.copycmds := rfl
@[simp] theorem State.updDie_msixSent (s : State) (d : Nat) (f : Die → Die) :
    (s.updDie d f).msixSent = s.msixSent := rfl
@[simp] theorem State.updDie_msixDue (s : State) (d : Nat) (f : Die → Die) : (s.updDie d f).msixDue = s.msixDue := rfl
@[simp] theorem State.updDie_msixHold (s : State) (d : Nat) (f : Die → Die) :
    (s.updDie d f).msixHold = s.msixHold := rfl
@[simp] theorem State.updDie_ashSeq (s : State) (d : Nat) (f : Die → Die) : (s.updDie d f).ashSeq = s.ashSeq := rfl
@[simp] theorem State.updDie_ashLost (s : State) (d : Nat) (f : Die → Die) : (s.updDie d f).ashLost = s.ashLost := rfl
@[simp] theorem State.updDie_threads (s : State) (d : Nat) (f : Die → Die) : (s.updDie d f).threads = s.threads := rfl
@[simp] theorem State.updDie_wgs (s : State) (d : Nat) (f : Die → Die) : (s.updDie d f).wgs = s.wgs := rfl
@[simp] theorem State.updDie_units (s : State) (d : Nat) (f : Die → Die) : (s.updDie d f).units = s.units := rfl
@[simp] theorem State.updDie_cores (s : State) (d : Nat) (f : Die → Die) : (s.updDie d f).cores = s.cores := rfl
@[simp] theorem State.updDie_dies (s : State) (d : Nat) (f : Die → Die) :
    (s.updDie d f).dies = s.dies.put d (f (s.dies.getD d {})) := rfl
@[simp] theorem State.updDie_tasks (s : State) (d : Nat) (f : Die → Die) : (s.updDie d f).tasks = s.tasks := rfl
@[simp] theorem State.updDie_cunits (s : State) (d : Nat) (f : Die → Die) : (s.updDie d f).cunits = s.cunits := rfl
@[simp] theorem State.updDie_unitOps (s : State) (d : Nat) (f : Die → Die) : (s.updDie d f).unitOps = s.unitOps := rfl
@[simp] theorem State.updDie_nmAdds (s : State) (d : Nat) (f : Die → Die) : (s.updDie d f).nmAdds = s.nmAdds := rfl
@[simp] theorem State.updDie_aways (s : State) (d : Nat) (f : Die → Die) : (s.updDie d f).aways = s.aways := rfl
@[simp] theorem State.updDie_handles (s : State) (d : Nat) (f : Die → Die) : (s.updDie d f).handles = s.handles := rfl
@[simp] theorem State.updDie_gops (s : State) (d : Nat) (f : Die → Die) : (s.updDie d f).gops = s.gops := rfl
@[simp] theorem State.updDie_gworks (s : State) (d : Nat) (f : Die → Die) : (s.updDie d f).gworks = s.gworks := rfl
@[simp] theorem State.updDie_gserves (s : State) (d : Nat) (f : Die → Die) : (s.updDie d f).gserves = s.gserves := rfl
@[simp] theorem State.updDie_ordRounds (s : State) (d : Nat) (f : Die → Die) :
    (s.updDie d f).ordRounds = s.ordRounds := rfl
@[simp] theorem State.updDie_lanes (s : State) (d : Nat) (f : Die → Die) : (s.updDie d f).lanes = s.lanes := rfl
@[simp] theorem State.updDie_links (s : State) (d : Nat) (f : Die → Die) : (s.updDie d f).links = s.links := rfl
@[simp] theorem State.updDie_fwd (s : State) (d : Nat) (f : Die → Die) : (s.updDie d f).fwd = s.fwd := rfl
@[simp] theorem State.updDie_trackers (s : State) (d : Nat) (f : Die → Die) :
    (s.updDie d f).trackers = s.trackers := rfl
@[simp] theorem State.updDie_porchOwn (s : State) (d : Nat) (f : Die → Die) :
    (s.updDie d f).porchOwn = s.porchOwn := rfl
@[simp] theorem State.updDie_porchIn (s : State) (d : Nat) (f : Die → Die) : (s.updDie d f).porchIn = s.porchIn := rfl
@[simp] theorem State.updDie_unknownFlits (s : State) (d : Nat) (f : Die → Die) :
    (s.updDie d f).unknownFlits = s.unknownFlits := rfl
@[simp] theorem State.updDie_outbox (s : State) (d : Nat) (f : Die → Die) : (s.updDie d f).outbox = s.outbox := rfl
@[simp] theorem State.updDie_turns (s : State) (d : Nat) (f : Die → Die) : (s.updDie d f).turns = s.turns := rfl
@[simp] theorem State.updDie_preempt (s : State) (d : Nat) (f : Die → Die) : (s.updDie d f).preempt = s.preempt := rfl
@[simp] theorem State.updDie_ctxs (s : State) (d : Nat) (f : Die → Die) : (s.updDie d f).ctxs = s.ctxs := rfl
@[simp] theorem State.updDie_pageins (s : State) (d : Nat) (f : Die → Die) : (s.updDie d f).pageins = s.pageins := rfl
@[simp] theorem State.updDie_power (s : State) (d : Nat) (f : Die → Die) : (s.updDie d f).power = s.power := rfl
@[simp] theorem State.updDie_thermtrip (s : State) (d : Nat) (f : Die → Die) :
    (s.updDie d f).thermtrip = s.thermtrip := rfl
@[simp] theorem State.updDie_mram (s : State) (d : Nat) (f : Die → Die) : (s.updDie d f).mram = s.mram := rfl
@[simp] theorem State.updDie_flash (s : State) (d : Nat) (f : Die → Die) : (s.updDie d f).flash = s.flash := rfl
@[simp] theorem State.updDie_booting (s : State) (d : Nat) (f : Die → Die) : (s.updDie d f).booting = s.booting := rfl
@[simp] theorem State.updDie_windows (s : State) (d : Nat) (f : Die → Die) : (s.updDie d f).windows = s.windows := rfl
@[simp] theorem State.updDie_trim (s : State) (d : Nat) (f : Die → Die) : (s.updDie d f).trim = s.trim := rfl
@[simp] theorem State.updDie_identity (s : State) (d : Nat) (f : Die → Die) :
    (s.updDie d f).identity = s.identity := rfl
@[simp] theorem State.updDie_measures (s : State) (d : Nat) (f : Die → Die) :
    (s.updDie d f).measures = s.measures := rfl
@[simp] theorem State.updDie_debug (s : State) (d : Nat) (f : Die → Die) : (s.updDie d f).debug = s.debug := rfl
@[simp] theorem State.updDie_debugEntry (s : State) (d : Nat) (f : Die → Die) :
    (s.updDie d f).debugEntry = s.debugEntry := rfl
@[simp] theorem State.updDie_debugLanes (s : State) (d : Nat) (f : Die → Die) :
    (s.updDie d f).debugLanes = s.debugLanes := rfl
@[simp] theorem State.updDie_debugZeroised (s : State) (d : Nat) (f : Die → Die) :
    (s.updDie d f).debugZeroised = s.debugZeroised := rfl
@[simp] theorem State.updDie_secQueue (s : State) (d : Nat) (f : Die → Die) :
    (s.updDie d f).secQueue = s.secQueue := rfl
@[simp] theorem State.updDie_nonces (s : State) (d : Nat) (f : Die → Die) : (s.updDie d f).nonces = s.nonces := rfl
@[simp] theorem State.updDie_breaks (s : State) (d : Nat) (f : Die → Die) : (s.updDie d f).breaks = s.breaks := rfl
@[simp] theorem State.updDie_spdm (s : State) (d : Nat) (f : Die → Die) : (s.updDie d f).spdm = s.spdm := rfl
@[simp] theorem State.updDie_hostData (s : State) (d : Nat) (f : Die → Die) :
    (s.updDie d f).hostData = s.hostData := rfl
@[simp] theorem State.updDie_linkDown (s : State) (d : Nat) (f : Die → Die) :
    (s.updDie d f).linkDown = s.linkDown := rfl

@[simp] theorem State.setHr_agenda (s : State) (off : Nat) (v : W64) : (s.setHr off v).agenda = s.agenda := rfl
@[simp] theorem State.setHr_inLine (s : State) (off : Nat) (v : W64) : (s.setHr off v).inLine = s.inLine := rfl
@[simp] theorem State.setHr_patience (s : State) (off : Nat) (v : W64) : (s.setHr off v).patience = s.patience := rfl
@[simp] theorem State.setHr_cur (s : State) (off : Nat) (v : W64) : (s.setHr off v).cur = s.cur := rfl
@[simp] theorem State.setHr_free (s : State) (off : Nat) (v : W64) : (s.setHr off v).free = s.free := rfl
@[simp] theorem State.setHr_nextId (s : State) (off : Nat) (v : W64) : (s.setHr off v).nextId = s.nextId := rfl
@[simp] theorem State.setHr_clock (s : State) (off : Nat) (v : W64) : (s.setHr off v).clock = s.clock := rfl
@[simp] theorem State.setHr_time (s : State) (off : Nat) (v : W64) : (s.setHr off v).time = s.time := rfl
@[simp] theorem State.setHr_pkg (s : State) (off : Nat) (v : W64) : (s.setHr off v).pkg = s.pkg := rfl
@[simp] theorem State.setHr_mem (s : State) (off : Nat) (v : W64) : (s.setHr off v).mem = s.mem := rfl
@[simp] theorem State.setHr_poison (s : State) (off : Nat) (v : W64) : (s.setHr off v).poison = s.poison := rfl
@[simp] theorem State.setHr_lpGib (s : State) (off : Nat) (v : W64) : (s.setHr off v).lpGib = s.lpGib := rfl
@[simp] theorem State.setHr_poolOn (s : State) (off : Nat) (v : W64) : (s.setHr off v).poolOn = s.poolOn := rfl
@[simp] theorem State.setHr_hostOn (s : State) (off : Nat) (v : W64) : (s.setHr off v).hostOn = s.hostOn := rfl
@[simp] theorem State.setHr_lts (s : State) (off : Nat) (v : W64) : (s.setHr off v).lts = s.lts := rfl
@[simp] theorem State.setHr_tlb (s : State) (off : Nat) (v : W64) : (s.setHr off v).tlb = s.tlb := rfl
@[simp] theorem State.setHr_walks (s : State) (off : Nat) (v : W64) : (s.setHr off v).walks = s.walks := rfl
@[simp] theorem State.setHr_tlbi (s : State) (off : Nat) (v : W64) : (s.setHr off v).tlbi = s.tlbi := rfl
@[simp] theorem State.setHr_counts (s : State) (off : Nat) (v : W64) : (s.setHr off v).counts = s.counts := rfl
@[simp] theorem State.setHr_demote (s : State) (off : Nat) (v : W64) : (s.setHr off v).demote = s.demote := rfl
@[simp] theorem State.setHr_hearthDue (s : State) (off : Nat) (v : W64) :
    (s.setHr off v).hearthDue = s.hearthDue := rfl
@[simp] theorem State.setHr_backing (s : State) (off : Nat) (v : W64) : (s.setHr off v).backing = s.backing := rfl
@[simp] theorem State.setHr_hreg (s : State) (off : Nat) (v : W64) : (s.setHr off v).hreg = s.hreg.put off v := rfl
@[simp] theorem State.setHr_latchRefused (s : State) (off : Nat) (v : W64) :
    (s.setHr off v).latchRefused = s.latchRefused := rfl
@[simp] theorem State.setHr_rcvRefused (s : State) (off : Nat) (v : W64) :
    (s.setHr off v).rcvRefused = s.rcvRefused := rfl
@[simp] theorem State.setHr_lease (s : State) (off : Nat) (v : W64) : (s.setHr off v).lease = s.lease := rfl
@[simp] theorem State.setHr_queues (s : State) (off : Nat) (v : W64) : (s.setHr off v).queues = s.queues := rfl
@[simp] theorem State.setHr_slots (s : State) (off : Nat) (v : W64) : (s.setHr off v).slots = s.slots := rfl
@[simp] theorem State.setHr_lastGrant (s : State) (off : Nat) (v : W64) :
    (s.setHr off v).lastGrant = s.lastGrant := rfl
@[simp] theorem State.setHr_launches (s : State) (off : Nat) (v : W64) : (s.setHr off v).launches = s.launches := rfl
@[simp] theorem State.setHr_copycmds (s : State) (off : Nat) (v : W64) : (s.setHr off v).copycmds = s.copycmds := rfl
@[simp] theorem State.setHr_msixSent (s : State) (off : Nat) (v : W64) : (s.setHr off v).msixSent = s.msixSent := rfl
@[simp] theorem State.setHr_msixDue (s : State) (off : Nat) (v : W64) : (s.setHr off v).msixDue = s.msixDue := rfl
@[simp] theorem State.setHr_msixHold (s : State) (off : Nat) (v : W64) : (s.setHr off v).msixHold = s.msixHold := rfl
@[simp] theorem State.setHr_ashSeq (s : State) (off : Nat) (v : W64) : (s.setHr off v).ashSeq = s.ashSeq := rfl
@[simp] theorem State.setHr_ashLost (s : State) (off : Nat) (v : W64) : (s.setHr off v).ashLost = s.ashLost := rfl
@[simp] theorem State.setHr_threads (s : State) (off : Nat) (v : W64) : (s.setHr off v).threads = s.threads := rfl
@[simp] theorem State.setHr_wgs (s : State) (off : Nat) (v : W64) : (s.setHr off v).wgs = s.wgs := rfl
@[simp] theorem State.setHr_units (s : State) (off : Nat) (v : W64) : (s.setHr off v).units = s.units := rfl
@[simp] theorem State.setHr_cores (s : State) (off : Nat) (v : W64) : (s.setHr off v).cores = s.cores := rfl
@[simp] theorem State.setHr_dies (s : State) (off : Nat) (v : W64) : (s.setHr off v).dies = s.dies := rfl
@[simp] theorem State.setHr_tasks (s : State) (off : Nat) (v : W64) : (s.setHr off v).tasks = s.tasks := rfl
@[simp] theorem State.setHr_cunits (s : State) (off : Nat) (v : W64) : (s.setHr off v).cunits = s.cunits := rfl
@[simp] theorem State.setHr_unitOps (s : State) (off : Nat) (v : W64) : (s.setHr off v).unitOps = s.unitOps := rfl
@[simp] theorem State.setHr_nmAdds (s : State) (off : Nat) (v : W64) : (s.setHr off v).nmAdds = s.nmAdds := rfl
@[simp] theorem State.setHr_aways (s : State) (off : Nat) (v : W64) : (s.setHr off v).aways = s.aways := rfl
@[simp] theorem State.setHr_handles (s : State) (off : Nat) (v : W64) : (s.setHr off v).handles = s.handles := rfl
@[simp] theorem State.setHr_gops (s : State) (off : Nat) (v : W64) : (s.setHr off v).gops = s.gops := rfl
@[simp] theorem State.setHr_gworks (s : State) (off : Nat) (v : W64) : (s.setHr off v).gworks = s.gworks := rfl
@[simp] theorem State.setHr_gserves (s : State) (off : Nat) (v : W64) : (s.setHr off v).gserves = s.gserves := rfl
@[simp] theorem State.setHr_ordRounds (s : State) (off : Nat) (v : W64) :
    (s.setHr off v).ordRounds = s.ordRounds := rfl
@[simp] theorem State.setHr_lanes (s : State) (off : Nat) (v : W64) : (s.setHr off v).lanes = s.lanes := rfl
@[simp] theorem State.setHr_links (s : State) (off : Nat) (v : W64) : (s.setHr off v).links = s.links := rfl
@[simp] theorem State.setHr_fwd (s : State) (off : Nat) (v : W64) : (s.setHr off v).fwd = s.fwd := rfl
@[simp] theorem State.setHr_trackers (s : State) (off : Nat) (v : W64) : (s.setHr off v).trackers = s.trackers := rfl
@[simp] theorem State.setHr_porchOwn (s : State) (off : Nat) (v : W64) : (s.setHr off v).porchOwn = s.porchOwn := rfl
@[simp] theorem State.setHr_porchIn (s : State) (off : Nat) (v : W64) : (s.setHr off v).porchIn = s.porchIn := rfl
@[simp] theorem State.setHr_unknownFlits (s : State) (off : Nat) (v : W64) :
    (s.setHr off v).unknownFlits = s.unknownFlits := rfl
@[simp] theorem State.setHr_outbox (s : State) (off : Nat) (v : W64) : (s.setHr off v).outbox = s.outbox := rfl
@[simp] theorem State.setHr_turns (s : State) (off : Nat) (v : W64) : (s.setHr off v).turns = s.turns := rfl
@[simp] theorem State.setHr_preempt (s : State) (off : Nat) (v : W64) : (s.setHr off v).preempt = s.preempt := rfl
@[simp] theorem State.setHr_ctxs (s : State) (off : Nat) (v : W64) : (s.setHr off v).ctxs = s.ctxs := rfl
@[simp] theorem State.setHr_pageins (s : State) (off : Nat) (v : W64) : (s.setHr off v).pageins = s.pageins := rfl
@[simp] theorem State.setHr_power (s : State) (off : Nat) (v : W64) : (s.setHr off v).power = s.power := rfl
@[simp] theorem State.setHr_thermtrip (s : State) (off : Nat) (v : W64) :
    (s.setHr off v).thermtrip = s.thermtrip := rfl
@[simp] theorem State.setHr_mram (s : State) (off : Nat) (v : W64) : (s.setHr off v).mram = s.mram := rfl
@[simp] theorem State.setHr_flash (s : State) (off : Nat) (v : W64) : (s.setHr off v).flash = s.flash := rfl
@[simp] theorem State.setHr_booting (s : State) (off : Nat) (v : W64) : (s.setHr off v).booting = s.booting := rfl
@[simp] theorem State.setHr_windows (s : State) (off : Nat) (v : W64) : (s.setHr off v).windows = s.windows := rfl
@[simp] theorem State.setHr_trim (s : State) (off : Nat) (v : W64) : (s.setHr off v).trim = s.trim := rfl
@[simp] theorem State.setHr_identity (s : State) (off : Nat) (v : W64) : (s.setHr off v).identity = s.identity := rfl
@[simp] theorem State.setHr_measures (s : State) (off : Nat) (v : W64) : (s.setHr off v).measures = s.measures := rfl
@[simp] theorem State.setHr_debug (s : State) (off : Nat) (v : W64) : (s.setHr off v).debug = s.debug := rfl
@[simp] theorem State.setHr_debugEntry (s : State) (off : Nat) (v : W64) :
    (s.setHr off v).debugEntry = s.debugEntry := rfl
@[simp] theorem State.setHr_debugLanes (s : State) (off : Nat) (v : W64) :
    (s.setHr off v).debugLanes = s.debugLanes := rfl
@[simp] theorem State.setHr_debugZeroised (s : State) (off : Nat) (v : W64) :
    (s.setHr off v).debugZeroised = s.debugZeroised := rfl
@[simp] theorem State.setHr_secQueue (s : State) (off : Nat) (v : W64) : (s.setHr off v).secQueue = s.secQueue := rfl
@[simp] theorem State.setHr_nonces (s : State) (off : Nat) (v : W64) : (s.setHr off v).nonces = s.nonces := rfl
@[simp] theorem State.setHr_breaks (s : State) (off : Nat) (v : W64) : (s.setHr off v).breaks = s.breaks := rfl
@[simp] theorem State.setHr_spdm (s : State) (off : Nat) (v : W64) : (s.setHr off v).spdm = s.spdm := rfl
@[simp] theorem State.setHr_hostData (s : State) (off : Nat) (v : W64) : (s.setHr off v).hostData = s.hostData := rfl
@[simp] theorem State.setHr_linkDown (s : State) (off : Nat) (v : W64) : (s.setHr off v).linkDown = s.linkDown := rfl

@[simp] theorem State.counted_agenda (s : State) (t : Thread) :
    (s.counted t).agenda = s.agenda := by
  unfold State.counted; split <;> rfl
@[simp] theorem State.counted_inLine (s : State) (t : Thread) :
    (s.counted t).inLine = s.inLine := by
  unfold State.counted; split <;> rfl
@[simp] theorem State.counted_patience (s : State) (t : Thread) :
    (s.counted t).patience = s.patience := by
  unfold State.counted; split <;> rfl
@[simp] theorem State.counted_cur (s : State) (t : Thread) :
    (s.counted t).cur = s.cur := by
  unfold State.counted; split <;> rfl
@[simp] theorem State.counted_free (s : State) (t : Thread) :
    (s.counted t).free = s.free := by
  unfold State.counted; split <;> rfl
@[simp] theorem State.counted_nextId (s : State) (t : Thread) :
    (s.counted t).nextId = s.nextId := by
  unfold State.counted; split <;> rfl
@[simp] theorem State.counted_clock (s : State) (t : Thread) :
    (s.counted t).clock = s.clock := by
  unfold State.counted; split <;> rfl
@[simp] theorem State.counted_time (s : State) (t : Thread) :
    (s.counted t).time = s.time := by
  unfold State.counted; split <;> rfl
@[simp] theorem State.counted_pkg (s : State) (t : Thread) :
    (s.counted t).pkg = s.pkg := by
  unfold State.counted; split <;> rfl
@[simp] theorem State.counted_mem (s : State) (t : Thread) :
    (s.counted t).mem = s.mem := by
  unfold State.counted; split <;> rfl
@[simp] theorem State.counted_poison (s : State) (t : Thread) :
    (s.counted t).poison = s.poison := by
  unfold State.counted; split <;> rfl
@[simp] theorem State.counted_lpGib (s : State) (t : Thread) :
    (s.counted t).lpGib = s.lpGib := by
  unfold State.counted; split <;> rfl
@[simp] theorem State.counted_poolOn (s : State) (t : Thread) :
    (s.counted t).poolOn = s.poolOn := by
  unfold State.counted; split <;> rfl
@[simp] theorem State.counted_hostOn (s : State) (t : Thread) :
    (s.counted t).hostOn = s.hostOn := by
  unfold State.counted; split <;> rfl
@[simp] theorem State.counted_lts (s : State) (t : Thread) :
    (s.counted t).lts = s.lts := by
  unfold State.counted; split <;> rfl
@[simp] theorem State.counted_tlb (s : State) (t : Thread) :
    (s.counted t).tlb = s.tlb := by
  unfold State.counted; split <;> rfl
@[simp] theorem State.counted_walks (s : State) (t : Thread) :
    (s.counted t).walks = s.walks := by
  unfold State.counted; split <;> rfl
@[simp] theorem State.counted_tlbi (s : State) (t : Thread) :
    (s.counted t).tlbi = s.tlbi := by
  unfold State.counted; split <;> rfl
@[simp] theorem State.counted_counts (s : State) (t : Thread) :
    (s.counted t).counts = s.counts := by
  unfold State.counted; split <;> rfl
@[simp] theorem State.counted_demote (s : State) (t : Thread) :
    (s.counted t).demote = s.demote := by
  unfold State.counted; split <;> rfl
@[simp] theorem State.counted_hearthDue (s : State) (t : Thread) :
    (s.counted t).hearthDue = s.hearthDue := by
  unfold State.counted; split <;> rfl
@[simp] theorem State.counted_backing (s : State) (t : Thread) :
    (s.counted t).backing = s.backing := by
  unfold State.counted; split <;> rfl
@[simp] theorem State.counted_hreg (s : State) (t : Thread) :
    (s.counted t).hreg = s.hreg := by
  unfold State.counted; split <;> rfl
@[simp] theorem State.counted_latchRefused (s : State) (t : Thread) :
    (s.counted t).latchRefused = s.latchRefused := by
  unfold State.counted; split <;> rfl
@[simp] theorem State.counted_rcvRefused (s : State) (t : Thread) :
    (s.counted t).rcvRefused = s.rcvRefused := by
  unfold State.counted; split <;> rfl
@[simp] theorem State.counted_lease (s : State) (t : Thread) :
    (s.counted t).lease = s.lease := by
  unfold State.counted; split <;> rfl
@[simp] theorem State.counted_queues (s : State) (t : Thread) :
    (s.counted t).queues = s.queues := by
  unfold State.counted; split <;> rfl
@[simp] theorem State.counted_slots (s : State) (t : Thread) :
    (s.counted t).slots = s.slots := by
  unfold State.counted; split <;> rfl
@[simp] theorem State.counted_lastGrant (s : State) (t : Thread) :
    (s.counted t).lastGrant = s.lastGrant := by
  unfold State.counted; split <;> rfl
@[simp] theorem State.counted_copycmds (s : State) (t : Thread) :
    (s.counted t).copycmds = s.copycmds := by
  unfold State.counted; split <;> rfl
@[simp] theorem State.counted_msixSent (s : State) (t : Thread) :
    (s.counted t).msixSent = s.msixSent := by
  unfold State.counted; split <;> rfl
@[simp] theorem State.counted_msixDue (s : State) (t : Thread) :
    (s.counted t).msixDue = s.msixDue := by
  unfold State.counted; split <;> rfl
@[simp] theorem State.counted_msixHold (s : State) (t : Thread) :
    (s.counted t).msixHold = s.msixHold := by
  unfold State.counted; split <;> rfl
@[simp] theorem State.counted_ashSeq (s : State) (t : Thread) :
    (s.counted t).ashSeq = s.ashSeq := by
  unfold State.counted; split <;> rfl
@[simp] theorem State.counted_ashLost (s : State) (t : Thread) :
    (s.counted t).ashLost = s.ashLost := by
  unfold State.counted; split <;> rfl
@[simp] theorem State.counted_threads (s : State) (t : Thread) :
    (s.counted t).threads = s.threads := by
  unfold State.counted; split <;> rfl
@[simp] theorem State.counted_wgs (s : State) (t : Thread) :
    (s.counted t).wgs = s.wgs := by
  unfold State.counted; split <;> rfl
@[simp] theorem State.counted_units (s : State) (t : Thread) :
    (s.counted t).units = s.units := by
  unfold State.counted; split <;> rfl
@[simp] theorem State.counted_cores (s : State) (t : Thread) :
    (s.counted t).cores = s.cores := by
  unfold State.counted; split <;> rfl
@[simp] theorem State.counted_dies (s : State) (t : Thread) :
    (s.counted t).dies = s.dies := by
  unfold State.counted; split <;> rfl
@[simp] theorem State.counted_tasks (s : State) (t : Thread) :
    (s.counted t).tasks = s.tasks := by
  unfold State.counted; split <;> rfl
@[simp] theorem State.counted_cunits (s : State) (t : Thread) :
    (s.counted t).cunits = s.cunits := by
  unfold State.counted; split <;> rfl
@[simp] theorem State.counted_unitOps (s : State) (t : Thread) :
    (s.counted t).unitOps = s.unitOps := by
  unfold State.counted; split <;> rfl
@[simp] theorem State.counted_nmAdds (s : State) (t : Thread) :
    (s.counted t).nmAdds = s.nmAdds := by
  unfold State.counted; split <;> rfl
@[simp] theorem State.counted_aways (s : State) (t : Thread) :
    (s.counted t).aways = s.aways := by
  unfold State.counted; split <;> rfl
@[simp] theorem State.counted_handles (s : State) (t : Thread) :
    (s.counted t).handles = s.handles := by
  unfold State.counted; split <;> rfl
@[simp] theorem State.counted_gops (s : State) (t : Thread) :
    (s.counted t).gops = s.gops := by
  unfold State.counted; split <;> rfl
@[simp] theorem State.counted_gworks (s : State) (t : Thread) :
    (s.counted t).gworks = s.gworks := by
  unfold State.counted; split <;> rfl
@[simp] theorem State.counted_gserves (s : State) (t : Thread) :
    (s.counted t).gserves = s.gserves := by
  unfold State.counted; split <;> rfl
@[simp] theorem State.counted_ordRounds (s : State) (t : Thread) :
    (s.counted t).ordRounds = s.ordRounds := by
  unfold State.counted; split <;> rfl
@[simp] theorem State.counted_lanes (s : State) (t : Thread) :
    (s.counted t).lanes = s.lanes := by
  unfold State.counted; split <;> rfl
@[simp] theorem State.counted_links (s : State) (t : Thread) :
    (s.counted t).links = s.links := by
  unfold State.counted; split <;> rfl
@[simp] theorem State.counted_fwd (s : State) (t : Thread) :
    (s.counted t).fwd = s.fwd := by
  unfold State.counted; split <;> rfl
@[simp] theorem State.counted_trackers (s : State) (t : Thread) :
    (s.counted t).trackers = s.trackers := by
  unfold State.counted; split <;> rfl
@[simp] theorem State.counted_porchOwn (s : State) (t : Thread) :
    (s.counted t).porchOwn = s.porchOwn := by
  unfold State.counted; split <;> rfl
@[simp] theorem State.counted_porchIn (s : State) (t : Thread) :
    (s.counted t).porchIn = s.porchIn := by
  unfold State.counted; split <;> rfl
@[simp] theorem State.counted_unknownFlits (s : State) (t : Thread) :
    (s.counted t).unknownFlits = s.unknownFlits := by
  unfold State.counted; split <;> rfl
@[simp] theorem State.counted_outbox (s : State) (t : Thread) :
    (s.counted t).outbox = s.outbox := by
  unfold State.counted; split <;> rfl
@[simp] theorem State.counted_turns (s : State) (t : Thread) :
    (s.counted t).turns = s.turns := by
  unfold State.counted; split <;> rfl
@[simp] theorem State.counted_preempt (s : State) (t : Thread) :
    (s.counted t).preempt = s.preempt := by
  unfold State.counted; split <;> rfl
@[simp] theorem State.counted_ctxs (s : State) (t : Thread) :
    (s.counted t).ctxs = s.ctxs := by
  unfold State.counted; split <;> rfl
@[simp] theorem State.counted_pageins (s : State) (t : Thread) :
    (s.counted t).pageins = s.pageins := by
  unfold State.counted; split <;> rfl
@[simp] theorem State.counted_power (s : State) (t : Thread) :
    (s.counted t).power = s.power := by
  unfold State.counted; split <;> rfl
@[simp] theorem State.counted_thermtrip (s : State) (t : Thread) :
    (s.counted t).thermtrip = s.thermtrip := by
  unfold State.counted; split <;> rfl
@[simp] theorem State.counted_mram (s : State) (t : Thread) :
    (s.counted t).mram = s.mram := by
  unfold State.counted; split <;> rfl
@[simp] theorem State.counted_flash (s : State) (t : Thread) :
    (s.counted t).flash = s.flash := by
  unfold State.counted; split <;> rfl
@[simp] theorem State.counted_booting (s : State) (t : Thread) :
    (s.counted t).booting = s.booting := by
  unfold State.counted; split <;> rfl
@[simp] theorem State.counted_windows (s : State) (t : Thread) :
    (s.counted t).windows = s.windows := by
  unfold State.counted; split <;> rfl
@[simp] theorem State.counted_trim (s : State) (t : Thread) :
    (s.counted t).trim = s.trim := by
  unfold State.counted; split <;> rfl
@[simp] theorem State.counted_identity (s : State) (t : Thread) :
    (s.counted t).identity = s.identity := by
  unfold State.counted; split <;> rfl
@[simp] theorem State.counted_measures (s : State) (t : Thread) :
    (s.counted t).measures = s.measures := by
  unfold State.counted; split <;> rfl
@[simp] theorem State.counted_debug (s : State) (t : Thread) :
    (s.counted t).debug = s.debug := by
  unfold State.counted; split <;> rfl
@[simp] theorem State.counted_debugEntry (s : State) (t : Thread) :
    (s.counted t).debugEntry = s.debugEntry := by
  unfold State.counted; split <;> rfl
@[simp] theorem State.counted_debugLanes (s : State) (t : Thread) :
    (s.counted t).debugLanes = s.debugLanes := by
  unfold State.counted; split <;> rfl
@[simp] theorem State.counted_debugZeroised (s : State) (t : Thread) :
    (s.counted t).debugZeroised = s.debugZeroised := by
  unfold State.counted; split <;> rfl
@[simp] theorem State.counted_secQueue (s : State) (t : Thread) :
    (s.counted t).secQueue = s.secQueue := by
  unfold State.counted; split <;> rfl
@[simp] theorem State.counted_nonces (s : State) (t : Thread) :
    (s.counted t).nonces = s.nonces := by
  unfold State.counted; split <;> rfl
@[simp] theorem State.counted_breaks (s : State) (t : Thread) :
    (s.counted t).breaks = s.breaks := by
  unfold State.counted; split <;> rfl
@[simp] theorem State.counted_spdm (s : State) (t : Thread) :
    (s.counted t).spdm = s.spdm := by
  unfold State.counted; split <;> rfl
@[simp] theorem State.counted_hostData (s : State) (t : Thread) :
    (s.counted t).hostData = s.hostData := by
  unfold State.counted; split <;> rfl
@[simp] theorem State.counted_linkDown (s : State) (t : Thread) :
    (s.counted t).linkDown = s.linkDown := by
  unfold State.counted; split <;> rfl

@[simp] theorem State.msixOn_agenda (s : State) (b : Bool) (vec : Nat) :
    (s.msixOn b vec).agenda = s.agenda := by
  unfold State.msixOn; (repeat' split) <;> rfl
@[simp] theorem State.msixOn_inLine (s : State) (b : Bool) (vec : Nat) :
    (s.msixOn b vec).inLine = s.inLine := by
  unfold State.msixOn; (repeat' split) <;> rfl
@[simp] theorem State.msixOn_patience (s : State) (b : Bool) (vec : Nat) :
    (s.msixOn b vec).patience = s.patience := by
  unfold State.msixOn; (repeat' split) <;> rfl
@[simp] theorem State.msixOn_cur (s : State) (b : Bool) (vec : Nat) :
    (s.msixOn b vec).cur = s.cur := by
  unfold State.msixOn; (repeat' split) <;> rfl
@[simp] theorem State.msixOn_free (s : State) (b : Bool) (vec : Nat) :
    (s.msixOn b vec).free = s.free := by
  unfold State.msixOn; (repeat' split) <;> rfl
@[simp] theorem State.msixOn_nextId (s : State) (b : Bool) (vec : Nat) :
    (s.msixOn b vec).nextId = s.nextId := by
  unfold State.msixOn; (repeat' split) <;> rfl
@[simp] theorem State.msixOn_clock (s : State) (b : Bool) (vec : Nat) :
    (s.msixOn b vec).clock = s.clock := by
  unfold State.msixOn; (repeat' split) <;> rfl
@[simp] theorem State.msixOn_time (s : State) (b : Bool) (vec : Nat) :
    (s.msixOn b vec).time = s.time := by
  unfold State.msixOn; (repeat' split) <;> rfl
@[simp] theorem State.msixOn_pkg (s : State) (b : Bool) (vec : Nat) :
    (s.msixOn b vec).pkg = s.pkg := by
  unfold State.msixOn; (repeat' split) <;> rfl
@[simp] theorem State.msixOn_mem (s : State) (b : Bool) (vec : Nat) :
    (s.msixOn b vec).mem = s.mem := by
  unfold State.msixOn; (repeat' split) <;> rfl
@[simp] theorem State.msixOn_poison (s : State) (b : Bool) (vec : Nat) :
    (s.msixOn b vec).poison = s.poison := by
  unfold State.msixOn; (repeat' split) <;> rfl
@[simp] theorem State.msixOn_lpGib (s : State) (b : Bool) (vec : Nat) :
    (s.msixOn b vec).lpGib = s.lpGib := by
  unfold State.msixOn; (repeat' split) <;> rfl
@[simp] theorem State.msixOn_poolOn (s : State) (b : Bool) (vec : Nat) :
    (s.msixOn b vec).poolOn = s.poolOn := by
  unfold State.msixOn; (repeat' split) <;> rfl
@[simp] theorem State.msixOn_hostOn (s : State) (b : Bool) (vec : Nat) :
    (s.msixOn b vec).hostOn = s.hostOn := by
  unfold State.msixOn; (repeat' split) <;> rfl
@[simp] theorem State.msixOn_lts (s : State) (b : Bool) (vec : Nat) :
    (s.msixOn b vec).lts = s.lts := by
  unfold State.msixOn; (repeat' split) <;> rfl
@[simp] theorem State.msixOn_tlb (s : State) (b : Bool) (vec : Nat) :
    (s.msixOn b vec).tlb = s.tlb := by
  unfold State.msixOn; (repeat' split) <;> rfl
@[simp] theorem State.msixOn_walks (s : State) (b : Bool) (vec : Nat) :
    (s.msixOn b vec).walks = s.walks := by
  unfold State.msixOn; (repeat' split) <;> rfl
@[simp] theorem State.msixOn_tlbi (s : State) (b : Bool) (vec : Nat) :
    (s.msixOn b vec).tlbi = s.tlbi := by
  unfold State.msixOn; (repeat' split) <;> rfl
@[simp] theorem State.msixOn_counts (s : State) (b : Bool) (vec : Nat) :
    (s.msixOn b vec).counts = s.counts := by
  unfold State.msixOn; (repeat' split) <;> rfl
@[simp] theorem State.msixOn_demote (s : State) (b : Bool) (vec : Nat) :
    (s.msixOn b vec).demote = s.demote := by
  unfold State.msixOn; (repeat' split) <;> rfl
@[simp] theorem State.msixOn_hearthDue (s : State) (b : Bool) (vec : Nat) :
    (s.msixOn b vec).hearthDue = s.hearthDue := by
  unfold State.msixOn; (repeat' split) <;> rfl
@[simp] theorem State.msixOn_backing (s : State) (b : Bool) (vec : Nat) :
    (s.msixOn b vec).backing = s.backing := by
  unfold State.msixOn; (repeat' split) <;> rfl
@[simp] theorem State.msixOn_hreg (s : State) (b : Bool) (vec : Nat) :
    (s.msixOn b vec).hreg = s.hreg := by
  unfold State.msixOn; (repeat' split) <;> rfl
@[simp] theorem State.msixOn_latchRefused (s : State) (b : Bool) (vec : Nat) :
    (s.msixOn b vec).latchRefused = s.latchRefused := by
  unfold State.msixOn; (repeat' split) <;> rfl
@[simp] theorem State.msixOn_rcvRefused (s : State) (b : Bool) (vec : Nat) :
    (s.msixOn b vec).rcvRefused = s.rcvRefused := by
  unfold State.msixOn; (repeat' split) <;> rfl
@[simp] theorem State.msixOn_lease (s : State) (b : Bool) (vec : Nat) :
    (s.msixOn b vec).lease = s.lease := by
  unfold State.msixOn; (repeat' split) <;> rfl
@[simp] theorem State.msixOn_queues (s : State) (b : Bool) (vec : Nat) :
    (s.msixOn b vec).queues = s.queues := by
  unfold State.msixOn; (repeat' split) <;> rfl
@[simp] theorem State.msixOn_slots (s : State) (b : Bool) (vec : Nat) :
    (s.msixOn b vec).slots = s.slots := by
  unfold State.msixOn; (repeat' split) <;> rfl
@[simp] theorem State.msixOn_lastGrant (s : State) (b : Bool) (vec : Nat) :
    (s.msixOn b vec).lastGrant = s.lastGrant := by
  unfold State.msixOn; (repeat' split) <;> rfl
@[simp] theorem State.msixOn_launches (s : State) (b : Bool) (vec : Nat) :
    (s.msixOn b vec).launches = s.launches := by
  unfold State.msixOn; (repeat' split) <;> rfl
@[simp] theorem State.msixOn_copycmds (s : State) (b : Bool) (vec : Nat) :
    (s.msixOn b vec).copycmds = s.copycmds := by
  unfold State.msixOn; (repeat' split) <;> rfl
@[simp] theorem State.msixOn_ashSeq (s : State) (b : Bool) (vec : Nat) :
    (s.msixOn b vec).ashSeq = s.ashSeq := by
  unfold State.msixOn; (repeat' split) <;> rfl
@[simp] theorem State.msixOn_ashLost (s : State) (b : Bool) (vec : Nat) :
    (s.msixOn b vec).ashLost = s.ashLost := by
  unfold State.msixOn; (repeat' split) <;> rfl
@[simp] theorem State.msixOn_threads (s : State) (b : Bool) (vec : Nat) :
    (s.msixOn b vec).threads = s.threads := by
  unfold State.msixOn; (repeat' split) <;> rfl
@[simp] theorem State.msixOn_wgs (s : State) (b : Bool) (vec : Nat) :
    (s.msixOn b vec).wgs = s.wgs := by
  unfold State.msixOn; (repeat' split) <;> rfl
@[simp] theorem State.msixOn_units (s : State) (b : Bool) (vec : Nat) :
    (s.msixOn b vec).units = s.units := by
  unfold State.msixOn; (repeat' split) <;> rfl
@[simp] theorem State.msixOn_cores (s : State) (b : Bool) (vec : Nat) :
    (s.msixOn b vec).cores = s.cores := by
  unfold State.msixOn; (repeat' split) <;> rfl
@[simp] theorem State.msixOn_dies (s : State) (b : Bool) (vec : Nat) :
    (s.msixOn b vec).dies = s.dies := by
  unfold State.msixOn; (repeat' split) <;> rfl
@[simp] theorem State.msixOn_tasks (s : State) (b : Bool) (vec : Nat) :
    (s.msixOn b vec).tasks = s.tasks := by
  unfold State.msixOn; (repeat' split) <;> rfl
@[simp] theorem State.msixOn_cunits (s : State) (b : Bool) (vec : Nat) :
    (s.msixOn b vec).cunits = s.cunits := by
  unfold State.msixOn; (repeat' split) <;> rfl
@[simp] theorem State.msixOn_unitOps (s : State) (b : Bool) (vec : Nat) :
    (s.msixOn b vec).unitOps = s.unitOps := by
  unfold State.msixOn; (repeat' split) <;> rfl
@[simp] theorem State.msixOn_nmAdds (s : State) (b : Bool) (vec : Nat) :
    (s.msixOn b vec).nmAdds = s.nmAdds := by
  unfold State.msixOn; (repeat' split) <;> rfl
@[simp] theorem State.msixOn_aways (s : State) (b : Bool) (vec : Nat) :
    (s.msixOn b vec).aways = s.aways := by
  unfold State.msixOn; (repeat' split) <;> rfl
@[simp] theorem State.msixOn_handles (s : State) (b : Bool) (vec : Nat) :
    (s.msixOn b vec).handles = s.handles := by
  unfold State.msixOn; (repeat' split) <;> rfl
@[simp] theorem State.msixOn_gops (s : State) (b : Bool) (vec : Nat) :
    (s.msixOn b vec).gops = s.gops := by
  unfold State.msixOn; (repeat' split) <;> rfl
@[simp] theorem State.msixOn_gworks (s : State) (b : Bool) (vec : Nat) :
    (s.msixOn b vec).gworks = s.gworks := by
  unfold State.msixOn; (repeat' split) <;> rfl
@[simp] theorem State.msixOn_gserves (s : State) (b : Bool) (vec : Nat) :
    (s.msixOn b vec).gserves = s.gserves := by
  unfold State.msixOn; (repeat' split) <;> rfl
@[simp] theorem State.msixOn_ordRounds (s : State) (b : Bool) (vec : Nat) :
    (s.msixOn b vec).ordRounds = s.ordRounds := by
  unfold State.msixOn; (repeat' split) <;> rfl
@[simp] theorem State.msixOn_lanes (s : State) (b : Bool) (vec : Nat) :
    (s.msixOn b vec).lanes = s.lanes := by
  unfold State.msixOn; (repeat' split) <;> rfl
@[simp] theorem State.msixOn_links (s : State) (b : Bool) (vec : Nat) :
    (s.msixOn b vec).links = s.links := by
  unfold State.msixOn; (repeat' split) <;> rfl
@[simp] theorem State.msixOn_fwd (s : State) (b : Bool) (vec : Nat) :
    (s.msixOn b vec).fwd = s.fwd := by
  unfold State.msixOn; (repeat' split) <;> rfl
@[simp] theorem State.msixOn_trackers (s : State) (b : Bool) (vec : Nat) :
    (s.msixOn b vec).trackers = s.trackers := by
  unfold State.msixOn; (repeat' split) <;> rfl
@[simp] theorem State.msixOn_porchOwn (s : State) (b : Bool) (vec : Nat) :
    (s.msixOn b vec).porchOwn = s.porchOwn := by
  unfold State.msixOn; (repeat' split) <;> rfl
@[simp] theorem State.msixOn_porchIn (s : State) (b : Bool) (vec : Nat) :
    (s.msixOn b vec).porchIn = s.porchIn := by
  unfold State.msixOn; (repeat' split) <;> rfl
@[simp] theorem State.msixOn_unknownFlits (s : State) (b : Bool) (vec : Nat) :
    (s.msixOn b vec).unknownFlits = s.unknownFlits := by
  unfold State.msixOn; (repeat' split) <;> rfl
@[simp] theorem State.msixOn_outbox (s : State) (b : Bool) (vec : Nat) :
    (s.msixOn b vec).outbox = s.outbox := by
  unfold State.msixOn; (repeat' split) <;> rfl
@[simp] theorem State.msixOn_turns (s : State) (b : Bool) (vec : Nat) :
    (s.msixOn b vec).turns = s.turns := by
  unfold State.msixOn; (repeat' split) <;> rfl
@[simp] theorem State.msixOn_preempt (s : State) (b : Bool) (vec : Nat) :
    (s.msixOn b vec).preempt = s.preempt := by
  unfold State.msixOn; (repeat' split) <;> rfl
@[simp] theorem State.msixOn_ctxs (s : State) (b : Bool) (vec : Nat) :
    (s.msixOn b vec).ctxs = s.ctxs := by
  unfold State.msixOn; (repeat' split) <;> rfl
@[simp] theorem State.msixOn_pageins (s : State) (b : Bool) (vec : Nat) :
    (s.msixOn b vec).pageins = s.pageins := by
  unfold State.msixOn; (repeat' split) <;> rfl
@[simp] theorem State.msixOn_power (s : State) (b : Bool) (vec : Nat) :
    (s.msixOn b vec).power = s.power := by
  unfold State.msixOn; (repeat' split) <;> rfl
@[simp] theorem State.msixOn_thermtrip (s : State) (b : Bool) (vec : Nat) :
    (s.msixOn b vec).thermtrip = s.thermtrip := by
  unfold State.msixOn; (repeat' split) <;> rfl
@[simp] theorem State.msixOn_mram (s : State) (b : Bool) (vec : Nat) :
    (s.msixOn b vec).mram = s.mram := by
  unfold State.msixOn; (repeat' split) <;> rfl
@[simp] theorem State.msixOn_flash (s : State) (b : Bool) (vec : Nat) :
    (s.msixOn b vec).flash = s.flash := by
  unfold State.msixOn; (repeat' split) <;> rfl
@[simp] theorem State.msixOn_booting (s : State) (b : Bool) (vec : Nat) :
    (s.msixOn b vec).booting = s.booting := by
  unfold State.msixOn; (repeat' split) <;> rfl
@[simp] theorem State.msixOn_windows (s : State) (b : Bool) (vec : Nat) :
    (s.msixOn b vec).windows = s.windows := by
  unfold State.msixOn; (repeat' split) <;> rfl
@[simp] theorem State.msixOn_trim (s : State) (b : Bool) (vec : Nat) :
    (s.msixOn b vec).trim = s.trim := by
  unfold State.msixOn; (repeat' split) <;> rfl
@[simp] theorem State.msixOn_identity (s : State) (b : Bool) (vec : Nat) :
    (s.msixOn b vec).identity = s.identity := by
  unfold State.msixOn; (repeat' split) <;> rfl
@[simp] theorem State.msixOn_measures (s : State) (b : Bool) (vec : Nat) :
    (s.msixOn b vec).measures = s.measures := by
  unfold State.msixOn; (repeat' split) <;> rfl
@[simp] theorem State.msixOn_debug (s : State) (b : Bool) (vec : Nat) :
    (s.msixOn b vec).debug = s.debug := by
  unfold State.msixOn; (repeat' split) <;> rfl
@[simp] theorem State.msixOn_debugEntry (s : State) (b : Bool) (vec : Nat) :
    (s.msixOn b vec).debugEntry = s.debugEntry := by
  unfold State.msixOn; (repeat' split) <;> rfl
@[simp] theorem State.msixOn_debugLanes (s : State) (b : Bool) (vec : Nat) :
    (s.msixOn b vec).debugLanes = s.debugLanes := by
  unfold State.msixOn; (repeat' split) <;> rfl
@[simp] theorem State.msixOn_debugZeroised (s : State) (b : Bool) (vec : Nat) :
    (s.msixOn b vec).debugZeroised = s.debugZeroised := by
  unfold State.msixOn; (repeat' split) <;> rfl
@[simp] theorem State.msixOn_secQueue (s : State) (b : Bool) (vec : Nat) :
    (s.msixOn b vec).secQueue = s.secQueue := by
  unfold State.msixOn; (repeat' split) <;> rfl
@[simp] theorem State.msixOn_nonces (s : State) (b : Bool) (vec : Nat) :
    (s.msixOn b vec).nonces = s.nonces := by
  unfold State.msixOn; (repeat' split) <;> rfl
@[simp] theorem State.msixOn_breaks (s : State) (b : Bool) (vec : Nat) :
    (s.msixOn b vec).breaks = s.breaks := by
  unfold State.msixOn; (repeat' split) <;> rfl
@[simp] theorem State.msixOn_spdm (s : State) (b : Bool) (vec : Nat) :
    (s.msixOn b vec).spdm = s.spdm := by
  unfold State.msixOn; (repeat' split) <;> rfl
@[simp] theorem State.msixOn_hostData (s : State) (b : Bool) (vec : Nat) :
    (s.msixOn b vec).hostData = s.hostData := by
  unfold State.msixOn; (repeat' split) <;> rfl
@[simp] theorem State.msixOn_linkDown (s : State) (b : Bool) (vec : Nat) :
    (s.msixOn b vec).linkDown = s.linkDown := by
  unfold State.msixOn; (repeat' split) <;> rfl

/-! ### A thread -/

@[simp] theorem Thread.advance_side (t : Thread) :
    (t.advance).side = t.side := by
  unfold Thread.advance; dsimp only; split <;> rfl
@[simp] theorem Thread.advance_role (t : Thread) :
    (t.advance).role = t.role := by
  unfold Thread.advance; dsimp only; split <;> rfl
@[simp] theorem Thread.advance_wg (t : Thread) :
    (t.advance).wg = t.wg := by
  unfold Thread.advance; dsimp only; split <;> rfl
@[simp] theorem Thread.advance_gidx (t : Thread) :
    (t.advance).gidx = t.gidx := by
  unfold Thread.advance; dsimp only; split <;> rfl
@[simp] theorem Thread.advance_width (t : Thread) :
    (t.advance).width = t.width := by
  unfold Thread.advance; dsimp only; split <;> rfl
@[simp] theorem Thread.advance_pc (t : Thread) :
    (t.advance).pc = BitVec.ofNat 64 (nextPc t.at_) := by
  unfold Thread.advance; dsimp only; split <;> rfl
@[simp] theorem Thread.advance_status (t : Thread) :
    (t.advance).status = t.status := by
  unfold Thread.advance; dsimp only; split <;> rfl
@[simp] theorem Thread.advance_regs (t : Thread) :
    (t.advance).regs = t.regs := by
  unfold Thread.advance; dsimp only; split <;> rfl
@[simp] theorem Thread.advance_prods (t : Thread) :
    (t.advance).prods = t.prods := by
  unfold Thread.advance; dsimp only; split <;> rfl
@[simp] theorem Thread.advance_queries (t : Thread) :
    (t.advance).queries = t.queries := by
  unfold Thread.advance; dsimp only; split <;> rfl
@[simp] theorem Thread.advance_stack (t : Thread) :
    (t.advance).stack = t.stack := by
  unfold Thread.advance; dsimp only; split <;> rfl
@[simp] theorem Thread.advance_slice (t : Thread) :
    (t.advance).slice = t.slice := by
  unfold Thread.advance; dsimp only; split <;> rfl
@[simp] theorem Thread.advance_frame (t : Thread) :
    (t.advance).frame = t.frame := by
  unfold Thread.advance; dsimp only; split <;> rfl
@[simp] theorem Thread.advance_savedVe (t : Thread) :
    (t.advance).savedVe = t.savedVe := by
  unfold Thread.advance; dsimp only; split <;> rfl
@[simp] theorem Thread.advance_savedGe (t : Thread) :
    (t.advance).savedGe = t.savedGe := by
  unfold Thread.advance; dsimp only; split <;> rfl
@[simp] theorem Thread.advance_handler (t : Thread) :
    (t.advance).handler = t.handler := by
  unfold Thread.advance; dsimp only; split <;> rfl
@[simp] theorem Thread.advance_entryDepth (t : Thread) :
    (t.advance).entryDepth = t.entryDepth := by
  unfold Thread.advance; dsimp only; split <;> rfl
@[simp] theorem Thread.advance_tcause (t : Thread) :
    (t.advance).tcause = t.tcause := by
  unfold Thread.advance; dsimp only; split <;> rfl
@[simp] theorem Thread.advance_tpc (t : Thread) :
    (t.advance).tpc = t.tpc := by
  unfold Thread.advance; dsimp only; split <;> rfl
@[simp] theorem Thread.advance_taddr (t : Thread) :
    (t.advance).taddr = t.taddr := by
  unfold Thread.advance; dsimp only; split <;> rfl
@[simp] theorem Thread.advance_tinfo (t : Thread) :
    (t.advance).tinfo = t.tinfo := by
  unfold Thread.advance; dsimp only; split <;> rfl
@[simp] theorem Thread.advance_tpte (t : Thread) :
    (t.advance).tpte = t.tpte := by
  unfold Thread.advance; dsimp only; split <;> rfl
@[simp] theorem Thread.advance_trees (t : Thread) :
    (t.advance).trees = t.trees := by
  unfold Thread.advance; dsimp only; split <;> rfl
@[simp] theorem Thread.advance_pend (t : Thread) :
    (t.advance).pend = t.pend := by
  unfold Thread.advance; dsimp only; split <;> rfl
@[simp] theorem Thread.advance_sent (t : Thread) :
    (t.advance).sent = t.sent := by
  unfold Thread.advance; dsimp only; split <;> rfl
@[simp] theorem Thread.advance_asks (t : Thread) :
    (t.advance).asks = [] := by
  unfold Thread.advance; dsimp only; split <;> rfl
@[simp] theorem Thread.advance_answers (t : Thread) :
    (t.advance).answers = [] := by
  unfold Thread.advance; dsimp only; split <;> rfl
@[simp] theorem Thread.advance_kept (t : Thread) :
    (t.advance).kept = [] := by
  unfold Thread.advance; dsimp only; split <;> rfl
@[simp] theorem Thread.advance_posted (t : Thread) :
    (t.advance).posted = t.posted := by
  unfold Thread.advance; dsimp only; split <;> rfl
@[simp] theorem Thread.advance_since (t : Thread) :
    (t.advance).since = t.since := by
  unfold Thread.advance; dsimp only; split <;> rfl
@[simp] theorem Thread.advance_seen (t : Thread) :
    (t.advance).seen = t.seen := by
  unfold Thread.advance; dsimp only; split <;> rfl
@[simp] theorem Thread.advance_seenPosted (t : Thread) :
    (t.advance).seenPosted = t.seenPosted := by
  unfold Thread.advance; dsimp only; split <;> rfl
@[simp] theorem Thread.advance_unjoined (t : Thread) :
    (t.advance).unjoined = t.unjoined := by
  unfold Thread.advance; dsimp only; split <;> rfl
@[simp] theorem Thread.advance_pts (t : Thread) :
    (t.advance).pts = t.pts := by
  unfold Thread.advance; dsimp only; split <;> rfl
@[simp] theorem Thread.advance_due (t : Thread) :
    (t.advance).due = t.due := by
  unfold Thread.advance; dsimp only; split <;> rfl
@[simp] theorem Thread.advance_walkFaults (t : Thread) :
    (t.advance).walkFaults = [] := by
  unfold Thread.advance; dsimp only; split <;> rfl
@[simp] theorem Thread.advance_nmOut (t : Thread) :
    (t.advance).nmOut = t.nmOut := by
  unfold Thread.advance; dsimp only; split <;> rfl
@[simp] theorem Thread.advance_nmDrop (t : Thread) :
    (t.advance).nmDrop = t.nmDrop := by
  unfold Thread.advance; dsimp only; split <;> rfl
@[simp] theorem Thread.advance_dwTaken (t : Thread) :
    (t.advance).dwTaken = t.dwTaken := by
  unfold Thread.advance; dsimp only; split <;> rfl
@[simp] theorem Thread.advance_hung (t : Thread) :
    (t.advance).hung = t.hung := by
  unfold Thread.advance; dsimp only; split <;> rfl
@[simp] theorem Thread.advance_stackPoison (t : Thread) :
    (t.advance).stackPoison = t.stackPoison := by
  unfold Thread.advance; dsimp only; split <;> rfl
@[simp] theorem Thread.advance_slicePoison (t : Thread) :
    (t.advance).slicePoison = t.slicePoison := by
  unfold Thread.advance; dsimp only; split <;> rfl
@[simp] theorem Thread.advance_cunit (t : Thread) :
    (t.advance).cunit = t.cunit := by
  unfold Thread.advance; dsimp only; split <;> rfl
@[simp] theorem Thread.advance_row (t : Thread) :
    (t.advance).row = t.row := by
  unfold Thread.advance; dsimp only; split <;> rfl
@[simp] theorem Thread.advance_resv (t : Thread) :
    (t.advance).resv = t.resv := by
  unfold Thread.advance; dsimp only; split <;> rfl
@[simp] theorem Thread.advance_aged (t : Thread) :
    (t.advance).aged = t.aged := by
  unfold Thread.advance; dsimp only; split <;> rfl

@[simp] theorem Thread.jump_side (t : Thread) (k : Nat) : (t.jump k).side = t.side := rfl
@[simp] theorem Thread.jump_role (t : Thread) (k : Nat) : (t.jump k).role = t.role := rfl
@[simp] theorem Thread.jump_wg (t : Thread) (k : Nat) : (t.jump k).wg = t.wg := rfl
@[simp] theorem Thread.jump_gidx (t : Thread) (k : Nat) : (t.jump k).gidx = t.gidx := rfl
@[simp] theorem Thread.jump_width (t : Thread) (k : Nat) : (t.jump k).width = t.width := rfl
@[simp] theorem Thread.jump_pc (t : Thread) (k : Nat) : (t.jump k).pc = BitVec.ofNat 64 k := rfl
@[simp] theorem Thread.jump_line (t : Thread) (k : Nat) : (t.jump k).line = none := rfl
@[simp] theorem Thread.jump_enter (t : Thread) (k : Nat) : (t.jump k).enter = .branch := rfl
@[simp] theorem Thread.jump_status (t : Thread) (k : Nat) : (t.jump k).status = t.status := rfl
@[simp] theorem Thread.jump_regs (t : Thread) (k : Nat) : (t.jump k).regs = t.regs := rfl
@[simp] theorem Thread.jump_prods (t : Thread) (k : Nat) : (t.jump k).prods = t.prods := rfl
@[simp] theorem Thread.jump_queries (t : Thread) (k : Nat) : (t.jump k).queries = t.queries := rfl
@[simp] theorem Thread.jump_stack (t : Thread) (k : Nat) : (t.jump k).stack = t.stack := rfl
@[simp] theorem Thread.jump_slice (t : Thread) (k : Nat) : (t.jump k).slice = t.slice := rfl
@[simp] theorem Thread.jump_frame (t : Thread) (k : Nat) : (t.jump k).frame = t.frame := rfl
@[simp] theorem Thread.jump_savedVe (t : Thread) (k : Nat) : (t.jump k).savedVe = t.savedVe := rfl
@[simp] theorem Thread.jump_savedGe (t : Thread) (k : Nat) : (t.jump k).savedGe = t.savedGe := rfl
@[simp] theorem Thread.jump_handler (t : Thread) (k : Nat) : (t.jump k).handler = t.handler := rfl
@[simp] theorem Thread.jump_entryDepth (t : Thread) (k : Nat) : (t.jump k).entryDepth = t.entryDepth := rfl
@[simp] theorem Thread.jump_tcause (t : Thread) (k : Nat) : (t.jump k).tcause = t.tcause := rfl
@[simp] theorem Thread.jump_tpc (t : Thread) (k : Nat) : (t.jump k).tpc = t.tpc := rfl
@[simp] theorem Thread.jump_taddr (t : Thread) (k : Nat) : (t.jump k).taddr = t.taddr := rfl
@[simp] theorem Thread.jump_tinfo (t : Thread) (k : Nat) : (t.jump k).tinfo = t.tinfo := rfl
@[simp] theorem Thread.jump_tpte (t : Thread) (k : Nat) : (t.jump k).tpte = t.tpte := rfl
@[simp] theorem Thread.jump_trees (t : Thread) (k : Nat) : (t.jump k).trees = t.trees := rfl
@[simp] theorem Thread.jump_pend (t : Thread) (k : Nat) : (t.jump k).pend = t.pend := rfl
@[simp] theorem Thread.jump_sent (t : Thread) (k : Nat) : (t.jump k).sent = t.sent := rfl
@[simp] theorem Thread.jump_asks (t : Thread) (k : Nat) : (t.jump k).asks = [] := rfl
@[simp] theorem Thread.jump_answers (t : Thread) (k : Nat) : (t.jump k).answers = [] := rfl
@[simp] theorem Thread.jump_kept (t : Thread) (k : Nat) : (t.jump k).kept = [] := rfl
@[simp] theorem Thread.jump_posted (t : Thread) (k : Nat) : (t.jump k).posted = t.posted := rfl
@[simp] theorem Thread.jump_since (t : Thread) (k : Nat) : (t.jump k).since = t.since := rfl
@[simp] theorem Thread.jump_seen (t : Thread) (k : Nat) : (t.jump k).seen = t.seen := rfl
@[simp] theorem Thread.jump_seenPosted (t : Thread) (k : Nat) : (t.jump k).seenPosted = t.seenPosted := rfl
@[simp] theorem Thread.jump_unjoined (t : Thread) (k : Nat) : (t.jump k).unjoined = t.unjoined := rfl
@[simp] theorem Thread.jump_pts (t : Thread) (k : Nat) : (t.jump k).pts = t.pts := rfl
@[simp] theorem Thread.jump_due (t : Thread) (k : Nat) : (t.jump k).due = t.due := rfl
@[simp] theorem Thread.jump_walkFaults (t : Thread) (k : Nat) : (t.jump k).walkFaults = [] := rfl
@[simp] theorem Thread.jump_nmOut (t : Thread) (k : Nat) : (t.jump k).nmOut = t.nmOut := rfl
@[simp] theorem Thread.jump_nmDrop (t : Thread) (k : Nat) : (t.jump k).nmDrop = t.nmDrop := rfl
@[simp] theorem Thread.jump_dwTaken (t : Thread) (k : Nat) : (t.jump k).dwTaken = t.dwTaken := rfl
@[simp] theorem Thread.jump_hung (t : Thread) (k : Nat) : (t.jump k).hung = t.hung := rfl
@[simp] theorem Thread.jump_stackPoison (t : Thread) (k : Nat) : (t.jump k).stackPoison = t.stackPoison := rfl
@[simp] theorem Thread.jump_slicePoison (t : Thread) (k : Nat) : (t.jump k).slicePoison = t.slicePoison := rfl
@[simp] theorem Thread.jump_cunit (t : Thread) (k : Nat) : (t.jump k).cunit = t.cunit := rfl
@[simp] theorem Thread.jump_row (t : Thread) (k : Nat) : (t.jump k).row = t.row := rfl
@[simp] theorem Thread.jump_resv (t : Thread) (k : Nat) : (t.jump k).resv = t.resv := rfl
@[simp] theorem Thread.jump_aged (t : Thread) (k : Nat) : (t.jump k).aged = t.aged := rfl

@[simp] theorem Thread.setCC_side (t : Thread) (f : Flags) : (t.setCC f).side = t.side := rfl
@[simp] theorem Thread.setCC_role (t : Thread) (f : Flags) : (t.setCC f).role = t.role := rfl
@[simp] theorem Thread.setCC_wg (t : Thread) (f : Flags) : (t.setCC f).wg = t.wg := rfl
@[simp] theorem Thread.setCC_gidx (t : Thread) (f : Flags) : (t.setCC f).gidx = t.gidx := rfl
@[simp] theorem Thread.setCC_width (t : Thread) (f : Flags) : (t.setCC f).width = t.width := rfl
@[simp] theorem Thread.setCC_pc (t : Thread) (f : Flags) : (t.setCC f).pc = t.pc := rfl
@[simp] theorem Thread.setCC_line (t : Thread) (f : Flags) : (t.setCC f).line = t.line := rfl
@[simp] theorem Thread.setCC_enter (t : Thread) (f : Flags) : (t.setCC f).enter = t.enter := rfl
@[simp] theorem Thread.setCC_status (t : Thread) (f : Flags) : (t.setCC f).status = t.status := rfl
@[simp] theorem Thread.setCC_regs (t : Thread) (f : Flags) : (t.setCC f).regs = { t.regs with cc := f.bits } := rfl
@[simp] theorem Thread.setCC_prods (t : Thread) (f : Flags) : (t.setCC f).prods = t.prods := rfl
@[simp] theorem Thread.setCC_queries (t : Thread) (f : Flags) : (t.setCC f).queries = t.queries := rfl
@[simp] theorem Thread.setCC_stack (t : Thread) (f : Flags) : (t.setCC f).stack = t.stack := rfl
@[simp] theorem Thread.setCC_slice (t : Thread) (f : Flags) : (t.setCC f).slice = t.slice := rfl
@[simp] theorem Thread.setCC_frame (t : Thread) (f : Flags) : (t.setCC f).frame = t.frame := rfl
@[simp] theorem Thread.setCC_savedVe (t : Thread) (f : Flags) : (t.setCC f).savedVe = t.savedVe := rfl
@[simp] theorem Thread.setCC_savedGe (t : Thread) (f : Flags) : (t.setCC f).savedGe = t.savedGe := rfl
@[simp] theorem Thread.setCC_handler (t : Thread) (f : Flags) : (t.setCC f).handler = t.handler := rfl
@[simp] theorem Thread.setCC_entryDepth (t : Thread) (f : Flags) : (t.setCC f).entryDepth = t.entryDepth := rfl
@[simp] theorem Thread.setCC_tcause (t : Thread) (f : Flags) : (t.setCC f).tcause = t.tcause := rfl
@[simp] theorem Thread.setCC_tpc (t : Thread) (f : Flags) : (t.setCC f).tpc = t.tpc := rfl
@[simp] theorem Thread.setCC_taddr (t : Thread) (f : Flags) : (t.setCC f).taddr = t.taddr := rfl
@[simp] theorem Thread.setCC_tinfo (t : Thread) (f : Flags) : (t.setCC f).tinfo = t.tinfo := rfl
@[simp] theorem Thread.setCC_tpte (t : Thread) (f : Flags) : (t.setCC f).tpte = t.tpte := rfl
@[simp] theorem Thread.setCC_trees (t : Thread) (f : Flags) : (t.setCC f).trees = t.trees := rfl
@[simp] theorem Thread.setCC_pend (t : Thread) (f : Flags) : (t.setCC f).pend = t.pend := rfl
@[simp] theorem Thread.setCC_sent (t : Thread) (f : Flags) : (t.setCC f).sent = t.sent := rfl
@[simp] theorem Thread.setCC_asks (t : Thread) (f : Flags) : (t.setCC f).asks = t.asks := rfl
@[simp] theorem Thread.setCC_answers (t : Thread) (f : Flags) : (t.setCC f).answers = t.answers := rfl
@[simp] theorem Thread.setCC_kept (t : Thread) (f : Flags) : (t.setCC f).kept = t.kept := rfl
@[simp] theorem Thread.setCC_posted (t : Thread) (f : Flags) : (t.setCC f).posted = t.posted := rfl
@[simp] theorem Thread.setCC_since (t : Thread) (f : Flags) : (t.setCC f).since = t.since := rfl
@[simp] theorem Thread.setCC_seen (t : Thread) (f : Flags) : (t.setCC f).seen = t.seen := rfl
@[simp] theorem Thread.setCC_seenPosted (t : Thread) (f : Flags) : (t.setCC f).seenPosted = t.seenPosted := rfl
@[simp] theorem Thread.setCC_unjoined (t : Thread) (f : Flags) : (t.setCC f).unjoined = t.unjoined := rfl
@[simp] theorem Thread.setCC_pts (t : Thread) (f : Flags) : (t.setCC f).pts = t.pts := rfl
@[simp] theorem Thread.setCC_due (t : Thread) (f : Flags) : (t.setCC f).due = t.due := rfl
@[simp] theorem Thread.setCC_walkFaults (t : Thread) (f : Flags) : (t.setCC f).walkFaults = t.walkFaults := rfl
@[simp] theorem Thread.setCC_nmOut (t : Thread) (f : Flags) : (t.setCC f).nmOut = t.nmOut := rfl
@[simp] theorem Thread.setCC_nmDrop (t : Thread) (f : Flags) : (t.setCC f).nmDrop = t.nmDrop := rfl
@[simp] theorem Thread.setCC_dwTaken (t : Thread) (f : Flags) : (t.setCC f).dwTaken = t.dwTaken := rfl
@[simp] theorem Thread.setCC_hung (t : Thread) (f : Flags) : (t.setCC f).hung = t.hung := rfl
@[simp] theorem Thread.setCC_stackPoison (t : Thread) (f : Flags) : (t.setCC f).stackPoison = t.stackPoison := rfl
@[simp] theorem Thread.setCC_slicePoison (t : Thread) (f : Flags) : (t.setCC f).slicePoison = t.slicePoison := rfl
@[simp] theorem Thread.setCC_cunit (t : Thread) (f : Flags) : (t.setCC f).cunit = t.cunit := rfl
@[simp] theorem Thread.setCC_row (t : Thread) (f : Flags) : (t.setCC f).row = t.row := rfl
@[simp] theorem Thread.setCC_resv (t : Thread) (f : Flags) : (t.setCC f).resv = t.resv := rfl
@[simp] theorem Thread.setCC_aged (t : Thread) (f : Flags) : (t.setCC f).aged = t.aged := rfl

@[simp] theorem Thread.raise_side (t : Thread) (f : FpFlags) : (t.raise f).side = t.side := rfl
@[simp] theorem Thread.raise_role (t : Thread) (f : FpFlags) : (t.raise f).role = t.role := rfl
@[simp] theorem Thread.raise_wg (t : Thread) (f : FpFlags) : (t.raise f).wg = t.wg := rfl
@[simp] theorem Thread.raise_gidx (t : Thread) (f : FpFlags) : (t.raise f).gidx = t.gidx := rfl
@[simp] theorem Thread.raise_width (t : Thread) (f : FpFlags) : (t.raise f).width = t.width := rfl
@[simp] theorem Thread.raise_pc (t : Thread) (f : FpFlags) : (t.raise f).pc = t.pc := rfl
@[simp] theorem Thread.raise_line (t : Thread) (f : FpFlags) : (t.raise f).line = t.line := rfl
@[simp] theorem Thread.raise_enter (t : Thread) (f : FpFlags) : (t.raise f).enter = t.enter := rfl
@[simp] theorem Thread.raise_status (t : Thread) (f : FpFlags) : (t.raise f).status = t.status := rfl
@[simp] theorem Thread.raise_regs (t : Thread) (f : FpFlags) :
    (t.raise f).regs = { t.regs with fpm := t.regs.fpm ||| f.bits } := rfl
@[simp] theorem Thread.raise_prods (t : Thread) (f : FpFlags) : (t.raise f).prods = t.prods := rfl
@[simp] theorem Thread.raise_queries (t : Thread) (f : FpFlags) : (t.raise f).queries = t.queries := rfl
@[simp] theorem Thread.raise_stack (t : Thread) (f : FpFlags) : (t.raise f).stack = t.stack := rfl
@[simp] theorem Thread.raise_slice (t : Thread) (f : FpFlags) : (t.raise f).slice = t.slice := rfl
@[simp] theorem Thread.raise_frame (t : Thread) (f : FpFlags) : (t.raise f).frame = t.frame := rfl
@[simp] theorem Thread.raise_savedVe (t : Thread) (f : FpFlags) : (t.raise f).savedVe = t.savedVe := rfl
@[simp] theorem Thread.raise_savedGe (t : Thread) (f : FpFlags) : (t.raise f).savedGe = t.savedGe := rfl
@[simp] theorem Thread.raise_handler (t : Thread) (f : FpFlags) : (t.raise f).handler = t.handler := rfl
@[simp] theorem Thread.raise_entryDepth (t : Thread) (f : FpFlags) : (t.raise f).entryDepth = t.entryDepth := rfl
@[simp] theorem Thread.raise_tcause (t : Thread) (f : FpFlags) : (t.raise f).tcause = t.tcause := rfl
@[simp] theorem Thread.raise_tpc (t : Thread) (f : FpFlags) : (t.raise f).tpc = t.tpc := rfl
@[simp] theorem Thread.raise_taddr (t : Thread) (f : FpFlags) : (t.raise f).taddr = t.taddr := rfl
@[simp] theorem Thread.raise_tinfo (t : Thread) (f : FpFlags) : (t.raise f).tinfo = t.tinfo := rfl
@[simp] theorem Thread.raise_tpte (t : Thread) (f : FpFlags) : (t.raise f).tpte = t.tpte := rfl
@[simp] theorem Thread.raise_trees (t : Thread) (f : FpFlags) : (t.raise f).trees = t.trees := rfl
@[simp] theorem Thread.raise_pend (t : Thread) (f : FpFlags) : (t.raise f).pend = t.pend := rfl
@[simp] theorem Thread.raise_sent (t : Thread) (f : FpFlags) : (t.raise f).sent = t.sent := rfl
@[simp] theorem Thread.raise_asks (t : Thread) (f : FpFlags) : (t.raise f).asks = t.asks := rfl
@[simp] theorem Thread.raise_answers (t : Thread) (f : FpFlags) : (t.raise f).answers = t.answers := rfl
@[simp] theorem Thread.raise_kept (t : Thread) (f : FpFlags) : (t.raise f).kept = t.kept := rfl
@[simp] theorem Thread.raise_posted (t : Thread) (f : FpFlags) : (t.raise f).posted = t.posted := rfl
@[simp] theorem Thread.raise_since (t : Thread) (f : FpFlags) : (t.raise f).since = t.since := rfl
@[simp] theorem Thread.raise_seen (t : Thread) (f : FpFlags) : (t.raise f).seen = t.seen := rfl
@[simp] theorem Thread.raise_seenPosted (t : Thread) (f : FpFlags) : (t.raise f).seenPosted = t.seenPosted := rfl
@[simp] theorem Thread.raise_unjoined (t : Thread) (f : FpFlags) : (t.raise f).unjoined = t.unjoined := rfl
@[simp] theorem Thread.raise_pts (t : Thread) (f : FpFlags) : (t.raise f).pts = t.pts := rfl
@[simp] theorem Thread.raise_due (t : Thread) (f : FpFlags) : (t.raise f).due = t.due := rfl
@[simp] theorem Thread.raise_walkFaults (t : Thread) (f : FpFlags) : (t.raise f).walkFaults = t.walkFaults := rfl
@[simp] theorem Thread.raise_nmOut (t : Thread) (f : FpFlags) : (t.raise f).nmOut = t.nmOut := rfl
@[simp] theorem Thread.raise_nmDrop (t : Thread) (f : FpFlags) : (t.raise f).nmDrop = t.nmDrop := rfl
@[simp] theorem Thread.raise_dwTaken (t : Thread) (f : FpFlags) : (t.raise f).dwTaken = t.dwTaken := rfl
@[simp] theorem Thread.raise_hung (t : Thread) (f : FpFlags) : (t.raise f).hung = t.hung := rfl
@[simp] theorem Thread.raise_stackPoison (t : Thread) (f : FpFlags) : (t.raise f).stackPoison = t.stackPoison := rfl
@[simp] theorem Thread.raise_slicePoison (t : Thread) (f : FpFlags) : (t.raise f).slicePoison = t.slicePoison := rfl
@[simp] theorem Thread.raise_cunit (t : Thread) (f : FpFlags) : (t.raise f).cunit = t.cunit := rfl
@[simp] theorem Thread.raise_row (t : Thread) (f : FpFlags) : (t.raise f).row = t.row := rfl
@[simp] theorem Thread.raise_resv (t : Thread) (f : FpFlags) : (t.raise f).resv = t.resv := rfl
@[simp] theorem Thread.raise_aged (t : Thread) (f : FpFlags) : (t.raise f).aged = t.aged := rfl

@[simp] theorem Thread.setMask_side (t : Thread) (k : Nat) (v : BitVec 64) :
    (t.setMask k v).side = t.side := by
  unfold Thread.setMask; split <;> rfl
@[simp] theorem Thread.setMask_role (t : Thread) (k : Nat) (v : BitVec 64) :
    (t.setMask k v).role = t.role := by
  unfold Thread.setMask; split <;> rfl
@[simp] theorem Thread.setMask_wg (t : Thread) (k : Nat) (v : BitVec 64) :
    (t.setMask k v).wg = t.wg := by
  unfold Thread.setMask; split <;> rfl
@[simp] theorem Thread.setMask_gidx (t : Thread) (k : Nat) (v : BitVec 64) :
    (t.setMask k v).gidx = t.gidx := by
  unfold Thread.setMask; split <;> rfl
@[simp] theorem Thread.setMask_width (t : Thread) (k : Nat) (v : BitVec 64) :
    (t.setMask k v).width = t.width := by
  unfold Thread.setMask; split <;> rfl
@[simp] theorem Thread.setMask_pc (t : Thread) (k : Nat) (v : BitVec 64) :
    (t.setMask k v).pc = t.pc := by
  unfold Thread.setMask; split <;> rfl
@[simp] theorem Thread.setMask_line (t : Thread) (k : Nat) (v : BitVec 64) :
    (t.setMask k v).line = t.line := by
  unfold Thread.setMask; split <;> rfl
@[simp] theorem Thread.setMask_enter (t : Thread) (k : Nat) (v : BitVec 64) :
    (t.setMask k v).enter = t.enter := by
  unfold Thread.setMask; split <;> rfl
@[simp] theorem Thread.setMask_status (t : Thread) (k : Nat) (v : BitVec 64) :
    (t.setMask k v).status = t.status := by
  unfold Thread.setMask; split <;> rfl
@[simp] theorem Thread.setMask_prods (t : Thread) (k : Nat) (v : BitVec 64) :
    (t.setMask k v).prods = t.prods := by
  unfold Thread.setMask; split <;> rfl
@[simp] theorem Thread.setMask_queries (t : Thread) (k : Nat) (v : BitVec 64) :
    (t.setMask k v).queries = t.queries := by
  unfold Thread.setMask; split <;> rfl
@[simp] theorem Thread.setMask_stack (t : Thread) (k : Nat) (v : BitVec 64) :
    (t.setMask k v).stack = t.stack := by
  unfold Thread.setMask; split <;> rfl
@[simp] theorem Thread.setMask_slice (t : Thread) (k : Nat) (v : BitVec 64) :
    (t.setMask k v).slice = t.slice := by
  unfold Thread.setMask; split <;> rfl
@[simp] theorem Thread.setMask_frame (t : Thread) (k : Nat) (v : BitVec 64) :
    (t.setMask k v).frame = t.frame := by
  unfold Thread.setMask; split <;> rfl
@[simp] theorem Thread.setMask_savedVe (t : Thread) (k : Nat) (v : BitVec 64) :
    (t.setMask k v).savedVe = t.savedVe := by
  unfold Thread.setMask; split <;> rfl
@[simp] theorem Thread.setMask_savedGe (t : Thread) (k : Nat) (v : BitVec 64) :
    (t.setMask k v).savedGe = t.savedGe := by
  unfold Thread.setMask; split <;> rfl
@[simp] theorem Thread.setMask_handler (t : Thread) (k : Nat) (v : BitVec 64) :
    (t.setMask k v).handler = t.handler := by
  unfold Thread.setMask; split <;> rfl
@[simp] theorem Thread.setMask_entryDepth (t : Thread) (k : Nat) (v : BitVec 64) :
    (t.setMask k v).entryDepth = t.entryDepth := by
  unfold Thread.setMask; split <;> rfl
@[simp] theorem Thread.setMask_tcause (t : Thread) (k : Nat) (v : BitVec 64) :
    (t.setMask k v).tcause = t.tcause := by
  unfold Thread.setMask; split <;> rfl
@[simp] theorem Thread.setMask_tpc (t : Thread) (k : Nat) (v : BitVec 64) :
    (t.setMask k v).tpc = t.tpc := by
  unfold Thread.setMask; split <;> rfl
@[simp] theorem Thread.setMask_taddr (t : Thread) (k : Nat) (v : BitVec 64) :
    (t.setMask k v).taddr = t.taddr := by
  unfold Thread.setMask; split <;> rfl
@[simp] theorem Thread.setMask_tinfo (t : Thread) (k : Nat) (v : BitVec 64) :
    (t.setMask k v).tinfo = t.tinfo := by
  unfold Thread.setMask; split <;> rfl
@[simp] theorem Thread.setMask_tpte (t : Thread) (k : Nat) (v : BitVec 64) :
    (t.setMask k v).tpte = t.tpte := by
  unfold Thread.setMask; split <;> rfl
@[simp] theorem Thread.setMask_trees (t : Thread) (k : Nat) (v : BitVec 64) :
    (t.setMask k v).trees = t.trees := by
  unfold Thread.setMask; split <;> rfl
@[simp] theorem Thread.setMask_pend (t : Thread) (k : Nat) (v : BitVec 64) :
    (t.setMask k v).pend = t.pend := by
  unfold Thread.setMask; split <;> rfl
@[simp] theorem Thread.setMask_sent (t : Thread) (k : Nat) (v : BitVec 64) :
    (t.setMask k v).sent = t.sent := by
  unfold Thread.setMask; split <;> rfl
@[simp] theorem Thread.setMask_asks (t : Thread) (k : Nat) (v : BitVec 64) :
    (t.setMask k v).asks = t.asks := by
  unfold Thread.setMask; split <;> rfl
@[simp] theorem Thread.setMask_answers (t : Thread) (k : Nat) (v : BitVec 64) :
    (t.setMask k v).answers = t.answers := by
  unfold Thread.setMask; split <;> rfl
@[simp] theorem Thread.setMask_kept (t : Thread) (k : Nat) (v : BitVec 64) :
    (t.setMask k v).kept = t.kept := by
  unfold Thread.setMask; split <;> rfl
@[simp] theorem Thread.setMask_posted (t : Thread) (k : Nat) (v : BitVec 64) :
    (t.setMask k v).posted = t.posted := by
  unfold Thread.setMask; split <;> rfl
@[simp] theorem Thread.setMask_since (t : Thread) (k : Nat) (v : BitVec 64) :
    (t.setMask k v).since = t.since := by
  unfold Thread.setMask; split <;> rfl
@[simp] theorem Thread.setMask_seen (t : Thread) (k : Nat) (v : BitVec 64) :
    (t.setMask k v).seen = t.seen := by
  unfold Thread.setMask; split <;> rfl
@[simp] theorem Thread.setMask_seenPosted (t : Thread) (k : Nat) (v : BitVec 64) :
    (t.setMask k v).seenPosted = t.seenPosted := by
  unfold Thread.setMask; split <;> rfl
@[simp] theorem Thread.setMask_unjoined (t : Thread) (k : Nat) (v : BitVec 64) :
    (t.setMask k v).unjoined = t.unjoined := by
  unfold Thread.setMask; split <;> rfl
@[simp] theorem Thread.setMask_pts (t : Thread) (k : Nat) (v : BitVec 64) :
    (t.setMask k v).pts = t.pts := by
  unfold Thread.setMask; split <;> rfl
@[simp] theorem Thread.setMask_due (t : Thread) (k : Nat) (v : BitVec 64) :
    (t.setMask k v).due = t.due := by
  unfold Thread.setMask; split <;> rfl
@[simp] theorem Thread.setMask_walkFaults (t : Thread) (k : Nat) (v : BitVec 64) :
    (t.setMask k v).walkFaults = t.walkFaults := by
  unfold Thread.setMask; split <;> rfl
@[simp] theorem Thread.setMask_nmOut (t : Thread) (k : Nat) (v : BitVec 64) :
    (t.setMask k v).nmOut = t.nmOut := by
  unfold Thread.setMask; split <;> rfl
@[simp] theorem Thread.setMask_nmDrop (t : Thread) (k : Nat) (v : BitVec 64) :
    (t.setMask k v).nmDrop = t.nmDrop := by
  unfold Thread.setMask; split <;> rfl
@[simp] theorem Thread.setMask_dwTaken (t : Thread) (k : Nat) (v : BitVec 64) :
    (t.setMask k v).dwTaken = t.dwTaken := by
  unfold Thread.setMask; split <;> rfl
@[simp] theorem Thread.setMask_hung (t : Thread) (k : Nat) (v : BitVec 64) :
    (t.setMask k v).hung = t.hung := by
  unfold Thread.setMask; split <;> rfl
@[simp] theorem Thread.setMask_stackPoison (t : Thread) (k : Nat) (v : BitVec 64) :
    (t.setMask k v).stackPoison = t.stackPoison := by
  unfold Thread.setMask; split <;> rfl
@[simp] theorem Thread.setMask_slicePoison (t : Thread) (k : Nat) (v : BitVec 64) :
    (t.setMask k v).slicePoison = t.slicePoison := by
  unfold Thread.setMask; split <;> rfl
@[simp] theorem Thread.setMask_cunit (t : Thread) (k : Nat) (v : BitVec 64) :
    (t.setMask k v).cunit = t.cunit := by
  unfold Thread.setMask; split <;> rfl
@[simp] theorem Thread.setMask_row (t : Thread) (k : Nat) (v : BitVec 64) :
    (t.setMask k v).row = t.row := by
  unfold Thread.setMask; split <;> rfl
@[simp] theorem Thread.setMask_resv (t : Thread) (k : Nat) (v : BitVec 64) :
    (t.setMask k v).resv = t.resv := by
  unfold Thread.setMask; split <;> rfl
@[simp] theorem Thread.setMask_aged (t : Thread) (k : Nat) (v : BitVec 64) :
    (t.setMask k v).aged = t.aged := by
  unfold Thread.setMask; split <;> rfl

@[simp] theorem Thread.putG_side (t : Thread) (d : Nat) (v : W64) :
    (t.putG d v).side = t.side := by
  unfold Thread.putG; split <;> rfl
@[simp] theorem Thread.putG_role (t : Thread) (d : Nat) (v : W64) :
    (t.putG d v).role = t.role := by
  unfold Thread.putG; split <;> rfl
@[simp] theorem Thread.putG_wg (t : Thread) (d : Nat) (v : W64) :
    (t.putG d v).wg = t.wg := by
  unfold Thread.putG; split <;> rfl
@[simp] theorem Thread.putG_gidx (t : Thread) (d : Nat) (v : W64) :
    (t.putG d v).gidx = t.gidx := by
  unfold Thread.putG; split <;> rfl
@[simp] theorem Thread.putG_width (t : Thread) (d : Nat) (v : W64) :
    (t.putG d v).width = t.width := by
  unfold Thread.putG; split <;> rfl
@[simp] theorem Thread.putG_pc (t : Thread) (d : Nat) (v : W64) :
    (t.putG d v).pc = t.pc := by
  unfold Thread.putG; split <;> rfl
@[simp] theorem Thread.putG_line (t : Thread) (d : Nat) (v : W64) :
    (t.putG d v).line = t.line := by
  unfold Thread.putG; split <;> rfl
@[simp] theorem Thread.putG_enter (t : Thread) (d : Nat) (v : W64) :
    (t.putG d v).enter = t.enter := by
  unfold Thread.putG; split <;> rfl
@[simp] theorem Thread.putG_status (t : Thread) (d : Nat) (v : W64) :
    (t.putG d v).status = t.status := by
  unfold Thread.putG; split <;> rfl
@[simp] theorem Thread.putG_prods (t : Thread) (d : Nat) (v : W64) :
    (t.putG d v).prods = t.prods := by
  unfold Thread.putG; split <;> rfl
@[simp] theorem Thread.putG_queries (t : Thread) (d : Nat) (v : W64) :
    (t.putG d v).queries = t.queries := by
  unfold Thread.putG; split <;> rfl
@[simp] theorem Thread.putG_stack (t : Thread) (d : Nat) (v : W64) :
    (t.putG d v).stack = t.stack := by
  unfold Thread.putG; split <;> rfl
@[simp] theorem Thread.putG_slice (t : Thread) (d : Nat) (v : W64) :
    (t.putG d v).slice = t.slice := by
  unfold Thread.putG; split <;> rfl
@[simp] theorem Thread.putG_frame (t : Thread) (d : Nat) (v : W64) :
    (t.putG d v).frame = t.frame := by
  unfold Thread.putG; split <;> rfl
@[simp] theorem Thread.putG_savedVe (t : Thread) (d : Nat) (v : W64) :
    (t.putG d v).savedVe = t.savedVe := by
  unfold Thread.putG; split <;> rfl
@[simp] theorem Thread.putG_savedGe (t : Thread) (d : Nat) (v : W64) :
    (t.putG d v).savedGe = t.savedGe := by
  unfold Thread.putG; split <;> rfl
@[simp] theorem Thread.putG_handler (t : Thread) (d : Nat) (v : W64) :
    (t.putG d v).handler = t.handler := by
  unfold Thread.putG; split <;> rfl
@[simp] theorem Thread.putG_entryDepth (t : Thread) (d : Nat) (v : W64) :
    (t.putG d v).entryDepth = t.entryDepth := by
  unfold Thread.putG; split <;> rfl
@[simp] theorem Thread.putG_tcause (t : Thread) (d : Nat) (v : W64) :
    (t.putG d v).tcause = t.tcause := by
  unfold Thread.putG; split <;> rfl
@[simp] theorem Thread.putG_tpc (t : Thread) (d : Nat) (v : W64) :
    (t.putG d v).tpc = t.tpc := by
  unfold Thread.putG; split <;> rfl
@[simp] theorem Thread.putG_taddr (t : Thread) (d : Nat) (v : W64) :
    (t.putG d v).taddr = t.taddr := by
  unfold Thread.putG; split <;> rfl
@[simp] theorem Thread.putG_tinfo (t : Thread) (d : Nat) (v : W64) :
    (t.putG d v).tinfo = t.tinfo := by
  unfold Thread.putG; split <;> rfl
@[simp] theorem Thread.putG_tpte (t : Thread) (d : Nat) (v : W64) :
    (t.putG d v).tpte = t.tpte := by
  unfold Thread.putG; split <;> rfl
@[simp] theorem Thread.putG_trees (t : Thread) (d : Nat) (v : W64) :
    (t.putG d v).trees = t.trees := by
  unfold Thread.putG; split <;> rfl
@[simp] theorem Thread.putG_pend (t : Thread) (d : Nat) (v : W64) :
    (t.putG d v).pend = t.pend := by
  unfold Thread.putG; split <;> rfl
@[simp] theorem Thread.putG_sent (t : Thread) (d : Nat) (v : W64) :
    (t.putG d v).sent = t.sent := by
  unfold Thread.putG; split <;> rfl
@[simp] theorem Thread.putG_asks (t : Thread) (d : Nat) (v : W64) :
    (t.putG d v).asks = t.asks := by
  unfold Thread.putG; split <;> rfl
@[simp] theorem Thread.putG_answers (t : Thread) (d : Nat) (v : W64) :
    (t.putG d v).answers = t.answers := by
  unfold Thread.putG; split <;> rfl
@[simp] theorem Thread.putG_kept (t : Thread) (d : Nat) (v : W64) :
    (t.putG d v).kept = t.kept := by
  unfold Thread.putG; split <;> rfl
@[simp] theorem Thread.putG_posted (t : Thread) (d : Nat) (v : W64) :
    (t.putG d v).posted = t.posted := by
  unfold Thread.putG; split <;> rfl
@[simp] theorem Thread.putG_since (t : Thread) (d : Nat) (v : W64) :
    (t.putG d v).since = t.since := by
  unfold Thread.putG; split <;> rfl
@[simp] theorem Thread.putG_seen (t : Thread) (d : Nat) (v : W64) :
    (t.putG d v).seen = t.seen := by
  unfold Thread.putG; split <;> rfl
@[simp] theorem Thread.putG_seenPosted (t : Thread) (d : Nat) (v : W64) :
    (t.putG d v).seenPosted = t.seenPosted := by
  unfold Thread.putG; split <;> rfl
@[simp] theorem Thread.putG_unjoined (t : Thread) (d : Nat) (v : W64) :
    (t.putG d v).unjoined = t.unjoined := by
  unfold Thread.putG; split <;> rfl
@[simp] theorem Thread.putG_pts (t : Thread) (d : Nat) (v : W64) :
    (t.putG d v).pts = t.pts := by
  unfold Thread.putG; split <;> rfl
@[simp] theorem Thread.putG_due (t : Thread) (d : Nat) (v : W64) :
    (t.putG d v).due = t.due := by
  unfold Thread.putG; split <;> rfl
@[simp] theorem Thread.putG_walkFaults (t : Thread) (d : Nat) (v : W64) :
    (t.putG d v).walkFaults = t.walkFaults := by
  unfold Thread.putG; split <;> rfl
@[simp] theorem Thread.putG_nmOut (t : Thread) (d : Nat) (v : W64) :
    (t.putG d v).nmOut = t.nmOut := by
  unfold Thread.putG; split <;> rfl
@[simp] theorem Thread.putG_nmDrop (t : Thread) (d : Nat) (v : W64) :
    (t.putG d v).nmDrop = t.nmDrop := by
  unfold Thread.putG; split <;> rfl
@[simp] theorem Thread.putG_dwTaken (t : Thread) (d : Nat) (v : W64) :
    (t.putG d v).dwTaken = t.dwTaken := by
  unfold Thread.putG; split <;> rfl
@[simp] theorem Thread.putG_hung (t : Thread) (d : Nat) (v : W64) :
    (t.putG d v).hung = t.hung := by
  unfold Thread.putG; split <;> rfl
@[simp] theorem Thread.putG_stackPoison (t : Thread) (d : Nat) (v : W64) :
    (t.putG d v).stackPoison = t.stackPoison := by
  unfold Thread.putG; split <;> rfl
@[simp] theorem Thread.putG_slicePoison (t : Thread) (d : Nat) (v : W64) :
    (t.putG d v).slicePoison = t.slicePoison := by
  unfold Thread.putG; split <;> rfl
@[simp] theorem Thread.putG_cunit (t : Thread) (d : Nat) (v : W64) :
    (t.putG d v).cunit = t.cunit := by
  unfold Thread.putG; split <;> rfl
@[simp] theorem Thread.putG_row (t : Thread) (d : Nat) (v : W64) :
    (t.putG d v).row = t.row := by
  unfold Thread.putG; split <;> rfl
@[simp] theorem Thread.putG_resv (t : Thread) (d : Nat) (v : W64) :
    (t.putG d v).resv = t.resv := by
  unfold Thread.putG; split <;> rfl
@[simp] theorem Thread.putG_aged (t : Thread) (d : Nat) (v : W64) :
    (t.putG d v).aged = t.aged := by
  unfold Thread.putG; split <;> rfl

@[simp] theorem Thread.put_side (t : Thread) (d n : Nat) (sg : Bool) (bits : Nat) (f : Nat → Nat) :
    (t.put d n sg bits f).side = t.side := by
  unfold Thread.put; (repeat' split) <;> rfl
@[simp] theorem Thread.put_role (t : Thread) (d n : Nat) (sg : Bool) (bits : Nat) (f : Nat → Nat) :
    (t.put d n sg bits f).role = t.role := by
  unfold Thread.put; (repeat' split) <;> rfl
@[simp] theorem Thread.put_wg (t : Thread) (d n : Nat) (sg : Bool) (bits : Nat) (f : Nat → Nat) :
    (t.put d n sg bits f).wg = t.wg := by
  unfold Thread.put; (repeat' split) <;> rfl
@[simp] theorem Thread.put_gidx (t : Thread) (d n : Nat) (sg : Bool) (bits : Nat) (f : Nat → Nat) :
    (t.put d n sg bits f).gidx = t.gidx := by
  unfold Thread.put; (repeat' split) <;> rfl
@[simp] theorem Thread.put_width (t : Thread) (d n : Nat) (sg : Bool) (bits : Nat) (f : Nat → Nat) :
    (t.put d n sg bits f).width = t.width := by
  unfold Thread.put; (repeat' split) <;> rfl
@[simp] theorem Thread.put_pc (t : Thread) (d n : Nat) (sg : Bool) (bits : Nat) (f : Nat → Nat) :
    (t.put d n sg bits f).pc = t.pc := by
  unfold Thread.put; (repeat' split) <;> rfl
@[simp] theorem Thread.put_line (t : Thread) (d n : Nat) (sg : Bool) (bits : Nat) (f : Nat → Nat) :
    (t.put d n sg bits f).line = t.line := by
  unfold Thread.put; (repeat' split) <;> rfl
@[simp] theorem Thread.put_enter (t : Thread) (d n : Nat) (sg : Bool) (bits : Nat) (f : Nat → Nat) :
    (t.put d n sg bits f).enter = t.enter := by
  unfold Thread.put; (repeat' split) <;> rfl
@[simp] theorem Thread.put_status (t : Thread) (d n : Nat) (sg : Bool) (bits : Nat) (f : Nat → Nat) :
    (t.put d n sg bits f).status = t.status := by
  unfold Thread.put; (repeat' split) <;> rfl
@[simp] theorem Thread.put_prods (t : Thread) (d n : Nat) (sg : Bool) (bits : Nat) (f : Nat → Nat) :
    (t.put d n sg bits f).prods = t.prods := by
  unfold Thread.put; (repeat' split) <;> rfl
@[simp] theorem Thread.put_queries (t : Thread) (d n : Nat) (sg : Bool) (bits : Nat) (f : Nat → Nat) :
    (t.put d n sg bits f).queries = t.queries := by
  unfold Thread.put; (repeat' split) <;> rfl
@[simp] theorem Thread.put_stack (t : Thread) (d n : Nat) (sg : Bool) (bits : Nat) (f : Nat → Nat) :
    (t.put d n sg bits f).stack = t.stack := by
  unfold Thread.put; (repeat' split) <;> rfl
@[simp] theorem Thread.put_slice (t : Thread) (d n : Nat) (sg : Bool) (bits : Nat) (f : Nat → Nat) :
    (t.put d n sg bits f).slice = t.slice := by
  unfold Thread.put; (repeat' split) <;> rfl
@[simp] theorem Thread.put_frame (t : Thread) (d n : Nat) (sg : Bool) (bits : Nat) (f : Nat → Nat) :
    (t.put d n sg bits f).frame = t.frame := by
  unfold Thread.put; (repeat' split) <;> rfl
@[simp] theorem Thread.put_savedVe (t : Thread) (d n : Nat) (sg : Bool) (bits : Nat) (f : Nat → Nat) :
    (t.put d n sg bits f).savedVe = t.savedVe := by
  unfold Thread.put; (repeat' split) <;> rfl
@[simp] theorem Thread.put_savedGe (t : Thread) (d n : Nat) (sg : Bool) (bits : Nat) (f : Nat → Nat) :
    (t.put d n sg bits f).savedGe = t.savedGe := by
  unfold Thread.put; (repeat' split) <;> rfl
@[simp] theorem Thread.put_handler (t : Thread) (d n : Nat) (sg : Bool) (bits : Nat) (f : Nat → Nat) :
    (t.put d n sg bits f).handler = t.handler := by
  unfold Thread.put; (repeat' split) <;> rfl
@[simp] theorem Thread.put_entryDepth (t : Thread) (d n : Nat) (sg : Bool) (bits : Nat) (f : Nat → Nat) :
    (t.put d n sg bits f).entryDepth = t.entryDepth := by
  unfold Thread.put; (repeat' split) <;> rfl
@[simp] theorem Thread.put_tcause (t : Thread) (d n : Nat) (sg : Bool) (bits : Nat) (f : Nat → Nat) :
    (t.put d n sg bits f).tcause = t.tcause := by
  unfold Thread.put; (repeat' split) <;> rfl
@[simp] theorem Thread.put_tpc (t : Thread) (d n : Nat) (sg : Bool) (bits : Nat) (f : Nat → Nat) :
    (t.put d n sg bits f).tpc = t.tpc := by
  unfold Thread.put; (repeat' split) <;> rfl
@[simp] theorem Thread.put_taddr (t : Thread) (d n : Nat) (sg : Bool) (bits : Nat) (f : Nat → Nat) :
    (t.put d n sg bits f).taddr = t.taddr := by
  unfold Thread.put; (repeat' split) <;> rfl
@[simp] theorem Thread.put_tinfo (t : Thread) (d n : Nat) (sg : Bool) (bits : Nat) (f : Nat → Nat) :
    (t.put d n sg bits f).tinfo = t.tinfo := by
  unfold Thread.put; (repeat' split) <;> rfl
@[simp] theorem Thread.put_tpte (t : Thread) (d n : Nat) (sg : Bool) (bits : Nat) (f : Nat → Nat) :
    (t.put d n sg bits f).tpte = t.tpte := by
  unfold Thread.put; (repeat' split) <;> rfl
@[simp] theorem Thread.put_trees (t : Thread) (d n : Nat) (sg : Bool) (bits : Nat) (f : Nat → Nat) :
    (t.put d n sg bits f).trees = t.trees := by
  unfold Thread.put; (repeat' split) <;> rfl
@[simp] theorem Thread.put_pend (t : Thread) (d n : Nat) (sg : Bool) (bits : Nat) (f : Nat → Nat) :
    (t.put d n sg bits f).pend = t.pend := by
  unfold Thread.put; (repeat' split) <;> rfl
@[simp] theorem Thread.put_sent (t : Thread) (d n : Nat) (sg : Bool) (bits : Nat) (f : Nat → Nat) :
    (t.put d n sg bits f).sent = t.sent := by
  unfold Thread.put; (repeat' split) <;> rfl
@[simp] theorem Thread.put_asks (t : Thread) (d n : Nat) (sg : Bool) (bits : Nat) (f : Nat → Nat) :
    (t.put d n sg bits f).asks = t.asks := by
  unfold Thread.put; (repeat' split) <;> rfl
@[simp] theorem Thread.put_answers (t : Thread) (d n : Nat) (sg : Bool) (bits : Nat) (f : Nat → Nat) :
    (t.put d n sg bits f).answers = t.answers := by
  unfold Thread.put; (repeat' split) <;> rfl
@[simp] theorem Thread.put_kept (t : Thread) (d n : Nat) (sg : Bool) (bits : Nat) (f : Nat → Nat) :
    (t.put d n sg bits f).kept = t.kept := by
  unfold Thread.put; (repeat' split) <;> rfl
@[simp] theorem Thread.put_posted (t : Thread) (d n : Nat) (sg : Bool) (bits : Nat) (f : Nat → Nat) :
    (t.put d n sg bits f).posted = t.posted := by
  unfold Thread.put; (repeat' split) <;> rfl
@[simp] theorem Thread.put_since (t : Thread) (d n : Nat) (sg : Bool) (bits : Nat) (f : Nat → Nat) :
    (t.put d n sg bits f).since = t.since := by
  unfold Thread.put; (repeat' split) <;> rfl
@[simp] theorem Thread.put_seen (t : Thread) (d n : Nat) (sg : Bool) (bits : Nat) (f : Nat → Nat) :
    (t.put d n sg bits f).seen = t.seen := by
  unfold Thread.put; (repeat' split) <;> rfl
@[simp] theorem Thread.put_seenPosted (t : Thread) (d n : Nat) (sg : Bool) (bits : Nat) (f : Nat → Nat) :
    (t.put d n sg bits f).seenPosted = t.seenPosted := by
  unfold Thread.put; (repeat' split) <;> rfl
@[simp] theorem Thread.put_unjoined (t : Thread) (d n : Nat) (sg : Bool) (bits : Nat) (f : Nat → Nat) :
    (t.put d n sg bits f).unjoined = t.unjoined := by
  unfold Thread.put; (repeat' split) <;> rfl
@[simp] theorem Thread.put_pts (t : Thread) (d n : Nat) (sg : Bool) (bits : Nat) (f : Nat → Nat) :
    (t.put d n sg bits f).pts = t.pts := by
  unfold Thread.put; (repeat' split) <;> rfl
@[simp] theorem Thread.put_due (t : Thread) (d n : Nat) (sg : Bool) (bits : Nat) (f : Nat → Nat) :
    (t.put d n sg bits f).due = t.due := by
  unfold Thread.put; (repeat' split) <;> rfl
@[simp] theorem Thread.put_walkFaults (t : Thread) (d n : Nat) (sg : Bool) (bits : Nat) (f : Nat → Nat) :
    (t.put d n sg bits f).walkFaults = t.walkFaults := by
  unfold Thread.put; (repeat' split) <;> rfl
@[simp] theorem Thread.put_nmOut (t : Thread) (d n : Nat) (sg : Bool) (bits : Nat) (f : Nat → Nat) :
    (t.put d n sg bits f).nmOut = t.nmOut := by
  unfold Thread.put; (repeat' split) <;> rfl
@[simp] theorem Thread.put_nmDrop (t : Thread) (d n : Nat) (sg : Bool) (bits : Nat) (f : Nat → Nat) :
    (t.put d n sg bits f).nmDrop = t.nmDrop := by
  unfold Thread.put; (repeat' split) <;> rfl
@[simp] theorem Thread.put_dwTaken (t : Thread) (d n : Nat) (sg : Bool) (bits : Nat) (f : Nat → Nat) :
    (t.put d n sg bits f).dwTaken = t.dwTaken := by
  unfold Thread.put; (repeat' split) <;> rfl
@[simp] theorem Thread.put_hung (t : Thread) (d n : Nat) (sg : Bool) (bits : Nat) (f : Nat → Nat) :
    (t.put d n sg bits f).hung = t.hung := by
  unfold Thread.put; (repeat' split) <;> rfl
@[simp] theorem Thread.put_stackPoison (t : Thread) (d n : Nat) (sg : Bool) (bits : Nat) (f : Nat → Nat) :
    (t.put d n sg bits f).stackPoison = t.stackPoison := by
  unfold Thread.put; (repeat' split) <;> rfl
@[simp] theorem Thread.put_slicePoison (t : Thread) (d n : Nat) (sg : Bool) (bits : Nat) (f : Nat → Nat) :
    (t.put d n sg bits f).slicePoison = t.slicePoison := by
  unfold Thread.put; (repeat' split) <;> rfl
@[simp] theorem Thread.put_cunit (t : Thread) (d n : Nat) (sg : Bool) (bits : Nat) (f : Nat → Nat) :
    (t.put d n sg bits f).cunit = t.cunit := by
  unfold Thread.put; (repeat' split) <;> rfl
@[simp] theorem Thread.put_row (t : Thread) (d n : Nat) (sg : Bool) (bits : Nat) (f : Nat → Nat) :
    (t.put d n sg bits f).row = t.row := by
  unfold Thread.put; (repeat' split) <;> rfl
@[simp] theorem Thread.put_resv (t : Thread) (d n : Nat) (sg : Bool) (bits : Nat) (f : Nat → Nat) :
    (t.put d n sg bits f).resv = t.resv := by
  unfold Thread.put; (repeat' split) <;> rfl
@[simp] theorem Thread.put_aged (t : Thread) (d n : Nat) (sg : Bool) (bits : Nat) (f : Nat → Nat) :
    (t.put d n sg bits f).aged = t.aged := by
  unfold Thread.put; (repeat' split) <;> rfl

@[simp] theorem Thread.enterHandler_side (t : Thread) (x : TrapInfo) (k : Nat) :
    (t.enterHandler x k).side = t.side := rfl
@[simp] theorem Thread.enterHandler_role (t : Thread) (x : TrapInfo) (k : Nat) :
    (t.enterHandler x k).role = t.role := rfl
@[simp] theorem Thread.enterHandler_wg (t : Thread) (x : TrapInfo) (k : Nat) : (t.enterHandler x k).wg = t.wg := rfl
@[simp] theorem Thread.enterHandler_gidx (t : Thread) (x : TrapInfo) (k : Nat) :
    (t.enterHandler x k).gidx = t.gidx := rfl
@[simp] theorem Thread.enterHandler_width (t : Thread) (x : TrapInfo) (k : Nat) :
    (t.enterHandler x k).width = t.width := rfl
@[simp] theorem Thread.enterHandler_pc (t : Thread) (x : TrapInfo) (k : Nat) :
    (t.enterHandler x k).pc = BitVec.ofNat 64 k := rfl
@[simp] theorem Thread.enterHandler_line (t : Thread) (x : TrapInfo) (k : Nat) :
    (t.enterHandler x k).line = none := rfl
@[simp] theorem Thread.enterHandler_enter (t : Thread) (x : TrapInfo) (k : Nat) :
    (t.enterHandler x k).enter = .branch := rfl
@[simp] theorem Thread.enterHandler_status (t : Thread) (x : TrapInfo) (k : Nat) :
    (t.enterHandler x k).status = .running := rfl
@[simp] theorem Thread.enterHandler_regs (t : Thread) (x : TrapInfo) (k : Nat) :
    (t.enterHandler x k).regs = { t.regs with em := x.lanes.getD t.regs.em } := rfl
@[simp] theorem Thread.enterHandler_prods (t : Thread) (x : TrapInfo) (k : Nat) :
    (t.enterHandler x k).prods = t.prods := rfl
@[simp] theorem Thread.enterHandler_queries (t : Thread) (x : TrapInfo) (k : Nat) :
    (t.enterHandler x k).queries = t.queries := rfl
@[simp] theorem Thread.enterHandler_stack (t : Thread) (x : TrapInfo) (k : Nat) :
    (t.enterHandler x k).stack = t.stack := rfl
@[simp] theorem Thread.enterHandler_slice (t : Thread) (x : TrapInfo) (k : Nat) :
    (t.enterHandler x k).slice = t.slice := rfl
@[simp] theorem Thread.enterHandler_frame (t : Thread) (x : TrapInfo) (k : Nat) :
    (t.enterHandler x k).frame = if t.side = .mcc then t.frameMcc else t.frameWide := rfl
@[simp] theorem Thread.enterHandler_handler (t : Thread) (x : TrapInfo) (k : Nat) :
    (t.enterHandler x k).handler = true := rfl
@[simp] theorem Thread.enterHandler_entryDepth (t : Thread) (x : TrapInfo) (k : Nat) :
    (t.enterHandler x k).entryDepth = t.regs.depth := rfl
@[simp] theorem Thread.enterHandler_tcause (t : Thread) (x : TrapInfo) (k : Nat) :
    (t.enterHandler x k).tcause = BitVec.ofNat 64 (x.cls + x.sub * 256) := rfl
@[simp] theorem Thread.enterHandler_tpc (t : Thread) (x : TrapInfo) (k : Nat) : (t.enterHandler x k).tpc = t.pc := rfl
@[simp] theorem Thread.enterHandler_taddr (t : Thread) (x : TrapInfo) (k : Nat) :
    (t.enterHandler x k).taddr = BitVec.ofNat 64 x.addr := rfl
@[simp] theorem Thread.enterHandler_tinfo (t : Thread) (x : TrapInfo) (k : Nat) :
    (t.enterHandler x k).tinfo = BitVec.ofNat 64 x.info := rfl
@[simp] theorem Thread.enterHandler_tpte (t : Thread) (x : TrapInfo) (k : Nat) :
    (t.enterHandler x k).tpte = x.pte := rfl
@[simp] theorem Thread.enterHandler_trees (t : Thread) (x : TrapInfo) (k : Nat) :
    (t.enterHandler x k).trees = t.trees := rfl
@[simp] theorem Thread.enterHandler_pend (t : Thread) (x : TrapInfo) (k : Nat) :
    (t.enterHandler x k).pend = t.pend := rfl
@[simp] theorem Thread.enterHandler_sent (t : Thread) (x : TrapInfo) (k : Nat) :
    (t.enterHandler x k).sent = t.sent := rfl
@[simp] theorem Thread.enterHandler_asks (t : Thread) (x : TrapInfo) (k : Nat) : (t.enterHandler x k).asks = [] := rfl
@[simp] theorem Thread.enterHandler_answers (t : Thread) (x : TrapInfo) (k : Nat) :
    (t.enterHandler x k).answers = [] := rfl
@[simp] theorem Thread.enterHandler_kept (t : Thread) (x : TrapInfo) (k : Nat) : (t.enterHandler x k).kept = [] := rfl
@[simp] theorem Thread.enterHandler_posted (t : Thread) (x : TrapInfo) (k : Nat) :
    (t.enterHandler x k).posted = t.posted := rfl
@[simp] theorem Thread.enterHandler_since (t : Thread) (x : TrapInfo) (k : Nat) :
    (t.enterHandler x k).since = t.since := rfl
@[simp] theorem Thread.enterHandler_seen (t : Thread) (x : TrapInfo) (k : Nat) :
    (t.enterHandler x k).seen = t.seen := rfl
@[simp] theorem Thread.enterHandler_seenPosted (t : Thread) (x : TrapInfo) (k : Nat) :
    (t.enterHandler x k).seenPosted = t.seenPosted := rfl
@[simp] theorem Thread.enterHandler_unjoined (t : Thread) (x : TrapInfo) (k : Nat) :
    (t.enterHandler x k).unjoined = t.unjoined := rfl
@[simp] theorem Thread.enterHandler_pts (t : Thread) (x : TrapInfo) (k : Nat) :
    (t.enterHandler x k).pts = t.pts := rfl
@[simp] theorem Thread.enterHandler_due (t : Thread) (x : TrapInfo) (k : Nat) :
    (t.enterHandler x k).due = t.due := rfl
@[simp] theorem Thread.enterHandler_walkFaults (t : Thread) (x : TrapInfo) (k : Nat) :
    (t.enterHandler x k).walkFaults = [] := rfl
@[simp] theorem Thread.enterHandler_nmOut (t : Thread) (x : TrapInfo) (k : Nat) :
    (t.enterHandler x k).nmOut = t.nmOut := rfl
@[simp] theorem Thread.enterHandler_nmDrop (t : Thread) (x : TrapInfo) (k : Nat) :
    (t.enterHandler x k).nmDrop = t.nmDrop := rfl
@[simp] theorem Thread.enterHandler_dwTaken (t : Thread) (x : TrapInfo) (k : Nat) :
    (t.enterHandler x k).dwTaken = t.dwTaken := rfl
@[simp] theorem Thread.enterHandler_hung (t : Thread) (x : TrapInfo) (k : Nat) :
    (t.enterHandler x k).hung = t.hung := rfl
@[simp] theorem Thread.enterHandler_stackPoison (t : Thread) (x : TrapInfo) (k : Nat) :
    (t.enterHandler x k).stackPoison = t.stackPoison := rfl
@[simp] theorem Thread.enterHandler_slicePoison (t : Thread) (x : TrapInfo) (k : Nat) :
    (t.enterHandler x k).slicePoison = t.slicePoison := rfl
@[simp] theorem Thread.enterHandler_cunit (t : Thread) (x : TrapInfo) (k : Nat) :
    (t.enterHandler x k).cunit = t.cunit := rfl
@[simp] theorem Thread.enterHandler_row (t : Thread) (x : TrapInfo) (k : Nat) :
    (t.enterHandler x k).row = t.row := rfl
@[simp] theorem Thread.enterHandler_resv (t : Thread) (x : TrapInfo) (k : Nat) :
    (t.enterHandler x k).resv = t.resv := rfl
@[simp] theorem Thread.enterHandler_aged (t : Thread) (x : TrapInfo) (k : Nat) :
    (t.enterHandler x k).aged = t.aged := rfl

/-! ### Registers -/

@[simp] theorem Regs.writeG_v (r : Regs) (d : Nat) (v : W64) : (r.writeG d v).v = r.v := rfl
@[simp] theorem Regs.writeG_ve (r : Regs) (d : Nat) (v : W64) : (r.writeG d v).ve = r.ve := rfl
@[simp] theorem Regs.writeG_g (r : Regs) (d : Nat) (v : W64) : (r.writeG d v).g = r.g.set d v := rfl
@[simp] theorem Regs.writeG_ge (r : Regs) (d : Nat) (v : W64) : (r.writeG d v).ge = takeOver r.ge d 1 := rfl
@[simp] theorem Regs.writeG_m (r : Regs) (d : Nat) (v : W64) : (r.writeG d v).m = r.m := rfl
@[simp] theorem Regs.writeG_em (r : Regs) (d : Nat) (v : W64) : (r.writeG d v).em = r.em := rfl
@[simp] theorem Regs.writeG_cc (r : Regs) (d : Nat) (v : W64) : (r.writeG d v).cc = r.cc := rfl
@[simp] theorem Regs.writeG_fmt (r : Regs) (d : Nat) (v : W64) : (r.writeG d v).fmt = r.fmt := rfl
@[simp] theorem Regs.writeG_fpm (r : Regs) (d : Nat) (v : W64) : (r.writeG d v).fpm = r.fpm := rfl
@[simp] theorem Regs.writeG_pth (r : Regs) (d : Nat) (v : W64) : (r.writeG d v).pth = r.pth := rfl
@[simp] theorem Regs.writeG_stkEm (r : Regs) (d : Nat) (v : W64) : (r.writeG d v).stkEm = r.stkEm := rfl
@[simp] theorem Regs.writeG_stkFmt (r : Regs) (d : Nat) (v : W64) : (r.writeG d v).stkFmt = r.stkFmt := rfl
@[simp] theorem Regs.writeG_depth (r : Regs) (d : Nat) (v : W64) : (r.writeG d v).depth = r.depth := rfl
@[simp] theorem Regs.writeG_s (r : Regs) (d : Nat) (v : W64) : (r.writeG d v).s = r.s := rfl
@[simp] theorem Regs.writeG_stkp (r : Regs) (d : Nat) (v : W64) : (r.writeG d v).stkp = r.stkp := rfl
@[simp] theorem Regs.writeG_extb (r : Regs) (d : Nat) (v : W64) : (r.writeG d v).extb = r.extb := rfl

@[simp] theorem Regs.writeS_v (r : Regs) (d : Nat) (v : W64) : (r.writeS d v).v = r.v := rfl
@[simp] theorem Regs.writeS_ve (r : Regs) (d : Nat) (v : W64) : (r.writeS d v).ve = r.ve := rfl
@[simp] theorem Regs.writeS_g (r : Regs) (d : Nat) (v : W64) : (r.writeS d v).g = r.g := rfl
@[simp] theorem Regs.writeS_ge (r : Regs) (d : Nat) (v : W64) : (r.writeS d v).ge = r.ge := rfl
@[simp] theorem Regs.writeS_m (r : Regs) (d : Nat) (v : W64) : (r.writeS d v).m = r.m := rfl
@[simp] theorem Regs.writeS_em (r : Regs) (d : Nat) (v : W64) : (r.writeS d v).em = r.em := rfl
@[simp] theorem Regs.writeS_cc (r : Regs) (d : Nat) (v : W64) : (r.writeS d v).cc = r.cc := rfl
@[simp] theorem Regs.writeS_fmt (r : Regs) (d : Nat) (v : W64) : (r.writeS d v).fmt = r.fmt := rfl
@[simp] theorem Regs.writeS_fpm (r : Regs) (d : Nat) (v : W64) : (r.writeS d v).fpm = r.fpm := rfl
@[simp] theorem Regs.writeS_pth (r : Regs) (d : Nat) (v : W64) : (r.writeS d v).pth = r.pth := rfl
@[simp] theorem Regs.writeS_stkEm (r : Regs) (d : Nat) (v : W64) : (r.writeS d v).stkEm = r.stkEm := rfl
@[simp] theorem Regs.writeS_stkFmt (r : Regs) (d : Nat) (v : W64) : (r.writeS d v).stkFmt = r.stkFmt := rfl
@[simp] theorem Regs.writeS_depth (r : Regs) (d : Nat) (v : W64) : (r.writeS d v).depth = r.depth := rfl
@[simp] theorem Regs.writeS_s (r : Regs) (d : Nat) (v : W64) : (r.writeS d v).s = r.s.set d v := rfl
@[simp] theorem Regs.writeS_stkp (r : Regs) (d : Nat) (v : W64) : (r.writeS d v).stkp = r.stkp := rfl
@[simp] theorem Regs.writeS_extb (r : Regs) (d : Nat) (v : W64) : (r.writeS d v).extb = r.extb := rfl

@[simp] theorem Regs.putV_ve (r : Regs) (d : Nat) (ls : List Nat) (f : Nat → Nat) (n : Nat) :
    (r.putV d ls f n).ve = r.ve := by
  induction n with
  | zero => rfl
  | succ n ih => simpa [Regs.putV] using ih
@[simp] theorem Regs.putV_g (r : Regs) (d : Nat) (ls : List Nat) (f : Nat → Nat) (n : Nat) :
    (r.putV d ls f n).g = r.g := by
  induction n with
  | zero => rfl
  | succ n ih => simpa [Regs.putV] using ih
@[simp] theorem Regs.putV_ge (r : Regs) (d : Nat) (ls : List Nat) (f : Nat → Nat) (n : Nat) :
    (r.putV d ls f n).ge = r.ge := by
  induction n with
  | zero => rfl
  | succ n ih => simpa [Regs.putV] using ih
@[simp] theorem Regs.putV_m (r : Regs) (d : Nat) (ls : List Nat) (f : Nat → Nat) (n : Nat) :
    (r.putV d ls f n).m = r.m := by
  induction n with
  | zero => rfl
  | succ n ih => simpa [Regs.putV] using ih
@[simp] theorem Regs.putV_em (r : Regs) (d : Nat) (ls : List Nat) (f : Nat → Nat) (n : Nat) :
    (r.putV d ls f n).em = r.em := by
  induction n with
  | zero => rfl
  | succ n ih => simpa [Regs.putV] using ih
@[simp] theorem Regs.putV_cc (r : Regs) (d : Nat) (ls : List Nat) (f : Nat → Nat) (n : Nat) :
    (r.putV d ls f n).cc = r.cc := by
  induction n with
  | zero => rfl
  | succ n ih => simpa [Regs.putV] using ih
@[simp] theorem Regs.putV_fmt (r : Regs) (d : Nat) (ls : List Nat) (f : Nat → Nat) (n : Nat) :
    (r.putV d ls f n).fmt = r.fmt := by
  induction n with
  | zero => rfl
  | succ n ih => simpa [Regs.putV] using ih
@[simp] theorem Regs.putV_fpm (r : Regs) (d : Nat) (ls : List Nat) (f : Nat → Nat) (n : Nat) :
    (r.putV d ls f n).fpm = r.fpm := by
  induction n with
  | zero => rfl
  | succ n ih => simpa [Regs.putV] using ih
@[simp] theorem Regs.putV_pth (r : Regs) (d : Nat) (ls : List Nat) (f : Nat → Nat) (n : Nat) :
    (r.putV d ls f n).pth = r.pth := by
  induction n with
  | zero => rfl
  | succ n ih => simpa [Regs.putV] using ih
@[simp] theorem Regs.putV_stkEm (r : Regs) (d : Nat) (ls : List Nat) (f : Nat → Nat) (n : Nat) :
    (r.putV d ls f n).stkEm = r.stkEm := by
  induction n with
  | zero => rfl
  | succ n ih => simpa [Regs.putV] using ih
@[simp] theorem Regs.putV_stkFmt (r : Regs) (d : Nat) (ls : List Nat) (f : Nat → Nat) (n : Nat) :
    (r.putV d ls f n).stkFmt = r.stkFmt := by
  induction n with
  | zero => rfl
  | succ n ih => simpa [Regs.putV] using ih
@[simp] theorem Regs.putV_depth (r : Regs) (d : Nat) (ls : List Nat) (f : Nat → Nat) (n : Nat) :
    (r.putV d ls f n).depth = r.depth := by
  induction n with
  | zero => rfl
  | succ n ih => simpa [Regs.putV] using ih
@[simp] theorem Regs.putV_s (r : Regs) (d : Nat) (ls : List Nat) (f : Nat → Nat) (n : Nat) :
    (r.putV d ls f n).s = r.s := by
  induction n with
  | zero => rfl
  | succ n ih => simpa [Regs.putV] using ih
@[simp] theorem Regs.putV_stkp (r : Regs) (d : Nat) (ls : List Nat) (f : Nat → Nat) (n : Nat) :
    (r.putV d ls f n).stkp = r.stkp := by
  induction n with
  | zero => rfl
  | succ n ih => simpa [Regs.putV] using ih
@[simp] theorem Regs.putV_extb (r : Regs) (d : Nat) (ls : List Nat) (f : Nat → Nat) (n : Nat) :
    (r.putV d ls f n).extb = r.extb := by
  induction n with
  | zero => rfl
  | succ n ih => simpa [Regs.putV] using ih

@[simp] theorem Regs.writeV_g (r : Regs) (d n : Nat) (ls : List Nat) (f : Nat → Nat) :
    (r.writeV d n ls f).g = r.g := by
  unfold Regs.writeV; split <;> simp
@[simp] theorem Regs.writeV_ge (r : Regs) (d n : Nat) (ls : List Nat) (f : Nat → Nat) :
    (r.writeV d n ls f).ge = r.ge := by
  unfold Regs.writeV; split <;> simp
@[simp] theorem Regs.writeV_m (r : Regs) (d n : Nat) (ls : List Nat) (f : Nat → Nat) :
    (r.writeV d n ls f).m = r.m := by
  unfold Regs.writeV; split <;> simp
@[simp] theorem Regs.writeV_em (r : Regs) (d n : Nat) (ls : List Nat) (f : Nat → Nat) :
    (r.writeV d n ls f).em = r.em := by
  unfold Regs.writeV; split <;> simp
@[simp] theorem Regs.writeV_cc (r : Regs) (d n : Nat) (ls : List Nat) (f : Nat → Nat) :
    (r.writeV d n ls f).cc = r.cc := by
  unfold Regs.writeV; split <;> simp
@[simp] theorem Regs.writeV_fmt (r : Regs) (d n : Nat) (ls : List Nat) (f : Nat → Nat) :
    (r.writeV d n ls f).fmt = r.fmt := by
  unfold Regs.writeV; split <;> simp
@[simp] theorem Regs.writeV_fpm (r : Regs) (d n : Nat) (ls : List Nat) (f : Nat → Nat) :
    (r.writeV d n ls f).fpm = r.fpm := by
  unfold Regs.writeV; split <;> simp
@[simp] theorem Regs.writeV_pth (r : Regs) (d n : Nat) (ls : List Nat) (f : Nat → Nat) :
    (r.writeV d n ls f).pth = r.pth := by
  unfold Regs.writeV; split <;> simp
@[simp] theorem Regs.writeV_stkEm (r : Regs) (d n : Nat) (ls : List Nat) (f : Nat → Nat) :
    (r.writeV d n ls f).stkEm = r.stkEm := by
  unfold Regs.writeV; split <;> simp
@[simp] theorem Regs.writeV_stkFmt (r : Regs) (d n : Nat) (ls : List Nat) (f : Nat → Nat) :
    (r.writeV d n ls f).stkFmt = r.stkFmt := by
  unfold Regs.writeV; split <;> simp
@[simp] theorem Regs.writeV_depth (r : Regs) (d n : Nat) (ls : List Nat) (f : Nat → Nat) :
    (r.writeV d n ls f).depth = r.depth := by
  unfold Regs.writeV; split <;> simp
@[simp] theorem Regs.writeV_s (r : Regs) (d n : Nat) (ls : List Nat) (f : Nat → Nat) :
    (r.writeV d n ls f).s = r.s := by
  unfold Regs.writeV; split <;> simp
@[simp] theorem Regs.writeV_stkp (r : Regs) (d n : Nat) (ls : List Nat) (f : Nat → Nat) :
    (r.writeV d n ls f).stkp = r.stkp := by
  unfold Regs.writeV; split <;> simp
@[simp] theorem Regs.writeV_extb (r : Regs) (d n : Nat) (ls : List Nat) (f : Nat → Nat) :
    (r.writeV d n ls f).extb = r.extb := by
  unfold Regs.writeV; split <;> simp

end Sys2Proof.Machine
end

