-- ==== Sys2Proof/Laws/Store.lean ====
section
/-!
SUPPORT. The laws of the sparse store and of the tables: what a read gives after a write, and that every operation
keeps the canonical form.
-/

namespace Sys2Proof.Machine

/-! ### Canonical form -/

theorem Store.wfFrom_mono {w : Nat} {m : Store w} {a b : Nat} (h : Store.wfFrom b m = true) (hab : a ≤ b) :
    Store.wfFrom a m = true := by
  cases m with
  | nil => rfl
  | cons e m =>
    simp only [Store.wfFrom, Bool.and_eq_true, decide_eq_true_eq] at h ⊢
    exact ⟨⟨by omega, h.1.2⟩, h.2⟩

theorem Store.wfFrom_cons {w : Nat} {m : Store w} {lo k : Nat} {v : BitVec w} (h : Store.wfFrom (k + 1) m = true)
    (hk : lo ≤ k) : Store.wfFrom lo (Store.cons k v m) = true := by
  unfold Store.cons
  split
  · exact Store.wfFrom_mono h (by omega)
  · simp [Store.wfFrom, *]

theorem Store.wfFrom_filter {w : Nat} {m : Store w} {lo : Nat} (p : Nat × BitVec w → Bool)
    (h : Store.wfFrom lo m = true) : Store.wfFrom lo (m.filter p) = true := by
  induction m generalizing lo with
  | nil => rfl
  | cons e m ih =>
    simp only [Store.wfFrom, Bool.and_eq_true, decide_eq_true_eq] at h
    rw [List.filter_cons]
    split
    · simp only [Store.wfFrom, Bool.and_eq_true, decide_eq_true_eq]
      exact ⟨h.1, ih h.2⟩
    · exact Store.wfFrom_mono (ih h.2) (by omega)

theorem Store.wfFrom_set {w : Nat} {m : Store w} {lo k : Nat} (v : BitVec w) (h : Store.wfFrom lo m = true)
    (hk : lo ≤ k) : Store.wfFrom lo (m.set k v) = true := by
  induction m generalizing lo with
  | nil => exact Store.wfFrom_cons rfl hk
  | cons e m ih =>
    simp only [Store.wfFrom, Bool.and_eq_true, decide_eq_true_eq] at h
    unfold Store.set
    split
    · refine Store.wfFrom_cons ?_ hk
      simp only [Store.wfFrom, Bool.and_eq_true, decide_eq_true_eq]
      exact ⟨⟨by omega, h.1.2⟩, Store.wfFrom_filter _ h.2⟩
    · split
      · subst_vars
        exact Store.wfFrom_cons (Store.wfFrom_filter _ h.2) hk
      · simp only [Store.wfFrom, Bool.and_eq_true, decide_eq_true_eq]
        exact ⟨h.1, ih h.2 (by omega)⟩

/-- A write keeps the canonical form. -/
theorem Store.wf_set {w : Nat} {m : Store w} (k : Nat) (v : BitVec w) (h : m.wf = true) : (m.set k v).wf = true :=
  Store.wfFrom_set v h (Nat.zero_le k)

/-- Clearing a range keeps the canonical form. -/
theorem Store.wf_clear {w : Nat} {m : Store w} (lo hi : Nat) (h : m.wf = true) : (m.clear lo hi).wf = true :=
  Store.wfFrom_filter _ h

theorem Store.wfFrom_shift {w : Nat} {m : Store w} {lo d : Nat} (h : Store.wfFrom lo m = true) (hd : d ≤ lo) :
    Store.wfFrom (lo - d) (m.map fun e => (e.1 - d, e.2)) = true := by
  induction m generalizing lo with
  | nil => rfl
  | cons e m ih =>
    simp only [Store.wfFrom, Bool.and_eq_true, decide_eq_true_eq] at h
    simp only [List.map_cons, Store.wfFrom, Bool.and_eq_true, decide_eq_true_eq]
    refine ⟨⟨by omega, h.1.2⟩, ?_⟩
    have := ih h.2 (by omega)
    rwa [show e.1 + 1 - d = e.1 - d + 1 by omega] at this

theorem Store.wfFrom_above {w : Nat} {m : Store w} {lo k : Nat} (h : Store.wfFrom lo m = true)
    (hk : ∀ e ∈ m, k ≤ e.1) : Store.wfFrom k m = true := by
  cases m with
  | nil => rfl
  | cons e m =>
    simp only [Store.wfFrom, Bool.and_eq_true, decide_eq_true_eq] at h ⊢
    exact ⟨⟨hk e (by simp), h.1.2⟩, h.2⟩

/-- A range moved down keeps the canonical form. -/
theorem Store.wf_slice {w : Nat} {m : Store w} (lo hi : Nat) (h : m.wf = true) : (m.slice lo hi).wf = true := by
  have h1 := Store.wfFrom_filter (fun e => lo ≤ e.1 && e.1 < hi) h
  have h2 := Store.wfFrom_above (k := lo) h1 (by intro e he; simp at he; exact he.2.1)
  have h3 := Store.wfFrom_shift h2 (Nat.le_refl lo)
  rw [Nat.sub_self] at h3
  exact h3

/-- Writing a list of words keeps the canonical form. -/
theorem Store.wf_sets {w : Nat} {m : Store w} (es : List (Nat × BitVec w)) (h : m.wf = true) :
    (m.sets es).wf = true := by
  unfold Store.sets
  induction es generalizing m with
  | nil => exact h
  | cons e es ih => exact ih (Store.wf_set _ _ h)

/-- Writing bytes keeps the canonical form. -/
theorem Store.wf_putBytes {m : Memory} (a : Nat) (bs : List Byte) (h : m.wf = true) : (m.putBytes a bs).wf = true := by
  induction bs generalizing m a with
  | nil => exact h
  | cons b bs ih => exact ih _ (Store.wf_set a b h)

/-- Writing a number keeps the canonical form. -/
theorem Store.wf_putNat {m : Memory} (a n v : Nat) (h : m.wf = true) : (m.putNat a n v).wf = true :=
  Store.wf_putBytes _ _ h

/-! ### Reads after writes -/

theorem Store.get_drop_same {w : Nat} (m : Store w) (k : Nat) : (m.drop k).get k = 0 := by
  induction m with
  | nil => rfl
  | cons e m ih =>
    unfold Store.drop
    rw [List.filter_cons]
    split
    · rename_i h
      have h : e.1 ≠ k := by simpa using h
      unfold Store.get
      rw [if_neg h]
      exact ih
    · exact ih

theorem Store.get_drop_other {w : Nat} (m : Store w) {k j : Nat} (h : k ≠ j) : (m.drop k).get j = m.get j := by
  induction m with
  | nil => rfl
  | cons e m ih =>
    unfold Store.drop
    rw [List.filter_cons]
    split
    · simp only [Store.get]
      rw [← ih]
      rfl
    · rename_i g
      have g : e.1 = k := by simpa using g
      simp only [Store.get]
      rw [if_neg (by omega), ← ih]
      rfl

theorem Store.get_cons_same {w : Nat} {m : Store w} {k : Nat} (v : BitVec w) (h : m.get k = 0) :
    (Store.cons k v m).get k = v := by
  unfold Store.cons
  split
  · simp_all
  · simp [Store.get]

theorem Store.get_cons_other {w : Nat} (m : Store w) {k j : Nat} (v : BitVec w) (h : k ≠ j) :
    (Store.cons k v m).get j = m.get j := by
  unfold Store.cons
  split
  · rfl
  · simp [Store.get, h]

/-- A write leaves every other key alone. -/
theorem Store.get_set_other {w : Nat} (m : Store w) {k j : Nat} (v : BitVec w) (h : k ≠ j) :
    (m.set k v).get j = m.get j := by
  induction m with
  | nil => exact Store.get_cons_other _ _ h
  | cons e m ih =>
    unfold Store.set
    split
    · rw [Store.get_cons_other _ _ h]
      simp only [Store.get, Store.get_drop_other _ h]
    · split
      · subst_vars
        rw [Store.get_cons_other _ _ h, Store.get_drop_other _ h]
        simp [Store.get, h]
      · simp only [Store.get, ih]

/-- A read after a write gives what was written. -/
@[simp] theorem Store.get_set_same {w : Nat} (m : Store w) (k : Nat) (v : BitVec w) : (m.set k v).get k = v := by
  induction m with
  | nil => exact Store.get_cons_same v rfl
  | cons e m ih =>
    unfold Store.set
    split
    · refine Store.get_cons_same v ?_
      simp only [Store.get]
      rw [if_neg (by omega)]
      exact Store.get_drop_same m k
    · split
      · exact Store.get_cons_same v (Store.get_drop_same m k)
      · simp only [Store.get]
        rw [if_neg (by omega)]
        exact ih

/-- Bytes outside those written read as before. -/
theorem Store.get_putBytes_outside (m : Memory) (a : Nat) (bs : List Byte) {k : Nat}
    (h : k < a ∨ a + bs.length ≤ k) : (m.putBytes a bs).get k = m.get k := by
  induction bs generalizing m a with
  | nil => rfl
  | cons b bs ih =>
    simp only [Store.putBytes, List.length_cons] at h ⊢
    rw [ih _ _ (by omega), Store.get_set_other _ _ (by omega)]

@[simp] theorem toBytes_length (v n : Nat) : (toBytes v n).length = n := by
  induction n generalizing v with
  | zero => rfl
  | succ n ih => simp [toBytes, ih]

theorem Store.get_putNat_outside (m : Memory) (a n v : Nat) {k : Nat} (h : k < a ∨ a + n ≤ k) :
    (m.putNat a n v).get k = m.get k :=
  Store.get_putBytes_outside m a _ (by simpa using h)

/-- The bytes written read back. -/
theorem Store.bytes_putBytes (m : Memory) (a : Nat) (bs : List Byte) :
    (m.putBytes a bs).bytes a bs.length = bs := by
  induction bs generalizing m a with
  | nil => rfl
  | cons b bs ih =>
    simp only [Store.putBytes, List.length_cons, Store.bytes]
    rw [Store.get_putBytes_outside _ _ _ (by omega), Store.get_set_same, ih]

theorem ofBytes_toBytes (v n : Nat) : ofBytes (toBytes v n) = v % 256 ^ n := by
  induction n generalizing v with
  | zero => simp [toBytes, ofBytes, Nat.mod_one]
  | succ n ih =>
    have e : 256 ^ (n + 1) = 256 * 256 ^ n := by rw [Nat.pow_succ, Nat.mul_comm]
    rw [toBytes, ofBytes, ih, BitVec.toNat_ofNat, e, Nat.mod_mul]

/-- A number written reads back, cut to the bytes written. -/
theorem Store.getNat_putNat (m : Memory) (a n v : Nat) :
    (m.putNat a n v).getNat a n = v % 256 ^ n := by
  unfold Store.getNat Store.putNat
  have := Store.bytes_putBytes m a (toBytes v n)
  rw [toBytes_length] at this
  rw [this, ofBytes_toBytes]

/-! ### Tables -/

@[simp] theorem Tab.get?_put_same {α : Type} (m : Tab α) (k : Nat) (v : α) : (m.put k v).get? k = some v := by
  induction m with
  | nil => simp [Tab.put, Tab.get?]
  | cons e m ih =>
    unfold Tab.put
    split
    · simp [Tab.get?]
    · rename_i h
      simp [Tab.get?, h, ih]

theorem Tab.get?_put_other {α : Type} (m : Tab α) {k j : Nat} (v : α) (h : k ≠ j) : (m.put k v).get? j = m.get? j := by
  induction m with
  | nil => simp [Tab.put, Tab.get?, h]
  | cons e m ih =>
    unfold Tab.put
    split
    · subst_vars
      simp [Tab.get?, h]
    · simp only [Tab.get?, ih]

theorem Tab.get?_upd_same {α : Type} (m : Tab α) (k : Nat) (f : α → α) : (m.upd k f).get? k = (m.get? k).map f := by
  unfold Tab.upd
  split
  · simp [*]
  · simp [*]

theorem Tab.get?_upd_other {α : Type} (m : Tab α) {k j : Nat} (f : α → α) (h : k ≠ j) :
    (m.upd k f).get? j = m.get? j := by
  unfold Tab.upd
  split
  · rfl
  · exact Tab.get?_put_other m _ h

@[simp] theorem Tab.getD_put_same {α : Type} (m : Tab α) (k : Nat) (v d : α) : (m.put k v).getD k d = v := by
  simp [Tab.getD]

theorem Tab.getD_put_other {α : Type} (m : Tab α) {k j : Nat} (v d : α) (h : k ≠ j) :
    (m.put k v).getD j d = m.getD j d := by
  simp [Tab.getD, Tab.get?_put_other m v h]

theorem Tab.get?_del_same {α : Type} (m : Tab α) (k : Nat) : (m.del k).get? k = none := by
  induction m with
  | nil => rfl
  | cons e m ih =>
    unfold Tab.del
    split
    · exact ih
    · rename_i h
      simp [Tab.get?, h, ih]

theorem Tab.get?_del_other {α : Type} (m : Tab α) {k j : Nat} (h : k ≠ j) : (m.del k).get? j = m.get? j := by
  induction m with
  | nil => rfl
  | cons e m ih =>
    unfold Tab.del
    split
    · subst_vars
      simp [Tab.get?, h, ih]
    · simp only [Tab.get?, ih]

end Sys2Proof.Machine
end

