-- ==== Sys2Proof/Laws/Run.lean ====
section
/-!
SUPPORT. What the frame of a meaning can do: everything that `run` answers, and the small steps that meanings are made of.
-/

namespace Sys2Proof.Machine

/-! ### Completing, trapping, waiting -/

/-- A meaning that completes. -/
theorem run_ok {s : State} {t : Thread} {k : Thread → Except Ev (State × Thread)} {r : State × Thread}
    (h : s.At t) (hk : k t = .ok r) : run s k = .next (r.1.putThread s.cur r.2) := by
  simp [run, show s.threads.get? s.cur = some t from h, hk, State.settle]

/-- A meaning that traps, with no remote access outstanding: its instruction is counted. -/
theorem run_trap {s : State} {t : Thread} {k : Thread → Except Ev (State × Thread)} {x : TrapInfo}
    (h : s.At t) (hb : t.busy = false) (hk : k t = .error (.trap x)) :
    run s k = .next ((s.counted t).takeTrap s.cur t x) := by
  simp [run, show s.threads.get? s.cur = some t from h, hk, State.settle, State.countTrap, hb]

/-- A meaning that waits. -/
theorem run_stall {s : State} {t : Thread} {k : Thread → Except Ev (State × Thread)}
    (h : s.At t) (hk : k t = .error .stall) : run s k = .next s := by
  simp [run, show s.threads.get? s.cur = some t from h, hk, State.settle, State.countTrap]

/-- Everything that a meaning can answer. -/
theorem run_cases {s s' : State} {k : Thread → Except Ev (State × Thread)} (h : run s k = .next s') :
    ∃ t, s.At t ∧
      ((∃ r, k t = .ok r ∧ s' = r.1.putThread s.cur r.2) ∨
        (∃ x, k t = .error (.trap x) ∧ t.busy = false ∧ s' = (s.counted t).takeTrap s.cur t x) ∨
        (∃ e, k t = .error e ∧ s' = s) ∨
        (∃ ps, k t = .error (.refill ps) ∧ s' = s.updWg t.wg fun g =>
          { g with wanted := g.wanted ++ ps.filter fun p => !g.wanted.contains p }) ∨
        (∃ p, k t = .error (.walk p) ∧ s' = s.startWalk s.cur t p) ∨
        ∃ q, k t = .error (.ask q) ∧ s' = s.sendAsk s.cur t q) := by
  unfold run at h
  split at h
  · cases h
  · rename_i t ht
    refine ⟨t, ht, ?_⟩
    cases hk : k t with
    | ok r => simp [hk, State.settle] at h; exact .inl ⟨r, rfl, h.symm⟩
    | error e =>
      rw [hk] at h
      cases e with
      | trap x =>
        simp only [State.settle, State.countTrap] at h
        cases hb : t.busy
        · simp [hb] at h
          exact .inr (.inl ⟨x, rfl, rfl, h.symm⟩)
        · simp [hb] at h
          exact .inr (.inr (.inl ⟨_, rfl, h.symm⟩))
      | stall => simp [State.settle, State.countTrap] at h; exact .inr (.inr (.inl ⟨_, rfl, h.symm⟩))
      | refill ps => simp only [State.settle, State.countTrap, Host.Outcome.next.injEq] at h; exact .inr (.inr (.inr (.inl ⟨ps, rfl, h.symm⟩)))
      | walk p => simp [State.settle, State.countTrap] at h; exact .inr (.inr (.inr (.inr (.inl ⟨p, rfl, h.symm⟩))))
      | ask q => simp [State.settle, State.countTrap] at h; exact .inr (.inr (.inr (.inr (.inr ⟨q, rfl, h.symm⟩))))

/-- A meaning never stops the machine where a thread stands at the issue point. -/
theorem run_goes_on {s : State} {t : Thread} (k : Thread → Except Ev (State × Thread)) (h : s.At t) :
    ∃ s', run s k = .next s' := by
  simp only [run, show s.threads.get? s.cur = some t from h]
  unfold State.settle
  split <;> exact ⟨_, rfl⟩

@[simp] theorem quiet_ok {t : Thread} (h : t.busy = false) : t.quiet = .ok ⟨⟩ := by simp [Thread.quiet, h]

theorem State.after_def (s : State) (t t' : Thread) : s.after t t' = (s.counted t).putThread s.cur t' := rfl

/-- Whether a thread's record decides whose instruction is counted: only its side and its workgroup. -/
theorem State.counted_congr (s : State) {t t' : Thread} (h1 : t'.side = t.side) (h2 : t'.wg = t.wg) :
    s.counted t' = s.counted t := by
  simp [State.counted, State.wgOf, h1, h2]

/-- A thread that completes is counted. -/
theorem run_done {s : State} {t t' : Thread} {k : Thread → Except Ev (State × Thread)} (h : s.At t)
    (hk : k t = done s t') (h1 : t'.side = t.side) (h2 : t'.wg = t.wg) : run s k = .next (s.after t t'.advance) := by
  rw [run_ok h (hk.trans rfl)]
  simp only [State.after, State.counted_congr s h1 h2]

/-- An instruction that blocks is counted. -/
theorem run_blocks {s : State} {t t' : Thread} {k : Thread → Except Ev (State × Thread)} (h : s.At t)
    (hk : k t = blocks s t') (h1 : t'.side = t.side) (h2 : t'.wg = t.wg) : run s k = .next (s.after t t') := by
  rw [run_ok h (hk.trans rfl)]
  simp only [State.after, State.counted_congr s h1 h2]

/-- A thread that completes with a jump is counted. -/
theorem run_doneAt {s : State} {t t' : Thread} {k : Thread → Except Ev (State × Thread)} {n : Nat} (h : s.At t)
    (hk : k t = doneAt s t' n) (h1 : t'.side = t.side) (h2 : t'.wg = t.wg) :
    run s k = .next (s.after t (t'.jump n)) := by
  rw [run_ok h (hk.trans rfl)]
  simp only [State.after, State.counted_congr s h1 h2]

end Sys2Proof.Machine
end

