-- ==== Sys2Proof/Tests/Slice0.lean ====
section
/-!
SUPPORT. Tests: words written out from the encoding tables, ill-formed terms, single steps on a small state, and for each
statement states and operands that meet its hypotheses.
-/

set_option Elab.async false
set_option linter.unreachableTactic false
set_option linter.unusedTactic false

namespace Sys2Proof.Tests

open Sys2Proof Sys2Proof.Machine

/-! ### Words laid out by the encoding tables (R108 to R123) -/

/-- The decoder answers the named instruction for each word on that executor in a group of that width. -/
def reads (s : Side) (w : Nat) (xs : List (Slot × Instr)) : Bool :=
  xs.all fun x => match decode s w x.1 with
    | .ok i => i == x.2
    | .error _ => false

/-- An operand field. -/
abbrev opd (wt : BitVec 1) (pat : BitVec 3) (q : BitVec 6) (reg : BitVec 7) : Opnd := ⟨wt, pat, q, reg⟩

theorem test_words_control1 : reads .wide 64 [
    (0x000000000000000000000000, .nop ⟨0, 0, 0, 0, .zero, .zero, .zero, 0, 0⟩),
    (0x0100FFFFC200000000000000, .br ⟨0, 0x3FFFF0, 4, 0, 0⟩),
    (0x0200FFFFC238000000000000, .brc ⟨0, 0x3FFFF0, 4, 7, 0⟩),
    (0x0300FFFFC250000000000000, .brm ⟨0, 0x3FFFF0, 4, 10, 0⟩),
    (0x0320FFFFC240000000000000, .brmEm ⟨1, 0x3FFFF0, 4, 8, 0⟩),
    (0x0400FFFFC200000000000000, .call ⟨0, 0x3FFFF0, 4, 0, 0⟩),
    (0x050000000000000000000000, .ret ⟨0, 0, 0, 0, .zero, .zero, .zero, 0, 0⟩),
    (0x0600FFFFC203000000000000, .loop ⟨0, 0x3FFFF0, 4, 0, 6⟩),
    (0x070000000000000000000000, .exit ⟨0, 0, 0, 0, .zero, .zero, .zero, 0, 0⟩),
    (0x080000000000000000000000, .yield ⟨0, 0, 0, 0, .zero, .zero, .zero, 0, 0⟩),
    (0x090000000000000000000ABC, .trap ⟨0, 0, 0, 0, .zero, .zero, .zero, 0, 2748⟩),
    (0x0A0000000000000000000ABC, .svc ⟨0, 0, 0, 0, .zero, .zero, .zero, 0, 2748⟩)] = true := by decide

theorem test_words_control2 : reads .wide 64 [
    (0x0B0000000000000000000001, .sret ⟨0, 0, 0, 0, .zero, .zero, .zero, 0, 1⟩),
    (0x0C0783000000000000000010, .rdsr ⟨0, 0, 7, 131, .zero, .zero, .zero, 0, 16⟩),
    (0x0D0600D08000000000000020, .wrsr ⟨0, 0, 6, 0, (opd 1 5 2 0), .zero, .zero, 0, 32⟩),
    (0x0E00855100000000001F8000, .launch ⟨0, 0, 0, 133, (opd 0 5 4 0), .zero, .zero, 63, 0⟩),
    (0x0F0000000000000000000000, .allocFull ⟨0, 0, 0, 0, .zero, .zero, .zero, 0, 0⟩),
    (0x0F2000000000000000000005, .allocRext ⟨1, 0, 0, 0, .zero, .zero, .zero, 0, 5⟩),
    (0x0F4000000000000000000005, .allocRrel ⟨2, 0, 0, 0, .zero, .zero, .zero, 0, 5⟩)] = true := by decide

theorem test_words_integer1 : reads .wide 64 [
    (0x10068510C268E00000000001, .iadd ⟨0, 0, 6, 133, (opd 0 1 3 4), (opd 1 5 7 0), .zero, 0, 1⟩),
    (0x110681C00210030000000001, .isub ⟨0, 0, 6, 129, (opd 1 4 0 4), (opd 0 2 0 12), .zero, 0, 1⟩),
    (0x120685D18032E00000000001, .imul ⟨0, 0, 6, 133, (opd 1 5 6 0), (opd 0 6 23 0), .zero, 0, 1⟩),
    (0x130681200640030000000001, .imulh ⟨0, 0, 6, 129, (opd 0 2 0 12), (opd 1 0 0 12), .zero, 0, 1⟩),
    (0x140685678058023000800001, .imad ⟨0, 0, 6, 133, (opd 0 6 30 0), (opd 1 3 0 8), (opd 1 4 0 4), 0, 1⟩),
    (0x150181800408613440000001, .imadw ⟨0, 0, 1, 129, (opd 1 0 0 8), (opd 0 1 3 4), (opd 1 5 4 0), 0, 1⟩),
    (0x160685B00460010000000001, .idiv ⟨0, 0, 6, 133, (opd 1 3 0 8), (opd 1 4 0 4), .zero, 0, 1⟩),
    (0x17068110C268600000000001, .irem ⟨0, 0, 6, 129, (opd 0 1 3 4), (opd 1 5 3 0), .zero, 0, 1⟩),
    (0x180685C00210030000000001, .imin ⟨0, 0, 6, 133, (opd 1 4 0 4), (opd 0 2 0 12), .zero, 0, 1⟩),
    (0x190681D08036600000000001, .imax ⟨0, 0, 6, 129, (opd 1 5 2 0), (opd 0 6 51 0), .zero, 0, 1⟩),
    (0x1A0285200600000000000001, .iabs ⟨0, 0, 2, 133, (opd 0 2 0 12), .zero, .zero, 0, 1⟩),
    (0x1B06816E8000000000000001, .ineg ⟨0, 0, 6, 129, (opd 0 6 58 0), .zero, .zero, 0, 1⟩)] = true := by decide

theorem test_words_integer2 : reads .wide 64 [
    (0x1C0685800408610000000001, .and ⟨0, 0, 6, 133, (opd 1 0 0 8), (opd 0 1 3 4), .zero, 0, 1⟩),
    (0x1D0681B00460010000000001, .or ⟨0, 0, 6, 129, (opd 1 3 0 8), (opd 1 4 0 4), .zero, 0, 1⟩),
    (0x1E068510C268E00000000001, .xor ⟨0, 0, 6, 133, (opd 0 1 3 4), (opd 1 5 7 0), .zero, 0, 1⟩),
    (0x1F0681C00210030000000001, .andn ⟨0, 0, 6, 129, (opd 1 4 0 4), (opd 0 2 0 12), .zero, 0, 1⟩),
    (0x200685D18031E00000000001, .shl ⟨0, 0, 6, 133, (opd 1 5 6 0), (opd 0 6 15 0), .zero, 0, 1⟩),
    (0x210681200640030000000001, .shr ⟨0, 0, 6, 129, (opd 0 2 0 12), (opd 1 0 0 12), .zero, 0, 1⟩),
    (0x220685658058020000000001, .sar ⟨0, 0, 6, 133, (opd 0 6 22 0), (opd 1 3 0 8), .zero, 0, 1⟩),
    (0x230681800408610000000001, .rot ⟨0, 0, 6, 129, (opd 1 0 0 8), (opd 0 1 3 4), .zero, 0, 1⟩),
    (0x240685B00400000000000001, .popc ⟨0, 0, 6, 133, (opd 1 3 0 8), .zero, .zero, 0, 1⟩),
    (0x25068110C200000000000001, .clz ⟨0, 0, 6, 129, (opd 0 1 3 4), .zero, .zero, 0, 1⟩),
    (0x260685C00200000000000001, .brev ⟨0, 0, 6, 133, (opd 1 4 0 4), .zero, .zero, 0, 1⟩),
    (0x270681D08035600000000001, .bfx ⟨0, 0, 6, 129, (opd 1 5 2 0), (opd 0 6 43 0), .zero, 0, 1⟩)] = true := by decide

theorem test_words_integer3 : reads .wide 64 [
    (0x280685200640030430800001, .bfi ⟨0, 0, 6, 133, (opd 0 2 0 12), (opd 1 0 0 12), (opd 0 1 3 4), 0, 1⟩),
    (0x29A6016C8058020000000000, .icmp ⟨5, 0, 6, 1, (opd 0 6 50 0), (opd 1 3 0 8), .zero, 0, 0⟩),
    (0x2A0685800408610000000000, .sel ⟨0, 0, 6, 133, (opd 1 0 0 8), (opd 0 1 3 4), .zero, 0, 0⟩),
    (0x2B0681B00400000000000000, .mov ⟨0, 0, 6, 129, (opd 1 3 0 8), .zero, .zero, 0, 0⟩),
    (0x2C0685000044D5E6F7800000, .movi ⟨0, 0, 6, 133, .zero, 0x89ABCDEF, 0, 0⟩),
    (0x2D078100004B20067FFF8004, .lea ⟨0, 0, 7, 129, .zero, 9, 3, (opd 0 2 0 12), 0x7FFF8, 0, 1, 0⟩),
    (0x2E068500000000000000000B, .widx ⟨0, 0, 6, 133, .zero, .zero, .zero, 0, 11⟩),
    (0x2F0681200640030000000001, .iadds ⟨0, 0, 6, 129, (opd 0 2 0 12), (opd 1 0 0 12), .zero, 0, 1⟩)] = true := by decide

theorem test_words_mask1 : reads .wide 64 [
    (0x300001638000000000000000, .mset ⟨0, 0, 0, 1, (opd 0 6 14 0), .zero, .zero, 0, 0⟩),
    (0x31600100010000C000000000, .mlog ⟨3, 0, 0, 1, (opd 0 0 0 2), (opd 0 0 0 3), .zero, 0, 0⟩),
    (0x320000000100000000000000, .mif ⟨0, 0, 0, 0, (opd 0 0 0 2), .zero, .zero, 0, 0⟩),
    (0x330000000000000000000000, .melse ⟨0, 0, 0, 0, .zero, .zero, .zero, 0, 0⟩),
    (0x340000000000000000000000, .mend ⟨0, 0, 0, 0, .zero, .zero, .zero, 0, 0⟩),
    (0x350000510000000000000000, .msave ⟨0, 0, 0, 0, (opd 0 5 4 0), .zero, .zero, 0, 0⟩),
    (0x360000510000000000000000, .mload ⟨0, 0, 0, 0, (opd 0 5 4 0), .zero, .zero, 0, 0⟩),
    (0x370081000000000000000002, .mstat ⟨0, 0, 0, 129, .zero, .zero, .zero, 0, 2⟩),
    (0x380085000100000000000000, .mpopc ⟨0, 0, 0, 133, (opd 0 0 0 2), .zero, .zero, 0, 0⟩),
    (0x390081000100000000000000, .mfirst ⟨0, 0, 0, 129, (opd 0 0 0 2), .zero, .zero, 0, 0⟩),
    (0x3A060110C200000000000000, .ballot ⟨0, 0, 6, 1, (opd 0 1 3 4), .zero, .zero, 0, 0⟩),
    (0x3B0008000100000000000001, .bcnt ⟨0, 0, 0, 8, (opd 0 0 0 2), .zero, .zero, 0, 1⟩)] = true := by decide

theorem test_words_mask2 : reads .wide 64 [
    (0x3C0685D18068E0140000002A, .rsel ⟨0, 0, 6, 133, (opd 1 5 6 0), (opd 1 5 7 0), (opd 0 5 0 0), 0, 42⟩),
    (0x3C208100000000140000002A, .rselTie ⟨1, 0, 0, 129, .zero, .zero, (opd 0 5 0 0), 0, 42⟩),
    (0x3D1205618058020000000000, .vshfl ⟨0, 1, 2, 5, (opd 0 6 6 0), (opd 1 3 0 8), .zero, 0, 0⟩),
    (0x3E2681800400000000000000, .vred ⟨1, 0, 6, 129, (opd 1 0 0 8), .zero, .zero, 0, 0⟩),
    (0x3F2608B00400000000000001, .vscan ⟨1, 0, 6, 8, (opd 1 3 0 8), .zero, .zero, 0, 1⟩)] = true := by decide

theorem test_words_float1 : reads .wide 64 [
    (0x40080810C268600000184000, .fadd ⟨0, 0, 8, 8, (opd 0 1 3 4), (opd 1 5 3 0), .zero, 388, 0⟩),
    (0x410808C00210030000184000, .fsub ⟨0, 0, 8, 8, (opd 1 4 0 4), (opd 0 2 0 12), .zero, 388, 0⟩),
    (0x420808D08033600000184000, .fmul ⟨0, 0, 8, 8, (opd 1 5 2 0), (opd 0 6 27 0), .zero, 388, 0⟩),
    (0x430808200640030430984000, .ffma ⟨0, 0, 8, 8, (opd 0 2 0 12), (opd 1 0 0 12), (opd 0 1 3 4), 388, 0⟩),
    (0x440808688058023000984000, .ffms ⟨0, 0, 8, 8, (opd 0 6 34 0), (opd 1 3 0 8), (opd 1 4 0 4), 388, 0⟩),
    (0x450808800408610000184000, .fmin ⟨0, 0, 8, 8, (opd 1 0 0 8), (opd 0 1 3 4), .zero, 388, 0⟩),
    (0x460808B00460010000184000, .fmax ⟨0, 0, 8, 8, (opd 1 3 0 8), (opd 1 4 0 4), .zero, 388, 0⟩),
    (0x47080810C268E00000184000, .fminm ⟨0, 0, 8, 8, (opd 0 1 3 4), (opd 1 5 7 0), .zero, 388, 0⟩),
    (0x480808C00210030000184000, .fmaxm ⟨0, 0, 8, 8, (opd 1 4 0 4), (opd 0 2 0 12), .zero, 388, 0⟩),
    (0x490808D18036E00000184002, .fsgn ⟨0, 0, 8, 8, (opd 1 5 6 0), (opd 0 6 55 0), .zero, 388, 2⟩),
    (0x4AE801200640030000184000, .fcmp ⟨7, 0, 8, 1, (opd 0 2 0 12), (opd 1 0 0 12), .zero, 388, 0⟩),
    (0x4B08086F8000000000184000, .fclass ⟨0, 0, 8, 8, (opd 0 6 62 0), .zero, .zero, 388, 0⟩)] = true := by decide

theorem test_words_float2 : reads .wide 64 [
    (0x4C0808800408610000184000, .fdiv ⟨0, 0, 8, 8, (opd 1 0 0 8), (opd 0 1 3 4), .zero, 388, 0⟩),
    (0x4D0808B00400000000184000, .fsqrt ⟨0, 0, 8, 8, (opd 1 3 0 8), .zero, .zero, 388, 0⟩),
    (0x4E080810C200000000184000, .frcp ⟨0, 0, 8, 8, (opd 0 1 3 4), .zero, .zero, 388, 0⟩),
    (0x4F0808C00200000000184000, .frsq ⟨0, 0, 8, 8, (opd 1 4 0 4), .zero, .zero, 388, 0⟩),
    (0x500808D08000000000184000, .fexp2 ⟨0, 0, 8, 8, (opd 1 5 2 0), .zero, .zero, 388, 0⟩),
    (0x510808200600000000184000, .flog2 ⟨0, 0, 8, 8, (opd 0 2 0 12), .zero, .zero, 388, 0⟩),
    (0x520808668000000000184000, .frnd ⟨0, 0, 8, 8, (opd 0 6 26 0), .zero, .zero, 388, 0⟩),
    (0x530808800408610000184000, .fscale ⟨0, 0, 8, 8, (opd 1 0 0 8), (opd 0 1 3 4), .zero, 388, 0⟩),
    (0x540908B00460011400184000, .fdot ⟨0, 0, 9, 8, (opd 1 3 0 8), (opd 1 4 0 4), (opd 0 5 0 0), 388, 0⟩),
    (0x550A0810C268E01A80184000, .fdp2 ⟨0, 0, 10, 8, (opd 0 1 3 4), (opd 1 5 7 0), (opd 0 6 40 0), 388, 0⟩),
    (0x560B08C00210032000184000, .fdp4 ⟨0, 0, 11, 8, (opd 1 4 0 4), (opd 0 2 0 12), (opd 1 0 0 0), 388, 0⟩),
    (0x570A08D18035E00000184000, .hadd2 ⟨0, 0, 10, 8, (opd 1 5 6 0), (opd 0 6 47 0), .zero, 388, 0⟩)] = true := by decide

theorem test_words_float3 : reads .wide 64 [
    (0x580A08200640030000184000, .hmul2 ⟨0, 0, 10, 8, (opd 0 2 0 12), (opd 1 0 0 12), .zero, 388, 0⟩),
    (0x590A086D8058023000984000, .hfma2 ⟨0, 0, 10, 8, (opd 0 6 54 0), (opd 1 3 0 8), (opd 1 4 0 4), 388, 0⟩),
    (0x5A0A08800408610000184000, .hmin2 ⟨0, 0, 10, 8, (opd 1 0 0 8), (opd 0 1 3 4), .zero, 388, 0⟩),
    (0x5B0A08B00460010000184000, .hmax2 ⟨0, 0, 10, 8, (opd 1 3 0 8), (opd 1 4 0 4), .zero, 388, 0⟩),
    (0x5C080810C200000000184000, .fgetx ⟨0, 0, 8, 8, (opd 0 1 3 4), .zero, .zero, 388, 0⟩)] = true := by decide

theorem test_words_conversion1 : reads .wide 64 [
    (0x600808C00200000000184009, .cvt ⟨0, 0, 8, 8, (opd 1 4 0 4), .zero, .zero, 388, 9⟩),
    (0x610608D0800000000018400A, .cvti ⟨0, 0, 6, 8, (opd 1 5 2 0), .zero, .zero, 388, 10⟩),
    (0x620808200600000000184006, .cvtf ⟨0, 0, 8, 8, (opd 0 2 0 12), .zero, .zero, 388, 6⟩),
    (0x630908648000000000184008, .cvtt ⟨0, 0, 9, 8, (opd 0 6 18 0), .zero, .zero, 388, 8⟩),
    (0x641008800408610000000001, .pack ⟨0, 1, 0, 8, (opd 1 0 0 8), (opd 0 1 3 4), .zero, 0, 1⟩),
    (0x650008B00400000000000001, .unpack ⟨0, 0, 0, 8, (opd 1 3 0 8), .zero, .zero, 0, 1⟩),
    (0x660E0810C200000000000000, .bfpk ⟨0, 0, 14, 8, (opd 0 1 3 4), .zero, .zero, 0, 0⟩),
    (0x670E08C00200000000000000, .bfun ⟨0, 0, 14, 8, (opd 1 4 0 4), .zero, .zero, 0, 0⟩),
    (0x681708D18000000000000000, .mxpk ⟨0, 1, 7, 8, (opd 1 5 6 0), .zero, .zero, 0, 0⟩),
    (0x691708200600000000184000, .mxun ⟨0, 1, 7, 8, (opd 0 2 0 12), .zero, .zero, 388, 0⟩),
    (0x6A0008A04800000000000025, .plane ⟨0, 0, 0, 8, (opd 1 2 1 16), .zero, .zero, 0, 37⟩),
    (0x6B0008800400000000000025, .unplane ⟨0, 0, 0, 8, (opd 1 0 0 8), .zero, .zero, 0, 37⟩)] = true := by decide

theorem test_words_conversion2 : reads .wide 64 [
    (0x6C00006D8000000000000000, .setfmt ⟨0, 0, 0, 0, (opd 0 6 54 0), .zero, .zero, 0, 0⟩),
    (0x6D0081000000000000000000, .getfmt ⟨0, 0, 0, 129, .zero, .zero, .zero, 0, 0⟩),
    (0x6E0085000000000000000001, .fstat ⟨0, 0, 0, 133, .zero, .zero, .zero, 0, 1⟩),
    (0x6F0000608000000000000000, .setfpm ⟨0, 0, 0, 0, (opd 0 6 2 0), .zero, .zero, 0, 0⟩)] = true := by decide

theorem test_words_memory : reads .wide 64 [
    (0x70060800004B80067FFF8006, .ld ⟨0, 0, 6, 8, .zero, 9, 3, (opd 1 0 0 12), 0x7FFF8, 0, 1, 2⟩),
    (0x71060062804BB0047FFF8006, .st ⟨0, 0, 6, 0, (opd 0 6 10 0), 9, 3, (opd 1 3 0 8), 0x7FFF8, 0, 1, 2⟩),
    (0x72068500004BD1C07FFF8006, .ldu ⟨0, 0, 6, 133, .zero, 9, 3, (opd 1 5 7 0), 0x7FFF8, 0, 1, 2⟩),
    (0x73060064804BD0C07FFF8006, .stu ⟨0, 0, 6, 0, (opd 0 6 18 0), 9, 3, (opd 1 5 3 0), 0x7FFF8, 0, 1, 2⟩),
    (0x74000000004BD1C07FFF8006, .pref ⟨0, 0, 0, 0, .zero, 9, 3, (opd 1 5 7 0), 0x7FFF8, 0, 1, 2⟩),
    (0x750000510068C000001F8000, .spagePin ⟨0, 0, 0, 0, (opd 0 5 4 0), (opd 1 5 6 0), .zero, 63, 0⟩),
    (0x752000510068C000001F8000, .spageUnpin ⟨1, 0, 0, 0, (opd 0 5 4 0), (opd 1 5 6 0), .zero, 63, 0⟩),
    (0x754081510068C000001F8000, .spageQuery ⟨2, 0, 0, 129, (opd 0 5 4 0), (opd 1 5 6 0), .zero, 63, 0⟩),
    (0x76060800004BB0047FFF8004, .ldnt ⟨0, 0, 6, 8, .zero, 9, 3, (opd 1 3 0 8), 0x7FFF8, 0, 1, 0⟩),
    (0x77060080044B10C27FFF8004, .stnt ⟨0, 0, 6, 0, (opd 1 0 0 8), 9, 3, (opd 0 1 3 4), 0x7FFF8, 0, 1, 0⟩)] = true := by decide

theorem test_words_copy : reads .wide 64 [
    (0x780085510068C01400028000, .cpy ⟨0, 0, 0, 133, (opd 0 5 4 0), (opd 1 5 6 0), (opd 0 5 0 0), 5, 0⟩),
    (0x790081510068C03460028000, .cpy2d ⟨0, 0, 0, 129, (opd 0 5 4 0), (opd 1 5 6 0), (opd 1 5 6 0), 5, 0⟩),
    (0x7A0485510068C03460028001, .cpypl ⟨0, 0, 4, 133, (opd 0 5 4 0), (opd 1 5 6 0), (opd 1 5 6 0), 5, 1⟩),
    (0x7B0081510068C00000028000, .cpeat ⟨0, 0, 0, 129, (opd 0 5 4 0), (opd 1 5 6 0), .zero, 5, 0⟩),
    (0x7C0E85510068C03460028000, .cpack ⟨0, 0, 14, 133, (opd 0 5 4 0), (opd 1 5 6 0), (opd 1 5 6 0), 5, 0⟩),
    (0x7D0081510068C03460028000, .psel ⟨0, 0, 0, 129, (opd 0 5 4 0), (opd 1 5 6 0), (opd 1 5 6 0), 5, 0⟩),
    (0x7E0085510068C01400028003, .cpfill ⟨0, 0, 0, 133, (opd 0 5 4 0), (opd 1 5 6 0), (opd 0 5 0 0), 5, 3⟩),
    (0x7F00005100000000001F8000, .eresume ⟨0, 0, 0, 0, (opd 0 5 4 0), .zero, .zero, 63, 0⟩),
    (0x7F00005100000000001F8001, .eresumeAbort ⟨0, 0, 0, 0, (opd 0 5 4 0), .zero, .zero, 63, 1⟩)] = true := by decide

theorem test_words_sync1 : reads .wide 64 [
    (0x800000648068600000028000, .binit ⟨0, 0, 0, 0, (opd 0 6 18 0), (opd 1 5 3 0), .zero, 5, 0⟩),
    (0x810000658068E00000028000, .barr ⟨0, 0, 0, 0, (opd 0 6 22 0), (opd 1 5 7 0), .zero, 5, 0⟩),
    (0x820000668068600000028001, .bexp ⟨0, 0, 0, 0, (opd 0 6 26 0), (opd 1 5 3 0), .zero, 5, 1⟩),
    (0x830085678068E00000028000, .waitph ⟨0, 0, 0, 133, (opd 0 6 30 0), (opd 1 5 7 0), .zero, 5, 0⟩),
    (0x840081688000000000028000, .testph ⟨0, 0, 0, 129, (opd 0 6 34 0), .zero, .zero, 5, 0⟩),
    (0x850085000000000000000000, .gridbar ⟨0, 0, 0, 133, .zero, .zero, .zero, 0, 0⟩),
    (0x86E20810C24BD0C07FFF8004, .atom ⟨7, 0, 2, 8, (opd 0 1 3 4), 9, 3, (opd 1 5 3 0), 0x7FFF8, 0, 1, 0⟩),
    (0x874808C0024B20067FFF8C24, .atomf ⟨2, 0, 8, 8, (opd 1 4 0 4), 9, 3, (opd 0 2 0 12), 0x7FFF8, 388, 1, 0⟩),
    (0x882200D0804B6CC07FFF8004, .red ⟨1, 0, 2, 0, (opd 1 5 2 0), 9, 3, (opd 0 6 51 0), 0x7FFF8, 0, 1, 0⟩),
    (0x89080020064B80067FFF8C24, .rednm ⟨0, 0, 8, 0, (opd 0 2 0 12), 9, 3, (opd 1 0 0 12), 0x7FFF8, 388, 1, 0⟩),
    (0x8A0000000000000000000000, .nmfence ⟨0, 0, 0, 0, .zero, .zero, .zero, 0, 0⟩),
    (0x8B00850000000000001F801F, .dwacq ⟨0, 0, 0, 133, .zero, .zero, .zero, 63, 31⟩)] = true := by decide

theorem test_words_sync2 : reads .wide 64 [
    (0x8C00005100000000001F8000, .dwrel ⟨0, 0, 0, 0, (opd 0 5 4 0), .zero, .zero, 63, 0⟩),
    (0x8DE20810C24BD1C07FFF8004, .atomw ⟨7, 0, 2, 8, (opd 0 1 3 4), 9, 3, (opd 1 5 7 0), 0x7FFF8, 0, 1, 0⟩),
    (0x8EF40880024B20067FFF8004, .atomq ⟨7, 1, 4, 8, (opd 1 0 0 4), 9, 3, (opd 0 2 0 12), 0x7FFF8, 0, 1, 0⟩),
    (0x8F8000000000000000000000, .fence ⟨4, 0, 0, 0, .zero, .zero, .zero, 0, 0⟩)] = true := by decide

theorem test_words_matrix : reads .wide 64 [
    (0x9708085100000000001F803F, .accrd ⟨0, 0, 8, 8, (opd 0 5 4 0), .zero, .zero, 63, 63⟩),
    (0x9808005100400100001F803F, .accwr ⟨0, 0, 8, 0, (opd 0 5 4 0), (opd 1 0 0 4), .zero, 63, 63⟩),
    (0x9900000000000000001F8003, .accacq ⟨0, 0, 0, 0, .zero, .zero, .zero, 63, 3⟩),
    (0x9A00000000000000001F8003, .accrel ⟨0, 0, 0, 0, .zero, .zero, .zero, 63, 3⟩)] = true := by decide

theorem test_words_matrixMcc : reads .mcc 1 [
    (0x900000000D0007C000A2803F, .mma ⟨0, 0, 0, 0, (opd 0 0 0 26), (opd 0 0 0 31), (opd 0 0 0 5), 5, 63⟩),
    (0x91000000078005000322803F, .mmas ⟨0, 0, 0, 0, (opd 0 0 0 15), (opd 0 0 0 20), (opd 0 0 0 25), 5, 63⟩),
    (0x92000000000000000002803F, .mzero ⟨0, 0, 0, 0, .zero, .zero, .zero, 5, 63⟩),
    (0x930000000C0007400062803F, .mldacc ⟨0, 0, 0, 0, (opd 0 0 0 24), (opd 0 0 0 29), (opd 0 0 0 3), 5, 63⟩),
    (0x940000000680048002E2803F, .mstacc ⟨0, 0, 0, 0, (opd 0 0 0 13), (opd 0 0 0 18), (opd 0 0 0 23), 5, 63⟩),
    (0x95000000010001C00002803F, .mscale ⟨0, 0, 0, 0, (opd 0 0 0 2), (opd 0 0 0 7), .zero, 5, 63⟩),
    (0x96001D0000000000001F8007, .mqry ⟨0, 0, 0, 29, .zero, .zero, .zero, 63, 7⟩)] = true := by decide

theorem test_words_gather : reads .wide 64 [
    (0xA00085510068C01400028000, .gath ⟨0, 0, 0, 133, (opd 0 5 4 0), (opd 1 5 6 0), (opd 0 5 0 0), 5, 0⟩),
    (0xA12081510068C03460028000, .gathp ⟨1, 0, 0, 129, (opd 0 5 4 0), (opd 1 5 6 0), (opd 1 5 6 0), 5, 0⟩),
    (0xA20085510068C01400028001, .scata ⟨0, 0, 0, 133, (opd 0 5 4 0), (opd 1 5 6 0), (opd 0 5 0 0), 5, 1⟩),
    (0xA200810000000014001F8003, .scataClose ⟨0, 0, 0, 129, .zero, .zero, (opd 0 5 0 0), 63, 3⟩),
    (0xA30085510068C01400028000, .gpref ⟨0, 0, 0, 133, (opd 0 5 4 0), (opd 1 5 6 0), (opd 0 5 0 0), 5, 0⟩),
    (0xA40081510068C000001F8000, .thdl ⟨0, 0, 0, 129, (opd 0 5 4 0), (opd 1 5 6 0), .zero, 63, 0⟩),
    (0xA50085510068C000001F8000, .gstat ⟨0, 0, 0, 133, (opd 0 5 4 0), (opd 1 5 6 0), .zero, 63, 0⟩),
    (0xA60000510068C000001F8000, .shcnt ⟨0, 0, 0, 0, (opd 0 5 4 0), (opd 1 5 6 0), .zero, 63, 0⟩)] = true := by decide

theorem test_words_descent : reads .wide 64 [
    (0xA800855100000000001F8003, .dtree ⟨0, 0, 0, 133, (opd 0 5 4 0), .zero, .zero, 63, 3⟩),
    (0xA90008510068C01400028003, .desc ⟨0, 0, 0, 8, (opd 0 5 4 0), (opd 1 5 6 0), (opd 0 5 0 0), 5, 3⟩),
    (0xAA0085510068E000001F8003, .dregr ⟨0, 0, 0, 133, (opd 0 5 4 0), (opd 1 5 7 0), .zero, 63, 3⟩),
    (0xAB0081510068C01400028003, .dgrad ⟨0, 0, 0, 129, (opd 0 5 4 0), (opd 1 5 6 0), (opd 0 5 0 0), 5, 3⟩),
    (0xAC00080000000000001F8003, .dpathRead ⟨0, 0, 0, 8, .zero, .zero, .zero, 63, 3⟩),
    (0xAC2000B004000000001F8003, .dpathWrite ⟨1, 0, 0, 0, (opd 1 3 0 8), .zero, .zero, 63, 3⟩),
    (0xAD00850000000000001F8007, .dstat ⟨0, 0, 0, 133, .zero, .zero, .zero, 63, 7⟩)] = true := by decide

theorem test_words_pantry : reads .wide 64 [
    (0xB00008C002000000001F80FF, .tql ⟨0, 0, 0, 8, (opd 1 4 0 4), .zero, .zero, 63, 255⟩),
    (0xB10808D180000000001F8ABC, .tql2 ⟨0, 0, 8, 8, (opd 1 5 6 0), .zero, .zero, 63, 2748⟩),
    (0xB200082006400300001F82FF, .tqmul ⟨0, 0, 0, 8, (opd 0 2 0 12), (opd 1 0 0 12), .zero, 63, 767⟩),
    (0xB300000000000000001F8000, .tqcmt ⟨0, 0, 0, 0, .zero, .zero, .zero, 63, 0⟩)] = true := by decide

theorem test_words_cellarSubmission : reads .wide 64 [
    (0xB40081510000000000028000, .cqsub ⟨0, 0, 0, 129, (opd 0 5 4 0), .zero, .zero, 5, 0⟩),
    (0xB500855100000000001F8000, .cqstat ⟨0, 0, 0, 133, (opd 0 5 4 0), .zero, .zero, 63, 0⟩)] = true := by decide

theorem test_words_fabric : reads .wide 64 [
    (0xB800815100000000001F8007, .rjoin ⟨0, 0, 0, 129, (opd 0 5 4 0), .zero, .zero, 63, 7⟩),
    (0xB90000510068C014001F8007, .rsend ⟨0, 0, 0, 0, (opd 0 5 4 0), (opd 1 5 6 0), (opd 0 5 0 0), 63, 7⟩),
    (0xBA00000000000000001F8007, .rclose ⟨0, 0, 0, 0, .zero, .zero, .zero, 63, 7⟩),
    (0xBB00005100000000001F8007, .rcnt ⟨0, 0, 0, 0, (opd 0 5 4 0), .zero, .zero, 63, 7⟩),
    (0xBC00005100000000001F8000, .dmark ⟨0, 0, 0, 0, (opd 0 5 4 0), .zero, .zero, 63, 0⟩),
    (0xBD0085510068C000001F8000, .wlset ⟨0, 0, 0, 133, (opd 0 5 4 0), (opd 1 5 6 0), .zero, 63, 0⟩),
    (0xBE00815100000000001F8000, .lstat ⟨0, 0, 0, 129, (opd 0 5 4 0), .zero, .zero, 63, 0⟩)] = true := by decide

theorem test_words_mccScalar : reads .mcc 1 [
    (0xC0C08F920000000000000000, .salu ⟨12, 17, 30, 9, 0x0⟩),
    (0xC1708F81FFFFFFF000000000, .salui ⟨7, 17, 30, 0, 0xFFFFFFF8⟩),
    (0xC2908F920000000000000000, .scmp ⟨9, 17, 30, 9, 0x0⟩),
    (0xC3108801FFFFFFF000000000, .sli ⟨1, 17, 0, 0, 0xFFFFFFF8⟩),
    (0xC4608F81FFFFFFF000000000, .sld ⟨6, 17, 30, 0, 0xFFFFFFF8⟩),
    (0xC5300793FFFFFFF000000000, .sst ⟨3, 0, 30, 9, 0xFFFFFFF8⟩),
    (0xC60088000000002200000000, .srdsr ⟨0, 17, 0, 0, 0x11⟩)] = true := by decide

theorem test_words_cellarOnly : reads .cellar 32 [
    (0xD000086280000000001F8000, .cldc ⟨0, 0, 0, 8, (opd 0 6 10 0), .zero, .zero, 63, 0⟩),
    (0xD100006380400300001F8000, .cstc ⟨0, 0, 0, 0, (opd 0 6 14 0), (opd 1 0 0 12), .zero, 63, 0⟩),
    (0xD200005100000000001F8001, .crow ⟨0, 0, 0, 0, (opd 0 5 4 0), .zero, .zero, 63, 1⟩),
    (0xD302006580400300001F8000, .cred ⟨0, 0, 2, 0, (opd 0 6 22 0), (opd 1 0 0 12), .zero, 63, 0⟩),
    (0xD40000000000000000000ABC, .cend ⟨0, 0, 0, 0, .zero, .zero, .zero, 0, 2748⟩)] = true := by decide

/-! ### An ill-formed term for each check -/

/-- A well-formed IADD.S32 V4, V2, V3. -/
def add : Std := ⟨0, 0, 2, 4, opd 1 0 0 2, opd 1 0 0 3, .zero, 0, 0⟩

theorem smoke_good : (Instr.iadd add).wellFormed .wide 64 = true := by decide

/-- The check on the opcode: an MCC and a Cellar unit refuse what R124 does not give them, and no word encodes an event. -/
theorem smoke_opcode :
    ((Instr.iadd add).opcodeOk .mcc, (Instr.fdiv add).opcodeOk .cellar, (Instr.salu ⟨0, 1, 2, 3, 0⟩).opcodeOk .wide,
      Instr.hfwiWrite.opcodeOk .wide) = (false, false, false, false) := by decide

/-- The check on OP, TY and XTY (R121, R122). -/
theorem smoke_op_and_type :
    ((Instr.iadd { add with op := 1 }).fieldsOk .wide, (Instr.iadd { add with ty := 8 }).fieldsOk .wide,
      (Instr.iadd { add with xty := 1 }).fieldsOk .wide) = (false, false, false) := by decide

/-- The check on DST: a G register above G15, an odd pair, a destination of an instruction without one, a mask above
EM, and V16 on a Cellar unit (R44, R115, R118, R119). -/
theorem smoke_dst :
    ((Instr.iadd { add with dst := 144 }).fieldsOk .wide, (Instr.iadd { add with ty := 3, dst := 5 }).fieldsOk .wide,
      (Instr.nop ⟨0, 0, 0, 1, .zero, .zero, .zero, 0, 0⟩).fieldsOk .wide,
      (Instr.icmp { add with dst := 9 }).fieldsOk .wide, (Instr.iadd { add with dst := 16 }).fieldsOk .cellar) =
      (false, false, false, false, false) := by decide

/-- The checks on the source positions: an unused field in use, REG of a uniform pattern, WT of an immediate, a mask
position that names V9, an MCC register above S31 (R117 to R119). -/
theorem smoke_sources :
    ((Instr.iadd { add with c := opd 0 0 0 1 }).fieldsOk .wide, (Instr.iadd { add with b := opd 1 5 1 1 }).fieldsOk .wide,
      (Instr.iadd { add with a := opd 1 6 0 0 }).fieldsOk .wide,
      (Instr.mif ⟨0, 0, 0, 0, opd 0 0 0 9, .zero, .zero, 0, 0⟩).fieldsOk .wide,
      (Instr.mma ⟨0, 0, 0, 0, opd 0 0 0 32, opd 0 0 0 1, opd 0 0 0 2, 63, 0⟩).fieldsOk .mcc) =
      (false, false, false, false, false) := by decide

/-- The checks on FPC, XT, NB and HINT (R63, R108, R110, R113). -/
theorem smoke_modifiers :
    ((Instr.iadd { add with fpc := 1 }).fieldsOk .wide, (Instr.fadd { add with ty := 8, fpc := 4 }).fieldsOk .wide,
      (Instr.iadd { add with xt := 2 }).fieldsOk .wide,
      (Instr.cqsub ⟨0, 0, 0, 129, opd 1 5 2 0, .zero, .zero, 48, 0⟩).fieldsOk .wide,
      (Instr.ld ⟨0, 0, 6, 5, .zero, 2, 2, opd 1 0 0 7, 64, 0, 0, 3⟩).fieldsOk .wide) =
      (false, false, false, false, false) := by decide

/-- The rules of single instructions: TSLOT 5, BRC's condition 10, SALU's FN 13, RDSR of a register that does not
exist, a barrier object with a named barrier, an odd pair in SC (R112, R122, R158, R233, R372). -/
theorem smoke_extra :
    ((Instr.br ⟨0, 0, 5, 0, 0⟩).fieldsOk .wide, (Instr.brc ⟨0, 0, 0, 10, 0⟩).fieldsOk .wide,
      (Instr.salu ⟨13, 1, 2, 3, 0⟩).fieldsOk .mcc,
      (Instr.rdsr ⟨0, 0, 6, 5, .zero, .zero, .zero, 0, 0x30⟩).fieldsOk .wide,
      (Instr.barr ⟨0, 0, 0, 0, opd 0 6 1 0, opd 0 6 0 0, opd 1 5 2 0, 4, 0⟩).fieldsOk .wide,
      (Instr.psel ⟨0, 0, 0, 129, opd 1 5 2 0, opd 1 5 2 0, opd 1 5 3 0, 63, 0⟩).fieldsOk .wide) =
      (false, false, false, false, false, false) := by decide

/-- The check on patterns: code 7, a rotation in the identity, a broadcast beyond the group, a butterfly and a mirror
beyond it (R116). -/
theorem smoke_patterns :
    ((Instr.iadd { add with a := opd 1 7 0 2 }).patternsOk .wide 64, (Instr.iadd { add with a := opd 1 0 1 2 }).patternsOk .wide 64,
      (Instr.iadd { add with a := opd 1 2 8 2 }).patternsOk .wide 8, (Instr.iadd { add with a := opd 1 3 3 2 }).patternsOk .wide 8,
      (Instr.iadd { add with a := opd 1 4 4 2 }).patternsOk .wide 8) = (false, false, false, false, false) := by decide

/-- Why the decoder refuses a slot. -/
def refusal (s : Side) (w : Nat) (x : Slot) : Option DecodeErr :=
  match decode s w x with
  | .ok _ => none
  | .error e => some e

/-- What the decoder answers for an unassigned opcode, a wrong executor, a reserved bit and an illegal pattern, in
the order of R127. -/
theorem test_decode_refuses :
    (refusal .wide 64 (0x5D#8 ++ 0#88), refusal .mcc 1 (0x10#8 ++ 0#88), refusal .wide 64 1,
      refusal .wide 64 0x100204700000000000000000, refusal .wide 64 0x100204700000000000000002) =
      (some .opc, some .opc, some .rsv, some .pattern, some .rsv) := by decide

/-! ### A small state that the witnesses use -/

/-- A header of one ANY or vector group of 8 lanes and one matrix group. -/
def hdr : Header :=
  { res := 2, par := 3, roleany := true, matn := 1, vecn := 2, rext := 3, nbn := 8, w := [3, 1, 2], x := [2, 1], argsz := 8
    fscr := 4, fparl := 2, flane := 8, facc := 2, fatt := 1, kstk := 16, tag := 7 }

/-- An ANY group of 8 lanes with full registers. -/
def grp : Thread :=
  { side := .wide, role := .any, wg := 1, gidx := 0, width := 8, pc := 0x200400
    regs := { em := 0xFF, g := [(1, 0xFFFFFFE000000100), (2, 0x200600), (3, 5)], stkp := 32 } }

/-- A page table of one 2 MiB page at its own address, and a vector table in it. -/
def demoMem : Memory :=
  [(0x10000, 1), (0x10002, 2), (0x20000, 1), (0x20002, 3), (0x30008, 0x1F), (0x3000A, 0x20)] ++
    (List.range 24).flatMap fun k => [(0x200101 + 8 * k, 8), (0x200102 + 8 * k, 0x20)]

/-- A launch of partition 0. -/
def lau : Launch := { Launch.absent with hdr := hdr, nwg := 1, next := 1 }

/-- One resident workgroup with its full allotment. -/
def wgp : Wg := { launch := 1, ord := 0, die := 0, core := 0, unit_ := 1, full := true, pinned := List.range 28 }

/-- One package with one page and one group at the issue point. -/
def demo : State :=
  { threads := [(0, grp)], wgs := [(1, wgp)], launches := [(1, lau)], mem := demoMem
    units := [(1, { launch := 1, cluster := 0, die := 0, granted := [0] })]
    tlb := [{ part := 0, die := 0, page := 0x20, big := true, pa := 0x200000, r := true, w := true, x := true, mig := false, at_ := 0x30008 }]
    hreg := [(0x1A0, 0x10000), (0x400, 0x200100), (0x420, 0x40000000)] }

/-- The same, with its page in package 1, to which lane 0 leads. -/
def afar : State :=
  { demo with
    mem := Store.set demoMem 0x3000D 8
    lanes := [(0, { state := 1, en := true, peer := 1 })]
    tlb := [{ part := 0, die := 0, page := 0x20, big := true, pa := 0x80000200000, r := true, w := true, x := true,
              mig := false, at_ := 0x30008 }] }

/-- The same with another group at the issue point. -/
abbrev demo.of (t : Thread) : State := { demo with threads := [(0, t)] }

/-- A matrix group and a Cellar instance. -/
def mgrp : Thread := { side := .mcc, role := .matrix, wg := 1, gidx := 1, width := 1, pc := 0x200400, regs := { em := 1 } }
def cgrp : Thread := { side := .cellar, role := .any, wg := 5, gidx := 0, width := 32, pc := 0x200400, regs := { em := 0xFF } }

/-- An STD record of IADD.S32 V4, V2, V3, and records of the other formats. -/
def std : Std := ⟨0, 0, 2, 4, opd 1 0 0 2, opd 1 0 0 3, opd 1 0 0 6, 0, 0⟩
def eng : Eng := ⟨0, 0, 0, 132, opd 1 5 1 0, opd 1 5 2 0, opd 1 5 2 0, 63, 0⟩
def mrec : Mem := ⟨0, 0, 6, 4, opd 1 0 0 2, 1, 2, opd 0 6 0 0, 0, 0, 0, 0⟩
def brf : Br := ⟨0, 1, 0, 0, 3⟩

/-- An answer, from an evaluation. -/
theorem ok_of {ε α : Type} [DecidableEq α] (e : Except ε α) (a : α)
    (h : (match e with | .ok x => decide (x = a) | .error _ => false) = true) : e = .ok a := by
  cases e <;> simp_all

/-- An answer of some value, from an evaluation. -/
theorem some_ok {ε α : Type} (e : Except ε α) (h : (match e with | .ok _ => true | .error _ => false) = true) :
    ∃ a, e = .ok a := by
  cases e <;> simp_all

/-- A next state, from an evaluation. -/
theorem some_next (x : Host.Outcome State Fault Refusal) (h : (match x with | .next _ => true | _ => false) = true) :
    ∃ y, x = .next y := by
  cases x <;> simp_all

/-- A result in two parts whose last part is none, and one whose last part is a given fault. -/
theorem ends {α γ : Type} (x : α × Option γ) (h : x.2.isNone = true) : x = (x.1, none) := by
  rcases x with ⟨a, _ | c⟩ <;> simp_all

theorem stops {α : Type} (x : α × Option Flt) (f : Flt) (h : decide (x.2 = some f) = true) : x = (x.1, some f) := by
  rcases x with ⟨a, c⟩
  simp_all

/-- A tree record of depth 1 over rows of 32 BF16 weights in the attic. -/
def trec : Nat := 0x101000000008000000040000000050000000000000000ffffffc0000010000000000000000000ffffffc000000040

/-- The scratchpad with the record at 0x100. -/
def scrWith : Memory := Store.putNat [] 0x100 64 trec

/-- A group with operands for the engines in G1 to G9. -/
def egrp (gs : Store 64) : Thread :=
  { grp with
    trees := [(0, { bound := true, record := trec })]
    regs := { grp.regs with g := gs } }

/-- A core with one operation under ticket 3. -/
def demo.op (t : Thread) (op : EngOp) : State := { demo.of t with cores := [(0, { ops := [(3, op)] })] }

/-- A value, from an evaluation that finds one. -/
theorem some_is {α : Type} [Inhabited α] (o : Option α) (h : o.isSome = true) : o = some (o.getD default) := by
  cases o <;> simp_all

/-- A failure, from an evaluation. -/
theorem error_of {ε α : Type} [DecidableEq ε] (e : Except ε α) (a : ε)
    (h : (match e with | .ok _ => false | .error x => decide (x = a)) = true) : e = .error a := by
  cases e <;> simp_all

theorem not_error {ε α : Type} (e : Except ε α) (h : (match e with | .ok _ => true | .error _ => false) = true) (c : ε) :
    e ≠ .error c := by
  cases e <;> simp_all

/-- The demo workgroup has all its pages pinned. -/
theorem pinned_all (p : Nat) (h : p * 16384 < scrLimit (demo.hdrOf grp) wgp) : wgp.pinned.contains p = true := by
  have h1 : scrLimit (demo.hdrOf grp) wgp = 0x7000 := by decide +kernel
  have h2 : p = 0 ∨ p = 1 := by omega
  rcases h2 with rfl | rfl <;> decide +kernel

/-! ### Single instructions, with the values of the spec's worked examples and tables -/

/-- The group after one instruction. -/
def after (i : Instr) (t : Thread) : Thread :=
  (match exec i (demo.of t) with
    | .next s => s.threads.get? 0
    | _ => none).getD grp

/-- A group with two V registers of lane 0, V2 and V3. -/
def two (a b : W32) : Thread := { grp with regs := { grp.regs with v := [(128, a), (192, b)] } }

/-- V4 of lane 0 after an operation of a type on V2 and V3. -/
def v4 (i : Std → Instr) (ty : BitVec 4) (a b : W32) : W32 :=
  (after (i { std with ty := ty, c := .zero }) (two a b)).regs.v.get 256

/-- IADD and ISUB wrap; IADDS caps (R166, R167). -/
theorem test_integer_wrap :
    [v4 .iadd 2 0x7FFFFFFF 1, v4 .isub 6 0 1, v4 .iadds 2 0x7FFFFFFF 1, v4 .imulh 2 0xFFFFFFFF 1] =
      [0x80000000, 0xFFFFFFFF, 0x7FFFFFFF, 0xFFFFFFFF] := by decide +kernel

/-- The examples of R168. -/
theorem test_division :
    [v4 .idiv 2 7 0xFFFFFFFE, v4 .irem 2 7 0xFFFFFFFE, v4 .idiv 2 0xFFFFFFF9 2, v4 .irem 2 0xFFFFFFF9 2,
      v4 .idiv 6 7 0, v4 .irem 6 7 0, v4 .idiv 2 0x80000000 0xFFFFFFFF] =
      [0xFFFFFFFD, 1, 0xFFFFFFFD, 0xFFFFFFFF, 0xFFFFFFFF, 7, 0x80000000] := by decide +kernel

/-- BFX extends from the top bit of the field for S types and with zeros for Z types (R169). -/
theorem test_bit_fields :
    [v4 .bfx 2 0xF0 0x0404, v4 .bfx 6 0xF0 0x0404, v4 .bfx 6 0xF0 0x0820, v4 .popc 6 0xF0F0 0, v4 .clz 6 1 0,
      v4 .brev 6 1 0] = [0xFFFFFFFF, 0xF, 0, 8, 31, 0x80000000] := by decide +kernel

/-- FADD.BF16 of 1.0 and 2^-9 gives 1.0, and sets NX (R196). -/
theorem test_bf16_add :
    let t := after (.fadd { std with ty := 10, c := .zero }) (two 0x3F80 0x3B00)
    (t.regs.v.get 256, t.regs.fpm.getLsbD 8) = (0x3F80, true) := by decide +kernel

/-- Stochastic rounding: CVTT.BF16.F32 drops the low 16 bits. -/
theorem test_cvtt :
    let f (x : W32) := (after (.cvtt { std with ty := 10, b := .zero, c := .zero, xt := 8 }) (two x 0)).regs.v.get 256
    [f 0x3F810350, f 0x3F8043E8] = [0x3F81, 0x3F80] := by decide +kernel

/-- Three largest keys with a tie: bits 3, 2, 1 and 0, and the tie. -/
def keys : Thread :=
  { grp with regs := { grp.regs with
    g := [(4, 3)], m := [(1, 0xFF)]
    v := [(384, 5), (385, 9), (386, 12), (387, 9), (388, 3), (389, 12), (390, 9), (391, 1)] } }
def rsel (n : BitVec 6) : Instr := .rsel ⟨0, 0, 6, 132, opd 1 0 0 6, opd 0 6 n 0, opd 1 5 4 0, 0, 0x11⟩
def seen (t : Thread) : W64 × W64 × W64 := (t.regs.g.get 4, t.regs.m.get 1, t.regs.m.get 2)
def keys2 : Thread := { keys with regs := { keys.regs with g := [(4, 1)], m := [(1, 0x4A), (2, 0x24)] } }

theorem test_rsel : [seen (after (rsel 3) keys), seen (after (rsel 2) (after (rsel 3) keys)), seen (after (rsel 1) keys2),
    seen (after (rsel 0) keys2)] = [(3, 0x6E, 0), (1, 0x4A, 0x24), (1, 0x4A, 0x24), (1, 0x4A, 0x24)] := by decide +kernel

theorem test_rsel_tie :
    seen (after (.rselTie ⟨1, 0, 0, 132, .zero, .zero, opd 1 5 4 0, 0, 0x11⟩) keys2) = (0, 0, 0x26) := by decide +kernel

/-- A counted loop: G5 goes from 4 to 3 and LOOP branches, from 1 to 0 and it falls through. -/
theorem test_loop :
    let f (n : W64) := after (.loop ⟨0, 0, 1, 0, 5⟩)
      { grp with pc := 0x200418, regs := { grp.regs with g := [(5, n)] } }
    ((f 4).regs.g.get 5, (f 4).pc, (f 1).regs.g.get 5, (f 1).pc) = (3, 0x20040C, 0, 0x200424) := by decide +kernel

/-- SALU.SUB on the MCC. -/
theorem test_salu :
    (after (.salu ⟨1, 3, 1, 2, 0⟩) { mgrp with regs := { em := 1, s := [(1, 5), (2, 7)] } }).regs.s.get 3 =
      0xFFFFFFFFFFFFFFFE := by decide +kernel

/-- STU stores its low byte first (R3), and LD.S8 extends from its top bit (R227). -/
def scr5 (t : Thread) : State := { demo.of t with wgs := [(1, { wgp with scr := [(0x105, 0x80)] })] }
theorem test_store_bytes :
    let s := match exec (.stu { mrec with a := opd 1 0 0 2 }) (demo.of (two 0x11223344 0)) with
      | .next s => s
      | _ => demo
    (s.wgOf grp).scr.bytes 0x100 4 = [0x44, 0x33, 0x22, 0x11] := by decide +kernel
theorem test_load_extends :
    let s := match exec (.ld { mrec with ty := 0, ofs := 5 }) (scr5 grp) with
      | .next s => s
      | _ => demo
    (s.threads.getD 0 grp).regs.v.get 256 = 0xFFFFFF80 := by decide +kernel

/-- One block of BF16 products, of which the block rule keeps 2^-19 (R54, R55). -/
theorem test_block_truncation :
    (mmaCell {} 0x3F8000000 ([0x4480, 0x3A81, 0xC480].map BF16.dec) ([0x4480, 0x3B01, 0x4480].map BF16.dec)).1 =
      0x3F8000100 := by decide +kernel

/-- A TS8 block (R51, R53). -/
theorem test_ts8 :
    let p := tsPack (tsForm 14) 3 ⟨false, false, false⟩ F32 [0x41200000, 0x3E99999A, 0xBFC00000, 0]
    (p.elems, p.scale, p.flags) = ([0x28, 0x8A, 0xF0, 0x80], 0x7F82, { nx := true }) := by decide +kernel

/-- Capacity of the `tile_attn` launch in four dies (R79). -/
theorem test_capacity :
    let h : Header := { widthCode := 2, res := 3, par := 4, copyn := 1, matn := 1, vecn := 2, split := 3, rext := 2
                        nbn := 8, fscr := 64, fparl := 16, facc := 2, fatt := 16, x := [0, 3] }
    (h.perCore, h.perCluster, h.capacity 4) = (2, 2, 256) := by decide +kernel

/-- One exchange of the Damper (R94). -/
theorem test_damper :
    (List.range 4).map (damperMove 4 [(0, 12), (1, 3), (2, 5), (3, 5)]) = [some (1, 4), none, none, none] := by
  decide +kernel

/-- Two stores, two loads: the timestamps of steps 1 and 2 (R393). -/
theorem test_timestamps :
    let s := { demo with lease := [(0, 0x100000008)], lts := [(0x4000, (0, 5)), (0x4001, (0, 5))] }
    let r := s.stampStore { grp with pts := 3 } (.phys 0x200000)
    let q := r.1.stampLoad r.2 (.phys 0x200080)
    (r.2.pts, r.1.lts.get? 0x4000, q.2.pts, q.1.lts.get? 0x4001) = (6, some (6, 6), 6, some (0, 14)) := by decide +kernel

/-- A placed instruction, MOVI.S32 G2, #-1, is the next step's (R103). -/
theorem test_step :
    (match step (State.reset.withFetchWord 96 0x2C028200007FFFFFFF800000) with
      | .next s => s.threads.vals.map fun t => t.regs.g.get 2
      | _ => []) = [0xFFFFFFFFFFFFFFFF] := by decide +kernel

/-! ### States that meet the hypotheses of the statements -/

/-- A package whose only thread has a turn to come. -/
def inTurnS : State := { State.reset.withFetchWord 96 0 with agenda := [], inLine := [.issue 0] }

theorem witness_StepRunsTheDecodedInstruction_1 :
    ∃ (s now s1 : State) (tid : Nat) (rest : List Move) (t : Thread) (l : Line) (i : Instr),
    now = { s with
      free := s.free + 1
      clock := s.clock + BitVec.ofNat 64 (Config.freeCycles s.free)
      time := s.time + BitVec.ofNat 64 (Config.freeTime s.free) } ∧
    s.agenda = .issue tid :: rest ∧ s1 = { now with agenda := rest } ∧
    s.power ≠ .off ∧ s.threads.get? tid = some t ∧ s.lost (s.dieOf t) = false ∧ s.stopped t = false ∧ t.dueNow = none ∧
    t.dueHeld = false ∧ t.status = .running ∧ (s.debug = 2 → t.side = .cellar ∨ t.at_ ∉ s.breaks) ∧ t.line = some l ∧
    t.lineChecks l = .ok ⟨⟩ ∧ decode t.side t.width (l.slot (slotOf t.at_)) = .ok i ∧
    (supervisorOnly i = true → t.handler = true) ∧ roleOk t i = true ∧ t.reportWaits i = false :=
  ⟨(State.reset.withFetchWord 96 0), (State.reset.withFetchWord 96 0).tick, { State.tick (State.reset.withFetchWord 96 0) with agenda := [] }, 0, [], (Thread.placed .wide 0 0), (Line.ofWord 0),
    (.nop ⟨0, 0, 0, 0, .zero, .zero, .zero, 0, 0⟩), by
    refine ⟨rfl, ?_⟩
    and_intros <;> first | decide +kernel | exact ok_of _ _ (by decide +kernel) | rfl⟩

theorem witness_StepRunsTheDecodedInstruction_1_pick :
    ∃ (s now s1 : State) (tid : Nat) (t : Thread) (l : Line) (i : Instr),
    now = { s with
      free := s.free + 1
      clock := s.clock + BitVec.ofNat 64 (Config.freeCycles s.free)
      time := s.time + BitVec.ofNat 64 (Config.freeTime s.free) } ∧
    s.agenda = [] ∧ now.pick = some (.issue tid) ∧ s1 = now.picked ∧
    s.power ≠ .off ∧ s.threads.get? tid = some t ∧ s.lost (s.dieOf t) = false ∧ s.stopped t = false ∧ t.dueNow = none ∧
    t.dueHeld = false ∧ t.status = .running ∧ (s.debug = 2 → t.side = .cellar ∨ t.at_ ∉ s.breaks) ∧ t.line = some l ∧
    t.lineChecks l = .ok ⟨⟩ ∧ decode t.side t.width (l.slot (slotOf t.at_)) = .ok i ∧
    (supervisorOnly i = true → t.handler = true) ∧ roleOk t i = true ∧ t.reportWaits i = false :=
  ⟨inTurnS, inTurnS.tick, inTurnS.tick.picked, 0, (Thread.placed .wide 0 0), (Line.ofWord 0),
    (.nop ⟨0, 0, 0, 0, .zero, .zero, .zero, 0, 0⟩), by
    refine ⟨rfl, ?_⟩
    and_intros <;> first | decide +kernel | exact ok_of _ _ (by decide +kernel) | rfl⟩

theorem witness_StepRunsTheDecodedInstruction_2 : ∃ (s : State) (n : Nat) (m : Move),
    s.agenda = [] ∧ s.patience = n + 1 ∧ s.tick.pick = some m :=
  have h1 : ({ inTurnS with patience := 1 } : State).tick.candidates.elem (.issue 0) = true := by decide +kernel
  have h2 : Move.issue 0 ∈ ({ inTurnS with patience := 1 } : State).tick.movable :=
    List.mem_filter.2 ⟨List.elem_iff.1 h1, by decide +kernel⟩
  ⟨{ inTurnS with patience := 1 }, 0, _, rfl, rfl, List.getElem?_eq_getElem (Nat.mod_lt _ (List.length_pos_of_mem h2))⟩

theorem witness_StepRunsTheDecodedInstruction_3 : ∃ (s : State) (m : Move) (ms : List Move),
    s.agenda = [] ∧ s.patience = 0 ∧ s.tick.turnsLeft = m :: ms :=
  ⟨inTurnS, .issue 0, [], rfl, rfl, by decide +kernel⟩

theorem witness_StepKeepsMemoryCanonical : ∃ s s' : State, s.Inv ∧ step s = .next s' :=
  let ⟨s', h⟩ := some_next (step (State.reset.withFetchWord 96 0)) (by decide +kernel)
  ⟨State.reset.withFetchWord 96 0, s', rfl, h⟩

theorem witness_BranchesAndLoops_1_2 : ∃ (s : State) (t : Thread) (f : Br) (target : Nat),
    s.At t ∧ (target : Int) = ((lineOf t.pc.toNat : Int) + 64 * f.lofs.toInt + 12 * (f.tslot.toNat : Int)) % 2 ^ 64 ∧
    f.cond.toNat ≤ 9 :=
  ⟨demo, grp, brf, 0x200440, by
    and_intros <;> first | decide +kernel | rfl⟩

theorem witness_BranchesAndLoops_2_1 : ∃ (s : State) (t : Thread) (f : Br) (target : Nat),
    s.At t ∧ (target : Int) = ((lineOf t.pc.toNat : Int) + 64 * f.lofs.toInt + 12 * (f.tslot.toNat : Int)) % 2 ^ 64 ∧
    t.side = .mcc :=
  ⟨(demo.of mgrp), mgrp, brf, 0x200440, by
    and_intros <;> first | decide +kernel | rfl⟩

theorem witness_BranchesAndLoops_2_2 : ∃ (s : State) (t : Thread) (f : Br) (target : Nat),
    s.At t ∧ (target : Int) = ((lineOf t.pc.toNat : Int) + 64 * f.lofs.toInt + 12 * (f.tslot.toNat : Int)) % 2 ^ 64 ∧
    t.side ≠ .mcc ∧ t.regs.ge.get? f.cnt.toNat = none :=
  ⟨demo, grp, brf, 0x200440, by
    and_intros <;> first | decide +kernel | rfl⟩

theorem witness_BranchesAndLoops_2_3 : ∃ (s : State) (t : Thread) (f : Br) (target : Nat),
    s.At t ∧ (target : Int) = ((lineOf t.pc.toNat : Int) + 64 * f.lofs.toInt + 12 * (f.tslot.toNat : Int)) % 2 ^ 64 ∧
    t.side ≠ .mcc ∧ (t.regs.ge.get? f.cnt.toNat).isSome = true :=
  ⟨(demo.of { grp with regs := { grp.regs with ge := [(3, 9)] } }),
    { grp with regs := { grp.regs with ge := [(3, 9)] } }, brf, 0x200440, by
    and_intros <;> first | decide +kernel | rfl⟩

theorem witness_FlowGoesOn_1_4 : ∃ (s : State) (t : Thread),
    s.At t ∧ slotOf t.pc.toNat < 4 :=
  ⟨demo, grp, by
    and_intros <;> first | decide +kernel | rfl⟩

theorem witness_FlowGoesOn_1_5 : ∃ (s : State) (t : Thread),
    s.At t ∧ slotOf t.pc.toNat = 4 :=
  ⟨(demo.of { grp with pc := 0x200430 }), { grp with pc := 0x200430 }, by
    and_intros <;> first | decide +kernel | rfl⟩

theorem witness_FlowGoesOn_1_6 : ∃ (s : State) (t : Thread),
    s.At t ∧ t.pc.toNat % 64 ∈ [0, 12, 24, 36, 48] :=
  ⟨demo, grp, by
    and_intros <;> first | decide +kernel | rfl⟩

theorem witness_CallAndReturn_1 : ∃ (s : State) (t : Thread) (f : Br) (target : Nat),
    s.At t ∧ t.busy = false ∧
    (target : Int) = ((lineOf t.pc.toNat : Int) + 64 * f.lofs.toInt + 12 * (f.tslot.toNat : Int)) % 2 ^ 64 ∧
    16 ≤ t.regs.stkp ∧ t.regs.stkp ≤ 4096 :=
  ⟨demo, grp, brf, 0x200440, by
    and_intros <;> first | decide +kernel | rfl⟩

theorem witness_CallAndReturn_2 : ∃ (s : State) (t : Thread) (f : Br) (target : Nat),
    s.At t ∧ t.busy = false ∧
    (target : Int) = ((lineOf t.pc.toNat : Int) + 64 * f.lofs.toInt + 12 * (f.tslot.toNat : Int)) % 2 ^ 64 ∧
    t.regs.stkp < 16 :=
  ⟨(demo.of { grp with regs := { grp.regs with stkp := 0 } }), { grp with regs := { grp.regs with stkp := 0 } }, brf,
    0x200440, by
    and_intros <;> first | decide +kernel | rfl⟩

theorem witness_CallAndReturn_3 : ∃ (s : State) (t : Thread) (f : Br) (target : Nat),
    s.At t ∧ t.busy = false ∧
    (target : Int) = ((lineOf t.pc.toNat : Int) + 64 * f.lofs.toInt + 12 * (f.tslot.toNat : Int)) % 2 ^ 64 ∧
    t.regs.stkp + 16 ≤ (s.hdrOf t).kstk * 16 ∧ t.regs.stkp / 128 ∉ t.stackPoison ∧
    (t.stack.getNat t.regs.stkp 8) % 64 ∈ [0, 12, 24, 36, 48] :=
  ⟨demo, grp, brf, 0x200440, by
    and_intros <;> first | decide +kernel | rfl⟩

theorem witness_CallAndReturn_4 : ∃ (s : State) (t : Thread) (f : Br) (target : Nat),
    s.At t ∧ t.busy = false ∧
    (target : Int) = ((lineOf t.pc.toNat : Int) + 64 * f.lofs.toInt + 12 * (f.tslot.toNat : Int)) % 2 ^ 64 ∧
    t.regs.stkp + 16 ≤ (s.hdrOf t).kstk * 16 ∧ t.regs.stkp / 128 ∉ t.stackPoison ∧
    (t.stack.getNat t.regs.stkp 8) % 64 ∉ [0, 12, 24, 36, 48] :=
  ⟨(demo.of { grp with stack := [(32, 5)] }), { grp with stack := [(32, 5)] }, brf, 0x200440, by
    and_intros <;> first | decide +kernel | rfl⟩

theorem witness_CallAndReturn_5 : ∃ (s : State) (t : Thread) (f : Br) (target : Nat),
    s.At t ∧ t.busy = false ∧
    (target : Int) = ((lineOf t.pc.toNat : Int) + 64 * f.lofs.toInt + 12 * (f.tslot.toNat : Int)) % 2 ^ 64 ∧
    t.regs.stkp + 16 ≤ (s.hdrOf t).kstk * 16 ∧ t.regs.stkp / 128 ∈ t.stackPoison :=
  ⟨(demo.of { grp with stackPoison := [0] }), { grp with stackPoison := [0] }, brf, 0x200440, by
    and_intros <;> first | decide +kernel | rfl⟩

theorem witness_CallAndReturn_6 : ∃ (s : State) (t : Thread) (f : Br) (target : Nat),
    s.At t ∧ t.busy = false ∧
    (target : Int) = ((lineOf t.pc.toNat : Int) + 64 * f.lofs.toInt + 12 * (f.tslot.toNat : Int)) % 2 ^ 64 ∧
    (s.hdrOf t).kstk * 16 < t.regs.stkp + 16 :=
  ⟨(demo.of { grp with regs := { grp.regs with stkp := 256 } }), { grp with regs := { grp.regs with stkp := 256 } },
    brf, 0x200440, by
    and_intros <;> first | decide +kernel | rfl⟩

theorem witness_ExitEndsTheGroup : ∃ (s : State) (t : Thread),
    s.At t ∧ t.busy = false :=
  ⟨demo, grp, by
    and_intros <;> first | decide +kernel | rfl⟩

theorem witness_ExitLeavesTheGridBarrier : ∃ (s : State) (t : Thread) (g : Wg) (l : Launch) (b : Bar),
    s.At t ∧ t.busy = false ∧ t.side = .wide ∧ s.wgs.get? t.wg = some g ∧ s.launches.get? g.launch = some l ∧
    l.grid = some b ∧ b.bytes = b.bytee ∧ b.expa < 2 ^ 32 ∧ b.arre < 2 ^ 32 ∧ b.arr < 2 ^ 32 ∧ b.bytee < 2 ^ 48 :=
  ⟨{ demo with launches := [(1, { lau with grid := some .fresh })] }, grp, wgp, { lau with grid := some .fresh },
    .fresh, by
    and_intros <;> first | decide +kernel | rfl⟩

theorem witness_TrapsEnterTheHandler_1 : ∃ (s : State) (t : Thread) (f : Std) (c : Nat) (i : Instr) (target : Nat),
    s.At t ∧ t.busy = false ∧ t.side ≠ .cellar ∧ t.handler = false ∧
    (c, i) ∈ [(0x0D, Instr.trap f), (0x0E, Instr.svc f)] ∧ s.vector (s.partOf t) c = some target :=
  ⟨demo, grp, std, 0x0D, (.trap std), 0x200800, by
    and_intros <;> first | decide +kernel | rfl⟩

theorem witness_TrapsEnterTheHandler_2 : ∃ (s : State) (s1 : State) (t : Thread) (x : TrapInfo) (target : Nat) (fmtOf
    : W64 → Nat),
    t.handler = false ∧ ((∀ v, fmtOf v = (v &&& 0x000000FF3E3FF3FF).toNat)) ∧
    (s1 = (if x.cls = 0x0C then s.post (s.ashOf t { code := 0x0D, cls := 0x0C, addr := x.addr, info := x.info }) else s)) ∧
    s1.vector (s1.partOf t) x.cls = some target ∧ t.side ≠ .cellar :=
  ⟨demo, _, grp, { cls := 7 }, 0x200800, (fun v => (v &&& 0x000000FF3E3FF3FF).toNat), by
    and_intros <;> first | (intro v; rfl) | decide +kernel | rfl⟩

theorem witness_TrapInTheHandlerHalts : ∃ (s : State) (t : Thread) (x : TrapInfo),
    t.side ≠ .cellar ∧ x.cls ≠ 0x0C ∧
    ((t.handler = true ∨ s.vector (s.partOf t) x.cls = none ∧ s.hearthDead (s.partOf t) (s.vectorAt (s.partOf t) x.cls) = false)) :=
  ⟨demo, { grp with handler := true }, { cls := 7 }, by
    and_intros <;> first | decide | exact Or.inl rfl⟩

theorem witness_SretRestoresTheGroup_1 : ∃ (s : State) (t : Thread),
    s.At t ∧ t.busy = false ∧ t.handler = false :=
  ⟨demo, grp, by
    and_intros <;> first | decide +kernel | rfl⟩

theorem witness_SretRestoresTheGroup_3 : ∃ (s : State) (t : Thread),
    s.At t ∧ t.busy = false ∧ t.handler = true ∧ t.side = .wide ∧ t.width ≤ 64 :=
  ⟨(demo.of { grp with handler := true }), { grp with handler := true }, by
    and_intros <;> first | decide +kernel | rfl⟩

theorem witness_SretRestoresTheGroup_2 : ∃ (s : State) (t : Thread),
    s.At t ∧ t.busy = false ∧ t.handler = true ∧ t.side = .mcc :=
  ⟨(demo.of { mgrp with handler := true }), { mgrp with handler := true }, by
    and_intros <;> first | decide +kernel | rfl⟩

theorem witness_SpecialRegisters_1_1 : ∃ (s : State) (t : Thread) (f : Std) (n : Nat) (v : Nat → Nat) (w : Nat),
    s.At t ∧ ((t.side = .cellar → n ∈ [0x01, 0x10, 0x11])) ∧ f.xt.toNat = n ∧ (w = (if f.ty = 6 then 32 else 64)) ∧
    t.canWrite f.dst.toNat (regsOf w) = .ok ⟨⟩ ∧ ((0x21 ≤ n → n ≤ 0x27 → t.handler = true)) ∧
     ((n, v) ∈ [(0x00, fun i => (s.hdrOf t).wid t.gidx (s.wgOf t).ord (if t.side = .mcc then 0 else i)),
       (0x01, fun i => if t.side = .mcc then 0 else i), (0x02, fun _ => t.gidx), (0x03, fun _ => (s.wgOf t).ord),
       (0x04, fun _ => match t.role with
         | .any => 0
         | .copy => 1
         | .matrix => 2
         | .vector => 3), (0x05, fun _ => if t.side = .mcc then 1 else t.width),
       (0x06, fun _ => (s.wgOf t).core), (0x07, fun _ => (s.wgOf t).core / 4), (0x08, fun _ => (s.wgOf t).die),
       (0x09, fun _ => s.pkg), (0x0A, fun _ => (s.launchOf t).part), (0x0B, fun _ => t.regs.extb),
       (0x0C, fun _ => t.regs.stkp), (0x10, fun _ => s.clock.toNat), (0x11, fun _ => s.time.toNat),
       (0x20, fun _ => (s.lease.getD (s.launchOf t).part 0x100000010).toNat), (0x21, fun _ => t.tcause.toNat),
       (0x22, fun _ => t.tpc.toNat), (0x23, fun _ => t.taddr.toNat), (0x24, fun _ => t.tinfo.toNat),
       (0x25, fun _ => (s.hr (0x460 + 8 * (s.launchOf t).part)).toNat), (0x26, fun _ => t.tpte.toNat),
       (0x27, fun _ => (s.hr (0x480 + 8 * (s.launchOf t).part)).toNat)]) ∧
    (n < 2 ∨ f.dst.toNat < 128 ∨ t.side = .mcc) :=
  ⟨demo, grp, { std with ty := 6, xt := 2 }, 2, (fun _ => grp.gidx), 32, by
    and_intros <;> first | decide | rfl | exact .tail _ (.tail _ (List.mem_cons_self))⟩

theorem witness_SpecialRegisters_2 : ∃ (k : Nat),
    k < 6 :=
  ⟨5, by
    first | decide +kernel | rfl⟩

theorem witness_SpecialRegisters_1_2 : ∃ (s : State) (t : Thread) (f : Std) (n : Nat) (v : Nat → Nat) (w : Nat),
    s.At t ∧ ((t.side = .cellar → n ∈ [0x01, 0x10, 0x11])) ∧ f.xt.toNat = n ∧ (w = (if f.ty = 6 then 32 else 64)) ∧
    t.canWrite f.dst.toNat (regsOf w) = .ok ⟨⟩ ∧ ((0x21 ≤ n → n ≤ 0x27 → t.handler = true)) ∧
     ((n, v) ∈ [(0x00, fun i => (s.hdrOf t).wid t.gidx (s.wgOf t).ord (if t.side = .mcc then 0 else i)),
       (0x01, fun i => if t.side = .mcc then 0 else i), (0x02, fun _ => t.gidx), (0x03, fun _ => (s.wgOf t).ord),
       (0x04, fun _ => match t.role with
         | .any => 0
         | .copy => 1
         | .matrix => 2
         | .vector => 3), (0x05, fun _ => if t.side = .mcc then 1 else t.width),
       (0x06, fun _ => (s.wgOf t).core), (0x07, fun _ => (s.wgOf t).core / 4), (0x08, fun _ => (s.wgOf t).die),
       (0x09, fun _ => s.pkg), (0x0A, fun _ => (s.launchOf t).part), (0x0B, fun _ => t.regs.extb),
       (0x0C, fun _ => t.regs.stkp), (0x10, fun _ => s.clock.toNat), (0x11, fun _ => s.time.toNat),
       (0x20, fun _ => (s.lease.getD (s.launchOf t).part 0x100000010).toNat), (0x21, fun _ => t.tcause.toNat),
       (0x22, fun _ => t.tpc.toNat), (0x23, fun _ => t.taddr.toNat), (0x24, fun _ => t.tinfo.toNat),
       (0x25, fun _ => (s.hr (0x460 + 8 * (s.launchOf t).part)).toNat), (0x26, fun _ => t.tpte.toNat),
       (0x27, fun _ => (s.hr (0x480 + 8 * (s.launchOf t).part)).toNat)]) ∧
    2 ≤ n ∧ 128 ≤ f.dst.toNat ∧ t.side ≠ .mcc :=
  ⟨demo, grp, { std with ty := 6, xt := 2, dst := 132 }, 2, (fun _ => grp.gidx), 32, by
    and_intros <;> first | decide | rfl | exact .tail _ (.tail _ (List.mem_cons_self))⟩

theorem witness_SpecialRegisters_3_2_1 : ∃ (s : State) (t : Thread) (f : Std) (w : Nat),
    s.At t ∧ t.busy = false ∧ (w = (if f.ty = 6 then 32 else 64)) ∧ t.canRead f.a (regsOf w) = .ok ⟨⟩ ∧
    t.active = [] ∧ ((f.xt = 0x0C ∨ t.handler = true ∧ (f.xt = 0x20 ∨ f.xt = 0x22))) :=
  ⟨(demo.of { grp with regs := { grp.regs with em := 0 } }), { grp with regs := { grp.regs with em := 0 } },
    { std with ty := 7, a := opd 1 5 3 0, xt := 0x0C }, 64, by
    and_intros <;> first | decide +kernel | exact Or.inl rfl | exact Or.inr rfl | exact Or.inr (by decide) | exact Or.inl (by decide) | rfl⟩

theorem witness_SpecialRegisters_3_2_2_1 : ∃ (s : State) (t : Thread) (f : Std) (i : Nat) (v : Nat) (w : Nat),
    s.At t ∧ t.busy = false ∧ (w = (if f.ty = 6 then 32 else 64)) ∧ t.canRead f.a (regsOf w) = .ok ⟨⟩ ∧
    t.active.head? = some i ∧
     (v = (if t.side = .mcc then (t.regs.s.get f.a.reg.toNat).toNat % 2 ^ w
           else match f.a.pat.toNat with
             | 5 => (t.regs.g.get f.a.q.toNat).toNat % 2 ^ w
             | 6 => immVal f.a.q.toNat w
             | p => vSpan t.regs.v f.a.reg.toNat (srcLane t.width i p f.a.q.toNat) (regsOf w) % 2 ^ w)) ∧
    f.xt = 0x0C ∧ v % 16 = 0 ∧ v ≤ (s.hdrOf t).kstk * 16 :=
  ⟨(demo.of { grp with regs := { grp.regs with g := [(3, 256)] } }),
    { grp with regs := { grp.regs with g := [(3, 256)] } }, { std with ty := 7, a := opd 1 5 3 0, xt := 0x0C }, 0, _,
    64, by
    and_intros <;> first | decide +kernel | exact Or.inl rfl | exact Or.inr rfl | exact Or.inr (by decide) | exact Or.inl (by decide) | rfl⟩

theorem witness_SpecialRegisters_3_2_2_2 : ∃ (s : State) (t : Thread) (f : Std) (i : Nat) (v : Nat) (w : Nat),
    s.At t ∧ t.busy = false ∧ (w = (if f.ty = 6 then 32 else 64)) ∧ t.canRead f.a (regsOf w) = .ok ⟨⟩ ∧
    t.active.head? = some i ∧
     (v = (if t.side = .mcc then (t.regs.s.get f.a.reg.toNat).toNat % 2 ^ w
           else match f.a.pat.toNat with
             | 5 => (t.regs.g.get f.a.q.toNat).toNat % 2 ^ w
             | 6 => immVal f.a.q.toNat w
             | p => vSpan t.regs.v f.a.reg.toNat (srcLane t.width i p f.a.q.toNat) (regsOf w) % 2 ^ w)) ∧
    f.xt = 0x0C ∧ ((v % 16 ≠ 0 ∨ (s.hdrOf t).kstk * 16 < v)) :=
  ⟨(demo.of { grp with regs := { grp.regs with g := [(3, 272)] } }),
    { grp with regs := { grp.regs with g := [(3, 272)] } }, { std with ty := 7, a := opd 1 5 3 0, xt := 0x0C }, 0, _,
    64, by
    and_intros <;> first | decide +kernel | exact Or.inl rfl | exact Or.inr rfl | exact Or.inr (by decide) | exact Or.inl (by decide) | rfl⟩

theorem witness_SpecialRegisters_3_2_2_3 : ∃ (s : State) (t : Thread) (f : Std) (i : Nat) (v : Nat) (w : Nat),
    s.At t ∧ t.busy = false ∧ (w = (if f.ty = 6 then 32 else 64)) ∧ t.canRead f.a (regsOf w) = .ok ⟨⟩ ∧
    t.active.head? = some i ∧
     (v = (if t.side = .mcc then (t.regs.s.get f.a.reg.toNat).toNat % 2 ^ w
           else match f.a.pat.toNat with
             | 5 => (t.regs.g.get f.a.q.toNat).toNat % 2 ^ w
             | 6 => immVal f.a.q.toNat w
             | p => vSpan t.regs.v f.a.reg.toNat (srcLane t.width i p f.a.q.toNat) (regsOf w) % 2 ^ w)) ∧
    f.xt = 0x22 ∧ t.handler = true ∧ v % 64 ∈ [0, 12, 24, 36, 48] :=
  ⟨(demo.of { grp with handler := true, regs := { grp.regs with g := [(3, 0x200030)] } }),
    { grp with handler := true, regs := { grp.regs with g := [(3, 0x200030)] } },
    { std with ty := 7, a := opd 1 5 3 0, xt := 0x22 }, 0, _, 64, by
    and_intros <;> first | decide +kernel | exact Or.inl rfl | exact Or.inr rfl | exact Or.inr (by decide) | exact Or.inl (by decide) | rfl⟩

theorem witness_SpecialRegisters_3_2_2_4 : ∃ (s : State) (t : Thread) (f : Std) (i : Nat) (v : Nat) (w : Nat),
    s.At t ∧ t.busy = false ∧ (w = (if f.ty = 6 then 32 else 64)) ∧ t.canRead f.a (regsOf w) = .ok ⟨⟩ ∧
    t.active.head? = some i ∧
     (v = (if t.side = .mcc then (t.regs.s.get f.a.reg.toNat).toNat % 2 ^ w
           else match f.a.pat.toNat with
             | 5 => (t.regs.g.get f.a.q.toNat).toNat % 2 ^ w
             | 6 => immVal f.a.q.toNat w
             | p => vSpan t.regs.v f.a.reg.toNat (srcLane t.width i p f.a.q.toNat) (regsOf w) % 2 ^ w)) ∧
    f.xt = 0x22 ∧ t.handler = true ∧ v % 64 ∉ [0, 12, 24, 36, 48] :=
  ⟨(demo.of { grp with handler := true, regs := { grp.regs with g := [(3, 0x200034)] } }),
    { grp with handler := true, regs := { grp.regs with g := [(3, 0x200034)] } },
    { std with ty := 7, a := opd 1 5 3 0, xt := 0x22 }, 0, _, 64, by
    and_intros <;> first | decide +kernel | exact Or.inl rfl | exact Or.inr rfl | exact Or.inr (by decide) | exact Or.inl (by decide) | rfl⟩

theorem witness_SpecialRegisters_3_2_2_5 : ∃ (s : State) (t : Thread) (f : Std) (i : Nat) (v : Nat) (w : Nat),
    s.At t ∧ t.busy = false ∧ (w = (if f.ty = 6 then 32 else 64)) ∧ t.canRead f.a (regsOf w) = .ok ⟨⟩ ∧
    t.active.head? = some i ∧
     (v = (if t.side = .mcc then (t.regs.s.get f.a.reg.toNat).toNat % 2 ^ w
           else match f.a.pat.toNat with
             | 5 => (t.regs.g.get f.a.q.toNat).toNat % 2 ^ w
             | 6 => immVal f.a.q.toNat w
             | p => vSpan t.regs.v f.a.reg.toNat (srcLane t.width i p f.a.q.toNat) (regsOf w) % 2 ^ w)) ∧
    f.xt = 0x20 ∧ t.handler = true ∧ v / 2 ^ 40 = 0 ∧ v / 2 ^ 20 % 2 ^ 12 = 0 :=
  ⟨(demo.of { grp with handler := true, regs := { grp.regs with g := [(3, 0xFF000FFFFF)] } }),
    { grp with handler := true, regs := { grp.regs with g := [(3, 0xFF000FFFFF)] } },
    { std with ty := 7, a := opd 1 5 3 0, xt := 0x20 }, 0, _, 64, by
    and_intros <;> first | decide +kernel | exact Or.inl rfl | exact Or.inr rfl | exact Or.inr (by decide) | exact Or.inl (by decide) | rfl⟩

theorem witness_SpecialRegisters_3_2_2_6 : ∃ (s : State) (t : Thread) (f : Std) (i : Nat) (v : Nat) (w : Nat),
    s.At t ∧ t.busy = false ∧ (w = (if f.ty = 6 then 32 else 64)) ∧ t.canRead f.a (regsOf w) = .ok ⟨⟩ ∧
    t.active.head? = some i ∧
     (v = (if t.side = .mcc then (t.regs.s.get f.a.reg.toNat).toNat % 2 ^ w
           else match f.a.pat.toNat with
             | 5 => (t.regs.g.get f.a.q.toNat).toNat % 2 ^ w
             | 6 => immVal f.a.q.toNat w
             | p => vSpan t.regs.v f.a.reg.toNat (srcLane t.width i p f.a.q.toNat) (regsOf w) % 2 ^ w)) ∧
    f.xt = 0x20 ∧ t.handler = true ∧ ((v / 2 ^ 40 ≠ 0 ∨ v / 2 ^ 20 % 2 ^ 12 ≠ 0)) :=
  ⟨(demo.of { grp with handler := true, regs := { grp.regs with g := [(3, 0x10000000000)] } }),
    { grp with handler := true, regs := { grp.regs with g := [(3, 0x10000000000)] } },
    { std with ty := 7, a := opd 1 5 3 0, xt := 0x20 }, 0, _, 64, by
    and_intros <;> first | decide +kernel | exact Or.inl rfl | exact Or.inr rfl | exact Or.inr (by decide) | exact Or.inl (by decide) | rfl⟩

theorem witness_SpecialRegisters_3_2_2_1_mcc : ∃ (s : State) (t : Thread) (f : Std) (i : Nat) (v : Nat) (w : Nat),
    s.At t ∧ t.busy = false ∧ (w = (if f.ty = 6 then 32 else 64)) ∧ t.canRead f.a (regsOf w) = .ok ⟨⟩ ∧
    t.active.head? = some i ∧
     (v = (if t.side = .mcc then (t.regs.s.get f.a.reg.toNat).toNat % 2 ^ w
           else match f.a.pat.toNat with
             | 5 => (t.regs.g.get f.a.q.toNat).toNat % 2 ^ w
             | 6 => immVal f.a.q.toNat w
             | p => vSpan t.regs.v f.a.reg.toNat (srcLane t.width i p f.a.q.toNat) (regsOf w) % 2 ^ w)) ∧
    f.xt = 0x0C ∧ v % 16 = 0 ∧ v ≤ (s.hdrOf t).kstk * 16 :=
  ⟨(demo.of { mgrp with regs := { mgrp.regs with s := [(3, 256)] } }),
    { mgrp with regs := { mgrp.regs with s := [(3, 256)] } }, { std with ty := 7, a := opd 0 0 0 3, xt := 0x0C }, 0,
    _, 64, by
    and_intros <;> first | decide +kernel | exact Or.inl rfl | exact Or.inr rfl | exact Or.inr (by decide) | exact Or.inl (by decide) | rfl⟩

theorem witness_SpecialRegisters_3_1 : ∃ (s : State) (t : Thread) (f : Std) (w : Nat),
    s.At t ∧ t.busy = false ∧ (w = (if f.ty = 6 then 32 else 64)) ∧ ((f.xt = 0x20 ∨ f.xt = 0x22)) ∧
    t.handler = false :=
  ⟨demo, grp, { std with ty := 7, a := opd 1 5 3 0, xt := 0x22 }, 64, by
    and_intros <;> first | decide +kernel | exact Or.inl rfl | exact Or.inr rfl | exact Or.inr (by decide) | exact Or.inl (by decide) | rfl⟩

theorem witness_LaunchesAndAllotments_1 : ∃ (s : State) (t : Thread) (f : Eng) (p : Nat → Place),
    s.At t ∧ t.busy = false ∧ t.canRead f.a 1 = .ok ⟨⟩ ∧ t.kept = [] ∧ t.uni f.a % 128 = 0 ∧
    (aperture (t.uni f.a)).1 ≠ .lane ∧ (aperture (t.uni f.a)).1 ≠ .pantry ∧
    ((∀ j, j < 16 → s.resolve t .load 0 ((t.uni f.a + 8 * j) % 2 ^ 64) 8 = .ok (p j) ∧ (p j).isRemote = false ∧ (p j).isDead = false ∧ s.scrWaits t (p j) 8 = false)) :=
  ⟨demo, grp, eng, (fun j => Place.scratch (0x100 + 8 * j)), by
    and_intros <;> first | decide +kernel | rfl⟩

theorem witness_LaunchesAndAllotments_2_1 : ∃ (s : State) (t : Thread),
    s.At t ∧ t.busy = false ∧ (s.wgOf t).full = true :=
  ⟨demo, grp, by
    and_intros <;> first | decide +kernel | rfl⟩

theorem witness_LaunchesAndAllotments_2_2 : ∃ (s : State) (t : Thread),
    s.At t ∧ t.busy = false ∧ (s.wgOf t).full = false ∧ (s.hdrOf t).noFull = true ∧ (s.wgs.get? t.wg).isSome = true ∧
    t.side ≠ .cellar :=
  ⟨{ demo with wgs := [(1, { wgp with full := false })], launches := [(1, { lau with hdr := { hdr with fscr := 0, fparl := 0, flane := 0, fatt := 0, facc := 0 } })] },
    grp, by
    and_intros <;> first | decide +kernel | rfl⟩

theorem witness_LaunchesAndAllotments_2_3 : ∃ (s : State) (t : Thread),
    s.At t ∧ t.busy = false ∧ (s.wgOf t).full = false ∧ (s.hdrOf t).noFull = false :=
  ⟨{ demo with wgs := [(1, { wgp with full := false })] }, grp, by
    and_intros <;> first | decide +kernel | rfl⟩

theorem witness_LaunchesAndAllotments_3 : ∃ (s : State) (wg : Nat) (g : Wg),
    s.wgs.get? wg = some g ∧ g.asked = true ∧ g.full = false :=
  ⟨{ demo with wgs := [(1, { wgp with full := false, asked := true })] }, 1,
    { wgp with full := false, asked := true }, by
    and_intros <;> first | decide +kernel | rfl⟩

theorem witness_LaunchesAndAllotments_4_1 : ∃ (s : State) (t : Thread) (f : Std) (n : Nat),
    s.At t ∧ t.busy = false ∧ t.side = .wide ∧ f.xt.toNat % 8 = n ∧ t.regs.extb + n ≤ (s.hdrOf t).rext ∧
    (s.cores.getD (s.coreOf t) {}).rextQ = [] ∧ s.extFits t n = true :=
  ⟨demo, grp, { std with op := 1, xt := 3 }, 3, by
    and_intros <;> first | decide +kernel | rfl⟩

theorem witness_LaunchesAndAllotments_4_2 : ∃ (s : State) (t : Thread) (f : Std) (n : Nat),
    s.At t ∧ t.busy = false ∧ t.side = .wide ∧ f.xt.toNat % 8 = n ∧ t.regs.extb + n ≤ (s.hdrOf t).rext ∧
    (((s.cores.getD (s.coreOf t) {}).rextQ ≠ [] ∨ s.extFits t n = false)) :=
  ⟨{ demo with cores := [(0, { rextQ := [7] })] }, grp, { std with op := 1, xt := 3 }, 3, by
    and_intros <;> first | decide +kernel | rfl⟩

theorem witness_LaunchesAndAllotments_4_3 : ∃ (s : State) (t : Thread) (f : Std) (n : Nat),
    s.At t ∧ t.busy = false ∧ t.side = .wide ∧ f.xt.toNat % 8 = n ∧ (s.hdrOf t).rext < t.regs.extb + n :=
  ⟨demo, grp, { std with op := 1, xt := 4 }, 4, by
    and_intros <;> first | decide +kernel | rfl⟩

theorem witness_LaunchesAndAllotments_4_4 : ∃ (s : State) (t : Thread) (f : Std) (n : Nat),
    s.At t ∧ t.busy = false ∧ t.side = .wide ∧ f.xt.toNat % 8 = n ∧ n ≤ t.regs.extb :=
  ⟨(demo.of { grp with regs := { grp.regs with extb := 2 } }), { grp with regs := { grp.regs with extb := 2 } },
    { std with op := 2, xt := 2 }, 2, by
    and_intros <;> first | decide +kernel | rfl⟩

theorem witness_LaunchesAndAllotments_4_5 : ∃ (s : State) (t : Thread) (f : Std) (n : Nat),
    s.At t ∧ t.busy = false ∧ t.side = .wide ∧ f.xt.toNat % 8 = n ∧ t.regs.extb < n :=
  ⟨demo, grp, { std with op := 2, xt := 1 }, 1, by
    and_intros <;> first | decide +kernel | rfl⟩

theorem witness_LaunchesAndAllotments_5 : ∃ (s : State) (t : Thread) (f : Std) (i : Instr),
    s.At t ∧ t.busy = false ∧ t.side = .mcc ∧ i ∈ [.allocRext f, .allocRrel f] :=
  ⟨(demo.of mgrp), mgrp, std, (.allocRext std), by
    and_intros <;> first | rfl | decide | exact List.mem_cons_self⟩

theorem witness_LaunchesAndAllotments_6 : ∃ (s : State) (core : Nat) (tid : Nat) (n : Nat) (rest : List Nat) (t :
    Thread),
    (s.cores.getD core {}).rextQ = tid :: rest ∧ s.threads.get? tid = some t ∧ t.status = .rext n ∧
    s.extFits t n = true :=
  ⟨{ demo with threads := [(0, { grp with status := .rext 2 })], cores := [(0, { rextQ := [0] })] }, 0, 0, 2, [],
    { grp with status := .rext 2 }, by
    and_intros <;> first | decide +kernel | rfl⟩

theorem witness_LaunchesAndAllotments_7_2 : ∃ (r : Regs) (n : Nat) (k : Nat) (i : Nat),
    i < 64 ∧ 32 + 16 * r.extb ≤ k ∧ k < 32 + 16 * (r.extb + n) :=
  ⟨{}, 1, 47, 63, by
    and_intros <;> first | decide +kernel | rfl⟩

theorem witness_LaunchesAndAllotments_7_3 : ∃ (r : Regs) (k : Nat) (i : Nat),
    i < 64 ∧ k < 32 + 16 * r.extb :=
  ⟨{}, 31, 63, by
    and_intros <;> first | decide +kernel | rfl⟩

theorem witness_ResultsGoToTheDestination_1_1 : ∃ (t : Thread) (d : Nat) (n : Nat) (i : _) (j : _),
    t.width ≤ 64 ∧ t.side ≠ .mcc ∧ d < 128 ∧ i ∈ t.active ∧ j < n :=
  ⟨grp, 4, 2, 7, 1, by
    and_intros <;> first | decide +kernel | rfl⟩

theorem witness_ResultsGoToTheDestination_1_2 : ∃ (t : Thread) (d : Nat) (n : Nat) (i : _) (k : _),
    t.width ≤ 64 ∧ t.side ≠ .mcc ∧ d < 128 ∧ i < 64 ∧ ((i ∉ t.active ∨ k < d ∨ d + n ≤ k)) :=
  ⟨grp, 4, 2, 63, 4, by
    and_intros <;> first | decide +kernel | rfl⟩

theorem witness_ResultsGoToTheDestination_2 : ∃ (t : Thread) (d : Nat),
    t.width ≤ 64 ∧ t.side ≠ .mcc ∧ 128 ≤ d ∧ t.active = [] :=
  ⟨{ grp with regs := { grp.regs with em := 0 } }, 132, by
    and_intros <;> first | decide +kernel | rfl⟩

theorem witness_ResultsGoToTheDestination_3 : ∃ (t : Thread) (d : Nat) (i : _) (rest : _),
    t.width ≤ 64 ∧ t.side ≠ .mcc ∧ 128 ≤ d ∧ t.active = i :: rest :=
  ⟨grp, 132, 0, [1, 2, 3, 4, 5, 6, 7], by
    and_intros <;> first | decide +kernel | rfl⟩

theorem witness_ResultsGoToTheDestination_4 : ∃ (t : Thread),
    t.width ≤ 64 ∧ t.side = .mcc :=
  ⟨mgrp, by
    and_intros <;> first | decide +kernel | rfl⟩

theorem witness_IntegerTwoOperands_1 : ∃ (s : State) (t : Thread) (f : Std) (w : Nat) (sg : Bool) (i : Instr) (r :
    Nat → Nat → Int × Bool × Bool),
    s.At t ∧ w = tyBits f.xty f.ty ∧ 0 < w ∧ sg = tySigned f.xty f.ty ∧ t.canWrite f.dst.toNat (regsOf w) = .ok ⟨⟩ ∧
    t.canRead f.a (regsOf w) = .ok ⟨⟩ ∧ t.canRead f.b (regsOf w) = .ok ⟨⟩ ∧
     ((i, r) ∈ ([
       (Instr.iadd f, fun a b => ((a : Int) + b, decide (2 ^ w ≤ a + b), outOf true w (valueOf true w a + valueOf true w b))),
       (.isub f, fun a b => ((a : Int) - b, decide (b ≤ a), outOf true w (valueOf true w a - valueOf true w b))),
       (.imul f, fun a b => ((a : Int) * b, false, outOf sg w (valueOf sg w a * valueOf sg w b))),
       (.imulh f, fun a b => (valueOf sg w a * valueOf sg w b / 2 ^ w, false, false)),
       (.iadds f, fun a b =>
         let x := valueOf sg w a + valueOf sg w b
         (if sg then (if x < -(2 ^ (w - 1)) then -(2 ^ (w - 1)) else if 2 ^ (w - 1) ≤ x then 2 ^ (w - 1) - 1 else x)
           else if 2 ^ w ≤ x then 2 ^ w - 1 else x, false, outOf sg w x)),
       (.imin f, fun a b => ((if valueOf sg w a ≤ valueOf sg w b then a else b : Nat), false, false)),
       (.imax f, fun a b => ((if valueOf sg w a ≤ valueOf sg w b then b else a : Nat), false, false))] :
       List (Instr × (Nat → Nat → Int × Bool × Bool)))) :=
  ⟨demo, grp, std, 32, true, (.iadd std), _, by
    and_intros <;> first | rfl | decide | exact List.mem_cons_self⟩

theorem witness_IntegerTwoOperands_2 : ∃ (s : State) (t : Thread) (f : Std) (w : Nat) (sg : Bool) (i : Instr) (r :
    Nat → Nat → Int),
    s.At t ∧ w = tyBits f.xty f.ty ∧ 0 < w ∧ sg = tySigned f.xty f.ty ∧ t.canWrite f.dst.toNat (regsOf w) = .ok ⟨⟩ ∧
    t.canRead f.a (regsOf w) = .ok ⟨⟩ ∧ t.canRead f.b (regsOf w) = .ok ⟨⟩ ∧
     ((i, r) ∈ ([
       (Instr.idiv f, fun a b =>
         if b = 0 then 2 ^ w - 1
         else if sg = true ∧ a = 2 ^ (w - 1) ∧ b = 2 ^ w - 1 then 2 ^ (w - 1)
         else (valueOf sg w a).tdiv (valueOf sg w b)),
       (.irem f, fun a b =>
         if b = 0 then a
         else if sg = true ∧ a = 2 ^ (w - 1) ∧ b = 2 ^ w - 1 then 0
         else valueOf sg w a - valueOf sg w b * (valueOf sg w a).tdiv (valueOf sg w b))] :
       List (Instr × (Nat → Nat → Int)))) :=
  ⟨demo, grp, std, 32, true, (.idiv std), _, by
    and_intros <;> first | rfl | decide | exact List.mem_cons_self⟩

theorem witness_IntegerTwoOperands_3 : ∃ (s : State) (t : Thread) (f : Std) (w : Nat) (sg : Bool) (i : Instr) (r :
    BitVec w → BitVec w → BitVec w),
    s.At t ∧ w = tyBits f.xty f.ty ∧ 0 < w ∧ sg = tySigned f.xty f.ty ∧ t.canWrite f.dst.toNat (regsOf w) = .ok ⟨⟩ ∧
    t.canRead f.a (regsOf w) = .ok ⟨⟩ ∧ t.canRead f.b (regsOf w) = .ok ⟨⟩ ∧
     ((i, r) ∈ [
       (Instr.and f, fun a b => a &&& b), (.or f, fun a b => a ||| b), (.xor f, fun a b => a ^^^ b),
       (.andn f, fun a b => a &&& ~~~b), (.shl f, fun a b => a <<< b.toNat), (.shr f, fun a b => a >>> b.toNat),
       (.sar f, fun a b => a.sshiftRight b.toNat), (.rot f, fun a b => a.rotateLeft (b.toNat % w))]) :=
  ⟨demo, grp, std, 32, true, (.and std), _, by
    and_intros <;> first | rfl | decide | exact List.mem_cons_self⟩

theorem witness_IntegerOtherForms_1 : ∃ (s : State) (t : Thread) (f : Std) (w : Nat) (sg : Bool),
    s.At t ∧ w = tyBits f.xty f.ty ∧ 0 < w ∧ sg = tySigned f.xty f.ty ∧ t.canWrite f.dst.toNat (regsOf w) = .ok ⟨⟩ ∧
    t.canRead f.a (regsOf w) = .ok ⟨⟩ :=
  ⟨demo, grp, std, 32, true, by
    and_intros <;> first | decide +kernel | rfl⟩

theorem witness_IntegerOtherForms_2_1 : ∃ (s : State) (t : Thread) (f : Std) (w : Nat) (sg : Bool),
    s.At t ∧ w = tyBits f.xty f.ty ∧ 0 < w ∧ sg = tySigned f.xty f.ty ∧ t.canRead f.a (regsOf w) = .ok ⟨⟩ ∧
    t.canRead f.b (regsOf w) = .ok ⟨⟩ ∧ t.canWrite f.dst.toNat (regsOf w) = .ok ⟨⟩ ∧
    t.canRead f.c (regsOf w) = .ok ⟨⟩ :=
  ⟨demo, grp, std, 32, true, by
    and_intros <;> first | decide +kernel | rfl⟩

theorem witness_IntegerOtherForms_2_2 : ∃ (s : State) (t : Thread) (f : Std) (w : Nat) (sg : Bool),
    s.At t ∧ w = tyBits f.xty f.ty ∧ 0 < w ∧ sg = tySigned f.xty f.ty ∧ t.canRead f.a (regsOf w) = .ok ⟨⟩ ∧
    t.canRead f.b (regsOf w) = .ok ⟨⟩ ∧ t.canWrite f.dst.toNat (regsOf (2 * w)) = .ok ⟨⟩ ∧
    t.canRead f.c (regsOf (2 * w)) = .ok ⟨⟩ :=
  ⟨demo, grp, std, 32, true, by
    and_intros <;> first | decide +kernel | rfl⟩

theorem witness_IntegerOtherForms_2_3 : ∃ (s : State) (t : Thread) (f : Std) (w : Nat) (sg : Bool),
    s.At t ∧ w = tyBits f.xty f.ty ∧ 0 < w ∧ sg = tySigned f.xty f.ty ∧ t.canRead f.a (regsOf w) = .ok ⟨⟩ ∧
    t.canRead f.b (regsOf w) = .ok ⟨⟩ ∧ t.canWrite f.dst.toNat (regsOf w) = .ok ⟨⟩ :=
  ⟨demo, grp, std, 32, true, by
    and_intros <;> first | decide +kernel | rfl⟩

theorem witness_IntegerOtherForms_2_4 : ∃ (s : State) (t : Thread) (f : Std) (w : Nat) (sg : Bool),
    s.At t ∧ w = tyBits f.xty f.ty ∧ 0 < w ∧ sg = tySigned f.xty f.ty ∧ t.canRead f.a (regsOf w) = .ok ⟨⟩ ∧
    t.canRead f.b (regsOf w) = .ok ⟨⟩ ∧ t.canWrite f.dst.toNat (regsOf w) = .ok ⟨⟩ ∧
    t.canRead f.c (regsOf w) = .ok ⟨⟩ :=
  ⟨demo, grp, std, 32, true, by
    and_intros <;> first | decide +kernel | rfl⟩

theorem witness_ComparesMovesAndFields_1 : ∃ (s : State) (t : Thread) (f : Std) (w : Nat) (sg : Bool),
    s.At t ∧ w = tyBits f.xty f.ty ∧ sg = tySigned f.xty f.ty ∧ t.canRead f.a (regsOf w) = .ok ⟨⟩ ∧
    t.canRead f.b (regsOf w) = .ok ⟨⟩ ∧ f.op.toNat < 6 ∧ t.side ≠ .mcc ∧ t.width ≤ 64 :=
  ⟨demo, grp, std, 32, true, by
    and_intros <;> first | decide +kernel | rfl⟩

theorem witness_ComparesMovesAndFields_2_1_2 : ∃ (s : State) (t : Thread) (f : Std) (w : _),
    s.At t ∧ w = tyBits f.xty f.ty ∧ t.canWrite f.dst.toNat (regsOf w) = .ok ⟨⟩ ∧ t.canRead f.a (regsOf w) = .ok ⟨⟩ ∧
    t.canRead f.b (regsOf w) = .ok ⟨⟩ :=
  ⟨demo, grp, std, 32, by
    and_intros <;> first | decide +kernel | rfl⟩

theorem witness_ComparesMovesAndFields_2_2 : ∃ (s : State) (t : Thread) (g : I32) (w : _),
    s.At t ∧ w = tyBits g.xty g.ty ∧ w ≤ 64 ∧ t.canWrite g.dst.toNat (regsOf w) = .ok ⟨⟩ :=
  ⟨demo, grp, ⟨0, 0, 2, 4, .zero, 5, 0, 0⟩, 32, by
    and_intros <;> first | decide +kernel | rfl⟩

theorem witness_ComparesMovesAndFields_3 : ∃ (s : State) (t : Thread) (f : Std) (w : Nat) (k : Nat) (h : Header),
    s.At t ∧ t.side = .wide ∧ f.xty = 0 ∧ (w = (if f.ty = 6 then 32 else 64)) ∧ ((f.ty = 6 ∨ f.ty = 7)) ∧
    t.canWrite f.dst.toNat (regsOf w) = .ok ⟨⟩ ∧ h = s.hdrOf t ∧ ((f.xt.toNat = k ∨ f.xt.toNat = k + 8)) ∧ k < 6 :=
  ⟨demo, grp, { std with ty := 6, xt := 13 }, 32, 5, hdr, by
    and_intros <;> first | decide +kernel | rfl⟩

theorem witness_LeaWritesTheAddress_1 : ∃ (s : State) (t : Thread) (f : Mem),
    s.At t ∧ t.side ≠ .mcc ∧ t.canWrite f.dst.toNat 2 = .ok ⟨⟩ ∧ t.canReadG f.gb.toNat = .ok ⟨⟩ ∧
    t.canRead f.ix 1 = .ok ⟨⟩ :=
  ⟨demo, grp, { mrec with ty := 7 }, by
    and_intros <;> first | decide +kernel | rfl⟩

theorem witness_LeaWritesTheAddress_2_7 : ∃ (s : State) (t : Thread) (f : Mem) (e : _),
    s.At t ∧ t.side ≠ .mcc ∧ (Instr.lea f).fieldsOk e = true ∧ e = .wide :=
  ⟨demo, grp, { mrec with ty := 7, a := .zero }, Side.wide, by
    and_intros <;> first | decide +kernel | rfl⟩

theorem witness_MaskWrites_2 : ∃ (k : Nat) (j : _),
    k ≤ 8 ∧ j ≠ k ∧ j ≤ 8 :=
  ⟨8, 7, by
    and_intros <;> first | decide +kernel | rfl⟩

theorem witness_MaskStack_1 : ∃ (s : State) (t : Thread) (limit : Nat),
    s.At t ∧ (limit = (if t.side = .cellar then 4 else 8)) ∧ t.regs.depth ≠ limit :=
  ⟨demo, grp, 8, by
    and_intros <;> first | decide +kernel | rfl⟩

theorem witness_MaskStack_2 : ∃ (s : State) (t : Thread) (limit : Nat),
    s.At t ∧ (limit = (if t.side = .cellar then 4 else 8)) ∧ t.regs.depth ≠ 0 :=
  ⟨(demo.of { grp with regs := { grp.regs with depth := 1 } }), { grp with regs := { grp.regs with depth := 1 } }, 8,
    by
    and_intros <;> first | decide +kernel | rfl⟩

theorem witness_MaskStack_3 : ∃ (s : State) (t : Thread) (limit : Nat),
    s.At t ∧ (limit = (if t.side = .cellar then 4 else 8)) ∧ t.regs.depth ≠ 0 :=
  ⟨(demo.of { grp with regs := { grp.regs with depth := 1 } }), { grp with regs := { grp.regs with depth := 1 } }, 8,
    by
    and_intros <;> first | decide +kernel | rfl⟩

theorem witness_MaskStack_4 : ∃ (s : State) (t : Thread) (limit : Nat),
    s.At t ∧ (limit = (if t.side = .cellar then 4 else 8)) ∧ t.busy = false ∧ t.regs.depth = limit :=
  ⟨(demo.of { grp with regs := { grp.regs with depth := 8 } }), { grp with regs := { grp.regs with depth := 8 } }, 8,
    by
    and_intros <;> first | decide +kernel | rfl⟩

theorem witness_MaskStack_5 : ∃ (s : State) (t : Thread) (limit : Nat),
    s.At t ∧ (limit = (if t.side = .cellar then 4 else 8)) ∧ t.busy = false ∧ t.regs.depth = 0 :=
  ⟨demo, grp, 8, by
    and_intros <;> first | decide +kernel | rfl⟩

theorem witness_MasksAndModes_1_1 : ∃ (s : State) (t : Thread) (f : Std) (a : BitVec 64) (b : BitVec 64),
    s.At t ∧ a = t.mask f.a.reg.toNat ∧ b = t.mask f.b.reg.toNat ∧ t.canRead f.a 1 = .ok ⟨⟩ :=
  ⟨demo, grp, std, _, _, by
    and_intros <;> first | decide +kernel | rfl⟩

theorem witness_MasksAndModes_1_2 : ∃ (s : State) (t : Thread) (f : Std) (a : BitVec 64) (b : BitVec 64) (r : BitVec
    64),
    s.At t ∧ a = t.mask f.a.reg.toNat ∧ b = t.mask f.b.reg.toNat ∧
    (f.op.toNat, r) ∈ [(0, a &&& b), (1, a ||| b), (2, a ^^^ b), (3, a &&& ~~~b), (4, ~~~a)] :=
  ⟨demo, grp, { std with op := 0 }, _, _, _, by
    and_intros <;> first | rfl | decide | exact List.mem_cons_self⟩

theorem witness_MasksAndModes_1_3 : ∃ (s : State) (t : Thread) (f : Std) (a : BitVec 64) (b : BitVec 64) (v : W64),
    s.At t ∧ a = t.mask f.a.reg.toNat ∧ b = t.mask f.b.reg.toNat ∧
    ((f.xt.toNat, v) ∈ [(0, BitVec.ofNat 64 t.regs.depth), (1, a), (2, if t.regs.depth = 0 then 0 else t.regs.stkEm.get (t.regs.depth - 1))]) :=
  ⟨demo, grp, std, _, _, _, by
    and_intros <;> first | rfl | decide | exact List.mem_cons_self⟩

theorem witness_MasksAndModes_2_1 : ∃ (s : State) (t : Thread) (f : Std) (v : Nat),
    s.At t ∧ v = t.opnd f.a 1 64 0 ∧ t.canRead f.a 1 = .ok ⟨⟩ :=
  ⟨demo, grp, std, _, by
    and_intros <;> first | decide +kernel | rfl⟩

theorem witness_MasksAndModes_2_3 : ∃ (s : State) (t : Thread) (f : Std) (v : Nat),
    s.At t ∧ v = t.opnd f.a 1 64 0 ∧ f.xt.getLsbD 0 = true :=
  ⟨demo, grp, { std with xt := 1 }, _, by
    and_intros <;> first | decide +kernel | rfl⟩

theorem witness_MasksAndModes_2_4 : ∃ (s : State) (t : Thread) (f : Std) (v : Nat),
    s.At t ∧ v = t.opnd f.a 1 64 0 ∧ f.xt.getLsbD 0 = false :=
  ⟨demo, grp, std, _, by
    and_intros <;> first | decide +kernel | rfl⟩

theorem witness_MasksAndModes_2_5 : ∃ (s : State) (t : Thread) (f : Std) (v : Nat),
    s.At t ∧ v = t.opnd f.a 1 64 0 ∧ t.canRead f.a 1 = .ok ⟨⟩ ∧ v / 64 % 4 ≠ 3 :=
  ⟨demo, grp, std, 0, by
    and_intros <;> first | decide +kernel | rfl⟩

theorem witness_MasksAndModes_2_6 : ∃ (s : State) (t : Thread) (f : Std) (v : Nat),
    s.At t ∧ v = t.opnd f.a 1 64 0 ∧ t.canRead f.a 1 = .ok ⟨⟩ ∧ t.busy = false ∧ v / 64 % 4 = 3 :=
  ⟨(demo.of { grp with regs := { grp.regs with g := [(3, 192)] } }),
    { grp with regs := { grp.regs with g := [(3, 192)] } }, { std with a := opd 1 5 3 0 }, 192, by
    and_intros <;> first | decide +kernel | rfl⟩

set_option maxRecDepth 20000 in
theorem witness_MaskRecords_1 : ∃ (s : State) (t : Thread) (f : Std) (a : Nat) (ps : List (Nat × Nat × Place)) (r :
    State × Thread),
    s.At t ∧ t.busy = false ∧ t.canRead f.a 1 = .ok ⟨⟩ ∧ a = t.opnd f.a 1 64 0 ∧ a % 32 = 0 ∧ t.regs.depth ≤ 8 ∧
    (aperture a).1 ≠ .lane ∧ (aperture a).1 ≠ .pantry ∧
    (s.resolveAll t .store 8 true ((List.range 20).map fun j => (0, (a + 8 * j) % 2 ^ 64)) = .ok ps) ∧
    ((∀ p ∈ ps, p.2.2.isRemote = false ∧ s.scrWaits t p.2.2 8 = false)) ∧
     (r = s.storePlaces t (ps.zipIdx.map fun p => (p.1.2.2, toBytes
       (if p.2 = 0 then t.regs.em.toNat
         else if p.2 = 1 then (t.regs.fmt &&& 0x000000FF3E3FF3FF).toNat
         else if p.2 = 2 then t.regs.depth
         else if p.2 = 3 ∨ t.regs.depth ≤ (p.2 - 4) / 2 then 0
         else if p.2 % 2 = 0 then (t.regs.stkEm.get ((p.2 - 4) / 2)).toNat
         else (t.regs.stkFmt.get ((p.2 - 4) / 2) &&& 0x000000FF3E3FF3FF).toNat) 8))) :=
  ⟨demo, grp, { std with a := opd 1 5 1 0 }, _, _, _, by
    and_intros <;> first | rfl | decide⟩

set_option maxRecDepth 20000 in
theorem witness_MaskRecords_2_1 : ∃ (s : State) (t : Thread) (f : Std) (a : Nat) (w : Nat) (p : Nat → Place),
    s.At t ∧ t.busy = false ∧ t.kept = [] ∧ t.canRead f.a 1 = .ok ⟨⟩ ∧ a = t.opnd f.a 1 64 0 ∧ a % 32 = 0 ∧
    (aperture a).1 ≠ .lane ∧ (aperture a).1 ≠ .pantry ∧
    ((∀ j, j < 20 → s.resolve t .load 0 ((a + 8 * j) % 2 ^ 64) 8 = .ok (p j) ∧ (p j).isRemote = false ∧ (p j).isDead = false ∧ s.scrWaits t (p j) 8 = false)) ∧
    (w = ofBytes ((List.range 20).flatMap fun j => s.readPlace t (p j) 8)) ∧ 8 < fld w 128 4 :=
  ⟨{ demo with wgs := [(1, { wgp with scr := [(272, 9)] })] }, grp, { std with a := opd 1 5 1 0 }, _, _,
    (fun j => Place.scratch (0x100 + 8 * j)), by
    and_intros <;> first | rfl | decide⟩

set_option maxRecDepth 20000 in
theorem witness_MaskRecords_2_2 : ∃ (s : State) (t : Thread) (f : Std) (a : Nat) (w : Nat) (p : Nat → Place),
    s.At t ∧ t.busy = false ∧ t.kept = [] ∧ t.canRead f.a 1 = .ok ⟨⟩ ∧ a = t.opnd f.a 1 64 0 ∧ a % 32 = 0 ∧
    (aperture a).1 ≠ .lane ∧ (aperture a).1 ≠ .pantry ∧
    ((∀ j, j < 20 → s.resolve t .load 0 ((a + 8 * j) % 2 ^ 64) 8 = .ok (p j) ∧ (p j).isRemote = false ∧ (p j).isDead = false ∧ s.scrWaits t (p j) 8 = false)) ∧
    (w = ofBytes ((List.range 20).flatMap fun j => s.readPlace t (p j) 8)) ∧ fld w 128 4 ≤ 8 :=
  ⟨demo, grp, { std with a := opd 1 5 1 0 }, _, _, (fun j => Place.scratch (0x100 + 8 * j)), by
    and_intros <;> first | rfl | decide⟩

theorem witness_GroupWideInstructions_1_1 : ∃ (s : State) (t : Thread) (f : Std) (w : Nat),
    s.At t ∧ t.side ≠ .mcc ∧ t.width ≤ 64 ∧ w = tyBits f.xty f.ty ∧ t.canRead f.a (regsOf w) = .ok ⟨⟩ :=
  ⟨demo, grp, std, 32, by
    and_intros <;> first | decide +kernel | rfl⟩

theorem witness_GroupWideInstructions_1_2 : ∃ (s : State) (t : Thread) (f : Std) (w : Nat),
    s.At t ∧ t.side ≠ .mcc ∧ t.width ≤ 64 ∧ w = tyBits f.xty f.ty ∧ t.canWrite f.dst.toNat 1 = .ok ⟨⟩ :=
  ⟨demo, grp, std, 32, by
    and_intros <;> first | decide +kernel | rfl⟩

theorem witness_GroupWideInstructions_1_3 : ∃ (s : State) (t : Thread) (f : Std) (w : Nat),
    s.At t ∧ t.side ≠ .mcc ∧ t.width ≤ 64 ∧ w = tyBits f.xty f.ty ∧ t.canWrite f.dst.toNat (regsOf w) = .ok ⟨⟩ ∧
    t.canRead f.a (regsOf w) = .ok ⟨⟩ ∧ t.canRead f.b 1 = .ok ⟨⟩ :=
  ⟨demo, grp, { std with xty := 1, ty := 2 }, 32, by
    and_intros <;> first | decide +kernel | rfl⟩

theorem witness_GroupWideInstructions_2_1 : ∃ (s : State) (t : Thread) (f : Std) (w : Nat) (k : Nat) (x : Nat) (y :
    Nat) (c : BitVec 64) (count : BitVec 64 → Nat) (one : BitVec 64),
    s.At t ∧ t.side = .wide ∧ t.width ≤ 64 ∧ w = tyBits f.xty f.ty ∧ t.canRead f.c 1 = .ok ⟨⟩ ∧
    k = t.opnd f.c 1 64 0 ∧ x = f.xt.toNat % 8 ∧ y = f.xt.toNat / 8 % 8 ∧ c = t.mask x &&& t.regs.em ∧
    ((∀ m, count m = ((List.range 64).filter fun i => m.getLsbD i).length)) ∧ t.canRead f.a (regsOf w) = .ok ⟨⟩ ∧
    t.canRead f.b 1 = .ok ⟨⟩ ∧
    ((∀ i, one.getLsbD i = (decide (i < t.width) && c.getLsbD i && decide (t.opnd f.b 1 64 0 % 64 < w) && (t.opnd f.a (regsOf w) w i).testBit (t.opnd f.b 1 64 0 % 64)))) :=
  ⟨demo, grp, { std with c := opd 1 5 3 0 }, 32, 5, 0, 0, 0, _, 0, by
    and_intros <;> first | rfl | decide | (intro m; rfl) | (intro i; simp)⟩

theorem witness_FloatOperations_1_1 : ∃ (s : State) (t : Thread) (f : Std) (F : FFmt) (md : FpMode) (i : Instr) (r :
    Nat → Nat × FpFlags),
    s.At t ∧ F = fmtOf f.ty.toNat ∧ md = t.fpMode f.fpc ∧ t.canWrite f.dst.toNat 1 = .ok ⟨⟩ ∧
    t.canRead f.a 1 = .ok ⟨⟩ ∧
     ((i, r) ∈ ([
         (Instr.fsqrt f, fun a => F.sqrt md (F.decIn md a)),
         (.frcp f, fun a => F.div md (.fin false 1 0) (F.decIn md a)),
         (.frsq f, fun a => F.rsqrt md (F.decIn md a)), (.fexp2 f, fun a => F.exp2 md (F.decIn md a)),
         (.flog2 f, fun a => F.log2 md (F.decIn md a)), (.frnd f, fun a => F.rint md (F.decIn md a)),
         (.fclass f, fun a => (fclass F a, {})), (.fgetx f, fun a => fgetx (F.decIn md a))] :
         List (Instr × (Nat → Nat × FpFlags)))) :=
  ⟨demo, grp, { std with ty := 8 }, _, _, (.fsqrt { std with ty := 8 }), _, by
    and_intros <;> first | decide +kernel | rfl | exact List.mem_cons_self | (intros; rfl)⟩

theorem witness_FloatOperations_1_2 : ∃ (s : State) (t : Thread) (f : Std) (F : FFmt) (md : FpMode) (i : Instr) (r :
    Nat → Nat → Nat × FpFlags),
    s.At t ∧ F = fmtOf f.ty.toNat ∧ md = t.fpMode f.fpc ∧ t.canWrite f.dst.toNat 1 = .ok ⟨⟩ ∧
    t.canRead f.a 1 = .ok ⟨⟩ ∧ t.canRead f.b 1 = .ok ⟨⟩ ∧
     ((i, r) ∈ ([
         (Instr.fadd f, F.add md), (.fsub f, F.sub md), (.fmul f, F.mul md),
         (.fmin f, F.minmax md false false), (.fmax f, F.minmax md true false),
         (.fminm f, F.minmax md false true), (.fmaxm f, F.minmax md true true),
         (.fdiv f, fun a b => F.div md (F.decIn md a) (F.decIn md b)),
         (.fsgn f, fun a b => (fsgn f.xt.toNat F a b, {}))] : List (Instr × (Nat → Nat → Nat × FpFlags)))) :=
  ⟨demo, grp, { std with ty := 8 }, _, _, (.fadd { std with ty := 8 }), _, by
    and_intros <;> first | decide +kernel | rfl | exact List.mem_cons_self | (intros; rfl)⟩

theorem witness_FloatOperations_1_3 : ∃ (s : State) (t : Thread) (f : Std) (F : FFmt) (md : FpMode),
    s.At t ∧ F = fmtOf f.ty.toNat ∧ md = t.fpMode f.fpc ∧ t.canWrite f.dst.toNat 1 = .ok ⟨⟩ ∧
    t.canRead f.a 1 = .ok ⟨⟩ ∧ t.canRead f.b 1 = .ok ⟨⟩ :=
  ⟨demo, grp, { std with ty := 8 }, _, _, by
    and_intros <;> first | decide +kernel | rfl⟩

theorem witness_FloatOperations_1_4 : ∃ (s : State) (t : Thread) (f : Std) (F : FFmt) (md : FpMode) (i : Instr) (r :
    Nat → Nat → Nat → Nat × FpFlags),
    s.At t ∧ F = fmtOf f.ty.toNat ∧ md = t.fpMode f.fpc ∧ t.canWrite f.dst.toNat 1 = .ok ⟨⟩ ∧
    t.canRead f.a 1 = .ok ⟨⟩ ∧ t.canRead f.b 1 = .ok ⟨⟩ ∧ t.canRead f.c 1 = .ok ⟨⟩ ∧
    ((i, r) ∈ ([ (Instr.ffma f, F.fma md), (.ffms f, F.fms md)] : List (Instr × (Nat → Nat → Nat → Nat × FpFlags)))) :=
  ⟨demo, grp, { std with ty := 8 }, _, _, (.ffma { std with ty := 8 }), _, by
    and_intros <;> first | decide +kernel | rfl | exact List.mem_cons_self | (intros; rfl)⟩

theorem witness_FloatOperations_2 : ∃ (s : State) (t : Thread) (f : Std) (F : FFmt) (x : Nat → Fp) (y : Nat → Fp),
    s.At t ∧ t.side ≠ .mcc ∧ t.width ≤ 64 ∧ F = fmtOf f.ty.toNat ∧ t.canRead f.a 1 = .ok ⟨⟩ ∧
    t.canRead f.b 1 = .ok ⟨⟩ ∧ ((∀ k, x k = F.decIn (t.fpMode f.fpc) (t.opnd f.a 1 F.bits k))) ∧
    ((∀ k, y k = F.decIn (t.fpMode f.fpc) (t.opnd f.b 1 F.bits k))) :=
  ⟨demo, grp, { std with ty := 8 }, _, _, _, by
    and_intros <;> first | decide +kernel | rfl | (intro k; rfl)⟩

theorem witness_FloatOperations_3_1 : ∃ (s : State) (t : Thread) (f : Std) (F : FFmt) (md : FpMode) (a : Nat → Nat)
    (b : Nat → Nat) (c : Nat → Nat) (i : Instr) (r : Nat → Nat → Nat × FpFlags),
    s.At t ∧ F = fmtOf f.ty.toNat ∧ md = t.fpMode f.fpc ∧ t.canWrite f.dst.toNat 1 = .ok ⟨⟩ ∧
    t.canRead f.a 1 = .ok ⟨⟩ ∧ t.canRead f.b 1 = .ok ⟨⟩ ∧ a = t.opnd f.a 1 32 ∧ b = t.opnd f.b 1 32 ∧
    c = t.opnd f.c 1 32 ∧
    ((i, r) ∈ ([(Instr.hadd2 f, F.add md), (.hmul2 f, F.mul md), (.hmin2 f, F.minmax md false false), (.hmax2 f, F.minmax md true false)] : List (Instr × (Nat → Nat → Nat × FpFlags)))) :=
  ⟨demo, grp, { std with ty := 9 }, _, _, _, _, _, (.hadd2 { std with ty := 9 }), _, by
    and_intros <;> first | decide +kernel | rfl | exact List.mem_cons_self | (intros; rfl)⟩

theorem witness_FloatOperations_3_2_2 : ∃ (s : State) (t : Thread) (f : Std) (F : FFmt) (md : FpMode) (a : Nat → Nat)
    (b : Nat → Nat) (c : Nat → Nat) (i : Instr) (n : _) (r : Nat → Nat × FpFlags),
    s.At t ∧ F = fmtOf f.ty.toNat ∧ md = t.fpMode f.fpc ∧ t.canWrite f.dst.toNat 1 = .ok ⟨⟩ ∧
    t.canRead f.a 1 = .ok ⟨⟩ ∧ t.canRead f.b 1 = .ok ⟨⟩ ∧ a = t.opnd f.a 1 32 ∧ b = t.opnd f.b 1 32 ∧
    c = t.opnd f.c 1 32 ∧ t.canRead f.c 1 = .ok ⟨⟩ ∧ (i, n) ∈ [(Instr.fdp2 f, 2), (.fdp4 f, 4)] ∧
     ((∀ k, r k =
           (let xs := (List.range n).map fun j => F.decIn md (a k / 2 ^ (32 / n * j) % 2 ^ (32 / n))
            let ys := (List.range n).map fun j => F.decIn md (b k / 2 ^ (32 / n * j) % 2 ^ (32 / n))
            F32.dot md (xs ++ ys ++ [F32.decIn md (c k)]) (xs.zip ys) [F32.decIn md (c k)]))) :=
  ⟨demo, grp, { std with ty := 9 }, _, _, _, _, _, (.fdp2 { std with ty := 9 }), 2, _, by
    and_intros <;> first | decide +kernel | rfl | exact List.mem_cons_self | (intros; rfl)⟩

theorem witness_RoundingIsCorrect_4 : ∃ (F : FFmt) (md : FpMode) (neg : Bool) (m : Nat) (e : Int) (val : Nat → Rat)
    (c : _) (fl : _) (d : _),
    F ∈ [F32, F16, BF16] ∧ md.sub ≠ 2 ∧ 0 < m ∧
     ((∀ c, val c = match F.dec c with
        | .fin _ k x => (k : Rat) * (2 : Rat) ^ x
        | _ => 0)) ∧
    F.round md neg m e = (c, fl) ∧ fl.of_ = false ∧ md.rnd = 0 ∧ d ≤ F.maxCode :=
  ⟨F32, {}, true, 3, (-1), _, _, _, 0, by
    and_intros <;> first | decide +kernel | rfl | exact List.mem_cons_self | (intro c; rfl)⟩

theorem witness_FloatAcrossLanes_1_1 : ∃ (s : State) (t : Thread) (f : Std) (F : FFmt) (size : Nat) (n : Nat) (x :
    Nat → Nat) (y : Nat → Nat),
    s.At t ∧ t.busy = false ∧ F = fmtOf f.ty.toNat ∧ size = F.bits / 8 ∧ t.canReadV f.dst.toNat 1 = .ok ⟨⟩ ∧
    t.canRead f.a 1 = .ok ⟨⟩ ∧ t.canRead f.b 1 = .ok ⟨⟩ ∧ t.canRead f.c 1 = .ok ⟨⟩ ∧ n = t.opnd f.c 1 64 0 ∧
    x = t.opnd f.a 1 32 ∧ y = t.opnd f.b 1 32 ∧ 65535 < n :=
  ⟨(demo.of { grp with regs := { grp.regs with g := [(3, 65536)] } }),
    { grp with regs := { grp.regs with g := [(3, 65536)] } }, { std with ty := 8, c := opd 1 5 3 0 }, _, _, _, _, _,
    by
    and_intros <;> first | decide +kernel | rfl⟩

theorem witness_FloatAcrossLanes_1_2_2 : ∃ (s : State) (t : Thread) (f : Std) (F : FFmt) (size : Nat) (n : Nat) (x :
    Nat → Nat) (y : Nat → Nat) (r : Nat → Nat × FpFlags),
    s.At t ∧ t.busy = false ∧ F = fmtOf f.ty.toNat ∧ size = F.bits / 8 ∧ t.canReadV f.dst.toNat 1 = .ok ⟨⟩ ∧
    t.canRead f.a 1 = .ok ⟨⟩ ∧ t.canRead f.b 1 = .ok ⟨⟩ ∧ t.canRead f.c 1 = .ok ⟨⟩ ∧ n = t.opnd f.c 1 64 0 ∧
    x = t.opnd f.a 1 32 ∧ y = t.opnd f.b 1 32 ∧ n ≤ 65535 ∧ 0 < size ∧
    ((∀ k ∈ t.active, ∀ o ∈ [x k, y k], o % size = 0 ∧ (0 < n → o + n * size ≤ scrLimit (s.hdrOf t) (s.wgOf t) ∧ s.ranged t o (n * size) = false ∧ (∀ l ∈ (s.wgOf t).scrPoison, l * 128 + 128 ≤ o ∨ o + n * size ≤ l * 128) ∧ ∀ p, o < (p + 1) * 16384 → p * 16384 < o + n * size → p ∈ (s.wgOf t).pinned))) ∧
     ((∀ k, r k = fdot F (t.fpMode f.fpc) (t.regs.v.get (64 * f.dst.toNat + k)).toNat
         ((List.range n).map fun j => (s.wgOf t).scr.getNat (x k + size * j) size)
         ((List.range n).map fun j => (s.wgOf t).scr.getNat (y k + size * j) size))) ∧
    n = 0 :=
  ⟨demo, grp, { std with ty := 8, a := opd 0 6 0 0, b := opd 0 6 0 0, c := opd 0 6 0 0 }, F32, 4, 0, (fun _ => 0),
    (fun _ => 0), _, by
    and_intros <;> first
      | decide +kernel
      | rfl
      | (intro k; rfl)
      | (intro k _ a ha
         obtain rfl : a = 0 := by simpa using ha
         exact ⟨rfl, fun h => absurd h (by decide)⟩)⟩

theorem witness_FloatAcrossLanes_1_2 : ∃ (s : State) (t : Thread) (f : Std) (F : FFmt) (size : Nat) (n : Nat) (x :
    Nat → Nat) (y : Nat → Nat) (r : Nat → Nat × FpFlags),
    s.At t ∧ t.busy = false ∧ F = fmtOf f.ty.toNat ∧ size = F.bits / 8 ∧ t.canReadV f.dst.toNat 1 = .ok ⟨⟩ ∧
    t.canRead f.a 1 = .ok ⟨⟩ ∧ t.canRead f.b 1 = .ok ⟨⟩ ∧ t.canRead f.c 1 = .ok ⟨⟩ ∧ n = t.opnd f.c 1 64 0 ∧
    x = t.opnd f.a 1 32 ∧ y = t.opnd f.b 1 32 ∧ n ≤ 65535 ∧ 0 < size ∧
    ((∀ k ∈ t.active, ∀ o ∈ [x k, y k], o % size = 0 ∧ (0 < n → o + n * size ≤ scrLimit (s.hdrOf t) (s.wgOf t) ∧ s.ranged t o (n * size) = false ∧ (∀ l ∈ (s.wgOf t).scrPoison, l * 128 + 128 ≤ o ∨ o + n * size ≤ l * 128) ∧ ∀ p, o < (p + 1) * 16384 → p * 16384 < o + n * size → p ∈ (s.wgOf t).pinned))) ∧
     ((∀ k, r k = fdot F (t.fpMode f.fpc) (t.regs.v.get (64 * f.dst.toNat + k)).toNat
         ((List.range n).map fun j => (s.wgOf t).scr.getNat (x k + size * j) size)
         ((List.range n).map fun j => (s.wgOf t).scr.getNat (y k + size * j) size))) :=
  ⟨demo, grp, { std with ty := 8, a := opd 0 6 0 0, b := opd 0 6 0 0, c := opd 0 6 5 0 }, F32, 4, 5, (fun _ => 0),
    (fun _ => 0), _, by
    and_intros <;> first
      | decide +kernel
      | rfl
      | (intro k; rfl)
      | (intro k _ a ha
         obtain rfl : a = 0 := by simpa using ha
         refine ⟨rfl, fun _ => ⟨by decide, rfl, by decide, fun p h1 h2 => ?_⟩⟩
         obtain rfl : p = 0 := by omega
         decide)⟩

/-- A node of the fixed tree of R187. -/
def treeNode (md : FpMode) (x : Nat → Nat) (act : List Nat) : Nat → Nat → Option (Nat × FpFlags)
  | 0, i => if i < 64 ∧ i ∈ act then some (x i, {}) else none
  | l + 1, j => match treeNode md x act l (2 * j), treeNode md x act l (2 * j + 1) with
    | some a, some b => some ((F32.add md a.1 b.1).1, (a.2.or b.2).or (F32.add md a.1 b.1).2)
    | some a, none => some a
    | none, b => b

theorem witness_FloatAcrossLanes_2_1 : ∃ (s : State) (t : Thread) (f : Std) (w : Nat) (sg : Bool) (x : Nat → Nat) (md
    : FpMode) (below : Nat → List Nat) (op : Nat → Nat → Nat) (comb : List Nat → Nat),
    s.At t ∧ w = tyBits f.xty f.ty ∧ sg = tySigned f.xty f.ty ∧ md = t.fpMode f.fpc ∧
    t.canWrite f.dst.toNat (regsOf w) = .ok ⟨⟩ ∧ t.canRead f.a (regsOf w) = .ok ⟨⟩ ∧ x = t.opnd f.a (regsOf w) w ∧
    f.xty = 0 ∧ f.op.toNat < 6 ∧
    ((∀ k, below k = t.active.filter fun j => if f.xt.getLsbD 0 then decide (j < k) else decide (j ≤ k))) ∧
    f.ty.toNat < 8 ∧
    ((∀ a b, op a b = [(a + b) % 2 ^ w, if tInt sg w a ≤ tInt sg w b then a else b, if tInt sg w a ≤ tInt sg w b then b else a, a &&& b, a ||| b, a ^^^ b].getD f.op.toNat 0)) ∧
     ((∀ ys, comb ys = match ys with
         | [] => [0, if sg then 2 ^ (w - 1) - 1 else 2 ^ w - 1, if sg then 2 ^ (w - 1) else 0, 2 ^ w - 1, 0, 0].getD
             f.op.toNat 0
         | y :: r => r.foldl op y)) :=
  ⟨demo, grp, std, 32, true, _, _, _, _, _, by
    and_intros <;> first | decide +kernel | rfl | (intro a; rfl) | (intro a b; rfl)⟩

theorem witness_FloatAcrossLanes_2_2_1 : ∃ (s : State) (t : Thread) (f : Std) (w : Nat) (sg : Bool) (x : Nat → Nat)
    (md : FpMode) (below : Nat → List Nat) (two : Nat → Nat → Nat × FpFlags) (comb : List Nat → Nat × FpFlags) (ends
    : List Nat → Nat × FpFlags → Nat × FpFlags) (node : Nat → Nat → Option (Nat × FpFlags)) (r : _),
    s.At t ∧ w = tyBits f.xty f.ty ∧ sg = tySigned f.xty f.ty ∧ md = t.fpMode f.fpc ∧
    t.canWrite f.dst.toNat (regsOf w) = .ok ⟨⟩ ∧ t.canRead f.a (regsOf w) = .ok ⟨⟩ ∧ x = t.opnd f.a (regsOf w) w ∧
    f.xty = 0 ∧ f.op.toNat < 6 ∧
    ((∀ k, below k = t.active.filter fun j => if f.xt.getLsbD 0 then decide (j < k) else decide (j ≤ k))) ∧ f.ty = 8 ∧
    f.op.toNat < 3 ∧ ((∀ a b, two a b = if f.op = 0 then F32.add md a b else F32.minmax md (f.op == 2) false a b)) ∧
     ((∀ ys, comb ys = match ys with
         | [] => (0, {})
         | [y] => (if (F32.dec y).isNan then F32.passNan md (F32.dec y) else F32.flushIn md y, {})
         | y :: r => r.foldl (fun a z => ((two a.1 z).1, a.2.or (two a.1 z).2)) (y, {}))) ∧
     ((∀ ys r, ends ys r = (if md.can = true ∧ (F32.dec r.1).isNan = true then F32.canonical else r.1,
         { r.2 with nv := r.2.nv || ys.any fun y => (F32.dec y).signalling }))) ∧
    ((∀ i, node 0 i = if i < 64 ∧ i ∈ t.active then some (x i, {}) else none)) ∧
     ((∀ l j, node (l + 1) j = match node l (2 * j), node l (2 * j + 1) with
         | some a, some b => some ((F32.add md a.1 b.1).1, (a.2.or b.2).or (F32.add md a.1 b.1).2)
         | some a, none => some a
         | none, b => b)) ∧
    (r = ends (t.active.map x) (if f.op = 0 then (node 6 0).getD (0, {}) else comb (t.active.map x))) :=
  ⟨demo, grp, { std with ty := 8, op := 0 }, 32, _, _, _, _, _, _, _,
    (treeNode (grp.fpMode 0) (grp.opnd (opd 1 0 0 2) 1 32) grp.active), _, by
    and_intros <;> first | decide +kernel | rfl | (intro a; rfl) | (intro a b; rfl)⟩

theorem witness_FloatAcrossLanes_2_2_2 : ∃ (s : State) (t : Thread) (f : Std) (w : Nat) (sg : Bool) (x : Nat → Nat)
    (md : FpMode) (below : Nat → List Nat) (two : Nat → Nat → Nat × FpFlags) (comb : List Nat → Nat × FpFlags) (ends
    : List Nat → Nat × FpFlags → Nat × FpFlags) (node : Nat → Nat → Option (Nat × FpFlags)) (r : Nat → Nat ×
    FpFlags),
    s.At t ∧ w = tyBits f.xty f.ty ∧ sg = tySigned f.xty f.ty ∧ md = t.fpMode f.fpc ∧
    t.canWrite f.dst.toNat (regsOf w) = .ok ⟨⟩ ∧ t.canRead f.a (regsOf w) = .ok ⟨⟩ ∧ x = t.opnd f.a (regsOf w) w ∧
    f.xty = 0 ∧ f.op.toNat < 6 ∧
    ((∀ k, below k = t.active.filter fun j => if f.xt.getLsbD 0 then decide (j < k) else decide (j ≤ k))) ∧ f.ty = 8 ∧
    f.op.toNat < 3 ∧ ((∀ a b, two a b = if f.op = 0 then F32.add md a b else F32.minmax md (f.op == 2) false a b)) ∧
     ((∀ ys, comb ys = match ys with
         | [] => (0, {})
         | [y] => (if (F32.dec y).isNan then F32.passNan md (F32.dec y) else F32.flushIn md y, {})
         | y :: r => r.foldl (fun a z => ((two a.1 z).1, a.2.or (two a.1 z).2)) (y, {}))) ∧
     ((∀ ys r, ends ys r = (if md.can = true ∧ (F32.dec r.1).isNan = true then F32.canonical else r.1,
         { r.2 with nv := r.2.nv || ys.any fun y => (F32.dec y).signalling }))) ∧
    ((∀ i, node 0 i = if i < 64 ∧ i ∈ t.active then some (x i, {}) else none)) ∧
     ((∀ l j, node (l + 1) j = match node l (2 * j), node l (2 * j + 1) with
         | some a, some b => some ((F32.add md a.1 b.1).1, (a.2.or b.2).or (F32.add md a.1 b.1).2)
         | some a, none => some a
         | none, b => b)) ∧
    ((∀ k, r k = if below k = [] then ([0x80000000, 0x7F800000, 0xFF800000].getD f.op.toNat 0, {}) else ends ((below k).map x) (comb ((below k).map x)))) :=
  ⟨demo, grp, { std with ty := 8, op := 0 }, 32, _, _, _, _, _, _, _,
    (treeNode (grp.fpMode 0) (grp.opnd (opd 1 0 0 2) 1 32) grp.active), _, by
    and_intros <;> first | decide +kernel | rfl | (intro a; rfl) | (intro a b; rfl)⟩

theorem witness_Conversions_1_1 : ∃ (s : State) (t : Thread) (f : Std) (F : FFmt) (S : FFmt) (md : FpMode) (i :
    Instr) (m : FpMode),
    s.At t ∧ F = fmtOf f.ty.toNat ∧ S = fmtOf (f.xt.toNat % 16) ∧ md = t.fpMode f.fpc ∧
    (i, m) ∈ [(Instr.cvt f, md), (.cvtt f, { md with rnd := 1 })] ∧ t.canWrite f.dst.toNat 1 = .ok ⟨⟩ ∧
    t.canRead f.a 1 = .ok ⟨⟩ :=
  ⟨demo, grp, { std with ty := 8, xt := 9 }, _, _, _, (.cvt { std with ty := 8, xt := 9 }), _, by
    and_intros <;> first | decide +kernel | rfl | exact List.mem_cons_self | (intros; rfl)⟩

theorem witness_Conversions_1_2 : ∃ (s : State) (t : Thread) (f : Std) (F : FFmt) (S : FFmt) (md : FpMode) (w : _) (v
    : Nat → Int),
    s.At t ∧ F = fmtOf f.ty.toNat ∧ S = fmtOf (f.xt.toNat % 16) ∧ md = t.fpMode f.fpc ∧
    w = typeBits false (f.xt.toNat % 16) ∧ 0 < w ∧ t.canWrite f.dst.toNat 1 = .ok ⟨⟩ ∧
    t.canRead f.a (regsOf w) = .ok ⟨⟩ ∧
    ((∀ k, v k = valueOf (decide (f.xt.toNat % 16 < 4)) w (t.opnd f.a (regsOf w) w k))) :=
  ⟨demo, grp, { std with ty := 8, xt := 2 }, _, _, _, 32, _, by
    and_intros <;> first | decide +kernel | rfl | exact List.mem_cons_self | (intros; rfl)⟩

theorem witness_Conversions_1_3 : ∃ (s : State) (t : Thread) (f : Std) (F : FFmt) (S : FFmt) (md : FpMode) (w : _)
    (sg : _) (r : Nat → Int × FpFlags),
    s.At t ∧ F = fmtOf f.ty.toNat ∧ S = fmtOf (f.xt.toNat % 16) ∧ md = t.fpMode f.fpc ∧ w = tyBits f.xty f.ty ∧
    sg = tySigned f.xty f.ty ∧ t.canWrite f.dst.toNat (regsOf w) = .ok ⟨⟩ ∧ t.canRead f.a 1 = .ok ⟨⟩ ∧
     ((∀ k, r k = match S.decIn md (t.opnd f.a 1 S.bits k) with
         | .nan .. => (0, { nv := true })
         | .inf n => (if n then (if sg then -(2 ^ (w - 1)) else 0) else if sg then 2 ^ (w - 1) - 1 else 2 ^ w - 1,
             { nv := true })
         | .fin n m e =>
           let q := quantize md.rnd n m e 0
           let v : Int := if n then -(q.1 : Int) else q.1
           if sg then
             (if v < -(2 ^ (w - 1)) then (-(2 ^ (w - 1)), { nv := true })
               else if 2 ^ (w - 1) - 1 < v then (2 ^ (w - 1) - 1, { nv := true }) else (v, { nx := !q.2 }))
           else
             (if v < 0 then (0, { nv := true }) else if 2 ^ w - 1 < v then (2 ^ w - 1, { nv := true })
               else (v, { nx := !q.2 })))) :=
  ⟨demo, grp, { std with ty := 2, xt := 8 }, _, _, _, 32, true, _, by
    and_intros <;> first | decide +kernel | rfl | exact List.mem_cons_self | (intros; rfl)⟩

theorem witness_Conversions_2_1 : ∃ (s : State) (t : Thread) (f : Std),
    s.At t ∧ t.canWrite f.dst.toNat 1 = .ok ⟨⟩ ∧ t.canRead f.a 1 = .ok ⟨⟩ ∧ t.canRead f.b 1 = .ok ⟨⟩ ∧
    f.ty.toNat < 2 ∧ f.xt.toNat < 4 / 2 ^ f.ty.toNat :=
  ⟨demo, grp, { std with ty := 1, xt := 1 }, by
    and_intros <;> first | decide +kernel | rfl⟩

theorem witness_Conversions_2_2 : ∃ (s : State) (t : Thread) (f : Std) (w : _),
    s.At t ∧ t.canWrite f.dst.toNat 1 = .ok ⟨⟩ ∧ t.canRead f.a 1 = .ok ⟨⟩ ∧ w = tyBits f.xty f.ty :=
  ⟨demo, grp, std, 32, by
    and_intros <;> first | decide +kernel | rfl⟩

theorem witness_BlocksAndPlanes_1_1_1 : ∃ (s : State) (t : Thread) (f : Std) (i : Instr) (pk : List Nat → Packed),
    s.At t ∧ t.canWrite f.dst.toNat 1 = .ok ⟨⟩ ∧ t.canRead f.a 1 = .ok ⟨⟩ ∧
     ((i, pk) ∈ ([
         (Instr.bfpk f, fun xs => tsPack (tsForm f.ty.toNat) (tsDistance t.regs.fmt.toNat f.ty.toNat)
           (.ofFmt t.regs.fmt.toNat) F32 xs),
         (.mxpk f, fun xs => mxPack (mxFmt f.ty.toNat).1 (mxFmt f.ty.toNat).2 (.ofFmt t.regs.fmt.toNat) F32 xs)] :
         List (Instr × (List Nat → Packed)))) ∧
    t.busy = false ∧ t.width < 32 :=
  ⟨demo, grp, std, (.bfpk std), _, by
    and_intros <;> first | decide +kernel | rfl | exact List.mem_cons_self | (intros; rfl)⟩

theorem witness_BlocksAndPlanes_1_1_2 : ∃ (s : State) (t : Thread) (f : Std) (i : Instr) (pk : List Nat → Packed) (b
    : Nat → Packed),
    s.At t ∧ t.canWrite f.dst.toNat 1 = .ok ⟨⟩ ∧ t.canRead f.a 1 = .ok ⟨⟩ ∧
     ((i, pk) ∈ ([
         (Instr.bfpk f, fun xs => tsPack (tsForm f.ty.toNat) (tsDistance t.regs.fmt.toNat f.ty.toNat)
           (.ofFmt t.regs.fmt.toNat) F32 xs),
         (.mxpk f, fun xs => mxPack (mxFmt f.ty.toNat).1 (mxFmt f.ty.toNat).2 (.ofFmt t.regs.fmt.toNat) F32 xs)] :
         List (Instr × (List Nat → Packed)))) ∧
    ((t.width = 32 ∨ t.width = 64)) ∧
     ((∀ q, b q = pk ((List.range 32).map fun j =>
           if t.regs.em.getLsbD (32 * q + j) then t.opnd f.a 1 32 (32 * q + j) else 0))) :=
  ⟨(demo.of { grp with width := 64 }), { grp with width := 64 }, std, (.bfpk std), _, _, by
    and_intros <;> first | decide +kernel | rfl | exact List.mem_cons_self | (intros; rfl)⟩

theorem witness_BlocksAndPlanes_1_3 : ∃ (s : State) (t : Thread) (f : Std) (r : Nat → Nat × FpFlags),
    s.At t ∧ t.canWrite f.dst.toNat 1 = .ok ⟨⟩ ∧ t.canRead f.a 1 = .ok ⟨⟩ ∧
     ((∀ k, r k =
       match mxValue (mxFmt f.ty.toNat).1 (t.opnd f.a 1 32 k % 2 ^ (mxFmt f.ty.toNat).1.bits)
           (t.opnd f.a 1 32 k / 65536) with
       | none => (0x7FC00000, {})
       | some x => F32.conv (t.fpMode f.fpc) x)) :=
  ⟨demo, grp, std, _, by
    and_intros <;> first | decide +kernel | rfl | exact List.mem_cons_self | (intros; rfl)⟩

theorem witness_BlocksAndPlanes_2_1 : ∃ (s : State) (t : Thread) (f : Std) (w : Nat) (b : Nat),
    s.At t ∧ t.side = .wide ∧ w = 4 * 2 ^ (f.xt.toNat / 32 % 4) ∧ b = f.xt.toNat % 32 ∧ b < w ∧ f.a.pat ≠ 5 ∧
    f.a.pat ≠ 6 ∧ t.canWrite f.dst.toNat 1 = .ok ⟨⟩ ∧ t.canRead f.a w = .ok ⟨⟩ :=
  ⟨demo, grp, { std with xt := 37 }, 8, 5, by
    and_intros <;> first | decide +kernel | rfl⟩

theorem witness_BlocksAndPlanes_2_2 : ∃ (s : State) (t : Thread) (f : Std) (w : Nat) (b : Nat),
    s.At t ∧ t.side = .wide ∧ w = 4 * 2 ^ (f.xt.toNat / 32 % 4) ∧ b = f.xt.toNat % 32 ∧ b < w ∧
    t.canWrite f.dst.toNat w = .ok ⟨⟩ ∧ t.canRead f.a 1 = .ok ⟨⟩ ∧ firstEmpty t.regs.ve f.dst.toNat w = none :=
  ⟨demo, grp, { std with dst := 8, xt := 37 }, 8, 5, by
    and_intros <;> first | decide +kernel | rfl⟩

theorem witness_LoadsDeliver_1_1 : ∃ (s : State) (t : Thread) (f : Mem) (i : Instr) (w : Nat) (n : Nat),
    i ∈ [Instr.ld f, .ldnt f] ∧ s.At t ∧ t.busy = false ∧ w = tyBits f.xty f.ty ∧ n = regsOf w ∧
    t.canWrite f.dst.toNat n = .ok ⟨⟩ ∧ t.canAddr f = .ok ⟨⟩ ∧ t.active = [] :=
  ⟨(demo.of { grp with regs := { grp.regs with em := 0 } }), { grp with regs := { grp.regs with em := 0 } }, mrec,
    (.ld mrec), _, _, by
    and_intros <;> first | decide +kernel | rfl | exact List.mem_cons_self | (intros; rfl)⟩

theorem witness_LoadsDeliver_1_2_1 : ∃ (s : State) (t : Thread) (f : Mem) (i : Instr) (w : Nat) (n : Nat) (ps : List
    (Nat × Nat × Place)),
    i ∈ [Instr.ld f, .ldnt f] ∧ s.At t ∧ t.busy = false ∧ w = tyBits f.xty f.ty ∧ n = regsOf w ∧
    t.canWrite f.dst.toNat n = .ok ⟨⟩ ∧ t.canAddr f = .ok ⟨⟩ ∧ t.active ≠ [] ∧ t.width ≤ 64 ∧
    (s.resolveAll t .load (w / 8) false (t.active.map fun i => (i, t.memAddr f i)) = .ok ps) ∧
    ((∀ p ∈ ps, p.2.2.isRemote = false)) ∧ s.anyWaits t (w / 8) ps = false ∧ ((∀ p ∈ ps, p.2.2.interlocked = true)) :=
  ⟨demo, grp, mrec, (.ld mrec), 32, 1, ((List.range 8).map fun k => (k, 0xFFFFFFE000000100, .scratch 0x100)), by
    and_intros <;> first | rfl | decide +kernel | exact ok_of _ _ (by decide +kernel) | exact List.mem_cons_self | exact ⟨_, List.mem_cons_self, rfl⟩ | (intros; rfl)⟩

theorem witness_LoadsDeliver_1_2_2 : ∃ (s : State) (t : Thread) (f : Mem) (i : Instr) (w : Nat) (n : Nat) (ps : List
    (Nat × Nat × Place)),
    i ∈ [Instr.ld f, .ldnt f] ∧ s.At t ∧ t.busy = false ∧ w = tyBits f.xty f.ty ∧ n = regsOf w ∧
    t.canWrite f.dst.toNat n = .ok ⟨⟩ ∧ t.canAddr f = .ok ⟨⟩ ∧ t.active ≠ [] ∧ t.width ≤ 64 ∧
    (s.resolveAll t .load (w / 8) false (t.active.map fun i => (i, t.memAddr f i)) = .ok ps) ∧
    ((∀ p ∈ ps, p.2.2.isRemote = false)) ∧ s.anyWaits t (w / 8) ps = false ∧
    ((∃ p ∈ ps, p.2.2.interlocked = false)) :=
  ⟨demo, grp, { mrec with gb := 2 }, (.ld { mrec with gb := 2 }), 32, 1,
    ((List.range 8).map fun k => (k, 0x200600, .phys 0x200600)), by
    and_intros <;> first | rfl | decide +kernel | exact ok_of _ _ (by decide +kernel) | exact List.mem_cons_self | exact ⟨_, List.mem_cons_self, rfl⟩ | (intros; rfl)⟩

theorem witness_LoadsDeliver_2 : ∃ (s : State) (t : Thread) (tid : Nat) (pid : Nat) (p : Producer),
    s.threads.get? tid = some t ∧ t.prods.get? pid = some p ∧ p.ready = true ∧ p.waiting = 0 ∧
    s.lost (s.dieOf t) = false ∧ ((∀ d ∈ p.homes, s.lost d = false)) :=
  ⟨(demo.of { grp with prods := [(9, { toG := false, reg := 4, n := 1, lanes := 0xFF, vals := [(0, 7)], waiting := 0, ready := true, slot := none })] }),
    { grp with prods := [(9, { toG := false, reg := 4, n := 1, lanes := 0xFF, vals := [(0, 7)], waiting := 0, ready := true, slot := none })] },
    0, 9,
    { toG := false, reg := 4, n := 1, lanes := 0xFF, vals := [(0, 7)], waiting := 0, ready := true, slot := none },
    by
    and_intros <;> first | decide +kernel | rfl⟩

theorem witness_StoresWrite_1 : ∃ (s : State) (t : Thread) (f : Mem) (i : Instr) (w : Nat) (n : Nat),
    i ∈ [Instr.st f, .stnt f] ∧ s.At t ∧ t.busy = false ∧ w = tyBits f.xty f.ty ∧ n = regsOf w ∧
    t.canRead f.a n = .ok ⟨⟩ ∧ t.canAddr f = .ok ⟨⟩ ∧ t.active = [] :=
  ⟨(demo.of { grp with regs := { grp.regs with em := 0 } }), { grp with regs := { grp.regs with em := 0 } }, mrec,
    (.st mrec), _, _, by
    and_intros <;> first | decide +kernel | rfl | exact List.mem_cons_self | (intros; rfl)⟩

theorem witness_StoresWrite_2 : ∃ (s : State) (t : Thread) (f : Mem) (i : Instr) (w : Nat) (n : Nat) (ps : List (Nat
    × Nat × Place)),
    i ∈ [Instr.st f, .stnt f] ∧ s.At t ∧ t.busy = false ∧ w = tyBits f.xty f.ty ∧ n = regsOf w ∧
    t.canRead f.a n = .ok ⟨⟩ ∧ t.canAddr f = .ok ⟨⟩ ∧ t.active ≠ [] ∧
    (s.resolveAll t .store (w / 8) false (t.active.map fun i => (i, t.memAddr f i)) = .ok ps) ∧
    ((∀ p ∈ ps, p.2.2.isRemote = false)) ∧ s.anyWaits t (w / 8) ps = false :=
  ⟨demo, grp, { mrec with gb := 2 }, (.st { mrec with gb := 2 }), 32, 1,
    ((List.range 8).map fun k => (k, 0x200600, .phys 0x200600)), by
    and_intros <;> first | rfl | decide +kernel | exact ok_of _ _ (by decide +kernel) | exact List.mem_cons_self | exact ⟨_, List.mem_cons_self, rfl⟩ | (intros; rfl)⟩

theorem witness_GroupAccessesAndPages_1_1 : ∃ (s : State) (t : Thread) (f : Mem) (w : Nat) (va : Nat) (p : Place),
    s.At t ∧ t.busy = false ∧ w = tyBits f.xty f.ty ∧ t.canAddr f = .ok ⟨⟩ ∧
    s.resolveAll t .load (w / 8) true [(0, t.memAddr f 0)] = .ok [(0, va, p)] ∧ p.isRemote = false ∧
    p.isDead = false ∧ s.scrWaits t p (w / 8) = false :=
  ⟨demo, grp, mrec, 32, 0xFFFFFFE000000100, (.scratch 0x100), by
    and_intros <;> first | rfl | decide +kernel | exact ok_of _ _ (by decide +kernel) | exact List.mem_cons_self | exact ⟨_, List.mem_cons_self, rfl⟩ | (intros; rfl)⟩

theorem witness_GroupAccessesAndPages_1_2 : ∃ (s : State) (t : Thread) (f : Mem) (w : Nat) (va : Nat) (p : Place),
    s.At t ∧ t.busy = false ∧ w = tyBits f.xty f.ty ∧ t.canRead f.a 1 = .ok ⟨⟩ ∧ t.canAddr f = .ok ⟨⟩ ∧
    s.resolveAll t .store (w / 8) true [(0, t.memAddr f 0)] = .ok [(0, va, p)] ∧ p.isRemote = false ∧
    s.scrWaits t p (w / 8) = false :=
  ⟨demo, grp, mrec, 32, 0xFFFFFFE000000100, (.scratch 0x100), by
    and_intros <;> first | rfl | decide +kernel | exact ok_of _ _ (by decide +kernel) | exact List.mem_cons_self | exact ⟨_, List.mem_cons_self, rfl⟩ | (intros; rfl)⟩

theorem witness_GroupAccessesAndPages_1_2_memory : ∃ (s : State) (t : Thread) (f : Mem) (w : Nat) (va : Nat) (p :
    Place),
    s.At t ∧ t.busy = false ∧ w = tyBits f.xty f.ty ∧ t.canRead f.a 1 = .ok ⟨⟩ ∧ t.canAddr f = .ok ⟨⟩ ∧
    s.resolveAll t .store (w / 8) true [(0, t.memAddr f 0)] = .ok [(0, va, p)] ∧ p.isRemote = false ∧
    s.scrWaits t p (w / 8) = false :=
  ⟨demo, grp, { mrec with gb := 2 }, 32, 0x200600, (.phys 0x200600), by
    and_intros <;> first | rfl | decide +kernel | exact ok_of _ _ (by decide +kernel) | exact List.mem_cons_self | exact ⟨_, List.mem_cons_self, rfl⟩ | (intros; rfl)⟩

theorem witness_GroupAccessesAndPages_1_3 : ∃ (s : State) (t : Thread) (f : Mem) (w : Nat),
    s.At t ∧ t.busy = false ∧ w = tyBits f.xty f.ty ∧ ((f.ix.pat.toNat ∈ [5, 6] ∨ t.vHeld f.ix.reg.toNat 1 = true)) ∧
    t.prefWaits f = false :=
  ⟨demo, grp, mrec, 32, by
    and_intros <;> first | rfl | decide +kernel | exact ok_of _ _ (by decide +kernel) | exact List.mem_cons_self | exact ⟨_, List.mem_cons_self, rfl⟩ | (intros; rfl)⟩

theorem witness_GroupAccessesAndPages_2_1 : ∃ (s : State) (t : Thread) (f : Eng) (c : Nat),
    s.At t ∧ t.busy = false ∧ t.canRead f.a 1 = .ok ⟨⟩ ∧ t.canRead f.b 1 = .ok ⟨⟩ ∧ c = t.uni f.b ∧
    t.uni f.a % 16384 = 0 ∧ 1 ≤ c ∧ c ≤ 80 ∧ t.uni f.a + (c - 1) * 16384 < scrLimit (s.hdrOf t) (s.wgOf t) ∧
    ((∀ j, j < c → (s.wgOf t).pinned.contains (t.uni f.a / 16384 + j) = true)) :=
  ⟨(demo.of { grp with regs := { grp.regs with g := [(1, 16384), (2, 1)] } }),
    { grp with regs := { grp.regs with g := [(1, 16384), (2, 1)] } }, eng, 1, by
    and_intros <;> first | rfl | decide +kernel⟩

theorem witness_GroupAccessesAndPages_2_2 : ∃ (s : State) (t : Thread) (f : Eng) (c : Nat),
    s.At t ∧ t.busy = false ∧ t.canRead f.a 1 = .ok ⟨⟩ ∧ t.canRead f.b 1 = .ok ⟨⟩ ∧ c = t.uni f.b ∧
    t.uni f.a % 16384 = 0 ∧ 1 ≤ c ∧ c ≤ 80 ∧ t.uni f.a + (c - 1) * 16384 < scrLimit (s.hdrOf t) (s.wgOf t) ∧
    ((∃ j, j < c ∧ (s.wgOf t).pinned.contains (t.uni f.a / 16384 + j) = false)) :=
  ⟨{ demo.of { grp with regs := { grp.regs with g := [(1, 16384), (2, 1)] } } with wgs := [(1, { wgp with pinned := [0] })] },
    { grp with regs := { grp.regs with g := [(1, 16384), (2, 1)] } }, eng, 1, by
    and_intros <;> first | rfl | decide +kernel | exact ⟨0, by decide, by decide +kernel⟩⟩

theorem witness_GroupAccessesAndPages_2_3 : ∃ (s : State) (t : Thread) (f : Eng) (c : Nat),
    s.At t ∧ t.busy = false ∧ t.canRead f.a 1 = .ok ⟨⟩ ∧ t.canRead f.b 1 = .ok ⟨⟩ ∧ c = t.uni f.b ∧
    t.uni f.a % 16384 = 0 ∧ 1 ≤ c ∧ c ≤ 80 ∧ t.uni f.a + (c - 1) * 16384 < scrLimit (s.hdrOf t) (s.wgOf t) ∧ c ≤ 64 :=
  ⟨(demo.of { grp with regs := { grp.regs with g := [(1, 16384), (2, 1)] } }),
    { grp with regs := { grp.regs with g := [(1, 16384), (2, 1)] } }, eng, 1, by
    and_intros <;> first | decide +kernel | rfl⟩

theorem witness_GroupAccessesAndPages_2_4 : ∃ (s : State) (t : Thread) (f : Eng) (c : Nat),
    s.At t ∧ t.busy = false ∧ t.canRead f.a 1 = .ok ⟨⟩ ∧ t.canRead f.b 1 = .ok ⟨⟩ ∧ c = t.uni f.b ∧
    t.uni f.a % 16384 = 0 ∧ 1 ≤ c ∧ c ≤ 80 ∧ t.uni f.a + (c - 1) * 16384 < scrLimit (s.hdrOf t) (s.wgOf t) ∧
    ((∀ j, j < c → s.ranged t (16384 * (t.uni f.a / 16384 + j)) 16384 = false ∧ s.bufferedIn t.wg (t.uni f.a / 16384 + j) = false)) :=
  ⟨(demo.of { grp with regs := { grp.regs with g := [(1, 16384), (2, 1)] } }),
    { grp with regs := { grp.regs with g := [(1, 16384), (2, 1)] } }, eng, 1, by
    and_intros <;> first | decide +kernel | rfl⟩

set_option maxRecDepth 20000 in
theorem witness_GroupAccessesAndPages_3 : ∃ (s : State) (wg : Nat) (page : Nat) (a : Nat) (g : Wg),
    s.wgs.get? wg = some g ∧ g.pinned.contains page = false ∧ 16384 * page < scrLimit (s.launchOfWg g).hdr g ∧
    a = s.forwarded (g.backing + 16384 * page) ∧ pkgOf a = s.pkg ∧ s.homeLost (inPkg a) = false ∧
    g.wanted.contains page = true ∧ s.mem.wf = true :=
  ⟨{ demo with wgs := [(1, { wgp with pinned := [0], wanted := [1] })] }, 1, 1, _,
    { wgp with pinned := [0], wanted := [1] }, by
    and_intros <;> first | decide +kernel | rfl⟩

theorem witness_GroupAccessesAndPages_4 : ∃ (s : State) (wg : Nat) (page : Nat) (a : Nat) (g : Wg),
    s.wgs.get? wg = some g ∧ g.backing % 16384 = 0 ∧ a = s.forwarded (g.backing + 16384 * page) ∧ pkgOf a = s.pkg ∧
    s.porchOk a = true :=
  ⟨demo, 1, 0, _, wgp, by
    and_intros <;> first | decide +kernel | rfl⟩

theorem not_away (r : WalkRes) (h : (match r with | .away .. => false | _ => true) = true) (pa : Nat) (hop : Bool) :
    r ≠ .away pa hop := by
  rintro rfl
  simp at h

theorem witness_GroupAccessesAndPages_5 : ∃ (s : State) (part : Nat) (page : Nat) (w : Walk),
    ((s.walks.find? fun w => w.part == part && w.page == page) = some w) ∧ s.walkRes w ≠ .never ∧
    ((∀ pa hop, s.walkRes w ≠ .away pa hop)) :=
  ⟨{ demo with walks := [{ part := 0, die := 0, page := 0x20, waiters := [0] }] }, 0, 0x20,
    { part := 0, die := 0, page := 0x20, waiters := [0] }, by
    and_intros <;> first | decide +kernel | exact not_away _ (by decide +kernel) | rfl⟩

theorem witness_GroupAccessesAndPages_6_1 : ∃ (s : State) (t : Thread) (tid : Nat) (a : _),
    s.threads.get? tid = some t ∧ t.line = none ∧ t.status = .running ∧ s.lost (s.dieOf t) = false ∧
    s.fetchCheck t = .ok (.phys a) :=
  ⟨demo, grp, 0, 0x200400, by
    and_intros <;> first | rfl | decide +kernel | exact ok_of _ _ (by decide +kernel) | exact List.mem_cons_self | exact ⟨_, List.mem_cons_self, rfl⟩ | (intros; rfl)⟩

theorem witness_GroupAccessesAndPages_6_2 : ∃ (s : State) (t : Thread) (tid : Nat) (pa : _) (hop : _),
    s.threads.get? tid = some t ∧ t.line = none ∧ t.status = .running ∧ s.lost (s.dieOf t) = false ∧
    s.fetchCheck t = .ok (.remote pa hop) ∧ s.reach (pkgOf pa) = .up :=
  ⟨afar, grp, 0, 0x80000200400, false, by
    and_intros <;> first | rfl | decide +kernel | exact ok_of _ _ (by decide +kernel) | exact List.mem_cons_self | exact ⟨_, List.mem_cons_self, rfl⟩ | (intros; rfl)⟩

theorem witness_RoundingIsCorrect_5_2 : ∃ (F : FFmt) (md : FpMode) (neg : Bool) (m : Nat) (e : Int) (val : Nat → Rat)
    (c : _) (fl : _) (d : _),
    F ∈ [F32, F16, BF16] ∧ md.sub ≠ 2 ∧ 0 < m ∧
     ((∀ c, val c = match F.dec c with
        | .fin _ k x => (k : Rat) * (2 : Rat) ^ x
        | _ => 0)) ∧
    F.round md neg m e = (c, fl) ∧ fl.of_ = false ∧ md.rnd = 1 ∧ d ≤ F.maxCode ∧ val d ≤ (m : Rat) * (2 : Rat) ^ e :=
  ⟨F32, { rnd := 1 }, false, 3, (-1), _, _, _, 0, by
    and_intros <;> first | decide +kernel | rfl | exact List.mem_cons_self | (intro c; rfl)⟩

theorem witness_BarriersAndPhases_1_1 : ∃ (s : State) (t : Thread) (f : Eng) (i : Instr) (ea : Nat) (eb : Nat) (ch :
    Bar → Bar),
    s.At t ∧ t.busy = false ∧ t.canRead f.a 1 = .ok ⟨⟩ ∧ ((f.b = .zero ∨ t.canRead f.b 1 = .ok ⟨⟩)) ∧ ea = t.uni f.a ∧
    eb = t.uni f.b ∧
     (((i = .binit f ∧ ea < 2 ^ 32 ∧ eb < 2 ^ 48 ∧ (ea ≠ 0 ∨ eb ≠ 0) ∧ ch = fun b =>
        { b with expa := ea, expb := eb, arre := ea, bytee := eb, arr := 0, bytes := 0, sum := 0, err := false }) ∨
      (i = .barr f ∧ ea < 2 ^ 32 ∧ ch = fun b => b.add { a := ea, v := eb }) ∨
      (i = .bexp f ∧ ea < 2 ^ 48 ∧ eb < 2 ^ 32 ∧ ch = fun b =>
        b.add { x := ea, y := eb, a := if f.xt.getLsbD 0 then 1 else 0 }))) ∧
    f.nb.toNat < (s.hdrOf t).nbn ∧ f.nb ≠ 63 :=
  ⟨demo, grp, { eng with a := opd 1 5 3 0, b := opd 0 6 1 0, c := .zero, nb := 7 },
    (.binit { eng with a := opd 1 5 3 0, b := opd 0 6 1 0, c := .zero, nb := 7 }), 5, 1, _, by
    and_intros <;> first | decide +kernel | rfl | exact Or.inl rfl | exact Or.inr rfl | exact Or.inl ⟨rfl, by decide +kernel, by decide +kernel, by decide +kernel, rfl⟩ | exact Or.inr (Or.inl ⟨rfl, by decide +kernel, rfl⟩) | exact Or.inr (Or.inr ⟨rfl, by decide +kernel, by decide +kernel, rfl⟩)⟩

theorem witness_BarriersAndPhases_1_1_barr : ∃ (s : State) (t : Thread) (f : Eng) (i : Instr) (ea : Nat) (eb : Nat)
    (ch : Bar → Bar),
    s.At t ∧ t.busy = false ∧ t.canRead f.a 1 = .ok ⟨⟩ ∧ ((f.b = .zero ∨ t.canRead f.b 1 = .ok ⟨⟩)) ∧ ea = t.uni f.a ∧
    eb = t.uni f.b ∧
     (((i = .binit f ∧ ea < 2 ^ 32 ∧ eb < 2 ^ 48 ∧ (ea ≠ 0 ∨ eb ≠ 0) ∧ ch = fun b =>
        { b with expa := ea, expb := eb, arre := ea, bytee := eb, arr := 0, bytes := 0, sum := 0, err := false }) ∨
      (i = .barr f ∧ ea < 2 ^ 32 ∧ ch = fun b => b.add { a := ea, v := eb }) ∨
      (i = .bexp f ∧ ea < 2 ^ 48 ∧ eb < 2 ^ 32 ∧ ch = fun b =>
        b.add { x := ea, y := eb, a := if f.xt.getLsbD 0 then 1 else 0 }))) ∧
    f.nb.toNat < (s.hdrOf t).nbn ∧ f.nb ≠ 63 :=
  ⟨demo, grp, { eng with a := opd 1 5 3 0, b := opd 0 6 1 0, c := .zero, nb := 7 },
    (.barr { eng with a := opd 1 5 3 0, b := opd 0 6 1 0, c := .zero, nb := 7 }), 5, 1, _, by
    and_intros <;> first | decide +kernel | rfl | exact Or.inl rfl | exact Or.inr rfl | exact Or.inl ⟨rfl, by decide +kernel, by decide +kernel, by decide +kernel, rfl⟩ | exact Or.inr (Or.inl ⟨rfl, by decide +kernel, rfl⟩) | exact Or.inr (Or.inr ⟨rfl, by decide +kernel, by decide +kernel, rfl⟩)⟩

theorem witness_BarriersAndPhases_1_1_bexp : ∃ (s : State) (t : Thread) (f : Eng) (i : Instr) (ea : Nat) (eb : Nat)
    (ch : Bar → Bar),
    s.At t ∧ t.busy = false ∧ t.canRead f.a 1 = .ok ⟨⟩ ∧ ((f.b = .zero ∨ t.canRead f.b 1 = .ok ⟨⟩)) ∧ ea = t.uni f.a ∧
    eb = t.uni f.b ∧
     (((i = .binit f ∧ ea < 2 ^ 32 ∧ eb < 2 ^ 48 ∧ (ea ≠ 0 ∨ eb ≠ 0) ∧ ch = fun b =>
        { b with expa := ea, expb := eb, arre := ea, bytee := eb, arr := 0, bytes := 0, sum := 0, err := false }) ∨
      (i = .barr f ∧ ea < 2 ^ 32 ∧ ch = fun b => b.add { a := ea, v := eb }) ∨
      (i = .bexp f ∧ ea < 2 ^ 48 ∧ eb < 2 ^ 32 ∧ ch = fun b =>
        b.add { x := ea, y := eb, a := if f.xt.getLsbD 0 then 1 else 0 }))) ∧
    f.nb.toNat < (s.hdrOf t).nbn ∧ f.nb ≠ 63 :=
  ⟨demo, grp, { eng with a := opd 1 5 3 0, b := opd 0 6 1 0, c := .zero, nb := 7 },
    (.bexp { eng with a := opd 1 5 3 0, b := opd 0 6 1 0, c := .zero, nb := 7 }), 5, 1, _, by
    and_intros <;> first | decide +kernel | rfl | exact Or.inl rfl | exact Or.inr rfl | exact Or.inl ⟨rfl, by decide +kernel, by decide +kernel, by decide +kernel, rfl⟩ | exact Or.inr (Or.inl ⟨rfl, by decide +kernel, rfl⟩) | exact Or.inr (Or.inr ⟨rfl, by decide +kernel, by decide +kernel, rfl⟩)⟩

theorem witness_BarriersAndPhases_1_2 : ∃ (s : State) (t : Thread) (f : Eng) (i : Instr) (ea : Nat) (eb : Nat) (ch :
    Bar → Bar),
    s.At t ∧ t.busy = false ∧ t.canRead f.a 1 = .ok ⟨⟩ ∧ ((f.b = .zero ∨ t.canRead f.b 1 = .ok ⟨⟩)) ∧ ea = t.uni f.a ∧
    eb = t.uni f.b ∧
     (((i = .binit f ∧ ea < 2 ^ 32 ∧ eb < 2 ^ 48 ∧ (ea ≠ 0 ∨ eb ≠ 0) ∧ ch = fun b =>
        { b with expa := ea, expb := eb, arre := ea, bytee := eb, arr := 0, bytes := 0, sum := 0, err := false }) ∨
      (i = .barr f ∧ ea < 2 ^ 32 ∧ ch = fun b => b.add { a := ea, v := eb }) ∨
      (i = .bexp f ∧ ea < 2 ^ 48 ∧ eb < 2 ^ 32 ∧ ch = fun b =>
        b.add { x := ea, y := eb, a := if f.xt.getLsbD 0 then 1 else 0 }))) ∧
    (s.hdrOf t).nbn ≤ f.nb.toNat ∧ f.nb ≠ 63 :=
  ⟨demo, grp, { eng with a := opd 1 5 3 0, b := opd 0 6 1 0, c := .zero, nb := 8 },
    (.barr { eng with a := opd 1 5 3 0, b := opd 0 6 1 0, c := .zero, nb := 8 }), 5, 1, _, by
    and_intros <;> first | decide +kernel | rfl | exact Or.inl rfl | exact Or.inr rfl | exact Or.inl ⟨rfl, by decide +kernel, by decide +kernel, by decide +kernel, rfl⟩ | exact Or.inr (Or.inl ⟨rfl, by decide +kernel, rfl⟩) | exact Or.inr (Or.inr ⟨rfl, by decide +kernel, by decide +kernel, rfl⟩)⟩

theorem witness_BarriersAndPhases_1_3 : ∃ (s : State) (t : Thread) (f : Eng) (i : Instr) (ea : Nat) (eb : Nat) (ch :
    Bar → Bar) (p : _),
    s.At t ∧ t.busy = false ∧ t.canRead f.a 1 = .ok ⟨⟩ ∧ ((f.b = .zero ∨ t.canRead f.b 1 = .ok ⟨⟩)) ∧ ea = t.uni f.a ∧
    eb = t.uni f.b ∧
     (((i = .binit f ∧ ea < 2 ^ 32 ∧ eb < 2 ^ 48 ∧ (ea ≠ 0 ∨ eb ≠ 0) ∧ ch = fun b =>
        { b with expa := ea, expb := eb, arre := ea, bytee := eb, arr := 0, bytes := 0, sum := 0, err := false }) ∨
      (i = .barr f ∧ ea < 2 ^ 32 ∧ ch = fun b => b.add { a := ea, v := eb }) ∨
      (i = .bexp f ∧ ea < 2 ^ 48 ∧ eb < 2 ^ 32 ∧ ch = fun b =>
        b.add { x := ea, y := eb, a := if f.xt.getLsbD 0 then 1 else 0 }))) ∧
    f.nb = 63 ∧ t.canRead f.c 1 = .ok ⟨⟩ ∧ s.objectPlace t .store (t.uni f.c) = .ok p ∧ p.isRemote = false :=
  ⟨demo, grp, { eng with a := opd 1 5 3 0, b := opd 0 6 1 0, c := opd 1 5 2 0 },
    (.barr { eng with a := opd 1 5 3 0, b := opd 0 6 1 0, c := opd 1 5 2 0 }), 5, 1, _, (Place.phys 0x200600), by
    and_intros <;> first | decide +kernel | rfl | exact Or.inl rfl | exact Or.inr rfl | exact Or.inl ⟨rfl, by decide +kernel, by decide +kernel, by decide +kernel, rfl⟩ | exact Or.inr (Or.inl ⟨rfl, by decide +kernel, rfl⟩) | exact Or.inr (Or.inr ⟨rfl, by decide +kernel, by decide +kernel, rfl⟩) | exact ok_of _ _ (by decide +kernel)⟩

theorem witness_BarriersAndPhases_2_1 : ∃ (b : Bar) (n : Addition),
    b.arr + n.a < 2 ^ 32 ∧ b.arre + n.y < 2 ^ 32 ∧ b.bytes + n.b < 2 ^ 48 ∧ b.bytee + n.x < 2 ^ 48 ∧
    (b.arr + n.a < b.arre + n.y ∨ b.bytes + n.b < b.bytee + n.x) :=
  ⟨.fresh, {}, by
    and_intros <;> first | decide +kernel | rfl⟩

theorem witness_BarriersAndPhases_2_2 : ∃ (b : Bar) (n : Addition),
    b.arr + n.a < 2 ^ 32 ∧ b.arre + n.y < 2 ^ 32 ∧ b.bytes + n.b < 2 ^ 48 ∧ b.bytee + n.x < 2 ^ 48 ∧
    b.arre + n.y ≤ b.arr + n.a ∧ b.bytee + n.x ≤ b.bytes + n.b :=
  ⟨.fresh, { a := 1 }, by
    and_intros <;> first | decide +kernel | rfl⟩

theorem witness_BarriersAndPhases_3_1 : ∃ (s : State) (s1 : State) (t : Thread) (t1 : Thread) (f : Eng) (b : Bar) (r
    : BarRef) (u : _),
    s.At t ∧ t.busy = false ∧ t.kept = [] ∧ t.canRead f.a 1 = .ok ⟨⟩ ∧ ((f.b = .zero ∨ t.canRead f.b 1 = .ok ⟨⟩)) ∧
    t.uni f.a < 2 ^ 32 ∧
    (((f.nb ≠ 63 ∧ f.nb.toNat < (s.hdrOf t).nbn ∧ r = .named f.nb.toNat ∧ b = (s.wgOf t).bars.getD f.nb.toNat .fresh ∧ s1 = s ∧ t1 = t) ∨ (f.nb = 63 ∧ f.xt.getLsbD 0 = true ∧ r = .grid ∧ (s.launchOf t).grid = some b ∧ s1 = s ∧ t1 = t) ∨ (f.nb = 63 ∧ f.xt.getLsbD 0 = false ∧ t.canRead f.c 1 = .ok ⟨⟩ ∧ ∃ p, r = .object (t.uni f.c) p ∧ s.objectPlace t .load (t.uni f.c) = .ok p ∧ p.isRemote = false ∧ p.isDead = false ∧ b = Bar.ofWord (ofBytes (s.readPlace t p 64)) ∧ s.stampLoad t p = (s1, t1)))) ∧
    (u = (if b.completed (t.uni f.a) then s1.observed t1 else t1)) :=
  ⟨{ demo with wgs := [(1, { wgp with bars := [(7, { Bar.fresh with phase := 2147483648 })] })] },
    { demo with wgs := [(1, { wgp with bars := [(7, { Bar.fresh with phase := 2147483648 })] })] }, grp, grp,
    { eng with a := opd 0 6 0 0, b := .zero, nb := 7 }, _, (.named 7), _, by
    and_intros <;> first | decide +kernel | rfl | exact Or.inl rfl | exact Or.inl ⟨by decide, by decide +kernel, rfl, rfl, rfl, rfl⟩⟩

theorem witness_BarriersAndPhases_3_2 : ∃ (s : State) (s1 : State) (t : Thread) (t1 : Thread) (f : Eng) (b : Bar) (r
    : BarRef) (u : _),
    s.At t ∧ t.busy = false ∧ t.kept = [] ∧ t.canRead f.a 1 = .ok ⟨⟩ ∧ ((f.b = .zero ∨ t.canRead f.b 1 = .ok ⟨⟩)) ∧
    t.uni f.a < 2 ^ 32 ∧
    (((f.nb ≠ 63 ∧ f.nb.toNat < (s.hdrOf t).nbn ∧ r = .named f.nb.toNat ∧ b = (s.wgOf t).bars.getD f.nb.toNat .fresh ∧ s1 = s ∧ t1 = t) ∨ (f.nb = 63 ∧ f.xt.getLsbD 0 = true ∧ r = .grid ∧ (s.launchOf t).grid = some b ∧ s1 = s ∧ t1 = t) ∨ (f.nb = 63 ∧ f.xt.getLsbD 0 = false ∧ t.canRead f.c 1 = .ok ⟨⟩ ∧ ∃ p, r = .object (t.uni f.c) p ∧ s.objectPlace t .load (t.uni f.c) = .ok p ∧ p.isRemote = false ∧ p.isDead = false ∧ b = Bar.ofWord (ofBytes (s.readPlace t p 64)) ∧ s.stampLoad t p = (s1, t1)))) ∧
    b.completed (t.uni f.a) = true ∧ u = s1.observed t1 :=
  ⟨{ demo with wgs := [(1, { wgp with bars := [(7, { Bar.fresh with phase := 2147483648 })] })] },
    { demo with wgs := [(1, { wgp with bars := [(7, { Bar.fresh with phase := 2147483648 })] })] }, grp, grp,
    { eng with a := opd 0 6 0 0, b := .zero, nb := 7 }, _, (.named 7), _, by
    and_intros <;> first | decide +kernel | rfl | exact Or.inl rfl | exact Or.inl ⟨by decide, by decide +kernel, rfl, rfl, rfl, rfl⟩⟩

theorem witness_BarriersAndPhases_9_1 : ∃ (t : Thread),
    t.side ≠ .mcc :=
  ⟨grp, by
    first | decide +kernel | rfl⟩

theorem witness_BarriersAndPhases_9_2 : ∃ (t : Thread),
    t.side = .mcc :=
  ⟨mgrp, by
    first | decide +kernel | rfl⟩

theorem witness_BarriersAndPhases_3_3 : ∃ (s : State) (s1 : State) (t : Thread) (t1 : Thread) (f : Eng) (b : Bar) (r
    : BarRef),
    s.At t ∧ t.busy = false ∧ t.kept = [] ∧ t.canRead f.a 1 = .ok ⟨⟩ ∧ ((f.b = .zero ∨ t.canRead f.b 1 = .ok ⟨⟩)) ∧
    t.uni f.a < 2 ^ 32 ∧
    (((f.nb ≠ 63 ∧ f.nb.toNat < (s.hdrOf t).nbn ∧ r = .named f.nb.toNat ∧ b = (s.wgOf t).bars.getD f.nb.toNat .fresh ∧ s1 = s ∧ t1 = t) ∨ (f.nb = 63 ∧ f.xt.getLsbD 0 = true ∧ r = .grid ∧ (s.launchOf t).grid = some b ∧ s1 = s ∧ t1 = t) ∨ (f.nb = 63 ∧ f.xt.getLsbD 0 = false ∧ t.canRead f.c 1 = .ok ⟨⟩ ∧ ∃ p, r = .object (t.uni f.c) p ∧ s.objectPlace t .load (t.uni f.c) = .ok p ∧ p.isRemote = false ∧ p.isDead = false ∧ b = Bar.ofWord (ofBytes (s.readPlace t p 64)) ∧ s.stampLoad t p = (s1, t1)))) ∧
    b.completed (t.uni f.a) = false :=
  ⟨demo, demo, grp, grp, { eng with a := opd 0 6 0 0, b := .zero, nb := 7 }, _, (.named 7), by
    and_intros <;> first | decide +kernel | rfl | exact Or.inl rfl | exact Or.inl ⟨by decide, by decide +kernel, rfl, rfl, rfl, rfl⟩⟩

theorem witness_BarriersAndPhases_3_3_object : ∃ (s : State) (s1 : State) (t : Thread) (t1 : Thread) (f : Eng) (b :
    Bar) (r : BarRef),
    s.At t ∧ t.busy = false ∧ t.kept = [] ∧ t.canRead f.a 1 = .ok ⟨⟩ ∧ ((f.b = .zero ∨ t.canRead f.b 1 = .ok ⟨⟩)) ∧
    t.uni f.a < 2 ^ 32 ∧
    (((f.nb ≠ 63 ∧ f.nb.toNat < (s.hdrOf t).nbn ∧ r = .named f.nb.toNat ∧ b = (s.wgOf t).bars.getD f.nb.toNat .fresh ∧ s1 = s ∧ t1 = t) ∨ (f.nb = 63 ∧ f.xt.getLsbD 0 = true ∧ r = .grid ∧ (s.launchOf t).grid = some b ∧ s1 = s ∧ t1 = t) ∨ (f.nb = 63 ∧ f.xt.getLsbD 0 = false ∧ t.canRead f.c 1 = .ok ⟨⟩ ∧ ∃ p, r = .object (t.uni f.c) p ∧ s.objectPlace t .load (t.uni f.c) = .ok p ∧ p.isRemote = false ∧ p.isDead = false ∧ b = Bar.ofWord (ofBytes (s.readPlace t p 64)) ∧ s.stampLoad t p = (s1, t1)))) ∧
    b.completed (t.uni f.a) = false :=
  ⟨demo, _, grp, _, { eng with a := opd 0 6 0 0, b := .zero, c := opd 1 5 2 0 }, _,
    (.object 0x200600 (.phys 0x200600)), by
    and_intros <;> first | decide +kernel | exact Or.inl rfl | exact Or.inr (Or.inr ⟨rfl, by decide, rfl, .phys 0x200600, rfl, ok_of _ _ (by decide +kernel), rfl, rfl, rfl, rfl⟩) | rfl⟩

theorem witness_BarriersAndPhases_3_3_grid : ∃ (s : State) (s1 : State) (t : Thread) (t1 : Thread) (f : Eng) (b :
    Bar) (r : BarRef),
    s.At t ∧ t.busy = false ∧ t.kept = [] ∧ t.canRead f.a 1 = .ok ⟨⟩ ∧ ((f.b = .zero ∨ t.canRead f.b 1 = .ok ⟨⟩)) ∧
    t.uni f.a < 2 ^ 32 ∧
    (((f.nb ≠ 63 ∧ f.nb.toNat < (s.hdrOf t).nbn ∧ r = .named f.nb.toNat ∧ b = (s.wgOf t).bars.getD f.nb.toNat .fresh ∧ s1 = s ∧ t1 = t) ∨ (f.nb = 63 ∧ f.xt.getLsbD 0 = true ∧ r = .grid ∧ (s.launchOf t).grid = some b ∧ s1 = s ∧ t1 = t) ∨ (f.nb = 63 ∧ f.xt.getLsbD 0 = false ∧ t.canRead f.c 1 = .ok ⟨⟩ ∧ ∃ p, r = .object (t.uni f.c) p ∧ s.objectPlace t .load (t.uni f.c) = .ok p ∧ p.isRemote = false ∧ p.isDead = false ∧ b = Bar.ofWord (ofBytes (s.readPlace t p 64)) ∧ s.stampLoad t p = (s1, t1)))) ∧
    b.completed (t.uni f.a) = false :=
  ⟨{ demo with launches := [(1, { lau with grid := some .fresh })] },
    { demo with launches := [(1, { lau with grid := some .fresh })] }, grp, grp,
    { eng with a := opd 0 6 0 0, b := .zero, xt := 1 }, .fresh, .grid, by
    and_intros <;> first | decide +kernel | exact Or.inl rfl | exact Or.inr (Or.inl ⟨rfl, rfl, rfl, rfl, rfl, rfl⟩) | rfl⟩

theorem witness_BarriersAndPhases_4 : ∃ (s : State) (t : Thread) (f : Eng) (pa : Nat),
    s.At t ∧ t.busy = false ∧ t.canRead f.a 1 = .ok ⟨⟩ ∧ ((f.b = .zero ∨ t.canRead f.b 1 = .ok ⟨⟩)) ∧
    t.uni f.a < 2 ^ 32 ∧ f.nb = 63 ∧ f.xt.getLsbD 0 = false ∧ t.canRead f.c 1 = .ok ⟨⟩ ∧
    s.objectPlace t .load (t.uni f.c) = .ok (.dead pa) :=
  ⟨{ demo with dies := [(0, { lost := true })], wgs := [(1, { wgp with die := 1 })], tlb := [{ part := 0, die := 1, page := 0x20, big := true, pa := 0x200000, r := true, w := true, x := true, mig := false, at_ := 0x30008 }] },
    grp, { eng with a := opd 0 6 0 0, b := .zero, c := opd 1 5 2 0 }, 0x200600, by
    and_intros <;> first | decide +kernel | exact Or.inl rfl | exact ok_of _ _ (by decide +kernel) | rfl⟩

theorem witness_BarriersAndPhases_5 : ∃ (b : Bar) (p : Nat),
    b.phase < 2 ^ 32 ∧ p < 2 ^ 32 :=
  ⟨{ Bar.fresh with phase := 2 ^ 32 - 1 }, 2 ^ 32 - 1, by
    and_intros <;> first | decide +kernel | rfl⟩

theorem witness_BarriersAndPhases_6_1 : ∃ (s : State) (t : Thread) (tid : Nat) (r : BarRef) (p : Nat) (limit : Option
    Nat) (dst : Option Nat),
    s.threads.get? tid = some t ∧ t.status = .waitph r p limit dst ∧ t.kept = [] ∧ s.lost (s.dieOf t) = false ∧
    s.stopped t = false ∧
    ((∀ va pl, r = .object va pl → pl.isRemote = false ∧ pl.isDead = false ∧ s.unpinnedAt t pl = false)) ∧
    (s.barAt t r).completed p = true :=
  ⟨{ demo.of { grp with status := .waitph (.named 7) 0 (some 0) (some 132) } with wgs := [(1, { wgp with bars := [(7, { Bar.fresh with phase := 1 })] })] },
    { grp with status := .waitph (.named 7) 0 (some 0) (some 132) }, 0, (.named 7), 0, (some 0), (some 132), by
    and_intros <;> first | decide +kernel | rfl | (intro va pl h; cases h)⟩

set_option maxRecDepth 20000 in
theorem witness_BarriersAndPhases_6_1_object : ∃ (s : State) (t : Thread) (tid : Nat) (r : BarRef) (p : Nat) (limit :
    Option Nat) (dst : Option Nat),
    s.threads.get? tid = some t ∧ t.status = .waitph r p limit dst ∧ t.kept = [] ∧ s.lost (s.dieOf t) = false ∧
    s.stopped t = false ∧
    ((∀ va pl, r = .object va pl → pl.isRemote = false ∧ pl.isDead = false ∧ s.unpinnedAt t pl = false)) ∧
    (s.barAt t r).completed p = true :=
  ⟨{ demo.of { grp with status := .waitph (.object 0x200600 (.phys 0x200600)) 0 (some 0) (some 132) } with mem := Store.set demoMem 0x200600 1 },
    { grp with status := .waitph (.object 0x200600 (.phys 0x200600)) 0 (some 0) (some 132) }, 0,
    (.object 0x200600 (.phys 0x200600)), 0, (some 0), (some 132), by
    and_intros <;> first | decide +kernel | (intro va pl h; cases h; exact ⟨rfl, rfl, by decide +kernel⟩)⟩

theorem witness_BarriersAndPhases_6_2 : ∃ (s : State) (t : Thread) (tid : Nat) (r : BarRef) (p : Nat) (limit : Option
    Nat) (dst : Option Nat) (k : _),
    s.threads.get? tid = some t ∧ t.status = .waitph r p limit dst ∧ t.kept = [] ∧ s.lost (s.dieOf t) = false ∧
    s.stopped t = false ∧
    ((∀ va pl, r = .object va pl → pl.isRemote = false ∧ pl.isDead = false ∧ s.unpinnedAt t pl = false)) ∧
    limit = some k ∧ k ≤ s.clock.toNat ∧ (s.barAt t r).completed p = false :=
  ⟨(demo.of { grp with status := .waitph (.named 7) 0 (some 0) (some 132) }),
    { grp with status := .waitph (.named 7) 0 (some 0) (some 132) }, 0, (.named 7), 0, (some 0), (some 132), 0, by
    and_intros <;> first | decide +kernel | rfl | (intro va pl h; cases h)⟩

theorem witness_BarriersAndPhases_7 : ∃ (s : State) (t : Thread) (tid : Nat) (p : Nat) (k : Nat) (va : Nat) (pa :
    Nat) (dst : Option Nat),
    s.threads.get? tid = some t ∧ t.status = .waitph (.object va (.dead pa)) p (some k) dst ∧
    s.lost (s.dieOf t) = false ∧ s.stopped t = false ∧ k ≤ s.clock.toNat :=
  ⟨(demo.of { grp with status := .waitph (.object 0x200600 (.dead 0x200600)) 0 (some 0) (some 132) }),
    { grp with status := .waitph (.object 0x200600 (.dead 0x200600)) 0 (some 0) (some 132) }, 0, 0, 0, 0x200600,
    0x200600, (some 132), by
    and_intros <;> first | decide +kernel | rfl | exact ok_of _ _ (by decide +kernel) | exact List.mem_cons_self | (intros; rfl)⟩

theorem witness_BarriersAndPhases_8_1 : ∃ (s : State) (t : Thread) (b : _),
    s.At t ∧ t.busy = false ∧ (s.launchOf t).grid = some b :=
  ⟨{ demo with launches := [(1, { lau with grid := some .fresh })] }, grp, .fresh, by
    and_intros <;> first | decide +kernel | rfl⟩

theorem witness_BarriersAndPhases_8_2 : ∃ (s : State) (t : Thread),
    s.At t ∧ t.busy = false ∧ (s.launchOf t).grid = none :=
  ⟨demo, grp, by
    and_intros <;> first | decide +kernel | rfl⟩

theorem witness_RingsAndFences_1_1 : ∃ (s : State) (t : Thread) (f : Eng) (k : Nat) (stage : Nat) (code : Nat) (j :
    Nat) (b : Nat) (ring : Ring) (s1 : State),
    s.At t ∧ t.busy = false ∧ k = f.xt.toNat % 8 ∧ stage = f.xt.toNat / 8 % 4 ∧ (s.hdrOf t).rings[k]? = some ring ∧
    ring.order[stage]? = some code ∧ (s.wgOf t).full = true ∧ stageRole t.role code = true ∧
     (((t.dwTaken.get? t.at_ = some (4 * k + stage, j, b) ∧ s1 = s) ∨
      ((∀ e, t.dwTaken.get? t.at_ = some e → e.1 ≠ 4 * k + stage) ∧
        (s.wgOf t).cursors.getD (4 * k + stage) (0, 0) = (j, b) ∧ s1 = s.updWg t.wg fun g => { g with cursors := g.cursors.put (4 * k + stage) (if j < ring.slots then (j + 1, b) else (0, 1 - b)) }))) ∧
    s.slotStands t ring j stage b = true :=
  ⟨{ demo.of (grp) with launches := [(1, { lau with hdr := { hdr with rings := [{ nbase := 4, slots := 1, size := 4, order := [1, 3] }] } })] },
    grp, { eng with xt := 0 }, 0, 0, 1, 0, 0, { nbase := 4, slots := 1, size := 4, order := [1, 3] }, _, by
    and_intros <;> first | decide +kernel | rfl | exact Or.inr ⟨fun e h => by (cases h), rfl, rfl⟩⟩

theorem witness_RingsAndFences_1_2 : ∃ (s : State) (t : Thread) (f : Eng) (k : Nat) (stage : Nat) (code : Nat) (j :
    Nat) (b : Nat) (ring : Ring) (s1 : State),
    s.At t ∧ t.busy = false ∧ k = f.xt.toNat % 8 ∧ stage = f.xt.toNat / 8 % 4 ∧ (s.hdrOf t).rings[k]? = some ring ∧
    ring.order[stage]? = some code ∧ (s.wgOf t).full = true ∧ stageRole t.role code = true ∧
     (((t.dwTaken.get? t.at_ = some (4 * k + stage, j, b) ∧ s1 = s) ∨
      ((∀ e, t.dwTaken.get? t.at_ = some e → e.1 ≠ 4 * k + stage) ∧
        (s.wgOf t).cursors.getD (4 * k + stage) (0, 0) = (j, b) ∧ s1 = s.updWg t.wg fun g => { g with cursors := g.cursors.put (4 * k + stage) (if j < ring.slots then (j + 1, b) else (0, 1 - b)) }))) ∧
    s.slotStands t ring j stage b = false :=
  ⟨{ demo.of (grp) with launches := [(1, { lau with hdr := { hdr with rings := [{ nbase := 4, slots := 1, size := 4, order := [1, 3] }] } })], wgs := [(1, { wgp with cursors := [(0, (0, 1))] })] },
    grp, { eng with xt := 0 }, 0, 0, 1, 0, 1, { nbase := 4, slots := 1, size := 4, order := [1, 3] }, _, by
    and_intros <;> first | decide +kernel | rfl | exact Or.inr ⟨fun e h => by (cases h), rfl, rfl⟩⟩

theorem witness_RingsAndFences_2 : ∃ (s : State) (t : Thread) (tid : Nat) (k : Nat) (j : Nat) (b : Nat) (stage : Nat)
    (dst : Nat) (ring : Ring),
    s.threads.get? tid = some t ∧ t.status = .dwacq k j b stage dst ∧ (s.hdrOf t).rings[k]? = some ring ∧
    s.slotStands t ring j stage b = true ∧ s.lost (s.dieOf t) = false :=
  ⟨{ demo.of ({ grp with status := .dwacq 0 0 0 0 132 }) with launches := [(1, { lau with hdr := { hdr with rings := [{ nbase := 4, slots := 1, size := 4, order := [1, 3] }] } })] },
    { grp with status := .dwacq 0 0 0 0 132 }, 0, 0, 0, 0, 0, 132,
    { nbase := 4, slots := 1, size := 4, order := [1, 3] }, by
    and_intros <;> first | decide +kernel | rfl | exact ok_of _ _ (by decide +kernel) | exact List.mem_cons_self | (intros; rfl)⟩

theorem witness_RingsAndFences_3 : ∃ (s : State) (t : Thread) (f : Eng) (o : Nat) (ring : Ring) (j : Nat),
    s.At t ∧ t.busy = false ∧ t.canRead f.a 1 = .ok ⟨⟩ ∧ (s.wgOf t).full = true ∧ t.uni f.a = 0xFFFFFFE000000000 + o ∧
    o < 2 ^ 36 ∧ (s.hdrOf t).slotOfByte o = some (ring, j) ∧
    stageRole t.role (ring.order.getD (((s.wgOf t).bars.getD (ring.nbase + j) .fresh).phase % ring.order.length) 0) = true :=
  ⟨{ demo.of ({ grp with regs := { grp.regs with g := [(1, 0xFFFFFFE000003100)] } }) with launches := [(1, { lau with hdr := { hdr with rings := [{ nbase := 4, slots := 1, size := 4, order := [1, 3] }] } })] },
    { grp with regs := { grp.regs with g := [(1, 0xFFFFFFE000003100)] } }, { eng with a := opd 1 5 1 0 }, 0x3100,
    { nbase := 4, slots := 1, size := 4, order := [1, 3] }, 1, by
    and_intros <;> first | decide +kernel | rfl | exact ok_of _ _ (by decide +kernel) | exact List.mem_cons_self | (intros; rfl)⟩

theorem witness_RingsAndFences_4_1 : ∃ (s : State) (t : Thread),
    s.At t ∧ t.busy = false ∧ t.nmOut = 0 :=
  ⟨demo, grp, by
    and_intros <;> first | decide +kernel | rfl⟩

theorem witness_RingsAndFences_4_2 : ∃ (s : State) (t : Thread),
    s.At t ∧ t.nmOut ≠ 0 :=
  ⟨(demo.of { grp with nmOut := 1 }), { grp with nmOut := 1 }, by
    and_intros <;> first | decide +kernel | rfl⟩

theorem witness_RingsAndFences_4_3 : ∃ (s : State) (t : Thread) (f : Std),
    s.At t ∧ t.pend.any (Pend.within (s.dieOf t) f.op.toNat) = true :=
  ⟨(demo.of { grp with pend := [.store [(.remote 0x80000200600 false, [1])]] }),
    { grp with pend := [.store [(.remote 0x80000200600 false, [1])]] }, { std with op := 4 }, by
    and_intros <;> first | decide +kernel | rfl⟩

theorem witness_RingsAndFences_4_4_2 : ∃ (s : State) (t : Thread) (f : Std),
    s.At t ∧ t.pend.any (Pend.within (s.dieOf t) f.op.toNat) = false ∧ ((t.hung = true → f.op.toNat < 3)) ∧
    s.drainWaits t t.posted.length = false ∧ t.side = .mcc :=
  ⟨(demo.of mgrp), mgrp, std, by
    and_intros <;> first | decide +kernel | rfl⟩

theorem witness_RingsAndFences_4_4_1 : ∃ (s : State) (t : Thread) (f : Std),
    s.At t ∧ t.pend.any (Pend.within (s.dieOf t) f.op.toNat) = false ∧ ((t.hung = true → f.op.toNat < 3)) ∧
    s.drainWaits t t.posted.length = false ∧ t.side ≠ .mcc :=
  ⟨demo, grp, std, by
    and_intros <;> first | decide +kernel | rfl⟩

theorem witness_Atomics_1_1 : ∃ (s : State) (t : Thread) (f : Mem) (i : Instr) (o : AtomOp) (n : Nat),
    s.At t ∧ i ∈ [Instr.atom f, .atomf f, .atomq f] ∧ o = AtomOp.of f ∧ n = tyBits f.xty f.ty / 8 ∧ t.width ≤ 64 ∧
    t.atomReady f = .ok ⟨⟩ ∧ t.active = [] :=
  ⟨(demo.of { grp with regs := { grp.regs with em := 0 } }), { grp with regs := { grp.regs with em := 0 } },
    { mrec with gb := 2 }, (.atom { mrec with gb := 2 }), _, 4, by
    and_intros <;> first | decide +kernel | rfl | exact ok_of _ _ (by decide +kernel) | exact List.mem_cons_self | (intros; rfl)⟩

theorem witness_Atomics_1_2 : ∃ (s : State) (t : Thread) (f : Mem) (i : Instr) (o : AtomOp) (n : Nat) (ps : List (Nat
    × Nat × Place)),
    s.At t ∧ i ∈ [Instr.atom f, .atomf f, .atomq f] ∧ o = AtomOp.of f ∧ n = tyBits f.xty f.ty / 8 ∧ t.width ≤ 64 ∧
    t.atomReady f = .ok ⟨⟩ ∧ t.active ≠ [] ∧
    (s.atomChecked t n false (t.active.map fun i => (i, t.memAddr f i)) = .ok ps) ∧
    ((∀ p ∈ ps, p.2.2.isRemote = false ∧ p.2.2.isDead = false)) ∧ s.slotCheck t ps = .ok ⟨⟩ :=
  ⟨demo, grp, { mrec with gb := 2 }, (.atom { mrec with gb := 2 }), _, 4,
    ((List.range 8).map fun k => (k, 0x200600, .phys 0x200600)), by
    and_intros <;> first | decide +kernel | rfl | exact ok_of _ _ (by decide +kernel) | exact List.mem_cons_self | (intros; rfl)⟩

theorem witness_Atomics_2_1 : ∃ (s : State) (t : Thread) (f : Mem) (o : AtomOp) (n : Nat),
    s.At t ∧ o = AtomOp.of f ∧ n = tyBits f.xty f.ty / 8 ∧ t.busy = false ∧ t.canRead f.a (regsOf o.bits) = .ok ⟨⟩ ∧
    t.canAddr f = .ok ⟨⟩ ∧ t.active = [] :=
  ⟨(demo.of { grp with regs := { grp.regs with em := 0 } }), { grp with regs := { grp.regs with em := 0 } },
    { mrec with gb := 2 }, _, 4, by
    and_intros <;> first | decide +kernel | rfl | exact ok_of _ _ (by decide +kernel) | exact List.mem_cons_self | (intros; rfl)⟩

theorem witness_Atomics_2_2 : ∃ (s : State) (t : Thread) (f : Mem) (o : AtomOp) (n : Nat) (ps : List (Nat × Nat ×
    Place)),
    s.At t ∧ o = AtomOp.of f ∧ n = tyBits f.xty f.ty / 8 ∧ t.busy = false ∧ t.canRead f.a (regsOf o.bits) = .ok ⟨⟩ ∧
    t.canAddr f = .ok ⟨⟩ ∧ t.active ≠ [] ∧
    (s.atomChecked t n false (t.active.map fun i => (i, t.memAddr f i)) = .ok ps) ∧
    ((∀ p ∈ ps, p.2.2.isRemote = false)) :=
  ⟨demo, grp, { mrec with gb := 2 }, _, 4, ((List.range 8).map fun k => (k, 0x200600, .phys 0x200600)), by
    and_intros <;> first | decide +kernel | rfl | exact ok_of _ _ (by decide +kernel) | exact List.mem_cons_self | (intros; rfl)⟩

theorem witness_Atomics_3 : ∃ (o : AtomOp) (old : Nat) (a : Nat),
    o.f32 = false ∧ 0 < o.bits ∧ old < 2 ^ o.bits ∧ a < 2 ^ o.bits :=
  ⟨{ op := 7, bits := 32, signed := false, f32 := false, sat := false }, 4294967295, 0, by
    and_intros <;> first | decide +kernel | rfl⟩

theorem witness_Atomics_4 : ∃ (s : State) (t : Thread) (f : Mem) (o : AtomOp) (n : Nat) (va : Nat) (pa : Nat) (ps :
    List (Nat × Nat × Place)),
    s.At t ∧ o = AtomOp.of f ∧ n = tyBits f.xty f.ty / 8 ∧ t.active ≠ [] ∧ t.width ≤ 64 ∧ t.atomReady f = .ok ⟨⟩ ∧
    s.atomChecked t n true [(0, t.memAddr f 0)] = .ok ps ∧ ps = [(0, va, .phys pa)] :=
  ⟨demo, grp, { mrec with gb := 2 }, _, 4, 0x200600, 0x200600, [(0, 0x200600, .phys 0x200600)], by
    and_intros <;> first | decide +kernel | rfl | exact ok_of _ _ (by decide +kernel) | exact List.mem_cons_self | (intros; rfl)⟩

theorem witness_Atomics_5 : ∃ (s : State) (t : Thread) (f : Mem) (ps : List (Nat × Nat × Place)) (g : Wg),
    s.At t ∧ t.busy = false ∧ s.wgs.get? t.wg = some g ∧ t.canRead f.a 1 = .ok ⟨⟩ ∧ t.canAddr f = .ok ⟨⟩ ∧
    (judge false (t.active.map fun i => (i, t.memAddr f i, s.resolveAtom t .store true 4 i (t.memAddr f i))) = .ok ps) :=
  ⟨demo, grp, { mrec with gb := 2 }, ((List.range 8).map fun k => (k, 0x200600, .phys 0x200600)), wgp, by
    and_intros <;> first | decide +kernel | rfl | exact ok_of _ _ (by decide +kernel) | exact List.mem_cons_self | (intros; rfl)⟩

theorem witness_Atomics_6_1 : ∃ (s : State) (id : Nat) (a : NmAdd) (pa : _),
    s.nmAdds.get? id = some a ∧ s.nmBehind id a = false ∧ a.out = false ∧ s.forwarded a.pa = pa ∧ pkgOf pa = s.pkg ∧
    s.homeLost (inPkg pa) = false ∧ s.moving (inPkg pa) = false ∧ s.poisoned (inPkg pa) = false :=
  ⟨{ demo with nmAdds := [(3, { tid := 0, wg := 1, pa := 0x200600, val := 5, sat := false })] }, 3,
    { tid := 0, wg := 1, pa := 0x200600, val := 5, sat := false }, 0x200600, by
    and_intros <;> first | decide +kernel | rfl⟩

theorem witness_Atomics_6_2 : ∃ (s : State) (id : Nat) (a : NmAdd) (pa : _),
    s.nmAdds.get? id = some a ∧ s.nmBehind id a = false ∧ a.out = false ∧ s.forwarded a.pa = pa ∧ pkgOf pa = s.pkg ∧
    s.homeLost (inPkg pa) = false ∧ s.moving (inPkg pa) = false ∧ s.poisoned (inPkg pa) = true :=
  ⟨{ demo with nmAdds := [(3, { tid := 0, wg := 1, pa := 0x200600, val := 5, sat := false })], poison := [0x400C] },
    3, { tid := 0, wg := 1, pa := 0x200600, val := 5, sat := false }, 0x200600, by
    and_intros <;> first | decide +kernel | rfl⟩

theorem witness_Atomics_6_3 : ∃ (s : State) (id : Nat) (a : NmAdd) (pa : _),
    s.nmAdds.get? id = some a ∧ s.nmBehind id a = false ∧ a.out = false ∧ s.forwarded a.pa = pa ∧ pkgOf pa ≠ s.pkg ∧
    s.reach (pkgOf pa) = .up :=
  ⟨{ afar with nmAdds := [(3, { tid := 0, wg := 1, pa := 0x80000200600, val := 5, sat := false })] }, 3,
    { tid := 0, wg := 1, pa := 0x80000200600, val := 5, sat := false }, 0x80000200600, by
    and_intros <;> first | decide +kernel | rfl⟩

theorem witness_Atomics_6_4 : ∃ (s : State) (id : Nat) (a : NmAdd) (pa : _),
    s.nmAdds.get? id = some a ∧ s.nmBehind id a = false ∧ a.out = false ∧ s.forwarded a.pa = pa ∧ pkgOf pa ≠ s.pkg ∧
    s.reach (pkgOf pa) = .lost :=
  ⟨{ demo with nmAdds := [(3, { tid := 0, wg := 1, pa := 0x80000200600, val := 5, sat := false })] }, 3,
    { tid := 0, wg := 1, pa := 0x80000200600, val := 5, sat := false }, 0x80000200600, by
    and_intros <;> first | decide +kernel | rfl⟩

theorem witness_Atomics_7 : ∃ (s : State) (t : Thread) (tid : Nat) (pid : Nat) (p : Producer),
    s.threads.get? tid = some t ∧ t.prods.get? pid = some p ∧ p.ready = true ∧ p.waiting = 0 ∧
    s.lost (s.dieOf t) = false ∧ ((∀ d ∈ p.homes, s.lost d = false)) :=
  ⟨(demo.of { grp with prods := [(9, { toG := false, reg := 4, n := 1, lanes := 0xFF, vals := [(0, 7)], waiting := 0, ready := true, slot := none })] }),
    { grp with prods := [(9, { toG := false, reg := 4, n := 1, lanes := 0xFF, vals := [(0, 7)], waiting := 0, ready := true, slot := none })] },
    0, 9,
    { toG := false, reg := 4, n := 1, lanes := 0xFF, vals := [(0, 7)], waiting := 0, ready := true, slot := none },
    by
    and_intros <;> first | decide +kernel | rfl⟩

theorem witness_ScalarAndPosting_1_1 : ∃ (s : State) (t : Thread) (f : Scl) (a : W64) (b : W64) (i : _) (r : _),
    s.At t ∧
    ((i = Instr.salu f ∧ a = t.regs.s.get f.s1.toNat ∧ b = t.regs.s.get f.s2.toNat) ∨ (i = Instr.salui f ∧ a = t.regs.s.get f.s1.toNat ∧ b = f.imm.signExtend 64)) ∧
    ((f.fn.toNat, r) ∈ ([(0, a + b), (1, a - b), (2, a * b), (3, a &&& b), (4, a ||| b), (5, a ^^^ b), (6, BitVec.ofNat 64 (if b.toNat < 64 then a.toNat * 2 ^ b.toNat else 0)), (7, BitVec.ofNat 64 (if b.toNat < 64 then a.toNat / 2 ^ b.toNat else 0)), (8, BitVec.ofInt 64 (a.toInt / 2 ^ (min b.toNat 63))), (9, if a.toInt ≤ b.toInt then a else b), (10, if a.toInt ≤ b.toInt then b else a), (11, if a.toNat ≤ b.toNat then a else b), (12, if a.toNat ≤ b.toNat then b else a)] : List (Nat × W64))) :=
  ⟨(demo.of mgrp), mgrp, ⟨0, 3, 1, 2, 0⟩, _, _, _, _, by
    and_intros <;> first | exact Or.inl ⟨rfl, rfl, rfl⟩ | exact List.mem_cons_self | rfl⟩

theorem witness_ScalarAndPosting_1_2 : ∃ (s : State) (t : Thread) (f : Scl) (a : W64) (b : W64) (r : _),
    s.At t ∧ a = t.regs.s.get f.s1.toNat ∧ b = t.regs.s.get f.s2.toNat ∧
    (f.fn.toNat, r) ∈ ([(0, decide (a = b)), (1, decide (a ≠ b)), (2, decide (a.toInt < b.toInt)), (3, decide (a.toInt ≤ b.toInt)), (4, decide (b.toInt < a.toInt)), (5, decide (b.toInt ≤ a.toInt)), (6, decide (a.toNat < b.toNat)), (7, decide (a.toNat ≤ b.toNat)), (8, decide (b.toNat < a.toNat)), (9, decide (b.toNat ≤ a.toNat))] : List (Nat × Bool)) :=
  ⟨(demo.of mgrp), mgrp, ⟨0, 3, 1, 2, 0⟩, _, _, _, by
    and_intros <;> first | rfl | exact List.mem_cons_self⟩

theorem witness_ScalarAndPosting_1_3 : ∃ (s : State) (t : Thread) (f : Scl),
    s.At t ∧ f.fn = 0 :=
  ⟨(demo.of mgrp), mgrp, ⟨0, 3, 1, 2, 0⟩, by
    and_intros <;> first | decide +kernel | rfl⟩

theorem witness_ScalarAndPosting_1_4 : ∃ (s : State) (t : Thread) (f : Scl),
    s.At t ∧ f.fn ≠ 0 :=
  ⟨(demo.of mgrp), mgrp, ⟨1, 3, 1, 2, 0⟩, by
    and_intros <;> first | decide +kernel | rfl⟩

theorem witness_ScalarAndPosting_1_5 : ∃ (s : State) (t : Thread) (f : Scl) (n : _) (v : _),
    s.At t ∧ f.imm.toNat % 256 = n ∧
     (n, v) ∈ ([(0x00, (s.hdrOf t).wid t.gidx (s.wgOf t).ord 0), (0x01, 0), (0x02, t.gidx),
         (0x03, (s.wgOf t).ord), (0x04, match t.role with
           | .any => 0
           | .copy => 1
           | .matrix => 2
           | .vector => 3), (0x05, 1), (0x06, (s.wgOf t).core), (0x07, (s.wgOf t).core / 4), (0x08, (s.wgOf t).die),
         (0x09, s.pkg), (0x0A, (s.launchOf t).part), (0x0B, t.regs.extb), (0x0C, t.regs.stkp), (0x10, s.clock.toNat),
         (0x11, s.time.toNat), (0x20, (s.lease.getD (s.launchOf t).part 0x100000010).toNat), (0x21, t.tcause.toNat),
         (0x22, t.tpc.toNat), (0x23, t.taddr.toNat), (0x24, t.tinfo.toNat),
         (0x25, (s.hr (0x460 + 8 * (s.launchOf t).part)).toNat), (0x26, t.tpte.toNat),
         (0x27, (s.hr (0x480 + 8 * (s.launchOf t).part)).toNat)] : List (Nat × Nat)) ∧
    t.side = .mcc ∧ ((0x21 ≤ n → n ≤ 0x27 → t.handler = true)) :=
  ⟨(demo.of mgrp), mgrp, ⟨0, 3, 0, 0, 2⟩, _, _, by
    and_intros <;> first | rfl | exact List.mem_cons_self | exact .tail _ (.tail _ List.mem_cons_self) | (intro h; exact absurd h (by decide))⟩

theorem witness_ScalarAndPosting_1_6 : ∃ (s : State) (t : Thread) (f : Scl) (n : _),
    s.At t ∧ f.imm.toNat % 256 = n ∧ t.busy = false ∧ ((0x0D ≤ n ∧ n ≤ 0x0F ∨ 0x12 ≤ n ∧ n ≤ 0x1F ∨ 0x28 ≤ n)) :=
  ⟨(demo.of mgrp), mgrp, ⟨0, 3, 0, 0, 0x28⟩, 0x28, by
    and_intros <;> first | decide +kernel | rfl⟩

theorem witness_ScalarAndPosting_1_7 : ∃ (s : State) (t : Thread) (f : Scl),
    s.At t ∧ 0x21 ≤ f.imm.toNat % 256 ∧ f.imm.toNat % 256 ≤ 0x27 ∧ t.busy = false ∧ t.handler = false :=
  ⟨(demo.of mgrp), mgrp, ⟨0, 3, 0, 0, 0x27⟩, by
    and_intros <;> first | decide +kernel | rfl⟩

theorem witness_ScalarAndPosting_2_1 : ∃ (s : State) (t : Thread) (f : Scl) (n : Nat) (p : Place),
    s.At t ∧ t.kept = [] ∧ n = 2 ^ (f.fn.toNat % 4) ∧
    s.sclPlace t .load (t.regs.s.get f.s1.toNat + f.imm.signExtend 64).toNat n = .ok p ∧ p.windowed = none ∧
    p.isRemote = false ∧ p.isDead = false :=
  ⟨(demo.of { mgrp with regs := { mgrp.regs with s := [(1, 0x200600), (2, 9)] } }),
    { mgrp with regs := { mgrp.regs with s := [(1, 0x200600), (2, 9)] } }, ⟨2, 3, 1, 2, 0⟩, 4, (.phys 0x200600), by
    and_intros <;> first | decide +kernel | rfl | exact ok_of _ _ (by decide +kernel) | exact List.mem_cons_self | (intros; rfl)⟩

theorem witness_ScalarAndPosting_2_2 : ∃ (s : State) (t : Thread) (f : Scl) (n : Nat) (p : Place) (parlour : Bool) (o
    : _),
    s.At t ∧ t.kept = [] ∧ n = 2 ^ (f.fn.toNat % 4) ∧
    s.sclPlace t .load (t.regs.s.get f.s1.toNat + f.imm.signExtend 64).toNat n = .ok p ∧
    (p = (if parlour then .parlour o else .scratch o)) :=
  ⟨(demo.of { mgrp with regs := { mgrp.regs with s := [(1, 0xFFFFFFE000000100), (2, 9)] } }),
    { mgrp with regs := { mgrp.regs with s := [(1, 0xFFFFFFE000000100), (2, 9)] } }, ⟨2, 3, 1, 2, 0⟩, 4,
    (.scratch 0x100), false, 0x100, by
    and_intros <;> first | decide +kernel | rfl | exact ok_of _ _ (by decide +kernel) | exact List.mem_cons_self | (intros; rfl)⟩

theorem witness_ScalarAndPosting_3_1 : ∃ (s : State) (t : Thread) (f : Scl) (n : Nat) (p : Place),
    s.At t ∧ n = 2 ^ (f.fn.toNat % 4) ∧
    s.sclPlace t .store (t.regs.s.get f.s1.toNat + f.imm.signExtend 64).toNat n = .ok p ∧ p.windowed.isSome = true :=
  ⟨(demo.of { mgrp with regs := { mgrp.regs with s := [(1, 0xFFFFFFE000000100), (2, 9)] } }),
    { mgrp with regs := { mgrp.regs with s := [(1, 0xFFFFFFE000000100), (2, 9)] } }, ⟨2, 3, 1, 2, 0⟩, 4,
    (.scratch 0x100), by
    and_intros <;> first | decide +kernel | rfl | exact ok_of _ _ (by decide +kernel) | exact List.mem_cons_self | (intros; rfl)⟩

theorem witness_ScalarAndPosting_3_2 : ∃ (s : State) (t : Thread) (f : Scl) (n : Nat) (p : Place),
    s.At t ∧ n = 2 ^ (f.fn.toNat % 4) ∧
    s.sclPlace t .store (t.regs.s.get f.s1.toNat + f.imm.signExtend 64).toNat n = .ok p ∧ p.windowed = none ∧
    p.isRemote = false :=
  ⟨(demo.of { mgrp with regs := { mgrp.regs with s := [(1, 0x200600), (2, 9)] } }),
    { mgrp with regs := { mgrp.regs with s := [(1, 0x200600), (2, 9)] } }, ⟨2, 3, 1, 2, 0⟩, 4, (.phys 0x200600), by
    and_intros <;> first | decide +kernel | rfl | exact ok_of _ _ (by decide +kernel) | exact List.mem_cons_self | (intros; rfl)⟩

theorem witness_ScalarAndPosting_4 : ∃ (s : State) (t : Thread) (tid : Nat) (p : Place) (bs : List Byte) (rest : List
    (Place × List Byte)),
    s.threads.get? tid = some t ∧ t.posted = (p, bs) :: rest ∧ s.unpinnedAt t p = false ∧
    s.lost (s.dieOf t) = false :=
  ⟨(demo.of { mgrp with posted := [(.scratch 0x100, [1])] }), { mgrp with posted := [(.scratch 0x100, [1])] }, 0,
    (.scratch 0x100), [1], [], by
    and_intros <;> first | decide +kernel | rfl⟩

theorem witness_PantryQueries_1_1 : ∃ (s : State) (t : Thread) (f : Eng) (i : Instr) (op : Nat),
    s.At t ∧ t.busy = false ∧ (i, op) ∈ [(Instr.tql f, 0), (.tql2 f, 1), (.tqmul f, 2)] ∧
    t.canWrite f.dst.toNat 1 = .ok ⟨⟩ ∧ t.canRead f.a 1 = .ok ⟨⟩ ∧ ((op = 2 → t.canRead f.b 1 = .ok ⟨⟩)) ∧
    t.active = [] :=
  ⟨(demo.of { grp with regs := { grp.regs with em := 0 } }), { grp with regs := { grp.regs with em := 0 } }, eng,
    (.tql eng), 0, by
    and_intros <;> first | decide +kernel | rfl | exact List.mem_cons_self | (intro h; cases h)⟩

theorem witness_PantryQueries_1_2 : ∃ (s : State) (t : Thread) (f : Eng) (i : Instr) (op : Nat),
    s.At t ∧ t.busy = false ∧ (i, op) ∈ [(Instr.tql f, 0), (.tql2 f, 1), (.tqmul f, 2)] ∧
    t.canWrite f.dst.toNat 1 = .ok ⟨⟩ ∧ t.canRead f.a 1 = .ok ⟨⟩ ∧ ((op = 2 → t.canRead f.b 1 = .ok ⟨⟩)) ∧
    t.active ≠ [] :=
  ⟨demo, grp, { eng with a := opd 1 0 0 2, b := .zero, c := opd 0 0 0 2, dst := 4 },
    (.tql { eng with a := opd 1 0 0 2, b := .zero, c := opd 0 0 0 2, dst := 4 }), 0, by
    and_intros <;> first | decide +kernel | rfl | exact List.mem_cons_self | (intro h; cases h)⟩

theorem witness_PantryQueries_2 : ∃ (s : State) (t : Thread) (tid : Nat) (pid : Nat) (q : Query) (p : Producer),
    s.threads.get? tid = some t ∧ t.queries.get? pid = some q ∧ t.prods.get? pid = some p ∧ p.toG = false ∧ p.n = 1 ∧
    s.lost (s.dieOf t) = false ∧ t.regs.ve.get? p.reg = some pid ∧ q.report < 8 :=
  ⟨{ demo.of { grp with prods := [(9, { toG := false, reg := 4, n := 1, lanes := 0xFF, vals := [], waiting := 0, ready := false, slot := none })], queries := [(9, { op := 0, xt := 0, a := List.replicate 64 5, b := [], report := 2 })], regs := { grp.regs with ve := [(4, 9)] } } with dies := [(0, { image := [(0xFFFFFF000, 1), (0xFFFFFF001, 8)] })], hreg := [(0x140, 0x100)] },
    { grp with prods := [(9, { toG := false, reg := 4, n := 1, lanes := 0xFF, vals := [], waiting := 0, ready := false, slot := none })], queries := [(9, { op := 0, xt := 0, a := List.replicate 64 5, b := [], report := 2 })], regs := { grp.regs with ve := [(4, 9)] } },
    0, 9, { op := 0, xt := 0, a := List.replicate 64 5, b := [], report := 2 },
    { toG := false, reg := 4, n := 1, lanes := 0xFF, vals := [], waiting := 0, ready := false, slot := none }, by
    and_intros <;> first | decide +kernel | rfl⟩

theorem witness_PantryQueries_3_1 : ∃ (s : State) (die : Nat) (q : Query) (d : TableDef) (i : Nat),
    q.op = 0 ∧ s.tableDef die (q.xt % 256) = some d ∧ q.a.getD i 0 < 2 ^ d.log2n ∧
    (s.dies.getD die {}).pantryPoison.contains ((d.base + q.a.getD i 0 * 2 ^ d.esz) / 128) = false :=
  ⟨{ demo with dies := [(0, { image := [(0xFFFFFF000, 1), (0xFFFFFF001, 8)] })], hreg := [(0x140, 0x100)] }, 0,
    { op := 0, xt := 0, a := List.replicate 64 255, b := [], report := 2 },
    { base := 0, log2n := 8, esz := 0, kind := 0 }, 0, by
    and_intros <;> first | decide +kernel | rfl⟩

theorem witness_PantryQueries_3_2 : ∃ (s : State) (die : Nat) (q : Query) (d : TableDef) (i : Nat),
    q.op = 0 ∧ s.tableDef die (q.xt % 256) = some d ∧ 2 ^ d.log2n ≤ q.a.getD i 0 :=
  ⟨{ demo with dies := [(0, { image := [(0xFFFFFF000, 1), (0xFFFFFF001, 8)] })], hreg := [(0x140, 0x100)] }, 0,
    { op := 0, xt := 0, a := List.replicate 64 256, b := [], report := 2 },
    { base := 0, log2n := 8, esz := 0, kind := 0 }, 0, by
    and_intros <;> first | decide +kernel | rfl⟩

theorem witness_PantryQueries_4 : ∃ (s : State) (t : Thread),
    s.At t ∧ t.busy = false :=
  ⟨demo, grp, by
    and_intros <;> first | decide +kernel | rfl⟩

theorem witness_CopiesTakeATicket_1_cpy : ∃ (s : State) (t : Thread) (f : Eng) (i : Instr) (kind : OpKind) (a : Nat)
    (b : Nat) (c : Nat) (h : Nat) (args : List Nat) (spans : List (Nat × Nat)) (held : List (Nat × Nat)),
    s.At t ∧ t.busy = false ∧ t.canRead f.a 1 = .ok ⟨⟩ ∧ t.canRead f.b 1 = .ok ⟨⟩ ∧
    ((f.nb = 63 ∨ f.nb.toNat < (s.hdrOf t).nbn)) ∧ a = t.uni f.a ∧ b = t.uni f.b ∧ c = t.uni f.c ∧ h = t.pairHi f.c ∧
    ((∀ r ∈ spans, s.rangeOk t r.1 r.2 = true)) ∧
    ((held = spans ∨ kind = .cpeat ∧ held = [(a, 16384), (b, s.peatHeld t b)])) ∧
    (((i = .cpy f ∧ kind = .cpy ∧ args = [a, b, c] ∧ t.canRead f.c 1 = .ok ⟨⟩ ∧ 1 ≤ c ∧ c ≤ 2 ^ 40 ∧ spans = [(a, c), (b, c)]) ∨ (i = .cpfill f ∧ kind = .cpfill ∧ args = [a, b, c] ∧ t.canRead f.c 1 = .ok ⟨⟩ ∧ 1 ≤ c ∧ c ≤ 2 ^ 40 ∧ c % 2 ^ (f.xt.toNat % 4) = 0 ∧ a % 2 ^ (f.xt.toNat % 4) = 0 ∧ spans = [(a, c)]) ∨ (i = .cpy2d f ∧ kind = .cpy2d ∧ args = [a, b, c, h] ∧ t.canReadPair f.c = .ok ⟨⟩ ∧ c % 2 ^ 32 ≠ 0 ∧ c / 2 ^ 32 ≠ 0 ∧ c % 2 ^ 32 * (c / 2 ^ 32) ≤ 2 ^ 40 ∧ spans = [(a, (c / 2 ^ 32 - 1) * (h % 2 ^ 32) + c % 2 ^ 32), (b, (c / 2 ^ 32 - 1) * (h / 2 ^ 32) + c % 2 ^ 32)]) ∨ (i = .cpypl f ∧ kind = .cpypl ∧ args = [a, b, c, h] ∧ t.canReadPair f.c = .ok ⟨⟩ ∧ c % 2 ^ 16 % 32 = 0 ∧ 32 ≤ c % 2 ^ 16 ∧ c % 2 ^ 16 ≤ 4096 ∧ (plForm f.ty.toNat f.xt.toNat).scaleOk h = true ∧ a % 256 = 0 ∧ (aperture a).1 = .scratch ∧ spans = [(a, tileSize (plForm f.ty.toNat f.xt.toNat) (c % 2 ^ 16) (h != 0)), (b, 63 * (c / 2 ^ 32) + c % 2 ^ 16 * (plForm f.ty.toNat f.xt.toNat).w / 8)] ++ (if h = 0 then [] else [(h, 64 * (c % 2 ^ 16 / 32) * (plForm f.ty.toNat f.xt.toNat).scaleBytes)])) ∨ (i = .cpeat f ∧ kind = .cpeat ∧ args = [a, b] ∧ a % 256 = 0 ∧ b % 64 = 0 ∧ (aperture a).1 = .scratch ∧ spans = [(a, 16384), (b, 64)] ∧ held = [(a, 16384), (b, s.peatHeld t b)]) ∨ (i = .cpack f ∧ kind = .cpack ∧ args = [a, b, c, h] ∧ t.canReadPair f.c = .ok ⟨⟩ ∧ c < 2 ^ 16 ∧ 1 ≤ c % 256 ∧ c % 256 ≤ 64 ∧ a % 64 = 0 ∧ b % 256 = 0 ∧ (aperture b).1 = .scratch ∧ spans = [(a, if f.ty.toNat = 14 then 9024 else 4928), (b, 16384)]) ∨ (i = .psel f ∧ kind = .psel ∧ args = [a, b, c, h] ∧ t.canReadPair f.c = .ok ⟨⟩ ∧ c < 2 ^ 41 ∧ 1 ≤ c % 2 ^ 32 ∧ c % 2 ^ 32 ≤ 65536 ∧ 1 ≤ c / 2 ^ 32 % 2 ^ 8 ∧ c / 2 ^ 32 % 2 ^ 8 ≤ 64 ∧ b % 8 = 0 ∧ h % 256 = 0 ∧ (aperture a).1 = .scratch ∧ (aperture h).1 = .scratch ∧ spans = [(a, 512 + if c / 2 ^ 40 % 2 = 1 then 16384 * (c / 2 ^ 32 % 2 ^ 8) else 0), (b, 8 * (c % 2 ^ 32)), (h, 256)]))) ∧
    (s.cores.getD (s.coreOf t) {}).freeTickets ≠ [] :=
  ⟨(demo.of (egrp [(1, 0xFFFFFFE000000100), (2, 0xFFFFFFE000004000), (4, 0x80), (5, 0x0)])),
    (egrp [(1, 0xFFFFFFE000000100), (2, 0xFFFFFFE000004000), (4, 0x80), (5, 0x0)]),
    { eng with a := opd 1 5 1 0, b := opd 1 5 2 0, c := opd 1 5 4 0 },
    (.cpy { eng with a := opd 1 5 1 0, b := opd 1 5 2 0, c := opd 1 5 4 0 }), .cpy, 0xFFFFFFE000000100,
    0xFFFFFFE000004000, 0x80, 0x0, [0xFFFFFFE000000100, 0xFFFFFFE000004000, 0x80],
    [(0xFFFFFFE000000100, 128), (0xFFFFFFE000004000, 128)], [(0xFFFFFFE000000100, 128), (0xFFFFFFE000004000, 128)],
    by
    and_intros <;> first
      | decide +kernel | exact ok_of _ _ (by decide +kernel) | rfl | exact Or.inl rfl
      | exact Or.inl (by and_intros <;> first | decide +kernel | rfl | (intro h; exact absurd h (by decide +kernel)))⟩

theorem witness_CopiesTakeATicket_1_cpfill : ∃ (s : State) (t : Thread) (f : Eng) (i : Instr) (kind : OpKind) (a :
    Nat) (b : Nat) (c : Nat) (h : Nat) (args : List Nat) (spans : List (Nat × Nat)) (held : List (Nat × Nat)),
    s.At t ∧ t.busy = false ∧ t.canRead f.a 1 = .ok ⟨⟩ ∧ t.canRead f.b 1 = .ok ⟨⟩ ∧
    ((f.nb = 63 ∨ f.nb.toNat < (s.hdrOf t).nbn)) ∧ a = t.uni f.a ∧ b = t.uni f.b ∧ c = t.uni f.c ∧ h = t.pairHi f.c ∧
    ((∀ r ∈ spans, s.rangeOk t r.1 r.2 = true)) ∧
    ((held = spans ∨ kind = .cpeat ∧ held = [(a, 16384), (b, s.peatHeld t b)])) ∧
    (((i = .cpy f ∧ kind = .cpy ∧ args = [a, b, c] ∧ t.canRead f.c 1 = .ok ⟨⟩ ∧ 1 ≤ c ∧ c ≤ 2 ^ 40 ∧ spans = [(a, c), (b, c)]) ∨ (i = .cpfill f ∧ kind = .cpfill ∧ args = [a, b, c] ∧ t.canRead f.c 1 = .ok ⟨⟩ ∧ 1 ≤ c ∧ c ≤ 2 ^ 40 ∧ c % 2 ^ (f.xt.toNat % 4) = 0 ∧ a % 2 ^ (f.xt.toNat % 4) = 0 ∧ spans = [(a, c)]) ∨ (i = .cpy2d f ∧ kind = .cpy2d ∧ args = [a, b, c, h] ∧ t.canReadPair f.c = .ok ⟨⟩ ∧ c % 2 ^ 32 ≠ 0 ∧ c / 2 ^ 32 ≠ 0 ∧ c % 2 ^ 32 * (c / 2 ^ 32) ≤ 2 ^ 40 ∧ spans = [(a, (c / 2 ^ 32 - 1) * (h % 2 ^ 32) + c % 2 ^ 32), (b, (c / 2 ^ 32 - 1) * (h / 2 ^ 32) + c % 2 ^ 32)]) ∨ (i = .cpypl f ∧ kind = .cpypl ∧ args = [a, b, c, h] ∧ t.canReadPair f.c = .ok ⟨⟩ ∧ c % 2 ^ 16 % 32 = 0 ∧ 32 ≤ c % 2 ^ 16 ∧ c % 2 ^ 16 ≤ 4096 ∧ (plForm f.ty.toNat f.xt.toNat).scaleOk h = true ∧ a % 256 = 0 ∧ (aperture a).1 = .scratch ∧ spans = [(a, tileSize (plForm f.ty.toNat f.xt.toNat) (c % 2 ^ 16) (h != 0)), (b, 63 * (c / 2 ^ 32) + c % 2 ^ 16 * (plForm f.ty.toNat f.xt.toNat).w / 8)] ++ (if h = 0 then [] else [(h, 64 * (c % 2 ^ 16 / 32) * (plForm f.ty.toNat f.xt.toNat).scaleBytes)])) ∨ (i = .cpeat f ∧ kind = .cpeat ∧ args = [a, b] ∧ a % 256 = 0 ∧ b % 64 = 0 ∧ (aperture a).1 = .scratch ∧ spans = [(a, 16384), (b, 64)] ∧ held = [(a, 16384), (b, s.peatHeld t b)]) ∨ (i = .cpack f ∧ kind = .cpack ∧ args = [a, b, c, h] ∧ t.canReadPair f.c = .ok ⟨⟩ ∧ c < 2 ^ 16 ∧ 1 ≤ c % 256 ∧ c % 256 ≤ 64 ∧ a % 64 = 0 ∧ b % 256 = 0 ∧ (aperture b).1 = .scratch ∧ spans = [(a, if f.ty.toNat = 14 then 9024 else 4928), (b, 16384)]) ∨ (i = .psel f ∧ kind = .psel ∧ args = [a, b, c, h] ∧ t.canReadPair f.c = .ok ⟨⟩ ∧ c < 2 ^ 41 ∧ 1 ≤ c % 2 ^ 32 ∧ c % 2 ^ 32 ≤ 65536 ∧ 1 ≤ c / 2 ^ 32 % 2 ^ 8 ∧ c / 2 ^ 32 % 2 ^ 8 ≤ 64 ∧ b % 8 = 0 ∧ h % 256 = 0 ∧ (aperture a).1 = .scratch ∧ (aperture h).1 = .scratch ∧ spans = [(a, 512 + if c / 2 ^ 40 % 2 = 1 then 16384 * (c / 2 ^ 32 % 2 ^ 8) else 0), (b, 8 * (c % 2 ^ 32)), (h, 256)]))) ∧
    (s.cores.getD (s.coreOf t) {}).freeTickets ≠ [] :=
  ⟨(demo.of (egrp [(1, 0xFFFFFFE000000100), (2, 0x7), (4, 0x80), (5, 0x0)])),
    (egrp [(1, 0xFFFFFFE000000100), (2, 0x7), (4, 0x80), (5, 0x0)]),
    { eng with a := opd 1 5 1 0, b := opd 1 5 2 0, c := opd 1 5 4 0 },
    (.cpfill { eng with a := opd 1 5 1 0, b := opd 1 5 2 0, c := opd 1 5 4 0 }), .cpfill, 0xFFFFFFE000000100, 0x7,
    0x80, 0x0, [0xFFFFFFE000000100, 0x7, 0x80], [(0xFFFFFFE000000100, 128)], [(0xFFFFFFE000000100, 128)], by
    and_intros <;> first
      | decide +kernel | exact ok_of _ _ (by decide +kernel) | rfl | exact Or.inl rfl
      | exact Or.inr (Or.inl (by and_intros <;> first | decide +kernel | rfl | (intro h; exact absurd h (by decide +kernel))))⟩

theorem witness_CopiesTakeATicket_1_cpy2d : ∃ (s : State) (t : Thread) (f : Eng) (i : Instr) (kind : OpKind) (a :
    Nat) (b : Nat) (c : Nat) (h : Nat) (args : List Nat) (spans : List (Nat × Nat)) (held : List (Nat × Nat)),
    s.At t ∧ t.busy = false ∧ t.canRead f.a 1 = .ok ⟨⟩ ∧ t.canRead f.b 1 = .ok ⟨⟩ ∧
    ((f.nb = 63 ∨ f.nb.toNat < (s.hdrOf t).nbn)) ∧ a = t.uni f.a ∧ b = t.uni f.b ∧ c = t.uni f.c ∧ h = t.pairHi f.c ∧
    ((∀ r ∈ spans, s.rangeOk t r.1 r.2 = true)) ∧
    ((held = spans ∨ kind = .cpeat ∧ held = [(a, 16384), (b, s.peatHeld t b)])) ∧
    (((i = .cpy f ∧ kind = .cpy ∧ args = [a, b, c] ∧ t.canRead f.c 1 = .ok ⟨⟩ ∧ 1 ≤ c ∧ c ≤ 2 ^ 40 ∧ spans = [(a, c), (b, c)]) ∨ (i = .cpfill f ∧ kind = .cpfill ∧ args = [a, b, c] ∧ t.canRead f.c 1 = .ok ⟨⟩ ∧ 1 ≤ c ∧ c ≤ 2 ^ 40 ∧ c % 2 ^ (f.xt.toNat % 4) = 0 ∧ a % 2 ^ (f.xt.toNat % 4) = 0 ∧ spans = [(a, c)]) ∨ (i = .cpy2d f ∧ kind = .cpy2d ∧ args = [a, b, c, h] ∧ t.canReadPair f.c = .ok ⟨⟩ ∧ c % 2 ^ 32 ≠ 0 ∧ c / 2 ^ 32 ≠ 0 ∧ c % 2 ^ 32 * (c / 2 ^ 32) ≤ 2 ^ 40 ∧ spans = [(a, (c / 2 ^ 32 - 1) * (h % 2 ^ 32) + c % 2 ^ 32), (b, (c / 2 ^ 32 - 1) * (h / 2 ^ 32) + c % 2 ^ 32)]) ∨ (i = .cpypl f ∧ kind = .cpypl ∧ args = [a, b, c, h] ∧ t.canReadPair f.c = .ok ⟨⟩ ∧ c % 2 ^ 16 % 32 = 0 ∧ 32 ≤ c % 2 ^ 16 ∧ c % 2 ^ 16 ≤ 4096 ∧ (plForm f.ty.toNat f.xt.toNat).scaleOk h = true ∧ a % 256 = 0 ∧ (aperture a).1 = .scratch ∧ spans = [(a, tileSize (plForm f.ty.toNat f.xt.toNat) (c % 2 ^ 16) (h != 0)), (b, 63 * (c / 2 ^ 32) + c % 2 ^ 16 * (plForm f.ty.toNat f.xt.toNat).w / 8)] ++ (if h = 0 then [] else [(h, 64 * (c % 2 ^ 16 / 32) * (plForm f.ty.toNat f.xt.toNat).scaleBytes)])) ∨ (i = .cpeat f ∧ kind = .cpeat ∧ args = [a, b] ∧ a % 256 = 0 ∧ b % 64 = 0 ∧ (aperture a).1 = .scratch ∧ spans = [(a, 16384), (b, 64)] ∧ held = [(a, 16384), (b, s.peatHeld t b)]) ∨ (i = .cpack f ∧ kind = .cpack ∧ args = [a, b, c, h] ∧ t.canReadPair f.c = .ok ⟨⟩ ∧ c < 2 ^ 16 ∧ 1 ≤ c % 256 ∧ c % 256 ≤ 64 ∧ a % 64 = 0 ∧ b % 256 = 0 ∧ (aperture b).1 = .scratch ∧ spans = [(a, if f.ty.toNat = 14 then 9024 else 4928), (b, 16384)]) ∨ (i = .psel f ∧ kind = .psel ∧ args = [a, b, c, h] ∧ t.canReadPair f.c = .ok ⟨⟩ ∧ c < 2 ^ 41 ∧ 1 ≤ c % 2 ^ 32 ∧ c % 2 ^ 32 ≤ 65536 ∧ 1 ≤ c / 2 ^ 32 % 2 ^ 8 ∧ c / 2 ^ 32 % 2 ^ 8 ≤ 64 ∧ b % 8 = 0 ∧ h % 256 = 0 ∧ (aperture a).1 = .scratch ∧ (aperture h).1 = .scratch ∧ spans = [(a, 512 + if c / 2 ^ 40 % 2 = 1 then 16384 * (c / 2 ^ 32 % 2 ^ 8) else 0), (b, 8 * (c % 2 ^ 32)), (h, 256)]))) ∧
    (s.cores.getD (s.coreOf t) {}).freeTickets ≠ [] :=
  ⟨(demo.of (egrp [(1, 0xFFFFFFE000000100), (2, 0xFFFFFFE000001000), (4, 0x400000010), (5, 0x4000000020)])),
    (egrp [(1, 0xFFFFFFE000000100), (2, 0xFFFFFFE000001000), (4, 0x400000010), (5, 0x4000000020)]),
    { eng with a := opd 1 5 1 0, b := opd 1 5 2 0, c := opd 1 5 4 0 },
    (.cpy2d { eng with a := opd 1 5 1 0, b := opd 1 5 2 0, c := opd 1 5 4 0 }), .cpy2d, 0xFFFFFFE000000100,
    0xFFFFFFE000001000, 0x400000010, 0x4000000020,
    [0xFFFFFFE000000100, 0xFFFFFFE000001000, 0x400000010, 0x4000000020],
    [(0xFFFFFFE000000100, 112), (0xFFFFFFE000001000, 208)], [(0xFFFFFFE000000100, 112), (0xFFFFFFE000001000, 208)],
    by
    and_intros <;> first
      | decide +kernel | exact ok_of _ _ (by decide +kernel) | rfl | exact Or.inl rfl
      | exact Or.inr (Or.inr (Or.inl (by and_intros <;> first | decide +kernel | rfl | (intro h; exact absurd h (by decide +kernel)))))⟩

theorem witness_CopiesTakeATicket_1_cpypl : ∃ (s : State) (t : Thread) (f : Eng) (i : Instr) (kind : OpKind) (a :
    Nat) (b : Nat) (c : Nat) (h : Nat) (args : List Nat) (spans : List (Nat × Nat)) (held : List (Nat × Nat)),
    s.At t ∧ t.busy = false ∧ t.canRead f.a 1 = .ok ⟨⟩ ∧ t.canRead f.b 1 = .ok ⟨⟩ ∧
    ((f.nb = 63 ∨ f.nb.toNat < (s.hdrOf t).nbn)) ∧ a = t.uni f.a ∧ b = t.uni f.b ∧ c = t.uni f.c ∧ h = t.pairHi f.c ∧
    ((∀ r ∈ spans, s.rangeOk t r.1 r.2 = true)) ∧
    ((held = spans ∨ kind = .cpeat ∧ held = [(a, 16384), (b, s.peatHeld t b)])) ∧
    (((i = .cpy f ∧ kind = .cpy ∧ args = [a, b, c] ∧ t.canRead f.c 1 = .ok ⟨⟩ ∧ 1 ≤ c ∧ c ≤ 2 ^ 40 ∧ spans = [(a, c), (b, c)]) ∨ (i = .cpfill f ∧ kind = .cpfill ∧ args = [a, b, c] ∧ t.canRead f.c 1 = .ok ⟨⟩ ∧ 1 ≤ c ∧ c ≤ 2 ^ 40 ∧ c % 2 ^ (f.xt.toNat % 4) = 0 ∧ a % 2 ^ (f.xt.toNat % 4) = 0 ∧ spans = [(a, c)]) ∨ (i = .cpy2d f ∧ kind = .cpy2d ∧ args = [a, b, c, h] ∧ t.canReadPair f.c = .ok ⟨⟩ ∧ c % 2 ^ 32 ≠ 0 ∧ c / 2 ^ 32 ≠ 0 ∧ c % 2 ^ 32 * (c / 2 ^ 32) ≤ 2 ^ 40 ∧ spans = [(a, (c / 2 ^ 32 - 1) * (h % 2 ^ 32) + c % 2 ^ 32), (b, (c / 2 ^ 32 - 1) * (h / 2 ^ 32) + c % 2 ^ 32)]) ∨ (i = .cpypl f ∧ kind = .cpypl ∧ args = [a, b, c, h] ∧ t.canReadPair f.c = .ok ⟨⟩ ∧ c % 2 ^ 16 % 32 = 0 ∧ 32 ≤ c % 2 ^ 16 ∧ c % 2 ^ 16 ≤ 4096 ∧ (plForm f.ty.toNat f.xt.toNat).scaleOk h = true ∧ a % 256 = 0 ∧ (aperture a).1 = .scratch ∧ spans = [(a, tileSize (plForm f.ty.toNat f.xt.toNat) (c % 2 ^ 16) (h != 0)), (b, 63 * (c / 2 ^ 32) + c % 2 ^ 16 * (plForm f.ty.toNat f.xt.toNat).w / 8)] ++ (if h = 0 then [] else [(h, 64 * (c % 2 ^ 16 / 32) * (plForm f.ty.toNat f.xt.toNat).scaleBytes)])) ∨ (i = .cpeat f ∧ kind = .cpeat ∧ args = [a, b] ∧ a % 256 = 0 ∧ b % 64 = 0 ∧ (aperture a).1 = .scratch ∧ spans = [(a, 16384), (b, 64)] ∧ held = [(a, 16384), (b, s.peatHeld t b)]) ∨ (i = .cpack f ∧ kind = .cpack ∧ args = [a, b, c, h] ∧ t.canReadPair f.c = .ok ⟨⟩ ∧ c < 2 ^ 16 ∧ 1 ≤ c % 256 ∧ c % 256 ≤ 64 ∧ a % 64 = 0 ∧ b % 256 = 0 ∧ (aperture b).1 = .scratch ∧ spans = [(a, if f.ty.toNat = 14 then 9024 else 4928), (b, 16384)]) ∨ (i = .psel f ∧ kind = .psel ∧ args = [a, b, c, h] ∧ t.canReadPair f.c = .ok ⟨⟩ ∧ c < 2 ^ 41 ∧ 1 ≤ c % 2 ^ 32 ∧ c % 2 ^ 32 ≤ 65536 ∧ 1 ≤ c / 2 ^ 32 % 2 ^ 8 ∧ c / 2 ^ 32 % 2 ^ 8 ≤ 64 ∧ b % 8 = 0 ∧ h % 256 = 0 ∧ (aperture a).1 = .scratch ∧ (aperture h).1 = .scratch ∧ spans = [(a, 512 + if c / 2 ^ 40 % 2 = 1 then 16384 * (c / 2 ^ 32 % 2 ^ 8) else 0), (b, 8 * (c % 2 ^ 32)), (h, 256)]))) ∧
    (s.cores.getD (s.coreOf t) {}).freeTickets ≠ [] :=
  ⟨(demo.of (egrp [(1, 0xFFFFFFE000000100), (2, 0xFFFFFFE000004000), (4, 0x4000000020), (5, 0x0)])),
    (egrp [(1, 0xFFFFFFE000000100), (2, 0xFFFFFFE000004000), (4, 0x4000000020), (5, 0x0)]),
    { eng with ty := 4, xt := 0, a := opd 1 5 1 0, b := opd 1 5 2 0, c := opd 1 5 4 0 },
    (.cpypl { eng with ty := 4, xt := 0, a := opd 1 5 1 0, b := opd 1 5 2 0, c := opd 1 5 4 0 }), .cpypl,
    0xFFFFFFE000000100, 0xFFFFFFE000004000, 0x4000000020, 0x0,
    [0xFFFFFFE000000100, 0xFFFFFFE000004000, 0x4000000020, 0x0],
    [(0xFFFFFFE000000100, tileSize (plForm 4 0) 32 false), (0xFFFFFFE000004000, 63 * 64 + 32 * (plForm 4 0).w / 8)],
    [(0xFFFFFFE000000100, tileSize (plForm 4 0) 32 false), (0xFFFFFFE000004000, 63 * 64 + 32 * (plForm 4 0).w / 8)],
    by
    and_intros <;> first
      | decide +kernel | exact ok_of _ _ (by decide +kernel) | rfl | exact Or.inl rfl
      | exact Or.inr (Or.inr (Or.inr (Or.inl (by and_intros <;> first | decide +kernel | rfl | (intro h; exact absurd h (by decide +kernel))))))⟩

theorem witness_CopiesTakeATicket_1_cpeat : ∃ (s : State) (t : Thread) (f : Eng) (i : Instr) (kind : OpKind) (a :
    Nat) (b : Nat) (c : Nat) (h : Nat) (args : List Nat) (spans : List (Nat × Nat)) (held : List (Nat × Nat)),
    s.At t ∧ t.busy = false ∧ t.canRead f.a 1 = .ok ⟨⟩ ∧ t.canRead f.b 1 = .ok ⟨⟩ ∧
    ((f.nb = 63 ∨ f.nb.toNat < (s.hdrOf t).nbn)) ∧ a = t.uni f.a ∧ b = t.uni f.b ∧ c = t.uni f.c ∧ h = t.pairHi f.c ∧
    ((∀ r ∈ spans, s.rangeOk t r.1 r.2 = true)) ∧
    ((held = spans ∨ kind = .cpeat ∧ held = [(a, 16384), (b, s.peatHeld t b)])) ∧
    (((i = .cpy f ∧ kind = .cpy ∧ args = [a, b, c] ∧ t.canRead f.c 1 = .ok ⟨⟩ ∧ 1 ≤ c ∧ c ≤ 2 ^ 40 ∧ spans = [(a, c), (b, c)]) ∨ (i = .cpfill f ∧ kind = .cpfill ∧ args = [a, b, c] ∧ t.canRead f.c 1 = .ok ⟨⟩ ∧ 1 ≤ c ∧ c ≤ 2 ^ 40 ∧ c % 2 ^ (f.xt.toNat % 4) = 0 ∧ a % 2 ^ (f.xt.toNat % 4) = 0 ∧ spans = [(a, c)]) ∨ (i = .cpy2d f ∧ kind = .cpy2d ∧ args = [a, b, c, h] ∧ t.canReadPair f.c = .ok ⟨⟩ ∧ c % 2 ^ 32 ≠ 0 ∧ c / 2 ^ 32 ≠ 0 ∧ c % 2 ^ 32 * (c / 2 ^ 32) ≤ 2 ^ 40 ∧ spans = [(a, (c / 2 ^ 32 - 1) * (h % 2 ^ 32) + c % 2 ^ 32), (b, (c / 2 ^ 32 - 1) * (h / 2 ^ 32) + c % 2 ^ 32)]) ∨ (i = .cpypl f ∧ kind = .cpypl ∧ args = [a, b, c, h] ∧ t.canReadPair f.c = .ok ⟨⟩ ∧ c % 2 ^ 16 % 32 = 0 ∧ 32 ≤ c % 2 ^ 16 ∧ c % 2 ^ 16 ≤ 4096 ∧ (plForm f.ty.toNat f.xt.toNat).scaleOk h = true ∧ a % 256 = 0 ∧ (aperture a).1 = .scratch ∧ spans = [(a, tileSize (plForm f.ty.toNat f.xt.toNat) (c % 2 ^ 16) (h != 0)), (b, 63 * (c / 2 ^ 32) + c % 2 ^ 16 * (plForm f.ty.toNat f.xt.toNat).w / 8)] ++ (if h = 0 then [] else [(h, 64 * (c % 2 ^ 16 / 32) * (plForm f.ty.toNat f.xt.toNat).scaleBytes)])) ∨ (i = .cpeat f ∧ kind = .cpeat ∧ args = [a, b] ∧ a % 256 = 0 ∧ b % 64 = 0 ∧ (aperture a).1 = .scratch ∧ spans = [(a, 16384), (b, 64)] ∧ held = [(a, 16384), (b, s.peatHeld t b)]) ∨ (i = .cpack f ∧ kind = .cpack ∧ args = [a, b, c, h] ∧ t.canReadPair f.c = .ok ⟨⟩ ∧ c < 2 ^ 16 ∧ 1 ≤ c % 256 ∧ c % 256 ≤ 64 ∧ a % 64 = 0 ∧ b % 256 = 0 ∧ (aperture b).1 = .scratch ∧ spans = [(a, if f.ty.toNat = 14 then 9024 else 4928), (b, 16384)]) ∨ (i = .psel f ∧ kind = .psel ∧ args = [a, b, c, h] ∧ t.canReadPair f.c = .ok ⟨⟩ ∧ c < 2 ^ 41 ∧ 1 ≤ c % 2 ^ 32 ∧ c % 2 ^ 32 ≤ 65536 ∧ 1 ≤ c / 2 ^ 32 % 2 ^ 8 ∧ c / 2 ^ 32 % 2 ^ 8 ≤ 64 ∧ b % 8 = 0 ∧ h % 256 = 0 ∧ (aperture a).1 = .scratch ∧ (aperture h).1 = .scratch ∧ spans = [(a, 512 + if c / 2 ^ 40 % 2 = 1 then 16384 * (c / 2 ^ 32 % 2 ^ 8) else 0), (b, 8 * (c % 2 ^ 32)), (h, 256)]))) ∧
    (s.cores.getD (s.coreOf t) {}).freeTickets ≠ [] :=
  ⟨(demo.of (egrp [(1, 0xFFFFFFE000000100), (2, 0xFFFFFFE000004000), (4, 0x0), (5, 0x0)])),
    (egrp [(1, 0xFFFFFFE000000100), (2, 0xFFFFFFE000004000), (4, 0x0), (5, 0x0)]),
    { eng with a := opd 1 5 1 0, b := opd 1 5 2 0, c := opd 1 5 4 0 },
    (.cpeat { eng with a := opd 1 5 1 0, b := opd 1 5 2 0, c := opd 1 5 4 0 }), .cpeat, 0xFFFFFFE000000100,
    0xFFFFFFE000004000, 0x0, 0x0, [0xFFFFFFE000000100, 0xFFFFFFE000004000],
    [(0xFFFFFFE000000100, 16384), (0xFFFFFFE000004000, 64)],
    [(0xFFFFFFE000000100, 16384), (0xFFFFFFE000004000, 9024)], by
    and_intros <;> first
      | decide +kernel | exact ok_of _ _ (by decide +kernel) | rfl | exact Or.inl rfl
      | exact Or.inr (Or.inr (Or.inr (Or.inr (Or.inl (by and_intros <;> first | decide +kernel | rfl | (intro h; exact absurd h (by decide +kernel))))))) | exact Or.inr ⟨rfl, rfl⟩⟩

theorem witness_CopiesTakeATicket_1_cpack : ∃ (s : State) (t : Thread) (f : Eng) (i : Instr) (kind : OpKind) (a :
    Nat) (b : Nat) (c : Nat) (h : Nat) (args : List Nat) (spans : List (Nat × Nat)) (held : List (Nat × Nat)),
    s.At t ∧ t.busy = false ∧ t.canRead f.a 1 = .ok ⟨⟩ ∧ t.canRead f.b 1 = .ok ⟨⟩ ∧
    ((f.nb = 63 ∨ f.nb.toNat < (s.hdrOf t).nbn)) ∧ a = t.uni f.a ∧ b = t.uni f.b ∧ c = t.uni f.c ∧ h = t.pairHi f.c ∧
    ((∀ r ∈ spans, s.rangeOk t r.1 r.2 = true)) ∧
    ((held = spans ∨ kind = .cpeat ∧ held = [(a, 16384), (b, s.peatHeld t b)])) ∧
    (((i = .cpy f ∧ kind = .cpy ∧ args = [a, b, c] ∧ t.canRead f.c 1 = .ok ⟨⟩ ∧ 1 ≤ c ∧ c ≤ 2 ^ 40 ∧ spans = [(a, c), (b, c)]) ∨ (i = .cpfill f ∧ kind = .cpfill ∧ args = [a, b, c] ∧ t.canRead f.c 1 = .ok ⟨⟩ ∧ 1 ≤ c ∧ c ≤ 2 ^ 40 ∧ c % 2 ^ (f.xt.toNat % 4) = 0 ∧ a % 2 ^ (f.xt.toNat % 4) = 0 ∧ spans = [(a, c)]) ∨ (i = .cpy2d f ∧ kind = .cpy2d ∧ args = [a, b, c, h] ∧ t.canReadPair f.c = .ok ⟨⟩ ∧ c % 2 ^ 32 ≠ 0 ∧ c / 2 ^ 32 ≠ 0 ∧ c % 2 ^ 32 * (c / 2 ^ 32) ≤ 2 ^ 40 ∧ spans = [(a, (c / 2 ^ 32 - 1) * (h % 2 ^ 32) + c % 2 ^ 32), (b, (c / 2 ^ 32 - 1) * (h / 2 ^ 32) + c % 2 ^ 32)]) ∨ (i = .cpypl f ∧ kind = .cpypl ∧ args = [a, b, c, h] ∧ t.canReadPair f.c = .ok ⟨⟩ ∧ c % 2 ^ 16 % 32 = 0 ∧ 32 ≤ c % 2 ^ 16 ∧ c % 2 ^ 16 ≤ 4096 ∧ (plForm f.ty.toNat f.xt.toNat).scaleOk h = true ∧ a % 256 = 0 ∧ (aperture a).1 = .scratch ∧ spans = [(a, tileSize (plForm f.ty.toNat f.xt.toNat) (c % 2 ^ 16) (h != 0)), (b, 63 * (c / 2 ^ 32) + c % 2 ^ 16 * (plForm f.ty.toNat f.xt.toNat).w / 8)] ++ (if h = 0 then [] else [(h, 64 * (c % 2 ^ 16 / 32) * (plForm f.ty.toNat f.xt.toNat).scaleBytes)])) ∨ (i = .cpeat f ∧ kind = .cpeat ∧ args = [a, b] ∧ a % 256 = 0 ∧ b % 64 = 0 ∧ (aperture a).1 = .scratch ∧ spans = [(a, 16384), (b, 64)] ∧ held = [(a, 16384), (b, s.peatHeld t b)]) ∨ (i = .cpack f ∧ kind = .cpack ∧ args = [a, b, c, h] ∧ t.canReadPair f.c = .ok ⟨⟩ ∧ c < 2 ^ 16 ∧ 1 ≤ c % 256 ∧ c % 256 ≤ 64 ∧ a % 64 = 0 ∧ b % 256 = 0 ∧ (aperture b).1 = .scratch ∧ spans = [(a, if f.ty.toNat = 14 then 9024 else 4928), (b, 16384)]) ∨ (i = .psel f ∧ kind = .psel ∧ args = [a, b, c, h] ∧ t.canReadPair f.c = .ok ⟨⟩ ∧ c < 2 ^ 41 ∧ 1 ≤ c % 2 ^ 32 ∧ c % 2 ^ 32 ≤ 65536 ∧ 1 ≤ c / 2 ^ 32 % 2 ^ 8 ∧ c / 2 ^ 32 % 2 ^ 8 ≤ 64 ∧ b % 8 = 0 ∧ h % 256 = 0 ∧ (aperture a).1 = .scratch ∧ (aperture h).1 = .scratch ∧ spans = [(a, 512 + if c / 2 ^ 40 % 2 = 1 then 16384 * (c / 2 ^ 32 % 2 ^ 8) else 0), (b, 8 * (c % 2 ^ 32)), (h, 256)]))) ∧
    (s.cores.getD (s.coreOf t) {}).freeTickets ≠ [] :=
  ⟨(demo.of (egrp [(1, 0xFFFFFFE000000040), (2, 0xFFFFFFE000002000), (4, 0x140), (5, 0x9)])),
    (egrp [(1, 0xFFFFFFE000000040), (2, 0xFFFFFFE000002000), (4, 0x140), (5, 0x9)]),
    { eng with ty := 15, xt := 0, a := opd 1 5 1 0, b := opd 1 5 2 0, c := opd 1 5 4 0 },
    (.cpack { eng with ty := 15, xt := 0, a := opd 1 5 1 0, b := opd 1 5 2 0, c := opd 1 5 4 0 }), .cpack,
    0xFFFFFFE000000040, 0xFFFFFFE000002000, 0x140, 0x9, [0xFFFFFFE000000040, 0xFFFFFFE000002000, 0x140, 0x9],
    [(0xFFFFFFE000000040, 4928), (0xFFFFFFE000002000, 16384)],
    [(0xFFFFFFE000000040, 4928), (0xFFFFFFE000002000, 16384)], by
    and_intros <;> first
      | decide +kernel | exact ok_of _ _ (by decide +kernel) | rfl | exact Or.inl rfl
      | exact Or.inr (Or.inr (Or.inr (Or.inr (Or.inr (Or.inl (by and_intros <;> first | decide +kernel | rfl | (intro h; exact absurd h (by decide +kernel))))))))⟩

theorem witness_CopiesTakeATicket_1_psel : ∃ (s : State) (t : Thread) (f : Eng) (i : Instr) (kind : OpKind) (a : Nat)
    (b : Nat) (c : Nat) (h : Nat) (args : List Nat) (spans : List (Nat × Nat)) (held : List (Nat × Nat)),
    s.At t ∧ t.busy = false ∧ t.canRead f.a 1 = .ok ⟨⟩ ∧ t.canRead f.b 1 = .ok ⟨⟩ ∧
    ((f.nb = 63 ∨ f.nb.toNat < (s.hdrOf t).nbn)) ∧ a = t.uni f.a ∧ b = t.uni f.b ∧ c = t.uni f.c ∧ h = t.pairHi f.c ∧
    ((∀ r ∈ spans, s.rangeOk t r.1 r.2 = true)) ∧
    ((held = spans ∨ kind = .cpeat ∧ held = [(a, 16384), (b, s.peatHeld t b)])) ∧
    (((i = .cpy f ∧ kind = .cpy ∧ args = [a, b, c] ∧ t.canRead f.c 1 = .ok ⟨⟩ ∧ 1 ≤ c ∧ c ≤ 2 ^ 40 ∧ spans = [(a, c), (b, c)]) ∨ (i = .cpfill f ∧ kind = .cpfill ∧ args = [a, b, c] ∧ t.canRead f.c 1 = .ok ⟨⟩ ∧ 1 ≤ c ∧ c ≤ 2 ^ 40 ∧ c % 2 ^ (f.xt.toNat % 4) = 0 ∧ a % 2 ^ (f.xt.toNat % 4) = 0 ∧ spans = [(a, c)]) ∨ (i = .cpy2d f ∧ kind = .cpy2d ∧ args = [a, b, c, h] ∧ t.canReadPair f.c = .ok ⟨⟩ ∧ c % 2 ^ 32 ≠ 0 ∧ c / 2 ^ 32 ≠ 0 ∧ c % 2 ^ 32 * (c / 2 ^ 32) ≤ 2 ^ 40 ∧ spans = [(a, (c / 2 ^ 32 - 1) * (h % 2 ^ 32) + c % 2 ^ 32), (b, (c / 2 ^ 32 - 1) * (h / 2 ^ 32) + c % 2 ^ 32)]) ∨ (i = .cpypl f ∧ kind = .cpypl ∧ args = [a, b, c, h] ∧ t.canReadPair f.c = .ok ⟨⟩ ∧ c % 2 ^ 16 % 32 = 0 ∧ 32 ≤ c % 2 ^ 16 ∧ c % 2 ^ 16 ≤ 4096 ∧ (plForm f.ty.toNat f.xt.toNat).scaleOk h = true ∧ a % 256 = 0 ∧ (aperture a).1 = .scratch ∧ spans = [(a, tileSize (plForm f.ty.toNat f.xt.toNat) (c % 2 ^ 16) (h != 0)), (b, 63 * (c / 2 ^ 32) + c % 2 ^ 16 * (plForm f.ty.toNat f.xt.toNat).w / 8)] ++ (if h = 0 then [] else [(h, 64 * (c % 2 ^ 16 / 32) * (plForm f.ty.toNat f.xt.toNat).scaleBytes)])) ∨ (i = .cpeat f ∧ kind = .cpeat ∧ args = [a, b] ∧ a % 256 = 0 ∧ b % 64 = 0 ∧ (aperture a).1 = .scratch ∧ spans = [(a, 16384), (b, 64)] ∧ held = [(a, 16384), (b, s.peatHeld t b)]) ∨ (i = .cpack f ∧ kind = .cpack ∧ args = [a, b, c, h] ∧ t.canReadPair f.c = .ok ⟨⟩ ∧ c < 2 ^ 16 ∧ 1 ≤ c % 256 ∧ c % 256 ≤ 64 ∧ a % 64 = 0 ∧ b % 256 = 0 ∧ (aperture b).1 = .scratch ∧ spans = [(a, if f.ty.toNat = 14 then 9024 else 4928), (b, 16384)]) ∨ (i = .psel f ∧ kind = .psel ∧ args = [a, b, c, h] ∧ t.canReadPair f.c = .ok ⟨⟩ ∧ c < 2 ^ 41 ∧ 1 ≤ c % 2 ^ 32 ∧ c % 2 ^ 32 ≤ 65536 ∧ 1 ≤ c / 2 ^ 32 % 2 ^ 8 ∧ c / 2 ^ 32 % 2 ^ 8 ≤ 64 ∧ b % 8 = 0 ∧ h % 256 = 0 ∧ (aperture a).1 = .scratch ∧ (aperture h).1 = .scratch ∧ spans = [(a, 512 + if c / 2 ^ 40 % 2 = 1 then 16384 * (c / 2 ^ 32 % 2 ^ 8) else 0), (b, 8 * (c % 2 ^ 32)), (h, 256)]))) ∧
    (s.cores.getD (s.coreOf t) {}).freeTickets ≠ [] :=
  ⟨(demo.of (egrp [(1, 0xFFFFFFE000000800), (2, 0xFFFFFFE000002000), (4, 0x4000000800), (5, 0xFFFFFFE000001000)])),
    (egrp [(1, 0xFFFFFFE000000800), (2, 0xFFFFFFE000002000), (4, 0x4000000800), (5, 0xFFFFFFE000001000)]),
    { eng with a := opd 1 5 1 0, b := opd 1 5 2 0, c := opd 1 5 4 0 },
    (.psel { eng with a := opd 1 5 1 0, b := opd 1 5 2 0, c := opd 1 5 4 0 }), .psel, 0xFFFFFFE000000800,
    0xFFFFFFE000002000, 0x4000000800, 0xFFFFFFE000001000,
    [0xFFFFFFE000000800, 0xFFFFFFE000002000, 0x4000000800, 0xFFFFFFE000001000],
    [(0xFFFFFFE000000800, 512), (0xFFFFFFE000002000, 16384), (0xFFFFFFE000001000, 256)],
    [(0xFFFFFFE000000800, 512), (0xFFFFFFE000002000, 16384), (0xFFFFFFE000001000, 256)], by
    and_intros <;> first
      | decide +kernel | exact ok_of _ _ (by decide +kernel) | rfl | exact Or.inl rfl
      | exact Or.inr (Or.inr (Or.inr (Or.inr (Or.inr (Or.inr (by and_intros <;> first | decide +kernel | rfl | (intro h; exact absurd h (by decide +kernel))))))))⟩

theorem witness_CopiesTakeATicket_2_cpy : ∃ (s : State) (t : Thread) (f : Eng) (i : Instr) (kind : OpKind) (a : Nat)
    (b : Nat) (c : Nat) (h : Nat) (args : List Nat) (spans : List (Nat × Nat)) (held : List (Nat × Nat)),
    s.At t ∧ t.busy = false ∧ t.canRead f.a 1 = .ok ⟨⟩ ∧ t.canRead f.b 1 = .ok ⟨⟩ ∧
    ((f.nb = 63 ∨ f.nb.toNat < (s.hdrOf t).nbn)) ∧ a = t.uni f.a ∧ b = t.uni f.b ∧ c = t.uni f.c ∧ h = t.pairHi f.c ∧
    ((∀ r ∈ spans, s.rangeOk t r.1 r.2 = true)) ∧
    ((held = spans ∨ kind = .cpeat ∧ held = [(a, 16384), (b, s.peatHeld t b)])) ∧
    (((i = .cpy f ∧ kind = .cpy ∧ args = [a, b, c] ∧ t.canRead f.c 1 = .ok ⟨⟩ ∧ 1 ≤ c ∧ c ≤ 2 ^ 40 ∧ spans = [(a, c), (b, c)]) ∨ (i = .cpfill f ∧ kind = .cpfill ∧ args = [a, b, c] ∧ t.canRead f.c 1 = .ok ⟨⟩ ∧ 1 ≤ c ∧ c ≤ 2 ^ 40 ∧ c % 2 ^ (f.xt.toNat % 4) = 0 ∧ a % 2 ^ (f.xt.toNat % 4) = 0 ∧ spans = [(a, c)]) ∨ (i = .cpy2d f ∧ kind = .cpy2d ∧ args = [a, b, c, h] ∧ t.canReadPair f.c = .ok ⟨⟩ ∧ c % 2 ^ 32 ≠ 0 ∧ c / 2 ^ 32 ≠ 0 ∧ c % 2 ^ 32 * (c / 2 ^ 32) ≤ 2 ^ 40 ∧ spans = [(a, (c / 2 ^ 32 - 1) * (h % 2 ^ 32) + c % 2 ^ 32), (b, (c / 2 ^ 32 - 1) * (h / 2 ^ 32) + c % 2 ^ 32)]) ∨ (i = .cpypl f ∧ kind = .cpypl ∧ args = [a, b, c, h] ∧ t.canReadPair f.c = .ok ⟨⟩ ∧ c % 2 ^ 16 % 32 = 0 ∧ 32 ≤ c % 2 ^ 16 ∧ c % 2 ^ 16 ≤ 4096 ∧ (plForm f.ty.toNat f.xt.toNat).scaleOk h = true ∧ a % 256 = 0 ∧ (aperture a).1 = .scratch ∧ spans = [(a, tileSize (plForm f.ty.toNat f.xt.toNat) (c % 2 ^ 16) (h != 0)), (b, 63 * (c / 2 ^ 32) + c % 2 ^ 16 * (plForm f.ty.toNat f.xt.toNat).w / 8)] ++ (if h = 0 then [] else [(h, 64 * (c % 2 ^ 16 / 32) * (plForm f.ty.toNat f.xt.toNat).scaleBytes)])) ∨ (i = .cpeat f ∧ kind = .cpeat ∧ args = [a, b] ∧ a % 256 = 0 ∧ b % 64 = 0 ∧ (aperture a).1 = .scratch ∧ spans = [(a, 16384), (b, 64)] ∧ held = [(a, 16384), (b, s.peatHeld t b)]) ∨ (i = .cpack f ∧ kind = .cpack ∧ args = [a, b, c, h] ∧ t.canReadPair f.c = .ok ⟨⟩ ∧ c < 2 ^ 16 ∧ 1 ≤ c % 256 ∧ c % 256 ≤ 64 ∧ a % 64 = 0 ∧ b % 256 = 0 ∧ (aperture b).1 = .scratch ∧ spans = [(a, if f.ty.toNat = 14 then 9024 else 4928), (b, 16384)]) ∨ (i = .psel f ∧ kind = .psel ∧ args = [a, b, c, h] ∧ t.canReadPair f.c = .ok ⟨⟩ ∧ c < 2 ^ 41 ∧ 1 ≤ c % 2 ^ 32 ∧ c % 2 ^ 32 ≤ 65536 ∧ 1 ≤ c / 2 ^ 32 % 2 ^ 8 ∧ c / 2 ^ 32 % 2 ^ 8 ≤ 64 ∧ b % 8 = 0 ∧ h % 256 = 0 ∧ (aperture a).1 = .scratch ∧ (aperture h).1 = .scratch ∧ spans = [(a, 512 + if c / 2 ^ 40 % 2 = 1 then 16384 * (c / 2 ^ 32 % 2 ^ 8) else 0), (b, 8 * (c % 2 ^ 32)), (h, 256)]))) ∧
    (s.cores.getD (s.coreOf t) {}).freeTickets = [] :=
  ⟨{ demo.of (egrp [(1, 0xFFFFFFE000000100), (2, 0xFFFFFFE000004000), (4, 0x80), (5, 0x0)]) with cores := [(0, { ops := (List.range 16).map fun k => (k, { kind := .cpy, tid := 0, wg := 1, nb := 63 }) })] },
    (egrp [(1, 0xFFFFFFE000000100), (2, 0xFFFFFFE000004000), (4, 0x80), (5, 0x0)]),
    { eng with a := opd 1 5 1 0, b := opd 1 5 2 0, c := opd 1 5 4 0 },
    (.cpy { eng with a := opd 1 5 1 0, b := opd 1 5 2 0, c := opd 1 5 4 0 }), .cpy, 0xFFFFFFE000000100,
    0xFFFFFFE000004000, 0x80, 0x0, [0xFFFFFFE000000100, 0xFFFFFFE000004000, 0x80],
    [(0xFFFFFFE000000100, 128), (0xFFFFFFE000004000, 128)], [(0xFFFFFFE000000100, 128), (0xFFFFFFE000004000, 128)],
    by
    and_intros <;> first
      | decide +kernel | exact ok_of _ _ (by decide +kernel) | rfl | exact Or.inl rfl
      | exact Or.inl (by and_intros <;> first | decide +kernel | rfl | (intro h; exact absurd h (by decide +kernel)))⟩

theorem witness_CopiesEndAndMoveBytes_1_1 : ∃ (s : State) (s1 : State) (key : Nat) (k : Nat) (t : Thread) (op :
    EngOp) (op1 : EngOp),
    s.opAt key k OpKind.isCopy = some (op, t) ∧ s.canFlush t (.engine key k) op1.out = true ∧
    s1 = s.putElems t (.engine key k) op1.out ∧ s.runChunks t op 0 op.chunks = (op1, none) :=
  ⟨(demo.op grp { kind := .cpfill, tid := 0, wg := 1, nb := 63, args := [0xFFFFFFE000000100, 0x7, 0x80] }), _, 0, 3,
    grp, { kind := .cpfill, tid := 0, wg := 1, nb := 63, args := [0xFFFFFFE000000100, 0x7, 0x80] },
    ((demo.op grp { kind := .cpfill, tid := 0, wg := 1, nb := 63, args := [0xFFFFFFE000000100, 0x7, 0x80] }).runChunks grp { kind := .cpfill, tid := 0, wg := 1, nb := 63, args := [0xFFFFFFE000000100, 0x7, 0x80] } 0 (EngOp.chunks { kind := .cpfill, tid := 0, wg := 1, nb := 63, args := [0xFFFFFFE000000100, 0x7, 0x80] })).1,
    by
    and_intros <;> first | decide +kernel | rfl | exact ends _ (by decide +kernel)⟩

theorem witness_CopiesEndAndMoveBytes_1_2 : ∃ (s : State) (s1 : State) (key : Nat) (k : Nat) (t : Thread) (op :
    EngOp) (op1 : EngOp) (cause : _) (va : _) (pte : _) (tid : _) (u : _),
    s.opAt key k OpKind.isCopy = some (op, t) ∧ s.canFlush t (.engine key k) op1.out = true ∧
    s1 = s.putElems t (.engine key k) op1.out ∧ s.runChunks t op 0 op.chunks = (op1, some (.fault cause va pte)) ∧
    s1.engineTaker op1.wg op1.tid = some (tid, u) :=
  ⟨(demo.op grp { kind := .cpfill, tid := 0, wg := 1, nb := 63, args := [0xFFFFFFE000020000, 0x7, 0x80] }), _, 0, 3,
    grp, { kind := .cpfill, tid := 0, wg := 1, nb := 63, args := [0xFFFFFFE000020000, 0x7, 0x80] },
    ((demo.op grp { kind := .cpfill, tid := 0, wg := 1, nb := 63, args := [0xFFFFFFE000020000, 0x7, 0x80] }).runChunks grp { kind := .cpfill, tid := 0, wg := 1, nb := 63, args := [0xFFFFFFE000020000, 0x7, 0x80] } 0 (EngOp.chunks { kind := .cpfill, tid := 0, wg := 1, nb := 63, args := [0xFFFFFFE000020000, 0x7, 0x80] })).1,
    7, 0xFFFFFFE000020000, 0, 0, grp, by
    and_intros <;> first | decide +kernel | rfl | exact stops _ _ (by decide +kernel)⟩

theorem witness_CopiesEndAndMoveBytes_2 : ∃ (s : State) (key : Nat) (k : Nat) (d : Nat) (pat : Nat) (len : Nat)
    (cause : Nat) (va : Nat) (pte : Nat) (tid : Nat) (t : Thread) (u : Thread) (op : EngOp),
    s.opAt key k OpKind.isCopy = some (op, t) ∧ op.kind = .cpfill ∧ op.args = [d, pat, len] ∧ op.did = [] ∧
    op.out = [] ∧ op.fail = none ∧ d < 2 ^ 64 ∧ 0 < len ∧ s.waitsAway (.engine key k) = false ∧
    s.engPlace (t.reader op) .store d = .error (.fault cause va pte) ∧ s.engineTaker op.wg op.tid = some (tid, u) :=
  ⟨(demo.op grp { kind := .cpfill, tid := 0, wg := 1, nb := 63, args := [0xFFFFFFE000020000, 0x7, 0x80] }), 0, 3,
    0xFFFFFFE000020000, 7, 128, 7, 0xFFFFFFE000020000, 0, 0, grp, grp,
    { kind := .cpfill, tid := 0, wg := 1, nb := 63, args := [0xFFFFFFE000020000, 0x7, 0x80] }, by
    and_intros <;> first | decide +kernel | rfl | exact error_of _ _ (by decide +kernel)⟩

theorem witness_CopiesEndAndMoveBytes_3_1_2 : ∃ (s : State) (t : Thread) (f : Eng) (k : Nat) (op : _),
    s.At t ∧ t.busy = false ∧ t.canRead f.a 1 = .ok ⟨⟩ ∧ k = t.uni f.a ∧ k < 16 ∧ s.suspended t k = some op ∧
    op.kind ≠ .desc :=
  ⟨(demo.op (egrp [(1, 0x3)]) { kind := .cpfill, tid := 0, wg := 1, nb := 63, args := [0xFFFFFFE000020000, 0x7, 0x80], susp := some { cls := 10 } }),
    (egrp [(1, 0x3)]), eng, 3,
    { kind := .cpfill, tid := 0, wg := 1, nb := 63, args := [0xFFFFFFE000020000, 0x7, 0x80], susp := some { cls := 10 } },
    by
    and_intros <;> first | decide +kernel | rfl⟩

theorem witness_CopiesEndAndMoveBytes_3_2 : ∃ (s : State) (t : Thread) (f : Eng) (k : Nat),
    s.At t ∧ t.busy = false ∧ t.canRead f.a 1 = .ok ⟨⟩ ∧ k = t.uni f.a ∧ k < 16 ∧ s.suspended t k = none :=
  ⟨(demo.of (egrp [(1, 0x3)])), (egrp [(1, 0x3)]), eng, 3, by
    and_intros <;> first | decide +kernel | rfl⟩

theorem witness_CopiesEndAndMoveBytes_4_1 : ∃ (s : State) (t : Thread) (g : Wg) (key : Nat) (k : Nat) (o : Nat) (src
    : Nat) (len : Nat) (op : EngOp),
    s.opAt key k OpKind.isCopy = some (op, t) ∧ op.did = [] ∧ op.got = [] ∧ op.out = [] ∧ op.fail = none ∧
    s.waitsAway (.engine key k) = false ∧ op.wg = t.wg ∧ s.wgs.get? t.wg = some g ∧ g.scrPoison = [] ∧
    o + len ≤ scrLimit (s.hdrOf t) g ∧ o + len ≤ 2 ^ 36 ∧ 0 < len ∧
    ((∀ p, p * 16384 < scrLimit (s.hdrOf t) g → g.pinned.contains p = true)) ∧ op.kind = .cpfill ∧
    op.args = [0xFFFFFFE000000000 + o, src, len] :=
  ⟨(demo.op grp { kind := .cpfill, tid := 0, wg := 1, nb := 63, args := [0xFFFFFFE000000100, 0x7, 0x80] }), grp, wgp,
    0, 3, 0x100, 7, 128, { kind := .cpfill, tid := 0, wg := 1, nb := 63, args := [0xFFFFFFE000000100, 0x7, 0x80] },
    by
    and_intros <;> first | decide +kernel | rfl | (intro p h; exact pinned_all p h)⟩

theorem witness_CopiesEndAndMoveBytes_4_2 : ∃ (s : State) (t : Thread) (g : Wg) (key : Nat) (k : Nat) (o : Nat) (src
    : Nat) (len : Nat) (op : EngOp),
    s.opAt key k OpKind.isCopy = some (op, t) ∧ op.did = [] ∧ op.got = [] ∧ op.out = [] ∧ op.fail = none ∧
    s.waitsAway (.engine key k) = false ∧ op.wg = t.wg ∧ s.wgs.get? t.wg = some g ∧ g.scrPoison = [] ∧
    o + len ≤ scrLimit (s.hdrOf t) g ∧ o + len ≤ 2 ^ 36 ∧ 0 < len ∧
    ((∀ p, p * 16384 < scrLimit (s.hdrOf t) g → g.pinned.contains p = true)) ∧ op.kind = .cpy ∧
    op.args = [0xFFFFFFE000000000 + o, 0xFFFFFFE000000000 + src, len] ∧ src + len ≤ scrLimit (s.hdrOf t) g ∧
    src + len ≤ 2 ^ 36 ∧ ((src + len ≤ o ∨ o + len ≤ src)) :=
  ⟨(demo.op grp { kind := .cpy, tid := 0, wg := 1, nb := 63, args := [0xFFFFFFE000000100, 0xFFFFFFE000001000, 0x80] }),
    grp, wgp, 0, 3, 0x100, 0x1000, 128,
    { kind := .cpy, tid := 0, wg := 1, nb := 63, args := [0xFFFFFFE000000100, 0xFFFFFFE000001000, 0x80] }, by
    and_intros <;> first | decide +kernel | rfl | (intro p h; exact pinned_all p h) | exact Or.inr (by decide)⟩

theorem witness_StairEngine_1_1 : ∃ (s : State) (t : Thread) (f : Eng) (n : Nat),
    s.At t ∧ t.busy = false ∧ t.canRead f.a 1 = .ok ⟨⟩ ∧ n = f.xt.toNat % 4 ∧ s.descOn t s.cur n = none ∧
    t.uni f.a = 0 :=
  ⟨(demo.of (egrp [(1, 0x0)])), (egrp [(1, 0x0)]), eng, 0, by
    and_intros <;> first | decide +kernel | rfl⟩

set_option maxRecDepth 20000 in
theorem witness_StairEngine_1_2 : ∃ (s : State) (t : Thread) (f : Eng) (n : Nat) (r : Nat) (p : Nat → Place),
    s.At t ∧ t.busy = false ∧ t.canRead f.a 1 = .ok ⟨⟩ ∧ n = f.xt.toNat % 4 ∧ s.descOn t s.cur n = none ∧
    t.uni f.a ≠ 0 ∧ t.uni f.a % 64 = 0 ∧ t.kept = [] ∧
    ((∀ j, j < 8 → s.resolve t .load 0 ((t.uni f.a + 8 * j) % 2 ^ 64) 8 = .ok (p j) ∧ (p j).isRemote = false ∧ (p j).isDead = false ∧ s.scrWaits t (p j) 8 = false)) ∧
    (r = ofBytes ((List.range 8).flatMap fun j => s.readPlace t (p j) 8)) :=
  ⟨{ demo.of (egrp [(1, 0xFFFFFFE000000100)]) with wgs := [(1, { wgp with scr := scrWith })] },
    (egrp [(1, 0xFFFFFFE000000100)]), eng, 0, trec, (fun j => Place.scratch (0x100 + 8 * j)), by
    and_intros <;> first | decide +kernel | rfl⟩

theorem witness_StairEngine_2_1 : ∃ (s : State) (t : Thread) (f : Eng) (sl : TreeSlot),
    s.At t ∧ t.busy = false ∧ t.canRead f.a 1 = .ok ⟨⟩ ∧ t.canRead f.b 1 = .ok ⟨⟩ ∧ t.canRead f.c 1 = .ok ⟨⟩ ∧
    t.canWrite f.dst.toNat 1 = .ok ⟨⟩ ∧ sl = t.slot (f.xt.toNat % 4) ∧ s.descOn t s.cur (f.xt.toNat % 4) = none ∧
    ((f.nb = 63 ∨ f.nb.toNat < (s.hdrOf t).nbn)) ∧ sl.bound = true ∧ t.uni f.c < 2 ^ 32 ∧ t.uni f.c % 16 = 0 ∧
    2 * trWidth sl.record ≤ t.uni f.c ∧ t.uni f.a % 16 = 0 ∧ t.uni f.b % 4 = 0 ∧
    (s.tokenCheck t sl.record (t.uni f.a) (t.uni f.c) (if t.uni f.b = 0 then none else some (t.uni f.b)) .store = .ok ⟨⟩) ∧
    s.atticCheck t sl.record = .ok ⟨⟩ ∧ t.active = [] :=
  ⟨(demo.of { (egrp [(1, 0xFFFFFFE000000200), (2, 0x0), (3, 0x40)]) with regs := { (egrp [(1, 0xFFFFFFE000000200), (2, 0x0), (3, 0x40)]).regs with em := 0 } }),
    { (egrp [(1, 0xFFFFFFE000000200), (2, 0x0), (3, 0x40)]) with regs := { (egrp [(1, 0xFFFFFFE000000200), (2, 0x0), (3, 0x40)]).regs with em := 0 } },
    { eng with a := opd 1 5 1 0, b := opd 1 5 2 0, c := opd 1 5 3 0, dst := 4 }, { bound := true, record := trec },
    by
    and_intros <;> first | decide +kernel | exact ok_of _ _ (by decide +kernel) | rfl | exact Or.inl rfl⟩

theorem witness_StairEngine_2_2 : ∃ (s : State) (t : Thread) (f : Eng) (sl : TreeSlot),
    s.At t ∧ t.busy = false ∧ t.canRead f.a 1 = .ok ⟨⟩ ∧ t.canRead f.b 1 = .ok ⟨⟩ ∧ t.canRead f.c 1 = .ok ⟨⟩ ∧
    t.canWrite f.dst.toNat 1 = .ok ⟨⟩ ∧ sl = t.slot (f.xt.toNat % 4) ∧ s.descOn t s.cur (f.xt.toNat % 4) = none ∧
    ((f.nb = 63 ∨ f.nb.toNat < (s.hdrOf t).nbn)) ∧ sl.bound = true ∧ t.uni f.c < 2 ^ 32 ∧ t.uni f.c % 16 = 0 ∧
    2 * trWidth sl.record ≤ t.uni f.c ∧ t.uni f.a % 16 = 0 ∧ t.uni f.b % 4 = 0 ∧
    (s.tokenCheck t sl.record (t.uni f.a) (t.uni f.c) (if t.uni f.b = 0 then none else some (t.uni f.b)) .store = .ok ⟨⟩) ∧
    s.atticCheck t sl.record = .ok ⟨⟩ ∧ t.active ≠ [] ∧ (s.cores.getD (s.coreOf t) {}).freeTickets ≠ [] :=
  ⟨(demo.of (egrp [(1, 0xFFFFFFE000000200), (2, 0x0), (3, 0x40)])),
    (egrp [(1, 0xFFFFFFE000000200), (2, 0x0), (3, 0x40)]),
    { eng with a := opd 1 5 1 0, b := opd 1 5 2 0, c := opd 1 5 3 0, dst := 4 }, { bound := true, record := trec },
    by
    and_intros <;> first | decide +kernel | exact ok_of _ _ (by decide +kernel) | rfl | exact Or.inl rfl⟩

theorem witness_StairEngine_3 : ∃ (s : State) (s1 : State) (key : Nat) (k : Nat) (pid : Nat) (t : Thread) (op :
    EngOp) (op1 : EngOp) (p : Producer),
    s.opAt key k (· == .desc) = some (op, t) ∧
    ((s.descRun t op op.levelsLeft = (op1, none) ∨ trDepth (op.args.getD 3 0) ≤ op.data.getD 0 0 ∧ op1 = op)) ∧
    s.canFlush t (.engine key k) op1.out = true ∧ s1 = s.putElems t (.engine key k) op1.out ∧ op.pid = some pid ∧
    t.prods.get? pid = some p ∧ p.toG = false ∧ p.n = 1 ∧ p.lanes = op.em ∧ t.regs.ve.get? p.reg = some pid :=
  ⟨(demo.op { grp with prods := [(9, { toG := false, reg := 4, n := 1, lanes := 0xFF, vals := [], waiting := 0, ready := false, slot := none })], regs := { grp.regs with ve := [(4, 9)] } } { kind := .desc, tid := 0, wg := 1, nb := 63, args := [0xFFFFFFE000000200, 0, 64, trec], em := 0xFF, pid := some 9, data := 0 :: 0 :: List.replicate 64 0 }),
    _, 0, 3, 9,
    { grp with prods := [(9, { toG := false, reg := 4, n := 1, lanes := 0xFF, vals := [], waiting := 0, ready := false, slot := none })], regs := { grp.regs with ve := [(4, 9)] } },
    { kind := .desc, tid := 0, wg := 1, nb := 63, args := [0xFFFFFFE000000200, 0, 64, trec], em := 0xFF, pid := some 9, data := 0 :: 0 :: List.replicate 64 0 },
    ((demo.op { grp with prods := [(9, { toG := false, reg := 4, n := 1, lanes := 0xFF, vals := [], waiting := 0, ready := false, slot := none })], regs := { grp.regs with ve := [(4, 9)] } } { kind := .desc, tid := 0, wg := 1, nb := 63, args := [0xFFFFFFE000000200, 0, 64, trec], em := 0xFF, pid := some 9, data := 0 :: 0 :: List.replicate 64 0 }).descRun { grp with prods := [(9, { toG := false, reg := 4, n := 1, lanes := 0xFF, vals := [], waiting := 0, ready := false, slot := none })], regs := { grp.regs with ve := [(4, 9)] } } { kind := .desc, tid := 0, wg := 1, nb := 63, args := [0xFFFFFFE000000200, 0, 64, trec], em := 0xFF, pid := some 9, data := 0 :: 0 :: List.replicate 64 0 } (EngOp.levelsLeft { kind := .desc, tid := 0, wg := 1, nb := 63, args := [0xFFFFFFE000000200, 0, 64, trec], em := 0xFF, pid := some 9, data := 0 :: 0 :: List.replicate 64 0 })).1,
    { toG := false, reg := 4, n := 1, lanes := 0xFF, vals := [], waiting := 0, ready := false, slot := none }, by
    and_intros <;> first | decide +kernel | rfl | exact ends _ (by decide +kernel) | exact Or.inl (ends _ (by decide +kernel))⟩

theorem witness_StairEngine_4_1 : ∃ (op : EngOp) (i : Nat) (acc : Nat),
    i < 64 ∧ op.data.length = 66 ∧ (FA36.dec acc).isNan = false :=
  ⟨{ kind := .desc, tid := 0, wg := 1, nb := 63, data := List.replicate 66 0 }, 63, 0x800000000, by
    and_intros <;> first | decide +kernel | rfl | exact ends _ (by decide +kernel)⟩

theorem witness_StairEngine_4_2 : ∃ (op : EngOp) (i : Nat) (acc : Nat),
    i < 64 ∧ op.data.length = 66 ∧ (FA36.dec acc).isNan = true :=
  ⟨{ kind := .desc, tid := 0, wg := 1, nb := 63, data := List.replicate 66 0 }, 63, 0x7FC000000, by
    and_intros <;> first | decide +kernel | rfl | exact ends _ (by decide +kernel)⟩

theorem witness_StairEngine_5 : ∃ (s : State) (s1 : State) (key : Nat) (k : Nat) (cause : Nat) (va : Nat) (pte : Nat)
    (tid : Nat) (t : Thread) (u : Thread) (op : EngOp) (op1 : EngOp),
    (s.opAt key k (fun x => x == .desc || x == .dgrad) = some (op, t)) ∧
    (((op.kind = .desc ∧ s.descRun t op op.levelsLeft = (op1, some (.fault cause va pte))) ∨ (op.kind = .dgrad ∧ s.gradRun t op op.gradRows = (op1, some (.fault cause va pte))) ∨ (op.kind = .desc ∧ op1 = op ∧ op.data.getD 0 0 = 0 ∧ op.data.getD 1 0 = 0 ∧ (∀ i, op.data.getD (2 + i) 0 = 0) ∧ op.lanes ≠ [] ∧ op.got = [] ∧ op.fail = none ∧ trDepth (op.args.getD 3 0) ≠ 0 ∧ s.engPlace (t.reader op) .load (trNodes (op.args.getD 3 0)) = .error (.fault cause va pte)))) ∧
    s.canFlush t (.engine key k) op1.out = true ∧ s1 = s.putElems t (.engine key k) op1.out ∧
    s1.engineTaker op.wg op.tid = some (tid, u) :=
  ⟨(demo.op { grp with prods := [(9, { toG := false, reg := 4, n := 1, lanes := 0xFF, vals := [], waiting := 0, ready := false, slot := none })], regs := { grp.regs with ve := [(4, 9)] } } { kind := .desc, tid := 0, wg := 1, nb := 63, args := [0xFFFFFFE000000200, 0, 64, (trec + 0x100000000)], em := 0xFF, pid := some 9, data := 0 :: 0 :: List.replicate 64 0 }),
    _, 0, 3, 7, 0xFFFFFFC100000040, 0, 0,
    { grp with prods := [(9, { toG := false, reg := 4, n := 1, lanes := 0xFF, vals := [], waiting := 0, ready := false, slot := none })], regs := { grp.regs with ve := [(4, 9)] } },
    { grp with prods := [(9, { toG := false, reg := 4, n := 1, lanes := 0xFF, vals := [], waiting := 0, ready := false, slot := none })], regs := { grp.regs with ve := [(4, 9)] } },
    { kind := .desc, tid := 0, wg := 1, nb := 63, args := [0xFFFFFFE000000200, 0, 64, (trec + 0x100000000)], em := 0xFF, pid := some 9, data := 0 :: 0 :: List.replicate 64 0 },
    ((demo.op { grp with prods := [(9, { toG := false, reg := 4, n := 1, lanes := 0xFF, vals := [], waiting := 0, ready := false, slot := none })], regs := { grp.regs with ve := [(4, 9)] } } { kind := .desc, tid := 0, wg := 1, nb := 63, args := [0xFFFFFFE000000200, 0, 64, (trec + 0x100000000)], em := 0xFF, pid := some 9, data := 0 :: 0 :: List.replicate 64 0 }).descRun { grp with prods := [(9, { toG := false, reg := 4, n := 1, lanes := 0xFF, vals := [], waiting := 0, ready := false, slot := none })], regs := { grp.regs with ve := [(4, 9)] } } { kind := .desc, tid := 0, wg := 1, nb := 63, args := [0xFFFFFFE000000200, 0, 64, (trec + 0x100000000)], em := 0xFF, pid := some 9, data := 0 :: 0 :: List.replicate 64 0 } (EngOp.levelsLeft { kind := .desc, tid := 0, wg := 1, nb := 63, args := [0xFFFFFFE000000200, 0, 64, (trec + 0x100000000)], em := 0xFF, pid := some 9, data := 0 :: 0 :: List.replicate 64 0 })).1,
    by
    and_intros <;> first | decide +kernel | rfl | exact Or.inl ⟨rfl, stops _ _ (by decide +kernel)⟩⟩

theorem witness_StairEngine_6 : ∃ (s : State) (t : Thread) (f : Eng) (sl : TreeSlot),
    s.At t ∧ t.busy = false ∧ t.canRead f.a 1 = .ok ⟨⟩ ∧ t.canRead f.b 1 = .ok ⟨⟩ ∧ t.canRead f.c 1 = .ok ⟨⟩ ∧
    sl = t.slot (f.xt.toNat % 4) ∧ s.descOn t s.cur (f.xt.toNat % 4) = none ∧
    ((f.nb = 63 ∨ f.nb.toNat < (s.hdrOf t).nbn)) ∧ sl.bound = true ∧ t.uni f.c < 2 ^ 32 ∧ t.uni f.c % 16 = 0 ∧
    2 * trWidth sl.record ≤ t.uni f.c ∧ trGrad sl.record ≠ 0 ∧ t.uni f.a % 16 = 0 ∧ t.uni f.b % 4 = 0 ∧
    s.tokenCheck t sl.record (t.uni f.a) (t.uni f.c) (some (t.uni f.b)) .load = .ok ⟨⟩ ∧
    (s.cores.getD (s.coreOf t) {}).freeTickets ≠ [] :=
  ⟨(demo.of (egrp [(1, 0xFFFFFFE000000200), (2, 0xFFFFFFE000001000), (3, 0x40)])),
    (egrp [(1, 0xFFFFFFE000000200), (2, 0xFFFFFFE000001000), (3, 0x40)]),
    { eng with a := opd 1 5 1 0, b := opd 1 5 2 0, c := opd 1 5 3 0, dst := 4 }, { bound := true, record := trec },
    by
    and_intros <;> first | decide +kernel | exact ok_of _ _ (by decide +kernel) | rfl | exact Or.inl rfl⟩

theorem witness_StairEngine_7 : ∃ (s : State) (s1 : State) (key : Nat) (k : Nat) (t : Thread) (op : EngOp) (op1 :
    EngOp),
    s.opAt key k (· == .dgrad) = some (op, t) ∧
    ((s.gradRun t op op.gradRows = (op1, none) ∨ (∀ r ∈ op.gradRows, r.2 ∈ op.did) ∧ op.fail = none ∧ op1 = op)) ∧
    s.canFlush t (.engine key k) op1.out = true ∧ s1 = s.putElems t (.engine key k) op1.out :=
  ⟨(demo.op grp { kind := .dgrad, tid := 0, wg := 1, nb := 63, args := [0xFFFFFFE000000200, 0xFFFFFFE000000400, 64, trec], em := 0xFF, data := List.replicate 64 0 }),
    _, 0, 3, grp,
    { kind := .dgrad, tid := 0, wg := 1, nb := 63, args := [0xFFFFFFE000000200, 0xFFFFFFE000000400, 64, trec], em := 0xFF, data := List.replicate 64 0 },
    ((demo.op grp { kind := .dgrad, tid := 0, wg := 1, nb := 63, args := [0xFFFFFFE000000200, 0xFFFFFFE000000400, 64, trec], em := 0xFF, data := List.replicate 64 0 }).gradRun grp { kind := .dgrad, tid := 0, wg := 1, nb := 63, args := [0xFFFFFFE000000200, 0xFFFFFFE000000400, 64, trec], em := 0xFF, data := List.replicate 64 0 } (EngOp.gradRows { kind := .dgrad, tid := 0, wg := 1, nb := 63, args := [0xFFFFFFE000000200, 0xFFFFFFE000000400, 64, trec], em := 0xFF, data := List.replicate 64 0 })).1,
    by
    and_intros <;> first | decide +kernel | rfl | exact ends _ (by decide +kernel) | exact Or.inl (ends _ (by decide +kernel))⟩

theorem witness_StairEngine_8 : ∃ (s : State) (t : Thread) (u : Thread) (f : Eng) (k : Nat) (pid : Nat) (op : EngOp)
    (p : Producer),
    s.At t ∧ t.busy = false ∧ t.canRead f.a 1 = .ok ⟨⟩ ∧ k = t.uni f.a ∧ k < 16 ∧ s.suspended t k = some op ∧
    op.kind = .desc ∧ s.threads.get? op.tid = some u ∧ op.pid = some pid ∧ u.prods.get? pid = some p ∧ p.toG = false ∧
    p.n = 1 ∧ p.lanes = op.em ∧ u.regs.ve.get? p.reg = some pid :=
  ⟨(demo.op { grp with prods := [(9, { toG := false, reg := 4, n := 1, lanes := 0xFF, vals := [], waiting := 0, ready := false, slot := none })], regs := { grp.regs with ve := [(4, 9)], g := [(1, 3)] } } { kind := .desc, tid := 0, wg := 1, nb := 63, args := [0xFFFFFFE000000200, 0, 64, trec], em := 0xFF, susp := some { cls := 10 }, pid := some 9, data := 0 :: 0 :: List.replicate 64 0 }),
    { grp with prods := [(9, { toG := false, reg := 4, n := 1, lanes := 0xFF, vals := [], waiting := 0, ready := false, slot := none })], regs := { grp.regs with ve := [(4, 9)], g := [(1, 3)] } },
    { grp with prods := [(9, { toG := false, reg := 4, n := 1, lanes := 0xFF, vals := [], waiting := 0, ready := false, slot := none })], regs := { grp.regs with ve := [(4, 9)], g := [(1, 3)] } },
    eng, 3, 9,
    { kind := .desc, tid := 0, wg := 1, nb := 63, args := [0xFFFFFFE000000200, 0, 64, trec], em := 0xFF, susp := some { cls := 10 }, pid := some 9, data := 0 :: 0 :: List.replicate 64 0 },
    { toG := false, reg := 4, n := 1, lanes := 0xFF, vals := [], waiting := 0, ready := false, slot := none }, by
    and_intros <;> first | decide +kernel | rfl⟩

theorem witness_StairEngine_9 : ∃ (s : State) (t : Thread) (f : Eng) (sl : TreeSlot) (o : Nat) (p : Nat) (pre : Nat →
    Nat),
    s.At t ∧ t.busy = false ∧ t.canRead f.a 1 = .ok ⟨⟩ ∧ t.canRead f.b 1 = .ok ⟨⟩ ∧ sl = t.slot (f.xt.toNat % 4) ∧
    s.descOn t s.cur (f.xt.toNat % 4) = none ∧ sl.bound = true ∧ p = t.uni f.b % 64 ∧ 1 ≤ p ∧ p ≤ trDepth sl.record ∧
    t.uni f.a = 0xFFFFFFE000000000 + o ∧ o % 8 = 0 ∧ o + 768 ≤ scrLimit (s.hdrOf t) (s.wgOf t) ∧ o + 768 ≤ 2 ^ 36 ∧
    s.scrWaits t (.scratch o) 768 = false ∧ t.width ≤ 64 ∧
    ((∀ i, pre i = t.regs.path (f.xt.toNat % 4) i % 2 ^ trDepth sl.record / 2 ^ (trDepth sl.record - p))) :=
  ⟨(demo.of (egrp [(1, 0xFFFFFFE000000100), (2, 0x1)])), (egrp [(1, 0xFFFFFFE000000100), (2, 0x1)]), eng,
    { bound := true, record := trec }, 0x100, 1, _, by
    and_intros <;> first | decide +kernel | rfl | (intro i; rfl)⟩

theorem witness_StairEngine_10_1 : ∃ (s : State) (t : Thread) (f : Eng) (n : Nat) (sl : TreeSlot),
    s.At t ∧ n = f.xt.toNat % 4 ∧ sl = t.slot n ∧ s.descOn t s.cur n = none ∧ t.canWrite f.dst.toNat 1 = .ok ⟨⟩ :=
  ⟨(demo.of (egrp [(1, 0xFFFFFFE000000100), (2, 0x1)])), (egrp [(1, 0xFFFFFFE000000100), (2, 0x1)]),
    { eng with dst := 4 }, 0, { bound := true, record := trec }, by
    and_intros <;> first | decide +kernel | rfl⟩

theorem witness_StairEngine_10_2 : ∃ (s : State) (t : Thread) (f : Eng) (n : Nat) (sl : TreeSlot),
    s.At t ∧ n = f.xt.toNat % 4 ∧ sl = t.slot n ∧ s.descOn t s.cur n = none ∧ t.busy = false ∧
    t.canRead f.a 1 = .ok ⟨⟩ ∧ t.width ≤ 64 ∧ t.side = .wide :=
  ⟨(demo.of (egrp [(1, 0xFFFFFFE000000100), (2, 0x1)])), (egrp [(1, 0xFFFFFFE000000100), (2, 0x1)]),
    { eng with dst := 0 }, 0, { bound := true, record := trec }, by
    and_intros <;> first | decide +kernel | rfl⟩

theorem witness_MatrixUnits_1_1 : ∃ (s : State) (t : Thread) (f : Eng) (i : Instr) (op : Nat) (n : Nat) (a : List
    Nat) (ts : List (Nat × Nat × Nat)),
    s.At t ∧ t.busy = false ∧
    (i, op, n) ∈ [(Instr.mma f, 0, 3), (.mmas f, 1, 3), (.mzero f, 2, 0), (.mldacc f, 3, 3), (.mstacc f, 4, 3), (.mscale f, 5, 2)] ∧
    ((f.nb = 63 ∨ f.nb.toNat < (s.hdrOf t).nbn)) ∧ a = ([f.a, f.b, f.c].take n).map t.uni ∧
    s.unitTargets t f.xt.toNat = some ts ∧ unitOperandsOk op t.regs.fmt.toNat a = true ∧
    ((∀ x ∈ ts, ∀ r ∈ unitRanges op t.regs.fmt.toNat a x.1, r.2.1 % r.2.2.2 = 0 ∧ s.unitRangeOk x.2.2 r.2.1 r.2.2.1 = true)) ∧
    ((∀ x ∈ ts, s.hasTile x.2.2 (f.xt.toNat % 4) = true ∧ (s.wgs.getD x.2.2 .absent).token (f.xt.toNat % 4) = .unit)) ∧
    ((∀ x ∈ ts, (s.cores.getD x.2.1 {}).unitQ.length < 16)) :=
  ⟨(demo.of { mgrp with regs := { em := 1, s := [(1, 0xFFFFFFE000001000), (2, 0xFFFFFFE000003000), (3, 0x20)] } }),
    { mgrp with regs := { em := 1, s := [(1, 0xFFFFFFE000001000), (2, 0xFFFFFFE000003000), (3, 0x20)] } },
    { eng with xt := 4, a := opd 0 0 0 1, b := opd 0 0 0 2, c := opd 0 0 0 3 },
    (.mma { eng with xt := 4, a := opd 0 0 0 1, b := opd 0 0 0 2, c := opd 0 0 0 3 }), 0, 3,
    [0xFFFFFFE000001000, 0xFFFFFFE000003000, 32], [(0, 0, 1)], by
    and_intros <;> first | decide +kernel | rfl | exact List.mem_cons_self | exact Or.inl rfl⟩

theorem witness_MatrixUnits_1_2 : ∃ (s : State) (t : Thread) (f : Eng) (i : Instr) (op : Nat) (n : Nat) (a : List
    Nat) (ts : List (Nat × Nat × Nat)),
    s.At t ∧ t.busy = false ∧
    (i, op, n) ∈ [(Instr.mma f, 0, 3), (.mmas f, 1, 3), (.mzero f, 2, 0), (.mldacc f, 3, 3), (.mstacc f, 4, 3), (.mscale f, 5, 2)] ∧
    ((f.nb = 63 ∨ f.nb.toNat < (s.hdrOf t).nbn)) ∧ a = ([f.a, f.b, f.c].take n).map t.uni ∧
    s.unitTargets t f.xt.toNat = some ts ∧ unitOperandsOk op t.regs.fmt.toNat a = true ∧
    ((∀ x ∈ ts, ∀ r ∈ unitRanges op t.regs.fmt.toNat a x.1, r.2.1 % r.2.2.2 = 0 ∧ s.unitRangeOk x.2.2 r.2.1 r.2.2.1 = true)) ∧
    ((∀ x ∈ ts, s.hasTile x.2.2 (f.xt.toNat % 4) = true ∧ (s.wgs.getD x.2.2 .absent).token (f.xt.toNat % 4) = .unit)) ∧
    ((∃ x ∈ ts, 16 ≤ (s.cores.getD x.2.1 {}).unitQ.length)) :=
  ⟨{ demo.of { mgrp with regs := { em := 1, s := [(1, 0xFFFFFFE000001000), (2, 0xFFFFFFE000003000), (3, 0x20)] } } with cores := [(0, { unitQ := List.range 16 })] },
    { mgrp with regs := { em := 1, s := [(1, 0xFFFFFFE000001000), (2, 0xFFFFFFE000003000), (3, 0x20)] } },
    { eng with xt := 4, a := opd 0 0 0 1, b := opd 0 0 0 2, c := opd 0 0 0 3 },
    (.mma { eng with xt := 4, a := opd 0 0 0 1, b := opd 0 0 0 2, c := opd 0 0 0 3 }), 0, 3,
    [0xFFFFFFE000001000, 0xFFFFFFE000003000, 32], [(0, 0, 1)], by
    and_intros <;> first | decide +kernel | rfl | exact List.mem_cons_self | exact Or.inl rfl⟩

theorem witness_MatrixUnits_2 : ∃ (s : State) (core : Nat) (id : Nat) (wg : Nat) (o : UnitOp),
    s.unitHead core = some (id, o, wg) ∧ o.waits = [] ∧ o.started.contains core = false ∧
    s.lost (core / 144) = false :=
  ⟨{ demo with cores := [(0, { unitQ := [7] })], unitOps := [(7, { tid := 0, wg := 1, op := 2, xt := 4, nb := 63, args := [], fmt := 0, targets := [(0, 1)], started := [] })] },
    0, 7, 1,
    { tid := 0, wg := 1, op := 2, xt := 4, nb := 63, args := [], fmt := 0, targets := [(0, 1)], started := [] }, by
    and_intros <;> first | decide +kernel | rfl⟩

theorem witness_MatrixUnits_3 : ∃ (s : State) (core : Nat) (id : Nat) (wg : Nat) (fmt : Nat) (tl : Nat) (o : UnitOp)
    (g : Wg) (u : Thread),
    s.unitHead core = some (id, o, wg) ∧ o.started.contains core = true ∧ s.unitPinned o (core % 4) wg = true ∧
    s.lost (core / 144) = false ∧ s.wgs.get? wg = some g ∧ fmt = o.fmt.toNat ∧ tl = o.xt % 4 ∧ u = o.view core wg :=
  ⟨{ demo with cores := [(0, { unitQ := [7] })], unitOps := [(7, { tid := 0, wg := 1, op := 2, xt := 4, nb := 63, args := [], fmt := 0, targets := [(0, 1)], started := [0] })] },
    0, 7, 1, 0, 0,
    { tid := 0, wg := 1, op := 2, xt := 4, nb := 63, args := [], fmt := 0, targets := [(0, 1)], started := [0] },
    wgp, _, by
    and_intros <;> first | decide +kernel | rfl⟩

theorem witness_AccumulatorTokens_1_1 : ∃ (s : State) (t : Thread) (f : Eng) (tl : Nat),
    s.At t ∧ t.busy = false ∧ tl = f.xt.toNat % 4 ∧ s.hasTile t.wg tl = false :=
  ⟨demo, grp, { eng with xt := 2 }, 2, by
    and_intros <;> first | decide +kernel | rfl⟩

theorem witness_AccumulatorTokens_1_2 : ∃ (s : State) (t : Thread) (f : Eng) (tl : Nat),
    s.At t ∧ t.busy = false ∧ tl = f.xt.toNat % 4 ∧ s.hasTile t.wg tl = true ∧ (s.wgOf t).token tl = .unit ∧
    s.tileBusy t.wg tl = false :=
  ⟨demo, grp, eng, 0, by
    and_intros <;> first | decide +kernel | rfl⟩

theorem witness_AccumulatorTokens_1_3 : ∃ (s : State) (t : Thread) (f : Eng) (tl : Nat),
    s.At t ∧ t.busy = false ∧ tl = f.xt.toNat % 4 ∧ s.hasTile t.wg tl = true ∧ (s.wgOf t).token tl = .group t.gidx :=
  ⟨{ demo with wgs := [(1, { wgp with tiles := [(0, { token := .group 0 })] })] }, grp, eng, 0, by
    and_intros <;> first | decide +kernel | rfl⟩

theorem witness_AccumulatorTokens_1_4 : ∃ (s : State) (t : Thread) (f : Eng) (tl : Nat),
    s.At t ∧ t.busy = false ∧ tl = f.xt.toNat % 4 ∧ s.hasTile t.wg tl = true ∧ (s.wgOf t).token tl = .unit ∧
    s.tileBusy t.wg tl = true :=
  ⟨{ demo with unitOps := [(7, { tid := 0, wg := 1, op := 2, xt := 4, nb := 63, args := [], fmt := 0, targets := [(0, 1)], started := [] })], cores := [(0, { unitQ := [7] })] },
    grp, eng, 0, by
    and_intros <;> first | decide +kernel | rfl⟩

theorem witness_AccumulatorTokens_1_5 : ∃ (s : State) (t : Thread) (f : Eng) (tl : Nat) (g : _),
    s.At t ∧ t.busy = false ∧ tl = f.xt.toNat % 4 ∧ s.hasTile t.wg tl = true ∧
    (((s.wgOf t).token tl = .pending g ∨ (s.wgOf t).token tl = .group g ∧ g ≠ t.gidx)) :=
  ⟨{ demo with wgs := [(1, { wgp with tiles := [(0, { token := .group 1 })] })] }, grp, eng, 0, 1, by
    and_intros <;> first | decide +kernel | rfl⟩

theorem witness_AccumulatorTokens_1_6 : ∃ (s : State) (t : Thread) (f : Eng) (tl : Nat) (g : _),
    s.At t ∧ t.busy = false ∧ tl = f.xt.toNat % 4 ∧ s.wgs.get? t.wg = some g ∧ s.tokenWaiter t.wg tl = none :=
  ⟨demo, grp, eng, 0, wgp, by
    and_intros <;> first | decide +kernel | rfl⟩

theorem witness_AccumulatorTokens_2 : ∃ (s : State) (wg : Nat) (tl : Nat) (g : Nat) (tid : Nat) (w : Wg) (t :
    Thread),
    s.wgs.get? wg = some w ∧ w.token tl = .pending g ∧ s.tokenWaiter wg tl = some (tid, t) ∧
    s.tileBusy wg tl = false :=
  ⟨{ demo.of { grp with status := .accacq 0 } with wgs := [(1, { wgp with tiles := [(0, { token := .pending 0 })] })], cores := [(0, { accQ := [0] })] },
    1, 0, 0, 0, { wgp with tiles := [(0, { token := .pending 0 })] }, { grp with status := .accacq 0 }, by
    and_intros <;> first | decide +kernel | rfl⟩

theorem witness_AccumulatorTokens_3_1 : ∃ (s : State) (t : Thread) (f : Eng) (tl : Nat) (r0 : Nat) (c0 : Nat) (n :
    Nat) (k : Nat) (mine : Prop),
    s.At t ∧ t.side = .wide ∧ t.canRead f.a 1 = .ok ⟨⟩ ∧ tl = f.xt.toNat % 4 ∧ r0 = t.uni f.a % 64 ∧
    c0 = t.uni f.a / 256 % 64 ∧ n = f.xt.toNat / 4 % 16 + 1 ∧ (k = (if accTy f = 0 then 2 else 1)) ∧ r0 + n ≤ 64 ∧
    c0 + t.width ≤ 64 ∧ (mine ↔ s.hasTile t.wg tl = true ∧ (s.wgOf t).token tl = .group t.gidx) ∧
    f.dst.toNat % k = 0 ∧ f.dst.toNat + n * k ≤ 128 ∧ t.vHeld f.dst.toNat (n * k) = true ∧ ¬mine ∧ t.busy = false :=
  ⟨(demo.of { grp with regs := { grp.regs with g := [(1, 14396)] } }),
    { grp with regs := { grp.regs with g := [(1, 14396)] } },
    { eng with ty := 8, xt := 12, a := opd 1 5 1 0, b := opd 1 0 0 8, dst := 4 }, 0, 60, 56, 4, 1, False, by
    and_intros <;> first | decide +kernel | rfl⟩

theorem witness_AccumulatorTokens_3_2 : ∃ (s : State) (t : Thread) (f : Eng) (tl : Nat) (r0 : Nat) (c0 : Nat) (n :
    Nat) (k : Nat) (mine : Prop),
    s.At t ∧ t.side = .wide ∧ t.canRead f.a 1 = .ok ⟨⟩ ∧ tl = f.xt.toNat % 4 ∧ r0 = t.uni f.a % 64 ∧
    c0 = t.uni f.a / 256 % 64 ∧ n = f.xt.toNat / 4 % 16 + 1 ∧ (k = (if accTy f = 0 then 2 else 1)) ∧ r0 + n ≤ 64 ∧
    c0 + t.width ≤ 64 ∧ (mine ↔ s.hasTile t.wg tl = true ∧ (s.wgOf t).token tl = .group t.gidx) ∧
    f.b.reg.toNat % k = 0 ∧ f.b.reg.toNat + n * k ≤ 128 ∧ t.vHeld f.b.reg.toNat (n * k) = true ∧ ¬mine ∧
    t.busy = false ∧ firstEmpty t.regs.ve f.b.reg.toNat (n * k) = none :=
  ⟨(demo.of { grp with regs := { grp.regs with g := [(1, 14396)] } }),
    { grp with regs := { grp.regs with g := [(1, 14396)] } },
    { eng with ty := 8, xt := 12, a := opd 1 5 1 0, b := opd 1 0 0 8, dst := 4 }, 0, 60, 56, 4, 1, False, by
    and_intros <;> first | decide +kernel | rfl⟩

theorem witness_AccumulatorTokens_3_3 : ∃ (s : State) (t : Thread) (f : Eng) (tl : Nat) (r0 : Nat) (c0 : Nat) (n :
    Nat) (k : Nat) (mine : Prop),
    s.At t ∧ t.side = .wide ∧ t.canRead f.a 1 = .ok ⟨⟩ ∧ tl = f.xt.toNat % 4 ∧ r0 = t.uni f.a % 64 ∧
    c0 = t.uni f.a / 256 % 64 ∧ n = f.xt.toNat / 4 % 16 + 1 ∧ (k = (if accTy f = 0 then 2 else 1)) ∧ r0 + n ≤ 64 ∧
    c0 + t.width ≤ 64 ∧ (mine ↔ s.hasTile t.wg tl = true ∧ (s.wgOf t).token tl = .group t.gidx) ∧
    f.dst.toNat % k = 0 ∧ f.dst.toNat + n * k ≤ 128 ∧ t.vHeld f.dst.toNat (n * k) = true ∧ mine ∧ t.active = [] :=
  ⟨{ demo.of { grp with regs := { grp.regs with em := 0, g := [(1, 14396)] } } with wgs := [(1, { wgp with tiles := [(0, { token := .group 0 })] })] },
    { grp with regs := { grp.regs with em := 0, g := [(1, 14396)] } },
    { eng with ty := 8, xt := 12, a := opd 1 5 1 0, b := opd 1 0 0 8, dst := 4 }, 0, 60, 56, 4, 1, True, by
    and_intros <;> first | decide +kernel | rfl⟩

theorem witness_AccumulatorTokens_3_4 : ∃ (s : State) (t : Thread) (f : Eng) (tl : Nat) (r0 : Nat) (c0 : Nat) (n :
    Nat) (k : Nat) (mine : Prop),
    s.At t ∧ t.side = .wide ∧ t.canRead f.a 1 = .ok ⟨⟩ ∧ tl = f.xt.toNat % 4 ∧ r0 = t.uni f.a % 64 ∧
    c0 = t.uni f.a / 256 % 64 ∧ n = f.xt.toNat / 4 % 16 + 1 ∧ (k = (if accTy f = 0 then 2 else 1)) ∧ r0 + n ≤ 64 ∧
    c0 + t.width ≤ 64 ∧ (mine ↔ s.hasTile t.wg tl = true ∧ (s.wgOf t).token tl = .group t.gidx) ∧
    f.dst.toNat % k = 0 ∧ f.dst.toNat + n * k ≤ 128 ∧ t.vHeld f.dst.toNat (n * k) = true ∧ mine ∧ t.active ≠ [] :=
  ⟨{ demo.of { grp with regs := { grp.regs with g := [(1, 14396)] } } with wgs := [(1, { wgp with tiles := [(0, { token := .group 0 })] })] },
    { grp with regs := { grp.regs with g := [(1, 14396)] } },
    { eng with ty := 8, xt := 12, a := opd 1 5 1 0, b := opd 1 0 0 8, dst := 4 }, 0, 60, 56, 4, 1, True, by
    and_intros <;> first | decide +kernel | rfl⟩

theorem witness_AccumulatorTokens_3_5 : ∃ (s : State) (t : Thread) (f : Eng) (tl : Nat) (r0 : Nat) (c0 : Nat) (n :
    Nat) (k : Nat) (mine : Prop) (g : _),
    s.At t ∧ t.side = .wide ∧ t.canRead f.a 1 = .ok ⟨⟩ ∧ tl = f.xt.toNat % 4 ∧ r0 = t.uni f.a % 64 ∧
    c0 = t.uni f.a / 256 % 64 ∧ n = f.xt.toNat / 4 % 16 + 1 ∧ (k = (if accTy f = 0 then 2 else 1)) ∧ r0 + n ≤ 64 ∧
    c0 + t.width ≤ 64 ∧ (mine ↔ s.hasTile t.wg tl = true ∧ (s.wgOf t).token tl = .group t.gidx) ∧
    f.b.reg.toNat % k = 0 ∧ f.b.reg.toNat + n * k ≤ 128 ∧ t.vHeld f.b.reg.toNat (n * k) = true ∧ mine ∧
    t.busy = false ∧ firstEmpty t.regs.ve f.b.reg.toNat (n * k) = none ∧ s.wgs.get? t.wg = some g :=
  ⟨{ demo.of { grp with regs := { grp.regs with g := [(1, 14396)] } } with wgs := [(1, { wgp with tiles := [(0, { token := .group 0 })] })] },
    { grp with regs := { grp.regs with g := [(1, 14396)] } },
    { eng with ty := 8, xt := 12, a := opd 1 5 1 0, b := opd 1 0 0 8, dst := 4 }, 0, 60, 56, 4, 1, True,
    { wgp with tiles := [(0, { token := .group 0 })] }, by
    and_intros <;> first | decide +kernel | rfl⟩

theorem witness_AccumulatorTokens_4_1 : ∃ (s : State) (t : Thread) (f : Eng),
    s.At t ∧ s.unitTarget t (f.xt.toNat % 4) = none :=
  ⟨(demo.of mgrp), mgrp, { eng with xt := 1 }, by
    and_intros <;> first | decide +kernel | rfl⟩

theorem witness_AccumulatorTokens_4_2 : ∃ (s : State) (t : Thread) (f : Eng) (wg : _) (key : _),
    s.At t ∧ s.unitTarget t (f.xt.toNat % 4) = some wg ∧
    key = 144 * (s.wgOf t).die + ((s.wgOf t).core / 4 * 4 + f.xt.toNat % 4) :=
  ⟨(demo.of mgrp), mgrp, { eng with xt := 4 }, 1, _, by
    and_intros <;> first | decide +kernel | rfl⟩

theorem witness_GathersStart_1_1 : ∃ (s : State) (t : Thread) (f : Eng),
    s.At t ∧ t.busy = false ∧ t.canRead f.a 1 = .ok ⟨⟩ ∧ t.canRead f.b 1 = .ok ⟨⟩ ∧ t.uni f.b < 4096 ∧
    t.uni f.a = 0 :=
  ⟨(demo.of (egrp [(1, 0x0), (2, 5)])), (egrp [(1, 0x0), (2, 5)]), { eng with a := opd 1 5 1 0, b := opd 1 5 2 0 },
    by
    and_intros <;> first | decide +kernel | exact ok_of _ _ (by decide +kernel) | rfl | exact Or.inl rfl⟩

set_option maxRecDepth 20000 in
theorem witness_GathersStart_1_2 : ∃ (s : State) (t : Thread) (f : Eng) (p : Nat → Place) (q : Nat → Place) (hdr :
    Nat) (n : Nat) (b : Handle),
    s.At t ∧ t.busy = false ∧ t.canRead f.a 1 = .ok ⟨⟩ ∧ t.canRead f.b 1 = .ok ⟨⟩ ∧ t.uni f.b < 4096 ∧ t.kept = [] ∧
    t.uni f.a ≠ 0 ∧ t.uni f.a % 64 = 0 ∧
    ((∀ j, j < 8 → s.resolve t .load 0 ((t.uni f.a + 8 * j) % 2 ^ 64) 8 = .ok (p j) ∧ (p j).isRemote = false ∧ (p j).isDead = false ∧ s.scrWaits t (p j) 8 = false)) ∧
    (hdr = ofBytes ((List.range 8).flatMap fun j => s.readPlace t (p j) 8)) ∧ n = fld hdr 32 8 + 1 ∧
    ((∀ j, j < 4 * n → s.resolve t .load 0 (((t.uni f.a + 64) % 2 ^ 64 + 8 * j) % 2 ^ 64) 8 = .ok (q j) ∧ (q j).isRemote = false ∧ (q j).isDead = false ∧ s.scrWaits t (q j) 8 = false)) ∧
    (b = handleOf hdr (shardsOf (ofBytes ((List.range (4 * n)).flatMap fun j => s.readPlace t (q j) 8)) n)) :=
  ⟨{ demo.of (egrp [(1, 0xFFFFFFE000000100), (2, 5)]) with wgs := [(1, { wgp with scr := Store.putNat (Store.putNat [] 0x100 64 0x4000000010000000000108001) 0x140 32 0x200600000000040000000000000000000000000000000000000000 })] },
    (egrp [(1, 0xFFFFFFE000000100), (2, 5)]), { eng with a := opd 1 5 1 0, b := opd 1 5 2 0 },
    (fun j => Place.scratch (0x100 + 8 * j)), (fun j => Place.scratch (0x140 + 8 * j)), 0x4000000010000000000108001,
    1, _, by
    and_intros <;> first | decide +kernel | rfl⟩

set_option maxRecDepth 20000 in
theorem witness_GathersStart_2_gath : ∃ (s : State) (t : Thread) (f : Eng) (i : Instr) (kind : Nat) (tile : Nat)
    (list : Nat) (vec : Nat) (lo : Nat) (vo : Nat) (h : Nat) (n : Nat) (m : Nat) (span : Nat) (hd : Handle) (idx :
    List Nat) (groups : List Nat) (pooled : Bool),
    s.At t ∧ t.busy = false ∧
    ((i, kind) ∈ [(Instr.gath f, 0), (.gathp f, if f.op = 0 then 1 else 2), (.scata f, if f.xt.getLsbD 0 then 4 else 3), (.gpref f, 5)]) ∧
    pooled = (kind == 1 || kind == 2) ∧ t.canRead f.a 1 = .ok ⟨⟩ ∧ t.canRead f.b 1 = .ok ⟨⟩ ∧
    ((pooled = true → t.canReadPair f.c = .ok ⟨⟩)) ∧ ((pooled = false → t.canRead f.c 1 = .ok ⟨⟩)) ∧
    ((f.nb = 63 ∨ f.nb.toNat < (s.hdrOf t).nbn)) ∧ tile = t.uni f.a ∧ list = t.uni f.b ∧ vec = t.pairHi f.c ∧
    s.requestWord t (t.uni f.c) pooled false = .ok (h, hd, n, m) ∧
    ((kind ≠ 0 → kind ≠ 5 → formatCheck hd (kind == 4) = .ok ⟨⟩)) ∧ tile % 16 = 0 ∧ list % 4 = 0 ∧
    (aperture list).1 = .scratch ∧ s.rangeOk t list (4 * n) = true ∧ (span = (if pooled then m else n) * hd.len) ∧
    ((aperture tile).1 = (if kind = 5 then .attic else .scratch)) ∧ s.rangeOk t tile span = true ∧
    lo = (aperture list).2 ∧ lo + 4 * n ≤ 2 ^ 36 ∧
    ((∀ j, j < n → s.localPoison t (.scratch (lo + 4 * j)) = false ∧ s.scrWaits t (.scratch (lo + 4 * j)) 4 = false)) ∧
    (idx = ((List.range n).map fun j => (s.wgOf t).scr.getNat (lo + 4 * j) 4)) ∧ vo = (aperture vec).2 ∧
    ((pooled = true → vec % 2 = 0 ∧ (aperture vec).1 = .scratch ∧ s.rangeOk t vec (2 * n) = true ∧ vo + 2 * n ≤ 2 ^ 36 ∧ ∀ j, j < n → s.localPoison t (.scratch (vo + 2 * j)) = false ∧ s.scrWaits t (.scratch (vo + 2 * j)) 2 = false)) ∧
    (groups = (if pooled then (List.range n).map fun j => (s.wgOf t).scr.getNat (vo + 2 * j) 2 else [])) ∧
    (s.cores.getD (s.coreOf t) {}).freeTickets ≠ [] :=
  ⟨{ demo.of (egrp [(1, 0xFFFFFFE000001000), (2, 0xFFFFFFE000002000), (4, 0x10000), (5, 0xFFFFFFE000002100)]) with handles := [(0, { nrows := 4, nsrc := 1, rowb := 1, efmt := 8, interleaved := false, shards := [{ base := 0x200600, cnt := 4, first := 0, die := 0, pkg := 0 }], counters := [0] })] },
    (egrp [(1, 0xFFFFFFE000001000), (2, 0xFFFFFFE000002000), (4, 0x10000), (5, 0xFFFFFFE000002100)]),
    { eng with a := opd 1 5 1 0, b := opd 1 5 2 0, c := opd 1 5 4 0 },
    (.gath { eng with a := opd 1 5 1 0, b := opd 1 5 2 0, c := opd 1 5 4 0 }), 0, 0xFFFFFFE000001000,
    0xFFFFFFE000002000, 0xFFFFFFE000002100, 0x2000, 0x2100, 0, 1, 0, 16,
    { nrows := 4, nsrc := 1, rowb := 1, efmt := 8, interleaved := false, shards := [{ base := 0x200600, cnt := 4, first := 0, die := 0, pkg := 0 }], counters := [0] },
    [0], [], false, by
    and_intros <;> first
      | decide +kernel
      | exact ok_of _ _ (by decide +kernel)
      | exact load_is _ _ (by decide +kernel)
      | exact List.mem_cons_self
      | exact List.mem_cons_of_mem _ List.mem_cons_self
      | (intro h; cases h; done)
      | (intro; exact ⟨rfl, rfl, rfl⟩)
      | (intro h; exact absurd rfl h)
      | (intros; rfl)
      | rfl⟩

set_option maxRecDepth 20000 in
theorem witness_GathersStart_2_gathp : ∃ (s : State) (t : Thread) (f : Eng) (i : Instr) (kind : Nat) (tile : Nat)
    (list : Nat) (vec : Nat) (lo : Nat) (vo : Nat) (h : Nat) (n : Nat) (m : Nat) (span : Nat) (hd : Handle) (idx :
    List Nat) (groups : List Nat) (pooled : Bool),
    s.At t ∧ t.busy = false ∧
    ((i, kind) ∈ [(Instr.gath f, 0), (.gathp f, if f.op = 0 then 1 else 2), (.scata f, if f.xt.getLsbD 0 then 4 else 3), (.gpref f, 5)]) ∧
    pooled = (kind == 1 || kind == 2) ∧ t.canRead f.a 1 = .ok ⟨⟩ ∧ t.canRead f.b 1 = .ok ⟨⟩ ∧
    ((pooled = true → t.canReadPair f.c = .ok ⟨⟩)) ∧ ((pooled = false → t.canRead f.c 1 = .ok ⟨⟩)) ∧
    ((f.nb = 63 ∨ f.nb.toNat < (s.hdrOf t).nbn)) ∧ tile = t.uni f.a ∧ list = t.uni f.b ∧ vec = t.pairHi f.c ∧
    s.requestWord t (t.uni f.c) pooled false = .ok (h, hd, n, m) ∧
    ((kind ≠ 0 → kind ≠ 5 → formatCheck hd (kind == 4) = .ok ⟨⟩)) ∧ tile % 16 = 0 ∧ list % 4 = 0 ∧
    (aperture list).1 = .scratch ∧ s.rangeOk t list (4 * n) = true ∧ (span = (if pooled then m else n) * hd.len) ∧
    ((aperture tile).1 = (if kind = 5 then .attic else .scratch)) ∧ s.rangeOk t tile span = true ∧
    lo = (aperture list).2 ∧ lo + 4 * n ≤ 2 ^ 36 ∧
    ((∀ j, j < n → s.localPoison t (.scratch (lo + 4 * j)) = false ∧ s.scrWaits t (.scratch (lo + 4 * j)) 4 = false)) ∧
    (idx = ((List.range n).map fun j => (s.wgOf t).scr.getNat (lo + 4 * j) 4)) ∧ vo = (aperture vec).2 ∧
    ((pooled = true → vec % 2 = 0 ∧ (aperture vec).1 = .scratch ∧ s.rangeOk t vec (2 * n) = true ∧ vo + 2 * n ≤ 2 ^ 36 ∧ ∀ j, j < n → s.localPoison t (.scratch (vo + 2 * j)) = false ∧ s.scrWaits t (.scratch (vo + 2 * j)) 2 = false)) ∧
    (groups = (if pooled then (List.range n).map fun j => (s.wgOf t).scr.getNat (vo + 2 * j) 2 else [])) ∧
    (s.cores.getD (s.coreOf t) {}).freeTickets ≠ [] :=
  ⟨{ demo.of (egrp [(1, 0xFFFFFFE000001000), (2, 0xFFFFFFE000002000), (4, 0x100010000), (5, 0xFFFFFFE000002100)]) with handles := [(0, { nrows := 4, nsrc := 1, rowb := 1, efmt := 8, interleaved := false, shards := [{ base := 0x200600, cnt := 4, first := 0, die := 0, pkg := 0 }], counters := [0] })] },
    (egrp [(1, 0xFFFFFFE000001000), (2, 0xFFFFFFE000002000), (4, 0x100010000), (5, 0xFFFFFFE000002100)]),
    { eng with a := opd 1 5 1 0, b := opd 1 5 2 0, c := opd 1 5 4 0 },
    (.gathp { eng with a := opd 1 5 1 0, b := opd 1 5 2 0, c := opd 1 5 4 0 }), 1, 0xFFFFFFE000001000,
    0xFFFFFFE000002000, 0xFFFFFFE000002100, 0x2000, 0x2100, 0, 1, 1, 16,
    { nrows := 4, nsrc := 1, rowb := 1, efmt := 8, interleaved := false, shards := [{ base := 0x200600, cnt := 4, first := 0, die := 0, pkg := 0 }], counters := [0] },
    [0], [0], true, by
    and_intros <;> first
      | decide +kernel
      | exact ok_of _ _ (by decide +kernel)
      | exact load_is _ _ (by decide +kernel)
      | exact List.mem_cons_self
      | exact List.mem_cons_of_mem _ List.mem_cons_self
      | (intro h; cases h; done)
      | (intro; exact ⟨rfl, rfl, rfl⟩)
      | (intro h; exact absurd rfl h)
      | (intros; rfl)
      | rfl⟩

theorem witness_GathersStart_3 : ∃ (s : State) (t : Thread) (f : Eng) (h : Nat) (hd : Handle),
    s.At t ∧ t.busy = false ∧ t.canRead f.c 1 = .ok ⟨⟩ ∧ ((f.nb = 63 ∨ f.nb.toNat < (s.hdrOf t).nbn)) ∧
    s.requestWord t (t.uni f.c) false true = .ok (h, hd, 0, 0) ∧ formatCheck hd true = .ok ⟨⟩ ∧
    (s.cores.getD (s.coreOf t) {}).freeTickets ≠ [] :=
  ⟨{ demo.of (egrp [(4, 0x0)]) with handles := [(0, { nrows := 4, nsrc := 1, rowb := 1, efmt := 8, interleaved := false, shards := [{ base := 0x200600, cnt := 4, first := 0, die := 0, pkg := 0 }], counters := [0] })] },
    (egrp [(4, 0x0)]), { eng with a := opd 1 5 1 0, b := opd 1 5 2 0, c := opd 1 5 4 0 }, 0,
    { nrows := 4, nsrc := 1, rowb := 1, efmt := 8, interleaved := false, shards := [{ base := 0x200600, cnt := 4, first := 0, die := 0, pkg := 0 }], counters := [0] },
    by
    and_intros <;> first | decide +kernel | exact ok_of _ _ (by decide +kernel) | rfl | exact Or.inl rfl⟩

theorem witness_GathersEnd_1_1 : ∃ (s : State) (id : Nat) (w : GWork),
    s.gworks.get? id = some w ∧ w.add = false ∧ s.workWaits id w = false ∧ s.rowDead w = true ∧
    s.overdue w.sent = true :=
  ⟨{ demo with dies := [(0, { lost := true })], time := 100000, gworks := [(9, { for_ := .own 5 0, add := false, low := false, ord := false, die := 0, va := 0x200600, efmt := 8, todo := [0], got := [], data := [] })] },
    9,
    { for_ := .own 5 0, add := false, low := false, ord := false, die := 0, va := 0x200600, efmt := 8, todo := [0], got := [], data := [] },
    by
    and_intros <;> first | decide +kernel | rfl⟩

theorem witness_GathersEnd_1_2 : ∃ (s : State) (id : Nat) (w : GWork),
    s.gworks.get? id = some w ∧ w.add = false ∧ s.workWaits id w = false ∧ s.rowDead w = false ∧
    ((∃ k ∈ w.todo, 2 * k ∉ w.asked)) :=
  ⟨{ demo with gworks := [(9, { for_ := .own 5 0, add := false, low := false, ord := false, die := 0, va := 0x200600, efmt := 8, todo := [0], got := [], data := [] })] },
    9,
    { for_ := .own 5 0, add := false, low := false, ord := false, die := 0, va := 0x200600, efmt := 8, todo := [0], got := [], data := [] },
    by
    and_intros <;> first | decide +kernel | rfl⟩

theorem witness_GathersEnd_2_1 : ∃ (s : State) (id : Nat) (w : GWork) (l1 : _) (k : _) (l2 : _) (c : _),
    s.gworks.get? id = some w ∧ w.add = true ∧ s.workWaits id w = false ∧ w.asked = [] ∧ w.places = [] ∧
    s.rowDead w = false ∧ w.todo = l1 ++ k :: l2 ∧
    ((∀ j ∈ l1, ∀ d, s.homeRes w ((w.va + 4 * j) % 2 ^ 64) ≠ .fails d)) ∧
    s.homeRes w ((w.va + 4 * k) % 2 ^ 64) = .fails c :=
  ⟨{ demo with gworks := [(9, { for_ := .own 5 0, add := true, low := false, ord := false, die := 0, va := 0x100000000000000, efmt := 8, todo := [0], got := [], data := List.replicate 4 1 })] },
    9,
    { for_ := .own 5 0, add := true, low := false, ord := false, die := 0, va := 0x100000000000000, efmt := 8, todo := [0], got := [], data := List.replicate 4 1 },
    [], 0, [], 2, by
    and_intros <;> first | decide +kernel | exact error_of _ _ (by decide +kernel) | (intro j hj; cases hj) | rfl⟩

theorem witness_GathersEnd_2_2 : ∃ (s : State) (id : Nat) (n : Nat) (w : GWork) (at_ : Nat → Nat),
    s.gworks.get? id = some w ∧ w.add = true ∧ s.workWaits id w = false ∧ w.asked = [] ∧ w.todo ≠ [] ∧
     (((w.places = [] ∧ s.rowDead w = false ∧ w.todo = List.range n ∧
          ∀ k, k < n → s.homeRes w ((w.va + 4 * k) % 2 ^ 64) = .ok (.phys (at_ k))) ∨
        (w.places = (List.range n).map (fun k => .phys (at_ k)) ∧ n ≠ 0 ∧ s.lost w.die = false ∧ ∀ k ∈ w.todo, k < n))) ∧
    ((∀ k, k < n → s.moving (at_ k) = false)) :=
  ⟨{ demo with gworks := [(9, { for_ := .own 5 0, add := true, low := false, ord := false, die := 0, va := 0x200600, efmt := 8, todo := [0], got := [], data := List.replicate 4 1 })] },
    9, 1,
    { for_ := .own 5 0, add := true, low := false, ord := false, die := 0, va := 0x200600, efmt := 8, todo := [0], got := [], data := List.replicate 4 1 },
    (fun _ => 0x200600), by
    and_intros <;> first
      | decide +kernel
      | exact Or.inl ⟨rfl, by decide +kernel, rfl, fun k h => by
          obtain rfl : k = 0 := by omega
          exact ok_of _ _ (by decide +kernel)⟩
      | rfl⟩

theorem witness_GathersEnd_3 : ∃ (s : State) (gid : Nat) (row : Nat) (o : GOp) (r : GRow),
    s.gops.get? gid = some o ∧ o.rows.get? row = some r ∧ r.settled = false :=
  ⟨{ demo.op grp { kind := .gath, tid := 0, wg := 1, nb := 63, data := [5] } with gops := [(5, { core := 0, ticket := 3, wg := 1, kind := 0, efmt := 8, len := 16, n := 1, m := 1, dst := 0xFFFFFFE000000100, groups := [], rows := [(0, { pkg := 0, die := 0, va := 0x200600, pos := [0], settled := false, bytes := [] })], fails := [], parts := [] })] },
    5, 0,
    { core := 0, ticket := 3, wg := 1, kind := 0, efmt := 8, len := 16, n := 1, m := 1, dst := 0xFFFFFFE000000100, groups := [], rows := [(0, { pkg := 0, die := 0, va := 0x200600, pos := [0], settled := false, bytes := [] })], fails := [], parts := [] },
    { pkg := 0, die := 0, va := 0x200600, pos := [0], settled := false, bytes := [] }, by
    and_intros <;> first
      | decide +kernel
      | (intro j hj; simp at hj; subst hj; exact ⟨by decide, fun b hb => by
          have : (0x100 + 0 * 16 + b) / 16384 = 0 := by omega
          exact this ▸ rfl⟩)
      | rfl⟩

theorem witness_GathersEnd_5 : ∃ (s : State) (s1 : State) (core : Nat) (k : Nat) (gid : Nat) (op : EngOp) (o : GOp)
    (t : Thread) (g : Wg),
    (s.cores.getD core {}).ops.get? k = some op ∧ op.data = [gid] ∧ op.kind ≠ .scatClose ∧ op.kind.byArrival = false ∧
    op.out = [] ∧ s.gops.get? gid = some o ∧ o.core = core ∧ o.ticket = k ∧ o.req = none ∧
    ((∀ r ∈ o.rows, r.2.settled = true)) ∧ s.lost (core / 144) = false ∧ s.threads.get? op.tid = some t ∧
    s1 = s.landRest t gid ∧ s1.wgs.get? op.wg = some g :=
  ⟨{ demo.op grp { kind := .gath, tid := 0, wg := 1, nb := 63, data := [5] } with gops := [(5, { core := 0, ticket := 3, wg := 1, kind := 0, efmt := 8, len := 16, n := 1, m := 1, dst := 0xFFFFFFE000000100, groups := [], rows := [(0, { pkg := 0, die := 0, va := 0x200600, pos := [0], settled := true, bytes := [] })], fails := [], parts := [] })] },
    _, 0, 3, 5, { kind := .gath, tid := 0, wg := 1, nb := 63, data := [5] },
    { core := 0, ticket := 3, wg := 1, kind := 0, efmt := 8, len := 16, n := 1, m := 1, dst := 0xFFFFFFE000000100, groups := [], rows := [(0, { pkg := 0, die := 0, va := 0x200600, pos := [0], settled := true, bytes := [] })], fails := [], parts := [] },
    grp, { wgp with scr := _ }, by
    and_intros <;> first | decide +kernel | rfl | exact Or.inl rfl⟩

theorem witness_GathersEnd_4 : ∃ (s : State) (core : Nat) (k : Nat) (u : Nat) (gid : Nat) (od : Nat) (op : EngOp) (o
    : GOp) (t : Thread) (g : Wg) (bs : List Byte),
    (s.cores.getD core {}).ops.get? k = some op ∧ op.data = [gid] ∧ op.kind ≠ .scatClose ∧ op.kind.isGather = true ∧
    s.gops.get? gid = some o ∧ o.core = core ∧ o.ticket = k ∧ o.req = none ∧ s.lost (core / 144) = false ∧
    s.threads.get? op.tid = some t ∧ s.wgs.get? t.wg = some g ∧ u < o.units ∧ u ∉ o.landed ∧
    o.rowAt s.pkg (16 * u / o.len) = some bs ∧ o.dst = 0xFFFFFFE000000000 + od ∧ od + 16 * u + 16 ≤ 2 ^ 36 ∧
    ((∀ b, b < 16 → g.pinned.contains ((od + 16 * u + b) / 16384) = true)) :=
  ⟨{ demo.op grp { kind := .gath, tid := 0, wg := 1, nb := 63, data := [5] } with gops := [(5, { core := 0, ticket := 3, wg := 1, kind := 0, efmt := 8, len := 16, n := 1, m := 1, dst := 0xFFFFFFE000000100, groups := [], rows := [(0, { pkg := 0, die := 0, va := 0x200600, pos := [0], settled := true, bytes := List.replicate 16 7 })], fails := [], parts := [] })] },
    0, 3, 0, 5, 0x100, { kind := .gath, tid := 0, wg := 1, nb := 63, data := [5] },
    { core := 0, ticket := 3, wg := 1, kind := 0, efmt := 8, len := 16, n := 1, m := 1, dst := 0xFFFFFFE000000100, groups := [], rows := [(0, { pkg := 0, die := 0, va := 0x200600, pos := [0], settled := true, bytes := List.replicate 16 7 })], fails := [], parts := [] },
    grp, wgp, (List.replicate 16 7), by
    and_intros <;> first
      | decide +kernel
      | (intro b hb
         have : (0x100 + 16 * 0 + b) / 16384 = 0 := by omega
         exact this ▸ rfl)
      | rfl⟩

theorem witness_GathersEnd_6 : ∃ (s : State) (gid : Nat) (od : Nat) (o : GOp) (t : Thread) (g : Wg),
    s.gops.get? gid = some o ∧ o.kind = 0 ∧ 0 < o.len ∧ o.len % 16 = 0 ∧ s.wgs.get? t.wg = some g ∧
    o.dst = 0xFFFFFFE000000000 + od ∧ od + o.n * o.len ≤ 2 ^ 36 ∧
    ((∀ a, od ≤ a → a < od + o.n * o.len → g.pinned.contains (a / 16384) = true)) ∧
    ((∀ j, j < o.n → ∃ bs, o.rowAt s.pkg j = some bs ∧ bs.length = o.len)) :=
  ⟨{ demo.op grp { kind := .gath, tid := 0, wg := 1, nb := 63, data := [5] } with gops := [(5, { core := 0, ticket := 3, wg := 1, kind := 0, efmt := 8, len := 16, n := 1, m := 1, dst := 0xFFFFFFE000000100, groups := [], rows := [(0, { pkg := 0, die := 0, va := 0x200600, pos := [0], settled := true, bytes := List.replicate 16 7 })], fails := [], parts := [] })] },
    5, 0x100,
    { core := 0, ticket := 3, wg := 1, kind := 0, efmt := 8, len := 16, n := 1, m := 1, dst := 0xFFFFFFE000000100, groups := [], rows := [(0, { pkg := 0, die := 0, va := 0x200600, pos := [0], settled := true, bytes := List.replicate 16 7 })], fails := [], parts := [] },
    grp, wgp, by
    and_intros <;> first
      | decide +kernel
      | (intro a h1 h2
         have h2' : a < 0x110 := h2
         have : a / 16384 = 0 := by omega
         exact this ▸ rfl)
      | (intro j hj
         have hj' : j < 1 := hj
         obtain rfl : j = 0 := by omega
         exact ⟨List.replicate 16 7, by decide +kernel, rfl⟩)
      | rfl⟩

theorem witness_GathersEnd_7 : ∃ (s : State) (core : Nat) (k : Nat) (gid : Nat) (op : EngOp) (g : Wg),
    (s.cores.getD core {}).ops.get? k = some op ∧ op.data.getD 0 0 = gid ∧ op.kind = .scatClose ∧ op.did ≠ [] ∧
    op.out = [] ∧ s.closeInFlight gid = false ∧ s.lost (core / 144) = false ∧ s.wgs.get? op.wg = some g :=
  ⟨(demo.op grp { kind := .scatClose, tid := 0, wg := 1, nb := 63, data := [5], did := [0] }), 0, 3, 5,
    { kind := .scatClose, tid := 0, wg := 1, nb := 63, data := [5], did := [0] }, wgp, by
    and_intros <;> first | decide +kernel | rfl⟩

theorem witness_GathersEnd_8_2 : ∃ (s : State) (req : GatherReq),
    req.rows ≠ [] ∧ ((req.src ≠ s.pkg ∨ req.forwarded = true)) ∧ req.kind ≠ 4 :=
  ⟨demo,
    { src := 1, id := 0, kind := 0, efmt := 8, len := 16, handle := 0, nsrc := 1, core := 0, seq := 0, rows := [{ key := 0, die := 0, va := 0x200600, pos := [(0, 0)], data := [] }] },
    by
    and_intros <;> first | decide +kernel | rfl⟩

theorem witness_GathersEnd_8_1 : ∃ (s : State) (req : GatherReq),
    req.rows ≠ [] ∧ ((req.src ≠ s.pkg ∨ req.forwarded = true)) ∧ req.kind = 4 :=
  ⟨demo,
    { src := 1, id := 0, kind := 4, efmt := 8, len := 16, handle := 0, nsrc := 1, core := 0, seq := 0, rows := [{ key := 0, die := 0, va := 0x200600, pos := [(0, 0)], data := [] }] },
    by
    and_intros <;> first | decide +kernel | rfl⟩

theorem witness_GathersEnd_9_1 : ∃ (s : State) (rep : GatherRep),
    s.gops.get? rep.id = none :=
  ⟨demo, { pkg := 1, id := 0, rows := [], parts := [] }, by
    first | decide +kernel | rfl⟩

theorem witness_GathersEnd_9_2 : ∃ (s : State) (rep : GatherRep) (o : _) (parts : _),
    s.gops.get? rep.id = some o ∧ (parts = rep.parts.filter (fun p => !o.late rep.pkg p.2.1)) :=
  ⟨{ demo.op grp { kind := .gath, tid := 0, wg := 1, nb := 63, data := [5] } with gops := [(5, { core := 0, ticket := 3, wg := 1, kind := 0, efmt := 8, len := 16, n := 1, m := 1, dst := 0xFFFFFFE000000100, groups := [], rows := [(0, { pkg := 0, die := 0, va := 0x200600, pos := [0], settled := false, bytes := [] })], fails := [], parts := [] })] },
    { pkg := 1, id := 5, rows := [(0, 0, List.replicate 16 7)], parts := [] },
    { core := 0, ticket := 3, wg := 1, kind := 0, efmt := 8, len := 16, n := 1, m := 1, dst := 0xFFFFFFE000000100, groups := [], rows := [(0, { pkg := 0, die := 0, va := 0x200600, pos := [0], settled := false, bytes := [] })], fails := [], parts := [] },
    [], by
    and_intros <;> first | decide +kernel | rfl⟩

theorem witness_GathersEnd_10 : ∃ (s : State) (core : Nat) (k : Nat) (pkg : Nat) (die : Nat) (gid : Nat) (op : EngOp)
    (o : GOp),
    (s.cores.getD core {}).ops.get? k = some op ∧ op.data = [gid] ∧ s.gops.get? gid = some o ∧ o.core = core ∧
    o.ticket = k ∧ ((pkg = s.pkg → s.lost die = true ∧ s.overdue o.sent = true)) ∧
    ((pkg ≠ s.pkg → s.overdue o.sent = true ∨ s.reach pkg = .lost ∨ s.reach pkg = .key)) ∧
    ((∃ r ∈ o.rows, r.2.pkg = pkg ∧ r.2.die = die ∧ r.2.settled = false)) :=
  ⟨{ demo.op grp { kind := .gath, tid := 0, wg := 1, nb := 63, data := [5] } with gops := [(5, { core := 0, ticket := 3, wg := 1, kind := 0, efmt := 8, len := 16, n := 1, m := 1, dst := 0xFFFFFFE000000100, groups := [], rows := [(0, { pkg := 1, die := 0, va := 0x200600, pos := [0], settled := false, bytes := [] })], fails := [], parts := [] })] },
    0, 3, 1, 0, 5, { kind := .gath, tid := 0, wg := 1, nb := 63, data := [5] },
    { core := 0, ticket := 3, wg := 1, kind := 0, efmt := 8, len := 16, n := 1, m := 1, dst := 0xFFFFFFE000000100, groups := [], rows := [(0, { pkg := 1, die := 0, va := 0x200600, pos := [0], settled := false, bytes := [] })], fails := [], parts := [] },
    by
    and_intros <;> first | decide +kernel | rfl⟩

theorem witness_GathersEnd_11_1 : ∃ (s : State) (m : ScatClose) (r : OrdRound) (r' : _),
    m.src ≠ s.pkg ∧ r = s.ordRounds.getD m.handle { closes := 0, announced := 0, received := 0, held := [] } ∧
    r' = { r with closes := r.closes + 1, announced := r.announced + m.rows } ∧
    ((r.closes + 1 < m.nsrc ∨ r.received ≠ r.announced + m.rows)) :=
  ⟨demo, { src := 1, id := 0, handle := 0, nsrc := 2, rows := 0 },
    { closes := 0, announced := 0, received := 0, held := [] }, _, by
    and_intros <;> first | decide +kernel | rfl | exact Or.inl (by decide)⟩

theorem witness_GathersEnd_11_2 : ∃ (s : State) (m : ScatClose) (r : OrdRound),
    m.src ≠ s.pkg ∧ r = s.ordRounds.getD m.handle { closes := 0, announced := 0, received := 0, held := [] } ∧
    m.nsrc ≤ r.closes + 1 ∧ r.received = r.announced + m.rows :=
  ⟨demo, { src := 1, id := 0, handle := 0, nsrc := 1, rows := 0 },
    { closes := 0, announced := 0, received := 0, held := [] }, by
    and_intros <;> first | decide +kernel | rfl⟩

theorem witness_GathersEnd_12_1 : ∃ (s : State) (t : Thread) (f : Eng) (k : Nat) (op : _),
    s.At t ∧ t.busy = false ∧ t.canRead f.a 1 = .ok ⟨⟩ ∧ t.canRead f.b 1 = .ok ⟨⟩ ∧ k = t.uni f.a ∧ k < 16 ∧
    t.uni f.b % 8 = 0 ∧ (s.cores.getD (s.coreOf t) {}).ops.get? k = some op ∧ op.wg = t.wg ∧
    op.kind.isGather = true :=
  ⟨(demo.op (egrp [(1, 0x3), (2, 0x0)]) { kind := .gath, tid := 0, wg := 1, nb := 63, data := [5] }),
    (egrp [(1, 0x3), (2, 0x0)]), { eng with a := opd 1 5 1 0, b := opd 1 5 2 0, dst := 132 }, 3,
    { kind := .gath, tid := 0, wg := 1, nb := 63, data := [5] }, by
    and_intros <;> first | decide +kernel | rfl⟩

theorem witness_GathersEnd_12_2_1 : ∃ (s : State) (t : Thread) (f : Eng) (k : Nat),
    s.At t ∧ t.busy = false ∧ t.canRead f.a 1 = .ok ⟨⟩ ∧ t.canRead f.b 1 = .ok ⟨⟩ ∧ k = t.uni f.a ∧ k < 16 ∧
    t.uni f.b % 8 = 0 ∧
    ((∀ op, (s.cores.getD (s.coreOf t) {}).ops.get? k = some op → op.wg ≠ t.wg ∨ op.kind.isGather = false)) ∧
    (s.wgOf t).tickets.get? k = none :=
  ⟨(demo.of (egrp [(1, 0x3), (2, 0x0)])), (egrp [(1, 0x3), (2, 0x0)]),
    { eng with a := opd 1 5 1 0, b := opd 1 5 2 0, dst := 132 }, 3, by
    and_intros <;> first | decide +kernel | rfl | (intro op h; cases h)⟩

theorem witness_GathersEnd_12_2_2_1 : ∃ (s : State) (t : Thread) (f : Eng) (k : Nat) (x : _),
    s.At t ∧ t.busy = false ∧ t.canRead f.a 1 = .ok ⟨⟩ ∧ t.canRead f.b 1 = .ok ⟨⟩ ∧ k = t.uni f.a ∧ k < 16 ∧
    t.uni f.b % 8 = 0 ∧
    ((∀ op, (s.cores.getD (s.coreOf t) {}).ops.get? k = some op → op.wg ≠ t.wg ∨ op.kind.isGather = false)) ∧
    (s.wgOf t).tickets.get? k = some x ∧ t.uni f.b = 0 :=
  ⟨{ demo.of (egrp [(1, 0x3), (2, 0x0)]) with wgs := [(1, { wgp with tickets := [(3, { bytes := 16, cause := 1, fails := [0] })] })] },
    (egrp [(1, 0x3), (2, 0x0)]), { eng with a := opd 1 5 1 0, b := opd 1 5 2 0, dst := 132 }, 3,
    { bytes := 16, cause := 1, fails := [0] }, by
    and_intros <;> first | decide +kernel | rfl | (intro op h; cases h)⟩

set_option maxRecDepth 20000 in
theorem witness_GathersEnd_12_2_2_2 : ∃ (s : State) (t : Thread) (f : Eng) (k : Nat) (x : _) (p : Nat → Place),
    s.At t ∧ t.busy = false ∧ t.canRead f.a 1 = .ok ⟨⟩ ∧ t.canRead f.b 1 = .ok ⟨⟩ ∧ k = t.uni f.a ∧ k < 16 ∧
    t.uni f.b % 8 = 0 ∧
    ((∀ op, (s.cores.getD (s.coreOf t) {}).ops.get? k = some op → op.wg ≠ t.wg ∨ op.kind.isGather = false)) ∧
    (s.wgOf t).tickets.get? k = some x ∧ t.uni f.b ≠ 0 ∧
    ((∀ j, j < 16 → s.resolve t .store 0 ((t.uni f.b + 8 * j) % 2 ^ 64) 8 = .ok (p j) ∧ (p j).isRemote = false ∧ s.scrWaits t (p j) 8 = false)) :=
  ⟨{ demo.of (egrp [(1, 0x3), (2, 0xFFFFFFE000000200)]) with wgs := [(1, { wgp with tickets := [(3, { bytes := 16, cause := 1, fails := [0] })] })] },
    (egrp [(1, 0x3), (2, 0xFFFFFFE000000200)]), { eng with a := opd 1 5 1 0, b := opd 1 5 2 0, dst := 132 }, 3,
    { bytes := 16, cause := 1, fails := [0] }, (fun j => Place.scratch (0x200 + 8 * j)), by
    and_intros <;> first | decide +kernel | rfl | (intro op h; cases h)⟩

theorem witness_GathersEnd_13 : ∃ (s : State) (t : Thread) (f : Eng) (b : Handle) (p : Nat → Place),
    s.At t ∧ t.busy = false ∧ t.canRead f.a 1 = .ok ⟨⟩ ∧ t.canRead f.b 1 = .ok ⟨⟩ ∧
    s.handle (s.partOf t) (t.uni f.a) = some b ∧
    ((∀ j, j < b.shards.length → s.resolve t .store 0 ((t.uni f.b + 4 * j) % 2 ^ 64) 4 = .ok (p j) ∧ (p j).isRemote = false ∧ s.scrWaits t (p j) 4 = false)) :=
  ⟨{ demo.of (egrp [(1, 0x0), (2, 0xFFFFFFE000000200)]) with handles := [(0, { nrows := 4, nsrc := 1, rowb := 1, efmt := 8, interleaved := false, shards := [{ base := 0x200600, cnt := 4, first := 0, die := 0, pkg := 0 }], counters := [0] })] },
    (egrp [(1, 0x0), (2, 0xFFFFFFE000000200)]), { eng with a := opd 1 5 1 0, b := opd 1 5 2 0, dst := 132 },
    { nrows := 4, nsrc := 1, rowb := 1, efmt := 8, interleaved := false, shards := [{ base := 0x200600, cnt := 4, first := 0, die := 0, pkg := 0 }], counters := [0] },
    (fun j => Place.scratch (0x200 + 4 * j)), by
    and_intros <;> first | decide +kernel | rfl⟩

set_option maxRecDepth 20000 in
theorem witness_RoutingRounds_1 : ∃ (s : State) (t : Thread) (f : Eng) (p : Nat → Place) (w : Nat) (k : Nat) (st :
    Nat) (g : Wg),
    s.At t ∧ t.busy = false ∧ t.kept = [] ∧ t.canRead f.a 1 = .ok ⟨⟩ ∧ k = f.xt.toNat % 8 ∧ t.uni f.a % 64 = 0 ∧
    s.wgs.get? t.wg = some g ∧
    ((∀ j, j < 8 → s.resolve t .load 0 ((t.uni f.a + 8 * j) % 2 ^ 64) 8 = .ok (p j) ∧ (p j).isRemote = false ∧ (p j).isDead = false ∧ s.scrWaits t (p j) 8 = false)) ∧
    (w = ofBytes ((List.range 8).flatMap fun j => s.readPlace t (p j) 8)) ∧
    (st = (if (g.rounds.getD k {}).bound then 1 else if (1 ≤ fld w 64 10 ∧ fld w 64 10 ≤ 512) ∧ 1 ≤ fld w 32 16 ∧ fld w 128 64 % 64 = 0 ∧ fld w 128 64 < 2 ^ 56 then 0 else 2)) :=
  ⟨{ demo.of (egrp [(1, 0xFFFFFFE000000100), (2, 0xFFFFFFE000001000), (4, 0x7)]) with wgs := [(1, { wgp with scr := Store.putNat [] 0x100 64 0x20068000000000000000010000000100000000, rounds := [] })] },
    (egrp [(1, 0xFFFFFFE000000100), (2, 0xFFFFFFE000001000), (4, 0x7)]),
    { eng with a := opd 1 5 1 0, b := opd 1 5 2 0, c := opd 1 5 4 0 }, (fun j => Place.scratch (0x100 + 8 * j)),
    0x20068000000000000000010000000100000000, 0, 0,
    { wgp with scr := Store.putNat [] 0x100 64 0x20068000000000000000010000000100000000, rounds := [] }, by
    and_intros <;> first | decide +kernel | rfl⟩

set_option maxRecDepth 20000 in
theorem witness_RoutingRounds_1_refused : ∃ (s : State) (t : Thread) (f : Eng) (p : Nat → Place) (w : Nat) (k : Nat)
    (st : Nat) (g : Wg),
    s.At t ∧ t.busy = false ∧ t.kept = [] ∧ t.canRead f.a 1 = .ok ⟨⟩ ∧ k = f.xt.toNat % 8 ∧ t.uni f.a % 64 = 0 ∧
    s.wgs.get? t.wg = some g ∧
    ((∀ j, j < 8 → s.resolve t .load 0 ((t.uni f.a + 8 * j) % 2 ^ 64) 8 = .ok (p j) ∧ (p j).isRemote = false ∧ (p j).isDead = false ∧ s.scrWaits t (p j) 8 = false)) ∧
    (w = ofBytes ((List.range 8).flatMap fun j => s.readPlace t (p j) 8)) ∧
    (st = (if (g.rounds.getD k {}).bound then 1 else if (1 ≤ fld w 64 10 ∧ fld w 64 10 ≤ 512) ∧ 1 ≤ fld w 32 16 ∧ fld w 128 64 % 64 = 0 ∧ fld w 128 64 < 2 ^ 56 then 0 else 2)) :=
  ⟨{ demo.of (egrp [(1, 0xFFFFFFE000000100), (2, 0xFFFFFFE000001000), (4, 0x7)]) with wgs := [(1, { wgp with scr := Store.putNat [] 0x100 64 0x0, rounds := [(0, { bound := true })] })] },
    (egrp [(1, 0xFFFFFFE000000100), (2, 0xFFFFFFE000001000), (4, 0x7)]),
    { eng with a := opd 1 5 1 0, b := opd 1 5 2 0, c := opd 1 5 4 0 }, (fun j => Place.scratch (0x100 + 8 * j)), 0,
    0, 1, { wgp with scr := Store.putNat [] 0x100 64 0x0, rounds := [(0, { bound := true })] }, by
    and_intros <;> first | decide +kernel | rfl⟩

set_option maxRecDepth 20000 in
theorem witness_RoutingRounds_2_1 : ∃ (s : State) (t : Thread) (f : Eng) (p : Nat → Place) (q : Nat → Place) (w :
    Nat) (k : Nat) (e : Nat) (acc : Nat) (sl : RoundSlot) (rep : Replica) (g : Wg),
    s.At t ∧ t.busy = false ∧ t.kept = [] ∧ t.canRead f.a 1 = .ok ⟨⟩ ∧ t.canRead f.b 1 = .ok ⟨⟩ ∧
    t.canRead f.c 1 = .ok ⟨⟩ ∧ k = f.xt.toNat % 8 ∧ s.wgs.get? t.wg = some g ∧ sl = g.rounds.getD k {} ∧
    e = t.uni f.a % 4096 ∧ sl.bound = true ∧ e ≤ sl.nexp ∧ t.uni f.b % 16 = 0 ∧
    ((∀ j, j < 8 → s.resolve t .load 0 (((sl.etab + 64 * e) % 2 ^ 64 + 8 * j) % 2 ^ 64) 8 = .ok (p j) ∧ (p j).isRemote = false ∧ (p j).isDead = false ∧ s.scrWaits t (p j) 8 = false)) ∧
    ((∀ j, j < 2 * sl.rowb → s.resolve t .load 0 ((t.uni f.b + 8 * j) % 2 ^ 64) 8 = .ok (q j) ∧ (q j).isRemote = false ∧ (q j).isDead = false ∧ s.scrWaits t (q j) 8 = false)) ∧
    (w = ofBytes ((List.range 8).flatMap fun j => s.readPlace t (p j) 8)) ∧ acc = (sl.acc.get e).toNat + fld w 224 8 ∧
    (rep = { expert := e, replica := if 256 ≤ acc then 1 else 0, buf := fld w (if 256 ≤ acc then 256 else 0) 60, tags := fld w (if 256 ≤ acc then 320 else 64) 60, bar := fld w (if 256 ≤ acc then 384 else 128) 60, cap := fld w (if 256 ≤ acc then 448 else 192) 32 }) ∧
    pkgOf rep.buf ≠ s.pkg ∧ s.reach (pkgOf rep.buf) = .lost :=
  ⟨{ demo.of (egrp [(1, 0x0), (2, 0xFFFFFFE000001000), (4, 0x7)]) with wgs := [(1, { wgp with scr := Store.putNat [] 0x100 64 0x0, rounds := [(0, { bound := true, etab := 0x200680, rowb := 1, nexp := 0, nsrc := 1 })] })], mem := (Store.putNat demoMem 0x200680 8 0x80000200600) },
    (egrp [(1, 0x0), (2, 0xFFFFFFE000001000), (4, 0x7)]),
    { eng with a := opd 1 5 1 0, b := opd 1 5 2 0, c := opd 1 5 4 0 }, (fun j => Place.phys (0x200680 + 8 * j)),
    (fun j => Place.scratch (0x1000 + 8 * j)), 0x80000200600, 0, 0, 0,
    { bound := true, etab := 0x200680, rowb := 1, nexp := 0, nsrc := 1 },
    { expert := 0, replica := 0, buf := 0x80000200600, tags := 0x0, bar := 0x0, cap := 0 },
    { wgp with scr := Store.putNat [] 0x100 64 0x0, rounds := [(0, { bound := true, etab := 0x200680, rowb := 1, nexp := 0, nsrc := 1 })] },
    by
    and_intros <;> first | decide +kernel | exact Or.inr (Or.inl (by decide +kernel)) | rfl⟩

set_option maxRecDepth 20000 in
theorem witness_RoutingRounds_2_2_remote : ∃ (s : State) (t : Thread) (f : Eng) (p : Nat → Place) (q : Nat → Place)
    (w : Nat) (k : Nat) (e : Nat) (acc : Nat) (sl : RoundSlot) (rep : Replica) (g : Wg),
    s.At t ∧ t.busy = false ∧ t.kept = [] ∧ t.canRead f.a 1 = .ok ⟨⟩ ∧ t.canRead f.b 1 = .ok ⟨⟩ ∧
    t.canRead f.c 1 = .ok ⟨⟩ ∧ k = f.xt.toNat % 8 ∧ s.wgs.get? t.wg = some g ∧ sl = g.rounds.getD k {} ∧
    e = t.uni f.a % 4096 ∧ sl.bound = true ∧ e ≤ sl.nexp ∧ t.uni f.b % 16 = 0 ∧
    ((∀ j, j < 8 → s.resolve t .load 0 (((sl.etab + 64 * e) % 2 ^ 64 + 8 * j) % 2 ^ 64) 8 = .ok (p j) ∧ (p j).isRemote = false ∧ (p j).isDead = false ∧ s.scrWaits t (p j) 8 = false)) ∧
    ((∀ j, j < 2 * sl.rowb → s.resolve t .load 0 ((t.uni f.b + 8 * j) % 2 ^ 64) 8 = .ok (q j) ∧ (q j).isRemote = false ∧ (q j).isDead = false ∧ s.scrWaits t (q j) 8 = false)) ∧
    (w = ofBytes ((List.range 8).flatMap fun j => s.readPlace t (p j) 8)) ∧ acc = (sl.acc.get e).toNat + fld w 224 8 ∧
    (rep = { expert := e, replica := if 256 ≤ acc then 1 else 0, buf := fld w (if 256 ≤ acc then 256 else 0) 60, tags := fld w (if 256 ≤ acc then 320 else 64) 60, bar := fld w (if 256 ≤ acc then 384 else 128) 60, cap := fld w (if 256 ≤ acc then 448 else 192) 32 }) ∧
    (pkgOf rep.buf = s.pkg ∨ s.reach (pkgOf rep.buf) = .up ∨ s.reach (pkgOf rep.buf) = .wait) :=
  ⟨{ demo.of (egrp [(1, 0x0), (2, 0xFFFFFFE000001000), (4, 0x7)]) with wgs := [(1, { wgp with scr := Store.putNat [] 0x100 64 0x0, rounds := [(0, { bound := true, etab := 0x200680, rowb := 1, nexp := 0, nsrc := 1 })] })], mem := (Store.putNat demoMem 0x200680 8 0x80000200600), lanes := [(0, { state := 1, en := true, peer := 1 })] },
    (egrp [(1, 0x0), (2, 0xFFFFFFE000001000), (4, 0x7)]),
    { eng with a := opd 1 5 1 0, b := opd 1 5 2 0, c := opd 1 5 4 0 }, (fun j => Place.phys (0x200680 + 8 * j)),
    (fun j => Place.scratch (0x1000 + 8 * j)), 0x80000200600, 0, 0, 0,
    { bound := true, etab := 0x200680, rowb := 1, nexp := 0, nsrc := 1 },
    { expert := 0, replica := 0, buf := 0x80000200600, tags := 0x0, bar := 0x0, cap := 0 },
    { wgp with scr := Store.putNat [] 0x100 64 0x0, rounds := [(0, { bound := true, etab := 0x200680, rowb := 1, nexp := 0, nsrc := 1 })] },
    by
    and_intros <;> first | decide +kernel | exact Or.inr (Or.inl (by decide +kernel)) | rfl⟩

set_option maxRecDepth 20000 in
theorem witness_RoutingRounds_2_2 : ∃ (s : State) (t : Thread) (f : Eng) (p : Nat → Place) (q : Nat → Place) (w :
    Nat) (k : Nat) (e : Nat) (acc : Nat) (sl : RoundSlot) (rep : Replica) (g : Wg),
    s.At t ∧ t.busy = false ∧ t.kept = [] ∧ t.canRead f.a 1 = .ok ⟨⟩ ∧ t.canRead f.b 1 = .ok ⟨⟩ ∧
    t.canRead f.c 1 = .ok ⟨⟩ ∧ k = f.xt.toNat % 8 ∧ s.wgs.get? t.wg = some g ∧ sl = g.rounds.getD k {} ∧
    e = t.uni f.a % 4096 ∧ sl.bound = true ∧ e ≤ sl.nexp ∧ t.uni f.b % 16 = 0 ∧
    ((∀ j, j < 8 → s.resolve t .load 0 (((sl.etab + 64 * e) % 2 ^ 64 + 8 * j) % 2 ^ 64) 8 = .ok (p j) ∧ (p j).isRemote = false ∧ (p j).isDead = false ∧ s.scrWaits t (p j) 8 = false)) ∧
    ((∀ j, j < 2 * sl.rowb → s.resolve t .load 0 ((t.uni f.b + 8 * j) % 2 ^ 64) 8 = .ok (q j) ∧ (q j).isRemote = false ∧ (q j).isDead = false ∧ s.scrWaits t (q j) 8 = false)) ∧
    (w = ofBytes ((List.range 8).flatMap fun j => s.readPlace t (p j) 8)) ∧ acc = (sl.acc.get e).toNat + fld w 224 8 ∧
    (rep = { expert := e, replica := if 256 ≤ acc then 1 else 0, buf := fld w (if 256 ≤ acc then 256 else 0) 60, tags := fld w (if 256 ≤ acc then 320 else 64) 60, bar := fld w (if 256 ≤ acc then 384 else 128) 60, cap := fld w (if 256 ≤ acc then 448 else 192) 32 }) ∧
    (pkgOf rep.buf = s.pkg ∨ s.reach (pkgOf rep.buf) = .up ∨ s.reach (pkgOf rep.buf) = .wait) :=
  ⟨{ demo.of (egrp [(1, 0x0), (2, 0xFFFFFFE000001000), (4, 0x7)]) with wgs := [(1, { wgp with scr := Store.putNat [] 0x100 64 0x0, rounds := [(0, { bound := true, etab := 0x200680, rowb := 1, nexp := 0, nsrc := 1, acc := [(0, 1)] })] })], mem := demoMem ++ [(0x20069C, 255)] },
    (egrp [(1, 0x0), (2, 0xFFFFFFE000001000), (4, 0x7)]),
    { eng with a := opd 1 5 1 0, b := opd 1 5 2 0, c := opd 1 5 4 0 }, (fun j => Place.phys (0x200680 + 8 * j)),
    (fun j => Place.scratch (0x1000 + 8 * j)), 0xFF00000000000000000000000000000000000000000000000000000000, 0, 0,
    256, { bound := true, etab := 0x200680, rowb := 1, nexp := 0, nsrc := 1, acc := [(0, 1)] },
    { expert := 0, replica := 1, buf := 0x0, tags := 0x0, bar := 0x0, cap := 0 },
    { wgp with scr := Store.putNat [] 0x100 64 0x0, rounds := [(0, { bound := true, etab := 0x200680, rowb := 1, nexp := 0, nsrc := 1, acc := [(0, 1)] })] },
    by
    and_intros <;> first | decide +kernel | rfl | exact Or.inl rfl⟩

set_option maxRecDepth 20000 in
theorem witness_RoutingRounds_3 : ∃ (s : State) (t : Thread) (f : Eng) (p : Nat → Place) (k : Nat) (w : Nat) (sl :
    RoundSlot) (g : Wg),
    s.At t ∧ t.busy = false ∧ t.kept = [] ∧ k = f.xt.toNat % 8 ∧ s.wgs.get? t.wg = some g ∧ sl = g.rounds.getD k {} ∧
    sl.bound = true ∧
    ((∀ j, j < 8 * (sl.nexp + 1) → s.resolve t .load 0 ((sl.etab + 8 * j) % 2 ^ 64) 8 = .ok (p j) ∧ (p j).isRemote = false ∧ (p j).isDead = false ∧ s.scrWaits t (p j) 8 = false)) ∧
    (w = ofBytes ((List.range (8 * (sl.nexp + 1))).flatMap fun j => s.readPlace t (p j) 8)) :=
  ⟨{ demo.of (egrp [(1, 0xFFFFFFE000000100), (2, 0xFFFFFFE000001000), (4, 0x7)]) with wgs := [(1, { wgp with scr := Store.putNat [] 0x100 64 0x0, rounds := [(0, { bound := true, etab := 0x200680, rowb := 1, nexp := 0, nsrc := 1 })] })] },
    (egrp [(1, 0xFFFFFFE000000100), (2, 0xFFFFFFE000001000), (4, 0x7)]),
    { eng with a := opd 1 5 1 0, b := opd 1 5 2 0, c := opd 1 5 4 0 }, (fun j => Place.phys (0x200680 + 8 * j)), 0,
    0, { bound := true, etab := 0x200680, rowb := 1, nexp := 0, nsrc := 1 },
    { wgp with scr := Store.putNat [] 0x100 64 0x0, rounds := [(0, { bound := true, etab := 0x200680, rowb := 1, nexp := 0, nsrc := 1 })] },
    by
    and_intros <;> first | decide +kernel | rfl⟩

set_option maxRecDepth 20000 in
theorem witness_RoutingRounds_4 : ∃ (s : State) (t : Thread) (f : Eng) (p : Nat → Place) (k : Nat) (n : Nat) (sl :
    RoundSlot),
    s.At t ∧ t.busy = false ∧ t.canRead f.a 1 = .ok ⟨⟩ ∧ k = f.xt.toNat % 8 ∧ sl = s.roundSlot t k ∧
    t.uni f.a % 4 = 0 ∧ (n = (if sl.once then sl.nexp + 1 else 0)) ∧
    ((∀ j, j < n → s.resolve t .store 0 ((t.uni f.a + 4 * j) % 2 ^ 64) 4 = .ok (p j) ∧ (p j).isRemote = false ∧ s.scrWaits t (p j) 4 = false)) :=
  ⟨{ demo.of (egrp [(1, 0xFFFFFFE000000200)]) with wgs := [(1, { wgp with scr := Store.putNat [] 0x100 64 0x0, rounds := [(0, { bound := true, etab := 0x200680, rowb := 1, nexp := 0, nsrc := 1, once := true })] })] },
    (egrp [(1, 0xFFFFFFE000000200)]), { eng with a := opd 1 5 1 0, b := opd 1 5 2 0, c := opd 1 5 4 0 },
    (fun j => Place.scratch (0x200 + 4 * j)), 0, 1,
    { bound := true, etab := 0x200680, rowb := 1, nexp := 0, nsrc := 1, once := true }, by
    and_intros <;> first | decide +kernel | rfl⟩

theorem witness_RowsArrive_1_1_1 : ∃ (s : State) (m : RowMsg) (k : _),
    m.src ≠ s.pkg ∧ pkgOf m.rep.buf = s.pkg ∧ rowsBefore s.porchIn m = false ∧ s.homeLost (inPkg m.rep.buf) = false ∧
    s.trackerFor m.rid m.nsrc m.rowb m.rep = some k ∧ k.stored < k.cap :=
  ⟨demo,
    { src := 1, wg := 0, rid := 0, nsrc := 1, rowb := 1, rep := { expert := 0, replica := 0, buf := 0x200600, tags := 0x200700, bar := 0x200780, cap := 1 }, tag := 7, data := List.replicate 16 0 },
    { rid := 0, expert := 0, replica := 0, nsrc := 1, closes := 0, announced := 0, received := 0, stored := 0, buf := 0x200600, tags := 0x200700, bar := 0x200780, cap := 1, rowb := 1 },
    by
    and_intros <;> first | decide +kernel | rfl⟩

theorem witness_RowsArrive_1_1_2 : ∃ (s : State) (m : RowMsg) (k : _),
    m.src ≠ s.pkg ∧ pkgOf m.rep.buf = s.pkg ∧ rowsBefore s.porchIn m = false ∧ s.homeLost (inPkg m.rep.buf) = false ∧
    s.trackerFor m.rid m.nsrc m.rowb m.rep = some k ∧ k.cap ≤ k.stored :=
  ⟨demo,
    { src := 1, wg := 0, rid := 0, nsrc := 1, rowb := 1, rep := { expert := 0, replica := 0, buf := 0x200600, tags := 0x200700, bar := 0x200780, cap := 0 }, tag := 7, data := List.replicate 16 0 },
    { rid := 0, expert := 0, replica := 0, nsrc := 1, closes := 0, announced := 0, received := 0, stored := 0, buf := 0x200600, tags := 0x200700, bar := 0x200780, cap := 0, rowb := 1 },
    by
    and_intros <;> first | decide +kernel | rfl⟩

theorem witness_RowsArrive_1_2 : ∃ (s : State) (m : RowMsg),
    m.src ≠ s.pkg ∧ pkgOf m.rep.buf = s.pkg ∧
    (rowsBefore s.porchIn m = true ∨ s.homeLost (inPkg m.rep.buf) = true ∨ s.trackerFor m.rid m.nsrc m.rowb m.rep = none) :=
  ⟨{ demo with dies := [(0, { lost := true })] },
    { src := 1, wg := 0, rid := 0, nsrc := 1, rowb := 1, rep := { expert := 0, replica := 0, buf := 0x200600, tags := 0x200700, bar := 0x200780, cap := 1 }, tag := 7, data := List.replicate 16 0 },
    by
    and_intros <;> first | decide +kernel | rfl⟩

theorem witness_RowsArrive_2 : ∃ (s : State) (rid : Nat) (r : Replica),
    ((∀ k ∈ s.trackers, ¬(k.rid = rid ∧ k.expert = r.expert ∧ k.replica = r.replica))) :=
  ⟨demo, 0, { expert := 0, replica := 0, buf := 0x200600, tags := 0x200700, bar := 0x200780, cap := 1 }, by
    first | (intro k h; cases h) | rfl⟩

theorem witness_RowsArrive_3 : ∃ (s : State) (rid : Nat) (r : Replica) (a : List Tracker) (b : List Tracker) (k :
    Tracker),
    s.trackers = a ++ k :: b ∧ ((∀ x ∈ a, ¬(x.rid = rid ∧ x.expert = r.expert ∧ x.replica = r.replica))) ∧
    k.rid = rid ∧ k.expert = r.expert ∧ k.replica = r.replica :=
  ⟨{ demo with trackers := [{ rid := 0, expert := 0, replica := 0, nsrc := 1, closes := 0, announced := 0, received := 0, stored := 0, buf := 0x200600, tags := 0x200700, bar := 0x200780, cap := 1, rowb := 1 }] },
    0, { expert := 0, replica := 0, buf := 0x200600, tags := 0x200700, bar := 0x200780, cap := 1 }, [], [],
    { rid := 0, expert := 0, replica := 0, nsrc := 1, closes := 0, announced := 0, received := 0, stored := 0, buf := 0x200600, tags := 0x200700, bar := 0x200780, cap := 1, rowb := 1 },
    by
    and_intros <;> first | (intro k h; cases h) | rfl⟩

theorem witness_RowsArrive_4 : ∃ (s : State) (m : RoundClose) (r : Replica) (n : Nat) (k : Tracker),
    m.src ≠ s.pkg ∧ m.counts = [(r, n)] ∧ pkgOf r.buf = s.pkg ∧ s.homeLost (inPkg r.buf) = false ∧
    s.trackerFor m.rid m.nsrc m.rowb r = some k :=
  ⟨demo,
    { src := 1, wg := 0, rid := 0, nsrc := 1, rowb := 1, counts := [({ expert := 0, replica := 0, buf := 0x200600, tags := 0x200700, bar := 0x200780, cap := 1 }, 2)] },
    { expert := 0, replica := 0, buf := 0x200600, tags := 0x200700, bar := 0x200780, cap := 1 }, 2,
    { rid := 0, expert := 0, replica := 0, nsrc := 1, closes := 0, announced := 0, received := 0, stored := 0, buf := 0x200600, tags := 0x200700, bar := 0x200780, cap := 1, rowb := 1 },
    by
    and_intros <;> first | decide +kernel | rfl⟩

theorem witness_RowsArrive_5 : ∃ (s : State) (a : List (RowMsg ⊕ RoundClose)) (b : List (RowMsg ⊕ RoundClose)) (m :
    RowMsg),
    s.porchOwn = a ++ .inl m :: b :=
  ⟨{ demo with porchOwn := [.inl { src := 1, wg := 0, rid := 0, nsrc := 1, rowb := 1, rep := { expert := 0, replica := 0, buf := 0x200600, tags := 0x200700, bar := 0x200780, cap := 1 }, tag := 7, data := List.replicate 16 0 }] },
    [], [],
    { src := 1, wg := 0, rid := 0, nsrc := 1, rowb := 1, rep := { expert := 0, replica := 0, buf := 0x200600, tags := 0x200700, bar := 0x200780, cap := 1 }, tag := 7, data := List.replicate 16 0 },
    by
    first | decide +kernel | rfl⟩

theorem witness_RowsArrive_6 : ∃ (s : State) (a : List Tracker) (b : List Tracker) (c : List RowUnit) (d : List
    RowUnit) (k : Tracker) (u : RowUnit),
    s.trackers = a ++ k :: b ∧ k.out = c ++ u :: d ∧ pkgOf u.pa = s.pkg ∧ s.porchOk u.pa = true :=
  ⟨{ demo with trackers := [{ rid := 0, expert := 0, replica := 0, nsrc := 1, closes := 0, announced := 0, received := 0, stored := 0, buf := 0x200600, tags := 0x200700, bar := 0x200780, cap := 1, rowb := 1, out := [{ pa := 0x200600, data := [1], wg := none }] }] },
    [], [], [], [],
    { rid := 0, expert := 0, replica := 0, nsrc := 1, closes := 0, announced := 0, received := 0, stored := 0, buf := 0x200600, tags := 0x200700, bar := 0x200780, cap := 1, rowb := 1, out := [{ pa := 0x200600, data := [1], wg := none }] },
    { pa := 0x200600, data := [1], wg := none }, by
    and_intros <;> first | decide +kernel | rfl⟩

theorem witness_LanesAndKeys_1 : ∃ (s : State) (t : Thread) (f : Eng),
    s.At t ∧ t.busy = false ∧ t.canRead f.a 1 = .ok ⟨⟩ :=
  ⟨(demo.of (egrp [(1, 0x1)])), (egrp [(1, 0x1)]), { eng with a := opd 1 5 1 0, b := opd 1 5 2 0, c := opd 1 5 4 0 },
    by
    and_intros <;> first | decide +kernel | exact ok_of _ _ (by decide +kernel) | rfl | exact Or.inl rfl⟩

theorem witness_LanesAndKeys_2_1 : ∃ (s : State) (t : Thread) (f : Eng),
    s.At t ∧ t.busy = false ∧ t.canRead f.a 1 = .ok ⟨⟩ ∧ t.canRead f.b 1 = .ok ⟨⟩ ∧ t.uni f.a % 64 = 0 ∧
    ((∃ n, n < 4096 ∧ (t.uni f.b).testBit (n / 64) = true ∧ (s.lane n).state ∈ [1, 2, 4])) :=
  ⟨{ demo.of (egrp [(1, 0xFFFFFFE000000100), (2, 0x1)]) with lanes := [(0, { state := 1 })] },
    (egrp [(1, 0xFFFFFFE000000100), (2, 0x1)]), { eng with a := opd 1 5 1 0, b := opd 1 5 2 0, c := opd 1 5 4 0 }, by
    and_intros <;> first | decide +kernel | exact ok_of _ _ (by decide +kernel) | rfl | exact Or.inl rfl | exact ⟨0, by decide, by decide +kernel, by decide +kernel⟩⟩

set_option maxRecDepth 20000 in
theorem witness_LanesAndKeys_2_2 : ∃ (s : State) (t : Thread) (f : Eng) (p : Nat → Nat → Place),
    s.At t ∧ t.busy = false ∧ t.canRead f.a 1 = .ok ⟨⟩ ∧ t.canRead f.b 1 = .ok ⟨⟩ ∧ t.uni f.a % 64 = 0 ∧ t.kept = [] ∧
    ((∀ n, n < 4096 → (t.uni f.b).testBit (n / 64) = true → (s.lane n).state ∉ [1, 2, 4])) ∧
    ((∀ g j, g < 64 → (t.uni f.b).testBit g = true → j < 32 → s.resolve t .load 0 (((t.uni f.a + 256 * g) % 2 ^ 64 + 8 * j) % 2 ^ 64) 8 = .ok (p g j) ∧ (p g j).isRemote = false ∧ (p g j).isDead = false ∧ s.scrWaits t (p g j) 8 = false)) :=
  ⟨(demo.of (egrp [(1, 0xFFFFFFE000000100), (2, 0x1)])), (egrp [(1, 0xFFFFFFE000000100), (2, 0x1)]),
    { eng with a := opd 1 5 1 0, b := opd 1 5 2 0, c := opd 1 5 4 0 },
    (fun g j => Place.scratch (0x100 + 256 * g + 8 * j)), by
    and_intros <;> first
      | decide +kernel
      | (intro n h
         simp
         done)
      | (intro g j hg hb hj
         have hb' : (1 : Nat).testBit g = true := hb
         revert j
         have h0 : g = 0 := Nat.testBit_one_eq_true_iff_self_eq_zero.mp hb'
         subst h0
         decide +kernel)
      | rfl⟩

theorem witness_LanesAndKeys_3 : ∃ (s : State) (t : Thread) (f : Eng) (n : Nat),
    s.At t ∧ t.busy = false ∧ t.canRead f.a 1 = .ok ⟨⟩ ∧ n = t.uni f.a ∧ n < 512 :=
  ⟨(demo.of (egrp [(1, 0x0)])), (egrp [(1, 0x0)]), { eng with a := opd 1 5 1 0, b := opd 1 5 2 0, c := opd 1 5 4 0 },
    0, by
    and_intros <;> first | decide +kernel | exact ok_of _ _ (by decide +kernel) | rfl | exact Or.inl rfl⟩

theorem witness_LanesAndKeys_4_1 : ∃ (s : State) (n : Nat) (l : Lane),
    s.lane n = l ∧ l.state = 2 :=
  ⟨{ demo with lanes := [(0, { state := 2 })] }, 0, { state := 2 }, by
    and_intros <;> first | decide +kernel | rfl⟩

theorem witness_LanesAndKeys_4_2_1 : ∃ (s : State) (n : Nat) (l : Lane) (peer : BitVec 17),
    s.lane n = l ∧ n < 4096 ∧ l.state = 4 ∧ s.mram.lifecycle ≠ 3 ∧ l.peer = peer.toNat :=
  ⟨{ demo with lanes := [(0, { state := 4, peer := 3 })] }, 0, { state := 4, peer := 3 }, 3, by
    and_intros <;> first | decide +kernel | rfl⟩

theorem witness_LanesAndKeys_4_2_2 : ∃ (s : State) (n : Nat) (l : Lane) (peer : BitVec 17),
    s.lane n = l ∧ n < 4096 ∧ l.state = 4 ∧ s.mram.lifecycle ≠ 3 ∧ l.peer ≠ peer.toNat :=
  ⟨{ demo with lanes := [(0, { state := 4, peer := 3 })] }, 0, { state := 4, peer := 3 }, 4, by
    and_intros <;> first | decide +kernel | rfl⟩

theorem witness_LanesAndKeys_4_3_2 : ∃ (s : State) (n : Nat) (l : Lane) (s' : _),
    s.lane n = l ∧ l.state = 4 ∧ exec (.relockTimeout n) s = .next s' :=
  ⟨{ demo with lanes := [(0, { state := 4, peer := 3 })] }, 0, { state := 4, peer := 3 }, _, by
    and_intros <;> first | decide +kernel | rfl⟩

theorem witness_LanesAndKeys_4_4 : ∃ (s : State) (n : Nat) (l : Lane),
    s.lane n = l ∧ n < 4096 ∧ s.mram.lifecycle ≠ 3 :=
  ⟨{ demo with lanes := [(0, { state := 4, peer := 3 })] }, 0, { state := 4, peer := 3 }, by
    and_intros <;> first | decide +kernel | rfl⟩

theorem witness_LanesAndKeys_5_1 : ∃ (s : State) (m : RelayMsg),
    msgDest m.msg ≠ s.pkg ∧ msgDest m.msg / 4096 = s.pkg / 4096 ∧ relayed m.msg = true ∧
    ((s.reach (msgDest m.msg) = .up ∨ s.reach (msgDest m.msg) = .wait)) :=
  ⟨{ demo with lanes := [(0, { state := 1, en := true, peer := 1 })] }, ⟨.reply 1 5 [1] 0 0 false⟩, by
    and_intros <;> first | decide +kernel | exact Or.inl (by decide +kernel)⟩

theorem witness_LanesAndKeys_5_2 : ∃ (s : State) (m : RelayMsg),
    msgDest m.msg ≠ s.pkg ∧ msgDest m.msg / 4096 = s.pkg / 4096 ∧ relayed m.msg = true ∧
    ((s.reach (msgDest m.msg) = .lost ∨ s.reach (msgDest m.msg) = .key)) :=
  ⟨demo, ⟨.reply 1 5 [1] 0 0 false⟩, by
    and_intros <;> first | decide +kernel | exact Or.inl (by decide +kernel)⟩

theorem witness_LanesAndKeys_6 : ∃ (s : State) (p : Nat) (r : RowMsg) (t : Thread),
    r.src = s.pkg ∧ p / 4096 ≠ s.pkg / 4096 ∧ s.reach p ≠ .key ∧ s.threads.get? r.tid = some t :=
  ⟨demo, 0x1000,
    { src := 0, wg := 0, tid := 0, rid := 0, nsrc := 1, rowb := 1, rep := { expert := 0, replica := 0, buf := 0x200600, tags := 0x200700, bar := 0x200780, cap := 1 }, tag := 7, data := [] },
    grp, by
    and_intros <;> first | decide +kernel | rfl⟩

theorem witness_LanesAndKeys_7_1 : ∃ (s : State) (x : Flit) (l : Lane) (p : Nat) (seq : Nat) (typ : Nat) (next : Nat)
    (kg : Bool) (good : Bool),
    x.lane < 4096 ∧ l = s.lane x.lane ∧ l.rpeer = some p ∧ seq = fld x.header.toNat 40 32 ∧ kg = tb x.header.toNat 8 ∧
    typ = fld x.header.toNat 0 8 ∧
    (good = (x.tag && ((if kg then (s.link p).bank1 else (s.link p).bank0).isSome || (typ == 0x0D && (s.link p).bank0.isNone && (s.link p).bank1.isNone)))) ∧
    (next = (if l.rkg = kg then l.rseq else 0)) ∧ good = true ∧ seq = next :=
  ⟨{ demo with lanes := [(0, { rpeer := some 1 })], links := [(1, { bank0 := some { key := 1, salt := 1 } })] },
    { lane := 0, header := 1, tag := true }, { rpeer := some 1 }, 1, 0, 1, 0, false, true, by
    and_intros <;> first | decide +kernel | rfl⟩

theorem witness_LanesAndKeys_7_2 : ∃ (s : State) (x : Flit) (l : Lane) (p : Nat) (seq : Nat) (typ : Nat) (next : Nat)
    (kg : Bool) (good : Bool),
    x.lane < 4096 ∧ l = s.lane x.lane ∧ l.rpeer = some p ∧ seq = fld x.header.toNat 40 32 ∧ kg = tb x.header.toNat 8 ∧
    typ = fld x.header.toNat 0 8 ∧
    (good = (x.tag && ((if kg then (s.link p).bank1 else (s.link p).bank0).isSome || (typ == 0x0D && (s.link p).bank0.isNone && (s.link p).bank1.isNone)))) ∧
    (next = (if l.rkg = kg then l.rseq else 0)) ∧ ¬(good = true ∧ seq = next) :=
  ⟨{ demo with lanes := [(0, { rpeer := some 1 })], links := [(1, { bank0 := some { key := 1, salt := 1 } })] },
    { lane := 0, header := 1, tag := false }, { rpeer := some 1 }, 1, 0, 1, 0, false, false, by
    and_intros <;> first | decide +kernel | rfl⟩

theorem witness_LanesAndKeys_7_2_order : ∃ (s : State) (x : Flit) (l : Lane) (p : Nat) (seq : Nat) (typ : Nat) (next
    : Nat) (kg : Bool) (good : Bool),
    x.lane < 4096 ∧ l = s.lane x.lane ∧ l.rpeer = some p ∧ seq = fld x.header.toNat 40 32 ∧ kg = tb x.header.toNat 8 ∧
    typ = fld x.header.toNat 0 8 ∧
    (good = (x.tag && ((if kg then (s.link p).bank1 else (s.link p).bank0).isSome || (typ == 0x0D && (s.link p).bank0.isNone && (s.link p).bank1.isNone)))) ∧
    (next = (if l.rkg = kg then l.rseq else 0)) ∧ ¬(good = true ∧ seq = next) :=
  ⟨{ demo with lanes := [(0, { rpeer := some 1 })], links := [(1, { bank0 := some { key := 1, salt := 1 } })] },
    { lane := 0, header := 1099511627777, tag := true }, { rpeer := some 1 }, 1, 1, 1, 0, false, true, by
    and_intros <;> first | decide +kernel | rfl⟩

theorem witness_LanesAndKeys_8_1 : ∃ (s : State) (n : Nat) (seq : BitVec 32) (l : Lane) (mine : Bool) (keep : Run →
    Option Run),
    l = s.lane n ∧ ((l.state = 1 ∨ l.state = 2)) ∧
    ((mine = true ↔ ∃ r ∈ l.replay, r.kg = l.kg ∧ r.last - r.n ≤ seq.toNat)) ∧ l.replay ≠ [] ∧
    ((∀ r, keep r = if r.kg = l.kg ∧ mine = false then some r else if r.kg ≠ l.kg ∧ mine = true then none else if seq.toNat < r.last - r.n then some r else if r.last ≤ seq.toNat + 1 then none else some { r with n := r.last - (seq.toNat + 1), flits := r.flits.drop (r.n - (r.last - (seq.toNat + 1))) })) ∧
    ((mine = true ∨ ∃ r ∈ l.replay, r.last - r.n ≤ seq.toNat)) :=
  ⟨{ demo with lanes := [(0, { state := 1, replay := [{ kg := false, last := 5, n := 2, msg := .reply 1 5 [1] 0 0 false }] })] },
    0, 3, { state := 1, replay := [{ kg := false, last := 5, n := 2, msg := .reply 1 5 [1] 0 0 false }] }, true, _,
    by
    and_intros <;> first | decide +kernel | rfl | (intro r; rfl)⟩

theorem witness_LanesAndKeys_8_2_1 : ∃ (s : State) (n : Nat) (seq : BitVec 32) (l : Lane) (mine : Bool),
    l = s.lane n ∧ ((l.state = 1 ∨ l.state = 2)) ∧
    ((mine = true ↔ ∃ r ∈ l.replay, r.kg = l.kg ∧ r.last - r.n ≤ seq.toNat)) ∧ l.replay ≠ [] ∧
    ((∀ r ∈ l.replay, seq.toNat < r.last - r.n)) ∧ l.refused < 7 :=
  ⟨{ demo with lanes := [(0, { state := 1, replay := [{ kg := false, last := 5, n := 2, msg := .reply 1 5 [1] 0 0 false }], refused := 6 })] },
    0, 2,
    { state := 1, replay := [{ kg := false, last := 5, n := 2, msg := .reply 1 5 [1] 0 0 false }], refused := 6 },
    false, by
    and_intros <;> first | decide +kernel | rfl⟩

theorem witness_LanesAndKeys_8_2_2 : ∃ (s : State) (n : Nat) (seq : BitVec 32) (l : Lane) (mine : Bool),
    l = s.lane n ∧ ((l.state = 1 ∨ l.state = 2)) ∧
    ((mine = true ↔ ∃ r ∈ l.replay, r.kg = l.kg ∧ r.last - r.n ≤ seq.toNat)) ∧ l.replay ≠ [] ∧
    ((∀ r ∈ l.replay, seq.toNat < r.last - r.n)) ∧ 7 ≤ l.refused :=
  ⟨{ demo with lanes := [(0, { state := 1, replay := [{ kg := false, last := 5, n := 2, msg := .reply 1 5 [1] 0 0 false }], refused := 7 })] },
    0, 2,
    { state := 1, replay := [{ kg := false, last := 5, n := 2, msg := .reply 1 5 [1] 0 0 false }], refused := 7 },
    false, by
    and_intros <;> first | decide +kernel | rfl⟩

theorem witness_LanesAndKeys_9_1_1 : ∃ (s : State) (peer : BitVec 17) (k : Link) (s1 : State),
    k = s.link peer.toNat ∧ s1 = { s with hreg := s.hreg.put 0x308 (BitVec.ofNat 64 peer.toNat) } ∧
    (k.busy = true ∨ k.fresh ≠ none) :=
  ⟨{ demo with links := [(3, { busy := true })] }, 3, { busy := true }, _, by
    and_intros <;> first | decide +kernel | exact Or.inl rfl | rfl⟩

theorem witness_LanesAndKeys_9_1_2 : ∃ (s : State) (peer : BitVec 17) (k : Link) (s1 : State),
    k = s.link peer.toNat ∧ s1 = { s with hreg := s.hreg.put 0x308 (BitVec.ofNat 64 peer.toNat) } ∧ k.busy = false ∧
    k.fresh = none :=
  ⟨demo, 3, {}, _, by
    and_intros <;> first | decide +kernel | rfl⟩

theorem witness_LanesAndKeys_9_2 : ∃ (s : State) (peer : BitVec 17) (k : Link),
    k = s.link peer.toNat ∧ k.busy = true :=
  ⟨{ demo with links := [(3, { busy := true })] }, 3, { busy := true }, by
    and_intros <;> first | decide +kernel | rfl⟩

theorem witness_LanesAndKeys_10 : ∃ (s : State) (n : Nat) (l : Lane) (k : Link),
    l = s.lane n ∧ k = s.link l.peer ∧ 2 ^ 31 < l.seq ∧ k.busy = false ∧ k.fresh = none :=
  ⟨{ demo with lanes := [(0, { seq := 0x80000001, peer := 3 })] }, 0, { seq := 0x80000001, peer := 3 }, {}, by
    and_intros <;> first | decide +kernel | rfl⟩

theorem witness_RemoteAccesses_1_1_1 : ∃ (s : State) (req : RemoteReq) (a : Nat) (wts : Nat) (rts : Nat) (dest : _),
    pkgOf req.pa = s.pkg ∧ ((req.src ≠ s.pkg ∨ req.forwarded = true)) ∧ a = inPkg req.pa ∧
    s.lts.getD (a / 128) (0, 0) = (wts, rts) ∧ s.fwdOf a = some dest ∧ req.forwarded = true :=
  ⟨{ demo with fwd := [(0x20, 0x8000020)] },
    { src := 1, id := 0, kind := 0, op := 0, pa := 0x200600, size := 4, data := [], forwarded := true }, 0x200600, 0,
    0, 0x80000200600, by
    and_intros <;> first | decide +kernel | rfl⟩

theorem witness_RemoteAccesses_1_1_3 : ∃ (s : State) (req : RemoteReq) (a : Nat) (wts : Nat) (rts : Nat) (dest : _),
    pkgOf req.pa = s.pkg ∧ ((req.src ≠ s.pkg ∨ req.forwarded = true)) ∧ a = inPkg req.pa ∧
    s.lts.getD (a / 128) (0, 0) = (wts, rts) ∧ s.fwdOf a = some dest ∧ req.forwarded = false ∧ pkgOf dest ≠ s.pkg :=
  ⟨{ demo with fwd := [(0x20, 0x8000020)] },
    { src := 1, id := 0, kind := 0, op := 0, pa := 0x200600, size := 4, data := [], forwarded := false }, 0x200600,
    0, 0, 0x80000200600, by
    and_intros <;> first | decide +kernel | rfl⟩

theorem witness_RemoteAccesses_1_1_2 : ∃ (s : State) (req : RemoteReq) (a : Nat) (wts : Nat) (rts : Nat) (dest : _),
    pkgOf req.pa = s.pkg ∧ ((req.src ≠ s.pkg ∨ req.forwarded = true)) ∧ a = inPkg req.pa ∧
    s.lts.getD (a / 128) (0, 0) = (wts, rts) ∧ s.fwdOf a = some dest ∧ pkgOf dest = s.pkg ∧
    s.fwdOf (inPkg dest) ≠ none :=
  ⟨{ demo with fwd := [(0x20, 0x21) ,(0x21, 0x22)] },
    { src := 1, id := 0, kind := 0, op := 0, pa := 0x200600, size := 4, data := [], forwarded := false }, 0x200600,
    0, 0, 0x210600, by
    and_intros <;> first | decide +kernel | rfl⟩

theorem witness_RemoteAccesses_1_2 : ∃ (s : State) (req : RemoteReq) (a : Nat) (wts : Nat) (rts : Nat),
    pkgOf req.pa = s.pkg ∧ ((req.src ≠ s.pkg ∨ req.forwarded = true)) ∧ a = inPkg req.pa ∧
    s.lts.getD (a / 128) (0, 0) = (wts, rts) ∧ s.fwdOf a = none ∧ s.physOk a = false :=
  ⟨demo, { src := 1, id := 0, kind := 0, op := 0, pa := 0x9000000000, size := 4, data := [], forwarded := false },
    0x9000000000, 0, 0, by
    and_intros <;> first | decide +kernel | rfl⟩

theorem witness_RemoteAccesses_1_3_1_1 : ∃ (s : State) (req : RemoteReq) (a : Nat) (wts : Nat) (rts : Nat),
    pkgOf req.pa = s.pkg ∧ ((req.src ≠ s.pkg ∨ req.forwarded = true)) ∧ a = inPkg req.pa ∧
    s.lts.getD (a / 128) (0, 0) = (wts, rts) ∧ s.fwdOf a = none ∧ s.physOk a = true ∧ s.homeLost a = false ∧
    ((s.power = .hold → stackOf a = none)) ∧ ((req.kind = 0 ∨ s.moving a = false)) ∧ s.poisoned a = true ∧
    req.kind ∈ [0, 2, 5] :=
  ⟨{ demo with poison := [0x400C] },
    { src := 1, id := 0, kind := 0, op := 0, pa := 0x200600, size := 4, data := [], forwarded := false }, 0x200600,
    0, 0, by
    and_intros <;> first | decide +kernel | rfl⟩

theorem witness_RemoteAccesses_1_3_1_2 : ∃ (s : State) (req : RemoteReq) (a : Nat) (wts : Nat) (rts : Nat),
    pkgOf req.pa = s.pkg ∧ ((req.src ≠ s.pkg ∨ req.forwarded = true)) ∧ a = inPkg req.pa ∧
    s.lts.getD (a / 128) (0, 0) = (wts, rts) ∧ s.fwdOf a = none ∧ s.physOk a = true ∧ s.homeLost a = false ∧
    ((s.power = .hold → stackOf a = none)) ∧ ((req.kind = 0 ∨ s.moving a = false)) ∧ s.poisoned a = true ∧
    req.kind = 7 :=
  ⟨{ demo with poison := [0x400C] },
    { src := 1, id := 0, kind := 7, op := 0, pa := 0x200600, size := 4, data := [1, 2, 3, 4], forwarded := false },
    0x200600, 0, 0, by
    and_intros <;> first | decide +kernel | rfl⟩

theorem witness_RemoteAccesses_1_3_2_kind0 : ∃ (s : State) (req : RemoteReq) (a : Nat) (wts : Nat) (rts : Nat) (new :
    List Byte) (back : List Byte) (old : Nat) (d : Nat),
    pkgOf req.pa = s.pkg ∧ ((req.src ≠ s.pkg ∨ req.forwarded = true)) ∧ a = inPkg req.pa ∧
    s.lts.getD (a / 128) (0, 0) = (wts, rts) ∧ s.fwdOf a = none ∧ s.physOk a = true ∧ s.homeLost a = false ∧
    ((s.power = .hold → stackOf a = none)) ∧ ((req.kind = 0 ∨ s.moving a = false)) ∧
    ((s.poisoned a = false ∨ req.kind ∈ [1, 3, 4])) ∧ d = ofBytes req.data ∧ old = s.mem.getNat a req.size ∧
     ((req.kind = 0 ∧ new = [] ∧ back = s.mem.bytes a req.size ∨
          req.kind = 1 ∧ new = req.data ∧ back = [] ∨
          req.kind = 2 ∧ 0 < req.size ∧ req.data.length = 2 * req.size ∧ back = toBytes old req.size ∧
            new = toBytes ((AtomOp.ofWord req.op).apply old (ofBytes (req.data.take req.size))
              (ofBytes (req.data.drop req.size))) req.size ∨
          req.kind = 3 ∧ back = [] ∧ new = toBytes ((Bar.ofWord (s.mem.getNat a 64)).add
            { a := fld d 0 64, b := fld d 64 64, v := fld d 128 64, x := fld d 192 64, y := fld d 256 64, e := tb d 320 }).word 64 ∨
          req.kind = 4 ∧ back = [] ∧
            new = toBytes ((Bar.ofWord (s.mem.getNat a 64)).init (fld d 0 64) (fld d 64 64)).word 64 ∨
          req.kind = 5 ∧ back = [] ∧ new = ((List.range (req.data.length / 4)).flatMap fun i =>
            toBytes (wordAdd (req.op % 256) (tb req.op 8) (s.mem.getNat (a + 4 * i) 4) (fld d (32 * i) 32)) 4) ∨
          req.kind = 7 ∧ back = [] ∧ new = toBytes (f32Add (tb req.op 8) (s.mem.getNat a 4) d) 4)) :=
  ⟨demo, { src := 1, id := 0, kind := 0, op := 0, pa := 0x200600, size := 4, data := [], forwarded := false },
    0x200600, 0, 0, [], [0, 0, 0, 0], 0, 0, by
    and_intros <;> first | decide +kernel | rfl⟩

theorem witness_RemoteAccesses_1_3_2_kind1 : ∃ (s : State) (req : RemoteReq) (a : Nat) (wts : Nat) (rts : Nat) (new :
    List Byte) (back : List Byte) (old : Nat) (d : Nat),
    pkgOf req.pa = s.pkg ∧ ((req.src ≠ s.pkg ∨ req.forwarded = true)) ∧ a = inPkg req.pa ∧
    s.lts.getD (a / 128) (0, 0) = (wts, rts) ∧ s.fwdOf a = none ∧ s.physOk a = true ∧ s.homeLost a = false ∧
    ((s.power = .hold → stackOf a = none)) ∧ ((req.kind = 0 ∨ s.moving a = false)) ∧
    ((s.poisoned a = false ∨ req.kind ∈ [1, 3, 4])) ∧ d = ofBytes req.data ∧ old = s.mem.getNat a req.size ∧
     ((req.kind = 0 ∧ new = [] ∧ back = s.mem.bytes a req.size ∨
          req.kind = 1 ∧ new = req.data ∧ back = [] ∨
          req.kind = 2 ∧ 0 < req.size ∧ req.data.length = 2 * req.size ∧ back = toBytes old req.size ∧
            new = toBytes ((AtomOp.ofWord req.op).apply old (ofBytes (req.data.take req.size))
              (ofBytes (req.data.drop req.size))) req.size ∨
          req.kind = 3 ∧ back = [] ∧ new = toBytes ((Bar.ofWord (s.mem.getNat a 64)).add
            { a := fld d 0 64, b := fld d 64 64, v := fld d 128 64, x := fld d 192 64, y := fld d 256 64, e := tb d 320 }).word 64 ∨
          req.kind = 4 ∧ back = [] ∧
            new = toBytes ((Bar.ofWord (s.mem.getNat a 64)).init (fld d 0 64) (fld d 64 64)).word 64 ∨
          req.kind = 5 ∧ back = [] ∧ new = ((List.range (req.data.length / 4)).flatMap fun i =>
            toBytes (wordAdd (req.op % 256) (tb req.op 8) (s.mem.getNat (a + 4 * i) 4) (fld d (32 * i) 32)) 4) ∨
          req.kind = 7 ∧ back = [] ∧ new = toBytes (f32Add (tb req.op 8) (s.mem.getNat a 4) d) 4)) :=
  ⟨demo,
    { src := 1, id := 0, kind := 1, op := 0, pa := 0x200600, size := 4, data := [1, 2, 3, 4], forwarded := false },
    0x200600, 0, 0, [1, 2, 3, 4], [], 0, 0x4030201, by
    and_intros <;> first | decide +kernel | rfl⟩

theorem witness_RemoteAccesses_1_3_2_kind2 : ∃ (s : State) (req : RemoteReq) (a : Nat) (wts : Nat) (rts : Nat) (new :
    List Byte) (back : List Byte) (old : Nat) (d : Nat),
    pkgOf req.pa = s.pkg ∧ ((req.src ≠ s.pkg ∨ req.forwarded = true)) ∧ a = inPkg req.pa ∧
    s.lts.getD (a / 128) (0, 0) = (wts, rts) ∧ s.fwdOf a = none ∧ s.physOk a = true ∧ s.homeLost a = false ∧
    ((s.power = .hold → stackOf a = none)) ∧ ((req.kind = 0 ∨ s.moving a = false)) ∧
    ((s.poisoned a = false ∨ req.kind ∈ [1, 3, 4])) ∧ d = ofBytes req.data ∧ old = s.mem.getNat a req.size ∧
     ((req.kind = 0 ∧ new = [] ∧ back = s.mem.bytes a req.size ∨
          req.kind = 1 ∧ new = req.data ∧ back = [] ∨
          req.kind = 2 ∧ 0 < req.size ∧ req.data.length = 2 * req.size ∧ back = toBytes old req.size ∧
            new = toBytes ((AtomOp.ofWord req.op).apply old (ofBytes (req.data.take req.size))
              (ofBytes (req.data.drop req.size))) req.size ∨
          req.kind = 3 ∧ back = [] ∧ new = toBytes ((Bar.ofWord (s.mem.getNat a 64)).add
            { a := fld d 0 64, b := fld d 64 64, v := fld d 128 64, x := fld d 192 64, y := fld d 256 64, e := tb d 320 }).word 64 ∨
          req.kind = 4 ∧ back = [] ∧
            new = toBytes ((Bar.ofWord (s.mem.getNat a 64)).init (fld d 0 64) (fld d 64 64)).word 64 ∨
          req.kind = 5 ∧ back = [] ∧ new = ((List.range (req.data.length / 4)).flatMap fun i =>
            toBytes (wordAdd (req.op % 256) (tb req.op 8) (s.mem.getNat (a + 4 * i) 4) (fld d (32 * i) 32)) 4) ∨
          req.kind = 7 ∧ back = [] ∧ new = toBytes (f32Add (tb req.op 8) (s.mem.getNat a 4) d) 4)) :=
  ⟨demo,
    { src := 1, id := 0, kind := 2, op := 0, pa := 0x200600, size := 4, data := [1, 0, 0, 0, 0, 0, 0, 0], forwarded := false },
    0x200600, 0, 0, [1, 0, 0, 0], [0, 0, 0, 0], 0, 1, by
    and_intros <;> first | decide +kernel | rfl⟩

theorem witness_RemoteAccesses_1_3_2_kind5 : ∃ (s : State) (req : RemoteReq) (a : Nat) (wts : Nat) (rts : Nat) (new :
    List Byte) (back : List Byte) (old : Nat) (d : Nat),
    pkgOf req.pa = s.pkg ∧ ((req.src ≠ s.pkg ∨ req.forwarded = true)) ∧ a = inPkg req.pa ∧
    s.lts.getD (a / 128) (0, 0) = (wts, rts) ∧ s.fwdOf a = none ∧ s.physOk a = true ∧ s.homeLost a = false ∧
    ((s.power = .hold → stackOf a = none)) ∧ ((req.kind = 0 ∨ s.moving a = false)) ∧
    ((s.poisoned a = false ∨ req.kind ∈ [1, 3, 4])) ∧ d = ofBytes req.data ∧ old = s.mem.getNat a req.size ∧
     ((req.kind = 0 ∧ new = [] ∧ back = s.mem.bytes a req.size ∨
          req.kind = 1 ∧ new = req.data ∧ back = [] ∨
          req.kind = 2 ∧ 0 < req.size ∧ req.data.length = 2 * req.size ∧ back = toBytes old req.size ∧
            new = toBytes ((AtomOp.ofWord req.op).apply old (ofBytes (req.data.take req.size))
              (ofBytes (req.data.drop req.size))) req.size ∨
          req.kind = 3 ∧ back = [] ∧ new = toBytes ((Bar.ofWord (s.mem.getNat a 64)).add
            { a := fld d 0 64, b := fld d 64 64, v := fld d 128 64, x := fld d 192 64, y := fld d 256 64, e := tb d 320 }).word 64 ∨
          req.kind = 4 ∧ back = [] ∧
            new = toBytes ((Bar.ofWord (s.mem.getNat a 64)).init (fld d 0 64) (fld d 64 64)).word 64 ∨
          req.kind = 5 ∧ back = [] ∧ new = ((List.range (req.data.length / 4)).flatMap fun i =>
            toBytes (wordAdd (req.op % 256) (tb req.op 8) (s.mem.getNat (a + 4 * i) 4) (fld d (32 * i) 32)) 4) ∨
          req.kind = 7 ∧ back = [] ∧ new = toBytes (f32Add (tb req.op 8) (s.mem.getNat a 4) d) 4)) :=
  ⟨demo,
    { src := 1, id := 0, kind := 5, op := 2, pa := 0x200600, size := 4, data := [1, 0, 0, 0], forwarded := false },
    0x200600, 0, 0, (toBytes (wordAdd 2 false 0 1) 4), [], 0, 1, by
    and_intros <;> first | decide +kernel | rfl⟩

theorem witness_RemoteAccesses_2_1 : ∃ (s : State) (t : Thread) (rep : RemoteRep) (a : Access) (ps : List Pend) (pid
    : Nat) (p : Producer) (n : _) (bs : _) (l : _),
    s.threads.get? rep.tid = some t ∧ s.aways.get? (4096 * rep.ck) = none ∧ s.overdue t.sent = false ∧
    t.pend = .access a :: ps ∧ a.ck = rep.ck ∧ a.failed = [] ∧ a.pid = some pid ∧ t.prods.get? pid = some p ∧
    p.toG = false ∧ rep.bad = [] ∧ ((∀ l ∈ a.lanes, l.place.isRemote = true ∧ l.lane < 64)) ∧
    (a.lanes.map (·.lane)).Nodup ∧ a.whole = false ∧ a.lanes = n :: l ∧ rep.lanes = [(n.lane, bs)] ∧ l ≠ [] :=
  ⟨(demo.of { grp with prods := [(9, { toG := false, reg := 4, n := 1, lanes := 3, vals := [], waiting := 2, ready := true, slot := none })], pend := [.access { ck := 2, kind := .load, op := 0, size := 4, lanes := [{ lane := 0, va := 0x400600, place := .remote 0x80000200600 false, data := [] }, { lane := 1, va := 0x400600, place := .remote 0x80000200600 false, data := [] }], pid := some 9, pc := 0x200400, regs := grp.regs }] }),
    { grp with prods := [(9, { toG := false, reg := 4, n := 1, lanes := 3, vals := [], waiting := 2, ready := true, slot := none })], pend := [.access { ck := 2, kind := .load, op := 0, size := 4, lanes := [{ lane := 0, va := 0x400600, place := .remote 0x80000200600 false, data := [] }, { lane := 1, va := 0x400600, place := .remote 0x80000200600 false, data := [] }], pid := some 9, pc := 0x200400, regs := grp.regs }] },
    { tid := 0, ck := 2, lanes := [(0, [1, 2, 3, 4])], bad := [] },
    { ck := 2, kind := .load, op := 0, size := 4, lanes := [{ lane := 0, va := 0x400600, place := .remote 0x80000200600 false, data := [] }, { lane := 1, va := 0x400600, place := .remote 0x80000200600 false, data := [] }], pid := some 9, pc := 0x200400, regs := grp.regs },
    [], 9, { toG := false, reg := 4, n := 1, lanes := 3, vals := [], waiting := 2, ready := true, slot := none },
    { lane := 0, va := 0x400600, place := .remote 0x80000200600 false, data := [] }, [1, 2, 3, 4],
    [{ lane := 1, va := 0x400600, place := .remote 0x80000200600 false, data := [] }], by
    and_intros <;> first
      | decide +kernel
      | rfl
      | exact Or.inl ⟨rfl, Or.inl (by decide +kernel)⟩
      | (intro x hx; simp at hx; rcases hx with rfl | rfl <;> exact ⟨rfl, by decide⟩)
      | (intro x hx; simp at hx; subst hx; exact ⟨rfl, by decide⟩)
      | (intro b hb; cases hb)⟩

theorem witness_RemoteAccesses_2_2 : ∃ (s : State) (t : Thread) (rep : RemoteRep) (a : Access) (ps : List Pend) (pid
    : Nat) (p : Producer),
    s.threads.get? rep.tid = some t ∧ s.aways.get? (4096 * rep.ck) = none ∧ s.overdue t.sent = false ∧
    t.pend = .access a :: ps ∧ a.ck = rep.ck ∧ a.failed = [] ∧ a.pid = some pid ∧ t.prods.get? pid = some p ∧
    p.toG = false ∧ rep.bad = [] ∧ ((∀ l ∈ a.lanes, l.place.isRemote = true ∧ l.lane < 64)) ∧
    (a.lanes.map (·.lane)).Nodup ∧ rep.lanes.map (·.1) = a.lanes.map (·.lane) ∧ a.lanes ≠ [] ∧
    ((a.whole = true ∨ a.lanes.length = 1)) ∧ ((∀ b, .access b ∈ ps → b.failed = [])) :=
  ⟨(demo.of { grp with prods := [(9, { toG := false, reg := 4, n := 1, lanes := 3, vals := [], waiting := 2, ready := true, slot := none })], pend := [.access { ck := 2, kind := .load, op := 0, size := 4, lanes := [{ lane := 0, va := 0x400600, place := .remote 0x80000200600 false, data := [] }], pid := some 9, pc := 0x200400, regs := grp.regs }] }),
    { grp with prods := [(9, { toG := false, reg := 4, n := 1, lanes := 3, vals := [], waiting := 2, ready := true, slot := none })], pend := [.access { ck := 2, kind := .load, op := 0, size := 4, lanes := [{ lane := 0, va := 0x400600, place := .remote 0x80000200600 false, data := [] }], pid := some 9, pc := 0x200400, regs := grp.regs }] },
    { tid := 0, ck := 2, lanes := [(0, [1, 2, 3, 4])], bad := [] },
    { ck := 2, kind := .load, op := 0, size := 4, lanes := [{ lane := 0, va := 0x400600, place := .remote 0x80000200600 false, data := [] }], pid := some 9, pc := 0x200400, regs := grp.regs },
    [], 9, { toG := false, reg := 4, n := 1, lanes := 3, vals := [], waiting := 2, ready := true, slot := none }, by
    and_intros <;> first
      | decide +kernel
      | rfl
      | exact Or.inl ⟨rfl, Or.inl (by decide +kernel)⟩
      | (intro x hx; simp at hx; rcases hx with rfl | rfl <;> exact ⟨rfl, by decide⟩)
      | (intro x hx; simp at hx; subst hx; exact ⟨rfl, by decide⟩)
      | (intro b hb; cases hb)⟩

theorem witness_RemoteAccesses_3 : ∃ (s : State) (t : Thread) (tid : Nat) (sub : Nat) (a : Access) (l : LaneAcc)
    (rest : List Pend),
    s.threads.get? tid = some t ∧ s.aways.get? (4096 * a.ck) = none ∧ t.pend = .access a :: rest ∧ a.lanes = [l] ∧
    a.failed = [] ∧ a.kind ≠ .atomic ∧ l.place.isRemote = true ∧ a.op < 512 ∧
    ((sub = 0 ∧ (s.reach (pkgOf l.place.remotePa) = .lost ∨ s.overdue t.sent = true) ∨ sub = 1 ∨ sub = 2 ∧ s.reach (pkgOf l.place.remotePa) = .key)) :=
  ⟨(demo.of { grp with prods := [(9, { toG := false, reg := 4, n := 1, lanes := 3, vals := [], waiting := 2, ready := true, slot := none })], pend := [.access { ck := 2, kind := .load, op := 0, size := 4, lanes := [{ lane := 0, va := 0x400600, place := .remote 0x80000200600 false, data := [] }], pid := some 9, pc := 0x200400, regs := grp.regs }] }),
    { grp with prods := [(9, { toG := false, reg := 4, n := 1, lanes := 3, vals := [], waiting := 2, ready := true, slot := none })], pend := [.access { ck := 2, kind := .load, op := 0, size := 4, lanes := [{ lane := 0, va := 0x400600, place := .remote 0x80000200600 false, data := [] }], pid := some 9, pc := 0x200400, regs := grp.regs }] },
    0, 0,
    { ck := 2, kind := .load, op := 0, size := 4, lanes := [{ lane := 0, va := 0x400600, place := .remote 0x80000200600 false, data := [] }], pid := some 9, pc := 0x200400, regs := grp.regs },
    { lane := 0, va := 0x400600, place := .remote 0x80000200600 false, data := [] }, [], by
    and_intros <;> first
      | decide +kernel
      | rfl
      | exact Or.inl ⟨rfl, Or.inl (by decide +kernel)⟩
      | (intro x hx; simp at hx; rcases hx with rfl | rfl <;> exact ⟨rfl, by decide⟩)
      | (intro x hx; simp at hx; subst hx; exact ⟨rfl, by decide⟩)
      | (intro b hb; cases hb)⟩

theorem witness_RemoteAccesses_6 : ∃ (s : State) (wg : Nat) (k : Nat) (rid : Nat) (counts : Store 32) (g : Wg) (sl :
    RoundSlot),
    s.wgs.get? wg = some g ∧ g.rounds.get? k = some sl ∧ sl.rid = rid ∧ sl.counts = [] ∧ (counts.map (·.1)).Nodup :=
  ⟨{ demo with wgs := [(1, { wgp with rounds := [(0, { rid := 3 })] })] }, 1, 0, 3, [(2, 5)],
    { wgp with rounds := [(0, { rid := 3 })] }, { rid := 3 }, by
    and_intros <;> first | decide +kernel | rfl⟩

theorem witness_RemoteAccesses_4 : ∃ (s : State) (t : Thread) (rep : RemoteRep) (a : Away) (tid : Nat) (i : Nat) (bs
    : List Byte),
    s.aways.get? (4096 * rep.ck) = some a ∧ s.overdue a.sent = false ∧ a.owner = .thread tid ∧
    s.threads.get? tid = some t ∧ t.asks = [4096 * rep.ck] ∧ rep.bad = [] ∧ rep.lanes = [(i, bs)] :=
  ⟨{ demo.of { grp with asks := [8192] } with aways := [(8192, { owner := .thread 0, req := { src := 1, id := 0, kind := 0, op := 0, pa := 0x80000200600, size := 4, data := [], forwarded := false } })] },
    { grp with asks := [8192] }, { tid := 0, ck := 2, lanes := [(0, [1, 2, 3, 4])], bad := [] },
    { owner := .thread 0, req := { src := 1, id := 0, kind := 0, op := 0, pa := 0x80000200600, size := 4, data := [], forwarded := false } },
    0, 0, [1, 2, 3, 4], by
    and_intros <;> first | decide +kernel | rfl⟩

theorem witness_RowsAndColumns_1 : ∃ (s : State) (t : Thread) (f : Eng),
    s.At t ∧ t.side = .cellar ∧ t.busy = false ∧ t.uni f.a % 2048 ≠ 0 :=
  ⟨(demo.of { cgrp with row := none, regs := { cgrp.regs with g := [(1, 0x200001)] } }),
    { cgrp with row := none, regs := { cgrp.regs with g := [(1, 0x200001)] } },
    { eng with a := opd 1 5 1 0, b := opd 1 0 0 2, c := .zero, dst := 4 }, by
    and_intros <;> first | decide +kernel | exact Or.inl rfl | exact Or.inr (by decide +kernel) | exact Or.inr ⟨by decide +kernel, rfl⟩ | rfl | exact Or.inl (by decide +kernel)⟩

theorem witness_RowsAndColumns_2_1 : ∃ (s : State) (t : Thread) (f : Eng) (base : _) (big : _) (r : _) (w : _) (x :
    _) (entry : _) (pa : _),
    s.At t ∧ t.side = .cellar ∧ t.uni f.a % 2048 = 0 ∧ t.uni f.a < 2 ^ 56 ∧
    s.threadWalk t (t.uni f.a) = some (.page base big r w x false entry) ∧
    pa = s.forwarded (pageAddr base big (t.uni f.a)) ∧ r = true ∧ ((f.xt.getLsbD 0 = true → w = true)) ∧
    pkgOf pa = s.pkg ∧ holds t.cunit (inPkg pa) = true :=
  ⟨(demo.of { cgrp with row := none, regs := { cgrp.regs with g := [(1, 0x200000)] } }),
    { cgrp with row := none, regs := { cgrp.regs with g := [(1, 0x200000)] } },
    { eng with xt := 1, a := opd 1 5 1 0, b := opd 1 0 0 2, c := .zero, dst := 4 }, 0x200000, true, true, true, true,
    0x30008, 0x200000, by
    and_intros <;> first | decide +kernel | exact Or.inl rfl | exact Or.inr (by decide +kernel) | exact Or.inr ⟨by decide +kernel, rfl⟩ | rfl | exact Or.inl (by decide +kernel)⟩

set_option maxRecDepth 20000 in
theorem witness_RowsAndColumns_2_2 : ∃ (s : State) (t : Thread) (f : Eng) (base : _) (big : _) (r : _) (w : _) (x :
    _) (entry : _) (pa : _),
    s.At t ∧ t.side = .cellar ∧ t.uni f.a % 2048 = 0 ∧ t.uni f.a < 2 ^ 56 ∧
    s.threadWalk t (t.uni f.a) = some (.page base big r w x false entry) ∧
    pa = s.forwarded (pageAddr base big (t.uni f.a)) ∧ t.busy = false ∧
    ((r = false ∨ f.xt.getLsbD 0 = true ∧ w = false)) :=
  ⟨{ demo.of { cgrp with row := none, regs := { cgrp.regs with g := [(1, 0x200000)] } } with mem := Store.set demoMem 0x30008 0x17, tlb := [{ part := 0, die := 0, page := 0x20, big := true, pa := 0x200000, r := true, w := false, x := true, mig := false, at_ := 0x30008 }] },
    { cgrp with row := none, regs := { cgrp.regs with g := [(1, 0x200000)] } },
    { eng with xt := 1, a := opd 1 5 1 0, b := opd 1 0 0 2, c := .zero, dst := 4 }, 0x200000, true, true, false,
    true, 0x30008, 0x200000, by
    and_intros <;> first | decide +kernel | rfl⟩

set_option maxRecDepth 20000 in
theorem witness_RowsAndColumns_2_3 : ∃ (s : State) (t : Thread) (f : Eng) (base : _) (big : _) (r : _) (w : _) (x :
    _) (entry : _) (pa : _),
    s.At t ∧ t.side = .cellar ∧ t.uni f.a % 2048 = 0 ∧ t.uni f.a < 2 ^ 56 ∧
    s.threadWalk t (t.uni f.a) = some (.page base big r w x false entry) ∧
    pa = s.forwarded (pageAddr base big (t.uni f.a)) ∧ t.busy = false ∧ r = true ∧
    ((f.xt.getLsbD 0 = true → w = true)) ∧ ((pkgOf pa ≠ s.pkg ∨ holds t.cunit (inPkg pa) = false)) :=
  ⟨{ demo.of { cgrp with row := none, regs := { cgrp.regs with g := [(1, 0x200000)] } } with mem := Store.set demoMem 0x3000D 8, tlb := [{ part := 0, die := 0, page := 0x20, big := true, pa := 0x80000200000, r := true, w := true, x := true, mig := false, at_ := 0x30008 }] },
    { cgrp with row := none, regs := { cgrp.regs with g := [(1, 0x200000)] } },
    { eng with xt := 1, a := opd 1 5 1 0, b := opd 1 0 0 2, c := .zero, dst := 4 }, 0x80000200000, true, true, true,
    true, 0x30008, 0x80000200000, by
    and_intros <;> first | decide +kernel | rfl⟩

theorem witness_RowsAndColumns_3 : ∃ (s : State) (t : Thread) (f : Eng),
    s.At t ∧ t.side = .cellar ∧ ((t.row = none ∨ f.a.pat ≠ 5 ∧ f.a.pat ≠ 6 ∨ 15 < t.uni f.a)) ∧ t.busy = false :=
  ⟨(demo.of { cgrp with row := none, regs := { cgrp.regs with g := [(1, 0x200000)] } }),
    { cgrp with row := none, regs := { cgrp.regs with g := [(1, 0x200000)] } },
    { eng with a := opd 1 5 1 0, b := opd 1 0 0 2, c := .zero, dst := 4 }, by
    and_intros <;> first | decide +kernel | exact List.mem_cons_self | decide +kernel | exact Or.inl rfl | exact Or.inr (by decide +kernel) | exact Or.inr ⟨by decide +kernel, rfl⟩ | rfl | exact Or.inl (by decide +kernel)⟩

theorem witness_RowsAndColumns_4_1 : ∃ (s : State) (t : Thread) (f : Eng) (row : _) (w : _) (a : _),
    s.At t ∧ t.side = .cellar ∧ t.row = some (row, w) ∧ ((f.a.pat = 5 ∨ f.a.pat = 6)) ∧ t.uni f.a ≤ 15 ∧
    a = row + 128 * t.uni f.a ∧ ((t.active = [] ∨ s.poisoned a = false)) :=
  ⟨(demo.of { cgrp with row := some (0x200000, true), regs := { cgrp.regs with g := [(1, 0x2)] } }),
    { cgrp with row := some (0x200000, true), regs := { cgrp.regs with g := [(1, 0x2)] } },
    { eng with a := opd 1 5 1 0, b := opd 1 0 0 2, c := .zero, dst := 4 }, 0x200000, true, 0x200100, by
    and_intros <;> first | decide +kernel | exact Or.inl rfl | exact Or.inr (by decide +kernel) | exact Or.inr ⟨by decide +kernel, rfl⟩ | rfl | exact Or.inl (by decide +kernel)⟩

theorem witness_RowsAndColumns_4_2_1 : ∃ (s : State) (t : Thread) (f : Eng) (row : _) (w : _) (a : _),
    s.At t ∧ t.side = .cellar ∧ t.row = some (row, w) ∧ ((f.a.pat = 5 ∨ f.a.pat = 6)) ∧ t.uni f.a ≤ 15 ∧
    a = row + 128 * t.uni f.a ∧ t.active ≠ [] ∧ s.poisoned a = true ∧ t.busy = false :=
  ⟨{ demo.of { cgrp with row := some (0x200000, true), regs := { cgrp.regs with g := [(1, 0x2)] } } with poison := [0x4002] },
    { cgrp with row := some (0x200000, true), regs := { cgrp.regs with g := [(1, 0x2)] } },
    { eng with a := opd 1 5 1 0, b := opd 1 0 0 2, c := .zero, dst := 4 }, 0x200000, true, 0x200100, by
    and_intros <;> first | decide +kernel | exact Or.inl rfl | exact Or.inr (by decide +kernel) | exact Or.inr ⟨by decide +kernel, rfl⟩ | rfl | exact Or.inl (by decide +kernel)⟩

theorem witness_RowsAndColumns_4_2_2 : ∃ (s : State) (t : Thread) (f : Eng) (row : _) (w : _) (a : _),
    s.At t ∧ t.side = .cellar ∧ t.row = some (row, w) ∧ ((f.a.pat = 5 ∨ f.a.pat = 6)) ∧ t.uni f.a ≤ 15 ∧
    a = row + 128 * t.uni f.a ∧ t.active ≠ [] ∧ s.poisoned a = true ∧ t.busy = false ∧ w = true ∧
    s.inTables (s.partOf t) (s.pkg * 2 ^ 43 + row) = false ∧ s.moving row = false :=
  ⟨{ demo.of { cgrp with row := some (0x200000, true), regs := { cgrp.regs with g := [(1, 0x2)] } } with poison := [0x4002] },
    { cgrp with row := some (0x200000, true), regs := { cgrp.regs with g := [(1, 0x2)] } },
    { eng with a := opd 1 5 1 0, b := opd 1 0 0 2, c := .zero, dst := 4 }, 0x200000, true, 0x200100, by
    and_intros <;> first | decide +kernel | exact Or.inl rfl | exact Or.inr (by decide +kernel) | exact Or.inr ⟨by decide +kernel, rfl⟩ | rfl | exact Or.inl (by decide +kernel)⟩

theorem witness_RowsAndColumns_4_3 : ∃ (s : State) (t : Thread) (f : Eng) (row : _) (w : _) (a : _),
    s.At t ∧ t.side = .cellar ∧ t.row = some (row, w) ∧ ((f.a.pat = 5 ∨ f.a.pat = 6)) ∧ t.uni f.a ≤ 15 ∧
    a = row + 128 * t.uni f.a ∧ ((w = false ∨ s.inTables (s.partOf t) (s.pkg * 2 ^ 43 + row) = true)) ∧
    t.busy = false :=
  ⟨(demo.of { cgrp with row := some (0x200000, false), regs := { cgrp.regs with g := [(1, 0x2)] } }),
    { cgrp with row := some (0x200000, false), regs := { cgrp.regs with g := [(1, 0x2)] } },
    { eng with a := opd 1 5 1 0, b := opd 1 0 0 2, c := .zero, dst := 4 }, 0x200000, false, 0x200100, by
    and_intros <;> first | exact List.mem_cons_self | decide +kernel | exact Or.inl rfl | exact Or.inr (by decide +kernel) | exact Or.inr ⟨by decide +kernel, rfl⟩ | rfl | exact Or.inl (by decide +kernel)⟩

theorem witness_RowsAndColumns_4_4 : ∃ (s : State) (t : Thread) (f : Eng) (row : _) (w : _) (a : _) (i : Instr) (val
    : _),
    s.At t ∧ t.side = .cellar ∧ t.row = some (row, w) ∧ ((f.a.pat = 5 ∨ f.a.pat = 6)) ∧ t.uni f.a ≤ 15 ∧
    a = row + 128 * t.uni f.a ∧ w = true ∧ s.inTables (s.partOf t) (s.pkg * 2 ^ 43 + row) = false ∧
    s.moving row = false ∧
     ((i = .cstc f ∧ val = fun j => t.opnd f.b 1 32 j) ∨
          (i = .cred f ∧ (t.active = [] ∨ s.poisoned a = false) ∧ val = fun j =>
            if f.ty = 8 then f32Add (f.xt.getLsbD 0) (s.mem.getNat (a + 4 * j) 4) (t.opnd f.b 1 32 j)
            else (s.mem.getNat (a + 4 * j) 4 + t.opnd f.b 1 32 j) % 2 ^ 32)) :=
  ⟨(demo.of { cgrp with row := some (0x200000, true), regs := { cgrp.regs with g := [(1, 0x2)] } }),
    { cgrp with row := some (0x200000, true), regs := { cgrp.regs with g := [(1, 0x2)] } },
    { eng with a := opd 1 5 1 0, b := opd 1 0 0 2, c := .zero, dst := 4 }, 0x200000, true, 0x200100,
    (.cstc { eng with a := opd 1 5 1 0, b := opd 1 0 0 2, c := .zero, dst := 4 }),
    (fun j => Thread.opnd { cgrp with row := some (0x200000, true), regs := { cgrp.regs with g := [(1, 0x2)] } } (opd 1 0 0 2) 1 32 j),
    by
    and_intros <;> first | decide +kernel | exact Or.inl ⟨rfl, rfl⟩ | rfl⟩

theorem witness_RowsAndColumns_4_4_cred : ∃ (s : State) (t : Thread) (f : Eng) (row : _) (w : _) (a : _) (i : Instr)
    (val : _),
    s.At t ∧ t.side = .cellar ∧ t.row = some (row, w) ∧ ((f.a.pat = 5 ∨ f.a.pat = 6)) ∧ t.uni f.a ≤ 15 ∧
    a = row + 128 * t.uni f.a ∧ w = true ∧ s.inTables (s.partOf t) (s.pkg * 2 ^ 43 + row) = false ∧
    s.moving row = false ∧
     ((i = .cstc f ∧ val = fun j => t.opnd f.b 1 32 j) ∨
          (i = .cred f ∧ (t.active = [] ∨ s.poisoned a = false) ∧ val = fun j =>
            if f.ty = 8 then f32Add (f.xt.getLsbD 0) (s.mem.getNat (a + 4 * j) 4) (t.opnd f.b 1 32 j)
            else (s.mem.getNat (a + 4 * j) 4 + t.opnd f.b 1 32 j) % 2 ^ 32)) :=
  ⟨(demo.of { cgrp with row := some (0x200000, true), regs := { cgrp.regs with g := [(1, 0x2)] } }),
    { cgrp with row := some (0x200000, true), regs := { cgrp.regs with g := [(1, 0x2)] } },
    { eng with ty := 8, a := opd 1 5 1 0, b := opd 1 0 0 2, c := .zero, dst := 4 }, 0x200000, true, 0x200100,
    (.cred { eng with ty := 8, a := opd 1 5 1 0, b := opd 1 0 0 2, c := .zero, dst := 4 }), _, by
    and_intros <;> first | decide +kernel | exact Or.inr ⟨rfl, Or.inr (by decide +kernel), rfl⟩ | rfl⟩

theorem witness_CellarTasks_1_1 : ∃ (s : State) (s1 : State) (s2 : State) (t : Thread) (f : Std) (k : Task) (word :
    Nat),
    s.At t ∧ t.side = .cellar ∧ s.tasks.get? t.wg = some k ∧
    word = f.xt.toNat % 4096 + (t.pc.toNat + 2 ^ 64 - k.entry) % 2 ^ 32 * 2 ^ 12 + t.regs.fpm.toNat / 2 ^ 8 % 2 ^ 5 * 2 ^ 47 ∧
    (s1 = (if k.stat = 0 then s else (s.hearthPut k.part (k.stat + 8 * t.cunit) (toBytes word 8) (2 * t.wg + 1)).getD s)) ∧
    (s2 = { s1 with threads := s1.threads.del s.cur, tasks := s1.tasks.upd t.wg fun k => { k with left := k.left - 1 } }) ∧
    2 ≤ k.left :=
  ⟨{ demo.of cgrp with tasks := [(5, { Task.absent with args := [1, 2, 3, 4], left := 2, total := 2 })] }, _, _,
    cgrp, std, { Task.absent with args := [1, 2, 3, 4], left := 2, total := 2 }, _, by
    and_intros <;> first | decide +kernel | rfl | (intro d h; cases h)⟩

theorem witness_CellarTasks_1_2_1 : ∃ (s : State) (s1 : State) (s2 : State) (t : Thread) (f : Std) (k : Task) (word :
    Nat) (s3 : _),
    s.At t ∧ t.side = .cellar ∧ s.tasks.get? t.wg = some k ∧
    word = f.xt.toNat % 4096 + (t.pc.toNat + 2 ^ 64 - k.entry) % 2 ^ 32 * 2 ^ 12 + t.regs.fpm.toNat / 2 ^ 8 % 2 ^ 5 * 2 ^ 47 ∧
    (s1 = (if k.stat = 0 then s else (s.hearthPut k.part (k.stat + 8 * t.cunit) (toBytes word 8) (2 * t.wg + 1)).getD s)) ∧
    (s2 = { s1 with threads := s1.threads.del s.cur, tasks := s1.tasks.upd t.wg fun k => { k with left := k.left - 1 } }) ∧
    k.left ≤ 1 ∧
    (s3 = (if k.done = 0 then s2 else (s2.objAdd k.part k.done { a := 1, v := k.total, e := k.nflt != 0 } (2 * t.wg + 1)).getD s2)) ∧
    k.notify = none :=
  ⟨{ demo.of cgrp with tasks := [(5, { Task.absent with args := [1, 2, 3, 4], left := 1, total := 2 })] }, _, _,
    cgrp, std, { Task.absent with args := [1, 2, 3, 4], left := 1, total := 2 }, _, _, by
    and_intros <;> first | decide +kernel | rfl | (intro d h; cases h)⟩

theorem witness_CellarTasks_1_2_2 : ∃ (s : State) (s1 : State) (s2 : State) (t : Thread) (f : Std) (k : Task) (word :
    Nat) (s3 : _) (wg : _),
    s.At t ∧ t.side = .cellar ∧ s.tasks.get? t.wg = some k ∧
    word = f.xt.toNat % 4096 + (t.pc.toNat + 2 ^ 64 - k.entry) % 2 ^ 32 * 2 ^ 12 + t.regs.fpm.toNat / 2 ^ 8 % 2 ^ 5 * 2 ^ 47 ∧
    (s1 = (if k.stat = 0 then s else (s.hearthPut k.part (k.stat + 8 * t.cunit) (toBytes word 8) (2 * t.wg + 1)).getD s)) ∧
    (s2 = { s1 with threads := s1.threads.del s.cur, tasks := s1.tasks.upd t.wg fun k => { k with left := k.left - 1 } }) ∧
    k.left ≤ 1 ∧
    (s3 = (if k.done = 0 then s2 else (s2.objAdd k.part k.done { a := 1, v := k.total, e := k.nflt != 0 } (2 * t.wg + 1)).getD s2)) ∧
    k.notify = some (wg, 63) :=
  ⟨{ demo.of cgrp with tasks := [(5, { Task.absent with args := [1, 2, 3, 4], left := 1, total := 2, notify := some (1, 63) })] },
    _, _, cgrp, std, { Task.absent with args := [1, 2, 3, 4], left := 1, total := 2, notify := some (1, 63) }, _, _,
    1, by
    and_intros <;> first | decide +kernel | rfl | (intro d h; cases h)⟩

theorem witness_CellarTasks_1_2_3 : ∃ (s : State) (s1 : State) (s2 : State) (t : Thread) (f : Std) (k : Task) (word :
    Nat) (s3 : _) (wg : _) (nb : _),
    s.At t ∧ t.side = .cellar ∧ s.tasks.get? t.wg = some k ∧
    word = f.xt.toNat % 4096 + (t.pc.toNat + 2 ^ 64 - k.entry) % 2 ^ 32 * 2 ^ 12 + t.regs.fpm.toNat / 2 ^ 8 % 2 ^ 5 * 2 ^ 47 ∧
    (s1 = (if k.stat = 0 then s else (s.hearthPut k.part (k.stat + 8 * t.cunit) (toBytes word 8) (2 * t.wg + 1)).getD s)) ∧
    (s2 = { s1 with threads := s1.threads.del s.cur, tasks := s1.tasks.upd t.wg fun k => { k with left := k.left - 1 } }) ∧
    k.left ≤ 1 ∧
    (s3 = (if k.done = 0 then s2 else (s2.objAdd k.part k.done { a := 1, v := k.total, e := k.nflt != 0 } (2 * t.wg + 1)).getD s2)) ∧
    k.notify = some (wg, nb) ∧ nb ≠ 63 ∧ ((∀ d ∈ s3.hearthDue, d.chain ≠ 2 * t.wg + 1)) :=
  ⟨{ demo.of cgrp with tasks := [(5, { Task.absent with args := [1, 2, 3, 4], left := 1, total := 2, notify := some (1, 2) })] },
    _, _, cgrp, std, { Task.absent with args := [1, 2, 3, 4], left := 1, total := 2, notify := some (1, 2) }, _, _,
    1, 2, by
    and_intros <;> first | decide +kernel | rfl | (intro d h; cases h)⟩

theorem witness_CellarTasks_1_2_4 : ∃ (s : State) (s1 : State) (s2 : State) (t : Thread) (f : Std) (k : Task) (word :
    Nat) (s3 : _) (wg : _) (nb : _),
    s.At t ∧ t.side = .cellar ∧ s.tasks.get? t.wg = some k ∧
    word = f.xt.toNat % 4096 + (t.pc.toNat + 2 ^ 64 - k.entry) % 2 ^ 32 * 2 ^ 12 + t.regs.fpm.toNat / 2 ^ 8 % 2 ^ 5 * 2 ^ 47 ∧
    (s1 = (if k.stat = 0 then s else (s.hearthPut k.part (k.stat + 8 * t.cunit) (toBytes word 8) (2 * t.wg + 1)).getD s)) ∧
    (s2 = { s1 with threads := s1.threads.del s.cur, tasks := s1.tasks.upd t.wg fun k => { k with left := k.left - 1 } }) ∧
    k.left ≤ 1 ∧
    (s3 = (if k.done = 0 then s2 else (s2.objAdd k.part k.done { a := 1, v := k.total, e := k.nflt != 0 } (2 * t.wg + 1)).getD s2)) ∧
    k.notify = some (wg, nb) ∧ nb ≠ 63 ∧ ((∃ d ∈ s3.hearthDue, d.chain = 2 * t.wg + 1)) :=
  ⟨{ demo.of cgrp with tasks := [(5, { Task.absent with args := [1, 2, 3, 4], left := 1, total := 2, notify := some (1, 2), stat := 0x200600 })], hearthDue := [{ part := 0, va := 0, chain := 11, what := .notify 1 2 }] },
    _, _, cgrp, std,
    { Task.absent with args := [1, 2, 3, 4], left := 1, total := 2, notify := some (1, 2), stat := 0x200600 }, _, _,
    1, 2, by
    and_intros <;> first | decide +kernel | rfl | exact ⟨_, List.mem_cons_self, rfl⟩⟩

theorem witness_CellarTasks_6_1 : ∃ (s : State) (s0 : State) (u : Nat) (sub : Nat),
    (sub = (if s.lost (u / 48) then 1 else 0)) ∧ s0 = { s with cunits := s.cunits.del u } ∧ s.instanceOn u = none ∧
    s.cunits.getD u [] = [] :=
  ⟨demo, _, 0, _, by
    and_intros <;> first | decide +kernel | rfl⟩

theorem witness_CellarTasks_6_2 : ∃ (s : State) (s0 : State) (u : Nat) (sub : Nat) (id : _),
    (sub = (if s.lost (u / 48) then 1 else 0)) ∧ s0 = { s with cunits := s.cunits.del u } ∧ s.instanceOn u = none ∧
    s.cunits.getD u [] = [id] :=
  ⟨{ demo with cunits := [(0, [5])] }, _, 0, _, 5, by
    and_intros <;> first | decide +kernel | rfl⟩

theorem witness_CellarTasks_6_3 : ∃ (s : State) (s0 : State) (u : Nat) (sub : Nat) (tid : _) (t : _),
    (sub = (if s.lost (u / 48) then 1 else 0)) ∧ s0 = { s with cunits := s.cunits.del u } ∧
    s.instanceOn u = some (tid, t) ∧ s.cunits.getD u [] = [] :=
  ⟨(demo.of cgrp), _, 0, _, 0, cgrp, by
    and_intros <;> first | decide +kernel | rfl⟩

set_option maxRecDepth 20000 in
theorem witness_CellarTasks_7 : ∃ (s : State) (t : Thread) (f : Eng) (p : Nat → Place) (r : Nat) (die : Nat) (st :
    Nat) (word : Nat) (d : Die),
    s.At t ∧ t.busy = false ∧ t.kept = [] ∧ t.canRead f.a 1 = .ok ⟨⟩ ∧ ((f.nb = 63 ∨ f.nb.toNat < (s.hdrOf t).nbn)) ∧
    t.uni f.a % 64 = 0 ∧
    ((∀ j, j < 8 → s.resolve t .load 0 ((t.uni f.a + 8 * j) % 2 ^ 64) 8 = .ok (p j) ∧ (p j).isRemote = false ∧ (p j).isDead = false ∧ s.scrWaits t (p j) 8 = false)) ∧
    (r = ofBytes ((List.range 8).flatMap fun j => s.readPlace t (p j) 8)) ∧ die = s.dieOf t ∧ d = s.dies.getD die {} ∧
     (st = (if s.recordValid (s.partOf t) r = false ∨ ((List.range 12).any fun k => tb r (484 + k) && k / 3 != die) = true then 2
      else if 64 ≤ d.cq.length then 1 else 0)) ∧
    (word = (if st = 0 then d.nextTag * 2 ^ 16 else st)) :=
  ⟨{ demo.of (egrp [(1, 0xFFFFFFE000000100)]) with wgs := [(1, { wgp with scr := Store.putNat [] 0x100 64 0x10010000000010000000000000000000000000000000000000000000000000000000000000000000000000000000000000000000000000000000000200600 })], dies := [(0, {})] },
    (egrp [(1, 0xFFFFFFE000000100)]), { eng with a := opd 1 5 1 0, dst := 132 },
    (fun j => Place.scratch (0x100 + 8 * j)),
    0x10010000000010000000000000000000000000000000000000000000000000000000000000000000000000000000000000000000000000000000000200600,
    0, _, _, {}, by
    and_intros <;> first | decide +kernel | exact Or.inl rfl | exact Or.inr (by decide +kernel) | exact Or.inr ⟨by decide +kernel, rfl⟩ | rfl | exact Or.inl (by decide +kernel)⟩

set_option maxRecDepth 20000 in
theorem witness_CellarTasks_7_full : ∃ (s : State) (t : Thread) (f : Eng) (p : Nat → Place) (r : Nat) (die : Nat) (st
    : Nat) (word : Nat) (d : Die),
    s.At t ∧ t.busy = false ∧ t.kept = [] ∧ t.canRead f.a 1 = .ok ⟨⟩ ∧ ((f.nb = 63 ∨ f.nb.toNat < (s.hdrOf t).nbn)) ∧
    t.uni f.a % 64 = 0 ∧
    ((∀ j, j < 8 → s.resolve t .load 0 ((t.uni f.a + 8 * j) % 2 ^ 64) 8 = .ok (p j) ∧ (p j).isRemote = false ∧ (p j).isDead = false ∧ s.scrWaits t (p j) 8 = false)) ∧
    (r = ofBytes ((List.range 8).flatMap fun j => s.readPlace t (p j) 8)) ∧ die = s.dieOf t ∧ d = s.dies.getD die {} ∧
     (st = (if s.recordValid (s.partOf t) r = false ∨ ((List.range 12).any fun k => tb r (484 + k) && k / 3 != die) = true then 2
      else if 64 ≤ d.cq.length then 1 else 0)) ∧
    (word = (if st = 0 then d.nextTag * 2 ^ 16 else st)) :=
  ⟨{ demo.of (egrp [(1, 0xFFFFFFE000000100)]) with wgs := [(1, { wgp with scr := Store.putNat [] 0x100 64 0x10010000000010000000000000000000000000000000000000000000000000000000000000000000000000000000000000000000000000000000000200600 })], dies := [(0, { cq := List.range 64 })] },
    (egrp [(1, 0xFFFFFFE000000100)]), { eng with a := opd 1 5 1 0, dst := 132 },
    (fun j => Place.scratch (0x100 + 8 * j)),
    0x10010000000010000000000000000000000000000000000000000000000000000000000000000000000000000000000000000000000000000000000200600,
    0, _, _, { cq := List.range 64 }, by
    and_intros <;> first | decide +kernel | exact Or.inl rfl | exact Or.inr (by decide +kernel) | exact Or.inr ⟨by decide +kernel, rfl⟩ | rfl | exact Or.inl (by decide +kernel)⟩

set_option maxRecDepth 20000 in
theorem witness_CellarTasks_7_invalid : ∃ (s : State) (t : Thread) (f : Eng) (p : Nat → Place) (r : Nat) (die : Nat)
    (st : Nat) (word : Nat) (d : Die),
    s.At t ∧ t.busy = false ∧ t.kept = [] ∧ t.canRead f.a 1 = .ok ⟨⟩ ∧ ((f.nb = 63 ∨ f.nb.toNat < (s.hdrOf t).nbn)) ∧
    t.uni f.a % 64 = 0 ∧
    ((∀ j, j < 8 → s.resolve t .load 0 ((t.uni f.a + 8 * j) % 2 ^ 64) 8 = .ok (p j) ∧ (p j).isRemote = false ∧ (p j).isDead = false ∧ s.scrWaits t (p j) 8 = false)) ∧
    (r = ofBytes ((List.range 8).flatMap fun j => s.readPlace t (p j) 8)) ∧ die = s.dieOf t ∧ d = s.dies.getD die {} ∧
     (st = (if s.recordValid (s.partOf t) r = false ∨ ((List.range 12).any fun k => tb r (484 + k) && k / 3 != die) = true then 2
      else if 64 ≤ d.cq.length then 1 else 0)) ∧
    (word = (if st = 0 then d.nextTag * 2 ^ 16 else st)) :=
  ⟨{ demo.of (egrp [(1, 0xFFFFFFE000000100)]) with wgs := [(1, { wgp with scr := Store.putNat [] 0x100 64 0x0 })], dies := [(0, {})] },
    (egrp [(1, 0xFFFFFFE000000100)]), { eng with a := opd 1 5 1 0, dst := 132 },
    (fun j => Place.scratch (0x100 + 8 * j)), 0x0, 0, _, _, {}, by
    and_intros <;> first | decide +kernel | exact Or.inl rfl | exact Or.inr (by decide +kernel) | exact Or.inr ⟨by decide +kernel, rfl⟩ | rfl | exact Or.inl (by decide +kernel)⟩

theorem witness_CellarTasks_8_7 : ∃ (r : Nat) (k : _),
    k < 12 ∧ tb r (484 + k) = true :=
  ⟨(2 ^ 484), 0, by
    and_intros <;> first | decide +kernel | rfl⟩

theorem witness_CellarTasks_10_1 : ∃ (s : State) (t : Thread) (f : Eng),
    s.At t ∧ t.busy = false ∧ t.canRead f.a 1 = .ok ⟨⟩ ∧ 2 ^ 16 ≤ t.uni f.a :=
  ⟨(demo.of (egrp [(1, 0x10000)])), (egrp [(1, 0x10000)]), { eng with a := opd 1 5 1 0, dst := 132 }, by
    and_intros <;> first | decide +kernel | rfl⟩

theorem witness_CellarTasks_10_2 : ∃ (s : State) (t : Thread) (f : Eng),
    s.At t ∧ t.busy = false ∧ t.canRead f.a 1 = .ok ⟨⟩ ∧ t.uni f.a < 2 ^ 16 ∧
    (((s.dies.getD (s.dieOf t) {}).tags.find? fun e => e.1 == t.uni f.a) = none) :=
  ⟨(demo.of (egrp [(1, 0x9)])), (egrp [(1, 0x9)]), { eng with a := opd 1 5 1 0, dst := 132 }, by
    and_intros <;> first | decide +kernel | rfl⟩

theorem witness_CellarTasks_10_3 : ∃ (s : State) (t : Thread) (f : Eng) (id : _) (k : _) (st : _),
    s.At t ∧ t.busy = false ∧ t.canRead f.a 1 = .ok ⟨⟩ ∧ t.uni f.a < 2 ^ 16 ∧
    (((s.dies.getD (s.dieOf t) {}).tags.find? fun e => e.1 == t.uni f.a) = some (t.uni f.a, id)) ∧
    s.tasks.get? id = some k ∧
    (st = (if k.left = 0 then (if ∃ d ∈ s.hearthDue, d.chain = 2 * id + 1 then 1 else 2) else if k.started = 0 ∧ k.left = k.total then 0 else 1)) :=
  ⟨{ demo.of (egrp [(1, 0x9)]) with dies := [(0, { tags := [(9, 5)] })], tasks := [(5, { Task.absent with args := [1, 2, 3, 4], left := 2, total := 2 })] },
    (egrp [(1, 0x9)]), { eng with a := opd 1 5 1 0, dst := 132 }, 5,
    { Task.absent with args := [1, 2, 3, 4], left := 2, total := 2 }, _, by
    and_intros <;> first | decide +kernel | rfl⟩

theorem witness_CellarTasks_2 : ∃ (s : State) (u : Nat) (id : Nat) (rest : List Nat) (k : Task),
    s.cunits.getD u [] = id :: rest ∧ s.instanceOn u = none ∧ s.lost (u / 48) = false ∧ s.power ≠ .hold ∧
    s.tasks.get? id = some k :=
  ⟨{ demo with tasks := [(5, { Task.absent with args := [1, 2, 3, 4], left := 2, total := 2 })], cunits := [(0, [5])] },
    0, 5, [], { Task.absent with args := [1, 2, 3, 4], left := 2, total := 2 }, by
    and_intros <;> first | decide +kernel | rfl⟩

theorem witness_CellarTasks_3_1 : ∃ (s : State) (u : Nat) (tid : Nat) (t : Thread),
    s.instanceOn u = some (tid, t) ∧ t.resv = true :=
  ⟨(demo.of { cgrp with resv := true }), 0, 0, { cgrp with resv := true }, by
    and_intros <;> first | decide +kernel | rfl⟩

theorem witness_CellarTasks_3_2 : ∃ (s : State) (u : Nat) (tid : Nat) (t : Thread),
    s.instanceOn u = some (tid, t) ∧ t.row.isSome = true ∧ t.aged = false :=
  ⟨(demo.of { cgrp with row := some (0x200000, true) }), 0, 0, { cgrp with row := some (0x200000, true) }, by
    and_intros <;> first | decide +kernel | rfl⟩

theorem witness_HearthAndHost_4_1 : ∃ (s : State) (part : Nat),
    part < 4 ∧ s.quietPart = true :=
  ⟨State.reset, 0, by
    and_intros <;> first | decide +kernel | rfl⟩

theorem witness_HearthAndHost_4_2 : ∃ (s : State) (part : Nat),
    part < 4 ∧ s.quietPart = false :=
  ⟨demo, 3, by
    and_intros <;> first | decide +kernel | rfl⟩

theorem witness_HearthAndHost_6_1_2 : ∃ (s : State) (q : _) (x : _) (c : _),
    q < 256 ∧ x = s.queues.getD q {} ∧ (x.state, c) ∈ [(QState.off, 0), (.waiting, 1), (.mapped, 2), (.faulted, 3)] :=
  ⟨demo, 255, _, 0, by
    and_intros <;> first | decide +kernel | exact List.mem_cons_self | rfl⟩

theorem witness_HearthAndHost_6_1_2_faulted : ∃ (s : State) (q : _) (x : _) (c : _),
    q < 256 ∧ x = s.queues.getD q {} ∧ (x.state, c) ∈ [(QState.off, 0), (.waiting, 1), (.mapped, 2), (.faulted, 3)] :=
  ⟨{ demo with queues := [(255, { state := .faulted })] }, 255, _, 3, by
    and_intros <;> first | decide +kernel | rfl⟩

theorem witness_HearthAndHost_6_2 : ∃ (k : _) (j : _),
    k < 4 ∧ j < 64 :=
  ⟨3, 63, by
    and_intros <;> first | decide +kernel | rfl⟩

theorem witness_HearthAndHost_6_3 : ∃ (n : _),
    n < 32 :=
  ⟨31, by
    first | decide +kernel | rfl⟩

theorem witness_HearthAndHost_6_4 : ∃ (p : _),
    p < 4 :=
  ⟨3, by
    first | decide +kernel | rfl⟩

theorem witness_HearthAndHost_7_1 : ∃ (s : State) (n : Nat),
    n < 32 ∧ s.holder n = 0 :=
  ⟨{ demo with hreg := [(0x2000, 0x0)] }, 0, by
    and_intros <;> first | decide +kernel | (intro h; revert h; decide +kernel)⟩

theorem witness_HearthAndHost_7_2 : ∃ (s : State) (n : Nat),
    n < 32 ∧ s.holder n ≠ 0 :=
  ⟨{ demo with hreg := [(0x2000, 0x20000)] }, 0, by
    and_intros <;> first | decide +kernel | (intro h; revert h; decide +kernel)⟩

theorem witness_HearthAndHost_7_3 : ∃ (s : State) (n : Nat) (port : Port),
    n < 32 ∧ (s.holder n = (if port = .a then 1 else 2)) :=
  ⟨{ demo with hreg := [(0x2000, 0x10000)] }, 0, .a, by
    and_intros <;> first | decide +kernel | (intro h; revert h; decide +kernel)⟩

theorem witness_HearthAndHost_7_4 : ∃ (s : State) (n : Nat) (port : Port),
    n < 32 ∧ (s.holder n ≠ (if port = .a then 1 else 2)) :=
  ⟨{ demo with hreg := [(0x2000, 0x20000)] }, 0, .a, by
    and_intros <;> first | decide +kernel | (intro h; revert h; decide +kernel)⟩

theorem witness_HearthAndHost_7_5 : ∃ (s : State) (n : Nat),
    n < 32 ∧ s.holder n ≠ 0 :=
  ⟨{ demo with hreg := [(0x2000, 0x10000)] }, 0, by
    and_intros <;> first | decide +kernel | (intro h; revert h; decide +kernel)⟩

theorem witness_HearthAndHost_7_6 : ∃ (s : State) (n : Nat),
    n < 32 ∧ s.holder n = 0 :=
  ⟨{ demo with hreg := [(0x2000, 0x0)] }, 0, by
    and_intros <;> first | decide +kernel | (intro h; revert h; decide +kernel)⟩

theorem witness_HearthAndHost_7_7 : ∃ (n : Nat) (cmd : BitVec 8),
    n < 32 ∧ cmd ≠ 1 ∧ cmd ≠ 2 ∧ cmd ≠ 3 :=
  ⟨31, 4, by
    and_intros <;> first | decide +kernel | rfl⟩

theorem witness_HearthAndHost_7_8 : ∃ (s : State) (n : Nat) (port : Port) (m : _) (i : Instr) (s' : _),
    n < 32 ∧ m < 32 ∧ i ∈ [Instr.latchAcquire n port, .latchRelease n port, .latchBreak n port] ∧ m ≠ n ∧
    exec i s = .next s' :=
  ⟨{ demo with hreg := [(0x2000, 0x0)] }, 0, .a, 1, (.latchAcquire 0 .a), _, by
    and_intros <;> first | exact List.mem_cons_self | decide +kernel | rfl⟩

theorem witness_HearthAndHost_9_1 : ∃ (s : State) (x : HostAcc),
    s.power ≠ .off ∧ x.recovery = false ∧ x.pa < 2 ^ 43 ∧
    ((if x.port = .a then s.linkDown.1 else s.linkDown.2) = false) ∧
    ((∃ e ∈ s.aways, e.2.owner = .host (decide (x.port = .b)) ∧ (x.write = none ∨ e.2.req.kind = 1))) :=
  ⟨{ demo with aways := [(0, { owner := .host false, req := { src := 0, id := 0, kind := 1, op := 0, pa := 0x80000200600, size := 1, data := [1], forwarded := false } })] },
    { port := .a, pa := 0x200600, write := none, len := 4, recovery := false }, by
    and_intros <;> first | decide +kernel | exact ⟨_, List.mem_cons_self, rfl, Or.inl rfl⟩ | rfl⟩

theorem witness_HearthAndHost_9_2_1_1_1 : ∃ (s : State) (x : HostAcc) (p : _) (bs : _),
    s.power ≠ .off ∧ x.recovery = false ∧ x.pa < 2 ^ 43 ∧
    ((if x.port = .a then s.linkDown.1 else s.linkDown.2) = false) ∧
    ((∀ e ∈ s.aways, e.2.owner = .host (decide (x.port = .b)) → x.write ≠ none ∧ e.2.req.kind ≠ 1)) ∧
    p = s.forwarded (s.pkg * 2 ^ 43 + x.pa) ∧ pkgOf p = s.pkg ∧ s.homeLost (inPkg p) = false ∧ x.write = some bs ∧
    s.moving (inPkg p) = false ∧ s.porchOk p = true :=
  ⟨demo, { port := .a, pa := 0x200600, write := some [1], len := 4, recovery := false }, _, [1], by
    and_intros <;> first | decide +kernel | rfl | exact Or.inl (by decide +kernel) | exact Or.inr (by decide +kernel) | exact Or.inr rfl | (intro e he; cases he)⟩

theorem witness_HearthAndHost_9_2_1_1_2 : ∃ (s : State) (x : HostAcc) (p : _) (bs : _),
    s.power ≠ .off ∧ x.recovery = false ∧ x.pa < 2 ^ 43 ∧
    ((if x.port = .a then s.linkDown.1 else s.linkDown.2) = false) ∧
    ((∀ e ∈ s.aways, e.2.owner = .host (decide (x.port = .b)) → x.write ≠ none ∧ e.2.req.kind ≠ 1)) ∧
    p = s.forwarded (s.pkg * 2 ^ 43 + x.pa) ∧ pkgOf p = s.pkg ∧ s.homeLost (inPkg p) = false ∧ x.write = some bs ∧
    s.moving (inPkg p) = false ∧ s.porchOk p = false :=
  ⟨demo, { port := .a, pa := 0x40000000000, write := some [1], len := 4, recovery := false }, _, [1], by
    and_intros <;> first | decide +kernel | rfl | exact Or.inl (by decide +kernel) | exact Or.inr (by decide +kernel) | exact Or.inr rfl | (intro e he; cases he)⟩

theorem witness_HearthAndHost_9_2_1_1_2_hold : ∃ (s : State) (x : HostAcc) (p : _) (bs : _),
    s.power ≠ .off ∧ x.recovery = false ∧ x.pa < 2 ^ 43 ∧
    ((if x.port = .a then s.linkDown.1 else s.linkDown.2) = false) ∧
    ((∀ e ∈ s.aways, e.2.owner = .host (decide (x.port = .b)) → x.write ≠ none ∧ e.2.req.kind ≠ 1)) ∧
    p = s.forwarded (s.pkg * 2 ^ 43 + x.pa) ∧ pkgOf p = s.pkg ∧ s.homeLost (inPkg p) = false ∧ x.write = some bs ∧
    s.moving (inPkg p) = false ∧ s.porchOk p = false :=
  ⟨{ demo with power := .hold }, { port := .a, pa := 0x200600, write := some [1], len := 4, recovery := false }, _,
    [1], by
    and_intros <;> first | decide +kernel | rfl | exact Or.inl (by decide +kernel) | exact Or.inr (by decide +kernel) | exact Or.inr rfl | (intro e he; cases he)⟩

theorem witness_HearthAndHost_9_2_1_2 : ∃ (s : State) (x : HostAcc) (p : _),
    s.power ≠ .off ∧ x.recovery = false ∧ x.pa < 2 ^ 43 ∧
    ((if x.port = .a then s.linkDown.1 else s.linkDown.2) = false) ∧
    ((∀ e ∈ s.aways, e.2.owner = .host (decide (x.port = .b)) → x.write ≠ none ∧ e.2.req.kind ≠ 1)) ∧
    p = s.forwarded (s.pkg * 2 ^ 43 + x.pa) ∧ pkgOf p = s.pkg ∧ s.homeLost (inPkg p) = false ∧ x.write = none :=
  ⟨demo, { port := .b, pa := 0x200600, write := none, len := 4, recovery := false }, _, by
    and_intros <;> first | decide +kernel | rfl | exact Or.inl (by decide +kernel) | exact Or.inr (by decide +kernel) | exact Or.inr rfl | (intro e he; cases he)⟩

theorem witness_HearthAndHost_9_2_2 : ∃ (s : State) (x : HostAcc) (p : _),
    s.power ≠ .off ∧ x.recovery = false ∧ x.pa < 2 ^ 43 ∧
    ((if x.port = .a then s.linkDown.1 else s.linkDown.2) = false) ∧
    ((∀ e ∈ s.aways, e.2.owner = .host (decide (x.port = .b)) → x.write ≠ none ∧ e.2.req.kind ≠ 1)) ∧
    s.fwdOf x.pa = some p ∧ pkgOf p ≠ s.pkg :=
  ⟨{ demo with fwd := [(0x20, 0x8000020)] },
    { port := .a, pa := 0x200600, write := none, len := 4, recovery := false }, 0x80000200600, by
    and_intros <;> first | decide +kernel | rfl | exact Or.inl (by decide +kernel) | exact Or.inr (by decide +kernel) | exact Or.inr rfl | (intro e he; cases he)⟩

theorem witness_HearthAndHost_10_4 : ∃ (s : State),
    s.power = .hold :=
  ⟨{ demo with power := .hold }, by
    first | decide +kernel | rfl⟩

theorem witness_HearthAndHost_11_1 : ∃ (s : State) (x : HostAcc) (bs : List Byte),
    s.power ≠ .off ∧ x.recovery = true ∧ x.port = .a ∧ s.linkDown.1 = false ∧ x.write = some bs ∧
    x.pa + bs.length ≤ 2 ^ 28 ∧ fld (s.hr 0x508).toNat 4 4 = 4 :=
  ⟨{ demo with hreg := [(0x508, 0x40)] },
    { port := .a, pa := 0xFFFFFFF, write := some [1], len := 4, recovery := true }, [1], by
    and_intros <;> first | decide +kernel | rfl | exact Or.inl (by decide +kernel) | exact Or.inr (by decide +kernel) | exact Or.inr rfl⟩

theorem witness_HearthAndHost_11_2 : ∃ (s : State) (x : HostAcc) (bs : List Byte),
    s.power ≠ .off ∧ x.recovery = true ∧ x.port = .a ∧ s.linkDown.1 = false ∧ x.write = some bs ∧
    x.pa + bs.length ≤ 2 ^ 28 ∧ fld (s.hr 0x508).toNat 4 4 ≠ 4 :=
  ⟨{ demo with hreg := [(0x508, 0)] },
    { port := .a, pa := 0xFFFFFFF, write := some [1], len := 4, recovery := true }, [1], by
    and_intros <;> first | decide +kernel | rfl | exact Or.inl (by decide +kernel) | exact Or.inr (by decide +kernel) | exact Or.inr rfl⟩

theorem witness_HearthAndHost_12_1 : ∃ (s : State) (v : W64) (s1 : State),
    s1 = { s with hreg := s.hreg.put 0x4D0 (BitVec.ofNat 64 (v.toNat % 2 ^ 32)) } ∧
    (s.ashLost = 0 ∨ s.ashLog ≤ 3 ∨ s1.ashFull = true) :=
  ⟨demo, 0, _, by
    and_intros <;> first | decide +kernel | rfl | exact Or.inl (by decide +kernel) | exact Or.inr (by decide +kernel) | exact Or.inr rfl⟩

theorem witness_HearthAndHost_12_2 : ∃ (s : State) (v : W64) (s1 : State),
    s1 = { s with hreg := s.hreg.put 0x4D0 (BitVec.ofNat 64 (v.toNat % 2 ^ 32)) } ∧ s.ashLost ≠ 0 ∧ 3 < s.ashLog ∧
    s1.ashFull = false :=
  ⟨{ demo with hreg := [(0x4C0, 4), (0x4C8, 1)], ashLost := 2 }, 0, _, by
    and_intros <;> first | decide +kernel | rfl⟩

theorem witness_HearthAndHost_13_1 : ∃ (s : State) (port : Port) (vec : Nat),
    s.msixHold.contains (port == .b, vec) = true ∧ s.msixDue.contains (port == .b, vec) = true :=
  ⟨{ demo with msixHold := [(false, 0)], msixDue := [(false, 0)] }, .a, 0, by
    and_intros <;> first | decide +kernel | rfl⟩

theorem witness_HearthAndHost_13_2 : ∃ (s : State) (port : Port) (vec : Nat),
    s.msixHold.contains (port == .b, vec) = true ∧ s.msixDue.contains (port == .b, vec) = false :=
  ⟨{ demo with msixHold := [(false, 0)] }, .a, 0, by
    and_intros <;> first | decide +kernel | rfl⟩

theorem witness_Queues_1 : ∃ (s : State) (set : Nat),
    ((∃ e ∈ s.queues, e.2.waits = true ∧ e.2.set = set ∧ s.saving e.2.part = false)) :=
  ⟨{ demo with queues := [(0, { enabled := true, state := .waiting, log2n := 4, base := 0x200800, widx := 1, typ := 0 })], mem := demoMem },
    0, by
    first | decide +kernel | exact ⟨_, List.mem_cons_self, by decide +kernel⟩⟩

theorem witness_Queues_2_3 : ∃ (s : State) (slot : Nat) (q : Nat) (top : Nat) (e : _),
    slot < 64 ∧ s.slots.get? slot = none ∧ (s.grantee (if slot < 56 then 0 else 1) = some (q, top)) ∧ e ∈ s.queues ∧
    e.2.waits = true ∧ (e.2.set = (if slot < 56 then 0 else 1)) ∧ s.saving e.2.part = false :=
  ⟨{ demo with queues := [(0, { enabled := true, state := .waiting, log2n := 4, base := 0x200800, widx := 1, typ := 0 })], mem := demoMem },
    0, 0, 0, (0, { enabled := true, state := .waiting, log2n := 4, base := 0x200800, widx := 1, typ := 0 }), by
    and_intros <;> first
      | decide +kernel
      | exact some_is _ (by decide +kernel)
      | exact Or.inl (by decide +kernel)
      | exact Or.inr (by decide +kernel)
      | exact List.mem_cons_self
      | (intro a h
         cases h)
      | rfl⟩

theorem witness_Queues_3 : ∃ (s : State) (q : Nat),
    (s.queue q).waits = true :=
  ⟨{ demo with queues := [(0, { enabled := true, state := .waiting, log2n := 4, base := 0x200800, widx := 1, typ := 0 })], mem := demoMem },
    0, by
    first
      | decide +kernel
      | exact some_is _ (by decide +kernel)
      | exact Or.inl (by decide +kernel)
      | exact Or.inr (by decide +kernel)
      | exact List.mem_cons_self
      | (intro a h
         cases h)
      | rfl⟩

theorem witness_Queues_4_1 : ∃ (s : State) (q : Nat),
    (s.queue q).state = .mapped ∧ (s.queue q).spent = false ∧ (s.queue q).atWait = none :=
  ⟨{ demo with queues := [(0, { enabled := true, state := .mapped, log2n := 4, base := 0x200800, widx := 1, typ := 0 })], mem := demoMem },
    0, by
    and_intros <;> first
      | decide +kernel
      | exact some_is _ (by decide +kernel)
      | exact Or.inl (by decide +kernel)
      | exact Or.inr (by decide +kernel)
      | exact List.mem_cons_self
      | (intro a h
         cases h)
      | rfl⟩

theorem witness_Queues_4_2 : ∃ (s : State) (q : Nat) (s1 : _),
    (s.queue q).state = .mapped ∧ (s.queue q).spent = false ∧
    s1 = { s with queues := s.queues.put q { s.queue q with spent := true } } ∧ s1.atUnpassed q = false :=
  ⟨{ demo with queues := [(0, { enabled := true, state := .mapped, log2n := 4, base := 0x200800, widx := 1, typ := 0 })], mem := demoMem },
    0, _, by
    and_intros <;> first
      | decide +kernel
      | exact some_is _ (by decide +kernel)
      | exact Or.inl (by decide +kernel)
      | exact Or.inr (by decide +kernel)
      | exact List.mem_cons_self
      | (intro a h
         cases h)
      | rfl⟩

set_option maxRecDepth 20000 in
theorem witness_Queues_4_3 : ∃ (s : State) (q : Nat) (s1 : _),
    (s.queue q).state = .mapped ∧ (s.queue q).spent = false ∧
    s1 = { s with queues := s.queues.put q { s.queue q with spent := true } } ∧ s1.atUnpassed q = true :=
  ⟨{ demo with queues := [(0, { enabled := true, state := .mapped, log2n := 4, base := 0x200800, widx := 1, typ := 0, atWait := some (0x200780, 0) })], mem := demoMem },
    0, _, by
    and_intros <;> first
      | decide +kernel
      | exact some_is _ (by decide +kernel)
      | exact Or.inl (by decide +kernel)
      | exact Or.inr (by decide +kernel)
      | exact List.mem_cons_self
      | (intro a h
         cases h)
      | rfl⟩

set_option maxRecDepth 20000 in
theorem witness_Queues_5 : ∃ (s : State) (q : Nat) (bar : Nat) (phase : Nat) (bs : List Byte),
    (s.queue q).atWait = some (bar, phase) ∧ s.hearthRead (s.queue q).part bar 64 = .bytes bs :=
  ⟨{ demo with queues := [(0, { enabled := true, state := .mapped, log2n := 4, base := 0x200800, widx := 1, typ := 0, atWait := some (0x200780, 0) })], mem := demoMem },
    0, 0x200780, 0, (toBytes 0 64), by
    and_intros <;> first | decide +kernel | rfl⟩

theorem witness_Queues_6_1 : ∃ (s : State) (q : Nat) (pa : Nat) (d : Nat) (x : Queue),
    q < 256 ∧ (s.queue q).enabled = false ∧ pa = (s.hr 0x100).toNat / 64 * 64 % 2 ^ 60 + 64 * q ∧ pkgOf pa = s.pkg ∧
    s.fwdOf (inPkg pa) = none ∧ s.homeLost (inPkg pa) = false ∧ d = s.mem.getNat (inPkg pa) 64 ∧
    x = { enabled := true, log2n := fld d 192 5, age := fld d 136 16, prio := fld d 132 4, typ := fld d 130 2, part := fld d 128 2, ridxa := fld d 64 64, base := fld d 0 64, eff := fld d 132 4 } ∧
    s.tableReadable pa = true ∧ s.queueOk x = true :=
  ⟨{ demo with hreg := [(0x100, 0x200C00), (0x1A0, 0x10000)], mem := Store.putNat demoMem 0x200C00 64 0x4000000000000000000000000000000000000000000200800 },
    0, 0x200C00, 0x4000000000000000000000000000000000000000000200800, _, by
    and_intros <;> first | decide +kernel | rfl⟩

theorem witness_Queues_6_2 : ∃ (s : State) (q : Nat) (pa : Nat) (d : Nat) (x : Queue),
    q < 256 ∧ (s.queue q).enabled = false ∧ pa = (s.hr 0x100).toNat / 64 * 64 % 2 ^ 60 + 64 * q ∧ pkgOf pa = s.pkg ∧
    s.fwdOf (inPkg pa) = none ∧ s.homeLost (inPkg pa) = false ∧ d = s.mem.getNat (inPkg pa) 64 ∧
    x = { enabled := true, log2n := fld d 192 5, age := fld d 136 16, prio := fld d 132 4, typ := fld d 130 2, part := fld d 128 2, ridxa := fld d 64 64, base := fld d 0 64, eff := fld d 132 4 } ∧
    s.tableReadable pa = true ∧ s.queueOk x = false :=
  ⟨{ demo with hreg := [(0x100, 0x200C00), (0x1A0, 0x10000)], mem := Store.putNat demoMem 0x200C00 64 0x1 }, 0,
    0x200C00, 1, _, by
    and_intros <;> first | decide +kernel | exact Or.inr (by decide +kernel) | exact Or.inl (by decide +kernel) | rfl⟩

theorem witness_Queues_6_3 : ∃ (s : State) (q : Nat) (pa : Nat) (d : Nat) (x : Queue),
    q < 256 ∧ (s.queue q).enabled = false ∧ pa = (s.hr 0x100).toNat / 64 * 64 % 2 ^ 60 + 64 * q ∧ pkgOf pa = s.pkg ∧
    s.fwdOf (inPkg pa) = none ∧ s.homeLost (inPkg pa) = false ∧ d = s.mem.getNat (inPkg pa) 64 ∧
    x = { enabled := true, log2n := fld d 192 5, age := fld d 136 16, prio := fld d 132 4, typ := fld d 130 2, part := fld d 128 2, ridxa := fld d 64 64, base := fld d 0 64, eff := fld d 132 4 } ∧
    s.tableReadable pa = false :=
  ⟨{ demo with hreg := [(0x100, 0x200C00), (0x1A0, 0x10000)], mem := Store.putNat demoMem 0x200C00 64 0x4000000000000000000000000000000000000000000200800, poison := [0x4018] },
    0, 0x200C00, 0x4000000000000000000000000000000000000000000200800, _, by
    and_intros <;> first | decide +kernel | exact Or.inr (by decide +kernel) | exact Or.inl (by decide +kernel) | rfl⟩

theorem witness_Queues_7_4 : ∃ (x : Queue),
    x.typ = 2 :=
  ⟨{ typ := 2, prio := 3 }, by
    first | decide +kernel | rfl⟩

theorem witness_Queues_8 : ∃ (s : State) (q : Nat),
    (s.queue q).enabled = true :=
  ⟨{ demo with queues := [(0, { enabled := true, state := .mapped, log2n := 4, base := 0x200800, widx := 1, typ := 0 })], mem := demoMem },
    0, by
    first
      | decide +kernel
      | exact some_is _ (by decide +kernel)
      | exact Or.inl (by decide +kernel)
      | exact Or.inr (by decide +kernel)
      | exact List.mem_cons_self
      | (intro a h
         cases h)
      | rfl⟩

theorem witness_Queues_9_1 : ∃ (s : State) (q : Nat) (v : W64) (x : Queue),
    q < 256 ∧ x = { s.queue q with widx := v.toNat % 2 ^ 32 } ∧ x.enabled = false :=
  ⟨demo, 255, 5, _, by
    and_intros <;> first | decide +kernel | rfl⟩

theorem witness_Queues_9_2 : ∃ (s : State) (q : Nat) (v : W64) (x : Queue),
    q < 256 ∧ x = { s.queue q with widx := v.toNat % 2 ^ 32 } ∧ x.enabled = true ∧
    ((x.state = .off ∨ x.state = .mapped ∧ (s.queue q).widx = x.ridx)) ∧ x.widx ≠ x.ridx ∧
    (x.widx + 2 ^ 32 - x.ridx) % 2 ^ 32 ≤ 2 ^ x.log2n :=
  ⟨{ demo with queues := [(0, { enabled := true, state := .off, log2n := 4, base := 0x200800, widx := 0, typ := 0 })], mem := demoMem },
    0, 16, _, by
    and_intros <;> first | decide +kernel | exact Or.inr (by decide +kernel) | exact Or.inl (by decide +kernel) | rfl⟩

theorem witness_Queues_9_2_mapped : ∃ (s : State) (q : Nat) (v : W64) (x : Queue),
    q < 256 ∧ x = { s.queue q with widx := v.toNat % 2 ^ 32 } ∧ x.enabled = true ∧
    ((x.state = .off ∨ x.state = .mapped ∧ (s.queue q).widx = x.ridx)) ∧ x.widx ≠ x.ridx ∧
    (x.widx + 2 ^ 32 - x.ridx) % 2 ^ 32 ≤ 2 ^ x.log2n :=
  ⟨{ demo with queues := [(0, { enabled := true, state := .mapped, log2n := 4, base := 0x200800, widx := 0, typ := 0 })], mem := demoMem },
    0, 1, _, by
    and_intros <;> first | decide +kernel | exact Or.inr (by decide +kernel) | exact Or.inl (by decide +kernel) | rfl⟩

theorem witness_Queues_9_3 : ∃ (s : State) (q : Nat) (v : W64) (x : Queue),
    q < 256 ∧ x = { s.queue q with widx := v.toNat % 2 ^ 32 } ∧ x.enabled = true ∧
    ((x.state = .waiting ∨ x.state = .mapped ∧ (s.queue q).widx ≠ x.ridx)) ∧
    2 ^ x.log2n < (x.widx + 2 ^ 32 - x.ridx) % 2 ^ 32 :=
  ⟨{ demo with queues := [(0, { enabled := true, state := .waiting, log2n := 4, base := 0x200800, widx := 0, typ := 0 })], mem := demoMem },
    0, 17, _, by
    and_intros <;> first | decide +kernel | exact Or.inr (by decide +kernel) | exact Or.inl (by decide +kernel) | rfl⟩

theorem witness_Queues_9_3_mapped : ∃ (s : State) (q : Nat) (v : W64) (x : Queue),
    q < 256 ∧ x = { s.queue q with widx := v.toNat % 2 ^ 32 } ∧ x.enabled = true ∧
    ((x.state = .waiting ∨ x.state = .mapped ∧ (s.queue q).widx ≠ x.ridx)) ∧
    2 ^ x.log2n < (x.widx + 2 ^ 32 - x.ridx) % 2 ^ 32 :=
  ⟨{ demo with queues := [(0, { enabled := true, state := .mapped, log2n := 4, base := 0x200800, widx := 1, typ := 0 })], mem := demoMem },
    0, 17, _, by
    and_intros <;> first | decide +kernel | exact Or.inr (by decide +kernel) | exact Or.inl (by decide +kernel) | rfl⟩

theorem witness_Queues_9_4 : ∃ (s : State) (q : Nat) (v : W64) (x : Queue),
    q < 256 ∧ x = { s.queue q with widx := v.toNat % 2 ^ 32 } ∧ x.enabled = true ∧
    ((x.state = .off ∨ x.state = .mapped ∧ (s.queue q).widx = x.ridx)) ∧
    2 ^ x.log2n < (x.widx + 2 ^ 32 - x.ridx) % 2 ^ 32 :=
  ⟨{ demo with queues := [(0, { enabled := true, state := .off, log2n := 4, base := 0x200800, widx := 0, typ := 0 })], mem := demoMem },
    0, 17, _, by
    and_intros <;> first | decide +kernel | exact Or.inr (by decide +kernel) | exact Or.inl (by decide +kernel) | rfl⟩

theorem witness_Queues_10 : ∃ (s : State) (part : Nat) (va : Nat) (n : Nat) (a : Nat) (base : Nat) (big : Bool) (w :
    Bool) (x : Bool) (mig : Bool) (entry : Nat),
    va + n ≤ 2 ^ 56 ∧ s.walk part va = .page base big true w x mig entry ∧
    s.physRes part true .load (pageAddr base big va) true = .ok (.phys a) :=
  ⟨demo, 0, 0x200600, 4, 0x200600, 0x200000, true, true, true, false, 0x30008, by
    and_intros <;> first | decide +kernel | rfl⟩

set_option maxRecDepth 20000 in
theorem witness_Queues_11_1 : ∃ (s : State) (q : Nat) (w : Nat) (bs : List Byte) (args : List Byte) (x : Queue) (h :
    Header),
    x = s.queue q ∧ x.enabled = true ∧ x.state = .mapped ∧ x.typ = 0 ∧ x.widx ≠ x.ridx ∧ x.atWait = none ∧
    s.saving x.part = false ∧ s.readyAfter x.launch = true ∧
    s.hearthRead x.part (x.base + x.ridx % 2 ^ x.log2n * 128) 128 = .bytes bs ∧ w = ofBytes bs ∧ w % 256 ≠ 2 ∧
    h = headerOf w ∧ wellFormedHeader w = true ∧ s.hearthWords x.part h.args h.argsz = .bytes args ∧
    h.perCluster ≠ 0 ∧ ((h.gridsync = true → h.total ≤ h.capacity (s.diesOf x.part).length)) :=
  ⟨{ demo with queues := [(0, { enabled := true, state := .mapped, log2n := 4, base := 0x200800, widx := 1, typ := 0 })], mem := Store.putNat demoMem 0x200800 128 0x100000000000000000000000000000000000000000000000300000000002006000000000000200400000000000000000000000000000000000000010100080801 },
    0,
    0x100000000000000000000000000000000000000000000000300000000002006000000000000200400000000000000000000000000000000000000010100080801,
    (toBytes 0x100000000000000000000000000000000000000000000000300000000002006000000000000200400000000000000000000000000000000000000010100080801 128),
    [], _, _, by
    and_intros <;> first | decide +kernel | rfl⟩

set_option maxRecDepth 20000 in
theorem witness_Queues_11_2_code1 : ∃ (s : State) (q : Nat) (w : Nat) (bs : List Byte) (args : List Byte) (x : Queue)
    (h : Header) (code : _) (y : _),
    x = s.queue q ∧ x.enabled = true ∧ x.state = .mapped ∧ x.typ = 0 ∧ x.widx ≠ x.ridx ∧ x.atWait = none ∧
    s.saving x.part = false ∧ s.readyAfter x.launch = true ∧
    s.hearthRead x.part (x.base + x.ridx % 2 ^ x.log2n * 128) 128 = .bytes bs ∧ w = ofBytes bs ∧ w % 256 ≠ 2 ∧
    h = headerOf w ∧ y = { x with launch := none } ∧
    ((wellFormedHeader w = false ∧ code = 1 ∨ wellFormedHeader w = true ∧ s.hearthWords x.part h.args h.argsz = .bad ∧ code = 2 ∨ wellFormedHeader w = true ∧ s.hearthWords x.part h.args h.argsz = .bytes args ∧ h.perCluster = 0 ∧ code = 3 ∨ wellFormedHeader w = true ∧ s.hearthWords x.part h.args h.argsz = .bytes args ∧ h.perCluster ≠ 0 ∧ h.gridsync = true ∧ h.capacity (s.diesOf x.part).length < h.total ∧ code = 4)) :=
  ⟨{ demo with queues := [(0, { enabled := true, state := .mapped, log2n := 4, base := 0x200800, widx := 1, typ := 0 })], mem := Store.putNat demoMem 0x200800 128 0x100000000000000000000000000000000000000000000000300000000002006000000000000200400000000000000000000000000000000000000010100080803 },
    0,
    0x100000000000000000000000000000000000000000000000300000000002006000000000000200400000000000000000000000000000000000000010100080803,
    (toBytes 0x100000000000000000000000000000000000000000000000300000000002006000000000000200400000000000000000000000000000000000000010100080803 128),
    [], _, _, 1, _, by
    and_intros <;> first | decide +kernel | rfl | exact Or.inl (by decide +kernel)⟩

set_option maxRecDepth 20000 in
theorem witness_Queues_11_2_code2 : ∃ (s : State) (q : Nat) (w : Nat) (bs : List Byte) (args : List Byte) (x : Queue)
    (h : Header) (code : _) (y : _),
    x = s.queue q ∧ x.enabled = true ∧ x.state = .mapped ∧ x.typ = 0 ∧ x.widx ≠ x.ridx ∧ x.atWait = none ∧
    s.saving x.part = false ∧ s.readyAfter x.launch = true ∧
    s.hearthRead x.part (x.base + x.ridx % 2 ^ x.log2n * 128) 128 = .bytes bs ∧ w = ofBytes bs ∧ w % 256 ≠ 2 ∧
    h = headerOf w ∧ y = { x with launch := none } ∧
    ((wellFormedHeader w = false ∧ code = 1 ∨ wellFormedHeader w = true ∧ s.hearthWords x.part h.args h.argsz = .bad ∧ code = 2 ∨ wellFormedHeader w = true ∧ s.hearthWords x.part h.args h.argsz = .bytes args ∧ h.perCluster = 0 ∧ code = 3 ∨ wellFormedHeader w = true ∧ s.hearthWords x.part h.args h.argsz = .bytes args ∧ h.perCluster ≠ 0 ∧ h.gridsync = true ∧ h.capacity (s.diesOf x.part).length < h.total ∧ code = 4)) :=
  ⟨{ demo with queues := [(0, { enabled := true, state := .mapped, log2n := 4, base := 0x200800, widx := 1, typ := 0 })], mem := Store.putNat demoMem 0x200800 128 0x100000000000000000000000000000000000000800000000300000000040000000000000000200400000000000000000000000000000000000000010100080801 },
    0,
    0x100000000000000000000000000000000000000800000000300000000040000000000000000200400000000000000000000000000000000000000010100080801,
    (toBytes 0x100000000000000000000000000000000000000800000000300000000040000000000000000200400000000000000000000000000000000000000010100080801 128),
    [], _, _, 2, _, by
    and_intros <;> first | decide +kernel | rfl | exact Or.inr (Or.inl (by decide +kernel))⟩

set_option maxRecDepth 20000 in
theorem witness_Queues_11_2_code3 : ∃ (s : State) (q : Nat) (w : Nat) (bs : List Byte) (args : List Byte) (x : Queue)
    (h : Header) (code : _) (y : _),
    x = s.queue q ∧ x.enabled = true ∧ x.state = .mapped ∧ x.typ = 0 ∧ x.widx ≠ x.ridx ∧ x.atWait = none ∧
    s.saving x.part = false ∧ s.readyAfter x.launch = true ∧
    s.hearthRead x.part (x.base + x.ridx % 2 ^ x.log2n * 128) 128 = .bytes bs ∧ w = ofBytes bs ∧ w % 256 ≠ 2 ∧
    h = headerOf w ∧ y = { x with launch := none } ∧
    ((wellFormedHeader w = false ∧ code = 1 ∨ wellFormedHeader w = true ∧ s.hearthWords x.part h.args h.argsz = .bad ∧ code = 2 ∨ wellFormedHeader w = true ∧ s.hearthWords x.part h.args h.argsz = .bytes args ∧ h.perCluster = 0 ∧ code = 3 ∨ wellFormedHeader w = true ∧ s.hearthWords x.part h.args h.argsz = .bytes args ∧ h.perCluster ≠ 0 ∧ h.gridsync = true ∧ h.capacity (s.diesOf x.part).length < h.total ∧ code = 4)) :=
  ⟨{ demo with queues := [(0, { enabled := true, state := .mapped, log2n := 4, base := 0x200800, widx := 1, typ := 0 })], mem := Store.putNat demoMem 0x200800 128 0x100000000000000000000000000000000000000000000018600000000002006000000000000200400000000000000000000000000000000000000054000080B01 },
    0,
    0x100000000000000000000000000000000000000000000018600000000002006000000000000200400000000000000000000000000000000000000054000080B01,
    (toBytes 0x100000000000000000000000000000000000000000000018600000000002006000000000000200400000000000000000000000000000000000000054000080B01 128),
    [], _, _, 3, _, by
    and_intros <;> first | decide +kernel | rfl | exact Or.inr (Or.inr (Or.inl (by decide +kernel)))⟩

set_option maxRecDepth 20000 in
theorem witness_Queues_11_2_code4 : ∃ (s : State) (q : Nat) (w : Nat) (bs : List Byte) (args : List Byte) (x : Queue)
    (h : Header) (code : _) (y : _),
    x = s.queue q ∧ x.enabled = true ∧ x.state = .mapped ∧ x.typ = 0 ∧ x.widx ≠ x.ridx ∧ x.atWait = none ∧
    s.saving x.part = false ∧ s.readyAfter x.launch = true ∧
    s.hearthRead x.part (x.base + x.ridx % 2 ^ x.log2n * 128) 128 = .bytes bs ∧ w = ofBytes bs ∧ w % 256 ≠ 2 ∧
    h = headerOf w ∧ y = { x with launch := none } ∧
    ((wellFormedHeader w = false ∧ code = 1 ∨ wellFormedHeader w = true ∧ s.hearthWords x.part h.args h.argsz = .bad ∧ code = 2 ∨ wellFormedHeader w = true ∧ s.hearthWords x.part h.args h.argsz = .bytes args ∧ h.perCluster = 0 ∧ code = 3 ∨ wellFormedHeader w = true ∧ s.hearthWords x.part h.args h.argsz = .bytes args ∧ h.perCluster ≠ 0 ∧ h.gridsync = true ∧ h.capacity (s.diesOf x.part).length < h.total ∧ code = 4)) :=
  ⟨{ demo with queues := [(0, { enabled := true, state := .mapped, log2n := 4, base := 0x200800, widx := 1, typ := 0 })], mem := Store.putNat demoMem 0x200800 128 0x1000000000000000000000000000FFFFF0000000000014003000000000020060000000000002004000000000000000000000000000000000000000101000A0801 },
    0,
    0x1000000000000000000000000000FFFFF0000000000014003000000000020060000000000002004000000000000000000000000000000000000000101000A0801,
    (toBytes 0x1000000000000000000000000000FFFFF0000000000014003000000000020060000000000002004000000000000000000000000000000000000000101000A0801 128),
    [], _, _, 4, _, by
    and_intros <;> first | decide +kernel | rfl | exact Or.inr (Or.inr (Or.inr ((by decide +kernel))))⟩

set_option maxRecDepth 20000 in
theorem witness_Queues_12 : ∃ (s : State) (die : Nat) (e : List Byte × Nat) (rest : List (List Byte × Nat)) (args :
    List Byte) (h : Header),
    (s.dies.getD die {}).part = e :: rest ∧ s.lost die = false ∧ s.saving (s.partOfDie die) = false ∧
    s.readyAfter (s.dies.getD die {}).reading = true ∧ h = headerOf (ofBytes e.1) ∧
    wellFormedHeader (ofBytes e.1) = true ∧ s.hearthWords (s.partOfDie die) h.args h.argsz = .bytes args ∧
    h.perCluster ≠ 0 ∧ ((h.gridsync = true → h.total ≤ h.capacity 1)) :=
  ⟨{ demo with dies := [(0, { part := [(toBytes 0x100000000000000000000000000000000000000000000000300000000002006000000000000200400000000000000000000000000000000000000010100080801 128, 0)] })] },
    0,
    (toBytes 0x100000000000000000000000000000000000000000000000300000000002006000000000000200400000000000000000000000000000000000000010100080801 128, 0),
    [], [], _, by
    and_intros <;> first | decide +kernel | rfl⟩

set_option maxRecDepth 20000 in
theorem witness_Queues_13_1 : ∃ (s : State) (q : Nat) (bs : List Byte) (x : Queue) (bar : Nat),
    x = s.queue q ∧ x.enabled = true ∧ x.state = .mapped ∧ x.typ = 0 ∧ x.widx ≠ x.ridx ∧ x.atWait = none ∧
    s.saving x.part = false ∧ s.readyAfter x.launch = true ∧
    s.hearthRead x.part (x.base + x.ridx % 2 ^ x.log2n * 128) 128 = .bytes bs ∧ ofBytes bs % 256 = 2 ∧
    bar = fld (ofBytes bs) 64 64 ∧ bar % 64 = 0 ∧ s.hearthRead x.part bar 64 ≠ .bad :=
  ⟨{ demo with queues := [(0, { enabled := true, state := .mapped, log2n := 4, base := 0x200800, widx := 1, typ := 0 })], mem := Store.putNat demoMem 0x200800 128 0x2007800000000000000002 },
    0, (toBytes 0x2007800000000000000002 128), _, 0x200780, by
    and_intros <;> first | decide +kernel | exact Or.inr (by decide +kernel) | exact Or.inl (by decide +kernel) | rfl⟩

set_option maxRecDepth 20000 in
theorem witness_Queues_13_2 : ∃ (s : State) (q : Nat) (bs : List Byte) (x : Queue) (bar : Nat),
    x = s.queue q ∧ x.enabled = true ∧ x.state = .mapped ∧ x.typ = 0 ∧ x.widx ≠ x.ridx ∧ x.atWait = none ∧
    s.saving x.part = false ∧ s.readyAfter x.launch = true ∧
    s.hearthRead x.part (x.base + x.ridx % 2 ^ x.log2n * 128) 128 = .bytes bs ∧ ofBytes bs % 256 = 2 ∧
    bar = fld (ofBytes bs) 64 64 ∧ (bar % 64 ≠ 0 ∨ s.hearthRead x.part bar 64 = .bad) :=
  ⟨{ demo with queues := [(0, { enabled := true, state := .mapped, log2n := 4, base := 0x200800, widx := 1, typ := 0 })], mem := Store.putNat demoMem 0x200800 128 0x2007840000000000000002 },
    0, (toBytes 0x2007840000000000000002 128), _, 0x200784, by
    and_intros <;> first | decide +kernel | exact Or.inr (by decide +kernel) | exact Or.inl (by decide +kernel) | rfl⟩

set_option maxRecDepth 20000 in
theorem witness_Queues_14 : ∃ (s : State) (q : Nat) (bar : Nat) (phase : Nat) (bs : List Byte),
    (s.queue q).atWait = some (bar, phase) ∧ (s.queue q).state = .mapped ∧ s.saving (s.queue q).part = false ∧
    s.hearthRead (s.queue q).part bar 64 = .bytes bs ∧ (Bar.ofWord (ofBytes bs)).completed phase = true :=
  ⟨{ demo with queues := [(0, { enabled := true, state := .mapped, log2n := 4, base := 0x200800, widx := 1, typ := 0, atWait := some (0x200780, 4294967295) })], mem := demoMem },
    0, 0x200780, 4294967295, (toBytes 0 64), by
    and_intros <;> first | decide +kernel | rfl⟩

set_option maxRecDepth 20000 in
theorem witness_Queues_15_1 : ∃ (s : State) (q : Nat) (w : Nat) (bs : List Byte) (x : Queue),
    x = s.queue q ∧ x.enabled = true ∧ x.state = .mapped ∧ x.typ = 1 ∧ x.widx ≠ x.ridx ∧ x.atWait = none ∧
    s.saving x.part = false ∧ s.hearthRead x.part (x.base + x.ridx % 2 ^ x.log2n * 64) 64 = .bytes bs ∧
    w = ofBytes bs ∧ ((tb w 256 = false ∨ ∀ c ∈ s.copycmds, c.2.queue ≠ q)) ∧ 1 ≤ fld w 128 64 ∧
    fld w 128 64 ≤ 2 ^ 40 :=
  ⟨{ demo with queues := [(0, { enabled := true, state := .mapped, log2n := 4, base := 0x200800, widx := 1, typ := 1 })], mem := Store.putNat demoMem 0x200800 64 0x400000000002006400000000000200600 },
    0, 0x400000000002006400000000000200600, (toBytes 0x400000000002006400000000000200600 64), _, by
    and_intros <;> first | decide +kernel | exact Or.inr (by decide +kernel) | exact Or.inl (by decide +kernel) | rfl⟩

set_option maxRecDepth 20000 in
theorem witness_Queues_15_1_fence : ∃ (s : State) (q : Nat) (w : Nat) (bs : List Byte) (x : Queue),
    x = s.queue q ∧ x.enabled = true ∧ x.state = .mapped ∧ x.typ = 1 ∧ x.widx ≠ x.ridx ∧ x.atWait = none ∧
    s.saving x.part = false ∧ s.hearthRead x.part (x.base + x.ridx % 2 ^ x.log2n * 64) 64 = .bytes bs ∧
    w = ofBytes bs ∧ ((tb w 256 = false ∨ ∀ c ∈ s.copycmds, c.2.queue ≠ q)) ∧ 1 ≤ fld w 128 64 ∧
    fld w 128 64 ≤ 2 ^ 40 :=
  ⟨{ demo with queues := [(0, { enabled := true, state := .mapped, log2n := 4, base := 0x200800, widx := 1, typ := 1 })], mem := Store.putNat demoMem 0x200800 64 0x10000000000000000000001000000000000000000002006400000000000200600 },
    0, 0x10000000000000000000001000000000000000000002006400000000000200600,
    (toBytes 0x10000000000000000000001000000000000000000002006400000000000200600 64), _, by
    and_intros <;> first | decide +kernel | exact Or.inr (by decide +kernel) | exact Or.inl (by decide +kernel) | rfl⟩

set_option maxRecDepth 20000 in
theorem witness_Queues_15_2_none : ∃ (s : State) (q : Nat) (w : Nat) (bs : List Byte) (x : Queue),
    x = s.queue q ∧ x.enabled = true ∧ x.state = .mapped ∧ x.typ = 1 ∧ x.widx ≠ x.ridx ∧ x.atWait = none ∧
    s.saving x.part = false ∧ s.hearthRead x.part (x.base + x.ridx % 2 ^ x.log2n * 64) 64 = .bytes bs ∧
    w = ofBytes bs ∧ ((tb w 256 = false ∨ ∀ c ∈ s.copycmds, c.2.queue ≠ q)) ∧
    (fld w 128 64 = 0 ∨ 2 ^ 40 < fld w 128 64) :=
  ⟨{ demo with queues := [(0, { enabled := true, state := .mapped, log2n := 4, base := 0x200800, widx := 1, typ := 1 })], mem := Store.putNat demoMem 0x200800 64 0x2006400000000000200600 },
    0, 0x2006400000000000200600, (toBytes 0x2006400000000000200600 64), _, by
    and_intros <;> first | decide +kernel | exact Or.inr (by decide +kernel) | exact Or.inl (by decide +kernel) | rfl⟩

set_option maxRecDepth 20000 in
theorem witness_Queues_15_2_long : ∃ (s : State) (q : Nat) (w : Nat) (bs : List Byte) (x : Queue),
    x = s.queue q ∧ x.enabled = true ∧ x.state = .mapped ∧ x.typ = 1 ∧ x.widx ≠ x.ridx ∧ x.atWait = none ∧
    s.saving x.part = false ∧ s.hearthRead x.part (x.base + x.ridx % 2 ^ x.log2n * 64) 64 = .bytes bs ∧
    w = ofBytes bs ∧ ((tb w 256 = false ∨ ∀ c ∈ s.copycmds, c.2.queue ≠ q)) ∧
    (fld w 128 64 = 0 ∨ 2 ^ 40 < fld w 128 64) :=
  ⟨{ demo with queues := [(0, { enabled := true, state := .mapped, log2n := 4, base := 0x200800, widx := 1, typ := 1 })], mem := Store.putNat demoMem 0x200800 64 0x1000000000100000000002006400000000000200600 },
    0, 0x1000000000100000000002006400000000000200600, (toBytes 0x1000000000100000000002006400000000000200600 64), _,
    by
    and_intros <;> first | decide +kernel | exact Or.inr (by decide +kernel) | exact Or.inl (by decide +kernel) | rfl⟩

set_option maxRecDepth 20000 in
theorem witness_Queues_16_1_1 : ∃ (s : State) (id : Nat) (c : CopyCmd) (s1 : _),
    s.copycmds.get? id = some c ∧ c.out = [] ∧ ((∀ a ∈ s.aways, a.2.owner ≠ .command id)) ∧
    ((∀ k, k < spanChunks c.dst c.len → k ∈ c.did)) ∧ s1 = { s with copycmds := s.copycmds.del id } ∧ c.done = 0 :=
  ⟨{ demo with copycmds := [(7, { queue := 0, part := 0, src := 0x200600, dst := 0x200640, len := 4, done := 0x0, did := [0] })] },
    7, { queue := 0, part := 0, src := 0x200600, dst := 0x200640, len := 4, done := 0x0, did := [0] }, _, by
    and_intros <;> first
      | decide +kernel
      | (intro a h
         cases h)
      | rfl
      | (intro k h
         have : spanChunks 0x200640 4 = 1 := by decide
         have : k < 1 := h
         have : k = 0 := by omega
         subst this
         decide)⟩

set_option maxRecDepth 20000 in
theorem witness_Queues_16_1_2 : ∃ (s : State) (id : Nat) (c : CopyCmd) (s1 : _),
    s.copycmds.get? id = some c ∧ c.out = [] ∧ ((∀ a ∈ s.aways, a.2.owner ≠ .command id)) ∧
    ((∀ k, k < spanChunks c.dst c.len → k ∈ c.did)) ∧ s1 = { s with copycmds := s.copycmds.del id } ∧ c.done ≠ 0 ∧
    c.done % 64 = 0 :=
  ⟨{ demo with copycmds := [(7, { queue := 0, part := 0, src := 0x200600, dst := 0x200640, len := 4, done := 0x200780, did := [0] })] },
    7, { queue := 0, part := 0, src := 0x200600, dst := 0x200640, len := 4, done := 0x200780, did := [0] }, _, by
    and_intros <;> first
      | decide +kernel
      | (intro a h
         cases h)
      | rfl
      | (intro k h
         have : spanChunks 0x200640 4 = 1 := by decide
         have : k < 1 := h
         have : k = 0 := by omega
         subst this
         decide)⟩

set_option maxRecDepth 20000 in
theorem witness_Queues_16_2_1 : ∃ (s : State) (id : Nat) (c : CopyCmd) (k : _) (sub : _) (va : _) (pte : _) (s1 : _),
    s.copycmds.get? id = some c ∧ c.out = [] ∧ ((∀ a ∈ s.aways, a.2.owner ≠ .command id)) ∧
    k < spanChunks c.dst c.len ∧ ((∀ j, j < k → j ∈ c.did)) ∧ k ∉ c.did ∧
    s.cmdChunk c k = .error (.fault sub va pte) ∧
    s1 = ({ s with copycmds := s.copycmds.del id } : State).post { code := 7, part := c.part, addr := va } ∧
    c.done = 0 :=
  ⟨{ demo with copycmds := [(7, { queue := 0, part := 0, src := 0x4000000, dst := 0x200640, len := 4, done := 0x0, did := [] })] },
    7, { queue := 0, part := 0, src := 0x4000000, dst := 0x200640, len := 4, done := 0x0, did := [] }, 0, 0,
    67108864, 0, _, by
    and_intros <;> first
      | decide +kernel
      | (intro a h
         cases h)
      | rfl
      | exact error_of _ _ (by decide +kernel)⟩

set_option maxRecDepth 20000 in
theorem witness_Queues_16_2_2 : ∃ (s : State) (id : Nat) (c : CopyCmd) (k : _) (sub : _) (va : _) (pte : _) (s1 : _),
    s.copycmds.get? id = some c ∧ c.out = [] ∧ ((∀ a ∈ s.aways, a.2.owner ≠ .command id)) ∧
    k < spanChunks c.dst c.len ∧ ((∀ j, j < k → j ∈ c.did)) ∧ k ∉ c.did ∧
    s.cmdChunk c k = .error (.fault sub va pte) ∧
    s1 = ({ s with copycmds := s.copycmds.del id } : State).post { code := 7, part := c.part, addr := va } ∧
    c.done ≠ 0 ∧ c.done % 64 = 0 :=
  ⟨{ demo with copycmds := [(7, { queue := 0, part := 0, src := 0x4000000, dst := 0x200640, len := 4, done := 0x200780, did := [] })] },
    7, { queue := 0, part := 0, src := 0x4000000, dst := 0x200640, len := 4, done := 0x200780, did := [] }, 0, 0,
    67108864, 0, _, by
    and_intros <;> first
      | decide +kernel
      | (intro a h
         cases h)
      | rfl
      | exact error_of _ _ (by decide +kernel)⟩

set_option maxRecDepth 20000 in
theorem witness_Queues_17_1 : ∃ (s : State) (q : Nat) (bs : List Byte) (x : Queue) (k : Task),
    x = s.queue q ∧ x.enabled = true ∧ x.state = .mapped ∧ x.typ = 2 ∧ x.widx ≠ x.ridx ∧ x.atWait = none ∧
    s.saving x.part = false ∧ s.hearthRead x.part (x.base + x.ridx % 2 ^ x.log2n * 64) 64 = .bytes bs ∧
    k = taskOfRecord x.part (ofBytes bs) none ∧ s.recordValid x.part (ofBytes bs) = true ∧
    ((∀ u ∈ k.units, (s.cunits.getD u []).length < 8)) :=
  ⟨{ demo with queues := [(0, { enabled := true, state := .mapped, log2n := 4, base := 0x200800, widx := 1, typ := 2 })], mem := Store.putNat demoMem 0x200800 64 0x10010000000010000000000000000000000000000000000000000000000000000000000000000000000000000000000000000000000000000000000200600 },
    0,
    (toBytes 0x10010000000010000000000000000000000000000000000000000000000000000000000000000000000000000000000000000000000000000000000200600 64),
    _, _, by
    and_intros <;> first | decide +kernel | rfl⟩

set_option maxRecDepth 20000 in
theorem witness_Queues_17_2 : ∃ (s : State) (q : Nat) (bs : List Byte) (x : Queue) (k : Task),
    x = s.queue q ∧ x.enabled = true ∧ x.state = .mapped ∧ x.typ = 2 ∧ x.widx ≠ x.ridx ∧ x.atWait = none ∧
    s.saving x.part = false ∧ s.hearthRead x.part (x.base + x.ridx % 2 ^ x.log2n * 64) 64 = .bytes bs ∧
    k = taskOfRecord x.part (ofBytes bs) none ∧ s.recordValid x.part (ofBytes bs) = false :=
  ⟨{ demo with queues := [(0, { enabled := true, state := .mapped, log2n := 4, base := 0x200800, widx := 1, typ := 2 })], mem := Store.putNat demoMem 0x200800 64 0x1 },
    0, (toBytes 1 64), _, _, by
    and_intros <;> first | decide +kernel | rfl⟩

theorem witness_Queues_18 : ∃ (s : State) (die : Nat) (id : Nat) (rest : List Nat) (k : Task),
    (s.dies.getD die {}).cq = id :: rest ∧ s.tasks.get? id = some k ∧
    ((∀ u ∈ k.units, (s.cunits.getD u []).length < 8)) ∧ s.lost die = false :=
  ⟨{ demo with dies := [(0, { cq := [5] })], tasks := [(5, { Task.absent with args := [1, 2, 3, 4], left := 2, total := 2 })] },
    0, 5, [], { Task.absent with args := [1, 2, 3, 4], left := 2, total := 2 }, by
    and_intros <;> first | decide +kernel | rfl⟩

theorem witness_WorkIsPlacedAndRetires_1 : ∃ (s : State) (die : Nat) (cluster : Nat) (id : Nat) (now : Nat) (l :
    Launch) (rs : List (Nat × Nat)),
    die < 4 ∧ cluster < 36 ∧ s.lost die = false ∧ s.power ≠ .hold ∧ s.saving (s.partOfDie die) = false ∧
    rs = (s.dies.getD die {}).requests ∧ ((∀ r ∈ rs, r.2 ≠ cluster)) ∧ s.head die = some (id, l) ∧
    s.unitRoom die cluster l.hdr = true ∧ now = s.clock.toNat :=
  ⟨{ State.reset with launches := [(1, { Launch.absent with hdr := { res := 2, par := 0, roleany := true, vecn := 1, nbn := 0, w := [3], x := [], fscr := 4, split := 1, kstk := 16 }, order := 1 })], dies := [(0, { requests := [] })], nextId := 20, hreg := [(0x1C0, 0xC0000001)] },
    0, 35, 1, 0,
    { Launch.absent with hdr := { res := 2, par := 0, roleany := true, vecn := 1, nbn := 0, w := [3], x := [], fscr := 4, split := 1, kstk := 16 }, order := 1 },
    [], by
    and_intros <;> first
      | decide +kernel
      | exact some_is _ (by decide +kernel)
      | rfl
      | (intro x h
         cases h)⟩

theorem witness_WorkIsPlacedAndRetires_2 : ∃ (s : State) (die : Nat) (id : Nat) (ord : Nat) (r : Nat × Nat) (ks :
    List Nat) (l : Launch) (l2 : Launch),
    s.nextRequest die = some r ∧ s.lost die = false ∧ s.power ≠ .hold ∧ s.saving (s.partOfDie die) = false ∧
    s.head die = some (id, l) ∧ s.unitPlan l.part die r.2 l.hdr = some ks ∧ takeOrdinals l die = some (ord, l2) :=
  ⟨{ State.reset with launches := [(1, { Launch.absent with hdr := { res := 2, par := 0, roleany := true, vecn := 1, nbn := 0, w := [3], x := [], fscr := 4, split := 1, kstk := 16 }, order := 1 })], dies := [(0, { requests := [(5, 3)] })], nextId := 20, hreg := [(0x1C0, 0xC0000001)] },
    0, 1, 0, (5, 3), [0],
    { Launch.absent with hdr := { res := 2, par := 0, roleany := true, vecn := 1, nbn := 0, w := [3], x := [], fscr := 4, split := 1, kstk := 16 }, order := 1 },
    { { Launch.absent with hdr := { res := 2, par := 0, roleany := true, vecn := 1, nbn := 0, w := [3], x := [], fscr := 4, split := 1, kstk := 16 }, order := 1 } with next := 1, chunks := [(0, 1, 1)] },
    by
    and_intros <;> first
      | decide +kernel
      | exact some_is _ (by decide +kernel)
      | rfl
      | (intro x h
         cases h)⟩

theorem witness_WorkIsPlacedAndRetires_3_1 : ∃ (l : Launch) (die : Nat) (u : Nat) (a : Nat) (b : Nat),
    u = l.hdr.unitSize ∧ l.chunk die = (a, b) ∧ l.hdr.ordered = true ∧ l.next < l.hdr.total :=
  ⟨{ Launch.absent with hdr := { hdr with x := [9, 9], ordered := true } }, 0, _, 0, 0, by
    and_intros <;> first
      | decide +kernel
      | exact some_is _ (by decide +kernel)
      | rfl
      | (intro x h
         cases h)⟩

theorem witness_WorkIsPlacedAndRetires_3_2 : ∃ (l : Launch) (die : Nat) (u : Nat) (a : Nat) (b : Nat),
    u = l.hdr.unitSize ∧ l.chunk die = (a, b) ∧ l.hdr.ordered = false ∧ a < b :=
  ⟨{ Launch.absent with hdr := { hdr with x := [9, 9] } , chunks := [(0, 4, 8)] }, 0, _, 4, 8, by
    and_intros <;> first
      | decide +kernel
      | exact some_is _ (by decide +kernel)
      | rfl
      | (intro x h
         cases h)⟩

theorem witness_WorkIsPlacedAndRetires_3_3 : ∃ (l : Launch) (die : Nat) (u : Nat) (a : Nat) (b : Nat) (n : _),
    u = l.hdr.unitSize ∧ l.chunk die = (a, b) ∧ l.hdr.ordered = false ∧ b ≤ a ∧
    n = min (64 / u * u) (l.hdr.total - l.next) ∧ n ≠ 0 :=
  ⟨{ Launch.absent with hdr := { hdr with x := [9, 9] } }, 0, _, 0, 0, _, by
    and_intros <;> first
      | decide +kernel
      | exact some_is _ (by decide +kernel)
      | rfl
      | (intro x h
         cases h)⟩

theorem witness_WorkIsPlacedAndRetires_4_7 : ∃ (h : Header) (j : Nat),
    (h.roleany = false ∧ h.copyn ≤ j ∧ j < h.copyn + h.matn) :=
  ⟨{ hdr with roleany := false }, 0, by
    first
      | decide +kernel
      | exact some_is _ (by decide +kernel)
      | rfl
      | (intro x h
         cases h)⟩

theorem witness_WorkIsPlacedAndRetires_4_8_4 : ∃ (h : Header) (j : Nat),
    ¬(h.roleany = false ∧ h.copyn ≤ j ∧ j < h.copyn + h.matn) ∧ h.lanes ≤ 64 :=
  ⟨hdr, 0, by
    and_intros <;> first
      | decide +kernel
      | exact some_is _ (by decide +kernel)
      | rfl
      | (intro x h
         cases h)⟩

theorem witness_WorkIsPlacedAndRetires_5 : ∃ (s : State) (core : Nat) (n : Nat),
    (s.cores.getD core {}).marked = some n ∧ s.wgsOn core = [] :=
  ⟨{ State.reset with cores := [(0, { marked := some 2 })] }, 0, 2, by
    and_intros <;> first
      | decide +kernel
      | exact some_is _ (by decide +kernel)
      | rfl
      | (intro x h
         cases h)⟩

theorem witness_WorkIsPlacedAndRetires_6 : ∃ (s : State) (part : Nat) (a : Nat) (b : Nat) (m : Nat) (x : _) (y : _),
    part < 4 ∧ s.diesOf part = [a, b] ∧ a ≠ b ∧ s.lost a = false ∧ s.lost b = false ∧ s.saving part = false ∧
    (s.damper part).2 ≠ 0 ∧ ((x = a ∧ y = b ∨ x = b ∧ y = a)) ∧
    (s.dies.getD y {}).part.length + (s.damper part).1 < (s.dies.getD x {}).part.length ∧
    m = min 16 (((s.dies.getD x {}).part.length - (s.dies.getD y {}).part.length) / 2) :=
  ⟨{ State.reset with hreg := [(0x140, 0x50), (0x180, 0x010001)], dies := [(0, { part := List.replicate 20 ([], 0) })] },
    0, 0, 1, _, 0, 1, by
    and_intros <;> first
      | decide +kernel
      | exact some_is _ (by decide +kernel)
      | rfl
      | (intro x h
         cases h)
      | exact Or.inl ⟨rfl, rfl⟩⟩

theorem witness_WorkIsPlacedAndRetires_8 : ∃ (s : State) (wg : Nat) (g : Wg) (l : Launch),
    s.wgs.get? wg = some g ∧ s.launches.get? g.launch = some l ∧ s.mayRetire wg g = true :=
  ⟨{ demo.of { grp with status := .exited } with tlb := [] }, 1, wgp, lau, by
    and_intros <;> first
      | decide +kernel
      | exact some_is _ (by decide +kernel)
      | rfl
      | (intro x h
         cases h)⟩

theorem witness_WorkIsPlacedAndRetires_9_1 : ∃ (sl : RoundSlot),
    sl.bound = false :=
  ⟨{}, by
    first | decide +kernel | rfl⟩

set_option maxRecDepth 20000 in
theorem witness_WorkIsPlacedAndRetires_9_2 : ∃ (s : State) (l : Launch) (sl : RoundSlot) (b : Nat → List Byte),
    sl.bound = true ∧ ((∀ e, e ≤ sl.nexp → s.hearthRead l.part (sl.etab + 64 * e) 64 = .bytes (b e))) :=
  ⟨demo, lau, { bound := true, etab := 0x200800, rowb := 1, nexp := 0, nsrc := 1 }, (fun _ => toBytes 0 64), by
    and_intros <;> first
      | decide +kernel
      | (intro e h
         have h0 : e = 0 := Nat.le_zero.mp h
         subst h0
         decide +kernel)
      | rfl⟩

set_option maxRecDepth 20000 in
theorem witness_WorkIsPlacedAndRetires_10 : ∃ (s : State) (s0 : State) (id : Nat) (code : Nat) (l : Launch) (x :
    Signal),
    s.launches.get? id = some l ∧ l.handedOut = true ∧ ((∀ g ∈ s.wgs, g.2.launch ≠ id)) ∧
    s0 = { s with launches := s.launches.del id } ∧ (code = (if l.nkill ≠ 0 ∨ l.killed then 0x80 else 0)) ∧
    x = { part := l.part, done := l.hdr.done, tag := l.hdr.tag.toNat, host := l.queue.isSome, word := recordWord l s.time.toNat code, nwg := l.nwg, err := code != 0 } :=
  ⟨{ demo with threads := [], wgs := [], launches := [(1, { Launch.absent with hdr := { res := 2, par := 0, roleany := true, vecn := 1, nbn := 0, w := [3], x := [], fscr := 4, split := 1, kstk := 16, done := 0x200600 }, next := 1 })] },
    _, 1, _,
    { Launch.absent with hdr := { res := 2, par := 0, roleany := true, vecn := 1, nbn := 0, w := [3], x := [], fscr := 4, split := 1, kstk := 16, done := 0x200600 }, next := 1 },
    _, by
    and_intros <;> first
      | decide +kernel
      | exact some_is _ (by decide +kernel)
      | rfl
      | (intro x h
         cases h)⟩

set_option maxRecDepth 20000 in
theorem witness_WorkIsPlacedAndRetires_11_1 : ∃ (s : State) (f : State) (x : Signal) (msix : State → State),
    ((∀ t, msix t = if x.host then t.msix 1 else t)) ∧
    f = msix (s.post { code := 0x18, part := x.part, addr := x.done, tag := x.tag }) ∧ x.done = 0 :=
  ⟨demo, _, { part := 0, done := 0x0, tag := 7, host := true, word := 1, nwg := 1, err := false },
    (fun t => t.msix 1), by
    and_intros <;> first
      | decide +kernel
      | exact some_is _ (by decide +kernel)
      | rfl
      | (intro x h
         cases h)
      | (intro t; rfl)
      | exact Or.inl (by decide +kernel)⟩

set_option maxRecDepth 20000 in
theorem witness_WorkIsPlacedAndRetires_11_2 : ∃ (s : State) (f : State) (x : Signal) (msix : State → State),
    ((∀ t, msix t = if x.host then t.msix 1 else t)) ∧
    f = msix (s.post { code := 0x18, part := x.part, addr := x.done, tag := x.tag }) ∧ x.done ≠ 0 ∧ x.done % 64 ≠ 0 :=
  ⟨demo, _, { part := 0, done := 0x200604, tag := 7, host := true, word := 1, nwg := 1, err := false },
    (fun t => t.msix 1), by
    and_intros <;> first
      | decide +kernel
      | exact some_is _ (by decide +kernel)
      | rfl
      | (intro x h
         cases h)
      | (intro t; rfl)
      | exact Or.inl (by decide +kernel)⟩

set_option maxRecDepth 20000 in
theorem witness_WorkIsPlacedAndRetires_11_3_1 : ∃ (s : State) (f : State) (x : Signal) (msix : State → State),
    ((∀ t, msix t = if x.host then t.msix 1 else t)) ∧
    f = msix (s.post { code := 0x18, part := x.part, addr := x.done, tag := x.tag }) ∧ x.done ≠ 0 ∧ x.done % 64 = 0 ∧
    s.hearthDue = [] ∧ s.hearthWaits x.part x.done = false ∧ s.hearthWaits x.part (x.done + 64) = false ∧
    (s.doneAt x.part x.done = .fault ∨ s.doneAt x.part x.done = .ok ∧ s.doneAt x.part (x.done + 64) = .fault) :=
  ⟨demo, _, { part := 0, done := 0x4000000, tag := 7, host := true, word := 1, nwg := 1, err := false },
    (fun t => t.msix 1), by
    and_intros <;> first
      | decide +kernel
      | exact some_is _ (by decide +kernel)
      | rfl
      | (intro x h
         cases h)
      | (intro t; rfl)
      | exact Or.inl (by decide +kernel)⟩

set_option maxRecDepth 20000 in
theorem witness_WorkIsPlacedAndRetires_11_3_2 : ∃ (s : State) (f : State) (x : Signal) (msix : State → State) (a : _)
    (b : _) (s1 : State),
    ((∀ t, msix t = if x.host then t.msix 1 else t)) ∧
    f = msix (s.post { code := 0x18, part := x.part, addr := x.done, tag := x.tag }) ∧ x.done ≠ 0 ∧ x.done % 64 = 0 ∧
    s.hearthDue = [] ∧ s.hearthWaits x.part x.done = false ∧ s.hearthWaits x.part (x.done + 64) = false ∧
    s.doneAt x.part x.done = .ok ∧ s.doneAt x.part (x.done + 64) = .ok ∧
    s.hearthPlace x.part .store (x.done + 64) = some (.phys b) ∧ s1 = s.putPhys b (toBytes x.word 64) ∧
    s1.doneAt x.part x.done = .ok ∧ s1.hearthPlace x.part .store x.done = some (.phys a) :=
  ⟨demo, _, { part := 0, done := 0x200600, tag := 7, host := true, word := 1, nwg := 1, err := false },
    (fun t => t.msix 1), 0x200600, 0x200640, _, by
    and_intros <;> first
      | decide +kernel
      | exact some_is _ (by decide +kernel)
      | rfl
      | (intro x h
         cases h)
      | (intro t; rfl)
      | exact Or.inl (by decide +kernel)⟩

theorem witness_WorkIsPlacedAndRetires_12 : ∃ (part : Nat),
    part < 4 :=
  ⟨3, by
    first | decide +kernel | rfl⟩

/-- A list of which one number gives a value. -/
theorem range_single {α : Type} (f : Nat → Option α) (k : Nat) (x : α) (hk : f k = some x) (n : Nat) (h : k < n)
    (ho : ∀ i, i < n → i ≠ k → f i = none) : (List.range n).filterMap f = [x] := by
  induction n with
  | zero => omega
  | succ n ih =>
    rw [List.range_succ, List.filterMap_append]
    by_cases hn : k = n
    · have : (List.range n).filterMap f = [] := by
        rw [List.filterMap_eq_nil_iff]
        intro i hi
        exact ho i (by simp at hi; omega) (by simp at hi; omega)
      rw [this, List.nil_append, ← hn, List.filterMap_cons, hk, List.filterMap_nil]
    · simp [ih (by omega) fun i hi => ho i (by omega), ho n (by omega) (Ne.symm hn)]

/-- A table with one entry. -/
theorem present_one (s : State) (base n k e : Nat) (hs : s.pkg = 0) (hf : s.fwd = [])
    (hl : ∀ a, s.homeLost a = false) (hw : s.power ≠ .hold) (hx : ∀ a, s.poisoned a = false)
    (hb : base + 8 * n ≤ 0x9000000000) (hk : k < n)
    (ho : ∀ i, i < n → i ≠ k → s.mem.get (base + 8 * i) = 0) (he : s.mem.getNat (base + 8 * k) 8 = e)
    (hp : tb e 0 = true) : s.present base n = [(base + 8 * k, e)] := by
  have hr (i : Nat) (hi : i < n) : s.readPte (base + 8 * i) = .val (s.mem.getNat (base + 8 * i) 8) ∧
      pkgOf (base + 8 * i) = s.pkg := by
    have h1 : pkgOf (base + 8 * i) = 0 := Nat.div_eq_of_lt (by omega)
    have h2 : inPkg (base + 8 * i) = base + 8 * i := Nat.mod_eq_of_lt (by omega)
    have h3 : s.physOk (base + 8 * i) = true := by
      unfold State.physOk
      rw [if_pos (by omega)]
    have h0 : s.forwarded (base + 8 * i) = base + 8 * i := by simp [State.forwarded, State.fwdOf, hf]
    have h4 : s.readPte (base + 8 * i) = .val (s.mem.getNat (base + 8 * i) 8) := by
      have h5 : s.fwdOf (base + 8 * i) = none := by simp [State.fwdOf, hf]
      simp [State.readPte, h0, h1, h2, hs, h3, h5, hl, hw, hx]
    exact ⟨h4, h1.trans hs.symm⟩
  refine range_single _ k _ ?_ n hk fun i hi hik => ?_
  · simp only [(hr k hk).1, he, hp, if_true]
  · have : tb (s.mem.getNat (base + 8 * i) 8) 0 = false := by
      simp only [Store.getNat, Store.bytes, ofBytes, ho i hi hik, tb, beq_eq_false_iff_ne]
      simp
      omega
    simp only [(hr i hi).1, this]
    simp

/-- A machine with one page, which is in HBM, and a running engine with or without a move. -/
def pm (move : Option (Nat × Bool × List (Nat × Bool)) := none) : State := { State.reset with
  lpGib := 1
  mem := [(0x10000, 1), (0x10002, 2), (0x20000, 1), (0x20002, 3), (0x30008, 0x1F), (0x3000A, 0x20)]
  hreg := [(0x1A0, 0x10000), (0x1A8, 0x10000), (0x1B0, 0x10000), (0x1B8, 0x10000), (0x208, 1), (0x200, 0x900000005)]
  demote := [(1, { running := true, move })] }

theorem pm_home (m) (a : Nat) : (pm m).homeLost a = false := by
  unfold State.homeLost
  cases homeDie a <;> rfl

theorem pm_leaves (m) (p : Nat) (hp : p < 4) : (pm m).leaves p = [{ entry := 0x30008, pa := 0x200000, big := true }] := by
  have a0 : (pm m).present 0x10000 512 = [(0x10000, 0x20001)] :=
    present_one (pm m) 0x10000 512 0 0x20001 rfl rfl (pm_home m) (by simp [pm, State.reset]) (fun _ => rfl) (by omega)
      (by omega)
      (fun i _ _ => by
        unfold pm
        simp only [Store.get]
        repeat rw [if_neg (by omega)]
        rfl) (by
          change Store.getNat (pm).mem _ 8 = _
          decide +kernel) (by decide)
  have a1 : (pm m).present 0x20000 8192 = [(0x20000, 0x30001)] :=
    present_one (pm m) 0x20000 8192 0 0x30001 rfl rfl (pm_home m) (by simp [pm, State.reset]) (fun _ => rfl) (by omega)
      (by omega)
      (fun i _ _ => by
        unfold pm
        simp only [Store.get]
        repeat rw [if_neg (by omega)]
        rfl) (by
          change Store.getNat (pm).mem _ 8 = _
          decide +kernel) (by decide)
  have a2 : (pm m).present 0x30000 8192 = [(0x30008, 0x20001F)] :=
    present_one (pm m) 0x30000 8192 1 0x20001F rfl rfl (pm_home m) (by simp [pm, State.reset]) (fun _ => rfl) (by omega)
      (by omega)
      (fun i _ _ => by
        unfold pm
        simp only [Store.get]
        repeat rw [if_neg (by omega)]
        rfl) (by
          change Store.getNat (pm).mem _ 8 = _
          decide +kernel) (by decide)
  have h0 : fld ((pm m).hr (0x1A0 + 8 * p)).toNat 12 48 * 2 ^ 12 = 0x10000 := by
    change fld ((pm).hr _).toNat 12 48 * 2 ^ 12 = 0x10000
    interval_cases p <;> decide +kernel
  have h1 : fld 0x20001 16 44 * 2 ^ 16 = 0x20000 := by decide +kernel
  have h2 : fld 0x30001 16 44 * 2 ^ 16 = 0x30000 := by decide +kernel
  simp only [State.leaves, h0, a0, List.flatMap_cons, List.flatMap_nil, h1, a1, h2, a2, List.append_nil]
  rw [if_pos (by decide +kernel)]
  decide +kernel

theorem pm_all (m) : (pm m).allLeaves = [{ entry := 0x30008, pa := 0x200000, big := true }] := by
  have h : List.range 4 = [0, 1, 2, 3] := rfl
  simp only [State.allLeaves, h, List.flatMap_cons, List.flatMap_nil, pm_leaves m 0 (by omega), pm_leaves m 1 (by omega),
    pm_leaves m 2 (by omega), pm_leaves m 3 (by omega)]
  decide +kernel

theorem pm_victim : (pm).victim 1 = some { entry := 0x30008, pa := 0x200000, big := true } := by
  simp only [State.victim, pm_all]
  decide +kernel

theorem pm_dest : (pm (some (0x200000, true, [(0x30008, true)]))).destOk 1 0x10000000000 true = true := by
  simp only [State.destOk, pm_all]
  decide +kernel

theorem witness_PagingAndPreemption_1_1 : ∃ (part : Nat) (v : W64),
    part < 4 ∧ v.getLsbD 0 = false :=
  ⟨3, 0x200000, by
    and_intros <;> first | decide +kernel | rfl⟩

theorem witness_PagingAndPreemption_2 : ∃ (s : State) (part : Nat) (w : Option Nat) (a : List (Nat × Option Nat)) (b
    : List (Nat × Option Nat)),
    s.tlbi = a ++ (part, w) :: b ∧ ((∀ e ∈ a, e.1 ≠ part)) :=
  ⟨{ demo with tlbi := [(1, none), (0, none)] }, 0, none, [(1, none)], [], by
    and_intros <;> first | decide +kernel | rfl⟩

theorem witness_PagingAndPreemption_3_1 : ∃ (s : State) (tier : Nat) (space : Nat) (d : Demotion),
    1 ≤ tier ∧ tier ≤ 3 ∧ d = s.demote.getD tier {} ∧ d.running = false ∧ s.demoteOn tier = true ∧
    space < s.lowMark tier ∧ s.lowMark tier < s.highMark tier :=
  ⟨{ demo with hreg := [(0x208, 1), (0x200, 0x900000005)] }, 1, 4, {}, by
    and_intros <;> first | decide +kernel | rfl⟩

theorem witness_PagingAndPreemption_3_2 : ∃ (s : State) (tier : Nat) (space : Nat) (d : Demotion),
    1 ≤ tier ∧ tier ≤ 3 ∧ d = s.demote.getD tier {} ∧ d.running = true ∧
    ((s.highMark tier ≤ space ∨ s.highMark tier ≤ s.lowMark tier)) ∧ d.move = none :=
  ⟨{ demo with hreg := [(0x228, 1), (0x220, 0x900000005)], demote := [(3, { running := true })] }, 3, 9,
    { running := true }, by
    and_intros <;> first | decide +kernel | rfl⟩

theorem witness_PagingAndPreemption_4_1_3 : ∃ (s : State) (tier : Nat) (d : Demotion) (v : Leaf) (l : _),
    d = s.demote.getD tier {} ∧ d.move = none ∧ d.running = true ∧ s.demoteOn tier = true ∧
    s.lowMark tier < s.highMark tier ∧ s.victim tier = some v ∧
    ((tier ≠ 3 ∨ s.untouched (inPkg v.pa) (pageSize v.big) = true)) ∧ l ∈ s.allLeaves ∧ pkgOf l.pa = s.pkg ∧
    tierOf (inPkg l.pa) = tier :=
  ⟨(pm), 1, { running := true }, { entry := 0x30008, pa := 0x200000, big := true },
    { entry := 0x30008, pa := 0x200000, big := true }, by
    and_intros <;> first | (rw [pm_all]; exact List.mem_cons_self) | (with_reducible exact pm_victim) | (with_reducible exact Or.inl (by decide)) | decide +kernel | rfl⟩

theorem witness_PagingAndPreemption_5 : ∃ (s : State) (tier : Nat) (dest : Nat) (pa : Nat) (big : Bool) (had : List
    (Nat × Bool)),
    (s.demote.getD tier {}).move = some (pa, big, had) ∧ s.mem.wf = true ∧
    ((tier = 3 ∨ s.destOk tier dest big = true ∧ ∀ e ∈ had, inPkg (s.forwarded e.1) + 8 ≤ inPkg dest ∨ inPkg dest + pageSize big ≤ inPkg (s.forwarded e.1))) :=
  ⟨(pm (some (0x200000, true, [(0x30008, true)]))), 1, 0x10000000000, 0x200000, true, [(0x30008, true)], by
    and_intros <;> first | with_reducible exact Or.inr ⟨pm_dest, fun e he => by simp at he; subst he; decide⟩ | decide +kernel | rfl⟩

theorem witness_PagingAndPreemption_5_tier3 : ∃ (s : State) (tier : Nat) (dest : Nat) (pa : Nat) (big : Bool) (had :
    List (Nat × Bool)),
    (s.demote.getD tier {}).move = some (pa, big, had) ∧ s.mem.wf = true ∧
    ((tier = 3 ∨ s.destOk tier dest big = true ∧ ∀ e ∈ had, inPkg (s.forwarded e.1) + 8 ≤ inPkg dest ∨ inPkg dest + pageSize big ≤ inPkg (s.forwarded e.1))) :=
  ⟨{ demo with demote := [(3, { running := true, move := some (0x200000, true, [(0x30008, true)]) })] }, 3, 0,
    0x200000, true, [(0x30008, true)], by
    and_intros <;> first | decide +kernel | rfl | exact Or.inl (by decide +kernel) | exact Or.inr (by decide +kernel) | exact Or.inr rfl⟩

theorem witness_PagingAndPreemption_6_6 : ∃ (tier : Nat),
    tier = 1 :=
  ⟨1, by
    first | decide +kernel | rfl⟩

set_option maxRecDepth 20000 in
theorem witness_PagingAndPreemption_7_1 : ∃ (s : State) (part : Nat) (i : Nat) (w : Nat) (bs : List Byte) (r :
    PageIn),
    part < 4 ∧ s.pageins.get? part = none ∧ 4 ≤ (s.pageRing part).2 ∧ (s.pageRing part).2 ≤ 12 ∧
    fld (s.hr 0x4E0).toNat 0 12 ≠ 0 ∧ ((fld (s.hr 0x4E8).toNat 0 4 = 9 ∨ fld (s.hr 0x4E8).toNat 0 4 = 12)) ∧
    s.hearthNat part ((s.pageRing part).1 + 8) 8 = some i ∧
    s.hearthRead part ((s.pageRing part).1 + 64 + 64 * (i % 2 ^ (s.pageRing part).2)) 64 = .bytes bs ∧
    w = ofBytes bs ∧ fld w 448 32 = (i + 1) % 2 ^ 32 ∧
    r = { idx := i, block := fld w 0 64, dest := fld w 128 64, bar := fld w 192 64, big := tb w 256 } ∧
    s.pageinOk r = true :=
  ⟨{ demo with hreg := [(0x1A0, 0x10000), (0x480, 0x200004), (0x4E0, 0x1001), (0x4E8, 9)], mem := Store.putNat demoMem 0x200040 64 0x10000000000000000000000000000000000000000000000000000000000000000000000000020000000000000000000000000000000000000 },
    0, 0,
    0x10000000000000000000000000000000000000000000000000000000000000000000000000020000000000000000000000000000000000000,
    (toBytes 0x10000000000000000000000000000000000000000000000000000000000000000000000000020000000000000000000000000000000000000 64),
    _, by
    and_intros <;> first | decide +kernel | rfl⟩

set_option maxRecDepth 20000 in
theorem witness_PagingAndPreemption_7_2 : ∃ (s : State) (part : Nat) (i : Nat) (w : Nat) (bs : List Byte) (r :
    PageIn),
    part < 4 ∧ s.pageins.get? part = none ∧ 4 ≤ (s.pageRing part).2 ∧ (s.pageRing part).2 ≤ 12 ∧
    fld (s.hr 0x4E0).toNat 0 12 ≠ 0 ∧ ((fld (s.hr 0x4E8).toNat 0 4 = 9 ∨ fld (s.hr 0x4E8).toNat 0 4 = 12)) ∧
    s.hearthNat part ((s.pageRing part).1 + 8) 8 = some i ∧
    s.hearthRead part ((s.pageRing part).1 + 64 + 64 * (i % 2 ^ (s.pageRing part).2)) 64 = .bytes bs ∧
    w = ofBytes bs ∧ fld w 448 32 = (i + 1) % 2 ^ 32 ∧
    r = { idx := i, block := fld w 0 64, dest := fld w 128 64, bar := fld w 192 64, big := tb w 256 } ∧
    s.pageinOk r = false :=
  ⟨{ demo with hreg := [(0x1A0, 0x10000), (0x480, 0x200004), (0x4E0, 0x1001), (0x4E8, 9)], mem := Store.putNat demoMem 0x200040 64 0x10000000000000000000000000000000000000000000000000000000000000000000000000020000100000000000000000000000000000000 },
    0, 0,
    0x10000000000000000000000000000000000000000000000000000000000000000000000000020000100000000000000000000000000000000,
    (toBytes 0x10000000000000000000000000000000000000000000000000000000000000000000000000020000100000000000000000000000000000000 64),
    _, by
    and_intros <;> first | decide +kernel | rfl⟩

set_option maxRecDepth 20000 in
theorem witness_PagingAndPreemption_8_1 : ∃ (s : State) (s1 : State) (s2 : State) (s3 : State) (res : PageinRes) (r :
    PageIn) (data : List Byte) (bad : Bool),
    s.pageins.get? res.part = some r ∧
    ((r.cmd.isSome = true ∧ data = res.data ∧ (res.status = 0 ∧ bad = false ∧ data.length = pageSize r.big ∨ res.status ≠ 0 ∧ bad = true ∧ data.length ≤ pageSize r.big) ∨ r.cmd = none ∧ data = [] ∧ bad = true ∧ res.data.length ≤ pageSize r.big)) ∧
    s1 = s.pageWrite r.dest data ∧
    (s2 = (if r.bar % 64 = 0 then (s1.objAdd res.part r.bar { a := 1, b := data.length, e := bad } (2 ^ 70 + res.part)).getD s1 else s1)) ∧
    s3 = (s2.hearthPut res.part ((s.pageRing res.part).1 + 8) (toBytes (r.idx + 1) 8) (2 ^ 70 + res.part)).getD s2 ∧
    bad = false :=
  ⟨{ demo with hreg := [(0x1A0, 0x10000), (0x480, 0x200004)], pageins := [(0, { idx := 0, block := 0, dest := 0x80000000000, bar := 0x200780, big := false, cmd := some { controller := 0, queue := 1, area := 0, nsid := 1, block := 0, blocks := 128, prp := 0x80000000000 } })] },
    _, _, _, { part := 0, status := 0, data := List.replicate 65536 0 },
    { idx := 0, block := 0, dest := 0x80000000000, bar := 0x200780, big := false, cmd := some { controller := 0, queue := 1, area := 0, nsid := 1, block := 0, blocks := 128, prp := 0x80000000000 } },
    (List.replicate 65536 0), false, by
    and_intros <;> first
      | exact Or.inl ⟨rfl, rfl, Or.inl ⟨rfl, rfl, List.length_replicate⟩⟩
      | decide +kernel
      | rfl⟩

set_option maxRecDepth 20000 in
theorem witness_PagingAndPreemption_8_2 : ∃ (s : State) (s1 : State) (s2 : State) (s3 : State) (res : PageinRes) (r :
    PageIn) (data : List Byte) (bad : Bool),
    s.pageins.get? res.part = some r ∧
    ((r.cmd.isSome = true ∧ data = res.data ∧ (res.status = 0 ∧ bad = false ∧ data.length = pageSize r.big ∨ res.status ≠ 0 ∧ bad = true ∧ data.length ≤ pageSize r.big) ∨ r.cmd = none ∧ data = [] ∧ bad = true ∧ res.data.length ≤ pageSize r.big)) ∧
    s1 = s.pageWrite r.dest data ∧
    (s2 = (if r.bar % 64 = 0 then (s1.objAdd res.part r.bar { a := 1, b := data.length, e := bad } (2 ^ 70 + res.part)).getD s1 else s1)) ∧
    s3 = (s2.hearthPut res.part ((s.pageRing res.part).1 + 8) (toBytes (r.idx + 1) 8) (2 ^ 70 + res.part)).getD s2 ∧
    bad = true :=
  ⟨{ demo with hreg := [(0x1A0, 0x10000), (0x480, 0x200004)], pageins := [(0, { idx := 0, block := 0, dest := 0x80000000000, bar := 0x200780, big := false, cmd := some { controller := 0, queue := 1, area := 0, nsid := 1, block := 0, blocks := 128, prp := 0x80000000000 } })] },
    _, _, _, { part := 0, status := 2, data := [1] },
    { idx := 0, block := 0, dest := 0x80000000000, bar := 0x200780, big := false, cmd := some { controller := 0, queue := 1, area := 0, nsid := 1, block := 0, blocks := 128, prp := 0x80000000000 } },
    [1], true, by
    and_intros <;> first
      | exact Or.inl ⟨rfl, rfl, Or.inr ⟨by decide, rfl, by decide⟩⟩
      | decide +kernel
      | rfl⟩

set_option maxRecDepth 20000 in
theorem witness_PagingAndPreemption_8_2_refused : ∃ (s : State) (s1 : State) (s2 : State) (s3 : State) (res :
    PageinRes) (r : PageIn) (data : List Byte) (bad : Bool),
    s.pageins.get? res.part = some r ∧
    ((r.cmd.isSome = true ∧ data = res.data ∧ (res.status = 0 ∧ bad = false ∧ data.length = pageSize r.big ∨ res.status ≠ 0 ∧ bad = true ∧ data.length ≤ pageSize r.big) ∨ r.cmd = none ∧ data = [] ∧ bad = true ∧ res.data.length ≤ pageSize r.big)) ∧
    s1 = s.pageWrite r.dest data ∧
    (s2 = (if r.bar % 64 = 0 then (s1.objAdd res.part r.bar { a := 1, b := data.length, e := bad } (2 ^ 70 + res.part)).getD s1 else s1)) ∧
    s3 = (s2.hearthPut res.part ((s.pageRing res.part).1 + 8) (toBytes (r.idx + 1) 8) (2 ^ 70 + res.part)).getD s2 ∧
    bad = true :=
  ⟨{ demo with hreg := [(0x1A0, 0x10000), (0x480, 0x200004)], pageins := [(0, { idx := 0, block := 0, dest := 0x80000000000, bar := 0x200780, big := false, cmd := none })] },
    _, _, _, { part := 0, status := 0, data := [] },
    { idx := 0, block := 0, dest := 0x80000000000, bar := 0x200780, big := false, cmd := none }, [], true, by
    and_intros <;> first
      | exact Or.inr ⟨rfl, rfl, rfl, by decide⟩
      | decide +kernel
      | rfl⟩

theorem witness_PagingAndPreemption_9_2 : ∃ (s : State) (dest : Nat) (data : List Byte) (id : _) (l : _),
    s.fwd = [] ∧ pkgOf dest = s.pkg ∧ dest % 65536 = 0 ∧ inPkg dest + data.length ≤ 2 ^ 43 ∧
    ((∀ k, 65536 * k < data.length → s.physOk (inPkg dest + 65536 * k) = true ∧ s.homeLost (inPkg dest + 65536 * k) = false)) ∧
    s.power ≠ .hold ∧ s.launches.get? id = some l ∧ l.code.wf = true :=
  ⟨demo, 0x200000, [1, 2], 1, lau, by
    and_intros <;> first
      | decide +kernel
      | rfl
      | (intro k hk
         have hk' : 65536 * k < 2 := hk
         have h0 : k = 0 := by omega
         subst h0
         decide +kernel)⟩

theorem witness_PagingAndPreemption_10_1 : ∃ (s : State) (part : Nat) (slot : Nat),
    part < 4 ∧ slot < 256 ∧ s.ctxs.get? slot = none ∧ s.ctxRoom part = true ∧
    ((∀ d ∈ s.diesOf part, s.lost d = false)) ∧ s.preempt = none :=
  ⟨{ State.reset with hreg := [(0x4A8, 1)] }, 0, 255, by
    and_intros <;> first | decide +kernel | rfl⟩

theorem witness_PagingAndPreemption_10_2 : ∃ (s : State) (part : Nat) (slot : Nat),
    part < 4 ∧ slot < 256 ∧
    ((s.ctxs.get? slot ≠ none ∨ s.ctxRoom part = false ∨ (∃ d ∈ s.diesOf part, s.lost d = true) ∨ s.preempt ≠ none)) :=
  ⟨demo, 0, 3, by
    and_intros <;> first | decide +kernel | exact Or.inr (Or.inl (by decide +kernel))⟩

theorem witness_PagingAndPreemption_11 : ∃ (s : State) (part : Nat) (slot : Nat),
    s.preempt = some (part, slot) ∧ s.maySave part = true ∧ ((∀ d ∈ s.diesOf part, s.lost d = false)) :=
  ⟨{ demo with preempt := some (0, 3), launches := [(1, { lau with hdr := { hdr with preempt := true } })] }, 0, 3,
    by
    and_intros <;> first | decide +kernel | rfl⟩

theorem witness_PagingAndPreemption_12_1 : ∃ (s : State) (slot : Nat) (part : Nat) (c : Ctx),
    part < 4 ∧ slot < 256 ∧ s.ctxs.get? slot = some c ∧ s.preempt = none ∧ s.partWgs part = [] ∧
    c.dies.length = (s.diesOf part).length :=
  ⟨{ State.reset with ctxs := [(3, { dies := [0, 1, 2, 3], launches := [(1, lau)], wgs := [(1, wgp)], units := [], threads := [(0, grp)], ops := [], rounds := [], dieData := [] })] },
    3, 0,
    { dies := [0, 1, 2, 3], launches := [(1, lau)], wgs := [(1, wgp)], units := [], threads := [(0, grp)], ops := [], rounds := [], dieData := [] },
    by
    and_intros <;> first | decide +kernel | rfl⟩

theorem witness_PagingAndPreemption_12_2 : ∃ (s : State) (slot : Nat) (part : Nat) (c : Ctx),
    part < 4 ∧ slot < 256 ∧ s.ctxs.get? slot = some c ∧ s.preempt = none ∧ s.partWgs part = [] ∧
    c.dies.length ≠ (s.diesOf part).length :=
  ⟨{ State.reset with ctxs := [(3, { dies := [0], launches := [(1, lau)], wgs := [(1, wgp)], units := [], threads := [(0, grp)], ops := [], rounds := [], dieData := [] })] },
    3, 0,
    { dies := [0], launches := [(1, lau)], wgs := [(1, wgp)], units := [], threads := [(0, grp)], ops := [], rounds := [], dieData := [] },
    by
    and_intros <;> first | decide +kernel | rfl⟩

theorem witness_PowerAndSecurity_1_2 : ∃ (s : State),
    s.power ≠ .off ∧ s.debugEntry = none ∧ s.power ≠ .hold :=
  ⟨demo, by
    and_intros <;> first | decide +kernel | rfl⟩

theorem witness_PowerAndSecurity_1_3 : ∃ (s : State),
    s.power ≠ .off ∧ s.debugEntry = none ∧ s.power = .hold :=
  ⟨{ demo with power := .hold }, by
    and_intros <;> first | decide +kernel | rfl⟩

theorem witness_PowerAndSecurity_1_4 : ∃ (s : State),
    s.power ≠ .off ∧ s.debugEntry = none ∧ s.power ≠ .hold ∧ s.mayHold = true :=
  ⟨State.reset, by
    and_intros <;> first | decide +kernel | rfl⟩

theorem witness_PowerAndSecurity_1_5 : ∃ (s : State),
    s.power ≠ .off ∧ s.debugEntry = none ∧ s.power ≠ .hold ∧ s.mayHold = false :=
  ⟨demo, by
    and_intros <;> first | decide +kernel | rfl⟩

theorem witness_PowerAndSecurity_3 : ∃ (s : State),
    s.power ≠ .off ∧ s.debugEntry ≠ none :=
  ⟨{ demo with debugEntry := some 0 }, by
    and_intros <;> first | decide +kernel | rfl⟩

theorem witness_PowerAndSecurity_4 : ∃ (s : State),
    s.power ≠ .off :=
  ⟨demo, by
    first | decide +kernel | rfl⟩

theorem witness_PowerAndSecurity_6 : ∃ (s : State) (x : BootIn) (m : Mram),
    x.lpGib ≤ 1024 ∧ ((x.trim.readable = true → x.trim.bytes = s.flash.trim)) ∧
    ((x.image.readable = true → x.image.bytes = s.flash.image)) ∧ m = s.mram.atReset :=
  ⟨{ demo with flash := { trim := [1], image := [2], cert := [] }, power := .off },
    { trim := { readable := true, ecdsa := true, lms := true, ownerEcdsa := false, ownerLms := false, ownerBound := false, rollIndex := 0, rollValue := 0, version := 1, bytes := [1] }, image := { readable := true, ecdsa := true, lms := true, ownerEcdsa := false, ownerLms := false, ownerBound := false, rollIndex := 0, rollValue := 0, version := 1, bytes := [2] }, lpGib := 1024, pool := false, hostA := true, hostB := false },
    _, by
    and_intros <;> first | decide +kernel | rfl⟩

theorem witness_PowerAndSecurity_6_unreadable : ∃ (s : State) (x : BootIn) (m : Mram),
    x.lpGib ≤ 1024 ∧ ((x.trim.readable = true → x.trim.bytes = s.flash.trim)) ∧
    ((x.image.readable = true → x.image.bytes = s.flash.image)) ∧ m = s.mram.atReset :=
  ⟨{ demo with flash := { trim := [1], image := [2], cert := [] }, power := .off },
    { trim := { readable := false, ecdsa := true, lms := true, ownerEcdsa := false, ownerLms := false, ownerBound := false, rollIndex := 0, rollValue := 0, version := 1, bytes := [1] }, image := { readable := false, ecdsa := true, lms := true, ownerEcdsa := false, ownerLms := false, ownerBound := false, rollIndex := 0, rollValue := 0, version := 1, bytes := [1] }, lpGib := 1024, pool := false, hostA := true, hostB := false },
    _, by
    and_intros <;> first | decide +kernel | rfl⟩

theorem witness_PowerAndSecurity_7_1 : ∃ (s : State) (x : BootIn),
    s.booting = some x ∧ s.stage = 0 :=
  ⟨{ demo with booting := some { trim := { readable := true, ecdsa := true, lms := true, ownerEcdsa := false, ownerLms := false, ownerBound := false, rollIndex := 0, rollValue := 0, version := 1, bytes := [1] }, image := { readable := true, ecdsa := true, lms := true, ownerEcdsa := false, ownerLms := false, ownerBound := false, rollIndex := 0, rollValue := 0, version := 1, bytes := [1] }, lpGib := 1024, pool := false, hostA := true, hostB := false }, hreg := [(0x508, 0x0)] },
    { trim := { readable := true, ecdsa := true, lms := true, ownerEcdsa := false, ownerLms := false, ownerBound := false, rollIndex := 0, rollValue := 0, version := 1, bytes := [1] }, image := { readable := true, ecdsa := true, lms := true, ownerEcdsa := false, ownerLms := false, ownerBound := false, rollIndex := 0, rollValue := 0, version := 1, bytes := [1] }, lpGib := 1024, pool := false, hostA := true, hostB := false },
    by
    and_intros <;> first | decide +kernel | rfl⟩

theorem witness_PowerAndSecurity_7_2 : ∃ (s : State) (x : BootIn),
    s.booting = some x ∧ s.stage = 1 ∧ x.trim.readable = true :=
  ⟨{ demo with booting := some { trim := { readable := true, ecdsa := true, lms := true, ownerEcdsa := false, ownerLms := false, ownerBound := false, rollIndex := 0, rollValue := 0, version := 1, bytes := [1] }, image := { readable := true, ecdsa := true, lms := true, ownerEcdsa := false, ownerLms := false, ownerBound := false, rollIndex := 0, rollValue := 0, version := 1, bytes := [1] }, lpGib := 1024, pool := false, hostA := true, hostB := false }, hreg := [(0x508, 0x10)] },
    { trim := { readable := true, ecdsa := true, lms := true, ownerEcdsa := false, ownerLms := false, ownerBound := false, rollIndex := 0, rollValue := 0, version := 1, bytes := [1] }, image := { readable := true, ecdsa := true, lms := true, ownerEcdsa := false, ownerLms := false, ownerBound := false, rollIndex := 0, rollValue := 0, version := 1, bytes := [1] }, lpGib := 1024, pool := false, hostA := true, hostB := false },
    by
    and_intros <;> first | decide +kernel | rfl⟩

theorem witness_PowerAndSecurity_7_3 : ∃ (s : State) (x : BootIn),
    s.booting = some x ∧ s.stage = 1 ∧ x.trim.readable = false :=
  ⟨{ demo with booting := some { trim := { readable := false, ecdsa := true, lms := true, ownerEcdsa := false, ownerLms := false, ownerBound := false, rollIndex := 0, rollValue := 0, version := 1, bytes := [1] }, image := { readable := true, ecdsa := true, lms := true, ownerEcdsa := false, ownerLms := false, ownerBound := false, rollIndex := 0, rollValue := 0, version := 1, bytes := [1] }, lpGib := 1024, pool := false, hostA := true, hostB := false }, hreg := [(0x508, 0x10)] },
    { trim := { readable := false, ecdsa := true, lms := true, ownerEcdsa := false, ownerLms := false, ownerBound := false, rollIndex := 0, rollValue := 0, version := 1, bytes := [1] }, image := { readable := true, ecdsa := true, lms := true, ownerEcdsa := false, ownerLms := false, ownerBound := false, rollIndex := 0, rollValue := 0, version := 1, bytes := [1] }, lpGib := 1024, pool := false, hostA := true, hostB := false },
    by
    and_intros <;> first | decide +kernel | rfl⟩

theorem witness_PowerAndSecurity_7_4 : ∃ (s : State) (x : BootIn),
    s.booting = some x ∧ s.stage = 2 :=
  ⟨{ demo with booting := some { trim := { readable := true, ecdsa := true, lms := true, ownerEcdsa := false, ownerLms := false, ownerBound := false, rollIndex := 0, rollValue := 0, version := 1, bytes := [1] }, image := { readable := true, ecdsa := true, lms := true, ownerEcdsa := false, ownerLms := false, ownerBound := false, rollIndex := 0, rollValue := 0, version := 1, bytes := [1] }, lpGib := 1024, pool := false, hostA := true, hostB := false }, hreg := [(0x508, 0x20)] },
    { trim := { readable := true, ecdsa := true, lms := true, ownerEcdsa := false, ownerLms := false, ownerBound := false, rollIndex := 0, rollValue := 0, version := 1, bytes := [1] }, image := { readable := true, ecdsa := true, lms := true, ownerEcdsa := false, ownerLms := false, ownerBound := false, rollIndex := 0, rollValue := 0, version := 1, bytes := [1] }, lpGib := 1024, pool := false, hostA := true, hostB := false },
    by
    and_intros <;> first | decide +kernel | rfl⟩

theorem witness_PowerAndSecurity_8 : ∃ (c : BootCheck),
    c.readable = true :=
  ⟨{ readable := true, ecdsa := true, lms := true, ownerEcdsa := false, ownerLms := false, ownerBound := false, rollIndex := 0, rollValue := 0, version := 1, bytes := [1] },
    by
    first | decide +kernel | rfl⟩

theorem witness_PowerAndSecurity_9_1 : ∃ (m : Mram),
    m.next = none :=
  ⟨{}, by
    first | decide +kernel | rfl⟩

theorem witness_PowerAndSecurity_9_2_3 : ∃ (m : Mram) (to_ : _) (os : _),
    m.next = some (to_, os) ∧ to_ = 3 :=
  ⟨{ next := some (3, []) }, 3, [], by
    and_intros <;> first | decide +kernel | rfl⟩

theorem witness_PowerAndSecurity_9_2_4 : ∃ (m : Mram) (to_ : _) (os : _),
    m.next = some (to_, os) ∧ to_ ≠ 3 :=
  ⟨{ next := some (1, []) }, 1, [], by
    and_intros <;> first | decide +kernel | rfl⟩

theorem witness_PowerAndSecurity_10_1 : ∃ (s : State) (v : W64),
    (s.stage ≠ 4 ∨ s.rcvBusy = true ∨ fld v.toNat 0 29 = 0 ∨ 2 ^ 28 < fld v.toNat 0 29) :=
  ⟨{ demo with hreg := [(0x508, 0x40)] }, 0, by
    first | decide +kernel | exact Or.inr (Or.inr (Or.inl (by decide +kernel)))⟩

theorem witness_PowerAndSecurity_10_1_long : ∃ (s : State) (v : W64),
    (s.stage ≠ 4 ∨ s.rcvBusy = true ∨ fld v.toNat 0 29 = 0 ∨ 2 ^ 28 < fld v.toNat 0 29) :=
  ⟨{ demo with hreg := [(0x508, 0x40)] }, 0x10000001, by
    first | decide +kernel | exact Or.inr (Or.inr (Or.inr (by decide +kernel)))⟩

theorem witness_PowerAndSecurity_10_2 : ∃ (s : State) (v : W64),
    s.stage = 4 ∧ s.rcvBusy = false ∧ fld v.toNat 0 29 ≠ 0 ∧ fld v.toNat 0 29 ≤ 2 ^ 28 :=
  ⟨{ demo with hreg := [(0x508, 0x40)] }, 0x10000000, by
    and_intros <;> first | decide +kernel | rfl⟩

theorem witness_PowerAndSecurity_11 : ∃ (s : State) (x : BootCheck),
    s.rcvBusy = true ∧ x.readable = true ∧
    x.bytes = s.pushed (fld (s.hr 0x508).toNat 8 2) (fld (s.hr 0x510).toNat 0 29) :=
  ⟨{ demo with hreg := [(0x508, 0x240), (0x510, 0x2000000000000001)], windows := ([], [(0, 1)]) },
    { readable := true, ecdsa := true, lms := true, ownerEcdsa := false, ownerLms := false, ownerBound := false, rollIndex := 0, rollValue := 0, version := 1, bytes := [1] },
    by
    and_intros <;> first | decide +kernel | rfl⟩

theorem witness_PowerAndSecurity_12_1 : ∃ (s : State) (r : LifeReq) (sig : Prop),
    s.power ≠ .off ∧ s.debugEntry = none ∧
    ((sig ↔ r.ecdsa = true ∧ r.lms = true ∧ (s.mram.lifecycle = 0 ∨ r.key ∈ s.mram.owners))) ∧
    s.mram.lifecycle < r.goal ∧ r.goal ≤ 3 ∧ ((sig ∨ s.mram.lifecycle = 0 ∧ r.goal = 3)) ∧
    ((r.goal = 1 → r.owners ≠ [])) ∧ s.mram.owners.length + r.owners.length ≤ 4 :=
  ⟨demo, { goal := 1, owners := [5, 6, 7, 8], ecdsa := true, lms := true },
    (LifeReq.ecdsa { goal := 1, owners := [5, 6, 7, 8], ecdsa := true, lms := true } = true ∧ LifeReq.lms { goal := 1, owners := [5, 6, 7, 8], ecdsa := true, lms := true } = true ∧ (demo.mram.lifecycle = 0 ∨ LifeReq.key { goal := 1, owners := [5, 6, 7, 8], ecdsa := true, lms := true } ∈ demo.mram.owners)),
    by
    and_intros <;> first | decide +kernel | exact Iff.rfl | exact Or.inl (by decide +kernel) | exact Or.inr (by decide +kernel) | exact Or.inr (Or.inr (Or.inr (Or.inr (by decide +kernel)))) | rfl⟩

theorem witness_PowerAndSecurity_12_1_spent : ∃ (s : State) (r : LifeReq) (sig : Prop),
    s.power ≠ .off ∧ s.debugEntry = none ∧
    ((sig ↔ r.ecdsa = true ∧ r.lms = true ∧ (s.mram.lifecycle = 0 ∨ r.key ∈ s.mram.owners))) ∧
    s.mram.lifecycle < r.goal ∧ r.goal ≤ 3 ∧ ((sig ∨ s.mram.lifecycle = 0 ∧ r.goal = 3)) ∧
    ((r.goal = 1 → r.owners ≠ [])) ∧ s.mram.owners.length + r.owners.length ≤ 4 :=
  ⟨demo, { goal := 3, owners := [], ecdsa := false, lms := true },
    (LifeReq.ecdsa { goal := 3, owners := [], ecdsa := false, lms := true } = true ∧ LifeReq.lms { goal := 3, owners := [], ecdsa := false, lms := true } = true ∧ (demo.mram.lifecycle = 0 ∨ LifeReq.key { goal := 3, owners := [], ecdsa := false, lms := true } ∈ demo.mram.owners)),
    by
    and_intros <;> first | decide +kernel | exact Iff.rfl | exact Or.inl (by decide +kernel) | exact Or.inr (by decide +kernel) | exact Or.inr (Or.inr (Or.inr (Or.inr (by decide +kernel)))) | rfl⟩

theorem witness_PowerAndSecurity_12_2 : ∃ (s : State) (r : LifeReq) (sig : Prop),
    s.power ≠ .off ∧ s.debugEntry = none ∧
    ((sig ↔ r.ecdsa = true ∧ r.lms = true ∧ (s.mram.lifecycle = 0 ∨ r.key ∈ s.mram.owners))) ∧
    (r.goal ≤ s.mram.lifecycle ∨ 3 < r.goal ∨ ¬sig ∧ ¬(s.mram.lifecycle = 0 ∧ r.goal = 3) ∨ (r.goal = 1 ∧ r.owners = []) ∨ 4 < s.mram.owners.length + r.owners.length) :=
  ⟨demo, { goal := 0, owners := [], ecdsa := true, lms := true },
    (LifeReq.ecdsa { goal := 0, owners := [], ecdsa := true, lms := true } = true ∧ LifeReq.lms { goal := 0, owners := [], ecdsa := true, lms := true } = true ∧ (demo.mram.lifecycle = 0 ∨ LifeReq.key { goal := 0, owners := [], ecdsa := true, lms := true } ∈ demo.mram.owners)),
    by
    and_intros <;> first | decide +kernel | exact Iff.rfl | exact Or.inl (by decide +kernel) | exact Or.inr (by decide +kernel) | exact Or.inr (Or.inr (Or.inr (Or.inr (by decide +kernel)))) | rfl⟩

theorem witness_PowerAndSecurity_12_2_owners : ∃ (s : State) (r : LifeReq) (sig : Prop),
    s.power ≠ .off ∧ s.debugEntry = none ∧
    ((sig ↔ r.ecdsa = true ∧ r.lms = true ∧ (s.mram.lifecycle = 0 ∨ r.key ∈ s.mram.owners))) ∧
    (r.goal ≤ s.mram.lifecycle ∨ 3 < r.goal ∨ ¬sig ∧ ¬(s.mram.lifecycle = 0 ∧ r.goal = 3) ∨ (r.goal = 1 ∧ r.owners = []) ∨ 4 < s.mram.owners.length + r.owners.length) :=
  ⟨demo, { goal := 1, owners := [5, 6, 7, 8, 9], ecdsa := true, lms := true },
    (LifeReq.ecdsa { goal := 1, owners := [5, 6, 7, 8, 9], ecdsa := true, lms := true } = true ∧ LifeReq.lms { goal := 1, owners := [5, 6, 7, 8, 9], ecdsa := true, lms := true } = true ∧ (demo.mram.lifecycle = 0 ∨ LifeReq.key { goal := 1, owners := [5, 6, 7, 8, 9], ecdsa := true, lms := true } ∈ demo.mram.owners)),
    by
    and_intros <;> first | decide +kernel | exact Iff.rfl | exact Or.inl (by decide +kernel) | exact Or.inr (by decide +kernel) | exact Or.inr (Or.inr (Or.inr (Or.inr (by decide +kernel)))) | rfl⟩

theorem witness_PowerAndSecurity_14_1 : ∃ (s : State) (r : DebugReq) (d : BitVec 384),
    s.power ≠ .off ∧ s.debugEntry = none ∧ ((∀ k, r.token = some k → d = k.digest)) ∧ ((r.token = none → d = 0)) ∧
    s.debugAllowed r = false :=
  ⟨demo, { level := 0, token := none }, 0, by
    and_intros <;> first | decide +kernel | (intro k h; cases h; done) | (intro k h; cases h; rfl) | (intro h; cases h; done) | (intro _; rfl) | rfl⟩

theorem witness_PowerAndSecurity_14_2 : ∃ (s : State) (r : DebugReq) (d : BitVec 384),
    s.power ≠ .off ∧ s.debugEntry = none ∧ ((∀ k, r.token = some k → d = k.digest)) ∧ ((r.token = none → d = 0)) ∧
    s.debugAllowed r = true ∧ ¬(s.mram.lifecycle = 2 ∧ r.level = 2) :=
  ⟨demo, { level := 2, token := none }, 0, by
    and_intros <;> first | decide +kernel | (intro k h; cases h; done) | (intro k h; cases h; rfl) | (intro h; cases h; done) | (intro _; rfl) | rfl⟩

theorem witness_PowerAndSecurity_14_3 : ∃ (s : State) (r : DebugReq) (d : BitVec 384),
    s.power ≠ .off ∧ s.debugEntry = none ∧ ((∀ k, r.token = some k → d = k.digest)) ∧ ((r.token = none → d = 0)) ∧
    s.debugAllowed r = true ∧ s.mram.lifecycle = 2 ∧ r.level = 2 :=
  ⟨{ demo with mram := { lifecycle := 2, owners := [5] }, identity := some { p384 := 1, lmsSeed := 2 }, nonces := [6] },
    { level := 2, token := (some { identity := Config.identityDigest 1, level := 2, nonce := 6, lifecycle := 2, digest := 9, key := 5, ecdsa := true, lms := true }) },
    9, by
    and_intros <;> first | decide +kernel | (intro k h; cases h; done) | (intro k h; cases h; rfl) | (intro h; cases h; done) | (intro _; rfl) | rfl | (simp [State.debugAllowed, State.tokenOk, State.ownerHeld, demo]; done)⟩

theorem witness_PowerAndSecurity_15_1 : ∃ (s : State) (d : BitVec 384),
    s.debugEntry = some d ∧ ((∀ l ∈ s.lanes, l.2.state ≠ 1 ∧ l.2.state ≠ 2)) ∧ s.debugZeroised = false :=
  ⟨{ demo with debugEntry := some 0, debugLanes := [0], lanes := [(0, { state := 0, peer := 1 })] }, 0, by
    and_intros <;> first | decide +kernel | (intro e h; cases h; done) | rfl⟩

theorem witness_PowerAndSecurity_15_2_1 : ∃ (s : State) (d : BitVec 384),
    s.debugEntry = some d ∧ ((∀ l ∈ s.lanes, l.2.state ≠ 1 ∧ l.2.state ≠ 2)) ∧ s.debugZeroised = true ∧
    ((∀ k ∈ s.links, k.2.exchange = false)) ∧ s.secQueue = [] :=
  ⟨{ demo with debugEntry := some 0, debugZeroised := true, links := [(1, {})] }, 0, by
    and_intros <;> first | decide +kernel | (intro e h; cases h; done) | rfl⟩

theorem witness_PowerAndSecurity_15_2_2 : ∃ (s : State) (d : BitVec 384),
    s.debugEntry = some d ∧ ((∀ l ∈ s.lanes, l.2.state ≠ 1 ∧ l.2.state ≠ 2)) ∧ s.debugZeroised = true ∧
    ((∀ k ∈ s.links, k.2.exchange = false)) ∧ s.secQueue = [.hold] ∧ s.power ≠ .hold ∧ s.mayHold = true :=
  ⟨{ demo with debugEntry := some 0, debugZeroised := true, links := [(1, {})], wgs := [], threads := [], secQueue := [.hold] },
    0, by
    and_intros <;> first | decide +kernel | (intro e h; cases h; done) | rfl⟩

theorem witness_PowerAndSecurity_16_1 : ∃ (s : State) (tid : Nat) (t : Thread),
    s.threads.get? tid = some t ∧ s.debug ≠ 0 ∧ t.status = .halted :=
  ⟨{ demo.of { grp with status := .halted } with debug := 1 }, 0, { grp with status := .halted }, by
    and_intros <;> first | decide +kernel | rfl⟩

theorem witness_PowerAndSecurity_16_2 : ∃ (s : State) (tid : Nat) (t : Thread),
    s.threads.get? tid = some t ∧ s.debug = 2 :=
  ⟨{ demo.of grp with debug := 2 }, 0, grp, by
    and_intros <;> first | decide +kernel | rfl⟩

theorem witness_PowerAndSecurity_16_3 : ∃ (s : State) (tid : Nat) (t : Thread),
    s.threads.get? tid = some t ∧ s.debug = 2 ∧ t.status = .halted :=
  ⟨{ demo.of { grp with status := .halted } with debug := 2 }, 0, { grp with status := .halted }, by
    and_intros <;> first | decide +kernel | rfl⟩

theorem witness_PowerAndSecurity_17 : ∃ (s : State),
    s.power ≠ .off ∧ s.debug ≠ 0 ∧ s.debugEntry = none :=
  ⟨{ demo with debug := 1 }, by
    and_intros <;> first | decide +kernel | rfl⟩

theorem witness_PowerAndSecurity_18_1 : ∃ (s : State),
    s.power ≠ .off ∧ s.debugEntry = none ∧ s.identity = none :=
  ⟨{ demo with identity := none }, by
    and_intros <;> first | decide +kernel | rfl⟩

theorem witness_PowerAndSecurity_18_2 : ∃ (s : State),
    s.power ≠ .off ∧ s.debugEntry = none ∧ s.identity ≠ none :=
  ⟨{ demo with identity := some ⟨1, 2⟩ }, by
    and_intros <;> first | decide +kernel | rfl⟩

theorem witness_PowerAndSecurity_19_1 : ∃ (s : State) (e : Bool) (l : Bool),
    s.power ≠ .off ∧ s.debugEntry = none ∧ (¬(e = true ∧ l = true) ∨ s.stage = 4) :=
  ⟨{ demo with hreg := [(0x508, 0x40)] }, true, true, by
    and_intros <;> first | decide +kernel | rfl | exact Or.inl (by decide +kernel) | exact Or.inr (by decide +kernel) | exact Or.inr rfl⟩

theorem witness_PowerAndSecurity_19_1_unsigned : ∃ (s : State) (e : Bool) (l : Bool),
    s.power ≠ .off ∧ s.debugEntry = none ∧ (¬(e = true ∧ l = true) ∨ s.stage = 4) :=
  ⟨demo, true, false, by
    and_intros <;> first | decide +kernel | rfl | exact Or.inl (by decide +kernel) | exact Or.inr (by decide +kernel) | exact Or.inr rfl⟩

theorem witness_PowerAndSecurity_19_2 : ∃ (s : State),
    s.power ≠ .off ∧ s.debugEntry = none ∧ s.stage ≠ 4 :=
  ⟨demo, by
    and_intros <;> first | decide +kernel | rfl⟩

theorem witness_PowerAndSecurity_20 : ∃ (s : State) (x : SoftErr),
    s.errOk x.at_ = true :=
  ⟨demo, { at_ := .mem 0 0x200600, corrected := false }, by
    first | decide +kernel | rfl⟩

theorem witness_PowerAndSecurity_21 : ∃ (s : State) (die : Nat),
    die < 4 ∧ s.lost die = false :=
  ⟨demo, 3, by
    and_intros <;> first | decide +kernel | rfl⟩

theorem witness_ResetValues_2 : ∃ (p : _),
    p < 4 :=
  ⟨3, by
    first | decide +kernel | rfl⟩

theorem witness_ResetValues_5 : ∃ (n : _),
    n < 32 :=
  ⟨31, by
    first | decide +kernel | rfl⟩

/-- The state that an instruction answers with. -/
def nextOr (x : Host.Outcome State Fault Refusal) : State :=
  match x with
  | .next y => y
  | _ => demo

theorem next_is (x : Host.Outcome State Fault Refusal) (h : (match x with | .next _ => true | _ => false) = true) :
    x = .next (nextOr x) := by
  cases x <;> simp_all [nextOr]

theorem witness_RegisterInstructionsChangeNothingElse : ∃ (s : State) (s' : State) (f : Std) (i : Instr) (n : Nat)
    (cc : Bool) (fp : Bool),
     (((n = regsOf (tyBits f.xty f.ty) ∧ cc = f.xt.getLsbD 0 ∧ fp = false ∧ i ∈ [Instr.iadd f, .isub f, .imul f, .imulh f,
        .iadds f, .imin f, .imax f, .idiv f, .irem f, .and f, .or f, .xor f, .andn f, .shl f, .shr f, .sar f, .rot f,
        .iabs f, .ineg f, .popc f, .clz f, .brev f, .imad f, .bfx f, .bfi f]) ∨
      (n = regsOf (2 * tyBits f.xty f.ty) ∧ cc = f.xt.getLsbD 0 ∧ fp = false ∧ i = .imadw f) ∨
      (n = regsOf (tyBits f.xty f.ty) ∧ cc = false ∧ fp = false ∧ i ∈ [Instr.sel f, .mov f]) ∨
      (n = 1 ∧ cc = false ∧ fp = true ∧ i ∈ [Instr.fadd f, .fsub f, .fmul f, .ffma f, .ffms f, .fmin f, .fmax f, .fminm f,
        .fmaxm f, .fdiv f, .fsqrt f, .frcp f, .frsq f, .fexp2 f, .flog2 f, .frnd f, .fclass f, .fgetx f, .fscale f,
        .fsgn f, .hadd2 f, .hmul2 f, .hmin2 f, .hmax2 f, .hfma2 f, .fdp2 f, .fdp4 f, .cvt f, .cvtt f, .cvtf f, .pack f,
        .unpack f, .bfpk f, .mxpk f, .bfun f, .mxun f]) ∨
      (n = regsOf (tyBits f.xty f.ty) ∧ cc = false ∧ fp = true ∧ i = .cvti f))) ∧
    exec i s = .next s' :=
  ⟨demo, _, std, (.iadd std), 1, false, false, by
    and_intros <;> first
      | exact next_is _ (by decide +kernel)
      | exact Or.inl ⟨rfl, rfl, rfl, List.mem_cons_self⟩
      | exact Or.inr (Or.inr (Or.inr (Or.inl ⟨rfl, rfl, rfl, List.mem_cons_self⟩)))
      | decide +kernel
      | rfl⟩

theorem witness_RegisterInstructionsChangeNothingElse_float : ∃ (s : State) (s' : State) (f : Std) (i : Instr) (n :
    Nat) (cc : Bool) (fp : Bool),
     (((n = regsOf (tyBits f.xty f.ty) ∧ cc = f.xt.getLsbD 0 ∧ fp = false ∧ i ∈ [Instr.iadd f, .isub f, .imul f, .imulh f,
        .iadds f, .imin f, .imax f, .idiv f, .irem f, .and f, .or f, .xor f, .andn f, .shl f, .shr f, .sar f, .rot f,
        .iabs f, .ineg f, .popc f, .clz f, .brev f, .imad f, .bfx f, .bfi f]) ∨
      (n = regsOf (2 * tyBits f.xty f.ty) ∧ cc = f.xt.getLsbD 0 ∧ fp = false ∧ i = .imadw f) ∨
      (n = regsOf (tyBits f.xty f.ty) ∧ cc = false ∧ fp = false ∧ i ∈ [Instr.sel f, .mov f]) ∨
      (n = 1 ∧ cc = false ∧ fp = true ∧ i ∈ [Instr.fadd f, .fsub f, .fmul f, .ffma f, .ffms f, .fmin f, .fmax f, .fminm f,
        .fmaxm f, .fdiv f, .fsqrt f, .frcp f, .frsq f, .fexp2 f, .flog2 f, .frnd f, .fclass f, .fgetx f, .fscale f,
        .fsgn f, .hadd2 f, .hmul2 f, .hmin2 f, .hmax2 f, .hfma2 f, .fdp2 f, .fdp4 f, .cvt f, .cvtt f, .cvtf f, .pack f,
        .unpack f, .bfpk f, .mxpk f, .bfun f, .mxun f]) ∨
      (n = regsOf (tyBits f.xty f.ty) ∧ cc = false ∧ fp = true ∧ i = .cvti f))) ∧
    exec i s = .next s' :=
  ⟨demo, _, { std with ty := 8 }, (.fadd { std with ty := 8 }), 1, false, true, by
    and_intros <;> first
      | exact next_is _ (by decide +kernel)
      | exact Or.inl ⟨rfl, rfl, rfl, List.mem_cons_self⟩
      | exact Or.inr (Or.inr (Or.inr (Or.inl ⟨rfl, rfl, rfl, List.mem_cons_self⟩)))
      | decide +kernel
      | rfl⟩

theorem witness_DecodeOfEncode : ∃ (e : Side) (w : Nat) (i : Instr), i.wellFormed e w = true :=
  ⟨.wide, 8, .iadd { std with c := .zero }, by decide⟩

theorem witness_DecodedIsWellFormed : ∃ (e : Side) (w : Nat) (x : Slot) (i : Instr), decode e w x = .ok i :=
  ⟨.wide, 8, 0, _, rfl⟩

theorem witness_StoresTouchNoOtherByte : ∃ (s : State) (s' : State) (t : Thread) (f : Mem) (i : Instr) (once : Bool)
    (lanes : List Nat) (a : _),
    s.At t ∧ t.side ≠ .cellar ∧
    (((i ∈ [Instr.st f, .stnt f] ∧ once = false ∧ lanes = t.active) ∨ (i = .stu f ∧ once = true ∧ lanes = [0]))) ∧
    exec i s = .next s' ∧
    ((∀ k p, k < 2 ^ s.ashLog → p = inPkg (s.forwarded (fld (s.hr 0x4C0).toNat 12 48 * 4096 + 64 * k)) → a < p ∨ p + 64 ≤ a)) ∧
     ((∀ ps, s.resolveAll t .store (tyBits f.xty f.ty / 8) once (lanes.map fun k => (k, t.memAddr f k)) = .ok ps →
      ∀ p ∈ ps, ∀ pa, p.2.2 = .phys pa → a < pa ∨ pa + tyBits f.xty f.ty / 8 ≤ a)) :=
  ⟨demo, _, grp, { mrec with gb := 2 }, (.stu { mrec with gb := 2 }), true, [0], 64, by
    and_intros <;> first
      | exact next_is _ (by decide +kernel)
      | exact Or.inr ⟨rfl, rfl, rfl⟩
      | decide +kernel
      | rfl
      | (intro k p hk hp
         have h0 : k = 0 := Nat.lt_one_iff.mp hk
         subst h0
         subst hp
         decide +kernel)
      | (intro ps h p hp pa hpa
         have hr : demo.resolveAll grp .store 4 true ([0].map fun k => (k, grp.memAddr { mrec with gb := 2 } k)) =
             .ok [(0, 0x200600, .phys 0x200600)] := ok_of _ _ (by decide +kernel)
         cases hr.symm.trans h
         simp at hp
         subst hp
         cases hpa
         decide)⟩

end Sys2Proof.Tests
end

section
/-!
PROOFS. Taking an exception: the save frame as a list of fields that share no byte, and what a trap leaves (O12).
-/

namespace Sys2Proof.Machine

/-! ### Numbers written to memory -/

/-- A number that lies outside the bytes written reads as before. -/
theorem Store.getNat_putNat_outside (m : Memory) {a n b k : Nat} (v : Nat) (h : a + n ≤ b ∨ b + k ≤ a) :
    (m.putNat a n v).getNat b k = m.getNat b k := by
  unfold Store.getNat
  congr 1
  induction k generalizing b with
  | zero => rfl
  | succ k ih =>
    simp only [Store.bytes]
    rw [Store.get_putNat_outside m a n v (by omega), ih (by omega)]

/-- A number of `n` bytes at an address. -/
structure ByteField where
  addr : Nat
  size : Nat
  val : Nat

/-- Two fields share no byte. -/
def ByteField.Apart (e e' : ByteField) : Prop := e.addr + e.size ≤ e'.addr ∨ e'.addr + e'.size ≤ e.addr

/-- Writes fields, first to last. -/
def Store.putFields (m : Memory) (es : List ByteField) : Memory :=
  es.foldl (fun m e => Store.putNat m e.addr e.size e.val) m

theorem Store.getNat_putFields_apart (m : Memory) {es : List ByteField} {e : ByteField} (h : ∀ e' ∈ es, e.Apart e') :
    (Store.putFields m es).getNat e.addr e.size = m.getNat e.addr e.size := by
  induction es generalizing m with
  | nil => rfl
  | cons x es ih =>
    have hx : e.Apart x := h x List.mem_cons_self
    exact (ih (m.putNat x.addr x.size x.val) fun e' he' => h e' (List.mem_cons_of_mem _ he')).trans
      (Store.getNat_putNat_outside m x.val hx.symm)

/-- Of fields that share no byte each reads back, cut to its size. -/
theorem Store.getNat_putFields_mem (m : Memory) {es : List ByteField} {e : ByteField} (h : es.Pairwise ByteField.Apart)
    (he : e ∈ es) : (Store.putFields m es).getNat e.addr e.size = e.val % 256 ^ e.size := by
  induction es generalizing m with
  | nil => cases he
  | cons x es ih =>
    obtain ⟨hx, hes⟩ := List.pairwise_cons.mp h
    cases he with
    | head => exact (Store.getNat_putFields_apart _ hx).trans (Store.getNat_putNat ..)
    | tail _ he => exact ih (m.putNat x.addr x.size x.val) hes he

/-! ### The bytes of the save frame (R406) -/

theorem frameKey_succ (lane : Nat) {o : Nat} (h : o ≠ 31) : frameKey lane (o + 1) = frameKey lane o + 1 := by
  unfold frameKey
  split <;> split <;> omega

theorem frameBytes_eq_bytes (m : Memory) (lane : Nat) {o n : Nat} (h : o + n ≤ 32 ∨ 32 ≤ o) :
    frameBytes m lane o n = m.bytes (frameKey lane o) n := by
  induction n generalizing o with
  | zero => rfl
  | succ n ih =>
    simp only [frameBytes, Store.bytes]
    cases n with
    | zero => rfl
    | succ n =>
      rw [ih (by omega), frameKey_succ lane (by omega)]

theorem framePut_eq_putBytes (m : Memory) (lane : Nat) {o : Nat} {bs : List Byte}
    (h : o + bs.length ≤ 32 ∨ 32 ≤ o) : framePut m lane o bs = m.putBytes (frameKey lane o) bs := by
  induction bs generalizing m o with
  | nil => rfl
  | cons b bs ih =>
    simp only [framePut, Store.putBytes]
    cases bs with
    | nil => rfl
    | cons b' bs =>
      simp only [List.length_cons] at h ih
      rw [ih _ (by omega), frameKey_succ lane (by omega)]

/-- A field of the frame is the number at its first byte's key. -/
theorem ofBytes_frameBytes (m : Memory) (lane : Nat) {o n : Nat} (h : o + n ≤ 32 ∨ 32 ≤ o) :
    ofBytes (frameBytes m lane o n) = m.getNat (frameKey lane o) n := by
  rw [frameBytes_eq_bytes m lane h, Store.getNat]

/-- The saved V registers (R406). -/
def Thread.vFields (t : Thread) : List ByteField :=
  t.all.flatMap fun i => (List.range 8).map fun k => ⟨128 * i + 4 * k, 4, (t.regs.v.get (64 * k + i)).toNat⟩

/-- The saved G registers (R406). -/
def Thread.gFields (t : Thread) : List ByteField :=
  (List.range 4).map fun k => ⟨8224 + 8 * k, 8, (t.regs.g.get k).toNat⟩

/-- EM and the top entry of the mask stack as they are saved (R406). -/
def Thread.maskFields (t : Thread) : List ByteField :=
  [⟨8256, 8, t.regs.em.toNat⟩,
    ⟨8264, 8, if t.regs.depth = 0 then 0 else (t.regs.stkEm.get (t.regs.depth - 1)).toNat⟩,
    ⟨8272, 8, if t.regs.depth = 0 then 0 else (fmtRead (t.regs.stkFmt.get (t.regs.depth - 1))).toNat⟩]

/-- FMT and CC as they are saved (R406). -/
def Thread.modeFields (t : Thread) : List ByteField :=
  [⟨8280, 8, (fmtRead t.regs.fmt).toNat⟩, ⟨8288, 4, t.regs.cc.toNat⟩]

/-- The saved S registers (R406). -/
def Thread.sFields (t : Thread) : List ByteField :=
  (List.range 8).map fun k => ⟨frameKey 0 (8 * k), 8, (t.regs.s.get k).toNat⟩

/-- The frame of a wide-side group, field by field. -/
def Thread.wideFields (t : Thread) : List ByteField := t.vFields ++ (t.gFields ++ (t.maskFields ++ t.modeFields))

/-- The frame of a matrix group, field by field. -/
def Thread.mccFields (t : Thread) : List ByteField := t.sFields ++ t.modeFields

theorem Thread.frameWide_eq_putFields (t : Thread) : t.frameWide = Store.putFields [] t.wideFields := by
  simp only [Thread.frameWide, Store.putFields, Thread.wideFields, List.foldl_append, Thread.vFields,
    List.foldl_flatMap, List.foldl_map, Thread.gFields, Thread.maskFields, Thread.modeFields, List.foldl_cons,
    List.foldl_nil]

theorem Thread.frameMcc_eq_putFields (t : Thread) : t.frameMcc = Store.putFields [] t.mccFields := by
  have hs : (List.range 8).foldl (fun m k => framePut m 0 (8 * k) (toBytes (t.regs.s.get k).toNat 8)) [] =
      Store.putFields [] t.sFields := by
    rw [Store.putFields, Thread.sFields, List.foldl_map]
    refine List.foldl_ext _ _ _ fun m k hk => framePut_eq_putBytes m 0 ?_
    have hk : k < 8 := List.mem_range.mp hk
    rw [toBytes_length]
    omega
  simp only [Thread.frameMcc, hs, Store.putFields, Thread.mccFields, List.foldl_append, Thread.modeFields,
    List.foldl_cons, List.foldl_nil]

theorem Thread.mem_vFields {t : Thread} {e : ByteField} : e ∈ t.vFields ↔
    ∃ i, i < t.width ∧ ∃ k, k < 8 ∧ ⟨128 * i + 4 * k, 4, (t.regs.v.get (64 * k + i)).toNat⟩ = e := by
  simp only [Thread.vFields, Thread.all, List.mem_flatMap, List.mem_map, List.mem_range]

theorem Thread.mem_gFields {t : Thread} {e : ByteField} : e ∈ t.gFields ↔
    ∃ k, k < 4 ∧ ⟨8224 + 8 * k, 8, (t.regs.g.get k).toNat⟩ = e := by
  simp only [Thread.gFields, List.mem_map, List.mem_range]

theorem Thread.mem_sFields {t : Thread} {e : ByteField} : e ∈ t.sFields ↔
    ∃ k, k < 8 ∧ ⟨frameKey 0 (8 * k), 8, (t.regs.s.get k).toNat⟩ = e := by
  simp only [Thread.sFields, List.mem_map, List.mem_range]

theorem Thread.vFields_pairwise (t : Thread) : t.vFields.Pairwise ByteField.Apart := by
  simp only [Thread.vFields, List.pairwise_flatMap, List.pairwise_map, List.mem_map, ByteField.Apart]
  refine ⟨fun i _ => List.pairwise_lt_range.imp fun h => by omega, List.pairwise_lt_range.imp fun h => ?_⟩
  rintro _ ⟨k, hk, rfl⟩ _ ⟨k', hk', rfl⟩
  have := List.mem_range.mp hk
  have := List.mem_range.mp hk'
  dsimp only
  omega

theorem Thread.gFields_pairwise (t : Thread) : t.gFields.Pairwise ByteField.Apart := by
  simp only [Thread.gFields, List.pairwise_map, ByteField.Apart]
  exact List.pairwise_lt_range.imp fun h => by omega

theorem Thread.maskModeFields_pairwise (t : Thread) : (t.maskFields ++ t.modeFields).Pairwise ByteField.Apart := by
  simp [Thread.maskFields, Thread.modeFields, ByteField.Apart]

theorem Thread.maskModeFields_bounds {t : Thread} {e : ByteField} (h : e ∈ t.maskFields ++ t.modeFields) :
    8256 ≤ e.addr ∧ e.addr + e.size ≤ 8292 := by
  simp only [Thread.maskFields, Thread.modeFields, List.cons_append, List.nil_append, List.mem_cons, List.not_mem_nil,
    or_false] at h
  rcases h with rfl | rfl | rfl | rfl | rfl <;> simp

/-- No two fields of a wide-side group's frame share a byte. -/
theorem Thread.wideFields_pairwise (t : Thread) : t.wideFields.Pairwise ByteField.Apart := by
  refine List.pairwise_append.mpr ⟨t.vFields_pairwise, List.pairwise_append.mpr ⟨t.gFields_pairwise,
    t.maskModeFields_pairwise, fun e he e' he' => ?_⟩, fun e he e' he' => ?_⟩
  · obtain ⟨k, hk, rfl⟩ := Thread.mem_gFields.mp he
    have := Thread.maskModeFields_bounds he'
    simp only [ByteField.Apart]
    omega
  · obtain ⟨i, -, k, hk, rfl⟩ := Thread.mem_vFields.mp he
    have : 8224 ≤ e'.addr ∧ e'.addr + e'.size ≤ 8292 := by
      rcases List.mem_append.mp he' with h | h
      · obtain ⟨k, hk, rfl⟩ := Thread.mem_gFields.mp h
        dsimp only
        omega
      · have := Thread.maskModeFields_bounds h
        omega
    simp only [ByteField.Apart]
    omega

/-- No two fields of a matrix group's frame share a byte. -/
theorem Thread.mccFields_pairwise (t : Thread) : t.mccFields.Pairwise ByteField.Apart := by
  refine List.pairwise_append.mpr ⟨?_, (List.pairwise_append.mp t.maskModeFields_pairwise).2.1, fun e he e' he' => ?_⟩
  · simp only [Thread.sFields, List.pairwise_map, ByteField.Apart, frameKey]
    exact List.pairwise_lt_range.imp fun h => by split <;> split <;> omega
  · obtain ⟨k, hk, rfl⟩ := Thread.mem_sFields.mp he
    have := Thread.maskModeFields_bounds (t := t) (List.mem_append_right _ he')
    simp only [ByteField.Apart, frameKey]
    split <;> omega

/-- A field of a wide-side group's frame reads as what was saved. -/
theorem Thread.getNat_frameWide {t : Thread} {e : ByteField} (he : e ∈ t.wideFields) (h : e.val < 256 ^ e.size) :
    t.frameWide.getNat e.addr e.size = e.val := by
  rw [t.frameWide_eq_putFields, Store.getNat_putFields_mem _ t.wideFields_pairwise he, Nat.mod_eq_of_lt h]

/-- A field of a matrix group's frame reads as what was saved. -/
theorem Thread.getNat_frameMcc {t : Thread} {e : ByteField} (he : e ∈ t.mccFields) (h : e.val < 256 ^ e.size) :
    t.frameMcc.getNat e.addr e.size = e.val := by
  rw [t.frameMcc_eq_putFields, Store.getNat_putFields_mem _ t.mccFields_pairwise he, Nat.mod_eq_of_lt h]

theorem Thread.frameWide_v (t : Thread) {i k : Nat} (hi : i < t.width) (hk : k < 8) :
    ofBytes (frameBytes t.frameWide i (4 * k) 4) = (t.regs.v.get (64 * k + i)).toNat := by
  rw [ofBytes_frameBytes _ _ (by omega), frameKey, if_pos (by omega)]
  exact Thread.getNat_frameWide (e := ⟨128 * i + 4 * k, 4, _⟩)
    (List.mem_append_left _ (Thread.mem_vFields.mpr ⟨i, hi, k, hk, rfl⟩)) (t.regs.v.get (64 * k + i)).isLt

theorem Thread.frameWide_g (t : Thread) {k : Nat} (hk : k < 4) :
    ofBytes (frameBytes t.frameWide 0 (32 + 8 * k) 8) = (t.regs.g.get k).toNat := by
  rw [ofBytes_frameBytes _ _ (by omega), frameKey, if_neg (by omega), ← Nat.add_assoc]
  exact Thread.getNat_frameWide (e := ⟨8224 + 8 * k, 8, _⟩)
    (List.mem_append_right _ (List.mem_append_left _ (Thread.mem_gFields.mpr ⟨k, hk, rfl⟩))) (t.regs.g.get k).isLt

/-- A field above G0 to G3 of a wide-side group's frame. -/
theorem Thread.frameWide_tail (t : Thread) {o n v : Nat} (ho : 32 ≤ o)
    (he : ⟨8192 + o, n, v⟩ ∈ t.maskFields ++ t.modeFields) (h : v < 256 ^ n) :
    ofBytes (frameBytes t.frameWide 0 o n) = v := by
  rw [ofBytes_frameBytes _ _ (.inr ho), frameKey, if_neg (by omega)]
  exact Thread.getNat_frameWide (e := ⟨8192 + o, n, v⟩) (List.mem_append_right _ (List.mem_append_right _ he)) h

theorem Thread.frameWide_em (t : Thread) : ofBytes (frameBytes t.frameWide 0 64 8) = t.regs.em.toNat :=
  t.frameWide_tail (by decide) (by simp [Thread.maskFields]) t.regs.em.isLt

theorem Thread.frameWide_topEm (t : Thread) : ofBytes (frameBytes t.frameWide 0 72 8) =
    if t.regs.depth = 0 then 0 else (t.regs.stkEm.get (t.regs.depth - 1)).toNat :=
  t.frameWide_tail (by decide) (by simp [Thread.maskFields]) (by split <;> omega)

theorem Thread.frameWide_topFmt (t : Thread) : ofBytes (frameBytes t.frameWide 0 80 8) =
    if t.regs.depth = 0 then 0 else (fmtRead (t.regs.stkFmt.get (t.regs.depth - 1))).toNat :=
  t.frameWide_tail (by decide) (by simp [Thread.maskFields]) (by split <;> omega)

theorem Thread.frameMcc_s (t : Thread) {k : Nat} (hk : k < 8) :
    ofBytes (frameBytes t.frameMcc 0 (8 * k) 8) = (t.regs.s.get k).toNat := by
  rw [ofBytes_frameBytes _ _ (by omega)]
  exact Thread.getNat_frameMcc (e := ⟨frameKey 0 (8 * k), 8, _⟩)
    (List.mem_append_left _ (Thread.mem_sFields.mpr ⟨k, hk, rfl⟩)) (t.regs.s.get k).isLt

/-- The frame that a trap saves (R406). -/
def Thread.savedFrame (t : Thread) : Memory := if t.side = .mcc then t.frameMcc else t.frameWide

/-- FMT and CC stand in every frame. -/
theorem Thread.savedFrame_mode (t : Thread) {o n v : Nat} (ho : 32 ≤ o) (he : ⟨8192 + o, n, v⟩ ∈ t.modeFields)
    (h : v < 256 ^ n) : ofBytes (frameBytes t.savedFrame 0 o n) = v := by
  unfold Thread.savedFrame
  split
  · rw [ofBytes_frameBytes _ _ (.inr ho), frameKey, if_neg (by omega)]
    exact Thread.getNat_frameMcc (e := ⟨8192 + o, n, v⟩) (List.mem_append_right _ he) h
  · exact t.frameWide_tail ho (List.mem_append_right _ he) h

theorem Thread.savedFrame_fmt (t : Thread) :
    ofBytes (frameBytes t.savedFrame 0 88 8) = (fmtRead t.regs.fmt).toNat :=
  t.savedFrame_mode (by decide) (by simp [Thread.modeFields]) (fmtRead t.regs.fmt).isLt

theorem Thread.savedFrame_cc (t : Thread) : ofBytes (frameBytes t.savedFrame 0 96 4) = t.regs.cc.toNat :=
  t.savedFrame_mode (by decide) (by simp [Thread.modeFields]) (by omega)

/-! ### Counting an instruction changes nothing that the Hearth reads -/

theorem State.counted_readPte (s : State) (t : Thread) (pa : Nat) : (s.counted t).readPte pa = s.readPte pa := by
  unfold State.counted
  split <;> rfl

theorem State.counted_walkOn (s : State) (t : Thread) (guess : Bool) (part va n : Nat) (got known : List Nat) :
    (s.counted t).walkOn guess part va got known n = s.walkOn guess part va got known n := by
  induction n generalizing got known with
  | zero => rfl
  | succ n ih =>
    have hat : (s.counted t).pteAt part va got = s.pteAt part va got := by
      unfold State.counted
      split <;> rfl
    simp only [State.walkOn, hat, ih, State.counted_readPte, State.counted_free]

theorem State.counted_physRes (s : State) (t : Thread) (part : Nat) (handler : Bool) (acc : Acc) (pa : Nat)
    (far late : Bool) :
    (s.counted t).physRes part handler acc pa far late = s.physRes part handler acc pa far late := by
  unfold State.counted
  split <;> rfl

theorem State.counted_vector (s : State) (t : Thread) (part cls : Nat) :
    (s.counted t).vector part cls = s.vector part cls := by
  have hat : (s.counted t).vectorAt part cls = s.vectorAt part cls := by simp [State.vectorAt, State.hr]
  simp only [State.vector, State.hearthNat, State.hearthPlace, State.walk, State.counted_walkOn, State.counted_physRes,
    hat, State.counted_mem, State.counted_free]

theorem State.counted_partOf (s : State) (t : Thread) : (s.counted t).partOf t = s.partOf t := by
  unfold State.counted
  split
  · rfl
  · simp only [State.partOf, State.taskOf, State.launchOf, State.wgOf, Tab.getD, Tab.get?_upd_same]
    congr 1
    cases s.launches.get? (s.wgs.get? t.wg |>.getD .absent).launch <;> rfl

/-! ### Taking an exception -/

/-- What the Hearth can read is not dead. -/
theorem State.hearthDead_of_hearthNat {s : State} {part va n e : Nat} (h : s.hearthNat part va n = some e) :
    s.hearthDead part va = false := by
  have hp : s.hearthPlace part .load va ≠ none := fun hn => by simp [State.hearthNat, hn] at h
  unfold State.hearthPlace at hp
  unfold State.hearthDead
  split at hp
  · exact absurd rfl hp
  · cases hw : s.walk part va with
    | page base big r w x mig at_ =>
      simp only [hw] at hp ⊢
      split at hp
      · exact absurd rfl hp
      · split at hp
        · next hr => simp [hr, Place.isDead]
        · next hr => simp [hr, Place.isDead]
        · exact absurd rfl hp
    | _ => simp [hw] at hp

/-- A vector entry that stands has been read. -/
theorem State.hearthNat_of_vector {s : State} {part cls target : Nat} (h : s.vector part cls = some target) :
    s.hearthNat part (s.vectorAt part cls) 8 = some target := by
  unfold State.vector at h
  cases hn : s.hearthNat part (s.vectorAt part cls) 8 with
  | none => simp [hn] at h
  | some e =>
    simp only [hn] at h
    split at h
    · cases h
    · exact h

/-- A group outside the handler whose vector entry stands enters the handler (R405). -/
theorem State.takeTrap_enters {s : State} {tid target : Nat} {t : Thread} {x : TrapInfo} (hside : t.side ≠ .cellar)
    (hh : t.handler = false)
    (hv : (s.parityRecord t x).vector ((s.parityRecord t x).partOf t) x.cls = some target) :
    s.takeTrap tid t x = (s.parityRecord t x).putThread tid (t.enterHandler x target) := by
  have hd := State.hearthDead_of_hearthNat (State.hearthNat_of_vector hv)
  simp [State.takeTrap, hside, hh, hd, hv]

/-- An instruction that traps, of a class that posts no record, enters the handler of its class (R405). -/
theorem State.trapped_enters {s : State} {target : Nat} {t : Thread} {x : TrapInfo} (hside : t.side ≠ .cellar)
    (hh : t.handler = false) (hx : x.cls ≠ 0x0C) (hv : s.vector (s.partOf t) x.cls = some target) :
    s.trapped t x = s.after t (t.enterHandler x target) := by
  have hp : (s.counted t).parityRecord t x = s.counted t := if_neg hx
  rw [State.trapped, State.takeTrap_enters hside hh (target := target), hp, State.after]
  rw [hp, State.counted_partOf, State.counted_vector, hv]

/-- TRAP and SVC trap with their class and code (R155). -/
theorem exec_trap_svc {s : State} {t : Thread} {f : Std} {c : Nat} {i : Instr} (h : s.At t) (hb : t.busy = false)
    (hi : (c, i) ∈ [(0x0D, Instr.trap f), (0x0E, Instr.svc f)]) :
    exec i s = .next (s.trapped t { cls := c, info := f.xt.toNat }) := by
  simp only [List.mem_cons, Prod.mk.injEq, List.not_mem_nil, or_false] at hi
  obtain ⟨rfl, rfl⟩ | ⟨rfl, rfl⟩ := hi
  · exact run_trap h hb rfl
  · exact run_trap h hb rfl

/-- Settles O12: TRAP and SVC are an exception of their class, and what taking an exception leaves is read off the
frame's fields, no two of which share a byte. -/
theorem trapsEnterTheHandler : Obligations.TrapsEnterTheHandler := by
  unfold Obligations.TrapsEnterTheHandler
  constructor
  · intro s t f c i target hat hb hside hh hi hv
    have hc : c ≠ 0x0C := by
      rintro rfl
      simp at hi
    refine ⟨t.enterHandler { cls := c, info := f.xt.toNat } target, ?_, rfl, by simp, rfl, rfl, rfl, rfl, rfl⟩
    rw [exec_trap_svc hat hb hi, State.trapped_enters hside hh hc hv]
  · intro s s1 tid t x target fmtOf hh hf hs1 hv hside
    obtain rfl : s1 = s.parityRecord t x := by
      rw [hs1, State.parityRecord]
      split
      · next hx => rw [hx]
      · rfl
    obtain rfl : fmtOf = fun v => (fmtRead v).toNat := funext hf
    refine ⟨t.enterHandler x target, State.takeTrap_enters hside hh hv, rfl, rfl, rfl, rfl, rfl, rfl, rfl, rfl, rfl,
      rfl, rfl, fun hw => ?_, fun hm k hk => ?_, t.savedFrame_fmt, t.savedFrame_cc⟩
    · have hfr : (t.enterHandler x target).frame = t.frameWide := if_neg (by simp [hw])
      rw [hfr]
      exact ⟨fun i k hi _ hk => t.frameWide_v hi hk, fun k hk => t.frameWide_g hk, t.frameWide_em, t.frameWide_topEm,
        t.frameWide_topFmt⟩
    · have hfr : (t.enterHandler x target).frame = t.frameMcc := if_pos hm
      rw [hfr, t.frameMcc_s hk]

end Sys2Proof.Machine
end

section
/-!
PROOFS. The mask-state record as a number of 64-bit words, and accesses in this package that are made at issue (O25).
-/

namespace Sys2Proof.Machine

/-! ### Numbers made of 64-bit words -/

/-- Word `j` of the number that 64-bit words make. -/
theorem fld_ofDigits {ws : List Nat} (h : ∀ x ∈ ws, x < 2 ^ 64) (j : Nat) :
    fld (Nat.ofDigits (2 ^ 64) ws) (64 * j) 64 = ws.getD j 0 := by
  induction ws generalizing j with
  | nil => simp [fld]
  | cons x ws ih =>
    have hx : x < 2 ^ 64 := h x List.mem_cons_self
    cases j with
    | zero => simp [fld, Nat.ofDigits_cons]; omega
    | succ j =>
      have hj := ih (fun y hy => h y (List.mem_cons_of_mem _ hy)) j
      unfold fld at hj ⊢
      rw [Nat.ofDigits_cons, show 64 * (j + 1) = 64 + 64 * j by omega, Nat.pow_add, ← Nat.div_div_eq_div_mul,
        Nat.add_mul_div_left _ _ (Nat.two_pow_pos 64), Nat.div_eq_of_lt hx, Nat.zero_add, hj, List.getD_cons_succ]

/-- Two digits more. -/
theorem ofDigits_map_range_add_two (b : Nat) (f : Nat → Nat) (n : Nat) :
    Nat.ofDigits b ((List.range (n + 2)).map f) =
      Nat.ofDigits b ((List.range n).map f) + b ^ n * (f n + b * f (n + 1)) := by
  rw [List.range_succ, List.range_succ, List.append_assoc, List.map_append, Nat.ofDigits_append, List.length_map,
    List.length_range]
  simp [Nat.ofDigits_cons]

/-! ### The mask-state record (R184) -/

/-- Word `j` of the mask-state record, with every entry of the stack's storage in its place. -/
def maskWord (r : Regs) (j : Nat) : Nat :=
  if j = 0 then r.em.toNat
  else if j = 1 then (fmtRead r.fmt).toNat
  else if j = 2 then r.depth
  else if j = 3 then 0
  else if j % 2 = 0 then (r.stkEm.get ((j - 4) / 2)).toNat
  else (fmtRead (r.stkFmt.get ((j - 4) / 2))).toNat

theorem maskWord_lt {r : Regs} (hd : r.depth < 2 ^ 64) (j : Nat) : maskWord r j < 2 ^ 64 := by
  unfold maskWord
  split_ifs <;> omega

theorem maskWord_em (r : Regs) (k : Nat) : maskWord r (4 + 2 * k) = (r.stkEm.get k).toNat := by
  unfold maskWord
  rw [if_neg (by omega), if_neg (by omega), if_neg (by omega), if_neg (by omega), if_pos (by omega),
    show (4 + 2 * k - 4) / 2 = k by omega]

theorem maskWord_fmt (r : Regs) (k : Nat) : maskWord r (4 + 2 * k + 1) = (fmtRead (r.stkFmt.get k)).toNat := by
  unfold maskWord
  rw [if_neg (by omega), if_neg (by omega), if_neg (by omega), if_neg (by omega), if_neg (by omega),
    show (4 + 2 * k + 1 - 4) / 2 = k by omega]

/-- The record's header and its first `d` entries, word by word. -/
theorem maskSum_eq_ofDigits (r : Regs) (d : Nat) :
    r.em.toNat + (fmtRead r.fmt).toNat * 2 ^ 64 + r.depth * 2 ^ 128 +
        ((List.range d).map fun k => (r.stkEm.get k).toNat * 2 ^ (256 + 128 * k) +
          (fmtRead (r.stkFmt.get k)).toNat * 2 ^ (320 + 128 * k)).foldl (· + ·) 0 =
      Nat.ofDigits (2 ^ 64) ((List.range (4 + 2 * d)).map (maskWord r)) := by
  induction d with
  | zero => simp [List.range_succ, Nat.ofDigits_cons, maskWord]; omega
  | succ d ih =>
    have he : (2 ^ 64) ^ (4 + 2 * d) = 2 ^ (256 + 128 * d) := by rw [← Nat.pow_mul]; congr 1; omega
    have hf : 2 ^ (320 + 128 * d) = 2 ^ (256 + 128 * d) * 2 ^ 64 := by rw [← Nat.pow_add]; congr 1; omega
    have entry (a b p q : Nat) : a * p + b * (p * q) = p * (a + q * b) := by ring
    rw [show 4 + 2 * (d + 1) = 4 + 2 * d + 2 by omega, ofDigits_map_range_add_two, ← ih, he, maskWord_em, maskWord_fmt,
      ← entry, ← hf, List.range_succ, List.map_append, List.foldl_append, Nat.add_assoc _ (List.foldl _ _ _)]
    rfl

/-- A word of the record: those of entries above the depth are zero (R184). -/
theorem fld_maskRecord {r : Regs} (hd : r.depth < 2 ^ 64) (j : Nat) :
    fld (maskRecord r) (64 * j) 64 = if j < 4 + 2 * r.depth then maskWord r j else 0 := by
  rw [maskRecord, maskSum_eq_ofDigits, fld_ofDigits]
  · rw [List.getD_eq_getElem?_getD, List.getElem?_map]
    split
    · next h => rw [List.getElem?_range h, Option.map_some, Option.getD_some]
    · next h => rw [List.getElem?_eq_none (by rwa [List.length_range, ← not_lt]), Option.map_none, Option.getD_none]
  · intro x hx
    obtain ⟨j, -, rfl⟩ := List.mem_map.mp hx
    exact maskWord_lt hd j

/-- A word of the record, by its number (R184). -/
theorem fld_maskRecord_eq {r : Regs} (hd : r.depth < 2 ^ 64) (j : Nat) :
    fld (maskRecord r) (64 * j) 64 =
      if j = 0 then r.em.toNat
      else if j = 1 then (fmtRead r.fmt).toNat
      else if j = 2 then r.depth
      else if j = 3 ∨ r.depth ≤ (j - 4) / 2 then 0
      else if j % 2 = 0 then (r.stkEm.get ((j - 4) / 2)).toNat
      else (fmtRead (r.stkFmt.get ((j - 4) / 2))).toNat := by
  rw [fld_maskRecord hd, maskWord]
  by_cases h : j < 4 + 2 * r.depth
  · rw [if_pos h]
    split_ifs <;> omega
  · rw [if_neg h, if_neg (by omega), if_neg (by omega), if_neg (by omega), if_pos (by omega)]

/-- Entries written one after another. -/
theorem Store.get_foldl_set_range {w : Nat} (m : Store w) (f : Nat → BitVec w) (d k : Nat) :
    ((List.range d).foldl (fun m k => m.set k (f k)) m).get k = if k < d then f k else m.get k := by
  induction d with
  | zero => rfl
  | succ d ih =>
    rw [List.range_succ, List.foldl_append, List.foldl_cons, List.foldl_nil]
    by_cases hk : k = d
    · subst hk
      rw [Store.get_set_same, if_pos (by omega)]
    · rw [Store.get_set_other _ _ (Ne.symm hk), ih]
      simp only [show k < d + 1 ↔ k < d by omega]

/-- The registers after MLOAD of a record (R184). -/
def Thread.recordRegs (t : Thread) (w : Nat) : Regs :=
  { t.regs with
    em := t.trim (BitVec.ofNat 64 (fld w 0 64))
    fmt := BitVec.ofNat 64 (fld w 64 64)
    depth := fld w 128 4
    stkEm := (List.range (fld w 128 4)).foldl (fun m k =>
      m.set k (t.trim (BitVec.ofNat 64 (fld w (256 + 128 * k) 64)))) t.regs.stkEm
    stkFmt := (List.range (fld w 128 4)).foldl (fun m k =>
      m.set k (BitVec.ofNat 64 (fld w (320 + 128 * k) 64))) t.regs.stkFmt }

/-! ### Checks that every lane passes -/

/-- Lanes that all pass are judged to pass (R226). -/
theorem judge_ok {α : Type} (group : Bool) (xs : List α) (lane va : α → Nat) (p : α → Place) :
    judge group (xs.map fun x => (lane x, va x, Res.ok (p x))) = .ok (xs.map fun x => (lane x, va x, p x)) := by
  have hbad (k : Nat) : badAt (xs.map fun x => (lane x, va x, Res.ok (p x))) k = [] := by
    simp [badAt, List.filter_map, Function.comp_def]
  have hneed : neededPages (xs.map fun x => (lane x, va x, Res.ok (p x))) = [] := by
    simp [neededPages, List.filterMap_map]
  have hask : asked (xs.map fun x => (lane x, va x, Res.ok (p x))) = none := by
    simp [asked]
  have hok : okPlaces (xs.map fun x => (lane x, va x, Res.ok (p x))) = xs.map fun x => (lane x, va x, p x) := by
    simp [okPlaces, List.filterMap_map]
  simp [judge, firstRank, hbad, hneed, hask, hok]

theorem Res.probed_here {p : Place} (t : Thread) (acc : Acc) (n : Nat) (h : p.isRemote = false) :
    (Res.ok p).probed t acc n = .ok p := by
  cases p with
  | remote pa hop => simp [Place.isRemote] at h
  | _ => rfl

/-- Places in this package, each of which passes its checks, are what the checks give (R226). -/
theorem State.resolveAll_here {α : Type} {s : State} {t : Thread} {acc : Acc} {n : Nat} {group : Bool} {xs : List α}
    {lane va : α → Nat} {p : α → Place} (h : ∀ x ∈ xs, s.resolve t acc (lane x) (va x) n = .ok (p x))
    (hp : ∀ x ∈ xs, (p x).isRemote = false) :
    s.resolveAll t acc n group (xs.map fun x => (lane x, va x)) = .ok (xs.map fun x => (lane x, va x, p x)) := by
  have hr : (xs.map fun x => (lane x, va x)).map (fun l => (l.1, l.2, s.resolve t acc l.1 l.2 n)) =
      xs.map fun x => (lane x, va x, Res.ok (p x)) := by
    rw [List.map_map]
    exact List.map_congr_left fun x hx => by simp [h x hx]
  have hq : (xs.map fun x => (lane x, va x, Res.ok (p x))).map (fun r => (r.1, r.2.1, r.2.2.probed t acc n)) =
      xs.map fun x => (lane x, va x, Res.ok (p x)) := by
    rw [List.map_map]
    exact List.map_congr_left fun x hx => by simp [Res.probed_here t acc n (hp x hx)]
  simp only [State.resolveAll, checkAll, hr, hq, ite_self, judge_ok]

/-! ### Loads in this package -/

/-- A load's timestamps change access counts, line timestamps and the program timestamp only (R223, R393). -/
theorem State.stampLoad_eq (s : State) (t : Thread) (p : Place) : ∃ counts lts pts,
    s.stampLoad t p = ({ s with counts := counts, lts := lts }, { t with pts := pts }) := by
  unfold State.stampLoad
  split
  · dsimp only
    split <;> exact ⟨_, _, _, rfl⟩
  · exact ⟨_, _, _, rfl⟩

/-- Loads read every place as it stands, and change access counts, line timestamps and the program timestamp only. -/
theorem State.loadPlaces_eq (s : State) (t : Thread) (n : Nat) (ps : List (Nat × Nat × Place)) : ∃ counts lts pts,
    s.loadPlaces t n ps = (ps.map fun p => (p.1, s.readPlace t p.2.2 n),
      { s with counts := counts, lts := lts }, { t with pts := pts }) := by
  induction ps generalizing s t with
  | nil => exact ⟨_, _, _, rfl⟩
  | cons x ps ih =>
    obtain ⟨lane, va, p⟩ := x
    obtain ⟨c, l, q, hs⟩ := s.stampLoad_eq t p
    obtain ⟨c', l', q', hl⟩ := ih { s with counts := c, lts := l } { t with pts := q }
    refine ⟨c', l', q', ?_⟩
    have hread (p : Place) : ({ s with counts := c, lts := l } : State).readPlace { t with pts := q } p n =
        s.readPlace t p n := by cases p <;> rfl
    simp only [State.loadPlaces, hs, hl, hread, List.map_cons]

/-- The loads of words in this package, none of which has been read before, give the bytes that stand there. -/
theorem State.loadHeard_here {s : State} {t : Thread} {n : Nat} {ps : List (Nat × Nat × Place)} (hk : t.kept = [])
    (hr : ∀ p ∈ ps, p.2.2.isRemote = false) (hd : ∀ p ∈ ps, p.2.2.isDead = false) : ∃ counts lts pts kept,
    s.loadHeard t n ps = .ok (ps.map (fun p => s.readPlace t p.2.2 n),
      { s with counts := counts, lts := lts }, { t with pts := pts, kept := kept }) := by
  obtain ⟨c, l, q, hl⟩ := s.loadPlaces_eq t n ps
  have hdead : (ps.any fun p => p.2.2.isDead) = false := List.any_eq_false.mpr fun p hp => by simp [hd p hp]
  have hun : t.unheard n ps = none := by
    refine List.findSome?_eq_none_iff.mpr fun p hp => ?_
    have := hr p hp
    split <;> simp_all [Place.isRemote]
  have hbad (cls : Nat) : t.heardBad n cls ps = none := by
    rw [Thread.heardBad, List.find?_eq_none.mpr, Option.map_none]
    intro p hp
    simp [hr p hp]
  have hzip : ps.zip (ps.map fun p => (p.1, s.readPlace t p.2.2 n)) =
      ps.map fun p => (p, p.1, s.readPlace t p.2.2 n) := by
    have := List.zip_map' (l := ps) (f := id) (g := fun p => (p.1, s.readPlace t p.2.2 n))
    rwa [List.map_id] at this
  refine ⟨c, l, q, s.keepWords t n ps, ?_⟩
  simp only [State.loadHeard, hdead, hun, hbad, hl, hzip, List.map_map, Bool.false_eq_true, if_false]
  refine congrArg Except.ok (congrArg (·, _) (List.map_congr_left fun p hp => ?_))
  have := hr p hp
  obtain ⟨lane, va, p⟩ := p
  cases p <;> simp_all [Thread.keptAt, Place.isRemote]

/-- Words in this package that wait for nothing are read at issue (R160, R183; log 7). -/
theorem State.loadWords_here {s : State} {t : Thread} {va k : Nat} {p : Nat → Place} (hb : t.busy = false)
    (hk : t.kept = [])
    (hp : ∀ j, j < k → s.resolve t .load 0 ((va + 8 * j) % 2 ^ 64) 8 = .ok (p j) ∧ (p j).isRemote = false ∧
      (p j).isDead = false ∧ s.scrWaits t (p j) 8 = false) : ∃ counts lts pts kept,
    s.loadWords t va k = .ok (ofBytes ((List.range k).flatMap fun j => s.readPlace t (p j) 8),
      { s with counts := counts, lts := lts }, { t with pts := pts, kept := kept }) := by
  let ps := (List.range k).map fun j => (0, (va + 8 * j) % 2 ^ 64, p j)
  have hps : s.resolveAll t .load 8 true ((List.range k).map fun j => (0, (va + 8 * j) % 2 ^ 64)) = .ok ps :=
    State.resolveAll_here (lane := fun _ => 0) (fun j hj => (hp j (List.mem_range.mp hj)).1)
      fun j hj => (hp j (List.mem_range.mp hj)).2.1
  have hmem {q : Nat × Nat × Place} (hq : q ∈ ps) : ∃ j, j < k ∧ p j = q.2.2 := by
    obtain ⟨j, hj, rfl⟩ := List.mem_map.mp hq
    exact ⟨j, List.mem_range.mp hj, rfl⟩
  have hw : s.anyWaits t 8 ps = false := List.any_eq_false.mpr fun q hq => by
    obtain ⟨j, hj, h⟩ := hmem hq
    obtain ⟨-, -, -, hw⟩ := hp j hj
    simp [← h, hw]
  obtain ⟨c, l, q, kept, hl⟩ := State.loadHeard_here (s := s) (n := 8) (ps := ps) hk
    (fun q hq => by obtain ⟨j, hj, h⟩ := hmem hq; exact h ▸ (hp j hj).2.1)
    (fun q hq => by obtain ⟨j, hj, h⟩ := hmem hq; exact h ▸ (hp j hj).2.2.1)
  refine ⟨c, l, q, kept, ?_⟩
  simp only [State.loadWords, quiet_ok hb, hps, hw, hl, bind, Except.bind, Bool.false_eq_true, if_false]
  rw [List.map_map, ← List.flatMap_def]
  rfl

/-! ### Stores in this package -/

/-- Stores to places in this package that wait for nothing are made at issue (R228; log 7). -/
theorem State.storeAll_here {s : State} {t : Thread} {op n : Nat} {ls : List (Nat × Nat × Place × List Byte)}
    (hb : t.busy = false) (h : ∀ l ∈ ls, l.2.2.1.isRemote = false ∧ s.scrWaits t l.2.2.1 n = false) :
    s.storeAll t op n ls = .ok (s.storePlaces t (ls.map fun l => l.2.2)) := by
  have ha : anyAway (ls.map fun l => (l.1, l.2.1, l.2.2.1)) = false := by
    simpa [anyAway] using fun a b p bs hl => (h (a, b, p, bs) hl).1
  have hw : s.anyWaits t n (ls.map fun l => (l.1, l.2.1, l.2.2.1)) = false := by
    simpa [State.anyWaits] using fun a b p bs hl => (h (a, b, p, bs) hl).2
  simp [State.storeAll, Thread.roomFor, ha, hw, hb, bind, Except.bind]

/-! ### MSAVE and MLOAD (R183, R184) -/

/-- MSAVE to places in this package that its checks allow makes its stores at issue. -/
theorem exec_msave_here {s : State} {t : Thread} {f : Std} {ps : List (Nat × Nat × Place)} (h : s.At t)
    (hb : t.busy = false) (hc : t.canRead f.a 1 = .ok ⟨⟩) (hal : t.uni f.a % 32 = 0)
    (hlane : (aperture (t.uni f.a)).1 ≠ .lane) (hpan : (aperture (t.uni f.a)).1 ≠ .pantry)
    (hps : s.resolveAll t .store 8 true ((List.range 20).map fun j => (0, (t.uni f.a + 8 * j) % 2 ^ 64)) = .ok ps)
    (hp : ∀ p ∈ ps, p.2.2.isRemote = false ∧ s.scrWaits t p.2.2 8 = false) :
    exec (.msave f) s = .next (s.finish
      (s.storePlaces t (ps.zipIdx.map fun p => (p.1.2.2, toBytes (fld (maskRecord t.regs) (64 * p.2) 64) 8))).1
      (s.storePlaces t (ps.zipIdx.map fun p => (p.1.2.2, toBytes (fld (maskRecord t.regs) (64 * p.2) 64) 8))).2) := by
  refine run_ok h (r := (_, _)) ?_
  have hst := State.storeAll_here (s := s) (op := 1024) (n := 8) hb
    (ls := ps.zipIdx.map fun p =>
      (p.1.1, p.1.2.1, p.1.2.2, toBytes (fld (maskRecord t.regs) (64 * p.2) 64) 8)) fun l hl => by
        obtain ⟨p, hp', rfl⟩ := List.mem_map.mp hl
        exact hp p.1 (List.fst_mem_of_mem_zipIdx hp')
  rw [List.map_map] at hst
  simp only [hc, hal, hlane, hpan, hps, hst, bind, Except.bind, ne_eq, not_true_eq_false, if_false, or_self]
  rfl

/-- MLOAD of a record that can be read here: what it does once its twenty words stand. -/
theorem exec_mload_here {s : State} {t : Thread} {f : Std} {p : Nat → Place} (h : s.At t) (hb : t.busy = false)
    (hk : t.kept = []) (hc : t.canRead f.a 1 = .ok ⟨⟩) (hal : t.uni f.a % 32 = 0)
    (hlane : (aperture (t.uni f.a)).1 ≠ .lane) (hpan : (aperture (t.uni f.a)).1 ≠ .pantry)
    (hp : ∀ j, j < 20 → s.resolve t .load 0 ((t.uni f.a + 8 * j) % 2 ^ 64) 8 = .ok (p j) ∧ (p j).isRemote = false ∧
      (p j).isDead = false ∧ s.scrWaits t (p j) 8 = false) :
    let w := ofBytes ((List.range 20).flatMap fun j => s.readPlace t (p j) 8)
    (8 < fld w 128 4 → exec (.mload f) s = .next (s.trapped t { cls := 3, info := t.regs.depth })) ∧
    (fld w 128 4 ≤ 8 → ∃ counts lts pts kept,
      exec (.mload f) s = .next (s.finish { s with counts := counts, lts := lts }
        { t with pts := pts, kept := kept, regs := t.recordRegs w })) := by
  intro w
  obtain ⟨c, l, q, kept, hl⟩ := State.loadWords_here hb hk hp
  constructor
  · intro hd
    refine run_trap h hb ?_
    simp only [hc, hal, hlane, hpan, hl, bind, Except.bind, ne_eq, not_true_eq_false, if_false, or_self]
    rw [if_pos hd]
    rfl
  · intro hd
    refine ⟨c, l, q, kept, run_ok h (r := (_, _)) ?_⟩
    simp only [hc, hal, hlane, hpan, hl, bind, Except.bind, ne_eq, not_true_eq_false, if_false, or_self]
    rw [if_neg (Nat.not_lt.mpr hd)]
    rfl

/-- Settles O25: the record is a number of twenty words, which MSAVE stores word by word and MLOAD reads back. -/
theorem maskRecords : Obligations.MaskRecords := by
  unfold Obligations.MaskRecords
  constructor
  · intro s t f a ps r h hb hc ha hal hdepth hlane hpan hps hp hr
    subst ha
    rw [exec_msave_here h hb hc hal hlane hpan hps hp, hr]
    simp only [fld_maskRecord_eq (r := t.regs) (by omega), State.finish]
    rfl
  · intro s t f a w p h hb hk hc ha hal hlane hpan hp hw
    subst ha hw
    obtain ⟨htrap, hload⟩ := exec_mload_here h hb hk hc hal hlane hpan hp
    refine ⟨htrap, fun hd => ?_⟩
    obtain ⟨c, l, q, kept, hx⟩ := hload hd
    refine ⟨_, _, hx, Tab.get?_put_same .., ?_, ?_, ?_⟩
    · simp only [Thread.advance_pc, Thread.at_]
    · simp only [State.finish, State.putThread_mem, State.counted_mem]
    · rw [Thread.advance_regs]
      refine ⟨rfl, rfl, rfl, fun k hk => ⟨?_, ?_⟩, rfl⟩
      · exact (Store.get_foldl_set_range ..).trans (if_pos hk)
      · exact (Store.get_foldl_set_range ..).trans (if_pos hk)

end Sys2Proof.Machine
end

section
/-!
PROOFS. WRSR of LEASE, and a Cellar thread for which O15 gives it to another partition (O15).
-/

namespace Sys2Proof.Machine

/-- WRSR of LEASE in the handler takes a value that is zero outside LEN and ADV, for the partition of its thread, which
of a Cellar thread is its task's (R159, R394). -/
theorem exec_wrsr_lease {s : State} {t : Thread} {f : Std} {i v w : Nat} (h : s.At t) (hb : t.busy = false)
    (hh : t.handler = true) (hn : f.xt = 0x20) (hw : w = if f.ty = 6 then 32 else 64)
    (hc : t.canRead f.a (regsOf w) = .ok ⟨⟩) (hi : t.active.head? = some i) (hv : v = t.opnd f.a (regsOf w) w i)
    (hlen : fld v 40 24 = 0) (hadv : fld v 20 12 = 0) :
    exec (.wrsr f) s = .next (State.after
      { s with lease := s.lease.put (s.partOf t) (BitVec.ofNat 64 v) } t t.advance) := by
  obtain ⟨is, hi⟩ : ∃ is, t.active = i :: is := List.head?_eq_some_iff.mp hi
  have hs : s.writeSpecial t 0x20 v = .ok ({ s with lease := s.lease.put (s.partOf t) (BitVec.ofNat 64 v) }, t) := by
    simp [State.writeSpecial, hlen, hadv]
  have hx : f.xt.toNat % 256 = 0x20 := by rw [hn]; rfl
  refine run_ok h (r := (_, _)) ?_
  simp only [hx, hh, quiet_ok hb, ← hw, hc, hi, ← hv, hs, srWritable, bind, Except.bind]
  rfl

/-! ### A Cellar thread that writes LEASE -/

/-- A Cellar thread in a handler, whose task is record 0. -/
def cellarInHandler : Thread :=
  { side := .cellar, role := .any, wg := 0, gidx := 0, width := 1, pc := 0, handler := true, regs := { em := 1 } }

/-- That thread at the issue point: its task belongs to partition 1, and no workgroup and no launch stands. -/
def cellarWritesLease : State :=
  { threads := [(0, cellarInHandler)], tasks := [(0, { Task.absent with part := 1 })] }

/-- WRSR of LEASE from the constant 0. -/
def wrsrLeaseZero : Std := ⟨0, 0, 7, 0, ⟨0, 6, 0, 0⟩, .zero, .zero, 0, 0x20⟩

/-- Refutes O15: its last clause gives LEASE to the partition of the thread's launch whatever the thread is, and a Cellar
thread has none. The model writes the LEASE of its task's partition, here 1 instead of 0. -/
theorem not_specialRegisters : ¬ Obligations.SpecialRegisters := by
  unfold Obligations.SpecialRegisters
  intro h
  obtain ⟨-, -, hwrsr⟩ := h
  have hat : cellarWritesLease.At cellarInHandler := rfl
  have hc : cellarInHandler.canRead wrsrLeaseZero.a (regsOf 64) = .ok ⟨⟩ := rfl
  have hmodel := exec_wrsr_lease (w := 64) hat rfl rfl rfl rfl hc rfl rfl rfl rfl
  obtain ⟨-, hread⟩ := hwrsr cellarWritesLease cellarInHandler wrsrLeaseZero 0 0 64 hat rfl rfl
  obtain ⟨-, hval⟩ := hread hc
  obtain ⟨-, -, -, -, hlease, -⟩ := hval rfl rfl
  have hsame : ([(1, 0)] : Tab W64) = [(0, 0)] :=
    congrArg State.lease (Host.Outcome.next.inj (hmodel.symm.trans (hlease rfl rfl rfl rfl)))
  exact absurd hsame (by decide)

end Sys2Proof.Machine
end

section
/-!
PROOFS. Dumbwaiter rings, the draining of posted stores and fences (O36).
-/

namespace Sys2Proof.Machine

/-! ### Dumbwaiter rings (R379, R380) -/

/-- The cursors after DWACQ: it moves one on, unless the slot was taken at an earlier issue (R380). -/
def State.dwTook (s : State) (t : Thread) (key slots : Nat) : State :=
  if t.dwHeld key then s
  else s.updWg t.wg fun g => { g with cursors := g.cursors.put key (nextSlot slots (s.dwSlot t key)) }

@[simp] theorem State.dwTook_cur (s : State) (t : Thread) (key slots : Nat) : (s.dwTook t key slots).cur = s.cur := by
  unfold State.dwTook
  split <;> rfl

/-- A slot that was taken at an earlier issue stands (R380). -/
theorem State.dwTook_of_taken {s : State} {t : Thread} {key slots j b : Nat}
    (h : t.dwTaken.get? t.at_ = some (key, j, b)) : s.dwSlot t key = (j, b) ∧ s.dwTook t key slots = s := by
  simp [State.dwTook, State.dwSlot, Thread.dwHeld, h]

/-- Otherwise the cursor's slot is taken, and the cursor moves on (R380). -/
theorem State.dwTook_of_cursor {s : State} {t : Thread} {key slots j b : Nat}
    (hn : ∀ e, t.dwTaken.get? t.at_ = some e → e.1 ≠ key) (hc : (s.wgOf t).cursors.getD key (0, 0) = (j, b)) :
    s.dwSlot t key = (j, b) ∧ s.dwTook t key slots = s.updWg t.wg fun g => { g with
      cursors := g.cursors.put key (if j < slots then (j + 1, b) else (0, 1 - b)) } := by
  have hd : s.dwSlot t key = (j, b) := by
    unfold State.dwSlot
    split
    · next e he => rw [if_neg (hn e he), hc]
    · exact hc
  have hh : t.dwHeld key = false := by
    unfold Thread.dwHeld
    split
    · next e he => simpa using hn e he
    · rfl
  simp [State.dwTook, hd, hh, nextSlot]

/-- What DWACQ leaves of a thread that has observed the slot (R380). -/
theorem State.observed_dwResult (s : State) (t : Thread) (h : Header) (dst k j : Nat) :
    (s.observed t).dwResult h dst k j = { (s.observed t).putG dst
      (BitVec.ofNat 64 (0xFFFFFFE000000000 + h.slotAt k j)) with dwTaken := t.dwTaken.del t.at_ } := by
  unfold State.observed
  split <;> rfl

/-- A group that waits at DWACQ for slot `j` of ring `k` to stand for its stage (R380). -/
def Thread.dwWait (t : Thread) (k stage j b dst : Nat) : Thread :=
  { t with status := .dwacq k j b stage dst, dwTaken := t.dwTaken.put t.at_ (4 * k + stage, j, b) }

/-- DWACQ of a full workgroup, by a role that may take the stage (R380). -/
theorem exec_dwacq {s : State} {t : Thread} {f : Eng} {k stage code j b : Nat} {ring : Ring} (h : s.At t)
    (hb : t.busy = false) (hk : k = f.xt.toNat % 8) (hst : stage = f.xt.toNat / 8 % 4)
    (hr : (s.hdrOf t).rings[k]? = some ring) (ho : ring.order[stage]? = some code) (hf : (s.wgOf t).full = true)
    (hrole : stageRole t.role code = true) (hd : s.dwSlot t (4 * k + stage) = (j, b)) :
    (s.slotStands t ring j stage b = true → exec (.dwacq f) s = .next (s.finish (s.dwTook t (4 * k + stage) ring.slots)
      ((s.observed t).dwResult (s.hdrOf t) f.dst.toNat k j))) ∧
    (s.slotStands t ring j stage b = false → exec (.dwacq f) s = .next
      ((s.dwTook t (4 * k + stage) ring.slots).after t (t.dwWait k stage j b f.dst.toNat))) := by
  have hk : fld f.xt.toNat 0 3 = k := by simp [fld, hk]
  have hst : fld f.xt.toNat 3 2 = stage := hst.symm
  have htook : s.dwTook t (4 * k + stage) ring.slots = if t.dwHeld (4 * k + stage) then s
      else s.updWg t.wg fun g => { g with cursors := g.cursors.put (4 * k + stage) (nextSlot ring.slots (j, b)) } := by
    rw [State.dwTook, hd]
  constructor <;> intro hs
  · rw [htook]
    refine run_ok h (r := (_, _)) ?_
    simp only [quiet_ok hb, hk, hst, hr, ho, hf, hrole, hd, hs, bind, Except.bind, Bool.not_true, Bool.false_eq_true,
      if_false, if_true]
    rfl
  · rw [State.after, State.dwTook_cur, htook]
    refine run_ok h (r := (_, t.dwWait k stage j b f.dst.toNat)) ?_
    simp only [quiet_ok hb, hk, hst, hr, ho, hf, hrole, hd, hs, bind, Except.bind, Bool.not_true, Bool.false_eq_true,
      if_false]
    rfl

/-- The slot of a blocked DWACQ stands for its stage (R371, R380). -/
theorem exec_dwacqWake {s : State} {t : Thread} {tid k j b stage dst : Nat} {ring : Ring}
    (ht : s.threads.get? tid = some t) (hst : t.status = .dwacq k j b stage dst)
    (hr : (s.hdrOf t).rings[k]? = some ring) (hs : s.slotStands t ring j stage b = true)
    (hl : s.lost (s.dieOf t) = false) :
    exec (.dwacqWake tid) s = .next (s.wake tid ((s.observed t).dwResult (s.hdrOf t) dst k j)) := by
  show execDwacqWake tid s = _
  simp [execDwacqWake, ht, hst, hr, hs, hl]

/-- An address of the scratchpad's aperture (R207). -/
theorem aperture_scratch {o : Nat} (ho : o < 2 ^ 36) : aperture (baseScr + o) = (.scratch, o) := by
  unfold aperture baseLane baseScr
  rw [if_neg (by omega), if_neg (by omega), if_pos (by omega), Nat.add_sub_cancel_left]

/-- DWREL of a slot whose present stage the role may take (R370, R380). -/
theorem exec_dwrel {s : State} {t : Thread} {f : Eng} {o j : Nat} {ring : Ring} (h : s.At t) (hb : t.busy = false)
    (hc : t.canRead f.a 1 = .ok ⟨⟩) (hf : (s.wgOf t).full = true) (ha : t.uni f.a = baseScr + o) (ho : o < 2 ^ 36)
    (hr : (s.hdrOf t).slotOfByte o = some (ring, j))
    (hrole : stageRole t.role (ring.order.getD
      (((s.wgOf t).bars.getD (ring.nbase + j) .fresh).phase % ring.order.length) 0) = true) :
    exec (.dwrel f) s = .next (s.finish (s.nbAdd t.wg (ring.nbase + j) { a := 1 }) t) := by
  refine run_ok h (r := (_, _)) ?_
  simp only [quiet_ok hb, hc, hf, ha, aperture_scratch ho, Nat.add_sub_cancel_left, hr, hrole, bind, Except.bind, Bool.not_true,
    Bool.false_eq_true, if_false, if_true]
  rfl

/-! ### Posted stores (R399) -/

/-- What a drain makes as new changes only what the window remembers (R399). -/
theorem Thread.drained_eq (t : Thread) (now : Bool → Nat) : ∃ seen posted,
    t.drained now = { t with seen := seen, seenPosted := posted } := by
  unfold Thread.drained
  refine List.foldlRecOn (motive := fun u : Thread => ∃ seen posted, u = { t with seen := seen, seenPosted := posted }) _ _
    ⟨t.seen, _, rfl⟩ ?_
  rintro _ ⟨seen, posted, rfl⟩ e -
  exact ⟨_, _, rfl⟩

/-- A write at a place changes of its thread only the memories that its lanes hold. -/
theorem State.writePlace_thread (s : State) (t : Thread) (p : Place) (bs : List Byte) : ∃ slice stack frame hung,
    (s.writePlace t p bs).2 = { t with slice := slice, stack := stack, frame := frame, hung := hung } := by
  cases p <;> exact ⟨_, _, _, _, rfl⟩

/-- Draining the oldest posted store leaves the later ones and the registers. -/
theorem State.drainOne_thread (s : State) (t : Thread) :
    (s.drainOne t).2.posted = t.posted.tail ∧ (s.drainOne t).2.regs = t.regs := by
  unfold State.drainOne
  cases ht : t.posted with
  | nil => exact ⟨ht, rfl⟩
  | cons e rest =>
    obtain ⟨p, bs⟩ := e
    obtain ⟨slice, stack, frame, hung, hw⟩ := s.writePlace_thread { t with posted := rest } p bs
    obtain ⟨seen, posted, hd⟩ := (s.writePlace { t with posted := rest } p bs).2.drained_eq fun parlour =>
      ((s.writePlace { t with posted := rest } p bs).1.histFor (s.writePlace { t with posted := rest } p bs).2
        parlour).length
    dsimp only
    rw [hd, hw]
    exact ⟨rfl, rfl⟩

/-- Draining `n` posted stores leaves the later ones and the registers. -/
theorem State.drain_thread (s : State) (t : Thread) (n : Nat) :
    (s.drain t n).2.posted = t.posted.drop n ∧ (s.drain t n).2.regs = t.regs := by
  induction n generalizing s t with
  | zero => exact ⟨rfl, rfl⟩
  | succ n ih =>
    obtain ⟨hp, hr⟩ := s.drainOne_thread t
    obtain ⟨hps, hrs⟩ := ih (s.drainOne t).1 (s.drainOne t).2
    exact ⟨by rw [State.drain, hps, hp, List.drop_tail], by rw [State.drain, hrs, hr]⟩

/-! ### Fences (R387, R388) -/

/-- NMFENCE with every REDNM add applied or dropped (R387). -/
theorem exec_nmfence {s : State} {t : Thread} {f : Std} (h : s.At t) (hb : t.busy = false) (hn : t.nmOut = 0) :
    exec (.nmfence f) s = .next (s.after t (({ t with nmDrop := false } : Thread).setCC { t := t.nmDrop }).advance) := by
  refine run_done h ?_ rfl rfl
  simp only [quiet_ok hb, hn, bind, Except.bind]
  rfl

/-- NMFENCE waits for the adds that are out (R387). -/
theorem exec_nmfence_waits {s : State} {t : Thread} {f : Std} (h : s.At t) (hn : t.nmOut ≠ 0) :
    exec (.nmfence f) s = .next s := by
  refine run_stall h ?_
  cases hb : t.busy <;> simp [Thread.quiet, hb, hn, bind, Except.bind]

/-- FENCE waits for a store or an atomic within its scope (R388). -/
theorem exec_fence_waits {s : State} {t : Thread} {f : Std} (h : s.At t)
    (hp : t.pend.any (Pend.within (s.dieOf t) f.op.toNat) = true) : exec (.fence f) s = .next s :=
  run_stall h (if_pos (.inl hp))

/-- FENCE with nothing within its scope outstanding (R388, R399). -/
theorem exec_fence {s : State} {t : Thread} {f : Std} (h : s.At t)
    (hp : t.pend.any (Pend.within (s.dieOf t) f.op.toNat) = false) (hh : t.hung = true → f.op.toNat < 3)
    (hd : s.drainWaits t t.posted.length = false) :
    (t.side ≠ .mcc → exec (.fence f) s = .next (s.after t t.advance)) ∧
    (t.side = .mcc → exec (.fence f) s = .next (s.finish (s.fenceMcc t).1 (s.fenceMcc t).2)) := by
  have hgo : ¬(t.pend.any (Pend.within (s.dieOf t) f.op.toNat) = true ∨ (t.hung = true ∧ 3 ≤ f.op.toNat) ∨
      s.drainWaits t t.posted.length = true) := by
    rintro (hp' | ⟨hh', h3⟩ | hd')
    · rw [hp] at hp'
      cases hp'
    · have := hh hh'
      omega
    · rw [hd] at hd'
      cases hd'
  exact ⟨fun hs => run_done h ((if_neg hgo).trans (if_neg hs)) rfl rfl,
    fun hs => run_ok h (r := (_, _)) ((if_neg hgo).trans (if_pos hs))⟩

/-- Settles O36: each instruction by its own rule. -/
theorem ringsAndFences : Obligations.RingsAndFences := by
  unfold Obligations.RingsAndFences
  refine ⟨?_, ?_, ?_, ?_⟩
  · intro s t f k stage code j b ring h hb hk hst hr ho hf hrole s1 hs1
    obtain ⟨hd, rfl⟩ : s.dwSlot t (4 * k + stage) = (j, b) ∧ s.dwTook t (4 * k + stage) ring.slots = s1 := by
      rcases hs1 with ⟨ht, rfl⟩ | ⟨hn, hc, rfl⟩
      · exact State.dwTook_of_taken ht
      · exact State.dwTook_of_cursor hn hc
    obtain ⟨hstands, hwaits⟩ := exec_dwacq h hb hk hst hr ho hf hrole hd
    exact ⟨fun hs => s.observed_dwResult t _ f.dst.toNat k j ▸ hstands hs, hwaits⟩
  · intro s t tid k j b stage dst ring ht hst hr hs hl
    rw [exec_dwacqWake ht hst hr hs hl, s.observed_dwResult]
    rfl
  · intro s t f o ring j h hb hc hf ha ho hr hrole
    exact exec_dwrel h hb hc hf ha ho hr hrole
  · intro s t f h
    refine ⟨fun hb hn => exec_nmfence h hb hn, fun hn => exec_nmfence_waits h hn, fun hp => exec_fence_waits h hp,
      fun hp hh hd => ?_⟩
    obtain ⟨hwide, hmcc⟩ := exec_fence h hp hh hd
    obtain ⟨hposted, hregs⟩ := s.drain_thread t t.posted.length
    exact ⟨hwide, fun hs => ⟨_, _, rfl, hposted.trans List.drop_length, hregs, hmcc hs⟩⟩

end Sys2Proof.Machine
end

section
/-!
PROOFS. Handing out and placing work: requests, ordinals, the start of a unit, the SRAM split and the Damper (O55).
-/

namespace Sys2Proof.Machine

/-! ### Operations that change cores only -/

/-- Nothing but cores differs. -/
def State.OnlyCores (s s' : State) : Prop := ∃ cores, s' = { s with cores := cores }

theorem State.OnlyCores.refl (s : State) : s.OnlyCores s := ⟨s.cores, rfl⟩

theorem State.OnlyCores.trans {s s1 s2 : State} (h1 : s.OnlyCores s1) (h2 : s1.OnlyCores s2) : s.OnlyCores s2 := by
  obtain ⟨c1, rfl⟩ := h1
  obtain ⟨c2, rfl⟩ := h2
  exact ⟨c2, rfl⟩

theorem State.onlyCores_updCore (s : State) (key : Nat) (f : Core → Core) : s.OnlyCores (s.updCore key f) := ⟨_, rfl⟩

theorem State.onlyCores_foldl {α : Type} {f : State → α → State}
    (h : ∀ (s : State) x, s.OnlyCores (f s x)) (s : State) (xs : List α) : s.OnlyCores (xs.foldl f s) :=
  List.foldlRecOn xs f (.refl s) fun s1 h1 x _ => h1.trans (h s1 x)

theorem State.onlyCores_starveDie (s : State) (die : Nat) : s.OnlyCores (s.starveDie die) := by
  unfold State.starveDie
  split
  · exact .refl s
  · split
    · exact .refl s
    · refine State.onlyCores_foldl (fun s k => ?_) s _
      dsimp only
      split
      · exact s.onlyCores_updCore _ _
      · exact .refl s

theorem State.onlyCores_markDie (s : State) (die : Nat) : s.OnlyCores (s.markDie die) := by
  unfold State.markDie
  split
  · exact .refl s
  · dsimp only
    split
    · exact .refl s
    · refine State.onlyCores_foldl (fun s c => ?_) s _
      split
      · exact State.onlyCores_foldl (fun s k => s.onlyCores_updCore _ _) s _
      · exact .refl s

/-- Starving and marking change cores only (R98, R214). -/
theorem State.onlyCores_mark (s : State) : s.OnlyCores s.mark :=
  State.onlyCores_foldl (fun s d => (s.onlyCores_starveDie d).trans ((s.starveDie d).onlyCores_markDie d)) s _

@[simp] theorem State.mark_mem (s : State) : s.mark.mem = s.mem := by
  obtain ⟨c, h⟩ := s.onlyCores_mark
  rw [h]
@[simp] theorem State.mark_launches (s : State) : s.mark.launches = s.launches := by
  obtain ⟨c, h⟩ := s.onlyCores_mark
  rw [h]
@[simp] theorem State.mark_wgs (s : State) : s.mark.wgs = s.wgs := by
  obtain ⟨c, h⟩ := s.onlyCores_mark
  rw [h]
@[simp] theorem State.mark_threads (s : State) : s.mark.threads = s.threads := by
  obtain ⟨c, h⟩ := s.onlyCores_mark
  rw [h]
@[simp] theorem State.mark_dies (s : State) : s.mark.dies = s.dies := by
  obtain ⟨c, h⟩ := s.onlyCores_mark
  rw [h]
@[simp] theorem State.mark_backing (s : State) : s.mark.backing = s.backing := by
  obtain ⟨c, h⟩ := s.onlyCores_mark
  rw [h]

/-! ### Work requests (R91) -/

/-- A request stands behind those of earlier cycles and, in its cycle, those of lower clusters (R91). -/
theorem joinRequests_eq (rs : List (Nat × Nat)) (now cluster : Nat) : joinRequests rs now cluster =
    (rs.filter fun r => r.1 != now || decide (r.2 < cluster)) ++ (now, cluster) ::
      rs.filter fun r => r.1 == now && decide (cluster ≤ r.2) := by
  have hp : (fun r : Nat × Nat => !(r.1 != now || decide (r.2 < cluster))) =
      fun r => r.1 == now && decide (cluster ≤ r.2) := by
    funext r
    simp [bne, ← decide_not]
  rw [joinRequests, hp]

/-- A cluster that has not asked yet and has room for a unit of the head launch asks for it (R91). -/
theorem exec_workRequest {s : State} {die cluster id : Nat} {l : Launch} (hd : die < 4) (hc : cluster < 36)
    (hl : s.lost die = false) (hp : s.power ≠ .hold) (hs : s.saving (s.partOfDie die) = false)
    (ha : (s.dies.getD die {}).asked cluster = false) (hh : s.head die = some (id, l))
    (hr : s.unitRoom die cluster l.hdr = true) :
    exec (.workRequest die cluster) s = .next (s.updDie die fun d => { d with
      requests := joinRequests d.requests s.clock.toNat cluster }) := by
  have hgo : ¬(4 ≤ die ∨ 36 ≤ cluster ∨ s.lost die = true ∨ s.power = .hold ∨ s.saving (s.partOfDie die) = true ∨
      (s.dies.getD die {}).asked cluster = true) := by
    simp [hl, hp, hs, ha, hd, hc]
  show execWorkRequest die cluster s = _
  simp only [execWorkRequest, hgo, hh, hr, when, if_true, if_false]

/-! ### Ordinals (R86 to R88) -/

/-- An ORDERED launch hands out one unit at a time (R88). -/
theorem takeOrdinals_ordered {l : Launch} (die : Nat) (ho : l.hdr.ordered = true) (hn : l.next < l.hdr.total) :
    takeOrdinals l die = some (l.next, { l with next := l.next + l.hdr.unitSize }) := by
  simp [takeOrdinals, ho, hn]

/-- A die with a chunk hands out the chunk's next unit (R87). -/
theorem takeOrdinals_chunk {l : Launch} {die a b : Nat} (ho : l.hdr.ordered = false) (hc : l.chunk die = (a, b))
    (hab : a < b) :
    takeOrdinals l die = some (a, { l with chunks := Tab.put l.chunks die (a + l.hdr.unitSize, b) }) := by
  simp [takeOrdinals, ho, hc, hab]

/-- A die without one takes a chunk, and hands out its first unit (R87). -/
theorem takeOrdinals_newChunk {l : Launch} {die a b n : Nat} (ho : l.hdr.ordered = false) (hc : l.chunk die = (a, b))
    (hab : b ≤ a) (hn : n = chunkSize l) (h0 : n ≠ 0) :
    takeOrdinals l die = some (l.next, { l with
      next := l.next + n, chunks := Tab.put l.chunks die (l.next + l.hdr.unitSize, l.next + n) }) := by
  subst hn
  simp [takeOrdinals, ho, hc, Nat.not_lt.mpr hab, h0]

/-! ### Kindling (R26, R29, R30) -/

/-- The groups of a matrix launch's middle indices are matrix groups (R26). -/
theorem Header.roleOf_matrix {h : Header} {j : Nat} :
    h.roleOf j = .matrix ↔ h.roleany = false ∧ h.copyn ≤ j ∧ j < h.copyn + h.matn := by
  unfold Header.roleOf
  split_ifs <;> simp_all

/-- A matrix group at its start (R30). -/
theorem Thread.start_matrix {h : Header} {wg j : Nat} (hr : h.roleOf j = .matrix) : Thread.start h wg j =
    { side := .mcc, role := .matrix, wg, gidx := j, width := 1, pc := BitVec.ofNat 64 h.entryM
      regs := { s := Store.set [] 0 (BitVec.ofNat 64 h.args), fmt := h.fmt0, em := 1, stkp := h.kstk * 16 } } := by
  simp [Thread.start, hr, Header.entryOf]

/-- A wide-side group at its start (R30). -/
theorem Thread.start_wide {h : Header} {wg j : Nat} (hr : h.roleOf j ≠ .matrix) : Thread.start h wg j =
    { side := .wide, role := h.roleOf j, wg, gidx := j, width := h.lanes
      pc := BitVec.ofNat 64 (if h.roleany = false ∧ j < h.copyn then h.entryC else h.entryV)
      regs := { g := Store.set [] 0 (BitVec.ofNat 64 h.args), fmt := h.fmt0
                em := BitVec.ofNat 64 (2 ^ h.lanes - 1), stkp := h.kstk * 16 } } := by
  have he : h.entryOf (h.roleOf j) = if h.roleany = false ∧ j < h.copyn then h.entryC else h.entryV := by
    revert hr
    unfold Header.roleOf
    split_ifs <;> simp_all [Header.entryOf]
  simp [Thread.start, hr, he]

/-- The mask of the lowest `n` lanes. -/
theorem getLsbD_lanes {n : Nat} (hn : n ≤ 64) (i : Nat) : (BitVec.ofNat 64 (2 ^ n - 1)).getLsbD i = decide (i < n) := by
  rw [BitVec.getLsbD_ofNat, Nat.testBit_two_pow_sub_one]
  by_cases hi : i < n
  · simp [hi, Nat.lt_of_lt_of_le hi hn]
  · simp [hi]

/-- The lines of a group's argument block count as changed (R213). -/
theorem mem_kindled {h : Header} {i o : Nat} (hi : i < h.groups) (ho : o < 8 * h.argsz) :
    (4096 * i + o) / 128 ∈ kindled h := by
  refine List.mem_flatMap.mpr ⟨i, List.mem_range.mpr hi, ?_⟩
  exact List.mem_map.mpr ⟨(4096 * i + o) / 128 - 4096 * i / 128, List.mem_range.mpr (by omega), by omega⟩

/-! ### Starting a unit (R28, R86, R91) -/

/-- Records put one after another under successive numbers. -/
theorem Tab.get?_foldl_put_range {α : Type} (m : Tab α) (b : Nat) (f : Nat → α) (n k : Nat) :
    ((List.range n).foldl (fun m i => Tab.put m (b + i) (f i)) m).get? k =
      if b ≤ k ∧ k < b + n then some (f (k - b)) else m.get? k := by
  induction n with
  | zero => rw [if_neg (by omega)]; rfl
  | succ n ih =>
    rw [List.range_succ, List.foldl_append, List.foldl_cons, List.foldl_nil]
    by_cases hk : b + n = k
    · subst hk
      rw [Tab.get?_put_same, if_pos (by omega), Nat.add_sub_cancel_left]
    · rw [Tab.get?_put_other _ _ hk, ih]
      congr 1
      simp only [eq_iff_iff]
      omega

/-- A workgroup as a core takes it in (R30, R86, R214). -/
def State.newWg (s : State) (launch : Nat) (l : Launch) (die core unit_ ord : Nat) : Wg :=
  { launch, ord, die, core, unit_, scr := kindling l.hdr l.args, backing := (s.regionFor l.part l.hdr).getD 0
    dirty := kindled l.hdr, pinned := List.range ((4096 * l.hdr.groups + 16383) / 16384) }

section
variable (s : State) (launch : Nat) (l : Launch) (die unit_ ord : Nat)

@[simp] theorem State.startWg_nextId (core : Nat) :
    (s.startWg launch l die core unit_ ord).nextId = s.nextId + 1 + l.hdr.groups := rfl

theorem State.startWg_wgs (core : Nat) : (s.startWg launch l die core unit_ ord).wgs =
    s.wgs.put s.nextId (s.newWg launch l die core unit_ ord) := rfl

theorem State.startWg_thread (core k : Nat) : (s.startWg launch l die core unit_ ord).threads.get? k =
    if s.nextId + 1 ≤ k ∧ k < s.nextId + 1 + l.hdr.groups then
      some (Thread.start l.hdr s.nextId (k - (s.nextId + 1))) else s.threads.get? k :=
  Tab.get?_foldl_put_range ..

/-- Starting workgroups leaves launches, memory and dies. -/
theorem State.startWgs_frame (cluster : Nat) (ks : List Nat) :
    (s.startWgs launch l die cluster unit_ ord ks).launches = s.launches ∧
    (s.startWgs launch l die cluster unit_ ord ks).mem = s.mem ∧
    (s.startWgs launch l die cluster unit_ ord ks).dies = s.dies := by
  induction ks generalizing s ord with
  | nil => exact ⟨rfl, rfl, rfl⟩
  | cons k ks ih => exact ih (s.startWg launch l die (4 * cluster + k) unit_ ord) (ord + 1)

/-- Starting workgroups leaves the records with lower numbers. -/
theorem State.startWgs_old (cluster : Nat) (ks : List Nat) {n : Nat} (hn : n < s.nextId) :
    (s.startWgs launch l die cluster unit_ ord ks).wgs.get? n = s.wgs.get? n ∧
    (s.startWgs launch l die cluster unit_ ord ks).threads.get? n = s.threads.get? n := by
  induction ks generalizing s ord with
  | nil => exact ⟨rfl, rfl⟩
  | cons k ks ih =>
    obtain ⟨hw, ht⟩ := ih (s.startWg launch l die (4 * cluster + k) unit_ ord) (ord + 1)
      (by rw [State.startWg_nextId]; omega)
    rw [State.startWgs, hw, ht, State.startWg_wgs, Tab.get?_put_other _ _ (by omega), State.startWg_thread,
      if_neg (by omega)]
    exact ⟨rfl, rfl⟩

/-- Workgroup `j` of a unit, and its groups, stand under the numbers that come to them (R30, R91). -/
theorem State.startWgs_new (cluster : Nat) (ks : List Nat) {j k n : Nat} (hk : ks[j]? = some k)
    (hn : n = s.nextId + j * (1 + l.hdr.groups)) :
    (∃ s0 : State, (s.startWgs launch l die cluster unit_ ord ks).wgs.get? n =
      some (s0.newWg launch l die (4 * cluster + k) unit_ (ord + j))) ∧
    ∀ i, i < l.hdr.groups → (s.startWgs launch l die cluster unit_ ord ks).threads.get? (n + 1 + i) =
      some (Thread.start l.hdr n i) := by
  induction ks generalizing s ord j with
  | nil => cases hk
  | cons k0 ks ih =>
    rw [State.startWgs]
    cases j with
    | zero =>
      obtain rfl : k0 = k := by simpa using hk
      obtain rfl : n = s.nextId := by omega
      refine ⟨⟨s, ?_⟩, fun i hi => ?_⟩
      · rw [(State.startWgs_old _ _ _ _ _ _ _ _ (by rw [State.startWg_nextId]; omega)).1, State.startWg_wgs,
          Tab.get?_put_same]
        rfl
      · rw [(State.startWgs_old _ _ _ _ _ _ _ _ (by rw [State.startWg_nextId]; omega)).2, State.startWg_thread,
          if_pos (by omega), Nat.add_sub_cancel_left]
    | succ j =>
      have hn' : n = (s.startWg launch l die (4 * cluster + k0) unit_ ord).nextId + j * (1 + l.hdr.groups) := by
        rw [hn, State.startWg_nextId]
        ring
      have := ih (s.startWg launch l die (4 * cluster + k0) unit_ ord) (ord + 1) (by simpa using hk) hn'
      rwa [Nat.add_assoc, Nat.add_comm 1 j] at this

end

/-! ### Dispatch (R91) -/

/-- A change of a die that leaves whether it is lost leaves the launch that is offered. -/
theorem State.head_updDie {s : State} {k : Nat} {f : Die → Die} (hf : ∀ d, (f d).lost = d.lost) (die : Nat) :
    (s.updDie k f).head die = s.head die := by
  have hlost (d : Nat) : (s.updDie k f).lost d = s.lost d := by
    by_cases hd : k = d
    · subst hd
      simp [State.lost, hf]
    · simp [State.lost, Tab.getD_put_other _ _ _ hd]
  have hunits (d : Nat) (h : Header) : (s.updDie k f).dieUnits d h = s.dieUnits d h := by
    simp only [State.dieUnits, hlost]
    rfl
  have hfits (l : Launch) : (s.updDie k f).gridFits l = s.gridFits l := by
    simp only [State.gridFits, hunits]
    rfl
  simp only [State.head, show (s.updDie k f).front die = s.front die from rfl, hfits]

/-- The served request goes. -/
def State.served (s : State) (die : Nat) (r : Nat × Nat) : State :=
  s.updDie die fun d => { d with requests := d.requests.filter (· != r) }

/-- The next request is served with a unit of the head launch (R86, R91). -/
theorem exec_workgroupDispatch {s : State} {die id ord : Nat} {r : Nat × Nat} {ks : List Nat} {l l2 : Launch}
    (hr : s.nextRequest die = some r) (hl : s.lost die = false) (hp : s.power ≠ .hold)
    (hs : s.saving (s.partOfDie die) = false) (hh : s.head die = some (id, l))
    (hk : s.unitPlan l.part die r.2 l.hdr = some ks) (ho : takeOrdinals l die = some (ord, l2)) :
    exec (.workgroupDispatch die) s =
      .next (({ s.served die r with launches := s.launches.put id l2 } : State).startUnit id l2 die r.2 ord ks).mark := by
  have hgo : ¬(s.lost die = true ∨ s.power = .hold ∨ s.saving (s.partOfDie die) = true) := by simp [hl, hp, hs]
  have hh1 : (s.served die r).head die = some (id, l) := by
    rw [State.served, State.head_updDie, hh]
    exact fun _ => rfl
  have hk1 : (s.served die r).unitPlan l.part die r.2 l.hdr = some ks := hk
  show execWorkgroupDispatch die s = _
  unfold execWorkgroupDispatch
  rw [hr]
  dsimp only
  rw [if_neg hgo, ← State.served, hh1]
  dsimp only
  rw [hk1, ho]
  rfl

/-- What the dispatch of a unit leaves (R30, R86, R91, R213). -/
theorem exec_workgroupDispatch_starts {s : State} {die id ord : Nat} {r : Nat × Nat} {ks : List Nat} {l l2 : Launch}
    (hr : s.nextRequest die = some r) (hl : s.lost die = false) (hp : s.power ≠ .hold)
    (hs : s.saving (s.partOfDie die) = false) (hh : s.head die = some (id, l))
    (hk : s.unitPlan l.part die r.2 l.hdr = some ks) (ho : takeOrdinals l die = some (ord, l2)) :
    ∃ s', exec (.workgroupDispatch die) s = .next s' ∧ s'.launches.get? id = some l2 ∧ s'.mem = s.mem ∧
      (s'.dies.getD die {}).requests = (s.dies.getD die {}).requests.filter (· != r) ∧
      ∀ j k n, ks[j]? = some k → n = s.nextId + 1 + j * (1 + l2.hdr.groups) →
        (∃ s0 : State, s'.wgs.get? n = some (s0.newWg id l2 die (4 * r.2 + k) s.nextId (ord + j))) ∧
        ∀ i, i < l2.hdr.groups → s'.threads.get? (n + 1 + i) = some (Thread.start l2.hdr n i) := by
  refine ⟨_, exec_workgroupDispatch hr hl hp hs hh hk ho, ?_, ?_, ?_, fun j k n hj hn => ?_⟩
  all_goals simp only [State.mark_launches, State.mark_mem, State.mark_dies, State.mark_wgs, State.mark_threads]
  all_goals unfold State.startUnit
  · rw [(State.startWgs_frame _ _ _ _ _ _ _ _).1, Tab.get?_put_same]
  · rw [(State.startWgs_frame _ _ _ _ _ _ _ _).2.1]
    rfl
  · rw [(State.startWgs_frame _ _ _ _ _ _ _ _).2.2]
    simp [State.served]
  · exact State.startWgs_new _ _ _ _ _ _ _ _ hj hn

/-! ### The SRAM split (R98) -/

/-- A marked core with nothing resident takes its new split (R98). -/
theorem exec_splitChange {s : State} {core n : Nat} (hm : (s.cores.getD core {}).marked = some n)
    (he : s.wgsOn core = []) :
    exec (.splitChange core) s = .next (s.updCore core fun c => { c with split := n, marked := none }) := by
  show execSplitChange core s = _
  simp [execSplitChange, hm, he, when]

/-! ### The Damper (R93 to R95) -/

/-- Of two neighbours the one with the longer queue sends its tail, where the lengths differ by more than THR, and the
other sends nothing (R94). -/
theorem damperMove_pair {thr x y dx dy : Nat} (h : dy + thr < dx) :
    damperMove thr [(x, dx), (y, dy)] 0 = some (y, min 16 ((dx - dy) / 2)) ∧
    damperMove thr [(x, dx), (y, dy)] 1 = none ∧
    damperMove thr [(y, dy), (x, dx)] 1 = some (y, min 16 ((dx - dy) / 2)) ∧
    damperMove thr [(y, dy), (x, dx)] 0 = none := by
  have hn : ¬(dx + thr < dy) := by omega
  simp [damperMove, h, hn]

/-- The exchange of two dies whose queues differ by more than THR: the tail of the longer one moves (R94, R95). -/
theorem exec_damperExchange_pair {s : State} {part a b x y m : Nat} (hp : part < 4) (hd : s.diesOf part = [a, b])
    (ha : s.lost a = false) (hb : s.lost b = false) (hs : s.saving part = false) (hi : (s.damper part).2 ≠ 0)
    (hxy : x = a ∧ y = b ∨ x = b ∧ y = a)
    (hlt : (s.dies.getD y {}).part.length + (s.damper part).1 < (s.dies.getD x {}).part.length)
    (hm : m = min 16 (((s.dies.getD x {}).part.length - (s.dies.getD y {}).part.length) / 2)) :
    exec (.damperExchange part) s = .next
      ((s.updDie x fun d => { d with part := d.part.take (d.part.length - m) }).updDie y fun d => { d with
        part := d.part ++ (s.dies.getD x {}).part.drop ((s.dies.getD x {}).part.length - m) }) := by
  have hring : (s.diesOf part).filter (fun d => !s.lost d) = [a, b] := by simp [hd, ha, hb]
  have hgo : ¬(4 ≤ part ∨ (s.damper part).2 = 0 ∨ [a, b].length < 2 ∨ s.saving part = true) := by
    simp [hs, hi, hp]
  obtain ⟨h0, h1, h1', h0'⟩ := damperMove_pair (x := x) (y := y) hlt
  have hmoves : ([a, b].zipIdx.filterMap fun d => (damperMove (s.damper part).1
      ([a, b].map fun d => (d, (s.dies.getD d {}).part.length)) d.2).map fun mv => (d.1, mv.1, mv.2)) = [(x, y, m)] := by
    rcases hxy with ⟨rfl, rfl⟩ | ⟨rfl, rfl⟩
    · simp [h0, h1, hm]
    · simp [h0', h1', hm]
  show execDamperExchange part s = _
  simp only [execDamperExchange, hring, hgo, if_false, hmoves]
  simp [appendMoves]

end Sys2Proof.Machine
end

section
/-!
PROOFS. Retiring work: workgroups and their rounds, launches and their signal at DONE (O55).
-/

namespace Sys2Proof.Machine

/-! ### Messages and records leave the work alone -/

/-- Launches, workgroups, groups and backing regions stand as before. -/
structure State.SameWork (s s' : State) : Prop where
  launches : s'.launches = s.launches
  wgs : s'.wgs = s.wgs
  threads : s'.threads = s.threads
  backing : s'.backing = s.backing

theorem State.SameWork.refl (s : State) : s.SameWork s := ⟨rfl, rfl, rfl, rfl⟩

theorem State.SameWork.trans {s s1 s2 : State} (h1 : s.SameWork s1) (h2 : s1.SameWork s2) : s.SameWork s2 :=
  ⟨h2.launches.trans h1.launches, h2.wgs.trans h1.wgs, h2.threads.trans h1.threads, h2.backing.trans h1.backing⟩

theorem State.sameWork_foldl {α : Type} {f : State → α → State} (h : ∀ (s : State) x, s.SameWork (f s x)) (s : State)
    (xs : List α) : s.SameWork (xs.foldl f s) :=
  List.foldlRecOn xs f (.refl s) fun s1 h1 x _ => h1.trans (h s1 x)

theorem State.sameWork_giveLane (s : State) (lane n : Nat) (m : OutMsg) : s.SameWork (s.giveLane lane n m) := by
  unfold State.giveLane
  dsimp only
  split <;> exact ⟨rfl, rfl, rfl, rfl⟩

theorem State.sameWork_spread (s : State) (key : Nat) (us : List Nat) (n : Nat) (m : OutMsg) :
    s.SameWork (s.spread key us n m) :=
  (State.sameWork_foldl (fun s _ => s.sameWork_giveLane _ _ m) s us.zipIdx).trans ⟨rfl, rfl, rfl, rfl⟩

/-- A message for the fabric (R273, R277, R290). -/
theorem State.sameWork_sendMsg (s : State) (m : OutMsg) : s.SameWork (s.sendMsg m) := by
  unfold State.sendMsg
  dsimp only
  split
  · split <;> exact ⟨rfl, rfl, rfl, rfl⟩
  · exact s.sameWork_spread _ _ _ m

theorem State.sameWork_sendAway (s : State) (a : Away) : s.SameWork (s.sendAway a) := by
  refine .trans ?_ (State.sameWork_sendMsg _ _)
  exact ⟨rfl, rfl, rfl, rfl⟩

theorem State.sameWork_porchStore (s : State) (pa : Nat) (bs : List Byte) : s.SameWork (s.porchStore pa bs) := by
  unfold State.porchStore
  dsimp only
  split
  · exact s.sameWork_sendAway _
  · split <;> exact ⟨rfl, rfl, rfl, rfl⟩

theorem State.sameWork_msix (s : State) (vec : Nat) : s.SameWork (s.msix vec) := by
  constructor <;> simp [State.msix]

/-- A record in the ash pan (R421). -/
theorem State.sameWork_post (s : State) (r : AshRec) : s.SameWork (s.post r) := by
  unfold State.post
  dsimp only
  split
  · exact ⟨rfl, rfl, rfl, rfl⟩
  · split
    · exact ⟨rfl, rfl, rfl, rfl⟩
    · refine .trans ?_ (State.sameWork_msix _ 0)
      have hp := s.sameWork_porchStore
      exact ⟨(hp _ _).launches, (hp _ _).wgs, (hp _ _).threads, (hp _ _).backing⟩

/-- The closes of a round (R288). -/
theorem State.sameWork_sendCloses (s : State) (wg : Nat) (tid : Option Nat) (sl : RoundSlot) (reps : List Replica) :
    s.SameWork (s.sendCloses wg tid sl reps) := by
  unfold State.sendCloses
  refine State.sameWork_foldl (fun s p => ?_) s _
  dsimp only
  split
  · exact ⟨rfl, rfl, rfl, rfl⟩
  · exact s.sameWork_sendMsg _

/-! ### The rounds of a workgroup that retires (R442) -/

/-- A round that is not bound needs no close. -/
theorem State.closeRound_unbound (s : State) (wg : Nat) (g : Wg) (l : Launch) {sl : RoundSlot}
    (h : sl.bound = false) : s.closeRound wg g l sl = s := by
  simp [State.closeRound, h]

theorem State.sameWork_closeRound (s : State) (wg : Nat) (g : Wg) (l : Launch) (sl : RoundSlot) :
    s.SameWork (s.closeRound wg g l sl) := by
  unfold State.closeRound
  split
  · exact .refl s
  · dsimp only
    split
    · exact s.sameWork_sendCloses _ _ _ _
    · exact (s.sameWork_sendCloses _ _ _ _).trans (State.sameWork_post _ _)

/-- An expert table that the Hearth can read whole gives the replicas of its entries. -/
theorem State.tableRead_bytes {s : State} {part etab : Nat} {b : Nat → List Byte} {e n : Nat}
    (h : ∀ k, k < n → s.hearthRead part (etab + 64 * (e + k)) 64 = .bytes (b (e + k))) :
    s.tableRead part etab e n =
      ((List.range n).flatMap fun k => entryReplicas (e + k) (ofBytes (b (e + k))), none) := by
  induction n generalizing e with
  | zero => rfl
  | succ n ih =>
    have h0 := h 0 (by omega)
    have hn := ih (e := e + 1) fun k hk => by
      have := h (k + 1) (by omega)
      rwa [show e + (k + 1) = e + 1 + k by omega] at this
    simp only [Nat.add_zero] at h0
    rw [State.tableRead, h0, List.range_succ_eq_map, List.flatMap_cons, List.flatMap_map]
    simp only [hn, Nat.add_zero, Nat.add_assoc, Nat.add_comm 1, Nat.succ_eq_add_one]

/-- A bound round whose table can be read is closed at every replica of its entries (R288, R442). -/
theorem State.closeRound_bound {s : State} {wg : Nat} {g : Wg} {l : Launch} {sl : RoundSlot} {b : Nat → List Byte}
    (hb : sl.bound = true) (h : ∀ e, e ≤ sl.nexp → s.hearthRead l.part (sl.etab + 64 * e) 64 = .bytes (b e)) :
    s.closeRound wg g l sl =
      s.sendCloses wg none sl ((List.range (sl.nexp + 1)).flatMap fun e => entryReplicas e (ofBytes (b e))) := by
  have ht := State.tableRead_bytes (s := s) (part := l.part) (etab := sl.etab) (b := b) (e := 0) (n := sl.nexp + 1)
    fun k hk => by rw [Nat.zero_add]; exact h k (by omega)
  simp only [Nat.zero_add] at ht
  simp [State.closeRound, hb, ht]

/-! ### Workgroups (R441, R442) -/

/-- When a workgroup may retire: its groups have exited and its engine operations have ended (R441). -/
theorem State.mayRetire_iff (s : State) (wg : Nat) (g : Wg) : s.mayRetire wg g = true ↔
    (∀ t ∈ s.threads, t.2.ofWg wg = true → t.2.status = .exited ∧ t.2.posted = [] ∧ t.2.pend = [] ∧ t.2.queries = []) ∧
    g.outstanding = 0 ∧ s.rowsWait wg = false ∧ (∀ c ∈ s.cores, ∀ o ∈ c.2.ops, o.2.wg ≠ wg) ∧
      (∀ o ∈ s.unitOps, o.2.wg ≠ wg) ∧ ∀ o ∈ s.gops, o.2.wg ≠ wg := by
  have hthreads : (s.threads.all fun t => !t.2.ofWg wg || t.2.status == .exited && t.2.posted.isEmpty &&
        t.2.pend.isEmpty && t.2.queries.isEmpty) = true ↔
      ∀ t ∈ s.threads, t.2.ofWg wg = true →
        t.2.status = .exited ∧ t.2.posted = [] ∧ t.2.pend = [] ∧ t.2.queries = [] := by
    simp only [List.all_eq_true, Bool.or_eq_true, Bool.not_eq_true', Bool.and_eq_true, beq_iff_eq,
      List.isEmpty_iff, and_assoc, ← Bool.not_eq_true, ← imp_iff_not_or]
  have hengines : s.enginesDone wg g = true ↔ g.outstanding = 0 ∧ s.rowsWait wg = false ∧
      (∀ c ∈ s.cores, ∀ o ∈ c.2.ops, o.2.wg ≠ wg) ∧ (∀ o ∈ s.unitOps, o.2.wg ≠ wg) ∧ ∀ o ∈ s.gops, o.2.wg ≠ wg := by
    simp only [State.enginesDone, Bool.and_eq_true, beq_iff_eq, Bool.not_eq_true', List.all_eq_true, bne_iff_ne,
      and_assoc]
  rw [State.mayRetire, Bool.and_eq_true, hthreads, hengines]

/-- The rounds of a workgroup closed one after another. -/
def State.closeRounds (s : State) (wg : Nat) (g : Wg) (l : Launch) : State :=
  g.rounds.vals.foldl (fun s sl => s.closeRound wg g l sl) s

theorem State.sameWork_closeRounds (s : State) (wg : Nat) (g : Wg) (l : Launch) :
    s.SameWork (s.closeRounds wg g l) :=
  State.sameWork_foldl (fun s sl => s.sameWork_closeRound wg g l sl) s _

/-- Where no round is bound nothing is sent. -/
theorem State.closeRounds_unbound (s : State) (wg : Nat) {g : Wg} (l : Launch) (h : ∀ x ∈ g.rounds, x.2.bound = false) :
    s.closeRounds wg g l = s := by
  refine List.foldlRecOn (motive := fun s1 : State => s1 = s) _ _ rfl ?_
  rintro _ rfl sl hsl
  obtain ⟨x, hx, rfl⟩ := List.mem_map.mp hsl
  exact State.closeRound_unbound _ wg g l (h x hx)

/-- The package after a workgroup has closed its rounds and released what it held, and cores are fed again (R214,
R442). -/
def State.retired (s : State) (wg : Nat) (g : Wg) (l : Launch) : State :=
  (((s.closeRounds wg g l).release wg g).feed l.part).mark

/-- A workgroup that may retire retires (R442). -/
theorem exec_workgroupRetire {s : State} {wg : Nat} {g : Wg} {l : Launch} (hg : s.wgs.get? wg = some g)
    (hl : s.launches.get? g.launch = some l) (hr : s.mayRetire wg g = true) :
    exec (.workgroupRetire wg) s = .next (s.retired wg g l) := by
  have hlw : s.launchOfWg g = l := by simp [State.launchOfWg, Tab.getD, hl]
  show execWorkgroupRetire wg s = _
  simp only [execWorkgroupRetire, hg, hr, hlw, Bool.not_true, Bool.false_eq_true, if_false]
  rfl

/-- A launch counts a workgroup that has retired, as completed or as killed (R445). -/
def Launch.count (l : Launch) (killed : Bool) : Launch :=
  if killed then { l with nkill := satAdd 32 l.nkill 1 } else { l with nwg := satAdd 32 l.nwg 1 }

/-- What is left of a workgroup that has retired: nothing but its launch's count (R214, R442, R445). -/
theorem State.retired_frees {s : State} {wg : Nat} {g : Wg} {l : Launch} (hl : s.launches.get? g.launch = some l) :
    (s.retired wg g l).wgs.get? wg = none ∧ (∀ e ∈ (s.retired wg g l).threads, e.2.ofWg wg = false) ∧
    (∀ r ∈ (s.retired wg g l).backing, r.1 ≠ g.backing) ∧
    (s.retired wg g l).launches.get? g.launch = some (l.count g.killed) ∧
    (s.retired wg g l).mem = (s.closeRounds wg g l).mem := by
  have hsame := s.sameWork_closeRounds wg g l
  simp only [State.retired, State.mark_launches, State.mark_mem, State.mark_backing, State.mark_wgs,
    State.mark_threads, State.feed, State.release, hsame.launches]
  refine ⟨Tab.get?_del_same .., fun e he => ?_, fun r hr => ?_, ?_, trivial⟩
  · simpa using (List.mem_filter.mp he).2
  · simpa using (List.mem_filter.mp hr).2
  · rw [Tab.get?_upd_same, hl]
    rfl

/-! ### Launches (R443 to R445) -/

/-- A launch with every ordinal handed out and no workgroup left goes, and its end is signalled at DONE (R443, R444). -/
theorem exec_launchComplete {s : State} {id : Nat} {l : Launch} (hl : s.launches.get? id = some l)
    (hh : l.handedOut = true) (hg : ∀ g ∈ s.wgs, g.2.launch ≠ id) :
    exec (.launchComplete id) s =
      .next ((({ s with launches := s.launches.del id } : State).signalDone (l.signal s.time.toNat)).mark) := by
  have hany : (s.wgs.any fun g => g.2.launch == id) = false := by simpa using fun k g hkg => hg (k, g) hkg
  show execLaunchComplete id s = _
  simp only [execLaunchComplete, hl, hh, hany, Bool.not_true, Bool.or_self, Bool.false_eq_true, if_false]

/-! ### The signal at DONE (R444) -/

/-- A DONE of 0 is not signalled. -/
theorem State.signalDone_none {s : State} {x : Signal} (h : x.done = 0) : s.signalDone x = s := if_pos h

/-- A misaligned DONE takes DONE_FAULT (log 86). -/
theorem State.signalDone_misaligned {s : State} {x : Signal} (h0 : x.done ≠ 0) (h : x.done % 64 ≠ 0) :
    s.signalDone x = s.signalFault x := by
  rw [State.signalDone, if_neg h0, if_pos h]

/-- An aligned DONE that nothing holds up is signalled at once. -/
theorem State.signalDone_now {s : State} {x : Signal} (h0 : x.done ≠ 0) (h : x.done % 64 = 0) (hd : s.hearthDue = [])
    (hw : s.hearthWaits x.part x.done = false) (hw' : s.hearthWaits x.part (x.done + 64) = false) :
    s.signalDone x = s.signalNow x := by
  have hheld : s.hearthHeld (doneChain x.done) x.part x.done = false := by
    simp [State.hearthHeld, blockedBy, hd, hw]
  rw [State.signalDone, if_neg h0, if_neg (by omega), if_neg (by simp [hheld, hw'])]

/-- Where one half of DONE cannot be stored to, DONE_FAULT is posted. -/
theorem State.signalNow_fault {s : State} {x : Signal} (h : s.doneAt x.part x.done = .fault ∨
    s.doneAt x.part x.done = .ok ∧ s.doneAt x.part (x.done + 64) = .fault) : s.signalNow x = s.signalFault x := by
  rcases h with h | ⟨h, h'⟩
  · simp [State.signalNow, h]
  · simp [State.signalNow, h, h']

/-- The record stands at DONE + 64 before the arrival at DONE, which the message follows. -/
theorem State.signalNow_here {s : State} {x : Signal} {a b : Nat} (h : s.doneAt x.part x.done = .ok)
    (h' : s.doneAt x.part (x.done + 64) = .ok) (hb : s.hearthPlace x.part .store (x.done + 64) = some (.phys b))
    (h1 : (s.putPhys b (toBytes x.word 64)).doneAt x.part x.done = .ok)
    (ha : (s.putPhys b (toBytes x.word 64)).hearthPlace x.part .store x.done = some (.phys a)) :
    s.signalNow x = ((s.putPhys b (toBytes x.word 64)).putPhysNat a 64
      ((Bar.ofWord ((s.putPhys b (toBytes x.word 64)).mem.getNat a 64)).add
        { a := 1, v := x.nwg, e := x.err }).word).signalMsix x := by
  simp [State.signalNow, State.signalAdd, h, h', hb, h1, ha]

end Sys2Proof.Machine
end

section
/-!
PROOFS. HKILL: what ending the groups of a launch leaves of launches, workgroups and groups (O55).
-/

namespace Sys2Proof.Machine

/-! ### Records of tables -/

theorem Tab.mem_of_get? {α : Type} {m : Tab α} {k : Nat} {v : α} (h : m.get? k = some v) : (k, v) ∈ m := by
  induction m with
  | nil => cases h
  | cons e m ih =>
    unfold Tab.get? at h
    split at h
    · next hk =>
      cases h
      rw [← hk]
      exact List.mem_cons_self
    · exact List.mem_cons_of_mem _ (ih h)

/-- A change of records that keeps their numbers. -/
theorem Tab.get?_map {α : Type} (m : Tab α) (f : α → α) (k : Nat) :
    Tab.get? (m.map fun e => (e.1, f e.2)) k = (m.get? k).map f := by
  induction m with
  | nil => rfl
  | cons e m ih =>
    simp only [List.map_cons, Tab.get?]
    split
    · rfl
    · exact ih

/-- A fold whose every step keeps a reflexive and transitive relation passes through the step of each member. -/
theorem foldl_through {α σ : Type} {R : σ → σ → Prop} {f : σ → α → σ} (hr : ∀ s, R s s)
    (ht : ∀ {a b c}, R a b → R b c → R a c) (hf : ∀ s x, R s (f s x)) (s : σ) {xs : List α} {x : α} (hx : x ∈ xs) :
    ∃ s1, R s s1 ∧ R (f s1 x) (xs.foldl f s) := by
  have hfold (s : σ) (xs : List α) : R s (xs.foldl f s) :=
    List.foldlRecOn xs f (hr s) fun s1 h1 x _ => ht h1 (hf s1 x)
  obtain ⟨as, bs, rfl⟩ := List.append_of_mem hx
  refine ⟨as.foldl f s, hfold s as, ?_⟩
  rw [List.foldl_append, List.foldl_cons]
  exact hfold _ bs

/-! ### What HKILL keeps -/

/-- A launch hands out no more and is marked as ended by HKILL (R418, log 47). -/
def Launch.Ended (l : Launch) : Prop := l.killed = true ∧ l.next = l.hdr.total ∧ l.chunks = []

/-- A group of a workgroup has not exited. -/
def State.alive (s : State) (wg : Nat) : Bool := s.threads.any fun t => t.2.ofWg wg && t.2.status != .exited

theorem State.alive_iff {s : State} {wg : Nat} :
    s.alive wg = true ↔ ∃ e ∈ s.threads, e.2.ofWg wg = true ∧ e.2.status ≠ .exited := by
  simp only [State.alive, List.any_eq_true, Bool.and_eq_true, bne_iff_ne]

/-- Every launch, workgroup and group stands under its number; an ended launch stays ended and an exited group exited; and
a workgroup counts as killed, or still has a group left to end, exactly where it did before. -/
structure State.Kills (s s' : State) : Prop where
  launch : ∀ {id l}, s.launches.get? id = some l → ∃ l', s'.launches.get? id = some l' ∧ l'.hdr = l.hdr ∧
    (l.Ended → l'.Ended)
  wg : ∀ {wg g}, s.wgs.get? wg = some g → ∃ g', s'.wgs.get? wg = some g' ∧ g'.launch = g.launch ∧
    (g'.killed || s'.alive wg) = (g.killed || s.alive wg)
  thread : ∀ {tid t}, s.threads.get? tid = some t → ∃ t', s'.threads.get? tid = some t' ∧
    ∀ wg, t'.ofWg wg = t.ofWg wg
  dead : ∀ {wg}, s.alive wg = false → s'.alive wg = false

theorem State.Kills.refl (s : State) : s.Kills s :=
  ⟨fun h => ⟨_, h, rfl, id⟩, fun h => ⟨_, h, rfl, rfl⟩, fun h => ⟨_, h, fun _ => rfl⟩, id⟩

theorem State.Kills.trans {s s1 s2 : State} (h1 : s.Kills s1) (h2 : s1.Kills s2) : s.Kills s2 where
  launch h := by
    obtain ⟨l1, g1, e1, k1⟩ := h1.launch h
    obtain ⟨l2, g2, e2, k2⟩ := h2.launch g1
    exact ⟨l2, g2, e2.trans e1, k2 ∘ k1⟩
  wg h := by
    obtain ⟨x1, g1, e1, k1⟩ := h1.wg h
    obtain ⟨x2, g2, e2, k2⟩ := h2.wg g1
    exact ⟨x2, g2, e2.trans e1, k2.trans k1⟩
  thread h := by
    obtain ⟨t1, g1, e1⟩ := h1.thread h
    obtain ⟨t2, g2, e2⟩ := h2.thread g1
    exact ⟨t2, g2, fun wg => (e2 wg).trans (e1 wg)⟩
  dead h := h2.dead (h1.dead h)

/-! ### Aborting engine operations -/

/-- Groups stand as before; launches but for their bytes, and workgroups but for their barriers. -/
structure State.OnlyOps (s s' : State) : Prop where
  launch : ∀ {id l}, s.launches.get? id = some l → ∃ n, s'.launches.get? id = some { l with ebytes := n }
  wg : ∀ {wg g}, s.wgs.get? wg = some g → ∃ bars, s'.wgs.get? wg = some { g with bars := bars }
  threads : s'.threads = s.threads

theorem State.OnlyOps.refl (s : State) : s.OnlyOps s := ⟨fun h => ⟨_, h⟩, fun h => ⟨_, h⟩, rfl⟩

theorem State.OnlyOps.trans {s s1 s2 : State} (h1 : s.OnlyOps s1) (h2 : s1.OnlyOps s2) : s.OnlyOps s2 where
  launch h := by
    obtain ⟨n1, g1⟩ := h1.launch h
    obtain ⟨n2, g2⟩ := h2.launch g1
    exact ⟨n2, g2⟩
  wg h := by
    obtain ⟨b1, g1⟩ := h1.wg h
    obtain ⟨b2, g2⟩ := h2.wg g1
    exact ⟨b2, g2⟩
  threads := h2.threads.trans h1.threads

theorem State.onlyOps_foldl {α : Type} {f : State → α → State} (h : ∀ (s : State) x, s.OnlyOps (f s x)) (s : State)
    (xs : List α) : s.OnlyOps (xs.foldl f s) :=
  List.foldlRecOn xs f (.refl s) fun s1 h1 x _ => h1.trans (h s1 x)

theorem State.onlyOps_nbAdd (s : State) (wg nb : Nat) (n : Addition) : s.OnlyOps (s.nbAdd wg nb n) where
  launch h := ⟨_, h⟩
  wg {k g} h := by
    by_cases hk : wg = k
    · subst hk
      exact ⟨_, by rw [State.nbAdd, State.updWg_wgs, Tab.get?_upd_same, h]; rfl⟩
    · exact ⟨g.bars, by rw [State.nbAdd, State.updWg_wgs, Tab.get?_upd_other _ _ hk, h]⟩
  threads := rfl

theorem State.onlyOps_addBytes (s : State) (wg n : Nat) : s.OnlyOps (s.addBytes wg n) where
  launch {id l} h := by
    by_cases hk : (s.wgs.getD wg .absent).launch = id
    · exact ⟨_, by rw [State.addBytes, hk, Tab.get?_upd_same, h]; rfl⟩
    · exact ⟨l.ebytes, by rw [State.addBytes, Tab.get?_upd_other _ _ hk, h]⟩
  wg h := ⟨_, h⟩
  threads := rfl

theorem State.onlyOps_opAddition (s : State) (op : EngOp) (err : Bool) : s.OnlyOps (s.opAddition op err) := by
  unfold State.opAddition
  split
  · exact .refl s
  · split <;> exact s.onlyOps_nbAdd _ _ _

theorem State.onlyOps_finishOp (s : State) (key ticket : Nat) (op : EngOp) (err : Bool) :
    s.OnlyOps (s.finishOp key ticket op err) := by
  refine .trans ?_ (State.onlyOps_opAddition _ op err)
  split
  · exact ⟨fun h => ⟨_, h⟩, fun h => ⟨_, h⟩, rfl⟩
  · refine .trans ?_ (State.onlyOps_addBytes _ _ _)
    exact ⟨fun h => ⟨_, h⟩, fun h => ⟨_, h⟩, rfl⟩

/-- The operations of a workgroup end with error status; nothing else of the work changes (R418). -/
theorem State.onlyOps_abortOps (s : State) (wg : Nat) : s.OnlyOps (s.abortOps wg) := by
  have hops : s.OnlyOps (s.cores.foldl (fun s c => (c.2.ops.filter fun o => o.2.wg == wg).foldl (fun s o =>
      s.finishOp c.1 o.1 o.2 true) s) s) :=
    State.onlyOps_foldl (fun s c => State.onlyOps_foldl (fun s _ => s.onlyOps_finishOp _ _ _ true) s _) s _
  exact ⟨hops.launch, hops.wg, hops.threads⟩

/-! ### Ending a workgroup and a launch -/

theorem Thread.kill_ofWg (t : Thread) (wg : Nat) : t.kill.ofWg wg = t.ofWg wg := rfl

theorem Thread.kill_status (t : Thread) : t.kill.status = .exited := rfl

/-- A group after its workgroup has been ended. -/
def Thread.killIn (wg : Nat) (t : Thread) : Thread := if t.ofWg wg then t.kill else t

theorem Thread.killIn_ofWg (wg k : Nat) (t : Thread) : (t.killIn wg).ofWg k = t.ofWg k := by
  unfold Thread.killIn
  split
  · exact t.kill_ofWg k
  · rfl

/-- A workgroup after it has been ended: it counts as killed where a group was left to end (R445). -/
def State.killedWg (s : State) (wg : Nat) (g : Wg) : Wg :=
  { g with killed := g.killed || s.alive wg
           outstanding := g.outstanding - (s.nmAdds.filter fun a => a.2.wg == wg).length }

theorem State.killWg_threads (s : State) (wg : Nat) :
    (s.killWg wg).threads = s.threads.map fun e => (e.1, e.2.killIn wg) := by
  have h : (s.killWg wg).threads =
      (s.abortOps wg).threads.map fun e => if e.2.ofWg wg then (e.1, e.2.kill) else e := rfl
  rw [h, (s.onlyOps_abortOps wg).threads]
  refine List.map_congr_left fun e _ => ?_
  unfold Thread.killIn
  split <;> rfl

theorem State.killWg_wgs (s : State) (wg : Nat) :
    (s.killWg wg).wgs = (s.abortOps wg).wgs.upd wg (s.killedWg wg) := by
  have ha : ((s.threads.filter fun t => t.2.ofWg wg).any fun t => t.2.status != .exited) = s.alive wg := List.any_filter ..
  unfold State.killedWg
  rw [← ha]
  rfl

/-- No group of the workgroup is left; the groups of the others are as they were. -/
theorem State.alive_killWg (s : State) (wg k : Nat) : (s.killWg wg).alive k = (s.alive k && wg != k) := by
  rw [State.alive, State.killWg_threads, List.any_map]
  by_cases hk : wg = k
  · subst hk
    simp only [bne_self_eq_false, Bool.and_false]
    refine List.any_eq_false.mpr fun e _ => ?_
    cases he : e.2.ofWg wg <;> simp [Thread.killIn, he, Thread.kill_status]
  · have hne : (wg != k) = true := by simpa using hk
    rw [hne, Bool.and_true, State.alive]
    refine congrArg s.threads.any (funext fun e => ?_)
    cases he : e.2.ofWg wg
    · simp [Thread.killIn, he]
    · have hek : e.2.ofWg k = false := by
        have : e.2.wg = wg := by simp [Thread.ofWg] at he; exact he.2
        simp [Thread.ofWg, this, hk]
      simp [Thread.killIn_ofWg, hek]

theorem State.kills_killWg (s : State) (wg : Nat) : s.Kills (s.killWg wg) where
  launch h := by
    obtain ⟨n, h'⟩ := (s.onlyOps_abortOps wg).launch h
    exact ⟨_, h', rfl, id⟩
  wg {k g} h := by
    obtain ⟨bars, h'⟩ := (s.onlyOps_abortOps wg).wg h
    rw [State.killWg_wgs, State.alive_killWg]
    by_cases hk : wg = k
    · subst hk
      exact ⟨s.killedWg wg { g with bars := bars }, by rw [Tab.get?_upd_same, h']; rfl, rfl, by simp [State.killedWg]⟩
    · exact ⟨{ g with bars := bars }, by rw [Tab.get?_upd_other _ _ hk, h'], rfl, by rw [bne_iff_ne.mpr hk, Bool.and_true]⟩
  thread {tid t} h := ⟨_, by rw [State.killWg_threads, Tab.get?_map, h]; rfl, fun k => t.killIn_ofWg wg k⟩
  dead h := by rw [State.alive_killWg, h]; rfl

/-- A launch after it has been ended (R418, log 47). -/
def Launch.ended (l : Launch) : Launch := { l with next := l.hdr.total, chunks := [], killed := true }

/-- The workgroups of a launch ended one after another. -/
def State.killWgs (s : State) (id : Nat) : State :=
  ((s.wgs.filter fun g => g.2.launch == id).map (·.1)).foldl State.killWg s

theorem State.kills_killWgs (s : State) (id : Nat) : s.Kills (s.killWgs id) :=
  List.foldlRecOn _ _ (.refl s) fun s1 h1 wg _ => h1.trans (s1.kills_killWg wg)

/-- Of a launch that is ended no workgroup has a group left. -/
theorem State.killWgs_dead {s : State} {id wg : Nat} {g : Wg} (hg : s.wgs.get? wg = some g) (hl : g.launch = id) :
    (s.killWgs id).alive wg = false := by
  have hmem : wg ∈ (s.wgs.filter fun g => g.2.launch == id).map (·.1) :=
    List.mem_map.mpr ⟨(wg, g), List.mem_filter.mpr ⟨Tab.mem_of_get? hg, by simpa using hl⟩, rfl⟩
  obtain ⟨s1, -, h⟩ := foldl_through State.Kills.refl .trans State.kills_killWg s hmem
  exact h.dead (by simp [State.alive_killWg])

theorem State.killLaunch_eq (s : State) (id : Nat) :
    s.killLaunch id = { s.killWgs id with launches := (s.killWgs id).launches.upd id Launch.ended } := rfl

/-- Marking a launch as ended. -/
theorem State.kills_ended (s : State) (n : Nat) :
    s.Kills { s with launches := s.launches.upd n Launch.ended } where
  launch {k l} h := by
    by_cases hk : n = k
    · subst hk
      exact ⟨l.ended, by rw [Tab.get?_upd_same, h]; rfl, rfl, fun _ => ⟨rfl, rfl, rfl⟩⟩
    · exact ⟨l, by rw [Tab.get?_upd_other _ _ hk, h], rfl, id⟩
  wg h := ⟨_, h, rfl, rfl⟩
  thread h := ⟨_, h, fun _ => rfl⟩
  dead h := h

theorem State.kills_killLaunch (s : State) (id : Nat) : s.Kills (s.killLaunch id) :=
  (s.kills_killWgs id).trans ((s.killWgs id).kills_ended id)

theorem State.kills_killLaunches (s : State) (ids : List Nat) : s.Kills (ids.foldl State.killLaunch s) :=
  List.foldlRecOn _ _ (.refl s) fun s1 h1 id _ => h1.trans (s1.kills_killLaunch id)

/-- A launch that is ended dispatches no more. -/
theorem State.killLaunch_launch {s : State} {id : Nat} {l : Launch} (h : s.launches.get? id = some l) :
    ∃ l', (s.killLaunch id).launches.get? id = some l' ∧ l'.hdr = l.hdr ∧ l'.Ended := by
  obtain ⟨l1, h1, e1, -⟩ := (s.kills_killWgs id).launch h
  exact ⟨l1.ended, by rw [State.killLaunch_eq, Tab.get?_upd_same, h1]; rfl, e1, rfl, rfl, rfl⟩

/-! ### HKILL (R418) -/

/-- The launches of a partition whose tag is HKTAG's. -/
def State.hkillIds (s : State) (part : Nat) : List Nat :=
  (s.launches.filter fun l => l.2.part == part && l.2.hdr.tag == s.hr 0x4B8).map (·.1)

theorem exec_hkillGo {s : State} {part : Nat} (hp : part < 4) :
    exec (.hkillGo part) s = .next ((s.hkillIds part).foldl State.killLaunch s) := by
  show execHkillGo part s = _
  rw [execHkillGo, if_neg (by omega)]
  rfl

/-- What HKILL leaves of a launch that it ends, and of that launch's workgroups and groups (R418, R445). -/
theorem State.hkill_spec {s : State} {ids : List Nat} {id : Nat} {l : Launch} (hid : id ∈ ids)
    (hl : s.launches.get? id = some l) :
    (∃ l', (ids.foldl State.killLaunch s).launches.get? id = some l' ∧ l'.hdr = l.hdr ∧ l'.Ended) ∧
    ∀ {wg g}, s.wgs.get? wg = some g → g.launch = id → (ids.foldl State.killLaunch s).alive wg = false ∧
      ∃ g', (ids.foldl State.killLaunch s).wgs.get? wg = some g' ∧ g'.killed = (g.killed || s.alive wg) := by
  obtain ⟨s1, h1, h2⟩ := foldl_through State.Kills.refl .trans State.kills_killLaunch s hid
  refine ⟨?_, fun {wg g} hg hgl => ?_⟩
  · obtain ⟨l1, g1, e1, -⟩ := h1.launch hl
    obtain ⟨l2, g2, e2, k2⟩ := State.killLaunch_launch g1
    obtain ⟨l3, g3, e3, k3⟩ := h2.launch g2
    exact ⟨l3, g3, e3.trans (e2.trans e1), k3 k2⟩
  · obtain ⟨g1, hg1, e1, -⟩ := h1.wg hg
    have hdead := h2.dead (State.killWgs_dead hg1 (e1.trans hgl))
    obtain ⟨g2, hg2, -, k2⟩ := (h1.trans ((s1.kills_killLaunch id).trans h2)).wg hg
    rw [hdead, Bool.or_false] at k2
    exact ⟨hdead, g2, hg2, k2⟩

/-- A group of a workgroup with none left to end has exited. -/
theorem State.exited_of_dead {s : State} {tid wg : Nat} {t : Thread} (h : s.alive wg = false)
    (ht : s.threads.get? tid = some t) (ho : t.ofWg wg = true) : t.status = .exited := by
  have := List.any_eq_false.mp h _ (Tab.mem_of_get? ht)
  simpa [ho] using this

end Sys2Proof.Machine
end

section
/-!
PROOFS. Work is placed and retires, clause by clause (O55).
-/

namespace Sys2Proof.Machine

/-- Settles O55: requests, dispatch, ordinals, starting groups, the split and the Damper, then retirement, completion, the
signal and HKILL. -/
theorem workIsPlacedAndRetires : Obligations.WorkIsPlacedAndRetires := by
  unfold Obligations.WorkIsPlacedAndRetires
  refine ⟨?_, ?_, ?_, ?_, ?_, ?_, ?_, ?_, ?_, ?_, ?_, ?_⟩
  · rintro s die cluster id now l _ hd hc hl hp hs rfl ha hh hr rfl
    have ha : (s.dies.getD die {}).asked cluster = false := by simpa [Die.asked] using fun a b hab => ha (a, b) hab
    rw [exec_workRequest hd hc hl hp hs ha hh hr]
    simp only [joinRequests_eq]
    rfl
  · intro s die id ord r ks l l2 hr hl hp hs hh hk ho
    obtain ⟨s', hx, hlaunch, hmem, hreq, hnew⟩ := exec_workgroupDispatch_starts hr hl hp hs hh hk ho
    refine ⟨s', hx, hlaunch, hmem, hreq, fun j k n hj hn => ?_⟩
    obtain ⟨⟨s0, hwg⟩, hthreads⟩ := hnew j k n hj hn
    exact ⟨⟨_, hwg, rfl, rfl, rfl, rfl, rfl, rfl, rfl, fun i o hi ho => mem_kindled hi ho⟩, hthreads⟩
  · rintro l die _ a b rfl hc
    exact ⟨takeOrdinals_ordered die, fun ho hab => takeOrdinals_chunk ho hc hab,
      fun n ho hab hn h0 => takeOrdinals_newChunk ho hc hab hn h0⟩
  · intro h wg j
    by_cases hm : h.roleOf j = .matrix
    · rw [Thread.start_matrix hm]
      exact ⟨rfl, rfl, rfl, rfl, rfl, rfl, fun _ => ⟨rfl, rfl, Store.get_set_same ..⟩,
        fun hn => absurd (Header.roleOf_matrix.mp hm) hn⟩
    · rw [Thread.start_wide hm]
      exact ⟨rfl, rfl, rfl, rfl, rfl, rfl, fun hy => absurd (Header.roleOf_matrix.mpr hy) hm,
        fun _ => ⟨rfl, rfl, Store.get_set_same .., fun hw i => getLsbD_lanes hw i, rfl⟩⟩
  · exact fun s core n hm he => exec_splitChange hm he
  · intro s part a b m hp hd hab hla hlb hs hi x y hxy hlt hm
    have hne : x ≠ y := by
      rcases hxy with ⟨rfl, rfl⟩ | ⟨rfl, rfl⟩
      · exact hab
      · exact hab.symm
    refine ⟨_, exec_damperExchange_pair hp hd hla hlb hs hi hxy hlt hm, rfl, ?_, ?_⟩
    · simp [Tab.getD_put_other _ _ _ hne.symm]
    · simp [Tab.getD_put_other _ _ _ hne]
  · exact State.mayRetire_iff
  · intro s wg g l hg hl hr
    obtain ⟨hwgs, hthreads, hbacking, hlaunches, hmem⟩ := s.retired_frees (wg := wg) hl
    refine ⟨_, _, exec_workgroupRetire hg hl hr, rfl, hwgs, hthreads, hbacking, hlaunches, ?_, ?_, fun hu => ?_⟩
    · exact fun hk => by simp [hk, Launch.count, satAdd]
    · exact fun hk => by simp [hk, Launch.count, satAdd]
    · rw [hmem, s.closeRounds_unbound wg l hu]
  · exact fun s wg g l sl => ⟨s.closeRound_unbound wg g l, fun b hb h => State.closeRound_bound hb h⟩
  · rintro s _ id _ l _ hl hh hg rfl rfl rfl
    exact ⟨exec_launchComplete hl hh hg, by simp [Tab.get?_del_same]⟩
  · rintro s _ x msix hmsix rfl
    have hfault : s.signalFault x = msix (s.post { code := 0x18, part := x.part, addr := x.done, tag := x.tag }) :=
      (hmsix _).symm
    refine ⟨State.signalDone_none, fun h0 ha => (State.signalDone_misaligned h0 ha).trans hfault,
      fun h0 ha hd hw hw' => ?_⟩
    rw [State.signalDone_now h0 ha hd hw hw']
    refine ⟨fun hf => (State.signalNow_fault hf).trans hfault, ?_⟩
    rintro a b _ ha hb hpb rfl h1 hpa
    exact (State.signalNow_here ha hb hpb h1 hpa).trans (hmsix _).symm
  · intro s part hp
    refine ⟨_, exec_hkillGo hp, fun id l hl hlp htag => ?_⟩
    have hid : id ∈ s.hkillIds part :=
      List.mem_map.mpr ⟨(id, l), List.mem_filter.mpr ⟨Tab.mem_of_get? hl, by simp [hlp, htag]⟩, rfl⟩
    obtain ⟨⟨l', hl', hhdr, hkilled, hnext, hchunks⟩, hwgs⟩ := State.hkill_spec hid hl
    refine ⟨⟨l', hl', hkilled, hhdr ▸ hnext, hchunks⟩, fun wg g tid t hg hgl ht ho => ?_⟩
    obtain ⟨hdead, g', hg', hk⟩ := hwgs hg hgl
    obtain ⟨t', ht', ho'⟩ := (s.kills_killLaunches (s.hkillIds part)).thread ht
    refine ⟨⟨t', ht', State.exited_of_dead hdead ht' ((ho' wg).trans ho)⟩, g', hg', ?_⟩
    rw [hk, Bool.or_eq_true, State.alive_iff]

end Sys2Proof.Machine
end

section
/-!
PROOFS. Mask instructions and the mode registers (O24).
-/

namespace Sys2Proof.Machine

/-! ### Bits of a number -/

theorem tb_eq_testBit (v i : Nat) : tb v i = v.testBit i := by
  rw [tb, Nat.testBit_eq_decide_div_mod_eq, beq_eq_decide]

/-- A population count counts the bits that are set. -/
theorem popcount_eq (v n : Nat) : popcount v n = ((List.range n).filter v.testBit).length := by
  induction n with
  | zero => rfl
  | succ n ih =>
    rw [popcount, ih, List.range_succ, List.filter_append, List.length_append]
    rcases Nat.mod_two_eq_zero_or_one (v / 2 ^ n) with h | h <;> simp [Nat.testBit_eq_decide_div_mod_eq, h]

theorem popcount_toNat (m : BitVec 64) :
    popcount m.toNat 64 = ((List.range 64).filter fun i => m.getLsbD i).length := popcount_eq m.toNat 64

theorem lowest_toNat (m : BitVec 64) :
    lowest m.toNat 64 = ((List.range 64).find? fun i => m.getLsbD i).getD 64 := by
  simp only [lowest, tb_eq_testBit, BitVec.testBit_toNat]

/-! ### Masks (R135, R171) -/

@[simp] theorem Thread.trim_trim (t : Thread) (m : BitVec 64) : t.trim (t.trim m) = t.trim m := by
  simp [Thread.trim, BitVec.and_assoc]

@[simp] theorem Thread.setMask_trim (t : Thread) (k : Nat) (m : BitVec 64) :
    t.setMask k (t.trim m) = t.setMask k m := by
  simp [Thread.setMask]

theorem maskFlags_eq (r em : BitVec 64) : maskFlags r em = { z := decide (r = 0), t := decide (r = em) } := by
  simp [maskFlags, beq_eq_decide]

/-! ### The mask instructions (R182) -/

theorem exec_mset {s : State} {t : Thread} {f : Std} (h : s.At t) (hc : t.canRead f.a 1 = .ok ⟨⟩) :
    exec (.mset f) s = .next (s.after t (t.setMask f.dst.toNat (BitVec.ofNat 64 (t.opnd f.a 1 64 0))).advance) :=
  run_done h (by simp only [hc]; rfl) (by simp) (by simp)

/-- MLOG writes the result of its operation, cut to the lanes, and CC by the result as it stands (R135, R182). -/
theorem exec_mlog {s : State} {t : Thread} {f : Std} (h : s.At t) (r : BitVec 64)
    (hr : maskOp f.op.toNat (t.mask f.a.reg.toNat) (t.mask f.b.reg.toNat) = r) :
    exec (.mlog f) s = .next (s.after t ((t.setMask f.dst.toNat r).setCC
      { z := decide (t.trim r = 0), t := decide (t.trim r = t.regs.em) }).advance) := by
  subst hr
  rw [← maskFlags_eq, ← t.setMask_trim]
  exact run_done h rfl (by simp) (by simp)

theorem exec_mstat {s : State} {t : Thread} {f : Std} {a v : BitVec 64} (h : s.At t) (ha : a = t.mask f.a.reg.toNat)
    (hv : (f.xt.toNat, v) ∈ [(0, BitVec.ofNat 64 t.regs.depth), (1, a),
      (2, if t.regs.depth = 0 then 0 else t.regs.stkEm.get (t.regs.depth - 1))]) :
    exec (.mstat f) s = .next (s.after t (t.putG f.dst.toNat v).advance) := by
  refine run_done h ?_ (by simp) (by simp)
  simp only [List.mem_cons, Prod.mk.injEq, List.not_mem_nil, or_false] at hv
  obtain ⟨hx, rfl⟩ | ⟨hx, rfl⟩ | ⟨hx, rfl⟩ := hv
  · simp only [hx]
  · simp only [hx, ha]
  · simp only [hx]

theorem exec_mpopc {s : State} {t : Thread} {f : Std} (h : s.At t) :
    exec (.mpopc f) s = .next (s.after t ((t.putG f.dst.toNat (BitVec.ofNat 64
      ((List.range 64).filter fun i => (t.mask f.a.reg.toNat).getLsbD i).length)).setCC
        { z := decide (t.mask f.a.reg.toNat = 0) }).advance) := by
  rw [← popcount_toNat, ← beq_eq_decide]
  exact run_done h rfl (by simp) (by simp)

theorem exec_mfirst {s : State} {t : Thread} {f : Std} (h : s.At t) :
    exec (.mfirst f) s = .next (s.after t ((t.putG f.dst.toNat (BitVec.ofNat 64
      (((List.range 64).find? fun i => (t.mask f.a.reg.toNat).getLsbD i).getD 64))).setCC
        { z := decide (t.mask f.a.reg.toNat = 0) }).advance) := by
  rw [← lowest_toNat, ← beq_eq_decide]
  exact run_done h rfl (by simp) (by simp)

/-! ### The mode registers (R57, R61, R205) -/

theorem exec_setfmt {s : State} {t : Thread} {f : Std} (h : s.At t) (hc : t.canRead f.a 1 = .ok ⟨⟩) :
    exec (.setfmt f) s = .next (s.after t
      ({ t with regs := { t.regs with fmt := BitVec.ofNat 64 (t.opnd f.a 1 64 0) } } : Thread).advance) :=
  run_done h (by simp only [hc]; rfl) rfl rfl

theorem Thread.putG_fpm (t : Thread) (d : Nat) (v : W64) : (t.putG d v).regs.fpm = t.regs.fpm := by
  unfold Thread.putG
  split <;> rfl

/-- FPM with its five flags cleared (R61). -/
def Thread.clearFlags (t : Thread) : Thread :=
  { t with regs := { t.regs with fpm := t.regs.fpm &&& ~~~(0x1F00 : W32) } }

theorem Thread.clearFlags_restore {u : Thread} {w : W32} (h : u.regs.fpm = w) :
    { u.clearFlags with regs := { u.clearFlags.regs with fpm := w } } = u := by
  subst h
  rfl

theorem exec_fstat_keep {s : State} {t : Thread} {f : Std} (h : s.At t) (hx : f.xt.getLsbD 0 = true) :
    exec (.fstat f) s = .next (s.after t (t.putG f.dst.toNat (t.regs.fpm.setWidth 64)).advance) :=
  run_done h (by simp only [hx, if_true]) (by simp) (by simp)

theorem exec_fstat_clear {s : State} {t : Thread} {f : Std} (h : s.At t) (hx : f.xt.getLsbD 0 = false) :
    exec (.fstat f) s = .next (s.after t (t.putG f.dst.toNat (t.regs.fpm.setWidth 64)).clearFlags.advance) :=
  run_done h (by simp only [hx]; rfl) (by simp [Thread.clearFlags]) (by simp [Thread.clearFlags])

/-- FPM with bits [7:2] taken from a number (R61). -/
def fpmModes (fpm : W32) (v : Nat) : W32 := (fpm &&& 0xFFFFFF03) ||| BitVec.ofNat 32 (fld v 2 6 * 4)

theorem fpmModes_getLsbD (fpm : W32) (v i : Nat) :
    (fpmModes fpm v).getLsbD i = if 2 ≤ i ∧ i < 8 then v.testBit i else fpm.getLsbD i := by
  have hkept : ∀ i < 32, (0xFFFFFF03 : W32).getLsbD i = !decide (2 ≤ i ∧ i < 8) := by decide
  have htaken : (fld v 2 6 * 4).testBit i = (decide (2 ≤ i ∧ i < 8) && v.testBit i) := by
    rw [show 4 = 2 ^ 2 from rfl, Nat.testBit_mul_two_pow, fld, Nat.testBit_mod_two_pow, Nat.testBit_div_two_pow]
    by_cases hi : 2 ≤ i
    · simp [hi, show i - 2 < 6 ↔ i < 8 by omega]
    · simp [hi]
  rw [fpmModes, BitVec.getLsbD_or, BitVec.getLsbD_and, BitVec.getLsbD_ofNat, htaken]
  by_cases h32 : i < 32
  · rw [hkept i h32]
    by_cases hi : 2 ≤ i ∧ i < 8
    · simp [hi, h32]
    · simp [hi]
  · rw [BitVec.getLsbD_of_ge fpm i (by omega), if_neg (by omega)]
    simp [h32]

theorem exec_setfpm {s : State} {t : Thread} {f : Std} (h : s.At t) (hc : t.canRead f.a 1 = .ok ⟨⟩)
    (hv : t.opnd f.a 1 64 0 / 64 % 4 ≠ 3) :
    exec (.setfpm f) s = .next (s.after t
      ({ t with regs := { t.regs with fpm := fpmModes t.regs.fpm (t.opnd f.a 1 64 0) } } : Thread).advance) := by
  have hsub : ¬ fld (t.uni f.a) 6 2 = 3 := hv
  exact run_done h (by simp only [hc, bind, Except.bind, if_neg hsub]; rfl) rfl rfl

theorem exec_setfpm_sub3 {s : State} {t : Thread} {f : Std} (h : s.At t) (hc : t.canRead f.a 1 = .ok ⟨⟩)
    (hb : t.busy = false) (hv : t.opnd f.a 1 64 0 / 64 % 4 = 3) :
    exec (.setfpm f) s = .next (s.trapped t { cls := 1, sub := 1 }) := by
  have hsub : fld (t.uni f.a) 6 2 = 3 := hv
  exact run_trap h hb (by simp only [hc, bind, Except.bind, if_pos hsub]; rfl)

/-- Settles O24, by one equation per instruction: what counts, finds or changes single bits of a mask or of FPM is
said of the number's bits first. -/
theorem masksAndModes : Obligations.MasksAndModes := by
  unfold Obligations.MasksAndModes
  constructor
  · rintro s t f _ _ h rfl rfl
    refine ⟨exec_mset h, fun r hr => exec_mlog h r ?_, fun v hv => exec_mstat h rfl hv, exec_mpopc h, exec_mfirst h⟩
    simp only [List.mem_cons, Prod.mk.injEq, List.not_mem_nil, or_false] at hr
    obtain ⟨ho, rfl⟩ | ⟨ho, rfl⟩ | ⟨ho, rfl⟩ | ⟨ho, rfl⟩ | ⟨ho, rfl⟩ := hr <;> simp only [maskOp, ho]
  · rintro s t f _ h rfl
    refine ⟨exec_setfmt h, run_done h rfl (by simp) (by simp), exec_fstat_keep h, fun hx => ?_, fun hc hv => ?_,
      exec_setfpm_sub3 h⟩
    · refine ⟨_, exec_fstat_clear h hx, ?_, ?_⟩
      · simp only [Thread.clearFlags, Thread.putG_fpm]
      · exact Thread.clearFlags_restore (t.putG_fpm ..)
    · exact ⟨_, exec_setfpm h hc hv, fpmModes_getLsbD _ _⟩

end Sys2Proof.Machine
end

section
/-!
PROOFS. The lane-wise floating-point instructions, FCMP and the packed forms (O27).
-/

namespace Sys2Proof.Machine

/-! ### Operands and flags -/

theorem Thread.opnd_lt (t : Thread) (o : Opnd) (n bits i : Nat) : t.opnd o n bits i < 2 ^ bits := by
  have hpos : 0 < 2 ^ bits := Nat.two_pow_pos bits
  unfold Thread.opnd
  split
  · exact Nat.mod_lt _ hpos
  · split
    · exact Nat.mod_lt _ hpos
    · unfold immVal
      split <;> exact Nat.mod_lt _ hpos
    · exact Nat.mod_lt _ hpos

theorem Thread.canReadAll_ok {t : Thread} {xs : List Src} (h : ∀ x ∈ xs, t.canRead x.o x.n = .ok ⟨⟩) :
    t.canReadAll xs = .ok ⟨⟩ := by
  induction xs with
  | nil => rfl
  | cons x xs ih =>
    have hxs := ih fun y hy => h y (List.mem_cons_of_mem _ hy)
    simp only [Thread.canReadAll, h x List.mem_cons_self, hxs, bind, Except.bind]

/-- The signed value of a number below 2^w is that of its word. -/
theorem sInt_eq_toInt {w v : Nat} (hw : 0 < w) (hv : v < 2 ^ w) : sInt w v = (BitVec.ofNat w v).toInt := by
  obtain ⟨w, rfl⟩ : ∃ k, w = k + 1 := ⟨w - 1, by omega⟩
  have h2 : 2 ^ (w + 1) = 2 * 2 ^ w := by rw [Nat.pow_succ, Nat.mul_comm]
  rw [sInt, BitVec.toInt_eq_toNat_cond, BitVec.toNat_ofNat, Nat.mod_eq_of_lt hv, Nat.add_sub_cancel]
  by_cases hlt : v < 2 ^ w
  · rw [if_pos hlt, if_pos (by omega)]
  · rw [if_neg hlt, if_neg (by omega)]
    push_cast
    rfl

/-! ### A lane-wise floating-point instruction (R61, R136, R191) -/

/-- A thread after a lane-wise floating-point result: the 32-bit lane of the destination, and the flags of the lanes
in EM (R61, R136). -/
def Thread.gotFp (t : Thread) (f : Std) (r : Nat → Nat × FpFlags) : Thread :=
  (t.put f.dst.toNat 1 false 32 fun k => (r k).1).raise (flagsOf t.active fun k => (r k).2)

@[simp] theorem Thread.gotFp_side (t : Thread) (f : Std) (r : Nat → Nat × FpFlags) : (t.gotFp f r).side = t.side := by
  simp [Thread.gotFp]

@[simp] theorem Thread.gotFp_wg (t : Thread) (f : Std) (r : Nat → Nat × FpFlags) : (t.gotFp f r).wg = t.wg := by
  simp [Thread.gotFp]

/-- A floating-point instruction whose registers may be read and written goes on with its result and flags. -/
theorem fpOp_next {s : State} {t : Thread} {f : Std} {srcs : List Opnd} {op : FpMode → List Nat → Nat × FpFlags}
    (h : s.At t) (hw : t.canWrite f.dst.toNat 1 = .ok ⟨⟩) (hr : ∀ o ∈ srcs, t.canRead o 1 = .ok ⟨⟩) :
    fpOp f s srcs op = .next (s.after t
      (t.gotFp f fun k => op (t.fpMode f.fpc) (srcs.map fun o => t.opnd o 1 32 k)).advance) := by
  have hall : t.canReadAll (srcs.map fun o => ({ o, n := 1, bits := 32 } : Src)) = .ok ⟨⟩ :=
    Thread.canReadAll_ok fun x hx => by
      obtain ⟨o, ho, rfl⟩ := List.mem_map.mp hx
      exact hr o ho
  refine run_done h ?_ (t.gotFp_side f _) (t.gotFp_wg f _)
  simp only [hw, hall, Thread.vals, List.map_map, bind, Except.bind]
  rfl

section
variable {s : State} {t : Thread} {f : Std} (h : s.At t) (hw : t.canWrite f.dst.toNat 1 = .ok ⟨⟩)
include h hw

theorem fpOp1_next {op : FpMode → List Nat → Nat × FpFlags} (ha : t.canRead f.a 1 = .ok ⟨⟩) :
    fpOp f s [f.a] op = .next (s.after t
      (t.gotFp f fun k => op (t.fpMode f.fpc) [t.opnd f.a 1 32 k]).advance) :=
  fpOp_next h hw (by simp [ha])

theorem fpOp2_next {op : FpMode → List Nat → Nat × FpFlags} (ha : t.canRead f.a 1 = .ok ⟨⟩)
    (hb : t.canRead f.b 1 = .ok ⟨⟩) :
    fpOp f s [f.a, f.b] op = .next (s.after t
      (t.gotFp f fun k => op (t.fpMode f.fpc) [t.opnd f.a 1 32 k, t.opnd f.b 1 32 k]).advance) :=
  fpOp_next h hw (by simp [ha, hb])

theorem fpOp3_next {op : FpMode → List Nat → Nat × FpFlags} (ha : t.canRead f.a 1 = .ok ⟨⟩)
    (hb : t.canRead f.b 1 = .ok ⟨⟩) (hc : t.canRead f.c 1 = .ok ⟨⟩) :
    fpOp f s [f.a, f.b, f.c] op = .next (s.after t (t.gotFp f fun k =>
      op (t.fpMode f.fpc) [t.opnd f.a 1 32 k, t.opnd f.b 1 32 k, t.opnd f.c 1 32 k]).advance) :=
  fpOp_next h hw (by simp [ha, hb, hc])

theorem fp1_next {op : FFmt → FpMode → Nat → Nat × FpFlags} (ha : t.canRead f.a 1 = .ok ⟨⟩) :
    fp1 f s op = .next (s.after t (t.gotFp f fun k => op (fmtOf f.ty.toNat) (t.fpMode f.fpc)
      (t.opnd f.a 1 32 k % 2 ^ (fmtOf f.ty.toNat).bits)).advance) := by
  unfold fp1
  exact fpOp1_next h hw ha

theorem fp2_next {op : FFmt → FpMode → Nat → Nat → Nat × FpFlags} (ha : t.canRead f.a 1 = .ok ⟨⟩)
    (hb : t.canRead f.b 1 = .ok ⟨⟩) :
    fp2 f s op = .next (s.after t (t.gotFp f fun k => op (fmtOf f.ty.toNat) (t.fpMode f.fpc)
      (t.opnd f.a 1 32 k % 2 ^ (fmtOf f.ty.toNat).bits) (t.opnd f.b 1 32 k % 2 ^ (fmtOf f.ty.toNat).bits)).advance) := by
  unfold fp2
  exact fpOp2_next h hw ha hb

theorem fp3_next {op : FFmt → FpMode → Nat → Nat → Nat → Nat × FpFlags} (ha : t.canRead f.a 1 = .ok ⟨⟩)
    (hb : t.canRead f.b 1 = .ok ⟨⟩) (hc : t.canRead f.c 1 = .ok ⟨⟩) :
    fp3 f s op = .next (s.after t (t.gotFp f fun k => op (fmtOf f.ty.toNat) (t.fpMode f.fpc)
      (t.opnd f.a 1 32 k % 2 ^ (fmtOf f.ty.toNat).bits) (t.opnd f.b 1 32 k % 2 ^ (fmtOf f.ty.toNat).bits)
      (t.opnd f.c 1 32 k % 2 ^ (fmtOf f.ty.toNat).bits)).advance) := by
  unfold fp3
  exact fpOp3_next h hw ha hb hc

/-- The instructions of one operand of the type TY (R192, R195). -/
theorem exec_fp1 {i : Instr} {r : Nat → Nat × FpFlags} {F : FFmt} {md : FpMode} (hF : F = fmtOf f.ty.toNat)
    (hmd : md = t.fpMode f.fpc) (ha : t.canRead f.a 1 = .ok ⟨⟩) (hi : (i, r) ∈ ([
      (Instr.fsqrt f, fun a => F.sqrt md (F.decIn md a)),
      (.frcp f, fun a => F.div md (.fin false 1 0) (F.decIn md a)),
      (.frsq f, fun a => F.rsqrt md (F.decIn md a)), (.fexp2 f, fun a => F.exp2 md (F.decIn md a)),
      (.flog2 f, fun a => F.log2 md (F.decIn md a)), (.frnd f, fun a => F.rint md (F.decIn md a)),
      (.fclass f, fun a => (fclass F a, {})), (.fgetx f, fun a => fgetx (F.decIn md a))] :
      List (Instr × (Nat → Nat × FpFlags)))) :
    exec i s = .next (s.after t (t.gotFp f fun k => r (t.opnd f.a 1 32 k % 2 ^ F.bits)).advance) := by
  subst hF hmd
  simp only [List.mem_cons, Prod.mk.injEq, List.not_mem_nil, or_false] at hi
  obtain ⟨rfl, rfl⟩ | ⟨rfl, rfl⟩ | ⟨rfl, rfl⟩ | ⟨rfl, rfl⟩ | ⟨rfl, rfl⟩ | ⟨rfl, rfl⟩ | ⟨rfl, rfl⟩ | ⟨rfl, rfl⟩ := hi <;>
    (dsimp only [exec]; exact fp1_next h hw ha)

/-- The instructions of two operands of the type TY (R192, R193). -/
theorem exec_fp2 {i : Instr} {r : Nat → Nat → Nat × FpFlags} {F : FFmt} {md : FpMode} (hF : F = fmtOf f.ty.toNat)
    (hmd : md = t.fpMode f.fpc) (ha : t.canRead f.a 1 = .ok ⟨⟩) (hb : t.canRead f.b 1 = .ok ⟨⟩) (hi : (i, r) ∈ ([
      (Instr.fadd f, F.add md), (.fsub f, F.sub md), (.fmul f, F.mul md),
      (.fmin f, F.minmax md false false), (.fmax f, F.minmax md true false),
      (.fminm f, F.minmax md false true), (.fmaxm f, F.minmax md true true),
      (.fdiv f, fun a b => F.div md (F.decIn md a) (F.decIn md b)),
      (.fsgn f, fun a b => (fsgn f.xt.toNat F a b, {}))] : List (Instr × (Nat → Nat → Nat × FpFlags)))) :
    exec i s = .next (s.after t
      (t.gotFp f fun k => r (t.opnd f.a 1 32 k % 2 ^ F.bits) (t.opnd f.b 1 32 k % 2 ^ F.bits)).advance) := by
  subst hF hmd
  simp only [List.mem_cons, Prod.mk.injEq, List.not_mem_nil, or_false] at hi
  obtain ⟨rfl, rfl⟩ | ⟨rfl, rfl⟩ | ⟨rfl, rfl⟩ | ⟨rfl, rfl⟩ | ⟨rfl, rfl⟩ | ⟨rfl, rfl⟩ | ⟨rfl, rfl⟩ | ⟨rfl, rfl⟩ |
    ⟨rfl, rfl⟩ := hi <;> (dsimp only [exec]; exact fp2_next h hw ha hb)

theorem exec_fscale {F : FFmt} {md : FpMode} (hF : F = fmtOf f.ty.toNat) (hmd : md = t.fpMode f.fpc)
    (ha : t.canRead f.a 1 = .ok ⟨⟩) (hb : t.canRead f.b 1 = .ok ⟨⟩) :
    exec (.fscale f) s = .next (s.after t (t.gotFp f fun k =>
      F.scale md (F.decIn md (t.opnd f.a 1 32 k % 2 ^ F.bits))
        (BitVec.ofNat 32 (t.opnd f.b 1 32 k)).toInt).advance) := by
  subst hF hmd
  simp only [← sInt_eq_toInt (w := 32) (by decide) (t.opnd_lt f.b 1 32 _)]
  exact fpOp2_next (op := fun md xs => (fmtOf f.ty.toNat).scale md
    ((fmtOf f.ty.toNat).decIn md (xs.getD 0 0 % 2 ^ (fmtOf f.ty.toNat).bits)) (sInt 32 (xs.getD 1 0))) h hw ha hb

/-- FFMA and FFMS (R192). -/
theorem exec_fp3 {i : Instr} {r : Nat → Nat → Nat → Nat × FpFlags} {F : FFmt} {md : FpMode}
    (hF : F = fmtOf f.ty.toNat) (hmd : md = t.fpMode f.fpc) (ha : t.canRead f.a 1 = .ok ⟨⟩)
    (hb : t.canRead f.b 1 = .ok ⟨⟩) (hc : t.canRead f.c 1 = .ok ⟨⟩)
    (hi : (i, r) ∈ ([(Instr.ffma f, F.fma md), (.ffms f, F.fms md)] :
      List (Instr × (Nat → Nat → Nat → Nat × FpFlags)))) :
    exec i s = .next (s.after t (t.gotFp f fun k => r (t.opnd f.a 1 32 k % 2 ^ F.bits) (t.opnd f.b 1 32 k % 2 ^ F.bits)
      (t.opnd f.c 1 32 k % 2 ^ F.bits)).advance) := by
  subst hF hmd
  simp only [List.mem_cons, Prod.mk.injEq, List.not_mem_nil, or_false] at hi
  obtain ⟨rfl, rfl⟩ | ⟨rfl, rfl⟩ := hi <;> (dsimp only [exec]; exact fp3_next h hw ha hb hc)

/-! ### Packed halves and short dots (R197) -/

/-- Both halves of a result of halves (R197). -/
def bothHalves (r : List Nat → Nat × FpFlags) (xs : List Nat) : Nat × FpFlags :=
  ((r (xs.map (· % 65536))).1 + (r (xs.map (· / 65536))).1 * 65536,
    (r (xs.map (· % 65536))).2.or (r (xs.map (· / 65536))).2)

theorem halves_next {srcs : List Opnd} {op : FFmt → FpMode → List Nat → Nat × FpFlags}
    (hr : ∀ o ∈ srcs, t.canRead o 1 = .ok ⟨⟩) : halves f s srcs op = .next (s.after t (t.gotFp f fun k =>
      bothHalves (op (fmtOf f.ty.toNat) (t.fpMode f.fpc)) (srcs.map fun o => t.opnd o 1 32 k)).advance) :=
  fpOp_next (op := fun md => bothHalves (op (fmtOf f.ty.toNat) md)) h hw hr

/-- The packed forms of two operands. -/
theorem exec_halves {i : Instr} {r : Nat → Nat → Nat × FpFlags} {F : FFmt} {md : FpMode} {a b : Nat → Nat}
    (hF : F = fmtOf f.ty.toNat) (hmd : md = t.fpMode f.fpc) (ha : t.canRead f.a 1 = .ok ⟨⟩)
    (hb : t.canRead f.b 1 = .ok ⟨⟩) (hx : a = t.opnd f.a 1 32) (hy : b = t.opnd f.b 1 32) (hi : (i, r) ∈ ([
      (Instr.hadd2 f, F.add md), (.hmul2 f, F.mul md), (.hmin2 f, F.minmax md false false),
      (.hmax2 f, F.minmax md true false)] : List (Instr × (Nat → Nat → Nat × FpFlags)))) :
    exec i s = .next (s.after t (t.gotFp f fun k =>
      ((r (a k % 65536) (b k % 65536)).1 + (r (a k / 65536) (b k / 65536)).1 * 65536,
        (r (a k % 65536) (b k % 65536)).2.or (r (a k / 65536) (b k / 65536)).2)).advance) := by
  subst hF hmd hx hy
  simp only [List.mem_cons, Prod.mk.injEq, List.not_mem_nil, or_false] at hi
  obtain ⟨rfl, rfl⟩ | ⟨rfl, rfl⟩ | ⟨rfl, rfl⟩ | ⟨rfl, rfl⟩ := hi <;>
    (dsimp only [exec]; exact halves_next h hw (srcs := [f.a, f.b]) (by simp [ha, hb]))

/-- FDP2 and FDP4. -/
theorem exec_shortDot {i : Instr} {n : Nat} (ha : t.canRead f.a 1 = .ok ⟨⟩) (hb : t.canRead f.b 1 = .ok ⟨⟩)
    (hc : t.canRead f.c 1 = .ok ⟨⟩) (hi : (i, n) ∈ [(Instr.fdp2 f, 2), (.fdp4 f, 4)]) :
    exec i s = .next (s.after t (t.gotFp f fun k => shortDot (fmtOf f.ty.toNat) n (t.fpMode f.fpc)
      [t.opnd f.a 1 32 k, t.opnd f.b 1 32 k, t.opnd f.c 1 32 k]).advance) := by
  simp only [List.mem_cons, Prod.mk.injEq, List.not_mem_nil, or_false] at hi
  obtain ⟨rfl, rfl⟩ | ⟨rfl, rfl⟩ := hi
  · exact fpOp3_next (op := shortDot (fmtOf f.ty.toNat) 2) h hw ha hb hc
  · exact fpOp3_next (op := shortDot (fmtOf f.ty.toNat) 4) h hw ha hb hc

end

theorem shortDot_eq (F : FFmt) (n : Nat) (md : FpMode) (a b c : Nat) : shortDot F n md [a, b, c] =
    (let xs := (List.range n).map fun j => F.decIn md (a / 2 ^ (32 / n * j) % 2 ^ (32 / n))
     let ys := (List.range n).map fun j => F.decIn md (b / 2 ^ (32 / n * j) % 2 ^ (32 / n))
     F32.dot md (xs ++ ys ++ [F32.decIn md c]) (xs.zip ys) [F32.decIn md c]) := by
  simp only [shortDot, elems, List.map_map]
  rfl

/-! ### FCMP (R194) -/

theorem laneMask_getLsbD (ls : List Nat) (k : Nat) :
    (laneMask ls).getLsbD k = (decide (k < 64) && decide (k ∈ ls)) := by
  have hfold (m : BitVec 64) : (ls.foldl (fun m i => m ||| (1#64 <<< i)) m).getLsbD k =
      (m.getLsbD k || (decide (k < 64) && decide (k ∈ ls))) := by
    induction ls generalizing m with
    | nil => simp
    | cons i ls ih =>
      rw [List.foldl_cons, ih, BitVec.getLsbD_or, BitVec.getLsbD_shiftLeft, BitVec.getLsbD_one]
      have hbit : (!decide (k < i) && decide (k - i = 0)) = decide (k = i) := by
        rw [← decide_not, ← Bool.decide_and]
        exact decide_eq_decide.mpr (by omega)
      simp only [List.mem_cons, Bool.decide_or, ← hbit]
      cases decide (k < 64) <;> cases m.getLsbD k <;> simp
  rw [laneMask, hfold]
  simp

theorem Thread.mem_active {t : Thread} (hs : t.side ≠ .mcc) {k : Nat} :
    k ∈ t.active ↔ k < t.width ∧ t.regs.em.getLsbD k = true := by
  simp [Thread.active, Thread.all, hs]

/-- The lanes of EM for which a condition holds, as a mask (R171). -/
theorem Thread.laneMaskOf_getLsbD {t : Thread} (hs : t.side ≠ .mcc) (hw : t.width ≤ 64) (p : Nat → Bool) (k : Nat) :
    (t.laneMaskOf p).getLsbD k = (decide (k < t.width) && t.regs.em.getLsbD k && p k) := by
  rw [Thread.laneMaskOf, laneMask_getLsbD]
  by_cases hk : k < t.width
  · simp [Thread.mem_active hs, hk, show k < 64 by omega]
  · simp [Thread.mem_active hs, hk]

/-- The relation of FCMP and what it signals, by OP (R194). -/
theorem fcmp_eq {op : Nat} (ho : op < 8) (x y : Fp) : fcmp op x y =
    ((let nan := x.isNan || y.isNan
      let lt := x.lt y
      let gt := y.lt x
      [!nan && !lt && !gt, nan || lt || gt, !nan && lt, !nan && !gt, !nan && gt, !nan && !lt, nan, !nan].getD op false),
     (if op ∈ [2, 3, 4, 5] then x.isNan || y.isNan else x.signalling || y.signalling)) := by
  interval_cases op <;> rfl

theorem exec_fcmp {s : State} {t : Thread} {f : Std} (h : s.At t) (ha : t.canRead f.a 1 = .ok ⟨⟩)
    (hb : t.canRead f.b 1 = .ok ⟨⟩) {r : Nat → Bool × Bool} {m : BitVec 64}
    (hr : ∀ k, r k = fcmp f.op.toNat
      ((fmtOf f.ty.toNat).decIn (t.fpMode f.fpc) (t.opnd f.a 1 (fmtOf f.ty.toNat).bits k))
      ((fmtOf f.ty.toNat).decIn (t.fpMode f.fpc) (t.opnd f.b 1 (fmtOf f.ty.toNat).bits k)))
    (hm : m = t.laneMaskOf fun k => (r k).1) :
    exec (.fcmp f) s = .next (s.after t (((t.setMask f.dst.toNat m).setCC
      { z := decide (m = 0), t := decide (m = t.regs.em) }).raise
        (flagsOf t.active fun k => { nv := (r k).2 })).advance) := by
  obtain rfl := funext hr
  subst hm
  rw [← maskFlags_eq]
  exact run_done h (by simp only [ha, hb]; rfl) (by simp) (by simp)

/-- Settles O27: each instruction is the lane-wise frame with its own operation, so the frame's equation gives its
state. -/
theorem floatOperations : Obligations.FloatOperations := by
  unfold Obligations.FloatOperations
  refine ⟨?_, ?_, ?_⟩
  · intro s t f F md h hF hmd hw ha
    exact ⟨fun i r hi => exec_fp1 h hw hF hmd ha hi, fun hb i r hi => exec_fp2 h hw hF hmd ha hb hi,
      fun hb => exec_fscale h hw hF hmd ha hb, fun hb hc i r hi => exec_fp3 h hw hF hmd ha hb hc hi⟩
  · rintro s t f F x y h hs hwidth rfl ha hb hx hy
    have hr (k : Nat) := fcmp_eq f.op.isLt (x k) (y k)
    refine ⟨t.laneMaskOf fun k => (fcmp f.op.toNat (x k) (y k)).1, fun k => ?_, ?_⟩
    · rw [Thread.laneMaskOf_getLsbD hs hwidth, hr]
    · have hx := exec_fcmp (f := f) h ha hb (r := fun k => fcmp f.op.toNat (x k) (y k)) (fun k => by rw [hx, hy]) rfl
      simpa only [hr] using hx
  · intro s t f F md a b c h hF hmd hw ha hb hx hy hz
    refine ⟨fun i r hi => exec_halves h hw hF hmd ha hb hx hy hi, fun hc => ⟨?_, fun i n hi r hr => ?_⟩⟩
    · subst hF hmd hx hy hz
      dsimp only [exec]
      exact halves_next h hw (srcs := [f.a, f.b, f.c]) (by simp [ha, hb, hc])
    · obtain rfl := funext fun k => (hr k).trans (shortDot_eq F n md (a k) (b k) (c k)).symm
      subst hF hmd hx hy hz
      exact exec_shortDot h hw ha hb hc hi

end Sys2Proof.Machine
end

section
/-!
PROOFS. Conversions between formats and integers, PACK and UNPACK (O30).
-/

namespace Sys2Proof.Machine

/-! ### CVT, CVTT and CVTF (R62, R200) -/

/-- CVT rounds in the mode of the instruction and CVTT toward zero; both read their operand under the same modes. -/
theorem exec_cvt_cvtt {s : State} {t : Thread} {f : Std} {i : Instr} {m md : FpMode} (h : s.At t)
    (hmd : md = t.fpMode f.fpc) (hi : (i, m) ∈ [(Instr.cvt f, md), (.cvtt f, { md with rnd := 1 })])
    (hw : t.canWrite f.dst.toNat 1 = .ok ⟨⟩) (ha : t.canRead f.a 1 = .ok ⟨⟩) :
    exec i s = .next (s.after t (t.gotFp f fun k => (fmtOf f.ty.toNat).conv m ((fmtOf (f.xt.toNat % 16)).decIn md
      (t.opnd f.a 1 32 k % 2 ^ (fmtOf (f.xt.toNat % 16)).bits))).advance) := by
  subst hmd
  simp only [List.mem_cons, Prod.mk.injEq, List.not_mem_nil, or_false] at hi
  obtain ⟨rfl, rfl⟩ | ⟨rfl, rfl⟩ := hi
  · exact fpOp1_next (op := fun md xs => (fmtOf f.ty.toNat).conv md
      ((fmtOf (f.xt.toNat % 16)).decIn md (xs.getD 0 0 % 2 ^ (fmtOf (f.xt.toNat % 16)).bits))) h hw ha
  · exact fpOp1_next (op := fun md xs => (fmtOf f.ty.toNat).conv { md with rnd := 1 }
      ((fmtOf (f.xt.toNat % 16)).decIn md (xs.getD 0 0 % 2 ^ (fmtOf (f.xt.toNat % 16)).bits))) h hw ha

/-- The number that a value of a type stands for is that of its word. -/
theorem tInt_eq_valueOf {sg : Bool} {w v : Nat} (hw : 0 < w) (hv : v < 2 ^ w) : tInt sg w v = valueOf sg w v := by
  cases sg
  · rfl
  · exact sInt_eq_toInt hw hv

theorem exec_cvtf {s : State} {t : Thread} {f : Std} {w : Nat} {v : Nat → Int} (h : s.At t)
    (hw : w = typeBits false (f.xt.toNat % 16)) (hpos : 0 < w) (hwr : t.canWrite f.dst.toNat 1 = .ok ⟨⟩)
    (ha : t.canRead f.a (regsOf w) = .ok ⟨⟩)
    (hv : ∀ k, v k = valueOf (decide (f.xt.toNat % 16 < 4)) w (t.opnd f.a (regsOf w) w k)) :
    exec (.cvtf f) s = .next (s.after t (t.gotFp f fun k => (fmtOf f.ty.toNat).conv (t.fpMode f.fpc)
      (.fin (decide (v k < 0)) (v k).natAbs 0)).advance) := by
  have hval (k : Nat) : v k = tInt (decide (f.xt.toNat % 16 < 4)) w (t.opnd f.a (regsOf w) w k) :=
    (hv k).trans (tInt_eq_valueOf hpos (t.opnd_lt ..)).symm
  obtain rfl := funext hval
  subst hw
  exact run_done h (by simp only [hwr, ha]; rfl) (t.gotFp_side ..) (t.gotFp_wg ..)

/-! ### CVTI (R200) -/

/-- What CVTI makes of a value: the integer, clamped to the range of the type, and the flags. -/
def integerOf (md : FpMode) (sg : Bool) (w : Nat) (x : Fp) : Int × FpFlags :=
  match x with
  | .nan .. => (0, { nv := true })
  | .inf n =>
    (if n then (if sg then -(2 ^ (w - 1)) else 0) else if sg then 2 ^ (w - 1) - 1 else 2 ^ w - 1, { nv := true })
  | .fin n m e =>
    let q := quantize md.rnd n m e 0
    let v : Int := if n then -(q.1 : Int) else q.1
    if sg then
      (if v < -(2 ^ (w - 1)) then (-(2 ^ (w - 1)), { nv := true })
        else if 2 ^ (w - 1) - 1 < v then (2 ^ (w - 1) - 1, { nv := true }) else (v, { nx := !q.2 }))
    else
      (if v < 0 then (0, { nv := true })
        else if 2 ^ w - 1 < v then (2 ^ w - 1, { nv := true }) else (v, { nx := !q.2 }))

/-- Clamping a number to a range and then taking its low bits. -/
theorem wrapI_clamp (w : Nat) (lo hi v : Int) (bad ok : FpFlags) :
    (if v < lo then (wrapI w lo, bad) else if hi < v then (wrapI w hi, bad) else (wrapI w v, ok)) =
      (((if v < lo then (lo, bad) else if hi < v then (hi, bad) else (v, ok)).1 % 2 ^ w).toNat,
        (if v < lo then (lo, bad) else if hi < v then (hi, bad) else (v, ok)).2) := by
  split
  · rfl
  · split <;> rfl

theorem toInteger_eq (md : FpMode) (sg : Bool) (w : Nat) (x : Fp) :
    toInteger md sg w x = (((integerOf md sg w x).1 % 2 ^ w).toNat, (integerOf md sg w x).2) := by
  cases x with
  | nan => rfl
  | inf n => cases n <;> cases sg <;> rfl
  | fin n m e =>
    cases sg <;> exact wrapI_clamp ..

theorem exec_cvti {s : State} {t : Thread} {f : Std} {w : Nat} {sg : Bool} {md : FpMode} (h : s.At t)
    (hw : w = tyBits f.xty f.ty) (hsg : sg = tySigned f.xty f.ty) (hmd : md = t.fpMode f.fpc)
    (hwr : t.canWrite f.dst.toNat (regsOf w) = .ok ⟨⟩) (ha : t.canRead f.a 1 = .ok ⟨⟩) {r : Nat → Int × FpFlags}
    (hr : ∀ k, r k = integerOf md sg w
      ((fmtOf (f.xt.toNat % 16)).decIn md (t.opnd f.a 1 (fmtOf (f.xt.toNat % 16)).bits k))) :
    exec (.cvti f) s = .next (s.after t ((t.put f.dst.toNat (regsOf w) sg w fun k => ((r k).1 % 2 ^ w).toNat).raise
      (flagsOf t.active fun k => (r k).2)).advance) := by
  obtain rfl := funext hr
  subst hw hsg hmd
  refine run_done h ?_ (by simp) (by simp)
  simp only [hwr, ha, bind, Except.bind, toInteger_eq]

/-! ### PACK and UNPACK (R201) -/

/-- The value of PACK: the low `w` bits of `a` in place of the bits of `b` from `p` up. -/
def packInto (w p a b : Nat) : Nat := b % 2 ^ p + a % 2 ^ w * 2 ^ p + b / 2 ^ (p + w) * 2 ^ (p + w)

theorem packInto_testBit (w p a b j : Nat) : (packInto w p a b).testBit j =
    if p ≤ j ∧ j < p + w then a.testBit (j - p) else b.testBit j := by
  have hlow : b % 2 ^ p < 2 ^ p := Nat.mod_lt _ (Nat.two_pow_pos p)
  have hsum : packInto w p a b = 2 ^ p * (2 ^ w * (b / 2 ^ (p + w)) + a % 2 ^ w) + b % 2 ^ p := by
    rw [packInto, Nat.pow_add]
    ring
  rw [hsum, Nat.testBit_two_pow_mul_add _ hlow, Nat.testBit_two_pow_mul_add _ (Nat.mod_lt _ (Nat.two_pow_pos w)),
    Nat.testBit_mod_two_pow, Nat.testBit_mod_two_pow, Nat.testBit_div_two_pow]
  by_cases h1 : j < p
  · simp [h1, show ¬ p ≤ j by omega]
  · by_cases h2 : j - p < w
    · simp [h1, h2, show p ≤ j by omega, show j < p + w by omega]
    · simp [h1, h2, show ¬ j < p + w by omega, show j - p - w + (p + w) = j by omega]

theorem packInto_lt {w p a b n : Nat} (hn : p + w ≤ n) (hb : b < 2 ^ n) : packInto w p a b < 2 ^ n := by
  refine Nat.lt_pow_two_of_testBit _ fun j hj => ?_
  rw [packInto_testBit, if_neg (by omega)]
  exact Nat.testBit_lt_two_pow (hb.trans_le (Nat.pow_le_pow_right (by decide) hj))

theorem exec_pack {s : State} {t : Thread} {f : Std} (h : s.At t) (hw : t.canWrite f.dst.toNat 1 = .ok ⟨⟩)
    (ha : t.canRead f.a 1 = .ok ⟨⟩) (hb : t.canRead f.b 1 = .ok ⟨⟩) :
    exec (.pack f) s = .next (s.after t (t.gotFp f fun k =>
      (packInto (8 * 2 ^ f.ty.toNat) (8 * 2 ^ f.ty.toNat * f.xt.toNat) (t.opnd f.a 1 32 k) (t.opnd f.b 1 32 k),
        {})).advance) :=
  fpOp2_next (op := fun _ xs =>
    (packInto (8 * 2 ^ f.ty.toNat) (8 * 2 ^ f.ty.toNat * f.xt.toNat) (xs.getD 0 0) (xs.getD 1 0), {})) h hw ha hb

theorem exec_unpack {s : State} {t : Thread} {f : Std} (h : s.At t) (hw : t.canWrite f.dst.toNat 1 = .ok ⟨⟩)
    (ha : t.canRead f.a 1 = .ok ⟨⟩) :
    exec (.unpack f) s = .next (s.after t (t.gotFp f fun k => (extend (tySigned f.xty f.ty) (tyBits f.xty f.ty) 32
      (t.opnd f.a 1 32 k / 2 ^ (tyBits f.xty f.ty * f.xt.toNat) % 2 ^ tyBits f.xty f.ty), {})).advance) :=
  fpOp1_next (op := fun _ xs => (extend (tySigned f.xty f.ty) (tyBits f.xty f.ty) 32
    (fld (xs.getD 0 0) (tyBits f.xty f.ty * f.xt.toNat) (tyBits f.xty f.ty)), {})) h hw ha

/-- No lane raises a flag where none does. -/
theorem flagsOf_none (ls : List Nat) : flagsOf ls (fun _ => {}) = {} := by
  induction ls with
  | nil => rfl
  | cons i ls ih => exact ih

theorem Thread.gotFp_quiet (t : Thread) (f : Std) (r : Nat → Nat) :
    t.gotFp f (fun k => (r k, {})) = (t.put f.dst.toNat 1 false 32 r).raise {} := by
  rw [Thread.gotFp, flagsOf_none]

/-- Settles O30: the conversions are equations of the lane-wise frame, and PACK's sum of three pieces is read bit by
bit. -/
theorem conversions : Obligations.Conversions := by
  unfold Obligations.Conversions
  constructor
  · rintro s t f F S md h rfl rfl hmd
    refine ⟨fun i m hi hw ha => exec_cvt_cvtt h hmd hi hw ha, fun w hw hpos hwr ha v hv => ?_,
      fun w sg hw hsg hwr ha r hr => exec_cvti h hw hsg hmd hwr ha fun k => (hr k).trans ?_⟩
    · subst hmd
      exact exec_cvtf h hw hpos hwr ha hv
    · cases (fmtOf (f.xt.toNat % 16)).decIn md (t.opnd f.a 1 (fmtOf (f.xt.toNat % 16)).bits k) <;> rfl
  · intro s t f h hw ha
    refine ⟨fun hb hty hxt => ⟨_, ?_, fun k => ⟨packInto_lt ?_ (t.opnd_lt f.b 1 32 k), fun j _ => packInto_testBit ..⟩⟩,
      ?_⟩
    · rw [exec_pack h hw ha hb, Thread.gotFp_quiet]
    · obtain hty | hty : f.ty.toNat = 0 ∨ f.ty.toNat = 1 := by omega
      all_goals
        simp only [hty] at hxt ⊢
        omega
    · rintro w rfl
      rw [exec_unpack h hw ha, Thread.gotFp_quiet]

end Sys2Proof.Machine
end

section
/-!
PROOFS. Rounding to a format is correct: to nearest no other code is nearer, and toward zero none lies between (O28).
-/

namespace Sys2Proof.Machine

/-! ### Rounding to a whole number (R62)

`X` is the exact value in units of the last place, `N` its whole part and `x` what is left over. -/

/-- What rounding `N + x` to a whole number may give: which of its two neighbours, and when it is exact. -/
structure RoundsTo (rnd N : Nat) (x : Rat) (r : Nat × Bool) : Prop where
  lower : 0 ≤ x
  upper : x < 1
  exact_iff : r.2 = true ↔ x = 0
  cases : r.1 = N ∨ r.1 = N + 1 ∧ 0 < x
  nearest : rnd = 0 → (r.1 = N ∧ x ≤ 1 / 2) ∨ (r.1 = N + 1 ∧ 1 / 2 ≤ x)
  towardZero : rnd = 1 → r.1 = N

theorem RoundsTo.whole (rnd N : Nat) : RoundsTo rnd N 0 (N, true) where
  lower := le_rfl
  upper := one_pos
  exact_iff := by simp
  cases := .inl rfl
  nearest _ := .inl ⟨rfl, by norm_num⟩
  towardZero _ := rfl

theorem roundShift_roundsTo (rnd : Nat) (neg : Bool) (m : Nat) {k : Nat} (hk : k ≠ 0) :
    RoundsTo rnd (m / 2 ^ k) ((m % 2 ^ k : Nat) / 2 ^ k : Rat) (roundShift rnd neg m k) := by
  have hpos : (0 : Rat) < 2 ^ k := by positivity
  have hlt : m % 2 ^ k < 2 ^ k := Nat.mod_lt _ (Nat.two_pow_pos k)
  generalize hr : m % 2 ^ k = r at hlt
  have hzero : (r : Rat) / 2 ^ k = 0 ↔ r = 0 := by simp [hpos.ne']
  have hhalf : (r : Rat) / 2 ^ k ≤ 1 / 2 ↔ 2 * r ≤ 2 ^ k := by
    rw [div_le_div_iff₀ hpos two_pos, one_mul, mul_comm]
    exact_mod_cast Iff.rfl
  have hhalf' : 1 / 2 ≤ (r : Rat) / 2 ^ k ↔ 2 ^ k ≤ 2 * r := by
    rw [div_le_div_iff₀ two_pos hpos, one_mul, mul_comm (r : Rat)]
    exact_mod_cast Iff.rfl
  have hup : 0 < (r : Rat) / 2 ^ k ↔ r ≠ 0 := by
    rw [div_pos_iff_of_pos_right hpos, Nat.cast_pos, Nat.pos_iff_ne_zero]
  have htwo : 0 < 2 ^ k := Nat.two_pow_pos k
  refine ⟨by positivity, (div_lt_one hpos).mpr (by exact_mod_cast hlt), ?_, ?_, ?_, ?_⟩
  · simp [roundShift, hk, hr, hzero]
  · rw [hup]
    by_cases h0 : r = 0
    · refine .inl ?_
      rcases rnd with _ | _ | _ | n <;> simp [roundShift, hk, hr, h0, htwo.ne]
    · simp only [roundShift, if_neg hk]
      exact (ite_eq_or_eq _ _ _).symm.imp id fun h => ⟨h, h0⟩
  · rintro rfl
    rw [hhalf, hhalf']
    simp only [roundShift, if_neg hk, hr]
    split
    · next h =>
      refine .inr ⟨rfl, ?_⟩
      simp only [Bool.or_eq_true, decide_eq_true_eq, Bool.and_eq_true, beq_iff_eq] at h
      omega
    · next h =>
      refine .inl ⟨rfl, ?_⟩
      simp only [Bool.or_eq_true, decide_eq_true_eq, Bool.and_eq_true, beq_iff_eq] at h
      omega
  · rintro rfl
    simp [roundShift, hk]

/-- A value in units of 2^q, rounded: its whole part and what is left over. -/
theorem quantize_roundsTo (rnd : Nat) (neg : Bool) (m : Nat) (e q : Int) : ∃ N x,
    (m : Rat) * 2 ^ (e - q) = (N : Nat) + x ∧ RoundsTo rnd N x (quantize rnd neg m e q) := by
  unfold quantize
  split
  · next h =>
    obtain ⟨k, hk⟩ := Int.eq_ofNat_of_zero_le (show 0 ≤ e - q by omega)
    refine ⟨m * 2 ^ k, 0, ?_, ?_⟩
    · rw [hk]
      push_cast
      rw [zpow_natCast, add_zero]
    · rw [hk]
      exact .whole rnd _
  · next h =>
    obtain ⟨k, hk⟩ := Int.eq_ofNat_of_zero_le (show 0 ≤ q - e by omega)
    refine ⟨m / 2 ^ k, (m % 2 ^ k : Nat) / 2 ^ k, ?_, ?_⟩
    · rw [show e - q = -(k : Int) by omega, zpow_neg, zpow_natCast, ← div_eq_mul_inv]
      have hm : (m : Rat) = 2 ^ k * (m / 2 ^ k : Nat) + (m % 2 ^ k : Nat) := by
        exact_mod_cast (Nat.div_add_mod m (2 ^ k)).symm
      have hpos : (2 : Rat) ^ k ≠ 0 := by positivity
      rw [div_eq_iff hpos, add_mul, div_mul_cancel₀ _ hpos, mul_comm, ← hm]
    · rw [hk]
      exact roundShift_roundsTo rnd neg m (by rintro rfl; omega)

section
variable {rnd N : Nat} {x : Rat} {r : Nat × Bool} (h : RoundsTo rnd N x r)
include h

/-- No whole number is nearer. -/
theorem RoundsTo.nearest_whole (h0 : rnd = 0) (n : Int) : |(r.1 : Rat) - (N + x)| ≤ |(n : Rat) - (N + x)| := by
  have hlower := h.lower
  have hupper := h.upper
  obtain ⟨hr, hx⟩ | ⟨hr, hx⟩ := h.nearest h0
  all_goals
    rw [hr]
    push_cast
    rcases le_or_gt n N with hn | hn
    · have hn : (n : Rat) ≤ N := by exact_mod_cast hn
      rw [abs_le, abs_of_nonpos (by linarith)]
      constructor <;> linarith
    · have hn : (N : Rat) + 1 ≤ n := by exact_mod_cast hn
      rw [abs_le, abs_of_nonneg (by linarith)]
      constructor <;> linarith

/-- The result is the value exactly where the rounding says so. -/
theorem RoundsTo.exact_iff_eq : r.2 = true ↔ (r.1 : Rat) = N + x := by
  rw [h.exact_iff]
  have hupper := h.upper
  obtain hr | ⟨hr, hx⟩ := h.cases
  · rw [hr]
    exact ⟨fun h0 => by rw [h0, add_zero], fun h0 => by linarith⟩
  · rw [hr]
    push_cast
    exact ⟨fun h0 => by linarith, fun h0 => by linarith⟩

end

/-! ### The magnitude of a code (R42, R45) -/

/-- The exponent of the least significant bit of a format's subnormals. -/
def FFmt.low (F : FFmt) : Int := 1 - F.bias - F.mbits

/-- The magnitude of a finite code without its sign. -/
def FFmt.mag (F : FFmt) (c : Nat) : Rat :=
  if c / 2 ^ F.mbits = 0 then (c % 2 ^ F.mbits : Nat) * 2 ^ F.low
  else (c % 2 ^ F.mbits + 2 ^ F.mbits : Nat) * 2 ^ (F.low + (c / 2 ^ F.mbits : Nat) - 1)

/-- Decoding a code of either sign gives its magnitude. -/
theorem FFmt.dec_magnitude {F : FFmt} {c : Nat} (hc : c % F.signBit ≤ F.maxCode) : ∃ n k e, F.dec c = .fin n k e ∧
    (k : Rat) * 2 ^ e = F.mag (c % F.signBit) := by
  simp only [FFmt.dec, if_neg (Nat.not_lt.mpr hc), FFmt.mag]
  split
  · exact ⟨_, _, _, rfl, rfl⟩
  · exact ⟨_, _, _, rfl, by rw [FFmt.low]; congr 2; omega⟩

/-- A significand of at most one bit more than the format holds, placed some steps above the lowest exponent, is the
magnitude of the code that stands for it: a significand that rounded up to the next power carries into the exponent. -/
theorem FFmt.mag_code (F : FFmt) {n r : Nat} (hr : r ≤ 2 ^ (F.mbits + 1)) (hn : n = 0 ∨ 2 ^ F.mbits ≤ r) :
    F.mag (n * 2 ^ F.mbits + r) = r * 2 ^ (F.low + n) := by
  have hpos : 0 < 2 ^ F.mbits := Nat.two_pow_pos _
  rw [Nat.pow_succ] at hr
  obtain hlt | ⟨r', rfl, hr'⟩ | rfl : r < 2 ^ F.mbits ∨ (∃ r', r = r' + 2 ^ F.mbits ∧ r' < 2 ^ F.mbits) ∨
      r = 2 * 2 ^ F.mbits := by
    by_cases h1 : r < 2 ^ F.mbits
    · exact .inl h1
    · by_cases h2 : r < 2 * 2 ^ F.mbits
      · exact .inr (.inl ⟨r - 2 ^ F.mbits, by omega, by omega⟩)
      · exact .inr (.inr (by omega))
  · obtain rfl : n = 0 := by omega
    simp [FFmt.mag, Nat.div_eq_of_lt hlt, Nat.mod_eq_of_lt hlt]
  · have hc : n * 2 ^ F.mbits + (r' + 2 ^ F.mbits) = r' + 2 ^ F.mbits * (n + 1) := by ring
    have hdiv : (r' + 2 ^ F.mbits * (n + 1)) / 2 ^ F.mbits = n + 1 := by
      rw [Nat.add_mul_div_left _ _ hpos, Nat.div_eq_of_lt hr', Nat.zero_add]
    rw [hc, FFmt.mag, hdiv, Nat.add_mul_mod_self_left, Nat.mod_eq_of_lt hr', if_neg (Nat.succ_ne_zero n)]
    congr 2
    push_cast
    ring
  · have hc : n * 2 ^ F.mbits + 2 * 2 ^ F.mbits = 2 ^ F.mbits * (n + 2) := by ring
    rw [hc, FFmt.mag, Nat.mul_div_cancel_left _ hpos, Nat.mul_mod_right, if_neg (by omega),
      show F.low + ((n + 2 : Nat) : Int) - 1 = F.low + n + 1 by push_cast; ring, zpow_add_one₀ two_ne_zero]
    push_cast
    ring

/-- In units of 2^q a magnitude is a whole number, or it lies at or below the numbers whose last place is 2^q. -/
theorem FFmt.mag_grid (F : FFmt) (d : Nat) {q : Int} (hq : F.low ≤ q) :
    (∃ n : Nat, F.mag d = n * 2 ^ q) ∨ (F.low < q ∧ F.mag d ≤ 2 ^ F.mbits * 2 ^ q) := by
  obtain ⟨k, x, hmag, hk, hx⟩ : ∃ (k : Nat) (x : Int), F.mag d = k * 2 ^ x ∧ k < 2 ^ (F.mbits + 1) ∧ F.low ≤ x := by
    have hmod : d % 2 ^ F.mbits < 2 ^ F.mbits := Nat.mod_lt _ (Nat.two_pow_pos _)
    rw [Nat.pow_succ]
    unfold FFmt.mag
    split
    · exact ⟨_, _, rfl, by omega, le_rfl⟩
    · next h => exact ⟨_, _, rfl, by omega, by have := Nat.pos_of_ne_zero h; omega⟩
  by_cases hqx : q ≤ x
  · obtain ⟨j, hj⟩ := Int.eq_ofNat_of_zero_le (show 0 ≤ x - q by omega)
    refine .inl ⟨k * 2 ^ j, ?_⟩
    rw [hmag, show x = (j : Int) + q by omega, zpow_add₀ two_ne_zero, zpow_natCast]
    push_cast
    ring
  · refine .inr ⟨by omega, ?_⟩
    have hk : (k : Rat) ≤ 2 ^ (F.mbits + 1) := by exact_mod_cast hk.le
    calc F.mag d = k * 2 ^ x := hmag
      _ ≤ 2 ^ (F.mbits + 1) * 2 ^ (q - 1) :=
        mul_le_mul hk (zpow_le_zpow_right₀ one_le_two (by omega)) (by positivity) (by positivity)
      _ = 2 ^ F.mbits * 2 ^ q := by rw [zpow_sub_one₀ two_ne_zero, pow_succ]; ring

/-! ### Rounding to a format (R47, R191) -/

/-- The exponent of the last place that a value keeps. -/
def FFmt.ulp (F : FFmt) (m : Nat) (e : Int) : Int := max ((Nat.log2 m : Int) + e - F.mbits) F.low

theorem FFmt.low_le_ulp (F : FFmt) (m : Nat) (e : Int) : F.low ≤ F.ulp m e := le_max_right ..

/-- A value is less than twice the least value that has its last place; above the subnormals it is at least that. -/
theorem FFmt.ulp_bounds (F : FFmt) {m : Nat} (hm : 0 < m) (e : Int) :
    (m : Rat) * 2 ^ (e - F.ulp m e) < 2 ^ (F.mbits + 1) ∧
    (F.low < F.ulp m e → (2 : Rat) ^ F.mbits ≤ m * 2 ^ (e - F.ulp m e)) := by
  have hlt : (m : Rat) < 2 ^ (Nat.log2 m + 1) := by exact_mod_cast Nat.lt_log2_self
  have hle : (2 : Rat) ^ Nat.log2 m ≤ m := by exact_mod_cast Nat.log2_self_le hm.ne'
  have hulp : F.ulp m e = max ((Nat.log2 m : Int) + e - F.mbits) F.low := rfl
  constructor
  · calc (m : Rat) * 2 ^ (e - F.ulp m e) < 2 ^ (Nat.log2 m + 1) * 2 ^ (e - F.ulp m e) :=
        mul_lt_mul_of_pos_right hlt (by positivity)
      _ = 2 ^ ((Nat.log2 m : Int) + 1 + (e - F.ulp m e)) := by
        rw [zpow_add₀ two_ne_zero]
        norm_cast
      _ ≤ 2 ^ ((F.mbits : Int) + 1) := zpow_le_zpow_right₀ one_le_two (by omega)
      _ = 2 ^ (F.mbits + 1) := by norm_cast
  · intro h
    calc (2 : Rat) ^ F.mbits = 2 ^ (Nat.log2 m) * 2 ^ (e - F.ulp m e) := by
          rw [← zpow_natCast, ← zpow_natCast, ← zpow_add₀ two_ne_zero]
          congr 1
          omega
      _ ≤ m * 2 ^ (e - F.ulp m e) := mul_le_mul_of_nonneg_right hle (by positivity)

/-- The code of a rounded value that does not overflow and is not flushed. -/
theorem FFmt.round_eq {F : FFmt} {md : FpMode} {neg : Bool} {m : Nat} {e : Int} (hsub : md.sub ≠ 2)
    (hof : (F.round md neg m e).2.of_ = false) {r : Nat × Bool} (hr : r = quantize md.rnd neg m e (F.ulp m e))
    {code : Nat} (hc : code = (F.ulp m e - F.low).toNat * 2 ^ F.mbits + r.1) :
    code ≤ F.maxCode ∧ (F.round md neg m e).1 = F.signed neg code ∧ (F.round md neg m e).2.nx = !r.2 := by
  subst hr hc
  unfold FFmt.round at hof ⊢
  dsimp only at hof ⊢
  rw [show (1 : Int) - F.bias - F.mbits = F.low from rfl,
    show max ((Nat.log2 m : Int) + e - F.mbits) F.low = F.ulp m e from rfl] at hof ⊢
  split at hof
  · cases hof
  · next h =>
    rw [if_neg h, if_neg fun h2 => hsub h2.2]
    exact ⟨Nat.not_lt.mp h, rfl, rfl⟩

section
variable {F : FFmt} {m rnd N : Nat} {e : Int} {x : Rat} {r : Nat × Bool} (hm : 0 < m)
  (hX : (m : Rat) * 2 ^ (e - F.ulp m e) = (N : Nat) + x) (hr : RoundsTo rnd N x r)
include hX

theorem FFmt.exact_eq : (m : Rat) * 2 ^ e = (N + x) * 2 ^ F.ulp m e := by
  rw [← hX, mul_assoc, ← zpow_add₀ two_ne_zero, sub_add_cancel]

include hm hr

/-- Above the subnormals the whole part fills the significand. -/
theorem FFmt.whole_of_low_lt (h : F.low < F.ulp m e) : 2 ^ F.mbits ≤ N := by
  have hle := (F.ulp_bounds hm e).2 h
  rw [hX] at hle
  have hlt : (2 : Rat) ^ F.mbits < (N + 1 : Nat) := by
    push_cast
    linarith [hr.upper]
  exact Nat.lt_succ_iff.mp (by exact_mod_cast hlt)

/-- The magnitude of the code that rounding forms is the rounded significand at its last place. -/
theorem FFmt.mag_rounded : F.mag ((F.ulp m e - F.low).toNat * 2 ^ F.mbits + r.1) = r.1 * 2 ^ F.ulp m e := by
  have hlow := F.low_le_ulp m e
  have hN : N < 2 ^ (F.mbits + 1) := by
    have hlt := (F.ulp_bounds hm e).1
    rw [hX] at hlt
    have hlt : (N : Rat) < 2 ^ (F.mbits + 1) := by linarith [hr.lower]
    exact_mod_cast hlt
  have hfull : F.low < F.ulp m e → 2 ^ F.mbits ≤ N := FFmt.whole_of_low_lt hm hX hr
  have hcases := hr.cases
  rw [F.mag_code (by omega) (by omega), Int.toNat_of_nonneg (by omega), add_sub_cancel]

end

/-- A code with a sign, taken apart (R42). -/
theorem FFmt.signed_parts {F : FFmt} {neg : Bool} {code : Nat} (h : code < F.signBit) :
    F.signed neg code % F.signBit = code ∧ F.signed neg code / F.signBit = if neg then 1 else 0 := by
  cases neg
  · simp [FFmt.signed, bit, Nat.mod_eq_of_lt h, Nat.div_eq_of_lt h]
  · simp [FFmt.signed, bit, Nat.mod_eq_of_lt h, Nat.div_eq_of_lt h, Nat.add_div_right _ (Nat.zero_lt_of_lt h)]

/-- Settles O28: in units of the last place the result is the exact value rounded to a whole number, and every other
code is such a whole number too or lies below all values that keep that place. -/
theorem roundingIsCorrect : Obligations.RoundingIsCorrect := by
  unfold Obligations.RoundingIsCorrect
  intro F md neg m e hF hsub hm val hval c fl hround hof
  have hmax : F.maxCode < F.signBit := by
    simp only [List.mem_cons, List.not_mem_nil, or_false] at hF
    obtain rfl | rfl | rfl := hF <;> decide
  have hmag {d : Nat} (hd : d % F.signBit ≤ F.maxCode) : val d = F.mag (d % F.signBit) := by
    obtain ⟨n, k, x, hdec, hk⟩ := FFmt.dec_magnitude hd
    rw [hval, hdec, ← hk]
  have hmag' {d : Nat} (hd : d ≤ F.maxCode) : val d = F.mag d := by
    have := Nat.mod_eq_of_lt (hd.trans_lt hmax)
    rw [hmag (this.symm ▸ hd), this]
  obtain ⟨hcode, hc, hnx⟩ := FFmt.round_eq (F := F) hsub (by rw [hround]; exact hof) rfl rfl
  rw [hround] at hc hnx
  dsimp only at hc hnx
  obtain ⟨N, x, hX, hr⟩ := quantize_roundsTo md.rnd neg m e (F.ulp m e)
  have hres := FFmt.mag_rounded hm hX hr
  have hfull (h : F.low < F.ulp m e) : (2 : Rat) ^ F.mbits ≤ N := by exact_mod_cast FFmt.whole_of_low_lt hm hX hr h
  have hgrid (d : Nat) := F.mag_grid d (F.low_le_ulp m e)
  have hpos : (0 : Rat) < 2 ^ F.ulp m e := by positivity
  obtain ⟨hmod, hdiv⟩ := FFmt.signed_parts (neg := neg) (hcode.trans_lt hmax)
  rw [← hc] at hmod hdiv
  rw [hmag (hmod.symm ▸ hcode), hmod, hres, FFmt.exact_eq hX]
  generalize quantize md.rnd neg m e (F.ulp m e) = r at hcode hnx hr
  generalize (2 : Rat) ^ F.ulp m e = u at hgrid hpos
  refine ⟨hcode, hdiv, ?_, fun h0 d hd => ?_, fun h1 => ?_⟩
  · rw [hnx, Ne, mul_left_inj' hpos.ne', ← hr.exact_iff_eq]
    cases r.2 <;> simp
  · rw [hmag' hd, ← sub_mul, abs_mul, abs_of_pos hpos]
    obtain ⟨n, hn⟩ | ⟨hlow, hle⟩ := hgrid d
    · rw [hn, ← sub_mul, abs_mul, abs_of_pos hpos]
      exact mul_le_mul_of_nonneg_right (hr.nearest_whole h0 n) hpos.le
    · have hN := hfull hlow
      have hx := hr.lower
      calc |(r.1 : Rat) - (N + x)| * u ≤ |((2 ^ F.mbits : Int) : Rat) - (N + x)| * u :=
            mul_le_mul_of_nonneg_right (hr.nearest_whole h0 _) hpos.le
        _ = (N + x) * u - 2 ^ F.mbits * u := by
            push_cast
            rw [abs_of_nonpos (by linarith)]
            ring
        _ ≤ |F.mag d - (N + x) * u| := by
            rw [abs_sub_comm]
            exact le_trans (by linarith) (le_abs_self _)
  · rw [hr.towardZero h1]
    refine ⟨mul_le_mul_of_nonneg_right (by linarith [hr.lower]) hpos.le, fun d hd hval => ?_⟩
    rw [hmag' hd] at hval ⊢
    obtain ⟨n, hn⟩ | ⟨hlow, hle⟩ := hgrid d
    · rw [hn] at hval ⊢
      have hlt : (n : Rat) < (N + 1 : Nat) := by
        push_cast
        linarith [le_of_mul_le_mul_right hval hpos, hr.upper]
      exact mul_le_mul_of_nonneg_right (by exact_mod_cast Nat.lt_succ_iff.mp (by exact_mod_cast hlt)) hpos.le
    · exact hle.trans (mul_le_mul_of_nonneg_right (hfull hlow) hpos.le)

end Sys2Proof.Machine
end

section
/-!
PROOFS. FDOT, VRED and VSCAN (O29).
-/

namespace Sys2Proof.Machine

/-! ### FDOT (R198, R199) -/

/-- A lane's vector of FDOT that lies where it may be read at once: aligned, and where it is not empty in the valid
scratchpad, unheld, pinned and without poison (R198). -/
def State.vectorOk (s : State) (t : Thread) (size n o : Nat) : Prop :=
  o % size = 0 ∧ (0 < n → o + n * size ≤ scrLimit (s.hdrOf t) (s.wgOf t) ∧
    s.ranged t o (n * size) = false ∧
    (∀ l ∈ (s.wgOf t).scrPoison, l * 128 + 128 ≤ o ∨ o + n * size ≤ l * 128) ∧
    ∀ p, o < (p + 1) * 16384 → p * 16384 < o + n * size → p ∈ (s.wgOf t).pinned)

/-- The elements of a vector in the scratchpad. -/
def State.vectorElems (s : State) (t : Thread) (size n o : Nat) : List Nat :=
  (List.range n).map fun j => (s.wgOf t).scr.getNat (o + size * j) size

section
variable {s : State} {t : Thread} {size n : Nat} {offs : Nat → List Nat}
  (hv : ∀ k ∈ t.active, ∀ o ∈ offs k, s.vectorOk t size n o)
include hv

theorem fdot_aligned : t.active.filter (fun i => (offs i).any fun o => o % size != 0) = [] :=
  List.filter_eq_nil_iff.mpr fun i hi => by
    have hal (o : Nat) (ho : o ∈ offs i) : o % size = 0 := (hv i hi o ho).1
    simpa using hal

theorem fdot_inside :
    t.active.filter (fun i => (fdotHole (scrLimit (s.hdrOf t) (s.wgOf t)) size n (offs i)).isSome) = [] := by
  refine List.filter_eq_nil_iff.mpr fun i hi => ?_
  rw [fdotHole, List.findSome?_eq_none_iff.mpr]
  · simp
  · intro o ho
    obtain ⟨-, hread⟩ := hv i hi o ho
    refine if_neg fun hc => ?_
    obtain ⟨hlim, -⟩ := hread (Nat.pos_of_ne_zero hc.1)
    omega

theorem fdot_clean :
    t.active.filter (fun i => (fdotPoison (s.wgOf t).scrPoison size n (offs i)).isSome) = [] := by
  refine List.filter_eq_nil_iff.mpr fun i hi => ?_
  rw [fdotPoison, List.findSome?_eq_none_iff.mpr]
  · simp
  · intro o ho
    obtain ⟨-, hread⟩ := hv i hi o ho
    have hnil : (s.wgOf t).scrPoison.filterMap (fun l =>
        if n ≠ 0 ∧ l * 128 < o + n * size ∧ o < l * 128 + 128 then
          some (baseScr + max o (l * 128 - (l * 128 - o) % size)) else none) = [] := by
      refine List.filterMap_eq_nil_iff.mpr fun l hl => if_neg fun hc => ?_
      obtain ⟨-, -, hpoison, -⟩ := hread (Nat.pos_of_ne_zero hc.1)
      have := hpoison l hl
      omega
    simp only [hnil]

theorem fdot_unheld :
    (t.active.any fun i => (offs i).any fun o => n != 0 && s.ranged t o (n * size)) = false := by
  refine List.any_eq_false.mpr fun i hi => Bool.not_eq_true _ ▸ List.any_eq_false.mpr fun o ho => ?_
  obtain ⟨-, hread⟩ := hv i hi o ho
  rcases Nat.eq_zero_or_pos n with rfl | hn
  · simp
  · obtain ⟨-, hfree, -⟩ := hread hn
    simp [hfree]

theorem fdot_pinned (hs : 0 < size) : (t.active.flatMap fun i => (offs i).flatMap fun o =>
    if n = 0 then []
    else ((List.range ((o + n * size - 1) / 16384 + 1 - o / 16384)).map (o / 16384 + ·)).filter fun p =>
      !(s.wgOf t).pinned.contains p) = [] := by
  refine List.flatMap_eq_nil_iff.mpr fun i hi => List.flatMap_eq_nil_iff.mpr fun o ho => ?_
  split
  · rfl
  · next hn =>
    obtain ⟨-, hread⟩ := hv i hi o ho
    obtain ⟨-, -, -, hpin⟩ := hread (Nat.pos_of_ne_zero hn)
    refine List.filter_eq_nil_iff.mpr fun p hp => ?_
    obtain ⟨j, hj, rfl⟩ := List.mem_map.mp hp
    rw [List.mem_range] at hj
    have hpos : 0 < n * size := Nat.mul_pos (Nat.pos_of_ne_zero hn) hs
    have hmem : o / 16384 + j ∈ (s.wgOf t).pinned := hpin _ (by omega) (by omega)
    simp [hmem]

end

/-- FDOT over vectors that may be read at once accumulates each lane's dot product. -/
theorem exec_fdot {s : State} {t : Thread} {f : Std} {size n : Nat} {x y : Nat → Nat} {r : Nat → Nat × FpFlags}
    (h : s.At t) (hb : t.busy = false) (hsize : size = (fmtOf f.ty.toNat).bits / 8)
    (hd : t.canReadV f.dst.toNat 1 = .ok ⟨⟩) (ha : t.canRead f.a 1 = .ok ⟨⟩) (hbr : t.canRead f.b 1 = .ok ⟨⟩)
    (hc : t.canRead f.c 1 = .ok ⟨⟩) (hn : n = t.opnd f.c 1 64 0) (hx : x = t.opnd f.a 1 32) (hy : y = t.opnd f.b 1 32)
    (hlen : n ≤ 65535) (hpos : 0 < size) (hv : ∀ k ∈ t.active, ∀ o ∈ [x k, y k], s.vectorOk t size n o)
    (hr : ∀ k, r k = fdot (fmtOf f.ty.toNat) (t.fpMode f.fpc) (t.regs.v.get (64 * f.dst.toNat + k)).toNat
      (s.vectorElems t size n (x k)) (s.vectorElems t size n (y k))) :
    exec (.fdot f) s = .next (s.after t (t.gotFp f r).advance) := by
  obtain rfl := funext hr
  subst hsize hn hx hy
  refine run_done h ?_ (t.gotFp_side ..) (t.gotFp_wg ..)
  have hlen : ¬ 65535 < t.uni f.c := Nat.not_lt.mpr hlen
  have hv : ∀ k ∈ t.active, ∀ o ∈ [t.opnd f.a 1 32 k, t.opnd f.b 1 32 k],
      s.vectorOk t ((fmtOf f.ty.toNat).bits / 8) (t.uni f.c) o := hv
  simp only [quiet_ok hb, hd, ha, hbr, hc, bind, Except.bind, if_neg hlen, fdot_aligned hv, fdot_inside hv,
    fdot_clean hv, fdot_unheld hv, fdot_pinned hv hpos]
  rfl

theorem exec_fdot_tooLong {s : State} {t : Thread} {f : Std} (h : s.At t) (hb : t.busy = false)
    (hd : t.canReadV f.dst.toNat 1 = .ok ⟨⟩) (ha : t.canRead f.a 1 = .ok ⟨⟩) (hbr : t.canRead f.b 1 = .ok ⟨⟩)
    (hc : t.canRead f.c 1 = .ok ⟨⟩) (hlen : 65535 < t.opnd f.c 1 64 0) :
    exec (.fdot f) s = .next (s.trapped t { cls := 1, sub := 1 }) := by
  have hlen : 65535 < t.uni f.c := hlen
  exact run_trap h hb (by simp only [quiet_ok hb, hd, ha, hbr, hc, bind, Except.bind, if_pos hlen]; rfl)

/-! ### Integer VRED and VSCAN (R187, R188) -/

/-- An operation by its number, as R122 lists them. -/
theorem redInt_eq {op : Nat} (ho : op < 6) (sg : Bool) (w a b : Nat) : redInt sg w op a b =
    [(a + b) % 2 ^ w, if tInt sg w a ≤ tInt sg w b then a else b,
      if tInt sg w a ≤ tInt sg w b then b else a, a &&& b, a ||| b, a ^^^ b].getD op 0 := by
  interval_cases op <;> rfl

/-- Values combined in lane order by an operation that raises no flag. -/
theorem foldRed_quiet (op : Nat → Nat → Nat) (y : Nat) (ys : List Nat) :
    foldRed (y :: ys) (fun a b => (op a b, {})) = (ys.foldl op y, {}) := by
  simp only [foldRed]
  induction ys generalizing y with
  | nil => rfl
  | cons z ys ih => exact ih (op y z)

@[simp] theorem Thread.raise_none (t : Thread) : t.raise {} = t := by
  have hbits : FpFlags.bits {} = 0 := by decide
  simp [Thread.raise, hbits]

/-- With EM zero nothing is written (R136). -/
theorem Thread.put_of_no_lane {t : Thread} (h : t.active = []) (d n : Nat) (sg : Bool) (bits : Nat) (f : Nat → Nat) :
    t.put d n sg bits f = t := by
  have hs : t.side ≠ .mcc := fun hs => by simp [Thread.active, hs] at h
  simp [Thread.put, hs, h, Regs.writeV]

/-! ### F32 VRED by the fixed tree (R187) -/

/-- A node of the tree from the two below it: two present ones are added, one passes unchanged. -/
def treeNode (md : FpMode) : Option (Nat × FpFlags) → Option (Nat × FpFlags) → Option (Nat × FpFlags)
  | some a, some b => some ((F32.add md a.1 b.1).1, (a.2.or b.2).or (F32.add md a.1 b.1).2)
  | some a, none => some a
  | none, b => b

theorem treeLevel_cons (md : FpMode) (a b : Option (Nat × FpFlags)) (r : List (Option (Nat × FpFlags))) :
    treeLevel md (a :: b :: r) = treeNode md a b :: treeLevel md r := by
  cases a <;> cases b <;> rfl

theorem range_two_mul_succ_map {α : Type} (g : Nat → α) (n : Nat) :
    (List.range (2 * (n + 1))).map g = g 0 :: g 1 :: (List.range (2 * n)).map fun i => g (i + 2) := by
  rw [show 2 * (n + 1) = 2 * n + 1 + 1 by omega, List.range_succ_eq_map, List.range_succ_eq_map]
  simp [Function.comp_def]

theorem treeLevel_range (md : FpMode) (g : Nat → Option (Nat × FpFlags)) (n : Nat) :
    treeLevel md ((List.range (2 * n)).map g) =
      (List.range n).map fun j => treeNode md (g (2 * j)) (g (2 * j + 1)) := by
  induction n generalizing g with
  | zero => rfl
  | succ n ih =>
    rw [range_two_mul_succ_map, treeLevel_cons, ih, List.range_succ_eq_map]
    simp only [List.map_cons, List.map_map]
    rfl

/-- The tree of 64 positions and 6 levels, node by node. -/
theorem treeSum_eq {md : FpMode} {node : Nat → Nat → Option (Nat × FpFlags)}
    (h : ∀ l j, node (l + 1) j = treeNode md (node l (2 * j)) (node l (2 * j + 1))) :
    treeSum md ((List.range 64).map (node 0)) = (node 6 0).getD (0, {}) := by
  have hlevel (l n : Nat) : treeLevel md ((List.range (2 * n)).map (node l)) = (List.range n).map (node (l + 1)) := by
    rw [treeLevel_range]
    exact List.map_congr_left fun j _ => (h l j).symm
  simp only [treeSum, hlevel 0 32, hlevel 1 16, hlevel 2 8, hlevel 3 4, hlevel 4 2, hlevel 5 1]
  rfl

/-! ### VRED and VSCAN (R187, R188) -/

theorem exec_vred {s : State} {t : Thread} {f : Std} (h : s.At t)
    (hw : t.canWrite f.dst.toNat (regsOf (tyBits f.xty f.ty)) = .ok ⟨⟩)
    (ha : t.canRead f.a (regsOf (tyBits f.xty f.ty)) = .ok ⟨⟩) :
    exec (.vred f) s = .next (s.after t ((t.put f.dst.toNat (regsOf (tyBits f.xty f.ty)) (tySigned f.xty f.ty)
      (tyBits f.xty f.ty) fun _ => (t.vred f).1).raise (t.vred f).2).advance) :=
  run_done h (by simp only [hw, ha]; rfl) (by simp) (by simp)

theorem exec_vscan {s : State} {t : Thread} {f : Std} (h : s.At t)
    (hw : t.canWrite f.dst.toNat (regsOf (tyBits f.xty f.ty)) = .ok ⟨⟩)
    (ha : t.canRead f.a (regsOf (tyBits f.xty f.ty)) = .ok ⟨⟩) :
    exec (.vscan f) s = .next (s.after t ((t.put f.dst.toNat (regsOf (tyBits f.xty f.ty)) (tySigned f.xty f.ty)
      (tyBits f.xty f.ty) fun k => (t.vscan f k).1).raise (flagsOf t.active fun k => (t.vscan f k).2)).advance) :=
  run_done h (by simp only [hw, ha]; rfl) (by simp) (by simp)

/-- The operand of a lane in its type. -/
def Thread.typed (t : Thread) (f : Std) (k : Nat) : Nat := t.opnd f.a (regsOf (tyBits f.xty f.ty)) (tyBits f.xty f.ty) k

/-- The lanes whose values VSCAN gives a lane (R188). -/
def Thread.below (t : Thread) (f : Std) (k : Nat) : List Nat :=
  t.active.filter fun j => if f.xt.getLsbD 0 then decide (j < k) else decide (j ≤ k)

theorem Thread.vscan_eq (t : Thread) (f : Std) (k : Nat) : t.vscan f k =
    if t.below f k = [] then (scanIdentity f, {})
    else if f.ty = 8 ∧ f.xty = 0 then
      redEnd (t.fpMode f.fpc) ((t.below f k).map (t.typed f))
        (foldF32 (t.fpMode f.fpc) ((t.below f k).map (t.typed f)) (redF32 (t.fpMode f.fpc) f.op.toNat))
    else foldRed ((t.below f k).map (t.typed f)) fun a b =>
      (redInt (tySigned f.xty f.ty) (tyBits f.xty f.ty) f.op.toNat a b, {}) := by
  have hempty : ((t.below f k).map (t.typed f)).isEmpty = true ↔ t.below f k = [] := by
    rw [List.isEmpty_iff, List.map_eq_nil_iff]
  exact if_congr hempty rfl rfl

/-! ### Integer forms -/

section
variable {t : Thread} {f : Std} {op : Nat → Nat → Nat} {comb : List Nat → Nat} (hty : f.ty.toNat < 8)
  (hop : f.op.toNat < 6)
  (h2 : ∀ a b, op a b = [(a + b) % 2 ^ tyBits f.xty f.ty,
    if tInt (tySigned f.xty f.ty) (tyBits f.xty f.ty) a ≤ tInt (tySigned f.xty f.ty) (tyBits f.xty f.ty) b then a else b,
    if tInt (tySigned f.xty f.ty) (tyBits f.xty f.ty) a ≤ tInt (tySigned f.xty f.ty) (tyBits f.xty f.ty) b then b else a,
    a &&& b, a ||| b, a ^^^ b].getD f.op.toNat 0)
  (hc : ∀ ys, comb ys = match ys with
    | [] => [0, if tySigned f.xty f.ty then 2 ^ (tyBits f.xty f.ty - 1) - 1 else 2 ^ tyBits f.xty f.ty - 1,
        if tySigned f.xty f.ty then 2 ^ (tyBits f.xty f.ty - 1) else 0, 2 ^ tyBits f.xty f.ty - 1, 0, 0].getD f.op.toNat 0
    | y :: r => r.foldl op y)

include hty in
theorem not_f32_of_int : ¬ (f.ty = 8 ∧ f.xty = 0) := fun h => by
  rw [h.1] at hty
  exact absurd hty (by decide)

include hty hop in
theorem scanIdentity_int : scanIdentity f =
    [0, if tySigned f.xty f.ty then 2 ^ (tyBits f.xty f.ty - 1) - 1 else 2 ^ tyBits f.xty f.ty - 1,
      if tySigned f.xty f.ty then 2 ^ (tyBits f.xty f.ty - 1) else 0, 2 ^ tyBits f.xty f.ty - 1, 0, 0].getD f.op.toNat 0 := by
  have hflt : (f.ty == 8 && f.xty == 0) = false := by simpa using not_f32_of_int hty
  simp only [scanIdentity, hflt]
  generalize f.op.toNat = o at hop
  interval_cases o <;> rfl

include hty in
/-- With EM zero there is nothing to combine. -/
theorem vred_int_none (hact : t.active = []) : t.vred f = (0, {}) :=
  (if_neg (not_f32_of_int hty)).trans (by rw [hact]; rfl)

include hop h2 hc

/-- Present values combined in lane order. -/
theorem foldRed_int {ys : List Nat} (hy : ys ≠ []) :
    foldRed ys (fun a b => (redInt (tySigned f.xty f.ty) (tyBits f.xty f.ty) f.op.toNat a b, {})) = (comb ys, {}) := by
  obtain rfl : redInt (tySigned f.xty f.ty) (tyBits f.xty f.ty) f.op.toNat = op :=
    funext fun a => funext fun b => (redInt_eq hop ..).trans (h2 a b).symm
  obtain ⟨y, r, rfl⟩ := List.exists_cons_of_ne_nil hy
  rw [foldRed_quiet, hc]

include hty

theorem vred_int (hact : t.active ≠ []) : t.vred f = (comb (t.active.map (t.typed f)), {}) := by
  have hmap : t.active.map (t.typed f) ≠ [] := by simpa using hact
  rw [← foldRed_int hop h2 hc hmap]
  exact if_neg (not_f32_of_int hty)

theorem vscan_int (k : Nat) : t.vscan f k = (comb ((t.below f k).map (t.typed f)), {}) := by
  rw [Thread.vscan_eq, if_neg (not_f32_of_int hty)]
  split
  · next hb => rw [hb, List.map_nil, hc, scanIdentity_int hty hop]
  · next hb => exact foldRed_int hop h2 hc (by simpa using hb)

end

/-! ### F32 forms -/

section
variable {t : Thread} {f : Std} {md : FpMode} {two : Nat → Nat → Nat × FpFlags} {comb : List Nat → Nat × FpFlags}
  {ends : List Nat → Nat × FpFlags → Nat × FpFlags}
  (hf : f.ty = 8 ∧ f.xty = 0) (hop : f.op.toNat < 3) (hmd : md = t.fpMode f.fpc)
  (h2 : ∀ a b, two a b = if f.op = 0 then F32.add md a b else F32.minmax md (f.op == 2) false a b)
  (hc : ∀ ys, comb ys = match ys with
    | [] => (0, {})
    | [y] => (if (F32.dec y).isNan then F32.passNan md (F32.dec y) else F32.flushIn md y, {})
    | y :: r => r.foldl (fun a z => ((two a.1 z).1, a.2.or (two a.1 z).2)) (y, {}))
  (he : ∀ ys r, ends ys r = (if md.can = true ∧ (F32.dec r.1).isNan = true then F32.canonical else r.1,
    { r.2 with nv := r.2.nv || ys.any fun y => (F32.dec y).signalling }))

include hf hop in
theorem scanIdentity_f32 : scanIdentity f = [0x80000000, 0x7F800000, 0xFF800000].getD f.op.toNat 0 := by
  have hflt : (f.ty == 8 && f.xty == 0) = true := by simpa using hf
  simp only [scanIdentity, hflt]
  generalize f.op.toNat = o at hop
  interval_cases o <;> rfl

include hop h2 hc in
/-- Values combined in lane order; one alone is delivered quiet and flushed (R46, R48). -/
theorem foldF32_eq (ys : List Nat) : foldF32 md ys (redF32 md f.op.toNat) = comb ys := by
  obtain rfl : redF32 md f.op.toNat = two := funext fun a => funext fun b => by
    rw [h2]
    obtain h0 | h0 | h0 : f.op = 0 ∨ f.op = 1 ∨ f.op = 2 := by
      simp only [← BitVec.toNat_inj]
      change f.op.toNat = 0 ∨ f.op.toNat = 1 ∨ f.op.toNat = 2
      omega
    all_goals rw [h0]; rfl
  rw [hc]
  rcases ys with _ | ⟨y, _ | ⟨z, r⟩⟩ <;> rfl

include hf hop hmd h2 hc he

theorem vred_f32 {node : Nat → Nat → Option (Nat × FpFlags)}
    (h0 : ∀ i, node 0 i = if i < 64 ∧ i ∈ t.active then some (t.typed f i, {}) else none)
    (hn : ∀ l j, node (l + 1) j = treeNode md (node l (2 * j)) (node l (2 * j + 1))) :
    t.vred f = ends (t.active.map (t.typed f))
      (if f.op = 0 then (node 6 0).getD (0, {}) else comb (t.active.map (t.typed f))) := by
  have hleaves : ((List.range 64).map fun i => if t.active.contains i then some (t.typed f i, {}) else none) =
      (List.range 64).map (node 0) := List.map_congr_left fun i hi => by
    simp [h0, List.mem_range.mp hi]
  rw [he, ← treeSum_eq hn, ← hleaves, ← foldF32_eq hop h2 hc, hmd]
  exact if_pos hf

theorem vscan_f32 (k : Nat) : t.vscan f k = if t.below f k = [] then
      ([0x80000000, 0x7F800000, 0xFF800000].getD f.op.toNat 0, {})
    else ends ((t.below f k).map (t.typed f)) (comb ((t.below f k).map (t.typed f))) := by
  rw [Thread.vscan_eq, if_pos hf, scanIdentity_f32 hf hop, he, ← foldF32_eq hop h2 hc, hmd]
  rfl

end

/-- Settles O29: FDOT by what its vectors' checks leave, the rest by what VRED and VSCAN combine, whose tree is taken level
by level. -/
theorem floatAcrossLanes : Obligations.FloatAcrossLanes := by
  unfold Obligations.FloatAcrossLanes
  constructor
  · rintro s t f F size n x y h hb rfl hsize hd ha hbr hc hn hx hy
    refine ⟨fun hlen => exec_fdot_tooLong h hb hd ha hbr hc (hn ▸ hlen), fun hlen hpos hv r hr => ⟨?_, fun h0 k => ?_⟩⟩
    · exact exec_fdot h hb hsize hd ha hbr hc hn hx hy hlen hpos hv hr
    · rw [hr, h0]
      rfl
  · rintro s t f w sg x md below h rfl rfl hmd hw ha hx hxty hop hbelow
    obtain rfl := funext hbelow
    subst hx
    refine ⟨fun hty op comb h2 hc => ⟨?_, ?_⟩,
      fun hty hop two comb ends node h2 hc he h0 hn => ⟨fun r hr => ?_, fun r hr => ?_⟩⟩
    · rw [exec_vred h hw ha]
      by_cases hact : t.active = []
      · rw [vred_int_none hty hact, Thread.raise_none, Thread.put_of_no_lane hact, Thread.put_of_no_lane hact]
      · rw [vred_int hty hop h2 hc hact, Thread.raise_none]
        rfl
    · rw [exec_vscan h hw ha]
      simp only [vscan_int hty hop h2 hc, flagsOf_none, Thread.raise_none]
      rfl
    · have hn (l j : Nat) : node (l + 1) j = treeNode md (node l (2 * j)) (node l (2 * j + 1)) :=
        (hn l j).trans (by cases node l (2 * j) <;> cases node l (2 * j + 1) <;> rfl)
      rw [exec_vred h hw ha, vred_f32 ⟨hty, hxty⟩ hop hmd h2 hc he h0 hn, hr]
      rfl
    · obtain rfl := funext hr
      rw [exec_vscan h hw ha]
      simp only [vscan_f32 ⟨hty, hxty⟩ hop hmd h2 hc he]
      rfl

end Sys2Proof.Machine
end

section
/-!
PROOFS. Register instructions change their thread's destination, CC and flags and nothing else (O59).
-/

namespace Sys2Proof.Machine

/-! ### What a lane-wise write leaves as it was (R136, R141) -/

theorem setLanes_get_other {w : Nat} (m : Store w) {base k : Nat} (f : Nat → BitVec w) {ls : List Nat}
    (h : ∀ i ∈ ls, base + i ≠ k) : (setLanes m base f ls).get k = m.get k := by
  induction ls generalizing m with
  | nil => rfl
  | cons i ls ih =>
    exact (ih (m.set (base + i) (f i)) fun j hj => h j (List.mem_cons_of_mem _ hj)).trans
      (Store.get_set_other m _ (h i List.mem_cons_self))

theorem Tab.get?_takeOver (m : Tab Nat) {r n k : Nat} (h : k < r ∨ r + n ≤ k) :
    Tab.get? (takeOver m r n) k = Tab.get? m k := by
  induction m with
  | nil => rfl
  | cons e m ih =>
    rw [takeOver, List.filter_cons]
    split
    · simp only [Tab.get?]
      rw [← ih]
      rfl
    · next hin =>
      have hin : r ≤ e.1 ∧ e.1 < r + n := by simpa using hin
      have hk : e.1 ≠ k := by omega
      simp only [Tab.get?, if_neg hk]
      exact ih

theorem Regs.putV_eq (r : Regs) (d : Nat) (ls : List Nat) (f : Nat → Nat) (n : Nat) :
    ∃ v, r.putV d ls f n = { r with v := v } := by
  induction n with
  | zero => exact ⟨r.v, rfl⟩
  | succ n ih =>
    obtain ⟨v, hv⟩ := ih
    exact ⟨_, by rw [Regs.putV, hv]⟩

/-- A write to V registers leaves the lanes not written and the registers outside the destination. -/
theorem Regs.putV_get_other (r : Regs) {d k i : Nat} {ls : List Nat} (f : Nat → Nat) {n : Nat} (hls : ∀ j ∈ ls, j < 64)
    (hi : i < 64) (h : i ∉ ls ∨ k < d ∨ d + n ≤ k) :
    (r.putV d ls f n).v.get (64 * k + i) = r.v.get (64 * k + i) := by
  induction n with
  | zero => rfl
  | succ n ih =>
    refine (setLanes_get_other _ _ fun j hj => ?_).trans (ih (h.imp id (Or.imp id fun h => by omega)))
    have hj64 := hls j hj
    rcases h with h | h
    · have hne : j ≠ i := fun he => h (he ▸ hj)
      omega
    · omega

theorem Regs.writeV_eq (r : Regs) (d n : Nat) (ls : List Nat) (f : Nat → Nat) :
    ∃ v ve, r.writeV d n ls f = { r with v := v, ve := ve } := by
  unfold Regs.writeV
  split
  · exact ⟨r.v, r.ve, rfl⟩
  · obtain ⟨v, hv⟩ := r.putV_eq d ls f n
    exact ⟨v, _, by rw [hv]⟩

theorem Regs.writeV_get_other (r : Regs) {d k i n : Nat} {ls : List Nat} (f : Nat → Nat) (hls : ∀ j ∈ ls, j < 64)
    (hi : i < 64) (h : i ∉ ls ∨ k < d ∨ d + n ≤ k) :
    (r.writeV d n ls f).v.get (64 * k + i) = r.v.get (64 * k + i) := by
  unfold Regs.writeV
  split
  · rfl
  · exact r.putV_get_other f hls hi h

theorem Regs.writeV_ve_other (r : Regs) {d k n : Nat} (ls : List Nat) (f : Nat → Nat) (h : k < d ∨ d + n ≤ k) :
    (r.writeV d n ls f).ve.get? k = r.ve.get? k := by
  unfold Regs.writeV
  split
  · rfl
  · exact Tab.get?_takeOver r.ve h

theorem Thread.active_lt {t : Thread} (hs : t.side ≠ .mcc) {i : Nat} (hi : i ∈ t.active) : i < 64 :=
  BitVec.lt_of_getLsbD ((Thread.mem_active hs).mp hi).2

theorem Thread.SameBut.refl (t : Thread) (d n : Nat) : t.SameBut t d n :=
  ⟨rfl, rfl, fun _ => rfl, fun _ => ⟨rfl, rfl⟩, fun _ => ⟨rfl, rfl⟩, fun _ _ _ _ => rfl, fun _ _ => rfl,
    fun _ _ => ⟨rfl, rfl⟩, fun _ _ => rfl⟩

/-- A lane-wise result changes its destination only (R136, R141, R166). -/
theorem Thread.sameBut_put (t : Thread) (d n : Nat) (sg : Bool) (bits : Nat) (f : Nat → Nat) :
    t.SameBut (t.put d n sg bits f) d n := by
  unfold Thread.put
  split
  · next hs =>
    exact ⟨rfl, rfl, fun h => absurd hs h, fun _ => ⟨rfl, rfl⟩, fun _ => ⟨rfl, rfl⟩, fun _ _ _ _ => rfl, fun _ _ => rfl,
      fun _ _ => ⟨rfl, rfl⟩, fun k hk => Store.get_set_other _ _ (Ne.symm hk)⟩
  · next hs =>
    split
    · next hd =>
      have hls (j : Nat) (hj : j ∈ t.active) : j < 64 := Thread.active_lt hs hj
      have hother (k i : Nat) (hi : i < 64) (h : i ∉ t.active ∨ k < d ∨ d + n ≤ k) :=
        t.regs.writeV_get_other (fun i => extend sg bits (32 * n) (f i)) hls hi h
      have hempty (k : Nat) (h : k < d ∨ d + n ≤ k) :=
        t.regs.writeV_ve_other t.active (fun i => extend sg bits (32 * n) (f i)) h
      obtain ⟨v, ve, hv⟩ := t.regs.writeV_eq d n t.active fun i => extend sg bits (32 * n) (f i)
      simp only [hv] at hother hempty ⊢
      exact ⟨rfl, rfl, fun _ => rfl, fun h => absurd (h.resolve_left hs) (by omega), fun _ => ⟨rfl, rfl⟩, hother, hempty,
        fun _ _ => ⟨rfl, rfl⟩, fun _ _ => rfl⟩
    · next hd =>
      split
      · exact .refl t d n
      · exact ⟨rfl, rfl, fun _ => rfl, fun _ => ⟨rfl, rfl⟩, fun h => absurd (h.resolve_left hs) hd, fun _ _ _ _ => rfl,
          fun _ _ => rfl, fun k hk => ⟨Store.get_set_other _ _ (by omega), Tab.get?_takeOver _ (by omega)⟩,
          fun _ _ => rfl⟩

/-! ### What a register instruction may write -/

/-- Thread `u` is `t` but for a destination, for CC where `cc` allows it, and for the flags of FPM where `fp` does. -/
structure Thread.Wrote (t u : Thread) (d n : Nat) (cc fp : Bool) : Prop where
  same : t.SameBut u d n
  cc_kept : cc = false → u.regs.cc = t.regs.cc
  fpm_kept : fp = false → u.regs.fpm = t.regs.fpm
  modes_kept : u.regs.fpm &&& ~~~(0x1F00 : W32) = t.regs.fpm &&& ~~~(0x1F00 : W32)

theorem Thread.put_cc_fpm (t : Thread) (d n : Nat) (sg : Bool) (bits : Nat) (f : Nat → Nat) :
    (t.put d n sg bits f).regs.cc = t.regs.cc ∧ (t.put d n sg bits f).regs.fpm = t.regs.fpm := by
  unfold Thread.put
  (repeat' split) <;> simp

theorem Thread.wrote_put (t : Thread) (d n : Nat) (sg : Bool) (bits : Nat) (f : Nat → Nat) (cc fp : Bool) :
    t.Wrote (t.put d n sg bits f) d n cc fp := by
  obtain ⟨hcc, hfpm⟩ := t.put_cc_fpm d n sg bits f
  exact ⟨t.sameBut_put d n sg bits f, fun _ => hcc, fun _ => hfpm, by rw [hfpm]⟩

theorem or_and_of_and_eq_zero {a b m : W32} (h : b &&& m = 0) : (a ||| b) &&& m = a &&& m := by
  ext i hi
  have hbit : (b[i] && m[i]) = false := by simpa using congrArg (·[i]) h
  simp only [BitVec.getElem_and, BitVec.getElem_or, Bool.and_or_distrib_right, hbit, Bool.or_false]

theorem FpFlags.bits_in_flags (fl : FpFlags) : fl.bits &&& ~~~(0x1F00 : W32) = 0 := by
  obtain ⟨nv, dz, of_, uf, nx⟩ := fl
  revert nv dz of_ uf nx
  decide

theorem Thread.Wrote.raise {t u : Thread} {d n : Nat} {cc : Bool} (h : t.Wrote u d n cc true) (fl : FpFlags) :
    t.Wrote (u.raise fl) d n cc true where
  same := h.same
  cc_kept := h.cc_kept
  fpm_kept h0 := by cases h0
  modes_kept := (or_and_of_and_eq_zero fl.bits_in_flags).trans h.modes_kept

theorem Thread.Wrote.setCC {t u : Thread} {d n : Nat} {fp : Bool} (h : t.Wrote u d n true fp) (fl : Flags) :
    t.Wrote (u.setCC fl) d n true fp where
  same := h.same
  cc_kept h0 := by cases h0
  fpm_kept := h.fpm_kept
  modes_kept := h.modes_kept

theorem Thread.Wrote.side_wg {t u : Thread} {d n : Nat} {cc fp : Bool} (h : t.Wrote u d n cc fp) :
    u.side = t.side ∧ u.wg = t.wg := by
  obtain ⟨hthread, -⟩ := h.same
  have hside := congrArg Thread.side hthread
  have hwg := congrArg Thread.wg hthread
  exact ⟨hside, hwg⟩

/-! ### Meanings that complete, wait or trap -/

/-- A check passes, waits or traps. -/
def Checks (c : Except Ev Unit) : Prop := c = .ok ⟨⟩ ∨ c = .error .stall ∨ ∃ x, c = .error (.trap x)

theorem emptyEv_checks (wt : Bool) (r : Option Nat) (g : Bool) : Checks (emptyEv wt r g) := by
  cases r with
  | none => exact .inl rfl
  | some r =>
    cases wt
    · exact .inr (.inr ⟨_, rfl⟩)
    · exact .inr (.inl rfl)

theorem Thread.canRead_checks (t : Thread) (o : Opnd) (n : Nat) : Checks (t.canRead o n) := by
  unfold Thread.canRead
  repeat' split
  · exact .inl rfl
  · exact .inl rfl
  · exact emptyEv_checks ..
  · exact .inr (.inr ⟨_, rfl⟩)
  · exact emptyEv_checks ..

theorem Thread.canWrite_checks (t : Thread) (d n : Nat) : Checks (t.canWrite d n) := by
  unfold Thread.canWrite
  split
  · exact .inr (.inr ⟨_, rfl⟩)
  · exact .inl rfl

theorem Checks.bind {c : Except Ev Unit} {k : Unit → Except Ev Unit} (hc : Checks c) (hk : Checks (k ⟨⟩)) :
    Checks (c >>= k) := by
  obtain rfl | rfl | ⟨x, rfl⟩ := hc
  · exact hk
  · exact .inr (.inl rfl)
  · exact .inr (.inr ⟨x, rfl⟩)

theorem Thread.canReadAll_checks (t : Thread) (xs : List Src) : Checks (t.canReadAll xs) := by
  induction xs with
  | nil => exact .inl rfl
  | cons x xs ih => exact (t.canRead_checks x.o x.n).bind ih

/-- A meaning waits, traps, or completes with a thread that has written what it may. -/
def Completes (s : State) (t : Thread) (d n : Nat) (cc fp : Bool) (r : Except Ev (State × Thread)) : Prop :=
  r = .error .stall ∨ (∃ x, r = .error (.trap x)) ∨ ∃ u, r = done s u ∧ t.Wrote u d n cc fp

section
variable {s : State} {t : Thread} {d n : Nat} {cc fp : Bool}

theorem Completes.bind {c : Except Ev Unit} {k : Unit → Except Ev (State × Thread)} (hc : Checks c)
    (hk : Completes s t d n cc fp (k ⟨⟩)) : Completes s t d n cc fp (c >>= k) := by
  obtain rfl | rfl | ⟨x, rfl⟩ := hc
  · exact hk
  · exact .inl rfl
  · exact .inr (.inl ⟨x, rfl⟩)

theorem Completes.done {u : Thread} (h : t.Wrote u d n cc fp) : Completes s t d n cc fp (done s u) :=
  .inr (.inr ⟨u, rfl, h⟩)

/-- A meaning of that kind touches its thread only. -/
theorem run_onlyThread {s' : State} {k : Thread → Except Ev (State × Thread)}
    (hk : ∀ t, Completes s t d n cc fp (k t)) (hx : run s k = .next s') :
    s.OnlyThread s' fun t t' => ∃ u : Thread, t' = u.advance ∧ t.Wrote u d n cc fp := by
  obtain ⟨t, hat, -⟩ := run_cases hx
  refine ⟨t, hat, ?_⟩
  obtain hr | ⟨x, hr⟩ | ⟨u, hr, hu⟩ := hk t
  · exact .inl (Host.Outcome.next.inj (hx.symm.trans (run_stall hat hr)))
  · cases hb : t.busy with
    | false => exact .inr (.inl ⟨x, Host.Outcome.next.inj (hx.symm.trans (run_trap hat hb hr))⟩)
    | true =>
      refine .inl (Host.Outcome.next.inj (hx.symm.trans ?_))
      simp [run, show s.threads.get? s.cur = some t from hat, hr, State.settle, State.countTrap, hb]
  · obtain ⟨hside, hwg⟩ := hu.side_wg
    exact .inr (.inr ⟨_, Host.Outcome.next.inj (hx.symm.trans (run_done hat hr hside hwg)), u, rfl, hu⟩)

end

/-! ### The shared shapes of the register instructions -/

section
variable {s s' : State} {f : Std}

/-- What a register instruction with this destination leaves. -/
def OnlyWrote (s s' : State) (f : Std) (n : Nat) (cc fp : Bool) : Prop :=
  s.OnlyThread s' fun t t' => ∃ u : Thread, t' = u.advance ∧ t.Wrote u f.dst.toNat n cc fp

theorem intOp_onlyWrote {srcs : List Src} {w : Nat} {op : List Nat → IntRes} (hx : intOp f s srcs w op = .next s') :
    OnlyWrote s s' f (regsOf w) (f.xt.getLsbD 0) false := by
  refine run_onlyThread (fun t => ?_) hx
  refine .bind (t.canWrite_checks ..) (.bind (t.canReadAll_checks _) (.done ?_))
  have hput := t.wrote_put f.dst.toNat (regsOf w) (tySigned f.xty f.ty) w fun i => (op (t.vals srcs i)).val
  cases f.xt.getLsbD 0 with
  | false => exact hput ..
  | true =>
    simp only [if_true]
    split
    · exact hput ..
    · exact (hput ..).setCC _

theorem fpOp_onlyWrote {srcs : List Opnd} {op : FpMode → List Nat → Nat × FpFlags}
    (hx : fpOp f s srcs op = .next s') : OnlyWrote s s' f 1 false true :=
  run_onlyThread (fun t => .bind (t.canWrite_checks ..) (.bind (t.canReadAll_checks _)
    (.done ((t.wrote_put ..).raise _)))) hx

theorem packLanes_onlyWrote {pack : Nat → List Nat → Packed} {place : Nat → Nat → Nat}
    (hx : packLanes f s pack place = .next s') : OnlyWrote s s' f 1 false true := by
  refine run_onlyThread (fun t => .bind (t.canWrite_checks ..) (.bind (t.canRead_checks ..) ?_)) hx
  split
  · exact .inr (.inl ⟨_, rfl⟩)
  · exact .done ((t.wrote_put ..).raise _)

theorem cvti_onlyWrote (hx : exec (.cvti f) s = .next s') : OnlyWrote s s' f (regsOf (tyBits f.xty f.ty)) false true :=
  run_onlyThread (fun t => .bind (t.canWrite_checks ..) (.bind (t.canRead_checks ..)
    (.done ((t.wrote_put ..).raise _)))) hx

theorem cvtf_onlyWrote (hx : exec (.cvtf f) s = .next s') : OnlyWrote s s' f 1 false true :=
  run_onlyThread (fun t => .bind (t.canWrite_checks ..) (.bind (t.canRead_checks ..)
    (.done ((t.wrote_put ..).raise _)))) hx

theorem sel_onlyWrote (hx : exec (.sel f) s = .next s') : OnlyWrote s s' f (regsOf (tyBits f.xty f.ty)) false false :=
  run_onlyThread (fun t => .bind (t.canWrite_checks ..) (.bind (t.canReadAll_checks _)
    (.done (t.wrote_put ..)))) hx

theorem mov_onlyWrote (hx : exec (.mov f) s = .next s') : OnlyWrote s s' f (regsOf (tyBits f.xty f.ty)) false false :=
  run_onlyThread (fun t => .bind (t.canWrite_checks ..) (.bind (t.canRead_checks ..)
    (.done (t.wrote_put ..)))) hx

end

/-! ### Each instruction has one of these shapes -/

section
variable {s : State} {f : Std} {i : Instr}

theorem exec_eq_intOp (hi : i ∈ [Instr.iadd f, .isub f, .imul f, .imulh f, .iadds f, .imin f, .imax f, .idiv f, .irem f,
      .and f, .or f, .xor f, .andn f, .shl f, .shr f, .sar f, .rot f, .iabs f, .ineg f, .popc f, .clz f, .brev f, .imad f,
      .bfx f, .bfi f]) : ∃ srcs op, exec i s = intOp f s srcs (tyBits f.xty f.ty) op := by
  simp only [List.mem_cons, List.not_mem_nil, or_false] at hi
  rcases hi with rfl | rfl | rfl | rfl | rfl | rfl | rfl | rfl | rfl | rfl | rfl | rfl | rfl | rfl | rfl | rfl | rfl | rfl |
    rfl | rfl | rfl | rfl | rfl | rfl | rfl
  all_goals
    dsimp only [exec, execIadd, execIsub, execImul, execImulh, execIadds, execImin, execImax, execIdiv, execIrem, execAnd,
      execOr, execXor, execAndn, execShl, execShr, execSar, execRot, execIabs, execIneg, execPopc, execClz, execBrev,
      execImad, execBfx, execBfi, int1, int2, int3]
    exact ⟨_, _, rfl⟩

theorem exec_eq_fpOp (hi : i ∈ [Instr.fadd f, .fsub f, .fmul f, .ffma f, .ffms f, .fmin f, .fmax f, .fminm f, .fmaxm f,
      .fdiv f, .fsqrt f, .frcp f, .frsq f, .fexp2 f, .flog2 f, .frnd f, .fclass f, .fgetx f, .fscale f, .fsgn f, .hadd2 f,
      .hmul2 f, .hmin2 f, .hmax2 f, .hfma2 f, .fdp2 f, .fdp4 f, .cvt f, .cvtt f, .pack f, .unpack f, .bfun f, .mxun f]) :
    ∃ srcs op, exec i s = fpOp f s srcs op := by
  simp only [List.mem_cons, List.not_mem_nil, or_false] at hi
  rcases hi with rfl | rfl | rfl | rfl | rfl | rfl | rfl | rfl | rfl | rfl | rfl | rfl | rfl | rfl | rfl | rfl | rfl | rfl |
    rfl | rfl | rfl | rfl | rfl | rfl | rfl | rfl | rfl | rfl | rfl | rfl | rfl | rfl | rfl
  all_goals
    dsimp only [exec, execFadd, execFsub, execFmul, execFfma, execFfms, execFmin, execFmax, execFminm, execFmaxm, execFdiv,
      execFsqrt, execFrcp, execFrsq, execFexp2, execFlog2, execFrnd, execFclass, execFgetx, execFscale, execFsgn, execHadd2,
      execHmul2, execHmin2, execHmax2, execHfma2, execFdp2, execFdp4, execCvt, execCvtt, execPack, execUnpack, execBfun,
      execMxun, fp1, fp2, fp3, halves]
    exact ⟨_, _, rfl⟩

theorem exec_eq_packLanes (hi : i ∈ [Instr.bfpk f, .mxpk f]) : ∃ pack place, exec i s = packLanes f s pack place := by
  simp only [List.mem_cons, List.not_mem_nil, or_false] at hi
  rcases hi with rfl | rfl
  all_goals
    dsimp only [exec, execBfpk, execMxpk]
    exact ⟨_, _, rfl⟩

/-- The instructions whose destination is one register and whose flags go to FPM. -/
theorem fp_onlyWrote {s' : State} (hx : exec i s = .next s') (hi : i ∈ [Instr.fadd f, .fsub f, .fmul f, .ffma f, .ffms f,
      .fmin f, .fmax f, .fminm f, .fmaxm f, .fdiv f, .fsqrt f, .frcp f, .frsq f, .fexp2 f, .flog2 f, .frnd f, .fclass f,
      .fgetx f, .fscale f, .fsgn f, .hadd2 f, .hmul2 f, .hmin2 f, .hmax2 f, .hfma2 f, .fdp2 f, .fdp4 f, .cvt f, .cvtt f,
      .cvtf f, .pack f, .unpack f, .bfpk f, .mxpk f, .bfun f, .mxun f]) : OnlyWrote s s' f 1 false true := by
  by_cases hf : i = .cvtf f
  · subst hf
    exact cvtf_onlyWrote hx
  by_cases hp : i ∈ [Instr.bfpk f, .mxpk f]
  · obtain ⟨pack, place, he⟩ := exec_eq_packLanes (s := s) hp
    exact packLanes_onlyWrote (he.symm.trans hx)
  · obtain ⟨srcs, op, he⟩ := exec_eq_fpOp (s := s) (f := f) (i := i) (by
      simp only [List.mem_cons, List.not_mem_nil, or_false, not_or] at hi hp ⊢
      obtain ⟨hbf, hmx⟩ := hp
      simpa only [hf, hbf, hmx, false_or] using hi)
    exact fpOp_onlyWrote (he.symm.trans hx)

end

/-- Settles O59: every register instruction is checks and then one write, so it completes with that write, waits or
traps. -/
theorem registerInstructionsChangeNothingElse : Obligations.RegisterInstructionsChangeNothingElse := by
  unfold Obligations.RegisterInstructionsChangeNothingElse
  intro s s' f i n cc fp hi hx
  have hwrote : OnlyWrote s s' f n cc fp := by
    rcases hi with ⟨rfl, rfl, rfl, hi⟩ | ⟨rfl, rfl, rfl, rfl⟩ | ⟨rfl, rfl, rfl, hi⟩ | ⟨rfl, rfl, rfl, hi⟩ |
      ⟨rfl, rfl, rfl, rfl⟩
    · obtain ⟨srcs, op, he⟩ := exec_eq_intOp (s := s) hi
      exact intOp_onlyWrote (he.symm.trans hx)
    · dsimp only [exec, execImadw] at hx
      exact intOp_onlyWrote hx
    · simp only [List.mem_cons, List.not_mem_nil, or_false] at hi
      rcases hi with rfl | rfl
      · exact sel_onlyWrote hx
      · exact mov_onlyWrote hx
    · exact fp_onlyWrote hx hi
    · exact cvti_onlyWrote hx
  obtain ⟨t, hat, hout⟩ := hwrote
  refine ⟨t, hat, hout.imp id (Or.imp id ?_)⟩
  rintro ⟨t', ht', u, hu, hw⟩
  exact ⟨t', ht', u, hu, hw.same, hw.cc_kept, hw.fpm_kept, hw.modes_kept⟩

end Sys2Proof.Machine
end

section
/-!
PROOFS. The state at reset: memory and the registers of the Hearth (O6, O58).
-/

namespace Sys2Proof.Machine

/-- Settles O6: memory is empty at reset, and the empty store is in canonical form. -/
theorem resetMemoryCanonical : Obligations.ResetMemoryCanonical := by
  unfold Obligations.ResetMemoryCanonical
  rfl

/-- At reset no register has been written, so each holds its reset value. -/
theorem State.reset_hr (off : Nat) : State.reset.hr off = hregReset off := rfl

/-- Settles O58: every register holds its reset value, and the tables of queues and threads are empty. -/
theorem resetValues : Obligations.ResetValues := by
  unfold Obligations.ResetValues
  refine ⟨rfl, ?damper, rfl, ?zero, ?latches, by decide, fun q => ⟨rfl, rfl, rfl, rfl⟩, rfl, rfl, rfl⟩
  case damper => decide
  case zero => decide
  case latches =>
    intro n hn
    rw [State.reset_hr, hregReset, if_neg (by omega), if_neg (by omega), if_neg (by omega)]

end Sys2Proof.Machine
end

section
/-!
PROOFS. LAUNCH, ALLOC.FULL and the extended blocks of the register pool (O16).
-/

namespace Sys2Proof.Machine

/-! ### Bytes that are read, and registers that are cleared -/

@[simp] theorem Store.bytes_length (m : Memory) (a n : Nat) : (m.bytes a n).length = n := by
  induction n generalizing a with
  | zero => rfl
  | succ n ih => exact congrArg (· + 1) (ih (a + 1))

@[simp] theorem frameBytes_length (m : Memory) (lane o n : Nat) : (frameBytes m lane o n).length = n := by
  induction n generalizing o with
  | zero => rfl
  | succ n ih => exact congrArg (· + 1) (ih (o + 1))

@[simp] theorem State.readPlace_length (s : State) (t : Thread) (p : Place) (n : Nat) :
    (s.readPlace t p n).length = n := by
  cases p <;> simp [State.readPlace]

/-- Bytes are the bytes of their number. -/
theorem toBytes_ofBytes (bs : List Byte) : toBytes (ofBytes bs) bs.length = bs := by
  induction bs with
  | nil => rfl
  | cons b bs ih =>
    have hb : b.toNat < 256 := b.isLt
    have hlow : BitVec.ofNat 8 (b.toNat + 256 * ofBytes bs) = b := by
      apply BitVec.eq_of_toNat_eq
      rw [BitVec.toNat_ofNat]
      omega
    have hhigh : (b.toNat + 256 * ofBytes bs) / 256 = ofBytes bs := by omega
    simp only [List.length_cons, ofBytes, toBytes, hlow, hhigh, ih]

/-- Of pieces of one length joined, each is found at its place. -/
theorem take_drop_flatMap_range {α : Type} {f : Nat → List α} {c n j : Nat} (hf : ∀ j, (f j).length = c) (hj : j < n) :
    (((List.range n).flatMap f).drop (c * j)).take c = f j := by
  have hlen (n : Nat) : ((List.range n).flatMap f).length = c * n := by
    simp [List.length_flatMap, hf, Nat.mul_comm]
  obtain ⟨d, rfl⟩ := Nat.exists_eq_add_of_lt hj
  rw [Nat.add_assoc, List.range_add, List.flatMap_append, ← hlen j, List.drop_left, Nat.add_comm d 1, List.range_add]
  simp [hf]

/-- A store without the keys of a range. -/
theorem Store.get_clear {w : Nat} (m : Store w) (lo hi k : Nat) :
    (m.clear lo hi).get k = if lo ≤ k ∧ k < hi then 0 else m.get k := by
  induction m with
  | nil => simp [Store.clear, Store.get]
  | cons e m ih =>
    unfold Store.clear at ih ⊢
    rw [List.filter_cons]
    by_cases hin : e.1 < lo ∨ hi ≤ e.1
    · rw [if_pos (by simpa using hin)]
      simp only [Store.get, ih]
      by_cases hk : e.1 = k
      · rw [if_pos hk, if_pos hk, if_neg (by omega)]
      · rw [if_neg hk, if_neg hk]
    · rw [if_neg (by simpa using hin), ih]
      simp only [Store.get]
      by_cases hk : e.1 = k
      · rw [if_pos (by omega), if_pos (by omega)]
      · rw [if_neg hk]

/-- A change of some records that keeps all numbers. -/
theorem Tab.get?_map_if {α : Type} (m : Tab α) (c : α → Prop) [DecidablePred c] (f : α → α) (k : Nat) :
    Tab.get? (m.map fun e => if c e.2 then (e.1, f e.2) else e) k =
      (m.get? k).map fun x => if c x then f x else x := by
  rw [← Tab.get?_map]
  congr 2
  funext e
  split <;> rfl

theorem Tab.get?_takeOver_in (m : Tab Nat) {r n k : Nat} (h : r ≤ k) (h' : k < r + n) :
    Tab.get? (takeOver m r n) k = none := by
  cases hk : Tab.get? (takeOver m r n) k with
  | none => rfl
  | some v =>
    have hmem := Tab.mem_of_get? hk
    simp only [takeOver, List.mem_filter, Bool.not_eq_true', decide_eq_false_iff_not] at hmem
    exact absurd ⟨h, h'⟩ hmem.2

/-! ### Meanings that change more than their thread -/

theorem run_finish {s s1 : State} {t t' : Thread} {k : Thread → Except Ev (State × Thread)} (h : s.At t)
    (hk : k t = done s1 t') : run s k = .next (s.finish s1 t') :=
  run_ok h hk

/-- An instruction that blocks is counted. -/
theorem run_blocks_in {s s1 : State} {t t' : Thread} {k : Thread → Except Ev (State × Thread)} (h : s.At t)
    (hk : k t = blocks s1 t') (hc : s1.cur = s.cur) (h1 : t'.side = t.side) (h2 : t'.wg = t.wg) :
    run s k = .next (s1.after t t') := by
  rw [run_ok h (hk.trans rfl)]
  simp only [State.after, State.counted_congr s1 h1 h2, hc]

/-! ### LAUNCH (R77, R160) -/

/-- The partition's device-side launch queue is full (R77). -/
def State.deviceFull (s : State) (t : Thread) : Bool := decide (4096 ≤ s.deviceDepth (s.partOf t))

/-- What LAUNCH leaves of the state once its record's words stand. -/
def State.launched (s : State) (t : Thread) (w : Nat) : State :=
  if s.deviceFull t then s
  else s.updDie (s.wgOf t).die fun d => { d with part := d.part ++ [(toBytes w 128, (s.launchOf t).prio)] }

/-- What LAUNCH leaves of the thread (R160). -/
def Thread.launched (t : Thread) (dst : Nat) (full : Bool) : Thread :=
  (t.putG dst (BitVec.ofNat 64 (bit full))).setCC { z := bit full == 0, t := bit full == 1 }

/-- LAUNCH of a record that can be read here reads its words at issue (log 7). -/
theorem exec_launch_here {s : State} {t : Thread} {f : Eng} {p : Nat → Place} (h : s.At t) (hb : t.busy = false)
    (hc : t.canRead f.a 1 = .ok ⟨⟩) (hk : t.kept = []) (hal : t.uni f.a % 128 = 0)
    (hlane : (aperture (t.uni f.a)).1 ≠ .lane) (hpan : (aperture (t.uni f.a)).1 ≠ .pantry)
    (hp : ∀ j, j < 16 → s.resolve t .load 0 ((t.uni f.a + 8 * j) % 2 ^ 64) 8 = .ok (p j) ∧ (p j).isRemote = false ∧
      (p j).isDead = false ∧ s.scrWaits t (p j) 8 = false) :
    ∃ counts lts pts kept, exec (.launch f) s = .next (s.finish
      { s.launched t (ofBytes ((List.range 16).flatMap fun j => s.readPlace t (p j) 8)) with
        counts := counts, lts := lts }
      (({ t with pts := pts, kept := kept } : Thread).launched f.dst.toNat (s.deviceFull t))) := by
  obtain ⟨c, l, q, kept, hl⟩ := State.loadWords_here hb hk hp
  refine ⟨c, l, q, kept, run_finish h ?_⟩
  simp only [quiet_ok hb, hc, hal, hlane, hpan, hl, bind, Except.bind, ne_eq, not_true_eq_false, if_false, or_self]
  have hfull : decide (4096 ≤ ({ s with counts := c, lts := l } : State).deviceDepth
      (({ s with counts := c, lts := l } : State).partOf { t with pts := q, kept := kept })) = s.deviceFull t := rfl
  rw [hfull, State.launched]
  cases s.deviceFull t <;> rfl

@[simp] theorem Thread.launched_regs (t : Thread) (q : Nat) (kept : List (Place × List Byte)) (dst : Nat)
    (full : Bool) :
    (({ t with pts := q, kept := kept } : Thread).launched dst full).regs = (t.launched dst full).regs := by
  unfold Thread.launched Thread.putG
  split <;> rfl

@[simp] theorem State.launched_mem (s : State) (t : Thread) (w : Nat) : (s.launched t w).mem = s.mem := by
  unfold State.launched
  split <;> rfl

theorem State.launched_full {s : State} {t : Thread} (w : Nat) (h : s.deviceFull t = true) : s.launched t w = s :=
  if_pos h

theorem State.launched_part {s : State} {t : Thread} (w : Nat) (h : s.deviceFull t = false) :
    ((s.launched t w).dies.getD (s.wgOf t).die {}).part =
      (s.dies.getD (s.wgOf t).die {}).part ++ [(toBytes w 128, (s.launchOf t).prio)] := by
  rw [State.launched, h, if_neg Bool.false_ne_true, State.updDie_dies, Tab.getD_put_same]

/-! ### ALLOC.FULL (R163) -/

/-- Nothing in memory is zeroed where the allotment begins with a page, or in a pinned one. -/
theorem State.grantPart_whole {s : State} {g : Wg} {h : Header}
    (hp : h.fscr = 0 ∨ h.groups % 4 = 0 ∨ h.groups / 4 ∈ g.pinned) : s.grantPart g h = s := by
  refine if_pos ?_
  rcases hp with hp | hp | hp
  · left; simp [hp]
  · left
    have : (16384 - 4096 * h.groups % 16384) % 16384 = 0 := by omega
    simp [this]
  · right
    have : 4096 * h.groups / 16384 = h.groups / 4 := by omega
    simpa [this] using hp

theorem State.sameWork_grantPart (s : State) (g : Wg) (h : Header) : s.SameWork (s.grantPart g h) := by
  unfold State.grantPart
  dsimp only
  split
  · exact .refl s
  · exact s.sameWork_porchStore _ _

section
variable {s : State} {id : Nat} {g : Wg} (hg : s.wgs.get? id = some g)
include hg

theorem State.grantFull_wg : (s.grantFull id).wgs.get? id = some (g.grant (s.launchOfWg g).hdr) := by
  have hd : s.wgs.getD id .absent = g := by simp [Tab.getD, hg]
  simp only [State.grantFull, hd, State.updWg_wgs, (s.sameWork_grantPart _ _).wgs, Tab.get?_upd_same, hg]
  rfl

theorem State.grantFull_mem (hp : (s.launchOfWg g).hdr.fscr = 0 ∨ (s.launchOfWg g).hdr.groups % 4 = 0 ∨
    (s.launchOfWg g).hdr.groups / 4 ∈ g.pinned) : (s.grantFull id).mem = s.mem := by
  have hd : s.wgs.getD id .absent = g := by simp [Tab.getD, hg]
  have hs := State.grantPart_whole (s := s) hp
  simp only [State.launchOfWg] at hs
  simp only [State.grantFull, hd, hs, State.updWg_mem]

end

theorem State.grantFull_thread {s : State} {id tid : Nat} {t : Thread} (h : s.threads.get? tid = some t)
    (hw : t.wg = id) (hs : t.side ≠ .cellar) : (s.grantFull id).threads.get? tid = some t.granted := by
  simp only [State.grantFull, State.updWg_threads, (s.sameWork_grantPart _ _).threads]
  refine (Tab.get?_map_if _ (fun t => t.wg = id ∧ t.side ≠ .cellar) Thread.granted tid).trans ?_
  rw [h, Option.map_some, if_pos ⟨hw, hs⟩]

/-- A group that asked for its allotment goes on when it is granted (R163). -/
theorem Thread.granted_blocked {t : Thread} (h : t.status = .allocFull) :
    t.granted.status = .running ∧ t.granted.slice = [] ∧ t.granted.regs = t.regs := by
  simp [Thread.granted, h]

/-- ALLOC.FULL: the workgroup holds its allotment, the allotment is empty, or the group asks for it (R163). -/
theorem exec_allocFull {s : State} {t : Thread} {f : Std} (h : s.At t) (hb : t.busy = false) :
    ((s.wgOf t).full = true → exec (.allocFull f) s = .next (s.after t t.advance)) ∧
    ((s.wgOf t).full = false → (s.hdrOf t).noFull = true →
      exec (.allocFull f) s = .next (s.finish (s.grantFull t.wg) { t with slice := [] })) ∧
    ((s.wgOf t).full = false → (s.hdrOf t).noFull = false → exec (.allocFull f) s =
      .next (State.after (s.updWg t.wg fun g => { g with asked := true }) t { t with status := .allocFull })) := by
  refine ⟨fun hf => run_done h ?_ rfl rfl, fun hf hn => run_finish h ?_, fun hf hn => run_blocks_in h ?_ rfl rfl rfl⟩
  · simp only [quiet_ok hb, hf, bind, Except.bind, if_true]
  · simp only [quiet_ok hb, hf, hn, bind, Except.bind, if_true, Bool.false_eq_true, if_false]
  · simp only [quiet_ok hb, hf, hn, bind, Except.bind, Bool.false_eq_true, if_false]

/-- An empty allotment has no bytes of scratchpad. -/
theorem Header.fscr_of_noFull {h : Header} (hn : h.noFull = true) : h.fscr = 0 := by
  simp only [Header.noFull, Bool.and_eq_true, beq_iff_eq] at hn
  obtain ⟨⟨⟨⟨hs, -⟩, -⟩, -⟩, -⟩ := hn
  exact hs

/-- What the grant gives a workgroup (R163). -/
theorem Wg.grant_clears (g : Wg) (h : Header) : (g.grant h).full = true ∧ (g.grant h).attic = [] ∧
    (∀ k x, (g.grant h).tiles.get? k = some x → x.cells = [] ∧ x.token = .unit) ∧
    ∀ o, 4096 * h.groups ≤ o → o < 4096 * h.groups + 4096 * h.fscr → (g.grant h).scr.get o = 0 := by
  refine ⟨rfl, rfl, fun k x hx => ?_, fun o hlo hhi => ?_⟩
  · obtain ⟨n, -, hn⟩ := List.mem_map.mp (Tab.mem_of_get? hx)
    obtain ⟨-, rfl⟩ := Prod.mk.inj hn
    exact ⟨rfl, rfl⟩
  · exact (Store.get_clear ..).trans (if_pos ⟨hlo, hhi⟩)

theorem exec_allocFullGrant {s : State} {wg : Nat} {g : Wg} (hg : s.wgs.get? wg = some g) (ha : g.asked = true)
    (hf : g.full = false) : exec (.allocFullGrant wg) s = .next (s.grantFull wg) := by
  show execAllocFullGrant wg s = _
  simp only [execAllocFullGrant, hg, ha, hf]
  rfl

/-! ### Extended blocks (R134, R164) -/

section
variable {s : State} {t : Thread} {f : Std} (h : s.At t) (hb : t.busy = false)
include h hb

theorem exec_allocRext_now (hs : t.side ≠ .mcc) (hx : t.regs.extb + f.xt.toNat % 8 ≤ (s.hdrOf t).rext)
    (hq : (s.cores.getD (s.coreOf t) {}).rextQ = []) (hfit : s.extFits t (f.xt.toNat % 8) = true) :
    exec (.allocRext f) s =
      .next (s.after t ({ t with regs := t.regs.takeBlocks (f.xt.toNat % 8) } : Thread).advance) := by
  refine run_done (t' := { t with regs := _ }) h ?_ rfl rfl
  simp only [quiet_ok hb, hs, hq, hfit, Nat.not_lt.mpr hx, bind, Except.bind, List.isEmpty_nil, Bool.and_self, or_self,
    if_true, if_false]

theorem exec_allocRext_waits (hs : t.side ≠ .mcc) (hx : t.regs.extb + f.xt.toNat % 8 ≤ (s.hdrOf t).rext)
    (hw : (s.cores.getD (s.coreOf t) {}).rextQ ≠ [] ∨ s.extFits t (f.xt.toNat % 8) = false) :
    exec (.allocRext f) s =
      .next (State.after (s.updCore (s.coreOf t) fun c => { c with rextQ := c.rextQ ++ [s.cur] }) t
        { t with status := .rext (f.xt.toNat % 8) }) := by
  have hno : ((s.cores.getD (s.coreOf t) {}).rextQ.isEmpty && s.extFits t (f.xt.toNat % 8)) = false := by
    rcases hw with hw | hw
    · simp [hw]
    · simp [hw]
  refine run_blocks_in (t' := { t with status := _ }) h ?_ rfl rfl rfl
  simp only [quiet_ok hb, hs, hno, Nat.not_lt.mpr hx, bind, Except.bind, or_self, Bool.false_eq_true, if_false]

theorem exec_allocRext_traps (hx : t.side = .mcc ∨ (s.hdrOf t).rext < t.regs.extb + f.xt.toNat % 8) :
    exec (.allocRext f) s = .next (s.trapped t { cls := 1, sub := 1 }) := by
  refine run_trap h hb ?_
  simp only [quiet_ok hb, hx, bind, Except.bind, if_true]
  rfl

theorem exec_allocRrel (hs : t.side ≠ .mcc) (hx : f.xt.toNat % 8 ≤ t.regs.extb) : exec (.allocRrel f) s =
    .next (s.after t ({ t with regs := t.regs.dropBlocks (f.xt.toNat % 8) } : Thread).advance) := by
  refine run_done (t' := { t with regs := _ }) h ?_ rfl rfl
  simp only [quiet_ok hb, hs, Nat.not_lt.mpr hx, bind, Except.bind, or_self, if_false]

theorem exec_allocRrel_traps (hx : t.side = .mcc ∨ t.regs.extb < f.xt.toNat % 8) :
    exec (.allocRrel f) s = .next (s.trapped t { cls := 1, sub := 1 }) := by
  refine run_trap h hb ?_
  simp only [quiet_ok hb, hx, bind, Except.bind, if_true]
  rfl

end

theorem exec_rextGrant {s : State} {core tid n : Nat} {rest : List Nat} {t : Thread}
    (hq : (s.cores.getD core {}).rextQ = tid :: rest) (ht : s.threads.get? tid = some t) (hst : t.status = .rext n)
    (hfit : s.extFits t n = true) : exec (.rextGrant core) s = .next ((s.updCore core fun c =>
      { c with rextQ := rest }).putThread tid
        (({ t with status := .running, regs := t.regs.takeBlocks n } : Thread).advance)) := by
  show execRextGrant core s = _
  simp only [execRextGrant, hq, ht, hst, hfit, if_true]

/-- Blocks that are taken read zero and full; those below stay as they are (R134, R164). -/
theorem Regs.takeBlocks_get (r : Regs) (n k : Nat) {i : Nat} (hi : i < 64) :
    (32 + 16 * r.extb ≤ k → k < 32 + 16 * (r.extb + n) →
      (r.takeBlocks n).v.get (64 * k + i) = 0 ∧ (r.takeBlocks n).ve.get? k = none) ∧
    (k < 32 + 16 * r.extb → (r.takeBlocks n).v.get (64 * k + i) = r.v.get (64 * k + i) ∧
      (r.takeBlocks n).ve.get? k = r.ve.get? k) := by
  refine ⟨fun hlo hhi => ⟨?_, Tab.get?_takeOver_in _ hlo (by omega)⟩, fun hk => ⟨?_, Tab.get?_takeOver _ (.inl hk)⟩⟩
  · exact (Store.get_clear ..).trans (if_pos (by omega))
  · exact (Store.get_clear ..).trans (if_neg (by omega))

/-- Settles O16: LAUNCH once its record's words stand, and what each form of ALLOC and its grant makes of the workgroup,
its groups and their blocks. -/
theorem launchesAndAllotments : Obligations.LaunchesAndAllotments := by
  unfold Obligations.LaunchesAndAllotments
  refine ⟨?launch, ?full, ?grant, ?blocks, ?matrix, fun s core tid n rest t => exec_rextGrant,
    fun r n k i hi => ⟨rfl, r.takeBlocks_get n k hi⟩⟩
  case launch =>
    intro s t f p h hb hc hk hal hlane hpan hp
    obtain ⟨c, l, q, kept, hx⟩ := exec_launch_here h hb hc hk hal hlane hpan hp
    have hlen : ((List.range 16).flatMap fun j => s.readPlace t (p j) 8).length = 128 := by simp [List.length_flatMap]
    have hbytes := toBytes_ofBytes ((List.range 16).flatMap fun j => s.readPlace t (p j) 8)
    rw [hlen] at hbytes
    refine ⟨_, _, bit (s.deviceFull t), hx, Tab.get?_put_same .., ?_, ?_, ?_, fun hn => ?_, fun hn => ?_⟩
    · simp only [Thread.advance_regs, Thread.launched_regs]
      rfl
    · simp only [Thread.advance_pc, Thread.at_, Thread.launched, Thread.setCC_pc, Thread.putG_pc]
    · simp only [State.finish, State.putThread_mem, State.counted_mem, State.launched_mem]
    · have hfull : s.deviceFull t = false := by simpa [State.deviceFull] using hn
      refine ⟨by rw [hfull]; rfl, _, hlen, fun j hj => ?_, ?_⟩
      · exact take_drop_flatMap_range (fun j => by simp) hj
      · simp only [State.finish, State.putThread_dies, State.counted_dies]
        rw [State.launched_part _ hfull, hbytes]
    · have hfull : s.deviceFull t = true := by simpa [State.deviceFull] using hn
      refine ⟨by rw [hfull]; rfl, ?_⟩
      simp only [State.finish, State.putThread_dies, State.counted_dies, State.launched_full _ hfull]
  case full =>
    intro s t f h hb
    obtain ⟨hheld, hempty, hasks⟩ := exec_allocFull (f := f) h hb
    refine ⟨hheld, fun hf hn hw hs => ?_, hasks⟩
    obtain ⟨g, hg⟩ := Option.isSome_iff_exists.mp hw
    refine ⟨_, _, hempty hf hn, ?_, Tab.get?_put_same .., by simp, by simp [Thread.at_], by simp, ?_⟩
    · simp only [State.wgOf, State.finish, State.putThread_wgs, State.counted_wgs, Tab.getD, State.grantFull_wg hg]
      rfl
    · have hh : s.hdrOf t = (s.launchOfWg g).hdr := by
        simp [State.hdrOf, State.launchOf, State.wgOf, Tab.getD, hg, State.launchOfWg]
      simp only [State.finish, State.putThread_mem, State.counted_mem]
      exact State.grantFull_mem hg (.inl (hh ▸ Header.fscr_of_noFull hn))
  case grant =>
    intro s wg g hg ha hf
    obtain ⟨hfull, hattic, htiles, hscr⟩ := g.grant_clears (s.launchOfWg g).hdr
    refine ⟨_, _, exec_allocFullGrant hg ha hf, State.grantFull_wg hg, hfull, hattic, htiles,
      fun tid t ht hw hs hst => ?_, hscr, fun hp => State.grantFull_mem hg (.inr hp)⟩
    exact ⟨_, State.grantFull_thread ht hw hs, Thread.granted_blocked hst⟩
  case blocks =>
    rintro s t f n h hb hs rfl
    have hmcc : t.side ≠ .mcc := by simp [hs]
    exact ⟨exec_allocRext_now h hb hmcc, exec_allocRext_waits h hb hmcc, fun hx => exec_allocRext_traps h hb (.inr hx),
      exec_allocRrel h hb hmcc, fun hx => exec_allocRrel_traps h hb (.inr hx)⟩
  case matrix =>
    intro s t f i h hb hs hi
    simp only [List.mem_cons, List.not_mem_nil, or_false] at hi
    rcases hi with rfl | rfl
    · exact exec_allocRext_traps h hb (.inl hs)
    · exact exec_allocRrel_traps h hb (.inl hs)

end Sys2Proof.Machine
end

section
/-!
PROOFS. What the Hearth's messages, stores and records leave of its registers and tables (O53, O54).
-/

namespace Sys2Proof.Machine

/-! ### Messages and stores -/

/-- Nothing differs but what stands at the fabric. -/
def State.OnlyQueued (s s' : State) : Prop := ∃ lanes outbox turns,
  s' = { s with lanes := lanes, outbox := outbox, turns := turns }

theorem State.OnlyQueued.refl (s : State) : s.OnlyQueued s := ⟨_, _, _, rfl⟩

theorem State.OnlyQueued.trans {s s1 s2 : State} (h1 : s.OnlyQueued s1) (h2 : s1.OnlyQueued s2) :
    s.OnlyQueued s2 := by
  obtain ⟨_, _, _, rfl⟩ := h1
  obtain ⟨_, _, _, rfl⟩ := h2
  exact ⟨_, _, _, rfl⟩

theorem State.onlyQueued_giveLane (s : State) (lane n : Nat) (m : OutMsg) : s.OnlyQueued (s.giveLane lane n m) := by
  unfold State.giveLane
  dsimp only
  split
  · exact .refl s
  · exact ⟨_, _, _, rfl⟩

theorem State.onlyQueued_spread (s : State) (key : Nat) (us : List Nat) (n : Nat) (m : OutMsg) :
    s.OnlyQueued (s.spread key us n m) := by
  refine State.OnlyQueued.trans (List.foldlRecOn us.zipIdx _ (.refl s) fun s1 h1 x _ => h1.trans ?_) ⟨_, _, _, rfl⟩
  exact s1.onlyQueued_giveLane _ _ m

/-- A message for the fabric goes on lanes, waits at the Porch or is lost (R273, R277, R290). -/
theorem State.onlyQueued_sendMsg (s : State) (m : OutMsg) : s.OnlyQueued (s.sendMsg m) := by
  unfold State.sendMsg
  dsimp only
  split
  · split
    · exact ⟨_, _, _, rfl⟩
    · exact .refl s
  · exact s.onlyQueued_spread _ _ _ m

/-- An access that is sent on is kept until it is answered (R276). -/
theorem State.sendAway_eq (s : State) (a : Away) : ∃ lanes outbox turns, s.sendAway a =
    { s with nextId := s.nextId + 1, lanes := lanes, outbox := outbox, turns := turns
             aways := s.aways.put (4096 * s.nextId)
               { a with req := { a.req with src := s.pkg, id := 4096 * s.nextId }, sent := s.time.toNat } } :=
  State.onlyQueued_sendMsg _ _

/-- Nothing differs but memory with its timestamps, the Hearth's stores that wait, and what stands at the fabric. -/
def State.OnlySent (s s' : State) : Prop := ∃ mem lts hearthDue nextId aways lanes outbox turns,
  s' = { s with mem := mem, lts := lts, hearthDue := hearthDue, nextId := nextId, aways := aways, lanes := lanes
                outbox := outbox, turns := turns }

theorem State.OnlySent.refl (s : State) : s.OnlySent s := ⟨_, _, _, _, _, _, _, _, rfl⟩

theorem State.onlySent_putPhys (s : State) (pa : Nat) (bs : List Byte) : s.OnlySent (s.putPhys pa bs) :=
  ⟨_, _, _, _, _, _, _, _, rfl⟩

theorem State.onlySent_wait (s : State) (ds : List Due) : s.OnlySent { s with hearthDue := ds } :=
  ⟨_, _, _, _, _, _, _, _, rfl⟩

theorem State.onlySent_sendAway (s : State) (a : Away) : s.OnlySent (s.sendAway a) := by
  obtain ⟨_, _, _, h⟩ := s.sendAway_eq a
  exact ⟨_, _, _, _, _, _, _, _, h⟩

theorem State.onlySent_porchStore (s : State) (pa : Nat) (bs : List Byte) : s.OnlySent (s.porchStore pa bs) := by
  unfold State.porchStore
  dsimp only
  split
  · exact s.onlySent_sendAway _
  · split
    · exact s.onlySent_putPhys _ _
    · exact .refl s

/-- A store of the Hearth: made, sent on, waiting, or dropped (R218; log 50). -/
theorem State.onlySent_hearthPut (s : State) (part va : Nat) (bs : List Byte) (chain : Nat) :
    s.OnlySent ((s.hearthPut part va bs chain).getD s) := by
  unfold State.hearthPut
  split
  · exact s.onlySent_wait _
  · unfold State.hearthStore
    split
    · exact s.onlySent_putPhys _ _
    · exact s.onlySent_sendAway _
    · exact .refl s

/-- An addition of the Hearth: made, sent on, waiting, or dropped (R218; log 50). -/
theorem State.onlySent_objAdd (s : State) (part va : Nat) (n : Addition) (chain : Nat) :
    s.OnlySent ((s.objAdd part va n chain).getD s) := by
  unfold State.objAdd
  split
  · exact s.onlySent_wait _
  · unfold State.objArrive
    split
    · split
      · exact .refl s
      · exact s.onlySent_putPhys _ _
    · exact s.onlySent_sendAway _
    · exact .refl s

/-! ### Records and signals -/

theorem State.setHr_hr (s : State) (k off : Nat) (v : W64) :
    (s.setHr k v).hr off = if k = off then v else s.hr off := by
  unfold State.setHr State.hr
  split
  · next h => rw [h]; exact Tab.getD_put_same ..
  · next h => exact Tab.getD_put_other _ _ _ h

@[simp] theorem State.msix_hr (s : State) (vec off : Nat) : (s.msix vec).hr off = s.hr off := by
  simp [State.msix, State.hr]

/-- The tables of queues, work and latches stand as before, and so does every register but the ash pan's write index and
its count of drops. -/
structure State.SameBooks (s s' : State) : Prop where
  queues : s'.queues = s.queues
  slots : s'.slots = s.slots
  launches : s'.launches = s.launches
  copycmds : s'.copycmds = s.copycmds
  tasks : s'.tasks = s.tasks
  cunits : s'.cunits = s.cunits
  dies : s'.dies = s.dies
  wgs : s'.wgs = s.wgs
  latchRefused : s'.latchRefused = s.latchRefused
  hr : ∀ off, off ≠ 0x4C8 → off ≠ 0x4D8 → s'.hr off = s.hr off

theorem State.SameBooks.refl (s : State) : s.SameBooks s :=
  ⟨rfl, rfl, rfl, rfl, rfl, rfl, rfl, rfl, rfl, fun _ _ _ => rfl⟩

theorem State.SameBooks.trans {s s1 s2 : State} (h1 : s.SameBooks s1) (h2 : s1.SameBooks s2) : s.SameBooks s2 where
  queues := h2.queues.trans h1.queues
  slots := h2.slots.trans h1.slots
  launches := h2.launches.trans h1.launches
  copycmds := h2.copycmds.trans h1.copycmds
  tasks := h2.tasks.trans h1.tasks
  cunits := h2.cunits.trans h1.cunits
  dies := h2.dies.trans h1.dies
  wgs := h2.wgs.trans h1.wgs
  latchRefused := h2.latchRefused.trans h1.latchRefused
  hr off h h' := (h2.hr off h h').trans (h1.hr off h h')

theorem State.OnlySent.sameBooks {s s' : State} (h : s.OnlySent s') : s.SameBooks s' := by
  obtain ⟨_, _, _, _, _, _, _, _, rfl⟩ := h
  exact ⟨rfl, rfl, rfl, rfl, rfl, rfl, rfl, rfl, rfl, fun _ _ _ => rfl⟩

/-- The ash pan's write index and its count of drops. -/
theorem State.sameBooks_setHr (s : State) {k : Nat} (v : W64) (h : k = 0x4C8 ∨ k = 0x4D8) :
    s.SameBooks (s.setHr k v) :=
  ⟨rfl, rfl, rfl, rfl, rfl, rfl, rfl, rfl, rfl, fun off h1 h2 => by rw [State.setHr_hr, if_neg (by omega)]⟩

/-- What the ash pan counts beside its registers. -/
theorem State.sameBooks_ash (s : State) (seq lost : Nat) : s.SameBooks { s with ashSeq := seq, ashLost := lost } :=
  ⟨rfl, rfl, rfl, rfl, rfl, rfl, rfl, rfl, rfl, fun _ _ _ => rfl⟩

theorem State.sameBooks_msix (s : State) (vec : Nat) : s.SameBooks (s.msix vec) := by
  constructor
  case hr => exact fun off _ _ => s.msix_hr vec off
  all_goals simp [State.msix]

/-- A record that is written: its bytes, the sequence number, the write index and the message (R421). -/
theorem State.ashWrite_eq (s : State) (r : AshRec) : ∃ s1, s.OnlySent s1 ∧ s.ashWrite r =
    (({ s1 with ashSeq := s1.ashSeq + 1 } : State).setHr 0x4C8
      (BitVec.ofNat 64 (((s.hr 0x4C8).toNat + 1) % 2 ^ 32))).msix 0 :=
  ⟨_, s.onlySent_porchStore _ _, rfl⟩

theorem State.sameBooks_ashWrite (s : State) (r : AshRec) : s.SameBooks (s.ashWrite r) := by
  obtain ⟨s1, h1, hw⟩ := s.ashWrite_eq r
  rw [hw]
  exact (h1.sameBooks.trans (s1.sameBooks_ash _ s1.ashLost)).trans
    ((State.sameBooks_setHr _ _ (.inl rfl)).trans (State.sameBooks_msix _ 0))

/-- A record in the ash pan, or one that is dropped (R421). -/
theorem State.sameBooks_post (s : State) (r : AshRec) : s.SameBooks (s.post r) := by
  unfold State.post
  dsimp only
  split
  · exact s.sameBooks_setHr _ (.inr rfl)
  · split
    · exact (s.sameBooks_setHr _ (.inr rfl)).trans (State.sameBooks_ash _ s.ashSeq _)
    · exact s.sameBooks_ashWrite r

theorem State.sameBooks_signalMsix (s : State) (x : Signal) : s.SameBooks (s.signalMsix x) := by
  unfold State.signalMsix
  split
  · exact s.sameBooks_msix 1
  · exact .refl s

theorem State.sameBooks_signalFault (s : State) (x : Signal) : s.SameBooks (s.signalFault x) :=
  (s.sameBooks_post _).trans (State.sameBooks_signalMsix _ x)

theorem State.sameBooks_signalAdd (s : State) (x : Signal) : s.SameBooks (s.signalAdd x) := by
  unfold State.signalAdd
  dsimp only
  split
  · exact s.sameBooks_signalFault x
  · exact .refl s
  · exact (s.onlySent_putPhys _ _).sameBooks.trans (State.sameBooks_signalMsix _ x)
  · exact (s.onlySent_sendAway _).sameBooks
  · exact .refl s

theorem State.sameBooks_signalNow (s : State) (x : Signal) : s.SameBooks (s.signalNow x) := by
  unfold State.signalNow
  split
  · split
    · exact (s.onlySent_putPhys _ _).sameBooks.trans (State.sameBooks_signalAdd _ x)
    · exact (s.onlySent_sendAway _).sameBooks
    · exact .refl s
  · exact s.sameBooks_signalFault x
  · exact s.sameBooks_signalFault x
  · exact .refl s

/-- The signal at DONE (R444). -/
theorem State.sameBooks_signalDone (s : State) (x : Signal) : s.SameBooks (s.signalDone x) := by
  unfold State.signalDone
  split
  · exact .refl s
  · split
    · exact s.sameBooks_signalFault x
    · split
      · exact (s.onlySent_wait _).sameBooks
      · exact s.sameBooks_signalNow x

end Sys2Proof.Machine
end

section
/-!
PROOFS. The Hearth's registers and latches, the accesses of hosts, and what the Hearth does from time to time (O53).
-/

namespace Sys2Proof.Machine

/-! ### Writes of registers (R66, R67, R437) -/

/-- A write of a plain register keeps the bits of its mask; one of no register changes nothing. -/
theorem exec_registerWrite_plain {s : State} {off : Nat} {v : W64} {port : Port} (h : off ≠ 0x500 ∨ v.toNat % 4 ≠ 3) :
    (∀ m, regMask off = some m → exec (.registerWrite off v port) s = .next (s.setHr off (v &&& BitVec.ofNat 64 m))) ∧
    (regMask off = none → exec (.registerWrite off v port) s = .next s) := by
  have h' : ¬ (off = 0x500 ∧ v.toNat % 4 = 3) := by omega
  refine ⟨fun m hm => ?_, fun hm => ?_⟩
  · show execRegisterWrite off v port s = _
    simp only [execRegisterWrite, if_neg h', hm]
  · show execRegisterWrite off v port s = _
    simp only [execRegisterWrite, if_neg h', hm]

/-- REQ 3 of HPWR is refused at once, or in its turn while a session opens. -/
theorem exec_registerWrite_power {s : State} {v : W64} {port : Port} (h : v.toNat % 4 = 3) :
    (s.debugEntry = none → exec (.registerWrite 0x500 v port) s = .next s.powerRefused) ∧
    (s.debugEntry ≠ none → exec (.registerWrite 0x500 v port) s =
      .next { s with secQueue := s.secQueue ++ [.noEffect] }) := by
  refine ⟨fun hd => ?_, fun hd => ?_⟩
  · show execRegisterWrite 0x500 v port s = _
    simp [execRegisterWrite, h, hd]
  · show execRegisterWrite 0x500 v port s = _
    simp [execRegisterWrite, h, Option.isSome_iff_ne_none.mpr hd]

/-! ### Conditions of R85 -/

/-- A task runs, or its status word is still to be written, unless it is queued or complete (R363). -/
theorem State.taskState_ne_one (s : State) (id : Nat) (k : Task) : s.taskState id k ≠ 1 ↔
    (k.left = 0 ∧ ∀ d ∈ s.hearthDue, d.chain ≠ 2 * id + 1) ∨ (k.left ≠ 0 ∧ k.started = 0 ∧ k.left = k.total) := by
  have hdue : (s.hearthDue.any fun d => d.chain == taskChain id) = true ↔
      ¬ ∀ d ∈ s.hearthDue, d.chain ≠ 2 * id + 1 := by
    simp [taskChain]
  unfold State.taskState
  by_cases hl : k.left = 0
  · rw [if_pos hl]
    by_cases hd : ∀ d ∈ s.hearthDue, d.chain ≠ 2 * id + 1
    · rw [if_neg (by simpa only [hdue, not_not] using hd)]
      simpa [hl] using hd
    · rw [if_pos (hdue.mpr hd)]
      simpa [hl] using hd
  · rw [if_neg hl]
    by_cases hq : k.started = 0 ∧ k.left = k.total
    · rw [if_pos hq]
      simpa using Or.inr ⟨hl, hq⟩
    · rw [if_neg hq]
      simpa [hl] using hq

theorem State.quietPart_iff (s : State) : s.quietPart = true ↔ (∀ e ∈ s.queues, e.2.enabled = false) ∧ s.wgs = [] ∧
    ∀ k ∈ s.tasks, (k.2.left = 0 ∧ ∀ d ∈ s.hearthDue, d.chain ≠ 2 * k.1 + 1) ∨
      (k.2.left ≠ 0 ∧ k.2.started = 0 ∧ k.2.left = k.2.total) := by
  simp only [State.quietPart, Bool.and_eq_true, List.all_eq_true, Bool.not_eq_true', List.isEmpty_iff, bne_iff_ne,
    State.taskState_ne_one, and_assoc]

theorem dieSetsOk_iff (v : Nat) : dieSetsOk v = true ↔ ∀ p ds, p < 4 →
    ds = ((List.range 4).filter fun d => fld v (2 * d) 2 == p) →
    ds.length ≤ 1 ∨ ds = [0, 1] ∨ ds = [2, 3] ∨ ds = [0, 1, 2, 3] := by
  simp only [dieSetsOk, List.all_eq_true, List.mem_range, Bool.or_eq_true, decide_eq_true_eq, beq_iff_eq, or_assoc]
  exact ⟨fun h p ds hp hds => hds ▸ h p hp, fun h p hp => h p _ hp rfl⟩

/-- HPTR and HSBK keep their bits under the conditions of R85. -/
theorem exec_hptr_hsbk {s : State} {part : Nat} {v : W64} (hp : part < 4) :
    (s.quietPart = true →
      exec (.hptrWrite part v) s = .next (s.setHr (0x1A0 + 8 * part) (v &&& 0x0FFFFFFFFFFFF000)) ∧
      exec (.hsbkWrite part v) s = .next (s.setHr (0x1C0 + 8 * part) (v &&& 0x0FFFFFFFC00000FF))) ∧
    (s.quietPart = false → exec (.hptrWrite part v) s = .next s ∧ exec (.hsbkWrite part v) s = .next s) := by
  have hp' : ¬ 4 ≤ part := by omega
  have hptr : exec (.hptrWrite part v) s = execHptrWrite part v s := rfl
  have hsbk : exec (.hsbkWrite part v) s = execHsbkWrite part v s := rfl
  refine ⟨fun hq => ?_, fun hq => ?_⟩
  · rw [hptr, hsbk, execHptrWrite, execHsbkWrite, if_neg hp', if_neg hp', if_pos hq, if_pos hq]
    exact ⟨rfl, rfl⟩
  · rw [hptr, hsbk, execHptrWrite, execHsbkWrite, if_neg hp', if_neg hp', if_neg (by simp [hq]), if_neg (by simp [hq])]
    exact ⟨rfl, rfl⟩

/-- A die without the device-side queue, the images and the handles that HPART discards (R85, R336). -/
def Die.cleared (d : Die) : Die :=
  { d with part := [], reading := none, staged := [], image := [], pantryPoison := [], stagedPoison := [] }

/-- The conditions of a write of HPART (R85). -/
def State.takesHpart (s : State) (v : W64) : Prop :=
  s.quietPart = true ∧ dieSetsOk (v.toNat % 2 ^ 20) = true ∧ ∀ d, d < 4 → fld (v.toNat % 2 ^ 20) (8 + 3 * d) 3 ≤ 4

theorem exec_hpartWrite {s : State} {v : W64} :
    (s.takesHpart v → exec (.hpartWrite v) s = .next { s.setHr 0x140 (BitVec.ofNat 64 (v.toNat % 2 ^ 20)) with
      handles := [], ordRounds := [], lease := [], dies := s.dies.map fun d => (d.1, d.2.cleared) }) ∧
    (¬ s.takesHpart v → exec (.hpartWrite v) s = .next (s.setHr 0x140 (s.hr 0x140 ||| 0x8000000000000000))) := by
  have hc : (dieSetsOk (v.toNat % 2 ^ 20) && ((List.range 4).all fun d =>
      decide (fld (v.toNat % 2 ^ 20) (8 + 3 * d) 3 ≤ 4)) && s.quietPart) = true ↔ s.takesHpart v := by
    simp only [Bool.and_eq_true, List.all_eq_true, List.mem_range, decide_eq_true_eq, State.takesHpart]
    tauto
  have hx : exec (.hpartWrite v) s = execHpartWrite v s := rfl
  refine ⟨fun h => ?_, fun h => ?_⟩
  · rw [hx, execHpartWrite]
    dsimp only
    rw [if_pos (hc.mpr h)]
    rfl
  · rw [hx, execHpartWrite]
    dsimp only
    rw [if_neg (mt hc.mp h)]
    rfl

/-! ### What registers read as (R67, R68, R81) -/

theorem regAt_in {b n k : Nat} (hb : b % 8 = 0) (hk : k < n) : regAt b n (b + 8 * k) = some k := by
  rw [regAt, if_pos ⟨by omega, by omega, by omega⟩]
  exact congrArg some (by omega)

theorem regAt_out {b n off : Nat} (h : off < b ∨ b + 8 * n ≤ off) : regAt b n off = none := if_neg (by omega)

/-- A sum of powers of two, one for each number below a bound that a test picks. -/
def pickedBits (p : Nat → Bool) (n : Nat) : Nat := ((List.range n).filter p).foldl (fun a j => a + 2 ^ j) 0

theorem pickedBits_succ (p : Nat → Bool) (n : Nat) :
    pickedBits p (n + 1) = pickedBits p n + if p n then 2 ^ n else 0 := by
  unfold pickedBits
  rw [List.range_succ, List.filter_append, List.foldl_append, List.filter_singleton]
  cases p n <;> rfl

theorem pickedBits_lt (p : Nat → Bool) (n : Nat) : pickedBits p n < 2 ^ n := by
  induction n with
  | zero => exact Nat.one_pos
  | succ n ih =>
    rw [pickedBits_succ]
    split <;> omega

theorem pickedBits_testBit (p : Nat → Bool) (n j : Nat) : (pickedBits p n).testBit j = (decide (j < n) && p j) := by
  induction n with
  | zero => simp [pickedBits]
  | succ n ih =>
    have hlt := pickedBits_lt p n
    rw [pickedBits_succ]
    split
    · next hp =>
      rw [Nat.add_comm]
      rcases Nat.lt_trichotomy j n with h | rfl | h
      · rw [Nat.testBit_two_pow_add_gt h, ih]
        simp [h, Nat.lt_succ_of_lt h]
      · rw [Nat.testBit_two_pow_add_eq, ih]
        simp [hp]
      · rw [Nat.testBit_lt_two_pow (lt_of_lt_of_le (by omega : 2 ^ n + pickedBits p n < 2 ^ (n + 1))
          (Nat.pow_le_pow_right (by decide) h))]
        simp [show ¬ j < n + 1 by omega]
    · next hp =>
      rw [Nat.add_zero, ih]
      by_cases h : j = n
      · simp [h, hp]
      · simp [show (j < n + 1) ↔ j < n by omega]

section
variable (s : State) (port : Port)

theorem State.readReg_widx {q : Nat} (hq : q < 256) :
    s.readReg port (0x1000 + 8 * q) = BitVec.ofNat 64 (s.queues.getD q {}).widx := by
  simp only [State.readReg, regAt_out (b := 0x110) (n := 4) (off := 0x1000 + 8 * q) (by omega),
    regAt_in (b := 0x1000) (by decide) hq]

theorem State.readReg_ridx {q : Nat} (hq : q < 256) : s.readReg port (0x1800 + 8 * q) =
    BitVec.ofNat 64 ((s.queues.getD q {}).ridx + (s.queues.getD q {}).state.code * 2 ^ 32) := by
  simp only [State.readReg, regAt_out (b := 0x110) (n := 4) (off := 0x1800 + 8 * q) (by omega),
    regAt_out (b := 0x1000) (n := 256) (off := 0x1800 + 8 * q) (by omega), regAt_in (b := 0x1800) (by decide) hq]

theorem State.readReg_enables {k : Nat} (hk : k < 4) :
    s.readReg port (0x110 + 8 * k) = BitVec.ofNat 64 (s.enables k) := by
  simp only [State.readReg, regAt_in (b := 0x110) (by decide) hk]

theorem State.readReg_latch {n : Nat} (hn : n < 32) : s.readReg port (0x2000 + 8 * n) =
    s.hr (0x2000 + 8 * n) ||| BitVec.ofNat 64 (bit (s.latchRefused.contains (refusedKey n port)) * 2 ^ 18) := by
  simp only [State.readReg, regAt_out (b := 0x110) (n := 4) (off := 0x2000 + 8 * n) (by omega),
    regAt_out (b := 0x1000) (n := 256) (off := 0x2000 + 8 * n) (by omega),
    regAt_out (b := 0x1800) (n := 256) (off := 0x2000 + 8 * n) (by omega), regAt_in (b := 0x2000) (by decide) hn]

theorem State.readReg_tlbi {p : Nat} (hp : p < 4) : s.readReg port (0x1E0 + 8 * p) =
    BitVec.ofNat 64 (bit (s.tlbi.any fun e => e.1 == p) * 2 ^ 63) := by
  simp only [State.readReg, regAt_out (b := 0x110) (n := 4) (off := 0x1E0 + 8 * p) (by omega),
    regAt_out (b := 0x1000) (n := 256) (off := 0x1E0 + 8 * p) (by omega),
    regAt_out (b := 0x1800) (n := 256) (off := 0x1E0 + 8 * p) (by omega),
    regAt_out (b := 0x2000) (n := 32) (off := 0x1E0 + 8 * p) (by omega), regAt_in (b := 0x1E0) (by decide) hp]

theorem State.readReg_hrekey :
    s.readReg port 0x308 = BitVec.ofNat 64 (bit (s.links.any fun k => k.2.updating) * 2 ^ 63) := rfl

/-- BUSY alone. -/
theorem busy_word {b : Bool} {P : Prop} [Decidable P] (h : b = true ↔ P) :
    BitVec.ofNat 64 (bit b * 2 ^ 63) = if P then 0x8000000000000000 else 0 := by
  simp only [← h]
  cases b <;> rfl

/-- A bit of an enable register is the enable bit of its queue. -/
theorem State.enables_getLsbD (k : Nat) {j : Nat} (hj : j < 64) :
    (BitVec.ofNat 64 (s.enables k)).getLsbD j = (s.queues.getD (64 * k + j) {}).enabled := by
  have h : s.enables k = pickedBits (fun j => (s.queues.getD (64 * k + j) {}).enabled) 64 := rfl
  rw [BitVec.getLsbD_ofNat, h, pickedBits_testBit]
  simp [hj]

end

/-! ### Latches (R81, R82) -/

/-- A latch's fields are what its register holds. -/
theorem State.latch_congr {s s' : State} {n : Nat} (h : s'.hr (0x2000 + 8 * n) = s.hr (0x2000 + 8 * n)) :
    s'.holder n = s.holder n ∧ s'.latchSeq n = s.latchSeq n ∧ s'.latchBrk n = s.latchBrk n := by
  simp only [State.holder, State.latchSeq, State.latchBrk, h, and_self]

/-- A latch that takes a command shows its fields, and REFUSED of the port is clear. -/
theorem State.latchSet_fields (s : State) (n : Nat) (port : Port) (brk seq : Nat) {holder : Nat} (h : holder < 4) :
    (s.latchSet n port brk seq holder).holder n = holder ∧
    (s.latchSet n port brk seq holder).latchSeq n = seq % 2 ^ 16 ∧
    (s.latchSet n port brk seq holder).latchBrk n = brk % 2 ^ 16 ∧
    refusedKey n port ∉ (s.latchSet n port brk seq holder).latchRefused := by
  have hr : (s.latchSet n port brk seq holder).hr (0x2000 + 8 * n) =
      BitVec.ofNat 64 (brk % 2 ^ 16 * 2 ^ 48 + seq % 2 ^ 16 * 2 ^ 32 + holder * 2 ^ 16) := Tab.getD_put_same ..
  refine ⟨?_, ?_, ?_, by simp [State.latchSet]⟩
  · rw [State.holder, hr, fld, BitVec.toNat_ofNat]; omega
  · rw [State.latchSeq, hr, fld, BitVec.toNat_ofNat]; omega
  · rw [State.latchBrk, hr, fld, BitVec.toNat_ofNat]; omega

theorem State.latchSet_other (s : State) {n m : Nat} (port : Port) (brk seq holder : Nat) (h : m ≠ n) :
    (s.latchSet n port brk seq holder).hr (0x2000 + 8 * m) = s.hr (0x2000 + 8 * m) :=
  Tab.getD_put_other _ _ _ (by omega)

theorem State.latchSeq_mod (s : State) (n : Nat) : s.latchSeq n % 2 ^ 16 = s.latchSeq n := Nat.mod_mod ..

theorem State.latchBrk_mod (s : State) (n : Nat) : s.latchBrk n % 2 ^ 16 = s.latchBrk n := Nat.mod_mod ..

theorem Port.num_eq (port : Port) : Port.num port = if port = .a then 1 else 2 := by cases port <;> rfl

theorem Port.num_lt (port : Port) : Port.num port < 4 := by cases port <;> decide

section
variable {s : State} {n : Nat} {port : Port} (hn : n < 32)
include hn

theorem exec_latchAcquire : exec (.latchAcquire n port) s = .next (if s.holder n = 0 then
    s.latchSet n port (s.latchBrk n) (s.latchSeq n + 1) (Port.num port) else s.latchRefuse n port) := by
  show execLatchAcquire n port s = _
  rw [execLatchAcquire, if_neg (by omega)]
  split <;> rfl

theorem exec_latchRelease : exec (.latchRelease n port) s = .next (if s.holder n = Port.num port then
    s.latchSet n port (s.latchBrk n) (s.latchSeq n) 0 else s.latchRefuse n port) := by
  show execLatchRelease n port s = _
  rw [execLatchRelease, if_neg (by omega)]
  split <;> rfl

theorem exec_latchBreak : exec (.latchBreak n port) s = .next (if s.holder n = 0 then s.latchRefuse n port else
    (s.latchSet n port (s.latchBrk n + 1) (s.latchSeq n) 0).post
      { code := 0x08, info := n + s.holder n * 2 ^ 8 + Port.num port * 2 ^ 16 }) := by
  show execLatchBreak n port s = _
  rw [execLatchBreak, if_neg (by omega)]
  split <;> rfl

theorem exec_latchInvalidCommand {cmd : BitVec 8} (h1 : cmd ≠ 1) (h2 : cmd ≠ 2) (h3 : cmd ≠ 3) :
    exec (.latchInvalidCommand n port cmd) s = .next (s.latchRefuse n port) := by
  show execLatchInvalidCommand n port cmd s = _
  rw [execLatchInvalidCommand, if_neg (not_or.mpr ⟨by omega, not_or.mpr ⟨h1, not_or.mpr ⟨h2, h3⟩⟩⟩)]

/-- No command changes another latch. -/
theorem exec_latch_other {m : Nat} {i : Instr} {s' : State} (hm : m ≠ n)
    (hi : i ∈ [Instr.latchAcquire n port, .latchRelease n port, .latchBreak n port]) (hx : exec i s = .next s') :
    s'.hr (0x2000 + 8 * m) = s.hr (0x2000 + 8 * m) := by
  simp only [List.mem_cons, List.not_mem_nil, or_false] at hi
  rcases hi with rfl | rfl | rfl
  · cases (exec_latchAcquire hn).symm.trans hx
    split
    · exact s.latchSet_other _ _ _ _ hm
    · rfl
  · cases (exec_latchRelease hn).symm.trans hx
    split
    · exact s.latchSet_other _ _ _ _ hm
    · rfl
  · cases (exec_latchBreak hn).symm.trans hx
    split
    · rfl
    · exact ((State.sameBooks_post _ _).hr _ (by omega) (by omega)).trans (s.latchSet_other _ _ _ _ hm)

end

/-! ### Accesses of hosts (R279, R283, R390) -/

theorem State.hostHeld_iff (s : State) (b write : Bool) : s.hostHeld b write = true ↔
    ∃ e ∈ s.aways, e.2.owner = .host b ∧ (write = false ∨ e.2.req.kind = 1) := by
  simp [State.hostHeld]

theorem Port.isB_eq (port : Port) : (port == .b) = decide (port = .b) := by cases port <;> rfl

/-- A port that is up, on a package that is on. -/
def State.portUp (s : State) (port : Port) : Prop :=
  s.power ≠ .off ∧ (if port = .a then s.linkDown.1 else s.linkDown.2) = false

section
variable {s : State} {x : HostAcc} (hup : s.portUp x.port)
include hup

theorem State.portUp_open :
    (s.linkDown.1 && !(x.port == .b) || s.linkDown.2 && (x.port == .b) || s.power == .off) = false := by
  obtain ⟨hp, hl⟩ := hup
  cases hx : x.port <;> simp_all

section
variable (hr : x.recovery = false)
include hr

theorem exec_hostAccess_held (hh : s.hostHeld (x.port == .b) x.write.isSome = true) :
    exec (.hostMemoryAccess x) s = .fault .notEnabled := by
  show execHostMemoryAccess x s = _
  simp only [execHostMemoryAccess, State.portUp_open hup, hr, hh, Bool.false_eq_true, if_false, if_true]
  rfl

/-- An access at an address of this package is made at once. -/
theorem exec_hostAccess_here (hh : s.hostHeld (x.port == .b) x.write.isSome = false) {p : Nat}
    (hp : p = s.forwarded (s.pkg * 2 ^ 43 + x.pa)) (hpk : pkgOf p = s.pkg) (hl : s.homeLost (inPkg p) = false)
    (hm : x.write.isSome = true → s.moving (inPkg p) = false) :
    exec (.hostMemoryAccess x) s = .next (s.hostAt x (x.port == .b) p) := by
  subst hp
  have hmov : (x.write.isSome && s.moving (inPkg (s.forwarded (s.pkg * 2 ^ 43 + x.pa)))) = false := by
    cases hw : x.write.isSome
    · rfl
    · exact hm hw
  show execHostMemoryAccess x s = _
  simp only [execHostMemoryAccess, State.portUp_open hup, hr, hh, hpk, hl, hmov, Bool.false_eq_true, if_false,
    Bool.or_self, ne_eq, not_true_eq_false]

/-- The access that a host's access to a forwarded page becomes (R279). -/
def hostAway (x : HostAcc) (pkg p : Nat) : Away :=
  { owner := .host (x.port == .b)
    req := { src := pkg, id := 0, kind := bit x.write.isSome, op := 0, pa := p
             size := (x.write.map List.length).getD x.len, data := x.write.getD [], forwarded := true, far := true } }

theorem exec_hostAccess_away (hh : s.hostHeld (x.port == .b) x.write.isSome = false) {p : Nat}
    (hp : p = s.forwarded (s.pkg * 2 ^ 43 + x.pa)) (hpk : pkgOf p ≠ s.pkg) :
    exec (.hostMemoryAccess x) s = .next (s.sendAway (hostAway x s.pkg p)) := by
  subst hp
  show execHostMemoryAccess x s = _
  simp only [execHostMemoryAccess, State.portUp_open hup, hr, hh, hpk, Bool.false_eq_true, if_false, ne_eq,
    not_false_eq_true, if_true]
  rfl

end

theorem exec_hostAccess_recovery (hr : x.recovery = true) :
    exec (.hostMemoryAccess x) s = .next (s.windowAt x) := by
  show execHostMemoryAccess x s = _
  simp only [execHostMemoryAccess, State.portUp_open hup, hr, Bool.false_eq_true, if_false, if_true]

end

/-- An access that is sent on is kept until it is answered, and memory stays (R276). -/
theorem State.sendAway_keeps (s : State) (a : Away) : ∃ id sent, (s.sendAway a).aways.get? (4096 * s.nextId) =
    some { a with req := { a.req with src := s.pkg, id := id }, sent := sent } ∧ (s.sendAway a).mem = s.mem := by
  obtain ⟨lanes, outbox, turns, h⟩ := s.sendAway_eq a
  rw [h]
  exact ⟨_, _, Tab.get?_put_same .., rfl⟩

theorem State.forwarded_host {s : State} {a : Nat} (h : a < 2 ^ 43) :
    s.forwarded (s.pkg * 2 ^ 43 + a) = (s.fwdOf a).getD (s.pkg * 2 ^ 43 + a) := by
  have hp : pkgOf (s.pkg * 2 ^ 43 + a) = s.pkg := by unfold pkgOf; omega
  have hi : inPkg (s.pkg * 2 ^ 43 + a) = a := by unfold inPkg; omega
  rw [State.forwarded, if_pos hp, hi]

theorem State.porchOk_iff (s : State) (p : Nat) : s.porchOk p = true ↔ s.physOk (inPkg p) = true ∧
    s.fwdOf (inPkg p) = none ∧ s.homeLost (inPkg p) = false ∧ (s.power = .hold → stackOf (inPkg p) = none) := by
  simp only [State.porchOk, Bool.and_eq_true, Option.isNone_iff_eq_none, Bool.not_eq_true', Bool.and_eq_false_iff,
    beq_eq_false_iff_ne, Option.isSome_eq_false_iff, and_assoc, imp_iff_not_or]

/-! ### The ash pan's read index, access counts and timestamps (R223, R393, R421) -/

/-- A fold that sets each key to a function of it. -/
theorem Store.get_foldl_set {w : Nat} {α : Type} (key : α → Nat) (f : Nat → BitVec w) (xs : List α) (m : Store w)
    (k : Nat) : (xs.foldl (fun m e => m.set (key e) (f (key e))) m).get k =
      if k ∈ xs.map key then f k else m.get k := by
  induction xs generalizing m with
  | nil => rfl
  | cons x xs ih =>
    rw [List.foldl_cons, ih]
    by_cases hk : key x = k
    · subst hk
      simp
    · rw [Store.get_set_other _ _ hk]
      simp [Ne.symm hk]

theorem Store.get_of_not_mem {w : Nat} {m : Store w} {k : Nat} (h : k ∉ m.map Prod.fst) : m.get k = 0 := by
  induction m with
  | nil => rfl
  | cons e m ih =>
    simp only [List.map_cons, List.mem_cons, not_or] at h
    rw [Store.get, if_neg (Ne.symm h.1), ih h.2]

/-- Access counts are halved (R223). -/
theorem exec_accessCountDecay (s : State) : ∃ counts, exec .accessCountDecay s = .next { s with counts := counts } ∧
    ∀ k, counts.get k = s.counts.get k >>> 1 := by
  refine ⟨_, rfl, fun k => ?_⟩
  rw [Store.get_foldl_set Prod.fst fun k => s.counts.get k >>> 1]
  split
  · rfl
  · next h => rw [Store.get_of_not_mem h]; rfl

/-- The pts of the groups of a core go up (R393). -/
theorem exec_ptsAdvance (s : State) (core : Nat) : ∃ threads, exec (.ptsAdvance core) s =
    .next { s with threads := threads } ∧ ∀ tid t, s.threads.get? tid = some t → threads.get? tid =
      some (if t.side ≠ .cellar ∧ s.coreOf t = core then { t with pts := t.pts + 1 } else t) := by
  refine ⟨_, rfl, fun tid t h => ?_⟩
  refine (Tab.get?_map_if _ (fun t => t.side ≠ .cellar ∧ s.coreOf t = core)
    (fun t => { t with pts := t.pts + 1 }) tid).trans ?_
  rw [h, Option.map_some]

/-- What a record that is written leaves of the ash pan's counts (R421). -/
theorem State.ashWrite_counts (s : State) (r : AshRec) : (s.ashWrite r).ashLost = s.ashLost ∧
    (s.ashWrite r).ashSeq = s.ashSeq + 1 ∧
    (s.ashWrite r).hr 0x4C8 = BitVec.ofNat 64 (((s.hr 0x4C8).toNat + 1) % 2 ^ 32) := by
  obtain ⟨s1, ⟨_, _, _, _, _, _, _, _, rfl⟩, hw⟩ := s.ashWrite_eq r
  rw [hw]
  refine ⟨by simp [State.msix], by simp [State.msix], ?_⟩
  rw [State.msix_hr, State.setHr_hr, if_pos rfl]

/-- The read index; after drops, a record of them comes first (R421). -/
theorem exec_hashrWrite (s : State) (v : W64) :
    (s.ashLost = 0 ∨ s.ashLog ≤ 3 ∨ (s.setHr 0x4D0 (BitVec.ofNat 64 (v.toNat % 2 ^ 32))).ashFull = true →
      exec (.hashrWrite v) s = .next (s.setHr 0x4D0 (BitVec.ofNat 64 (v.toNat % 2 ^ 32)))) ∧
    (s.ashLost ≠ 0 → 3 < s.ashLog → (s.setHr 0x4D0 (BitVec.ofNat 64 (v.toNat % 2 ^ 32))).ashFull = false →
      exec (.hashrWrite v) s = .next
        (({ s.setHr 0x4D0 (BitVec.ofNat 64 (v.toNat % 2 ^ 32)) with ashLost := 0 } : State).ashWrite
          { code := 0x17, info := s.ashLost })) := by
  have hx : exec (.hashrWrite v) s = execHashrWrite v s := rfl
  rw [hx, execHashrWrite]
  dsimp only
  refine ⟨fun h => if_neg ?_, fun h1 h2 h3 => if_pos ⟨h2, h1, by rw [h3]; rfl⟩⟩
  rintro ⟨hlog, hlost, hfull⟩
  rcases h with h | h | h
  · exact hlost h
  · omega
  · rw [h] at hfull
    cases hfull

/-! ### Clause by clause -/

/-- A host's write at an address of this package (R283, R438). -/
theorem State.hostAt_write {s : State} {x : HostAcc} {b : Bool} {p : Nat} {bs : List Byte} (hw : x.write = some bs) :
    s.hostAt x b p = if s.porchOk p then s.putPhys (inPkg p) bs else s := by
  simp only [State.hostAt, hw]

/-- A host's read at an address of this package (R283, R438). -/
theorem State.hostAt_read {s : State} {x : HostAcc} {b : Bool} {p : Nat} (hw : x.write = none) :
    s.hostAt x b p = { s with hostData := s.hostData ++ [(b,
      if s.porchOk p && !s.poisoned (inPkg p) then some (s.mem.bytes (inPkg p) x.len) else none)] } := by
  simp only [State.hostAt, hw]
  rfl

/-- A plain register, and what REQ 3 of HPWR does, for any offset (R66, R67, R437). -/
theorem registerWrite_next (s : State) (off : Nat) (v : W64) (port : Port) : ∃ s',
    exec (.registerWrite off v port) s = .next s' ∧
    (∀ m, regMask off = some m → s'.hr off = v &&& BitVec.ofNat 64 m) ∧
    (regMask off = none → (off ≠ 0x500 ∨ v.toNat % 4 ≠ 3) → s' = s) ∧
    (off = 0x500 → v.toNat % 4 = 3 → s.debugEntry = none → s'.hr off = s.hr off ||| 0x8000000000000000) ∧
    (off = 0x500 → v.toNat % 4 = 3 → s.debugEntry ≠ none → s' = { s with secQueue := s.secQueue ++ [.noEffect] }) ∧
    (∀ x, x ≠ off → s'.hr x = s.hr x) ∧ s'.mem = s.mem ∧ s'.threads = s.threads := by
  by_cases h : off = 0x500 ∧ v.toNat % 4 = 3
  · obtain ⟨rfl, hv⟩ := h
    obtain ⟨hnow, hlater⟩ := exec_registerWrite_power (s := s) (port := port) hv
    have hmask (m : Nat) : regMask 0x500 ≠ some m := nofun
    by_cases hd : s.debugEntry = none
    · refine ⟨_, hnow hd, fun m hm => absurd hm (hmask m), fun _ hp => absurd hp (by simp [hv]), fun _ _ _ => ?_,
        fun _ _ hn => absurd hd hn, fun x hx => ?_, rfl, rfl⟩
      · exact (s.setHr_hr ..).trans (if_pos rfl)
      · exact (s.setHr_hr ..).trans (if_neg hx.symm)
    · exact ⟨_, hlater hd, fun m hm => absurd hm (hmask m), fun _ hp => absurd hp (by simp [hv]),
        fun _ _ hn => absurd hn hd, fun _ _ _ => rfl, fun _ _ => rfl, rfl, rfl⟩
  · obtain ⟨hsome, hnone⟩ := exec_registerWrite_plain (s := s) (port := port) (v := v) (not_and_or.mp h)
    cases hm : regMask off with
    | some m =>
      refine ⟨_, hsome m hm, ?_, nofun, fun h1 h2 => absurd ⟨h1, h2⟩ h, fun h1 h2 => absurd ⟨h1, h2⟩ h, fun x hx => ?_,
        rfl, rfl⟩
      · rintro _ ⟨⟩
        exact (s.setHr_hr ..).trans (if_pos rfl)
      · exact (s.setHr_hr ..).trans (if_neg hx.symm)
    | none =>
      exact ⟨_, hnone hm, nofun, fun _ _ => rfl, fun h1 h2 => absurd ⟨h1, h2⟩ h, fun h1 h2 => absurd ⟨h1, h2⟩ h,
        fun _ _ => rfl, rfl, rfl⟩

/-- Settles O53: each register's write and reading, each command of a latch, each access of a host, and what the Hearth
does from time to time, from the equation of its event. -/
theorem hearthAndHost : Obligations.HearthAndHost := by
  unfold Obligations.HearthAndHost
  refine ⟨?write, State.quietPart_iff, dieSetsOk_iff, fun s part v => exec_hptr_hsbk, ?hpart, ?reads, ?latches,
    fun s port down => ?link, ?host, State.porchOk_iff, ?window, ?hashr, ?msix, ?decay, ?pts⟩
  case write =>
    intro s off v port
    obtain ⟨s', hx, hmask, hrest⟩ := registerWrite_next s off v port
    refine ⟨s', hx, fun m hm => hmask m ?_, hrest⟩
    have hall : ∀ e ∈ ([(0x100, 0xFFFFFFFFFFFFFFFF), (0x108, 0xFFFF), (0x180, 0xFFFFFF), (0x188, 0xFFFFFF),
        (0x190, 0xFFFFFF), (0x198, 0xFFFFFF), (0x200, 0xFFFFFFFFFFFFFFFF), (0x208, 1), (0x210, 0xFFFFFFFFFFFFFFFF),
        (0x218, 1), (0x220, 0xFFFFFFFFFFFFFFFF), (0x228, 1), (0x300, 0xFFFFFFFF), (0x310, 0x0FFFFFFFFFFF1FFF),
        (0x400, 0x00FFFFFFFFFFFFC0), (0x418, 0x00FFFFFFFFFFFFC0), (0x420, 0x0FFFFFFFC0000000),
        (0x440, 0x00FFFFFFC0000000), (0x460, 0xFFFFFFFFFFFFFFFF), (0x480, 0x00FFFFFFFFFFF00F),
        (0x4A8, 0x0FFFFFFFC00000FF), (0x4B8, 0xFFFFFFFFFFFFFFFF), (0x4C0, 0x0FFFFFFFFFFFF00F),
        (0x4E0, 0x0FFFFFFFFFFFFFFF), (0x4E8, 0x0FFFFFFFFFFFF00F), (0x4F0, 0xFFFFFFFF)] : List (Nat × Nat)),
        regMask e.1 = some e.2 := by decide
    exact hall _ hm
  case hpart =>
    intro s v
    obtain ⟨htakes, hnot⟩ := exec_hpartWrite (s := s) (v := v)
    by_cases h : s.takesHpart v
    · refine ⟨_, htakes h, rfl, fun _ _ _ => ⟨?_, rfl, rfl, fun d x hd => ?_⟩, fun hn => absurd hn ?_⟩
      · have hlt : v.toNat % 2 ^ 20 < 2 ^ 64 := by omega
        show ((s.setHr 0x140 _).hr 0x140).toNat = _
        rw [State.setHr_hr, if_pos rfl, BitVec.toNat_ofNat, Nat.mod_eq_of_lt hlt]
      · exact (Tab.get?_map s.dies Die.cleared d).trans (by rw [hd]; rfl)
      · obtain ⟨hq, hsets, hpan⟩ := h
        rintro (hq' | hsets' | ⟨d, hd, hp⟩)
        · exact Bool.noConfusion (hq.symm.trans hq')
        · exact Bool.noConfusion (hsets.symm.trans hsets')
        · exact absurd (hpan d hd) (by omega)
    · exact ⟨_, hnot h, rfl, fun h1 h2 h3 => absurd ⟨h1, h2, h3⟩ h, fun _ => rfl⟩
  case reads =>
    intro s port
    refine ⟨fun q x hq hx => ⟨?_, fun c hc => ?_⟩, fun k j hk hj => ?_, fun n hn => ?_, fun p hp => ?_, ?_, rfl, rfl⟩
    · rw [s.readReg_widx port hq, hx]
    · have hcode : x.state.code = c := by
        simp only [List.mem_cons, Prod.mk.injEq, List.not_mem_nil, or_false] at hc
        obtain ⟨hs, rfl⟩ | ⟨hs, rfl⟩ | ⟨hs, rfl⟩ | ⟨hs, rfl⟩ := hc <;> rw [hs] <;> rfl
      rw [s.readReg_ridx port hq, ← hx, hcode]
    · rw [s.readReg_enables port hk, s.enables_getLsbD k hj]
    · rw [s.readReg_latch port hn]
      by_cases h : refusedKey n port ∈ s.latchRefused <;> simp [h, bit]
    · rw [s.readReg_tlbi port hp]
      exact busy_word (by simp only [List.any_eq_true, beq_iff_eq])
    · rw [s.readReg_hrekey port]
      exact busy_word (by simp only [List.any_eq_true, Link.updating, Bool.or_eq_true, Option.isSome_iff_ne_none])
  case latches =>
    intro s n port hn
    simp only [← Port.num_eq]
    refine ⟨fun h => ⟨_, exec_latchAcquire hn, ?_⟩, fun h => ?_, fun h => ⟨_, exec_latchRelease hn, ?_⟩, fun h => ?_,
      fun h => ?_, fun h => ?_, fun cmd => exec_latchInvalidCommand hn,
      fun m hm i hi s' hmn => exec_latch_other hn hmn hi⟩
    · obtain ⟨h1, h2, h3, h4⟩ := s.latchSet_fields n port (s.latchBrk n) (s.latchSeq n + 1) (Port.num_lt port)
      rw [if_pos h]
      exact ⟨h1, h2, h3.trans (s.latchBrk_mod n), h4⟩
    · rw [exec_latchAcquire hn, if_neg h]; rfl
    · obtain ⟨h1, h2, h3, h4⟩ := s.latchSet_fields n port (s.latchBrk n) (s.latchSeq n) (holder := 0) (by decide)
      rw [if_pos h]
      exact ⟨h1, h2.trans (s.latchSeq_mod n), h3.trans (s.latchBrk_mod n), h4⟩
    · rw [exec_latchRelease hn, if_neg h]; rfl
    · rw [exec_latchBreak hn, if_neg h]
      refine ⟨_, _, rfl, rfl, ?_⟩
      have hbooks := State.sameBooks_post (s.latchSet n port (s.latchBrk n + 1) (s.latchSeq n) 0)
        { code := 0x08, info := n + s.holder n * 2 ^ 8 + Port.num port * 2 ^ 16 }
      obtain ⟨e1, e2, e3⟩ := State.latch_congr (hbooks.hr (0x2000 + 8 * n) (by omega) (by omega))
      obtain ⟨h1, h2, h3, h4⟩ := s.latchSet_fields n port (s.latchBrk n + 1) (s.latchSeq n) (holder := 0) (by decide)
      exact ⟨e1.trans h1, e2.trans (h2.trans (s.latchSeq_mod n)), e3.trans h3, hbooks.latchRefused ▸ h4⟩
    · rw [exec_latchBreak hn, if_pos h]; rfl
  case link => cases port <;> rfl
  case host =>
    intro s x hpow hr hpa hlink
    have hup : s.portUp x.port := ⟨hpow, hlink⟩
    have hb := Port.isB_eq x.port
    refine ⟨fun ⟨e, he, ho, hk⟩ => exec_hostAccess_held hup hr ?_, fun hfree => ?_⟩
    · exact (s.hostHeld_iff _ _).mpr ⟨e, he, hb ▸ ho, hk.imp (by simp [·]) id⟩
    · have hh : s.hostHeld (x.port == .b) x.write.isSome = false := by
        refine Bool.eq_false_iff.mpr fun h => ?_
        obtain ⟨e, he, ho, hk⟩ := (s.hostHeld_iff _ _).mp h
        obtain ⟨hw, hk'⟩ := hfree e he (hb ▸ ho)
        rcases hk with hk | hk
        · exact hw (by simpa using hk)
        · exact hk' hk
      refine ⟨fun p hp hpk hl => ⟨fun bs hw hm => ⟨fun hok => ?_, fun hok => ?_⟩, fun hw => ?_⟩, fun p hp hpk => ?_⟩
      · rw [exec_hostAccess_here hup hr hh hp hpk hl fun _ => hm, State.hostAt_write hw, if_pos hok]
        exact ⟨_, rfl, rfl, rfl, rfl⟩
      · rw [exec_hostAccess_here hup hr hh hp hpk hl fun _ => hm, State.hostAt_write hw, if_neg (by simp [hok])]
      · rw [exec_hostAccess_here hup hr hh hp hpk hl (by simp [hw]), State.hostAt_read hw, hb]
        refine ⟨_, rfl, fun hok hpo => by simp [hok, hpo], ?_⟩
        rintro (h | h) <;> simp [h]
      · have hf : s.forwarded (s.pkg * 2 ^ 43 + x.pa) = p := by rw [State.forwarded_host hpa, hp, Option.getD_some]
        obtain ⟨id, sent, hget, hmem⟩ := s.sendAway_keeps (hostAway x s.pkg p)
        refine ⟨_, _, exec_hostAccess_away hup hr hh hf.symm hpk, hget, ?_, rfl, rfl, hmem, fun bs hw => ?_,
          fun hw => ?_⟩
        · rw [← hb]; rfl
        · simp [hostAway, hw, bit]
        · simp [hostAway, hw, bit]
  case window =>
    intro s x bs hpow hr hport hlink hw hfit
    have hup : s.portUp x.port := ⟨hpow, by rw [hport]; exact hlink⟩
    rw [exec_hostAccess_recovery hup hr]
    simp only [State.windowAt, hw]
    refine ⟨fun h => ?_, fun h => ?_⟩
    · rw [if_pos ⟨h, hfit⟩, hport]
      rfl
    · rw [if_neg (mt And.left h)]
  case hashr =>
    rintro s v s1 rfl
    obtain ⟨hplain, hover⟩ := exec_hashrWrite s v
    refine ⟨hplain, fun hlost hlog hfull => ⟨_, hover hlost hlog hfull, rfl, ?_⟩⟩
    obtain ⟨h1, h2, h3⟩ := State.ashWrite_counts
      { s.setHr 0x4D0 (BitVec.ofNat 64 (v.toNat % 2 ^ 32)) with ashLost := 0 } { code := 0x17, info := s.ashLost }
    refine ⟨h1, h2, h3.trans ?_⟩
    show BitVec.ofNat 64 ((((s.setHr 0x4D0 _).hr 0x4C8).toNat + 1) % 2 ^ 32) = _
    rw [State.setHr_hr, if_neg (by decide)]
  case msix =>
    intro s port vec hheld
    refine ⟨fun hd => ?_, fun hd => ?_⟩
    · show execMsixDeferredSend port vec s = _
      simp only [execMsixDeferredSend, hheld, hd, if_true, Bool.not_true, Bool.false_eq_true, if_false]
    · show execMsixDeferredSend port vec s = _
      simp only [execMsixDeferredSend, hheld, hd, Bool.not_true, Bool.false_eq_true, if_false]
  case decay =>
    intro s
    obtain ⟨counts, hx, hk⟩ := exec_accessCountDecay s
    exact ⟨_, hx, rfl, rfl, hk⟩
  case pts =>
    intro s core
    obtain ⟨threads, hx, ht⟩ := exec_ptsAdvance s core
    exact ⟨_, hx, rfl, ht⟩

end Sys2Proof.Machine
end

section
/-!
PROOFS. Queue slots: what a slot is granted to, ageing, quanta, enabling and write indices (O54).
-/

namespace Sys2Proof.Machine

/-! ### Sorting and the greatest element -/

theorem insertBy_perm {α : Type} (le : α → α → Bool) (x : α) (xs : List α) : (insertBy le x xs).Perm (x :: xs) := by
  induction xs with
  | nil => exact .refl _
  | cons y ys ih =>
    rw [insertBy]
    split
    · exact .refl _
    · exact (ih.cons y).trans (.swap x y ys)

theorem sortBy_perm {α : Type} (le : α → α → Bool) (xs : List α) : (sortBy le xs).Perm xs := by
  induction xs with
  | nil => exact .refl _
  | cons x xs ih => exact (insertBy_perm le x _).trans (ih.cons x)

/-- The first queue after the last one granted is one of those given, and there is one where any is given (R76). -/
theorem firstAfter_mem {last : Nat} {qs : List Nat} (h : qs ≠ []) : ∃ q ∈ qs, firstAfter last qs = some q := by
  obtain ⟨q, hq⟩ : ∃ q, firstAfter last qs = some q := by
    refine Option.isSome_iff_exists.mp (List.isSome_head?.mpr fun hn => h ?_)
    have := sortBy_perm (fun a b => decide ((a + 255 - last) % 256 ≤ (b + 255 - last) % 256)) qs
    rw [hn] at this
    exact this.symm.eq_nil
  exact ⟨q, (sortBy_perm _ qs).subset (List.mem_of_head? hq), hq⟩

/-- The greatest value of a list, from a start. -/
theorem foldl_max_spec {α : Type} (f : α → Nat) (xs : List α) (m : Nat) :
    m ≤ xs.foldl (fun m e => max m (f e)) m ∧ (∀ e ∈ xs, f e ≤ xs.foldl (fun m e => max m (f e)) m) ∧
      (xs.foldl (fun m e => max m (f e)) m = m ∨ ∃ e ∈ xs, f e = xs.foldl (fun m e => max m (f e)) m) := by
  induction xs generalizing m with
  | nil => exact ⟨le_rfl, nofun, .inl rfl⟩
  | cons x xs ih =>
    obtain ⟨hstart, hall, hsome⟩ := ih (max m (f x))
    refine ⟨(le_max_left ..).trans hstart, List.forall_mem_cons.mpr ⟨(le_max_right ..).trans hstart, hall⟩, ?_⟩
    rcases hsome with h | ⟨e, he, h⟩
    · rw [List.foldl_cons, h]
      rcases Nat.le_total m (f x) with hle | hle
      · exact .inr ⟨x, List.mem_cons_self, by omega⟩
      · exact .inl (by omega)
    · exact .inr ⟨e, List.mem_cons_of_mem _ he, h⟩

/-- The greatest of numbers is one of them. -/
theorem foldl_max_mem {α : Type} (f : α → Nat) {xs : List α} (h : xs ≠ []) :
    ∃ e ∈ xs, f e = xs.foldl (fun m e => max m (f e)) 0 := by
  obtain ⟨-, hall, hz | hsome⟩ := foldl_max_spec f xs 0
  · obtain ⟨e, he⟩ := List.exists_mem_of_ne_nil xs h
    exact ⟨e, he, by have := hall e he; omega⟩
  · exact hsome

/-! ### Grants (R68, R76) -/

/-- The queues of a set that wait for a slot, but for those of a partition that is being saved (R415). -/
def State.waiters (s : State) (set : Nat) : List (Nat × Queue) :=
  s.queues.filter fun e => e.2.waits && e.2.set == set && !s.saving e.2.part

theorem State.mem_waiters {s : State} {set : Nat} {e : Nat × Queue} :
    e ∈ s.waiters set ↔ e ∈ s.queues ∧ e.2.waits = true ∧ e.2.set = set ∧ s.saving e.2.part = false := by
  simp [State.waiters, and_assoc]

/-- The highest effective priority of a set's waiters. -/
def State.topEff (s : State) (set : Nat) : Nat := (s.waiters set).foldl (fun m e => max m e.2.eff) 0

theorem State.grantee_eq (s : State) (set : Nat) : s.grantee set =
    (firstAfter (s.lastGrant.getD (16 * set + s.topEff set) 255)
      (((s.waiters set).filter fun e => e.2.eff == s.topEff set).map (·.1))).map fun q => (q, s.topEff set) := rfl

/-- A slot goes to a waiter at the top, and to one where there is any (R76). -/
theorem State.grantee_mem {s : State} {set : Nat} (h : s.waiters set ≠ []) :
    ∃ q x, s.grantee set = some (q, x.eff) ∧ (q, x) ∈ s.waiters set ∧ ∀ e ∈ s.waiters set, e.2.eff ≤ x.eff := by
  obtain ⟨e, he, htop : e.2.eff = s.topEff set⟩ := foldl_max_mem (fun e => e.2.eff) h
  obtain ⟨-, hall : ∀ e ∈ s.waiters set, e.2.eff ≤ s.topEff set, -⟩ := foldl_max_spec (fun e => e.2.eff) (s.waiters set) 0
  rw [← htop] at hall
  have hne : ((s.waiters set).filter fun x => x.2.eff == e.2.eff).map (·.1) ≠ [] := by
    simpa using ⟨_, _, he, rfl⟩
  obtain ⟨q, hq, hfirst⟩ := firstAfter_mem (last := s.lastGrant.getD (16 * set + e.2.eff) 255) hne
  obtain ⟨⟨q', x⟩, hx, rfl⟩ := List.mem_map.mp hq
  obtain ⟨hmem, heff⟩ := List.mem_filter.mp hx
  have heff : x.eff = e.2.eff := by simpa using heff
  refine ⟨q', x, ?_, hmem, heff ▸ hall⟩
  rw [State.grantee_eq, ← htop, hfirst, heff]
  rfl

theorem State.grantee_none {s : State} {set : Nat} (h : s.waiters set = []) : s.grantee set = none := by
  rw [State.grantee_eq, h]
  rfl

theorem exec_queueSlotGrant {s : State} {slot q top : Nat} (hslot : slot < 64) (hfree : s.slots.get? slot = none)
    (hg : s.grantee (if slot < 56 then 0 else 1) = some (q, top)) : exec (.queueSlotGrant slot) s = .next { s with
      queues := s.queues.put q
        { s.queue q with state := .mapped, eff := (s.queue q).prio, spent := false, atWait := none }
      slots := s.slots.put slot q
      lastGrant := s.lastGrant.put (16 * (if slot < 56 then 0 else 1) + top) q } := by
  show execQueueSlotGrant slot s = _
  rw [execQueueSlotGrant, if_neg (by rw [hfree]; simp [hslot])]
  dsimp only
  rw [hg]
  rfl

/-! ### One queue of the state -/

@[simp] theorem State.queue_updQueue_same (s : State) (q : Nat) (f : Queue → Queue) :
    (s.updQueue q f).queue q = f (s.queue q) := Tab.getD_put_same ..

theorem State.queue_updQueue_other (s : State) {q p : Nat} (f : Queue → Queue) (h : q ≠ p) :
    (s.updQueue q f).queue p = s.queue p := Tab.getD_put_other _ _ _ h

@[simp] theorem State.queue_unmap_same (s : State) (q : Nat) (st : QState) : (s.unmap q st).queue q =
    { s.queue q with state := st, eff := (s.queue q).prio, atWait := none } := Tab.getD_put_same ..

theorem State.queue_unmap_other (s : State) {q p : Nat} (st : QState) (h : q ≠ p) :
    (s.unmap q st).queue p = s.queue p := Tab.getD_put_other _ _ _ h

theorem State.queue_congr {s s' : State} (h : s'.queues = s.queues) (q : Nat) : s'.queue q = s.queue q := by
  rw [State.queue, State.queue, h]

/-- A queue whose quantum has run out (R76). -/
def State.spend (s : State) (q : Nat) : State := s.updQueue q fun x => { x with spent := true }

@[simp] theorem State.queue_spend (s : State) (q : Nat) : (s.spend q).queue q = { s.queue q with spent := true } :=
  Tab.getD_put_same ..

/-- A queue that leaves its slot holds none. -/
theorem State.slots_unmap (s : State) (q : Nat) (st : QState) : ∀ e ∈ (s.unmap q st).slots, e.2 ≠ q := by
  intro e he
  have := (List.mem_filter.mp he).2
  simpa using this

/-- A waiting queue of the set has reached a queue's base (R76). -/
def State.pressed (s : State) (q : Nat) : Bool :=
  s.queues.any fun e => e.2.waits && e.2.set == (s.queue q).set && decide ((s.queue q).prio ≤ e.2.eff)

/-- What the test of a queue's quantum does (R76). -/
theorem State.yieldTest_eq (s : State) (q : Nat) : s.yieldTest q =
    if (s.queue q).state = .mapped ∧ (s.queue q).spent = true ∧ s.pressed q = true then s.unmap q .waiting else s := rfl

/-- The test leaves a queue that is not mapped, and memory. -/
theorem State.waitYield_keeps {s : State} {q : Nat} (h : (s.queue q).state ≠ .mapped) (p : Nat) :
    (s.waitYield p).queue q = s.queue q ∧ (s.waitYield p).mem = s.mem := by
  unfold State.waitYield
  split
  · rw [State.yieldTest_eq]
    split
    · next hp =>
      refine ⟨s.queue_unmap_other _ ?_, rfl⟩
      rintro rfl
      exact h hp.1
    · exact ⟨rfl, rfl⟩
  · exact ⟨rfl, rfl⟩

theorem State.waitYields_keeps {s : State} {q : Nat} (h : (s.queue q).state ≠ .mapped) :
    s.waitYields.queue q = s.queue q ∧ s.waitYields.mem = s.mem := by
  refine List.foldlRecOn s.queues _ (motive := fun s1 : State => s1.queue q = s.queue q ∧ s1.mem = s.mem) ⟨rfl, rfl⟩ ?_
  rintro s1 ⟨hq, hm⟩ e -
  obtain ⟨hq', hm'⟩ := State.waitYield_keeps (s := s1) (q := q) (by rw [hq]; exact h) e.1
  exact ⟨hq'.trans hq, hm'.trans hm⟩

/-! ### Ageing and quanta (R73, R76) -/

theorem Queue.waits_iff (x : Queue) : x.waits = true ↔ x.enabled = true ∧ x.state = .waiting := by
  simp [Queue.waits]

theorem topLevel_eq (x : Queue) : topLevel x.set = if x.typ = 2 then 3 else 15 := by
  unfold Queue.set
  split <;> rfl

theorem exec_ageIntervalExpiry {s : State} {q : Nat} (h : (s.queue q).waits = true) :
    exec (.ageIntervalExpiry q) s =
      .next (s.updQueue q fun x => { x with eff := min (x.eff + 1) (topLevel x.set) }).waitYields := by
  show execAgeIntervalExpiry q s = _
  rw [execAgeIntervalExpiry, h]
  rfl

theorem exec_quantumExpiry {s : State} {q : Nat} (hm : (s.queue q).state = .mapped) (hs : (s.queue q).spent = false) :
    exec (.quantumExpiry q) s = .next ((s.spend q).waitYield q) := by
  show execQuantumExpiry q s = _
  rw [execQuantumExpiry, hm, hs]
  rfl

theorem State.waitYield_passed {s : State} {q : Nat} (h : s.atUnpassed q = false) : s.waitYield q = s := by
  rw [State.waitYield, h]
  rfl

theorem State.waitYield_unpassed {s : State} {q : Nat} (h : s.atUnpassed q = true) : s.waitYield q = s.yieldTest q := by
  rw [State.waitYield, h]
  rfl

theorem State.waitYield_unspent {s : State} {q : Nat} (h : (s.queue q).spent = false) : s.waitYield q = s := by
  have htest : s.yieldTest q = s := by
    rw [State.yieldTest_eq, if_neg]
    exact fun ⟨_, hs, _⟩ => Bool.noConfusion (h.symm.trans hs)
  rw [State.waitYield, htest, ite_self]

theorem State.atUnpassed_none {s : State} {q : Nat} (h : (s.queue q).atWait = none) : s.atUnpassed q = false := by
  rw [State.atUnpassed, h]

theorem State.atUnpassed_some {s : State} {q bar phase : Nat} {bs : List Byte}
    (h : (s.queue q).atWait = some (bar, phase)) (hr : s.hearthRead (s.queue q).part bar 64 = .bytes bs) :
    s.atUnpassed q = !(Bar.ofWord (ofBytes bs)).completed phase := by
  simp only [State.atUnpassed, h, hr]

/-- A record that changes between values that fail a test does not change whether any passes it. -/
theorem Tab.any_put {α : Type} {m : Tab α} {k : Nat} {v d : α} {p : α → Bool} (hv : p v = false)
    (hold : p (m.getD k d) = false) : (m.put k v).any (fun e => p e.2) = m.any fun e => p e.2 := by
  induction m with
  | nil => simp [Tab.put, hv]
  | cons e m ih =>
    simp only [Tab.put, Tab.getD, Tab.get?] at hold ⊢
    split
    · next hk =>
      rw [if_pos hk] at hold
      simp only [List.any_cons, hv, show p e.2 = false from hold]
    · next hk =>
      rw [if_neg hk] at hold
      simp only [List.any_cons, ih hold]

theorem State.pressed_iff (s : State) (q : Nat) : s.pressed q = true ↔
    ∃ e ∈ s.queues, e.2.waits = true ∧ e.2.set = (s.queue q).set ∧ (s.queue q).prio ≤ e.2.eff := by
  simp only [State.pressed, List.any_eq_true, Bool.and_eq_true, beq_iff_eq, decide_eq_true_eq, and_assoc]

/-- The record of a mapped queue's quantum changes nothing of who waits. -/
theorem State.pressed_spent {s : State} {q : Nat} (h : (s.queue q).state = .mapped) :
    (s.spend q).pressed q = s.pressed q := by
  have hmapped {x : Queue} (hx : x.state = .mapped) : x.waits = false := by simp [Queue.waits, hx]
  rw [State.pressed, State.queue_spend]
  refine Tab.any_put (d := {}) (p := fun x : Queue =>
    x.waits && x.set == (s.queue q).set && decide ((s.queue q).prio ≤ x.eff)) ?_ ?_
  · simp [hmapped (x := { s.queue q with spent := true }) h]
  · simp [hmapped (x := s.queues.getD q {}) h]

/-- A queue whose quantum runs out at an unpassed wait entry yields where a waiting queue has reached its base (R76). -/
theorem State.yieldTest_spent {s : State} {q : Nat} (hm : (s.queue q).state = .mapped) :
    (s.spend q).yieldTest q = if s.pressed q then (s.spend q).unmap q .waiting else s.spend q := by
  rw [State.yieldTest_eq, State.pressed_spent hm]
  simp [hm]

/-! ### Enabling, disabling and write indices (R67 to R69, R71) -/

theorem State.queueOk_iff (s : State) (x : Queue) : s.queueOk x = true ↔ x.typ ≠ 3 ∧ 4 ≤ x.log2n ∧ x.log2n ≤ 16 ∧
    (x.typ = 2 → x.prio ≤ 3) ∧ x.base % (2 ^ x.log2n * if x.typ = 0 then 128 else 64) = 0 ∧
    x.base + 2 ^ x.log2n * (if x.typ = 0 then 128 else 64) ≤ 2 ^ 56 ∧ x.ridxa % 8 = 0 ∧ x.ridxa < 2 ^ 56 ∧
    s.diesOf x.part ≠ [] := by
  simp only [State.queueOk, windowOk, Bool.and_eq_true, bne_iff_ne, ne_eq, decide_eq_true_eq, beq_iff_eq,
    Bool.not_eq_true', Bool.and_eq_false_iff, beq_eq_false_iff_ne, decide_eq_false_iff_not, Nat.not_lt,
    List.isEmpty_eq_false_iff, and_assoc, imp_iff_not_or]
  rfl

/-- A table of this package that can be read is read as it stands (R67). -/
theorem State.physBytes_here {s : State} {pa n : Nat} (hp : pkgOf pa = s.pkg) (hf : s.fwdOf (inPkg pa) = none)
    (hl : s.homeLost (inPkg pa) = false) (hr : s.tableReadable pa = true) :
    s.physBytes pa n = s.mem.bytes (inPkg pa) n := by
  have hfw : s.forwarded pa = pa := by rw [State.forwarded, if_pos hp, hf, Option.getD_none]
  have hok : s.porchOk pa = true := by
    simp only [State.tableReadable, hp, bne_self_eq_false, Bool.false_or, Bool.and_eq_true] at hr
    simp only [State.porchOk, hf, hl, hr.1.1, hr.2, Option.isNone_none, Bool.not_false, Bool.and_self]
  rw [State.physBytes, hfw]
  exact if_pos ⟨hp, hok⟩

theorem exec_queueEnable {s : State} {q pa : Nat} (hq : q < 256) (he : (s.queue q).enabled = false)
    (hpa : pa = (s.hr 0x100).toNat / 64 * 64 % 2 ^ 60 + 64 * q) (hl : s.homeLost (inPkg pa) = false) :
    exec (.queueEnable q) s = .next
      (if s.tableReadable pa && s.queueOk (queueOf (ofBytes (s.physBytes pa 64))) then
        s.updQueue q fun old => { queueOf (ofBytes (s.physBytes pa 64)) with launch := old.launch }
      else s.post { code := 6, part := (queueOf (ofBytes (s.physBytes pa 64))).part }) := by
  subst hpa
  show execQueueEnable q s = _
  rw [execQueueEnable]
  dsimp only
  rw [if_neg (by rw [he]; simp [hq]),
    if_neg fun h => Bool.noConfusion (hl.symm.trans h.2)]
  split <;> rfl

theorem exec_queueDisable {s : State} {q : Nat} (h : (s.queue q).enabled = true) : exec (.queueDisable q) s =
    .next ((s.unmap q .off).updQueue q fun x => { x with enabled := false }) := by
  show execQueueDisable q s = _
  rw [execQueueDisable, h]
  rfl

theorem Queue.hasWork_iff (x : Queue) : x.hasWork = true ↔ x.widx ≠ x.ridx := by simp [Queue.hasWork]

theorem Queue.overrun_iff (x : Queue) :
    x.overrun = true ↔ 2 ^ x.log2n < (x.widx + 2 ^ 32 - x.ridx) % 2 ^ 32 := by simp [Queue.overrun]

section
variable {s : State} {q : Nat} {v : W64} {x : Queue} (hq : q < 256)
  (hx : x = { s.queue q with widx := v.toNat % 2 ^ 32 })
include hq hx

theorem exec_qwidxWrite_off (he : x.enabled = false) :
    exec (.qwidxWrite q v) s = .next { s with queues := s.queues.put q x } := by
  subst hx
  show execQwidxWrite q v s = _
  rw [execQwidxWrite, if_neg (by omega)]
  simp only [State.queue_updQueue_same]
  rw [if_pos (by rw [he]; rfl)]
  rfl

/-- New work in an idle queue: it waits for a slot, unless it is overrun. -/
theorem exec_qwidxWrite_idle (he : x.enabled = true)
    (hi : x.state = .off ∨ x.state = .mapped ∧ (s.queue q).widx = x.ridx) (hw : x.widx ≠ x.ridx) :
    exec (.qwidxWrite q v) s =
      .next ((({ s with queues := s.queues.put q x } : State).unmap q .waiting).overrunTest q).waitYields := by
  subst hx
  show execQwidxWrite q v s = _
  rw [execQwidxWrite, if_neg (by omega)]
  simp only [State.queue_updQueue_same]
  have hidle := hi.imp id (And.imp id fun h : (s.queue q).widx = (s.queue q).ridx =>
    show (!(s.queue q).hasWork) = true by simp [Queue.hasWork, h])
  rw [if_neg (by rw [he]; decide), if_pos ⟨hidle, (Queue.hasWork_iff _).mpr hw⟩]
  rfl

/-- A write index that makes no idle queue wait. -/
theorem exec_qwidxWrite_busy (he : x.enabled = true)
    (hb : x.state = .waiting ∨ x.state = .mapped ∧ (s.queue q).widx ≠ x.ridx) :
    exec (.qwidxWrite q v) s = .next (({ s with queues := s.queues.put q x } : State).overrunTest q) := by
  subst hx
  show execQwidxWrite q v s = _
  rw [execQwidxWrite, if_neg (by omega)]
  simp only [State.queue_updQueue_same]
  rw [if_neg (by rw [he]; decide), if_neg ?_]
  · rfl
  · rintro ⟨hoff | ⟨hmap, hidle⟩, -⟩
    · rcases hb with hb | ⟨hb, -⟩ <;> cases hoff.symm.trans hb
    · rcases hb with hb | ⟨-, hb⟩
      · cases hmap.symm.trans hb
      · exact hb (by simpa [Queue.hasWork] using hidle)

end

/-- The test of a queue that waits or is mapped (R68). -/
theorem State.overrunTest_eq {s : State} {q : Nat} (h : (s.queue q).state = .waiting ∨ (s.queue q).state = .mapped) :
    s.overrunTest q = if (s.queue q).overrun = true then
      (s.unmap q .faulted).post { code := 5, part := (s.queue q).part } else s := by
  simp [State.overrunTest, h]

end Sys2Proof.Machine
end

section
/-!
PROOFS. The reading of queue entries: launches, wait entries, copy commands and Cellar tasks (O54).
-/

namespace Sys2Proof.Machine

/-! ### What passing an entry leaves (R68, R72) -/

/-- Work, tasks and commands stand as before, and a queue as far as its entries go: it may have left its slot. -/
structure State.KeepsEntries (s s' : State) (q : Nat) : Prop where
  launches : s'.launches = s.launches
  copycmds : s'.copycmds = s.copycmds
  tasks : s'.tasks = s.tasks
  cunits : s'.cunits = s.cunits
  dies : s'.dies = s.dies
  wgs : s'.wgs = s.wgs
  ridx : (s'.queue q).ridx = (s.queue q).ridx
  launch : (s'.queue q).launch = (s.queue q).launch
  atWait : (s.queue q).atWait = none → (s'.queue q).atWait = none

theorem State.KeepsEntries.refl (s : State) (q : Nat) : s.KeepsEntries s q :=
  ⟨rfl, rfl, rfl, rfl, rfl, rfl, rfl, rfl, id⟩

theorem State.KeepsEntries.trans {s s1 s2 : State} {q : Nat} (h1 : s.KeepsEntries s1 q) (h2 : s1.KeepsEntries s2 q) :
    s.KeepsEntries s2 q where
  launches := h2.launches.trans h1.launches
  copycmds := h2.copycmds.trans h1.copycmds
  tasks := h2.tasks.trans h1.tasks
  cunits := h2.cunits.trans h1.cunits
  dies := h2.dies.trans h1.dies
  wgs := h2.wgs.trans h1.wgs
  ridx := h2.ridx.trans h1.ridx
  launch := h2.launch.trans h1.launch
  atWait h := h2.atWait (h1.atWait h)

theorem State.SameBooks.keepsEntries {s s' : State} (h : s.SameBooks s') (q : Nat) : s.KeepsEntries s' q where
  launches := h.launches
  copycmds := h.copycmds
  tasks := h.tasks
  cunits := h.cunits
  dies := h.dies
  wgs := h.wgs
  ridx := by rw [State.queue_congr h.queues]
  launch := by rw [State.queue_congr h.queues]
  atWait hn := by rw [State.queue_congr h.queues, hn]

theorem State.keepsEntries_unmap (s : State) (q : Nat) (st : QState) : s.KeepsEntries (s.unmap q st) q :=
  ⟨rfl, rfl, rfl, rfl, rfl, rfl, by rw [State.queue_unmap_same], by rw [State.queue_unmap_same],
    fun _ => by rw [State.queue_unmap_same]⟩

theorem State.state_unmap_post (s : State) (q : Nat) (st : QState) (r : AshRec) :
    (((s.unmap q st).post r).queue q).state = st := by
  rw [State.queue_congr (State.sameBooks_post _ r).queues, State.queue_unmap_same]

theorem State.keepsEntries_overrunTest (s : State) (q : Nat) : s.KeepsEntries (s.overrunTest q) q := by
  unfold State.overrunTest
  dsimp only
  split
  · exact (s.keepsEntries_unmap q _).trans ((State.sameBooks_post _ _).keepsEntries q)
  · exact .refl s q

theorem State.keepsEntries_yieldTest (s : State) (q : Nat) : s.KeepsEntries (s.yieldTest q) q := by
  rw [State.yieldTest_eq]
  split
  · exact s.keepsEntries_unmap q _
  · exact .refl s q

theorem State.keepsEntries_waitYield (s : State) (q : Nat) : s.KeepsEntries (s.waitYield q) q := by
  unfold State.waitYield
  split
  · exact s.keepsEntries_yieldTest q
  · exact .refl s q

/-- A queue whose read index has passed an entry (R72). -/
def Queue.passed (x : Queue) : Queue := { x with ridx := (x.ridx + 1) % 2 ^ 32, atWait := none }

/-- The store of a read index at RIDXA, where one is asked for (R68; log 50). -/
def State.putRidx (s : State) (q : Nat) : State :=
  if (s.queue q).ridxa = 0 then s
  else (s.hearthPut (s.queue q).part (s.queue q).ridxa (toBytes (s.queue q).ridx 8)).getD s

theorem State.sameBooks_putRidx (s : State) (q : Nat) : s.SameBooks (s.putRidx q) := by
  unfold State.putRidx
  split
  · exact .refl s
  · exact (s.onlySent_hearthPut _ _ _ _).sameBooks

/-- What becomes of a queue whose read index has passed an entry: it faults, stays, yields or goes off (R68, R76). -/
theorem State.consume_eq (s : State) (q : Nat) : s.consume q =
    (let x := (s.queue q).passed
     let s2 := (s.updQueue q Queue.passed).putRidx q
     if x.overrun = true then s2.overrunTest q
     else if x.state ≠ .mapped then s2
     else if x.hasWork = true then s2.yieldTest q else s2.unmap q .off) := by
  have hx : (s.updQueue q Queue.passed).queue q = (s.queue q).passed := s.queue_updQueue_same q _
  rw [← hx]
  rfl

theorem State.keepsEntries_consume (s : State) (q : Nat) :
    (s.updQueue q Queue.passed).KeepsEntries (s.consume q) q := by
  have hput := ((s.updQueue q Queue.passed).sameBooks_putRidx q).keepsEntries q
  rw [State.consume_eq]
  dsimp only
  split
  · exact hput.trans (State.keepsEntries_overrunTest _ q)
  · split
    · exact hput
    · split
      · exact hput.trans (State.keepsEntries_yieldTest _ q)
      · exact hput.trans (State.keepsEntries_unmap _ q _)

section
variable (s : State) (q : Nat)

theorem State.consume_ridx : ((s.consume q).queue q).ridx = ((s.queue q).ridx + 1) % 2 ^ 32 :=
  (s.keepsEntries_consume q).ridx.trans (by rw [State.queue_updQueue_same]; rfl)

theorem State.consume_launch : ((s.consume q).queue q).launch = (s.queue q).launch :=
  (s.keepsEntries_consume q).launch.trans (by rw [State.queue_updQueue_same]; rfl)

theorem State.consume_atWait : ((s.consume q).queue q).atWait = none :=
  (s.keepsEntries_consume q).atWait (by rw [State.queue_updQueue_same]; rfl)

/-- A mapped queue that is overrun when its index has passed faults (R68). -/
theorem State.consume_overrun (hm : (s.queue q).state = .mapped) (h : (s.queue q).passed.overrun = true) :
    ((s.consume q).queue q).state = .faulted := by
  have hx : ((s.updQueue q Queue.passed).putRidx q).queue q = (s.queue q).passed := by
    rw [State.queue_congr (State.sameBooks_putRidx _ q).queues, State.queue_updQueue_same]
  have hm' : (((s.updQueue q Queue.passed).putRidx q).queue q).state = .mapped := by rw [hx]; exact hm
  rw [State.consume_eq]
  dsimp only
  rw [if_pos h, State.overrunTest_eq (.inr hm'), if_pos (by rw [hx]; exact h),
    State.queue_congr (State.sameBooks_post _ _).queues, State.queue_unmap_same]

end

/-! ### Entries that can be read (R70, R72) -/

/-- A mapped queue of a type stands before an entry with these bytes. -/
def State.reads (s : State) (q typ : Nat) (bs : List Byte) : Prop := s.canRead q typ = true ∧ s.entry q = .bytes bs

theorem State.reads_of {s : State} {q typ : Nat} {bs : List Byte} {x : Queue} (hx : x = s.queue q)
    (he : x.enabled = true) (hs : x.state = .mapped) (ht : x.typ = typ) (hw : x.widx ≠ x.ridx) (ha : x.atWait = none)
    (hv : s.saving x.part = false) (hr : s.hearthRead x.part (x.base + x.ridx % 2 ^ x.log2n * entryBytes typ)
      (entryBytes typ) = .bytes bs) : s.reads q typ bs := by
  subst hx ht
  refine ⟨?_, hr⟩
  simp [State.canRead, Queue.hasWork, he, hs, hw, ha, hv]

theorem State.hearthRead_here {s : State} {part va n a base entry : Nat} {big w x mig : Bool} (hva : va + n ≤ 2 ^ 56)
    (hw : s.walk part va = .page base big true w x mig entry)
    (hp : s.physRes part true .load (pageAddr base big va) true = .ok (.phys a)) :
    s.hearthRead part va n = .bytes (s.mem.bytes a n) := by
  rw [State.hearthRead, if_neg (by omega), hw]
  simp [hp]

/-! ### Launches (R74, R77, R78) -/

@[simp] theorem State.mark_queues (s : State) : s.mark.queues = s.queues := by
  obtain ⟨c, h⟩ := s.onlyCores_mark
  rw [h]

theorem State.sameBooks_refuse (s : State) (part die code : Nat) (host : Bool) (h : Header) :
    s.SameBooks (s.refuse part die code host h) :=
  (s.sameBooks_post _).trans (State.sameBooks_signalDone _ _)

/-- The checks that a header fails, with the code of each (R78). -/
def State.refusedWith (s : State) (part d w : Nat) (args : List Byte) (h : Header) (code : Nat) : Prop :=
  wellFormedHeader w = false ∧ code = 1 ∨
  wellFormedHeader w = true ∧ s.hearthWords part h.args h.argsz = .bad ∧ code = 2 ∨
  wellFormedHeader w = true ∧ s.hearthWords part h.args h.argsz = .bytes args ∧ h.perCluster = 0 ∧ code = 3 ∨
  wellFormedHeader w = true ∧ s.hearthWords part h.args h.argsz = .bytes args ∧ h.perCluster ≠ 0 ∧
    h.gridsync = true ∧ h.capacity d < h.total ∧ code = 4

theorem State.admission_refused {s : State} {part d w code : Nat} {args : List Byte} {h : Header}
    (hh : h = headerOf w) (hr : s.refusedWith part d w args h code) : s.admission part d w = .refused code := by
  subst hh
  unfold State.admission
  rcases hr with ⟨hw, rfl⟩ | ⟨hw, ha, rfl⟩ | ⟨hw, ha, hu, rfl⟩ | ⟨hw, ha, hu, hg, hc, rfl⟩
  · simp [hw]
  · simp [hw, ha]
  · simp [hw, ha, hu]
  · simp [hw, ha, hu, hg, hc]

theorem State.admission_passes {s : State} {part d w : Nat} {args : List Byte} {h : Header} (hh : h = headerOf w)
    (hw : wellFormedHeader w = true) (ha : s.hearthWords part h.args h.argsz = .bytes args) (hu : h.perCluster ≠ 0)
    (hg : h.gridsync = true → h.total ≤ h.capacity d) : s.admission part d w = .admitted args := by
  subst hh
  have hfit : ((headerOf w).gridsync && decide ((headerOf w).capacity d < (headerOf w).total)) = false := by
    simpa using hg
  simp only [State.admission, hw, ha, hu, hfit, Bool.not_true, Bool.false_eq_true, if_false]

section
variable {s : State} {q : Nat} {bs : List Byte} (hr : s.reads q 0 bs) (hready : s.readyAfter (s.queue q).launch = true)
include hr hready

theorem exec_launchAdmission_queue (hw : ofBytes bs % 256 ≠ 2) :
    exec (.launchAdmission (.queue q)) s = s.admitQueue q (ofBytes bs) := by
  obtain ⟨hcan, hentry⟩ := hr
  show execLaunchAdmission (.queue q) s = _
  simp only [execLaunchAdmission, hcan, hready, hentry, hw, Bool.not_true, Bool.false_eq_true, or_self, if_false]

/-- A wait entry: it is taken up, or fails (R73). -/
theorem exec_waitEntry (hw : ofBytes bs % 256 = 2) {bar : Nat} (hbar : bar = fld (ofBytes bs) 64 64) :
    (bar % 64 = 0 → s.hearthRead (s.queue q).part bar 64 ≠ .bad → exec (.waitEntry (.queue q)) s =
      .next ((s.updQueue q fun x => { x with atWait := some (bar, fld (ofBytes bs) 128 32) }).waitYield q)) ∧
    (bar % 64 ≠ 0 ∨ s.hearthRead (s.queue q).part bar 64 = .bad →
      exec (.waitEntry (.queue q)) s = .next (s.waitFails q bar)) := by
  subst hbar
  obtain ⟨hcan, hentry⟩ := hr
  have hx : exec (.waitEntry (.queue q)) s = execWaitEntry (.queue q) s := rfl
  rw [hx, execWaitEntry]
  simp only [hcan, hready, hentry, hw, Bool.not_true, Bool.false_eq_true, or_self, if_false, ne_eq, not_true_eq_false]
  refine ⟨fun hal hok => ?_, fun hbad => ?_⟩
  · rw [if_neg (not_not.mpr hal)]
    split
    · next hb => exact absurd hb hok
    · rfl
  · split
    · rfl
    · next hal =>
      rw [hbad.resolve_left hal]

end

theorem State.admitQueue_passes {s : State} {q w : Nat} {args : List Byte}
    (h : s.admission (s.queue q).part (s.diesOf (s.queue q).part).length w = .admitted args) :
    s.admitQueue q w = .next (((State.updQueue { s with
      nextId := s.nextId + 1
      launches := s.launches.put s.nextId
        (s.launchFor (s.queue q).part (s.queue q).prio (some q) none (headerOf w) args) }
        q fun x => { x with launch := some s.nextId }).consume q).mark) := by
  unfold State.admitQueue
  dsimp only
  rw [h]

theorem State.admitQueue_refused {s : State} {q w code : Nat}
    (h : s.admission (s.queue q).part (s.diesOf (s.queue q).part).length w = .refused code) :
    s.admitQueue q w = .next (((s.updQueue q fun x => { x with launch := none }).refuse (s.queue q).part 0 code true
      (headerOf w)).consume q) := by
  unfold State.admitQueue
  dsimp only
  rw [h]

theorem exec_launchAdmission_device {s : State} {die : Nat} {e : List Byte × Nat} {rest : List (List Byte × Nat)}
    (hp : (s.dies.getD die {}).part = e :: rest) (hl : s.lost die = false) (hs : s.saving (s.partOfDie die) = false)
    (hr : s.readyAfter (s.dies.getD die {}).reading = true) :
    exec (.launchAdmission (.device die)) s = s.admitDevice die e rest := by
  show execLaunchAdmission (.device die) s = _
  simp only [execLaunchAdmission, hp, hl, hs, hr, Bool.not_true, Bool.false_eq_true, or_self, if_false]

theorem State.admitDevice_passes {s : State} {die : Nat} {e : List Byte × Nat} {rest : List (List Byte × Nat)}
    {args : List Byte} (h : s.admission (s.partOfDie die) 1 (ofBytes e.1) = .admitted args) :
    s.admitDevice die e rest = .next (State.updDie { s with
      nextId := s.nextId + 1
      launches := s.launches.put s.nextId
        (s.launchFor (s.partOfDie die) e.2 none (some die) (headerOf (ofBytes e.1)) args) }
        die fun d => { d with part := rest, reading := some s.nextId }).mark := by
  unfold State.admitDevice
  dsimp only
  rw [h]

theorem exec_waitEntryPass {s : State} {q bar phase : Nat} {bs : List Byte}
    (ha : (s.queue q).atWait = some (bar, phase)) (hm : (s.queue q).state = .mapped)
    (hs : s.saving (s.queue q).part = false) (hr : s.hearthRead (s.queue q).part bar 64 = .bytes bs)
    (hc : (Bar.ofWord (ofBytes bs)).completed phase = true) :
    exec (.waitEntryPass q) s = .next (s.consume q) := by
  show execWaitEntryPass q s = _
  simp only [execWaitEntryPass, ha, hm, hs, hr, hc, Bool.false_eq_true, ne_eq, not_true_eq_false, or_self, if_false,
    if_true]

/-! ### Copy commands (R75) -/

theorem State.sameBooks_copyDone (s : State) (part done wrote : Nat) (err : Bool) :
    s.SameBooks (s.copyDone part done wrote err) := by
  unfold State.copyDone
  split
  · exact .refl s
  · exact (s.onlySent_objAdd _ _ _ _).sameBooks

theorem State.copyDone_eq (s : State) (part done wrote : Nat) (err : Bool) :
    (done = 0 → s.copyDone part done wrote err = s) ∧
    (done ≠ 0 → done % 64 = 0 →
      s.copyDone part done wrote err = (s.objAdd part done { b := wrote, e := err }).getD s) :=
  ⟨fun h => if_pos (.inl h), fun h h' => if_neg (by omega)⟩

/-- The command that an entry holds (R75). -/
def copyOf (q part w : Nat) : CopyCmd :=
  { queue := q, part := part, src := fld w 0 64, dst := fld w 64 64, len := fld w 128 64, done := fld w 192 64 }

theorem exec_copyCommand {s : State} {q w : Nat} {bs : List Byte} (hr : s.reads q 1 bs) (hw : w = ofBytes bs)
    (hf : tb w 256 = false ∨ ∀ c ∈ s.copycmds, c.2.queue ≠ q) :
    (1 ≤ fld w 128 64 → fld w 128 64 ≤ 2 ^ 40 → exec (.copyCommand q) s = .next (State.consume { s with
      nextId := s.nextId + 1, copycmds := s.copycmds.put s.nextId (copyOf q (s.queue q).part w) } q)) ∧
    (fld w 128 64 = 0 ∨ 2 ^ 40 < fld w 128 64 → exec (.copyCommand q) s = .next
      (((s.post { code := 7, part := (s.queue q).part }).copyDone (s.queue q).part (fld w 192 64) 0 true).consume
        q)) := by
  subst hw
  obtain ⟨hcan, hentry⟩ := hr
  have hfree : (tb (ofBytes bs) 256 && s.copycmds.any fun c => c.2.queue == q) = false := by
    rcases hf with hf | hf
    · rw [hf, Bool.false_and]
    · rw [List.any_eq_false.mpr fun c hc => by simpa using hf c hc, Bool.and_false]
  have hx : exec (.copyCommand q) s = execCopyCommand q s := rfl
  rw [hx, execCopyCommand]
  simp only [hcan, hentry, hfree, Bool.not_true, Bool.false_eq_true, if_false]
  refine ⟨fun h1 h2 => ?_, fun h => if_pos h⟩
  rw [if_neg (by omega)]
  rfl

/-- Chunks that are done are passed over. -/
theorem State.cmdChunks_done {s : State} {c : CopyCmd} {k n : Nat} (h : ∀ j, k ≤ j → j < k + n → j ∈ c.did) :
    s.cmdChunks c k n = (c, none) := by
  induction n generalizing k with
  | zero => rfl
  | succ n ih =>
    rw [State.cmdChunks, if_pos (by simpa using h k le_rfl (by omega))]
    exact ih fun j hj hj' => h j (by omega) (by omega)

/-- The first chunk that is left ends the command where it faults. -/
theorem State.cmdChunks_fault {s : State} {c : CopyCmd} {k n i : Nat} {e : Flt} (hk : k ≤ i) (hi : i < k + n)
    (h : ∀ j, k ≤ j → j < i → j ∈ c.did) (hn : i ∉ c.did) (he : s.cmdChunk c i = .error e) :
    s.cmdChunks c k n = (c, some e) := by
  induction n generalizing k with
  | zero => omega
  | succ n ih =>
    rw [State.cmdChunks]
    by_cases hki : k = i
    · subst hki
      rw [if_neg (by simpa using hn), he]
    · rw [if_pos (by simpa using h k le_rfl (by omega))]
      exact ih (by omega) (by omega) fun j hj hj' => h j (by omega) hj'

section
variable {s : State} {id : Nat} {c : CopyCmd} (hc : s.copycmds.get? id = some c) (ho : c.out = [])
  (ha : ∀ a ∈ s.aways, a.2.owner ≠ .command id)
include ha

/-- With nothing outstanding the end of a command drops no access. -/
theorem State.dropAways_none : ({ s with copycmds := s.copycmds.del id } : State).dropAways (.command id) =
    { s with copycmds := s.copycmds.del id } := by
  have hf : s.aways.filter (fun a => a.2.owner != .command id) = s.aways :=
    List.filter_eq_self.mpr fun a h => by simpa using ha a h
  simp only [State.dropAways, hf]

theorem State.endCmd_done : s.endCmd id { c with out := [] } none =
    ({ s with copycmds := s.copycmds.del id } : State).copyDone c.part c.done c.wrote false := by
  simp only [State.endCmd, State.dropAways_none ha]
  rfl

theorem State.endCmd_fault (va : Nat) : s.endCmd id { c with out := [] } (some va) =
    (({ s with copycmds := s.copycmds.del id } : State).post { code := 7, part := c.part, addr := va }).copyDone
      c.part c.done c.wrote true := by
  simp only [State.endCmd, State.dropAways_none ha]
  rfl

include hc ho

/-- A command whose chunks have ended, without a fault or with one, ends (R75). -/
theorem exec_copyCommandComplete {fault : Option Flt}
    (hr : s.cmdChunks c 0 (spanChunks c.dst c.len) = (c, fault)) :
    (fault = none → exec (.copyCommandComplete id) s = .next (s.endCmd id { c with out := [] } none)) ∧
    (∀ sub va pte, fault = some (.fault sub va pte) →
      exec (.copyCommandComplete id) s = .next (s.endCmd id { c with out := [] } (some va))) := by
  have hflush : s.canFlush porchEngine (.command id) [] = true := by
    have : s.aways.any (fun a => a.2.owner == .command id) = false :=
      List.any_eq_false.mpr fun a h => by simpa using ha a h
    simp [State.canFlush, State.waitsAway, this]
  have hx : exec (.copyCommandComplete id) s = execCopyCommandComplete id s := rfl
  rw [hx, execCopyCommandComplete]
  simp only [hc, hr, ho, hflush]
  exact ⟨fun h => by subst h; rfl, fun sub va pte h => by subst h; rfl⟩

end

/-! ### Cellar tasks (R359, R360, R362) -/

/-- A task stands in every unit's queue in which it stood. -/
def KeepsTask (id : Nat) (m m' : Tab (List Nat)) : Prop := ∀ u, id ∈ m.getD u [] → id ∈ m'.getD u []

/-- A task that is handed out stands in the queue of each of its units. -/
theorem State.handTask_mem (s : State) (id : Nat) {k : Task} {u : Nat} (hu : u ∈ k.units) :
    id ∈ (s.handTask id k).cunits.getD u [] := by
  have hstep (m : Tab (List Nat)) (v : Nat) : KeepsTask id m (m.put v (m.getD v [] ++ [id])) := fun u h => by
    by_cases hvu : v = u
    · subst hvu
      rw [Tab.getD_put_same]
      exact List.mem_append_left _ h
    · rw [Tab.getD_put_other _ _ _ hvu]
      exact h
  obtain ⟨m, -, hm⟩ := foldl_through (R := KeepsTask id) (fun _ _ h => h) (fun h1 h2 u h => h2 u (h1 u h)) hstep
    s.cunits hu
  refine hm u ?_
  rw [Tab.getD_put_same]
  exact List.mem_append_right _ List.mem_cons_self

theorem State.taskRoom_iff (s : State) (k : Task) :
    s.taskRoom k = true ↔ ∀ u ∈ k.units, (s.cunits.getD u []).length < 8 := by
  simp [State.taskRoom]

theorem exec_cellarTaskRead_queue {s : State} {q : Nat} {bs : List Byte} {k : Task} (hr : s.reads q 2 bs)
    (hk : k = taskOfRecord (s.queue q).part (ofBytes bs) none) :
    (s.recordValid (s.queue q).part (ofBytes bs) = true → (∀ u ∈ k.units, (s.cunits.getD u []).length < 8) →
      exec (.cellarTaskRead (.queue q)) s = .next ((State.handTask { s with
        nextId := s.nextId + 1, tasks := s.tasks.put s.nextId k } s.nextId k).consume q)) ∧
    (s.recordValid (s.queue q).part (ofBytes bs) = false → exec (.cellarTaskRead (.queue q)) s =
      .next ((s.post { code := 9, part := (s.queue q).part }).consume q)) := by
  subst hk
  obtain ⟨hcan, hentry⟩ := hr
  have hx : exec (.cellarTaskRead (.queue q)) s = execCellarTaskRead (.queue q) s := rfl
  rw [hx, execCellarTaskRead]
  simp only [hcan, hentry, Bool.not_true, Bool.false_eq_true, if_false]
  refine ⟨fun hv hroom => ?_, fun hv => ?_⟩
  · simp only [hv, (s.taskRoom_iff _).mpr hroom, Bool.not_true, Bool.false_eq_true, if_false]
  · simp only [hv, Bool.not_false, if_true]

theorem exec_cellarTaskRead_cqsub {s : State} {die id : Nat} {rest : List Nat} {k : Task}
    (hq : (s.dies.getD die {}).cq = id :: rest) (hk : s.tasks.get? id = some k)
    (hroom : ∀ u ∈ k.units, (s.cunits.getD u []).length < 8) (hl : s.lost die = false) :
    exec (.cellarTaskRead (.cqsub die)) s =
      .next ((s.updDie die fun d => { d with cq := rest }).handTask id k) := by
  have hd : s.tasks.getD id .absent = k := by rw [Tab.getD, hk, Option.getD_some]
  show execCellarTaskRead (.cqsub die) s = _
  simp only [execCellarTaskRead, hq, hd, (s.taskRoom_iff _).mpr hroom, hl, Bool.not_true, Bool.false_eq_true, or_self,
    if_false]

/-! ### Clause by clause -/

/-- Settles O54: each event of a queue by its equation, and what passing an entry leaves of the queue and the work. -/
theorem queues : Obligations.Queues := by
  unfold Obligations.Queues
  refine ⟨?some, ?grant, ?age, ?quantum, fun s q bar phase bs => State.atUnpassed_some, ?enable, State.queueOk_iff,
    ?disable, ?widx, fun s part va n a base big w x mig entry => State.hearthRead_here, ?launch, ?device, ?wait, ?pass,
    ?copy, ?copied, ?task, ?cqsub⟩
  case some =>
    rintro s set ⟨e, he⟩
    obtain ⟨q, x, hg, -⟩ := State.grantee_mem (List.ne_nil_of_mem (State.mem_waiters.mpr he))
    rw [hg, Option.isSome_some]
  case grant =>
    intro s slot q top hslot hfree hg
    have hne : s.waiters (if slot < 56 then 0 else 1) ≠ [] := fun h => by
      rw [State.grantee_none h] at hg
      cases hg
    obtain ⟨q', x, hg', hmem, hall⟩ := State.grantee_mem hne
    obtain ⟨rfl, rfl⟩ := Prod.mk.inj (Option.some.inj (hg.symm.trans hg'))
    obtain ⟨hin, hw, -, -⟩ := State.mem_waiters.mp hmem
    exact ⟨exec_queueSlotGrant hslot hfree hg, ⟨x, hin, hw, rfl⟩,
      fun e he hw hset hs => hall e (State.mem_waiters.mpr ⟨he, hw, hset, hs⟩)⟩
  case age =>
    intro s q h
    have hst := (Queue.waits_iff _).mp h
    obtain ⟨hq, hm⟩ := State.waitYields_keeps (q := q)
      (s := s.updQueue q fun x => { x with eff := min (x.eff + 1) (topLevel x.set) }) (by simp [hst])
    refine ⟨_, exec_ageIntervalExpiry h, ?_, ?_, hm⟩
    · rw [hq, State.queue_updQueue_same, topLevel_eq]
    · rw [hq, State.queue_updQueue_same]
      exact hst.2
  case quantum =>
    intro s q hm hs
    rw [exec_quantumExpiry hm hs]
    refine ⟨fun ha => ?_, ?_, ?_⟩
    · rw [State.waitYield_passed (State.atUnpassed_none (by rw [State.queue_spend]; exact ha))]
      rfl
    · intro s1 h1 hp
      obtain rfl : s1 = s.spend q := h1
      rw [State.waitYield_passed hp]
    · intro s1 h1 hp
      obtain rfl : s1 = s.spend q := h1
      rw [State.waitYield_unpassed hp, State.yieldTest_spent hm]
      refine ⟨_, rfl, ?_, ?_, fun he => ?_, fun hno => ?_⟩
      · split <;> rfl
      · split <;> simp
      · rw [if_pos ((s.pressed_iff q).mpr he)]
        exact ⟨by rw [State.queue_unmap_same], State.slots_unmap _ q _⟩
      · rw [if_neg]
        · exact ⟨by rw [State.queue_spend]; exact hm, rfl⟩
        · rw [State.pressed_iff]
          rintro ⟨e, he, hw, hset, hle⟩
          exact absurd (hno e he hw hset) (by omega)
  case enable =>
    intro s q pa d x hq he hpa hp hf hl hd hx
    rw [exec_queueEnable hq he hpa hl]
    have hread (hr : s.tableReadable pa = true) : queueOf (ofBytes (s.physBytes pa 64)) = x := by
      rw [State.physBytes_here hp hf hl hr, hx, ← Store.getNat, ← hd, queueOf]
    refine ⟨fun hr hok => ?_, fun hr hok => ?_, fun hr => ⟨(queueOf (ofBytes (s.physBytes pa 64))).part, ?_⟩⟩
    · rw [hread hr, hr, hok]
      exact congrArg _ (if_pos rfl)
    · rw [hread hr, hr, hok]
      exact congrArg _ (if_neg Bool.false_ne_true)
    · rw [hr, Bool.false_and]
      exact congrArg _ (if_neg Bool.false_ne_true)
  case disable =>
    intro s q h
    refine ⟨_, exec_queueDisable h, ?_, ?_, s.slots_unmap q .off, rfl, rfl, rfl, rfl, fun p hp => ?_⟩
    · rw [State.queue_updQueue_same]
    · rw [State.queue_updQueue_same, State.queue_unmap_same]
    · rw [State.queue_updQueue_other _ _ hp.symm, State.queue_unmap_other _ _ hp.symm]
  case widx =>
    intro s q v x hq hx
    have hput : State.queue { s with queues := s.queues.put q x } q = x := Tab.getD_put_same ..
    have hwait := State.queue_unmap_same { s with queues := s.queues.put q x } q .waiting
    rw [hput] at hwait
    refine ⟨exec_qwidxWrite_off hq hx, fun he hi hw hfit => ?_, fun he hb hover => ?_, fun he hi hover => ?_⟩
    · have hno : ¬ x.overrun = true := fun h => absurd ((Queue.overrun_iff x).mp h) (by omega)
      have htest := (State.overrunTest_eq (.inl (by rw [hwait]))).trans (if_neg (by rw [hwait]; exact hno))
      obtain ⟨hkeep, hmem⟩ := State.waitYields_keeps (q := q) (by rw [hwait]; exact QState.noConfusion)
      rw [exec_qwidxWrite_idle hq hx he hi hw, htest]
      exact ⟨_, rfl, by rw [hkeep, hwait], by rw [hkeep, hwait], hmem⟩
    · rw [exec_qwidxWrite_busy hq hx he hb, State.overrunTest_eq (by rw [hput]; exact hb.imp id And.left),
        if_pos (by rw [hput]; exact (Queue.overrun_iff x).mpr hover), hput]
      refine ⟨_, rfl, ?_, ?_, State.slots_unmap _ q _, rfl⟩
      · rw [State.queue_unmap_same]
      · rw [State.queue_unmap_same, hput]
        exact he
    · have hw : x.widx ≠ x.ridx := fun h => by
        rw [h, Nat.add_sub_cancel_left, Nat.mod_self] at hover
        exact Nat.not_lt_zero _ hover
      have htest := (State.overrunTest_eq (.inl (by rw [hwait]))).trans
        (if_pos (by rw [hwait]; exact (Queue.overrun_iff x).mpr hover))
      rw [hwait] at htest
      have hfault := State.state_unmap_post (State.unmap { s with queues := s.queues.put q x } q .waiting) q .faulted
      rw [exec_qwidxWrite_idle hq hx he hi hw, htest]
      refine ⟨_, rfl, ?_⟩
      rw [(State.waitYields_keeps fun h => QState.noConfusion ((hfault _).symm.trans h)).1, hfault]
  case launch =>
    rintro s q w bs args x h hx he hs ht hw ha hv hready hread rfl hne rfl
    have hr : s.reads q 0 bs := State.reads_of hx he hs ht hw ha hv hread
    subst hx
    rw [exec_launchAdmission_queue hr hready hne]
    refine ⟨fun hwf harg hu hg => ?_, ?_⟩
    · rw [State.admitQueue_passes (State.admission_passes rfl hwf harg hu hg)]
      refine ⟨_, s.launchFor (s.queue q).part (s.queue q).prio (some q) none (headerOf (ofBytes bs)) args, rfl, ?_, rfl,
        rfl, rfl, rfl, rfl, rfl, rfl, rfl, ?_, ?_, ?_⟩
      · rw [State.mark_launches, (State.keepsEntries_consume _ q).launches]
        exact Tab.get?_put_same ..
      · rw [State.queue_congr (State.mark_queues _), State.consume_ridx, State.queue_updQueue_same]
        rfl
      · rw [State.queue_congr (State.mark_queues _), State.consume_launch, State.queue_updQueue_same]
      · rw [State.mark_wgs, (State.keepsEntries_consume _ q).wgs]
        rfl
    · rintro code _ rfl hc
      rw [State.admitQueue_refused (State.admission_refused rfl hc)]
      have hbooks := State.sameBooks_refuse (s.updQueue q fun x => { x with launch := none }) (s.queue q).part 0 code
        true (headerOf (ofBytes bs))
      refine ⟨_, rfl, ?_, ?_, ?_, ?_⟩
      · rintro _ rfl
        rfl
      · exact (State.keepsEntries_consume _ q).launches.trans hbooks.launches
      · rw [State.consume_ridx, State.queue_congr hbooks.queues, State.queue_updQueue_same]
      · rw [State.consume_launch, State.queue_congr hbooks.queues, State.queue_updQueue_same]
  case device =>
    rintro s die e rest args h hp hl hs hr rfl hwf harg hu hg
    rw [exec_launchAdmission_device hp hl hs hr, State.admitDevice_passes (State.admission_passes rfl hwf harg hu hg)]
    refine ⟨_, s.launchFor (s.partOfDie die) e.2 none (some die) (headerOf (ofBytes e.1)) args, rfl, ?_, rfl, rfl, rfl,
      rfl, rfl, ?_⟩
    · rw [State.mark_launches]
      exact Tab.get?_put_same ..
    · rw [State.mark_dies]
      exact congrArg Die.part (Tab.getD_put_same ..)
  case wait =>
    intro s q bs x bar hx he hs ht hw ha hv hready hread htyp hbar
    have hr : s.reads q 0 bs := State.reads_of hx he hs ht hw ha hv hread
    subst hx
    obtain ⟨htakes, hfails⟩ := exec_waitEntry hr hready htyp hbar
    refine ⟨fun hal hok => ⟨_, htakes hal hok, ?_, ?_⟩, fun hbad => ⟨_, hfails hbad, rfl, ?_⟩⟩
    · rw [(State.keepsEntries_waitYield _ q).ridx, State.queue_updQueue_same]
    · intro s1 h1
      obtain rfl : s1 = s.updQueue q fun x => { x with atWait := some (bar, fld (ofBytes bs) 128 32) } := h1
      refine ⟨fun h => ?_, State.waitYield_unpassed⟩
      rcases h with hspent | hpassed
      · exact State.waitYield_unspent (by rw [State.queue_updQueue_same]; exact hspent)
      · exact State.waitYield_passed hpassed
    · rw [State.waitFails, State.consume_ridx, State.queue_congr (State.sameBooks_post _ _).queues]
  case pass =>
    intro s q bar phase bs ha hm hs hr hc
    refine ⟨_, exec_waitEntryPass ha hm hs hr hc, s.consume_ridx q, s.consume_atWait q, fun hover => ?_⟩
    exact s.consume_overrun q hm ((Queue.overrun_iff _).mpr hover)
  case copy =>
    intro s q w bs x hx he hs ht hw ha hv hread hwd hf
    have hr : s.reads q 1 bs := State.reads_of hx he hs ht hw ha hv hread
    subst hx
    obtain ⟨htakes, hrefuses⟩ := exec_copyCommand hr hwd hf
    refine ⟨fun h1 h2 => ⟨_, htakes h1 h2, ?_, State.consume_ridx _ q⟩, fun h => ⟨_, hrefuses h, ?_, ?_, ?_⟩⟩
    · rw [(State.keepsEntries_consume _ q).copycmds]
      exact Tab.get?_put_same ..
    · rfl
    · exact (State.keepsEntries_consume _ q).copycmds.trans
        ((s.sameBooks_post _).trans (State.sameBooks_copyDone _ _ _ _ _)).copycmds
    · rw [State.consume_ridx, State.queue_congr
        ((s.sameBooks_post _).trans (State.sameBooks_copyDone _ _ _ _ _)).queues]
  case copied =>
    intro s id c hc ho ha
    refine ⟨fun hall s1 h1 => ?_, fun k sub va pte hk hdone hleft herr s1 h1 => ?_⟩
    · have hchunks : s.cmdChunks c 0 (spanChunks c.dst c.len) = (c, none) :=
        State.cmdChunks_done fun j _ hj => hall j (by omega)
      rw [(exec_copyCommandComplete hc ho ha hchunks).1 rfl, State.endCmd_done ha, ← h1]
      obtain ⟨hzero, hadds⟩ := s1.copyDone_eq c.part c.done c.wrote false
      exact ⟨fun h => congrArg _ (hzero h), fun h h' => congrArg _ (hadds h h')⟩
    · have hchunks : s.cmdChunks c 0 (spanChunks c.dst c.len) = (c, some (.fault sub va pte)) :=
        State.cmdChunks_fault (Nat.zero_le k) (by omega) (fun j _ hj => hdone j hj) hleft herr
      rw [(exec_copyCommandComplete hc ho ha hchunks).2 sub va pte rfl, State.endCmd_fault ha, ← h1]
      obtain ⟨hzero, hadds⟩ := s1.copyDone_eq c.part c.done c.wrote true
      exact ⟨fun h => congrArg _ (hzero h), fun h h' => congrArg _ (hadds h h')⟩
  case task =>
    intro s q bs x k hx he hs ht hw ha hv hread hk
    have hr : s.reads q 2 bs := State.reads_of hx he hs ht hw ha hv hread
    subst hx
    obtain ⟨htakes, hrefuses⟩ := exec_cellarTaskRead_queue hr hk
    refine ⟨fun hvalid hroom => ⟨_, htakes hvalid hroom, ?_, State.consume_ridx _ q, fun u hu => ?_⟩,
      fun hbad => ⟨_, hrefuses hbad, rfl, ?_, ?_, ?_⟩⟩
    · rw [(State.keepsEntries_consume _ q).tasks]
      exact Tab.get?_put_same ..
    · rw [(State.keepsEntries_consume _ q).cunits]
      exact State.handTask_mem _ _ hu
    · exact (State.keepsEntries_consume _ q).tasks.trans (s.sameBooks_post _).tasks
    · exact (State.keepsEntries_consume _ q).cunits.trans (s.sameBooks_post _).cunits
    · rw [State.consume_ridx, State.queue_congr (s.sameBooks_post _).queues]
  case cqsub =>
    intro s die id rest k hq hk hroom hl
    refine ⟨_, exec_cellarTaskRead_cqsub hq hk hroom hl, ?_, rfl, fun u hu => State.handTask_mem _ id hu⟩
    exact congrArg Die.cq (Tab.getD_put_same ..)

end Sys2Proof.Machine
end

section
/-!
PROOFS. The destination of a lane-wise result: what a write to V, G and S registers leaves there (O17).
-/

namespace Sys2Proof.Machine

/-! ### Lanes that are written -/

theorem setLanes_get_of_mem {w : Nat} (m : Store w) (base : Nat) (f : Nat → BitVec w) {ls : List Nat} {i : Nat}
    (h : i ∈ ls) : (setLanes m base f ls).get (base + i) = f i := by
  induction ls generalizing m with
  | nil => cases h
  | cons j ls ih =>
    by_cases hi : i ∈ ls
    · exact ih (m.set (base + j) (f j)) hi
    · obtain rfl : i = j := (List.mem_cons.mp h).resolve_right hi
      have hlast := setLanes_get_other (m.set (base + i) (f i)) f (ls := ls) (base := base) (k := base + i)
        fun k hk he => hi (Nat.add_left_cancel he ▸ hk)
      exact hlast.trans (Store.get_set_same ..)

theorem Tab.get?_takeOver_of_mem (m : Tab Nat) {r n k : Nat} (h : r ≤ k ∧ k < r + n) :
    Tab.get? (takeOver m r n) k = none := by
  induction m with
  | nil => rfl
  | cons e m ih =>
    rw [takeOver, List.filter_cons]
    split
    · next hout =>
      have hout : ¬(r ≤ e.1 ∧ e.1 < r + n) := by simpa only [Bool.not_eq_true', decide_eq_false_iff_not] using hout
      have hne : e.1 ≠ k := fun he => hout (he ▸ h)
      simp only [Tab.get?, if_neg hne]
      exact ih
    · exact ih

/-- A write to V registers puts each lane's words into the registers that the value spans. -/
theorem Regs.putV_get_of_mem (r : Regs) (d : Nat) {i j n : Nat} {ls : List Nat} (f : Nat → Nat)
    (hls : ∀ j ∈ ls, j < 64) (hi : i ∈ ls) (hj : j < n) :
    (r.putV d ls f n).v.get (64 * (d + j) + i) = word32 (f i) j := by
  induction n with
  | zero => cases hj
  | succ n ih =>
    rw [Regs.putV]
    by_cases hjn : j = n
    · subst hjn
      exact setLanes_get_of_mem _ _ (fun i => word32 (f i) j) hi
    · refine (setLanes_get_other _ _ fun k hk => ?_).trans (ih (by omega))
      have := hls k hk
      have := hls i hi
      omega

theorem Regs.writeV_get_of_mem (r : Regs) (d : Nat) {i j n : Nat} {ls : List Nat} (f : Nat → Nat)
    (hls : ∀ j ∈ ls, j < 64) (hi : i ∈ ls) (hj : j < n) :
    (r.writeV d n ls f).v.get (64 * (d + j) + i) = word32 (f i) j := by
  rw [Regs.writeV, if_neg (by simpa using List.ne_nil_of_mem hi)]
  exact r.putV_get_of_mem d f hls hi hj

/-- A lane-wise write takes its registers over, unless there is no lane to write (R136, R141). -/
theorem Regs.writeV_ve_get (r : Regs) (d n k : Nat) (ls : List Nat) (f : Nat → Nat) :
    (r.writeV d n ls f).ve.get? k = if ls ≠ [] ∧ d ≤ k ∧ k < d + n then none else r.ve.get? k := by
  by_cases hk : d ≤ k ∧ k < d + n
  · cases ls with
    | nil => rfl
    | cons i ls => rw [if_pos ⟨List.cons_ne_nil i ls, hk⟩]; exact Tab.get?_takeOver_of_mem _ hk
  · rw [if_neg fun h => hk h.2, r.writeV_ve_other ls f (by omega)]

/-! ### The three kinds of destination -/

section
variable {t : Thread} {d : Nat} (n : Nat) (sg : Bool) (bits : Nat) (v : Nat → Nat)

theorem Thread.put_toV (hs : t.side ≠ .mcc) (hd : d < 128) : t.put d n sg bits v =
    { t with regs := t.regs.writeV d n t.active fun i => extend sg bits (32 * n) (v i) } := by
  rw [Thread.put, if_neg hs, if_pos hd]

theorem Thread.put_toG {i : Nat} {rest : List Nat} (hs : t.side ≠ .mcc) (hd : 128 ≤ d) (ha : t.active = i :: rest) :
    t.put d n sg bits v = { t with regs := t.regs.writeG (d - 128) (BitVec.ofNat 64 (extend sg bits 64 (v i))) } := by
  rw [Thread.put, if_neg hs, if_neg (Nat.not_lt.mpr hd), ha]

theorem Thread.put_toS (hs : t.side = .mcc) : t.put d n sg bits v =
    { t with regs := t.regs.writeS d (BitVec.ofNat 64 (extend sg bits 64 (v 0))) } := by
  rw [Thread.put, if_pos hs]

end

/-- One G register is taken over by taking out its own entry. -/
theorem takeOver_one (m : Tab Nat) (r : Nat) : takeOver m r 1 = m.filter fun e => e.1 ≠ r :=
  List.filter_congr fun e _ => by
    rw [← decide_not]
    exact decide_eq_decide.mpr (by omega)

/-- Settles O17: what a lane-wise write leaves in each kind of destination, and the frame of all of them. -/
theorem resultsGoToTheDestination : Obligations.ResultsGoToTheDestination := by
  unfold Obligations.ResultsGoToTheDestination
  intro t d n bits sg v _
  obtain ⟨hthread, hregs, -⟩ := t.sameBut_put d n sg bits v
  obtain ⟨hcc, hfpm⟩ := t.put_cc_fpm d n sg bits v
  refine ⟨?toV, fun _ _ ha => t.put_of_no_lane ha d n sg bits v, ?toG, ?toS, hthread, (congrArg Regs.m hregs :),
    (congrArg Regs.em hregs :), hcc, (congrArg Regs.fmt hregs :), hfpm, (congrArg Regs.pth hregs :),
    (congrArg Regs.stkEm hregs :), (congrArg Regs.stkFmt hregs :), (congrArg Regs.depth hregs :),
    (congrArg Regs.stkp hregs :), (congrArg Regs.extb hregs :)⟩
  case toV =>
    intro hs hd
    have hls (i : Nat) (hi : i ∈ t.active) : i < 64 := Thread.active_lt hs hi
    rw [Thread.put_toV n sg bits v hs hd]
    exact ⟨fun i j hi hj => t.regs.writeV_get_of_mem d _ hls hi hj,
      fun i k hi h => t.regs.writeV_get_other _ hls hi h, fun k => t.regs.writeV_ve_get d n k _ _, Regs.writeV_g ..,
      Regs.writeV_ge .., Regs.writeV_s ..⟩
  case toG =>
    intro i rest hs hd ha
    rw [Thread.put_toG n sg bits v hs hd ha, ← takeOver_one]
    rfl
  case toS =>
    intro hs
    rw [Thread.put_toS n sg bits v hs]
    rfl

end Sys2Proof.Machine
end

section
/-!
PROOFS. The mask stack (O23).
-/

namespace Sys2Proof.Machine

section
variable {s : State} {t : Thread} (f : Std) (h : s.At t)
include h

/-- MIF with an entry free (R138). -/
theorem exec_mif (hd : t.regs.depth ≠ t.stackLimit) : exec (.mif f) s = .next (s.after t
    (({ t with regs := { t.regs with
      stkEm := t.regs.stkEm.set t.regs.depth t.regs.em
      stkFmt := t.regs.stkFmt.set t.regs.depth t.regs.fmt
      depth := t.regs.depth + 1
      em := t.regs.em &&& t.mask f.a.reg.toNat } } : Thread).advance)) :=
  run_done h (if_neg hd) rfl rfl

/-- MIF at a full stack (R138, R404). -/
theorem exec_mif_full (hb : t.busy = false) (hd : t.regs.depth = t.stackLimit) :
    exec (.mif f) s = .next (s.trapped t { cls := 3, info := t.regs.depth }) :=
  run_trap h hb (if_pos hd)

/-- MELSE with an entry on the stack (R138). -/
theorem exec_melse (hd : t.regs.depth ≠ 0) : exec (.melse f) s = .next (s.after t
    (({ t with regs := { t.regs with
      em := t.regs.stkEm.get (t.regs.depth - 1) &&& ~~~t.regs.em
      fmt := t.regs.stkFmt.get (t.regs.depth - 1) } } : Thread).advance)) :=
  run_done h (if_neg hd) rfl rfl

/-- MEND with an entry on the stack (R138). -/
theorem exec_mend (hd : t.regs.depth ≠ 0) : exec (.mend f) s = .next (s.after t
    (({ t with regs := { t.regs with
      em := t.regs.stkEm.get (t.regs.depth - 1)
      fmt := t.regs.stkFmt.get (t.regs.depth - 1)
      depth := t.regs.depth - 1 } } : Thread).advance)) :=
  run_done h (if_neg hd) rfl rfl

/-- MELSE and MEND at an empty stack (R138, R404). -/
theorem exec_melse_mend_empty (hb : t.busy = false) (hd : t.regs.depth = 0) :
    exec (.melse f) s = .next (s.trapped t { cls := 3, info := 0 }) ∧
    exec (.mend f) s = .next (s.trapped t { cls := 3, info := 0 }) := by
  have hx : maskTrap t = .trap { cls := 3, info := 0 } := by rw [maskTrap, hd]
  exact ⟨run_trap h hb ((if_pos hd).trans (congrArg _ hx)), run_trap h hb ((if_pos hd).trans (congrArg _ hx))⟩

end

/-- Settles O23: each instruction with its stack as it must be, and at a full or an empty one. -/
theorem maskStack : Obligations.MaskStack := by
  unfold Obligations.MaskStack
  rintro s t f limit h rfl
  exact ⟨exec_mif f h, exec_melse f h, exec_mend f h, exec_mif_full f h, exec_melse_mend_empty f h⟩

end Sys2Proof.Machine
end

section
/-!
PROOFS. Stores at checked places of this package: lanes in order, and what they leave of memory (O33).
-/

namespace Sys2Proof.Machine

/-! ### Bytes of a memory -/

/-- Memories that agree on a range hold the same bytes there. -/
theorem Store.bytes_congr {m m' : Memory} {a n : Nat} (h : ∀ k, a ≤ k → k < a + n → m.get k = m'.get k) :
    m.bytes a n = m'.bytes a n := by
  induction n generalizing a with
  | zero => rfl
  | succ n ih =>
    simp only [Store.bytes, h a (Nat.le_refl a) (by omega)]
    rw [ih fun k h1 h2 => h k (by omega) (by omega)]

theorem Store.bytes_putNat (m : Memory) (a n v : Nat) : (m.putNat a n v).bytes a n = toBytes v n := by
  have h := Store.bytes_putBytes m a (toBytes v n)
  rwa [toBytes_length] at h

/-! ### One store -/

/-- A byte of physical memory lies outside the `n` bytes at a place. -/
def Place.Misses (p : Place) (n a : Nat) : Prop := ∀ pa, p = .phys pa → a < pa ∨ pa + n ≤ a

/-- A store at a place of this package, with its timestamps (R228, R393). -/
def State.storeAt (s : State) (t : Thread) (p : Place) (bs : List Byte) : State × Thread :=
  (s.writePlace t p bs).1.stampStore (s.writePlace t p bs).2 p

/-- What a store changes of its thread: the memories that its lanes hold and the program timestamp. -/
def Thread.SameIssue (t t' : Thread) : Prop := ∃ slice stack frame hung pts,
  t' = { t with slice := slice, stack := stack, frame := frame, hung := hung, pts := pts }

theorem Thread.SameIssue.refl (t : Thread) : t.SameIssue t := ⟨_, _, _, _, _, rfl⟩

theorem Thread.SameIssue.trans {t t1 t2 : Thread} (h1 : t.SameIssue t1) (h2 : t1.SameIssue t2) : t.SameIssue t2 := by
  obtain ⟨_, _, _, _, _, rfl⟩ := h1
  obtain ⟨_, _, _, _, _, rfl⟩ := h2
  exact ⟨_, _, _, _, _, rfl⟩

theorem Thread.SameIssue.regs {t t' : Thread} (h : t.SameIssue t') : t'.regs = t.regs := by
  obtain ⟨_, _, _, _, _, rfl⟩ := h
  rfl

theorem Thread.SameIssue.pc {t t' : Thread} (h : t.SameIssue t') : t'.pc = t.pc := by
  obtain ⟨_, _, _, _, _, rfl⟩ := h
  rfl

/-- A store's timestamps change access counts, line timestamps and the program timestamp only (R223, R393). -/
theorem State.stampStore_eq (s : State) (t : Thread) (p : Place) : ∃ counts lts pts,
    s.stampStore t p = ({ s with counts := counts, lts := lts }, { t with pts := pts }) := by
  cases p <;> exact ⟨_, _, _, rfl⟩

theorem State.storeAt_sameIssue (s : State) (t : Thread) (p : Place) (bs : List Byte) :
    t.SameIssue (s.storeAt t p bs).2 := by
  obtain ⟨_, _, _, _, hw⟩ := s.writePlace_thread t p bs
  obtain ⟨_, _, _, hs⟩ := (s.writePlace t p bs).1.stampStore_eq (s.writePlace t p bs).2 p
  rw [State.storeAt, hs, hw]
  exact ⟨_, _, _, _, _, rfl⟩

theorem State.noteCode_mem_nextId (s : State) (t : Thread) (pa n : Nat) :
    (s.noteCode t pa n).mem = s.mem ∧ (s.noteCode t pa n).nextId = s.nextId := by
  unfold State.noteCode
  split <;> exact ⟨rfl, rfl⟩

theorem State.storeAt_mem (s : State) (t : Thread) (p : Place) (bs : List Byte) :
    (s.storeAt t p bs).1.mem = (s.writePlace t p bs).1.mem := by
  obtain ⟨_, _, _, hs⟩ := (s.writePlace t p bs).1.stampStore_eq (s.writePlace t p bs).2 p
  rw [State.storeAt, hs]

theorem State.storeAt_nextId (s : State) (t : Thread) (p : Place) (bs : List Byte) :
    (s.storeAt t p bs).1.nextId = s.nextId := by
  obtain ⟨_, _, _, hs⟩ := (s.writePlace t p bs).1.stampStore_eq (s.writePlace t p bs).2 p
  rw [State.storeAt, hs]
  cases p with
  | phys pa => exact (State.noteCode_mem_nextId _ t pa bs.length).2
  | _ => rfl

/-- A store to physical memory puts its bytes there. -/
theorem State.storeAt_phys_mem (s : State) (t : Thread) (pa : Nat) (bs : List Byte) :
    (s.storeAt t (.phys pa) bs).1.mem = s.mem.putBytes pa bs :=
  (s.storeAt_mem t _ bs).trans (State.noteCode_mem_nextId _ t pa bs.length).1

/-- A store leaves every byte of physical memory outside its place. -/
theorem State.storeAt_get {p : Place} {n a : Nat} (s : State) (t : Thread) {bs : List Byte} (hn : bs.length = n)
    (h : p.Misses n a) : (s.storeAt t p bs).1.mem.get a = s.mem.get a := by
  cases p with
  | phys pa => rw [s.storeAt_phys_mem, Store.get_putBytes_outside _ _ _ (hn ▸ h pa rfl)]
  | _ => rw [s.storeAt_mem]; rfl

/-! ### Stores one after another -/

/-- From a state and a thread, stores of `n` bytes at places, in order, lead to another state and thread. -/
inductive StoresTo (n : Nat) : State → Thread → List Place → State → Thread → Prop
  | nil (s : State) (t : Thread) : StoresTo n s t [] s t
  | cons {s s' : State} {t t' : Thread} {p : Place} {ps : List Place} (bs : List Byte) : bs.length = n →
      StoresTo n (s.storeAt t p bs).1 (s.storeAt t p bs).2 ps s' t' → StoresTo n s t (p :: ps) s' t'

section
variable {n : Nat} {s s' : State} {t t' : Thread} {ps : List Place} (h : StoresTo n s t ps s' t')
include h

theorem StoresTo.sameIssue : t.SameIssue t' := by
  induction h with
  | nil s t => exact .refl t
  | cons bs _ _ ih => exact (State.storeAt_sameIssue ..).trans ih

theorem StoresTo.nextId : s'.nextId = s.nextId := by
  induction h with
  | nil s t => rfl
  | cons bs _ _ ih => exact ih.trans (State.storeAt_nextId ..)

/-- Stores leave every byte of physical memory outside their places. -/
theorem StoresTo.get {a : Nat} (ha : ∀ p ∈ ps, p.Misses n a) : s'.mem.get a = s.mem.get a := by
  induction h with
  | nil s t => rfl
  | cons bs hn _ ih =>
    exact (ih fun p hp => ha p (List.mem_cons_of_mem _ hp)).trans (State.storeAt_get _ _ hn (ha _ List.mem_cons_self))

/-- Stores leave a range of physical memory that they do not touch. -/
theorem StoresTo.bytes {pa : Nat} (hp : ∀ p ∈ ps, ∀ pb, p = .phys pb → pb + n ≤ pa ∨ pa + n ≤ pb) :
    s'.mem.bytes pa n = s.mem.bytes pa n :=
  Store.bytes_congr fun k h1 h2 => h.get fun p hm pb he => by
    have := hp p hm pb he
    omega

end

/-! ### ST and STNT -/

theorem State.storePlaces_storesTo {n : Nat} (s : State) (t : Thread) {ws : List (Place × List Byte)}
    (h : ∀ w ∈ ws, w.2.length = n) :
    StoresTo n s t (ws.map (·.1)) (s.storePlaces t ws).1 (s.storePlaces t ws).2 := by
  induction ws generalizing s t with
  | nil => exact .nil s t
  | cons w ws ih => exact .cons w.2 (h w List.mem_cons_self) (ih _ _ fun x hx => h x (List.mem_cons_of_mem _ hx))

theorem State.storePlaces_append (s : State) (t : Thread) (l1 l2 : List (Place × List Byte)) :
    s.storePlaces t (l1 ++ l2) = (s.storePlaces t l1).1.storePlaces (s.storePlaces t l1).2 l2 := by
  induction l1 generalizing s t with
  | nil => rfl
  | cons w l1 ih => exact ih _ _

/-- A store whose bytes no later one touches stands. -/
theorem State.storePlaces_bytes (s : State) (t : Thread) {n pa : Nat} {bs : List Byte}
    {l1 l2 : List (Place × List Byte)} (hn : bs.length = n) (hl : ∀ w ∈ l2, w.2.length = n)
    (hp : ∀ w ∈ l2, ∀ pb, w.1 = .phys pb → pb + n ≤ pa ∨ pa + n ≤ pb) :
    (s.storePlaces t (l1 ++ (.phys pa, bs) :: l2)).1.mem.bytes pa n = bs := by
  rw [State.storePlaces_append, State.storePlaces]
  refine (State.storePlaces_storesTo _ _ hl).bytes (fun p hm => ?_) |>.trans ?_
  · obtain ⟨w, hw, rfl⟩ := List.mem_map.mp hm
    exact hp w hw
  · exact (congrArg (Store.bytes · pa n) (State.storeAt_phys_mem ..)).trans (hn ▸ Store.bytes_putBytes _ pa bs)

theorem State.finish_mem (s s1 : State) (t1 : Thread) : (s.finish s1 t1).mem = s1.mem := by
  simp [State.finish]

/-- What ST stores at each lane's place: the lane's value of the type (R228). -/
def Thread.laneStores (t : Thread) (f : Mem) (ps : List (Nat × Nat × Place)) : List (Place × List Byte) :=
  ps.map fun p =>
    (p.2.2, toBytes (t.opnd f.a (regsOf (tyBits f.xty f.ty)) (tyBits f.xty f.ty) p.1) (tyBits f.xty f.ty / 8))

theorem Thread.laneStores_length {t : Thread} {f : Mem} {ps : List (Nat × Nat × Place)} :
    ∀ w ∈ t.laneStores f ps, w.2.length = tyBits f.xty f.ty / 8 := by
  intro w hw
  obtain ⟨p, -, rfl⟩ := List.mem_map.mp hw
  exact toBytes_length ..

section
variable {s : State} {t : Thread} {f : Mem} {i : Instr} (hi : i ∈ [Instr.st f, .stnt f]) (h : s.At t)
  (hr : t.canRead f.a (regsOf (tyBits f.xty f.ty)) = .ok ⟨⟩) (ha : t.canAddr f = .ok ⟨⟩)
include hi

/-- ST and STNT have one meaning: a hint changes only what caches hold (R230). -/
theorem exec_st_eq : exec i s = storeLanes f s := by
  simp only [List.mem_cons, List.not_mem_nil, or_false] at hi
  obtain rfl | rfl := hi <;> rfl

include h hr ha

/-- With EM zero ST and STNT store nothing (R136). -/
theorem exec_st_none (hact : t.active = []) : exec i s = .next (s.after t t.advance) :=
  (exec_st_eq hi).trans (run_done h (by simp [hr, ha, hact, bind, Except.bind]) rfl rfl)

/-- ST and STNT of lanes in this package store at issue (R228; log 7). -/
theorem exec_st_here {ps : List (Nat × Nat × Place)} (hb : t.busy = false) (hact : t.active ≠ [])
    (hps : s.resolveAll t .store (tyBits f.xty f.ty / 8) false (t.active.map fun i => (i, t.memAddr f i)) = .ok ps)
    (hp : ∀ p ∈ ps, p.2.2.isRemote = false) (hw : s.anyWaits t (tyBits f.xty f.ty / 8) ps = false) :
    exec i s = .next (s.finish (s.storePlaces t (t.laneStores f ps)).1 (s.storePlaces t (t.laneStores f ps)).2) := by
  have hst := State.storeAll_here (s := s) (op := 0) (n := tyBits f.xty f.ty / 8) hb
    (ls := ps.map fun p => (p.1, p.2.1, p.2.2,
      toBytes (t.opnd f.a (regsOf (tyBits f.xty f.ty)) (tyBits f.xty f.ty) p.1) (tyBits f.xty f.ty / 8))) fun l hl => by
        obtain ⟨p, hm, rfl⟩ := List.mem_map.mp hl
        exact ⟨hp p hm, by simpa using List.any_eq_false.mp hw p hm⟩
  rw [List.map_map] at hst
  have hempty : t.active.isEmpty = false := by simpa using hact
  refine (exec_st_eq hi).trans (run_ok h (r := (_, _)) ?_)
  simp only [hr, ha, hempty, hps, hst, bind, Except.bind, Bool.false_eq_true, if_false]
  rfl

end

/-- Settles O33: the lanes' stores one after another, with the frame of each. -/
theorem storesWrite : Obligations.StoresWrite := by
  unfold Obligations.StoresWrite
  rintro s t f i w n ps hi h hb rfl rfl hr ha
  refine ⟨exec_st_none hi h hr ha, fun hact hps hp hw =>
    ⟨_, _, rfl, exec_st_here hi h hr ha hb hact hps hp hw, ?regs, ?frame, ?written⟩⟩
  case regs => exact (s.storePlaces_storesTo t t.laneStores_length).sameIssue.regs
  case frame =>
    intro a hmiss
    rw [State.finish_mem]
    refine (s.storePlaces_storesTo t t.laneStores_length).get fun p hm => ?_
    simp only [Thread.laneStores, List.map_map, List.mem_map] at hm
    obtain ⟨q, hq, rfl⟩ := hm
    exact hmiss q hq
  case written =>
    rintro l1 l2 p pa rfl hpa hmiss
    rw [State.finish_mem, List.map_append, List.map_cons, hpa]
    refine State.storePlaces_bytes s t (toBytes_length ..) (Thread.laneStores_length (ps := l2)) fun w hw => ?_
    obtain ⟨q, hq, rfl⟩ := List.mem_map.mp hw
    exact hmiss q hq

end Sys2Proof.Machine
end

section
/-!
PROOFS. Long-latency producers: the lanes and values they hold, how their destination shows empty, and what fills it;
then loads (O32).
-/

namespace Sys2Proof.Machine

/-! ### The lanes of checked places (R226) -/

theorem okPlaces_lanes_sublist (rs : List (Nat × Nat × Res)) :
    ((okPlaces rs).map (·.1)).Sublist (rs.map (·.1)) := by
  induction rs with
  | nil => exact .slnil
  | cons r rs ih =>
    obtain ⟨lane, va, r⟩ := r
    cases r with
    | ok p => exact ih.cons_cons lane
    | _ => exact ih.cons lane

/-- Checks that pass give a place to every lane. -/
theorem judge_lanes {group : Bool} {rs : List (Nat × Nat × Res)} {ps : List (Nat × Nat × Place)}
    (h : judge group rs = .ok ps) : ps.map (·.1) = rs.map (·.1) := by
  unfold judge at h
  repeat' split at h
  any_goals cases h
  next hlen => exact (okPlaces_lanes_sublist rs).eq_of_length (by simpa using hlen)

theorem checkAll_lanes {t : Thread} {acc : Acc} {n : Nat} {group : Bool} {ls : List (Nat × Nat)}
    {check : Nat → Nat → Res} {ps : List (Nat × Nat × Place)} (h : checkAll t acc n group ls check = .ok ps) :
    ps.map (·.1) = ls.map (·.1) := by
  rw [judge_lanes h]
  split <;> simp [Function.comp_def]

/-- Every active lane has its place. -/
theorem State.resolveAll_lanes {s : State} {t : Thread} {acc : Acc} {n : Nat} {group : Bool} {f : Mem}
    {ps : List (Nat × Nat × Place)}
    (h : s.resolveAll t acc n group (t.active.map fun i => (i, t.memAddr f i)) = .ok ps) :
    ps.map (·.1) = t.active := by
  rw [checkAll_lanes h, List.map_map]
  exact List.map_id _

theorem Thread.active_nodup (t : Thread) : t.active.Nodup := by
  unfold Thread.active
  split
  · exact List.nodup_singleton 0
  · exact List.nodup_range.filter _

theorem Thread.active_lt_64 (t : Thread) {i : Nat} (hi : i ∈ t.active) : i < 64 := by
  by_cases hs : t.side = .mcc
  · obtain rfl : i = 0 := by simpa [Thread.active, hs] using hi
    decide
  · exact Thread.active_lt hs hi

/-! ### What a producer holds (R139) -/

theorem putVals_get_same (m : Store 32) (lane v : Nat) {n j : Nat} (hj : j < n) :
    (putVals m lane v n).get (64 * j + lane) = word32 v j := by
  induction n with
  | zero => cases hj
  | succ n ih =>
    by_cases hjn : j = n
    · subst hjn
      exact Store.get_set_same ..
    · exact (Store.get_set_other _ _ (by omega)).trans (ih (by omega))

theorem putVals_get_other (m : Store 32) {lane i : Nat} (v n j : Nat) (hl : lane < 64) (hi : i < 64) (h : lane ≠ i) :
    (putVals m lane v n).get (64 * j + i) = m.get (64 * j + i) := by
  induction n with
  | zero => rfl
  | succ n ih => exact (Store.get_set_other _ _ (by omega)).trans ih

theorem putVals_foldl_get_other (m : Store 32) {vs : List (Nat × Nat)} {i : Nat} (n j : Nat)
    (hlt : ∀ v ∈ vs, v.1 < 64) (hi : i < 64) (h : i ∉ vs.map (·.1)) :
    (vs.foldl (fun m v => putVals m v.1 v.2 n) m).get (64 * j + i) = m.get (64 * j + i) := by
  induction vs generalizing m with
  | nil => rfl
  | cons v vs ih =>
    obtain ⟨hv, hvs⟩ := List.forall_mem_cons.mp hlt
    obtain ⟨hne, hmem⟩ := not_or.mp (List.mem_cons.not.mp h)
    exact (ih _ hvs hmem).trans (putVals_get_other m v.2 n j hv hi (Ne.symm hne))

/-- The words of each lane's value, where no lane is given twice. -/
theorem valsOf_get {vs : List (Nat × Nat)} {v : Nat × Nat} {n j : Nat} (hlt : ∀ v ∈ vs, v.1 < 64)
    (hnd : (vs.map (·.1)).Nodup) (hv : v ∈ vs) (hj : j < n) : (valsOf n vs).get (64 * j + v.1) = word32 v.2 j := by
  obtain ⟨l1, l2, rfl⟩ := List.append_of_mem hv
  have hlast : v.1 ∉ l2.map (·.1) := by
    rw [List.map_append, List.map_cons] at hnd
    exact (List.nodup_cons.mp hnd.of_append_right).1
  have hl2 (x : Nat × Nat) (hx : x ∈ l2) : x.1 < 64 := hlt x (List.mem_append_right _ (List.mem_cons_of_mem _ hx))
  rw [valsOf, List.foldl_append, List.foldl_cons, putVals_foldl_get_other _ n j hl2 (hlt v hv) hlast]
  exact putVals_get_same _ _ _ hj

/-! ### An empty destination (R139) -/

theorem markEmpty_get (m : Tab Nat) (r pid : Nat) {n j : Nat} (hj : j < n) :
    (markEmpty m r pid n).get? (r + j) = some pid := by
  induction n with
  | zero => cases hj
  | succ n ih =>
    by_cases hjn : j = n
    · subst hjn
      exact Tab.get?_put_same ..
    · exact (Tab.get?_put_other _ _ (by omega)).trans (ih (by omega))

/-- What a thread holds once it has started producer `p` of V registers, numbered `pid`, and gone on from `t`. -/
structure Thread.Awaits (t t' : Thread) (pid : Nat) (p : Producer) : Prop where
  prod : t'.prods.get? pid = some p
  empty : ∀ j, j < p.n → t'.regs.ve.get? (p.reg + j) = some pid
  v : t'.regs.v = t.regs.v
  g : t'.regs.g = t.regs.g
  pc : t'.pc = t.advance.pc

theorem State.produce_awaits (s : State) {t t1 : Thread} (h : t.SameIssue t1) {p : Producer} (hp : p.toG = false) :
    t.Awaits (s.produce t1 p).2.advance s.nextId p := by
  obtain ⟨_, _, _, _, _, rfl⟩ := h
  constructor
  case prod => simp [State.produce]
  case empty =>
    intro j hj
    simpa [State.produce, hp] using markEmpty_get t.regs.ve p.reg s.nextId hj
  all_goals simp [State.produce, hp, Thread.at_]

/-- The state after an instruction that has led to `s1` and `t1` and then starts producer `p`. -/
def State.finishProducing (s s1 : State) (t1 : Thread) (p : Producer) : State :=
  s.finish (s1.produce t1 p).1 (s1.produce t1 p).2

theorem State.finishProducing_awaits {s s1 : State} {t t1 : Thread} {p : Producer} (hs : s1.nextId = s.nextId)
    (ht : t.SameIssue t1) (hp : p.toG = false) : ∃ t', (s.finishProducing s1 t1 p).threads.get? s.cur = some t' ∧
      t.Awaits t' s.nextId p :=
  ⟨_, Tab.get?_put_same .., hs ▸ s1.produce_awaits ht hp⟩

theorem State.finishProducing_keeps (s s1 : State) (t1 : Thread) (p : Producer) :
    (s.finishProducing s1 t1 p).mem = s1.mem ∧ (s.finishProducing s1 t1 p).wgs = s1.wgs ∧
      (s.finishProducing s1 t1 p).units = s1.units := by
  simp [State.finishProducing, State.finish, State.produce]

/-! ### Registers that a producer fills (R139, R141) -/

/-- One register of a V result, which becomes full where the producer still owns it. -/
def Regs.fillOne (r : Regs) (pid : Nat) (p : Producer) (j : Nat) : Regs :=
  if r.ve.get? (p.reg + j) = some pid then
    { r with
      v := setLanes r.v (64 * (p.reg + j)) (fun i => p.vals.get (64 * j + i))
        ((List.range 64).filter fun i => p.lanes.getLsbD i)
      ve := r.ve.del (p.reg + j) }
  else r

/-- The first `n` registers of a V result. -/
def Regs.fillTo (r : Regs) (pid : Nat) (p : Producer) (n : Nat) : Regs :=
  (List.range n).foldl (fun r j => r.fillOne pid p j) r

theorem Regs.fill_toV (r : Regs) (pid : Nat) {p : Producer} (hp : p.toG = false) :
    r.fill pid p = r.fillTo pid p p.n := by
  rw [Regs.fill, if_neg (by simp [hp])]
  rfl

theorem Regs.fillTo_succ (r : Regs) (pid : Nat) (p : Producer) (n : Nat) :
    r.fillTo pid p (n + 1) = (r.fillTo pid p n).fillOne pid p n := by
  rw [Regs.fillTo, List.range_succ, List.foldl_append]
  rfl

/-- Registers `r'` are `r` with the registers from `lo` up to `hi` filled that the producer owned. -/
structure Regs.Filled (r r' : Regs) (pid : Nat) (p : Producer) (lo hi : Nat) : Prop where
  g : r'.g = r.g
  v : ∀ x i, i < 64 → r'.v.get (64 * x + i) =
    if lo ≤ x ∧ x < hi ∧ r.ve.get? x = some pid ∧ p.lanes.getLsbD i = true
      then p.vals.get (64 * (x - p.reg) + i) else r.v.get (64 * x + i)
  ve : ∀ x, r'.ve.get? x = if lo ≤ x ∧ x < hi ∧ r.ve.get? x = some pid then none else r.ve.get? x

theorem setLanes_get_bits (m : Store 32) (f : Nat → W32) (b : BitVec 64) (x y : Nat) {i : Nat} (hi : i < 64) :
    (setLanes m (64 * y) f ((List.range 64).filter fun i => b.getLsbD i)).get (64 * x + i) =
      if x = y ∧ b.getLsbD i = true then f i else m.get (64 * x + i) := by
  split
  · next h =>
    obtain ⟨rfl, hb⟩ := h
    exact setLanes_get_of_mem m _ f (List.mem_filter.mpr ⟨List.mem_range.mpr hi, hb⟩)
  · next h =>
    refine setLanes_get_other m f fun j hj he => h ?_
    obtain ⟨hj, hb⟩ := List.mem_filter.mp hj
    have hj : j < 64 := List.mem_range.mp hj
    obtain rfl : j = i := by omega
    exact ⟨by omega, hb⟩

theorem Regs.fillOne_filled (r : Regs) (pid : Nat) (p : Producer) (j : Nat) :
    r.Filled (r.fillOne pid p j) pid p (p.reg + j) (p.reg + j + 1) := by
  unfold Regs.fillOne
  split
  · next ho =>
    refine ⟨rfl, fun x i hi => ?_, fun x => ?_⟩
    · rw [setLanes_get_bits _ _ _ _ _ hi]
      by_cases hx : x = p.reg + j
      · subst hx
        simp [ho]
      · rw [if_neg fun h => hx h.1, if_neg fun h => hx (by omega)]
    · by_cases hx : x = p.reg + j
      · subst hx
        simp [ho, Tab.get?_del_same]
      · rw [if_neg fun h => hx (by omega)]
        exact Tab.get?_del_other _ (Ne.symm hx)
  · next ho =>
    have hnot (x : Nat) : ¬(p.reg + j ≤ x ∧ x < p.reg + j + 1 ∧ r.ve.get? x = some pid) := by
      rintro ⟨h1, h2, h3⟩
      obtain rfl : x = p.reg + j := by omega
      exact ho h3
    exact ⟨rfl, fun x i _ => (if_neg fun ⟨h1, h2, h3, _⟩ => hnot x ⟨h1, h2, h3⟩).symm,
      fun x => (if_neg (hnot x)).symm⟩

theorem Regs.Filled.trans {r r1 r2 : Regs} {pid a b c : Nat} {p : Producer} (h1 : r.Filled r1 pid p a b)
    (h2 : r1.Filled r2 pid p b c) (hab : a ≤ b) (hbc : b ≤ c) : r.Filled r2 pid p a c := by
  refine ⟨h2.g.trans h1.g, fun x i hi => ?_, fun x => ?_⟩
  · rw [h2.v x i hi, h1.v x i hi, h1.ve x]
    by_cases hx : x < b
    · rw [if_neg (by omega)]
      simp only [hx, show x < c by omega]
    · rw [if_neg (c := a ≤ x ∧ x < b ∧ _) (by omega), if_neg (c := a ≤ x ∧ x < b ∧ _) (by omega)]
      simp only [show (b ≤ x) ↔ (a ≤ x) by omega]
  · rw [h2.ve x, h1.ve x]
    by_cases hx : x < b
    · rw [if_neg (c := b ≤ x ∧ _) (by omega)]
      simp only [hx, show x < c by omega]
    · rw [if_neg (c := a ≤ x ∧ x < b ∧ _) (by omega)]
      simp only [show (b ≤ x) ↔ (a ≤ x) by omega]

/-- A V result fills the registers that the producer still owns, and no other (R139, R141). -/
theorem Regs.fill_filled (r : Regs) (pid : Nat) {p : Producer} (hp : p.toG = false) :
    r.Filled (r.fill pid p) pid p p.reg (p.reg + p.n) := by
  rw [r.fill_toV pid hp]
  induction p.n with
  | zero => exact ⟨rfl, fun x i _ => (if_neg (by omega)).symm, fun x => (if_neg (by omega)).symm⟩
  | succ n ih =>
    rw [r.fillTo_succ]
    exact ih.trans ((r.fillTo pid p n).fillOne_filled pid p n) (by omega) (by omega)

/-- A G result fills its register where the producer still owns it (R139, R141). -/
theorem Regs.fill_toG (r : Regs) (pid : Nat) {p : Producer} (hp : p.toG = true) :
    (r.fill pid p).v = r.v ∧ ∀ x, (r.fill pid p).g.get x =
      if x = p.reg ∧ r.ge.get? x = some pid then p.vals.get 64 ++ p.vals.get 0 else r.g.get x := by
  rw [Regs.fill, if_pos hp]
  split
  · next ho =>
    refine ⟨rfl, fun x => ?_⟩
    by_cases hx : x = p.reg
    · subst hx
      simp [ho]
    · rw [if_neg fun h => hx h.1]
      exact Store.get_set_other _ _ (Ne.symm hx)
  · next ho =>
    refine ⟨rfl, fun x => (if_neg ?_).symm⟩
    rintro ⟨rfl, h⟩
    exact ho h

/-! ### A producer completes (R139, R406) -/

/-- What the save frame takes of a result changes only the frame and the list of its empty registers. -/
theorem Thread.fillFrame_eq (t : Thread) (pid : Nat) (p : Producer) : ∃ frame ve ge,
    t.fillFrame pid p = { t with frame := frame, savedVe := ve, savedGe := ge } := by
  unfold Thread.fillFrame
  split
  · split <;> exact ⟨_, _, _, rfl⟩
  · refine List.foldlRecOn (motive := fun u : Thread => ∃ frame ve ge,
      u = { t with frame := frame, savedVe := ve, savedGe := ge }) _ _ ⟨_, _, _, rfl⟩ ?_
    rintro _ ⟨frame, ve, ge, rfl⟩ j -
    split <;> exact ⟨_, _, _, rfl⟩

theorem Thread.complete_keeps (t : Thread) (pid : Nat) (p : Producer) :
    (t.complete pid p).regs = t.regs.fill pid p ∧ (t.complete pid p).prods = t.prods.del pid ∧
      (t.complete pid p).pc = t.pc := by
  obtain ⟨frame, ve, ge, hf⟩ := t.fillFrame_eq pid p
  unfold Thread.complete
  split
  · rw [hf]
    exact ⟨rfl, rfl, rfl⟩
  · exact ⟨rfl, rfl, rfl⟩

/-- A G result fills the frame's place of a register that the trap found empty (R406; log 31). -/
theorem Thread.complete_frame {t : Thread} {pid : Nat} {p : Producer} (hp : p.toG = true) (hh : t.handler = true)
    (ho : t.savedGe.get? p.reg = some pid) :
    ofBytes (frameBytes (t.complete pid p).frame 0 (32 + 8 * p.reg) 8) = (p.vals.get 64 ++ p.vals.get 0).toNat ∧
      (t.complete pid p).savedGe.get? p.reg = none := by
  have hf : t.fillFrame pid p = { t with
      frame := t.frame.putNat (8192 + 32 + 8 * p.reg) 8 (p.vals.get 64 ++ p.vals.get 0).toNat
      savedGe := t.savedGe.del p.reg } := by rw [Thread.fillFrame, if_pos hp, if_pos ho]
  rw [Thread.complete, if_pos hh, hf]
  refine ⟨?_, Tab.get?_del_same ..⟩
  rw [ofBytes_frameBytes _ _ (by omega), frameKey, if_neg (by omega), ← Nat.add_assoc]
  exact (Store.getNat_putNat ..).trans (Nat.mod_eq_of_lt (p.vals.get 64 ++ p.vals.get 0).isLt)

/-- A producer that every home has answered completes, unless one of its homes or its own die is lost (R142, R420). -/
theorem completeProducer_next {s : State} {t : Thread} {tid pid : Nat} {p : Producer} (ht : s.threads.get? tid = some t)
    (hp : t.prods.get? pid = some p) (hr : p.ready = true) (hw : p.waiting = 0) (hl : s.lost (s.dieOf t) = false)
    (hh : ∀ d ∈ p.homes, s.lost d = false) :
    completeProducer tid pid s = .next (s.putThread tid (t.complete pid p)) := by
  have hany : p.homes.any s.lost = false := List.any_eq_false.mpr fun d hd => by simp [hh d hd]
  simp [completeProducer, ht, hp, when, hr, hw, hl, hany]

end Sys2Proof.Machine
end

section
/-!
PROOFS. LD and LDNT: what they deliver at once and what their producer holds (O32).
-/

namespace Sys2Proof.Machine

/-! ### Values of loads (R227) -/

theorem extend_false (bits dest v : Nat) : extend false bits dest v = v := if_neg (by simp)

theorem tyWordSigned_tyWord (ty : BitVec 4) (xty : BitVec 1) :
    tyWordSigned (tyWord 0 ty.toNat xty.toNat) = tySigned xty ty := by
  revert ty xty
  decide

/-- Values of signed types are whole bytes. -/
theorem tyBits_of_signed {ty : BitVec 4} {xty : BitVec 1} (h : tySigned xty ty = true) :
    8 * (tyBits xty ty / 8) = tyBits xty ty := by
  revert ty xty
  decide

/-- What a load's producer holds of a lane is the lane's value extended by the type. -/
theorem loadVal_tyWord (ty : BitVec 4) (xty : BitVec 1) (dest : Nat) (bs : List Byte) :
    loadVal (tyWordSigned (tyWord 0 ty.toNat xty.toNat)) (8 * (tyBits xty ty / 8)) dest bs =
      loadVal (tySigned xty ty) (tyBits xty ty) dest bs := by
  rw [tyWordSigned_tyWord]
  cases h : tySigned xty ty
  · simp only [loadVal, extend_false]
  · rw [tyBits_of_signed h]

/-! ### LD and LDNT -/

/-- Loads from interlocked places change nothing. -/
theorem State.loadPlaces_interlocked (s : State) (t : Thread) (n : Nat) {ps : List (Nat × Nat × Place)}
    (h : ∀ p ∈ ps, p.2.2.interlocked = true) :
    s.loadPlaces t n ps = (ps.map fun p => (p.1, s.readPlace t p.2.2 n), s, t) := by
  induction ps with
  | nil => rfl
  | cons x ps ih =>
    obtain ⟨hx, hps⟩ := List.forall_mem_cons.mp h
    obtain ⟨lane, va, p⟩ := x
    have hs : s.stampLoad t p = (s, t) := by
      cases p with
      | phys pa => cases hx
      | _ => rfl
    simp only [State.loadPlaces, hs, ih hps, List.map_cons]

/-- What a lane of LD reads (R227). -/
def State.laneVal (s : State) (t : Thread) (f : Mem) (p : Place) : Nat :=
  loadVal (tySigned f.xty f.ty) (tyBits f.xty f.ty) (32 * regsOf (tyBits f.xty f.ty))
    (s.readPlace t p (tyBits f.xty f.ty / 8))

/-- The producer of LD from places of this package: it holds the lanes that were answered, and waits for those whose
home die is lost (R139, R142). -/
def State.loadProducer (s : State) (t : Thread) (f : Mem) (ps : List (Nat × Nat × Place)) : Producer :=
  { toG := false, reg := f.dst.toNat, n := regsOf (tyBits f.xty f.ty), lanes := laneMask (ps.map (·.1))
    vals := valsOf (regsOf (tyBits f.xty f.ty))
      ((ps.filter fun x => !x.2.2.isDead).map fun p => (p.1, s.laneVal t f p.2.2))
    waiting := laneMask ((ps.filter fun x => x.2.2.isDead).map (·.1))
    ready := true, slot := none, homes := homesOf ps }

section
variable {s : State} {t : Thread} {f : Mem} {i : Instr} (hi : i ∈ [Instr.ld f, .ldnt f]) (h : s.At t)
  (hw : t.canWrite f.dst.toNat (regsOf (tyBits f.xty f.ty)) = .ok ⟨⟩) (ha : t.canAddr f = .ok ⟨⟩)
include hi

/-- LD and LDNT have one meaning: a hint changes only what caches hold (R230). -/
theorem exec_ld_eq : exec i s = loadLanes f s := by
  simp only [List.mem_cons, List.not_mem_nil, or_false] at hi
  obtain rfl | rfl := hi <;> rfl

include h hw ha

/-- With EM zero LD and LDNT load nothing (R136). -/
theorem exec_ld_none (hact : t.active = []) : exec i s = .next (s.after t t.advance) :=
  (exec_ld_eq hi).trans (run_done h (by simp [hw, ha, hact, bind, Except.bind]) rfl rfl)

variable {ps : List (Nat × Nat × Place)} (hb : t.busy = false) (hact : t.active ≠ [])
  (hps : s.resolveAll t .load (tyBits f.xty f.ty / 8) false (t.active.map fun i => (i, t.memAddr f i)) = .ok ps)
  (hwait : s.anyWaits t (tyBits f.xty f.ty / 8) ps = false)
include hb hact hps hwait

/-- From the scratchpad and the lane slice the values stand at once (R139, R227). -/
theorem exec_ld_interlocked (hp : ∀ p ∈ ps, p.2.2.interlocked = true) :
    exec i s = .next (s.after t (t.put f.dst.toNat (regsOf (tyBits f.xty f.ty)) false
      (32 * regsOf (tyBits f.xty f.ty)) fun i =>
        ((ps.find? fun p => p.1 == i).map fun p => s.laneVal t f p.2.2).getD 0).advance) := by
  have hempty : t.active.isEmpty = false := by simpa using hact
  have hall : (ps.all fun p => p.2.2.interlocked) = true := List.all_eq_true.mpr hp
  refine (exec_ld_eq hi).trans (run_done h ?_ (by simp) (by simp))
  simp only [hw, ha, hempty, hps, hwait, hall, quiet_ok hb, State.loadPlaces_interlocked s t _ hp, bind, Except.bind,
    Bool.false_eq_true, if_false, if_true, List.map_map, List.find?_map, Option.map_map]
  rfl

/-- From elsewhere in this package the values stand behind a producer (R139, R226, R228; log 7). -/
theorem exec_ld_produces (hr : ∀ p ∈ ps, p.2.2.isRemote = false) (hp : ∃ p ∈ ps, p.2.2.interlocked = false) :
    ∃ counts lts pts, exec i s = .next (s.finishProducing { s with counts := counts, lts := lts }
      { t with pts := pts } (s.loadProducer t f ps)) := by
  have hempty : t.active.isEmpty = false := by simpa using hact
  have hall : (ps.all fun p => p.2.2.interlocked) = false := by simpa using hp
  have haway : anyAway ps = false := List.any_eq_false.mpr fun p hm => by simp [hr p hm]
  have hdest : 32 * regsOf (tyBits f.xty f.ty) / 32 = regsOf (tyBits f.xty f.ty) :=
    Nat.mul_div_cancel_left _ (by decide)
  obtain ⟨c, l, q, hl⟩ := s.loadPlaces_eq t (tyBits f.xty f.ty / 8) (ps.filter fun x => !x.2.2.isDead)
  refine ⟨c, l, q, (exec_ld_eq hi).trans (run_ok h (r := (_, _)) ?_)⟩
  simp only [hw, ha, hempty, hps, hwait, hall, State.loadInto, Thread.roomFor, haway, hb, hl, bind, Except.bind,
    Bool.false_eq_true, false_and, if_false, Bool.or_self, List.map_map, hdest, Function.comp_def, loadVal_tyWord]
  rfl

end

/-! ### Clause by clause -/

/-- What the producer of LD holds (R139, R142, R227). -/
theorem State.loadProducer_spec {s : State} {t : Thread} {f : Mem} {ps : List (Nat × Nat × Place)}
    (hps : ps.map (·.1) = t.active) :
    (∀ j, j < 64 → (s.loadProducer t f ps).waiting.getLsbD j = ps.any fun q => q.1 == j && q.2.2.isDead) ∧
    (∀ j, (s.loadProducer t f ps).lanes.getLsbD j = decide (j ∈ t.active)) ∧
    ∀ q ∈ ps, q.2.2.isDead = false → ∀ j, j < regsOf (tyBits f.xty f.ty) →
      (s.loadProducer t f ps).vals.get (64 * j + q.1) = word32 (s.laneVal t f q.2.2) j := by
  have hlt {q : Nat × Nat × Place} (hq : q ∈ ps) : q.1 < 64 := t.active_lt_64 (hps ▸ List.mem_map_of_mem hq)
  refine ⟨fun j hj => ?_, fun j => ?_, fun q hq hd j hj => ?_⟩
  · rw [State.loadProducer, laneMask_getLsbD, Bool.eq_iff_iff]
    simp [hj, and_comm]
  · rw [State.loadProducer, laneMask_getLsbD, hps, ← Bool.decide_and]
    exact decide_eq_decide.mpr ⟨fun h => h.2, fun h => ⟨t.active_lt_64 h, h⟩⟩
  · refine valsOf_get (v := (q.1, s.laneVal t f q.2.2)) (fun v hv => ?_) ?_ ?_ hj
    · obtain ⟨p, hp, rfl⟩ := List.mem_map.mp hv
      exact hlt (List.mem_filter.mp hp).1
    · rw [List.map_map]
      exact (hps ▸ t.active_nodup).sublist (List.filter_sublist.map _)
    · exact List.mem_map.mpr ⟨q, List.mem_filter.mpr ⟨hq, by simp [hd]⟩, rfl⟩

/-- Settles O32: what each kind of place delivers at issue, and what LOAD_COMPLETE fills. -/
theorem loadsDeliver : Obligations.LoadsDeliver := by
  unfold Obligations.LoadsDeliver
  refine ⟨?issue, ?complete⟩
  case issue =>
    rintro s t f i w n ps hi h hb rfl rfl hw ha
    refine ⟨exec_ld_none hi h hw ha, fun hact _ hps hr hwait =>
      ⟨exec_ld_interlocked hi h hw ha hb hact hps hwait, fun hp => ?_⟩⟩
    obtain ⟨counts, lts, pts, hx⟩ := exec_ld_produces hi h hw ha hb hact hps hwait hr hp
    obtain ⟨hwaiting, hlanes, hvals⟩ := s.loadProducer_spec (f := f) (State.resolveAll_lanes hps)
    obtain ⟨t', hat, hawaits⟩ := State.finishProducing_awaits (s := s) (t := t) (p := s.loadProducer t f ps)
      (s1 := { s with counts := counts, lts := lts }) (t1 := { t with pts := pts }) rfl ⟨_, _, _, _, _, rfl⟩ rfl
    exact ⟨_, t', _, hx, hat, hawaits.prod, rfl, rfl, rfl, rfl, hwaiting, hlanes, hvals, hawaits.empty, hawaits.v,
      hawaits.g, hawaits.pc, State.finishProducing_keeps ..⟩
  case complete =>
    intro s t tid pid p ht hp hready hwaiting hl hh
    obtain ⟨hregs, hprods, hpc⟩ := t.complete_keeps pid p
    refine ⟨_, completeProducer_next ht hp hready hwaiting hl hh, hprods ▸ Tab.get?_del_same .., hpc, fun hv => ?_,
      fun hg => ?_⟩
    · obtain ⟨hg, hv, hve⟩ := t.regs.fill_filled pid hv
      rw [hregs]
      exact ⟨hg, fun r i hi => ⟨hv r i hi, hve r⟩⟩
    · obtain ⟨hv, hgs⟩ := t.regs.fill_toG pid hg
      rw [hregs]
      exact ⟨hv, hgs, Thread.complete_frame hg⟩

end Sys2Proof.Machine
end

section
/-!
PROOFS. Atomics at places of this package and REDNM's adds (O37).
-/

namespace Sys2Proof.Machine

/-! ### Read-modify-writes one after another (R382, R383) -/

/-- The checks of an atomic give every lane its place. -/
theorem State.atomChecked_lanes {s : State} {t : Thread} {n : Nat} {group : Bool} {ls : List (Nat × Nat)}
    {ps : List (Nat × Nat × Place)} (h : s.atomChecked t n group ls = .ok ps) : ps.map (·.1) = ls.map (·.1) := by
  unfold State.atomChecked at h
  cases hc : checkAll t .atomic n group ls (s.resolveAtom t .atomic false n) with
  | error e => rw [hc] at h; cases h
  | ok qs =>
    simp only [hc, bind, Except.bind] at h
    split at h
    · cases h
    · cases h
      exact checkAll_lanes hc

section
variable (s : State) (t : Thread) (o : AtomOp) (a cmp : Nat → Nat)

theorem State.atomPlaces_append (l1 l2 : List (Nat × Nat × Place)) :
    s.atomPlaces t o a cmp (l1 ++ l2) =
      ((s.atomPlaces t o a cmp l1).1 ++
        ((s.atomPlaces t o a cmp l1).2.1.atomPlaces (s.atomPlaces t o a cmp l1).2.2 o a cmp l2).1,
        ((s.atomPlaces t o a cmp l1).2.1.atomPlaces (s.atomPlaces t o a cmp l1).2.2 o a cmp l2).2) := by
  induction l1 generalizing s t with
  | nil => rfl
  | cons p l1 ih =>
    obtain ⟨i, va, p⟩ := p
    simp only [List.cons_append, State.atomPlaces, ih]

/-- One read-modify-write: what it read, and the store of its result. -/
theorem State.atomPlaces_cons (i va : Nat) (p : Place) (ps : List (Nat × Nat × Place)) :
    let old := ofBytes (s.readPlace t p (o.bits / 8))
    let r := s.storeAt t p (toBytes (o.apply old (a i) (cmp i)) (o.bits / 8))
    s.atomPlaces t o a cmp ((i, va, p) :: ps) =
      ((i, old) :: (r.1.atomPlaces r.2 o a cmp ps).1, (r.1.atomPlaces r.2 o a cmp ps).2) := rfl

theorem State.atomPlaces_lanes (ps : List (Nat × Nat × Place)) :
    (s.atomPlaces t o a cmp ps).1.map (·.1) = ps.map (·.1) := by
  induction ps generalizing s t with
  | nil => rfl
  | cons p ps ih =>
    obtain ⟨i, va, p⟩ := p
    simp only [State.atomPlaces, List.map_cons, ih]

theorem State.atomPlaces_storesTo (ps : List (Nat × Nat × Place)) :
    StoresTo (o.bits / 8) s t (ps.map (·.2.2)) (s.atomPlaces t o a cmp ps).2.1 (s.atomPlaces t o a cmp ps).2.2 := by
  induction ps generalizing s t with
  | nil => exact .nil s t
  | cons p ps ih => exact .cons _ (toBytes_length ..) (ih _ _)

/-- A lane of physical memory whose bytes no other lane touches reads what memory held, and leaves its result there. -/
theorem State.atomPlaces_at {l1 l2 : List (Nat × Nat × Place)} {i va pa : Nat}
    (h : ∀ r ∈ l1 ++ l2, ∀ pb, r.2.2 = .phys pb → pb + o.bits / 8 ≤ pa ∨ pa + o.bits / 8 ≤ pb) :
    (i, s.mem.getNat pa (o.bits / 8)) ∈ (s.atomPlaces t o a cmp (l1 ++ (i, va, .phys pa) :: l2)).1 ∧
    (s.atomPlaces t o a cmp (l1 ++ (i, va, .phys pa) :: l2)).2.1.mem.bytes pa (o.bits / 8) =
      toBytes (o.apply (s.mem.getNat pa (o.bits / 8)) (a i) (cmp i)) (o.bits / 8) := by
  have hapart {l : List (Nat × Nat × Place)} (hl : l ⊆ l1 ++ l2) (p : Place) (hp : p ∈ l.map (·.2.2)) (pb : Nat)
      (he : p = .phys pb) : pb + o.bits / 8 ≤ pa ∨ pa + o.bits / 8 ≤ pb := by
    obtain ⟨r, hr, rfl⟩ := List.mem_map.mp hp
    exact h r (hl hr) pb he
  have hbefore := (s.atomPlaces_storesTo t o a cmp l1).bytes (hapart (List.subset_append_left l1 l2))
  have hold : ofBytes ((s.atomPlaces t o a cmp l1).2.1.readPlace (s.atomPlaces t o a cmp l1).2.2 (.phys pa)
      (o.bits / 8)) = s.mem.getNat pa (o.bits / 8) := congrArg ofBytes hbefore
  rw [State.atomPlaces_append, State.atomPlaces_cons]
  dsimp only
  rw [hold]
  refine ⟨List.mem_append_right _ List.mem_cons_self, ?_⟩
  rw [(State.atomPlaces_storesTo _ _ o a cmp l2).bytes (hapart (List.subset_append_right l1 l2)),
    State.storeAt_phys_mem]
  exact Store.bytes_putNat ..

end

/-! ### ATOM, ATOMF, ATOMQ and RED -/

/-- The producer of an atomic: its lanes, what they read, and the return slot that it holds (R139, R382, R385). -/
def State.atomProd (s : State) (t : Thread) (f : Mem) (ps : List (Nat × Nat × Place)) (vals : List (Nat × Nat))
    (waiting : List Nat) : Producer :=
  { toG := false, reg := f.dst.toNat, n := regsOf (tyBits f.xty f.ty), lanes := laneMask (ps.map (·.1))
    vals := valsOf (regsOf (tyBits f.xty f.ty)) vals, waiting := laneMask waiting, ready := true
    slot := s.returnSlot t ps, homes := homesOf ps }

theorem State.atomProd_vals {s : State} {t u : Thread} {f : Mem} {ps : List (Nat × Nat × Place)}
    {vals : List (Nat × Nat)} {waiting : List Nat} (h : vals.map (·.1) = t.active) {x : Nat × Nat} (hx : x ∈ vals)
    {j : Nat} (hj : j < regsOf (tyBits f.xty f.ty)) :
    (s.atomProd u f ps vals waiting).vals.get (64 * j + x.1) = word32 x.2 j :=
  valsOf_get (fun _ hv => t.active_lt_64 (h ▸ List.mem_map_of_mem hv)) (h ▸ t.active_nodup) hx hj

theorem aliveOf_eq_self {ps : List (Nat × Nat × Place)} (h : ∀ p ∈ ps, p.2.2.isDead = false) : aliveOf ps = ps :=
  List.filter_eq_self.mpr fun p hp => by simp [h p hp]

theorem deadOf_eq_nil {ps : List (Nat × Nat × Place)} (h : ∀ p ∈ ps, p.2.2.isDead = false) : deadOf ps = [] :=
  List.filter_eq_nil_iff.mpr fun p hp => by simp [h p hp]

theorem anyAway_eq_false {ps : List (Nat × Nat × Place)} (h : ∀ p ∈ ps, p.2.2.isRemote = false) :
    anyAway ps = false :=
  List.any_eq_false.mpr fun p hp => by simp [h p hp]

theorem Thread.hangs_of_alive (t : Thread) {ps : List (Nat × Nat × Place)} (h : ∀ p ∈ ps, p.2.2.isDead = false) :
    t.hangs ps = t := by
  simp [Thread.hangs, deadOf_eq_nil h]

theorem Thread.sameIssue_hangs (t : Thread) (ps : List (Nat × Nat × Place)) : t.SameIssue (t.hangs ps) :=
  ⟨_, _, _, _, _, rfl⟩

section
variable {s : State} {t : Thread} {f : Mem} (h : s.At t)
include h

section
variable {i : Instr} (hi : i ∈ [Instr.atom f, .atomf f, .atomq f]) (hr : t.atomReady f = .ok ⟨⟩)
include hi

omit h in
/-- ATOM, ATOMF and ATOMQ have one meaning; their type chooses the operation. -/
theorem exec_atom_eq : exec i s = atomLanes f s := by
  simp only [List.mem_cons, List.not_mem_nil, or_false] at hi
  obtain rfl | rfl | rfl := hi <;> rfl

include hr

/-- With EM zero an atomic makes no step (R136). -/
theorem exec_atom_none (hact : t.active = []) : exec i s = .next (s.after t t.advance) :=
  (exec_atom_eq hi).trans (run_done h (by simp [hr, hact, bind, Except.bind]) rfl rfl)

/-- An atomic with a return makes its lanes' steps and leaves a producer that holds what they read. -/
theorem exec_atom_here {ps : List (Nat × Nat × Place)} (hact : t.active ≠ [])
    (hps : s.atomChecked t (tyBits f.xty f.ty / 8) false (t.active.map fun i => (i, t.memAddr f i)) = .ok ps)
    (hrem : ∀ p ∈ ps, p.2.2.isRemote = false) (hdead : ∀ p ∈ ps, p.2.2.isDead = false)
    (hslot : s.slotCheck t ps = .ok ⟨⟩) {r : List (Nat × Nat) × State × Thread}
    (hrun : s.atomPlaces t (AtomOp.of f) (t.atomData f) (t.atomCmp f) ps = r) :
    exec i s = .next (s.finishProducing r.2.1 r.2.2 (r.2.1.atomProd r.2.2 f ps r.1 [])) := by
  have hempty : t.active.isEmpty = false := by simpa using hact
  refine (exec_atom_eq hi).trans (run_ok h (r := (_, _)) ?_)
  subst hrun
  have hn : (AtomOp.of f).bits / 8 = tyBits f.xty f.ty / 8 := rfl
  simp only [hr, hempty, hn, hps, hslot, anyAway_eq_false hrem, aliveOf_eq_self hdead, deadOf_eq_nil hdead,
    Thread.hangs_of_alive _ hdead, bind, Except.bind, Bool.false_eq_true, if_false]
  rfl

end

/-- RED makes its lanes' steps and returns nothing. -/
theorem exec_red_here {ps : List (Nat × Nat × Place)} (hb : t.busy = false)
    (hr : t.canRead f.a (regsOf (tyBits f.xty f.ty)) = .ok ⟨⟩) (ha : t.canAddr f = .ok ⟨⟩)
    (hact : t.active ≠ [])
    (hps : s.atomChecked t (tyBits f.xty f.ty / 8) false (t.active.map fun i => (i, t.memAddr f i)) = .ok ps)
    (hrem : ∀ p ∈ ps, p.2.2.isRemote = false) {r : List (Nat × Nat) × State × Thread}
    (hrun : s.atomPlaces t (AtomOp.of f) (t.atomData f) (fun _ => 0) (aliveOf ps) = r) :
    exec (.red f) s = .next (s.finish r.2.1 (r.2.2.hangs ps)) := by
  have hempty : t.active.isEmpty = false := by simpa using hact
  refine run_ok h (r := (_, _)) ?_
  subst hrun
  have hn : (AtomOp.of f).bits = tyBits f.xty f.ty := rfl
  simp only [quiet_ok hb, hn, hr, ha, hempty, hps, anyAway_eq_false hrem, bind, Except.bind, Bool.false_eq_true,
    if_false]
  rfl

/-- With EM zero RED makes no step (R136). -/
theorem exec_red_none (hb : t.busy = false) (hr : t.canRead f.a (regsOf (tyBits f.xty f.ty)) = .ok ⟨⟩)
    (ha : t.canAddr f = .ok ⟨⟩) (hact : t.active = []) : exec (.red f) s = .next (s.after t t.advance) := by
  refine run_done h ?_ rfl rfl
  have hn : (AtomOp.of f).bits = tyBits f.xty f.ty := rfl
  simp [quiet_ok hb, hn, hr, ha, hact, bind, Except.bind]

end

/-! ### ATOMW -/

theorem atomFold_lanes (o : AtomOp) (a cmp : Nat → Nat) (old : Nat) (is : List Nat) :
    (atomFold o a cmp old is).1.map (·.1) = is := by
  induction is generalizing old with
  | nil => rfl
  | cons i is ih => simp only [atomFold, List.map_cons, ih]

theorem atomFold_last (o : AtomOp) (a cmp : Nat → Nat) (old : Nat) (is : List Nat) :
    (atomFold o a cmp old is).2 = is.foldl (fun v k => o.apply v (a k) (cmp k)) old := by
  induction is generalizing old with
  | nil => rfl
  | cons i is ih => exact ih _

/-- Each lane of ATOMW reads what the lanes before it have made of the value. -/
theorem atomFold_mem (o : AtomOp) (a cmp : Nat → Nat) (old : Nat) (l1 : List Nat) (i : Nat) (l2 : List Nat) :
    (i, l1.foldl (fun v k => o.apply v (a k) (cmp k)) old) ∈ (atomFold o a cmp old (l1 ++ i :: l2)).1 := by
  induction l1 generalizing old with
  | nil => exact List.mem_cons_self
  | cons k l1 ih => exact List.mem_cons_of_mem _ (ih _)

/-- The step of ATOMW at a physical address: what each lane reads, and the state and the thread after it (R383). -/
def State.atomwStep (s : State) (t : Thread) (f : Mem) (pa : Nat) : List (Nat × Nat) × State × Thread :=
  let r := atomFold (AtomOp.of f) (t.atomData f) (t.atomCmp f) (s.mem.getNat pa (tyBits f.xty f.ty / 8)) t.active
  (r.1, s.storeAt t (.phys pa) (toBytes r.2 (tyBits f.xty f.ty / 8)))

section
variable (s : State) (t : Thread) (f : Mem) (pa : Nat)

theorem State.atomwStep_lanes : (s.atomwStep t f pa).1.map (·.1) = t.active := atomFold_lanes ..

theorem State.atomwStep_mem : (s.atomwStep t f pa).2.1.mem = s.mem.putNat pa (tyBits f.xty f.ty / 8)
    (t.active.foldl (fun v k => (AtomOp.of f).apply v (t.atomData f k) (t.atomCmp f k))
      (s.mem.getNat pa (tyBits f.xty f.ty / 8))) := by
  rw [← atomFold_last]
  exact s.storeAt_phys_mem ..

theorem State.atomwStep_storesTo :
    StoresTo (tyBits f.xty f.ty / 8) s t [.phys pa] (s.atomwStep t f pa).2.1 (s.atomwStep t f pa).2.2 :=
  .cons _ (toBytes_length ..) (.nil ..)

end

/-- ATOMW at a place of physical memory: one value, on which the lanes' steps follow one another (R383). -/
theorem exec_atomw_here {s : State} {t : Thread} {f : Mem} {va pa : Nat} (h : s.At t) (hr : t.atomReady f = .ok ⟨⟩)
    (hact : t.active ≠ [])
    (hps : s.atomChecked t (tyBits f.xty f.ty / 8) true [(0, t.memAddr f 0)] = .ok [(0, va, .phys pa)]) :
    exec (.atomw f) s = .next (s.finishProducing (s.atomwStep t f pa).2.1 (s.atomwStep t f pa).2.2
      ((s.atomwStep t f pa).2.1.atomProd (s.atomwStep t f pa).2.2 f (t.active.map fun i => (i, va, .phys pa))
        (s.atomwStep t f pa).1 [])) := by
  have hempty : t.active.isEmpty = false := by simpa using hact
  refine run_ok h (r := (_, _)) ?_
  have hn : (AtomOp.of f).bits = tyBits f.xty f.ty := rfl
  have hslot : s.slotCheck t [(0, va, .phys pa)] = .ok ⟨⟩ := rfl
  simp only [hr, hn, hempty, hps, hslot, Place.isRemote, Place.isDead, bind, Except.bind, Bool.false_eq_true, if_false]
  rfl

/-! ### The integer operations (R383) -/

/-- The operations of integer atomics, by OP. -/
theorem AtomOp.apply_int {o : AtomOp} {old a cmp : Nat} (hf : o.f32 = false) (hb : 0 < o.bits) (ho : old < 2 ^ o.bits)
    (ha : a < 2 ^ o.bits) :
    (o.op, o.apply old a cmp) ∈ [(0, (old + a) % 2 ^ o.bits),
      (1, if valueOf o.signed o.bits a < valueOf o.signed o.bits old then a else old),
      (2, if valueOf o.signed o.bits old < valueOf o.signed o.bits a then a else old),
      (3, old &&& a), (4, old ||| a), (5, old ^^^ a), (6, a), (7, if old = cmp then a else old)] ∨ 7 < o.op := by
  by_cases hop : 7 < o.op
  · exact .inr hop
  · left
    have hint : o.apply old a cmp = atomInt o.op o.signed o.bits old a cmp := if_neg (by simp [hf])
    rw [hint, ← tInt_eq_valueOf hb ho, ← tInt_eq_valueOf hb ha]
    have hop : o.op < 8 := by omega
    generalize o.op = op at hop
    interval_cases op <;> simp [atomInt]

/-! ### REDNM (R386) -/

/-- REDNM forks one add for each lane that passes its checks. -/
theorem exec_rednm {s : State} {t : Thread} {f : Mem} {ps : List (Nat × Nat × Place)} (h : s.At t)
    (hb : t.busy = false) (hr : t.canRead f.a 1 = .ok ⟨⟩) (ha : t.canAddr f = .ok ⟨⟩)
    (hps : judge false (t.active.map fun i => (i, t.memAddr f i, s.resolveAtom t .store true 4 i (t.memAddr f i))) =
      .ok ps) :
    exec (.rednm f) s = .next (s.finish
      (({ s with
          nextId := s.nextId + ps.length
          nmAdds := s.nmAdds ++ ps.zipIdx.map fun p => (s.nextId + p.2,
            { tid := s.cur, wg := t.wg, pa := s.fullPa p.1.2.2, hop := p.1.2.2.hopped
              val := BitVec.ofNat 32 (t.opnd f.a 1 32 p.1.1), sat := f.fpc.getLsbD 4 }) } : State).updWg t.wg
        fun g => { g with outstanding := g.outstanding + ps.length })
      { t with nmOut := t.nmOut + ps.length }) := by
  refine run_ok h (r := (_, _)) ?_
  simp only [quiet_ok hb, hr, ha, List.map_map, Function.comp_def, hps, bind, Except.bind, List.length_map,
    List.length_zipIdx]
  rfl

/-- What the end of an add leaves (R387). -/
theorem State.nmOver_spec (s : State) (id : Nat) (a : NmAdd) (dropped : Bool) :
    (s.nmOver id a dropped).mem = s.mem ∧ (s.nmOver id a dropped).nmAdds.get? id = none ∧
    (s.nmOver id a dropped).threads.get? a.tid =
      (s.threads.get? a.tid).map fun t => { t with nmOut := t.nmOut - 1, nmDrop := t.nmDrop || dropped } :=
  ⟨rfl, Tab.get?_del_same .., Tab.get?_upd_same ..⟩

/-- What a dropped add leaves: its record is posted, and its thread knows of the drop (R386, R387). -/
theorem State.nmDropped_spec (s : State) (id : Nat) (a : NmAdd) :
    (s.nmDropped id a).nmAdds.get? id = none ∧ ∀ t, s.threads.get? a.tid = some t →
      (s.nmDropped id a).threads.get? a.tid = some { t with nmOut := t.nmOut - 1, nmDrop := true } := by
  obtain ⟨r, hr⟩ : ∃ r, s.nmDropped id a = (s.post r).nmOver id a true := ⟨_, rfl⟩
  obtain ⟨-, hadds, hthreads⟩ := (s.post r).nmOver_spec id a true
  rw [hr]
  refine ⟨hadds, fun t ht => hthreads.trans ?_⟩
  rw [(s.sameWork_post r).threads, ht, Option.map_some, Bool.or_true]

theorem State.sendAway_mem (s : State) (x : Away) : (s.sendAway x).mem = s.mem := by
  obtain ⟨_, _, _, h⟩ := s.sendAway_eq x
  rw [h]

/-- What an add that leaves for another package changes (R386). -/
theorem State.nmSend_spec {s : State} {id : Nat} {a : NmAdd} (h : s.nmAdds.get? id = some a) :
    (s.nmSend id a).nmAdds.get? id = some { a with out := true } ∧ (s.nmSend id a).threads = s.threads ∧
      (s.nmSend id a).mem = s.mem :=
  ⟨(Tab.get?_upd_same ..).trans (by rw [h]; rfl), (s.sameWork_sendAway _).threads, s.sendAway_mem _⟩

section
variable {s : State} {id : Nat} {a : NmAdd} (h : s.nmAdds.get? id = some a) (hn : s.nmBehind id a = false)
  (ho : a.out = false)
include h hn

include ho in
/-- An add whose home is in this package and stands: made, or dropped at a poisoned line (R386). -/
theorem exec_rednmApply_here (hp : pkgOf (s.forwarded a.pa) = s.pkg)
    (hl : s.homeLost (inPkg (s.forwarded a.pa)) = false) (hm : s.moving (inPkg (s.forwarded a.pa)) = false) :
    exec (.rednmApply id) s = .next (if s.poisoned (inPkg (s.forwarded a.pa)) then s.nmDropped id a
      else (s.putPhysNat (inPkg (s.forwarded a.pa)) 4
        (f32Add a.sat (s.mem.getNat (inPkg (s.forwarded a.pa)) 4) a.val.toNat)).nmOver id a false) := by
  show execRednmApply id s = _
  cases hq : s.poisoned (inPkg (s.forwarded a.pa)) <;> simp [execRednmApply, h, hn, ho, hp, hl, hm, hq]

/-- An add to a poisoned line of this package is dropped there (R386). -/
theorem exec_rednmDrop_here (hp : pkgOf (s.forwarded a.pa) = s.pkg)
    (hq : s.poisoned (inPkg (s.forwarded a.pa)) = true) : exec (.rednmDrop id) s = .next (s.nmDropped id a) := by
  show execRednmDrop id s = _
  simp [execRednmDrop, h, hn, hp, hq, when]

include ho in
/-- An add whose home is in another package leaves for it where a lane leads there (R386). -/
theorem exec_rednmApply_away (hp : pkgOf (s.forwarded a.pa) ≠ s.pkg) (hr : s.reach (pkgOf (s.forwarded a.pa)) = .up) :
    exec (.rednmApply id) s = .next (s.nmSend id a) := by
  show execRednmApply id s = _
  simp [execRednmApply, h, hn, ho, hp, hr, when]

/-- An add that no lane can carry is dropped (R386). -/
theorem exec_rednmDrop_away (hp : pkgOf (s.forwarded a.pa) ≠ s.pkg)
    (hr : s.reach (pkgOf (s.forwarded a.pa)) = .lost) : exec (.rednmDrop id) s = .next (s.nmDropped id a) := by
  show execRednmDrop id s = _
  simp [execRednmDrop, h, hn, hp, hr, when]

end

/-! ### Clause by clause -/

/-- Settles O37: the lanes' steps of each atomic in order, the producers that hold what they read, REDNM's adds from the
fork to their end, and ATOMIC_COMPLETE. -/
theorem atomics : Obligations.Atomics := by
  unfold Obligations.Atomics
  refine ⟨?atom, ?red, fun o old a cmp => AtomOp.apply_int, ?atomw, ?rednm, ?add, ?complete⟩
  case atom =>
    rintro s t f i o n ps h hi rfl rfl - hr
    refine ⟨exec_atom_none h hi hr, fun hact hps hp hslot => ?_⟩
    obtain ⟨hrem, hdead⟩ := forall₂_and.mp hp
    have hlanes : ps.map (·.1) = t.active := by rw [State.atomChecked_lanes hps, List.map_map]; exact List.map_id _
    have hstores := s.atomPlaces_storesTo t (AtomOp.of f) (t.atomData f) (t.atomCmp f) ps
    have hvals := s.atomPlaces_lanes t (AtomOp.of f) (t.atomData f) (t.atomCmp f) ps
    have hat {l1 l2 : List (Nat × Nat × Place)} {i va pa : Nat} (he : ps = l1 ++ (i, va, .phys pa) :: l2) :=
      he ▸ s.atomPlaces_at t (AtomOp.of f) (t.atomData f) (t.atomCmp f) (l1 := l1) (l2 := l2) (i := i) (va := va)
        (pa := pa)
    generalize hrun : s.atomPlaces t (AtomOp.of f) (t.atomData f) (t.atomCmp f) ps = r at hstores hvals hat
    obtain ⟨t', ht', hawaits⟩ := State.finishProducing_awaits (s := s) (p := r.2.1.atomProd r.2.2 f ps r.1 [])
      hstores.nextId hstores.sameIssue rfl
    obtain ⟨hmem, -⟩ := s.finishProducing_keeps r.2.1 r.2.2 (r.2.1.atomProd r.2.2 f ps r.1 [])
    refine ⟨_, t', _, exec_atom_here h hi hr hact hps hrem hdead hslot hrun, ht', hawaits.prod, rfl, rfl, rfl, rfl,
      rfl, hawaits.empty, hawaits.v, hawaits.g, hawaits.pc, fun a ha => ?_, ?_⟩
    · rw [hmem]
      refine hstores.get fun p hm => ?_
      obtain ⟨q, hq, rfl⟩ := List.mem_map.mp hm
      exact ha q hq
    · rintro l1 l2 ⟨i, va, p⟩ pa he rfl hapart
      obtain ⟨hread, hbytes⟩ := hat he hapart
      rw [hmem]
      exact ⟨fun j hj => State.atomProd_vals (hvals.trans hlanes) hread hj, hbytes⟩
  case red =>
    rintro s t f o n ps h rfl rfl hb hr ha
    refine ⟨exec_red_none h hb hr ha, fun hact hps hrem => ?_⟩
    have hstores := s.atomPlaces_storesTo t (AtomOp.of f) (t.atomData f) (fun _ => 0) (aliveOf ps)
    refine ⟨_, _, exec_red_here h hb hr ha hact hps hrem rfl,
      (hstores.sameIssue.trans (Thread.sameIssue_hangs _ ps)).regs, fun a hmiss => hstores.get fun p hm => ?_, ?_⟩
    · obtain ⟨q, hq, rfl⟩ := List.mem_map.mp hm
      exact hmiss q (List.mem_filter.mp hq).1
    · rintro l1 l2 ⟨i, va, p⟩ pa rfl rfl hapart
      have halive : aliveOf (l1 ++ (i, va, .phys pa) :: l2) = aliveOf l1 ++ (i, va, .phys pa) :: aliveOf l2 := by
        simp [aliveOf, Place.isDead]
      rw [halive]
      have hsub : aliveOf l1 ++ aliveOf l2 ⊆ l1 ++ l2 := by
        rw [aliveOf, aliveOf, ← List.filter_append]
        exact List.filter_subset_self _
      exact (s.atomPlaces_at t (AtomOp.of f) _ _ fun r hr => hapart r (hsub hr)).2
  case atomw =>
    rintro s t f o n va pa ps h rfl rfl hact - hr hps rfl
    have hstores := s.atomwStep_storesTo t f pa
    obtain ⟨t', ht', hawaits⟩ := State.finishProducing_awaits (s := s)
      (p := (s.atomwStep t f pa).2.1.atomProd (s.atomwStep t f pa).2.2 f (t.active.map fun i => (i, va, .phys pa))
        (s.atomwStep t f pa).1 []) hstores.nextId hstores.sameIssue rfl
    refine ⟨_, t', _, exec_atomw_here h hr hact hps, ht', hawaits.prod, rfl, rfl, rfl, rfl, hawaits.empty,
      fun l1 l2 i he j hj => ?_, ?_, fun a ha => ?_⟩
    · refine State.atomProd_vals (s.atomwStep_lanes t f pa) (x := (i, _)) ?_ hj
      rw [State.atomwStep, he]
      exact atomFold_mem ..
    · rw [(State.finishProducing_keeps ..).1, s.atomwStep_mem]
      exact Store.bytes_putNat ..
    · rw [(State.finishProducing_keeps ..).1, s.atomwStep_mem]
      exact Store.get_putNat_outside _ _ _ _ ha
  case rednm =>
    intro s t f ps g h hb hg hr ha hps
    refine ⟨_, _, exec_rednm h hb hr ha hps, Tab.get?_put_same .., ?_⟩
    simp [State.finish, Tab.get?_upd_same, hg]
  case add =>
    rintro s id a h hn ho pa rfl
    refine ⟨fun hp hl hm hq => ?_, fun hp hl hm hq => ?_, fun hp hr => ?_, fun hp hr => ?_⟩
    · obtain ⟨hmem, hadds, hthreads⟩ := (s.putPhysNat (inPkg (s.forwarded a.pa)) 4
        (f32Add a.sat (s.mem.getNat (inPkg (s.forwarded a.pa)) 4) a.val.toNat)).nmOver_spec id a false
      refine ⟨_, (exec_rednmApply_here h hn ho hp hl hm).trans (by rw [hq]; rfl), hmem, hadds, fun t ht =>
        hthreads.trans ?_⟩
      rw [show (s.putPhysNat _ _ _).threads.get? a.tid = some t from ht, Option.map_some, Bool.or_false]
    · exact ⟨_, exec_rednmDrop_here h hn hp hq, (exec_rednmApply_here h hn ho hp hl hm).trans (by rw [hq]; rfl),
        s.nmDropped_spec id a⟩
    · exact ⟨_, exec_rednmApply_away h hn ho hp hr, State.nmSend_spec h⟩
    · exact ⟨_, exec_rednmDrop_away h hn hp hr, s.nmDropped_spec id a⟩
  case complete =>
    intro s t tid pid p ht hp hready hwaiting hl hh
    exact completeProducer_next ht hp hready hwaiting hl hh

end Sys2Proof.Machine
end

section
/-!
PROOFS. The lane-wise integer instructions of two operands (O18).
-/

namespace Sys2Proof.Machine

/-! ### A lane-wise integer instruction (R136, R166, R175) -/

@[simp] theorem Thread.gotInt_side (t : Thread) (f : Std) (sg : Bool) (w : Nat) (val : Nat → Nat) (c v : Nat → Bool) :
    (t.gotInt f sg w val c v).side = t.side := by
  unfold Thread.gotInt
  split <;> simp

@[simp] theorem Thread.gotInt_wg (t : Thread) (f : Std) (sg : Bool) (w : Nat) (val : Nat → Nat) (c v : Nat → Bool) :
    (t.gotInt f sg w val c v).wg = t.wg := by
  unfold Thread.gotInt
  split <;> simp

/-- The thread as `intOp` leaves it: the results in the destination and, with the CC bit, the flags of the lowest
lane in EM (R136, R175). -/
theorem Thread.gotInt_eq (t : Thread) (f : Std) (sg : Bool) (w : Nat) (r : Nat → IntRes) :
    (let t' := t.put f.dst.toNat (regsOf w) sg w fun i => (r i).val
     if f.xt.getLsbD 0 then
       match t.active with
       | [] => t'
       | i :: _ => t'.setCC (intFlags w (r i))
     else t') = t.gotInt f sg w (fun k => (r k).val) (fun k => (r k).c) (fun k => (r k).v) := by
  unfold Thread.gotInt
  cases f.xt.getLsbD 0 <;> cases t.active <;> rfl

section
variable {s : State} {t : Thread} {f : Std} {w : Nat} {sg : Bool} (h : s.At t) (hsg : sg = tySigned f.xty f.ty)
include h hsg

/-- An integer instruction whose registers may be read and written goes on with the values and flags of its lanes. -/
theorem intOp_next {srcs : List Src} {op : List Nat → IntRes} {val : Nat → Nat} {c v : Nat → Bool}
    (hwr : t.canWrite f.dst.toNat (regsOf w) = .ok ⟨⟩) (hr : ∀ x ∈ srcs, t.canRead x.o x.n = .ok ⟨⟩)
    (hop : ∀ k, op (t.vals srcs k) = ⟨val k, c k, v k⟩) :
    intOp f s srcs w op = .next (s.after t (t.gotInt f sg w val c v).advance) := by
  have hgot := t.gotInt_eq f sg w fun k => op (t.vals srcs k)
  simp only [hop, hsg] at hgot
  refine run_done h ?_ (t.gotInt_side ..) (t.gotInt_wg ..)
  simp only [hwr, Thread.canReadAll_ok hr, hop, bind, Except.bind]
  exact congrArg (done s) (hsg ▸ hgot)

variable (hw : w = tyBits f.xty f.ty) (hwr : t.canWrite f.dst.toNat (regsOf w) = .ok ⟨⟩)
  (ha : t.canRead f.a (regsOf w) = .ok ⟨⟩)
include hw hwr ha

/-- An instruction of one operand, by its values and flags. -/
theorem int1_next {op : Bool → Nat → Nat → IntRes} {val : Nat → Nat} {c v : Nat → Bool}
    (hop : ∀ a, a < 2 ^ w → op sg w a = ⟨val a, c a, v a⟩) :
    int1 f s op = .next (s.after t (t.gotInt f sg w (fun k => val (t.opnd f.a (regsOf w) w k))
      (fun k => c (t.opnd f.a (regsOf w) w k)) (fun k => v (t.opnd f.a (regsOf w) w k))).advance) := by
  have hx : int1 f s op = intOp f s [.ofTy f.a w] w fun xs => op sg w (xs.getD 0 0) := by
    rw [hw, hsg]
    rfl
  rw [hx]
  exact intOp_next h hsg hwr (by simpa [Src.ofTy] using ha) fun k => hop _ (t.opnd_lt ..)

/-- An instruction of two operands, by its values and flags. -/
theorem int2_next {op : Bool → Nat → Nat → Nat → IntRes} {val : Nat → Nat → Nat} {c v : Nat → Nat → Bool}
    (hb : t.canRead f.b (regsOf w) = .ok ⟨⟩)
    (hop : ∀ a b, a < 2 ^ w → b < 2 ^ w → op sg w a b = ⟨val a b, c a b, v a b⟩) :
    int2 f s op = .next (s.after t (t.gotInt f sg w
      (fun k => val (t.opnd f.a (regsOf w) w k) (t.opnd f.b (regsOf w) w k))
      (fun k => c (t.opnd f.a (regsOf w) w k) (t.opnd f.b (regsOf w) w k))
      (fun k => v (t.opnd f.a (regsOf w) w k) (t.opnd f.b (regsOf w) w k))).advance) := by
  have hx : int2 f s op = intOp f s [.ofTy f.a w, .ofTy f.b w] w fun xs => op sg w (xs.getD 0 0) (xs.getD 1 0) := by
    rw [hw, hsg]
    rfl
  rw [hx]
  exact intOp_next h hsg hwr (by simp [Src.ofTy, ha, hb]) fun k => hop _ _ (t.opnd_lt ..) (t.opnd_lt ..)

end

/-! ### Numbers of a type (R43, R166) -/

/-- The low bits of a number that is not negative. -/
@[simp] theorem wrapI_natCast (w n : Nat) : wrapI w n = n % 2 ^ w := by
  rw [wrapI]
  exact_mod_cast Int.toNat_natCast (n % 2 ^ w)

theorem not_fitsT (sg : Bool) (w : Nat) (x : Int) : (!fitsT sg w x) = outOf sg w x := by
  cases sg <;> simp [fitsT, fitsS, outOf, ← decide_not, -not_and]

theorem not_fitsS (w : Nat) (x : Int) : (!fitsS w x) = outOf true w x := not_fitsT true w x

/-- The number of the word of all ones. -/
theorem cast_allOnes (w : Nat) : ((2 ^ w - 1 : Nat) : Int) = 2 ^ w - 1 := by
  rw [Nat.cast_sub Nat.one_le_two_pow]
  push_cast
  rfl

/-- A value of a type lies in its range. -/
theorem tInt_bounds {sg : Bool} {w v : Nat} (hw : 0 < w) (hv : v < 2 ^ w) :
    (if sg then -(2 ^ (w - 1)) else 0) ≤ tInt sg w v ∧ tInt sg w v < if sg then 2 ^ (w - 1) else 2 ^ w := by
  have h2 : (2 : Int) ^ w = 2 * 2 ^ (w - 1) := by rw [← pow_succ', Nat.sub_add_cancel hw]
  have hv' : (v : Int) < 2 ^ w := by exact_mod_cast hv
  cases sg
  · exact ⟨by simp [tInt], by simpa [tInt] using hv'⟩
  · simp only [tInt, sInt, if_true]
    split
    · next hlt =>
      have : (v : Int) < 2 ^ (w - 1) := by exact_mod_cast hlt
      constructor <;> omega
    · next hge =>
      have : (2 : Int) ^ (w - 1) ≤ v := by exact_mod_cast Nat.le_of_not_lt hge
      constructor <;> omega

/-! ### Sums, differences and products (R167, R175) -/

section
variable {sg : Bool} {w a b : Nat} (hw : 0 < w) (ha : a < 2 ^ w) (hb : b < 2 ^ w)
include hw ha hb

theorem aluAdd_eq : aluAdd sg w a b = ⟨wrapI w ((a : Int) + b), decide (2 ^ w ≤ a + b),
    outOf true w (valueOf true w a + valueOf true w b)⟩ := by
  have hval : wrapI w ((a : Int) + b) = (a + b) % 2 ^ w := mod_cast wrapI_natCast w (a + b)
  rw [aluAdd, not_fitsS, hval, ← tInt_eq_valueOf hw ha, ← tInt_eq_valueOf hw hb]
  rfl

theorem aluSub_eq : aluSub sg w a b = ⟨wrapI w ((a : Int) - b), decide (b ≤ a),
    outOf true w (valueOf true w a - valueOf true w b)⟩ := by
  have hval : wrapI w ((a : Int) - b) = (a + 2 ^ w - b) % 2 ^ w := by
    have hcast : ((a + 2 ^ w - b : Nat) : Int) = (a : Int) - b + 2 ^ w := by
      rw [Nat.cast_sub (by omega)]
      push_cast
      ring
    rw [← wrapI_natCast, hcast, wrapI, wrapI, Int.add_emod_right]
  rw [aluSub, not_fitsS, hval, ← tInt_eq_valueOf hw ha, ← tInt_eq_valueOf hw hb]
  rfl

theorem aluMul_eq : aluMul sg w a b = ⟨wrapI w ((a : Int) * b), false,
    outOf sg w (valueOf sg w a * valueOf sg w b)⟩ := by
  have hval : wrapI w ((a : Int) * b) = a * b % 2 ^ w := mod_cast wrapI_natCast w (a * b)
  rw [aluMul, not_fitsT, hval, tInt_eq_valueOf hw ha, tInt_eq_valueOf hw hb]

theorem aluMulh_eq : aluMulh sg w a b = ⟨wrapI w (valueOf sg w a * valueOf sg w b / 2 ^ w), false, false⟩ := by
  rw [aluMulh, tInt_eq_valueOf hw ha, tInt_eq_valueOf hw hb]

/-- Clamping a sum to the range of the type, case by case. -/
theorem aluAdds_eq : aluAdds sg w a b = ⟨wrapI w
      (if sg then
        (if valueOf sg w a + valueOf sg w b < -(2 ^ (w - 1)) then -(2 ^ (w - 1))
          else if 2 ^ (w - 1) ≤ valueOf sg w a + valueOf sg w b then 2 ^ (w - 1) - 1
          else valueOf sg w a + valueOf sg w b)
        else if 2 ^ w ≤ valueOf sg w a + valueOf sg w b then 2 ^ w - 1 else valueOf sg w a + valueOf sg w b),
    false, outOf sg w (valueOf sg w a + valueOf sg w b)⟩ := by
  have hlow := (tInt_bounds (sg := sg) hw ha).1
  have hlow' := (tInt_bounds (sg := sg) hw hb).1
  have hpos : (0 : Int) < 2 ^ (w - 1) := by positivity
  rw [tInt_eq_valueOf hw ha] at hlow
  rw [tInt_eq_valueOf hw hb] at hlow'
  rw [aluAdds, not_fitsT, tInt_eq_valueOf hw ha, tInt_eq_valueOf hw hb, IntRes.mk.injEq]
  refine ⟨congrArg (wrapI w) ?_, rfl, rfl⟩
  cases sg
  · simp only [Bool.false_eq_true, if_false] at hlow hlow' ⊢
    by_cases hx : (2 : Int) ^ w ≤ valueOf false w a + valueOf false w b
    · have hone : (1 : Int) ≤ 2 ^ w := mod_cast Nat.one_le_two_pow
      rw [if_pos hx, min_eq_left (by omega), max_eq_right (by omega)]
    · rw [if_neg hx, min_eq_right (by omega), max_eq_right (by omega)]
  · simp only [if_true]
    split
    · omega
    · split <;> omega

theorem aluMin_eq : aluMin sg w a b =
    ⟨wrapI w ((if valueOf sg w a ≤ valueOf sg w b then a else b : Nat) : Int), false, false⟩ := by
  rw [aluMin, wrapI_natCast, tInt_eq_valueOf hw ha, tInt_eq_valueOf hw hb, Nat.mod_eq_of_lt]
  split
  · exact ha
  · exact hb

theorem aluMax_eq : aluMax sg w a b =
    ⟨wrapI w ((if valueOf sg w a ≤ valueOf sg w b then b else a : Nat) : Int), false, false⟩ := by
  rw [aluMax, wrapI_natCast, tInt_eq_valueOf hw ha, tInt_eq_valueOf hw hb, Nat.mod_eq_of_lt]
  split
  · exact hb
  · exact ha

end

/-! ### Division (R168) -/

/-- The most negative value. -/
theorem tInt_most_negative {w : Nat} (hw : 0 < w) : tInt true w (2 ^ (w - 1)) = -(2 ^ (w - 1)) := by
  have h2 : (2 : Int) ^ w = 2 * 2 ^ (w - 1) := by rw [← pow_succ', Nat.sub_add_cancel hw]
  simp only [tInt, sInt, if_true, lt_irrefl, if_false, Nat.cast_pow, Nat.cast_ofNat]
  omega

/-- The word of all ones stands for -1. -/
theorem tInt_all_ones {w : Nat} (hw : 0 < w) : tInt true w (2 ^ w - 1) = -1 := by
  have h2 : 2 ^ w = 2 * 2 ^ (w - 1) := by rw [← pow_succ', Nat.sub_add_cancel hw]
  have hpos : 0 < 2 ^ (w - 1) := Nat.two_pow_pos _
  simp only [tInt, sInt, if_true]
  rw [if_neg (by omega), cast_allOnes]
  ring

section
variable {sg : Bool} {w a b : Nat} (hw : 0 < w) (ha : a < 2 ^ w) (hb : b < 2 ^ w)
include hw ha hb

/-- The quotient; of the most negative value by -1 its low bits are those of the most negative value. -/
theorem aluDiv_eq : aluDiv sg w a b = ⟨wrapI w
      (if b = 0 then 2 ^ w - 1
        else if sg = true ∧ a = 2 ^ (w - 1) ∧ b = 2 ^ w - 1 then 2 ^ (w - 1)
        else (valueOf sg w a).tdiv (valueOf sg w b)), false,
    b == 0 || (sg && a == 2 ^ (w - 1) && b == 2 ^ w - 1)⟩ := by
  rw [aluDiv, divCorner, IntRes.mk.injEq]
  refine ⟨?_, rfl, rfl⟩
  split
  · rw [← cast_allOnes, wrapI_natCast, Nat.mod_eq_of_lt (by omega)]
  · split
    · next hc =>
      obtain ⟨rfl, rfl, rfl⟩ := hc
      rw [tInt_most_negative hw, tInt_all_ones hw, Int.tdiv_neg, Int.tdiv_one, neg_neg]
    · rw [tInt_eq_valueOf hw ha, tInt_eq_valueOf hw hb]

/-- The remainder; of the most negative value by -1 it is zero. -/
theorem aluRem_eq : aluRem sg w a b = ⟨wrapI w
      (if b = 0 then (a : Int)
        else if sg = true ∧ a = 2 ^ (w - 1) ∧ b = 2 ^ w - 1 then 0
        else valueOf sg w a - valueOf sg w b * (valueOf sg w a).tdiv (valueOf sg w b)), false,
    b == 0 || (sg && a == 2 ^ (w - 1) && b == 2 ^ w - 1)⟩ := by
  rw [aluRem, divCorner, IntRes.mk.injEq]
  refine ⟨?_, rfl, rfl⟩
  split
  · rw [wrapI_natCast, Nat.mod_eq_of_lt ha]
  · split
    · next hc =>
      obtain ⟨rfl, rfl, rfl⟩ := hc
      rw [tInt_most_negative hw, tInt_all_ones hw, Int.tmod_neg, Int.tmod_one]
    · rw [Int.tmod_def, tInt_eq_valueOf hw ha, tInt_eq_valueOf hw hb]

end

/-! ### Logic and shifts (R167) -/

section
variable {sg : Bool} {w a b : Nat} (ha : a < 2 ^ w) (hb : b < 2 ^ w)
include ha hb

theorem aluAnd_eq : aluAnd sg w a b = ⟨(BitVec.ofNat w a &&& BitVec.ofNat w b).toNat, false, false⟩ := by
  rw [BitVec.toNat_and, BitVec.toNat_ofNat, BitVec.toNat_ofNat, Nat.mod_eq_of_lt ha, Nat.mod_eq_of_lt hb, aluAnd]

theorem aluOr_eq : aluOr sg w a b = ⟨(BitVec.ofNat w a ||| BitVec.ofNat w b).toNat, false, false⟩ := by
  rw [BitVec.toNat_or, BitVec.toNat_ofNat, BitVec.toNat_ofNat, Nat.mod_eq_of_lt ha, Nat.mod_eq_of_lt hb, aluOr]

theorem aluXor_eq : aluXor sg w a b = ⟨(BitVec.ofNat w a ^^^ BitVec.ofNat w b).toNat, false, false⟩ := by
  rw [BitVec.toNat_xor, BitVec.toNat_ofNat, BitVec.toNat_ofNat, Nat.mod_eq_of_lt ha, Nat.mod_eq_of_lt hb, aluXor]

theorem aluAndn_eq : aluAndn sg w a b = ⟨(BitVec.ofNat w a &&& ~~~BitVec.ofNat w b).toNat, false, false⟩ := by
  rw [← BitVec.xor_allOnes, BitVec.toNat_and, BitVec.toNat_xor, BitVec.toNat_allOnes, BitVec.toNat_ofNat,
    BitVec.toNat_ofNat, Nat.mod_eq_of_lt ha, Nat.mod_eq_of_lt hb, aluAndn]

theorem aluShl_eq : aluShl sg w a b = ⟨(BitVec.ofNat w a <<< (BitVec.ofNat w b).toNat).toNat, false, false⟩ := by
  rw [BitVec.toNat_shiftLeft, BitVec.toNat_ofNat, BitVec.toNat_ofNat, Nat.mod_eq_of_lt ha, Nat.mod_eq_of_lt hb,
    Nat.shiftLeft_eq, aluShl, IntRes.mk.injEq]
  refine ⟨?_, rfl, rfl⟩
  split
  · next hle => exact (Nat.mod_eq_zero_of_dvd ((pow_dvd_pow 2 hle).mul_left a)).symm
  · rfl

theorem aluShr_eq : aluShr sg w a b = ⟨(BitVec.ofNat w a >>> (BitVec.ofNat w b).toNat).toNat, false, false⟩ := by
  rw [BitVec.toNat_ushiftRight, BitVec.toNat_ofNat, BitVec.toNat_ofNat, Nat.mod_eq_of_lt ha, Nat.mod_eq_of_lt hb,
    Nat.shiftRight_eq_div_pow, aluShr, IntRes.mk.injEq]
  refine ⟨?_, rfl, rfl⟩
  split
  · next hle => exact (Nat.div_eq_of_lt (ha.trans_le (Nat.pow_le_pow_right (by decide) hle))).symm
  · rfl

end

/-- A shift by the width or more leaves only the sign. -/
theorem ediv_two_pow_of_le {x : Int} {w n : Nat} (hlo : -(2 ^ w) ≤ x) (hhi : x < 2 ^ w) (hn : w ≤ n) :
    x / 2 ^ n = if x < 0 then -1 else 0 := by
  have hle : (2 : Int) ^ w ≤ 2 ^ n := pow_le_pow_right₀ (by decide) hn
  have hpos : (0 : Int) < 2 ^ n := by positivity
  split
  · next hneg =>
    refine Int.ediv_eq_iff_of_pos hpos |>.mpr ?_
    constructor <;> omega
  · exact Int.ediv_eq_zero_of_lt (by omega) (by omega)

theorem aluSar_eq {sg : Bool} {w a b : Nat} (hw : 0 < w) (ha : a < 2 ^ w) (hb : b < 2 ^ w) :
    aluSar sg w a b = ⟨((BitVec.ofNat w a).sshiftRight (BitVec.ofNat w b).toNat).toNat, false, false⟩ := by
  obtain ⟨hlo, hhi⟩ := tInt_bounds (sg := true) hw ha
  have hhalf : (2 : Int) ^ (w - 1) ≤ 2 ^ w := pow_le_pow_right₀ (by decide) (Nat.sub_le ..)
  have hdiv : tInt true w a / 2 ^ min b w = tInt true w a / 2 ^ b := by
    rcases Nat.le_total b w with hle | hle
    · rw [Nat.min_eq_left hle]
    · simp only [if_true] at hlo hhi
      rw [Nat.min_eq_right hle, ediv_two_pow_of_le (w := w) (by omega) (by omega) le_rfl,
        ediv_two_pow_of_le (w := w) (by omega) (by omega) hle]
  have hval : wrapI w (sInt w a / 2 ^ min b w) = ((BitVec.ofNat w a).sshiftRight b).toNat := by
    rw [BitVec.sshiftRight, BitVec.toNat_ofInt, Int.shiftRight_eq_div_pow, ← sInt_eq_toInt hw ha, wrapI]
    exact_mod_cast congrArg (fun x : Int => (x % 2 ^ w).toNat) hdiv
  rw [BitVec.toNat_ofNat, Nat.mod_eq_of_lt hb, aluSar, hval]

theorem aluRot_eq {sg : Bool} {w a b : Nat} (hw : 0 < w) (ha : a < 2 ^ w) (hb : b < 2 ^ w) :
    aluRot sg w a b = ⟨((BitVec.ofNat w a).rotateLeft ((BitVec.ofNat w b).toNat % w)).toNat, false, false⟩ := by
  have hr : b % w < w := Nat.mod_lt _ hw
  have hsplit : 2 ^ w = 2 ^ (b % w) * 2 ^ (w - b % w) := by rw [← pow_add, Nat.add_sub_cancel' hr.le]
  have hhigh : a * 2 ^ (b % w) % 2 ^ w = 2 ^ (b % w) * (a % 2 ^ (w - b % w)) := by
    rw [hsplit, Nat.mul_comm a, Nat.mul_mod_mul_left]
  have hlow : a / 2 ^ (w - b % w) < 2 ^ (b % w) := Nat.div_lt_of_lt_mul (by rwa [Nat.mul_comm, ← hsplit])
  rw [BitVec.toNat_rotateLeft, BitVec.toNat_ofNat, BitVec.toNat_ofNat, Nat.mod_eq_of_lt ha, Nat.mod_eq_of_lt hb,
    Nat.mod_mod, Nat.shiftLeft_eq, Nat.shiftRight_eq_div_pow, hhigh, ← Nat.two_pow_add_eq_or_of_lt hlow, ← hhigh,
    aluRot]

/-- Settles O18: the lane-wise frame with each operation, whose value and flags are those of its own equation. -/
theorem integerTwoOperands : Obligations.IntegerTwoOperands := by
  unfold Obligations.IntegerTwoOperands
  refine ⟨?_, ?_, ?_⟩
  · intro s t f w sg i r h hw hpos hsg hwr ha hb hi
    obtain ⟨op, hx, hop⟩ : ∃ op, exec i s = int2 f s op ∧ ∀ a b, a < 2 ^ w → b < 2 ^ w →
        op sg w a b = ⟨wrapI w (r a b).1, (r a b).2.1, (r a b).2.2⟩ := by
      simp only [List.mem_cons, Prod.mk.injEq, List.not_mem_nil, or_false] at hi
      rcases hi with ⟨rfl, rfl⟩ | ⟨rfl, rfl⟩ | ⟨rfl, rfl⟩ | ⟨rfl, rfl⟩ | ⟨rfl, rfl⟩ | ⟨rfl, rfl⟩ | ⟨rfl, rfl⟩
      · exact ⟨aluAdd, rfl, fun _ _ => aluAdd_eq hpos⟩
      · exact ⟨aluSub, rfl, fun _ _ => aluSub_eq hpos⟩
      · exact ⟨aluMul, rfl, fun _ _ => aluMul_eq hpos⟩
      · exact ⟨aluMulh, rfl, fun _ _ => aluMulh_eq hpos⟩
      · exact ⟨aluAdds, rfl, fun _ _ => aluAdds_eq hpos⟩
      · exact ⟨aluMin, rfl, fun _ _ => aluMin_eq hpos⟩
      · exact ⟨aluMax, rfl, fun _ _ => aluMax_eq hpos⟩
    exact hx.trans (int2_next (val := fun a b => wrapI w (r a b).1) (c := fun a b => (r a b).2.1)
      (v := fun a b => (r a b).2.2) h hsg hw hwr ha hb hop)
  · intro s t f w sg i r h hw hpos hsg hwr ha hb hi
    obtain ⟨op, hx, hop⟩ : ∃ op, exec i s = int2 f s op ∧ ∀ a b, a < 2 ^ w → b < 2 ^ w →
        op sg w a b = ⟨wrapI w (r a b), false, b == 0 || (sg && a == 2 ^ (w - 1) && b == 2 ^ w - 1)⟩ := by
      simp only [List.mem_cons, Prod.mk.injEq, List.not_mem_nil, or_false] at hi
      rcases hi with ⟨rfl, rfl⟩ | ⟨rfl, rfl⟩
      · exact ⟨aluDiv, rfl, fun _ _ => aluDiv_eq hpos⟩
      · exact ⟨aluRem, rfl, fun _ _ => aluRem_eq hpos⟩
    exact hx.trans (int2_next (val := fun a b => wrapI w (r a b)) (c := fun _ _ => false)
      (v := fun a b => b == 0 || (sg && a == 2 ^ (w - 1) && b == 2 ^ w - 1)) h hsg hw hwr ha hb hop)
  · intro s t f w sg i r h hw hpos hsg hwr ha hb hi
    obtain ⟨op, hx, hop⟩ : ∃ op, exec i s = int2 f s op ∧ ∀ a b, a < 2 ^ w → b < 2 ^ w →
        op sg w a b = ⟨(r (BitVec.ofNat w a) (BitVec.ofNat w b)).toNat, false, false⟩ := by
      simp only [List.mem_cons, Prod.mk.injEq, List.not_mem_nil, or_false] at hi
      rcases hi with ⟨rfl, rfl⟩ | ⟨rfl, rfl⟩ | ⟨rfl, rfl⟩ | ⟨rfl, rfl⟩ | ⟨rfl, rfl⟩ | ⟨rfl, rfl⟩ | ⟨rfl, rfl⟩ |
        ⟨rfl, rfl⟩
      · exact ⟨aluAnd, rfl, fun _ _ => aluAnd_eq⟩
      · exact ⟨aluOr, rfl, fun _ _ => aluOr_eq⟩
      · exact ⟨aluXor, rfl, fun _ _ => aluXor_eq⟩
      · exact ⟨aluAndn, rfl, fun _ _ => aluAndn_eq⟩
      · exact ⟨aluShl, rfl, fun _ _ => aluShl_eq⟩
      · exact ⟨aluShr, rfl, fun _ _ => aluShr_eq⟩
      · exact ⟨aluSar, rfl, fun _ _ => aluSar_eq hpos⟩
      · exact ⟨aluRot, rfl, fun _ _ => aluRot_eq hpos⟩
    exact hx.trans (int2_next (val := fun a b => (r (BitVec.ofNat w a) (BitVec.ofNat w b)).toNat)
      (c := fun _ _ => false) (v := fun _ _ => false) h hsg hw hwr ha hb hop)

end Sys2Proof.Machine
end

section
/-!
PROOFS. The lane-wise integer instructions of one and three operands (O19).
-/

namespace Sys2Proof.Machine

/-! ### One operand (R167, R175) -/

/-- The opposite of a number leaves the signed range only for the most negative one. -/
theorem outOf_neg_sInt {w a : Nat} (hw : 0 < w) (ha : a < 2 ^ w) :
    outOf true w (0 - sInt w a) = (a == 2 ^ (w - 1)) := by
  have h2 : 2 ^ w = 2 * 2 ^ (w - 1) := by rw [← pow_succ', Nat.sub_add_cancel hw]
  have hfull : (2 : Int) ^ w = ((2 ^ w : Nat) : Int) := by push_cast; rfl
  have hhalf : (2 : Int) ^ (w - 1) = ((2 ^ (w - 1) : Nat) : Int) := by push_cast; rfl
  rw [outOf, if_pos rfl, beq_eq_decide, sInt, hfull, hhalf]
  refine decide_eq_decide.mpr ?_
  split <;> omega

theorem aluAbs_val (sg : Bool) {w a : Nat} (ha : a < 2 ^ w) :
    ((aluAbs sg w a).val : Int) = if a < 2 ^ (w - 1) then (a : Int) else 2 ^ w - a := by
  have hpos : 0 < 2 ^ (w - 1) := Nat.two_pow_pos _
  simp only [aluAbs]
  split
  · rfl
  · rw [Nat.mod_eq_of_lt (by omega), Nat.cast_sub ha.le]
    push_cast
    rfl

theorem aluNeg_eq {sg : Bool} {w a : Nat} (hw : 0 < w) (ha : a < 2 ^ w) :
    aluNeg sg w a = ⟨(2 ^ w - a) % 2 ^ w, a == 0, a == 2 ^ (w - 1)⟩ := by
  have hzero : sInt w 0 = 0 := by
    rw [sInt, if_pos (Nat.two_pow_pos _)]
    rfl
  rw [aluNeg, aluSub, not_fitsS, hzero, outOf_neg_sInt hw ha, Nat.zero_add, IntRes.mk.injEq]
  exact ⟨rfl, by simp [beq_eq_decide], rfl⟩

/-- The position of the highest one, from the top. -/
theorem clz_spec {a n : Nat} (ha : a < 2 ^ n) : (a = 0 → clz a n = n) ∧
    (a ≠ 0 → clz a n < n ∧ 2 ^ (n - 1 - clz a n) ≤ a ∧ a < 2 ^ (n - clz a n)) := by
  induction n with
  | zero => exact ⟨fun _ => rfl, fun h => absurd (by simpa using ha) h⟩
  | succ n ih =>
    rw [clz]
    by_cases hlt : a < 2 ^ n
    · obtain ⟨hz, hn⟩ := ih hlt
      rw [if_neg (by rw [Nat.div_eq_of_lt hlt]; decide)]
      refine ⟨fun h => by rw [hz h, Nat.add_comm], fun h => ?_⟩
      obtain ⟨h1, h2, h3⟩ := hn h
      refine ⟨by omega, ?_, ?_⟩
      · rwa [show n + 1 - 1 - (1 + clz a n) = n - 1 - clz a n by omega]
      · rwa [show n + 1 - (1 + clz a n) = n - clz a n by omega]
    · have hone : a / 2 ^ n = 1 := by
        rw [pow_succ] at ha
        exact Nat.div_eq_of_lt_le (by omega) (by omega)
      rw [if_pos (by rw [hone])]
      have hpos : 0 < 2 ^ n := Nat.two_pow_pos n
      exact ⟨fun h => by omega, fun _ => ⟨by omega, by simpa using Nat.le_of_not_lt hlt, ha⟩⟩

theorem bitrev_lt (a n : Nat) : bitrev a n < 2 ^ n := by
  induction n generalizing a with
  | zero => simp [bitrev]
  | succ n ih =>
    have hhalf := ih (a / 2)
    rw [bitrev, pow_succ]
    rcases Nat.mod_two_eq_zero_or_one a with h | h <;> rw [h] <;> omega

/-- Bit `k` of the reverse is bit `n - 1 - k`. -/
theorem bitrev_testBit {n k : Nat} (a : Nat) (hk : k < n) : (bitrev a n).testBit k = a.testBit (n - 1 - k) := by
  induction n generalizing a with
  | zero => omega
  | succ n ih =>
    rw [bitrev, Nat.add_comm, Nat.mul_comm, Nat.testBit_two_pow_mul_add _ (bitrev_lt ..)]
    split
    · next hlt =>
      rw [ih _ hlt, Nat.testBit_div_two]
      congr 1
      omega
    · obtain rfl : k = n := by omega
      simp [Nat.testBit_eq_decide_div_mod_eq]

/-! ### Multiply and add (R170) -/

section
variable {sg : Bool} {w a b c : Nat} (hw : 0 < w) (ha : a < 2 ^ w) (hb : b < 2 ^ w)
include hw ha hb

theorem aluMad_eq (hc : c < 2 ^ w) : aluMad sg w a b c = ⟨(a * b + c) % 2 ^ w, false,
    outOf sg w (valueOf sg w a * valueOf sg w b + valueOf sg w c)⟩ := by
  rw [aluMad, not_fitsT, tInt_eq_valueOf hw ha, tInt_eq_valueOf hw hb, tInt_eq_valueOf hw hc]

theorem aluMadw_eq (hc : c < 2 ^ (2 * w)) : aluMadw sg w a b c =
    ⟨wrapI (2 * w) (valueOf sg w a * valueOf sg w b + valueOf sg (2 * w) c), false,
      outOf sg (2 * w) (valueOf sg w a * valueOf sg w b + valueOf sg (2 * w) c)⟩ := by
  rw [aluMadw, not_fitsT, tInt_eq_valueOf hw ha, tInt_eq_valueOf hw hb, tInt_eq_valueOf (by omega) hc]

end

/-! ### Fields (R169) -/

/-- A field with its sign or zeros above it. -/
theorem extend_lt {sg : Bool} {n w v : Nat} (hn : n ≤ w) (hv : v < 2 ^ n) : extend sg n w v < 2 ^ w := by
  have hle : 2 ^ n ≤ 2 ^ w := Nat.pow_le_pow_right (by decide) hn
  unfold extend
  split <;> omega

theorem extend_testBit {sg : Bool} {n w v k : Nat} (h0 : 0 < n) (hn : n ≤ w) (hv : v < 2 ^ n) (hk : k < w) :
    (extend sg n w v).testBit k = if k < n then v.testBit k else sg && v.testBit (n - 1) := by
  have hsplit : 2 ^ w - 2 ^ n = 2 ^ n * (2 ^ (w - n) - 1) := by
    rw [Nat.mul_sub, ← pow_add, Nat.add_sub_cancel' hn, Nat.mul_one]
  have htop : 2 ^ (n - 1) ≤ v ↔ v.testBit (n - 1) = true :=
    ⟨fun h => Nat.testBit_of_two_pow_le_and_two_pow_add_one_gt h (by rwa [Nat.sub_add_cancel h0]),
      Nat.ge_two_pow_of_testBit⟩
  have hhigh : ¬ k < n → v.testBit k = false := fun h =>
    Nat.testBit_lt_two_pow (hv.trans_le (Nat.pow_le_pow_right (by decide) (Nat.le_of_not_lt h)))
  unfold extend
  by_cases hc : sg = true ∧ 2 ^ (n - 1) ≤ v
  · rw [if_pos hc, hsplit, Nat.add_comm, Nat.testBit_two_pow_mul_add _ hv, Nat.testBit_two_pow_sub_one]
    simp only [hc.1, htop.mp hc.2]
    split
    · rfl
    · exact decide_eq_true (by omega)
  · rw [if_neg hc]
    split
    · rfl
    · next h =>
      rw [hhigh h]
      rw [htop] at hc
      simpa using hc

/-- The position of a field is the low byte of its operand. -/
theorem fld_position (p : Nat) : fld p 0 8 = p % 256 := by
  rw [fld, pow_zero, Nat.div_one]
  rfl

/-- The length of a field is the second byte of its operand, cut to the width. -/
theorem fieldLen_eq (w p : Nat) : fieldLen w p = min (p / 256 % 256) (w - p % 256) := by
  rw [fieldLen, fld_position]
  rfl

/-- BFX raises no flag (R175). -/
theorem aluBfx_eq (sg : Bool) (w a p : Nat) : aluBfx sg w a p = ⟨(aluBfx sg w a p).val, false, false⟩ := by
  simp only [aluBfx]
  split <;> rfl

/-- BFI raises no flag (R175). -/
theorem aluBfi_eq (sg : Bool) (w a b p : Nat) : aluBfi sg w a b p = ⟨(aluBfi sg w a b p).val, false, false⟩ := by
  simp only [aluBfi]
  split <;> rfl

/-- BFX within the width: the field's bits, and above them zeros or its sign. -/
theorem aluBfx_field {sg : Bool} {w a p n : Nat} (hn : n = min (p / 256 % 256) (w - p % 256)) :
    ((w ≤ p % 256 ∨ n = 0) → (aluBfx sg w a p).val = 0) ∧
    (p % 256 < w → 0 < n → (aluBfx sg w a p).val < 2 ^ w ∧ ∀ k, k < w →
      ((aluBfx sg w a p).val).testBit k =
        if k < n then a.testBit (p % 256 + k) else (sg && a.testBit (p % 256 + n - 1))) := by
  have hlen : fieldLen w p = n := (fieldLen_eq w p).trans hn.symm
  simp only [aluBfx, fld_position, hlen]
  constructor
  · intro h
    rw [if_pos h]
  · intro hp h0
    have hbit (k : Nat) (hk : k < n) : (fld a (p % 256) n).testBit k = a.testBit (p % 256 + k) := by
      rw [fld, Nat.testBit_mod_two_pow, Nat.testBit_div_two_pow, decide_eq_true hk, Bool.true_and, Nat.add_comm]
    have hlt : fld a (p % 256) n < 2 ^ n := Nat.mod_lt _ (Nat.two_pow_pos n)
    rw [if_neg (by omega)]
    refine ⟨extend_lt (by omega) hlt, fun k hk => ?_⟩
    rw [extend_testBit h0 (by omega) hlt hk]
    split
    · next h => exact hbit k h
    · rw [hbit _ (by omega), Nat.add_sub_assoc h0]

/-- BFI puts the low bits of `b` into the field and keeps the rest of `a`. -/
theorem aluBfi_field {sg : Bool} {w a b p n : Nat} (hn : n = min (p / 256 % 256) (w - p % 256)) :
    ((w ≤ p % 256 ∨ n = 0) → (aluBfi sg w a b p).val = a) ∧
    (p % 256 < w → 0 < n → ∀ k, ((aluBfi sg w a b p).val).testBit k =
      if p % 256 ≤ k ∧ k < p % 256 + n then b.testBit (k - p % 256) else a.testBit k) := by
  have hlen : fieldLen w p = n := (fieldLen_eq w p).trans hn.symm
  simp only [aluBfi, fld_position, hlen]
  constructor
  · intro h
    rw [if_pos h]
  · intro hp h0 k
    rw [if_neg (by omega)]
    exact packInto_testBit n (p % 256) b a k

/-! ### The instructions -/

section
variable {s : State} {t : Thread} {f : Std} {w : Nat} {sg : Bool} (h : s.At t) (hw : w = tyBits f.xty f.ty)
  (hsg : sg = tySigned f.xty f.ty) (ha : t.canRead f.a (regsOf w) = .ok ⟨⟩) (hb : t.canRead f.b (regsOf w) = .ok ⟨⟩)
include h hw hsg ha hb

theorem exec_imad (hpos : 0 < w) (hwr : t.canWrite f.dst.toNat (regsOf w) = .ok ⟨⟩)
    (hc : t.canRead f.c (regsOf w) = .ok ⟨⟩) :
    exec (.imad f) s = .next (s.after t (t.gotInt f sg w
      (fun k => (t.opnd f.a (regsOf w) w k * t.opnd f.b (regsOf w) w k + t.opnd f.c (regsOf w) w k) % 2 ^ w)
      (fun _ => false)
      (fun k => outOf sg w (valueOf sg w (t.opnd f.a (regsOf w) w k) * valueOf sg w (t.opnd f.b (regsOf w) w k) +
        valueOf sg w (t.opnd f.c (regsOf w) w k)))).advance) := by
  have hx : exec (.imad f) s = intOp f s [.ofTy f.a w, .ofTy f.b w, .ofTy f.c w] w fun xs =>
      aluMad sg w (xs.getD 0 0) (xs.getD 1 0) (xs.getD 2 0) := by
    rw [hw, hsg]
    rfl
  rw [hx]
  exact intOp_next h hsg hwr (by simp [Src.ofTy, ha, hb, hc]) fun k =>
    aluMad_eq hpos (t.opnd_lt ..) (t.opnd_lt ..) (t.opnd_lt ..)

theorem exec_imadw (hpos : 0 < w) (hwr : t.canWrite f.dst.toNat (regsOf (2 * w)) = .ok ⟨⟩)
    (hc : t.canRead f.c (regsOf (2 * w)) = .ok ⟨⟩) :
    exec (.imadw f) s = .next (s.after t (t.gotInt f sg (2 * w)
      (fun k => wrapI (2 * w) (valueOf sg w (t.opnd f.a (regsOf w) w k) * valueOf sg w (t.opnd f.b (regsOf w) w k) +
        valueOf sg (2 * w) (t.opnd f.c (regsOf (2 * w)) (2 * w) k)))
      (fun _ => false)
      (fun k => outOf sg (2 * w) (valueOf sg w (t.opnd f.a (regsOf w) w k) * valueOf sg w (t.opnd f.b (regsOf w) w k) +
        valueOf sg (2 * w) (t.opnd f.c (regsOf (2 * w)) (2 * w) k)))).advance) := by
  have hx : exec (.imadw f) s = intOp f s [.ofTy f.a w, .ofTy f.b w, .ofTy f.c (2 * w)] (2 * w) fun xs =>
      aluMadw sg w (xs.getD 0 0) (xs.getD 1 0) (xs.getD 2 0) := by
    rw [hw, hsg]
    rfl
  rw [hx]
  exact intOp_next h hsg hwr (by simp [Src.ofTy, ha, hb, hc]) fun k =>
    aluMadw_eq hpos (t.opnd_lt ..) (t.opnd_lt ..) (t.opnd_lt ..)

theorem exec_bfx (hwr : t.canWrite f.dst.toNat (regsOf w) = .ok ⟨⟩) :
    exec (.bfx f) s = .next (s.after t (t.gotInt f sg w
      (fun k => (aluBfx sg w (t.opnd f.a (regsOf w) w k) (t.opnd f.b (regsOf w) 32 k)).val)
      (fun _ => false) (fun _ => false)).advance) := by
  have hx : exec (.bfx f) s = intOp f s [.ofTy f.a w, .pos f.b w] w fun xs =>
      aluBfx sg w (xs.getD 0 0) (xs.getD 1 0) := by
    rw [hw, hsg]
    rfl
  rw [hx]
  exact intOp_next h hsg hwr (by simp [Src.ofTy, Src.pos, ha, hb]) fun k => aluBfx_eq ..

theorem exec_bfi (hwr : t.canWrite f.dst.toNat (regsOf w) = .ok ⟨⟩) (hc : t.canRead f.c (regsOf w) = .ok ⟨⟩) :
    exec (.bfi f) s = .next (s.after t (t.gotInt f sg w
      (fun k => (aluBfi sg w (t.opnd f.a (regsOf w) w k) (t.opnd f.b (regsOf w) w k) (t.opnd f.c (regsOf w) 32 k)).val)
      (fun _ => false) (fun _ => false)).advance) := by
  have hx : exec (.bfi f) s = intOp f s [.ofTy f.a w, .ofTy f.b w, .pos f.c w] w fun xs =>
      aluBfi sg w (xs.getD 0 0) (xs.getD 1 0) (xs.getD 2 0) := by
    rw [hw, hsg]
    rfl
  rw [hx]
  exact intOp_next h hsg hwr (by simp [Src.ofTy, Src.pos, ha, hb, hc]) fun k => aluBfi_eq ..

end

/-- Settles O19: each instruction by its operation, and what the operation makes of its operands. -/
theorem integerOtherForms : Obligations.IntegerOtherForms := by
  unfold Obligations.IntegerOtherForms
  constructor
  · intro s t f w sg h hw hpos hsg hwr ha
    refine ⟨fun a => (aluAbs sg w a).val, fun a => (2 ^ w - a) % 2 ^ w, fun a => popcount a w, fun a => clz a w,
      fun a => bitrev a w, ?_, ?_, ?_, ?_, ?_, ?_⟩
    · exact int1_next (op := aluAbs) (val := fun a => (aluAbs sg w a).val) (c := fun _ => false)
        (v := fun a => a == 2 ^ (w - 1)) h hsg hw hwr ha fun _ _ => rfl
    · exact int1_next (op := aluNeg) (val := fun a => (2 ^ w - a) % 2 ^ w) (c := fun a => a == 0)
        (v := fun a => a == 2 ^ (w - 1)) h hsg hw hwr ha fun _ => aluNeg_eq hpos
    · exact int1_next (op := aluPopc) (val := fun a => popcount a w) (c := fun _ => false) (v := fun _ => false)
        h hsg hw hwr ha fun _ _ => rfl
    · exact int1_next (op := aluClz) (val := fun a => clz a w) (c := fun _ => false) (v := fun _ => false)
        h hsg hw hwr ha fun _ _ => rfl
    · exact int1_next (op := aluBrev) (val := fun a => bitrev a w) (c := fun _ => false) (v := fun _ => false)
        h hsg hw hwr ha fun _ _ => rfl
    · intro a hlt
      obtain ⟨hzero, hone⟩ := clz_spec hlt
      exact ⟨aluAbs_val sg hlt, rfl, popcount_eq a w, hzero, hone, bitrev_lt a w, fun k => bitrev_testBit a⟩
  · intro s t f w sg h hw hpos hsg ha hb
    refine ⟨exec_imad h hw hsg ha hb hpos, exec_imadw h hw hsg ha hb hpos, fun hwr => ?_, fun hwr hc => ?_⟩
    · exact ⟨fun a p => (aluBfx sg w a p).val, exec_bfx h hw hsg ha hb hwr, fun a p n => aluBfx_field⟩
    · exact ⟨fun a b p => (aluBfi sg w a b p).val, exec_bfi h hw hsg ha hb hwr hc, fun a b p n => aluBfi_field⟩

end Sys2Proof.Machine
end

section
/-!
PROOFS. ICMP, SEL, MOV, MOVI, WIDX and LEA (O20, O21).
-/

namespace Sys2Proof.Machine

/-! ### Extension of signed fields (R166) -/

/-- A signed field extended to a wider word stands for the same number there. -/
theorem extend_modEq {n d : Nat} (hn : 0 < n) (hd : n ≤ d) (x : BitVec n) :
    x.toInt ≡ extend true n d x.toNat [ZMOD 2 ^ d] := by
  have hlt : x.toNat < 2 ^ n := x.isLt
  have hle : 2 ^ n ≤ 2 ^ d := Nat.pow_le_pow_right (by decide) hd
  have hint : x.toInt = sInt n x.toNat := by rw [sInt_eq_toInt hn hlt, BitVec.ofNat_toNat, BitVec.setWidth_eq]
  rw [hint, sInt, extend]
  by_cases h : x.toNat < 2 ^ (n - 1)
  · rw [if_pos h, if_neg (by omega)]
  · rw [if_neg h, if_pos ⟨rfl, by omega⟩]
    refine (Int.modEq_iff_dvd.mpr ⟨1, ?_⟩)
    push_cast [Nat.cast_sub hle]
    ring

/-- The low bits of a number are those of any number that agrees with it modulo 2^w. -/
theorem wrapI_of_modEq {w n : Nat} {x : Int} (h : x ≡ n [ZMOD 2 ^ w]) : wrapI w x = n % 2 ^ w := by
  rw [← wrapI_natCast, wrapI, wrapI, h]

/-! ### ICMP (R171) -/

theorem tyBits_pos (xty : BitVec 1) (ty : BitVec 4) : 0 < tyBits xty ty := by
  revert xty ty
  decide

/-- The comparison of ICMP, by OP (R122). -/
theorem intCmp_eq {op : Nat} (ho : op < 6) (x y : Int) : intCmp op x y =
    [decide (x = y), decide (x ≠ y), decide (x < y), decide (x ≤ y), decide (y < x), decide (y ≤ x)].getD op false := by
  interval_cases op
  · exact beq_eq_decide x y
  · exact (congrArg not (beq_eq_decide x y)).trans decide_not.symm
  · rfl
  · rfl
  · rfl
  · rfl

/-- ICMP writes the lanes of EM whose comparison holds, and CC. -/
theorem exec_icmp {s : State} {t : Thread} {f : Std} {w : Nat} {sg : Bool} (h : s.At t) (hw : w = tyBits f.xty f.ty)
    (hsg : sg = tySigned f.xty f.ty) (ha : t.canRead f.a (regsOf w) = .ok ⟨⟩) (hb : t.canRead f.b (regsOf w) = .ok ⟨⟩)
    {m : BitVec 64} (hm : m = t.laneMaskOf fun k => intCmp f.op.toNat (valueOf sg w (t.opnd f.a (regsOf w) w k))
      (valueOf sg w (t.opnd f.b (regsOf w) w k))) :
    exec (.icmp f) s = .next (s.after t ((t.setMask f.dst.toNat m).setCC
      { z := decide (m = 0), t := decide (m = t.regs.em) }).advance) := by
  have hpos : 0 < w := hw ▸ tyBits_pos f.xty f.ty
  have hval (o : Opnd) (k : Nat) : valueOf sg w (t.opnd o (regsOf w) w k) = tInt sg w (t.opnd o (regsOf w) w k) :=
    (tInt_eq_valueOf hpos (t.opnd_lt ..)).symm
  have hall : t.canReadAll [.ofTy f.a w, .ofTy f.b w] = .ok ⟨⟩ := Thread.canReadAll_ok (by simp [Src.ofTy, ha, hb])
  simp only [hval] at hm
  rw [← maskFlags_eq]
  subst hw hsg hm
  refine run_done h ?_ (by simp) (by simp)
  simp only [hall, bind, Except.bind]
  rfl

/-! ### SEL, MOV and MOVI (R171, R172) -/

theorem exec_mov {s : State} {t : Thread} {f : Std} {w : Nat} (h : s.At t) (hw : w = tyBits f.xty f.ty)
    (hwr : t.canWrite f.dst.toNat (regsOf w) = .ok ⟨⟩) (ha : t.canRead f.a (regsOf w) = .ok ⟨⟩) :
    exec (.mov f) s = .next (s.after t
      (t.put f.dst.toNat (regsOf w) (tySigned f.xty f.ty) w fun k => t.opnd f.a (regsOf w) w k).advance) := by
  subst hw
  refine run_done h ?_ (by simp) (by simp)
  simp only [hwr, ha, bind, Except.bind]

theorem exec_sel {s : State} {t : Thread} {f : Std} {w : Nat} (h : s.At t) (hw : w = tyBits f.xty f.ty)
    (hwr : t.canWrite f.dst.toNat (regsOf w) = .ok ⟨⟩) (ha : t.canRead f.a (regsOf w) = .ok ⟨⟩)
    (hb : t.canRead f.b (regsOf w) = .ok ⟨⟩) :
    exec (.sel f) s = .next (s.after t (t.put f.dst.toNat (regsOf w) (tySigned f.xty f.ty) w fun k =>
      if (t.mask f.c.reg.toNat).getLsbD k then t.opnd f.a (regsOf w) w k else t.opnd f.b (regsOf w) w k).advance) := by
  have hall : t.canReadAll [.ofTy f.a w, .ofTy f.b w] = .ok ⟨⟩ := Thread.canReadAll_ok (by simp [Src.ofTy, ha, hb])
  subst hw
  refine run_done h ?_ (by simp) (by simp)
  simp only [hwr, hall, bind, Except.bind]
  rfl

/-- The immediate of MOVI in the width of the type. -/
theorem movi_val (sg : Bool) (x : BitVec 32) {w : Nat} (hw : w ≤ 64) :
    extend sg 32 64 x.toNat % 2 ^ w = wrapI w (if sg then x.toInt else x.toNat) := by
  cases sg
  · rw [extend_false]
    exact (wrapI_natCast w x.toNat).symm
  · exact (wrapI_of_modEq ((extend_modEq (by decide) (by decide) x).of_dvd (pow_dvd_pow 2 hw))).symm

theorem exec_movi {s : State} {t : Thread} {f : I32} {w : Nat} (h : s.At t) (hw : w = tyBits f.xty f.ty) (hle : w ≤ 64)
    (hwr : t.canWrite f.dst.toNat (regsOf w) = .ok ⟨⟩) :
    exec (.movi f) s = .next (s.after t (t.put f.dst.toNat (regsOf w) (tySigned f.xty f.ty) w fun _ =>
      wrapI w (if tySigned f.xty f.ty then f.imm.toInt else f.imm.toNat)).advance) := by
  subst hw
  refine run_done h ?_ (by simp) (by simp)
  simp only [hwr, movi_val _ _ hle, bind, Except.bind]

/-! ### WIDX (R174) -/

theorem exec_widx {s : State} {t : Thread} {f : Std} {w k : Nat} (h : s.At t) (hw : w = tyBits f.xty f.ty)
    (hwr : t.canWrite f.dst.toNat (regsOf w) = .ok ⟨⟩) (hk : k < 8) (hx : f.xt.toNat = k ∨ f.xt.toNat = k + 8) :
    exec (.widx f) s = .next (s.after t (t.put f.dst.toNat (regsOf w) false w fun i =>
      (if f.xt.toNat = k + 8 then (s.hdrOf t).extent k else (s.hdrOf t).field t.gidx (s.wgOf t).ord i k) %
        2 ^ w).advance) := by
  have hfield : f.xt.toNat % 8 = k := by omega
  have hext : f.xt.getLsbD 3 = decide (f.xt.toNat = k + 8) := by
    rw [getLsbD_xt]
    exact decide_eq_decide.mpr (by omega)
  subst hw
  refine run_done h ?_ (by simp) (by simp)
  simp only [hwr, hfield, hext, bind, Except.bind, decide_eq_true_eq]

/-- Settles O20: each instruction by its equation; the mask of ICMP is read lane by lane. -/
theorem comparesMovesAndFields : Obligations.ComparesMovesAndFields := by
  unfold Obligations.ComparesMovesAndFields
  refine ⟨?_, ?_, ?_⟩
  · intro s t f w sg h hw hsg ha hb hop hside hwidth
    refine ⟨_, fun k => ?_, exec_icmp h hw hsg ha hb rfl⟩
    rw [Thread.laneMaskOf_getLsbD hside hwidth, intCmp_eq hop]
  · intro s t f g h
    refine ⟨fun w hw hwr ha => ⟨exec_mov h hw hwr ha, exec_sel h hw hwr ha⟩, fun w hw hle hwr => ?_⟩
    exact exec_movi h hw hle hwr
  · rintro s t f w k _ h - hxty hw hty hwr rfl hx hk
    have hbits : w = tyBits f.xty f.ty := by
      rw [hw, hxty]
      rcases hty with hty | hty <;> rw [hty] <;> rfl
    exact exec_widx h hbits hwr (by omega) hx

/-! ### LEA (R111, R173) -/

/-- The address of a lane is the sum of base, scaled index and offset modulo 2^64 (R111). -/
theorem Thread.memAddr_eq (t : Thread) (f : Mem) (k : Nat) : t.memAddr f k = wrapI 64
    ((t.regs.g.get f.gb.toNat).toNat +
      (if f.isx = 1 then (BitVec.ofNat 32 (t.opnd f.ix 1 32 k)).toInt else t.opnd f.ix 1 32 k) * 2 ^ f.sh.toNat +
      f.ofs.toInt) := by
  have hidx : (if f.isx = 1 then (BitVec.ofNat 32 (t.opnd f.ix 1 32 k)).toInt else t.opnd f.ix 1 32 k) ≡
      ((if f.isx = 1 then extend true 32 64 (t.opnd f.ix 1 32 k) else t.opnd f.ix 1 32 k : Nat) : Int)
      [ZMOD 2 ^ 64] := by
    have hword : (BitVec.ofNat 32 (t.opnd f.ix 1 32 k)).toNat = t.opnd f.ix 1 32 k :=
      Nat.mod_eq_of_lt (t.opnd_lt ..)
    have hext := extend_modEq (d := 64) (by decide) (by decide) (BitVec.ofNat 32 (t.opnd f.ix 1 32 k))
    rw [hword] at hext
    split
    · exact hext
    · rfl
  have hofs : f.ofs.toInt ≡ (ofs64 f.ofs : Int) [ZMOD 2 ^ 64] := extend_modEq (by decide) (by decide) f.ofs
  refine (wrapI_of_modEq ?_).symm
  rw [Nat.cast_add, Nat.cast_add, Nat.cast_mul, Nat.cast_pow]
  exact ((hidx.mul_right _).add_left _).add hofs

theorem exec_lea {s : State} {t : Thread} {f : Mem} (h : s.At t) (hwr : t.canWrite f.dst.toNat 2 = .ok ⟨⟩)
    (hg : t.canReadG f.gb.toNat = .ok ⟨⟩) (hix : t.canRead f.ix 1 = .ok ⟨⟩) :
    exec (.lea f) s = .next (s.after t (t.put f.dst.toNat 2 false 64 (t.memAddr f)).advance) := by
  refine run_done h ?_ (by simp) (by simp)
  simp only [hwr, Thread.canAddr, hg, hix, bind, Except.bind]

/-- A position that is not used holds the zero operand. -/
theorem srcRsvOk_none (e : Side) (o : Opnd) (n : Nat) : srcRsvOk e o .none n = (o == .zero) := by
  cases e <;> rfl

/-- A destination that may be a V or a G register, on the wide side. -/
theorem dstOk_wide (f : Fields) (n : Nat) : dstOk .wide f .vg n =
    (decide (f.dst < 128) && vOk .wide f.dst n || decide (128 ≤ f.dst ∧ f.dst ≤ 143)) := rfl

/-- The shape of LEA: its data operand is not used, and its destination spans the registers of Z64. -/
theorem shapeOf_lea (f : Mem) : shapeOf (.lea f) = { tys := [(false, 7)], dst := (.vg, .ty), b := (.any, .one) } := rfl

/-- The fields of a legal LEA (R110, R173). -/
theorem lea_fieldsOk {f : Mem} {e : Side} (h : (Instr.lea f).fieldsOk e = true) :
    f.a = .zero ∧ f.fpc = 0 ∧ f.hint = 0 ∧ f.op = 0 ∧ f.xty = 0 ∧ f.ty = 7 ∧
      (e = .wide → (f.dst.toNat < 128 ∧ f.dst.toNat % 2 = 0) ∨ (128 ≤ f.dst.toNat ∧ f.dst.toNat < 144)) := by
  have hrsv : rsvOk e (shapeOf (.lea f)) f.fields = true := h
  simp only [shapeOf_lea, rsvOk, Bool.and_eq_true] at hrsv
  obtain ⟨⟨⟨⟨⟨⟨⟨⟨⟨⟨opOk, tyOk⟩, hdst⟩, aOk⟩, -⟩, -⟩, fpcIsZero⟩, -⟩, -⟩, hintOk⟩, -⟩ := hrsv
  have hop : f.op = 0 := by simpa [Mem.fields, BitVec.toNat_eq] using opOk
  obtain ⟨hone, hty⟩ : f.xty.toNat ≠ 1 ∧ f.ty = 7 := by simpa [Mem.fields, BitVec.toNat_eq] using tyOk
  have hxty : f.xty = 0 := by
    have hlt : f.xty.toNat < 2 := f.xty.isLt
    have hzero : f.xty.toNat = 0 := by omega
    exact BitVec.eq_of_toNat_eq hzero
  have ha : f.a = .zero := by simpa [Mem.fields, Extra.ownsA, srcRsvOk_none] using aOk
  have hfpc : f.fpc = 0 := by simpa [Mem.fields] using fpcIsZero
  have hhint : f.hint = 0 := by simpa [Mem.fields, BitVec.toNat_eq] using hintOk
  refine ⟨ha, hfpc, hhint, hop, hxty, hty, ?_⟩
  rintro rfl
  have hspan : Span.regs f.fields .ty = 2 := by simp [Span.regs, Mem.fields, hty, hxty, typeBits, regsOf]
  simp only [hspan, dstOk_wide, vOk, Bool.or_eq_true, Bool.and_eq_true, decide_eq_true_eq, beq_iff_eq] at hdst
  obtain ⟨hlt, heven, -⟩ | ⟨hge, hle⟩ := hdst
  · exact .inl ⟨hlt, heven⟩
  · exact .inr ⟨hge, Nat.lt_succ_of_le hle⟩

/-- Settles O21: LEA writes the address of every lane, and its shape leaves no other field free. -/
theorem leaWritesTheAddress : Obligations.LeaWritesTheAddress := by
  unfold Obligations.LeaWritesTheAddress
  intro s t f h _
  refine ⟨fun hwr hg hix => (exec_lea h hwr hg hix).trans ?_, fun e he => lea_fieldsOk he⟩
  rw [funext (t.memAddr_eq f)]
  rfl

end Sys2Proof.Machine
end

section
/-!
PROOFS. CALL and RET (O9), EXIT (O10) and SRET (O14).
-/

namespace Sys2Proof.Machine

/-! ### CALL (R152) -/

/-- The target of a branch is its line offset and slot from the line of the instruction, modulo 2^64 (R112). -/
theorem brTarget_eq {pc target : Nat} {f : Br}
    (h : (target : Int) = ((lineOf pc : Int) + 64 * f.lofs.toInt + 12 * (f.tslot.toNat : Int)) % 2 ^ 64) :
    brTarget pc f = target := by
  have hlofs : 64 * f.lofs.toInt ≡ (extend true 22 58 f.lofs.toNat * 64 : Nat) [ZMOD 2 ^ 64] := by
    rw [Nat.mul_comm, Nat.cast_mul]
    exact (extend_modEq (d := 58) (by decide) (by decide) f.lofs).mul_left' (c := 64)
  have hsum : (lineOf pc : Int) + 64 * f.lofs.toInt + 12 * (f.tslot.toNat : Int) ≡
      (lineOf pc + extend true 22 58 f.lofs.toNat * 64 + 12 * f.tslot.toNat : Nat) [ZMOD 2 ^ 64] := by
    rw [Nat.cast_add, Nat.cast_add, Nat.cast_mul 12]
    exact (hlofs.add_left _).add_right _
  rw [brTarget, ← wrapI_of_modEq hsum, wrapI, ← h, Int.toNat_natCast]

theorem nextPc_lt (pc : W64) : nextPc pc.toNat < 2 ^ 64 := by
  have hlt : pc.toNat < 2 ^ 64 := pc.isLt
  unfold nextPc slotOf
  split
  · omega
  · exact Nat.mod_lt _ (Nat.two_pow_pos 64)

/-- What CALL stores below STKP in the stack of each lane: the return address, and zero above it. -/
def Thread.callFields (t : Thread) (ret : Nat) : List ByteField :=
  t.all.flatMap fun i => [⟨4096 * i + t.regs.stkp - 16, 8, ret⟩, ⟨4096 * i + t.regs.stkp - 8, 8, 0⟩]

theorem callStores_eq_putFields (t : Thread) (ret : Nat) :
    callStores t ret = Store.putFields t.stack (t.callFields ret) := by
  simp only [callStores, Store.putFields, Thread.callFields, List.foldl_flatMap, List.foldl_cons, List.foldl_nil]

theorem Thread.mem_callFields {t : Thread} {ret : Nat} {e : ByteField} : e ∈ t.callFields ret ↔ ∃ i, i < t.width ∧
    (e = ⟨4096 * i + t.regs.stkp - 16, 8, ret⟩ ∨ e = ⟨4096 * i + t.regs.stkp - 8, 8, 0⟩) := by
  simp only [Thread.callFields, Thread.all, List.mem_flatMap, List.mem_range, List.mem_cons, List.not_mem_nil, or_false]

/-- The stacks of two lanes share no byte, nor do the two words of a lane. -/
theorem Thread.callFields_pairwise {t : Thread} (hroom : 16 ≤ t.regs.stkp) (hmax : t.regs.stkp ≤ 4096) (ret : Nat) :
    (t.callFields ret).Pairwise ByteField.Apart := by
  simp only [Thread.callFields, List.pairwise_flatMap]
  refine ⟨fun i _ => ?_, List.pairwise_lt_range.imp fun {i j} hij => ?_⟩
  · simp only [List.pairwise_cons, List.mem_singleton, forall_eq, List.not_mem_nil, false_imp_iff, implies_true,
      List.Pairwise.nil, and_true, ByteField.Apart]
    omega
  · intro e he e' he'
    simp only [List.mem_cons, List.not_mem_nil, or_false] at he he'
    rcases he with rfl | rfl <;> rcases he' with rfl | rfl <;> simp only [ByteField.Apart] <;> omega

/-- Bytes outside all fields read as before. -/
theorem Store.get_putFields_outside (m : Memory) {es : List ByteField} {a : Nat}
    (h : ∀ e ∈ es, a < e.addr ∨ e.addr + e.size ≤ a) : (Store.putFields m es).get a = m.get a := by
  induction es generalizing m with
  | nil => rfl
  | cons e es ih =>
    exact (ih (m.putNat e.addr e.size e.val) fun e' he' => h e' (List.mem_cons_of_mem _ he')).trans
      (Store.get_putNat_outside m _ _ _ (h e List.mem_cons_self))

/-- What CALL leaves in the stacks: both words of every lane, and every other byte as it stood. -/
theorem callStores_spec {t : Thread} (hroom : 16 ≤ t.regs.stkp) (hmax : t.regs.stkp ≤ 4096) {ret : Nat}
    (hret : ret < 2 ^ 64) :
    (∀ k, k < t.width → (callStores t ret).getNat (4096 * k + t.regs.stkp - 16) 8 = ret ∧
      (callStores t ret).getNat (4096 * k + t.regs.stkp - 8) 8 = 0) ∧
    ∀ a, (∀ k, k < t.width → a < 4096 * k + t.regs.stkp - 16 ∨ 4096 * k + t.regs.stkp ≤ a) →
      (callStores t ret).get a = t.stack.get a := by
  have hpw := Thread.callFields_pairwise hroom hmax ret
  rw [callStores_eq_putFields]
  refine ⟨fun k hk => ⟨?_, ?_⟩, fun a ha => Store.get_putFields_outside _ fun e he => ?_⟩
  · exact (Store.getNat_putFields_mem t.stack hpw (Thread.mem_callFields.mpr ⟨k, hk, .inl rfl⟩)).trans
      (Nat.mod_eq_of_lt (hret.trans_eq (by norm_num)))
  · exact (Store.getNat_putFields_mem t.stack hpw (Thread.mem_callFields.mpr ⟨k, hk, .inr rfl⟩)).trans
      (Nat.zero_mod _)
  · obtain ⟨k, hk, he⟩ := Thread.mem_callFields.mp he
    have hout := ha k hk
    rcases he with rfl | rfl <;> dsimp only <;> omega

section
variable {s : State} {t : Thread} (h : s.At t) (hb : t.busy = false)
include h hb

theorem exec_call {f : Br} (hroom : 16 ≤ t.regs.stkp) : exec (.call f) s = .next (s.after t
    (({ t with stack := callStores t (nextPc t.at_), regs := { t.regs with stkp := t.regs.stkp - 16 } } : Thread).jump
      (brTarget t.at_ f))) := by
  refine run_doneAt h ?_ rfl rfl
  rw [if_neg (Nat.not_lt.mpr hroom), quiet_ok hb]
  rfl

theorem exec_call_noRoom {f : Br} (hroom : t.regs.stkp < 16) : exec (.call f) s = .next (s.trapped t
    { cls := 6, addr := (0xFFFFFFB000000000 + t.regs.stkp + 2 ^ 64 - 16) % 2 ^ 64, info := 4 }) :=
  run_trap h hb (if_pos hroom)

/-! ### RET (R152, R419) -/

omit h hb in
/-- The line of lane 0's stack that STKP names is poisoned (R419). -/
theorem State.localPoison_stack (s : State) (t : Thread) (o : Nat) :
    s.localPoison t (.stack 0 o) = decide (o / 128 ∈ t.stackPoison) := by
  rw [State.localPoison, Nat.mul_zero, Nat.zero_add, List.contains_eq_mem]

theorem exec_ret_noRoom {f : Std} (hroom : (s.hdrOf t).kstk * 16 < t.regs.stkp + 16) : exec (.ret f) s =
    .next (s.trapped t { cls := 6, addr := (0xFFFFFFB000000000 + t.regs.stkp) % 2 ^ 64, info := 0 }) := by
  refine run_trap h hb ?_
  rw [quiet_ok hb]
  exact if_pos hroom

variable (hroom : t.regs.stkp + 16 ≤ (s.hdrOf t).kstk * 16)
include hroom

theorem exec_ret_poisoned {f : Std} (hp : t.regs.stkp / 128 ∈ t.stackPoison) : exec (.ret f) s =
    .next (s.trapped t { cls := 8, addr := (0xFFFFFFB000000000 + t.regs.stkp) % 2 ^ 64 }) := by
  refine run_trap h hb ?_
  rw [quiet_ok hb]
  exact (if_neg (Nat.not_lt.mpr hroom)).trans (if_pos (by rwa [State.localPoison_stack, decide_eq_true_eq]))

section
variable (hp : t.regs.stkp / 128 ∉ t.stackPoison)
include hp

theorem exec_ret {f : Std} (hslot : startsSlot (t.stack.getNat t.regs.stkp 8) = true) : exec (.ret f) s =
    .next (s.after t (({ t with regs := { t.regs with stkp := t.regs.stkp + 16 } } : Thread).jump
      (t.stack.getNat t.regs.stkp 8))) := by
  refine run_doneAt h ?_ rfl rfl
  rw [quiet_ok hb]
  refine (if_neg (Nat.not_lt.mpr hroom)).trans ((if_neg ?_).trans (if_neg ?_))
  · rwa [State.localPoison_stack, decide_eq_true_eq]
  · simp [hslot]

theorem exec_ret_badAddress {f : Std} (hslot : startsSlot (t.stack.getNat t.regs.stkp 8) = false) :
    exec (.ret f) s = .next (s.trapped t { cls := 1, sub := 3 }) := by
  refine run_trap h hb ?_
  rw [quiet_ok hb]
  refine (if_neg (Nat.not_lt.mpr hroom)).trans ((if_neg ?_).trans (if_pos ?_))
  · rwa [State.localPoison_stack, decide_eq_true_eq]
  · simp [hslot]

end

end

theorem startsSlot_iff (a : Nat) : startsSlot a = true ↔ a % 64 ∈ [0, 12, 24, 36, 48] := by
  rw [startsSlot, List.contains_eq_mem, decide_eq_true_eq]

/-- Settles O9: CALL by what it stores, RET by the address that it finds. -/
theorem callAndReturn : Obligations.CallAndReturn := by
  unfold Obligations.CallAndReturn
  intro s t f g target h hb htarget
  refine ⟨fun hroom hmax => ?_, fun hroom => exec_call_noRoom h hb hroom, fun hroom hp hslot => ?_,
    fun hroom hp hslot => ?_, fun hroom hp => exec_ret_poisoned h hb hroom hp, fun hroom => exec_ret_noRoom h hb hroom⟩
  · refine ⟨callStores t (nextPc t.pc.toNat), ?_, callStores_spec hroom hmax (nextPc_lt t.pc)⟩
    rw [exec_call h hb hroom, Thread.at_, brTarget_eq htarget]
  · exact exec_ret h hb hroom hp ((startsSlot_iff _).mpr hslot)
  · exact exec_ret_badAddress h hb hroom hp (Bool.eq_false_iff.mpr fun hs => hslot ((startsSlot_iff _).mp hs))

/-! ### EXIT (R154, R243, R440) -/

/-- A record stays where another one is put. -/
theorem Tab.mem_put_of_ne {α : Type} {m : Tab α} {k : Nat} {v : α} {e : Nat × α} (he : e ∈ m) (hk : e.1 ≠ k) :
    e ∈ m.put k v := by
  induction m with
  | nil => cases he
  | cons x m ih =>
    rw [Tab.put]
    cases he with
    | head =>
      rw [if_neg hk]
      exact List.mem_cons_self
    | tail _ he =>
      split
      · exact List.mem_cons_of_mem _ he
      · exact List.mem_cons_of_mem _ (ih he)

/-- A group that has not exited is one of those that remain of its workgroup. -/
theorem State.mem_remaining {s : State} {wg : Nat} {e : Nat × Thread} : e ∈ s.remaining wg ↔
    e ∈ s.threads ∧ e.2.wg = wg ∧ e.2.side ≠ .cellar ∧ e.2.status ≠ .exited := by
  rw [State.remaining, (sortBy_perm ..).mem_iff]
  simp [and_assoc]

/-- While a group of the workgroup remains, a group's end changes thread records alone. -/
theorem State.groupEnded_remaining {s : State} {wg : Nat} (due : List TrapInfo) (h : s.remaining wg ≠ []) :
    ∃ threads, s.groupEnded wg due = { s with threads := threads } := by
  unfold State.groupEnded
  cases hr : s.remaining wg with
  | nil => exact absurd hr h
  | cons e es =>
    dsimp only
    split
    · exact ⟨s.threads, rfl⟩
    · exact ⟨_, rfl⟩

/-- The state when an EXIT has counted and ended its group. -/
def State.exited (s : State) (t : Thread) : State := ((s.counted t).gridLeave t).putThread s.cur t.ended

/-- Counting an instruction and leaving the grid barrier change launch records alone. -/
theorem State.exited_eq (s : State) (t : Thread) : ∃ launches, s.exited t =
    { s with launches := launches, threads := s.threads.put s.cur t.ended } := by
  unfold State.exited State.gridLeave State.counted
  split <;> split <;> exact ⟨_, rfl⟩

theorem exec_exit {s : State} {t : Thread} {f : Std} (h : s.At t) (hb : t.busy = false) : exec (.exit f) s =
    .next (((s.exited t).groupEnded t.wg t.due).putThread s.cur t.ended) := by
  refine run_ok h (r := ((s.exited t).groupEnded t.wg t.due, t.ended)) ?_
  rw [quiet_ok hb]
  rfl

/-- Settles O10: EXIT ends the group's record, and while another group remains it leaves no other table than the
launches' and the threads'. -/
theorem exitEndsTheGroup : Obligations.ExitEndsTheGroup := by
  unfold Obligations.ExitEndsTheGroup
  intro s t f h hb
  refine ⟨_, t.ended, exec_exit h hb, Tab.get?_put_same .., rfl, rfl, rfl, rfl, rfl, rfl, ?_⟩
  rintro ⟨e, he, hne, hwg, hside, hlive⟩
  obtain ⟨launches, hexited⟩ := s.exited_eq t
  have hmem : e ∈ (s.exited t).remaining t.wg := by
    rw [State.mem_remaining, hexited]
    exact ⟨Tab.mem_put_of_ne he hne, hwg, hside, hlive⟩
  obtain ⟨threads, hend⟩ := State.groupEnded_remaining t.due (List.ne_nil_of_mem hmem)
  rw [hend, hexited]
  exact ⟨rfl, rfl, rfl⟩

/-! ### The registers that SRET restores (R406, R408) -/

/-- A table without the keys below `n`, and then another: below `n` a key is the other's. -/
theorem Tab.get?_above_append {α : Type} (m m' : Tab α) (n k : Nat) :
    Tab.get? ((m.filter fun e => decide (n ≤ e.1)) ++ m') k =
      if k < n then m'.get? k else (m.get? k).or (m'.get? k) := by
  induction m with
  | nil => split <;> rfl
  | cons e m ih =>
    rw [List.filter_cons]
    by_cases hk : e.1 = k
    · subst hk
      by_cases hn : n ≤ e.1
      · simp [hn, Tab.get?, Nat.not_lt.mpr hn]
      · simpa [hn, Nat.lt_of_not_le hn] using ih
    · by_cases hn : n ≤ e.1
      · simpa [hn, Tab.get?, hk] using ih
      · simpa [hn, Tab.get?, hk] using ih

theorem Thread.restoreWide_ve (t : Thread) (k : Nat) : t.restoreWide.ve.get? k =
    if k < 8 then t.savedVe.get? k else (t.regs.ve.get? k).or (t.savedVe.get? k) :=
  Tab.get?_above_append t.regs.ve t.savedVe 8 k

theorem Thread.restoreWide_ge (t : Thread) (k : Nat) : t.restoreWide.ge.get? k =
    if k < 4 then t.savedGe.get? k else (t.regs.ge.get? k).or (t.savedGe.get? k) :=
  Tab.get?_above_append t.regs.ge t.savedGe 4 k

/-- Of the mask stack only the top entry at the trap comes from the frame. -/
theorem Thread.restoreWide_stack (t : Thread) {k : Nat} (hk : k + 1 ≠ t.entryDepth) :
    t.restoreWide.stkEm.get k = t.regs.stkEm.get k ∧ t.restoreWide.stkFmt.get k = t.regs.stkFmt.get k := by
  simp only [Thread.restoreWide]
  split
  · exact ⟨rfl, rfl⟩
  · exact ⟨Store.get_set_other _ _ (by omega), Store.get_set_other _ _ (by omega)⟩

/-- The keys of the V registers that the frame holds (R406). -/
def Thread.frameV (t : Thread) : List Nat := t.all.flatMap fun i => (List.range 8).map fun k => 64 * k + i

/-- What the frame holds of the V register with a key (R406). -/
def Thread.savedV (t : Thread) (x : Nat) : BitVec 32 :=
  BitVec.ofNat 32 (t.frame.getNat (128 * (x % 64) + 4 * (x / 64)) 4)

theorem Thread.savedV_key (t : Thread) {i : Nat} (hi : i < 64) (k : Nat) :
    t.savedV (64 * k + i) = BitVec.ofNat 32 (t.frame.getNat (128 * i + 4 * k) 4) := by
  rw [Thread.savedV, show (64 * k + i) % 64 = i by omega, show (64 * k + i) / 64 = k by omega]

theorem Thread.mem_frameV {t : Thread} (hw : t.width ≤ 64) {i : Nat} (hi : i < t.width) (k : Nat) :
    64 * k + i ∈ t.frameV ↔ k < 8 := by
  simp only [Thread.frameV, Thread.all, List.mem_flatMap, List.mem_map, List.mem_range]
  constructor
  · rintro ⟨i', hi', k', hk', he⟩
    omega
  · exact fun hk => ⟨i, hi, k, hk, rfl⟩

/-- V0 to V7 of a lane of the group come from the frame, and no other register of one. -/
theorem Thread.restoreWide_v {t : Thread} (hw : t.width ≤ 64) {i : Nat} (hi : i < t.width) (k : Nat) :
    t.restoreWide.v.get (64 * k + i) =
      if k < 8 then BitVec.ofNat 32 (t.frame.getNat (128 * i + 4 * k) 4) else t.regs.v.get (64 * k + i) := by
  have hfold : t.restoreWide.v = t.frameV.foldl (fun v x => v.set x (t.savedV x)) t.regs.v := by
    simp only [Thread.restoreWide, Thread.frameV, List.foldl_flatMap, List.foldl_map]
    refine List.foldl_ext _ _ _ fun v i hi => List.foldl_ext _ _ _ fun v k _ => ?_
    have hi : i < t.width := List.mem_range.mp hi
    rw [t.savedV_key (hi.trans_le hw)]
  rw [hfold]
  refine (Store.get_foldl_set id t.savedV t.frameV t.regs.v (64 * k + i)).trans ?_
  simp only [List.map_id, Thread.mem_frameV hw hi, t.savedV_key (hi.trans_le hw)]

theorem Thread.restoreWide_g (t : Thread) (k : Nat) : t.restoreWide.g.get k =
    if k < 4 then BitVec.ofNat 64 (t.frame.getNat (8192 + 32 + 8 * k) 8) else t.regs.g.get k :=
  Store.get_foldl_set_range t.regs.g (fun k => BitVec.ofNat 64 (t.frame.getNat (8192 + 32 + 8 * k) 8)) 4 k

theorem Thread.trim_getLsbD {t : Thread} (hw : t.width ≤ 64) (m : BitVec 64) (i : Nat) :
    (t.trim m).getLsbD i = (decide (i < t.width) && m.getLsbD i) := by
  rw [Thread.trim, BitVec.getLsbD_and, getLsbD_lanes hw, Bool.and_comm]

theorem Thread.restoreMcc_s (t : Thread) (k : Nat) : t.restoreMcc.s.get k =
    if k < 8 then BitVec.ofNat 64 (ofBytes (frameBytes t.frame 0 (8 * k) 8)) else t.regs.s.get k :=
  Store.get_foldl_set_range t.regs.s (fun k => BitVec.ofNat 64 (ofBytes (frameBytes t.frame 0 (8 * k) 8))) 8 k

/-- The bytes of the frame that every lane shares. -/
theorem ofBytes_frameBytes_shared (m : Memory) {o : Nat} (ho : 32 ≤ o) (n : Nat) :
    ofBytes (frameBytes m 0 o n) = m.getNat (8192 + o) n := by
  rw [ofBytes_frameBytes m 0 (.inr ho), frameKey, if_neg (Nat.not_lt.mpr ho)]

/-- The bytes of the frame that a lane has of its own. -/
theorem ofBytes_frameBytes_lane (m : Memory) (i : Nat) {o n : Nat} (hn : 0 < n) (ho : o + n ≤ 32) :
    ofBytes (frameBytes m i o n) = m.getNat (128 * i + o) n := by
  rw [ofBytes_frameBytes m i (.inl ho), frameKey, if_pos (by omega)]

/-! ### SRET (R156) -/

section
variable {s : State} {t : Thread} {f : Std} (h : s.At t) (hb : t.busy = false)
include h hb

theorem exec_sret_outside (hh : t.handler = false) : exec (.sret f) s = .next (s.trapped t { cls := 1 }) :=
  run_trap h hb (if_pos (by rw [hh]; rfl))

theorem exec_sret (hh : t.handler = true) : exec (.sret f) s = .next (s.after t
    (t.leaveHandler (if f.xt.getLsbD 0 then nextPc t.tpc.toNat else t.tpc.toNat))) := by
  refine run_ok h (r := (s.counted t, _)) ((if_neg (by simp [hh])).trans ?_)
  rw [quiet_ok hb]
  rfl

end

/-- The PC after SRET is TPC, or with SKIP the slot after it. -/
theorem sret_pc (tpc : W64) (skip : Bool) : BitVec.ofNat 64 (if skip then nextPc tpc.toNat else tpc.toNat) =
    if skip then BitVec.ofNat 64 (nextPc tpc.toNat) else tpc := by
  cases skip
  · simp
  · rfl

/-- Settles O14: the registers that SRET takes from the frame, one after another. -/
theorem sretRestoresTheGroup : Obligations.SretRestoresTheGroup := by
  unfold Obligations.SretRestoresTheGroup
  intro s t f h hb
  refine ⟨exec_sret_outside h hb, fun hh hside => ?_, fun hh hside hw => ?_⟩
  · have hregs (n : Nat) : (t.leaveHandler n).regs = t.restoreMcc := if_pos hside
    refine ⟨_, exec_sret h hb hh, rfl, sret_pc .., rfl, ?_⟩
    rw [hregs, ofBytes_frameBytes_shared _ (by decide), ofBytes_frameBytes_shared _ (by decide)]
    exact ⟨t.restoreMcc_s, rfl, rfl, rfl⟩
  · have hregs (n : Nat) : (t.leaveHandler n).regs = t.restoreWide := if_neg (by simp [hside])
    refine ⟨_, exec_sret h hb hh, rfl, sret_pc .., rfl, ?_⟩
    rw [hregs]
    refine ⟨fun i k hi hk => ?_, fun i k hi hk => ?_, fun k => ?_, fun i => ?_, ?_, ?_, rfl,
      fun hd => ⟨?_, fun i => ?_⟩, fun k hk => ?_, fun k hk => ?_, fun k hk hs => ?_, fun k hk => ?_, fun k hk hs => ?_, rfl, rfl, rfl⟩
    · rw [Thread.restoreWide_v hw hi, if_pos hk, ofBytes_frameBytes_lane _ _ (by decide) (by omega)]
    · rw [Thread.restoreWide_v hw hi, if_neg (Nat.not_lt.mpr hk)]
    · rw [Thread.restoreWide_g, ofBytes_frameBytes_shared _ (by omega), ← Nat.add_assoc]
    · rw [ofBytes_frameBytes_shared _ (by decide)]
      exact Thread.trim_getLsbD hw _ i
    · rw [ofBytes_frameBytes_shared _ (by decide)]
      rfl
    · rw [ofBytes_frameBytes_shared _ (by decide)]
      rfl
    · rw [ofBytes_frameBytes_shared _ (by decide), Thread.restoreWide]
      simp only [if_neg hd, Store.get_set_same]
    · rw [ofBytes_frameBytes_shared _ (by decide), Thread.restoreWide]
      simp only [if_neg hd, Store.get_set_same]
      exact Thread.trim_getLsbD hw _ i
    · exact t.restoreWide_stack hk
    · rw [t.restoreWide_ve, if_pos hk]
    · rw [t.restoreWide_ve, if_neg (Nat.not_lt.mpr hk), hs, Option.or_none]
    · rw [t.restoreWide_ge, if_pos hk]
    · rw [t.restoreWide_ge, if_neg (Nat.not_lt.mpr hk), hs, Option.or_none]

end Sys2Proof.Machine
end

section
/-!
PROOFS. The group-wide instructions BALLOT, BCNT, VSHFL and RSEL (O26).
-/

namespace Sys2Proof.Machine

/-! ### BALLOT, BCNT and VSHFL (R185, R186) -/

section
variable {s : State} {t : Thread} {f : Std} {w : Nat} (h : s.At t)
include h

theorem exec_ballot (hw : w = tyBits f.xty f.ty) (ha : t.canRead f.a (regsOf w) = .ok ⟨⟩) {m : BitVec 64}
    (hm : m = t.laneMaskOf fun k => t.opnd f.a (regsOf w) w k != 0) :
    exec (.ballot f) s = .next (s.after t ((t.setMask f.dst.toNat m).setCC
      { z := decide (m = 0), t := decide (m = t.regs.em) }).advance) := by
  rw [← maskFlags_eq]
  subst hw hm
  exact run_done h (by simp only [ha]; rfl) (by simp) (by simp)

theorem exec_bcnt (hwr : t.canWrite f.dst.toNat 1 = .ok ⟨⟩) :
    exec (.bcnt f) s = .next (s.after t (t.put f.dst.toNat 1 false 32 fun k =>
      ((List.range (if f.xt.getLsbD 0 then k + 1 else k)).filter fun j =>
        (t.mask f.a.reg.toNat).getLsbD j).length).advance) := by
  refine run_done h ?_ (by simp) (by simp)
  simp only [hwr, popcount_eq, bind, Except.bind]
  rfl

theorem exec_vshfl (hw : w = tyBits f.xty f.ty) (hwr : t.canWrite f.dst.toNat (regsOf w) = .ok ⟨⟩)
    (ha : t.canRead f.a (regsOf w) = .ok ⟨⟩) (hb : t.canRead f.b 1 = .ok ⟨⟩) :
    exec (.vshfl f) s = .next (s.after t (t.put f.dst.toNat (regsOf w) false w fun k =>
      t.opnd f.a (regsOf w) w (t.opnd f.b 1 32 k % t.width)).advance) := by
  subst hw
  exact run_done h (by simp only [hwr, ha, hb]; rfl) (by simp) (by simp)

end

/-! ### What RSEL selects (R190) -/

theorem ones_eq (m : BitVec 64) : ones m = ((List.range 64).filter fun i => m.getLsbD i).length := popcount_toNat m

@[simp] theorem ones_zero : ones 0 = 0 := by decide

/-- A mask of lanes has as many ones as there are lanes. -/
theorem ones_laneMask {ls : List Nat} (hd : ls.Nodup) (hlt : ∀ i ∈ ls, i < 64) :
    ones (laneMask ls) = ls.length := by
  rw [ones_eq]
  refine ((List.perm_ext_iff_of_nodup (List.nodup_range.filter _) hd).mpr fun i => ?_).length_eq
  simp only [List.mem_filter, List.mem_range, laneMask_getLsbD, Bool.and_eq_true, decide_eq_true_eq]
  exact ⟨fun hi => hi.2.2, fun hi => ⟨hlt i hi, hlt i hi, hi⟩⟩

section
variable (c : BitVec 64) (k : Nat)

/-- The numbers of the ones of a mask, lowest first. -/
def onesOf : List Nat := (List.range 64).filter fun i => c.getLsbD i

theorem mem_onesOf {i : Nat} : i ∈ onesOf c ↔ c.getLsbD i = true := by
  simp only [onesOf, List.mem_filter, List.mem_range]
  exact ⟨And.right, fun hi => ⟨BitVec.lt_of_getLsbD hi, hi⟩⟩

theorem onesOf_lt : (onesOf c).Pairwise (· < ·) := List.pairwise_lt_range.filter _

theorem lowestOnes_eq : lowestOnes c k = laneMask ((onesOf c).take k) := rfl

theorem lowestOnes_getLsbD {i : Nat} : (lowestOnes c k).getLsbD i = true ↔ i ∈ (onesOf c).take k := by
  rw [lowestOnes_eq, laneMask_getLsbD, Bool.and_eq_true, decide_eq_true_eq, decide_eq_true_eq]
  exact ⟨And.right, fun hi => ⟨BitVec.lt_of_getLsbD ((mem_onesOf c).mp (List.mem_of_mem_take hi)), hi⟩⟩

theorem ones_lowestOnes : ones (lowestOnes c k) = min k (ones c) := by
  have hd : ((onesOf c).take k).Nodup := ((onesOf_lt c).imp ne_of_lt).sublist (List.take_sublist k _)
  rw [lowestOnes_eq, ones_laneMask hd fun i hi => BitVec.lt_of_getLsbD ((mem_onesOf c).mp (List.mem_of_mem_take hi)),
    List.length_take, ones_eq, onesOf]

theorem lowestOnes_and : lowestOnes c k &&& c = lowestOnes c k := by
  refine BitVec.eq_of_getLsbD_eq fun i _ => ?_
  rw [BitVec.getLsbD_and, Bool.and_eq_left_iff_imp, lowestOnes_getLsbD]
  exact fun hi => (mem_onesOf c).mp (List.mem_of_mem_take hi)

/-- What is left lies above what was taken. -/
theorem lowestOnes_lt {i j : Nat} (hi : (lowestOnes c k).getLsbD i = true) (hj : c.getLsbD j = true)
    (hn : (lowestOnes c k).getLsbD j = false) : i < j := by
  have hsplit := List.take_append_drop k (onesOf c)
  have hdrop : j ∈ (onesOf c).drop k := by
    rw [← mem_onesOf, ← hsplit, List.mem_append, ← lowestOnes_getLsbD, hn] at hj
    exact hj.resolve_left Bool.false_ne_true
  have hlt := onesOf_lt c
  rw [← hsplit, List.pairwise_append] at hlt
  exact hlt.2.2 i ((lowestOnes_getLsbD c k).mp hi) j hdrop

end

/-! ### What RSEL writes (R190) -/

section
variable (t : Thread) (f : Std)

@[simp] theorem Thread.writeSel_side (r : Sel) : (t.writeSel f r).side = t.side := by simp [Thread.writeSel]

@[simp] theorem Thread.writeSel_wg (r : Sel) : (t.writeSel f r).wg = t.wg := by simp [Thread.writeSel]

theorem Thread.writeSel_mk (c sel : BitVec 64) (k : Nat) : t.writeSel f ⟨c, sel, k⟩ =
    (((t.setMask (f.xt.toNat % 8) (if k = 0 then 0 else c)).setMask (f.xt.toNat / 8 % 8) sel).putG f.dst.toNat
      (BitVec.ofNat 64 k)).setCC { z := decide (k = 0), t := decide (ones (if k = 0 then 0 else c) = k) } := by
  rw [← beq_eq_decide, ← beq_eq_decide]
  rfl

variable (c one : BitVec 64) (k : Nat)

/-- The candidates whose key bit is one are all taken where there is room for them, else they are what is left. -/
theorem Thread.writeSel_step {x y : Nat} (hx : x = f.xt.toNat % 8) (hy : y = f.xt.toNat / 8 % 8) :
    t.writeSel f (selStep c (t.mask y) k one) =
      if ones one ≤ k then
        (((t.setMask x (if k - ones one = 0 then 0 else c &&& ~~~one)).setMask y (t.mask y ||| one)).putG f.dst.toNat
          (BitVec.ofNat 64 (k - ones one))).setCC
            { z := decide (k = ones one)
              t := decide (ones (if k - ones one = 0 then 0 else c &&& ~~~one) = k - ones one) }
      else
        (((t.setMask x (if k = 0 then 0 else one)).setMask y (t.mask y)).putG f.dst.toNat (BitVec.ofNat 64 k)).setCC
          { z := decide (k = 0), t := decide (ones (if k = 0 then 0 else one) = k) } := by
  subst hx hy
  by_cases hle : ones one ≤ k
  · have hz : (k - ones one = 0) = (k = ones one) := propext (by omega)
    rw [selStep, if_pos hle, if_pos hle, Thread.writeSel_mk]
    simp only [hz]
  · rw [selStep, if_neg hle, if_neg hle, Thread.writeSel_mk]

/-- At a tie no candidate is left, and CC tells that as many were taken as asked for. -/
theorem Thread.writeSel_tie {x y : Nat} (hx : x = f.xt.toNat % 8) (hy : y = f.xt.toNat / 8 % 8) :
    t.writeSel f (selTie c (t.mask y) k) =
      (((t.setMask x 0).setMask y (t.mask y ||| lowestOnes c k)).putG f.dst.toNat
        (BitVec.ofNat 64 (k - ones (lowestOnes c k)))).setCC
          { z := decide (k = ones (lowestOnes c k)), t := decide (k = ones (lowestOnes c k)) } := by
  subst hx hy
  have hle : ones (lowestOnes c k) ≤ k := (ones_lowestOnes c k).trans_le (Nat.min_le_left ..)
  have hz : k - ones (lowestOnes c k) = 0 ↔ k = ones (lowestOnes c k) := by omega
  rw [selTie, Thread.writeSel_mk, ite_self, ones_zero, decide_eq_decide.mpr hz, decide_eq_decide.mpr (eq_comm.trans hz)]

end

/-- The lanes of a group for which a condition holds, whatever EM holds. -/
theorem Thread.laneMask_filter_getLsbD (t : Thread) (p : Nat → Bool) {i : Nat} (hi : i < 64) :
    (laneMask (t.all.filter p)).getLsbD i = (decide (i < t.width) && p i) := by
  rw [laneMask_getLsbD]
  simp [hi, Thread.all]

section
variable {s : State} {t : Thread} {f : Std} {w x y : Nat} {c : BitVec 64} (h : s.At t) (hx : x = f.xt.toNat % 8)
  (hy : y = f.xt.toNat / 8 % 8) (hc : c = t.mask x &&& t.regs.em) (hrc : t.canRead f.c 1 = .ok ⟨⟩)
include h hx hy hc hrc

theorem exec_rsel {one : BitVec 64} (hw : w = tyBits f.xty f.ty)
    (hra : t.canRead f.a (regsOf w) = .ok ⟨⟩) (hrb : t.canRead f.b 1 = .ok ⟨⟩)
    (hone : ∀ i, one.getLsbD i = (decide (i < t.width) && c.getLsbD i && decide (t.opnd f.b 1 64 0 % 64 < w) &&
      (t.opnd f.a (regsOf w) w i).testBit (t.opnd f.b 1 64 0 % 64))) :
    exec (.rsel f) s = .next (s.after t (t.writeSel f (selStep c (t.mask y) (t.opnd f.c 1 64 0) one)).advance) := by
  subst hw hx hy hc
  have hmask : one = t.mask (f.xt.toNat % 8) &&& t.regs.em &&& laneMask (t.all.filter fun i =>
      decide (t.uni f.b % 64 < tyBits f.xty f.ty) &&
        tb (t.opnd f.a (regsOf (tyBits f.xty f.ty)) (tyBits f.xty f.ty) i) (t.uni f.b % 64)) := by
    refine BitVec.eq_of_getLsbD_eq fun i hi => (hone i).trans (Eq.trans ?_ (BitVec.getLsbD_and ..).symm)
    rw [Thread.laneMask_filter_getLsbD t _ hi, tb_eq_testBit, Bool.and_assoc, Bool.and_assoc, Bool.and_left_comm]
    rfl
  subst hmask
  exact run_done h (by simp only [hra, hrb, hrc]; rfl) (by simp) (by simp)

theorem exec_rselTie : exec (.rselTie f) s =
    .next (s.after t (t.writeSel f (selTie c (t.mask y) (t.opnd f.c 1 64 0))).advance) := by
  subst hx hy hc
  exact run_done h (by simp only [hrc]; rfl) (by simp) (by simp)

end

/-- Settles O26: one equation per instruction; what RSEL takes at a tie are the first of the candidates in rising
order. -/
theorem groupWideInstructions : Obligations.GroupWideInstructions := by
  unfold Obligations.GroupWideInstructions
  constructor
  · intro s t f w h hs hwidth hw
    refine ⟨fun ha => ⟨_, fun k => ?_, exec_ballot h hw ha rfl⟩, exec_bcnt h, exec_vshfl h hw⟩
    rw [Thread.laneMaskOf_getLsbD hs hwidth, bne, beq_eq_decide, decide_not]
  · rintro s t f w k x y c h - - hw hrc rfl hx hy hc count hcount
    obtain rfl : count = ones := funext fun m => (hcount m).trans (ones_eq m).symm
    refine ⟨fun one hra hrb hone => ?_, lowestOnes c _, ones_lowestOnes c _, lowestOnes_and c _,
      fun i j => lowestOnes_lt c _, ?_⟩
    · rw [exec_rsel h hx hy hc hrc hw hra hrb hone, Thread.writeSel_step t f c one _ hx hy]
    · rw [exec_rselTie h hx hy hc hrc, Thread.writeSel_tie t f c _ hx hy]

end Sys2Proof.Machine
end

section
/-!
PROOFS. Block formats and bit planes (O31).
-/

namespace Sys2Proof.Machine

/-! ### BFPK and MXPK (R202, R203) -/

/-- A range of values beside their places. -/
theorem zipIdx_map_range {α : Type} (b : Nat → α) (n : Nat) :
    ((List.range n).map b).zipIdx = (List.range n).map fun q => (b q, q) :=
  List.ext_getElem (by simp) fun i h1 h2 => by simp

section
variable {s : State} {t : Thread} {f : Std} {pk : Nat → List Nat → Packed} {place : Nat → Nat → Nat}
  (h : s.At t) (hw : t.canWrite f.dst.toNat 1 = .ok ⟨⟩) (ha : t.canRead f.a 1 = .ok ⟨⟩)
include h hw ha

theorem packLanes_narrow (hb : t.busy = false) (hlt : t.width < 32) :
    packLanes f s pk place = .next (s.trapped t { cls := 1, sub := 1 }) :=
  run_trap h hb (by simp only [hw, ha, bind, Except.bind, if_pos hlt]; rfl)

/-- A pack of whole blocks: each lane takes its element and its block's scale, and the blocks with a lane in EM their
flags. -/
theorem packLanes_whole (hwidth : 32 ≤ t.width) (hmod : t.width % 32 = 0) {b : Nat → Packed}
    (hb : ∀ q, b q = pk t.regs.fmt.toNat (t.blockIn f.a q)) :
    packLanes f s pk place = .next (s.after t ((t.put f.dst.toNat 1 false 32 fun k =>
      if k < t.width then place ((b (k / 32)).elems.getD (k % 32) 0) (b (k / 32)).scale else 0).raise
        (((List.range (t.width / 32)).filter fun q => t.active.any fun k => k / 32 == q).foldl
          (fun fl q => fl.or (b q).flags) {})).advance) := by
  obtain rfl := funext hb
  have hlane (k : Nat) : k / 32 < t.width / 32 ↔ k < t.width := by omega
  refine run_done h ?_ (by simp) (by simp)
  simp only [hw, ha, bind, Except.bind, if_neg (Nat.not_lt.mpr hwidth), zipIdx_map_range, List.filter_map,
    List.foldl_map]
  congr 3
  funext k
  by_cases hk : k < t.width
  · simp [hk, (hlane k).mpr hk]
  · simp [hk, hlane]

end

/-- BFPK and MXPK pack by the formats in FMT and put the scale entry from bit 16 up. -/
theorem exec_pack_eq (s : State) (t : Thread) {f : Std} {i : Instr} {pk : List Nat → Packed} (hi : (i, pk) ∈ ([
    (Instr.bfpk f, fun xs => tsPack (tsForm f.ty.toNat) (tsDistance t.regs.fmt.toNat f.ty.toNat)
      (.ofFmt t.regs.fmt.toNat) F32 xs),
    (.mxpk f, fun xs => mxPack (mxFmt f.ty.toNat).1 (mxFmt f.ty.toNat).2 (.ofFmt t.regs.fmt.toNat) F32 xs)] :
    List (Instr × (List Nat → Packed)))) : ∃ pack : Nat → List Nat → Packed,
      exec i s = packLanes f s pack (fun el sc => el + sc * 65536) ∧ pack t.regs.fmt.toNat = pk := by
  simp only [List.mem_cons, Prod.mk.injEq, List.not_mem_nil, or_false] at hi
  obtain ⟨rfl, rfl⟩ | ⟨rfl, rfl⟩ := hi
  all_goals
    dsimp only [exec, execBfpk, execMxpk]
    exact ⟨_, rfl, rfl⟩

/-! ### BFUN and MXUN (R202, R203) -/

/-- The value of a twin-scale element in F32. -/
def tsUnpacked (F : TsForm) (v : Nat) : Nat :=
  match tsValue F (v % 2 ^ (F.mb + 2)) (v / 65536) with
  | none => 0x7FC00000
  | some x => (F32.conv {} x).1

/-- The value of an MX element in F32, and the flags of its conversion. -/
def mxUnpacked (F : FFmt) (md : FpMode) (v : Nat) : Nat × FpFlags :=
  match mxValue F (v % 2 ^ F.bits) (v / 65536) with
  | none => (0x7FC00000, {})
  | some x => F32.conv md x

section
variable {s : State} {t : Thread} {f : Std} (h : s.At t)
  (hw : t.canWrite f.dst.toNat 1 = .ok ⟨⟩) (ha : t.canRead f.a 1 = .ok ⟨⟩)
include h hw ha

theorem exec_bfun : exec (.bfun f) s = .next (s.after t (t.gotFp f fun k =>
    (tsUnpacked (tsForm f.ty.toNat) (t.opnd f.a 1 32 k), {})).advance) := by
  dsimp only [exec, execBfun]
  rw [fpOp1_next h hw ha]
  refine congrArg (fun r => Host.Outcome.next (s.after t (t.gotFp f r).advance)) (funext fun k => ?_)
  simp only [tsUnpacked, List.getD_cons_zero]
  cases tsValue (tsForm f.ty.toNat) (t.opnd f.a 1 32 k % 2 ^ ((tsForm f.ty.toNat).mb + 2))
    (t.opnd f.a 1 32 k / 65536) <;> rfl

theorem exec_mxun : exec (.mxun f) s = .next (s.after t (t.gotFp f fun k =>
    mxUnpacked (mxFmt f.ty.toNat).1 (t.fpMode f.fpc) (t.opnd f.a 1 32 k)).advance) :=
  fpOp1_next (op := fun md xs => mxUnpacked (mxFmt f.ty.toNat).1 md (xs.getD 0 0)) h hw ha

end

/-! ### PLANE and UNPLANE (R204) -/

/-- A sum of powers of two, each where a test holds, has the bits that the test picks. -/
theorem foldl_bit_eq_pickedBits (p : Nat → Bool) (n : Nat) :
    ((List.range n).map fun j => bit (p j) * 2 ^ j).foldl (· + ·) 0 = pickedBits p n := by
  induction n with
  | zero => rfl
  | succ n ih =>
    rw [pickedBits_succ, List.range_succ, List.map_append, List.foldl_append, ih]
    cases hp : p n <;> simp [bit, hp]

/-- A number with another bit in the place of one of its bits. -/
def replaceBit (r p : Nat) (x : Bool) : Nat := r - bit (tb r p) * 2 ^ p + bit x * 2 ^ p

theorem replaceBit_eq_packInto (r p : Nat) (x : Bool) : replaceBit r p x = packInto 1 p (bit x) r := by
  have hbit : bit (tb r p) = r / 2 ^ p % 2 := by
    rcases Nat.mod_two_eq_zero_or_one (r / 2 ^ p) with h | h <;> simp [bit, tb, h]
  have hx : bit x % 2 ^ 1 = bit x := by cases x <;> rfl
  have hr : r = r % 2 ^ p + r / 2 ^ p % 2 * 2 ^ p + r / 2 ^ (p + 1) * 2 ^ (p + 1) := by
    conv_lhs => rw [← Nat.mod_add_div r (2 ^ p), ← Nat.mod_add_div (r / 2 ^ p) 2, Nat.div_div_eq_div_mul,
      ← Nat.pow_succ]
    ring
  rw [replaceBit, packInto, hbit, hx]
  omega

theorem replaceBit_testBit (r p : Nat) (x : Bool) (i : Nat) :
    (replaceBit r p x).testBit i = if i = p then x else r.testBit i := by
  rw [replaceBit_eq_packInto, packInto_testBit]
  by_cases hi : i = p
  · subst hi
    cases x <;> simp [bit]
  · rw [if_neg (by omega), if_neg hi]

/-- A bit of a row lies in one element, at one place of it. -/
theorem rowBit_inj {w i j b c : Nat} (hb : b < w) (hc : c < w) : w * j + c = w * i + b ↔ j = i ∧ c = b := by
  constructor
  · intro h
    have hdiv := congrArg (· / w) h
    have hmod := congrArg (· % w) h
    simp only [Nat.mul_add_div (Nat.zero_lt_of_lt hb), Nat.div_eq_of_lt hb, Nat.div_eq_of_lt hc] at hdiv
    simp only [Nat.mul_add_mod, Nat.mod_eq_of_lt hb, Nat.mod_eq_of_lt hc] at hmod
    exact ⟨hdiv, hmod⟩
  · rintro ⟨rfl, rfl⟩
    rfl

/-- A plane word put into the first `n` elements of a row. -/
theorem foldl_replaceBit_testBit {w b c : Nat} (hb : b < w) (hc : c < w) (row word n j : Nat) :
    ((List.range n).foldl (fun r i => replaceBit r (w * i + b) (tb word i)) row).testBit (w * j + c) =
      if j < n ∧ c = b then word.testBit j else row.testBit (w * j + c) := by
  induction n with
  | zero => simp
  | succ n ih =>
    rw [List.range_succ, List.foldl_append, List.foldl_cons, List.foldl_nil, replaceBit_testBit, ih, tb_eq_testBit]
    by_cases hlast : j = n ∧ c = b
    · obtain ⟨rfl, rfl⟩ := hlast
      simp
    · rw [if_neg ((rowBit_inj hb hc).not.mpr hlast)]
      exact if_congr (by omega) rfl rfl

theorem unplane_testBit {w b c j : Nat} (hb : b < w) (hc : c < w) (hj : j < 32) (row word : Nat) :
    (unplane w b row word).testBit (w * j + c) = if c = b then word.testBit j else row.testBit (w * j + c) :=
  (foldl_replaceBit_testBit hb hc row word 32 j).trans (if_congr (and_iff_right hj) rfl rfl)

section
variable {s : State} {t : Thread} {f : Std} {w b : Nat} (h : s.At t) (hw : w = 4 * 2 ^ (f.xt.toNat / 32 % 4))
  (hb : b = f.xt.toNat % 32)
include h hw hb

theorem exec_plane (hwr : t.canWrite f.dst.toNat 1 = .ok ⟨⟩) (ha : t.canRead f.a w = .ok ⟨⟩) :
    exec (.plane f) s = .next (s.after t (t.put f.dst.toNat 1 false 32 fun k => pickedBits (fun j =>
      (vSpan t.regs.v f.a.reg.toNat (srcLane t.width k f.a.pat.toNat f.a.q.toNat) w).testBit (w * j + b))
        32).advance) := by
  subst hw hb
  refine run_done h ?_ (by simp) (by simp)
  simp only [planeWidth, hwr, ha, tb_eq_testBit, foldl_bit_eq_pickedBits, bind, Except.bind]

theorem exec_unplane (hwr : t.canWrite f.dst.toNat w = .ok ⟨⟩) (ha : t.canRead f.a 1 = .ok ⟨⟩)
    (hfull : firstEmpty t.regs.ve f.dst.toNat w = none) :
    exec (.unplane f) s = .next (s.after t (t.put f.dst.toNat w false (32 * w) fun k =>
      unplane w b (vSpan t.regs.v f.dst.toNat k w) (t.opnd f.a 1 32 k)).advance) := by
  subst hw hb
  refine run_done h ?_ (by simp) (by simp)
  simp only [planeWidth, hwr, ha, hfull, emptyEv, bind, Except.bind]

end

/-- Settles O31: packs and unpacks by their frames, and the planes bit by bit. -/
theorem blocksAndPlanes : Obligations.BlocksAndPlanes := by
  unfold Obligations.BlocksAndPlanes
  constructor
  · intro s t f h hw ha
    refine ⟨fun i pk hi => ?_, ?_, fun r hr => ?_⟩
    · obtain ⟨pack, hx, rfl⟩ := exec_pack_eq s t hi
      rw [hx]
      exact ⟨packLanes_narrow h hw ha, fun hwidth b hb => packLanes_whole h hw ha (by omega) (by omega) hb⟩
    · rw [exec_bfun h hw ha, Thread.gotFp_quiet]
      rfl
    · obtain rfl : r = fun k => mxUnpacked (mxFmt f.ty.toNat).1 (t.fpMode f.fpc) (t.opnd f.a 1 32 k) := funext hr
      exact exec_mxun h hw ha
  · intro s t f w b h _ hw hb hlt
    refine ⟨fun _ _ hwr ha => ⟨_, exec_plane h hw hb hwr ha, fun k => ⟨pickedBits_lt _ 32, fun j hj => ?_⟩⟩,
      fun hwr ha hfull => ⟨_, exec_unplane h hw hb hwr ha hfull,
        fun k j hj c hc => unplane_testBit hlt hc hj _ _⟩⟩
    rw [pickedBits_testBit, decide_eq_true hj, Bool.true_and]

end Sys2Proof.Machine
end

section
/-!
PROOFS. What does not write memory (O5).
-/

namespace Sys2Proof.Machine

theorem State.foldl_mem {α : Type} (f : State → α → State) (h : ∀ s a, (f s a).mem = s.mem) (l : List α) (s : State) :
    (l.foldl f s).mem = s.mem := by
  induction l generalizing s with
  | nil => rfl
  | cons a l ih => exact (ih (f s a)).trans (h s a)

@[simp] theorem State.giveLane_mem (s : State) (lane n m) : (s.giveLane lane n m).mem = s.mem := by
  unfold State.giveLane
  split <;> rfl

@[simp] theorem State.spread_mem (s : State) (key us n m) : (s.spread key us n m).mem = s.mem := by
  unfold State.spread
  exact State.foldl_mem _ (by simp) _ _

@[simp] theorem State.sendMsg_mem (s : State) (m) : (s.sendMsg m).mem = s.mem := by
  unfold State.sendMsg
  dsimp only
  repeat' split
  all_goals simp

@[simp] theorem State.msix_mem (s : State) (vec) : (s.msix vec).mem = s.mem := by
  simp [State.msix]

@[simp] theorem State.sendBar_mem (s : State) (pa hop n) : (s.sendBar pa hop n).mem = s.mem := s.sendAway_mem _

@[simp] theorem State.nbAdd_mem (s : State) (wg nb n) : (s.nbAdd wg nb n).mem = s.mem := rfl

@[simp] theorem State.cqArrive_mem (s : State) (wg nb) : (s.cqArrive wg nb).mem = s.mem := rfl

@[simp] theorem State.setToken_mem (s : State) (wg tile k) : (s.setToken wg tile k).mem = s.mem := rfl

@[simp] theorem State.tokenTo_mem (s : State) (wg tile tid t) : (s.tokenTo wg tile tid t).mem = s.mem := rfl

@[simp] theorem State.tokenFree_mem (s : State) (wg tile) : (s.tokenFree wg tile).mem = s.mem := by
  unfold State.tokenFree
  dsimp only
  split
  · exact s.setToken_mem _ _ _
  · split <;> simp

@[simp] theorem State.tokenLeave_mem (s : State) (tid t tile) : (s.tokenLeave tid t tile).mem = s.mem := by
  unfold State.tokenLeave
  dsimp only
  split <;> simp

@[simp] theorem State.unblock_mem (s : State) (tid t) : (s.unblock tid t).mem = s.mem := by
  unfold State.unblock
  split <;> simp

@[simp] theorem State.walkFor_mem (s : State) (part die page join) : (s.walkFor part die page join).mem = s.mem := by
  unfold State.walkFor
  dsimp only
  repeat' split
  all_goals simp

@[simp] theorem State.startWalk_mem (s : State) (tid t page) : (s.startWalk tid t page).mem = s.mem := by
  simp [State.startWalk]

@[simp] theorem State.sendAsk_mem (s : State) (tid t q) : (s.sendAsk tid t q).mem = s.mem := by
  unfold State.sendAsk
  split
  · rfl
  · exact s.sendAway_mem _

@[simp] theorem State.debugHalt_mem (s : State) (tid) : (s.debugHalt tid).mem = s.mem := by
  unfold State.debugHalt
  split <;> rfl

@[simp] theorem State.countTrap_mem (s : State) (t x2) : (s.countTrap t x2).mem = s.mem := by
  unfold State.countTrap
  repeat' split
  all_goals simp

@[simp] theorem State.dropAways_mem (s : State) (o) : (s.dropAways o).mem = s.mem := rfl

@[simp] theorem State.unitUnwait_mem (s : State) (key ticket) : (s.unitUnwait key ticket).mem = s.mem := rfl

@[simp] theorem State.opAddition_mem (s : State) (op err) : (s.opAddition op err).mem = s.mem := by
  unfold State.opAddition
  repeat' split
  all_goals simp

@[simp] theorem State.addBytes_mem (s : State) (wg n) : (s.addBytes wg n).mem = s.mem := rfl

@[simp] theorem State.finishOp_mem (s : State) (key ticket op err) : (s.finishOp key ticket op err).mem = s.mem := by
  unfold State.finishOp
  split <;> simp

@[simp] theorem State.gridLeave_mem (s : State) (t) : (s.gridLeave t).mem = s.mem := by
  unfold State.gridLeave
  split <;> rfl

@[simp] theorem State.sample_mem (s : State) (pa) : (s.sample pa).mem = s.mem := rfl

@[simp] theorem State.stampLoad_mem (s : State) (t p) : (s.stampLoad t p).1.mem = s.mem := by
  unfold State.stampLoad
  split
  · dsimp only
    split <;> rfl
  · rfl

@[simp] theorem State.loadPlaces_mem (s : State) (t n ps) : (s.loadPlaces t n ps).2.1.mem = s.mem := by
  induction ps generalizing s t with
  | nil => rfl
  | cons p ps ih => exact (ih _ _).trans (s.stampLoad_mem t _)

@[simp] theorem State.noteCode_mem (s : State) (t pa n) : (s.noteCode t pa n).mem = s.mem := by
  unfold State.noteCode
  split <;> rfl

@[simp] theorem State.stampStore_mem (s : State) (t p) : (s.stampStore t p).1.mem = s.mem := by
  unfold State.stampStore
  split <;> rfl

@[simp] theorem State.sendMsgs_mem (s : State) (ms) : (s.sendMsgs ms).mem = s.mem := by
  unfold State.sendMsgs
  exact State.foldl_mem _ (by simp) _ _

@[simp] theorem State.produce_mem (s : State) (t p) : (s.produce t p).1.mem = s.mem := rfl

@[simp] theorem State.unpoisoned_mem (s : State) (t) : (s.unpoisoned t).mem = s.mem := rfl

@[simp] theorem State.atomProducer_mem (s : State) (t f ps vals waiting) :
    (s.atomProducer t f ps vals waiting).1.mem = s.mem := rfl

@[simp] theorem State.addWorks_mem (s : State) (ws) : (s.addWorks ws).mem = s.mem := rfl

@[simp] theorem State.ordRelease_mem (s : State) (key nsrc) : (s.ordRelease key nsrc).mem = s.mem := by
  unfold State.ordRelease
  repeat' split
  all_goals simp

@[simp] theorem State.settleRow_mem (s : State) (gid row cause bytes) :
    (s.settleRow gid row cause bytes).mem = s.mem := by
  unfold State.settleRow
  split <;> rfl

@[simp] theorem State.workOver_mem (s : State) (w cause bytes) : (s.workOver w cause bytes).mem = s.mem := by
  unfold State.workOver
  dsimp only
  repeat' split
  all_goals simp

@[simp] theorem State.ordHold_mem (s : State) (key nsrc src core seq w) :
    (s.ordHold key nsrc src core seq w).mem = s.mem := by
  unfold State.ordHold
  dsimp only
  split <;> simp

@[simp] theorem State.askRows_mem (s : State) (gid g key core seq rows) :
    (s.askRows gid g key core seq rows).mem = s.mem := by
  unfold State.askRows
  split <;> simp [State.foldl_mem]

@[simp] theorem State.gatherAsk_mem (s : State) (gid key g o rows) : (s.gatherAsk gid key g o rows).mem = s.mem := by
  unfold State.gatherAsk
  split <;> simp

@[simp] theorem State.setRound_mem (s : State) (wg k x) : (s.setRound wg k x).mem = s.mem := rfl

@[simp] theorem State.sendRow_mem (s : State) (m) : (s.sendRow m).mem = s.mem := by
  unfold State.sendRow
  dsimp only
  repeat' split
  all_goals simp

@[simp] theorem State.sendCloses_mem (s : State) (wg tid sl reps) : (s.sendCloses wg tid sl reps).mem = s.mem := by
  refine State.foldl_mem _ (fun s p => ?_) _ s
  dsimp only
  split
  · rfl
  · exact s.sendMsg_mem _

@[simp] theorem State.updLane_mem (s : State) (n f) : (s.updLane n f).mem = s.mem := rfl

@[simp] theorem State.dueTrap_mem (s : State) (tid x) : (s.dueTrap tid x).mem = s.mem := rfl

@[simp] theorem State.undeliverable_mem (s : State) (m) : (s.undeliverable m).mem = s.mem := by
  unfold State.undeliverable
  repeat' split
  all_goals simp

@[simp] theorem State.flushOut_mem (s : State) : s.flushOut.mem = s.mem := by
  refine State.foldl_mem _ (fun s m => ?_) _ _
  split <;> simp

@[simp] theorem State.refill_mem (s : State) (wg page) : (s.refill wg page).mem = s.mem := by
  unfold State.refill
  split <;> rfl

@[simp] theorem State.wake_mem (s : State) (tid t) : (s.wake tid t).mem = s.mem := rfl

@[simp] theorem State.nmSend_mem (s : State) (id a) : (s.nmSend id a).mem = s.mem := s.sendAway_mem _

@[simp] theorem State.nmOver_mem (s : State) (id a dropped) : (s.nmOver id a dropped).mem = s.mem := rfl

@[simp] theorem State.unitLeave_mem (s : State) (core id o) : (s.unitLeave core id o).mem = s.mem := by
  have hq := State.foldl_mem (fun (s : State) (x : Nat × Nat) => s.updCore x.1 fun c =>
    { c with unitQ := c.unitQ.filter (· != id) }) (fun _ _ => rfl) o.targets s
  unfold State.unitLeave
  dsimp only
  split
  · split <;> exact hq
  · rfl

@[simp] theorem State.endWork_mem (s : State) (id w cause) : (s.endWork id w cause).mem = s.mem := by
  simp [State.endWork]

@[simp] theorem State.fetched_mem (s : State) (id w k bs) : (s.fetched id w k bs).mem = s.mem := by
  unfold State.fetched
  dsimp only
  repeat' split
  all_goals simp

@[simp] theorem State.dropServe_mem (s : State) (w holder) : (s.dropServe w holder).mem = s.mem := by
  unfold State.dropServe
  dsimp only
  repeat' split
  all_goals simp

@[simp] theorem State.sendOn_mem (s : State) (work w x) : (s.sendOn work w x).mem = s.mem := by
  simp [State.sendOn]

@[simp] theorem State.askHolder_mem (s : State) (id w key va p add) : (s.askHolder id w key va p add).mem = s.mem :=
  State.sendAway_mem _ _

@[simp] theorem State.added_mem (s : State) (id w k) : (s.added id w k).mem = s.mem := by
  unfold State.added
  dsimp only
  repeat' split
  all_goals simp

@[simp] theorem State.updQueue_mem (s : State) (q f) : (s.updQueue q f).mem = s.mem := rfl

@[simp] theorem State.unmap_mem (s : State) (q st) : (s.unmap q st).mem = s.mem := rfl

@[simp] theorem State.yieldTest_mem (s : State) (q) : (s.yieldTest q).mem = s.mem := by
  unfold State.yieldTest
  dsimp only
  repeat' split
  all_goals simp

@[simp] theorem State.waitYield_mem (s : State) (q) : (s.waitYield q).mem = s.mem := by
  unfold State.waitYield
  split <;> simp

@[simp] theorem State.waitYields_mem (s : State) : s.waitYields.mem = s.mem := by
  unfold State.waitYields
  exact State.foldl_mem _ (by simp) _ _

@[simp] theorem State.signalMsix_mem (s : State) (x) : (s.signalMsix x).mem = s.mem := by
  unfold State.signalMsix
  split <;> simp

@[simp] theorem State.markDie_mem (s : State) (die) : (s.markDie die).mem = s.mem := by
  unfold State.markDie
  split
  · rfl
  · dsimp only
    split
    · rfl
    · refine State.foldl_mem _ (fun s c => ?_) _ s
      split
      · exact State.foldl_mem _ (fun s k => s.updCore_mem _ _) _ s
      · rfl

@[simp] theorem State.starveDie_mem (s : State) (die) : (s.starveDie die).mem = s.mem := by
  unfold State.starveDie
  split
  · rfl
  · split
    · rfl
    · refine State.foldl_mem _ (fun s k => ?_) _ s
      dsimp only
      split <;> rfl

@[simp] theorem State.startWg_mem (s : State) (launch l die core unit_ ord) :
    (s.startWg launch l die core unit_ ord).mem = s.mem := rfl

@[simp] theorem State.startWgs_mem (s : State) (launch l die cluster unit_ ord ks) :
    (s.startWgs launch l die cluster unit_ ord ks).mem = s.mem := by
  induction ks generalizing s ord with
  | nil => rfl
  | cons k ks ih => exact (ih _ _).trans (s.startWg_mem ..)

@[simp] theorem State.startUnit_mem (s : State) (launch l die cluster ord cores) :
    (s.startUnit launch l die cluster ord cores).mem = s.mem := by
  simp [State.startUnit]

@[simp] theorem State.appendMoves_mem (s : State) (xs) : (appendMoves s xs).mem = s.mem := by
  induction xs generalizing s with
  | nil => rfl
  | cons x xs ih => exact ih _

@[simp] theorem State.feed_mem (s : State) (part) : (s.feed part).mem = s.mem := rfl

@[simp] theorem State.release_mem (s : State) (wg g) : (s.release wg g).mem = s.mem := rfl

@[simp] theorem State.tlbAdd_mem (s : State) (e) : (s.tlbAdd e).mem = s.mem := by
  unfold State.tlbAdd
  split <;> rfl

@[simp] theorem State.walkDone_mem (s : State) (w r) : (s.walkDone w r).mem = s.mem := by
  simp [State.walkDone, State.foldl_mem]

@[simp] theorem State.mapPhys_mem (s : State) (f) : (s.mapPhys f).mem = s.mem := rfl

@[simp] theorem State.dropPage_mem (s : State) (pa big) : (s.dropPage pa big).mem = s.mem := rfl

@[simp] theorem State.mapLaunches_mem (s : State) (f) : (s.mapLaunches f).mem = s.mem := rfl

@[simp] theorem State.putOp_mem (s : State) (key ticket op) : (s.putOp key ticket op).mem = s.mem := rfl

@[simp] theorem State.elemFailed_mem (s : State) (key ticket a cause) :
    (s.elemFailed key ticket a cause).mem = s.mem := by
  unfold State.elemFailed
  split <;> rfl

@[simp] theorem State.engineHeard_mem (s : State) (core ticket a cls sub data) :
    (s.engineHeard core ticket a cls sub data).mem = s.mem := by
  unfold State.engineHeard
  repeat' split
  all_goals simp

@[simp] theorem State.putCmd_mem (s : State) (id c) : (s.putCmd id c).mem = s.mem := rfl

@[simp] theorem State.cmdHeard_mem (s : State) (id a cls data) : (s.cmdHeard id a cls data).mem = s.mem := by
  unfold State.cmdHeard
  repeat' split
  all_goals simp

@[simp] theorem State.holderReply_mem (s : State) (work key bs) : (s.holderReply work key bs).mem = s.mem := by
  unfold State.holderReply
  repeat' split
  all_goals simp

@[simp] theorem State.holderFail_mem (s : State) (work cls sub) : (s.holderFail work cls sub).mem = s.mem := by
  unfold State.holderFail
  split <;> simp

@[simp] theorem State.updWalk_mem (s : State) (w f) : (s.updWalk w f).mem = s.mem := rfl

@[simp] theorem State.walkHeard_mem (s : State) (part die page cls sub home data) :
    (s.walkHeard part die page cls sub home data).mem = s.mem := by
  unfold State.walkHeard
  split <;> rfl

@[simp] theorem State.hostAnswer_mem (s : State) (b d) : (s.hostAnswer b d).mem = s.mem := rfl

@[simp] theorem State.unsnap_mem (s : State) (x1) : (s.unsnap x1).mem = s.mem := by
  unfold State.unsnap
  split <;> rfl

@[simp] theorem State.dropAccess_mem (s : State) (ck) : (s.dropAccess ck).mem = s.mem := rfl

@[simp] theorem State.without_mem (s : State) (part) : (s.without part).mem = s.mem := rfl

@[simp] theorem State.ordClose_mem (s : State) (key nsrc rows) : (s.ordClose key nsrc rows).mem = s.mem := by
  simp [State.ordClose]

@[simp] theorem State.keepClose_mem (s : State) (m left) : (s.keepClose m left).mem = s.mem := by
  unfold State.keepClose
  split <;> rfl

@[simp] theorem State.latchSet_mem (s : State) (n port brk seq holder) :
    (s.latchSet n port brk seq holder).mem = s.mem := rfl

@[simp] theorem State.latchRefuse_mem (s : State) (n port) : (s.latchRefuse n port).mem = s.mem := rfl

@[simp] theorem State.updLink_mem (s : State) (p f) : (s.updLink p f).mem = s.mem := rfl

@[simp] theorem State.rekey_mem (s : State) (p) : (s.rekey p).mem = s.mem := rfl

@[simp] theorem State.startUpdate_mem (s : State) (p) : (s.startUpdate p).mem = s.mem := by
  unfold State.startUpdate
  split <;> simp

@[simp] theorem State.hpreRefused_mem (s : State) (b) : (s.hpreRefused b).mem = s.mem := rfl

@[simp] theorem State.restoreDie_mem (s : State) (d x) : (s.restoreDie d x).mem = s.mem := rfl

@[simp] theorem State.restoreRound_mem (s : State) (part r) : (s.restoreRound part r).mem = s.mem := rfl

@[simp] theorem State.restore_mem (s : State) (slot part c) : (s.restore slot part c).mem = s.mem := by
  refine (State.foldl_mem _ (fun s d => s.restoreDie_mem _ _) _ _).trans ?_
  refine (State.foldl_mem _ (fun s r => s.restoreRound_mem part r) _ _).trans ?_
  refine (State.foldl_mem _ (fun s o => s.updCore_mem _ _) _ _).trans ?_
  exact State.foldl_mem _ (fun s g => s.updCore_mem _ _) _ _

@[simp] theorem State.abortOps_mem (s : State) (wg) : (s.abortOps wg).mem = s.mem := by
  simp [State.abortOps, State.foldl_mem]

@[simp] theorem State.killWg_mem (s : State) (wg) : (s.killWg wg).mem = s.mem := by
  simp [State.killWg]

@[simp] theorem State.killLaunch_mem (s : State) (id) : (s.killLaunch id).mem = s.mem := by
  unfold State.killLaunch
  exact State.foldl_mem _ (by simp) _ _

@[simp] theorem State.setPower_mem (s : State) (p) : (s.setPower p).mem = s.mem := rfl

@[simp] theorem State.powerRefused_mem (s : State) : s.powerRefused.mem = s.mem := rfl

@[simp] theorem State.measure_mem (s : State) (k x) : (s.measure k x).mem = s.mem := rfl

@[simp] theorem State.endSession_mem (s : State) (x) : (s.endSession x).mem = s.mem := rfl

@[simp] theorem State.enterHold_mem (s : State) : s.enterHold.mem = s.mem := by
  unfold State.enterHold
  split <;> rfl

@[simp] theorem State.respond_mem (s : State) (port r) : (s.respond port r).mem = s.mem := rfl

@[simp] theorem State.drainAll_mem (s : State) (digest) : (s.drainAll digest).mem = s.mem := rfl

@[simp] theorem State.beginSession_mem (s : State) (level digest) : (s.beginSession level digest).mem = s.mem :=
  rfl

@[simp] theorem State.enterDebug_mem (s : State) (req) : (s.enterDebug req).mem = s.mem := by
  unfold State.enterDebug
  repeat' split
  all_goals simp

@[simp] theorem State.doReq_mem (s : State) (r) : (s.doReq r).mem = s.mem := by
  unfold State.doReq
  repeat' split
  all_goals simp

@[simp] theorem State.setRcvRefused_mem (s : State) (port b) : (s.setRcvRefused port b).mem = s.mem := rfl

@[simp] theorem State.setRcv_mem (s : State) (busy fail len) : (s.setRcv busy fail len).mem = s.mem := rfl

@[simp] theorem State.setBoot_mem (s : State) (ver src stage code) : (s.setBoot ver src stage code).mem = s.mem :=
  rfl

@[simp] theorem State.startImage_mem (s : State) (c src) : (s.startImage c src).mem = s.mem := by
  unfold State.startImage
  split <;> rfl

@[simp] theorem State.windowAt_mem (s : State) (acc) : (s.windowAt acc).mem = s.mem := by
  unfold State.windowAt
  repeat' split
  all_goals simp

@[simp] theorem State.homeStamp_mem (s : State) (req a) : (s.homeStamp req a).2.mem = s.mem := by
  unfold State.homeStamp
  split
  · dsimp only
    split <;> rfl
  · rfl

@[simp] theorem State.clearBank_mem (s : State) (p) : (s.clearBank p).mem = s.mem := by
  unfold State.clearBank
  dsimp only
  repeat' split
  all_goals simp

@[simp] theorem State.exchanged_mem (s : State) (p) : (s.exchanged p).mem = s.mem := rfl

@[simp] theorem State.flitTaken_mem (s : State) (flit p) : (s.flitTaken flit p).mem = s.mem := by
  unfold State.flitTaken
  dsimp only
  split
  all_goals
    split
    · simp
    · split <;> simp

@[simp] theorem State.resend_mem (s : State) (peer r) : (s.resend peer r).mem = s.mem := by
  unfold State.resend
  split <;> simp

@[simp] theorem State.keyed_mem (s : State) (p) : (s.keyed p).mem = s.mem := by
  unfold State.keyed
  dsimp only
  repeat' split
  all_goals simp

@[simp] theorem State.inbound_mem (s : State) (lane p) : (s.inbound lane p).mem = s.mem := by
  simp [State.inbound]

@[simp] theorem State.relockLane_mem (s : State) (lane st) : (s.relockLane lane st).mem = s.mem := by
  simp [State.relockLane]

@[simp] theorem State.strike_mem (s : State) (x1) : (s.strike x1).mem = s.mem := by
  unfold State.strike
  split <;> rfl

@[simp] theorem State.scatterSend_mem (s : State) (t gid g o) : (s.scatterSend t gid g o).mem = s.mem := by
  simp [State.scatterSend]

theorem State.askUnit_mem {s s' : State} {o va pa hop} (h : s.askUnit o va pa hop = some s') : s'.mem = s.mem := by
  unfold State.askUnit at h
  split at h
  · cases h
  · cases h
    exact s.sendAway_mem _

@[simp] theorem State.walkOp_mem (s : State) (o part die page) : (s.walkOp o part die page).mem = s.mem := by
  unfold State.walkOp
  split <;> simp

@[simp] theorem State.bootEnd_mem (s : State) (b) : (s.bootEnd b).mem = s.mem := by
  unfold State.bootEnd
  dsimp only
  repeat' split
  all_goals simp

@[simp] theorem State.zeroise_mem (s : State) : s.zeroise.mem = s.mem := rfl

@[simp] theorem State.takeTurns_mem (s : State) (rs) : (s.takeTurns rs).mem = s.mem := by
  induction rs generalizing s with
  | nil => rfl
  | cons r rs ih =>
    unfold State.takeTurns
    split
    · rfl
    · exact (ih _).trans (s.doReq_mem r)

@[simp] theorem State.lanesUp_mem (s : State) : s.lanesUp.mem = s.mem := by
  simp [State.lanesUp]

@[simp] theorem State.entryDone_mem (s : State) (digest) : (s.entryDone digest).mem = s.mem := by
  simp [State.entryDone]

@[simp] theorem State.debugWrite_mem (s : State) (tid r) : (s.debugWrite tid r).mem = s.mem := by
  unfold State.debugWrite
  split <;> rfl

@[simp] theorem State.tick_mem (s : State) : s.tick.mem = s.mem := rfl

@[simp] theorem State.picked_mem (s : State) : s.picked.mem = s.mem := by
  unfold State.picked
  split <;> rfl

end Sys2Proof.Machine
end

section
/-!
PROOFS. What writes memory keeps its canonical form (O5).
-/

namespace Sys2Proof.Machine

/-- Every answer of a meaning has a property. -/

def Yields {ε α : Type} (P : α → Prop) (x : Except ε α) : Prop := ∀ a, x = .ok a → P a

@[simp] theorem yields_ok {ε α : Type} (P : α → Prop) (a : α) : Yields P (.ok a : Except ε α) ↔ P a :=
  ⟨fun h => h a rfl, fun h _ he => Except.ok.inj he ▸ h⟩

@[simp] theorem yields_error {ε α : Type} (P : α → Prop) (e : ε) : Yields P (.error e : Except ε α) := by
  rintro _ ⟨⟩

theorem Yields.bind {ε α β : Type} {P : α → Prop} {Q : β → Prop} {x : Except ε α} {k : α → Except ε β}
    (hx : Yields P x) (hk : ∀ a, P a → Yields Q (k a)) : Yields Q (x >>= k) := by
  cases x with
  | error e => exact yields_error Q e
  | ok a => exact hk a (hx a rfl)

/-- Whatever a check answers. -/
theorem Yields.check {ε α β : Type} {Q : β → Prop} {x : Except ε α} {k : α → Except ε β}
    (hk : ∀ a, Yields Q (k a)) : Yields Q (x >>= k) :=
  Yields.bind (P := fun _ => True) (fun _ _ => trivial) fun a _ => hk a

theorem State.foldl_wf {α : Type} {f : State → α → State} (hf : ∀ s a, s.mem.wf = true → (f s a).mem.wf = true)
    (l : List α) {s : State} (h : s.mem.wf = true) : (l.foldl f s).mem.wf = true := by
  induction l generalizing s with
  | nil => exact h
  | cons a l ih => exact ih (hf s a h)

@[simp] theorem State.putPhys_wf {s : State} (pa bs) (h : s.mem.wf = true) : (s.putPhys pa bs).mem.wf = true :=
  Store.wf_putBytes _ _ h

theorem State.getD_wf {o : Option State} {s : State} (ho : ∀ s', o = some s' → s'.mem.wf = true)
    (h : s.mem.wf = true) : (o.getD s).mem.wf = true := by
  cases o with
  | none => exact h
  | some s' => exact ho s' rfl

@[simp] theorem State.porchStore_wf {s : State} (pa bs) (h : s.mem.wf = true) : (s.porchStore pa bs).mem.wf = true := by
  unfold State.porchStore
  dsimp only
  split
  · rwa [State.sendAway_mem]
  · split <;> simp [h]

@[simp] theorem State.ashWrite_wf {s : State} (r) (h : s.mem.wf = true) : (s.ashWrite r).mem.wf = true := by
  simp [State.ashWrite, h]

@[simp] theorem State.post_wf {s : State} (r) (h : s.mem.wf = true) : (s.post r).mem.wf = true := by
  unfold State.post
  repeat' split
  all_goals simp [h]

@[simp] theorem State.parityRecord_wf {s : State} (t x) (h : s.mem.wf = true) : (s.parityRecord t x).mem.wf = true := by
  unfold State.parityRecord
  repeat' split
  all_goals simp [h]

theorem State.hearthStore_wf {s s' : State} {part va bs} (h : s.mem.wf = true)
    (hs : s.hearthStore part va bs = some s') : s'.mem.wf = true := by
  unfold State.hearthStore at hs
  split at hs
  · cases hs
    exact State.putPhys_wf _ _ h
  · cases hs
    rwa [State.sendAway_mem]
  · cases hs

theorem State.hearthPut_wf {s s' : State} {part va bs chain} (h : s.mem.wf = true)
    (hs : s.hearthPut part va bs chain = some s') : s'.mem.wf = true := by
  unfold State.hearthPut at hs
  split at hs
  · cases hs
    exact h
  · exact State.hearthStore_wf h hs

@[simp] theorem State.putPhysNat_wf {s : State} (pa n v) (h : s.mem.wf = true) :
    (s.putPhysNat pa n v).mem.wf = true := by
  unfold State.putPhysNat
  simp [h]

@[simp] theorem State.hearthPut_getD_wf {s : State} (part va bs chain) (h : s.mem.wf = true) :
    ((s.hearthPut part va bs chain).getD s).mem.wf = true :=
  State.getD_wf (fun _ => State.hearthPut_wf h) h

theorem State.objArrive_wf {s s' : State} {part va n} (h : s.mem.wf = true) (hs : s.objArrive part va n = some s') :
    s'.mem.wf = true := by
  unfold State.objArrive at hs
  split at hs
  · split at hs
    · cases hs
    · cases hs
      exact State.putPhysNat_wf _ _ _ h
  · cases hs
    rwa [State.sendBar_mem]
  · cases hs

theorem State.objAdd_wf {s s' : State} {part va n chain} (h : s.mem.wf = true)
    (hs : s.objAdd part va n chain = some s') : s'.mem.wf = true := by
  unfold State.objAdd at hs
  split at hs
  · cases hs
    exact h
  · exact State.objArrive_wf h hs

@[simp] theorem State.objAdd_getD_wf {s : State} (part va n chain) (h : s.mem.wf = true) :
    ((s.objAdd part va n chain).getD s).mem.wf = true :=
  State.getD_wf (fun _ => State.objAdd_wf h) h

@[simp] theorem State.taskDone_wf {s : State} (id) (h : s.mem.wf = true) : (s.taskDone id).mem.wf = true := by
  unfold State.taskDone
  dsimp only
  split
  · exact h
  · repeat' split
    all_goals simp [h]

@[simp] theorem State.endInstance_wf {s : State} (tid t cls sub code) (h : s.mem.wf = true) :
    (s.endInstance tid t cls sub code).mem.wf = true := by
  unfold State.endInstance
  dsimp only
  refine State.taskDone_wf _ ?_
  split <;> split <;> simp [h]

@[simp] theorem State.halt_wf {s : State} (tid t x) (h : s.mem.wf = true) : (s.halt tid t x).mem.wf = true := by
  simp [State.halt, h]

@[simp] theorem State.takeTrap_wf {s : State} (tid t x) (h : s.mem.wf = true) : (s.takeTrap tid t x).mem.wf = true := by
  have hp := State.parityRecord_wf t x h
  unfold State.takeTrap
  dsimp only
  repeat' split
  all_goals simp [hp]

@[simp] theorem State.takeDue_wf {s : State} (tid t x) (h : s.mem.wf = true) : (s.takeDue tid t x).mem.wf = true := by
  unfold State.takeDue
  simp [h]

theorem done_wf {s : State} (t) (h : s.mem.wf = true) : Yields (fun r => r.1.mem.wf = true) (done s t) := by
  unfold done
  simp [h]

theorem doneAt_wf {s : State} (t target) (h : s.mem.wf = true) :
    Yields (fun r => r.1.mem.wf = true) (doneAt s t target) := by
  unfold doneAt
  simp [h]

theorem branchIf_wf {s : State} (t c f) (h : s.mem.wf = true) : Yields (fun r => r.1.mem.wf = true) (branchIf s t c f) := by
  unfold branchIf
  split
  · exact doneAt_wf t _ h
  · exact done_wf t h

@[simp] theorem State.abandonOp_wf {s : State} (key ticket op x) (h : s.mem.wf = true) :
    (s.abandonOp key ticket op x).mem.wf = true := by
  simp [State.abandonOp, h]

@[simp] theorem State.groupEnded_wf {s : State} (wg due) (h : s.mem.wf = true) :
    (s.groupEnded wg due).mem.wf = true := by
  unfold State.groupEnded
  dsimp only
  split
  · split <;> simp [h]
  · refine State.foldl_wf (fun s c h => State.foldl_wf (fun s o h => ?_) _ h) _ h
    repeat' split
    all_goals simp [h]

theorem State.writeSpecial_wf {s : State} (t n v) (h : s.mem.wf = true) :
    Yields (fun r => r.1.mem.wf = true) (s.writeSpecial t n v) := by
  unfold State.writeSpecial
  repeat' split
  all_goals simp [h]

theorem State.loadHeard_wf {s : State} (t n ps) (h : s.mem.wf = true) :
    Yields (fun r => r.2.1.mem.wf = true) (s.loadHeard t n ps) := by
  unfold State.loadHeard
  repeat' split
  all_goals simp [h]

theorem State.loadWords_wf {s : State} (t va k) (h : s.mem.wf = true) :
    Yields (fun r => r.2.1.mem.wf = true) (s.loadWords t va k) := by
  refine .check fun _ => .check fun ps => ?_
  split
  · exact yields_error _ _
  · exact .bind (State.loadHeard_wf t 8 ps h) fun r hr => (yields_ok ..).mpr hr

@[simp] theorem State.grantPart_wf {s : State} (g h') (h : s.mem.wf = true) : (s.grantPart g h').mem.wf = true := by
  unfold State.grantPart
  dsimp only
  split
  · exact h
  · exact State.porchStore_wf _ _ h

@[simp] theorem State.grantFull_wf {s : State} (id) (h : s.mem.wf = true) : (s.grantFull id).mem.wf = true := by
  simp [State.grantFull, h]

theorem blocks_wf {s : State} (t) (h : s.mem.wf = true) : Yields (fun r => r.1.mem.wf = true) (blocks s t) := by
  unfold blocks
  simp [h]

@[simp] theorem State.writePlace_wf {s : State} (t p bs) (h : s.mem.wf = true) :
    (s.writePlace t p bs).1.mem.wf = true := by
  cases p with
  | phys pa =>
    simp only [State.writePlace, State.noteCode_mem]
    exact Store.wf_putBytes pa bs h
  | _ => exact h

@[simp] theorem State.storePlaces_wf {s : State} (t ws) (h : s.mem.wf = true) :
    (s.storePlaces t ws).1.mem.wf = true := by
  induction ws generalizing s t with
  | nil => exact h
  | cons w ws ih => exact ih _ (by simp [h])

@[simp] theorem State.performLane_wf {s : State} (t a l) (h : s.mem.wf = true) :
    (s.performLane t a l).1.mem.wf = true := by
  unfold State.performLane
  repeat' split
  all_goals simp [h]

@[simp] theorem State.performLanes_wf {s : State} (t a ls) (h : s.mem.wf = true) :
    (s.performLanes t a ls).1.mem.wf = true := by
  induction ls generalizing s t with
  | nil => exact h
  | cons l ls ih =>
    unfold State.performLanes
    split
    · exact h
    · exact ih _ (State.performLane_wf _ _ _ h)

@[simp] theorem State.drainPend_wf {s : State} (t ps) (h : s.mem.wf = true) : (s.drainPend t ps).1.mem.wf = true := by
  induction ps generalizing s t with
  | nil => exact h
  | cons p ps ih =>
    cases p with
    | store ws =>
      unfold State.drainPend
      split
      · exact h
      · exact ih _ (State.storePlaces_wf t ws h)
    | access a =>
      have hl := State.performLanes_wf t a a.lanes h
      unfold State.drainPend
      dsimp only
      split
      · split
        · exact ih _ hl
        · exact hl
      · simpa using hl

@[simp] theorem State.enqueue_wf {s : State} (t at_ kind op size ls pid) (h : s.mem.wf = true) :
    (s.enqueue t at_ kind op size ls pid).1.mem.wf = true := by
  unfold State.enqueue
  split <;> simp [h]

theorem State.storeAll_wf {s : State} (t op n ls) (h : s.mem.wf = true) :
    Yields (fun r => r.1.mem.wf = true) (s.storeAll t op n ls) := by
  refine .check fun _ => ?_
  dsimp only
  split
  · exact yields_error _ _
  · rw [yields_ok]
    repeat' split
    all_goals simp [h]

theorem State.loadInto_wf {s : State} (t toG reg n op size ps) (h : s.mem.wf = true) :
    Yields (fun r => r.1.mem.wf = true) (s.loadInto t toG reg n op size ps) := by
  refine .check fun _ => ?_
  rw [yields_ok]
  split <;> simp [h]

@[simp] theorem State.unpin_wf {s : State} (wg page) (h : s.mem.wf = true) : (s.unpin wg page).mem.wf = true := by
  unfold State.unpin
  split
  · exact h
  · exact State.foldl_wf (fun _ _ => State.porchStore_wf _ _) _ h

theorem State.takeEntry_wf {s : State} (t op) (h : s.mem.wf = true) :
    Yields (fun r => r.2.mem.wf = true) (s.takeEntry t op) := by
  unfold State.takeEntry
  split <;> simp [h]

theorem State.takeTicket_wf {s : State} (t dst op) (h : s.mem.wf = true) :
    Yields (fun r => r.1.mem.wf = true) (s.takeTicket t dst op) :=
  .bind (State.takeEntry_wf t op h) fun _ hr => (yields_ok ..).mpr hr

@[simp] theorem State.barUpd_wf {s : State} (t r f kind data) (h : s.mem.wf = true) :
    (s.barUpd t r f kind data).1.mem.wf = true := by
  unfold State.barUpd
  repeat' split
  all_goals simp [h]

@[simp] theorem State.barAdd_wf {s : State} (t r n) (h : s.mem.wf = true) : (s.barAdd t r n).1.mem.wf = true := by
  unfold State.barAdd
  simp [h]

theorem State.block_wf {s : State} (t r p timeout dst) (h : s.mem.wf = true) :
    Yields (fun r => r.1.mem.wf = true) (s.block t r p timeout dst) := blocks_wf _ h

theorem State.barLoad_wf {s : State} (t r) (h : s.mem.wf = true) :
    Yields (fun r => r.2.1.mem.wf = true) (s.barLoad t r) := by
  cases r with
  | object va p => exact .bind (State.loadHeard_wf t 64 _ h) fun _ hr => (yields_ok ..).mpr hr
  | _ => exact (yields_ok ..).mpr h

@[simp] theorem State.atomPlaces_wf {s : State} (t o a cmp ps) (h : s.mem.wf = true) :
    (s.atomPlaces t o a cmp ps).2.1.mem.wf = true := by
  induction ps generalizing s t with
  | nil => exact h
  | cons p ps ih => exact ih _ (by simp [h])

@[simp] theorem State.drainOne_wf {s : State} (t) (h : s.mem.wf = true) : (s.drainOne t).1.mem.wf = true := by
  unfold State.drainOne
  split <;> simp [h]

@[simp] theorem State.drain_wf {s : State} (t n) (h : s.mem.wf = true) : (s.drain t n).1.mem.wf = true := by
  induction n generalizing s t with
  | zero => exact h
  | succ n ih => exact ih _ (State.drainOne_wf t h)

@[simp] theorem State.fenceMcc_wf {s : State} (t) (h : s.mem.wf = true) : (s.fenceMcc t).1.mem.wf = true := by
  simp [State.fenceMcc, h]

theorem State.readList_wf {s : State} (t va w n) (h : s.mem.wf = true) :
    Yields (fun r => r.2.1.mem.wf = true) (s.readList t va w n) := by
  refine .check fun ps => ?_
  split
  · exact yields_error _ _
  · simp [h]

theorem State.gatherStart_wf {s : State} (t f g span) (h : s.mem.wf = true) :
    Yields (fun r => r.1.mem.wf = true) (s.gatherStart t f g span) := by
  refine .bind (State.takeEntry_wf (s := { s with nextId := s.nextId + 1 }) t _ h) fun r hr => done_wf _ ?_
  repeat' split
  all_goals simp [hr]

theorem State.storeWords_wf {s : State} (t va n k f) (h : s.mem.wf = true) :
    Yields (fun r => r.1.mem.wf = true) (s.storeWords t va n k f) :=
  .check fun _ => .check fun _ => State.storeAll_wf _ _ _ _ h

theorem State.planWords_wf {s : State} (t a gs) (h : s.mem.wf = true) :
    Yields (fun r => r.2.1.mem.wf = true) (s.planWords t a gs) := by
  induction gs generalizing s t with
  | nil => exact (yields_ok ..).mpr h
  | cons g gs ih =>
    exact .bind (State.loadWords_wf t _ 32 h) fun r hr => .bind (ih _ hr) fun _ hr => (yields_ok ..).mpr hr

@[simp] theorem State.putColumn_wf {s : State} (t a f) (h : s.mem.wf = true) : (s.putColumn t a f).mem.wf = true :=
  State.foldl_wf (fun _ _ => State.putPhysNat_wf _ _ _) _ h

@[simp] theorem State.putElem_wf {s : State} (t o e) (h : s.mem.wf = true) : (s.putElem t o e).mem.wf = true := by
  unfold State.putElem
  split
  · rwa [State.sendAway_mem]
  · simp [h]

@[simp] theorem State.putElems_wf {s : State} (t o es) (h : s.mem.wf = true) : (s.putElems t o es).mem.wf = true :=
  State.foldl_wf (fun _ _ => State.putElem_wf _ _ _) _ h

@[simp] theorem State.suspendOp_wf {s : State} (key ticket op x) (h : s.mem.wf = true) :
    (s.suspendOp key ticket op x).mem.wf = true := by
  unfold State.suspendOp
  split <;> simp [h]

@[simp] theorem State.nmDropped_wf {s : State} (id a) (h : s.mem.wf = true) : (s.nmDropped id a).mem.wf = true := by
  unfold State.nmDropped
  simp [h]

@[simp] theorem State.unitFlags_wf {s : State} (wg fl pz) (h : s.mem.wf = true) :
    (s.unitFlags wg fl pz).mem.wf = true := by
  unfold State.unitFlags
  split <;> simp [h]

@[simp] theorem State.putTile_wf {s : State} (wg t r) (h : s.mem.wf = true) : (s.putTile wg t r).mem.wf = true := by
  simp [State.putTile, h]

@[simp] theorem State.mstWord_wf {s : State} (u o c tile a) (h : s.mem.wf = true) :
    (s.mstWord u o c tile a).mem.wf = true := by
  unfold State.mstWord
  dsimp only
  split <;> split <;> simp [h]

@[simp] theorem State.mstacc_wf {s : State} (u o core tile) (h : s.mem.wf = true) :
    (s.mstacc u o core tile).mem.wf = true :=
  State.foldl_wf (fun _ _ => State.mstWord_wf _ _ _ _ _) _ h

@[simp] theorem State.unitDo_wf {s : State} (o core wg) (h : s.mem.wf = true) : (s.unitDo o core wg).mem.wf = true := by
  unfold State.unitDo
  repeat' split
  all_goals simp [h]

@[simp] theorem State.landByte_wf {s : State} (t va b) (h : s.mem.wf = true) : (s.landByte t va b).mem.wf = true := by
  unfold State.landByte
  dsimp only
  repeat' split
  all_goals simp [h]

@[simp] theorem State.land_wf {s : State} (t va bs) (h : s.mem.wf = true) : (s.land t va bs).mem.wf = true := by
  induction bs generalizing s va with
  | nil => exact h
  | cons b bs ih => exact ih _ (State.landByte_wf t va b h)

theorem State.landUnit_wf {s s' : State} {t gid u o} (h : s.mem.wf = true) (hs : s.landUnit t gid u o = some s') :
    s'.mem.wf = true := by
  unfold State.landUnit at hs
  split at hs
  · cases hs
  · obtain ⟨bs, -, rfl⟩ := Option.map_eq_some_iff.mp hs
    exact State.land_wf _ _ _ h

@[simp] theorem State.landRest_wf {s : State} (t gid) (h : s.mem.wf = true) : (s.landRest t gid).mem.wf = true := by
  refine State.foldl_wf (fun s u h => ?_) _ h
  split
  · exact h
  · exact State.getD_wf (fun _ => State.landUnit_wf h) h

@[simp] theorem State.gatherDone_wf {s : State} (core ticket op o) (h : s.mem.wf = true) :
    (s.gatherDone core ticket op o).mem.wf = true := by
  unfold State.gatherDone
  split <;> simp [h]

@[simp] theorem State.pantryRecords_wf {s : State} (t table es) (h : s.mem.wf = true) :
    (s.pantryRecords t table es).mem.wf = true :=
  State.foldl_wf (fun _ _ => State.post_wf _) _ h

@[simp] theorem State.overrunTest_wf {s : State} (q) (h : s.mem.wf = true) : (s.overrunTest q).mem.wf = true := by
  unfold State.overrunTest
  dsimp only
  repeat' split
  all_goals simp [h]

@[simp] theorem State.putRidx_wf {s : State} (q) (h : s.mem.wf = true) : (s.putRidx q).mem.wf = true := by
  unfold State.putRidx
  split
  · exact h
  · exact State.hearthPut_getD_wf _ _ _ _ h

@[simp] theorem State.consume_wf {s : State} (q) (h : s.mem.wf = true) : (s.consume q).mem.wf = true := by
  have hpassed : ((s.updQueue q Queue.passed).putRidx q).mem.wf = true := State.putRidx_wf q h
  have hconsume := s.consume_eq q
  dsimp only at hconsume
  rw [hconsume]
  split
  · exact State.overrunTest_wf q hpassed
  · split
    · exact hpassed
    · split
      · rwa [State.yieldTest_mem]
      · rwa [State.unmap_mem]

@[simp] theorem State.entryBad_wf {s : State} (q code) (h : s.mem.wf = true) : (s.entryBad q code).mem.wf = true := by
  fun_cases State.entryBad
  simp [h]

@[simp] theorem State.signalFault_wf {s : State} (x) (h : s.mem.wf = true) : (s.signalFault x).mem.wf = true := by
  unfold State.signalFault
  simp [h]

@[simp] theorem State.signalAdd_wf {s : State} (x) (h : s.mem.wf = true) : (s.signalAdd x).mem.wf = true := by
  unfold State.signalAdd
  dsimp only
  split
  · simp [h]
  · exact h
  · simp [h]
  · rwa [State.sendAway_mem]
  · exact h

@[simp] theorem State.signalNow_wf {s : State} (x) (h : s.mem.wf = true) : (s.signalNow x).mem.wf = true := by
  unfold State.signalNow
  split
  · split
    · simp [h]
    · rwa [State.sendAway_mem]
    · exact h
  · simp [h]
  · simp [h]
  · exact h

@[simp] theorem State.signalDone_wf {s : State} (x) (h : s.mem.wf = true) : (s.signalDone x).mem.wf = true := by
  unfold State.signalDone
  repeat' split
  all_goals simp [h]

@[simp] theorem State.refuse_wf {s : State} (part die code host h') (h : s.mem.wf = true) :
    (s.refuse part die code host h').mem.wf = true :=
  State.signalDone_wf _ (State.post_wf _ h)

@[simp] theorem State.waitFails_wf {s : State} (q bar) (h : s.mem.wf = true) : (s.waitFails q bar).mem.wf = true := by
  unfold State.waitFails
  simp [h]

@[simp] theorem State.copyDone_wf {s : State} (part done wrote err) (h : s.mem.wf = true) :
    (s.copyDone part done wrote err).mem.wf = true := by
  unfold State.copyDone
  split
  · exact h
  · exact State.objAdd_getD_wf _ _ _ _ h

@[simp] theorem State.endCmd_wf {s : State} (id c fault) (h : s.mem.wf = true) :
    (s.endCmd id c fault).mem.wf = true := by
  unfold State.endCmd
  split <;> simp [h]

@[simp] theorem State.closeRound_wf {s : State} (wg g l sl) (h : s.mem.wf = true) :
    (s.closeRound wg g l sl).mem.wf = true := by
  unfold State.closeRound
  dsimp only
  split
  · exact h
  · split <;> simp [h]

@[simp] theorem State.setPte_wf {s : State} (entry f) (h : s.mem.wf = true) : (s.setPte entry f).mem.wf = true := by
  unfold State.setPte
  simp [h]

@[simp] theorem State.startMove_wf {s : State} (tier d v) (h : s.mem.wf = true) : (s.startMove tier d v).mem.wf = true := by
  simpa [State.startMove] using State.foldl_wf (fun _ _ => State.setPte_wf _ _) _ h

theorem copyOver_wf {m : Memory} (from_ dest n) (h : m.wf = true) : (copyOver m from_ dest n).wf = true :=
  Store.wf_sets _ (Store.wf_clear _ _ h)

@[simp] theorem State.movePage_wf {s : State} (from_ dest n) (h : s.mem.wf = true) :
    (s.movePage from_ dest n).mem.wf = true :=
  copyOver_wf from_ dest n h

@[simp] theorem State.endMove_wf {s : State} (tier dest pa big had) (h : s.mem.wf = true) :
    (s.endMove tier dest pa big had).mem.wf = true := by
  unfold State.endMove
  dsimp only [State.dropPage_mem]
  refine State.foldl_wf (fun _ _ => State.setPte_wf _ _) _ ?_
  split <;> simp [h]

@[simp] theorem State.trapOrPend_wf {s : State} (tid t x) (h : s.mem.wf = true) :
    (s.trapOrPend tid t x).mem.wf = true := by
  unfold State.trapOrPend
  repeat' split
  all_goals simp [h]

@[simp] theorem State.askDone_wf {s : State} (tid id a cls sub data ts) (h : s.mem.wf = true) :
    (s.askDone tid id a cls sub data ts).mem.wf = true := by
  unfold State.askDone
  repeat' split
  all_goals simp [h]

@[simp] theorem State.nmHeard_wf {s : State} (id cls) (h : s.mem.wf = true) : (s.nmHeard id cls).mem.wf = true := by
  unfold State.nmHeard
  repeat' split
  all_goals simp [h]

@[simp] theorem State.porchArrive_wf {s : State} (pa n) (h : s.mem.wf = true) : (s.porchArrive pa n).mem.wf = true := by
  unfold State.porchArrive
  dsimp only
  repeat' split
  all_goals simp [h]

@[simp] theorem State.porchPut_wf {s : State} (k pa bs) (h : s.mem.wf = true) : (s.porchPut k pa bs).mem.wf = true := by
  unfold State.porchPut
  dsimp only
  split
  · rwa [State.sendAway_mem]
  · exact State.porchStore_wf _ _ h

@[simp] theorem State.putStatus_wf {s : State} (k) (h : s.mem.wf = true) : (s.putStatus k).mem.wf = true :=
  State.foldl_wf (fun _ _ => State.porchPut_wf _ _ _) _ h

@[simp] theorem State.putTracker_wf {s : State} (k) (h : s.mem.wf = true) : (s.putTracker k).mem.wf = true := by
  have hput (s : State) (us : List RowUnit) (h : s.mem.wf = true) :
      (us.foldl (fun s u => s.porchPut k u.pa u.data) s).mem.wf = true :=
    State.foldl_wf (fun _ _ => State.porchPut_wf _ _ _) _ h
  unfold State.putTracker
  dsimp only
  repeat' split
  · exact h
  · exact State.porchArrive_wf _ _ h
  · exact State.porchArrive_wf _ _ (State.putStatus_wf _ (hput _ _ h))
  · exact State.putStatus_wf _ (hput _ _ h)

@[simp] theorem State.trackerHeard_wf {s : State} (rid expert replica) (h : s.mem.wf = true) :
    (s.trackerHeard rid expert replica).mem.wf = true := by
  unfold State.trackerHeard
  repeat' split
  all_goals simp [h]

@[simp] theorem State.signalHeard_wf {s : State} (x added cls) (h : s.mem.wf = true) :
    (s.signalHeard x added cls).mem.wf = true := by
  unfold State.signalHeard
  repeat' split
  all_goals simp [h]

@[simp] theorem State.awayDone_wf {s : State} (id a cls sub data ts) (h : s.mem.wf = true) :
    (s.awayDone id a cls sub data ts).mem.wf = true := by
  unfold State.awayDone
  repeat' split
  all_goals simp [h]

@[simp] theorem State.rollBack_wf {s : State} (tid t a) (h : s.mem.wf = true) : (s.rollBack tid t a).mem.wf = true := by
  unfold State.rollBack
  dsimp only
  repeat' split
  all_goals simp [h]

@[simp] theorem State.goOn_wf {s : State} (tid t a ps) (h : s.mem.wf = true) : (s.goOn tid t a ps).mem.wf = true := by
  have hd := State.drainPend_wf t (.access a :: ps) h
  unfold State.goOn
  dsimp only
  repeat' split
  all_goals simp [hd]

@[simp] theorem State.laneDone_wf {s : State} (tid t a ps vals bad sub ts) (h : s.mem.wf = true) :
    (s.laneDone tid t a ps vals bad sub ts).mem.wf = true := by
  unfold State.laneDone
  simp [h]

@[simp] theorem State.unpinAll_wf {s : State} (wg) (h : s.mem.wf = true) : (s.unpinAll wg).mem.wf = true := by
  unfold State.unpinAll
  split
  · exact h
  · exact State.foldl_wf (fun _ _ => State.unpin_wf _ _) _ h

@[simp] theorem State.rowIn_wf {s : State} (k m) (h : s.mem.wf = true) : (s.rowIn k m).mem.wf = true := by
  unfold State.rowIn
  repeat' split
  all_goals simp [h]

theorem State.takeRow_wf {s s' : State} {m} (h : s.mem.wf = true) (hs : s.takeRow m = some s') : s'.mem.wf = true := by
  unfold State.takeRow at hs
  split at hs
  · cases hs
  · obtain ⟨k, -, rfl⟩ := Option.map_eq_some_iff.mp hs
    exact State.rowIn_wf _ _ h

@[simp] theorem State.takeCounts_wf {s : State} (m cs) (h : s.mem.wf = true) : (s.takeCounts m cs).1.mem.wf = true := by
  induction cs generalizing s with
  | nil => exact h
  | cons c cs ih =>
    unfold State.takeCounts
    split
    · exact ih h
    · exact ih (State.putTracker_wf _ h)

@[simp] theorem State.routed_wf {s : State} (m) (h : s.mem.wf = true) : (s.routed m).mem.wf = true := by
  cases m with
  | inl r =>
    unfold State.routed
    dsimp only
    split
    · exact h
    · exact State.getD_wf (fun _ => State.takeRow_wf h) h
  | inr c => simp [State.routed, h]

@[simp] theorem State.abortQueued_wf {s : State} (cunit id sub) (h : s.mem.wf = true) :
    (s.abortQueued cunit id sub).mem.wf = true := by
  unfold State.abortQueued
  simp [h]

@[simp] theorem State.abortUnit_wf {s : State} (cunit) (h : s.mem.wf = true) : (s.abortUnit cunit).mem.wf = true := by
  unfold State.abortUnit
  refine State.foldl_wf (fun _ _ => State.abortQueued_wf _ _ _) _ ?_
  dsimp only
  split <;> simp [h]

@[simp] theorem State.hostAt_wf {s : State} (acc b p) (h : s.mem.wf = true) : (s.hostAt acc b p).mem.wf = true := by
  unfold State.hostAt
  repeat' split
  all_goals simp [h]

@[simp] theorem State.dropRecord_wf {s : State} (req a) (h : s.mem.wf = true) : (s.dropRecord req a).mem.wf = true := by
  unfold State.dropRecord
  repeat' split
  all_goals simp [h]

@[simp] theorem State.laneFailed_wf {s : State} (lane tag) (h : s.mem.wf = true) : (s.laneFailed lane tag).mem.wf = true := by
  refine State.foldl_wf (fun s r h => ?_) _ (State.post_wf _ h)
  rwa [State.resend_mem]

@[simp] theorem State.laneMismatch_wf {s : State} (lane peer) (h : s.mem.wf = true) :
    (s.laneMismatch lane peer).mem.wf = true := by
  unfold State.laneMismatch
  simp [h]

@[simp] theorem State.pageWrite_wf {s : State} (dest data) (h : s.mem.wf = true) : (s.pageWrite dest data).mem.wf = true := by
  refine State.foldl_wf (fun s k h => ?_) _ h
  dsimp only
  split <;> simp [h]

@[simp] theorem State.afterReset_wf (s : State) (boot) : (s.afterReset boot).mem.wf = true := rfl

@[simp] theorem State.dueDo_wf {s : State} (d) (h : s.mem.wf = true) : (s.dueDo d).mem.wf = true := by
  unfold State.dueDo
  split
  · exact State.getD_wf (fun _ => State.hearthStore_wf h) h
  · exact State.getD_wf (fun _ => State.objArrive_wf h) h
  · simp [h]
  · simp [h]

@[simp] theorem State.debugStore_wf {s : State} (pa bs) (h : s.mem.wf = true) : (s.debugStore pa bs).mem.wf = true := by
  unfold State.debugStore
  repeat' split
  all_goals simp [h]

end Sys2Proof.Machine
end

section
/-!
PROOFS. Every instruction, every event and every step keeps memory canonical (O5).
-/

namespace Sys2Proof.Machine

theorem yields_bind {ε α β : Type} (Q : β → Prop) (x : Except ε α) (k : α → Except ε β) :
    Yields Q (x >>= k) ↔ ∀ a, x = .ok a → Yields Q (k a) := by
  cases x with
  | error e => simp [Yields, bind, Except.bind]
  | ok a => simp [Yields, bind, Except.bind]

theorem yields_ite {ε α : Type} (P : α → Prop) (c : Prop) [Decidable c] (x y : Except ε α) :
    Yields P (if c then x else y) ↔ (c → Yields P x) ∧ (¬c → Yields P y) := by
  split <;> simp [*]

theorem Yields.ite {ε α : Type} {P : α → Prop} {c : Prop} [Decidable c] {x y : Except ε α} (hx : Yields P x)
    (hy : Yields P y) : Yields P (if c then x else y) := by
  split <;> assumption

/-- A `do` block whose branches meet again in `k`. -/
theorem Yields.joint {ε α β : Type} {P : α → Prop} {k : β → Except ε α} {body : (β → Except ε α) → Except ε α}
    (hk : ∀ b, Yields P (k b)) (hb : ∀ j : β → Except ε α, (∀ b, Yields P (j b)) → Yields P (body j)) :
    Yields P (have j := k; body j) :=
  hb k hk

theorem Yields.branch {ε α β : Type} {P : α → Prop} {c : Prop} [Decidable c] {x y : Except ε β} {k : β → Except ε α}
    (hk : ∀ b, Yields P (k b)) : Yields P (if c then x >>= k else y >>= k) :=
  .ite (.check hk) (.check hk)

@[simp] theorem yields_done {s : State} {t : Thread} : Yields (fun r => r.1.mem.wf = true) (done s t) ↔ s.mem.wf = true := by
  simp [done]

@[simp] theorem yields_doneAt {s : State} {t : Thread} {n : Nat} : Yields (fun r => r.1.mem.wf = true) (doneAt s t n) ↔ s.mem.wf = true := by
  simp [doneAt]

@[simp] theorem yields_blocks {s : State} {t : Thread} : Yields (fun r => r.1.mem.wf = true) (blocks s t) ↔ s.mem.wf = true := by
  simp [blocks]

/-- An outcome goes on, if it does, with memory in its canonical form. -/
def Keeps (o : Host.Outcome State Fault Refusal) : Prop := ∀ s', o = .next s' → s'.mem.wf = true

@[simp] theorem keeps_next {s : State} : Keeps (.next s) ↔ s.mem.wf = true :=
  ⟨fun h => h s rfl, fun h _ he => Host.Outcome.next.inj he ▸ h⟩

@[simp] theorem keeps_fault (e : Fault) : Keeps (.fault e) := by rintro _ ⟨⟩

@[simp] theorem keeps_notEnabled : Keeps notEnabled := keeps_fault _

theorem Keeps.ite {c : Prop} [Decidable c] {x y : Host.Outcome State Fault Refusal} (hx : Keeps x) (hy : Keeps y) :
    Keeps (if c then x else y) := by
  split <;> assumption

@[simp] theorem when_keeps {s : State} (c : Bool) (h : s.mem.wf = true) : Keeps (when c s) := by
  cases c <;> simp [when, h]

theorem State.settle_keeps {s : State} (tid t) {r : Except Ev (State × Thread)} (h : s.mem.wf = true)
    (hr : Yields (fun r => r.1.mem.wf = true) r) : Keeps (s.settle tid t r) := by
  unfold State.settle
  split
  · simpa using hr
  · split <;> simp [h]
  all_goals simp [h]

theorem run_keeps {s : State} {k : Thread → Except Ev (State × Thread)} (h : s.mem.wf = true)
    (hk : ∀ t, Yields (fun r => r.1.mem.wf = true) (k t)) : Keeps (run s k) := by
  unfold run
  split
  · exact keeps_fault _
  · exact State.settle_keeps _ _ (by simpa using h) (hk _)

theorem execNop_keeps {s : State} (x0) (h : s.mem.wf = true) : Keeps (execNop x0 s) :=
  run_keeps h fun t => by simp [h]

theorem execBr_keeps {s : State} (f) (h : s.mem.wf = true) : Keeps (execBr f s) :=
  run_keeps h fun t => branchIf_wf t _ f (by simpa using h)

theorem execBrc_keeps {s : State} (f) (h : s.mem.wf = true) : Keeps (execBrc f s) :=
  run_keeps h fun t => branchIf_wf t _ f (by simpa using h)

theorem execBrm_keeps {s : State} (f) (h : s.mem.wf = true) : Keeps (execBrm f s) :=
  run_keeps h fun t => branchIf_wf t _ f (by simpa using h)

theorem execBrmEm_keeps {s : State} (f) (h : s.mem.wf = true) : Keeps (execBrmEm f s) :=
  run_keeps h fun t => branchIf_wf t _ f (by simpa using h)

theorem execCall_keeps {s : State} (f) (h : s.mem.wf = true) : Keeps (execCall f s) :=
  run_keeps h fun t => by simp [yields_bind, yields_ite, h]

theorem execRet_keeps {s : State} (x0) (h : s.mem.wf = true) : Keeps (execRet x0 s) :=
  run_keeps h fun t => by simp [yields_bind, yields_ite, h]

theorem execLoop_keeps {s : State} (f) (h : s.mem.wf = true) : Keeps (execLoop f s) :=
  run_keeps h fun t => by simp [yields_bind, yields_ite, h]

theorem execExit_keeps {s : State} (x0) (h : s.mem.wf = true) : Keeps (execExit x0 s) :=
  run_keeps h fun t => by simp [yields_bind, h]

theorem execYield_keeps {s : State} (x0) (h : s.mem.wf = true) : Keeps (execYield x0 s) :=
  run_keeps h fun t => by simp [h]

theorem execTrap_keeps {s : State} (f) (h : s.mem.wf = true) : Keeps (execTrap f s) :=
  run_keeps h fun t => by simp

theorem execSvc_keeps {s : State} (f) (h : s.mem.wf = true) : Keeps (execSvc f s) :=
  run_keeps h fun t => by simp

theorem execSret_keeps {s : State} (f) (h : s.mem.wf = true) : Keeps (execSret f s) :=
  run_keeps h fun t => by simp [yields_bind, yields_ite, h]

theorem execRdsr_keeps {s : State} (f) (h : s.mem.wf = true) : Keeps (execRdsr f s) :=
  run_keeps h fun t => by simp [yields_bind, yields_ite, h]

theorem execWrsr_keeps {s : State} (f) (h : s.mem.wf = true) : Keeps (execWrsr f s) := by
  refine run_keeps h fun t => .ite (yields_error _ _) (.ite (yields_error _ _) (.check fun _ => .check fun _ => ?_))
  split
  · exact done_wf _ h
  · exact .bind (State.writeSpecial_wf _ _ _ h) fun _ hr => done_wf _ hr

theorem execLaunch_keeps {s : State} (f) (h : s.mem.wf = true) : Keeps (execLaunch f s) := by
  refine run_keeps h fun t => .check fun _ => .check fun _ => .ite (yields_error _ _) (.ite (yields_error _ _)
    (.bind (State.loadWords_wf _ _ _ h) fun _ hr => done_wf _ ?_))
  split <;> simpa using hr

theorem execAllocFull_keeps {s : State} (x0) (h : s.mem.wf = true) : Keeps (execAllocFull x0 s) :=
  run_keeps h fun t => by simp [yields_bind, yields_ite, h]

theorem execAllocRext_keeps {s : State} (f) (h : s.mem.wf = true) : Keeps (execAllocRext f s) :=
  run_keeps h fun t => by simp [yields_bind, yields_ite, h]

theorem execAllocRrel_keeps {s : State} (f) (h : s.mem.wf = true) : Keeps (execAllocRrel f s) :=
  run_keeps h fun t => by simp [yields_bind, yields_ite, h]

@[simp] theorem intOp_keeps {s : State} (f srcs rbits op) (h : s.mem.wf = true) : Keeps (intOp f s srcs rbits op) :=
  run_keeps h fun _ => .check fun _ => .check fun _ => done_wf _ h

@[simp] theorem int2_keeps {s : State} (f op) (h : s.mem.wf = true) : Keeps (int2 f s op) :=
  run_keeps h fun _ => .check fun _ => .check fun _ => done_wf _ h

theorem execIadd_keeps {s : State} (f) (h : s.mem.wf = true) : Keeps (execIadd f s) :=
  int2_keeps _ _ h

theorem execIsub_keeps {s : State} (f) (h : s.mem.wf = true) : Keeps (execIsub f s) :=
  int2_keeps _ _ h

theorem execImul_keeps {s : State} (f) (h : s.mem.wf = true) : Keeps (execImul f s) :=
  int2_keeps _ _ h

theorem execImulh_keeps {s : State} (f) (h : s.mem.wf = true) : Keeps (execImulh f s) :=
  int2_keeps _ _ h

@[simp] theorem int3_keeps {s : State} (f op) (h : s.mem.wf = true) : Keeps (int3 f s op) :=
  run_keeps h fun _ => .check fun _ => .check fun _ => done_wf _ h

theorem execImad_keeps {s : State} (f) (h : s.mem.wf = true) : Keeps (execImad f s) :=
  int3_keeps _ _ h

theorem execImadw_keeps {s : State} (f) (h : s.mem.wf = true) : Keeps (execImadw f s) :=
  run_keeps h fun _ => .check fun _ => .check fun _ => done_wf _ h

theorem execIdiv_keeps {s : State} (f) (h : s.mem.wf = true) : Keeps (execIdiv f s) :=
  int2_keeps _ _ h

theorem execIrem_keeps {s : State} (f) (h : s.mem.wf = true) : Keeps (execIrem f s) :=
  int2_keeps _ _ h

theorem execImin_keeps {s : State} (f) (h : s.mem.wf = true) : Keeps (execImin f s) :=
  int2_keeps _ _ h

theorem execImax_keeps {s : State} (f) (h : s.mem.wf = true) : Keeps (execImax f s) :=
  int2_keeps _ _ h

@[simp] theorem int1_keeps {s : State} (f op) (h : s.mem.wf = true) : Keeps (int1 f s op) :=
  run_keeps h fun _ => .check fun _ => .check fun _ => done_wf _ h

theorem execIabs_keeps {s : State} (f) (h : s.mem.wf = true) : Keeps (execIabs f s) :=
  int1_keeps _ _ h

theorem execIneg_keeps {s : State} (f) (h : s.mem.wf = true) : Keeps (execIneg f s) :=
  int1_keeps _ _ h

theorem execAnd_keeps {s : State} (f) (h : s.mem.wf = true) : Keeps (execAnd f s) :=
  int2_keeps _ _ h

theorem execOr_keeps {s : State} (f) (h : s.mem.wf = true) : Keeps (execOr f s) :=
  int2_keeps _ _ h

theorem execXor_keeps {s : State} (f) (h : s.mem.wf = true) : Keeps (execXor f s) :=
  int2_keeps _ _ h

theorem execAndn_keeps {s : State} (f) (h : s.mem.wf = true) : Keeps (execAndn f s) :=
  int2_keeps _ _ h

theorem execShl_keeps {s : State} (f) (h : s.mem.wf = true) : Keeps (execShl f s) :=
  int2_keeps _ _ h

theorem execShr_keeps {s : State} (f) (h : s.mem.wf = true) : Keeps (execShr f s) :=
  int2_keeps _ _ h

theorem execSar_keeps {s : State} (f) (h : s.mem.wf = true) : Keeps (execSar f s) :=
  int2_keeps _ _ h

theorem execRot_keeps {s : State} (f) (h : s.mem.wf = true) : Keeps (execRot f s) :=
  int2_keeps _ _ h

theorem execPopc_keeps {s : State} (f) (h : s.mem.wf = true) : Keeps (execPopc f s) :=
  int1_keeps _ _ h

theorem execClz_keeps {s : State} (f) (h : s.mem.wf = true) : Keeps (execClz f s) :=
  int1_keeps _ _ h

theorem execBrev_keeps {s : State} (f) (h : s.mem.wf = true) : Keeps (execBrev f s) :=
  int1_keeps _ _ h

theorem execBfx_keeps {s : State} (f) (h : s.mem.wf = true) : Keeps (execBfx f s) :=
  run_keeps h fun _ => .check fun _ => .check fun _ => done_wf _ h

theorem execBfi_keeps {s : State} (f) (h : s.mem.wf = true) : Keeps (execBfi f s) :=
  run_keeps h fun _ => .check fun _ => .check fun _ => done_wf _ h

theorem execIcmp_keeps {s : State} (f) (h : s.mem.wf = true) : Keeps (execIcmp f s) :=
  run_keeps h fun _ => .check fun _ => done_wf _ h

theorem execSel_keeps {s : State} (f) (h : s.mem.wf = true) : Keeps (execSel f s) :=
  run_keeps h fun _ => .check fun _ => .check fun _ => done_wf _ h

theorem execMov_keeps {s : State} (f) (h : s.mem.wf = true) : Keeps (execMov f s) :=
  run_keeps h fun _ => .check fun _ => .check fun _ => done_wf _ h

theorem execMovi_keeps {s : State} (f) (h : s.mem.wf = true) : Keeps (execMovi f s) :=
  run_keeps h fun _ => .check fun _ => done_wf _ h

theorem execLea_keeps {s : State} (f) (h : s.mem.wf = true) : Keeps (execLea f s) :=
  run_keeps h fun _ => .check fun _ => .check fun _ => done_wf _ h

theorem execWidx_keeps {s : State} (f) (h : s.mem.wf = true) : Keeps (execWidx f s) :=
  run_keeps h fun _ => .check fun _ => done_wf _ h

theorem execIadds_keeps {s : State} (f) (h : s.mem.wf = true) : Keeps (execIadds f s) :=
  int2_keeps _ _ h

theorem execMset_keeps {s : State} (f) (h : s.mem.wf = true) : Keeps (execMset f s) :=
  run_keeps h fun _ => .check fun _ => done_wf _ h

theorem execMlog_keeps {s : State} (f) (h : s.mem.wf = true) : Keeps (execMlog f s) :=
  run_keeps h fun t => by simp [h]

theorem execMif_keeps {s : State} (f) (h : s.mem.wf = true) : Keeps (execMif f s) :=
  run_keeps h fun t => by simp [yields_ite, h]

theorem execMelse_keeps {s : State} (x0) (h : s.mem.wf = true) : Keeps (execMelse x0 s) :=
  run_keeps h fun t => by simp [yields_ite, h]

theorem execMend_keeps {s : State} (x0) (h : s.mem.wf = true) : Keeps (execMend x0 s) :=
  run_keeps h fun t => by simp [yields_ite, h]

theorem execMsave_keeps {s : State} (f) (h : s.mem.wf = true) : Keeps (execMsave f s) :=
  run_keeps h fun _ => .check fun _ => .ite (yields_error _ _) (.ite (yields_error _ _)
    (.check fun _ => .bind (State.storeAll_wf _ _ _ _ h) fun _ hr => done_wf _ hr))

theorem execMload_keeps {s : State} (f) (h : s.mem.wf = true) : Keeps (execMload f s) :=
  run_keeps h fun _ => .check fun _ => .ite (yields_error _ _) (.ite (yields_error _ _)
    (.bind (State.loadWords_wf _ _ _ h) fun _ hr => .ite (yields_error _ _) (done_wf _ hr)))

theorem execMstat_keeps {s : State} (f) (h : s.mem.wf = true) : Keeps (execMstat f s) :=
  run_keeps h fun t => by simp [h]

theorem execMpopc_keeps {s : State} (f) (h : s.mem.wf = true) : Keeps (execMpopc f s) :=
  run_keeps h fun t => by simp [h]

theorem execMfirst_keeps {s : State} (f) (h : s.mem.wf = true) : Keeps (execMfirst f s) :=
  run_keeps h fun t => by simp [h]

theorem execBallot_keeps {s : State} (f) (h : s.mem.wf = true) : Keeps (execBallot f s) :=
  run_keeps h fun _ => .check fun _ => done_wf _ h

theorem execBcnt_keeps {s : State} (f) (h : s.mem.wf = true) : Keeps (execBcnt f s) :=
  run_keeps h fun _ => .check fun _ => done_wf _ h

theorem execRsel_keeps {s : State} (f) (h : s.mem.wf = true) : Keeps (execRsel f s) :=
  run_keeps h fun _ => .check fun _ => .check fun _ => .check fun _ => done_wf _ h

theorem execRselTie_keeps {s : State} (f) (h : s.mem.wf = true) : Keeps (execRselTie f s) :=
  run_keeps h fun _ => .check fun _ => done_wf _ h

theorem execVshfl_keeps {s : State} (f) (h : s.mem.wf = true) : Keeps (execVshfl f s) :=
  run_keeps h fun _ => .check fun _ => .check fun _ => .check fun _ => done_wf _ h

theorem execVred_keeps {s : State} (f) (h : s.mem.wf = true) : Keeps (execVred f s) :=
  run_keeps h fun _ => .check fun _ => .check fun _ => done_wf _ h

theorem execVscan_keeps {s : State} (f) (h : s.mem.wf = true) : Keeps (execVscan f s) :=
  run_keeps h fun _ => .check fun _ => .check fun _ => done_wf _ h

@[simp] theorem fpOp_keeps {s : State} (f srcs op) (h : s.mem.wf = true) : Keeps (fpOp f s srcs op) :=
  run_keeps h fun _ => .check fun _ => .check fun _ => done_wf _ h

@[simp] theorem fp2_keeps {s : State} (f op) (h : s.mem.wf = true) : Keeps (fp2 f s op) :=
  run_keeps h fun _ => .check fun _ => .check fun _ => done_wf _ h

theorem execFadd_keeps {s : State} (f) (h : s.mem.wf = true) : Keeps (execFadd f s) :=
  fp2_keeps _ _ h

theorem execFsub_keeps {s : State} (f) (h : s.mem.wf = true) : Keeps (execFsub f s) :=
  fp2_keeps _ _ h

theorem execFmul_keeps {s : State} (f) (h : s.mem.wf = true) : Keeps (execFmul f s) :=
  fp2_keeps _ _ h

@[simp] theorem fp3_keeps {s : State} (f op) (h : s.mem.wf = true) : Keeps (fp3 f s op) :=
  run_keeps h fun _ => .check fun _ => .check fun _ => done_wf _ h

theorem execFfma_keeps {s : State} (f) (h : s.mem.wf = true) : Keeps (execFfma f s) :=
  fp3_keeps _ _ h

theorem execFfms_keeps {s : State} (f) (h : s.mem.wf = true) : Keeps (execFfms f s) :=
  fp3_keeps _ _ h

theorem execFmin_keeps {s : State} (f) (h : s.mem.wf = true) : Keeps (execFmin f s) :=
  fp2_keeps _ _ h

theorem execFmax_keeps {s : State} (f) (h : s.mem.wf = true) : Keeps (execFmax f s) :=
  fp2_keeps _ _ h

theorem execFminm_keeps {s : State} (f) (h : s.mem.wf = true) : Keeps (execFminm f s) :=
  fp2_keeps _ _ h

theorem execFmaxm_keeps {s : State} (f) (h : s.mem.wf = true) : Keeps (execFmaxm f s) :=
  fp2_keeps _ _ h

theorem execFsgn_keeps {s : State} (f) (h : s.mem.wf = true) : Keeps (execFsgn f s) :=
  fp2_keeps _ _ h

theorem execFcmp_keeps {s : State} (f) (h : s.mem.wf = true) : Keeps (execFcmp f s) :=
  run_keeps h fun _ => .check fun _ => .check fun _ => done_wf _ h

@[simp] theorem fp1_keeps {s : State} (f op) (h : s.mem.wf = true) : Keeps (fp1 f s op) :=
  run_keeps h fun _ => .check fun _ => .check fun _ => done_wf _ h

theorem execFclass_keeps {s : State} (f) (h : s.mem.wf = true) : Keeps (execFclass f s) :=
  fp1_keeps _ _ h

theorem execFdiv_keeps {s : State} (f) (h : s.mem.wf = true) : Keeps (execFdiv f s) :=
  fp2_keeps _ _ h

theorem execFsqrt_keeps {s : State} (f) (h : s.mem.wf = true) : Keeps (execFsqrt f s) :=
  fp1_keeps _ _ h

theorem execFrcp_keeps {s : State} (f) (h : s.mem.wf = true) : Keeps (execFrcp f s) :=
  fp1_keeps _ _ h

theorem execFrsq_keeps {s : State} (f) (h : s.mem.wf = true) : Keeps (execFrsq f s) :=
  fp1_keeps _ _ h

theorem execFexp2_keeps {s : State} (f) (h : s.mem.wf = true) : Keeps (execFexp2 f s) :=
  fp1_keeps _ _ h

theorem execFlog2_keeps {s : State} (f) (h : s.mem.wf = true) : Keeps (execFlog2 f s) :=
  fp1_keeps _ _ h

theorem execFrnd_keeps {s : State} (f) (h : s.mem.wf = true) : Keeps (execFrnd f s) :=
  fp1_keeps _ _ h

theorem execFscale_keeps {s : State} (f) (h : s.mem.wf = true) : Keeps (execFscale f s) :=
  run_keeps h fun _ => .check fun _ => .check fun _ => done_wf _ h

theorem execFdot_keeps {s : State} (f) (h : s.mem.wf = true) : Keeps (execFdot f s) := by
  refine run_keeps h fun t => .check fun _ => .check fun _ => .check fun _ => .check fun _ => .check fun _ =>
    .ite (yields_error _ _) ?_
  dsimp only
  split
  · exact yields_error _ _
  · exact yields_error _ _
  · exact yields_error _ _
  · exact .ite (yields_error _ _) (.ite (yields_error _ _) (done_wf _ h))

theorem execFdp2_keeps {s : State} (f) (h : s.mem.wf = true) : Keeps (execFdp2 f s) :=
  fpOp_keeps _ _ _ h

theorem execFdp4_keeps {s : State} (f) (h : s.mem.wf = true) : Keeps (execFdp4 f s) :=
  fpOp_keeps _ _ _ h

@[simp] theorem halves_keeps {s : State} (f srcs op) (h : s.mem.wf = true) : Keeps (halves f s srcs op) :=
  run_keeps h fun _ => .check fun _ => .check fun _ => done_wf _ h

theorem execHadd2_keeps {s : State} (f) (h : s.mem.wf = true) : Keeps (execHadd2 f s) :=
  halves_keeps _ _ _ h

theorem execHmul2_keeps {s : State} (f) (h : s.mem.wf = true) : Keeps (execHmul2 f s) :=
  halves_keeps _ _ _ h

theorem execHfma2_keeps {s : State} (f) (h : s.mem.wf = true) : Keeps (execHfma2 f s) :=
  halves_keeps _ _ _ h

theorem execHmin2_keeps {s : State} (f) (h : s.mem.wf = true) : Keeps (execHmin2 f s) :=
  halves_keeps _ _ _ h

theorem execHmax2_keeps {s : State} (f) (h : s.mem.wf = true) : Keeps (execHmax2 f s) :=
  halves_keeps _ _ _ h

theorem execFgetx_keeps {s : State} (f) (h : s.mem.wf = true) : Keeps (execFgetx f s) :=
  fp1_keeps _ _ h

theorem execCvt_keeps {s : State} (f) (h : s.mem.wf = true) : Keeps (execCvt f s) :=
  run_keeps h fun _ => .check fun _ => .check fun _ => done_wf _ h

theorem execCvti_keeps {s : State} (f) (h : s.mem.wf = true) : Keeps (execCvti f s) :=
  run_keeps h fun _ => .check fun _ => .check fun _ => done_wf _ h

theorem execCvtf_keeps {s : State} (f) (h : s.mem.wf = true) : Keeps (execCvtf f s) :=
  run_keeps h fun _ => .check fun _ => .check fun _ => done_wf _ h

theorem execCvtt_keeps {s : State} (f) (h : s.mem.wf = true) : Keeps (execCvtt f s) :=
  run_keeps h fun _ => .check fun _ => .check fun _ => done_wf _ h

theorem execPack_keeps {s : State} (f) (h : s.mem.wf = true) : Keeps (execPack f s) :=
  run_keeps h fun _ => .check fun _ => .check fun _ => done_wf _ h

theorem execUnpack_keeps {s : State} (f) (h : s.mem.wf = true) : Keeps (execUnpack f s) :=
  run_keeps h fun _ => .check fun _ => .check fun _ => done_wf _ h

@[simp] theorem packLanes_keeps {s : State} (f pack place) (h : s.mem.wf = true) :
    Keeps (packLanes f s pack place) := run_keeps h fun t => by simp [yields_bind, yields_ite, h]

theorem execBfpk_keeps {s : State} (f) (h : s.mem.wf = true) : Keeps (execBfpk f s) :=
  run_keeps h fun t => by simp [yields_bind, yields_ite, h]

theorem execBfun_keeps {s : State} (f) (h : s.mem.wf = true) : Keeps (execBfun f s) :=
  run_keeps h fun _ => .check fun _ => .check fun _ => done_wf _ h

theorem execMxpk_keeps {s : State} (f) (h : s.mem.wf = true) : Keeps (execMxpk f s) :=
  run_keeps h fun t => by simp [yields_bind, yields_ite, h]

theorem execMxun_keeps {s : State} (f) (h : s.mem.wf = true) : Keeps (execMxun f s) :=
  run_keeps h fun _ => .check fun _ => .check fun _ => done_wf _ h

theorem execPlane_keeps {s : State} (f) (h : s.mem.wf = true) : Keeps (execPlane f s) :=
  run_keeps h fun _ => .check fun _ => .check fun _ => done_wf _ h

theorem execUnplane_keeps {s : State} (f) (h : s.mem.wf = true) : Keeps (execUnplane f s) :=
  run_keeps h fun _ => .check fun _ => .check fun _ => .check fun _ => done_wf _ h

theorem execSetfmt_keeps {s : State} (f) (h : s.mem.wf = true) : Keeps (execSetfmt f s) :=
  run_keeps h fun _ => .check fun _ => done_wf _ h

theorem execGetfmt_keeps {s : State} (f) (h : s.mem.wf = true) : Keeps (execGetfmt f s) :=
  run_keeps h fun t => by simp [h]

theorem execFstat_keeps {s : State} (f) (h : s.mem.wf = true) : Keeps (execFstat f s) :=
  run_keeps h fun t => by simp [h]

theorem execSetfpm_keeps {s : State} (f) (h : s.mem.wf = true) : Keeps (execSetfpm f s) :=
  run_keeps h fun t => by simp [yields_bind, yields_ite, h]

@[simp] theorem loadLanes_keeps {s : State} (f) (h : s.mem.wf = true) : Keeps (loadLanes f s) :=
  run_keeps h fun _ => .check fun _ => .check fun _ => .ite (done_wf _ h) (.check fun _ => .ite (yields_error _ _)
    (.ite (.check fun _ => done_wf _ (by simpa using h))
      (.bind (State.loadInto_wf _ _ _ _ _ _ _ h) fun _ hr => done_wf _ hr)))

theorem execLd_keeps {s : State} (f) (h : s.mem.wf = true) : Keeps (execLd f s) := by
  unfold execLd
  simp [h]

@[simp] theorem storeLanes_keeps {s : State} (f) (h : s.mem.wf = true) : Keeps (storeLanes f s) :=
  run_keeps h fun _ => .check fun _ => .check fun _ => .ite (done_wf _ h)
    (.check fun _ => .bind (State.storeAll_wf _ _ _ _ h) fun _ hr => done_wf _ hr)

theorem execSt_keeps {s : State} (f) (h : s.mem.wf = true) : Keeps (execSt f s) := by
  unfold execSt
  simp [h]

theorem execLdu_keeps {s : State} (f) (h : s.mem.wf = true) : Keeps (execLdu f s) :=
  run_keeps h fun _ => .check fun _ => .check fun _ => .ite (yields_error _ _)
    (.bind (State.loadInto_wf _ _ _ _ _ _ _ h) fun _ hr => done_wf _ hr)

theorem execStu_keeps {s : State} (f) (h : s.mem.wf = true) : Keeps (execStu f s) :=
  run_keeps h fun _ => .check fun _ => .check fun _ => .check fun _ =>
    .bind (State.storeAll_wf _ _ _ _ h) fun _ hr => done_wf _ hr

theorem execPref_keeps {s : State} (f) (h : s.mem.wf = true) : Keeps (execPref f s) :=
  run_keeps h fun t => by simp [yields_ite, h]

theorem execSpagePin_keeps {s : State} (f) (h : s.mem.wf = true) : Keeps (execSpagePin f s) := by
  refine run_keeps h fun t => .check fun _ => ?_
  split
  · exact done_wf _ h
  · exact yields_error _ _

theorem execSpageUnpin_keeps {s : State} (f) (h : s.mem.wf = true) : Keeps (execSpageUnpin f s) := by
  refine run_keeps h fun t => .check fun _ => .check fun _ => .ite (yields_error _ _) (done_wf _ ?_)
  refine State.foldl_wf (fun s j hs => ?_) _ h
  split <;> simp [hs]

theorem execSpageQuery_keeps {s : State} (f) (h : s.mem.wf = true) : Keeps (execSpageQuery f s) :=
  run_keeps h fun _ => .check fun _ => done_wf _ h

theorem execLdnt_keeps {s : State} (f) (h : s.mem.wf = true) : Keeps (execLdnt f s) := by
  unfold execLdnt
  simp [h]

theorem execStnt_keeps {s : State} (f) (h : s.mem.wf = true) : Keeps (execStnt f s) := by
  unfold execStnt
  simp [h]

@[simp] theorem copyIssue_keeps {s : State} (f kind pair n check) (h : s.mem.wf = true) :
    Keeps (copyIssue f s kind pair n check) :=
  run_keeps h fun _ => .check fun _ => .check fun _ => .check fun _ => .joint
    (fun _ => .check fun _ => .check fun _ => .bind (State.takeTicket_wf _ _ _ h) fun _ hr => done_wf _ hr)
    fun _ hj => .ite (.check hj) (.ite (.check hj) (.check hj))

theorem execCpy_keeps {s : State} (f) (h : s.mem.wf = true) : Keeps (execCpy f s) :=
  copyIssue_keeps f _ _ _ _ h

theorem execCpy2d_keeps {s : State} (f) (h : s.mem.wf = true) : Keeps (execCpy2d f s) :=
  copyIssue_keeps f _ _ _ _ h

theorem execCpypl_keeps {s : State} (f) (h : s.mem.wf = true) : Keeps (execCpypl f s) :=
  copyIssue_keeps f _ _ _ _ h

theorem execCpeat_keeps {s : State} (f) (h : s.mem.wf = true) : Keeps (execCpeat f s) :=
  copyIssue_keeps f _ _ _ _ h

theorem execCpack_keeps {s : State} (f) (h : s.mem.wf = true) : Keeps (execCpack f s) :=
  copyIssue_keeps f _ _ _ _ h

theorem execPsel_keeps {s : State} (f) (h : s.mem.wf = true) : Keeps (execPsel f s) :=
  copyIssue_keeps f _ _ _ _ h

theorem execCpfill_keeps {s : State} (f) (h : s.mem.wf = true) : Keeps (execCpfill f s) :=
  copyIssue_keeps f _ _ _ _ h

theorem execEresume_keeps {s : State} (f) (h : s.mem.wf = true) : Keeps (execEresume f s) := by
  refine run_keeps h fun t => .check fun _ => .check fun _ => ?_
  split <;> exact done_wf _ h

theorem execEresumeAbort_keeps {s : State} (f) (h : s.mem.wf = true) : Keeps (execEresumeAbort f s) := by
  refine run_keeps h fun t => .check fun _ => .check fun k => ?_
  split
  · exact done_wf _ h
  next op _ =>
    have hf : (s.finishOp (s.coreOf t) k op true).mem.wf = true := by simpa using h
    exact .ite (done_wf _ hf) (.ite (done_wf _ hf) (done_wf _ hf))

theorem execBinit_keeps {s : State} (f) (h : s.mem.wf = true) : Keeps (execBinit f s) :=
  run_keeps h fun t => by simp [yields_bind, h]

theorem execBarr_keeps {s : State} (f) (h : s.mem.wf = true) : Keeps (execBarr f s) :=
  run_keeps h fun t => by simp [yields_bind, h]

theorem execBexp_keeps {s : State} (f) (h : s.mem.wf = true) : Keeps (execBexp f s) :=
  run_keeps h fun t => by simp [yields_bind, h]

theorem execWaitph_keeps {s : State} (f) (h : s.mem.wf = true) : Keeps (execWaitph f s) :=
  run_keeps h fun _ => .check fun _ => .check fun _ => .check fun _ => .ite (State.block_wf _ _ _ _ _ h)
    (.bind (State.barLoad_wf _ _ h) fun _ hr => .ite (done_wf _ hr) (State.block_wf _ _ _ _ _ hr))

theorem execTestph_keeps {s : State} (f) (h : s.mem.wf = true) : Keeps (execTestph f s) :=
  run_keeps h fun _ => .check fun _ => .check fun _ => .check fun _ =>
    .bind (State.barLoad_wf _ _ h) fun _ hr => done_wf _ hr

theorem execGridbar_keeps {s : State} (f) (h : s.mem.wf = true) : Keeps (execGridbar f s) := by
  refine run_keeps h fun t => .check fun _ => ?_
  split
  · exact yields_error _ _
  · exact done_wf _ (State.barAdd_wf _ _ _ h)

@[simp] theorem atomLanes_keeps {s : State} (f) (h : s.mem.wf = true) : Keeps (atomLanes f s) :=
  run_keeps h fun t => by simp [yields_bind, yields_ite, h]

theorem execAtom_keeps {s : State} (f) (h : s.mem.wf = true) : Keeps (execAtom f s) :=
  run_keeps h fun t => by simp [yields_bind, yields_ite, h]

theorem execAtomf_keeps {s : State} (f) (h : s.mem.wf = true) : Keeps (execAtomf f s) :=
  run_keeps h fun t => by simp [yields_bind, yields_ite, h]

theorem execRed_keeps {s : State} (f) (h : s.mem.wf = true) : Keeps (execRed f s) :=
  run_keeps h fun t => by simp [yields_bind, yields_ite, h]

theorem execRednm_keeps {s : State} (f) (h : s.mem.wf = true) : Keeps (execRednm f s) :=
  run_keeps h fun _ => .check fun _ => .check fun _ => .check fun _ => .check fun _ => done_wf _ h

theorem execNmfence_keeps {s : State} (x0) (h : s.mem.wf = true) : Keeps (execNmfence x0 s) :=
  run_keeps h fun t => by simp [yields_bind, yields_ite, h]

theorem execDwacq_keeps {s : State} (f) (h : s.mem.wf = true) : Keeps (execDwacq f s) := by
  refine run_keeps h fun t => .check fun _ => ?_
  dsimp only
  split
  · exact yields_error _ _
  · split
    · exact yields_error _ _
    · refine .ite (yields_error _ _) (.ite (yields_error _ _) (.ite (done_wf _ ?_) (blocks_wf _ ?_)))
      all_goals split <;> simp [h]

theorem execDwrel_keeps {s : State} (f) (h : s.mem.wf = true) : Keeps (execDwrel f s) := by
  refine run_keeps h fun t => .check fun _ => .check fun _ => .ite (yields_error _ _) ?_
  split
  · exact yields_error _ _
  · exact .ite (done_wf _ (by simpa using h)) (yields_error _ _)

theorem execAtomw_keeps {s : State} (f) (h : s.mem.wf = true) : Keeps (execAtomw f s) := by
  refine run_keeps h fun t => .check fun _ => .ite (done_wf _ h) (.check fun _ => .check fun _ => ?_)
  split
  · exact yields_error _ _
  · exact .ite (done_wf _ (by simp [h])) (.ite (done_wf _ (by simp [h])) (done_wf _ (by simp [h])))

theorem execAtomq_keeps {s : State} (f) (h : s.mem.wf = true) : Keeps (execAtomq f s) :=
  run_keeps h fun t => by simp [yields_bind, yields_ite, h]

theorem execFence_keeps {s : State} (f) (h : s.mem.wf = true) : Keeps (execFence f s) :=
  run_keeps h fun t => by simp [yields_ite, h]

@[simp] theorem unitIssue_keeps {s : State} (f op n) (h : s.mem.wf = true) : Keeps (unitIssue f s op n) := by
  refine run_keeps h fun t => .check fun _ => .check fun _ => ?_
  dsimp only
  split
  · exact yields_error _ _
  · exact .check fun _ => .check fun _ => .check fun _ => .check fun _ => .check fun _ => .ite (yields_error _ _)
      (done_wf _ (State.foldl_wf (fun _ _ hs => by simpa using hs) _ h))

theorem execMma_keeps {s : State} (f) (h : s.mem.wf = true) : Keeps (execMma f s) := by
  unfold execMma
  simp [h]

theorem execMmas_keeps {s : State} (f) (h : s.mem.wf = true) : Keeps (execMmas f s) := by
  unfold execMmas
  simp [h]

theorem execMzero_keeps {s : State} (f) (h : s.mem.wf = true) : Keeps (execMzero f s) := by
  unfold execMzero
  simp [h]

theorem execMldacc_keeps {s : State} (f) (h : s.mem.wf = true) : Keeps (execMldacc f s) := by
  unfold execMldacc
  simp [h]

theorem execMstacc_keeps {s : State} (f) (h : s.mem.wf = true) : Keeps (execMstacc f s) := by
  unfold execMstacc
  simp [h]

theorem execMscale_keeps {s : State} (f) (h : s.mem.wf = true) : Keeps (execMscale f s) := by
  unfold execMscale
  simp [h]

theorem execMqry_keeps {s : State} (f) (h : s.mem.wf = true) : Keeps (execMqry f s) := by
  refine run_keeps h fun t => ?_
  dsimp only
  split
  · exact done_wf _ h
  · refine done_wf _ ?_
    split <;> simp [h]

theorem execAccrd_keeps {s : State} (f) (h : s.mem.wf = true) : Keeps (execAccrd f s) :=
  run_keeps h fun t => by simp [yields_bind, yields_ite, h]

theorem execAccwr_keeps {s : State} (f) (h : s.mem.wf = true) : Keeps (execAccwr f s) :=
  run_keeps h fun _ => .check fun _ => .check fun _ => .check fun _ => .check fun _ => .check fun _ => done_wf _ h

theorem execAccacq_keeps {s : State} (f) (h : s.mem.wf = true) : Keeps (execAccacq f s) := by
  refine run_keeps h fun t => .check fun _ => .check fun _ => ?_
  dsimp only
  split
  · exact .ite (done_wf _ h) (blocks_wf _ (by simpa using h))
  · exact blocks_wf _ (by simpa using h)
  · exact .ite (blocks_wf _ (by simpa using h)) (done_wf _ (by simpa using h))

theorem execAccrel_keeps {s : State} (f) (h : s.mem.wf = true) : Keeps (execAccrel f s) :=
  run_keeps h fun t => by simp [yields_bind, yields_ite, h]

@[simp] theorem gatherIssue_keeps {s : State} (f kind) (h : s.mem.wf = true) : Keeps (gatherIssue f s kind) := by
  refine run_keeps h fun t => .check fun _ => .check fun _ => .check fun _ => .branch fun _ => .check fun _ => .check fun w =>
    .branch fun _ => .check fun _ => .check fun _ => .branch fun _ => .check fun _ => .branch fun _ => .branch fun _ =>
    .bind (State.readList_wf _ _ _ _ h) fun r hr => ?_
  exact .ite (.bind (State.readList_wf _ _ _ _ hr) fun _ hp => State.gatherStart_wf _ _ _ _ hp)
    (State.gatherStart_wf _ _ _ _ hr)

theorem execGath_keeps {s : State} (f) (h : s.mem.wf = true) : Keeps (execGath f s) := by
  unfold execGath
  simp [h]

theorem execGathp_keeps {s : State} (f) (h : s.mem.wf = true) : Keeps (execGathp f s) := by
  unfold execGathp
  simp [h]

theorem execScata_keeps {s : State} (f) (h : s.mem.wf = true) : Keeps (execScata f s) := by
  unfold execScata
  simp [h]

theorem execScataClose_keeps {s : State} (f) (h : s.mem.wf = true) : Keeps (execScataClose f s) :=
  run_keeps h fun _ => .check fun _ => .check fun _ => .check fun _ => .check fun _ => .check fun _ =>
    .bind (State.takeTicket_wf _ _ _ h) fun _ hr => done_wf _ hr

theorem execGpref_keeps {s : State} (f) (h : s.mem.wf = true) : Keeps (execGpref f s) := by
  unfold execGpref
  simp [h]

theorem execThdl_keeps {s : State} (f) (h : s.mem.wf = true) : Keeps (execThdl f s) :=
  run_keeps h fun _ => .check fun _ => .check fun _ => .check fun _ => .ite (yields_error _ _) (.ite (done_wf _ h)
    (.ite (yields_error _ _) (.bind (State.loadWords_wf _ _ _ h) fun _ hr =>
      .bind (State.loadWords_wf _ _ _ hr) fun _ hr2 => .ite (done_wf _ hr2) (done_wf _ hr2))))

theorem execGstat_keeps {s : State} (f) (h : s.mem.wf = true) : Keeps (execGstat f s) := by
  refine run_keeps h fun t => .check fun _ => .check fun _ => .check fun _ => .check fun _ => .ite (yields_error _ _) ?_
  dsimp only
  split
  · exact .ite (done_wf _ h) (.bind (State.storeWords_wf _ _ _ _ _ h) fun _ hr => done_wf _ hr)
  · exact done_wf _ h

theorem execShcnt_keeps {s : State} (f) (h : s.mem.wf = true) : Keeps (execShcnt f s) := by
  refine run_keeps h fun t => .check fun _ => .check fun _ => .check fun _ => ?_
  dsimp only
  split
  · exact yields_error _ _
  · exact .bind (State.storeWords_wf _ _ _ _ _ h) fun _ hr => done_wf _ hr

theorem execDtree_keeps {s : State} (f) (h : s.mem.wf = true) : Keeps (execDtree f s) :=
  run_keeps h fun _ => .check fun _ => .check fun _ => .check fun _ => .ite (done_wf _ h) (.ite (yields_error _ _)
    (.bind (State.loadWords_wf _ _ _ h) fun _ hr => .ite (done_wf _ hr) (done_wf _ hr)))

theorem execDesc_keeps {s : State} (f) (h : s.mem.wf = true) : Keeps (execDesc f s) := by
  refine run_keeps h fun t => .check fun _ => .check fun _ => .check fun _ => .check fun _ => .check fun _ =>
    .check fun _ => .check fun _ => .check fun _ => .check fun _ => .check fun _ => .check fun _ => .check fun _ =>
    .ite (done_wf _ ?_) (.bind (State.takeEntry_wf _ _ h) fun _ hr => done_wf _ (by simpa using hr))
  split <;> simp [h]

theorem execDregr_keeps {s : State} (f) (h : s.mem.wf = true) : Keeps (execDregr f s) :=
  run_keeps h fun t => by simp [yields_bind, yields_ite, h]

theorem execDgrad_keeps {s : State} (f) (h : s.mem.wf = true) : Keeps (execDgrad f s) :=
  run_keeps h fun _ => .check fun _ => .check fun _ => .check fun _ => .check fun _ => .check fun _ =>
    .check fun _ => .check fun _ => .check fun _ => .check fun _ => .check fun _ => .check fun _ =>
    .bind (State.takeTicket_wf _ _ _ h) fun _ hr => done_wf _ hr

theorem execDpathRead_keeps {s : State} (f) (h : s.mem.wf = true) : Keeps (execDpathRead f s) :=
  run_keeps h fun _ => .check fun _ => .check fun _ => done_wf _ h

theorem execDpathWrite_keeps {s : State} (f) (h : s.mem.wf = true) : Keeps (execDpathWrite f s) :=
  run_keeps h fun _ => .check fun _ => .check fun _ => .check fun _ => done_wf _ h

theorem execDstat_keeps {s : State} (f) (h : s.mem.wf = true) : Keeps (execDstat f s) :=
  run_keeps h fun t => by simp [h]

@[simp] theorem queryIssue_keeps {s : State} (f op two) (h : s.mem.wf = true) : Keeps (queryIssue f s op two) :=
  run_keeps h fun t => by simp [yields_bind, yields_ite, h]

theorem execTql_keeps {s : State} (f) (h : s.mem.wf = true) : Keeps (execTql f s) :=
  run_keeps h fun t => by simp [yields_bind, yields_ite, h]

theorem execTql2_keeps {s : State} (f) (h : s.mem.wf = true) : Keeps (execTql2 f s) :=
  run_keeps h fun t => by simp [yields_bind, yields_ite, h]

theorem execTqmul_keeps {s : State} (f) (h : s.mem.wf = true) : Keeps (execTqmul f s) :=
  run_keeps h fun t => by simp [yields_bind, yields_ite, h]

theorem execTqcmt_keeps {s : State} (x0) (h : s.mem.wf = true) : Keeps (execTqcmt x0 s) :=
  run_keeps h fun _ => .check fun _ => done_wf _ h

theorem execCqsub_keeps {s : State} (f) (h : s.mem.wf = true) : Keeps (execCqsub f s) := by
  refine run_keeps h fun t => .check fun _ => .check fun _ => .branch fun _ => .ite (yields_error _ _)
    (.bind (State.loadWords_wf _ _ _ h) fun _ hr => .ite (done_wf _ hr) (.ite (done_wf _ hr) (done_wf _ ?_)))
  split <;> simpa using hr

theorem execCqstat_keeps {s : State} (f) (h : s.mem.wf = true) : Keeps (execCqstat f s) := by
  refine run_keeps h fun t => .check fun _ => .check fun _ => .ite (yields_error _ _) ?_
  split <;> exact done_wf _ h

theorem execRjoin_keeps {s : State} (f) (h : s.mem.wf = true) : Keeps (execRjoin f s) :=
  run_keeps h fun _ => .check fun _ => .check fun _ => .ite (yields_error _ _) (.bind (State.loadWords_wf _ _ _ h)
    fun _ hr => .ite (done_wf _ hr) (.ite (done_wf _ hr) (done_wf _ (by simpa using hr))))

theorem execRsend_keeps {s : State} (f) (h : s.mem.wf = true) : Keeps (execRsend f s) :=
  run_keeps h fun _ => .check fun _ => .check fun _ => .check fun _ => .check fun _ => .check fun _ =>
    .bind (State.loadWords_wf _ _ _ h) fun _ hr => .ite (yields_error _ _)
      (.bind (State.loadWords_wf _ _ _ hr) fun _ hd => .check fun _ => done_wf _ (by simpa using hd))

theorem execRclose_keeps {s : State} (f) (h : s.mem.wf = true) : Keeps (execRclose f s) :=
  run_keeps h fun _ => .check fun _ => .check fun _ =>
    .bind (State.loadWords_wf _ _ _ h) fun _ hr => done_wf _ (by simpa using hr)

theorem execRcnt_keeps {s : State} (f) (h : s.mem.wf = true) : Keeps (execRcnt f s) :=
  run_keeps h fun _ => .check fun _ => .check fun _ => .ite (yields_error _ _)
    (.bind (State.storeWords_wf _ _ _ _ _ h) fun _ hr => done_wf _ (by simpa using hr))

theorem execDmark_keeps {s : State} (f) (h : s.mem.wf = true) : Keeps (execDmark f s) :=
  run_keeps h fun _ => .check fun _ => .check fun _ =>
    done_wf _ (State.foldl_wf (fun _ _ hs => by simpa using hs) _ h)

theorem execWlset_keeps {s : State} (f) (h : s.mem.wf = true) : Keeps (execWlset f s) := by
  refine run_keeps h fun t => .check fun _ => .check fun _ => .check fun _ => .ite (yields_error _ _)
    (.ite (done_wf _ h) (.bind (State.planWords_wf _ _ _ h) fun _ hr => done_wf _ ?_))
  rw [State.flushOut_mem]
  exact State.foldl_wf (fun _ _ hs => State.foldl_wf (fun _ _ hl => by simpa using hl) _ hs) _ hr

theorem execLstat_keeps {s : State} (f) (h : s.mem.wf = true) : Keeps (execLstat f s) :=
  run_keeps h fun _ => .check fun _ => .check fun _ => .check fun _ => done_wf _ h

theorem execSalu_keeps {s : State} (f) (h : s.mem.wf = true) : Keeps (execSalu f s) :=
  run_keeps h fun t => by simp [h]

theorem execSalui_keeps {s : State} (f) (h : s.mem.wf = true) : Keeps (execSalui f s) :=
  run_keeps h fun t => by simp [h]

theorem execScmp_keeps {s : State} (f) (h : s.mem.wf = true) : Keeps (execScmp f s) :=
  run_keeps h fun t => by simp [h]

theorem execSli_keeps {s : State} (f) (h : s.mem.wf = true) : Keeps (execSli f s) :=
  run_keeps h fun t => by simp [h]

theorem execSld_keeps {s : State} (f) (h : s.mem.wf = true) : Keeps (execSld f s) := by
  refine run_keeps h fun t => .check fun p => ?_
  dsimp only
  split
  · exact done_wf _ (by simpa using h)
  · exact .bind (State.loadHeard_wf _ _ _ h) fun _ hr => done_wf _ hr

theorem execSst_keeps {s : State} (f) (h : s.mem.wf = true) : Keeps (execSst f s) :=
  run_keeps h fun _ => .check fun _ => .ite (done_wf _ h)
    (.bind (State.storeAll_wf _ _ _ _ h) fun _ hr => done_wf _ hr)

theorem execSrdsr_keeps {s : State} (f) (h : s.mem.wf = true) : Keeps (execSrdsr f s) :=
  run_keeps h fun t => by simp [yields_ite, h]

theorem execCldc_keeps {s : State} (f) (h : s.mem.wf = true) : Keeps (execCldc f s) :=
  run_keeps h fun _ => .check fun _ => .check fun _ => done_wf _ h

theorem execCstc_keeps {s : State} (f) (h : s.mem.wf = true) : Keeps (execCstc f s) :=
  run_keeps h fun t => by simp [yields_bind, h]

theorem execCrow_keeps {s : State} (f) (h : s.mem.wf = true) : Keeps (execCrow f s) :=
  run_keeps h fun _ => .check fun _ => done_wf _ h

theorem execCred_keeps {s : State} (f) (h : s.mem.wf = true) : Keeps (execCred f s) :=
  run_keeps h fun t => by simp [yields_bind, h]

theorem execCend_keeps {s : State} (f) (h : s.mem.wf = true) : Keeps (execCend f s) := by
  unfold execCend
  repeat' split
  all_goals simp [h]

theorem execAllocFullGrant_keeps {s : State} (wg) (h : s.mem.wf = true) : Keeps (execAllocFullGrant wg s) := by
  unfold execAllocFullGrant
  repeat' split
  all_goals simp [h]

theorem execRextGrant_keeps {s : State} (core) (h : s.mem.wf = true) : Keeps (execRextGrant core s) := by
  unfold execRextGrant
  repeat' split
  all_goals simp [h]

theorem execScratchpadPageRefill_keeps {s : State} (wg page) (h : s.mem.wf = true) :
    Keeps (execScratchpadPageRefill wg page s) := by
  unfold execScratchpadPageRefill
  repeat' split
  all_goals simp [h]

theorem State.endRun_keeps {s : State} (key ticket t r) {fin : State → State}
    (hfin : ∀ s, s.mem.wf = true → (fin s).mem.wf = true) (h : s.mem.wf = true) :
    Keeps (s.endRun key ticket t r fin) := by
  unfold State.endRun
  dsimp only
  split
  · exact when_keeps _ (by simpa using hfin _ (State.putElems_wf _ _ _ h))
  · exact keeps_notEnabled

theorem execCopyComplete_keeps {s : State} (core ticket) (h : s.mem.wf = true) :
    Keeps (execCopyComplete core ticket s) := by
  unfold execCopyComplete
  split
  · exact keeps_notEnabled
  · exact State.endRun_keeps _ _ _ _ (fun _ hs => hs) h

@[simp] theorem State.suspendRun_keeps {s : State} (key ticket t r) (h : s.mem.wf = true) :
    Keeps (s.suspendRun key ticket t r) := by
  unfold State.suspendRun
  dsimp only
  split
  · exact when_keeps _ (State.suspendOp_wf _ _ _ _ (State.putElems_wf _ _ _ h))
  · exact keeps_notEnabled

theorem execCopySuspend_keeps {s : State} (core ticket) (h : s.mem.wf = true) :
    Keeps (execCopySuspend core ticket s) := by
  unfold execCopySuspend
  repeat' split
  all_goals simp [h]

@[simp] theorem State.waitphLook_keeps {s : State} (tid t r p dst) (h : s.mem.wf = true) :
    Keeps (s.waitphLook tid t r p dst) := by
  have hl := State.barLoad_wf t r h
  unfold State.waitphLook
  split
  · exact State.settle_keeps _ _ h (yields_error _ _)
  · split
    next q hq =>
      have hq := hl q hq
      split
      · simpa using hq
      · simp [h]
    all_goals simp [h]

theorem execWaitphWake_keeps {s : State} (tid) (h : s.mem.wf = true) : Keeps (execWaitphWake tid s) := by
  unfold execWaitphWake
  repeat' split
  all_goals simp [h]

theorem execWaitphTimeout_keeps {s : State} (tid) (h : s.mem.wf = true) : Keeps (execWaitphTimeout tid s) := by
  unfold execWaitphTimeout
  repeat' split
  all_goals simp [h]

theorem execDwacqWake_keeps {s : State} (tid) (h : s.mem.wf = true) : Keeps (execDwacqWake tid s) := by
  unfold execDwacqWake
  repeat' split
  all_goals simp [h]

theorem execRednmApply_keeps {s : State} (add) (h : s.mem.wf = true) : Keeps (execRednmApply add s) := by
  unfold execRednmApply
  dsimp only
  repeat' split
  all_goals simp [h]

theorem execUnitOpStart_keeps {s : State} (core) (h : s.mem.wf = true) : Keeps (execUnitOpStart core s) := by
  unfold execUnitOpStart
  repeat' split
  all_goals simp [h]

theorem execUnitOpComplete_keeps {s : State} (core) (h : s.mem.wf = true) :
    Keeps (execUnitOpComplete core s) := by
  unfold execUnitOpComplete
  split <;> simp [h]

theorem execAccTokenGrant_keeps {s : State} (wg tile) (h : s.mem.wf = true) :
    Keeps (execAccTokenGrant wg tile s) := by
  unfold execAccTokenGrant
  repeat' split
  all_goals simp [h]

@[simp] theorem State.walkRow_keeps {s : State} (id w page) (h : s.mem.wf = true) : Keeps (s.walkRow id w page) := by
  simp [State.walkRow, h]

theorem execGatherRowService_keeps {s : State} (work) (h : s.mem.wf = true) :
    Keeps (execGatherRowService work s) := by
  unfold execGatherRowService
  split
  · exact keeps_notEnabled
  · split
    · simp [h]
    · split
      · exact keeps_notEnabled
      · dsimp only
        split
        · exact keeps_notEnabled
        · split
          · simp [h]
          · simp [h]
          · split <;> simp [h]
          · simp [h]
          · exact keeps_notEnabled

theorem execGatherComplete_keeps {s : State} (core ticket) (h : s.mem.wf = true) :
    Keeps (execGatherComplete core ticket s) := by
  unfold execGatherComplete
  dsimp only
  repeat' split
  all_goals simp [h]

@[simp] theorem State.addWord_keeps {s : State} (work w) (h : s.mem.wf = true) : Keeps (s.addWord work w) := by
  unfold State.addWord
  repeat' split
  all_goals simp [h]

theorem execScatterAddApply_keeps {s : State} (work) (h : s.mem.wf = true) :
    Keeps (execScatterAddApply work s) := by
  unfold execScatterAddApply
  repeat' split
  all_goals simp [h]

theorem execDescComplete_keeps {s : State} (core ticket) (h : s.mem.wf = true) :
    Keeps (execDescComplete core ticket s) := by
  unfold execDescComplete
  split
  · exact keeps_notEnabled
  · exact State.endRun_keeps _ _ _ _ (fun _ hs => hs) h

theorem execDescSuspend_keeps {s : State} (core ticket) (h : s.mem.wf = true) :
    Keeps (execDescSuspend core ticket s) := by
  unfold execDescSuspend
  repeat' split
  all_goals simp [h]

theorem execDgradComplete_keeps {s : State} (core ticket) (h : s.mem.wf = true) :
    Keeps (execDgradComplete core ticket s) := by
  unfold execDgradComplete
  split
  · exact keeps_notEnabled
  · exact State.endRun_keeps _ _ _ _ (fun _ hs => hs) h

theorem execQueryComplete_keeps {s : State} (tid pid) (h : s.mem.wf = true) :
    Keeps (execQueryComplete tid pid s) := by
  unfold execQueryComplete
  split
  · exact keeps_notEnabled
  · split
    · exact .ite keeps_notEnabled (by simp [h])
    · exact keeps_notEnabled

theorem execPostedStoreDrain_keeps {s : State} (tid) (h : s.mem.wf = true) :
    Keeps (execPostedStoreDrain tid s) := by
  unfold execPostedStoreDrain
  repeat' split
  all_goals simp [h]

theorem execInstanceStart_keeps {s : State} (cunit) (h : s.mem.wf = true) :
    Keeps (execInstanceStart cunit s) := by
  unfold execInstanceStart
  repeat' split
  all_goals simp [h]

theorem execBankReservationExpiry_keeps {s : State} (cunit) (h : s.mem.wf = true) :
    Keeps (execBankReservationExpiry cunit s) := by
  unfold execBankReservationExpiry
  repeat' split
  all_goals simp [h]

theorem execCellarCommandAged_keeps {s : State} (cunit) (h : s.mem.wf = true) :
    Keeps (execCellarCommandAged cunit s) := by
  unfold execCellarCommandAged
  repeat' split
  all_goals simp [h]

theorem execQueueSlotGrant_keeps {s : State} (slot) (h : s.mem.wf = true) :
    Keeps (execQueueSlotGrant slot s) := by
  unfold execQueueSlotGrant
  dsimp only
  repeat' split
  all_goals simp [h]

theorem execAgeIntervalExpiry_keeps {s : State} (q) (h : s.mem.wf = true) :
    Keeps (execAgeIntervalExpiry q s) := by
  unfold execAgeIntervalExpiry
  repeat' split
  all_goals simp [h]

theorem execQuantumExpiry_keeps {s : State} (q) (h : s.mem.wf = true) : Keeps (execQuantumExpiry q s) := by
  unfold execQuantumExpiry
  dsimp only
  repeat' split
  all_goals simp [h]

@[simp] theorem State.admitQueue_keeps {s : State} (q w) (h : s.mem.wf = true) : Keeps (s.admitQueue q w) := by
  unfold State.admitQueue
  dsimp only
  split
  · exact keeps_notEnabled
  · have hx := State.updQueue_mem s q fun x => { x with launch := none }
    exact keeps_next.mpr (State.consume_wf _ (State.refuse_wf _ _ _ _ _ (by rwa [hx])))
  · rw [keeps_next, State.mark_mem]
    exact State.consume_wf _ (by simpa using h)

@[simp] theorem State.admitDevice_keeps {s : State} (die e rest) (h : s.mem.wf = true) :
    Keeps (s.admitDevice die e rest) := by
  unfold State.admitDevice
  dsimp only
  split
  · exact keeps_notEnabled
  · exact keeps_next.mpr (State.refuse_wf _ _ _ _ _ (by simpa using h))
  · simpa using h

theorem execLaunchAdmission_keeps {s : State} (src) (h : s.mem.wf = true) :
    Keeps (execLaunchAdmission src s) := by
  unfold execLaunchAdmission
  repeat' split
  all_goals simp [h]

theorem execWaitEntry_keeps {s : State} (src) (h : s.mem.wf = true) : Keeps (execWaitEntry src s) := by
  unfold execWaitEntry
  dsimp only
  repeat' split
  all_goals simp [h]

theorem execWaitEntryPass_keeps {s : State} (q) (h : s.mem.wf = true) : Keeps (execWaitEntryPass q s) := by
  unfold execWaitEntryPass
  dsimp only
  repeat' split
  all_goals simp [h]

theorem execCopyCommand_keeps {s : State} (q) (h : s.mem.wf = true) : Keeps (execCopyCommand q s) := by
  unfold execCopyCommand
  dsimp only
  split
  · exact keeps_notEnabled
  · split
    · exact keeps_notEnabled
    · simp [h]
    · split
      · exact keeps_notEnabled
      · split
        · exact keeps_next.mpr (State.consume_wf _ (State.copyDone_wf _ _ _ _ (State.post_wf _ h)))
        · exact keeps_next.mpr (State.consume_wf _ h)

theorem execCopyCommandComplete_keeps {s : State} (cmd) (h : s.mem.wf = true) :
    Keeps (execCopyCommandComplete cmd s) := by
  have hf c op fault := State.endCmd_wf cmd op fault (State.putElems_wf porchEngine (.command cmd) c h)
  unfold execCopyCommandComplete
  split
  · exact keeps_notEnabled
  · dsimp only
    split
    · exact when_keeps _ (hf _ _ _)
    · exact when_keeps _ (hf _ _ _)
    · exact keeps_notEnabled

theorem execCellarTaskRead_keeps {s : State} (src) (h : s.mem.wf = true) :
    Keeps (execCellarTaskRead src s) := by
  unfold execCellarTaskRead
  split
  · split
    · exact keeps_notEnabled
    · split
      · exact keeps_notEnabled
      · simp [h]
      · dsimp only
        split
        · exact keeps_next.mpr (State.consume_wf _ (State.post_wf _ h))
        · split
          · exact keeps_notEnabled
          · exact keeps_next.mpr (State.consume_wf _ h)
  · split
    · exact keeps_notEnabled
    · exact .ite keeps_notEnabled (keeps_next.mpr h)
  · exact keeps_notEnabled

theorem execWorkRequest_keeps {s : State} (die cluster) (h : s.mem.wf = true) :
    Keeps (execWorkRequest die cluster s) := by
  unfold execWorkRequest
  repeat' split
  all_goals simp [h]

theorem execWorkgroupDispatch_keeps {s : State} (die) (h : s.mem.wf = true) :
    Keeps (execWorkgroupDispatch die s) := by
  unfold execWorkgroupDispatch
  split
  · exact keeps_notEnabled
  · split
    · exact keeps_notEnabled
    · dsimp only
      split
      · simpa using h
      · split <;> simp [h]

theorem execDamperExchange_keeps {s : State} (part) (h : s.mem.wf = true) :
    Keeps (execDamperExchange part s) := by
  unfold execDamperExchange
  dsimp only
  split
  · exact keeps_notEnabled
  · simpa using State.foldl_wf (fun _ _ hs => by simpa using hs) _ h

theorem execSplitChange_keeps {s : State} (core) (h : s.mem.wf = true) : Keeps (execSplitChange core s) := by
  unfold execSplitChange
  repeat' split
  all_goals simp [h]

theorem execWorkgroupRetire_keeps {s : State} (wg) (h : s.mem.wf = true) :
    Keeps (execWorkgroupRetire wg s) := by
  unfold execWorkgroupRetire
  split
  · exact keeps_notEnabled
  · dsimp only
    split
    · exact keeps_notEnabled
    · simpa using State.foldl_wf (fun _ _ hs => State.closeRound_wf _ _ _ _ hs) _ h

theorem execLaunchComplete_keeps {s : State} (launch) (h : s.mem.wf = true) :
    Keeps (execLaunchComplete launch s) := by
  unfold execLaunchComplete
  repeat' split
  all_goals simp [h]

theorem execPageWalkComplete_keeps {s : State} (part page) (h : s.mem.wf = true) :
    Keeps (execPageWalkComplete part page s) := by
  unfold execPageWalkComplete
  repeat' split
  all_goals simp [h]

theorem execLineFetch_keeps {s : State} (tid away) (h : s.mem.wf = true) :
    Keeps (execLineFetch tid away s) := by
  unfold execLineFetch
  split
  · exact keeps_notEnabled
  · dsimp only
    split
    · exact keeps_notEnabled
    · refine State.settle_keeps _ _ h (.check fun p => ?_)
      split
      · simpa using h
      · split <;> simp [h]
      · exact yields_error _ _

@[simp] theorem completeProducer_keeps {s : State} (tid pid) (h : s.mem.wf = true) :
    Keeps (completeProducer tid pid s) := by
  unfold completeProducer
  repeat' split
  all_goals simp [h]

theorem execLoadComplete_keeps {s : State} (tid pid) (h : s.mem.wf = true) :
    Keeps (execLoadComplete tid pid s) := by
  unfold execLoadComplete
  simp [h]

theorem execDemotionStart_keeps {s : State} (tier freeSpace) (h : s.mem.wf = true) :
    Keeps (execDemotionStart tier freeSpace s) := by
  unfold execDemotionStart
  dsimp only
  repeat' split
  all_goals simp [h]

theorem execDemotionPageMove_keeps {s : State} (tier dest) (h : s.mem.wf = true) :
    Keeps (execDemotionPageMove tier dest s) := by
  unfold execDemotionPageMove
  dsimp only
  repeat' split
  all_goals simp [h]

theorem execHtlbiComplete_keeps {s : State} (part) (h : s.mem.wf = true) :
    Keeps (execHtlbiComplete part s) := by
  unfold execHtlbiComplete
  repeat' split
  all_goals simp [h]

theorem execRemoteFail_keeps {s : State} (tid ck sub lanes) (h : s.mem.wf = true) :
    Keeps (execRemoteFail tid ck sub lanes s) := by
  unfold execRemoteFail
  repeat' split
  all_goals simp [h]

theorem execPreemptSaveComplete_keeps {s : State} (h : s.mem.wf = true) :
    Keeps (execPreemptSaveComplete s) := by
  unfold execPreemptSaveComplete
  split
  · exact keeps_notEnabled
  · dsimp only
    split
    · exact keeps_notEnabled
    · simpa using State.foldl_wf (fun _ _ hs => State.unpinAll_wf _ hs) _ h

theorem execAtomicComplete_keeps {s : State} (tid pid) (h : s.mem.wf = true) :
    Keeps (execAtomicComplete tid pid s) := by
  unfold execAtomicComplete
  simp [h]

theorem execRednmDrop_keeps {s : State} (add) (h : s.mem.wf = true) : Keeps (execRednmDrop add s) := by
  unfold execRednmDrop
  dsimp only
  repeat' split
  all_goals simp [h]

theorem execGatherRequestReceive_keeps {s : State} (req) (h : s.mem.wf = true) :
    Keeps (execGatherRequestReceive req s) := by
  unfold execGatherRequestReceive
  split
  · exact keeps_notEnabled
  · dsimp only
    split
    · exact keeps_next.mpr (State.foldl_wf (fun _ _ hs => by simpa using hs) _ h)
    · simpa using h

theorem execGatherReply_keeps {s : State} (rep) (h : s.mem.wf = true) : Keeps (execGatherReply rep s) := by
  unfold execGatherReply
  split
  · simpa using h
  · refine keeps_next.mpr (State.foldl_wf (fun _ _ hs => by simpa using hs) _ ?_)
    split <;> exact h

theorem execGatherPositionTimeout_keeps {s : State} (core ticket pkg die) (h : s.mem.wf = true) :
    Keeps (execGatherPositionTimeout core ticket pkg die s) := by
  unfold execGatherPositionTimeout
  split
  · exact keeps_notEnabled
  · exact .ite keeps_notEnabled (keeps_next.mpr (State.foldl_wf (fun _ _ hs => by simpa using hs) _ h))

theorem execScatterCloseArrive_keeps {s : State} (msg) (h : s.mem.wf = true) :
    Keeps (execScatterCloseArrive msg s) := by
  unfold execScatterCloseArrive
  repeat' split
  all_goals simp [h]

theorem execRoutingRowArrive_keeps {s : State} (msg) (h : s.mem.wf = true) :
    Keeps (execRoutingRowArrive msg s) := by
  unfold execRoutingRowArrive
  simp [h]

theorem execRoundCloseArrive_keeps {s : State} (msg) (h : s.mem.wf = true) :
    Keeps (execRoundCloseArrive msg s) := by
  unfold execRoundCloseArrive
  simp [h]

theorem execQueueEnable_keeps {s : State} (q) (h : s.mem.wf = true) : Keeps (execQueueEnable q s) := by
  unfold execQueueEnable
  dsimp only
  repeat' split
  all_goals simp [h]

theorem execQueueDisable_keeps {s : State} (q) (h : s.mem.wf = true) : Keeps (execQueueDisable q s) := by
  unfold execQueueDisable
  repeat' split
  all_goals simp [h]

theorem execQwidxWrite_keeps {s : State} (q v) (h : s.mem.wf = true) : Keeps (execQwidxWrite q v s) := by
  unfold execQwidxWrite
  dsimp only
  split
  · exact keeps_notEnabled
  · split
    · simpa using h
    · split
      · rw [keeps_next, State.waitYields_mem]
        exact State.overrunTest_wf _ (by simpa using h)
      · exact keeps_next.mpr (State.overrunTest_wf _ (by simpa using h))

theorem execLatchAcquire_keeps {s : State} (n port) (h : s.mem.wf = true) :
    Keeps (execLatchAcquire n port s) := by
  unfold execLatchAcquire
  repeat' split
  all_goals simp [h]

theorem execLatchRelease_keeps {s : State} (n port) (h : s.mem.wf = true) :
    Keeps (execLatchRelease n port s) := by
  unfold execLatchRelease
  repeat' split
  all_goals simp [h]

theorem execLatchBreak_keeps {s : State} (n port) (h : s.mem.wf = true) : Keeps (execLatchBreak n port s) := by
  unfold execLatchBreak
  repeat' split
  all_goals simp [h]

theorem execLatchInvalidCommand_keeps {s : State} (n port cmd) (h : s.mem.wf = true) :
    Keeps (execLatchInvalidCommand n port cmd s) := by
  unfold execLatchInvalidCommand
  repeat' split
  all_goals simp [h]

theorem execHpartWrite_keeps {s : State} (v) (h : s.mem.wf = true) : Keeps (execHpartWrite v s) := by
  unfold execHpartWrite
  dsimp only
  repeat' split
  all_goals simp [h]

theorem execHptrWrite_keeps {s : State} (part v) (h : s.mem.wf = true) : Keeps (execHptrWrite part v s) := by
  unfold execHptrWrite
  repeat' split
  all_goals simp [h]

theorem execHsbkWrite_keeps {s : State} (part v) (h : s.mem.wf = true) : Keeps (execHsbkWrite part v s) := by
  unfold execHsbkWrite
  repeat' split
  all_goals simp [h]

theorem execHtlbiPage_keeps {s : State} (part v) (h : s.mem.wf = true) : Keeps (execHtlbiPage part v s) := by
  unfold execHtlbiPage
  repeat' split
  all_goals simp [h]

theorem execHtlbiAll_keeps {s : State} (part) (h : s.mem.wf = true) : Keeps (execHtlbiAll part s) := by
  unfold execHtlbiAll
  repeat' split
  all_goals simp [h]

theorem execHfwiWrite_keeps {s : State} (h : s.mem.wf = true) : Keeps (execHfwiWrite s) := by
  unfold execHfwiWrite
  simp [h]

theorem execHrekeyGo_keeps {s : State} (peer) (h : s.mem.wf = true) : Keeps (execHrekeyGo peer s) := by
  unfold execHrekeyGo
  simp [h]

theorem execHpreGo_keeps {s : State} (part slot) (h : s.mem.wf = true) : Keeps (execHpreGo part slot s) := by
  unfold execHpreGo
  repeat' split
  all_goals simp [h]

theorem execHpreResume_keeps {s : State} (slot part) (h : s.mem.wf = true) :
    Keeps (execHpreResume slot part s) := by
  unfold execHpreResume
  repeat' split
  all_goals simp [h]

theorem execHkillGo_keeps {s : State} (part) (h : s.mem.wf = true) : Keeps (execHkillGo part s) := by
  unfold execHkillGo
  split
  · exact keeps_notEnabled
  · exact keeps_next.mpr (State.foldl_wf (fun _ _ hs => by simpa using hs) _ h)

theorem execHcabtWrite_keeps {s : State} (v) (h : s.mem.wf = true) : Keeps (execHcabtWrite v s) :=
  keeps_next.mpr (State.foldl_wf (fun _ _ hs => State.abortUnit_wf _ hs) _ h)

theorem execHashrWrite_keeps {s : State} (v) (h : s.mem.wf = true) : Keeps (execHashrWrite v s) := by
  unfold execHashrWrite
  dsimp only
  split
  · exact keeps_next.mpr (State.ashWrite_wf _ (by simpa using h))
  · simpa using h

theorem execMsixDeferredSend_keeps {s : State} (port vec) (h : s.mem.wf = true) :
    Keeps (execMsixDeferredSend port vec s) := by
  unfold execMsixDeferredSend
  dsimp only
  repeat' split
  all_goals simp [h]

@[simp] theorem State.takeReq_keeps {s : State} (r) (h : s.mem.wf = true) : Keeps (s.takeReq r) := by
  unfold State.takeReq
  repeat' split
  all_goals simp [h]

theorem execPowerOnRequest_keeps {s : State} (h : s.mem.wf = true) : Keeps (execPowerOnRequest s) := by
  unfold execPowerOnRequest
  simp [h]

theorem execPowerIdleRequest_keeps {s : State} (h : s.mem.wf = true) : Keeps (execPowerIdleRequest s) := by
  unfold execPowerIdleRequest
  simp [h]

theorem execPowerHoldRequest_keeps {s : State} (h : s.mem.wf = true) : Keeps (execPowerHoldRequest s) := by
  unfold execPowerHoldRequest
  simp [h]

theorem execHrcvGo_keeps {s : State} (port v) (h : s.mem.wf = true) : Keeps (execHrcvGo port v s) := by
  unfold execHrcvGo
  dsimp only
  split
  · simpa using h
  · split <;> simp [h]

theorem execRecoveryCheckDone_keeps {s : State} (verdict) (h : s.mem.wf = true) :
    Keeps (execRecoveryCheckDone verdict s) := by
  unfold execRecoveryCheckDone
  dsimp only
  split
  · exact keeps_notEnabled
  · rw [keeps_next]
    split <;> simp [h]

theorem execRegisterWrite_keeps {s : State} (off v _port) (h : s.mem.wf = true) :
    Keeps (execRegisterWrite off v _port s) := by
  unfold execRegisterWrite
  repeat' split
  all_goals simp [h]

theorem execHostMemoryAccess_keeps {s : State} (acc) (h : s.mem.wf = true) :
    Keeps (execHostMemoryAccess acc s) := by
  unfold execHostMemoryAccess
  dsimp only
  repeat' split
  all_goals simp [State.sendAway_mem, h]

theorem execAccessCountDecay_keeps {s : State} (h : s.mem.wf = true) : Keeps (execAccessCountDecay s) := by
  unfold execAccessCountDecay
  simp [h]

theorem execPtsAdvance_keeps {s : State} (core) (h : s.mem.wf = true) : Keeps (execPtsAdvance core s) := by
  unfold execPtsAdvance
  simp [h]

@[simp] theorem State.serveAt_keeps {s : State} (req a) (h : s.mem.wf = true) : Keeps (s.serveAt req a) := by
  unfold State.serveAt
  split
  · simpa using h
  · split
    · exact keeps_notEnabled
    · split
      · simp [h]
      · simpa using Store.wf_putBytes a _ h

theorem execRemoteRequestServe_keeps {s : State} (req) (h : s.mem.wf = true) :
    Keeps (execRemoteRequestServe req s) := by
  unfold execRemoteRequestServe
  dsimp only
  split
  · exact keeps_notEnabled
  · split
    · exact State.serveAt_keeps _ _ h
    · split
      · simpa using h
      · split
        · simpa using h
        · split <;> simp [h]

theorem execRemoteReply_keeps {s : State} (rep) (h : s.mem.wf = true) : Keeps (execRemoteReply rep s) := by
  unfold execRemoteReply
  repeat' split
  all_goals simp [h]

theorem execRelayForward_keeps {s : State} (msg) (h : s.mem.wf = true) : Keeps (execRelayForward msg s) := by
  unfold execRelayForward
  dsimp only
  repeat' split
  all_goals simp [h]

theorem execFlitReceive_keeps {s : State} (flit) (h : s.mem.wf = true) : Keeps (execFlitReceive flit s) := by
  unfold execFlitReceive
  dsimp only
  repeat' split
  all_goals simp [h]

theorem execFlitAck_keeps {s : State} (lane seq) (h : s.mem.wf = true) : Keeps (execFlitAck lane seq s) := by
  unfold execFlitAck
  dsimp only
  repeat' split
  all_goals simp [h]

theorem execRekeySeqTrigger_keeps {s : State} (lane) (h : s.mem.wf = true) :
    Keeps (execRekeySeqTrigger lane s) := by
  unfold execRekeySeqTrigger
  simp [h]

theorem execKeyBankSwitch_keeps {s : State} (peer) (h : s.mem.wf = true) :
    Keeps (execKeyBankSwitch peer s) := by
  unfold execKeyBankSwitch
  dsimp only
  repeat' split
  all_goals simp [h]

theorem execLaneDrained_keeps {s : State} (lane) (h : s.mem.wf = true) : Keeps (execLaneDrained lane s) := by
  unfold execLaneDrained
  simp [h]

theorem execLaneRelock_keeps {s : State} (lane peer) (h : s.mem.wf = true) :
    Keeps (execLaneRelock lane peer s) := by
  unfold execLaneRelock
  dsimp only
  split
  · exact keeps_notEnabled
  · split
    · simpa using h
    · split
      · exact keeps_notEnabled
      · split
        · rw [keeps_next]
          split <;> simp [h]
        · simp [h]

theorem execRelockTimeout_keeps {s : State} (lane) (h : s.mem.wf = true) :
    Keeps (execRelockTimeout lane s) := by
  unfold execRelockTimeout
  simp [h]

theorem execDieLost_keeps {s : State} (die) (h : s.mem.wf = true) : Keeps (execDieLost die s) := by
  unfold execDieLost
  repeat' split
  all_goals simp [h]

theorem execPageinRequest_keeps {s : State} (part) (h : s.mem.wf = true) :
    Keeps (execPageinRequest part s) := by
  unfold execPageinRequest
  dsimp only
  repeat' split
  all_goals simp [h]

theorem execPageinComplete_keeps {s : State} (res) (h : s.mem.wf = true) :
    Keeps (execPageinComplete res s) := by
  unfold execPageinComplete
  split
  · exact keeps_notEnabled
  next r _ =>
    dsimp only
    split
    · exact keeps_notEnabled
    · have hw d : (s.pageWrite r.dest d).mem.wf = true := State.pageWrite_wf _ _ h
      rw [keeps_next]
      split
      · refine State.post_wf _ (State.hearthPut_getD_wf _ _ _ _ ?_)
        split <;> simp [hw]
      · refine State.hearthPut_getD_wf _ _ _ _ ?_
        split <;> simp [hw]

theorem execThermtrip_keeps {s : State} (h : s.mem.wf = true) : Keeps (execThermtrip s) := by
  unfold execThermtrip
  repeat' split
  all_goals simp [h]

theorem execPowerLoss_keeps (s : State) : Keeps (execPowerLoss s) :=
  keeps_next.mpr rfl

theorem execDeviceReset_keeps (s : State) (boot) : Keeps (execDeviceReset boot s) :=
  when_keeps _ (State.afterReset_wf s boot)

theorem execLifecycleRequest_keeps {s : State} (req) (h : s.mem.wf = true) :
    Keeps (execLifecycleRequest req s) := by
  unfold execLifecycleRequest
  simp [h]

theorem execDebugSessionEnter_keeps {s : State} (req) (h : s.mem.wf = true) :
    Keeps (execDebugSessionEnter req s) := by
  unfold execDebugSessionEnter
  simp [h]

theorem execDebugSessionEnd_keeps {s : State} (_port meas) (h : s.mem.wf = true) :
    Keeps (execDebugSessionEnd _port meas s) := by
  unfold execDebugSessionEnd
  repeat' split
  all_goals simp [h]

theorem execAttestationRequest_keeps {s : State} (port) (h : s.mem.wf = true) :
    Keeps (execAttestationRequest port s) := by
  unfold execAttestationRequest
  simp [h]

theorem execSignedUpdateRequest_keeps {s : State} (_port verified image) (h : s.mem.wf = true) :
    Keeps (execSignedUpdateRequest _port verified image s) := by
  unfold execSignedUpdateRequest
  simp [h]

theorem execSoftError_keeps {s : State} (err) (h : s.mem.wf = true) : Keeps (execSoftError err s) := by
  unfold execSoftError
  repeat' split
  all_goals simp [h]

theorem execHostLinkDown_keeps {s : State} (port down) (h : s.mem.wf = true) :
    Keeps (execHostLinkDown port down s) := by
  unfold execHostLinkDown
  simp [h]

@[simp] theorem closeStep_keeps {s : State} (core ticket op) (h : s.mem.wf = true) :
    Keeps (closeStep core ticket op s) := by
  unfold closeStep
  dsimp only
  split
  · refine keeps_next.mpr (State.foldl_wf (fun _ _ hs => ?_) _ (by simpa using h))
    split <;> simp [hs]
  · exact keeps_notEnabled

@[simp] theorem gatherStep_keeps {s : State} (core ticket k op) (h : s.mem.wf = true) :
    Keeps (gatherStep core ticket k op s) := by
  unfold gatherStep
  dsimp only
  split
  · split
    · exact keeps_notEnabled
    · split
      · split
        next s' hs' => exact keeps_next.mpr (State.landUnit_wf h hs')
        · exact keeps_notEnabled
      · split
        · exact when_keeps _ h
        · exact when_keeps _ (by simpa using h)
  · exact keeps_notEnabled

@[simp] theorem State.tried_keeps {s : State} (o f) (h : s.mem.wf = true) : Keeps (s.tried o f) := by
  unfold State.tried
  split
  · split
    next s' hs' => exact keeps_next.mpr (State.askUnit_mem hs' ▸ h)
    · exact keeps_notEnabled
  · exact when_keeps _ (by simpa using h)
  · exact keeps_notEnabled

@[simp] theorem stairStep_keeps {s : State} (core ticket k) (h : s.mem.wf = true) :
    Keeps (stairStep core ticket k s) := by
  unfold stairStep
  dsimp only
  repeat' split
  all_goals simp [h]

@[simp] theorem copyStep_keeps {s : State} (core ticket k) (h : s.mem.wf = true) :
    Keeps (copyStep core ticket k s) := by
  unfold copyStep
  repeat' split
  all_goals simp [h]

@[simp] theorem engineStep_keeps {s : State} (core ticket k) (h : s.mem.wf = true) :
    Keeps (engineStep core ticket k s) := by
  unfold engineStep
  repeat' split
  all_goals simp [h]

@[simp] theorem porchStep_keeps {s : State} (k) (h : s.mem.wf = true) : Keeps (porchStep k s) := by
  unfold porchStep
  dsimp only
  split
  · exact keeps_notEnabled
  · split
    · exact keeps_notEnabled
    · split
      next s' hs' => exact keeps_next.mpr (State.takeRow_wf (by exact h) hs')
      · exact keeps_notEnabled
  · split
    · exact keeps_notEnabled
    · rw [keeps_next, State.keepClose_mem]
      exact State.takeCounts_wf _ _ h

@[simp] theorem arriveStep_keeps {s : State} (k) (h : s.mem.wf = true) : Keeps (arriveStep k s) := by
  unfold arriveStep
  repeat' split
  all_goals simp [h]

@[simp] theorem rowUnitStep_keeps {s : State} (k j) (h : s.mem.wf = true) : Keeps (rowUnitStep k j s) := by
  unfold rowUnitStep
  repeat' split
  all_goals simp [h]

@[simp] theorem bufferStep_keeps {s : State} (tid) (h : s.mem.wf = true) : Keeps (bufferStep tid s) := by
  unfold bufferStep
  split
  · exact keeps_notEnabled
  · split
    · exact keeps_notEnabled
    · dsimp only
      split
      · exact keeps_notEnabled
      · simp [h]

@[simp] theorem unitStep_keeps {s : State} (core ticket va) (h : s.mem.wf = true) :
    Keeps (unitStep core ticket va s) := by
  unfold unitStep
  dsimp only
  repeat' split
  all_goals simp [h]

@[simp] theorem elemStep_keeps {s : State} (core ticket k) (h : s.mem.wf = true) :
    Keeps (elemStep core ticket k s) := by
  unfold elemStep
  repeat' split
  all_goals simp [h]

@[simp] theorem cmdUnitStep_keeps {s : State} (id va) (h : s.mem.wf = true) : Keeps (cmdUnitStep id va s) := by
  unfold cmdUnitStep
  dsimp only
  repeat' split
  all_goals simp [h]

@[simp] theorem cmdElemStep_keeps {s : State} (id k) (h : s.mem.wf = true) : Keeps (cmdElemStep id k s) := by
  unfold cmdElemStep
  repeat' split
  all_goals simp [h]

@[simp] theorem unitWord_keeps {s : State} (core va) (h : s.mem.wf = true) : Keeps (unitWord core va s) := by
  unfold unitWord
  dsimp only
  repeat' split
  all_goals simp [h]

@[simp] theorem unitElem_keeps {s : State} (core k) (h : s.mem.wf = true) : Keeps (unitElem core k s) := by
  unfold unitElem
  dsimp only
  repeat' split
  all_goals simp [h]

@[simp] theorem walkStep_keeps {s : State} (part page) (h : s.mem.wf = true) : Keeps (walkStep part page s) := by
  unfold walkStep
  split
  · exact keeps_notEnabled
  · split
    · exact keeps_notEnabled
    · split
      · simpa using h
      · simpa [State.sendAway_mem] using h
      · exact keeps_notEnabled

@[simp] theorem l1Fill_keeps {s : State} (core page) (h : s.mem.wf = true) : Keeps (l1Fill core page s) := by
  unfold l1Fill
  repeat' split
  all_goals simp [h]

@[simp] theorem dueStep_keeps {s : State} (k) (h : s.mem.wf = true) : Keeps (dueStep k s) := by
  unfold dueStep
  dsimp only
  repeat' split
  all_goals simp [h]

@[simp] theorem bootStep_keeps {s : State} (h : s.mem.wf = true) : Keeps (bootStep s) := by
  unfold bootStep
  repeat' split
  all_goals simp [h]

@[simp] theorem commandStep_keeps {s : State} (id k) (h : s.mem.wf = true) : Keeps (commandStep id k s) := by
  unfold commandStep
  repeat' split
  all_goals simp [h]

@[simp] theorem entryStep_keeps {s : State} (h : s.mem.wf = true) : Keeps (entryStep s) := by
  unfold entryStep
  repeat' split
  all_goals simp [h]

@[simp] theorem debugStep_keeps {s : State} (op) (h : s.mem.wf = true) : Keeps (debugStep op s) := by
  unfold debugStep
  repeat' split
  all_goals simp [h]

@[simp] theorem droppedStep_keeps {s : State} (m) (h : s.mem.wf = true) : Keeps (droppedStep m s) := by
  unfold droppedStep
  simp [h]

/-- Every instruction keeps memory in its canonical form, by its own lemma. -/
@[simp] theorem exec_keeps {s : State} (i) (h : s.mem.wf = true) : Keeps (exec i s) := by
  cases i with
  | nop f => exact execNop_keeps f h
  | br f => exact execBr_keeps f h
  | brc f => exact execBrc_keeps f h
  | brm f => exact execBrm_keeps f h
  | brmEm f => exact execBrmEm_keeps f h
  | call f => exact execCall_keeps f h
  | ret f => exact execRet_keeps f h
  | loop f => exact execLoop_keeps f h
  | exit f => exact execExit_keeps f h
  | yield f => exact execYield_keeps f h
  | trap f => exact execTrap_keeps f h
  | svc f => exact execSvc_keeps f h
  | sret f => exact execSret_keeps f h
  | rdsr f => exact execRdsr_keeps f h
  | wrsr f => exact execWrsr_keeps f h
  | launch f => exact execLaunch_keeps f h
  | allocFull f => exact execAllocFull_keeps f h
  | allocRext f => exact execAllocRext_keeps f h
  | allocRrel f => exact execAllocRrel_keeps f h
  | iadd f => exact execIadd_keeps f h
  | isub f => exact execIsub_keeps f h
  | imul f => exact execImul_keeps f h
  | imulh f => exact execImulh_keeps f h
  | imad f => exact execImad_keeps f h
  | imadw f => exact execImadw_keeps f h
  | idiv f => exact execIdiv_keeps f h
  | irem f => exact execIrem_keeps f h
  | imin f => exact execImin_keeps f h
  | imax f => exact execImax_keeps f h
  | iabs f => exact execIabs_keeps f h
  | ineg f => exact execIneg_keeps f h
  | and f => exact execAnd_keeps f h
  | or f => exact execOr_keeps f h
  | xor f => exact execXor_keeps f h
  | andn f => exact execAndn_keeps f h
  | shl f => exact execShl_keeps f h
  | shr f => exact execShr_keeps f h
  | sar f => exact execSar_keeps f h
  | rot f => exact execRot_keeps f h
  | popc f => exact execPopc_keeps f h
  | clz f => exact execClz_keeps f h
  | brev f => exact execBrev_keeps f h
  | bfx f => exact execBfx_keeps f h
  | bfi f => exact execBfi_keeps f h
  | icmp f => exact execIcmp_keeps f h
  | sel f => exact execSel_keeps f h
  | mov f => exact execMov_keeps f h
  | movi f => exact execMovi_keeps f h
  | lea f => exact execLea_keeps f h
  | widx f => exact execWidx_keeps f h
  | iadds f => exact execIadds_keeps f h
  | mset f => exact execMset_keeps f h
  | mlog f => exact execMlog_keeps f h
  | mif f => exact execMif_keeps f h
  | melse f => exact execMelse_keeps f h
  | mend f => exact execMend_keeps f h
  | msave f => exact execMsave_keeps f h
  | mload f => exact execMload_keeps f h
  | mstat f => exact execMstat_keeps f h
  | mpopc f => exact execMpopc_keeps f h
  | mfirst f => exact execMfirst_keeps f h
  | ballot f => exact execBallot_keeps f h
  | bcnt f => exact execBcnt_keeps f h
  | rsel f => exact execRsel_keeps f h
  | rselTie f => exact execRselTie_keeps f h
  | vshfl f => exact execVshfl_keeps f h
  | vred f => exact execVred_keeps f h
  | vscan f => exact execVscan_keeps f h
  | fadd f => exact execFadd_keeps f h
  | fsub f => exact execFsub_keeps f h
  | fmul f => exact execFmul_keeps f h
  | ffma f => exact execFfma_keeps f h
  | ffms f => exact execFfms_keeps f h
  | fmin f => exact execFmin_keeps f h
  | fmax f => exact execFmax_keeps f h
  | fminm f => exact execFminm_keeps f h
  | fmaxm f => exact execFmaxm_keeps f h
  | fsgn f => exact execFsgn_keeps f h
  | fcmp f => exact execFcmp_keeps f h
  | fclass f => exact execFclass_keeps f h
  | fdiv f => exact execFdiv_keeps f h
  | fsqrt f => exact execFsqrt_keeps f h
  | frcp f => exact execFrcp_keeps f h
  | frsq f => exact execFrsq_keeps f h
  | fexp2 f => exact execFexp2_keeps f h
  | flog2 f => exact execFlog2_keeps f h
  | frnd f => exact execFrnd_keeps f h
  | fscale f => exact execFscale_keeps f h
  | fdot f => exact execFdot_keeps f h
  | fdp2 f => exact execFdp2_keeps f h
  | fdp4 f => exact execFdp4_keeps f h
  | hadd2 f => exact execHadd2_keeps f h
  | hmul2 f => exact execHmul2_keeps f h
  | hfma2 f => exact execHfma2_keeps f h
  | hmin2 f => exact execHmin2_keeps f h
  | hmax2 f => exact execHmax2_keeps f h
  | fgetx f => exact execFgetx_keeps f h
  | cvt f => exact execCvt_keeps f h
  | cvti f => exact execCvti_keeps f h
  | cvtf f => exact execCvtf_keeps f h
  | cvtt f => exact execCvtt_keeps f h
  | pack f => exact execPack_keeps f h
  | unpack f => exact execUnpack_keeps f h
  | bfpk f => exact execBfpk_keeps f h
  | bfun f => exact execBfun_keeps f h
  | mxpk f => exact execMxpk_keeps f h
  | mxun f => exact execMxun_keeps f h
  | plane f => exact execPlane_keeps f h
  | unplane f => exact execUnplane_keeps f h
  | setfmt f => exact execSetfmt_keeps f h
  | getfmt f => exact execGetfmt_keeps f h
  | fstat f => exact execFstat_keeps f h
  | setfpm f => exact execSetfpm_keeps f h
  | ld f => exact execLd_keeps f h
  | st f => exact execSt_keeps f h
  | ldu f => exact execLdu_keeps f h
  | stu f => exact execStu_keeps f h
  | pref f => exact execPref_keeps f h
  | spagePin f => exact execSpagePin_keeps f h
  | spageUnpin f => exact execSpageUnpin_keeps f h
  | spageQuery f => exact execSpageQuery_keeps f h
  | ldnt f => exact execLdnt_keeps f h
  | stnt f => exact execStnt_keeps f h
  | cpy f => exact execCpy_keeps f h
  | cpy2d f => exact execCpy2d_keeps f h
  | cpypl f => exact execCpypl_keeps f h
  | cpeat f => exact execCpeat_keeps f h
  | cpack f => exact execCpack_keeps f h
  | psel f => exact execPsel_keeps f h
  | cpfill f => exact execCpfill_keeps f h
  | eresume f => exact execEresume_keeps f h
  | eresumeAbort f => exact execEresumeAbort_keeps f h
  | binit f => exact execBinit_keeps f h
  | barr f => exact execBarr_keeps f h
  | bexp f => exact execBexp_keeps f h
  | waitph f => exact execWaitph_keeps f h
  | testph f => exact execTestph_keeps f h
  | gridbar f => exact execGridbar_keeps f h
  | atom f => exact execAtom_keeps f h
  | atomf f => exact execAtomf_keeps f h
  | red f => exact execRed_keeps f h
  | rednm f => exact execRednm_keeps f h
  | nmfence f => exact execNmfence_keeps f h
  | dwacq f => exact execDwacq_keeps f h
  | dwrel f => exact execDwrel_keeps f h
  | atomw f => exact execAtomw_keeps f h
  | atomq f => exact execAtomq_keeps f h
  | fence f => exact execFence_keeps f h
  | mma f => exact execMma_keeps f h
  | mmas f => exact execMmas_keeps f h
  | mzero f => exact execMzero_keeps f h
  | mldacc f => exact execMldacc_keeps f h
  | mstacc f => exact execMstacc_keeps f h
  | mscale f => exact execMscale_keeps f h
  | mqry f => exact execMqry_keeps f h
  | accrd f => exact execAccrd_keeps f h
  | accwr f => exact execAccwr_keeps f h
  | accacq f => exact execAccacq_keeps f h
  | accrel f => exact execAccrel_keeps f h
  | gath f => exact execGath_keeps f h
  | gathp f => exact execGathp_keeps f h
  | scata f => exact execScata_keeps f h
  | scataClose f => exact execScataClose_keeps f h
  | gpref f => exact execGpref_keeps f h
  | thdl f => exact execThdl_keeps f h
  | gstat f => exact execGstat_keeps f h
  | shcnt f => exact execShcnt_keeps f h
  | dtree f => exact execDtree_keeps f h
  | desc f => exact execDesc_keeps f h
  | dregr f => exact execDregr_keeps f h
  | dgrad f => exact execDgrad_keeps f h
  | dpathRead f => exact execDpathRead_keeps f h
  | dpathWrite f => exact execDpathWrite_keeps f h
  | dstat f => exact execDstat_keeps f h
  | tql f => exact execTql_keeps f h
  | tql2 f => exact execTql2_keeps f h
  | tqmul f => exact execTqmul_keeps f h
  | tqcmt f => exact execTqcmt_keeps f h
  | cqsub f => exact execCqsub_keeps f h
  | cqstat f => exact execCqstat_keeps f h
  | rjoin f => exact execRjoin_keeps f h
  | rsend f => exact execRsend_keeps f h
  | rclose f => exact execRclose_keeps f h
  | rcnt f => exact execRcnt_keeps f h
  | dmark f => exact execDmark_keeps f h
  | wlset f => exact execWlset_keeps f h
  | lstat f => exact execLstat_keeps f h
  | salu f => exact execSalu_keeps f h
  | salui f => exact execSalui_keeps f h
  | scmp f => exact execScmp_keeps f h
  | sli f => exact execSli_keeps f h
  | sld f => exact execSld_keeps f h
  | sst f => exact execSst_keeps f h
  | srdsr f => exact execSrdsr_keeps f h
  | cldc f => exact execCldc_keeps f h
  | cstc f => exact execCstc_keeps f h
  | crow f => exact execCrow_keeps f h
  | cred f => exact execCred_keeps f h
  | cend f => exact execCend_keeps f h
  | allocFullGrant wg => exact execAllocFullGrant_keeps wg h
  | rextGrant core => exact execRextGrant_keeps core h
  | scratchpadPageRefill wg page => exact execScratchpadPageRefill_keeps wg page h
  | copyComplete core ticket => exact execCopyComplete_keeps core ticket h
  | copySuspend core ticket => exact execCopySuspend_keeps core ticket h
  | waitphWake tid => exact execWaitphWake_keeps tid h
  | waitphTimeout tid => exact execWaitphTimeout_keeps tid h
  | dwacqWake tid => exact execDwacqWake_keeps tid h
  | rednmApply add => exact execRednmApply_keeps add h
  | unitOpStart core => exact execUnitOpStart_keeps core h
  | unitOpComplete core => exact execUnitOpComplete_keeps core h
  | accTokenGrant wg tile => exact execAccTokenGrant_keeps wg tile h
  | gatherRowService work => exact execGatherRowService_keeps work h
  | gatherComplete core ticket => exact execGatherComplete_keeps core ticket h
  | scatterAddApply work => exact execScatterAddApply_keeps work h
  | descComplete core ticket => exact execDescComplete_keeps core ticket h
  | descSuspend core ticket => exact execDescSuspend_keeps core ticket h
  | dgradComplete core ticket => exact execDgradComplete_keeps core ticket h
  | queryComplete tid pid => exact execQueryComplete_keeps tid pid h
  | postedStoreDrain tid => exact execPostedStoreDrain_keeps tid h
  | instanceStart cunit => exact execInstanceStart_keeps cunit h
  | bankReservationExpiry cunit => exact execBankReservationExpiry_keeps cunit h
  | cellarCommandAged cunit => exact execCellarCommandAged_keeps cunit h
  | queueSlotGrant slot => exact execQueueSlotGrant_keeps slot h
  | ageIntervalExpiry q => exact execAgeIntervalExpiry_keeps q h
  | quantumExpiry q => exact execQuantumExpiry_keeps q h
  | launchAdmission src => exact execLaunchAdmission_keeps src h
  | waitEntry src => exact execWaitEntry_keeps src h
  | waitEntryPass q => exact execWaitEntryPass_keeps q h
  | copyCommand q => exact execCopyCommand_keeps q h
  | copyCommandComplete cmd => exact execCopyCommandComplete_keeps cmd h
  | cellarTaskRead src => exact execCellarTaskRead_keeps src h
  | workRequest die cluster => exact execWorkRequest_keeps die cluster h
  | workgroupDispatch die => exact execWorkgroupDispatch_keeps die h
  | damperExchange part => exact execDamperExchange_keeps part h
  | splitChange core => exact execSplitChange_keeps core h
  | workgroupRetire wg => exact execWorkgroupRetire_keeps wg h
  | launchComplete launch => exact execLaunchComplete_keeps launch h
  | pageWalkComplete part page => exact execPageWalkComplete_keeps part page h
  | lineFetch tid away => exact execLineFetch_keeps tid away h
  | loadComplete tid pid => exact execLoadComplete_keeps tid pid h
  | demotionStart tier freeSpace => exact execDemotionStart_keeps tier freeSpace h
  | demotionPageMove tier dest => exact execDemotionPageMove_keeps tier dest h
  | htlbiComplete part => exact execHtlbiComplete_keeps part h
  | remoteFail tid ck sub lanes => exact execRemoteFail_keeps tid ck sub lanes h
  | preemptSaveComplete => exact execPreemptSaveComplete_keeps h
  | atomicComplete tid pid => exact execAtomicComplete_keeps tid pid h
  | rednmDrop add => exact execRednmDrop_keeps add h
  | gatherRequestReceive req => exact execGatherRequestReceive_keeps req h
  | gatherReply rep => exact execGatherReply_keeps rep h
  | gatherPositionTimeout core ticket pkg die => exact execGatherPositionTimeout_keeps core ticket pkg die h
  | scatterCloseArrive msg => exact execScatterCloseArrive_keeps msg h
  | routingRowArrive msg => exact execRoutingRowArrive_keeps msg h
  | roundCloseArrive msg => exact execRoundCloseArrive_keeps msg h
  | queueEnable q => exact execQueueEnable_keeps q h
  | queueDisable q => exact execQueueDisable_keeps q h
  | qwidxWrite q v => exact execQwidxWrite_keeps q v h
  | latchAcquire n port => exact execLatchAcquire_keeps n port h
  | latchRelease n port => exact execLatchRelease_keeps n port h
  | latchBreak n port => exact execLatchBreak_keeps n port h
  | latchInvalidCommand n port cmd => exact execLatchInvalidCommand_keeps n port cmd h
  | hpartWrite v => exact execHpartWrite_keeps v h
  | hptrWrite part v => exact execHptrWrite_keeps part v h
  | hsbkWrite part v => exact execHsbkWrite_keeps part v h
  | htlbiPage part v => exact execHtlbiPage_keeps part v h
  | htlbiAll part => exact execHtlbiAll_keeps part h
  | hfwiWrite => exact execHfwiWrite_keeps h
  | hrekeyGo peer => exact execHrekeyGo_keeps peer h
  | hpreGo part slot => exact execHpreGo_keeps part slot h
  | hpreResume slot part => exact execHpreResume_keeps slot part h
  | hkillGo part => exact execHkillGo_keeps part h
  | hcabtWrite v => exact execHcabtWrite_keeps v h
  | hashrWrite v => exact execHashrWrite_keeps v h
  | msixDeferredSend port vec => exact execMsixDeferredSend_keeps port vec h
  | powerOnRequest => exact execPowerOnRequest_keeps h
  | powerIdleRequest => exact execPowerIdleRequest_keeps h
  | powerHoldRequest => exact execPowerHoldRequest_keeps h
  | hrcvGo port v => exact execHrcvGo_keeps port v h
  | recoveryCheckDone verdict => exact execRecoveryCheckDone_keeps verdict h
  | registerWrite off v port => exact execRegisterWrite_keeps off v port h
  | hostMemoryAccess acc => exact execHostMemoryAccess_keeps acc h
  | accessCountDecay => exact execAccessCountDecay_keeps h
  | ptsAdvance core => exact execPtsAdvance_keeps core h
  | remoteRequestServe req => exact execRemoteRequestServe_keeps req h
  | remoteReply rep => exact execRemoteReply_keeps rep h
  | relayForward msg => exact execRelayForward_keeps msg h
  | flitReceive flit => exact execFlitReceive_keeps flit h
  | flitAck lane seq => exact execFlitAck_keeps lane seq h
  | rekeySeqTrigger lane => exact execRekeySeqTrigger_keeps lane h
  | keyBankSwitch peer => exact execKeyBankSwitch_keeps peer h
  | laneDrained lane => exact execLaneDrained_keeps lane h
  | laneRelock lane peer => exact execLaneRelock_keeps lane peer h
  | relockTimeout lane => exact execRelockTimeout_keeps lane h
  | dieLost die => exact execDieLost_keeps die h
  | pageinRequest part => exact execPageinRequest_keeps part h
  | pageinComplete res => exact execPageinComplete_keeps res h
  | thermtrip => exact execThermtrip_keeps h
  | powerLoss => exact execPowerLoss_keeps s
  | deviceReset boot => exact execDeviceReset_keeps s boot
  | lifecycleRequest req => exact execLifecycleRequest_keeps req h
  | debugSessionEnter req => exact execDebugSessionEnter_keeps req h
  | debugSessionEnd port meas => exact execDebugSessionEnd_keeps port meas h
  | attestationRequest port => exact execAttestationRequest_keeps port h
  | signedUpdateRequest port verified image => exact execSignedUpdateRequest_keeps port verified image h
  | softError err => exact execSoftError_keeps err h
  | hostLinkDown port down => exact execHostLinkDown_keeps port down h

@[simp] theorem issue_keeps {s : State} (tid) (h : s.mem.wf = true) : Keeps (issue tid s) := by
  unfold issue
  split
  · exact keeps_fault _
  · split
    · simp [h]
    · exact keeps_next.mpr h
    · exact State.settle_keeps _ _ h (yields_error _ _)
    · simpa using h
    · exact exec_keeps _ h

/-- Every move keeps memory in its canonical form, by its own lemma. -/
@[simp] theorem perform_keeps {s : State} (m) (h : s.mem.wf = true) : Keeps (perform m s) := by
  unfold perform
  split
  · exact keeps_notEnabled
  · cases m <;> simp [h]

@[simp] theorem State.freeStep_keeps {s : State} (h : s.mem.wf = true) : Keeps s.freeStep := by
  unfold State.freeStep
  split <;> simp [h]

theorem step_keeps {s : State} (h : s.mem.wf = true) : Keeps (step s) := by
  unfold step
  split
  · exact perform_keeps _ h
  · exact State.freeStep_keeps (by simpa using h)

/-- Settles O5: every instruction and every event writes physical memory through `Store.putBytes` and the like,
which keep its canonical form. -/
theorem stepKeepsMemoryCanonical : Obligations.StepKeepsMemoryCanonical := by
  unfold Obligations.StepKeepsMemoryCanonical
  intro s s' h hs
  exact step_keeps h s' hs

end Sys2Proof.Machine
end

section
/-!
PROOFS. Remote accesses at their home and at their issuer (O50).
-/

namespace Sys2Proof.Machine

/-! ### Where a request is served (R276, R288) -/

section
variable {s : State} {req : RemoteReq} (hpkg : pkgOf req.pa = s.pkg)
  (hsrc : req.src ≠ s.pkg ∨ req.forwarded = true)
include hpkg hsrc

theorem remoteRequestServe_here (hf : s.fwdOf (inPkg req.pa) = none) :
    exec (.remoteRequestServe req) s = s.serveAt req (inPkg req.pa) := by
  change execRemoteRequestServe req s = _
  unfold execRemoteRequestServe
  rw [if_neg (by simpa [hpkg, imp_iff_not_or] using hsrc)]
  simp only [hf]

/-- A request that has been forwarded is not forwarded again. -/
theorem remoteRequestServe_again {dest : Nat} (hf : s.fwdOf (inPkg req.pa) = some dest)
    (hagain : req.forwarded = true ∨ pkgOf dest = s.pkg ∧ s.fwdOf (inPkg dest) ≠ none) :
    exec (.remoteRequestServe req) s = .next (s.sendMsg (.failed req.src req.id 9 1 s.pkg)) := by
  change execRemoteRequestServe req s = _
  unfold execRemoteRequestServe
  rw [if_neg (by simpa [hpkg, imp_iff_not_or] using hsrc)]
  by_cases hreq : req.forwarded = true
  · simp [hf, hreq]
  · obtain ⟨hd, hdest⟩ := hagain.resolve_left hreq
    simp [hf, hreq, hd, Option.isSome_iff_ne_none.mpr hdest]

theorem remoteRequestServe_onward {dest : Nat} (hf : s.fwdOf (inPkg req.pa) = some dest)
    (hreq : req.forwarded = false) (hd : pkgOf dest ≠ s.pkg) :
    exec (.remoteRequestServe req) s =
      .next (s.sendMsg (.access (pkgOf dest) { req with pa := dest, forwarded := true })) := by
  change execRemoteRequestServe req s = _
  unfold execRemoteRequestServe
  rw [if_neg (by simpa [hpkg, imp_iff_not_or] using hsrc)]
  simp [hf, hreq, hd]

end

/-! ### What the home answers (R276 to R279, R283) -/

theorem State.serveAt_hole {s : State} (req : RemoteReq) {a : Nat} (ha : s.physOk a = false) :
    s.serveAt req a = .next (s.sendMsg (.failed req.src req.id 6 0 s.pkg)) := by
  simp [State.serveAt, ha]

/-- The state in which the home has performed a request. -/
def State.homeServed (s : State) (req : RemoteReq) (a : Nat) : State :=
  { (s.homeStamp req a).2 with mem := (s.homeStamp req a).2.mem.putBytes a (s.remoteDo req a).1 }

section
variable {s : State} {req : RemoteReq} {a : Nat} (ha : s.physOk a = true) (hlost : s.homeLost a = false)
  (hpow : s.power = .hold → stackOf a = none) (hmove : req.kind = 0 ∨ s.moving a = false)
include ha hlost hpow hmove

theorem State.serveAt_open : s.serveAt req a =
    if poisonStops req && s.poisoned a then
      .next ((s.dropRecord req a).sendMsg (.failed req.src req.id 8 0 s.pkg))
    else .next ((s.homeServed req a).sendMsg
      (.reply req.src req.id (s.remoteDo req a).2 (s.homeStamp req a).1 s.pkg (req.kind == 2))) := by
  have hp : (s.power == .hold && (stackOf a).isSome) = false := by
    cases hs : stackOf a with
    | none => simp
    | some k => simpa [hs] using hpow
  have hm : (req.kind != 0 && s.moving a) = false := by
    simpa [imp_iff_not_or] using hmove
  unfold State.serveAt
  rw [if_neg (by simp [ha]), if_neg (by simp only [hlost, hp, hm]; decide)]
  rfl

theorem State.serveAt_poisoned (hk : req.kind ∈ [0, 2, 5]) (hpoi : s.poisoned a = true) :
    s.serveAt req a = .next (s.sendMsg (.failed req.src req.id 8 0 s.pkg)) := by
  have h7 : req.kind ≠ 7 := fun h => absurd (h ▸ hk) (by decide)
  have hstop : poisonStops req = true := by
    simp only [List.mem_cons, List.not_mem_nil, or_false] at hk
    simp only [poisonStops, List.contains_eq_mem, List.mem_cons, List.not_mem_nil, or_false, decide_eq_true_eq]
    omega
  rw [State.serveAt_open ha hlost hpow hmove]
  simp [hstop, hpoi, State.dropRecord, h7]

theorem State.serveAt_poisoned_drop (hk : req.kind = 7) (hpoi : s.poisoned a = true) :
    s.serveAt req a = .next ((s.post
      { code := 0x12, die := (homeDie a).getD 0, stack := (stackOf a).getD 0xF, addr := req.pa }).sendMsg
        (.failed req.src req.id 8 0 s.pkg)) := by
  rw [State.serveAt_open ha hlost hpow hmove]
  simp [poisonStops, hpoi, State.dropRecord, hk]

theorem State.serveAt_done (hpoi : s.poisoned a = false ∨ req.kind ∈ [1, 3, 4]) :
    s.serveAt req a = .next ((s.homeServed req a).sendMsg
      (.reply req.src req.id (s.remoteDo req a).2 (s.homeStamp req a).1 s.pkg (req.kind == 2))) := by
  have hstop : (poisonStops req && s.poisoned a) = false := by
    obtain h | h := hpoi
    · simp [h]
    · simp only [List.mem_cons, List.not_mem_nil, or_false] at h
      obtain h | h | h := h <;> simp [poisonStops, h]
  rw [State.serveAt_open ha hlost hpow hmove, hstop]
  rfl

end

/-! ### The timestamp of an access at its home (R393) -/

theorem State.homeStamp_load {s : State} {req : RemoteReq} (a : Nat) (hk : req.kind = 0) :
    (s.homeStamp req a).1 = max req.pts (s.lts.getD (a / 128) (0, 0)).1 := by
  simp [State.homeStamp, hk]

theorem State.homeStamp_write {s : State} {req : RemoteReq} (a : Nat) (hk : req.kind ≠ 0) :
    (s.homeStamp req a).1 = max req.pts ((s.lts.getD (a / 128) (0, 0)).2 + 1) := by
  simp [State.homeStamp, hk]

theorem State.homeServed_lts {s : State} {req : RemoteReq} (a : Nat) (hk : req.kind ≠ 0) :
    (s.homeServed req a).lts.getD (a / 128) (0, 0) = ((s.homeStamp req a).1, (s.homeStamp req a).1) := by
  simp [State.homeServed, State.homeStamp, hk]

theorem State.homeStamp_frame (s : State) (req : RemoteReq) (a : Nat) :
    (s.homeStamp req a).2.lanes = s.lanes ∧ (s.homeStamp req a).2.outbox = s.outbox := by
  unfold State.homeStamp
  dsimp only
  split
  · split <;> exact ⟨rfl, rfl⟩
  · exact ⟨rfl, rfl⟩

/-- An atomic of one lane. -/
theorem atomRun_one (o : AtomOp) (old : Nat) {n : Nat} {data : List Byte} (hd : data.length = 2 * n) :
    atomRun o n old data 1 = (toBytes old n, o.apply old (ofBytes (data.take n)) (ofBytes (data.drop n))) := by
  have hdrop : (data.drop n).take n = data.drop n := List.take_of_length_le (by simp; omega)
  simp [atomRun, hdrop]

/-- What a request does at its home, kind by kind. -/
theorem State.remoteDo_eq {s : State} {req : RemoteReq} {a : Nat} {new back : List Byte}
    (h : req.kind = 0 ∧ new = [] ∧ back = s.mem.bytes a req.size ∨
      req.kind = 1 ∧ new = req.data ∧ back = [] ∨
      req.kind = 2 ∧ 0 < req.size ∧ req.data.length = 2 * req.size ∧ back = toBytes (s.mem.getNat a req.size) req.size ∧
        new = toBytes ((AtomOp.ofWord req.op).apply (s.mem.getNat a req.size) (ofBytes (req.data.take req.size))
          (ofBytes (req.data.drop req.size))) req.size ∨
      req.kind = 3 ∧ back = [] ∧
        new = toBytes ((Bar.ofWord (s.mem.getNat a 64)).add (Addition.ofBytes req.data)).word 64 ∨
      req.kind = 4 ∧ back = [] ∧ new = toBytes ((Bar.ofWord (s.mem.getNat a 64)).init
        (fld (ofBytes req.data) 0 64) (fld (ofBytes req.data) 64 64)).word 64 ∨
      req.kind = 5 ∧ back = [] ∧ new = ((List.range (req.data.length / 4)).flatMap fun i => toBytes (wordAdd
        (req.op % 256) (tb req.op 8) (s.mem.getNat (a + 4 * i) 4) (fld (ofBytes req.data) (32 * i) 32)) 4) ∨
      req.kind = 7 ∧ back = [] ∧ new = toBytes (f32Add (tb req.op 8) (s.mem.getNat a 4) (ofBytes req.data)) 4) :
    s.remoteDo req a = (new, back) := by
  obtain ⟨hk, rfl, rfl⟩ | ⟨hk, rfl, rfl⟩ | ⟨hk, hn, hd, rfl, rfl⟩ | ⟨hk, rfl, rfl⟩ | ⟨hk, rfl, rfl⟩ | ⟨hk, rfl, rfl⟩ |
    ⟨hk, rfl, rfl⟩ := h
  case inr.inr.inl =>
    have hone : req.data.length / (2 * req.size) = 1 := by rw [hd]; exact Nat.div_self (by omega)
    simp [State.remoteDo, hk, hone, atomRun_one _ _ hd]
  all_goals simp [State.remoteDo, hk]

/-! ### An answer at the issuer (R277, R283) -/

/-- The value that a lane's answer gives its register. -/
def Access.answer (a : Access) (n : Nat) (bs : List Byte) : Nat :=
  if a.kind = .atomic then ofBytes bs else loadVal (tyWordSigned a.op) (8 * a.size) (32 * n) (bs.take a.size)

/-- A producer that has been given some lanes. -/
def Producer.gives (p : Producer) (a : Access) (vs : List (Nat × List Byte)) : Producer :=
  vs.foldl (fun p v => p.give a v.1 v.2) p

theorem Producer.give_vals {p : Producer} (a : Access) (lane : Nat) (bs : List Byte) (hp : p.toG = false) :
    (p.give a lane bs).vals = putVals p.vals lane (a.answer p.n bs) p.n := by
  have hn : 32 * p.n / 32 = p.n := by omega
  cases hk : a.kind <;> simp [Producer.give, Access.answer, hp, hk, hn]

theorem Producer.gives_n (p : Producer) (a : Access) (vs : List (Nat × List Byte)) : (p.gives a vs).n = p.n := by
  induction vs generalizing p with
  | nil => rfl
  | cons v vs ih => exact ih (p.give a v.1 v.2)

theorem Producer.gives_vals {p : Producer} (a : Access) (vs : List (Nat × List Byte)) (hp : p.toG = false) :
    (p.gives a vs).vals =
      (vs.map fun v => (v.1, a.answer p.n v.2)).foldl (fun m v => putVals m v.1 v.2 p.n) p.vals := by
  induction vs generalizing p with
  | nil => rfl
  | cons v vs ih =>
    rw [List.map_cons, List.foldl_cons, ← Producer.give_vals a v.1 v.2 hp]
    exact ih (p := p.give a v.1 v.2) hp

theorem Producer.gives_waiting {p : Producer} (a : Access) (vs : List (Nat × List Byte)) {i : Nat} (hi : i < 64) :
    (p.gives a vs).waiting.getLsbD i = (p.waiting.getLsbD i && !(vs.any fun v => v.1 == i)) := by
  induction vs generalizing p with
  | nil => simp [Producer.gives]
  | cons v vs ih =>
    have hv : (p.give a v.1 v.2).waiting.getLsbD i = (p.waiting.getLsbD i && !(v.1 == i)) := by
      change (p.waiting &&& ~~~(laneMask [v.1])).getLsbD i = _
      rw [BitVec.getLsbD_and, BitVec.getLsbD_not, laneMask_getLsbD, decide_eq_true hi, Bool.true_and, Bool.true_and,
        beq_eq_decide, decide_eq_decide.mpr (List.mem_singleton.trans eq_comm)]
    rw [List.any_cons, Bool.not_or, ← Bool.and_assoc, ← hv]
    exact ih

/-- A lane's answer is in its register's words, where no lane answers twice. -/
theorem Producer.gives_vals_get {p : Producer} {a : Access} {vs : List (Nat × List Byte)} {v : Nat × List Byte} {j : Nat}
    (hp : p.toG = false) (hlt : ∀ v ∈ vs, v.1 < 64) (hnd : (vs.map (·.1)).Nodup) (hv : v ∈ vs) (hj : j < p.n) :
    (p.gives a vs).vals.get (64 * j + v.1) = word32 (a.answer p.n v.2) j := by
  obtain ⟨l1, l2, rfl⟩ := List.append_of_mem hv
  have hlast : v.1 ∉ (l2.map fun v => (v.1, a.answer p.n v.2)).map (·.1) := by
    rw [List.map_append, List.map_cons] at hnd
    simpa using (List.nodup_cons.mp hnd.of_append_right).1
  have hl2 : ∀ w ∈ l2.map (fun v => (v.1, a.answer p.n v.2)), w.1 < 64 := by
    rw [List.forall_mem_map]
    exact fun x hx => hlt x (List.mem_append_right _ (List.mem_cons_of_mem _ hx))
  rw [Producer.gives_vals a _ hp, List.map_append, List.map_cons, List.foldl_append, List.foldl_cons,
    putVals_foldl_get_other _ _ j hl2 (hlt v hv) hlast]
  exact putVals_get_same _ _ _ hj

/-- A thread whose access has been given some lanes. -/
def Thread.gives (t : Thread) (a : Access) (vs : List (Nat × List Byte)) : Thread :=
  vs.foldl (fun t v => t.giveLane a v.1 v.2) t

theorem Thread.giveLane_regs (t : Thread) (a : Access) (lane : Nat) (bs : List Byte) :
    (t.giveLane a lane bs).regs = t.regs := by
  unfold Thread.giveLane
  split <;> rfl

theorem Thread.gives_regs (t : Thread) (a : Access) (vs : List (Nat × List Byte)) : (t.gives a vs).regs = t.regs := by
  induction vs generalizing t with
  | nil => rfl
  | cons v vs ih => exact (ih _).trans (t.giveLane_regs a v.1 v.2)

theorem Thread.gives_prods {t : Thread} {a : Access} {pid : Nat} {p : Producer} (vs : List (Nat × List Byte))
    (ha : a.pid = some pid) (hp : t.prods.get? pid = some p) :
    (t.gives a vs).prods.get? pid = some (p.gives a vs) := by
  induction vs generalizing t p with
  | nil => exact hp
  | cons v vs ih =>
    refine ih (t := t.giveLane a v.1 v.2) (p := p.give a v.1 v.2) ?_
    simp [Thread.giveLane, ha, Tab.get?_upd_same, hp]

/-! ### What stands behind an access (R278) -/

theorem State.performLanes_remote (s : State) (t : Thread) (a : Access) {l : LaneAcc} (ls : List LaneAcc)
    (hl : l.place.isRemote = true) : s.performLanes t a (l :: ls) = (s, t, l :: ls) := by
  simp [State.performLanes, hl]

/-- An access that still has a lane of another package keeps the buffer. -/
theorem State.drainPend_remote (s : State) (t : Thread) {a : Access} {l : LaneAcc} {ls : List LaneAcc} (ps : List Pend)
    (ha : a.lanes = l :: ls) (hl : l.place.isRemote = true) :
    s.drainPend t (.access a :: ps) =
      (s.sendMsgs (a.msgs s.pkg t.pts), { t with pend := .access a :: ps, sent := s.time.toNat }) := by
  have he : { a with lanes := l :: ls } = a := by rw [← ha]
  simp [State.drainPend, ha, State.performLanes_remote s t a ls hl, he]

/-- An access all of whose lanes are in lets the buffer go on. -/
theorem State.drainPend_done (s : State) (t : Thread) {a : Access} (ps : List Pend) (ha : a.lanes = [])
    (hf : a.failed = []) : s.drainPend t (.access a :: ps) = s.drainPend t ps := by
  simp [State.drainPend, ha, hf, State.performLanes]

/-- An access that failed stops the buffer. -/
theorem State.drainPend_failed (s : State) (t : Thread) {a : Access} (ps : List Pend) (ha : a.lanes = [])
    (hf : a.failed ≠ []) : s.drainPend t (.access a :: ps) = (s, { t with pend := .access a :: ps }) := by
  have he : { a with lanes := [] } = a := by rw [← ha]
  simp [State.drainPend, ha, hf, State.performLanes, he]

theorem State.drainPend_failed_nil (s : State) (t : Thread) {ps qs : List Pend} {b : Access}
    (hps : ∀ b, .access b ∈ ps → b.failed = []) (hb : (s.drainPend t ps).2.pend = .access b :: qs) :
    b.failed = [] := by
  induction ps generalizing s t with
  | nil => simp [State.drainPend] at hb
  | cons p ps ih =>
    have hrest : ∀ b, Pend.access b ∈ ps → b.failed = [] := fun b h => hps b (List.mem_cons_of_mem _ h)
    cases p with
    | store ws =>
      rw [State.drainPend] at hb
      split at hb
      · simp at hb
      · exact ih _ _ hrest hb
    | access a =>
      have ha : a.failed = [] := hps a List.mem_cons_self
      rw [State.drainPend] at hb
      dsimp only at hb
      split at hb
      · rw [if_pos (by simp [ha])] at hb
        exact ih _ _ hrest hb
      · simp only [List.cons.injEq, Pend.access.injEq] at hb
        rw [← hb.1]
        exact ha

theorem State.goOn_remote (s : State) (tid : Nat) (t : Thread) {a : Access} {l : LaneAcc} {ls : List LaneAcc}
    (ps : List Pend) (ha : a.lanes = l :: ls) (hl : l.place.isRemote = true) :
    s.goOn tid t a ps = (s.sendMsgs (a.msgs s.pkg t.pts)).putThread tid
      { t with pend := .access a :: ps, sent := s.time.toNat } := by
  simp [State.goOn, s.drainPend_remote t ps ha hl, ha]

theorem State.goOn_done (s : State) (tid : Nat) (t : Thread) {a : Access} {ps : List Pend} (ha : a.lanes = [])
    (hf : a.failed = []) (hps : ∀ b, .access b ∈ ps → b.failed = []) :
    s.goOn tid t a ps = (s.drainPend t ps).1.putThread tid (s.drainPend t ps).2 := by
  unfold State.goOn
  rw [s.drainPend_done t ps ha hf]
  dsimp only
  split
  next b qs hb => simp [State.drainPend_failed_nil s t hps hb]
  · rfl

/-! ### The answer to an access (R277, R278) -/

/-- The lanes that an answer gives and those that it fails, of the access at the head of the buffer. -/
theorem remoteReply_head {s : State} {t : Thread} {rep : RemoteRep} {a : Access} {ps : List Pend}
    (ht : s.threads.get? rep.tid = some t) (haway : s.aways.get? (4096 * rep.ck) = none)
    (hdue : s.overdue t.sent = false) (hpend : t.pend = .access a :: ps) (hck : a.ck = rep.ck) (hbad : rep.bad = [])
    (hout : a.out ≠ []) (hrem : ∀ l ∈ a.out, l.place.isRemote = true)
    (hlanes : rep.lanes.map (·.1) = a.out.map (·.lane)) :
    exec (.remoteReply rep) s = .next (s.laneDone rep.tid t a ps rep.lanes [] 0 rep.ts) := by
  have hhead : t.outHead = some (a, ps) := by
    obtain ⟨l, ls, hl⟩ := List.exists_cons_of_ne_nil hout
    have hany : (a.out.any fun l => l.place.isRemote) = true := by
      rw [List.any_eq_true]
      exact ⟨l, by simp [hl], hrem l (by simp [hl])⟩
    simp only [Thread.outHead, hpend, hany, if_true]
  have hall : (a.out.all fun l => rep.lanes.any fun v => v.1 == l.lane) = true := by
    simp only [List.all_eq_true, List.any_eq_true, beq_iff_eq]
    intro l hl
    have hmem : l.lane ∈ rep.lanes.map (·.1) := hlanes ▸ List.mem_map_of_mem hl
    exact List.mem_map.mp hmem
  have hkeep : (rep.lanes.filter fun v => a.out.any fun l => l.lane == v.1) = rep.lanes := by
    rw [List.filter_eq_self]
    intro v hv
    have hmem : v.1 ∈ a.out.map (·.lane) := hlanes ▸ List.mem_map_of_mem hv
    obtain ⟨l, hl, hlv⟩ := List.mem_map.mp hmem
    exact List.any_eq_true.mpr ⟨l, hl, by simpa using hlv⟩
  change execRemoteReply rep s = _
  unfold execRemoteReply
  simp only [haway, ht, Option.bind_some, hhead, Option.map_some]
  rw [if_neg (by simpa [hdue, hck, hbad] using hall), hbad, hkeep]

theorem State.laneDone_good (s : State) (tid : Nat) (t : Thread) {a : Access} (ps : List Pend)
    (vals : List (Nat × List Byte)) (ts : Nat) (ha : a.failed = []) :
    s.laneDone tid t a ps vals [] 0 ts =
      s.goOn tid (Thread.gives { t with pts := max t.pts ts } a vals) { a with lanes := a.lanes.drop a.out.length } ps := by
  simp [State.laneDone, Thread.gives, ha]

/-- The first lane's answer is taken and the next lane's request leaves. -/
theorem State.laneDone_first (s : State) (tid : Nat) (t : Thread) {a : Access} {n m : LaneAcc} {l : List LaneAcc}
    (ps : List Pend) (vals : List (Nat × List Byte)) (ts : Nat) (hfail : a.failed = []) (hwhole : a.whole = false)
    (hal : a.lanes = n :: m :: l) (hm : m.place.isRemote = true) :
    ∃ (s' : State) (t' : Thread), s.laneDone tid t a ps vals [] 0 ts = s' ∧ s'.threads.get? tid = some t' ∧
      t'.pend = .access { a with lanes := m :: l } :: ps ∧ t'.regs = t.regs := by
  have hdrop : a.lanes.drop a.out.length = m :: l := by simp [Access.out, hwhole, hal]
  have hgo := s.laneDone_good tid t ps vals ts hfail
  rw [hdrop, State.goOn_remote s tid _ ps rfl hm] at hgo
  exact ⟨_, _, hgo, Tab.get?_put_same .., rfl, Thread.gives_regs ..⟩

/-- Once all lanes are in, what stands behind the access goes on. -/
theorem State.laneDone_all (s : State) (tid : Nat) (t : Thread) {a : Access} {ps : List Pend}
    (vals : List (Nat × List Byte)) (ts : Nat) (hfail : a.failed = []) (hout : a.out = a.lanes)
    (hps : ∀ b, .access b ∈ ps → b.failed = []) :
    s.laneDone tid t a ps vals [] 0 ts =
      (s.drainPend (Thread.gives { t with pts := max t.pts ts } a vals) ps).1.putThread tid
        (s.drainPend (Thread.gives { t with pts := max t.pts ts } a vals) ps).2 := by
  rw [s.laneDone_good tid t ps vals ts hfail]
  exact State.goOn_done s tid _ (by simp [hout]) hfail hps

/-! ### A failed access (R279, R419) -/

theorem remoteFail_head {s : State} {t : Thread} {a : Access} {l : LaneAcc} {rest : List Pend} {tid sub : Nat}
    (ht : s.threads.get? tid = some t) (haway : s.aways.get? (4096 * a.ck) = none) (hpend : t.pend = .access a :: rest)
    (hl : a.lanes = [l]) (hrem : l.place.isRemote = true)
    (hsub : s.failsWith l.place.remotePa t.sent sub = true) :
    exec (.remoteFail tid a.ck sub [l.lane]) s = .next (s.laneDone tid t a rest [] [(l.lane, 9)] sub 0) := by
  have hout : a.out = [l] := by simp [Access.out, hl]
  have hhead : t.outHead = some (a, rest) := by simp [Thread.outHead, hpend, hout, hrem]
  change execRemoteFail tid a.ck sub [l.lane] s = _
  simp [execRemoteFail, haway, ht, hhead, hout, hsub, when]

/-- An access whose one lane, the last, has failed with a fabric error. -/
def Access.lostLane (a : Access) (l : LaneAcc) (sub : Nat) : Access :=
  { a with lanes := [], failed := [(l.lane, l.va, l.place.remotePa, 9, sub)] }

theorem State.laneDone_lostLane (s : State) (tid : Nat) (t : Thread) {a : Access} {l : LaneAcc} (rest : List Pend) (sub : Nat)
    (hl : a.lanes = [l]) (ha : a.failed = []) :
    s.laneDone tid t a rest [] [(l.lane, 9)] sub 0 =
      s.rollBack tid { t with pend := .access (a.lostLane l sub) :: rest } (a.lostLane l sub) := by
  have hout : a.out = [l] := by simp [Access.out, hl]
  have hgo : s.laneDone tid t a rest [] [(l.lane, 9)] sub 0 = s.goOn tid t (a.lostLane l sub) rest := by
    simp [State.laneDone, hout, hl, ha, Access.lostLane]
  rw [hgo, State.goOn, State.drainPend_failed s t rest rfl (List.cons_ne_nil _ _)]
  rfl

/-- A thread brought back to an access's checkpoint: what the access and the instructions after it left behind is gone. -/
def Thread.rolledBack (t : Thread) (a : Access) : Thread :=
  { t.forget with
    pc := a.pc, regs := a.regs, pend := [], prods := t.prods.filter fun p => decide (p.1 < a.ck) && a.pid != some p.1
    queries := t.queries.filter fun q => decide (q.1 < a.ck) && a.pid != some q.1, status := .running, line := none
    enter := .resume }

/-- The group is brought back to its checkpoint, with the counters of the access's snapshot, and traps. -/
theorem State.rollBack_lostLane (s : State) (tid : Nat) (t : Thread) {a : Access} (l : LaneAcc) (sub : Nat)
    (hk : a.kind ≠ .atomic) (hop : a.op < 512) :
    s.rollBack tid t (a.lostLane l sub) = ((s.dropAccess a.ck).unsnap a.snap).trapOrPend tid (t.rolledBack a)
      { cls := 9, sub := sub, addr := l.va, info := pkgOf l.place.remotePa, lanes := some (1#64 <<< l.lane) } := by
  have h9 : tb a.op 9 = false := (tb_eq_testBit ..).trans (Nat.testBit_lt_two_pow hop)
  have h10 : tb a.op 10 = false := (tb_eq_testBit ..).trans (Nat.testBit_lt_two_pow (by omega))
  have hregs : t.ackRegs (a.lostLane l sub) = a.regs := by
    simp [Thread.ackRegs, Access.lostLane, hk]
  have hmask : laneMask [l.lane] = 1#64 <<< l.lane := by simp [laneMask]
  have hcls : failClass (a.lostLane l sub).failed = 9 := by simp [failClass, Access.lostLane]
  unfold State.rollBack
  simp only [hcls, hregs]
  simp [Access.lostLane, Access.whole, h9, h10, hmask, Thread.rolledBack]
  rfl

/-! ### The answer to an instruction at the issue point (log 11) -/

theorem remoteReply_ask {s : State} {t : Thread} {rep : RemoteRep} {a : Away} {tid i : Nat} {bs : List Byte}
    (haway : s.aways.get? (4096 * rep.ck) = some a) (hdue : s.overdue a.sent = false) (hown : a.owner = .thread tid)
    (ht : s.threads.get? tid = some t) (hask : t.asks = [4096 * rep.ck]) (hbad : rep.bad = [])
    (hlanes : rep.lanes = [(i, bs)]) :
    exec (.remoteReply rep) s = .next (({ s with aways := s.aways.del (4096 * rep.ck) } : State).putThread tid
      { t with asks := [], pts := max t.pts rep.ts
               answers := t.answers ++ [{ pa := a.req.pa, cls := 0, data := bs }] }) := by
  change execRemoteReply rep s = _
  simp [execRemoteReply, haway, hdue, hbad, hlanes, when, State.awayDone, hown, State.askDone, ht, hask]

/-! ### The counters that a failed snapshot had cleared (R288) -/

theorem satAdd_zero_left {n v : Nat} (hv : v < 2 ^ n) : satAdd n 0 v = v := by
  unfold satAdd
  omega

/-- Counts added to counters, none past its width. -/
def addCounts (m counts : Store 32) : Store 32 :=
  counts.foldl (fun m e => m.set e.1 (BitVec.ofNat 32 (satAdd 32 (m.get e.1).toNat e.2.toNat))) m

theorem addCounts_get_other (m : Store 32) {counts : Store 32} {e : Nat} (he : e ∉ counts.map (·.1)) :
    (addCounts m counts).get e = m.get e := by
  induction counts generalizing m with
  | nil => rfl
  | cons c counts ih =>
    obtain ⟨hne, hmem⟩ := not_or.mp (List.mem_cons.not.mp he)
    exact (ih _ hmem).trans (Store.get_set_other _ _ (Ne.symm hne))

/-- Counts added to empty counters come back as they were. -/
theorem addCounts_get {m counts : Store 32} (hnd : (counts.map (·.1)).Nodup) (hm : ∀ k, m.get k = 0 ∨ k ∉ counts.map (·.1))
    {e : Nat} (he : m.get e = 0) : (addCounts m counts).get e = counts.get e := by
  induction counts generalizing m with
  | nil => exact he
  | cons c counts ih =>
    obtain ⟨k, v⟩ := c
    obtain ⟨hk, hnd⟩ := List.nodup_cons.mp hnd
    have hmk : m.get k = 0#32 := (hm k).resolve_right fun h => h List.mem_cons_self
    have hv : BitVec.ofNat 32 (satAdd 32 (m.get k).toNat v.toNat) = v := by
      rw [hmk, BitVec.toNat_zero, satAdd_zero_left v.isLt, BitVec.ofNat_toNat, BitVec.setWidth_eq]
    have hcons : addCounts m ((k, v) :: counts) = addCounts (m.set k v) counts := by
      rw [addCounts, List.foldl_cons, hv, addCounts]
    rw [hcons, Store.get]
    by_cases hke : k = e
    · subst hke
      rw [addCounts_get_other _ hk, Store.get_set_same, if_pos rfl]
    · rw [if_neg hke]
      refine ih hnd (fun j => ?_) (by rwa [Store.get_set_other _ _ hke])
      by_cases hkj : k = j
      · exact .inr (hkj ▸ hk)
      · rw [Store.get_set_other _ _ hkj]
        exact (hm j).imp_right fun h hj => h (List.mem_cons_of_mem _ hj)

theorem State.unsnap_round {s : State} {wg k : Nat} {counts : Store 32} {g : Wg} {sl : RoundSlot}
    (hg : s.wgs.get? wg = some g) (hsl : g.rounds.get? k = some sl) :
    (s.unsnap (some (.round wg k sl.rid counts))).wgs.get? wg =
      some { g with rounds := g.rounds.put k { sl with counts := addCounts sl.counts counts } } := by
  have hget : g.rounds.getD k {} = sl := by simp [Tab.getD, hsl]
  simp only [State.unsnap, State.updWg, Tab.get?_upd_same, hg, Option.map_some, hget]
  rw [if_neg (not_not.mpr rfl)]
  rfl

/-! ### The obligation -/

/-- Settles O50: the home's answers by the branches of `State.serveAt`, the issuer's by what `State.drainPend` does with
the access at the head of the buffer. -/
theorem remoteAccesses : Obligations.RemoteAccesses := by
  unfold Obligations.RemoteAccesses
  refine ⟨?_, ?_, ?_, ?_, ?_, ?_⟩
  · rintro s req _ wts rts hpkg hsrc rfl hlts
    refine ⟨fun dest hf => ⟨?_, ?_, ?_⟩, ?_, ?_⟩
    · exact fun hreq => remoteRequestServe_again hpkg hsrc hf (.inl hreq)
    · exact fun hd hdest => remoteRequestServe_again hpkg hsrc hf (.inr ⟨hd, hdest⟩)
    · exact remoteRequestServe_onward hpkg hsrc hf
    · intro hf ha
      rw [remoteRequestServe_here hpkg hsrc hf, State.serveAt_hole req ha]
    · intro hf ha hlost hpow hmove
      rw [remoteRequestServe_here hpkg hsrc hf]
      refine ⟨fun hpoi => ⟨fun hk => ?_, fun hk => ?_⟩, ?_⟩
      · exact State.serveAt_poisoned ha hlost hpow hmove hk hpoi
      · exact State.serveAt_poisoned_drop ha hlost hpow hmove hk hpoi
      · rintro new back old d hpoi rfl rfl hdo
        have hdo := State.remoteDo_eq hdo
        obtain ⟨hlanes, hout⟩ := s.homeStamp_frame req (inPkg req.pa)
        refine ⟨s.homeServed req (inPkg req.pa), (s.homeStamp req (inPkg req.pa)).1, ?_, ?_, hlanes, hout, fun hk => ?_, fun hk => ⟨?_, ?_⟩⟩
        · rw [State.serveAt_done ha hlost hpow hmove hpoi, hdo]
        · simp [State.homeServed, hdo]
        · rw [State.homeStamp_load _ hk, hlts]
        · rw [State.homeStamp_write _ hk, hlts]
        · exact State.homeServed_lts _ hk
  · intro s t rep a ps pid p ht haway hdue hpend hck hfail hpid hp hg hbad hrem hnd
    refine ⟨?_, ?_⟩
    · intro n bs l hwhole hal hlanes hl
      obtain ⟨m, l', rfl⟩ := List.exists_cons_of_ne_nil hl
      have hout : a.out = [n] := by simp [Access.out, hwhole, hal]
      have hn : n.place.isRemote = true := (hrem n (by simp [hal])).1
      obtain ⟨s', t', hs', ht', hp', hr'⟩ := s.laneDone_first rep.tid t ps rep.lanes rep.ts hfail hwhole hal
        (hrem m (by simp [hal])).1
      refine ⟨s', t', ?_, ht', hp', hr'⟩
      rw [remoteReply_head ht haway hdue hpend hck hbad (by simp [hout]) (by simpa [hout] using hn)
        (by simp [hlanes, hout]), hs']
    · intro hlanes hne hone hps
      have hout : a.out = a.lanes := by
        obtain h | h := hone
        · simp [Access.out, h]
        · simp [Access.out, List.take_of_length_le h.le]
      have hanswer (v : Nat × List Byte) (hv : v ∈ rep.lanes) : v.1 < 64 := by
        obtain ⟨l, hl, he⟩ := List.mem_map.mp (hlanes ▸ List.mem_map_of_mem hv : v.1 ∈ a.lanes.map (·.lane))
        exact he ▸ (hrem l hl).2
      refine ⟨Thread.gives { t with pts := max t.pts rep.ts } a rep.lanes, p.gives a rep.lanes, ?_, ?_, ?_, ?_, ?_⟩
      · rw [remoteReply_head ht haway hdue hpend hck hbad (hout ▸ hne) (fun l hl => (hrem l (hout ▸ hl)).1)
          (hout ▸ hlanes), s.laneDone_all rep.tid t rep.lanes rep.ts hfail hout hps]
      · exact Thread.gives_regs _ _ _
      · exact Thread.gives_prods rep.lanes hpid hp
      · intro i hi
        have hany : (rep.lanes.map (·.1)).any (· == i) = (a.lanes.map (·.lane)).any (· == i) := by rw [hlanes]
        rw [List.any_map, List.any_map] at hany
        exact (Producer.gives_waiting a rep.lanes hi).trans (congrArg (fun b => p.waiting.getLsbD i && !b) hany)
      · intro i bs hv j hj
        exact Producer.gives_vals_get (v := (i, bs)) hg hanswer (hlanes ▸ hnd) hv hj
  · intro s t tid sub a l rest ht haway hpend hl hfail hk hrem hop hsub
    refine ⟨t.rolledBack a, rfl, rfl, rfl, ?_⟩
    have hfails : s.failsWith l.place.remotePa t.sent sub = true := by
      obtain ⟨rfl, h⟩ | rfl | ⟨rfl, h⟩ := hsub
      · simpa [State.failsWith] using h
      · rfl
      · simpa [State.failsWith] using h
    rw [remoteFail_head ht haway hpend hl hrem hfails, State.laneDone_lostLane s tid t rest sub hl hfail,
      State.rollBack_lostLane s tid _ l sub hk hop]
    rfl
  · intro s t rep a tid i bs haway hdue hown ht hask hbad hlanes
    exact ⟨_, _, remoteReply_ask haway hdue hown ht hask hbad hlanes, Tab.get?_put_same .., rfl, rfl, rfl, rfl, rfl,
      Tab.get?_del_same ..⟩
  · intro s sent
    exact decide_eq_true_iff
  · rintro s wg k _ e counts g sl hg hsl rfl hc hnd
    exact ⟨_, _, State.unsnap_round hg hsl, Tab.get?_put_same .., rfl,
      addCounts_get hnd (by simp [hc, Store.get]) (by simp [hc, Store.get])⟩

end Sys2Proof.Machine
end

section
/-!
PROOFS. Copies end, suspend and resume (O41).
-/

namespace Sys2Proof.Machine

/-! ### What an engine's writes leave unchanged -/

theorem State.writePlace_cores (s : State) (t : Thread) (p : Place) (bs : List Byte) :
    (s.writePlace t p bs).1.cores = s.cores := by
  cases p with
  | phys pa =>
    simp only [State.writePlace, State.noteCode]
    split <;> rfl
  | _ => rfl

theorem State.putElem_cores (s : State) (t : Thread) (o : Owner) (e : Elem) : (s.putElem t o e).cores = s.cores := by
  unfold State.putElem
  split
  next pa hop _ =>
    obtain ⟨_, _, _, h⟩ := s.sendAway_eq
      { owner := o, va := e.va, chunk := e.chunk
        req := { src := s.pkg, id := 0, kind := if e.add.isSome then 5 else 1, op := e.add.getD 0, pa := pa
                 size := e.data.length, data := e.data, forwarded := hop, far := true } }
    rw [h]
  next p _ =>
    dsimp only
    obtain ⟨_, _, _, h⟩ := State.stampStore_eq (s.writePlace t e.place _).1 { t with pts := 0 } e.place
    rw [h]
    exact s.writePlace_cores _ _ _

theorem State.putElems_cores (s : State) (t : Thread) (o : Owner) (es : List Elem) :
    (s.putElems t o es).cores = s.cores := by
  induction es generalizing s with
  | nil => rfl
  | cons e es ih => exact (ih _).trans (s.putElem_cores t o e)

/-! ### An operation at its ticket -/

theorem State.opAt_kind {s : State} {key k : Nat} {kind : OpKind → Bool} {op : EngOp} {t : Thread}
    (h : s.opAt key k kind = some (op, t)) : kind op.kind = true := by
  unfold State.opAt at h
  split at h
  · cases h
  next op' hop =>
    split at h
    next hc =>
      obtain ⟨u, -, hu⟩ := Option.map_eq_some_iff.mp h
      obtain ⟨rfl, -⟩ := Prod.mk.inj hu
      exact (Bool.and_eq_true _ _ ▸ (Bool.and_eq_true _ _ ▸ hc).1).1
    · cases h

theorem OpKind.not_byArrival_of_isCopy {k : OpKind} (h : k.isCopy = true) : k.byArrival = false := by
  revert h
  cases k <;> decide

theorem bind_eq_ok {ε α β : Type} {x : Except ε α} {k : α → Except ε β} {b : β} (h : x >>= k = .ok b) :
    ∃ a, x = .ok a ∧ k a = .ok b := by
  cases x with
  | error e => cases h
  | ok a => exact ⟨a, rfl, h⟩

/-! ### A run through the chunks (R243) -/

theorem State.doChunk_frame {s : State} {t : Thread} {op op1 : EngOp} {k : Nat} (h : s.doChunk t op k = .ok op1) :
    op1.kind = op.kind := by
  obtain ⟨_, -, h⟩ := bind_eq_ok h
  obtain ⟨r, -, h⟩ := bind_eq_ok h
  cases h
  rfl

theorem State.runChunks_kind {s : State} {t : Thread} {op op1 : EngOp} {r : Option Flt} {k n : Nat}
    (h : s.runChunks t op k n = (op1, r)) : op1.kind = op.kind := by
  induction n generalizing op k with
  | zero => exact congrArg (·.1.kind) h.symm
  | succ n ih =>
    unfold State.runChunks at h
    split at h
    · exact ih h
    · split at h
      next op' hop => exact (ih h).trans (State.doChunk_frame hop)
      · exact congrArg (·.1.kind) h.symm

/-! ### The end of an operation (R243, R369, R445) -/

section
variable (s : State) (key k : Nat) (op : EngOp) (err : Bool)

theorem State.opAddition_frame : (s.opAddition op err).cores = s.cores ∧ (s.opAddition op err).threads = s.threads ∧
    (s.opAddition op err).launches = s.launches := by
  unfold State.opAddition
  split
  · exact ⟨rfl, rfl, rfl⟩
  · split <;> exact ⟨rfl, rfl, rfl⟩

/-- The ticket of an operation that has ended is free. -/
theorem State.finishOp_free : ((s.finishOp key k op err).cores.getD key {}).ops.get? k = none := by
  unfold State.finishOp
  rw [(State.opAddition_frame _ op err).1]
  split <;> exact (congrArg (fun c : Core => c.ops.get? k) (Tab.getD_put_same ..)).trans (Tab.get?_del_same ..)

theorem State.finishOp_threads : (s.finishOp key k op err).threads = s.threads := (s.onlyOps_finishOp key k op err).threads

theorem State.finishOp_wgs (ha : op.kind.byArrival = false) : (s.finishOp key k op err).wgs =
    if op.nb = 63 then s.wgs else (s.nbAdd op.wg op.nb { b := op.written, e := err }).wgs := by
  simp only [State.finishOp, State.opAddition, ha, Bool.false_eq_true, if_false]
  split
  · rfl
  · simp only [State.nbAdd, State.updWg, State.addBytes, State.dropAways, State.unitUnwait, State.updCore]

theorem State.finishOp_launches (ha : op.kind.byArrival = false) :
    (s.finishOp key k op err).launches = (s.addBytes op.wg op.written).launches := by
  unfold State.finishOp
  rw [(State.opAddition_frame _ op err).2.2, if_neg (by simp [ha])]
  rfl

end

/-! ### COPY_COMPLETE and COPY_SUSPEND (R243, R404) -/

theorem copyComplete_eq {s : State} {key k : Nat} {t : Thread} {op op1 : EngOp}
    (hop : s.opAt key k OpKind.isCopy = some (op, t)) (hrun : s.runChunks t op 0 op.chunks = (op1, none))
    (hf : s.canFlush t (.engine key k) op1.out = true) : exec (.copyComplete key k) s =
      .next ((s.putElems t (.engine key k) op1.out).finishOp key k { op1 with out := [] } false) := by
  change execCopyComplete key k s = _
  simp [execCopyComplete, hop, hrun, State.endRun, when, hf]

/-- Elements that are all in this package are all written when the operation is suspended. -/
theorem EngOp.left_of_canFlush {s : State} {t : Thread} {o : Owner} {op : EngOp} (hf : s.canFlush t o op.out = true) :
    op.left = [] := by
  simp only [State.canFlush, Bool.and_eq_true, List.all_eq_true, Bool.not_eq_true'] at hf
  simp only [EngOp.left, List.filter_eq_nil_iff, Bool.and_eq_true, List.any_eq_true, not_and, not_exists]
  intro e _ _ x hx
  simp [(hf.1 x hx).1]

/-- The state in which an operation is suspended and its trap has fallen due to a group. -/
def State.suspendedFor (s : State) (key k : Nat) (op : EngOp) (x : TrapInfo) (tid : Nat) (u : Thread) : State :=
  (s.updCore key fun c => { c with
    ops := c.ops.put k { op with susp := some x, fail := none, walkFaults := [] } }).putThread tid
      { u with due := u.due ++ [x] }

theorem copySuspend_eq {s : State} {key k cause va pte tid : Nat} {t u : Thread} {op op1 : EngOp}
    (hop : s.opAt key k OpKind.isCopy = some (op, t))
    (hrun : s.runChunks t op 0 op.chunks = (op1, some (.fault cause va pte)))
    (hf : s.canFlush t (.engine key k) op1.out = true)
    (hu : (s.putElems t (.engine key k) op1.out).engineTaker op1.wg op1.tid = some (tid, u)) :
    exec (.copySuspend key k) s = .next ((s.putElems t (.engine key k) op1.out).suspendedFor key k
      { op1 with out := [] } (engineTrap k cause va pte) tid u) := by
  have hleft : op1.left = [] := EngOp.left_of_canFlush hf
  change execCopySuspend key k s = _
  simp [execCopySuspend, hop, hrun, State.suspendRun, when, hf, hleft, State.suspendOp, hu, State.suspendedFor]

theorem State.suspendedFor_op (s : State) (key k : Nat) (op : EngOp) (x : TrapInfo) (tid : Nat) (u : Thread) :
    ((s.suspendedFor key k op x tid u).cores.getD key {}).ops.get? k =
      some { op with susp := some x, fail := none, walkFaults := [] } :=
  (congrArg (fun c : Core => c.ops.get? k) (Tab.getD_put_same ..)).trans (Tab.get?_put_same ..)

/-! ### A fill whose first byte cannot be stored (R243) -/

theorem unitRuns_head (va : Nat) {n : Nat} (hn : 0 < n) : ∃ m rs, unitRuns va n = (va, m) :: rs := by
  obtain ⟨c, hc⟩ : ∃ c, (va + n + 15) / 16 - va / 16 = c + 1 := ⟨(va + n + 15) / 16 - va / 16 - 1, by omega⟩
  have hva : max va (16 * (va / 16 + 0)) = va := by omega
  rw [unitRuns, hc, List.range_succ_eq_map, List.map_cons, hva]
  exact ⟨_, _, rfl⟩

theorem State.runChunks_fault {s : State} {t : Thread} {op : EngOp} {f : Flt} {k n : Nat} (hk : op.did.contains k = false)
    (h : s.doChunk t op k = .error f) : s.runChunks t op k (n + 1) = (op, some f) := by
  rw [State.runChunks, hk, h]
  rfl

theorem patternBytes_length (pat width lo n : Nat) : (patternBytes pat width lo n).length = n := by
  simp [patternBytes]

theorem cpfill_first_fault {s : State} {t : Thread} {op : EngOp} {d pat len : Nat} {f : Flt} (hk : op.kind = .cpfill)
    (hargs : op.args = [d, pat, len]) (hfail : op.fail = none) (hd : d < 2 ^ 64) (hlen : 0 < len)
    (hp : s.engPlace (t.reader op) .store d = .error f) : s.doChunk t op 0 = .error f := by
  obtain ⟨m, rs, hm⟩ := unitRuns_head d (n := (spanChunk d len 0).2 - (spanChunk d len 0).1)
    (by simp only [spanChunk]; omega)
  have hspan : ¬(spanChunk d len 0).2 ≤ (spanChunk d len 0).1 := by simp only [spanChunk]; omega
  have hstart : (d + (spanChunk d len 0).1) % 2 ^ 64 = d := by simp only [spanChunk]; omega
  have hput (bs : List Byte) (hbs : bs.length = (spanChunk d len 0).2 - (spanChunk d len 0).1) :
      s.engPut (t.reader op) d bs = .error f := by
    simp [State.engPut, hbs, hm, State.engElems, hp, bind, Except.bind]
  have hchunk : s.cpfillChunk (t.reader op) op 0 = .error f := by
    simp only [State.cpfillChunk, State.runChunk, hargs, List.getD_cons_zero, List.getD_cons_succ, if_neg hspan, hstart]
    simp only [bind, Except.bind, hput _ (patternBytes_length ..)]
  simp [State.doChunk, EngOp.goesOn, EngOp.stopped, hfail, State.copyChunk, hk, hchunk, Except.map, bind, Except.bind]

/-! ### ERESUME (R244) -/

section
variable {s : State} {t : Thread} {f : Eng} {k : Nat} (hat : s.At t) (hb : t.busy = false)
  (hread : t.canRead f.a 1 = .ok ⟨⟩) (hk : k = t.uni f.a) (hlt : k < 16)
include hat hb hread hk hlt

theorem eresume_other (hs : s.suspended t k = none) :
    exec (.eresume f) s = .next (s.after t (t.setCC { t := true }).advance) ∧
      exec (.eresumeAbort f) s = .next (s.after t (t.setCC { t := true }).advance) := by
  subst hk
  refine ⟨run_done hat ?_ rfl rfl, run_done hat ?_ rfl rfl⟩
  all_goals simp [quiet_ok hb, eticket, hread, hs, Nat.not_le.mpr hlt, bind, Except.bind]

theorem eresume_suspended {op : EngOp} (hs : s.suspended t k = some op) :
    exec (.eresume f) s = .next (s.finish (s.updCore (s.coreOf t) fun c =>
      { c with ops := c.ops.put k { op with susp := none } }) (t.setCC {})) := by
  subst hk
  refine run_finish hat ?_
  simp [quiet_ok hb, eticket, hread, hs, Nat.not_le.mpr hlt, bind, Except.bind]

theorem eresumeAbort_suspended {op : EngOp} (hs : s.suspended t k = some op) (hd : op.kind ≠ .desc) :
    exec (.eresumeAbort f) s = .next (s.finish (s.finishOp (s.coreOf t) k op true) (t.setCC {})) := by
  subst hk
  refine run_finish hat ?_
  simp [quiet_ok hb, eticket, hread, hs, Nat.not_le.mpr hlt, hd, bind, Except.bind]

end

end Sys2Proof.Machine
end

section
/-!
PROOFS. What the copy engine writes in the scratchpad (O41).
-/

namespace Sys2Proof.Machine

/-! ### Places of a scratchpad whose pages are pinned (R207, R229) -/

/-- The workgroup of a thread with its scratchpad: all its pages are pinned and no line is poisoned. -/
structure State.ScrOpen (s : State) (t : Thread) (g : Wg) : Prop where
  wg : s.wgs.get? t.wg = some g
  poison : g.scrPoison = []
  pinned : ∀ p, p * 16384 < scrLimit (s.hdrOf t) g → g.pinned.contains p = true

theorem aperture_baseScr {x : Nat} (hx : x < 2 ^ 36) : aperture (baseScr + x) = (.scratch, x) := by
  have hb : baseScr = 0xFFFFFFE000000000 := rfl
  have hl : baseLane = 0xFFFFFFF000000000 := rfl
  unfold aperture
  rw [if_neg (by omega), if_neg (by omega), if_pos (by omega), Nat.add_sub_cancel_left]

section
variable {s : State} {t : Thread} {g : Wg} (h : s.ScrOpen t g)
include h

theorem State.ScrOpen.wgOf (op : EngOp) : s.wgOf (t.reader op) = g := by
  simp [State.wgOf, Thread.reader, Tab.getD, h.wg]

theorem State.ScrOpen.unpinnedAt {u : Thread} (hu : s.wgOf u = g) {x : Nat} (hx : x < scrLimit (s.hdrOf t) g) :
    s.unpinnedAt u (.scratch x) = false := by
  rw [State.unpinnedAt, hu, h.pinned _ (by omega)]
  rfl

theorem State.ScrOpen.engPlace (op : EngOp) (acc : Acc) {x : Nat} (hx : x < scrLimit (s.hdrOf t) g) (h36 : x < 2 ^ 36) :
    s.engPlace (t.reader op) acc (baseScr + x) = .ok (.scratch x) := by
  have hg := h.wgOf op
  have hh : s.hdrOf (t.reader op) = s.hdrOf t := rfl
  simp [State.engPlace, aperture_baseScr h36, State.localRes, State.localPlace, hg, hh, Nat.succ_le_iff.mpr hx,
    State.localPoison, h.poison, h.unpinnedAt hg hx]

/-- An access of the scratchpad's aperture reaches the scratchpad or nothing. -/
theorem State.ScrOpen.engPlace_eq {op : EngOp} {acc : Acc} {x : Nat} {p : Place} (h36 : x < 2 ^ 36)
    (hp : s.engPlace (t.reader op) acc (baseScr + x) = .ok p) : p = .scratch x := by
  by_cases hx : x < scrLimit (s.hdrOf t) g
  · exact (Except.ok.inj ((h.engPlace op acc hx h36).symm.trans hp)).symm
  · have hg := h.wgOf op
    have hh : s.hdrOf (t.reader op) = s.hdrOf t := rfl
    have hx' : ¬x + 1 ≤ scrLimit (s.hdrOf t) g := by omega
    simp [State.engPlace, aperture_baseScr h36, State.localRes, State.localPlace, hg, hh, hx', holeRes] at hp

end

/-! ### Bytes that are read (R243, R396) -/

/-- The units that an operation keeps of its workgroup's scratchpad are what stands there. -/
def Wg.Kept (g : Wg) (got : List (Nat × List Byte)) : Prop :=
  ∀ e ∈ got, baseScr ≤ 16 * e.1 ∧ ∀ i, i < 16 → e.2[i]? = some (g.scr.get (16 * e.1 + i - baseScr))

theorem Wg.Kept.gotByte {g : Wg} {t : Thread} {op : EngOp} (hk : g.Kept op.got) {va : Nat} {b : Byte}
    (hb : (t.reader op).gotByte va = some b) : b = g.scr.get (va - baseScr) := by
  simp only [Thread.gotByte, Thread.reader, Option.bind_eq_some_iff] at hb
  obtain ⟨a, ha, hb⟩ := hb
  obtain ⟨e, he, rfl⟩ := List.mem_map.mp (List.mem_of_find?_eq_some ha)
  have hpa : e.1 = va / 16 := by simpa using List.find?_some ha
  have hget := (hk e he).2 (va % 16) (by omega)
  rw [show 16 * e.1 + va % 16 = va by omega] at hget
  exact Option.some.inj (hb.symm.trans hget)

section
variable {s : State} {t : Thread} {g : Wg} (h : s.ScrOpen t g) {op : EngOp} (hk : g.Kept op.got)
include h hk

theorem State.ScrOpen.engByte_eq {x : Nat} {b : Byte} (h36 : x < 2 ^ 36)
    (hb : s.engByte (t.reader op) (baseScr + x) = .ok b) : b = g.scr.get x := by
  unfold State.engByte at hb
  split at hb
  next c hc =>
    cases hb
    simpa using hk.gotByte hc
  · split at hb
    · cases hb
    · cases hb
    next p _ _ hp =>
      rw [h.engPlace_eq h36 hp, State.readPlace, h.wgOf op] at hb
      exact (Except.ok.inj hb).symm
    · cases hb

theorem State.ScrOpen.engByte {x : Nat} (hx : x < scrLimit (s.hdrOf t) g) (h36 : x < 2 ^ 36) :
    s.engByte (t.reader op) (baseScr + x) = .ok (g.scr.get x) := by
  have hp := h.engPlace op .load hx h36
  cases hb : s.engByte (t.reader op) (baseScr + x) with
  | ok b => rw [h.engByte_eq hk h36 hb]
  | error e =>
    unfold State.engByte at hb
    split at hb
    · cases hb
    · simp [hp] at hb

theorem State.ScrOpen.engBytes {x n : Nat} (hx : x + n ≤ scrLimit (s.hdrOf t) g) (h36 : x + n ≤ 2 ^ 36) :
    s.engBytes (t.reader op) (baseScr + x) n = .ok (g.scr.bytes x n) := by
  induction n generalizing x with
  | zero => rfl
  | succ n ih =>
    have hnext : (baseScr + x + 1) % 2 ^ 64 = baseScr + (x + 1) := by
      have hb : baseScr = 0xFFFFFFE000000000 := rfl
      omega
    rw [State.engBytes, h.engByte hk (by omega) (by omega), hnext]
    simp only [bind, Except.bind, ih (x := x + 1) (by omega) (by omega)]
    rfl

/-- Whatever bytes of the aperture are read are the scratchpad's. -/
theorem State.ScrOpen.engBytes_eq {x n : Nat} {bs : List Byte} (h36 : x + n ≤ 2 ^ 36)
    (hbs : s.engBytes (t.reader op) (baseScr + x) n = .ok bs) : bs = g.scr.bytes x n := by
  induction n generalizing x bs with
  | zero => exact (Except.ok.inj hbs).symm
  | succ n ih =>
    have hnext : (baseScr + x + 1) % 2 ^ 64 = baseScr + (x + 1) := by
      have hb : baseScr = 0xFFFFFFE000000000 := rfl
      omega
    rw [State.engBytes, hnext] at hbs
    obtain ⟨b, hb, hbs⟩ := bind_eq_ok hbs
    obtain ⟨bs', hbs', hbs⟩ := bind_eq_ok hbs
    rw [← Except.ok.inj hbs, h.engByte_eq hk (by omega) hb, ih (by omega) hbs']
    rfl

end


theorem Store.bytes_getElem? (m : Memory) (a : Nat) {n i : Nat} (hi : i < n) :
    (m.bytes a n)[i]? = some (m.get (a + i)) := by
  induction n generalizing a i with
  | zero => cases hi
  | succ n ih =>
    cases i with
    | zero => rfl
    | succ i => simpa [Store.bytes, Nat.add_assoc, Nat.add_comm 1 i] using ih (a + 1) (i := i) (by omega)

/-! ### The units of a run -/

theorem mem_unitRuns {va n : Nat} {u : Nat × Nat} (hu : u ∈ unitRuns va n) (hn : 0 < n) :
    va ≤ u.1 ∧ 0 < u.2 ∧ u.1 + u.2 ≤ va + n := by
  obtain ⟨k, hk, rfl⟩ := List.mem_map.mp hu
  rw [List.mem_range] at hk
  dsimp only
  omega

theorem exists_mem_unitRuns {va n i : Nat} (hi : i < n) : ∃ u ∈ unitRuns va n, u.1 ≤ va + i ∧ va + i < u.1 + u.2 := by
  refine ⟨_, List.mem_map_of_mem (a := (va + i) / 16 - va / 16) (List.mem_range.mpr (by omega)), ?_⟩
  dsimp only
  omega

/-- What the operation keeps of runs in the scratchpad's aperture is what stands there. -/
theorem State.ScrOpen.keepUnits {s : State} {t : Thread} {g : Wg} (h : s.ScrOpen t g) {op : EngOp} (hk : g.Kept op.got)
    {runs : List (Nat × Nat)} (hruns : ∀ r ∈ runs, baseScr ≤ r.1 ∧ 0 < r.2 ∧ r.1 + r.2 ≤ baseScr + 2 ^ 36) :
    g.Kept (s.keepUnits (t.reader op) op.got runs) := by
  have hstep (got : List (Nat × List Byte)) (hgot : g.Kept got) (a : Nat) (ha : baseScr ≤ 16 * a)
      (ha' : 16 * a + 16 ≤ baseScr + 2 ^ 36) : g.Kept (if got.any fun e => e.1 == a then got
        else match s.engBytes (t.reader op) (16 * a) 16 with
          | .ok bs => got ++ [(a, bs)]
          | .error _ => got) := by
    split
    · exact hgot
    · split
      next bs hbs =>
        have hx : baseScr + (16 * a - baseScr) = 16 * a := by omega
        rw [← hx] at hbs
        have hbs := h.engBytes_eq hk (by omega) hbs
        intro e he
        obtain he | rfl := List.mem_append.mp he |>.imp_right List.mem_singleton.mp
        · exact hgot e he
        · refine ⟨ha, fun i hi => ?_⟩
          rw [hbs, Store.bytes_getElem? _ _ hi]
          rw [Nat.sub_add_comm ha]
      · exact hgot
  unfold State.keepUnits
  refine List.foldlRecOn _ _ hk fun got hgot a ha => ?_
  obtain ⟨r, hr, ha⟩ := List.mem_flatMap.mp ha
  obtain ⟨u, hu, rfl⟩ := List.mem_map.mp ha
  obtain ⟨hlow, hpos, hhigh⟩ := hruns r hr
  obtain ⟨hul, hup, huh⟩ := mem_unitRuns hu hpos
  have hb : baseScr = 0xFFFFFFE000000000 := rfl
  exact hstep got hgot (u.1 / 16) (by omega) (by omega)

/-! ### The elements of a chunk (R243) -/

/-- The element carries, at byte `x` of the scratchpad, bytes that `f` gives, inside `[o, o + n)`. -/
structure Elem.Carries (f : Nat → Byte) (o n : Nat) (e : Elem) (x : Nat) : Prop where
  place : e.place = .scratch x
  add : e.add = none
  pos : 0 < e.data.length
  low : o ≤ x
  high : x + e.data.length ≤ o + n
  data : ∀ i, i < e.data.length → e.data[i]? = some (f (x + i))

/-- The elements that write bytes from byte `x` of the scratchpad on. -/
def scrElems (x : Nat) (bs : List Byte) : List Elem :=
  (unitRuns (baseScr + x) bs.length).map fun u =>
    { va := u.1, place := .scratch (u.1 - baseScr), data := (bs.drop (u.1 - (baseScr + x))).take u.2 }

/-- The element is written over byte `a` of the scratchpad. -/
def Elem.Covers (e : Elem) (a : Nat) : Prop := ∃ x, e.place = .scratch x ∧ x ≤ a ∧ a < x + e.data.length

theorem scrElems_carry {f : Nat → Byte} {x : Nat} {bs : List Byte} (hpos : 0 < bs.length)
    (hbs : ∀ i, i < bs.length → bs[i]? = some (f (x + i))) {e : Elem} (he : e ∈ scrElems x bs) :
    ∃ y, e.Carries f x bs.length y := by
  obtain ⟨u, hu, rfl⟩ := List.mem_map.mp he
  obtain ⟨hul, hup, huh⟩ := mem_unitRuns hu hpos
  have hlen : ((bs.drop (u.1 - (baseScr + x))).take u.2).length = u.2 := by
    rw [List.length_take, List.length_drop]
    omega
  refine ⟨u.1 - baseScr, rfl, rfl, by rwa [hlen], by omega, by rw [hlen]; omega, fun i hi => ?_⟩
  rw [hlen] at hi
  rw [List.getElem?_take_of_lt hi, List.getElem?_drop, hbs _ (by omega)]
  rw [show x + (u.1 - (baseScr + x) + i) = u.1 - baseScr + i by omega]

theorem Elem.Carries.within {f : Nat → Byte} {o n o' n' : Nat} {e : Elem} {x : Nat} (he : e.Carries f o n x) (ho : o' ≤ o)
    (hn : o + n ≤ o' + n') (k : Nat) : Elem.Carries f o' n' { e with chunk := k } x :=
  ⟨he.place, he.add, he.pos, ho.trans he.low, he.high.trans hn, he.data⟩

theorem scrElems_cover {x i : Nat} {bs : List Byte} (hi : i < bs.length) :
    ∃ e ∈ scrElems x bs, e.Covers (x + i) := by
  obtain ⟨u, hu, hlow, hhigh⟩ := exists_mem_unitRuns (va := baseScr + x) hi
  obtain ⟨hul, -, huh⟩ := mem_unitRuns hu (by omega)
  refine ⟨_, List.mem_map_of_mem hu, u.1 - baseScr, rfl, by omega, ?_⟩
  simp only [List.length_take, List.length_drop]
  omega

theorem joinAway_here {es : List Elem} (h : ∀ e ∈ es, e.place.isRemote = false) : joinAway es = es := by
  induction es with
  | nil => rfl
  | cons e es ih =>
    obtain ⟨he, hes⟩ := List.forall_mem_cons.mp h
    rw [joinAway, ih hes]
    split
    next hp => simp [hp, Place.isRemote] at he
    · rfl

section
variable {s : State} {t : Thread} {g : Wg} (h : s.ScrOpen t g)
include h

theorem State.ScrOpen.engElems (op : EngOp) (bs : List Byte) (va : Nat) {rs : List (Nat × Nat)}
    (hrs : ∀ r ∈ rs, baseScr ≤ r.1 ∧ r.1 < baseScr + scrLimit (s.hdrOf t) g ∧ r.1 < baseScr + 2 ^ 36) :
    s.engElems (t.reader op) bs va rs = .ok (rs.map fun u =>
      { va := u.1, place := .scratch (u.1 - baseScr), data := (bs.drop (u.1 - va)).take u.2 }) := by
  induction rs with
  | nil => rfl
  | cons r rs ih =>
    obtain ⟨⟨hlow, hlim, h36⟩, hrs⟩ := List.forall_mem_cons.mp hrs
    have hp := h.engPlace op .store (x := r.1 - baseScr) (by omega) (by omega)
    rw [Nat.add_sub_cancel' hlow] at hp
    simp [State.engElems, hp, ih hrs, Place.isDead, bind, Except.bind]

theorem State.ScrOpen.engPut (op : EngOp) {x : Nat} {bs : List Byte} (hpos : 0 < bs.length)
    (hlim : x + bs.length ≤ scrLimit (s.hdrOf t) g) (h36 : x + bs.length ≤ 2 ^ 36) :
    s.engPut (t.reader op) (baseScr + x) bs = .ok (scrElems x bs) := by
  have hes := h.engElems op bs (baseScr + x) (rs := unitRuns (baseScr + x) bs.length) fun r hr => by
    obtain ⟨h1, h2, h3⟩ := mem_unitRuns hr hpos
    omega
  have hjoin : joinAway (scrElems x bs) = scrElems x bs := joinAway_here fun e he => by
    obtain ⟨u, -, rfl⟩ := List.mem_map.mp he
    rfl
  simp only [State.engPut, hes, bind, Except.bind]
  exact congrArg _ hjoin

end

/-! ### A chunk of a run (R237, R243) -/

/-- The source and the destination, or the pattern, of a copy: what a chunk leaves as it is. -/
def EngOp.SameCopy (op op' : EngOp) : Prop := op'.kind = op.kind ∧ op'.args = op.args ∧ op'.xt = op.xt

theorem spanChunk_lt {d len k : Nat} (hk : k < spanChunks d len) (hlen : 0 < len) :
    (spanChunk d len k).1 < (spanChunk d len k).2 ∧ (spanChunk d len k).2 ≤ len := by
  simp only [spanChunks, spanChunk] at *
  omega

/-- Chunk `k` writes the bytes that `f` gives to its part of `[o, o + len)`. -/
def State.ChunkWrites (s : State) (t : Thread) (op : EngOp) (f : Nat → Byte) (o len k : Nat) : Prop :=
  ∃ bs : List Byte, bs.length = (spanChunk (baseScr + o) len k).2 - (spanChunk (baseScr + o) len k).1 ∧
    (∀ i, i < bs.length → bs[i]? = some (f (o + (spanChunk (baseScr + o) len k).1 + i))) ∧
    s.copyChunk (t.reader op) op k = .ok (scrElems (o + (spanChunk (baseScr + o) len k).1) bs, bs.length, op.data)

theorem State.ScrOpen.runChunk {s : State} {t : Thread} {g : Wg} (h : s.ScrOpen t g) (op : EngOp) {o len k : Nat}
    {bs : List Byte} {get : Nat → Nat → Except Flt (List Byte)} (hk : k < spanChunks (baseScr + o) len) (hlen : 0 < len)
    (hlim : o + len ≤ scrLimit (s.hdrOf t) g) (h36 : o + len ≤ 2 ^ 36)
    (hn : bs.length = (spanChunk (baseScr + o) len k).2 - (spanChunk (baseScr + o) len k).1)
    (hget : get (spanChunk (baseScr + o) len k).1 bs.length = .ok bs) :
    s.runChunk (t.reader op) (baseScr + o) (spanChunk (baseScr + o) len k) get =
      .ok (scrElems (o + (spanChunk (baseScr + o) len k).1) bs, bs.length) := by
  obtain ⟨hlt, hle⟩ := spanChunk_lt hk hlen
  have hb : baseScr = 0xFFFFFFE000000000 := rfl
  have hstart : (baseScr + o + (spanChunk (baseScr + o) len k).1) % 2 ^ 64 =
      baseScr + (o + (spanChunk (baseScr + o) len k).1) := by omega
  rw [State.runChunk, if_neg (by omega), ← hn, hget, hstart]
  simp only [bind, Except.bind, h.engPut op (x := o + (spanChunk (baseScr + o) len k).1) (bs := bs) (by omega) (by omega)
    (by omega)]

section
variable {s : State} {t : Thread} {g : Wg} (h : s.ScrOpen t g) {op : EngOp} {o src len k : Nat} (hlen : 0 < len)
  (hlim : o + len ≤ scrLimit (s.hdrOf t) g) (h36 : o + len ≤ 2 ^ 36) (hk : k < spanChunks (baseScr + o) len)
include h hlen hlim h36 hk

theorem State.ScrOpen.cpfill_writes (hkind : op.kind = .cpfill) (hargs : op.args = [baseScr + o, src, len]) :
    s.ChunkWrites t op (fun a => BitVec.ofNat 8 (src / 2 ^ (8 * ((a - o) % 2 ^ (op.xt % 4))))) o len k := by
  have hn := patternBytes_length src (2 ^ (op.xt % 4)) (spanChunk (baseScr + o) len k).1
    ((spanChunk (baseScr + o) len k).2 - (spanChunk (baseScr + o) len k).1)
  refine ⟨_, hn, fun i hi => ?_, ?_⟩
  · rw [hn] at hi
    simp [patternBytes, hi, Nat.add_assoc]
  · have hrun := h.runChunk op (get := fun lo n => .ok (patternBytes src (2 ^ (op.xt % 4)) lo n)) hk hlen hlim h36 hn
      (by rw [hn])
    simp [State.copyChunk, hkind, State.cpfillChunk, hargs, hrun, Except.map]

theorem State.ScrOpen.cpy_writes (hkind : op.kind = .cpy) (hargs : op.args = [baseScr + o, baseScr + src, len])
    (hkept : g.Kept op.got) (hsrc : src + len ≤ scrLimit (s.hdrOf t) g) (hsrc36 : src + len ≤ 2 ^ 36) :
    s.ChunkWrites t op (fun a => g.scr.get (src + (a - o))) o len k := by
  obtain ⟨hlt, hle⟩ := spanChunk_lt hk hlen
  have hb : baseScr = 0xFFFFFFE000000000 := rfl
  have hn := g.scr.bytes_length (src + (spanChunk (baseScr + o) len k).1)
    ((spanChunk (baseScr + o) len k).2 - (spanChunk (baseScr + o) len k).1)
  have hstart : (baseScr + src + (spanChunk (baseScr + o) len k).1) % 2 ^ 64 =
      baseScr + (src + (spanChunk (baseScr + o) len k).1) := by omega
  refine ⟨_, hn, fun i hi => ?_, ?_⟩
  · rw [hn] at hi
    rw [Store.bytes_getElem? _ _ hi]
    simp [Nat.add_assoc]
  · have hrun := h.runChunk op (get := fun lo n => s.engBytes (t.reader op) ((baseScr + src + lo) % 2 ^ 64) n) hk hlen hlim
      h36 hn (by rw [hn, hstart]; exact h.engBytes hkept (by omega) (by omega))
    simp only [State.copyChunk, hkind, State.cpyChunk, hargs, List.getD_cons_zero, List.getD_cons_succ, hrun, Except.map]

end

/-! ### A run through the chunks (R243) -/

/-- An operation that has done the chunks before chunk `k`: it keeps what it has read, and its elements cover those chunks
with the bytes that `f` gives. -/
structure Wg.HasCopied (g : Wg) (op : EngOp) (f : Nat → Byte) (o len k : Nat) (op' : EngOp) : Prop where
  same : op.SameCopy op'
  fail : op'.fail = none
  did : ∀ j ∈ op'.did, j < k
  kept : g.Kept op'.got
  carries : ∀ e ∈ op'.out, ∃ x, e.Carries f o len x
  cover : ∀ j, j < len → j < (spanChunk (baseScr + o) len k).1 →
    ∃ e ∈ op'.out, e.Covers (o + j)

/-- An operation whose chunk `k` is done: its elements wait to be written, and the units that it has read are kept. -/
def State.chunkDone (s : State) (t : Thread) (op : EngOp) (k : Nat) (es : List Elem) (n : Nat) : EngOp :=
  let op1 := { op with did := op.did ++ [k], wrote := op.wrote + n, out := op.out ++ es.map fun (e : Elem) => { e with chunk := k } }
  { op1 with got := s.keepUnits (t.reader op) op.got (op1.sources k) }

theorem State.doChunk_eq {s : State} {t : Thread} {op : EngOp} {k n : Nat} {es : List Elem} (hfail : op.fail = none)
    (hchunk : s.copyChunk (t.reader op) op k = .ok (es, n, op.data)) :
    s.doChunk t op k = .ok (s.chunkDone t op k es n) := by
  have hgoes : op.goesOn = .ok ⟨⟩ := by simp [EngOp.goesOn, EngOp.stopped, hfail]
  simp only [State.doChunk, hgoes, hchunk, bind, Except.bind]
  rfl

section
variable {s : State} {t : Thread} {g : Wg} (h : s.ScrOpen t g) {op : EngOp} {f : Nat → Byte} {o len : Nat} (hlen : 0 < len)
  (hwrites : ∀ op' k, op.SameCopy op' → g.Kept op'.got → k < spanChunks (baseScr + o) len →
    s.ChunkWrites t op' f o len k)
  (hsrc : ∀ op' k, op.SameCopy op' → k < spanChunks (baseScr + o) len → ∀ r ∈ op'.sources k,
    baseScr ≤ r.1 ∧ 0 < r.2 ∧ r.1 + r.2 ≤ baseScr + 2 ^ 36)
include h hlen hwrites hsrc

theorem State.ScrOpen.doChunk {op' : EngOp} {k : Nat} (hop : g.HasCopied op f o len k op')
    (hk : k < spanChunks (baseScr + o) len) :
    ∃ op1, s.doChunk t op' k = .ok op1 ∧ g.HasCopied op f o len (k + 1) op1 := by
  obtain ⟨bs, hn, hbs, hchunk⟩ := hwrites op' k hop.same hop.kept hk
  obtain ⟨hlt, hle⟩ := spanChunk_lt hk hlen
  refine ⟨_, State.doChunk_eq hop.fail hchunk, hop.same, hop.fail, fun j hj => ?_,
    h.keepUnits hop.kept (hsrc _ k hop.same hk), fun e he => ?_, fun j hj hjk => ?_⟩
  · obtain hj | hj := List.mem_append.mp hj
    · exact (hop.did j hj).trans (Nat.lt_succ_self k)
    · exact List.mem_singleton.mp hj ▸ Nat.lt_succ_self k
  · obtain he | he := List.mem_append.mp he
    · exact hop.carries e he
    · obtain ⟨e0, he0, rfl⟩ := List.mem_map.mp he
      obtain ⟨x, hx⟩ := scrElems_carry (by omega) hbs he0
      exact ⟨x, hx.within (by omega) (by omega) k⟩
  · by_cases hold : j < (spanChunk (baseScr + o) len k).1
    · obtain ⟨e, he, hcov⟩ := hop.cover j hj hold
      exact ⟨e, List.mem_append_left _ he, hcov⟩
    · obtain ⟨e, he, hcov⟩ := scrElems_cover (x := o + (spanChunk (baseScr + o) len k).1) (bs := bs)
        (i := j - (spanChunk (baseScr + o) len k).1) (by simp only [spanChunk] at *; omega)
      rw [show o + (spanChunk (baseScr + o) len k).1 + (j - (spanChunk (baseScr + o) len k).1) = o + j by omega] at hcov
      exact ⟨_, List.mem_append_right _ (List.mem_map_of_mem he), hcov⟩

theorem State.ScrOpen.runChunks {op' : EngOp} {k n : Nat} (hop : g.HasCopied op f o len k op')
    (hn : k + n = spanChunks (baseScr + o) len) :
    ∃ op1, s.runChunks t op' k n = (op1, none) ∧ g.HasCopied op f o len (spanChunks (baseScr + o) len) op1 := by
  induction n generalizing op' k with
  | zero =>
    obtain rfl : k = spanChunks (baseScr + o) len := by omega
    exact ⟨op', rfl, hop⟩
  | succ n ih =>
    obtain ⟨op1, hdo, hop1⟩ := h.doChunk hlen hwrites hsrc hop (by omega)
    obtain ⟨op2, hrun, hop2⟩ := ih hop1 (by omega)
    refine ⟨op2, ?_, hop2⟩
    have hdid : op'.did.contains k = false := by
      rw [← Bool.not_eq_true, List.contains_iff_mem]
      exact fun hmem => absurd (hop.did k hmem) (lt_irrefl k)
    rw [State.runChunks, hdid, if_neg Bool.false_ne_true, hdo]
    exact hrun

end

/-! ### The writes (R243) -/

theorem Store.get_putBytes_inside (m : Memory) (a : Nat) {bs : List Byte} {i : Nat} {b : Byte} (hb : bs[i]? = some b) :
    (m.putBytes a bs).get (a + i) = b := by
  obtain ⟨hi, -⟩ := List.getElem?_eq_some_iff.mp hb
  have hall := Store.bytes_getElem? (m.putBytes a bs) a hi
  rw [Store.bytes_putBytes, hb] at hall
  exact (Option.some.inj hall).symm

section
variable {s : State} {t : Thread} {g : Wg} {f : Nat → Byte} {o len : Nat}

/-- An element in the scratchpad is written there, and nowhere else. -/
theorem State.putElem_scr (hg : s.wgs.get? t.wg = some g) (ow : Owner) {e : Elem} {x : Nat} (he : e.Carries f o len x) :
    ∃ g', (s.putElem t ow e).wgs.get? t.wg = some g' ∧ (s.putElem t ow e).mem = s.mem ∧
      ∀ a, g'.scr.get a = if x ≤ a ∧ a < x + e.data.length then f a else g.scr.get a := by
  have hput : s.putElem t ow e = s.updWg t.wg fun g => g.putScr ((s.hdrOf t).matn != 0) x e.data := by
    simp [State.putElem, he.place, he.add, State.writePlace, State.stampStore]
  rw [hput]
  refine ⟨_, by rw [State.updWg_wgs, Tab.get?_upd_same, hg]; rfl, rfl, fun a => ?_⟩
  split
  next ha =>
    have hb := Store.get_putBytes_inside g.scr x (he.data (a - x) (by omega))
    rwa [Nat.add_sub_cancel' ha.1] at hb
  next ha => exact Store.get_putBytes_outside _ _ _ (by omega)

/-- Elements in the scratchpad, written one after another. -/
theorem State.putElems_scr (hg : s.wgs.get? t.wg = some g) (ow : Owner) {es : List Elem}
    (hes : ∀ e ∈ es, ∃ x, e.Carries f o len x) :
    ∃ g', (s.putElems t ow es).wgs.get? t.wg = some g' ∧ (s.putElems t ow es).mem = s.mem ∧
      (∀ a, (∃ e ∈ es, e.Covers a) → g'.scr.get a = f a) ∧
      ∀ a, (¬∃ e ∈ es, e.Covers a) → g'.scr.get a = g.scr.get a := by
  induction es generalizing s g with
  | nil => exact ⟨g, hg, rfl, by simp, fun _ _ => rfl⟩
  | cons e es ih =>
    obtain ⟨⟨x, hx⟩, hes⟩ := List.forall_mem_cons.mp hes
    obtain ⟨g1, hg1, hmem1, hget1⟩ := State.putElem_scr hg ow hx
    obtain ⟨g', hg', hmem, hin, hout⟩ := ih hg1 hes
    have hcov (a : Nat) : e.Covers a ↔ x ≤ a ∧ a < x + e.data.length := by
      simp [Elem.Covers, hx.place]
    refine ⟨g', hg', hmem.trans hmem1, fun a ha => ?_, fun a ha => ?_⟩
    · by_cases hrest : ∃ e ∈ es, e.Covers a
      · exact hin a hrest
      · rw [hout a hrest, hget1, if_pos]
        simpa [hrest, hcov] using ha
    · simp only [List.mem_cons, exists_eq_or_imp, not_or, hcov] at ha
      rw [hout a ha.2, hget1, if_neg ha.1]

end

/-! ### A copy that is whole in the scratchpad (R207, R243) -/

/-- What COPY_COMPLETE leaves of the workgroup's scratchpad. -/
theorem copyComplete_scr {s : State} {t : Thread} {g : Wg} {key k o len : Nat} {op : EngOp} {f : Nat → Byte}
    (hop : s.opAt key k OpKind.isCopy = some (op, t)) (hdid : op.did = []) (hgot : op.got = []) (hout : op.out = [])
    (hfail : op.fail = none) (haway : s.waitsAway (.engine key k) = false) (h : s.ScrOpen t g) (hlen : 0 < len)
    (hlim : o + len ≤ scrLimit (s.hdrOf t) g) (hchunks : op.chunks = spanChunks (baseScr + o) len)
    (hwrites : ∀ op' k, op.SameCopy op' → g.Kept op'.got → k < spanChunks (baseScr + o) len →
      s.ChunkWrites t op' f o len k)
    (hsrc : ∀ op' k, op.SameCopy op' → k < spanChunks (baseScr + o) len → ∀ r ∈ op'.sources k,
      baseScr ≤ r.1 ∧ 0 < r.2 ∧ r.1 + r.2 ≤ baseScr + 2 ^ 36) :
    ∃ s' g', exec (.copyComplete key k) s = .next s' ∧ s'.wgs.get? t.wg = some g' ∧ s'.mem = s.mem ∧
      (∀ j, j < len → g'.scr.get (o + j) = f (o + j)) ∧
      ∀ a, a < o ∨ o + len ≤ a → g'.scr.get a = g.scr.get a := by
  have hstart : g.HasCopied op f o len 0 op :=
    ⟨⟨rfl, rfl, rfl⟩, hfail, by simp [hdid], by simp [Wg.Kept, hgot], by simp [hout], fun j _ hj => by
      simp [spanChunk] at hj⟩
  obtain ⟨op1, hrun, hop1⟩ := h.runChunks hlen hwrites hsrc hstart (Nat.zero_add _)
  have hflush : s.canFlush t (.engine key k) op1.out = true := by
    simp only [State.canFlush, haway, Bool.not_false, Bool.and_true, List.all_eq_true, Bool.and_eq_true, Bool.not_eq_true']
    intro e he
    obtain ⟨x, hx⟩ := hop1.carries e he
    have hlow := hx.low
    have hhigh := hx.high
    have hpos := hx.pos
    have hun := h.unpinnedAt (u := t) (by simp [State.wgOf, Tab.getD, h.wg]) (x := x) (by omega)
    exact ⟨by simp [Elem.away, hx.place, Place.isRemote], by simp [State.elemWaits, hx.place, hun]⟩
  obtain ⟨g1, hg1, hmem1, hin, hrest⟩ := State.putElems_scr h.wg (.engine key k) hop1.carries
  obtain ⟨bars, hbars⟩ := (State.onlyOps_finishOp (s.putElems t (.engine key k) op1.out) key k { op1 with out := [] }
    false).wg hg1
  refine ⟨_, _, copyComplete_eq hop (hchunks ▸ hrun) hflush, hbars, ?_, fun j hj => ?_, fun a ha => ?_⟩
  · rw [State.finishOp_mem, hmem1]
  · exact hin _ (hop1.cover j hj (by simp only [spanChunks, spanChunk]; omega))
  · refine hrest a fun ⟨e, he, x, hx, hxa, hax⟩ => ?_
    obtain ⟨y, hy⟩ := hop1.carries e he
    obtain rfl : x = y := by simpa [hx] using hy.place
    have hlow := hy.low
    have hhigh := hy.high
    omega

theorem EngOp.sources_cpfill {op : EngOp} (hk : op.kind = .cpfill) (k : Nat) : op.sources k = [] := by
  simp [EngOp.sources, hk]

/-- What a chunk of a CPY in the scratchpad reads. -/
theorem EngOp.sources_cpy {op : EngOp} {o src len k : Nat} (hkind : op.kind = .cpy)
    (hargs : op.args = [baseScr + o, baseScr + src, len]) (hlen : 0 < len) (hsrc36 : src + len ≤ 2 ^ 36)
    (hk : k < spanChunks (baseScr + o) len) {r : Nat × Nat} (hr : r ∈ op.sources k) :
    baseScr ≤ r.1 ∧ 0 < r.2 ∧ r.1 + r.2 ≤ baseScr + 2 ^ 36 := by
  obtain ⟨hlt, hle⟩ := spanChunk_lt hk hlen
  have hb : baseScr = 0xFFFFFFE000000000 := rfl
  simp only [EngOp.sources, hkind, hargs, List.getD_cons_zero, List.getD_cons_succ, List.mem_singleton] at hr
  subst hr
  dsimp only
  omega

/-! ### The obligation -/

/-- Settles O41: the ends of an operation by what `State.finishOp` and `State.suspendOp` leave, the bytes by an invariant
over the chunks that are done. -/
theorem copiesEndAndMoveBytes : Obligations.CopiesEndAndMoveBytes := by
  unfold Obligations.CopiesEndAndMoveBytes
  refine ⟨?_, ?_, ?_, ?_⟩
  · rintro s s1 key k t op op1 hop hf rfl
    refine ⟨fun hrun => ?_, fun cause va pte tid u hrun hu => ?_⟩
    · have ha : op1.kind.byArrival = false := by
        rw [State.runChunks_kind hrun]
        exact OpKind.not_byArrival_of_isCopy (State.opAt_kind hop)
      refine ⟨_, copyComplete_eq hop hrun hf, State.finishOp_free .., State.finishOp_mem .., State.finishOp_threads ..,
        State.finishOp_launches _ key k _ false ha, fun hnb => ?_, fun hnb => ?_⟩
      · exact (State.finishOp_wgs _ key k { op1 with out := [] } false ha).trans (if_pos hnb)
      · exact (State.finishOp_wgs _ key k { op1 with out := [] } false ha).trans (if_neg hnb)
    · exact ⟨_, _, copySuspend_eq hop hrun hf hu, rfl, State.suspendedFor_op .., Tab.get?_put_same .., rfl⟩
  · intro s key k d pat len cause va pte tid t u op hop hkind hargs hdid hout hfail hd hlen haway hp hu
    obtain ⟨n, hn⟩ : ∃ n, op.chunks = n + 1 := by
      refine ⟨spanChunks d len - 1, ?_⟩
      simp only [EngOp.chunks, hkind, hargs, List.getD_cons_zero, List.getD_cons_succ, spanChunks]
      omega
    have hrun : s.runChunks t op 0 op.chunks = (op, some (.fault cause va pte)) := by
      rw [hn]
      exact State.runChunks_fault (by simp [hdid]) (cpfill_first_fault hkind hargs hfail hd hlen hp)
    have hflush : s.canFlush t (.engine key k) op.out = true := by simp [State.canFlush, hout, haway]
    have hputs : s.putElems t (.engine key k) op.out = s := by rw [hout]; rfl
    have hsusp := copySuspend_eq hop hrun hflush (hputs.symm ▸ hu)
    rw [hputs] at hsusp
    refine ⟨_, _, hsusp, rfl, (State.suspendedFor_op ..).trans ?_, Tab.get?_put_same .., rfl⟩
    simp [hout, hfail]
    rfl
  · intro s t f k hat hb hread hk hlt
    refine ⟨fun op hs => ⟨eresume_suspended hat hb hread hk hlt hs, fun hd => ?_⟩, eresume_other hat hb hread hk hlt⟩
    have hcores u v : (s.finish u v).cores = u.cores := by simp [State.finish]
    refine ⟨_, eresumeAbort_suspended hat hb hread hk hlt hs hd, Tab.get?_put_same .., ?_, ?_, fun hnb ha => ?_⟩
    · rw [hcores]
      exact State.finishOp_free ..
    · simp [State.finish]
    · have hwgs u v : (s.finish u v).wgs = u.wgs := by simp [State.finish]
      rw [hwgs, State.finishOp_wgs _ _ _ _ _ ha, if_neg hnb]
  · intro s t g key k o src len op hop hdid hgot hout hfail haway hwg hg hpoi hlim h36 hlen hpin
    have h : s.ScrOpen t g := ⟨hg, hpoi, hpin⟩
    refine ⟨fun hkind hargs => ?_, fun hkind hargs hsrc hsrc36 hapart => ?_⟩
    · obtain ⟨s', g', hs', hg', hmem, hin, hrest⟩ := copyComplete_scr
        (f := fun a => BitVec.ofNat 8 (src / 2 ^ (8 * ((a - o) % 2 ^ (op.xt % 4))))) hop hdid hgot hout hfail haway h hlen
        hlim (by simp only [EngOp.chunks, hkind, hargs]; rfl)
        (fun op' k hsame hkept hk => by
          obtain ⟨hkind', hargs', hxt⟩ := hsame
          rw [← hxt]
          exact h.cpfill_writes hlen hlim h36 hk (hkind'.trans hkind) (hargs'.trans hargs))
        (fun op' k hsame _ => by simp [EngOp.sources_cpfill (hsame.1.trans hkind)])
      refine ⟨s', g', hs', hg', hmem, fun j hj => ?_, hrest⟩
      rw [hin j hj, BitVec.toNat_ofNat, Nat.add_sub_cancel_left]
    · obtain ⟨s', g', hs', hg', hmem, hin, hrest⟩ := copyComplete_scr (f := fun a => g.scr.get (src + (a - o))) hop hdid hgot
        hout hfail haway h hlen hlim (by simp only [EngOp.chunks, hkind, hargs]; rfl)
        (fun op' k hsame hkept hk => h.cpy_writes hlen hlim h36 hk (hsame.1.trans hkind) (hsame.2.1.trans hargs) hkept hsrc
          hsrc36)
        (fun op' k hsame hk r => EngOp.sources_cpy (hsame.1.trans hkind) (hsame.2.1.trans hargs) hlen hsrc36 hk)
      refine ⟨s', g', hs', hg', hmem, fun j hj => ?_, hrest⟩
      rw [hin j hj, Nat.add_sub_cancel_left]

end Sys2Proof.Machine
end

section
/-!
PROOFS. Rows at their home (O46).
-/

namespace Sys2Proof.Machine

/-! ### A row that is fetched (R300 to R303) -/

/-- Where there is something to pick, one of it is picked. -/
theorem State.pickOne_mem (s : State) (salt : Nat) {ks : List Nat} (h : ks ≠ []) :
    ∃ k ∈ ks, s.pickOne salt ks = some k := by
  have hlt : Config.freeNat s.free salt % ks.length < ks.length := Nat.mod_lt _ (List.length_pos_iff.mpr h)
  exact ⟨ks[_], List.getElem_mem hlt, List.getElem?_eq_getElem hlt⟩

theorem State.fetched_eq (s : State) (id : Nat) (w : GWork) (k : Nat) (bs : List Byte) {w' : GWork}
    (hw : w' = { w with todo := w.todo.filter (· != k), got := w.got.put k bs }) :
    s.fetched id w k bs = if w'.todo = [] then s.endWork id w' 0 else { s with gworks := s.gworks.put id w' } := by
  subst hw
  simp only [State.fetched, List.isEmpty_iff]

theorem State.added_eq (s : State) (id : Nat) (w : GWork) (k : Nat) {w' : GWork}
    (hw : w' = { w with todo := w.todo.filter (· != k) }) :
    s.added id w k = if w'.todo = [] then s.endWork id w' 0 else { s with gworks := s.gworks.put id w' } := by
  subst hw
  simp only [State.added, List.isEmpty_iff]

/-- A work that asks the holder of a forwarded page remembers what it asks for (R303). -/
theorem State.askHolder_gworks (s : State) (id : Nat) (w : GWork) (key va : Nat) (p : Place)
    (add : Option (Nat × List Byte)) :
    (s.askHolder id w key va p add).gworks.get? id = some { w with asked := w.asked ++ [key] } := by
  unfold State.askHolder
  rw [(State.sendAway_eq _ _).choose_spec.choose_spec.choose_spec]
  exact Tab.get?_put_same ..

theorem State.dropServe_gworks (s : State) (w : GFor) (holder : Nat) : (s.dropServe w holder).gworks = s.gworks := by
  unfold State.dropServe
  split
  · rfl
  · split
    · rfl
    · dsimp only
      split
      · rfl
      · split
        · rfl
        · obtain ⟨_, _, _, h⟩ := State.onlyQueued_sendMsg _ _
          rw [h]

/-- A row that is sent on is no longer served here (R303). -/
theorem State.sendOn_gworks (s : State) (id : Nat) (w : GWork) (x : Nat × GatherReq × Nat) :
    (s.sendOn id w x).gworks.get? id = none := by
  unfold State.sendOn
  obtain ⟨_, _, _, h⟩ := State.onlyQueued_sendMsg _ _
  rw [h]
  dsimp only
  rw [State.dropServe_gworks]
  exact Tab.get?_del_same ..

/-- The operation of a row that is sent on has it at its holder (R303). -/
theorem State.sendOn_gops (s : State) (id : Nat) {w : GWork} (x : Nat × GatherReq × Nat) {gid row : Nat} {o : GOp}
    {r : GRow} (hfor : w.for_ = .own gid row) (ho : s.gops.get? gid = some o) (hr : o.rows.get? row = some r) :
    ∃ o', (s.sendOn id w x).gops.get? gid = some o' ∧ o'.rows.get? row = some { r with pkg := pkgOf x.1 } := by
  unfold State.sendOn
  obtain ⟨_, _, _, h⟩ := State.onlyQueued_sendMsg _ _
  rw [h, hfor]
  refine ⟨_, (Tab.get?_upd_same _ _ _).trans (congrArg _ ho), ?_⟩
  exact (Tab.get?_upd_same _ _ _).trans (congrArg _ hr)

section
variable {s : State} {id k : Nat} {w : GWork} (hw : s.gworks.get? id = some w)
include hw

theorem gatherRowService_dead (hdead : s.rowDead w = true) (hdue : s.overdue w.sent = true) :
    exec (.gatherRowService id) s = .next (s.endWork id w 3) := by
  change execGatherRowService id s = _
  simp [execGatherRowService, hw, hdead, hdue, when]

variable (hadd : w.add = false) (hwait : s.workWaits id w = false) (hdead : s.rowDead w = false)
  (hp : s.pickOne (id + 4) (w.todo.filter fun k => !w.asked.contains (2 * k)) = some k)
include hadd hwait hdead hp

theorem gatherRowService_fetch {a : Nat} (hres : s.homeRes w ((w.va + 16 * k) % 2 ^ 64) = .ok (.phys a)) :
    exec (.gatherRowService id) s = .next (s.fetched id w k (s.mem.bytes a 16)) := by
  change execGatherRowService id s = _
  simp only [execGatherRowService, hw, hdead, hp, hadd, hwait, hres, Bool.false_eq_true, if_false, or_self]

theorem gatherRowService_fails {c : Nat} (hres : s.homeRes w ((w.va + 16 * k) % 2 ^ 64) = .fails c) :
    exec (.gatherRowService id) s = .next (s.endWork id w c) := by
  change execGatherRowService id s = _
  simp only [execGatherRowService, hw, hdead, hp, hadd, hwait, hres, Bool.false_eq_true, if_false, or_self]

theorem gatherRowService_walk {page : Nat} (hres : s.homeRes w ((w.va + 16 * k) % 2 ^ 64) = .walk page) :
    exec (.gatherRowService id) s = s.walkRow id w page := by
  change execGatherRowService id s = _
  simp only [execGatherRowService, hw, hdead, hp, hadd, hwait, hres, Bool.false_eq_true, if_false, or_self]

theorem gatherRowService_ask {pa : Nat} {hop : Bool} (hon : s.sentOn w = none)
    (hres : s.homeRes w ((w.va + 16 * k) % 2 ^ 64) = .ok (.remote pa hop)) :
    exec (.gatherRowService id) s =
      .next (s.askHolder id w (2 * k) ((w.va + 16 * k) % 2 ^ 64) (.remote pa hop) none) := by
  change execGatherRowService id s = _
  simp only [execGatherRowService, hw, hdead, hp, hadd, hwait, hres, hon, Bool.false_eq_true, if_false, or_self]

theorem gatherRowService_sendOn {pa : Nat} {hop : Bool} {x : Nat × GatherReq × Nat} (hon : s.sentOn w = some x)
    (hres : s.homeRes w ((w.va + 16 * k) % 2 ^ 64) = .ok (.remote pa hop)) :
    exec (.gatherRowService id) s = .next (s.sendOn id w x) := by
  change execGatherRowService id s = _
  simp only [execGatherRowService, hw, hdead, hp, hadd, hwait, hres, hon, Bool.false_eq_true, if_false, or_self]

end

/-! ### A row that is added to (R302, R306) -/

section
variable {s : State} {id : Nat} {w : GWork}

theorem State.homeAll_add (hadd : w.add = true) :
    s.homeAll w = w.todo.map fun k => s.homeRes w ((w.va + 4 * k) % 2 ^ 64) := by
  simp only [State.homeAll, hadd, if_true]

/-- The first word of a row that fails fails its row. -/
theorem rowCheck_fails {rs1 rs2 : List HomeRes} {c : Nat} (h : ∀ r ∈ rs1, ∀ d, r ≠ .fails d) :
    rowCheck (rs1 ++ .fails c :: rs2) = .error (.fails c) := by
  have hfind {p : HomeRes → Bool} (hn : ∀ r ∈ rs1, ¬p r = true) (hc : p (.fails c) = true) :
      (rs1 ++ .fails c :: rs2).find? p = some (.fails c) := by
    rw [List.find?_append, List.find?_eq_none.mpr hn, Option.none_or, List.find?_cons_of_pos hc]
  unfold rowCheck
  dsimp only
  rw [hfind]
  · intro r hr
    cases r with
    | fails d => exact absurd rfl (h _ hr d)
    | _ => simp
  · rfl

/-- A row of which every word has a place is checked. -/
theorem rowCheck_ok (ps : List Place) : rowCheck (ps.map .ok) = .ok ps := by
  have hnone {p : HomeRes → Bool} (h : ∀ x, p (.ok x) = false) : (ps.map HomeRes.ok).find? p = none := by
    simp [List.find?_eq_none, h]
  unfold rowCheck
  dsimp only
  rw [hnone fun _ => rfl, hnone fun _ => rfl]
  simp [List.filterMap_map]

theorem GWork.unprobed_phys {at_ : Nat → Nat} {n : Nat} (hp : w.places = (List.range n).map fun k => .phys (at_ k)) :
    w.unprobed = [] := by
  have : (w.places.zipIdx.filter fun p => p.1.isRemote) = [] := by
    rw [List.filter_eq_nil_iff]
    intro p hmem
    have hin : p.1 ∈ w.places := List.fst_mem_of_mem_zipIdx hmem
    rw [hp] at hin
    obtain ⟨_, _, h⟩ := List.mem_map.mp hin
    simp [← h, Place.isRemote]
  simp [GWork.unprobed, this]

/-- A checked row of words that all lie here is added to by one word (R306). -/
theorem State.addWord_phys {at_ : Nat → Nat} {n k : Nat} (hp : w.places = (List.range n).map fun k => .phys (at_ k))
    (hpick : s.pickOne (id + 4) (w.todo.filter fun k => !w.asked.contains (2 * k + 1)) = some k) (hk : k < n)
    (hmov : s.moving (at_ k) = false) :
    s.addWord id w = .next ((s.putPhysNat (at_ k) 4 (wordAdd w.efmt false (s.mem.getNat (at_ k) 4)
      (ofBytes ((w.data.drop (4 * k)).take 4)))).added id w k) := by
  have hat : w.places.getD k (.dead 0) = .phys (at_ k) := by
    rw [hp, List.getD_eq_getElem?_getD, List.getElem?_map, List.getElem?_range hk]
    rfl
  simp only [State.addWord, GWork.unprobed_phys hp, hpick, hat, when, hmov, Bool.not_false, if_true]

variable (hw : s.gworks.get? id = some w) (hadd : w.add = true) (hwait : s.workWaits id w = false)
include hw hadd hwait

theorem scatterAddApply_fails {rs1 rs2 : List HomeRes} {c : Nat} (hp : w.places = []) (hdead : s.rowDead w = false)
    (hall : s.homeAll w = rs1 ++ .fails c :: rs2) (h : ∀ r ∈ rs1, ∀ d, r ≠ .fails d) :
    exec (.scatterAddApply id) s = .next (s.endWork id w c) := by
  change execScatterAddApply id s = _
  simp [execScatterAddApply, hw, hadd, hwait, hp, hdead, hall, rowCheck_fails h]

theorem scatterAddApply_checked (hp : w.places ≠ []) (hlost : s.lost w.die = false) :
    exec (.scatterAddApply id) s = s.addWord id w := by
  change execScatterAddApply id s = _
  simp [execScatterAddApply, hw, hadd, hwait, hp, hlost]

theorem scatterAddApply_check {ps : List Place} (hp : w.places = []) (hdead : s.rowDead w = false)
    (hall : s.homeAll w = ps.map .ok) :
    exec (.scatterAddApply id) s = s.addWord id { w with places := ps } := by
  change execScatterAddApply id s = _
  simp [execScatterAddApply, hw, hadd, hwait, hp, hdead, hall, rowCheck_ok]

end

/-! ### A row is settled (R300, R302) -/

theorem State.settleRow_eq {s : State} {gid row cause : Nat} {o : GOp} {r : GRow} {bs : List Byte}
    (ho : s.gops.get? gid = some o) (hr : o.rows.get? row = some r) (hset : r.settled = false) :
    s.settleRow gid row cause bs = { s with gops := s.gops.put gid { o with
      rows := o.rows.put row { r with settled := true, bytes := if cause = 0 then bs else [] }
      fails := o.fails ++ if cause = 0 then [] else r.pos.map fun j => (j, cause) } } := by
  have : (if cause = 0 then o.fails else o.fails ++ r.pos.map fun j => (j, cause)) =
      o.fails ++ if cause = 0 then [] else r.pos.map fun j => (j, cause) := by
    split <;> simp
  simp only [State.settleRow, GOp.settle, ho, hr, hset, Bool.false_eq_true, if_false, this]

end Sys2Proof.Machine
end

section
/-!
PROOFS. The destination of a gather and its end (O46).
-/

namespace Sys2Proof.Machine

/-! ### Writing the destination (R300, R397) -/

/-- Bytes that land in pinned pages of the scratchpad are written there, and nothing else is. -/
theorem State.land_scr {s : State} {t : Thread} {g : Wg} {x : Nat} {bs : List Byte} (hg : s.wgs.get? t.wg = some g)
    (h36 : x + bs.length ≤ 2 ^ 36) (hpin : ∀ i, i < bs.length → g.pinned.contains ((x + i) / 16384) = true) :
    ∃ wgs g', s.land t (baseScr + x) bs = { s with wgs := wgs } ∧ wgs.get? t.wg = some g' ∧ g'.pinned = g.pinned ∧
      g'.scr = g.scr.putBytes x bs := by
  induction bs generalizing s g x with
  | nil => exact ⟨_, g, rfl, hg, rfl, rfl⟩
  | cons b bs ih =>
    rw [List.length_cons] at h36 hpin
    have hwg : s.wgOf t = g := by simp [State.wgOf, Tab.getD, hg]
    have hbyte : s.landByte t (baseScr + x) b = s.updWg t.wg fun g => g.putScr ((s.hdrOf t).matn != 0) x [b] := by
      have h0 : g.pinned.contains (x / 16384) = true := hpin 0 (Nat.succ_pos _)
      simp only [State.landByte, aperture_baseScr (show x < 2 ^ 36 by omega), hwg, h0, if_true, State.writePlace]
    have hg1 : (s.landByte t (baseScr + x) b).wgs.get? t.wg = some (g.putScr ((s.hdrOf t).matn != 0) x [b]) := by
      rw [hbyte, State.updWg_wgs, Tab.get?_upd_same, hg]
      rfl
    obtain ⟨wgs, g', hland, hg', hpins, hscr⟩ := ih (x := x + 1) hg1 (by omega) fun i hi => by
      rw [Nat.add_assoc, Nat.add_comm 1 i]
      exact hpin (i + 1) (by omega)
    refine ⟨wgs, g', ?_, hg', hpins, hscr⟩
    rw [State.land, Nat.add_assoc, hland, hbyte]
    rfl

/-- A unit of the destination that is ready is written by itself. -/
theorem State.landUnit_scr {s : State} {t : Thread} {g : Wg} {gid u od : Nat} {o : GOp} {bs : List Byte}
    (hg : s.wgs.get? t.wg = some g) (hu : u < o.units) (hl : u ∉ o.landed)
    (hrow : o.rowAt s.pkg (16 * u / o.len) = some bs) (hdst : o.dst = 0xFFFFFFE000000000 + od)
    (h36 : od + 16 * u + 16 ≤ 2 ^ 36)
    (hpin : ∀ b, b < 16 → g.pinned.contains ((od + 16 * u + b) / 16384) = true) :
    ∃ wgs g', s.landUnit t gid u o =
        some { s with gops := s.gops.put gid { o with landed := o.landed ++ [u] }, wgs := wgs } ∧
      wgs.get? t.wg = some g' ∧ g'.pinned = g.pinned ∧
      (∀ b x, b < 16 → bs[16 * u % o.len + b]? = some x → g'.scr.get (od + 16 * u + b) = x) ∧
      ∀ a, a < od + 16 * u ∨ od + 16 * u + 16 ≤ a → g'.scr.get a = g.scr.get a := by
  have hva : (o.dst + 16 * u) % 2 ^ 64 = baseScr + (od + 16 * u) := by
    have hb : baseScr = 0xFFFFFFE000000000 := rfl
    omega
  have hlen : ((bs.drop (16 * u % o.len)).take 16).length ≤ 16 := List.length_take_le _ _
  obtain ⟨wgs, g', hland, hg', hpins, hscr⟩ := State.land_scr
    (s := { s with gops := s.gops.put gid { o with landed := o.landed ++ [u] } }) hg
    (bs := (bs.drop (16 * u % o.len)).take 16) (x := od + 16 * u) (by omega) fun i hi => hpin i (by omega)
  refine ⟨wgs, g', ?_, hg', hpins, fun b x hb hx => ?_, fun a ha => ?_⟩
  · have hgo : ¬(o.units ≤ u ∨ o.landed.contains u = true) := by
      rw [List.contains_iff_mem]
      exact not_or.mpr ⟨Nat.not_le.mpr hu, hl⟩
    rw [State.landUnit, if_neg hgo, hrow, hva]
    exact congrArg some hland
  · rw [hscr]
    refine Store.get_putBytes_inside _ _ ?_
    rw [List.getElem?_take_of_lt hb, List.getElem?_drop]
    exact hx
  · rw [hscr]
    exact Store.get_putBytes_outside _ _ _ (by omega)

theorem State.landUnit_landed {s : State} {t : Thread} {gid u : Nat} {o : GOp} (hl : u ∈ o.landed) :
    s.landUnit t gid u o = none := by
  rw [State.landUnit, if_pos (.inr (List.contains_iff_mem.mpr hl))]

/-- An operation that is in flight writes a unit of its destination. -/
theorem engineStep_gather {s : State} {core k u gid : Nat} {op : EngOp} {o : GOp} {t : Thread}
    (hop : (s.cores.getD core {}).ops.get? k = some op) (hdata : op.data = [gid]) (hclose : op.kind ≠ .scatClose)
    (hkind : op.kind.isGather = true) (ho : s.gops.get? gid = some o) (hcore : o.core = core) (hticket : o.ticket = k)
    (hreq : o.req = none) (hlost : s.lost (core / 144) = false) (ht : s.threads.get? op.tid = some t) {s' : State}
    (hland : s.landUnit t gid u o = some s') : engineStep core k u s = .next s' := by
  simp [engineStep, hop, hclose, hkind, gatherStep, hdata, ho, ht, hcore, hticket, hlost, hreq, hland]

/-! ### What is left of the destination (R300) -/

/-- What the units below `n` of an operation's destination leave when they have been written. -/
structure State.LandsTo (s : State) (t : Thread) (gid od : Nat) (o : GOp) (g : Wg) (n : Nat) (s' : State) : Prop where
  pkg : s'.pkg = s.pkg
  mem : s'.mem = s.mem
  op : ∃ landed, s'.gops.get? gid = some { o with landed := landed } ∧ ∀ u, u ∈ landed ↔ u ∈ o.landed ∨ u < n
  wg : ∃ g', s'.wgs.get? t.wg = some g' ∧ g'.pinned = g.pinned ∧
    (∀ u bs b x, u < n → u ∉ o.landed → o.rowAt s.pkg (16 * u / o.len) = some bs → b < 16 →
      bs[16 * u % o.len + b]? = some x → g'.scr.get (od + 16 * u + b) = x) ∧
    ∀ a, (∀ u, u < n → u ∉ o.landed → a < od + 16 * u ∨ od + 16 * u + 16 ≤ a) → g'.scr.get a = g.scr.get a

section
variable {s : State} {t : Thread} {gid od : Nat} {o : GOp} {g : Wg} {n : Nat} {s' : State}

theorem State.LandsTo.start (ho : s.gops.get? gid = some o) (hg : s.wgs.get? t.wg = some g) :
    s.LandsTo t gid od o g 0 s where
  pkg := rfl
  mem := rfl
  op := ⟨o.landed, ho, by simp⟩
  wg := ⟨g, hg, rfl, fun _ _ _ _ h => absurd h (Nat.not_lt_zero _), fun _ _ => rfl⟩

/-- A unit that has been written already stays as it is. -/
theorem State.LandsTo.landed (h : s.LandsTo t gid od o g n s') (hn : n ∈ o.landed) :
    s.LandsTo t gid od o g (n + 1) s' where
  pkg := h.pkg
  mem := h.mem
  op := by
    obtain ⟨landed, hget, hmem⟩ := h.op
    refine ⟨landed, hget, fun u => (hmem u).trans ⟨Or.imp_right Nat.lt_succ_of_lt, fun hu => ?_⟩⟩
    obtain hu | hu := hu
    · exact .inl hu
    · obtain hu | rfl := Nat.lt_succ_iff_lt_or_eq.mp hu
      · exact .inr hu
      · exact .inl hn
  wg := by
    obtain ⟨g', hg', hpin, hin, hout⟩ := h.wg
    refine ⟨g', hg', hpin, fun u bs b x hu hnew => ?_, fun a ha => hout a fun u hu => ha u (Nat.lt_succ_of_lt hu)⟩
    have hne : u ≠ n := fun e => hnew (e ▸ hn)
    exact hin u bs b x (by omega) hnew

/-- A unit that has not been written is written, and what has been written stays. -/
theorem State.LandsTo.next (h : s.LandsTo t gid od o g n s') (hn : n ∉ o.landed) (hu : n < o.units) {bs : List Byte}
    (hrow : o.rowAt s.pkg (16 * n / o.len) = some bs) (hdst : o.dst = 0xFFFFFFE000000000 + od)
    (h36 : od + 16 * n + 16 ≤ 2 ^ 36) (hpin : ∀ b, b < 16 → g.pinned.contains ((od + 16 * n + b) / 16384) = true)
    {o1 : GOp} (ho1 : s'.gops.get? gid = some o1) :
    ∃ s1, s'.landUnit t gid n o1 = some s1 ∧ s.LandsTo t gid od o g (n + 1) s1 := by
  obtain ⟨landed, hget, hmem⟩ := h.op
  obtain rfl : { o with landed := landed } = o1 := Option.some.inj (hget.symm.trans ho1)
  obtain ⟨g1, hg1, hpin1, hin1, hout1⟩ := h.wg
  have hrow' : ({ o with landed := landed } : GOp).rowAt s'.pkg (16 * n / o.len) = some bs := h.pkg ▸ hrow
  obtain ⟨wgs, g', hland, hg', hpins, hin, hout⟩ := State.landUnit_scr (gid := gid) hg1
    (o := { o with landed := landed }) hu (fun hl => by simpa [hn] using (hmem n).mp hl) hrow' hdst h36
    fun b hb => hpin1 ▸ hpin b hb
  refine ⟨_, hland, h.pkg, h.mem, ⟨_, Tab.get?_put_same .., fun u => ?_⟩, g', hg', hpins.trans hpin1,
    fun u bs' b x hu' hnew hrow1 hb hx => ?_, fun a ha => ?_⟩
  · rw [List.mem_append, List.mem_singleton, hmem, or_assoc, Nat.lt_succ_iff_lt_or_eq]
  · by_cases hun : u = n
    · subst hun
      obtain rfl : bs = bs' := Option.some.inj (hrow.symm.trans hrow1)
      exact hin b x hb hx
    · rw [hout _ (by omega)]
      exact hin1 u bs' b x (by omega) hnew hrow1 hb hx
  · rw [hout a (ha n (Nat.lt_succ_self n) hn)]
    exact hout1 a fun u hu' => ha u (Nat.lt_succ_of_lt hu')

end

/-- The units below `n` of an operation's destination are written, where they are ready. -/
def State.landBelow (s : State) (t : Thread) (gid n : Nat) : State :=
  (List.range n).foldl (fun s u =>
    match s.gops.get? gid with
    | none => s
    | some o => (s.landUnit t gid u o).getD s) s

theorem State.landRest_eq {s : State} {t : Thread} {gid : Nat} {o : GOp} (ho : s.gops.get? gid = some o) :
    s.landRest t gid = s.landBelow t gid o.units := by
  unfold State.landRest
  rw [ho]
  rfl

theorem State.landBelow_succ {s : State} {t : Thread} {gid n : Nat} {o : GOp}
    (ho : (s.landBelow t gid n).gops.get? gid = some o) : s.landBelow t gid (n + 1) =
      ((s.landBelow t gid n).landUnit t gid n o).getD (s.landBelow t gid n) := by
  rw [State.landBelow, List.range_succ, List.foldl_append, List.foldl_cons, List.foldl_nil]
  change (match (s.landBelow t gid n).gops.get? gid with
    | none => _
    | some o => _) = _
  rw [ho]
  rfl

/-- What is left of a GATH's destination is written, when every row is ready (R299, R300). -/
theorem State.landsTo_landRest {s : State} {t : Thread} {gid od : Nat} {o : GOp} {g : Wg} (ho : s.gops.get? gid = some o)
    (hkind : o.kind = 0) (hpos : 0 < o.len) (hg : s.wgs.get? t.wg = some g) (hdst : o.dst = 0xFFFFFFE000000000 + od)
    (h36 : od + o.n * o.len ≤ 2 ^ 36) (hpin : ∀ a, od ≤ a → a < od + o.n * o.len → g.pinned.contains (a / 16384) = true)
    (hrows : ∀ j, j < o.n → ∃ bs, o.rowAt s.pkg j = some bs ∧ bs.length = o.len) :
    s.LandsTo t gid od o g (o.n * o.len / 16) (s.landRest t gid) := by
  have hunits : o.units = o.n * o.len / 16 := by simp [GOp.units, hkind, addsRows]
  rw [State.landRest_eq ho, hunits]
  suffices h : ∀ n, n ≤ o.n * o.len / 16 → s.LandsTo t gid od o g n (s.landBelow t gid n) from h _ le_rfl
  intro n
  induction n with
  | zero => exact fun _ => .start ho hg
  | succ n ih =>
    intro hn
    have h := ih (by omega)
    obtain ⟨landed, hget, hmem⟩ := h.op
    rw [State.landBelow_succ hget]
    by_cases hl : n ∈ o.landed
    · rw [State.landUnit_landed ((hmem n).mpr (.inl hl))]
      exact h.landed hl
    · obtain ⟨bs, hbs, -⟩ := hrows (16 * n / o.len) ((Nat.div_lt_iff_lt_mul hpos).mpr (by omega))
      obtain ⟨s1, hland, h1⟩ := h.next hl (by omega) hbs hdst (by omega) (fun b hb => hpin _ (by omega) (by omega)) hget
      rw [hland]
      exact h1

/-! ### An operation ends under its ticket (R299, R309, R369, R445) -/

/-- The status is held, and the operation is over. -/
def State.endHeld (s : State) (core k : Nat) (op : EngOp) (st : TicketStat) (err : Bool) : State :=
  (s.updWg op.wg fun g => { g with tickets := g.tickets.put k st }).finishOp core k op err

section
variable {s : State} {core k : Nat} {op : EngOp} {st : TicketStat} {err : Bool}

theorem State.opAddition_gops : (s.opAddition op err).gops = s.gops := by
  unfold State.opAddition
  split
  · rfl
  · split <;> rfl

theorem State.endHeld_gops : (s.endHeld core k op st err).gops = s.gops := by
  unfold State.endHeld State.finishOp
  rw [State.opAddition_gops]
  split <;> simp only [State.updWg, State.addBytes, State.dropAways, State.unitUnwait, State.updCore]

variable {g : Wg} (hg : s.wgs.get? op.wg = some g) (ha : op.kind.byArrival = false) (hout : op.out = [])
include hg ha hout

theorem State.endHeld_wg : ∃ g', (s.endHeld core k op st err).wgs.get? op.wg = some g' ∧ g'.tickets.get? k = some st ∧
    g'.scr = g.scr ∧ (op.nb ≠ 63 → g'.bars.getD op.nb .fresh =
      (g.bars.getD op.nb .fresh).add { b := op.wrote, e := err }) := by
  have hg1 : (s.updWg op.wg fun g => { g with tickets := g.tickets.put k st }).wgs.get? op.wg =
      some { g with tickets := g.tickets.put k st } := by
    rw [State.updWg_wgs, Tab.get?_upd_same, hg]
    rfl
  unfold State.endHeld
  rw [State.finishOp_wgs _ _ _ _ _ ha]
  by_cases hnb : op.nb = 63
  · rw [if_pos hnb]
    exact ⟨_, hg1, Tab.get?_put_same .., rfl, fun h => absurd hnb h⟩
  · have hwritten : op.written = op.wrote := by simp [EngOp.written, hout]
    rw [if_neg hnb, State.nbAdd, State.updWg_wgs, Tab.get?_upd_same, hg1, hwritten]
    exact ⟨_, rfl, Tab.get?_put_same .., rfl, fun _ => Tab.getD_put_same ..⟩

theorem State.endHeld_launches : (s.endHeld core k op st err).launches = (s.addBytes op.wg op.wrote).launches := by
  have hwritten : op.written = op.wrote := by simp [EngOp.written, hout]
  have hlaunch : ((s.updWg op.wg fun g => { g with tickets := g.tickets.put k st }).wgs.getD op.wg .absent).launch =
      (s.wgs.getD op.wg .absent).launch := by
    rw [State.updWg_wgs, Tab.getD, Tab.get?_upd_same, Tab.getD, hg]
    rfl
  unfold State.endHeld
  rw [State.finishOp_launches _ _ _ _ _ ha, hwritten]
  simp only [State.addBytes, hlaunch]
  rfl

end

theorem gatherComplete_eq {s : State} {core k gid : Nat} {op : EngOp} {o : GOp} {t : Thread}
    (hop : (s.cores.getD core {}).ops.get? k = some op) (hdata : op.data = [gid]) (hclose : op.kind ≠ .scatClose)
    (ho : s.gops.get? gid = some o) (hcore : o.core = core) (hticket : o.ticket = k) (hreq : o.req = none)
    (hset : ∀ r ∈ o.rows, r.2.settled = true) (hlost : s.lost (core / 144) = false) (ht : s.threads.get? op.tid = some t) :
    exec (.gatherComplete core k) s =
      .next (({ s.landRest t gid with gops := (s.landRest t gid).gops.del gid } : State).endHeld core k op
        (o.status op.wrote) !o.fails.isEmpty) := by
  have hall : o.rows.vals.all (·.settled) = true := by
    simpa [Tab.vals] using fun a b h => hset (a, b) h
  change execGatherComplete core k s = _
  simp only [execGatherComplete, hop, hlost, Bool.false_eq_true, if_false, hclose, hdata, List.getD_cons_zero, ho, hcore,
    hticket, hreq, hall, Option.isNone_none, and_self, if_true, State.gatherDone, ht]
  rfl

theorem gatherComplete_close {s : State} {core k gid : Nat} {op : EngOp}
    (hop : (s.cores.getD core {}).ops.get? k = some op) (hgid : op.data.getD 0 0 = gid) (hclose : op.kind = .scatClose)
    (hdid : op.did ≠ []) (hsent : s.closeInFlight gid = false) (hlost : s.lost (core / 144) = false) :
    exec (.gatherComplete core k) s = .next (s.endHeld core k op { bytes := 0, cause := 0, fails := [] } false) := by
  change execGatherComplete core k s = _
  simp only [execGatherComplete, hop, hlost, hgid, hclose, hsent, List.isEmpty_iff, hdid, Bool.false_eq_true, if_false,
    if_true, or_self]
  rfl

end Sys2Proof.Machine
end

section
/-!
PROOFS. Messages of gathers and scatters, and rows that no answer reaches (O46).
-/

namespace Sys2Proof.Machine

/-! ### Requests and replies (R300, R302, R306, R307) -/

theorem State.foldl_ordHold_mem (key nsrc src core seq : Nat) (ws : List GWork) (s : State) :
    (ws.foldl (fun s w => s.ordHold key nsrc src core seq w) s).mem = s.mem :=
  State.foldl_mem _ (fun _ _ => State.ordHold_mem ..) ws s

/-- What a request of another package leaves: its works wait in their round, or begin. -/
def State.serving (s : State) (req : GatherReq) : State :=
  { s with nextId := s.nextId + 1, gserves := s.gserves.put s.nextId { req := req, rows := [] } }

theorem gatherRequestReceive_eq {s : State} {req : GatherReq} (hrows : req.rows ≠ [])
    (hsrc : req.src ≠ s.pkg ∨ req.forwarded = true) : exec (.gatherRequestReceive req) s =
      .next (if req.kind = 4 then
        (req.rows.map fun r => workOf req.kind req.efmt req.len (.other s.nextId r.key) r req.forwarded).foldl
          (fun s w => s.ordHold req.handle req.nsrc req.src req.core req.seq w) (s.serving req)
      else (s.serving req).addWorks
        (req.rows.map fun r => workOf req.kind req.efmt req.len (.other s.nextId r.key) r req.forwarded)) := by
  have hgo : ¬(req.rows.isEmpty = true ∨ (req.src = s.pkg ∧ (!req.forwarded) = true)) := by
    simpa [hrows, Decidable.imp_iff_not_or] using hsrc
  change execGatherRequestReceive req s = _
  rw [execGatherRequestReceive, if_neg hgo]
  rfl

theorem gatherReply_eq {s : State} {rep : GatherRep} {o : GOp} {parts : List (Nat × Nat × List Nat)}
    (ho : s.gops.get? rep.id = some o) (hparts : parts = rep.parts.filter fun p => !o.late rep.pkg p.2.1) :
    exec (.gatherReply rep) s = .next (rep.rows.foldl (fun s r => s.settleRow rep.id r.1 r.2.1 r.2.2)
      (if parts = [] then s else { s with gops := s.gops.put rep.id { o with parts := o.parts.put rep.pkg parts } })) := by
  subst hparts
  change execGatherReply rep s = _
  simp only [execGatherReply, ho, List.isEmpty_iff]

/-! ### Rows that fail with cause 3 (R302) -/

section
variable {o : GOp} {k key cause : Nat} {r : GRow} {bs : List Byte}

/-- What has failed stays failed. -/
theorem GOp.mem_settle_fails {f : Nat × Nat} (h : f ∈ o.fails) : f ∈ (o.settle k cause bs).fails := by
  unfold GOp.settle
  split
  · exact h
  · split
    · exact h
    · dsimp only
      split
      · exact h
      · exact List.mem_append_left _ h

theorem GOp.settle_rows_other (hr : o.rows.get? key = some r) (hk : k ≠ key) :
    (o.settle k cause bs).rows.get? key = some r := by
  unfold GOp.settle
  split
  · exact hr
  · split
    · exact hr
    · exact (Tab.get?_put_other _ _ hk).trans hr

theorem GOp.settle_of_settled (hr : o.rows.get? key = some r) (hset : r.settled = true) :
    o.settle key cause bs = o := by
  simp only [GOp.settle, hr, hset, if_true]

theorem GOp.settle_of_unsettled (hr : o.rows.get? key = some r) (hset : r.settled = false) (hc : cause ≠ 0) :
    o.settle key cause bs = { o with rows := o.rows.put key { r with settled := true, bytes := [] }
                                     fails := o.fails ++ r.pos.map fun j => (j, cause) } := by
  simp only [GOp.settle, hr, hset, hc, Bool.false_eq_true, if_false]

end

/-- What the failing of the rows `ks` leaves of an operation. -/
structure GOp.FailsTo (o : GOp) (ks : List Nat) (cause : Nat) (o' : GOp) : Prop where
  fails : ∀ f ∈ o.fails, f ∈ o'.fails
  rows : ∀ key r, o.rows.get? key = some r → ∃ r', o'.rows.get? key = some r' ∧
    (r.settled = true ∨ key ∈ ks → r'.settled = true) ∧
    (key ∈ ks → r.settled = false → ∀ j ∈ r.pos, (j, cause) ∈ o'.fails)

theorem GOp.FailsTo.nil (o : GOp) (cause : Nat) : o.FailsTo [] cause o where
  fails _ h := h
  rows _ r hr := ⟨r, hr, by simp, by simp⟩

theorem GOp.FailsTo.cons {o o' : GOp} {k cause : Nat} {ks : List Nat} (hc : cause ≠ 0)
    (h : (o.settle k cause []).FailsTo ks cause o') : o.FailsTo (k :: ks) cause o' where
  fails f hf := h.fails f (GOp.mem_settle_fails hf)
  rows key r hr := by
    by_cases hk : k = key
    · subst hk
      cases hset : r.settled with
      | true =>
        obtain ⟨r', hr', hs, -⟩ := h.rows k r ((GOp.settle_of_settled hr hset).symm ▸ hr)
        exact ⟨r', hr', fun _ => hs (.inl hset), fun _ hf => by cases hf⟩
      | false =>
        rw [GOp.settle_of_unsettled hr hset hc] at h
        obtain ⟨r', hr', hs, -⟩ := h.rows k _ (Tab.get?_put_same ..)
        refine ⟨r', hr', fun _ => hs (.inl rfl), fun _ _ j hj => h.fails _ ?_⟩
        exact List.mem_append_right _ (List.mem_map_of_mem hj)
    · obtain ⟨r', hr', hs, hf⟩ := h.rows key r (GOp.settle_rows_other hr hk)
      refine ⟨r', hr', ?_, ?_⟩
      · simpa [Ne.symm hk] using hs
      · simpa [Ne.symm hk] using hf

theorem State.foldl_settleRow (rs : List (Nat × GRow)) {s : State} {gid cause : Nat} {o : GOp} (hc : cause ≠ 0)
    (ho : s.gops.get? gid = some o) : ∃ o', (rs.foldl (fun s r => s.settleRow gid r.1 cause []) s).gops.get? gid = some o' ∧
      o.FailsTo (rs.map (·.1)) cause o' := by
  induction rs generalizing s o with
  | nil => exact ⟨o, ho, .nil o cause⟩
  | cons r rs ih =>
    have ho1 : (s.settleRow gid r.1 cause []).gops.get? gid = some (o.settle r.1 cause []) := by
      simp only [State.settleRow, ho, Tab.get?_put_same]
    obtain ⟨o', ho', h⟩ := ih ho1
    exact ⟨o', ho', h.cons hc⟩

/-- The rows of a package's die that have not been answered. -/
def GOp.unanswered (o : GOp) (pkg die : Nat) : List (Nat × GRow) :=
  o.rows.filter fun r => r.2.pkg == pkg && r.2.die == die && !r.2.settled

theorem GOp.mem_unanswered {o : GOp} {pkg die : Nat} {e : Nat × GRow} : e ∈ o.unanswered pkg die ↔
    e ∈ o.rows ∧ (e.2.pkg = pkg ∧ e.2.die = die) ∧ e.2.settled = false := by
  simp [GOp.unanswered]

theorem gatherPositionTimeout_eq {s : State} {core k pkg die gid : Nat} {op : EngOp} {o : GOp}
    (hop : (s.cores.getD core {}).ops.get? k = some op) (hdata : op.data = [gid]) (ho : s.gops.get? gid = some o)
    (hcore : o.core = core) (hticket : o.ticket = k) (hown : pkg = s.pkg → s.lost die = true ∧ s.overdue o.sent = true)
    (hother : pkg ≠ s.pkg → s.overdue o.sent = true ∨ s.reach pkg = .lost ∨ s.reach pkg = .key)
    (hrows : o.unanswered pkg die ≠ []) : exec (.gatherPositionTimeout core k pkg die) s =
      .next ((o.unanswered pkg die).foldl (fun s r => s.settleRow gid r.1 3 []) { s with
        gworks := s.gworks.filter fun w => !((o.unanswered pkg die).any fun r => decide (w.2.for_ = .own gid r.1)) }) := by
  have hgone : (if pkg = s.pkg then s.lost die && s.overdue o.sent
      else s.overdue o.sent || s.reach pkg == .lost || s.reach pkg == .key) = true := by
    split
    next h => simp [hown h]
    next h => simpa [or_assoc] using hother h
  change execGatherPositionTimeout core k pkg die s = _
  simp only [GOp.unanswered] at hrows ⊢
  simp only [execGatherPositionTimeout, hop, Option.bind_some, hdata, List.getD_cons_zero, ho, Option.map_some, hcore,
    hticket, ne_eq, not_true_eq_false, hgone, Bool.not_true, Bool.false_eq_true, or_false, List.isEmpty_iff,
    hrows, if_false]

/-! ### Ordered rounds (R307) -/

section
variable {s : State} {key nsrc rows : Nat}

theorem State.ordRelease_waits {r : OrdRound} (hr : s.ordRounds.get? key = some r)
    (h : r.closes < nsrc ∨ r.received ≠ r.announced) : s.ordRelease key nsrc = s := by
  simp only [State.ordRelease, hr]
  exact if_neg fun hc => h.elim (Nat.not_lt.mpr hc.1) fun hne => hne hc.2

theorem State.ordRelease_eq {r : OrdRound} (hr : s.ordRounds.get? key = some r) (hc : nsrc ≤ r.closes)
    (hall : r.received = r.announced) : s.ordRelease key nsrc =
      ({ s with ordRounds := s.ordRounds.del key } : State).addWorks
        ((sortBy heldBefore r.held).map fun h => { h.2.2.2 with ord := true }) := by
  simp only [State.ordRelease, hr]
  exact if_pos ⟨hc, hall⟩

theorem State.addWorks_length (s : State) (ws : List GWork) :
    (s.addWorks ws).gworks.length = s.gworks.length + ws.length := by
  simp [State.addWorks]

/-- A round with one close more. -/
def OrdRound.closed (r : OrdRound) (rows : Nat) : OrdRound :=
  { r with closes := r.closes + 1, announced := r.announced + rows }

/-- A close that does not complete its round is counted. -/
theorem State.ordClose_waits (h : (s.ordRound key).closes + 1 < nsrc ∨
      (s.ordRound key).received ≠ (s.ordRound key).announced + rows) :
    s.ordClose key nsrc rows = { s with ordRounds := s.ordRounds.put key ((s.ordRound key).closed rows) } :=
  State.ordRelease_waits (Tab.get?_put_same ..) h

/-- A close that completes its round releases the adds that it holds. -/
theorem State.ordClose_releases (hc : nsrc ≤ (s.ordRound key).closes + 1)
    (hall : (s.ordRound key).received = (s.ordRound key).announced + rows) :
    (s.ordClose key nsrc rows).ordRounds.get? key = none ∧
      (s.ordClose key nsrc rows).gworks.length = s.gworks.length + (s.ordRound key).held.length := by
  have heq := State.ordRelease_eq (s := { s with ordRounds := s.ordRounds.put key ((s.ordRound key).closed rows) })
    (Tab.get?_put_same ..) hc hall
  constructor
  · refine (congrArg (fun s : State => s.ordRounds.get? key) heq).trans ?_
    exact Tab.get?_del_same ..
  · refine (congrArg (fun s : State => s.gworks.length) heq).trans ?_
    rw [State.addWorks_length, List.length_map, (sortBy_perm ..).length_eq]
    rfl

theorem scatterCloseArrive_eq {m : ScatClose} (hsrc : m.src ≠ s.pkg) :
    exec (.scatterCloseArrive m) s = .next (s.ordClose m.handle m.nsrc m.rows) := by
  change execScatterCloseArrive m s = _
  exact if_neg hsrc

end

end Sys2Proof.Machine
end

section
/-!
PROOFS. GSTAT and SHCNT (O46).
-/

namespace Sys2Proof.Machine

/-- What stores change of their thread (R228). -/
theorem State.storePlaces_sameIssue (s : State) (t : Thread) (ws : List (Place × List Byte)) :
    t.SameIssue (s.storePlaces t ws).2 := by
  induction ws generalizing s t with
  | nil => exact .refl t
  | cons w ws ih => exact (s.storeAt_sameIssue t w.1 w.2).trans (ih _ _)

theorem State.storePlaces_regs {s s1 : State} {t t1 : Thread} {ws : List (Place × List Byte)}
    (h : s.storePlaces t ws = (s1, t1)) : t1.regs = t.regs := by
  have hsame := s.storePlaces_sameIssue t ws
  rw [h] at hsame
  exact hsame.regs

/-- Words at places of this package that wait for nothing are stored at issue (R228; log 7). -/
theorem State.storeWords_here {s : State} {t : Thread} {va n k : Nat} {f : Nat → Nat} {p : Nat → Place}
    (hb : t.busy = false)
    (hp : ∀ j, j < k → s.resolve t .store 0 ((va + n * j) % 2 ^ 64) n = .ok (p j) ∧ (p j).isRemote = false ∧
      s.scrWaits t (p j) n = false) :
    s.storeWords t va n k f = .ok (s.storePlaces t ((List.range k).map fun j => (p j, toBytes (f j) n))) := by
  have hps : s.resolveAll t .store n true ((List.range k).map fun j => (0, (va + n * j) % 2 ^ 64)) =
      .ok ((List.range k).map fun j => (0, (va + n * j) % 2 ^ 64, p j)) :=
    State.resolveAll_here (lane := fun _ => 0) (fun j hj => (hp j (List.mem_range.mp hj)).1)
      fun j hj => (hp j (List.mem_range.mp hj)).2.1
  have hzip : (List.range k).zipIdx = (List.range k).map fun j => (j, j) := by
    refine List.ext_getElem (by simp) fun i _ _ => by simp
  have hst := State.storeAll_here (s := s) (op := 1024) (n := n) hb
    (ls := (List.range k).map fun j => (j, (va + n * j) % 2 ^ 64, p j, toBytes (f j) n)) fun l hl => by
      obtain ⟨j, hj, rfl⟩ := List.mem_map.mp hl
      exact (hp j (List.mem_range.mp hj)).2
  rw [List.map_map] at hst
  simp only [State.storeWords, quiet_ok hb, hps, bind, Except.bind, List.zipIdx_map, hzip, List.map_map]
  exact hst

/-- A snapshot is kept for the accesses in flight only (R279). -/
theorem Thread.snapped_of_pend_nil {t : Thread} (h : t.pend = []) (x : Snapshot) : t.snapped x = t := by
  cases t
  cases h
  rfl

theorem Thread.SameIssue.pend {t t' : Thread} (h : t.SameIssue t') : t'.pend = t.pend := by
  obtain ⟨_, _, _, _, _, rfl⟩ := h
  rfl

/-! ### GSTAT (R309; log 26) -/

/-- An operation of the thread's workgroup runs under a ticket. -/
def State.gstatBusy (s : State) (t : Thread) (k : Nat) : Bool :=
  match (s.cores.getD (s.coreOf t) {}).ops.get? k with
  | some op => op.wg == t.wg && op.kind.isGather
  | none => false

/-- What GSTAT gives: its summary and its flags. -/
def gstatGives (f : Eng) (busy : Bool) (st : Option TicketStat) (t : Thread) : Thread :=
  (t.putG f.dst.toNat (BitVec.ofNat 64 (gstatWord busy st))).setCC
    { t := busy || st.isNone, z := busy || ((st.map fun x => x.fails.isEmpty).getD true) }

section
variable (f : Eng) (st : Option TicketStat) (x : TicketStat) (t : Thread)

theorem gstatGives_busy : gstatGives f true st t =
    (t.putG f.dst.toNat (BitVec.ofNat 64 (2 ^ 16))).setCC { t := true, z := true } := by
  simp only [gstatGives, gstatWord, if_true, Bool.true_or]

theorem gstatGives_none : gstatGives f false none t =
    (t.putG f.dst.toNat (BitVec.ofNat 64 (2 ^ 17))).setCC { t := true, z := true } := by
  simp only [gstatGives, gstatWord, Bool.false_eq_true, if_false, Bool.false_or, Option.isNone_none, Option.map_none,
    Option.getD_none]

theorem gstatGives_held : gstatGives f false (some x) t =
    (t.putG f.dst.toNat (BitVec.ofNat 64 (x.bytes * 2 ^ 32 + x.cause % 16 * 2 ^ 18 + x.fails.length))).setCC
      { z := x.fails.isEmpty } := by
  simp only [gstatGives, gstatWord, Bool.false_eq_true, if_false, Bool.false_or, Option.isNone_some, Option.map_some,
    Option.getD_some]

end

theorem gstat_eq (f : Eng) (s : State) : exec (.gstat f) s = (run s fun t => do
    t.canRead f.a 1
    t.canRead f.b 1
    t.quiet
    rsvUnless (decide (t.uni f.a < 16))
    if t.uni f.b % 8 ≠ 0 then .error (alignTrap .store (t.uni f.b))
    else
      let fin := fun (s1 : State) (t1 : Thread) =>
        done s1 (gstatGives f (s.gstatBusy t (t.uni f.a)) ((s.wgOf t).tickets.get? (t.uni f.a)) t1)
      match (s.wgOf t).tickets.get? (t.uni f.a) with
      | some x =>
        if s.gstatBusy t (t.uni f.a) ∨ t.uni f.b = 0 then fin s t
        else
          let r ← s.storeWords t (t.uni f.b) 8 16 fun j => fld (faultMap x) (64 * j) 64
          fin r.1 r.2
      | none => fin s t) := rfl

theorem State.gstatBusy_of_runs {s : State} {t : Thread} {k : Nat} {op : EngOp}
    (hop : (s.cores.getD (s.coreOf t) {}).ops.get? k = some op) (hwg : op.wg = t.wg) (hkind : op.kind.isGather = true) :
    s.gstatBusy t k = true := by
  simp [State.gstatBusy, hop, hwg, hkind]

theorem State.gstatBusy_of_others {s : State} {t : Thread} {k : Nat}
    (h : ∀ op, (s.cores.getD (s.coreOf t) {}).ops.get? k = some op → op.wg ≠ t.wg ∨ op.kind.isGather = false) :
    s.gstatBusy t k = false := by
  unfold State.gstatBusy
  split
  next op hop =>
    obtain hwg | hkind := h op hop
    · simp [hwg]
    · simp [hkind]
  · rfl

section
variable {s : State} {t : Thread} {f : Eng} (hat : s.At t) (hb : t.busy = false) (hra : t.canRead f.a 1 = .ok ⟨⟩)
  (hrb : t.canRead f.b 1 = .ok ⟨⟩)
include hat hb hra hrb

section
variable (hk : t.uni f.a < 16) (hal : t.uni f.b % 8 = 0)
include hk hal

/-- GSTAT that stores no map changes its thread only. -/
theorem gstat_word {busy : Bool} (hbusy : s.gstatBusy t (t.uni f.a) = busy)
    (hmap : (s.wgOf t).tickets.get? (t.uni f.a) = none ∨ busy = true ∨ t.uni f.b = 0) :
    exec (.gstat f) s = .next (s.after t
      (gstatGives f busy ((s.wgOf t).tickets.get? (t.uni f.a)) t).advance) := by
  rw [gstat_eq]
  refine run_done hat ?_ (by simp [gstatGives]) (by simp [gstatGives])
  simp only [hra, hrb, quiet_ok hb, rsvUnless, hk, hal, decide_true, if_true, ne_eq, not_true_eq_false, if_false, bind,
    Except.bind, hbusy]
  cases hst : (s.wgOf t).tickets.get? (t.uni f.a) with
  | none => rfl
  | some x =>
    rw [hst] at hmap
    exact if_pos (hmap.resolve_left nofun)

/-- GSTAT of a held status stores the map of the positions that failed. -/
theorem gstat_map {x : TicketStat} {p : Nat → Place} (hbusy : s.gstatBusy t (t.uni f.a) = false)
    (hst : (s.wgOf t).tickets.get? (t.uni f.a) = some x) (ha : t.uni f.b ≠ 0)
    (hp : ∀ j, j < 16 → s.resolve t .store 0 ((t.uni f.b + 8 * j) % 2 ^ 64) 8 = .ok (p j) ∧ (p j).isRemote = false ∧
      s.scrWaits t (p j) 8 = false) {r : State × Thread}
    (hr : s.storePlaces t ((List.range 16).map fun j => (p j, toBytes (fld (faultMap x) (64 * j) 64) 8)) = r) :
    exec (.gstat f) s = .next (s.finish r.1 (gstatGives f false (some x) r.2)) := by
  rw [gstat_eq]
  refine run_finish hat ?_
  simp only [hra, hrb, quiet_ok hb, rsvUnless, hk, hal, decide_true, if_true, ne_eq, not_true_eq_false, if_false, bind,
    Except.bind, hbusy, hst, ha, Bool.false_eq_true, or_self, State.storeWords_here hb hp, hr]

end

/-! ### SHCNT (R311) -/

theorem shcnt_eq {b : Handle} {p : Nat → Place} (hh : s.handle (s.partOf t) (t.uni f.a) = some b)
    (hp : ∀ j, j < b.shards.length → s.resolve t .store 0 ((t.uni f.b + 4 * j) % 2 ^ 64) 4 = .ok (p j) ∧
      (p j).isRemote = false ∧ s.scrWaits t (p j) 4 = false) {r : State × Thread}
    (hr : s.storePlaces t ((List.range b.shards.length).map fun j => (p j, toBytes (b.counters.getD j 0) 4)) = r) :
    exec (.shcnt f) s = .next (s.finish
      { r.1 with handles := r.1.handles.put (4096 * s.partOf t + t.uni f.a) { b with counters := b.shards.map fun _ => 0 } }
      r.2) := by
  refine run_finish hat ?_
  have hpend : r.2.pend = [] := by
    rw [← hr, (s.storePlaces_sameIssue t _).pend]
    simpa [Thread.busy] using hb
  simp only [hra, hrb, quiet_ok hb, hh, bind, Except.bind, State.storeWords_here hb hp, hr,
    Thread.snapped_of_pend_nil hpend]
  rfl

end

end Sys2Proof.Machine
end

section
/-!
PROOFS. Gathers and scatters are served and end (O46).
-/

namespace Sys2Proof.Machine

/-- A unit of a row, in any order, is what a Cellar unit goes on with (R301, R303). -/
theorem State.pickOne_unit (s : State) (id : Nat) {w : GWork} (hex : ∃ k ∈ w.todo, 2 * k ∉ w.asked) :
    ∃ k, k ∈ w.todo ∧ 2 * k ∉ w.asked ∧
      s.pickOne (id + 4) (w.todo.filter fun k => !w.asked.contains (2 * k)) = some k := by
  have hmem (k : Nat) : (k ∈ w.todo.filter fun k => !w.asked.contains (2 * k)) ↔ k ∈ w.todo ∧ 2 * k ∉ w.asked := by
    simp
  obtain ⟨k0, hk0⟩ := hex
  obtain ⟨k, hk, hp⟩ := s.pickOne_mem (id + 4) (List.ne_nil_of_mem ((hmem k0).mpr hk0))
  exact ⟨k, ((hmem k).mp hk).1, ((hmem k).mp hk).2, hp⟩

/-- A word of a row that has been checked is added to (R306). -/
theorem State.addWord_added {s : State} {id n : Nat} {w : GWork} {at_ : Nat → Nat} (hasked : w.asked = [])
    (hp : w.places = (List.range n).map fun k => .phys (at_ k)) (htodo : w.todo ≠ []) (hlt : ∀ k ∈ w.todo, k < n)
    (hmov : ∀ k, k < n → s.moving (at_ k) = false) :
    ∃ k w', k ∈ w.todo ∧ w'.todo = w.todo.filter (· != k) ∧
      w'.places = (List.range n).map (fun k => .phys (at_ k)) ∧ ∀ s1, s1 = s.putPhysNat (at_ k) 4
        (wordAdd w.efmt false (s.mem.getNat (at_ k) 4) (ofBytes ((w.data.drop (4 * k)).take 4))) →
      s.addWord id w = .next (if w'.todo = [] then s1.endWork id w' 0
        else { s1 with gworks := s1.gworks.put id w' }) := by
  have hfilter : (w.todo.filter fun k => !w.asked.contains (2 * k + 1)) = w.todo := by simp [hasked]
  obtain ⟨k, hk, hpick⟩ := s.pickOne_mem (id + 4) htodo
  refine ⟨k, { w with todo := w.todo.filter (· != k) }, hk, rfl, hp, fun s1 hs1 => ?_⟩
  rw [State.addWord_phys hp (hfilter.symm ▸ hpick) (hlt k hk) (hmov k (hlt k hk)), ← hs1, State.added_eq _ _ _ _ rfl]

/-- Settles O46: each event by what it does with a work, an operation or a round; the destination by an invariant over the
units that have been written, and rows that fail by one over the rows. -/
theorem gathersEnd : Obligations.GathersEnd := by
  unfold Obligations.GathersEnd
  refine ⟨?_, ?_, ?_, ?_, ?_, ?_, ?_, ?_, ?_, ?_, ?_, ?_, ?_⟩
  · intro s id w hw hadd hwait
    refine ⟨gatherRowService_dead hw, fun hdead hex => ?_⟩
    obtain ⟨k, hk, hasked, hp⟩ := s.pickOne_unit id hex
    refine ⟨k, hk, hasked, fun a w' hres hw' => ?_, fun c => gatherRowService_fails hw hadd hwait hdead hp,
      fun page => gatherRowService_walk hw hadd hwait hdead hp, fun pa hop hres => ?_⟩
    · rw [gatherRowService_fetch hw hadd hwait hdead hp hres, State.fetched_eq s id w k _ hw']
    · cases hon : s.sentOn w with
      | none =>
        exact ⟨_, gatherRowService_ask hw hadd hwait hdead hp hon hres, State.askHolder_mem .., fun _ =>
          State.askHolder_gworks .., nofun⟩
      | some x =>
        refine ⟨_, gatherRowService_sendOn hw hadd hwait hdead hp hon hres, State.sendOn_mem .., nofun, fun y hy => ?_⟩
        obtain rfl := Option.some.inj hy
        exact ⟨State.sendOn_gworks .., fun gid row o r => State.sendOn_gops s id x⟩
  · intro s id n w hw hadd hwait hasked
    refine ⟨fun l1 k l2 c hp hdead htodo hl1 hc => ?_, fun at_ htodo hcase hmov => ?_⟩
    · refine scatterAddApply_fails hw hadd hwait hp hdead (rs2 := l2.map fun k => s.homeRes w ((w.va + 4 * k) % 2 ^ 64))
        (rs1 := l1.map fun k => s.homeRes w ((w.va + 4 * k) % 2 ^ 64)) ?_ fun r hr d => ?_
      · rw [State.homeAll_add hadd, htodo, List.map_append, List.map_cons, hc]
      · obtain ⟨j, hj, rfl⟩ := List.mem_map.mp hr
        exact hl1 j hj d
    · obtain ⟨hp, hdead, hall, hres⟩ | ⟨hp, hn, hlost, hlt⟩ := hcase
      · obtain ⟨k, w', hk, htodo', hplaces, hword⟩ := State.addWord_added (s := s) (id := id) (at_ := at_)
          (w := { w with places := (List.range n).map fun k => .phys (at_ k) }) hasked rfl htodo
          (fun k hk => List.mem_range.mp (hall ▸ hk)) hmov
        refine ⟨k, _, w', hk, htodo', hplaces, rfl, rfl, ?_⟩
        rw [scatterAddApply_check hw hadd hwait (ps := (List.range n).map fun k => .phys (at_ k)) hp hdead, hword _ rfl]
        rw [State.homeAll_add hadd, hall, List.map_map]
        exact List.map_congr_left fun k hk => hres k (List.mem_range.mp hk)
      · have hne : w.places ≠ [] := by simpa [hp] using hn
        obtain ⟨k, w', hk, htodo', hplaces, hword⟩ := State.addWord_added (id := id) hasked hp htodo hlt hmov
        exact ⟨k, _, w', hk, htodo', hplaces, rfl, rfl,
          (scatterAddApply_checked hw hadd hwait hne hlost).trans (hword _ rfl)⟩
  · intro s gid row cause o r bs ho hr hset
    exact ⟨_, State.settleRow_eq ho hr hset, Tab.get?_put_same .., rfl⟩
  · intro s core k u gid od op o t g bs hop hdata hclose hkind ho hcore hticket hreq hlost ht hg hu hl hrow hdst h36 hpin
    obtain ⟨wgs, g', hland, hg', -, hin, hout⟩ := State.landUnit_scr (gid := gid) hg hu hl hrow hdst h36 hpin
    exact ⟨_, g', engineStep_gather hop hdata hclose hkind ho hcore hticket hreq hlost ht hland, Tab.get?_put_same ..,
      hg', rfl, hin, hout⟩
  · rintro s s1 core k gid op o t g hop hdata hclose harr hout ho hcore hticket hreq hset hlost ht rfl hg
    obtain ⟨g', hg', hst, hscr, hbars⟩ := State.endHeld_wg (core := core) (k := k) (st := o.status op.wrote)
      (err := !o.fails.isEmpty)
      (s := { s.landRest t gid with gops := (s.landRest t gid).gops.del gid }) hg harr hout
    refine ⟨_, g', gatherComplete_eq hop hdata hclose ho hcore hticket hreq hset hlost ht, State.finishOp_free .., ?_, hg',
      hst, hscr, State.finishOp_mem .., hbars, State.endHeld_launches (core := core) (k := k) hg harr hout⟩
    rw [State.endHeld_gops]
    exact Tab.get?_del_same ..
  · intro s gid od o t g ho hkind hpos _ hg hdst h36 hpin hrows
    obtain ⟨-, hmem, -, g', hg', -, hin, hout⟩ := State.landsTo_landRest ho hkind hpos hg hdst h36 hpin hrows
    exact ⟨g', hg', hmem, hin, hout⟩
  · intro s core k gid op g hop hgid hclose hdid hout hsent hlost hg
    obtain ⟨g', hg', hst, -, hbars⟩ := State.endHeld_wg (core := core) (k := k)
      (st := { bytes := 0, cause := 0, fails := [] }) (err := false) hg (by rw [hclose]; rfl) hout
    exact ⟨_, g', gatherComplete_close hop hgid hclose hdid hsent hlost, State.finishOp_free .., hg',
      State.finishOp_mem .., hst, hbars⟩
  · intro s req hrows hsrc
    have heq := gatherRequestReceive_eq hrows hsrc
    refine ⟨fun hk => ?_, fun hk => ?_⟩
    · rw [if_pos hk] at heq
      exact ⟨_, heq, State.foldl_ordHold_mem ..⟩
    · rw [if_neg hk] at heq
      refine ⟨_, heq, Tab.get?_put_same .., ?_, rfl⟩
      simp only [State.addWorks, List.zipIdx_map, List.map_map]
      rfl
  · intro s rep
    refine ⟨fun hnone => ?_, fun o parts => gatherReply_eq⟩
    change execGatherReply rep s = _
    rw [execGatherReply, hnone]
  · rintro s core k pkg die gid op o hop hdata ho hcore hticket hown hother ⟨r, hr, hpkg, hdie, hset⟩
    have hne : o.unanswered pkg die ≠ [] := List.ne_nil_of_mem (GOp.mem_unanswered.mpr ⟨hr, ⟨hpkg, hdie⟩, hset⟩)
    obtain ⟨o', ho', h⟩ := State.foldl_settleRow (o.unanswered pkg die) (cause := 3) (o := o) (gid := gid)
      (s := { s with gworks := s.gworks.filter fun w =>
        !((o.unanswered pkg die).any fun r => decide (w.2.for_ = .own gid r.1)) }) (by decide) ho
    refine ⟨_, o', gatherPositionTimeout_eq hop hdata ho hcore hticket hown hother hne, ho', fun key r hr hpkg hdie => ?_⟩
    obtain ⟨r', hr', hs, hf⟩ := h.rows key r hr
    have hkey (hset : r.settled = false) : key ∈ (o.unanswered pkg die).map (·.1) :=
      List.mem_map_of_mem (f := (·.1)) (GOp.mem_unanswered.mpr ⟨Tab.mem_of_get? hr, ⟨hpkg, hdie⟩, hset⟩)
    refine ⟨r', hr', hs ?_, fun hset => hf (hkey hset) hset⟩
    cases hset : r.settled with
    | true => exact .inl rfl
    | false => exact .inr (hkey hset)
  · rintro s m r hsrc rfl
    rw [scatterCloseArrive_eq hsrc]
    refine ⟨fun r' hr' hwaits => ?_, fun hcloses hrecv => ?_⟩
    · subst hr'
      exact congrArg _ (State.ordClose_waits hwaits)
    · obtain ⟨hround, hlen⟩ := State.ordClose_releases hcloses hrecv
      exact ⟨_, rfl, hround, hlen, State.ordClose_mem ..⟩
  · rintro s t f k hat hb hra hrb rfl hk hal
    refine ⟨fun op hop hwg hkind => ?_, fun hothers => ?_⟩
    · have hbusy := State.gstatBusy_of_runs hop hwg hkind
      rw [gstat_word hat hb hra hrb hk hal hbusy (.inr (.inl rfl)), gstatGives_busy]
    · have hbusy := State.gstatBusy_of_others hothers
      refine ⟨fun hnone => ?_, fun x hx => ⟨fun ha => ?_, fun p ha hp => ?_⟩⟩
      · rw [gstat_word hat hb hra hrb hk hal hbusy (.inl hnone), hnone, gstatGives_none]
      · rw [gstat_word hat hb hra hrb hk hal hbusy (.inr (.inr ha)), hx, gstatGives_held]
      · rcases hr : s.storePlaces t ((List.range 16).map fun j => (p j, toBytes (fld (faultMap x) (64 * j) 64) 8))
          with ⟨s1, t1⟩
        refine ⟨s1, t1, rfl, State.storePlaces_regs hr, ?_⟩
        rw [gstat_map hat hb hra hrb hk hal hbusy hx ha hp hr, gstatGives_held]
  · intro s t f b p hat hb hra hrb hh hp
    rcases hr : s.storePlaces t ((List.range b.shards.length).map fun j => (p j, toBytes (b.counters.getD j 0) 4))
      with ⟨s1, t1⟩
    refine ⟨s1, t1, rfl, State.storePlaces_regs hr, fun b' hb' => ?_⟩
    rw [hb']
    exact shcnt_eq hat hb hra hrb hh hp hr

end Sys2Proof.Machine
end
